-- ==== Sys2Proof/Word.lean ====
section
/-! DEFINITION. The word types of the engine: 32-bit register words (R1 of spec 00_scope.md and "Registers"), 64-bit Common Store
words (R323) and bytes. Registers are bit vectors; stamps, lengths and counts are natural numbers, offsets integers. -/

namespace Sys2Proof

/-- A 32-bit register value. -/
abbrev Word := BitVec 32

/-- A 64-bit word of the Common Store or of a Scrivener half. -/
abbrev DWord := BitVec 64

/-- A byte. -/
abbrev Byte := BitVec 8

end Sys2Proof
end

