-- ==== Sys2Proof/Syntax.lean ====
section
/-! DEFINITION. The commands of the engine: one constructor of `Instr` for each row of spec/opcode_table.json, with the row's operands.
An event that the engine meets from outside (an edge, a frame, a reading) carries what was met as operands. -/

namespace Sys2Proof

/-- A register initiator (Table 15-1). -/
inductive Init where
  | host
  | steward
  | sched
  deriving DecidableEq, Repr

/-- One of the flash's two image slots (R396, R399): its bytes from offset 0 on, beyond which the flash is erased, and what is true of the
firmware package in them, whose form the spec leaves to Nirgozon (R402; PRESUMED, log 12). -/
structure Machine.FlashSlot where
  bytes : List Nat := []
  /-- The package is whole and its vendor signature verifies under the key in the mask ROM. -/
  vendorOk : Bool := false
  /-- The package's version, for `GLB_FW_VERSION`. -/
  fwVersion : Nat := 0
  /-- Size D of the flash in bytes: 512 Mbit to 2 Gbit (R395, R396). -/
  flashBytes : Nat := 67108864
  deriving DecidableEq, Repr

/-- A flash programmed outside the engine: its two slots, and the bytes of the two boot control copies (Table 17-1). -/
structure Machine.FlashFit where
  slotA : Machine.FlashSlot := {}
  slotB : Machine.FlashSlot := {}
  ctl0 : List Nat := []
  ctl1 : List Nat := []
  deriving DecidableEq, Repr

/-- What DRAM bring-up has found of one DIMM, and how its training ended (R295, R296, R320). -/
structure DimmFacts where
  present : Bool := false
  /-- Capacity in MiB, and the serial number and manufacturer code of its SPD. -/
  sizeMb : Nat := 0
  serial : Nat := 0
  mfr : Nat := 0
  ranks : Nat := 1
  /-- Devices are eight bits wide; their density: 0 16 Gb, 1 24 Gb, 2 32 Gb. -/
  x8 : Bool := false
  density : Nat := 0
  /-- Data rate in MT/s the DIMM supports. -/
  speed : Nat := 4800
  /-- It is a DDR5 RDIMM the engine accepts otherwise. -/
  supported : Bool := true
  /-- The verification pattern passed with the cached delays (step 7 of Table 13-4, where they were loaded), and full training passed. -/
  verified : Bool := true
  trained : Bool := true
  /-- The delays that full training staged, by delay number. -/
  delays : List (Nat × Nat) := []
  deriving DecidableEq, Repr

/-- A change of the voltage across a `SIN` pair: its place in taps from the interval's start or the clock's edge at the ball, its channel
within the group, and the voltage from there on, in µV (R67, R75). -/
structure VoltStep where
  tap : Int
  ch : Nat
  uv : Int
  deriving DecidableEq, Repr

/-- What the odd member of a Steady pair computes for one sample, where a fault makes it differ (R135): the level at its start, the branch
taken (0xFF none), the branch's ACT and PULSE registers, its operations after combination, and the level after. Each operation names
kind (true timer), index, and RST, INC, START and STOP as bits 0 to 3. -/
structure OddSample where
  level : Nat
  branch : Nat
  act : Nat
  pulse : Nat
  ops : List (Bool × Nat × Nat)
  after : Nat
  deriving DecidableEq, Repr

/-- A codeword that a sweep read back, where it is not the pattern: which setting of the sweep and which codeword of it, counted from 0,
and the bits read, beat by beat, 80 lane bits a beat (R297, R318). -/
structure TrnRead where
  setting : Nat
  codeword : Nat
  bits : Nat
  deriving DecidableEq, Repr

/-- One access of a Common Store master to one word (R329, R331): 0 plain write, 1 set, 2 clear, 3 read. -/
structure CstAccess where
  master : Nat
  word : Nat
  kind : Nat
  data : BitVec 64 := 0
  /-- Bytes the access covers, bit i for byte i. -/
  mask : Nat := 255
  /-- Bits the environment has flipped in the stored word since its last access, as a mask: data in [63:0], check bits in [71:64] (R335,
  R336, R339). -/
  upset : Nat := 0
  deriving DecidableEq, Repr

/-- One DW of a BAR2 request with its byte enables (R330). -/
structure Dw where
  data : BitVec 32
  enables : Nat
  deriving DecidableEq, Repr

/-- The commands, in the order of spec/opcode_table.json. -/
inductive Instr where
  | pornAssert
  | pornRelease (fitted : Option Machine.FlashFit)
  | warmReset
  | imageVerifyDone (flashOk : Bool)
  | railUp (k status : Nat)
  | railTimeout (k : Nat)
  | dramTrainingDone (dimms : List DimmFacts) (cacheOk : Bool)
  | marchTestDone (fail chk : BitVec 64)
  | imgWrite (addr : Nat) (vals : List Word)
  | imgGwrite (addr : Nat) (val : Word)
  | imgFence
  | imgFill (waddr count : Nat) (pattern : Bool) (data : List DWord)
  | imgBlob (kind target ofs : Nat) (data : List Word)
  | imgWait (addr : Nat) (mask val : Word) (timeout : Nat)
  | imgWaitMet
  | startWaitTimeout
  | imgSched (index : Nat) (words : List DWord)
  | imgEnd
  | startFailReset
  | trialConfirmTimeout
  | bar0UnalignedAccess (init : Init) (write : Bool) (addr size : Nat) (val : Word)
  | registerWrite (init : Init) (addr : Nat) (val : Word)
  | woWrite (init : Init) (addr : Nat) (val : Word)
  | stampTripleRead (init : Init) (addr : Nat)
  | stampTripleWrite (init : Init) (addr : Nat) (val : Word)
  | counterValueWrite (init : Init) (addr : Nat) (val : Word)
  | statusRegisterRead (init : Init) (n : Nat)
  | statusClear (init : Init) (n : Nat) (val : Word)
  | msixVectorUnmask (v : Nat)
  | guardFirstWrite (init : Init) (addr : Nat) (val : Word)
  | guardMirrorWrite (init : Init) (addr : Nat) (val : Word)
  | guardTimeout (init : Init)
  | fence (init : Init)
  | fenceRead (init : Init)
  | registerAudit (upsets : List (Nat × Word))
  | epochWord (start : Bool) (edges : List Nat)
  | irigFrame (onTime : Int) (high : List Nat)
  | ppsEdge (rise : Bool) (age : Nat) (srcOfs : Int)
  | epochHoldover
  | srcChange (init : Init) (val : Word)
  | leapSecond
  | stepApply
  | slewComplete
  | scheduleFire (i : Nat)
  | schLoad (init : Init) (all : Bool) (idx : Nat)
  | scheduleEnable (init : Init) (val : Word)
  | scheduleWake (i : Nat)
  | sampleDelivered (g : Nat) (wave : List VoltStep) (age : Nat)
  | cqEdgeAccepted (g pin : Nat) (rise : Bool) (levels : Nat) (wave : List VoltStep) (age : Nat)
  | overrunGapEnd (g : Nat)
  | detcapRearm (init : Init) (n : Nat) (val : Word)
  | analogSettingWrite (init : Init) (addr : Nat) (val : Word)
  | lgApply (init : Init) (n : Nat)
  | lgCal (init : Init) (n : Nat)
  | calEnd (n : Nat) (edges : List (Option Nat))
  | trsApply (init : Init)
  | sampleEvaluated (sq trigLast trigRise trigFall : Nat) (odd : Option OddSample)
  | xtLineExpire (n : Nat)
  | trigPulseEnd (n : Nat)
  | postSpanEnd (sq : Nat)
  | seqHoldInstant
  | holdCmd (init : Init) (p : Nat)
  | noticeHoldInstant
  | noticeRepeat
  | arm (init : Init) (p : Nat)
  | disarm (init : Init) (p : Nat)
  | prtMark (init : Init) (p code : Nat)
  | free (init : Init) (p slot : Nat)
  | autoFree (p : Nat)
  | codecBlockStart (n : Nat)
  | codecBlockDone (n : Nat) (upset : Option Nat)
  | fulInject (init : Init) (n : Nat)
  | blockAllocate (g : Nat)
  | segmentCommit (p slot : Nat)
  | segmentPushRetry (p : Nat)
  | carPush (init : Init) (q prio : Nat)
  | carPop (init : Init) (q : Nat)
  | carRelease (init : Init) (q handle : Nat)
  | carMark (init : Init) (q : Nat)
  | carRewind (init : Init) (q : Nat)
  | carApply (init : Init)
  | queueStall (q : Nat)
  | dmaStart (init : Init)
  | dmaStop (init : Init)
  | dmaDescriptorPop (bufs : List (Nat × Nat))
  | dmaStreamComplete
  | dmaBufferPost (init : Init) (pi : Word) (bufs : List (Nat × Nat))
  | dmaCompletionFree (init : Init) (ci : Word)
  | pcieConventionalReset
  | pcieLink (speed width : Nat) (up : Bool)
  | ethFrameReceived (port : Nat) (frame : List Nat) (fecOk : Bool)
  | ethFrameTransmit (port : Nat)
  | ethLink (port : Nat) (up : Bool)
  | strStart (init : Init) (n : Nat)
  | strStop (init : Init) (n : Nat)
  | streamerPop (n : Nat)
  | streamerTimeout (n : Nat)
  | eventFrameSend
  | eventFrameRepeat
  | clkApply (init : Init)
  | clkStep (init : Init)
  | stepDone
  | ckoApply (init : Init)
  | ckoPhaseWrite (init : Init) (m : Nat) (val : Word)
  | synLocked (errs : List (Nat × Nat)) (ga oa : Nat)
  | refLoss (cause meas : Nat)
  | synUnlock (aligner : Option Nat) (errs : List (Nat × Nat))
  | refReturn (hz : Nat)
  | coastMaxExpire
  | mcSrEnter (init : Init)
  | mcSrExit (init : Init)
  | srCommitPoint
  | srResidencyEnd
  | srExitDone
  | mcTrain (init : Init) (ch : Nat)
  | mcSweep (init : Init) (n : Nat)
  | trnDone (n : Nat) (reads : List TrnRead)
  | readoutAdmit (req bytes addr : Nat) (engine : Bool)
  | dramCommand (ch : Nat)
  | dramReadReturn (ch addr req source : Nat) (errs : List (Nat × Nat))
  | refreshDue (ch rank : Nat)
  | dramTempPoll (ch : Nat) (temp : Int) (mr4 : List Nat)
  | patrolScrubRead (ch : Nat) (errs : List (Nat × Nat))
  | dqsDriftCorrect (ch : Nat) (dir : Int)
  | bar2Write (ofs : Nat) (dws : List Dw)
  | bar2Read (ofs : Nat) (dws : List Nat)
  | cstBankAccess (bank : Nat) (accs : List CstAccess)
  | cstScrub (bank upset : Nat)
  | evtRaise
  | scrivenerWrite (bad : Option Nat)
  | scvExport (init : Init)
  | scvExported (bad : Option (Bool × Nat))
  | scvThaw (init : Init)
  | scvLoad (init : Init) (all : Bool) (list : Nat)
  | lwClear (init : Init)
  | scvWindowRead (init : Init) (hi : Bool) (bad : Bool)
  | nvProgram (init : Init)
  | nvVerify (init : Init)
  | nvVerifyDone (flashOk vendorOk : Bool) (fwVersion : Nat)
  | nvPending (init : Init)
  | nvConfirm (init : Init)
  | mailboxGo (init : Init) (val : Word)
  | mailboxServe (reply : List Nat)
  | mailboxResetFire
  | lockstepFault
  | stwSramError (corrected : Bool)
  | watchdogExpire
  | autoReset
  | autoCntClear
  | aonClear (init : Init)
  | dieSensorPoll (temps : List Int)
  | hwThermalTrip (sensor : Nat) (temp : Int)
  | railMonitorPoll (mv : List Nat)
  | pmbusPoll (k status : Nat)
  | pwrGo (init : Init) (target : Nat)
  | powerStepDone
  | pwrWake (src : Nat)
  | powerExitDone
  | pcieConfigWrite (bme msixEn fmask d3 : Bool)
  | refreshWindowStart (ch : Nat)
  | ckoPpsPulseStart (m : Nat)
  | ckoPpsPulseEnd (m : Nat)
  | nvEraseDone
  | nvBufferDrain (n : Nat)
  deriving DecidableEq, Repr

end Sys2Proof
end

