-- ==== Sys2Proof/Decode.lean ====
section
/-! DEFINITION. The commands a table word spells. No row of spec/opcode_table.json gives bits: the commands reach the engine as
register accesses, frames, edges and internal events, not as encoded words, so no word spells one. -/

namespace Sys2Proof

/-- The command that an `nbits`-bit word spells by the table's bits: none, for the table gives no row any bits. (DESIGN CHOICE, log 13) -/
def decodeTableWord (_nbits _w : Nat) : Option Instr := none

end Sys2Proof
end

