-- ==== Sys2Proof/Config.lean ====
section
/-! DEFINITION. What one implementation fixes and the spec leaves open: opaque constants, with no body a proof could look into. -/

namespace Sys2Proof

/-- The n-th value the engine takes where the spec leaves a value open (DESIGN CHOICE, log 3). -/
opaque Config.freeWord : Nat → BitVec 32

/-- `GLB_DIE_ID`: fused at manufacture (Table 20-3); the spec gives it no value (DESIGN CHOICE, log 4). -/
opaque Config.dieId : BitVec 64

/-- `HIF_ID` VENDOR: the spec gives the field no value (DESIGN CHOICE, log 4). -/
opaque Config.vendorId : BitVec 16

/-- The rate at which the synthesiser word moves, one less, in 2^-32 ppm per µs: the spec gives only its greatest value, 1 ppm per µs (R277,
R284; DESIGN CHOICE, log 3). -/
opaque Config.rampRate : BitVec 32

/-- The dither generator's n-th value after a load: the spec says only that equal seeds give equal sequences (R275; DESIGN CHOICE, log 3). -/
opaque Config.ditherSeq : BitVec 32 → Nat → BitVec 32

/-- Output aligner m moves upward where both directions are equally short (R291; DESIGN CHOICE, log 3). -/
opaque Config.ckoTie : Nat → BitVec 1

/-- The fixed delay, in 2^-64 s, of a `TRIG` pulse's leading edge after the instant of the sample that decided it, for f_sc as numerator and
denominator in Hz and DIV: the spec bounds it and gives no value (R116; DESIGN CHOICE, log 3). -/
opaque Config.trigDelay : Nat → Nat → Nat → BitVec 64

/-- OLDEST of a lane group that has written blocks and retains none in its run: the spec gives it no value (R138; DESIGN CHOICE, log 3). -/
opaque Config.oldestOpen : Nat → BitVec 80

/-- The byte at a capture address in a codeword whose error over four or more lanes went undetected: the spec guarantees nothing of it (R298;
DESIGN CHOICE, log 3). -/
opaque Config.dramWild : Nat → BitVec 8

/-- The 256 check bits of a codeword with the given 1,024 data bits, 16 to a beat: the spec names the code and does not write it out (R298;
DESIGN CHOICE, log 3). -/
opaque Config.checkBits : Nat → BitVec 256

/-- The 8 check bits that the Common Store's SECDED code gives a data word that is not zero: the spec does not write the code out (R335;
DESIGN CHOICE, log 3). -/
opaque Config.secded : BitVec 64 → BitVec 8

/-- The byte of DRAM at a capture address that nothing has written: the spec gives it no value (DESIGN CHOICE, log 3). -/
opaque Config.dramInit : Nat → BitVec 8

/-- The flash on the `NV_` pins is an octal device: `STW_BOOT_STAT` OCTAL (R395); the spec leaves the board's choice open (DESIGN CHOICE, log 4). -/
opaque Config.flashOctal : BitVec 1

end Sys2Proof
end

