-- ==== Sys2Proof/Machine/Bits.lean ====
section
/-! DEFINITION. Bit fields, byte order (R2), signed readings and the CRCs the spec names. -/

namespace Sys2Proof.Machine

/-- Bits `[lo + w - 1 : lo]` of `x` (R2). -/
def bits (x lo w : Nat) : Nat := x / 2 ^ lo % 2 ^ w

/-- `x` with bits `[lo + w - 1 : lo]` replaced by the low `w` bits of `v`. -/
def putBits (x lo w v : Nat) : Nat :=
  x - bits x lo w * 2 ^ lo + v % 2 ^ w * 2 ^ lo

/-- Bit `i` of `x`. -/
def bit (x i : Nat) : Bool := decide (x / 2 ^ i % 2 = 1)

/-- `x` read as a signed number of `w` bits, two's complement. -/
def signedOf (w x : Nat) : Int := if x % 2 ^ w < 2 ^ (w - 1) then (x % 2 ^ w : Int) else (x % 2 ^ w : Int) - 2 ^ w

/-- A signed number as `w` bits, two's complement. -/
def unsignedOf (w : Nat) (i : Int) : Nat := (i % (2 ^ w : Int)).toNat

/-- The distinct members of a list, each in the place of its last occurrence. -/
def distinct {α : Type} [DecidableEq α] (l : List α) : List α := l.foldr (fun a acc => if a ∈ acc then acc else a :: acc) []

/-- `n` bytes of `x`, little-endian (R2). -/
def leBytes : Nat → Nat → List Nat
  | 0, _ => []
  | n + 1, x => x % 256 :: leBytes n (x / 256)

/-- `n` bytes of `x`, big-endian (network order). -/
def beBytes (n x : Nat) : List Nat := (leBytes n x).reverse

/-- The little-endian number a byte list spells. -/
def leNat : List Nat → Nat
  | [] => 0
  | b :: bs => b % 256 + 256 * leNat bs

/-- The big-endian number a byte list spells. -/
def beNat (l : List Nat) : Nat := leNat l.reverse

/-- `n` zero bytes. -/
def zeros (n : Nat) : List Nat := List.replicate n 0

/-- Bytes `[ofs, ofs + n)` of a list, zero beyond its end. -/
def slice (l : List Nat) (ofs n : Nat) : List Nat :=
  let t := (l.drop ofs).take n
  t ++ zeros (n - t.length)

/-- The little-endian field of `n` bytes at `ofs`. -/
def leAt (l : List Nat) (ofs n : Nat) : Nat := leNat (slice l ofs n)

/-- The big-endian field of `n` bytes at `ofs`. -/
def beAt (l : List Nat) (ofs n : Nat) : Nat := beNat (slice l ofs n)

/-- `l` padded with zeros to a multiple of `k` bytes. -/
def padTo (k : Nat) (l : List Nat) : List Nat := l ++ zeros ((k - l.length % k) % k)

/-- The little-endian 32-bit words a byte list spells. -/
def leWords : List Nat → List Nat
  | a :: b :: c :: d :: rest => leNat [a, b, c, d] :: leWords rest
  | [] => []
  | l => [leNat l]

/-- The little-endian bytes of a list of 32-bit words. -/
def wordBytes (l : List Nat) : List Nat := l.flatMap (leBytes 4)

/-- The least number of `l`, if it has one. -/
def minNat : List Nat → Option Nat
  | [] => none
  | x :: xs => match minNat xs with
    | none => some x
    | some y => some (min x y)

/-- A count that stops at the greatest value of `w` bits. -/
def satAdd (w x k : Nat) : Nat := min (x + k) (2 ^ w - 1)

/-- One bit of a CRC register that shifts left (polynomial `poly`, `w` bits, input bit `b`). -/
def crcStep (w poly reg : Nat) (b : Bool) : Nat :=
  let top := bit reg (w - 1)
  let sh := reg * 2 % 2 ^ w
  if top != b then sh ^^^ poly else sh

/-- The eight bits of a byte, most significant first. -/
def byteBits (b : Nat) : List Bool := [bit b 7, bit b 6, bit b 5, bit b 4, bit b 3, bit b 2, bit b 1, bit b 0]

/-- The epoch word's CRC (R36): polynomial 0x1021, initial 0xFFFF, no reflection, no final XOR, over bytes in wire order. -/
def crc16 (bytes : List Nat) : Nat :=
  bytes.foldl (fun r b => (byteBits b).foldl (fun r x => crcStep 16 0x1021 r x) r) 0xffff

/-- One byte of the reflected CRC-32C register (reflected polynomial 0x82F6_3B78). -/
def crc32cByte (reg b : Nat) : Nat :=
  let f := fun (r : Nat) => if r % 2 = 1 then (r / 2) ^^^ 0x82f63b78 else r / 2
  f (f (f (f (f (f (f (f (reg ^^^ (b % 256)))))))))

/-- CRC-32C of a byte list (R201). -/
def crc32c (bytes : List Nat) : Nat := (bytes.foldl crc32cByte 0xffffffff) ^^^ 0xffffffff

end Sys2Proof.Machine
end

