-- ==== Sys2Proof/Machine/Names.lean ====
section
/-! DEFINITION. The BAR0 address of every register by its name (spec 20_register_map.md, Tables 20-1 to 20-7) in namespace R, and the
place of every named field of a register that holds more than one (the field tables of each chapter) in namespace F. -/

namespace Sys2Proof.Machine

/-- A field of a register: its lowest bit and its width. -/
structure Fld where
  lo : Nat
  w : Nat
  deriving DecidableEq, Repr

def R.GLB_PROFILE : Nat := 0x40
def R.GLB_PROFILE_EFF : Nat := 0x44
def R.EPC_CTRL : Nat := 0x30000
def R.EPC_STAT : Nat := 0x30004
def R.EPC_NOW_L : Nat := 0x30010
def R.EPC_NOW_M : Nat := 0x30014
def R.EPC_NOW_H : Nat := 0x30018
def R.EPC_SET_L : Nat := 0x30020
def R.EPC_SET_M : Nat := 0x30024
def R.EPC_SET_H : Nat := 0x30028
def R.EPC_PPS_DLY : Nat := 0x30030
def R.EPC_UTC_OFS : Nat := 0x30034
def R.EPC_LEAP_L : Nat := 0x30038
def R.EPC_LEAP_H : Nat := 0x3003c
def R.EPC_IRIG_YEAR : Nat := 0x30040
def R.EPC_SEAM_CNT : Nat := 0x30050
def R.EPC_SEAM_OFS_L : Nat := 0x30054
def R.EPC_SEAM_OFS_H : Nat := 0x30058
def R.EPC_WORD_ERR : Nat := 0x30070
def R.SCH_CTRL : Nat := 0x7c0000
def R.SCH_CMD : Nat := 0x7c0004
def R.SCH_CMDSTAT : Nat := 0x7c0008
def R.SCH_FIRED : Nat := 0x7c000c
def R.SCH_LATE : Nat := 0x7c0010
def R.LG_CFG (n : Nat) : Nat := 0x40000 + 0x10000 * n
def R.LG_STATE (n : Nat) : Nat := 0x40004 + 0x10000 * n
def R.LG_CMD (n : Nat) : Nat := 0x40010 + 0x10000 * n
def R.LG_CMDSTAT (n : Nat) : Nat := 0x40014 + 0x10000 * n
def R.LG_STAT (n : Nat) : Nat := 0x40018 + 0x10000 * n
def R.LG_STAGE (n : Nat) : Nat := 0x4001c + 0x10000 * n
def R.LG_OVR_CNT (n : Nat) : Nat := 0x40020 + 0x10000 * n
def R.LG_OVR_LOST (n : Nat) : Nat := 0x40024 + 0x10000 * n
def R.LG_OVR_LAST_L (n : Nat) : Nat := 0x40030 + 0x10000 * n
def R.LG_OVR_LAST_M (n : Nat) : Nat := 0x40034 + 0x10000 * n
def R.LG_OVR_LAST_H (n : Nat) : Nat := 0x40038 + 0x10000 * n
def R.LG_CQ_OVR (n : Nat) : Nat := 0x40040 + 0x10000 * n
def R.LG_CH_CFG (n i : Nat) : Nat := 0x40100 + 0x10000 * n + 0x4 * i
def R.LG_CH_CAL (n i : Nat) : Nat := 0x40200 + 0x10000 * n + 0x4 * i
def R.TRS_CMD : Nat := 0x200000
def R.TRS_CMDSTAT : Nat := 0x200004
def R.TRS_XT_NOW : Nat := 0x203080
def R.TRS_TRIG_IN : Nat := 0x203180
def R.TRS_WR_CTRL (i : Nat) : Nat := 0x201000 + 0x20 * i
def R.TRS_WR_MASKA (i : Nat) : Nat := 0x201004 + 0x20 * i
def R.TRS_WR_VALA (i : Nat) : Nat := 0x201008 + 0x20 * i
def R.TRS_WR_MASKB (i : Nat) : Nat := 0x20100c + 0x20 * i
def R.TRS_WR_VALB (i : Nat) : Nat := 0x201010 + 0x20 * i
def R.TRS_RC_CTRL (i : Nat) : Nat := 0x201800 + 0x10 * i
def R.TRS_RC_LO (i : Nat) : Nat := 0x201804 + 0x10 * i
def R.TRS_RC_HI (i : Nat) : Nat := 0x201808 + 0x10 * i
def R.TRS_CT_CFG (i : Nat) : Nat := 0x202000 + 0x20 * i
def R.TRS_CT_LIM_L (i : Nat) : Nat := 0x202004 + 0x20 * i
def R.TRS_CT_LIM_H (i : Nat) : Nat := 0x202008 + 0x20 * i
def R.TRS_CT_INIT_L (i : Nat) : Nat := 0x20200c + 0x20 * i
def R.TRS_CT_INIT_H (i : Nat) : Nat := 0x202010 + 0x20 * i
def R.TRS_CT_VAL_L (i : Nat) : Nat := 0x202014 + 0x20 * i
def R.TRS_CT_VAL_H (i : Nat) : Nat := 0x202018 + 0x20 * i
def R.TRS_TM_CFG (i : Nat) : Nat := 0x202800 + 0x40 * i
def R.TRS_TM_LIM_L (i : Nat) : Nat := 0x202804 + 0x40 * i
def R.TRS_TM_LIM_H (i : Nat) : Nat := 0x202808 + 0x40 * i
def R.TRS_TM_AT_L (i : Nat) : Nat := 0x202810 + 0x40 * i
def R.TRS_TM_AT_M (i : Nat) : Nat := 0x202814 + 0x40 * i
def R.TRS_TM_AT_H (i : Nat) : Nat := 0x202818 + 0x40 * i
def R.TRS_TM_LEN_L (i : Nat) : Nat := 0x20281c + 0x40 * i
def R.TRS_TM_LEN_H (i : Nat) : Nat := 0x202820 + 0x40 * i
def R.TRS_TM_VAL_L (i : Nat) : Nat := 0x202824 + 0x40 * i
def R.TRS_TM_VAL_H (i : Nat) : Nat := 0x202828 + 0x40 * i
def R.TRS_XT_CFG (i : Nat) : Nat := 0x203000 + 0x4 * i
def R.TRS_TRIG_CFG (i : Nat) : Nat := 0x203100 + 0x4 * i
def R.TRS_DET_CFG (i : Nat) : Nat := 0x204000 + 0x10 * i
def R.TRS_DET_WA (i : Nat) : Nat := 0x204004 + 0x10 * i
def R.TRS_DET_WB (i : Nat) : Nat := 0x204008 + 0x10 * i
def R.TRS_DETCAP_L (i : Nat) : Nat := 0x205000 + 0x20 * i
def R.TRS_DETCAP_M (i : Nat) : Nat := 0x205004 + 0x20 * i
def R.TRS_DETCAP_H (i : Nat) : Nat := 0x205008 + 0x20 * i
def R.TRS_DETCAP_CH (i : Nat) : Nat := 0x20500c + 0x20 * i
def R.SQ_CTRL (n : Nat) : Nat := 0x100000 + 0x10000 * n
def R.SQ_STAT (n : Nat) : Nat := 0x100004 + 0x10000 * n
def R.SQ_CHK (n : Nat) : Nat := 0x100008 + 0x10000 * n
def R.SQ_POST_L (n : Nat) : Nat := 0x100010 + 0x10000 * n
def R.SQ_POST_H (n : Nat) : Nat := 0x100014 + 0x10000 * n
def R.SQ_TRIG_L (n : Nat) : Nat := 0x100020 + 0x10000 * n
def R.SQ_TRIG_M (n : Nat) : Nat := 0x100024 + 0x10000 * n
def R.SQ_TRIG_H (n : Nat) : Nat := 0x100028 + 0x10000 * n
def R.SQ_DEC_CNT (n : Nat) : Nat := 0x100030 + 0x10000 * n
def R.SQ_FRZ_IGN (n : Nat) : Nat := 0x100034 + 0x10000 * n
def R.SQ_TS (n i : Nat) : Nat := 0x100100 + 0x10000 * n + 0x4 * i
def R.SQ_WIN_START_L (n i : Nat) : Nat := 0x100200 + 0x10000 * n + 0x10 * i
def R.SQ_WIN_START_H (n i : Nat) : Nat := 0x100204 + 0x10000 * n + 0x10 * i
def R.SQ_WIN_END_L (n i : Nat) : Nat := 0x100208 + 0x10000 * n + 0x10 * i
def R.SQ_WIN_END_H (n i : Nat) : Nat := 0x10020c + 0x10000 * n + 0x10 * i
def R.SQ_B_COND (n i : Nat) : Nat := 0x101000 + 0x10000 * n + 0x10 * i
def R.SQ_B_ACT (n i : Nat) : Nat := 0x101004 + 0x10000 * n + 0x10 * i
def R.SQ_B_OPS (n i : Nat) : Nat := 0x101008 + 0x10000 * n + 0x10 * i
def R.SQ_B_PULSE (n i : Nat) : Nat := 0x10100c + 0x10000 * n + 0x10 * i
def R.PRT_HOLD_CFG (i : Nat) : Nat := 0x300800 + 0x1000 * i
def R.PRT_HOLD_START_L (i : Nat) : Nat := 0x300810 + 0x1000 * i
def R.PRT_HOLD_START_M (i : Nat) : Nat := 0x300814 + 0x1000 * i
def R.PRT_HOLD_START_H (i : Nat) : Nat := 0x300818 + 0x1000 * i
def R.PRT_HOLD_END_L (i : Nat) : Nat := 0x300820 + 0x1000 * i
def R.PRT_HOLD_END_M (i : Nat) : Nat := 0x300824 + 0x1000 * i
def R.PRT_HOLD_END_H (i : Nat) : Nat := 0x300828 + 0x1000 * i
def R.PRT_HOLD_CMD (i : Nat) : Nat := 0x300830 + 0x1000 * i
def R.PRT_HOLD_STAT (i : Nat) : Nat := 0x300840 + 0x1000 * i
def R.PRT_HELD_L (i : Nat) : Nat := 0x300848 + 0x1000 * i
def R.PRT_HELD_H (i : Nat) : Nat := 0x30084c + 0x1000 * i
def R.PRT_BUDGET_L (i : Nat) : Nat := 0x300850 + 0x1000 * i
def R.PRT_BUDGET_H (i : Nat) : Nat := 0x300854 + 0x1000 * i
def R.PRT_OLDEST_L (i : Nat) : Nat := 0x300860 + 0x1000 * i
def R.PRT_OLDEST_M (i : Nat) : Nat := 0x300864 + 0x1000 * i
def R.PRT_OLDEST_H (i : Nat) : Nat := 0x300868 + 0x1000 * i
def R.PRT_RET_FULL (i : Nat) : Nat := 0x300870 + 0x1000 * i
def R.PRT_RET_MIN (i : Nat) : Nat := 0x300874 + 0x1000 * i
def R.PRT_HOLD_LAST (i : Nat) : Nat := 0x300880 + 0x1000 * i
def R.PRT_HOLD_CNT (i : Nat) : Nat := 0x300884 + 0x1000 * i
def R.PRT_HOLD_REJ (i : Nat) : Nat := 0x300888 + 0x1000 * i
def R.PRT_HOLD_CLIP (i : Nat) : Nat := 0x30088c + 0x1000 * i
def R.PRT_HOLD_MRG (i : Nat) : Nat := 0x300890 + 0x1000 * i
def R.ORT_CTRL : Nat := 0x700000
def R.ORT_ENGINE_ID_L : Nat := 0x700008
def R.ORT_ENGINE_ID_H : Nat := 0x70000c
def R.ORT_FRESH : Nat := 0x700010
def R.ORT_NTC_TX : Nat := 0x700020
def R.ORT_NTC_DROP : Nat := 0x700024
def R.ORT_NTC_UNK : Nat := 0x700028
def R.ORT_PS_CTRL (i : Nat) : Nat := 0x701000 + 0x80 * i
def R.ORT_PS_TXPART (i : Nat) : Nat := 0x701004 + 0x80 * i
def R.ORT_PS_ID_L (i : Nat) : Nat := 0x701008 + 0x80 * i
def R.ORT_PS_ID_H (i : Nat) : Nat := 0x70100c + 0x80 * i
def R.ORT_PS_IP (i : Nat) : Nat := 0x701010 + 0x80 * i
def R.ORT_PS_UDP (i : Nat) : Nat := 0x701014 + 0x80 * i
def R.ORT_PS_NH_L (i : Nat) : Nat := 0x701018 + 0x80 * i
def R.ORT_PS_NH_H (i : Nat) : Nat := 0x70101c + 0x80 * i
def R.ORT_PS_KEY (i j : Nat) : Nat := 0x701020 + 0x80 * i + 4 * j
def R.ORT_PS_SEQ_TX (i : Nat) : Nat := 0x701040 + 0x80 * i
def R.ORT_PS_SEQ_RX (i : Nat) : Nat := 0x701044 + 0x80 * i
def R.ORT_PS_LAST_L (i : Nat) : Nat := 0x701048 + 0x80 * i
def R.ORT_PS_LAST_M (i : Nat) : Nat := 0x70104c + 0x80 * i
def R.ORT_PS_LAST_H (i : Nat) : Nat := 0x701050 + 0x80 * i
def R.ORT_PS_RX_OK (i : Nat) : Nat := 0x701054 + 0x80 * i
def R.ORT_PS_RX_REJ (i : Nat) : Nat := 0x701058 + 0x80 * i
def R.ORT_PS_RX_DUP (i : Nat) : Nat := 0x70105c + 0x80 * i
def R.ORT_PS_REJ_LAST (i : Nat) : Nat := 0x701060 + 0x80 * i
def R.PRT_CFG (i : Nat) : Nat := 0x300000 + 0x1000 * i
def R.PRT_STAT (i : Nat) : Nat := 0x300004 + 0x1000 * i
def R.PRT_CMD (i : Nat) : Nat := 0x300008 + 0x1000 * i
def R.PRT_CMDSTAT (i : Nat) : Nat := 0x30000c + 0x1000 * i
def R.PRT_RING_BASE (i : Nat) : Nat := 0x300010 + 0x1000 * i
def R.PRT_RING_SIZE (i : Nat) : Nat := 0x300014 + 0x1000 * i
def R.PRT_SEG_BASE (i : Nat) : Nat := 0x300018 + 0x1000 * i
def R.PRT_SEG_SIZE (i : Nat) : Nat := 0x30001c + 0x1000 * i
def R.PRT_PRE_L (i : Nat) : Nat := 0x300020 + 0x1000 * i
def R.PRT_PRE_H (i : Nat) : Nat := 0x300024 + 0x1000 * i
def R.PRT_POSTMAX_L (i : Nat) : Nat := 0x300028 + 0x1000 * i
def R.PRT_POSTMAX_H (i : Nat) : Nat := 0x30002c + 0x1000 * i
def R.PRT_SEG_NO (i : Nat) : Nat := 0x300030 + 0x1000 * i
def R.PRT_LIVE0 (i : Nat) : Nat := 0x300034 + 0x1000 * i
def R.PRT_LIVE1 (i : Nat) : Nat := 0x300038 + 0x1000 * i
def R.PRT_LIVE2 (i : Nat) : Nat := 0x30003c + 0x1000 * i
def R.PRT_CAP (i : Nat) : Nat := 0x300f00 + 0x1000 * i
def R.FUL_CTRL (n : Nat) : Nat := 0x280000 + 0x10000 * n
def R.FUL_CMD (n : Nat) : Nat := 0x280004 + 0x10000 * n
def R.FUL_CMDSTAT (n : Nat) : Nat := 0x280008 + 0x10000 * n
def R.FUL_STAT (n : Nat) : Nat := 0x28000c + 0x10000 * n
def R.FUL_BLOCKS (n : Nat) : Nat := 0x280010 + 0x10000 * n
def R.FUL_RAW (n : Nat) : Nat := 0x280014 + 0x10000 * n
def R.FUL_VF (n : Nat) : Nat := 0x280018 + 0x10000 * n
def R.FUL_STALL (n : Nat) : Nat := 0x28001c + 0x10000 * n
def R.FUL_OUT_L (n : Nat) : Nat := 0x280020 + 0x10000 * n
def R.FUL_OUT_H (n : Nat) : Nat := 0x280024 + 0x10000 * n
def R.FUL_VF_LAST_L (n : Nat) : Nat := 0x280030 + 0x10000 * n
def R.FUL_VF_LAST_M (n : Nat) : Nat := 0x280034 + 0x10000 * n
def R.FUL_VF_LAST_H (n : Nat) : Nat := 0x280038 + 0x10000 * n
def R.FUL_VF_OFS (n : Nat) : Nat := 0x28003c + 0x10000 * n
def R.CAR_CTRL : Nat := 0x380000
def R.CAR_CMD : Nat := 0x380004
def R.CAR_CMDSTAT : Nat := 0x380008
def R.CAR_FREE : Nat := 0x38000c
def R.CAR_Q_CFG (i : Nat) : Nat := 0x381000 + 0x100 * i
def R.CAR_Q_STALL (i : Nat) : Nat := 0x381004 + 0x100 * i
def R.CAR_Q_CMD (i : Nat) : Nat := 0x381008 + 0x100 * i
def R.CAR_Q_CMDSTAT (i : Nat) : Nat := 0x38100c + 0x100 * i
def R.CAR_Q_STAT (i : Nat) : Nat := 0x381010 + 0x100 * i
def R.CAR_Q_POPSTAT (i : Nat) : Nat := 0x381014 + 0x100 * i
def R.CAR_Q_RELH (i : Nat) : Nat := 0x381018 + 0x100 * i
def R.CAR_Q_MARKNO (i : Nat) : Nat := 0x38101c + 0x100 * i
def R.CAR_Q_IN (i j : Nat) : Nat := 0x381020 + 0x100 * i + 4 * j
def R.CAR_Q_OUT (i j : Nat) : Nat := 0x381040 + 0x100 * i + 4 * j
def R.CAR_Q_PUSHED (i : Nat) : Nat := 0x381060 + 0x100 * i
def R.CAR_Q_POPPED (i : Nat) : Nat := 0x381064 + 0x100 * i
def R.CAR_Q_RELEASED (i : Nat) : Nat := 0x381068 + 0x100 * i
def R.CAR_Q_REFUSED (i : Nat) : Nat := 0x38106c + 0x100 * i
def R.CAR_Q_REWOUND (i : Nat) : Nat := 0x381070 + 0x100 * i
def R.CAR_Q_POPNO (i : Nat) : Nat := 0x381074 + 0x100 * i
def R.HIF_ID : Nat := 0x600000
def R.HIF_LINK : Nat := 0x600004
def R.HIF_DMA_CTRL : Nat := 0x600100
def R.HIF_DMA_CMD : Nat := 0x600104
def R.HIF_DMA_CMDSTAT : Nat := 0x600108
def R.HIF_DMA_STAT : Nat := 0x60010c
def R.HIF_DMA_BUF_BASE_L : Nat := 0x600110
def R.HIF_DMA_BUF_BASE_H : Nat := 0x600114
def R.HIF_DMA_RING : Nat := 0x600118
def R.HIF_DMA_BUF_PI : Nat := 0x60011c
def R.HIF_DMA_BUF_CI : Nat := 0x600120
def R.HIF_DMA_CPL_BASE_L : Nat := 0x600130
def R.HIF_DMA_CPL_BASE_H : Nat := 0x600134
def R.HIF_DMA_CPL_PI : Nat := 0x60013c
def R.HIF_DMA_CPL_CI : Nat := 0x600140
def R.HIF_DMA_SEGS : Nat := 0x600150
def R.HIF_DMA_BYTES_L : Nat := 0x600154
def R.HIF_DMA_BYTES_H : Nat := 0x600158
def R.ETH_CTRL (n : Nat) : Nat := 0x680000 + 0x10000 * n
def R.ETH_MAC_L (n : Nat) : Nat := 0x680004 + 0x10000 * n
def R.ETH_MAC_H (n : Nat) : Nat := 0x680008 + 0x10000 * n
def R.ETH_IP (n : Nat) : Nat := 0x68000c + 0x10000 * n
def R.ETH_VLAN (n : Nat) : Nat := 0x680010 + 0x10000 * n
def R.ETH_IPCFG (n : Nat) : Nat := 0x680014 + 0x10000 * n
def R.ETH_MAXFRAME (n : Nat) : Nat := 0x680018 + 0x10000 * n
def R.ETH_STAT (n : Nat) : Nat := 0x680020 + 0x10000 * n
def R.ETH_RX_OK (n : Nat) : Nat := 0x680030 + 0x10000 * n
def R.ETH_RX_DROP (n : Nat) : Nat := 0x680034 + 0x10000 * n
def R.ETH_RX_DROP_LAST (n : Nat) : Nat := 0x680038 + 0x10000 * n
def R.ETH_TX_OK (n : Nat) : Nat := 0x68003c + 0x10000 * n
def R.ETH_FEC_CORR (n : Nat) : Nat := 0x680040 + 0x10000 * n
def R.ETH_FEC_UNCORR (n : Nat) : Nat := 0x680044 + 0x10000 * n
def R.ETH_STR_CFG (n : Nat) : Nat := 0x680100 + 0x10000 * n
def R.ETH_STR_DST_IP (n : Nat) : Nat := 0x680104 + 0x10000 * n
def R.ETH_STR_DST_UDP (n : Nat) : Nat := 0x680108 + 0x10000 * n
def R.ETH_STR_NH_L (n : Nat) : Nat := 0x68010c + 0x10000 * n
def R.ETH_STR_NH_H (n : Nat) : Nat := 0x680110 + 0x10000 * n
def R.ETH_STR_PEER_ID_L (n : Nat) : Nat := 0x680114 + 0x10000 * n
def R.ETH_STR_PEER_ID_H (n : Nat) : Nat := 0x680118 + 0x10000 * n
def R.ETH_STR_RTO (n : Nat) : Nat := 0x68011c + 0x10000 * n
def R.ETH_STR_KEY (n i : Nat) : Nat := 0x680120 + 0x10000 * n + 0x4 * i
def R.ETH_STR_CMD (n : Nat) : Nat := 0x680140 + 0x10000 * n
def R.ETH_STR_CMDSTAT (n : Nat) : Nat := 0x680144 + 0x10000 * n
def R.ETH_STR_STAT (n : Nat) : Nat := 0x680148 + 0x10000 * n
def R.ETH_STR_SEQ_TX (n : Nat) : Nat := 0x680150 + 0x10000 * n
def R.ETH_STR_CTL_SEQ (n : Nat) : Nat := 0x680154 + 0x10000 * n
def R.ETH_STR_REPLAYS (n : Nat) : Nat := 0x680158 + 0x10000 * n
def R.ETH_STR_TIMEOUTS (n : Nat) : Nat := 0x68015c + 0x10000 * n
def R.ETH_STR_CTL_REJ (n : Nat) : Nat := 0x680160 + 0x10000 * n
def R.ETH_STR_CTL_REJ_LAST (n : Nat) : Nat := 0x680164 + 0x10000 * n
def R.ETH_STR_ACK_STALE (n : Nat) : Nat := 0x680168 + 0x10000 * n
def R.ORT_MGMT_CTRL : Nat := 0x700040
def R.ORT_MGMT_ID_L : Nat := 0x700048
def R.ORT_MGMT_ID_H : Nat := 0x70004c
def R.ORT_MGMT_IP : Nat := 0x700050
def R.ORT_MGMT_UDP : Nat := 0x700054
def R.ORT_MGMT_NH_L : Nat := 0x700058
def R.ORT_MGMT_NH_H : Nat := 0x70005c
def R.ORT_MGMT_KEY (i : Nat) : Nat := 0x700060 + 0x4 * i
def R.ORT_MGMT_SEQ_TX : Nat := 0x700080
def R.ORT_MGMT_LAST_L : Nat := 0x700084
def R.ORT_MGMT_LAST_M : Nat := 0x700088
def R.ORT_MGMT_LAST_H : Nat := 0x70008c
def R.ORT_MGMT_SEQ_RX : Nat := 0x700090
def R.ORT_MGMT_RX_OK : Nat := 0x700094
def R.ORT_MGMT_RX_REJ : Nat := 0x700098
def R.ORT_MGMT_REJ_LAST : Nat := 0x70009c
def R.CLK_SYN_CFG : Nat := 0x20000
def R.CLK_SYN_N : Nat := 0x20004
def R.CLK_SYN_FRAC : Nat := 0x20008
def R.CLK_SYN_SEED : Nat := 0x2000c
def R.CLK_STEP_N : Nat := 0x20010
def R.CLK_STEP_FRAC : Nat := 0x20014
def R.CLK_SRC : Nat := 0x20018
def R.CLK_REF_CFG : Nat := 0x2001c
def R.CLK_LOSS_CFG : Nat := 0x20020
def R.CLK_QUAL : Nat := 0x20024
def R.CLK_CMD : Nat := 0x20030
def R.CLK_CMDSTAT : Nat := 0x20034
def R.CLK_STAT : Nat := 0x20038
def R.CLK_FSC_KHZ : Nat := 0x2003c
def R.CLK_RA_PHASE : Nat := 0x20040
def R.CLK_LOSS_CNT : Nat := 0x20050
def R.CLK_UNLOCK_CNT : Nat := 0x20054
def R.CLK_CHG_L : Nat := 0x20060
def R.CLK_CHG_M : Nat := 0x20064
def R.CLK_CHG_H : Nat := 0x20068
def R.CLK_CKO_CFG (i : Nat) : Nat := 0x20100 + 0x10 * i
def R.CLK_CKO_PHASE (i : Nat) : Nat := 0x20104 + 0x10 * i
def R.CLK_CKO_PW (i : Nat) : Nat := 0x20108 + 0x10 * i
def R.MCX_CFG : Nat := 0x480000
def R.MCX_STAT : Nat := 0x480004
def R.MCX_CMD : Nat := 0x480008
def R.MCX_CMDSTAT : Nat := 0x48000c
def R.MCX_TRN_COMMIT : Nat := 0x480010
def R.MCX_SCHED : Nat := 0x480020
def R.MCX_REF_CFG : Nat := 0x480030
def R.MCX_HAM_CFG : Nat := 0x480040
def R.MCX_SCRUB : Nat := 0x480050
def R.MCX_ECC_CFG : Nat := 0x480054
def R.MCX_TEMP0 : Nat := 0x480060
def R.MCX_TEMP1 : Nat := 0x480064
def R.MCX_SR_ABORT : Nat := 0x480070
def R.MCX_SR_LATE : Nat := 0x480074
def R.MCX_TRN_MISS : Nat := 0x480078
def R.MC_STAT (n : Nat) : Nat := 0x400000 + 0x10000 * n
def R.MC_DIMM_SN (n : Nat) : Nat := 0x400004 + 0x10000 * n
def R.MC_DIMM_MFR (n : Nat) : Nat := 0x400008 + 0x10000 * n
def R.MC_CE_CNT (n : Nat) : Nat := 0x400010 + 0x10000 * n
def R.MC_UE_CNT (n : Nat) : Nat := 0x400014 + 0x10000 * n
def R.MC_CE_LAST (n : Nat) : Nat := 0x400018 + 0x10000 * n
def R.MC_CE_INFO (n : Nat) : Nat := 0x40001c + 0x10000 * n
def R.MC_UE_LAST (n : Nat) : Nat := 0x400020 + 0x10000 * n
def R.MC_UE_INFO (n : Nat) : Nat := 0x400024 + 0x10000 * n
def R.MC_LANE_CE (n i : Nat) : Nat := 0x400030 + 0x10000 * n + 0x4 * i
def R.MC_HAM_CNT (n : Nat) : Nat := 0x400090 + 0x10000 * n
def R.MC_HAM_LAST (n : Nat) : Nat := 0x400094 + 0x10000 * n
def R.MC_REF_DEBT (n : Nat) : Nat := 0x400098 + 0x10000 * n
def R.MC_SCRUB_POS (n : Nat) : Nat := 0x40009c + 0x10000 * n
def R.MC_HAM_MASK (n : Nat) : Nat := 0x4000a0 + 0x10000 * n
def R.MC_TRN_CTRL (n : Nat) : Nat := 0x400100 + 0x10000 * n
def R.MC_TRN_ADDR (n : Nat) : Nat := 0x400104 + 0x10000 * n
def R.MC_TRN_SWEEP (n : Nat) : Nat := 0x400108 + 0x10000 * n
def R.MC_TRN_LEN (n : Nat) : Nat := 0x40010c + 0x10000 * n
def R.MC_TRN_CMD (n : Nat) : Nat := 0x400110 + 0x10000 * n
def R.MC_TRN_STAT (n : Nat) : Nat := 0x400114 + 0x10000 * n
def R.MC_DLY_SEL (n : Nat) : Nat := 0x400118 + 0x10000 * n
def R.MC_DLY_DATA (n : Nat) : Nat := 0x40011c + 0x10000 * n
def R.MC_TRN_PAT (n i : Nat) : Nat := 0x400180 + 0x10000 * n + 0x4 * i
def R.MC_TRN_ERR (n i : Nat) : Nat := 0x400200 + 0x10000 * n + 0x4 * i
def R.MC_TRN_WIN (n i : Nat) : Nat := 0x400400 + 0x10000 * n + 0x4 * i
def R.CST_CTRL : Nat := 0x500000
def R.CST_STAT : Nat := 0x500004
def R.CST_TEST : Nat := 0x500008
def R.CST_BANK_FAIL_L : Nat := 0x500010
def R.CST_BANK_FAIL_H : Nat := 0x500014
def R.CST_CHK_FAIL_L : Nat := 0x500018
def R.CST_CHK_FAIL_H : Nat := 0x50001c
def R.CST_CE_CNT : Nat := 0x500020
def R.CST_UE_CNT : Nat := 0x500024
def R.CST_CE_LAST : Nat := 0x500028
def R.CST_UE_LAST : Nat := 0x50002c
def R.CST_DROP_CNT : Nat := 0x500030
def R.CST_DROP_LAST : Nat := 0x500034
def R.CST_SCRUB_POS : Nat := 0x500038
def R.GLB_CFG_LOCK : Nat := 0x48
def R.GLB_FENCE : Nat := 0x4c
def R.GLB_RESET : Nat := 0x50
def R.GLB_GUARD_STAT : Nat := 0x54
def R.GLB_GUARD_CNT : Nat := 0x58
def R.GLB_DROP_CNT : Nat := 0x5c
def R.GLB_AUDIT_STAT : Nat := 0x60
def R.GLB_AUDIT_CNT : Nat := 0x64
def R.GLB_AUDIT_MIS : Nat := 0x68
def R.EVT_STAT (i : Nat) : Nat := 0x580000 + 0x4 * i
def R.EVT_EN (i : Nat) : Nat := 0x580100 + 0x4 * i
def R.EVT_LINE (i : Nat) : Nat := 0x580200 + 0x4 * i
def R.EVT_SCV (i : Nat) : Nat := 0x580300 + 0x4 * i
def R.EVT_LINE_ACT_L : Nat := 0x580400
def R.EVT_LINE_ACT_H : Nat := 0x580404
def R.EVT_PIN_MAP_L (i : Nat) : Nat := 0x580410 + 0x8 * i
def R.EVT_PIN_MAP_H (i : Nat) : Nat := 0x580414 + 0x8 * i
def R.EVT_PIN_CFG : Nat := 0x580430
def R.EVT_ORT_MAP_L : Nat := 0x580440
def R.EVT_ORT_MAP_H : Nat := 0x580444
def R.EVT_ORT_CFG : Nat := 0x580448
def R.EVT_RAISE : Nat := 0x580450
def R.EVT_CMDSTAT : Nat := 0x580454
def R.SCV_CTRL : Nat := 0x5c0000
def R.SCV_STAT : Nat := 0x5c0004
def R.SCV_AON : Nat := 0x5c0008
def R.SCV_LW_L : Nat := 0x5c0010
def R.SCV_LW_H : Nat := 0x5c0014
def R.SCV_CMD : Nat := 0x5c0020
def R.SCV_CMDSTAT : Nat := 0x5c0024
def R.SCV_REC_NO : Nat := 0x5c0028
def R.SCV_HALFA_FIRST : Nat := 0x5c0030
def R.SCV_HALFA_END : Nat := 0x5c0034
def R.SCV_HALFA_EXP : Nat := 0x5c0038
def R.SCV_HALFB_FIRST : Nat := 0x5c0040
def R.SCV_HALFB_END : Nat := 0x5c0044
def R.SCV_HALFB_EXP : Nat := 0x5c0048
def R.SCV_LOST : Nat := 0x5c0050
def R.SCV_REFUSED : Nat := 0x5c0054
def R.SCV_FOLD : Nat := 0x5c0058
def R.SCV_SNAP_BASE : Nat := 0x5c0060
def R.SCV_TRIG_LIST (i : Nat) : Nat := 0x5c0070 + 0x4 * i
def R.SCV_WIN_ADDR : Nat := 0x5c0080
def R.SCV_WIN_DATA_L : Nat := 0x5c0084
def R.SCV_WIN_DATA_H : Nat := 0x5c0088
def R.STW_BOOT_STAT : Nat := 0x782000
def R.STW_BOOT_TIME : Nat := 0x782004
def R.STW_IMG_VERSION : Nat := 0x782008
def R.STW_IMG_BUILD_L : Nat := 0x78200c
def R.STW_IMG_BUILD_H : Nat := 0x782010
def R.STW_IMG_FAIL_OFS : Nat := 0x782014
def R.STW_NV_STAT : Nat := 0x782020
def R.STW_NV_VSTAT : Nat := 0x782024
def R.STW_NV_CMD : Nat := 0x782028
def R.STW_NV_CMDSTAT : Nat := 0x78202c
def R.STW_NV_SRC : Nat := 0x782030
def R.STW_NV_OFS : Nat := 0x782034
def R.STW_NV_LEN : Nat := 0x782038
def R.STW_NV_ERASE : Nat := 0x782040
def R.STW_NV_SLOT : Nat := 0x782044
def R.STW_KEYHASH (i : Nat) : Nat := 0x782080 + 0x4 * i
def R.STW_MB_CTRL : Nat := 0x780000
def R.STW_STATE : Nat := 0x780004
def R.STW_CMD : Nat := 0x780008
def R.STW_CMDSTAT : Nat := 0x78000c
def R.STW_WDG_CFG : Nat := 0x780010
def R.STW_AON : Nat := 0x780014
def R.STW_SRAM_CE : Nat := 0x780018
def R.STW_MB_REQ (i : Nat) : Nat := 0x780100 + 0x4 * i
def R.STW_MB_RSP (i : Nat) : Nat := 0x780200 + 0x4 * i
def R.STW_THERM_CFG : Nat := 0x781000
def R.STW_RAIL_CFG : Nat := 0x781004
def R.STW_TEMP (i : Nat) : Nat := 0x781010 + 0x4 * i
def R.STW_RAIL (i : Nat) : Nat := 0x781060 + 0x4 * i
def R.PWR_CTRL : Nat := 0x10000
def R.PWR_CMD : Nat := 0x10004
def R.PWR_CMDSTAT : Nat := 0x10008
def R.PWR_STAT : Nat := 0x1000c
def R.PWR_FORCE : Nat := 0x10010
def R.PWR_WAKE_EN : Nat := 0x10014
def R.PWR_WAKE_CAUSE : Nat := 0x10018
def R.PWR_CHG_CNT : Nat := 0x10020
def R.PWR_ABORT_CNT : Nat := 0x10024
def R.PWR_CHG_L : Nat := 0x10030
def R.PWR_CHG_M : Nat := 0x10034
def R.PWR_CHG_H : Nat := 0x10038
def R.GLB_ID : Nat := 0x0
def R.GLB_VERSION : Nat := 0x4
def R.GLB_DIE_ID_L : Nat := 0x8
def R.GLB_DIE_ID_H : Nat := 0xc
def R.GLB_FW_VERSION : Nat := 0x10
def R.GLB_SCRATCH : Nat := 0x14
def R.HIF_MSIX_ADDR_L (i : Nat) : Nat := 0x608000 + 0x10 * i
def R.HIF_MSIX_ADDR_H (i : Nat) : Nat := 0x608004 + 0x10 * i
def R.HIF_MSIX_DATA (i : Nat) : Nat := 0x608008 + 0x10 * i
def R.HIF_MSIX_CTRL (i : Nat) : Nat := 0x60800c + 0x10 * i
def R.HIF_MSIX_PBA_L : Nat := 0x609000
def R.HIF_MSIX_PBA_H : Nat := 0x609004

def F.GLB_PROFILE_AUDIT_EN : Fld := ⟨5, 1⟩
def F.GLB_PROFILE_CST_SCRUB_EN : Fld := ⟨4, 1⟩
def F.GLB_PROFILE_DRAM_SCRUB_EN : Fld := ⟨3, 1⟩
def F.GLB_PROFILE_CST_DEGRADE : Fld := ⟨2, 1⟩
def F.GLB_PROFILE_CLK_GATED : Fld := ⟨1, 1⟩
def F.GLB_PROFILE_PROFILE : Fld := ⟨0, 1⟩
def F.GLB_PROFILE_EFF_LATCHED : Fld := ⟨31, 1⟩
def F.GLB_PROFILE_EFF_CST_HALF : Fld := ⟨9, 1⟩
def F.GLB_PROFILE_EFF_CST_DEGRADED : Fld := ⟨8, 1⟩
def F.GLB_PROFILE_EFF_SQ_PAIRED : Fld := ⟨7, 1⟩
def F.GLB_PROFILE_EFF_VERIFY_FORCED : Fld := ⟨6, 1⟩
def F.GLB_PROFILE_EFF_AUDIT : Fld := ⟨5, 1⟩
def F.GLB_PROFILE_EFF_CST_SCRUB : Fld := ⟨4, 1⟩
def F.GLB_PROFILE_EFF_DRAM_SCRUB : Fld := ⟨3, 1⟩
def F.GLB_PROFILE_EFF_CST_DEGRADE : Fld := ⟨2, 1⟩
def F.GLB_PROFILE_EFF_CLK_GATED : Fld := ⟨1, 1⟩
def F.GLB_PROFILE_EFF_PROFILE : Fld := ⟨0, 1⟩
def F.EPC_CTRL_IRIG_FMT : Fld := ⟨28, 3⟩
def F.EPC_CTRL_SLEW_RATE : Fld := ⟨16, 12⟩
def F.EPC_CTRL_MISS_N : Fld := ⟨12, 4⟩
def F.EPC_CTRL_ACQ_N : Fld := ⟨8, 4⟩
def F.EPC_CTRL_POLICY : Fld := ⟨5, 1⟩
def F.EPC_CTRL_PPS_EDGE : Fld := ⟨4, 1⟩
def F.EPC_CTRL_SRC : Fld := ⟨0, 2⟩
def F.EPC_STAT_SRC_ID : Fld := ⟨24, 8⟩
def F.EPC_STAT_CORR_OUT : Fld := ⟨17, 1⟩
def F.EPC_STAT_SRC_HOLDOVER : Fld := ⟨16, 1⟩
def F.EPC_STAT_LEAP_NEG : Fld := ⟨15, 1⟩
def F.EPC_STAT_LEAP_PENDING : Fld := ⟨14, 1⟩
def F.EPC_STAT_GOOD_RUN : Fld := ⟨4, 4⟩
def F.EPC_STAT_STATE : Fld := ⟨0, 3⟩
def F.EPC_NOW_H_NOW : Fld := ⟨0, 16⟩
def F.EPC_SET_H_SET : Fld := ⟨0, 16⟩
def F.EPC_UTC_OFS_UTC_TAI : Fld := ⟨0, 8⟩
def F.EPC_LEAP_H_LEAP_SEC : Fld := ⟨0, 12⟩
def F.EPC_LEAP_H_LEAP_OFS : Fld := ⟨16, 8⟩
def F.EPC_LEAP_H_ARMED : Fld := ⟨31, 1⟩
def F.EPC_IRIG_YEAR_YEAR : Fld := ⟨0, 16⟩
def F.SCH_CTRL_BASE : Fld := ⟨0, 22⟩
def F.SCH_CTRL_EN : Fld := ⟨31, 1⟩
def F.SCH_CMD_LOAD : Fld := ⟨0, 1⟩
def F.SCH_CMD_ALL : Fld := ⟨1, 1⟩
def F.SCH_CMD_IDX : Fld := ⟨8, 8⟩
def F.SCH_CMDSTAT_REASON : Fld := ⟨0, 8⟩
def F.SCH_CMDSTAT_IDX : Fld := ⟨8, 8⟩
def F.LG_CFG_DIV : Fld := ⟨8, 16⟩
def F.LG_CFG_STORE_INIT : Fld := ⟨4, 1⟩
def F.LG_CFG_QCLK : Fld := ⟨3, 1⟩
def F.LG_CFG_EN : Fld := ⟨2, 1⟩
def F.LG_CFG_MODE : Fld := ⟨0, 2⟩
def F.LG_STATE_CQ_DLY : Fld := ⟨12, 10⟩
def F.LG_STATE_QUAL_POL : Fld := ⟨11, 1⟩
def F.LG_STATE_QUAL_SEL : Fld := ⟨7, 4⟩
def F.LG_STATE_QUAL_EN : Fld := ⟨6, 1⟩
def F.LG_STATE_CQ_EDGE : Fld := ⟨4, 2⟩
def F.LG_STATE_CQ_SEL : Fld := ⟨0, 4⟩
def F.LG_CMD_CAL : Fld := ⟨1, 1⟩
def F.LG_CMD_APPLY : Fld := ⟨0, 1⟩
def F.LG_CMDSTAT_CH : Fld := ⟨8, 8⟩
def F.LG_CMDSTAT_REASON : Fld := ⟨0, 8⟩
def F.LG_STAT_CAL_BUSY : Fld := ⟨2, 1⟩
def F.LG_STAT_OVERRUN : Fld := ⟨1, 1⟩
def F.LG_STAT_RUNNING : Fld := ⟨0, 1⟩
def F.LG_STAGE_USED : Fld := ⟨0, 8⟩
def F.LG_STAGE_PEAK : Fld := ⟨16, 8⟩
def F.LG_OVR_LAST_H_OVR_LAST : Fld := ⟨0, 16⟩
def F.LG_CH_CFG_INV : Fld := ⟨26, 1⟩
def F.LG_CH_CFG_EN : Fld := ⟨25, 1⟩
def F.LG_CH_CFG_TERM : Fld := ⟨24, 1⟩
def F.LG_CH_CFG_TRIM : Fld := ⟨16, 8⟩
def F.LG_CH_CFG_DSK : Fld := ⟨0, 10⟩
def F.LG_CH_CAL_VALID : Fld := ⟨31, 1⟩
def F.LG_CH_CAL_ARR : Fld := ⟨0, 10⟩
def F.TRS_CMD_APPLY : Fld := ⟨0, 1⟩
def F.TRS_CMDSTAT_REASON : Fld := ⟨0, 8⟩
def F.TRS_CMDSTAT_PIN : Fld := ⟨8, 8⟩
def F.TRS_WR_CTRL_OWNER : Fld := ⟨16, 5⟩
def F.TRS_WR_CTRL_ENTER : Fld := ⟨9, 1⟩
def F.TRS_WR_CTRL_USE_B : Fld := ⟨8, 1⟩
def F.TRS_WR_CTRL_GB : Fld := ⟨4, 3⟩
def F.TRS_WR_CTRL_GA : Fld := ⟨0, 3⟩
def F.TRS_RC_CTRL_OWNER : Fld := ⟨24, 5⟩
def F.TRS_RC_CTRL_OUT : Fld := ⟨16, 1⟩
def F.TRS_RC_CTRL_WIDTH : Fld := ⟨10, 6⟩
def F.TRS_RC_CTRL_LSB : Fld := ⟨4, 5⟩
def F.TRS_RC_CTRL_GRP : Fld := ⟨0, 3⟩
def F.TRS_CT_CFG_SRC : Fld := ⟨16, 11⟩
def F.TRS_CT_CFG_EVENT : Fld := ⟨8, 1⟩
def F.TRS_CT_CFG_OWNER : Fld := ⟨0, 5⟩
def F.TRS_CT_LIM_H_LIM : Fld := ⟨0, 16⟩
def F.TRS_CT_INIT_H_INIT : Fld := ⟨0, 16⟩
def F.TRS_CT_VAL_H_VAL : Fld := ⟨0, 16⟩
def F.TRS_TM_CFG_RUN : Fld := ⟨10, 1⟩
def F.TRS_TM_CFG_RUN_INIT : Fld := ⟨9, 1⟩
def F.TRS_TM_CFG_MODE : Fld := ⟨8, 1⟩
def F.TRS_TM_CFG_OWNER : Fld := ⟨0, 5⟩
def F.TRS_TM_LIM_H_LIM : Fld := ⟨0, 16⟩
def F.TRS_TM_AT_H_AT : Fld := ⟨0, 16⟩
def F.TRS_TM_LEN_H_LEN : Fld := ⟨0, 16⟩
def F.TRS_TM_VAL_H_VAL : Fld := ⟨0, 16⟩
def F.TRS_XT_CFG_WIDTH : Fld := ⟨0, 8⟩
def F.TRS_TRIG_CFG_WIDTH : Fld := ⟨16, 16⟩
def F.TRS_TRIG_CFG_TERM : Fld := ⟨4, 1⟩
def F.TRS_TRIG_CFG_IPOL : Fld := ⟨3, 1⟩
def F.TRS_TRIG_CFG_IEDGE : Fld := ⟨2, 1⟩
def F.TRS_TRIG_CFG_POL : Fld := ⟨1, 1⟩
def F.TRS_TRIG_CFG_DIR : Fld := ⟨0, 1⟩
def F.TRS_DET_CFG_CAP : Fld := ⟨8, 1⟩
def F.TRS_DET_CFG_WCMP : Fld := ⟨4, 2⟩
def F.TRS_DET_CFG_MODE : Fld := ⟨0, 3⟩
def F.TRS_DET_WA_WA : Fld := ⟨0, 20⟩
def F.TRS_DET_WB_WB : Fld := ⟨0, 20⟩
def F.TRS_DETCAP_H_STAMP : Fld := ⟨0, 16⟩
def F.TRS_DETCAP_CH_VALID : Fld := ⟨31, 1⟩
def F.TRS_DETCAP_CH_CH : Fld := ⟨0, 5⟩
def F.SQ_CTRL_START : Fld := ⟨12, 4⟩
def F.SQ_CTRL_DOM : Fld := ⟨8, 3⟩
def F.SQ_CTRL_EN : Fld := ⟨4, 1⟩
def F.SQ_CTRL_PART : Fld := ⟨0, 4⟩
def F.SQ_STAT_MISMATCH : Fld := ⟨11, 1⟩
def F.SQ_STAT_STORE_Q : Fld := ⟨10, 1⟩
def F.SQ_STAT_POST : Fld := ⟨9, 1⟩
def F.SQ_STAT_RUNNING : Fld := ⟨8, 1⟩
def F.SQ_STAT_LEVEL : Fld := ⟨0, 4⟩
def F.SQ_CHK_SLOT : Fld := ⟨16, 4⟩
def F.SQ_CHK_OPS : Fld := ⟨14, 1⟩
def F.SQ_CHK_BRANCH : Fld := ⟨12, 2⟩
def F.SQ_CHK_LEVEL : Fld := ⟨8, 4⟩
def F.SQ_CHK_REASON : Fld := ⟨0, 8⟩
def F.SQ_POST_H_POST : Fld := ⟨0, 16⟩
def F.SQ_TRIG_H_TRIG : Fld := ⟨0, 16⟩
def F.SQ_TS_CODE : Fld := ⟨0, 11⟩
def F.SQ_WIN_START_H_START : Fld := ⟨0, 16⟩
def F.SQ_WIN_END_H_END : Fld := ⟨0, 16⟩
def F.SQ_B_COND_P1 : Fld := ⟨16, 16⟩
def F.SQ_B_COND_P0 : Fld := ⟨0, 16⟩
def F.SQ_B_ACT_MARK_CODE : Fld := ⟨24, 8⟩
def F.SQ_B_ACT_SNAP_LIST : Fld := ⟨16, 8⟩
def F.SQ_B_ACT_WIN : Fld := ⟨12, 2⟩
def F.SQ_B_ACT_SNAP : Fld := ⟨11, 1⟩
def F.SQ_B_ACT_NOTICE : Fld := ⟨10, 1⟩
def F.SQ_B_ACT_HOLD : Fld := ⟨9, 1⟩
def F.SQ_B_ACT_STORE : Fld := ⟨7, 2⟩
def F.SQ_B_ACT_MARK : Fld := ⟨6, 1⟩
def F.SQ_B_ACT_FREEZE : Fld := ⟨5, 1⟩
def F.SQ_B_ACT_GOTO : Fld := ⟨4, 1⟩
def F.SQ_B_ACT_NEXT : Fld := ⟨0, 4⟩
def F.SQ_B_OPS_OPB_OP : Fld := ⟨22, 3⟩
def F.SQ_B_OPS_OPB_KIND : Fld := ⟨21, 1⟩
def F.SQ_B_OPS_OPB_IDX : Fld := ⟨16, 5⟩
def F.SQ_B_OPS_OPA_OP : Fld := ⟨6, 3⟩
def F.SQ_B_OPS_OPA_KIND : Fld := ⟨5, 1⟩
def F.SQ_B_OPS_OPA_IDX : Fld := ⟨0, 5⟩
def F.SQ_B_PULSE_TRIG_EN : Fld := ⟨15, 1⟩
def F.SQ_B_PULSE_TRIG : Fld := ⟨8, 5⟩
def F.SQ_B_PULSE_XT_EN : Fld := ⟨7, 1⟩
def F.SQ_B_PULSE_XT : Fld := ⟨0, 5⟩
def F.PRT_HOLD_CFG_BUDGET_PCT : Fld := ⟨0, 7⟩
def F.PRT_HOLD_START_H_START : Fld := ⟨0, 16⟩
def F.PRT_HOLD_END_H_END : Fld := ⟨0, 16⟩
def F.PRT_HOLD_CMD_HOLD : Fld := ⟨0, 1⟩
def F.PRT_HOLD_STAT_WINDOWS : Fld := ⟨0, 7⟩
def F.PRT_HOLD_STAT_OPEN : Fld := ⟨16, 7⟩
def F.PRT_HELD_H_HELD : Fld := ⟨0, 16⟩
def F.PRT_BUDGET_H_BUDGET : Fld := ⟨0, 16⟩
def F.PRT_OLDEST_H_OLDEST : Fld := ⟨0, 16⟩
def F.PRT_HOLD_LAST_REASON : Fld := ⟨0, 8⟩
def F.PRT_HOLD_LAST_SOURCE : Fld := ⟨8, 3⟩
def F.PRT_HOLD_LAST_CLIP_CAUSE : Fld := ⟨12, 3⟩
def F.PRT_HOLD_LAST_WIN : Fld := ⟨16, 6⟩
def F.ORT_CTRL_UDP_PORT : Fld := ⟨0, 16⟩
def F.ORT_CTRL_REPEAT : Fld := ⟨16, 2⟩
def F.ORT_CTRL_NTC_RX_EN : Fld := ⟨24, 1⟩
def F.ORT_CTRL_NTC_TX_EN : Fld := ⟨25, 1⟩
def F.ORT_PS_CTRL_RX_EN : Fld := ⟨0, 1⟩
def F.ORT_PS_CTRL_TX_EN : Fld := ⟨1, 1⟩
def F.ORT_PS_CTRL_PORT : Fld := ⟨2, 2⟩
def F.ORT_PS_CTRL_RX_PART : Fld := ⟨16, 16⟩
def F.ORT_PS_TXPART_TX_PART : Fld := ⟨0, 16⟩
def F.ORT_PS_UDP_UDP : Fld := ⟨0, 16⟩
def F.ORT_PS_NH_H_NEXTHOP : Fld := ⟨0, 16⟩
def F.ORT_PS_LAST_H_LAST : Fld := ⟨0, 16⟩
def F.ORT_PS_REJ_LAST_REASON : Fld := ⟨0, 8⟩
def F.PRT_CFG_GROUPS : Fld := ⟨0, 8⟩
def F.PRT_CFG_VERIFY : Fld := ⟨8, 1⟩
def F.PRT_CFG_QUEUE : Fld := ⟨9, 3⟩
def F.PRT_CFG_PRIO : Fld := ⟨12, 3⟩
def F.PRT_CFG_AUTO_FREE : Fld := ⟨15, 1⟩
def F.PRT_STAT_STATE : Fld := ⟨0, 2⟩
def F.PRT_STAT_LIVE_N : Fld := ⟨8, 7⟩
def F.PRT_CMD_ARM : Fld := ⟨0, 1⟩
def F.PRT_CMD_DISARM : Fld := ⟨1, 1⟩
def F.PRT_CMD_MARK : Fld := ⟨2, 1⟩
def F.PRT_CMD_FREE : Fld := ⟨3, 1⟩
def F.PRT_CMD_SLOT : Fld := ⟨8, 7⟩
def F.PRT_CMD_MARK_CODE : Fld := ⟨24, 8⟩
def F.PRT_CMDSTAT_REASON : Fld := ⟨0, 8⟩
def F.PRT_CMDSTAT_SLOT : Fld := ⟨8, 7⟩
def F.PRT_RING_BASE_RING_BASE : Fld := ⟨0, 21⟩
def F.PRT_RING_SIZE_RING_SIZE : Fld := ⟨0, 21⟩
def F.PRT_SEG_BASE_SEG_BASE : Fld := ⟨0, 21⟩
def F.PRT_SEG_SIZE_SEG_SIZE : Fld := ⟨0, 21⟩
def F.PRT_PRE_H_PRE : Fld := ⟨0, 16⟩
def F.PRT_POSTMAX_H_POSTMAX : Fld := ⟨0, 16⟩
def F.PRT_LIVE2_LIVE : Fld := ⟨0, 1⟩
def F.PRT_CAP_CAP : Fld := ⟨0, 21⟩
def F.FUL_CTRL_PRED_CODE : Fld := ⟨0, 2⟩
def F.FUL_CTRL_PRED_FORCE : Fld := ⟨2, 1⟩
def F.FUL_CTRL_DEF_ONLY : Fld := ⟨3, 1⟩
def F.FUL_CMD_INJECT : Fld := ⟨0, 1⟩
def F.FUL_CMDSTAT_REASON : Fld := ⟨0, 8⟩
def F.FUL_STAT_ACTIVE : Fld := ⟨0, 1⟩
def F.FUL_STAT_VERIFY : Fld := ⟨1, 1⟩
def F.FUL_STAT_INJ_PEND : Fld := ⟨2, 1⟩
def F.FUL_STAT_STALL : Fld := ⟨3, 1⟩
def F.FUL_STAT_PRED : Fld := ⟨4, 2⟩
def F.FUL_STAT_TD_LAST : Fld := ⟨6, 1⟩
def F.FUL_STAT_RAW_LAST : Fld := ⟨7, 1⟩
def F.FUL_OUT_H_OUT : Fld := ⟨0, 16⟩
def F.FUL_VF_LAST_H_VF_LAST : Fld := ⟨0, 16⟩
def F.FUL_VF_OFS_VF_OFS : Fld := ⟨0, 15⟩
def F.CAR_CTRL_BASE : Fld := ⟨0, 22⟩
def F.CAR_CMD_APPLY : Fld := ⟨0, 1⟩
def F.CAR_CMDSTAT_REASON : Fld := ⟨0, 8⟩
def F.CAR_FREE_FREE : Fld := ⟨0, 13⟩
def F.CAR_Q_CFG_RESERVE : Fld := ⟨0, 13⟩
def F.CAR_Q_CFG_LIMIT : Fld := ⟨16, 13⟩
def F.CAR_Q_CFG_OWNER : Fld := ⟨31, 1⟩
def F.CAR_Q_STALL_TIMEOUT : Fld := ⟨0, 20⟩
def F.CAR_Q_CMD_PUSH : Fld := ⟨0, 1⟩
def F.CAR_Q_CMD_POP : Fld := ⟨1, 1⟩
def F.CAR_Q_CMD_RELEASE : Fld := ⟨2, 1⟩
def F.CAR_Q_CMD_MARK : Fld := ⟨3, 1⟩
def F.CAR_Q_CMD_REWIND : Fld := ⟨4, 1⟩
def F.CAR_Q_CMD_PRIO : Fld := ⟨8, 3⟩
def F.CAR_Q_CMDSTAT_REASON : Fld := ⟨0, 8⟩
def F.CAR_Q_STAT_DEPTH : Fld := ⟨0, 13⟩
def F.CAR_Q_STAT_OCC : Fld := ⟨16, 13⟩
def F.CAR_Q_STAT_STALLED : Fld := ⟨31, 1⟩
def F.CAR_Q_POPSTAT_HANDLE : Fld := ⟨0, 16⟩
def F.CAR_Q_POPSTAT_VALID : Fld := ⟨31, 1⟩
def F.CAR_Q_RELH_HANDLE : Fld := ⟨0, 16⟩
def F.HIF_ID_VENDOR : Fld := ⟨0, 16⟩
def F.HIF_ID_REV : Fld := ⟨16, 8⟩
def F.HIF_LINK_SPEED : Fld := ⟨0, 3⟩
def F.HIF_LINK_WIDTH : Fld := ⟨3, 5⟩
def F.HIF_LINK_UP : Fld := ⟨8, 1⟩
def F.HIF_DMA_CTRL_RO_EN : Fld := ⟨0, 1⟩
def F.HIF_DMA_CMD_START : Fld := ⟨0, 1⟩
def F.HIF_DMA_CMD_STOP : Fld := ⟨1, 1⟩
def F.HIF_DMA_CMDSTAT_REASON : Fld := ⟨0, 8⟩
def F.HIF_DMA_STAT_RUNNING : Fld := ⟨0, 1⟩
def F.HIF_DMA_STAT_STARVED : Fld := ⟨1, 1⟩
def F.HIF_DMA_STAT_ERROR : Fld := ⟨2, 1⟩
def F.HIF_DMA_RING_BSZ : Fld := ⟨0, 5⟩
def F.HIF_DMA_RING_CSZ : Fld := ⟨8, 5⟩
def F.HIF_DMA_BUF_PI_PI : Fld := ⟨0, 16⟩
def F.HIF_DMA_BUF_CI_CI : Fld := ⟨0, 16⟩
def F.HIF_DMA_CPL_PI_PI : Fld := ⟨0, 16⟩
def F.HIF_DMA_CPL_CI_CI : Fld := ⟨0, 16⟩
def F.HIF_DMA_BYTES_H_BYTES : Fld := ⟨0, 16⟩
def F.ETH_CTRL_EN : Fld := ⟨0, 1⟩
def F.ETH_CTRL_VLAN_EN : Fld := ⟨1, 1⟩
def F.ETH_CTRL_RX_UNTAGGED : Fld := ⟨2, 1⟩
def F.ETH_MAC_H_MAC : Fld := ⟨0, 16⟩
def F.ETH_VLAN_VID : Fld := ⟨0, 12⟩
def F.ETH_VLAN_PCP : Fld := ⟨12, 3⟩
def F.ETH_IPCFG_TTL : Fld := ⟨0, 8⟩
def F.ETH_IPCFG_DSCP : Fld := ⟨8, 6⟩
def F.ETH_MAXFRAME_MAXFRAME : Fld := ⟨0, 14⟩
def F.ETH_STAT_LINK : Fld := ⟨0, 1⟩
def F.ETH_STAT_ALIGN : Fld := ⟨1, 1⟩
def F.ETH_STAT_FEC_LOCK : Fld := ⟨2, 1⟩
def F.ETH_RX_DROP_LAST_REASON : Fld := ⟨0, 4⟩
def F.ETH_STR_CFG_CHUNK : Fld := ⟨0, 14⟩
def F.ETH_STR_CFG_WINDOW : Fld := ⟨16, 7⟩
def F.ETH_STR_DST_UDP_UDP : Fld := ⟨0, 16⟩
def F.ETH_STR_NH_H_NEXTHOP : Fld := ⟨0, 16⟩
def F.ETH_STR_RTO_RTO : Fld := ⟨0, 24⟩
def F.ETH_STR_CMD_START : Fld := ⟨0, 1⟩
def F.ETH_STR_CMD_STOP : Fld := ⟨1, 1⟩
def F.ETH_STR_CMDSTAT_REASON : Fld := ⟨0, 8⟩
def F.ETH_STR_STAT_RUNNING : Fld := ⟨0, 1⟩
def F.ETH_STR_STAT_WAIT_LINK : Fld := ⟨1, 1⟩
def F.ETH_STR_STAT_OUTST : Fld := ⟨8, 7⟩
def F.ETH_STR_CTL_REJ_LAST_REASON : Fld := ⟨0, 8⟩
def F.ORT_MGMT_CTRL_EN : Fld := ⟨0, 1⟩
def F.ORT_MGMT_CTRL_PORT : Fld := ⟨1, 2⟩
def F.ORT_MGMT_UDP_UDP : Fld := ⟨0, 16⟩
def F.ORT_MGMT_NH_H_NEXTHOP : Fld := ⟨0, 16⟩
def F.ORT_MGMT_LAST_H_LAST : Fld := ⟨0, 16⟩
def F.ORT_MGMT_REJ_LAST_REASON : Fld := ⟨0, 8⟩
def F.CLK_SYN_CFG_RMUL : Fld := ⟨0, 2⟩
def F.CLK_SYN_CFG_PDIV : Fld := ⟨4, 5⟩
def F.CLK_SYN_CFG_OUTDIV : Fld := ⟨16, 5⟩
def F.CLK_SYN_CFG_DITHER : Fld := ⟨24, 1⟩
def F.CLK_SYN_N_N : Fld := ⟨0, 16⟩
def F.CLK_STEP_N_N : Fld := ⟨0, 16⟩
def F.CLK_SRC_REF_SEL : Fld := ⟨0, 1⟩
def F.CLK_REF_CFG_REF_KHZ : Fld := ⟨0, 20⟩
def F.CLK_REF_CFG_FTOL : Fld := ⟨20, 10⟩
def F.CLK_LOSS_CFG_COAST_MAX : Fld := ⟨0, 22⟩
def F.CLK_QUAL_REF_QUAL : Fld := ⟨0, 14⟩
def F.CLK_CMD_APPLY : Fld := ⟨0, 1⟩
def F.CLK_CMD_STEP : Fld := ⟨1, 1⟩
def F.CLK_CMD_CKO_APPLY : Fld := ⟨2, 1⟩
def F.CLK_CMDSTAT_REASON : Fld := ⟨0, 8⟩
def F.CLK_STAT_STATE : Fld := ⟨0, 3⟩
def F.CLK_STAT_LOCK : Fld := ⟨4, 1⟩
def F.CLK_STAT_REF_OK : Fld := ⟨5, 1⟩
def F.CLK_STAT_RAMP : Fld := ⟨6, 1⟩
def F.CLK_STAT_SAMPLE_ON : Fld := ⟨7, 1⟩
def F.CLK_STAT_CAUSE : Fld := ⟨8, 4⟩
def F.CLK_STAT_GA_LOCK : Fld := ⟨16, 8⟩
def F.CLK_STAT_OA_LOCK : Fld := ⟨24, 8⟩
def F.CLK_FSC_KHZ_FSC : Fld := ⟨0, 22⟩
def F.CLK_CHG_H_CHG : Fld := ⟨0, 16⟩
def F.CLK_CKO_CFG_EN : Fld := ⟨0, 1⟩
def F.CLK_CKO_CFG_FMT : Fld := ⟨1, 2⟩
def F.CLK_CKO_CFG_SRC : Fld := ⟨4, 2⟩
def F.CLK_CKO_CFG_ODIV : Fld := ⟨16, 10⟩
def F.CLK_CKO_PHASE_PHASE : Fld := ⟨0, 16⟩
def F.CLK_CKO_PHASE_CUR : Fld := ⟨16, 16⟩
def F.CLK_CKO_PW_PW : Fld := ⟨0, 19⟩
def F.MCX_CFG_MAX_SPEED : Fld := ⟨0, 2⟩
def F.MCX_STAT_NCH : Fld := ⟨0, 4⟩
def F.MCX_STAT_SPEED : Fld := ⟨4, 2⟩
def F.MCX_STAT_STATE : Fld := ⟨8, 3⟩
def F.MCX_CMD_SR_ENTER : Fld := ⟨0, 1⟩
def F.MCX_CMD_SR_EXIT : Fld := ⟨1, 1⟩
def F.MCX_CMD_TRAIN : Fld := ⟨2, 1⟩
def F.MCX_CMD_CH : Fld := ⟨8, 8⟩
def F.MCX_CMDSTAT_REASON : Fld := ⟨0, 8⟩
def F.MCX_CMDSTAT_CH : Fld := ⟨8, 8⟩
def F.MCX_TRN_COMMIT_MASK : Fld := ⟨0, 8⟩
def F.MCX_SCHED_WQ_HWM : Fld := ⟨0, 9⟩
def F.MCX_SCHED_WQ_LWM : Fld := ⟨16, 9⟩
def F.MCX_REF_CFG_POSTPONE : Fld := ⟨0, 3⟩
def F.MCX_HAM_CFG_THRESH : Fld := ⟨0, 16⟩
def F.MCX_SCRUB_PERIOD : Fld := ⟨0, 8⟩
def F.MCX_SCRUB_ACTIVE : Fld := ⟨8, 1⟩
def F.MCX_ECC_CFG_LANE_THR : Fld := ⟨0, 16⟩
def F.MC_STAT_PRESENT : Fld := ⟨0, 1⟩
def F.MC_STAT_READY : Fld := ⟨1, 1⟩
def F.MC_STAT_TRAINING : Fld := ⟨2, 1⟩
def F.MC_STAT_HOT : Fld := ⟨3, 1⟩
def F.MC_STAT_RANKS2 : Fld := ⟨4, 1⟩
def F.MC_STAT_X8 : Fld := ⟨5, 1⟩
def F.MC_STAT_DENSITY : Fld := ⟨6, 2⟩
def F.MC_DIMM_MFR_MFR : Fld := ⟨0, 16⟩
def F.MC_CE_LAST_ADDR : Fld := ⟨0, 30⟩
def F.MC_CE_INFO_LANE : Fld := ⟨0, 5⟩
def F.MC_CE_INFO_SOURCE : Fld := ⟨8, 2⟩
def F.MC_CE_INFO_REQ : Fld := ⟨16, 4⟩
def F.MC_UE_LAST_ADDR : Fld := ⟨0, 30⟩
def F.MC_UE_INFO_SOURCE : Fld := ⟨8, 2⟩
def F.MC_UE_INFO_REQ : Fld := ⟨16, 4⟩
def F.MC_HAM_LAST_BANK : Fld := ⟨0, 5⟩
def F.MC_HAM_LAST_RANK : Fld := ⟨5, 1⟩
def F.MC_HAM_LAST_REQ : Fld := ⟨8, 4⟩
def F.MC_HAM_LAST_ROW : Fld := ⟨15, 17⟩
def F.MC_REF_DEBT_DEBT : Fld := ⟨0, 4⟩
def F.MC_SCRUB_POS_POS : Fld := ⟨0, 30⟩
def F.MC_HAM_MASK_MASK : Fld := ⟨0, 16⟩
def F.MC_TRN_CTRL_PATTERN : Fld := ⟨0, 3⟩
def F.MC_TRN_CTRL_RANK : Fld := ⟨3, 1⟩
def F.MC_TRN_ADDR_UNIT : Fld := ⟨0, 16⟩
def F.MC_TRN_SWEEP_TARGET : Fld := ⟨0, 6⟩
def F.MC_TRN_SWEEP_START : Fld := ⟨6, 10⟩
def F.MC_TRN_SWEEP_END : Fld := ⟨16, 10⟩
def F.MC_TRN_SWEEP_STEP : Fld := ⟨26, 4⟩
def F.MC_TRN_LEN_LEN : Fld := ⟨0, 16⟩
def F.MC_TRN_CMD_SWEEP : Fld := ⟨0, 1⟩
def F.MC_TRN_STAT_BUSY : Fld := ⟨0, 1⟩
def F.MC_TRN_STAT_DONE : Fld := ⟨1, 1⟩
def F.MC_DLY_SEL_SEL : Fld := ⟨0, 12⟩
def F.MC_DLY_DATA_VALUE : Fld := ⟨0, 10⟩
def F.MC_TRN_WIN_LEFT : Fld := ⟨0, 10⟩
def F.MC_TRN_WIN_RIGHT : Fld := ⟨16, 10⟩
def F.CST_CTRL_PERIOD : Fld := ⟨0, 12⟩
def F.CST_STAT_MARCH_DONE : Fld := ⟨0, 1⟩
def F.CST_STAT_DEGRADED : Fld := ⟨1, 1⟩
def F.CST_STAT_HALF : Fld := ⟨2, 1⟩
def F.CST_STAT_SCRUB_ACTIVE : Fld := ⟨3, 1⟩
def F.CST_TEST_RAW : Fld := ⟨0, 1⟩
def F.CST_CE_LAST_ADDR : Fld := ⟨0, 22⟩
def F.CST_CE_LAST_MASTER : Fld := ⟨24, 5⟩
def F.CST_UE_LAST_ADDR : Fld := ⟨0, 22⟩
def F.CST_UE_LAST_MASTER : Fld := ⟨24, 5⟩
def F.CST_DROP_LAST_ADDR : Fld := ⟨0, 22⟩
def F.CST_DROP_LAST_MASTER : Fld := ⟨24, 5⟩
def F.CST_DROP_LAST_PARTIAL : Fld := ⟨29, 1⟩
def F.CST_SCRUB_POS_ROW : Fld := ⟨0, 16⟩
def F.GLB_CFG_LOCK_LOCK : Fld := ⟨0, 1⟩
def F.GLB_CFG_LOCK_BY_IMAGE : Fld := ⟨1, 1⟩
def F.GLB_FENCE_FENCE : Fld := ⟨0, 1⟩
def F.GLB_FENCE_COUNT : Fld := ⟨16, 16⟩
def F.GLB_RESET_WARM : Fld := ⟨0, 1⟩
def F.GLB_GUARD_STAT_PEND_HOST : Fld := ⟨0, 1⟩
def F.GLB_GUARD_STAT_PEND_STW : Fld := ⟨1, 1⟩
def F.GLB_GUARD_STAT_LAST_CAUSE : Fld := ⟨8, 4⟩
def F.GLB_GUARD_STAT_LAST_INIT : Fld := ⟨16, 8⟩
def F.GLB_AUDIT_STAT_ACTIVE : Fld := ⟨0, 1⟩
def F.GLB_AUDIT_STAT_LIVE_SHADOW : Fld := ⟨1, 1⟩
def F.EVT_STAT_EVENTS : Fld := ⟨0, 24⟩
def F.EVT_STAT_SEQ : Fld := ⟨24, 8⟩
def F.EVT_EN_EN : Fld := ⟨0, 24⟩
def F.EVT_LINE_LINE : Fld := ⟨0, 6⟩
def F.EVT_SCV_SCV : Fld := ⟨0, 24⟩
def F.EVT_PIN_CFG_PP : Fld := ⟨0, 4⟩
def F.EVT_ORT_CFG_HOLDOFF : Fld := ⟨0, 16⟩
def F.EVT_ORT_CFG_REPEAT : Fld := ⟨16, 16⟩
def F.EVT_RAISE_RAISE : Fld := ⟨0, 24⟩
def F.EVT_CMDSTAT_REASON : Fld := ⟨0, 8⟩
def F.SCV_CTRL_FLOOD : Fld := ⟨0, 20⟩
def F.SCV_STAT_ACTIVE : Fld := ⟨0, 1⟩
def F.SCV_STAT_FROZEN : Fld := ⟨1, 1⟩
def F.SCV_STAT_A_STATE : Fld := ⟨2, 2⟩
def F.SCV_STAT_B_STATE : Fld := ⟨4, 2⟩
def F.SCV_STAT_A_FAIL : Fld := ⟨6, 1⟩
def F.SCV_STAT_B_FAIL : Fld := ⟨7, 1⟩
def F.SCV_STAT_EXPORTING : Fld := ⟨8, 1⟩
def F.SCV_AON_SCV_DEAD : Fld := ⟨0, 1⟩
def F.SCV_AON_LW_VALID : Fld := ⟨1, 1⟩
def F.SCV_CMD_EXPORT : Fld := ⟨0, 1⟩
def F.SCV_CMD_THAW : Fld := ⟨1, 1⟩
def F.SCV_CMD_LOAD : Fld := ⟨2, 1⟩
def F.SCV_CMD_LW_CLEAR : Fld := ⟨3, 1⟩
def F.SCV_CMD_LIST : Fld := ⟨8, 6⟩
def F.SCV_CMD_ALL : Fld := ⟨14, 1⟩
def F.SCV_CMDSTAT_REASON : Fld := ⟨0, 8⟩
def F.SCV_HALFA_END_END : Fld := ⟨0, 19⟩
def F.SCV_HALFA_EXP_EXP : Fld := ⟨0, 19⟩
def F.SCV_HALFB_END_END : Fld := ⟨0, 19⟩
def F.SCV_HALFB_EXP_EXP : Fld := ⟨0, 19⟩
def F.SCV_SNAP_BASE_BASE : Fld := ⟨0, 22⟩
def F.SCV_WIN_ADDR_WORD : Fld := ⟨0, 15⟩
def F.SCV_WIN_ADDR_HALF : Fld := ⟨15, 1⟩
def F.STW_BOOT_STAT_STAGE : Fld := ⟨0, 4⟩
def F.STW_BOOT_STAT_SLOT : Fld := ⟨4, 1⟩
def F.STW_BOOT_STAT_TRIAL : Fld := ⟨5, 1⟩
def F.STW_BOOT_STAT_TRIES : Fld := ⟨6, 2⟩
def F.STW_BOOT_STAT_RESULT : Fld := ⟨8, 8⟩
def F.STW_BOOT_STAT_PROVISIONED : Fld := ⟨16, 1⟩
def F.STW_BOOT_STAT_KEY2 : Fld := ⟨17, 1⟩
def F.STW_BOOT_STAT_OCTAL : Fld := ⟨18, 1⟩
def F.STW_NV_STAT_BCTL_FLAGS : Fld := ⟨0, 8⟩
def F.STW_NV_STAT_PENDING : Fld := ⟨8, 2⟩
def F.STW_NV_STAT_ACTIVE : Fld := ⟨10, 1⟩
def F.STW_NV_STAT_BUSY : Fld := ⟨11, 1⟩
def F.STW_NV_STAT_BUF_FREE : Fld := ⟨16, 16⟩
def F.STW_NV_VSTAT_CODE : Fld := ⟨0, 8⟩
def F.STW_NV_CMD_PROGRAM : Fld := ⟨0, 1⟩
def F.STW_NV_CMD_VERIFY : Fld := ⟨1, 1⟩
def F.STW_NV_CMD_PENDING : Fld := ⟨2, 1⟩
def F.STW_NV_CMD_CONFIRM : Fld := ⟨3, 1⟩
def F.STW_NV_CMDSTAT_REASON : Fld := ⟨0, 8⟩
def F.STW_NV_SRC_SRC : Fld := ⟨0, 22⟩
def F.STW_NV_LEN_LEN : Fld := ⟨0, 17⟩
def F.STW_NV_ERASE_TARGET : Fld := ⟨0, 2⟩
def F.STW_NV_SLOT_SEL : Fld := ⟨0, 1⟩
def F.STW_MB_CTRL_GO : Fld := ⟨0, 1⟩
def F.STW_MB_CTRL_DONE : Fld := ⟨1, 1⟩
def F.STW_MB_CTRL_BUSY : Fld := ⟨2, 1⟩
def F.STW_STATE_STATE : Fld := ⟨0, 2⟩
def F.STW_STATE_CAUSE : Fld := ⟨8, 8⟩
def F.STW_CMD_AON_CLEAR : Fld := ⟨0, 1⟩
def F.STW_CMDSTAT_REASON : Fld := ⟨0, 8⟩
def F.STW_WDG_CFG_PERIOD : Fld := ⟨0, 14⟩
def F.STW_WDG_CFG_AUTO_RESET : Fld := ⟨16, 1⟩
def F.STW_AON_WDG : Fld := ⟨0, 1⟩
def F.STW_AON_LOCKSTEP : Fld := ⟨1, 1⟩
def F.STW_AON_AUTO_CNT : Fld := ⟨2, 2⟩
def F.STW_THERM_CFG_WARN : Fld := ⟨0, 8⟩
def F.STW_THERM_CFG_CRIT : Fld := ⟨8, 8⟩
def F.STW_THERM_CFG_HYST : Fld := ⟨16, 4⟩
def F.STW_THERM_CFG_DIMM_ACT : Fld := ⟨24, 1⟩
def F.STW_RAIL_CFG_WARN_PCT : Fld := ⟨0, 4⟩
def F.STW_RAIL_CFG_FAULT_PCT : Fld := ⟨4, 4⟩
def F.STW_TEMP_TEMP : Fld := ⟨0, 16⟩
def F.STW_RAIL_MV : Fld := ⟨0, 16⟩
def F.STW_RAIL_WARN : Fld := ⟨16, 1⟩
def F.PWR_CTRL_WAKE_TO : Fld := ⟨0, 1⟩
def F.PWR_CTRL_AUX_KEEP : Fld := ⟨1, 1⟩
def F.PWR_CMD_GO : Fld := ⟨0, 1⟩
def F.PWR_CMD_TARGET : Fld := ⟨8, 3⟩
def F.PWR_CMDSTAT_REASON : Fld := ⟨0, 8⟩
def F.PWR_STAT_STATE : Fld := ⟨0, 3⟩
def F.PWR_STAT_BUSY : Fld := ⟨3, 1⟩
def F.PWR_STAT_TARGET : Fld := ⟨4, 3⟩
def F.PWR_STAT_LAST_WAKE : Fld := ⟨8, 8⟩
def F.PWR_FORCE_STATE : Fld := ⟨0, 3⟩
def F.PWR_WAKE_EN_EN : Fld := ⟨2, 3⟩
def F.PWR_WAKE_CAUSE_CAUSE : Fld := ⟨0, 6⟩
def F.PWR_CHG_H_CHG : Fld := ⟨0, 16⟩
def F.GLB_ID_PART : Fld := ⟨0, 16⟩
def F.GLB_ID_FAMILY : Fld := ⟨16, 8⟩
def F.GLB_VERSION_STEP : Fld := ⟨0, 8⟩
def F.GLB_VERSION_MAP : Fld := ⟨8, 8⟩
def F.HIF_MSIX_ADDR_L_ADDR : Fld := ⟨2, 30⟩
def F.HIF_MSIX_CTRL_MASK : Fld := ⟨0, 1⟩

end Sys2Proof.Machine
end

