-- ==== Sys2Proof/Machine/RegMap.lean ====
section
/-! DEFINITION. The register map of BAR0: every register of Tables 20-3 to 20-7 (spec 20_register_map.md, R445 to R449)
with its reset value and the access type of each of its bits (Table 0-4), taken from the field tables of each chapter. -/

namespace Sys2Proof.Machine

/-- One register, or one run of like registers: `off + stride * i + stride2 * j` inside its block. The masks say which bits
have which access type (R12); a bit in no mask is reserved (R10). -/
structure RegRow where
  name : String
  off : Nat
  stride : Nat
  count : Nat
  stride2 : Nat
  count2 : Nat
  reset : Nat
  rw : Nat := 0
  lk : Nat := 0
  /-- The lowest bit of each LK field, where a register holds more than one. -/
  lks : Nat := 0
  rwh : Nat := 0
  cnt : Nat := 0
  cmd : Nat := 0
  sqc : Nat := 0
  wo : Nat := 0
  gd : Nat := 0
  ro : Nat := 0
  deriving DecidableEq, Repr

/-- Registers of block GLB, part 0. -/
def rowsGlb0 : List RegRow := [
  { name := "GLB_PROFILE", off := 0x40, stride := 0x0, count := 1, stride2 := 0, count2 := 1, reset := 0x38, gd := 0x3f },
  { name := "GLB_PROFILE_EFF", off := 0x44, stride := 0x0, count := 1, stride2 := 0, count2 := 1, reset := 0xf8, ro := 0x800003ff },
  { name := "GLB_CFG_LOCK", off := 0x48, stride := 0x0, count := 1, stride2 := 0, count2 := 1, reset := 0x0, gd := 0x1, ro := 0x2 },
  { name := "GLB_FENCE", off := 0x4c, stride := 0x0, count := 1, stride2 := 0, count2 := 1, reset := 0x0, cmd := 0x1, ro := 0xffff0000 },
  { name := "GLB_RESET", off := 0x50, stride := 0x0, count := 1, stride2 := 0, count2 := 1, reset := 0x0, gd := 0x1 },
  { name := "GLB_GUARD_STAT", off := 0x54, stride := 0x0, count := 1, stride2 := 0, count2 := 1, reset := 0x0, ro := 0xff0f03 },
  { name := "GLB_GUARD_CNT", off := 0x58, stride := 0x0, count := 1, stride2 := 0, count2 := 1, reset := 0x0, cnt := 0xffffffff },
  { name := "GLB_DROP_CNT", off := 0x5c, stride := 0x0, count := 1, stride2 := 0, count2 := 1, reset := 0x0, cnt := 0xffffffff },
  { name := "GLB_AUDIT_STAT", off := 0x60, stride := 0x0, count := 1, stride2 := 0, count2 := 1, reset := 0x0, ro := 0x3 },
  { name := "GLB_AUDIT_CNT", off := 0x64, stride := 0x0, count := 1, stride2 := 0, count2 := 1, reset := 0x0, cnt := 0xffffffff },
  { name := "GLB_AUDIT_MIS", off := 0x68, stride := 0x0, count := 1, stride2 := 0, count2 := 1, reset := 0x0, cnt := 0xffffffff },
  { name := "GLB_ID", off := 0x0, stride := 0x0, count := 1, stride2 := 0, count2 := 1, reset := 0x19256, ro := 0xffffff },
  { name := "GLB_VERSION", off := 0x4, stride := 0x0, count := 1, stride2 := 0, count2 := 1, reset := 0x101, ro := 0xffff },
  { name := "GLB_DIE_ID_L", off := 0x8, stride := 0x0, count := 1, stride2 := 0, count2 := 1, reset := 0x0, ro := 0xffffffff },
  { name := "GLB_DIE_ID_H", off := 0xc, stride := 0x0, count := 1, stride2 := 0, count2 := 1, reset := 0x0, ro := 0xffffffff },
  { name := "GLB_FW_VERSION", off := 0x10, stride := 0x0, count := 1, stride2 := 0, count2 := 1, reset := 0x0, ro := 0xffffffff },
  { name := "GLB_SCRATCH", off := 0x14, stride := 0x0, count := 1, stride2 := 0, count2 := 1, reset := 0x0, rw := 0xffffffff }]

/-- Every register of block GLB (Table 20-1). -/
def rowsGlb : List RegRow := rowsGlb0

/-- Registers of block EPC, part 0. -/
def rowsEpc0 : List RegRow := [
  { name := "EPC_CTRL", off := 0x0, stride := 0x0, count := 1, stride2 := 0, count2 := 1, reset := 0x642303, lk := 0x7fffff33, lks := 0x10011131 },
  { name := "EPC_STAT", off := 0x4, stride := 0x0, count := 1, stride2 := 0, count2 := 1, reset := 0x0, ro := 0xff03c0f7 },
  { name := "EPC_NOW_L", off := 0x10, stride := 0x0, count := 1, stride2 := 0, count2 := 1, reset := 0x0, ro := 0xffffffff },
  { name := "EPC_NOW_M", off := 0x14, stride := 0x0, count := 1, stride2 := 0, count2 := 1, reset := 0x0, ro := 0xffffffff },
  { name := "EPC_NOW_H", off := 0x18, stride := 0x0, count := 1, stride2 := 0, count2 := 1, reset := 0x0, ro := 0xffff },
  { name := "EPC_SET_L", off := 0x20, stride := 0x0, count := 1, stride2 := 0, count2 := 1, reset := 0x0, rw := 0xffffffff },
  { name := "EPC_SET_M", off := 0x24, stride := 0x0, count := 1, stride2 := 0, count2 := 1, reset := 0x0, rw := 0xffffffff },
  { name := "EPC_SET_H", off := 0x28, stride := 0x0, count := 1, stride2 := 0, count2 := 1, reset := 0x0, gd := 0xffff },
  { name := "EPC_PPS_DLY", off := 0x30, stride := 0x0, count := 1, stride2 := 0, count2 := 1, reset := 0x0, lk := 0xffffffff },
  { name := "EPC_UTC_OFS", off := 0x34, stride := 0x0, count := 1, stride2 := 0, count2 := 1, reset := 0x0, rwh := 0xff },
  { name := "EPC_LEAP_L", off := 0x38, stride := 0x0, count := 1, stride2 := 0, count2 := 1, reset := 0x0, rw := 0xffffffff },
  { name := "EPC_LEAP_H", off := 0x3c, stride := 0x0, count := 1, stride2 := 0, count2 := 1, reset := 0x0, rw := 0xff0fff, rwh := 0x80000000 },
  { name := "EPC_IRIG_YEAR", off := 0x40, stride := 0x0, count := 1, stride2 := 0, count2 := 1, reset := 0x7d0, rwh := 0xffff },
  { name := "EPC_SEAM_CNT", off := 0x50, stride := 0x0, count := 1, stride2 := 0, count2 := 1, reset := 0x0, cnt := 0xffffffff },
  { name := "EPC_SEAM_OFS_L", off := 0x54, stride := 0x0, count := 1, stride2 := 0, count2 := 1, reset := 0x0, ro := 0xffffffff },
  { name := "EPC_SEAM_OFS_H", off := 0x58, stride := 0x0, count := 1, stride2 := 0, count2 := 1, reset := 0x0, ro := 0xffffffff },
  { name := "EPC_WORD_ERR", off := 0x70, stride := 0x0, count := 1, stride2 := 0, count2 := 1, reset := 0x0, cnt := 0xffffffff }]

/-- Every register of block EPC (Table 20-1). -/
def rowsEpc : List RegRow := rowsEpc0

/-- Registers of block SCH, part 0. -/
def rowsSch0 : List RegRow := [
  { name := "SCH_CTRL", off := 0x0, stride := 0x0, count := 1, stride2 := 0, count2 := 1, reset := 0x0, lk := 0x803fffff, lks := 0x80000001 },
  { name := "SCH_CMD", off := 0x4, stride := 0x0, count := 1, stride2 := 0, count2 := 1, reset := 0x0, cmd := 0x1, rw := 0xff02 },
  { name := "SCH_CMDSTAT", off := 0x8, stride := 0x0, count := 1, stride2 := 0, count2 := 1, reset := 0x0, ro := 0xffff },
  { name := "SCH_FIRED", off := 0xc, stride := 0x0, count := 1, stride2 := 0, count2 := 1, reset := 0x0, cnt := 0xffffffff },
  { name := "SCH_LATE", off := 0x10, stride := 0x0, count := 1, stride2 := 0, count2 := 1, reset := 0x0, cnt := 0xffffffff }]

/-- Every register of block SCH (Table 20-1). -/
def rowsSch : List RegRow := rowsSch0

/-- Registers of block LG, part 0. -/
def rowsLg0 : List RegRow := [
  { name := "LGn_CFG", off := 0x0, stride := 0x0, count := 1, stride2 := 0, count2 := 1, reset := 0x0, lk := 0xffff1f, lks := 0x11d },
  { name := "LGn_STATE", off := 0x4, stride := 0x0, count := 1, stride2 := 0, count2 := 1, reset := 0x0, lk := 0x3fffff, lks := 0x18d1 },
  { name := "LGn_CMD", off := 0x10, stride := 0x0, count := 1, stride2 := 0, count2 := 1, reset := 0x0, cmd := 0x3 },
  { name := "LGn_CMDSTAT", off := 0x14, stride := 0x0, count := 1, stride2 := 0, count2 := 1, reset := 0x0, ro := 0xffff },
  { name := "LGn_STAT", off := 0x18, stride := 0x0, count := 1, stride2 := 0, count2 := 1, reset := 0x0, ro := 0x7 },
  { name := "LGn_STAGE", off := 0x1c, stride := 0x0, count := 1, stride2 := 0, count2 := 1, reset := 0x0, ro := 0xff, rwh := 0xff0000 },
  { name := "LGn_OVR_CNT", off := 0x20, stride := 0x0, count := 1, stride2 := 0, count2 := 1, reset := 0x0, cnt := 0xffffffff },
  { name := "LGn_OVR_LOST", off := 0x24, stride := 0x0, count := 1, stride2 := 0, count2 := 1, reset := 0x0, cnt := 0xffffffff },
  { name := "LGn_OVR_LAST_L", off := 0x30, stride := 0x0, count := 1, stride2 := 0, count2 := 1, reset := 0x0, ro := 0xffffffff },
  { name := "LGn_OVR_LAST_M", off := 0x34, stride := 0x0, count := 1, stride2 := 0, count2 := 1, reset := 0x0, ro := 0xffffffff },
  { name := "LGn_OVR_LAST_H", off := 0x38, stride := 0x0, count := 1, stride2 := 0, count2 := 1, reset := 0x0, ro := 0xffff },
  { name := "LGn_CQ_OVR", off := 0x40, stride := 0x0, count := 1, stride2 := 0, count2 := 1, reset := 0x0, cnt := 0xffffffff },
  { name := "LGn_CHk_CFG", off := 0x100, stride := 0x4, count := 32, stride2 := 0, count2 := 1, reset := 0x2000000, lk := 0x60003ff, lks := 0x6000001, rw := 0x1ff0000 },
  { name := "LGn_CHk_CAL", off := 0x200, stride := 0x4, count := 32, stride2 := 0, count2 := 1, reset := 0x0, ro := 0x800003ff }]

/-- Every register of block LG (Table 20-1). -/
def rowsLg : List RegRow := rowsLg0

/-- Registers of block TRS, part 0. -/
def rowsTrs0 : List RegRow := [
  { name := "TRS_CMD", off := 0x0, stride := 0x0, count := 1, stride2 := 0, count2 := 1, reset := 0x0, cmd := 0x1 },
  { name := "TRS_CMDSTAT", off := 0x4, stride := 0x0, count := 1, stride2 := 0, count2 := 1, reset := 0x0, ro := 0xffff },
  { name := "TRS_XT_NOW", off := 0x3080, stride := 0x0, count := 1, stride2 := 0, count2 := 1, reset := 0x0, ro := 0xffffffff },
  { name := "TRS_TRIG_IN", off := 0x3180, stride := 0x0, count := 1, stride2 := 0, count2 := 1, reset := 0x0, ro := 0xffffffff },
  { name := "TRS_WRn_CTRL", off := 0x1000, stride := 0x20, count := 64, stride2 := 0, count2 := 1, reset := 0x1f0000, lk := 0x1f0377, lks := 0x10311 },
  { name := "TRS_WRn_MASKA", off := 0x1004, stride := 0x20, count := 64, stride2 := 0, count2 := 1, reset := 0x0, lk := 0xffffffff },
  { name := "TRS_WRn_VALA", off := 0x1008, stride := 0x20, count := 64, stride2 := 0, count2 := 1, reset := 0x0, lk := 0xffffffff },
  { name := "TRS_WRn_MASKB", off := 0x100c, stride := 0x20, count := 64, stride2 := 0, count2 := 1, reset := 0x0, lk := 0xffffffff },
  { name := "TRS_WRn_VALB", off := 0x1010, stride := 0x20, count := 64, stride2 := 0, count2 := 1, reset := 0x0, lk := 0xffffffff },
  { name := "TRS_RCn_CTRL", off := 0x1800, stride := 0x10, count := 16, stride2 := 0, count2 := 1, reset := 0x1f008000, lk := 0x1f01fdf7, lks := 0x1010411 },
  { name := "TRS_RCn_LO", off := 0x1804, stride := 0x10, count := 16, stride2 := 0, count2 := 1, reset := 0x0, lk := 0xffffffff },
  { name := "TRS_RCn_HI", off := 0x1808, stride := 0x10, count := 16, stride2 := 0, count2 := 1, reset := 0x0, lk := 0xffffffff },
  { name := "TRS_CTn_CFG", off := 0x2000, stride := 0x20, count := 32, stride2 := 0, count2 := 1, reset := 0x1f, lk := 0x7ff011f, lks := 0x10101 },
  { name := "TRS_CTn_LIM_L", off := 0x2004, stride := 0x20, count := 32, stride2 := 0, count2 := 1, reset := 0x0, lk := 0xffffffff },
  { name := "TRS_CTn_LIM_H", off := 0x2008, stride := 0x20, count := 32, stride2 := 0, count2 := 1, reset := 0x0, lk := 0xffff },
  { name := "TRS_CTn_INIT_L", off := 0x200c, stride := 0x20, count := 32, stride2 := 0, count2 := 1, reset := 0x0, lk := 0xffffffff },
  { name := "TRS_CTn_INIT_H", off := 0x2010, stride := 0x20, count := 32, stride2 := 0, count2 := 1, reset := 0x0, lk := 0xffff },
  { name := "TRS_CTn_VAL_L", off := 0x2014, stride := 0x20, count := 32, stride2 := 0, count2 := 1, reset := 0x0, cnt := 0xffffffff },
  { name := "TRS_CTn_VAL_H", off := 0x2018, stride := 0x20, count := 32, stride2 := 0, count2 := 1, reset := 0x0, cnt := 0xffff },
  { name := "TRS_TMn_CFG", off := 0x2800, stride := 0x40, count := 16, stride2 := 0, count2 := 1, reset := 0x1f, ro := 0x400, lk := 0x31f, lks := 0x301 }]

/-- Registers of block TRS, part 1. -/
def rowsTrs1 : List RegRow := [
  { name := "TRS_TMn_LIM_L", off := 0x2804, stride := 0x40, count := 16, stride2 := 0, count2 := 1, reset := 0x0, lk := 0xffffffff },
  { name := "TRS_TMn_LIM_H", off := 0x2808, stride := 0x40, count := 16, stride2 := 0, count2 := 1, reset := 0x0, lk := 0xffff },
  { name := "TRS_TMn_AT_L", off := 0x2810, stride := 0x40, count := 16, stride2 := 0, count2 := 1, reset := 0x0, lk := 0xffffffff },
  { name := "TRS_TMn_AT_M", off := 0x2814, stride := 0x40, count := 16, stride2 := 0, count2 := 1, reset := 0x0, lk := 0xffffffff },
  { name := "TRS_TMn_AT_H", off := 0x2818, stride := 0x40, count := 16, stride2 := 0, count2 := 1, reset := 0x0, lk := 0xffff },
  { name := "TRS_TMn_LEN_L", off := 0x281c, stride := 0x40, count := 16, stride2 := 0, count2 := 1, reset := 0x0, lk := 0xffffffff },
  { name := "TRS_TMn_LEN_H", off := 0x2820, stride := 0x40, count := 16, stride2 := 0, count2 := 1, reset := 0x0, lk := 0xffff },
  { name := "TRS_TMn_VAL_L", off := 0x2824, stride := 0x40, count := 16, stride2 := 0, count2 := 1, reset := 0x0, cnt := 0xffffffff },
  { name := "TRS_TMn_VAL_H", off := 0x2828, stride := 0x40, count := 16, stride2 := 0, count2 := 1, reset := 0x0, cnt := 0xffff },
  { name := "TRS_XTn_CFG", off := 0x3000, stride := 0x4, count := 32, stride2 := 0, count2 := 1, reset := 0x1, lk := 0xff },
  { name := "TRS_TRIGn_CFG", off := 0x3100, stride := 0x4, count := 32, stride2 := 0, count2 := 1, reset := 0x10000, lk := 0xffff000f, lks := 0x1000f, rw := 0x10 },
  { name := "TRS_DETk_CFG", off := 0x4000, stride := 0x10, count := 256, stride2 := 0, count2 := 1, reset := 0x0, lk := 0x137, lks := 0x111 },
  { name := "TRS_DETk_WA", off := 0x4004, stride := 0x10, count := 256, stride2 := 0, count2 := 1, reset := 0x0, lk := 0xfffff },
  { name := "TRS_DETk_WB", off := 0x4008, stride := 0x10, count := 256, stride2 := 0, count2 := 1, reset := 0x0, lk := 0xfffff },
  { name := "TRS_DETCAPn_L", off := 0x5000, stride := 0x20, count := 8, stride2 := 0, count2 := 1, reset := 0x0, ro := 0xffffffff },
  { name := "TRS_DETCAPn_M", off := 0x5004, stride := 0x20, count := 8, stride2 := 0, count2 := 1, reset := 0x0, ro := 0xffffffff },
  { name := "TRS_DETCAPn_H", off := 0x5008, stride := 0x20, count := 8, stride2 := 0, count2 := 1, reset := 0x0, ro := 0xffff },
  { name := "TRS_DETCAPn_CH", off := 0x500c, stride := 0x20, count := 8, stride2 := 0, count2 := 1, reset := 0x0, rwh := 0x80000000, ro := 0x1f }]

/-- Every register of block TRS (Table 20-1). -/
def rowsTrs : List RegRow := rowsTrs0 ++ rowsTrs1

/-- Registers of block SQ, part 0. -/
def rowsSq0 : List RegRow := [
  { name := "SQn_CTRL", off := 0x0, stride := 0x0, count := 1, stride2 := 0, count2 := 1, reset := 0x0, lk := 0xf71f, lks := 0x1111 },
  { name := "SQn_STAT", off := 0x4, stride := 0x0, count := 1, stride2 := 0, count2 := 1, reset := 0x0, ro := 0xf0f },
  { name := "SQn_CHK", off := 0x8, stride := 0x0, count := 1, stride2 := 0, count2 := 1, reset := 0x0, ro := 0xf7fff },
  { name := "SQn_POST_L", off := 0x10, stride := 0x0, count := 1, stride2 := 0, count2 := 1, reset := 0x0, lk := 0xffffffff },
  { name := "SQn_POST_H", off := 0x14, stride := 0x0, count := 1, stride2 := 0, count2 := 1, reset := 0x0, lk := 0xffff },
  { name := "SQn_TRIG_L", off := 0x20, stride := 0x0, count := 1, stride2 := 0, count2 := 1, reset := 0x0, ro := 0xffffffff },
  { name := "SQn_TRIG_M", off := 0x24, stride := 0x0, count := 1, stride2 := 0, count2 := 1, reset := 0x0, ro := 0xffffffff },
  { name := "SQn_TRIG_H", off := 0x28, stride := 0x0, count := 1, stride2 := 0, count2 := 1, reset := 0x0, ro := 0xffff },
  { name := "SQn_DEC_CNT", off := 0x30, stride := 0x0, count := 1, stride2 := 0, count2 := 1, reset := 0x0, cnt := 0xffffffff },
  { name := "SQn_FRZ_IGN", off := 0x34, stride := 0x0, count := 1, stride2 := 0, count2 := 1, reset := 0x0, cnt := 0xffffffff },
  { name := "SQn_TSj", off := 0x100, stride := 0x4, count := 16, stride2 := 0, count2 := 1, reset := 0x3ff, lk := 0x7ff },
  { name := "SQn_WINj_START_L", off := 0x200, stride := 0x10, count := 4, stride2 := 0, count2 := 1, reset := 0x0, lk := 0xffffffff },
  { name := "SQn_WINj_START_H", off := 0x204, stride := 0x10, count := 4, stride2 := 0, count2 := 1, reset := 0x0, lk := 0xffff },
  { name := "SQn_WINj_END_L", off := 0x208, stride := 0x10, count := 4, stride2 := 0, count2 := 1, reset := 0x0, lk := 0xffffffff },
  { name := "SQn_WINj_END_H", off := 0x20c, stride := 0x10, count := 4, stride2 := 0, count2 := 1, reset := 0x0, lk := 0xffff },
  { name := "SQn_Lm_Bk_COND", off := 0x1000, stride := 0x10, count := 64, stride2 := 0, count2 := 1, reset := 0x0, lk := 0xffffffff, lks := 0x10001 },
  { name := "SQn_Lm_Bk_ACT", off := 0x1004, stride := 0x10, count := 64, stride2 := 0, count2 := 1, reset := 0x0, lk := 0xffff3fff, lks := 0x1011ef1 },
  { name := "SQn_Lm_Bk_OPS", off := 0x1008, stride := 0x10, count := 64, stride2 := 0, count2 := 1, reset := 0x0, lk := 0x1ff01ff, lks := 0x610061 },
  { name := "SQn_Lm_Bk_PULSE", off := 0x100c, stride := 0x10, count := 64, stride2 := 0, count2 := 1, reset := 0x0, lk := 0x9f9f, lks := 0x8181 }]

/-- Every register of block SQ (Table 20-1). -/
def rowsSq : List RegRow := rowsSq0

/-- Registers of block PRT, part 0. -/
def rowsPrt0 : List RegRow := [
  { name := "PRTp_HOLD_CFG", off := 0x800, stride := 0x1000, count := 16, stride2 := 0, count2 := 1, reset := 0x19, lk := 0x7f },
  { name := "PRTp_HOLD_START_L", off := 0x810, stride := 0x1000, count := 16, stride2 := 0, count2 := 1, reset := 0x0, rw := 0xffffffff },
  { name := "PRTp_HOLD_START_M", off := 0x814, stride := 0x1000, count := 16, stride2 := 0, count2 := 1, reset := 0x0, rw := 0xffffffff },
  { name := "PRTp_HOLD_START_H", off := 0x818, stride := 0x1000, count := 16, stride2 := 0, count2 := 1, reset := 0x0, rw := 0xffff },
  { name := "PRTp_HOLD_END_L", off := 0x820, stride := 0x1000, count := 16, stride2 := 0, count2 := 1, reset := 0x0, rw := 0xffffffff },
  { name := "PRTp_HOLD_END_M", off := 0x824, stride := 0x1000, count := 16, stride2 := 0, count2 := 1, reset := 0x0, rw := 0xffffffff },
  { name := "PRTp_HOLD_END_H", off := 0x828, stride := 0x1000, count := 16, stride2 := 0, count2 := 1, reset := 0x0, rw := 0xffff },
  { name := "PRTp_HOLD_CMD", off := 0x830, stride := 0x1000, count := 16, stride2 := 0, count2 := 1, reset := 0x0, cmd := 0x1 },
  { name := "PRTp_HOLD_STAT", off := 0x840, stride := 0x1000, count := 16, stride2 := 0, count2 := 1, reset := 0x0, ro := 0x7f007f },
  { name := "PRTp_HELD_L", off := 0x848, stride := 0x1000, count := 16, stride2 := 0, count2 := 1, reset := 0x0, ro := 0xffffffff },
  { name := "PRTp_HELD_H", off := 0x84c, stride := 0x1000, count := 16, stride2 := 0, count2 := 1, reset := 0x0, ro := 0xffff },
  { name := "PRTp_BUDGET_L", off := 0x850, stride := 0x1000, count := 16, stride2 := 0, count2 := 1, reset := 0x0, ro := 0xffffffff },
  { name := "PRTp_BUDGET_H", off := 0x854, stride := 0x1000, count := 16, stride2 := 0, count2 := 1, reset := 0x0, ro := 0xffff },
  { name := "PRTp_OLDEST_L", off := 0x860, stride := 0x1000, count := 16, stride2 := 0, count2 := 1, reset := 0x0, ro := 0xffffffff },
  { name := "PRTp_OLDEST_M", off := 0x864, stride := 0x1000, count := 16, stride2 := 0, count2 := 1, reset := 0x0, ro := 0xffffffff },
  { name := "PRTp_OLDEST_H", off := 0x868, stride := 0x1000, count := 16, stride2 := 0, count2 := 1, reset := 0x0, ro := 0xffff },
  { name := "PRTp_RET_FULL", off := 0x870, stride := 0x1000, count := 16, stride2 := 0, count2 := 1, reset := 0x0, ro := 0xffffffff },
  { name := "PRTp_RET_MIN", off := 0x874, stride := 0x1000, count := 16, stride2 := 0, count2 := 1, reset := 0x0, ro := 0xffffffff },
  { name := "PRTp_HOLD_LAST", off := 0x880, stride := 0x1000, count := 16, stride2 := 0, count2 := 1, reset := 0x0, ro := 0x3f77ff },
  { name := "PRTp_HOLD_CNT", off := 0x884, stride := 0x1000, count := 16, stride2 := 0, count2 := 1, reset := 0x0, cnt := 0xffffffff }]

/-- Registers of block PRT, part 1. -/
def rowsPrt1 : List RegRow := [
  { name := "PRTp_HOLD_REJ", off := 0x888, stride := 0x1000, count := 16, stride2 := 0, count2 := 1, reset := 0x0, cnt := 0xffffffff },
  { name := "PRTp_HOLD_CLIP", off := 0x88c, stride := 0x1000, count := 16, stride2 := 0, count2 := 1, reset := 0x0, cnt := 0xffffffff },
  { name := "PRTp_HOLD_MRG", off := 0x890, stride := 0x1000, count := 16, stride2 := 0, count2 := 1, reset := 0x0, cnt := 0xffffffff },
  { name := "PRTp_CFG", off := 0x0, stride := 0x1000, count := 16, stride2 := 0, count2 := 1, reset := 0x100, lk := 0xffff, lks := 0x9301 },
  { name := "PRTp_STAT", off := 0x4, stride := 0x1000, count := 16, stride2 := 0, count2 := 1, reset := 0x0, ro := 0x7f03 },
  { name := "PRTp_CMD", off := 0x8, stride := 0x1000, count := 16, stride2 := 0, count2 := 1, reset := 0x0, cmd := 0xf, rw := 0xff007f00 },
  { name := "PRTp_CMDSTAT", off := 0xc, stride := 0x1000, count := 16, stride2 := 0, count2 := 1, reset := 0x0, ro := 0x7fff },
  { name := "PRTp_RING_BASE", off := 0x10, stride := 0x1000, count := 16, stride2 := 0, count2 := 1, reset := 0x0, lk := 0x1fffff },
  { name := "PRTp_RING_SIZE", off := 0x14, stride := 0x1000, count := 16, stride2 := 0, count2 := 1, reset := 0x0, lk := 0x1fffff },
  { name := "PRTp_SEG_BASE", off := 0x18, stride := 0x1000, count := 16, stride2 := 0, count2 := 1, reset := 0x0, lk := 0x1fffff },
  { name := "PRTp_SEG_SIZE", off := 0x1c, stride := 0x1000, count := 16, stride2 := 0, count2 := 1, reset := 0x0, lk := 0x1fffff },
  { name := "PRTp_PRE_L", off := 0x20, stride := 0x1000, count := 16, stride2 := 0, count2 := 1, reset := 0x0, lk := 0xffffffff },
  { name := "PRTp_PRE_H", off := 0x24, stride := 0x1000, count := 16, stride2 := 0, count2 := 1, reset := 0x0, lk := 0xffff },
  { name := "PRTp_POSTMAX_L", off := 0x28, stride := 0x1000, count := 16, stride2 := 0, count2 := 1, reset := 0x0, ro := 0xffffffff },
  { name := "PRTp_POSTMAX_H", off := 0x2c, stride := 0x1000, count := 16, stride2 := 0, count2 := 1, reset := 0x0, ro := 0xffff },
  { name := "PRTp_SEG_NO", off := 0x30, stride := 0x1000, count := 16, stride2 := 0, count2 := 1, reset := 0x0, cnt := 0xffffffff },
  { name := "PRTp_LIVE0", off := 0x34, stride := 0x1000, count := 16, stride2 := 0, count2 := 1, reset := 0x0, ro := 0xffffffff },
  { name := "PRTp_LIVE1", off := 0x38, stride := 0x1000, count := 16, stride2 := 0, count2 := 1, reset := 0x0, ro := 0xffffffff },
  { name := "PRTp_LIVE2", off := 0x3c, stride := 0x1000, count := 16, stride2 := 0, count2 := 1, reset := 0x0, ro := 0x1 },
  { name := "PRTp_CAP", off := 0xf00, stride := 0x1000, count := 16, stride2 := 0, count2 := 1, reset := 0x0, ro := 0x1fffff }]

/-- Every register of block PRT (Table 20-1). -/
def rowsPrt : List RegRow := rowsPrt0 ++ rowsPrt1

/-- Registers of block ORT, part 0. -/
def rowsOrt0 : List RegRow := [
  { name := "ORT_CTRL", off := 0x0, stride := 0x0, count := 1, stride2 := 0, count2 := 1, reset := 0xb800, lk := 0x303ffff, lks := 0x3010001 },
  { name := "ORT_ENGINE_ID_L", off := 0x8, stride := 0x0, count := 1, stride2 := 0, count2 := 1, reset := 0x0, lk := 0xffffffff },
  { name := "ORT_ENGINE_ID_H", off := 0xc, stride := 0x0, count := 1, stride2 := 0, count2 := 1, reset := 0x0, lk := 0xffffffff },
  { name := "ORT_FRESH", off := 0x10, stride := 0x0, count := 1, stride2 := 0, count2 := 1, reset := 0xf4240, lk := 0xffffffff },
  { name := "ORT_NTC_TX", off := 0x20, stride := 0x0, count := 1, stride2 := 0, count2 := 1, reset := 0x0, cnt := 0xffffffff },
  { name := "ORT_NTC_DROP", off := 0x24, stride := 0x0, count := 1, stride2 := 0, count2 := 1, reset := 0x0, cnt := 0xffffffff },
  { name := "ORT_NTC_UNK", off := 0x28, stride := 0x0, count := 1, stride2 := 0, count2 := 1, reset := 0x0, cnt := 0xffffffff },
  { name := "ORT_PSi_CTRL", off := 0x1000, stride := 0x80, count := 16, stride2 := 0, count2 := 1, reset := 0x0, lk := 0xffff000f, lks := 0x10007 },
  { name := "ORT_PSi_TXPART", off := 0x1004, stride := 0x80, count := 16, stride2 := 0, count2 := 1, reset := 0x0, lk := 0xffff },
  { name := "ORT_PSi_ID_L", off := 0x1008, stride := 0x80, count := 16, stride2 := 0, count2 := 1, reset := 0x0, lk := 0xffffffff },
  { name := "ORT_PSi_ID_H", off := 0x100c, stride := 0x80, count := 16, stride2 := 0, count2 := 1, reset := 0x0, lk := 0xffffffff },
  { name := "ORT_PSi_IP", off := 0x1010, stride := 0x80, count := 16, stride2 := 0, count2 := 1, reset := 0x0, lk := 0xffffffff },
  { name := "ORT_PSi_UDP", off := 0x1014, stride := 0x80, count := 16, stride2 := 0, count2 := 1, reset := 0xb800, lk := 0xffff },
  { name := "ORT_PSi_NH_L", off := 0x1018, stride := 0x80, count := 16, stride2 := 0, count2 := 1, reset := 0x0, lk := 0xffffffff },
  { name := "ORT_PSi_NH_H", off := 0x101c, stride := 0x80, count := 16, stride2 := 0, count2 := 1, reset := 0x0, lk := 0xffff },
  { name := "ORT_PSi_KEYj", off := 0x1020, stride := 0x80, count := 16, stride2 := 4, count2 := 8, reset := 0x0, lk := 0xffffffff },
  { name := "ORT_PSi_SEQ_TX", off := 0x1040, stride := 0x80, count := 16, stride2 := 0, count2 := 1, reset := 0x0, cnt := 0xffffffff },
  { name := "ORT_PSi_SEQ_RX", off := 0x1044, stride := 0x80, count := 16, stride2 := 0, count2 := 1, reset := 0x0, ro := 0xffffffff },
  { name := "ORT_PSi_LAST_L", off := 0x1048, stride := 0x80, count := 16, stride2 := 0, count2 := 1, reset := 0x0, ro := 0xffffffff },
  { name := "ORT_PSi_LAST_M", off := 0x104c, stride := 0x80, count := 16, stride2 := 0, count2 := 1, reset := 0x0, ro := 0xffffffff }]

/-- Registers of block ORT, part 1. -/
def rowsOrt1 : List RegRow := [
  { name := "ORT_PSi_LAST_H", off := 0x1050, stride := 0x80, count := 16, stride2 := 0, count2 := 1, reset := 0x0, ro := 0xffff },
  { name := "ORT_PSi_RX_OK", off := 0x1054, stride := 0x80, count := 16, stride2 := 0, count2 := 1, reset := 0x0, cnt := 0xffffffff },
  { name := "ORT_PSi_RX_REJ", off := 0x1058, stride := 0x80, count := 16, stride2 := 0, count2 := 1, reset := 0x0, cnt := 0xffffffff },
  { name := "ORT_PSi_RX_DUP", off := 0x105c, stride := 0x80, count := 16, stride2 := 0, count2 := 1, reset := 0x0, cnt := 0xffffffff },
  { name := "ORT_PSi_REJ_LAST", off := 0x1060, stride := 0x80, count := 16, stride2 := 0, count2 := 1, reset := 0x0, ro := 0xff },
  { name := "ORT_MGMT_CTRL", off := 0x40, stride := 0x0, count := 1, stride2 := 0, count2 := 1, reset := 0x0, lk := 0x7, lks := 0x3 },
  { name := "ORT_MGMT_ID_L", off := 0x48, stride := 0x0, count := 1, stride2 := 0, count2 := 1, reset := 0x0, lk := 0xffffffff },
  { name := "ORT_MGMT_ID_H", off := 0x4c, stride := 0x0, count := 1, stride2 := 0, count2 := 1, reset := 0x0, lk := 0xffffffff },
  { name := "ORT_MGMT_IP", off := 0x50, stride := 0x0, count := 1, stride2 := 0, count2 := 1, reset := 0x0, lk := 0xffffffff },
  { name := "ORT_MGMT_UDP", off := 0x54, stride := 0x0, count := 1, stride2 := 0, count2 := 1, reset := 0xb800, lk := 0xffff },
  { name := "ORT_MGMT_NH_L", off := 0x58, stride := 0x0, count := 1, stride2 := 0, count2 := 1, reset := 0x0, lk := 0xffffffff },
  { name := "ORT_MGMT_NH_H", off := 0x5c, stride := 0x0, count := 1, stride2 := 0, count2 := 1, reset := 0x0, lk := 0xffff },
  { name := "ORT_MGMT_KEYj", off := 0x60, stride := 0x4, count := 8, stride2 := 0, count2 := 1, reset := 0x0, lk := 0xffffffff },
  { name := "ORT_MGMT_SEQ_TX", off := 0x80, stride := 0x0, count := 1, stride2 := 0, count2 := 1, reset := 0x0, cnt := 0xffffffff },
  { name := "ORT_MGMT_LAST_L", off := 0x84, stride := 0x0, count := 1, stride2 := 0, count2 := 1, reset := 0x0, ro := 0xffffffff },
  { name := "ORT_MGMT_LAST_M", off := 0x88, stride := 0x0, count := 1, stride2 := 0, count2 := 1, reset := 0x0, ro := 0xffffffff },
  { name := "ORT_MGMT_LAST_H", off := 0x8c, stride := 0x0, count := 1, stride2 := 0, count2 := 1, reset := 0x0, ro := 0xffff },
  { name := "ORT_MGMT_SEQ_RX", off := 0x90, stride := 0x0, count := 1, stride2 := 0, count2 := 1, reset := 0x0, ro := 0xffffffff },
  { name := "ORT_MGMT_RX_OK", off := 0x94, stride := 0x0, count := 1, stride2 := 0, count2 := 1, reset := 0x0, cnt := 0xffffffff },
  { name := "ORT_MGMT_RX_REJ", off := 0x98, stride := 0x0, count := 1, stride2 := 0, count2 := 1, reset := 0x0, cnt := 0xffffffff }]

/-- Registers of block ORT, part 2. -/
def rowsOrt2 : List RegRow := [
  { name := "ORT_MGMT_REJ_LAST", off := 0x9c, stride := 0x0, count := 1, stride2 := 0, count2 := 1, reset := 0x0, ro := 0xff }]

/-- Every register of block ORT (Table 20-1). -/
def rowsOrt : List RegRow := rowsOrt0 ++ rowsOrt1 ++ rowsOrt2

/-- Registers of block FUL, part 0. -/
def rowsFul0 : List RegRow := [
  { name := "FULn_CTRL", off := 0x0, stride := 0x0, count := 1, stride2 := 0, count2 := 1, reset := 0x1, lk := 0xf, lks := 0xd },
  { name := "FULn_CMD", off := 0x4, stride := 0x0, count := 1, stride2 := 0, count2 := 1, reset := 0x0, cmd := 0x1 },
  { name := "FULn_CMDSTAT", off := 0x8, stride := 0x0, count := 1, stride2 := 0, count2 := 1, reset := 0x0, ro := 0xff },
  { name := "FULn_STAT", off := 0xc, stride := 0x0, count := 1, stride2 := 0, count2 := 1, reset := 0x0, ro := 0xff },
  { name := "FULn_BLOCKS", off := 0x10, stride := 0x0, count := 1, stride2 := 0, count2 := 1, reset := 0x0, cnt := 0xffffffff },
  { name := "FULn_RAW", off := 0x14, stride := 0x0, count := 1, stride2 := 0, count2 := 1, reset := 0x0, cnt := 0xffffffff },
  { name := "FULn_VF", off := 0x18, stride := 0x0, count := 1, stride2 := 0, count2 := 1, reset := 0x0, cnt := 0xffffffff },
  { name := "FULn_STALL", off := 0x1c, stride := 0x0, count := 1, stride2 := 0, count2 := 1, reset := 0x0, cnt := 0xffffffff },
  { name := "FULn_OUT_L", off := 0x20, stride := 0x0, count := 1, stride2 := 0, count2 := 1, reset := 0x0, cnt := 0xffffffff },
  { name := "FULn_OUT_H", off := 0x24, stride := 0x0, count := 1, stride2 := 0, count2 := 1, reset := 0x0, cnt := 0xffff },
  { name := "FULn_VF_LAST_L", off := 0x30, stride := 0x0, count := 1, stride2 := 0, count2 := 1, reset := 0x0, ro := 0xffffffff },
  { name := "FULn_VF_LAST_M", off := 0x34, stride := 0x0, count := 1, stride2 := 0, count2 := 1, reset := 0x0, ro := 0xffffffff },
  { name := "FULn_VF_LAST_H", off := 0x38, stride := 0x0, count := 1, stride2 := 0, count2 := 1, reset := 0x0, ro := 0xffff },
  { name := "FULn_VF_OFS", off := 0x3c, stride := 0x0, count := 1, stride2 := 0, count2 := 1, reset := 0x0, ro := 0x7fff }]

/-- Every register of block FUL (Table 20-1). -/
def rowsFul : List RegRow := rowsFul0

/-- Registers of block CAR, part 0. -/
def rowsCar0 : List RegRow := [
  { name := "CAR_CTRL", off := 0x0, stride := 0x0, count := 1, stride2 := 0, count2 := 1, reset := 0x0, lk := 0x3fffff },
  { name := "CAR_CMD", off := 0x4, stride := 0x0, count := 1, stride2 := 0, count2 := 1, reset := 0x0, cmd := 0x1 },
  { name := "CAR_CMDSTAT", off := 0x8, stride := 0x0, count := 1, stride2 := 0, count2 := 1, reset := 0x0, ro := 0xff },
  { name := "CAR_FREE", off := 0xc, stride := 0x0, count := 1, stride2 := 0, count2 := 1, reset := 0x0, ro := 0x1fff },
  { name := "CAR_Qq_CFG", off := 0x1000, stride := 0x100, count := 8, stride2 := 0, count2 := 1, reset := 0x10000200, lk := 0x9fff1fff, lks := 0x80010001 },
  { name := "CAR_Qq_STALL", off := 0x1004, stride := 0x100, count := 8, stride2 := 0, count2 := 1, reset := 0x3e8, lk := 0xfffff },
  { name := "CAR_Qq_CMD", off := 0x1008, stride := 0x100, count := 8, stride2 := 0, count2 := 1, reset := 0x0, cmd := 0x1f, rw := 0x700 },
  { name := "CAR_Qq_CMDSTAT", off := 0x100c, stride := 0x100, count := 8, stride2 := 0, count2 := 1, reset := 0x0, ro := 0xff },
  { name := "CAR_Qq_STAT", off := 0x1010, stride := 0x100, count := 8, stride2 := 0, count2 := 1, reset := 0x0, ro := 0x9fff1fff },
  { name := "CAR_Qq_POPSTAT", off := 0x1014, stride := 0x100, count := 8, stride2 := 0, count2 := 1, reset := 0x0, ro := 0x8000ffff },
  { name := "CAR_Qq_RELH", off := 0x1018, stride := 0x100, count := 8, stride2 := 0, count2 := 1, reset := 0x0, rw := 0xffff },
  { name := "CAR_Qq_MARKNO", off := 0x101c, stride := 0x100, count := 8, stride2 := 0, count2 := 1, reset := 0x0, ro := 0xffffffff },
  { name := "CAR_Qq_INw", off := 0x1020, stride := 0x100, count := 8, stride2 := 4, count2 := 8, reset := 0x0, rw := 0xffffffff },
  { name := "CAR_Qq_OUTw", off := 0x1040, stride := 0x100, count := 8, stride2 := 4, count2 := 8, reset := 0x0, ro := 0xffffffff },
  { name := "CAR_Qq_PUSHED", off := 0x1060, stride := 0x100, count := 8, stride2 := 0, count2 := 1, reset := 0x0, cnt := 0xffffffff },
  { name := "CAR_Qq_POPPED", off := 0x1064, stride := 0x100, count := 8, stride2 := 0, count2 := 1, reset := 0x0, cnt := 0xffffffff },
  { name := "CAR_Qq_RELEASED", off := 0x1068, stride := 0x100, count := 8, stride2 := 0, count2 := 1, reset := 0x0, cnt := 0xffffffff },
  { name := "CAR_Qq_REFUSED", off := 0x106c, stride := 0x100, count := 8, stride2 := 0, count2 := 1, reset := 0x0, cnt := 0xffffffff },
  { name := "CAR_Qq_REWOUND", off := 0x1070, stride := 0x100, count := 8, stride2 := 0, count2 := 1, reset := 0x0, cnt := 0xffffffff },
  { name := "CAR_Qq_POPNO", off := 0x1074, stride := 0x100, count := 8, stride2 := 0, count2 := 1, reset := 0x0, ro := 0xffffffff }]

/-- Every register of block CAR (Table 20-1). -/
def rowsCar : List RegRow := rowsCar0

/-- Registers of block HIF, part 0. -/
def rowsHif0 : List RegRow := [
  { name := "HIF_ID", off := 0x0, stride := 0x0, count := 1, stride2 := 0, count2 := 1, reset := 0x10000, ro := 0xffffff },
  { name := "HIF_LINK", off := 0x4, stride := 0x0, count := 1, stride2 := 0, count2 := 1, reset := 0x0, ro := 0x1ff },
  { name := "HIF_DMA_CTRL", off := 0x100, stride := 0x0, count := 1, stride2 := 0, count2 := 1, reset := 0x0, rw := 0x1 },
  { name := "HIF_DMA_CMD", off := 0x104, stride := 0x0, count := 1, stride2 := 0, count2 := 1, reset := 0x0, cmd := 0x3 },
  { name := "HIF_DMA_CMDSTAT", off := 0x108, stride := 0x0, count := 1, stride2 := 0, count2 := 1, reset := 0x0, ro := 0xff },
  { name := "HIF_DMA_STAT", off := 0x10c, stride := 0x0, count := 1, stride2 := 0, count2 := 1, reset := 0x0, ro := 0x7 },
  { name := "HIF_DMA_BUF_BASE_L", off := 0x110, stride := 0x0, count := 1, stride2 := 0, count2 := 1, reset := 0x0, rw := 0xffffffff },
  { name := "HIF_DMA_BUF_BASE_H", off := 0x114, stride := 0x0, count := 1, stride2 := 0, count2 := 1, reset := 0x0, rw := 0xffffffff },
  { name := "HIF_DMA_RING", off := 0x118, stride := 0x0, count := 1, stride2 := 0, count2 := 1, reset := 0x404, rw := 0x1f1f },
  { name := "HIF_DMA_BUF_PI", off := 0x11c, stride := 0x0, count := 1, stride2 := 0, count2 := 1, reset := 0x0, rw := 0xffff },
  { name := "HIF_DMA_BUF_CI", off := 0x120, stride := 0x0, count := 1, stride2 := 0, count2 := 1, reset := 0x0, ro := 0xffff },
  { name := "HIF_DMA_CPL_BASE_L", off := 0x130, stride := 0x0, count := 1, stride2 := 0, count2 := 1, reset := 0x0, rw := 0xffffffff },
  { name := "HIF_DMA_CPL_BASE_H", off := 0x134, stride := 0x0, count := 1, stride2 := 0, count2 := 1, reset := 0x0, rw := 0xffffffff },
  { name := "HIF_DMA_CPL_PI", off := 0x13c, stride := 0x0, count := 1, stride2 := 0, count2 := 1, reset := 0x0, ro := 0xffff },
  { name := "HIF_DMA_CPL_CI", off := 0x140, stride := 0x0, count := 1, stride2 := 0, count2 := 1, reset := 0x0, rw := 0xffff },
  { name := "HIF_DMA_SEGS", off := 0x150, stride := 0x0, count := 1, stride2 := 0, count2 := 1, reset := 0x0, cnt := 0xffffffff },
  { name := "HIF_DMA_BYTES_L", off := 0x154, stride := 0x0, count := 1, stride2 := 0, count2 := 1, reset := 0x0, cnt := 0xffffffff },
  { name := "HIF_DMA_BYTES_H", off := 0x158, stride := 0x0, count := 1, stride2 := 0, count2 := 1, reset := 0x0, cnt := 0xffff },
  { name := "HIF_MSIX_ADDR_L", off := 0x8000, stride := 0x10, count := 64, stride2 := 0, count2 := 1, reset := 0x0, rw := 0xfffffffc },
  { name := "HIF_MSIX_ADDR_H", off := 0x8004, stride := 0x10, count := 64, stride2 := 0, count2 := 1, reset := 0x0, rw := 0xffffffff }]

/-- Registers of block HIF, part 1. -/
def rowsHif1 : List RegRow := [
  { name := "HIF_MSIX_DATA", off := 0x8008, stride := 0x10, count := 64, stride2 := 0, count2 := 1, reset := 0x0, rw := 0xffffffff },
  { name := "HIF_MSIX_CTRL", off := 0x800c, stride := 0x10, count := 64, stride2 := 0, count2 := 1, reset := 0x1, rw := 0x1 },
  { name := "HIF_MSIX_PBA_L", off := 0x9000, stride := 0x0, count := 1, stride2 := 0, count2 := 1, reset := 0x0, ro := 0xffffffff },
  { name := "HIF_MSIX_PBA_H", off := 0x9004, stride := 0x0, count := 1, stride2 := 0, count2 := 1, reset := 0x0, ro := 0xffffffff }]

/-- Every register of block HIF (Table 20-1). -/
def rowsHif : List RegRow := rowsHif0 ++ rowsHif1

/-- Registers of block ETH, part 0. -/
def rowsEth0 : List RegRow := [
  { name := "ETHn_CTRL", off := 0x0, stride := 0x0, count := 1, stride2 := 0, count2 := 1, reset := 0x4, lk := 0x7, lks := 0x7 },
  { name := "ETHn_MAC_L", off := 0x4, stride := 0x0, count := 1, stride2 := 0, count2 := 1, reset := 0x0, lk := 0xffffffff },
  { name := "ETHn_MAC_H", off := 0x8, stride := 0x0, count := 1, stride2 := 0, count2 := 1, reset := 0x0, lk := 0xffff },
  { name := "ETHn_IP", off := 0xc, stride := 0x0, count := 1, stride2 := 0, count2 := 1, reset := 0x0, lk := 0xffffffff },
  { name := "ETHn_VLAN", off := 0x10, stride := 0x0, count := 1, stride2 := 0, count2 := 1, reset := 0x0, lk := 0x7fff, lks := 0x1001 },
  { name := "ETHn_IPCFG", off := 0x14, stride := 0x0, count := 1, stride2 := 0, count2 := 1, reset := 0x40, lk := 0x3fff, lks := 0x101 },
  { name := "ETHn_MAXFRAME", off := 0x18, stride := 0x0, count := 1, stride2 := 0, count2 := 1, reset := 0x5ee, lk := 0x3fff },
  { name := "ETHn_STAT", off := 0x20, stride := 0x0, count := 1, stride2 := 0, count2 := 1, reset := 0x0, ro := 0x7 },
  { name := "ETHn_RX_OK", off := 0x30, stride := 0x0, count := 1, stride2 := 0, count2 := 1, reset := 0x0, cnt := 0xffffffff },
  { name := "ETHn_RX_DROP", off := 0x34, stride := 0x0, count := 1, stride2 := 0, count2 := 1, reset := 0x0, cnt := 0xffffffff },
  { name := "ETHn_RX_DROP_LAST", off := 0x38, stride := 0x0, count := 1, stride2 := 0, count2 := 1, reset := 0x0, ro := 0xf },
  { name := "ETHn_TX_OK", off := 0x3c, stride := 0x0, count := 1, stride2 := 0, count2 := 1, reset := 0x0, cnt := 0xffffffff },
  { name := "ETHn_FEC_CORR", off := 0x40, stride := 0x0, count := 1, stride2 := 0, count2 := 1, reset := 0x0, cnt := 0xffffffff },
  { name := "ETHn_FEC_UNCORR", off := 0x44, stride := 0x0, count := 1, stride2 := 0, count2 := 1, reset := 0x0, cnt := 0xffffffff },
  { name := "ETHn_STR_CFG", off := 0x100, stride := 0x0, count := 1, stride2 := 0, count2 := 1, reset := 0x100580, lk := 0x7f3fff, lks := 0x10001 },
  { name := "ETHn_STR_DST_IP", off := 0x104, stride := 0x0, count := 1, stride2 := 0, count2 := 1, reset := 0x0, lk := 0xffffffff },
  { name := "ETHn_STR_DST_UDP", off := 0x108, stride := 0x0, count := 1, stride2 := 0, count2 := 1, reset := 0xb800, lk := 0xffff },
  { name := "ETHn_STR_NH_L", off := 0x10c, stride := 0x0, count := 1, stride2 := 0, count2 := 1, reset := 0x0, lk := 0xffffffff },
  { name := "ETHn_STR_NH_H", off := 0x110, stride := 0x0, count := 1, stride2 := 0, count2 := 1, reset := 0x0, lk := 0xffff },
  { name := "ETHn_STR_PEER_ID_L", off := 0x114, stride := 0x0, count := 1, stride2 := 0, count2 := 1, reset := 0x0, lk := 0xffffffff }]

/-- Registers of block ETH, part 1. -/
def rowsEth1 : List RegRow := [
  { name := "ETHn_STR_PEER_ID_H", off := 0x118, stride := 0x0, count := 1, stride2 := 0, count2 := 1, reset := 0x0, lk := 0xffffffff },
  { name := "ETHn_STR_RTO", off := 0x11c, stride := 0x0, count := 1, stride2 := 0, count2 := 1, reset := 0x2710, lk := 0xffffff },
  { name := "ETHn_STR_KEYj", off := 0x120, stride := 0x4, count := 8, stride2 := 0, count2 := 1, reset := 0x0, lk := 0xffffffff },
  { name := "ETHn_STR_CMD", off := 0x140, stride := 0x0, count := 1, stride2 := 0, count2 := 1, reset := 0x0, cmd := 0x3 },
  { name := "ETHn_STR_CMDSTAT", off := 0x144, stride := 0x0, count := 1, stride2 := 0, count2 := 1, reset := 0x0, ro := 0xff },
  { name := "ETHn_STR_STAT", off := 0x148, stride := 0x0, count := 1, stride2 := 0, count2 := 1, reset := 0x0, ro := 0x7f03 },
  { name := "ETHn_STR_SEQ_TX", off := 0x150, stride := 0x0, count := 1, stride2 := 0, count2 := 1, reset := 0x0, cnt := 0xffffffff },
  { name := "ETHn_STR_CTL_SEQ", off := 0x154, stride := 0x0, count := 1, stride2 := 0, count2 := 1, reset := 0x0, ro := 0xffffffff },
  { name := "ETHn_STR_REPLAYS", off := 0x158, stride := 0x0, count := 1, stride2 := 0, count2 := 1, reset := 0x0, cnt := 0xffffffff },
  { name := "ETHn_STR_TIMEOUTS", off := 0x15c, stride := 0x0, count := 1, stride2 := 0, count2 := 1, reset := 0x0, cnt := 0xffffffff },
  { name := "ETHn_STR_CTL_REJ", off := 0x160, stride := 0x0, count := 1, stride2 := 0, count2 := 1, reset := 0x0, cnt := 0xffffffff },
  { name := "ETHn_STR_CTL_REJ_LAST", off := 0x164, stride := 0x0, count := 1, stride2 := 0, count2 := 1, reset := 0x0, ro := 0xff },
  { name := "ETHn_STR_ACK_STALE", off := 0x168, stride := 0x0, count := 1, stride2 := 0, count2 := 1, reset := 0x0, cnt := 0xffffffff }]

/-- Every register of block ETH (Table 20-1). -/
def rowsEth : List RegRow := rowsEth0 ++ rowsEth1

/-- Registers of block CLK, part 0. -/
def rowsClk0 : List RegRow := [
  { name := "CLK_SYN_CFG", off := 0x0, stride := 0x0, count := 1, stride2 := 0, count2 := 1, reset := 0x40000, lk := 0x11f01f3, lks := 0x1010011 },
  { name := "CLK_SYN_N", off := 0x4, stride := 0x0, count := 1, stride2 := 0, count2 := 1, reset := 0x64, lk := 0xffff },
  { name := "CLK_SYN_FRAC", off := 0x8, stride := 0x0, count := 1, stride2 := 0, count2 := 1, reset := 0x0, lk := 0xffffffff },
  { name := "CLK_SYN_SEED", off := 0xc, stride := 0x0, count := 1, stride2 := 0, count2 := 1, reset := 0x1, lk := 0xffffffff },
  { name := "CLK_STEP_N", off := 0x10, stride := 0x0, count := 1, stride2 := 0, count2 := 1, reset := 0x0, rw := 0xffff },
  { name := "CLK_STEP_FRAC", off := 0x14, stride := 0x0, count := 1, stride2 := 0, count2 := 1, reset := 0x0, rw := 0xffffffff },
  { name := "CLK_SRC", off := 0x18, stride := 0x0, count := 1, stride2 := 0, count2 := 1, reset := 0x0, gd := 0x1 },
  { name := "CLK_REF_CFG", off := 0x1c, stride := 0x0, count := 1, stride2 := 0, count2 := 1, reset := 0x64186a0, lk := 0x3fffffff, lks := 0x100001 },
  { name := "CLK_LOSS_CFG", off := 0x20, stride := 0x0, count := 1, stride2 := 0, count2 := 1, reset := 0x2710, lk := 0x3fffff },
  { name := "CLK_QUAL", off := 0x24, stride := 0x0, count := 1, stride2 := 0, count2 := 1, reset := 0x64, lk := 0x3fff },
  { name := "CLK_CMD", off := 0x30, stride := 0x0, count := 1, stride2 := 0, count2 := 1, reset := 0x0, cmd := 0x7 },
  { name := "CLK_CMDSTAT", off := 0x34, stride := 0x0, count := 1, stride2 := 0, count2 := 1, reset := 0x0, ro := 0xff },
  { name := "CLK_STAT", off := 0x38, stride := 0x0, count := 1, stride2 := 0, count2 := 1, reset := 0x0, ro := 0xffff0ff7 },
  { name := "CLK_FSC_KHZ", off := 0x3c, stride := 0x0, count := 1, stride2 := 0, count2 := 1, reset := 0x0, ro := 0x3fffff },
  { name := "CLK_RA_PHASE", off := 0x40, stride := 0x0, count := 1, stride2 := 0, count2 := 1, reset := 0x0, ro := 0xffffffff },
  { name := "CLK_LOSS_CNT", off := 0x50, stride := 0x0, count := 1, stride2 := 0, count2 := 1, reset := 0x0, cnt := 0xffffffff },
  { name := "CLK_UNLOCK_CNT", off := 0x54, stride := 0x0, count := 1, stride2 := 0, count2 := 1, reset := 0x0, cnt := 0xffffffff },
  { name := "CLK_CHG_L", off := 0x60, stride := 0x0, count := 1, stride2 := 0, count2 := 1, reset := 0x0, ro := 0xffffffff },
  { name := "CLK_CHG_M", off := 0x64, stride := 0x0, count := 1, stride2 := 0, count2 := 1, reset := 0x0, ro := 0xffffffff },
  { name := "CLK_CHG_H", off := 0x68, stride := 0x0, count := 1, stride2 := 0, count2 := 1, reset := 0x0, ro := 0xffff }]

/-- Registers of block CLK, part 1. -/
def rowsClk1 : List RegRow := [
  { name := "CLK_CKOm_CFG", off := 0x100, stride := 0x10, count := 8, stride2 := 0, count2 := 1, reset := 0x0, lk := 0x3ff0037, lks := 0x10013 },
  { name := "CLK_CKOm_PHASE", off := 0x104, stride := 0x10, count := 8, stride2 := 0, count2 := 1, reset := 0x0, rw := 0xffff, ro := 0xffff0000 },
  { name := "CLK_CKOm_PW", off := 0x108, stride := 0x10, count := 8, stride2 := 0, count2 := 1, reset := 0x64, lk := 0x7ffff }]

/-- Every register of block CLK (Table 20-1). -/
def rowsClk : List RegRow := rowsClk0 ++ rowsClk1

/-- Registers of block MCX, part 0. -/
def rowsMcx0 : List RegRow := [
  { name := "MCX_CFG", off := 0x0, stride := 0x0, count := 1, stride2 := 0, count2 := 1, reset := 0x2, lk := 0x3 },
  { name := "MCX_STAT", off := 0x4, stride := 0x0, count := 1, stride2 := 0, count2 := 1, reset := 0x0, ro := 0x73f },
  { name := "MCX_CMD", off := 0x8, stride := 0x0, count := 1, stride2 := 0, count2 := 1, reset := 0x0, cmd := 0x7, rw := 0xff00 },
  { name := "MCX_CMDSTAT", off := 0xc, stride := 0x0, count := 1, stride2 := 0, count2 := 1, reset := 0x0, ro := 0xffff },
  { name := "MCX_TRN_COMMIT", off := 0x10, stride := 0x0, count := 1, stride2 := 0, count2 := 1, reset := 0x0, gd := 0xff },
  { name := "MCX_SCHED", off := 0x20, stride := 0x0, count := 1, stride2 := 0, count2 := 1, reset := 0x8000c0, ro := 0x1ff01ff },
  { name := "MCX_REF_CFG", off := 0x30, stride := 0x0, count := 1, stride2 := 0, count2 := 1, reset := 0x4, lk := 0x7 },
  { name := "MCX_HAM_CFG", off := 0x40, stride := 0x0, count := 1, stride2 := 0, count2 := 1, reset := 0x800, lk := 0xffff },
  { name := "MCX_SCRUB", off := 0x50, stride := 0x0, count := 1, stride2 := 0, count2 := 1, reset := 0x18, lk := 0xff, ro := 0x100 },
  { name := "MCX_ECC_CFG", off := 0x54, stride := 0x0, count := 1, stride2 := 0, count2 := 1, reset := 0x100, lk := 0xffff },
  { name := "MCX_TEMP0", off := 0x60, stride := 0x0, count := 1, stride2 := 0, count2 := 1, reset := 0x0, ro := 0xffffffff },
  { name := "MCX_TEMP1", off := 0x64, stride := 0x0, count := 1, stride2 := 0, count2 := 1, reset := 0x0, ro := 0xffffffff },
  { name := "MCX_SR_ABORT", off := 0x70, stride := 0x0, count := 1, stride2 := 0, count2 := 1, reset := 0x0, cnt := 0xffffffff },
  { name := "MCX_SR_LATE", off := 0x74, stride := 0x0, count := 1, stride2 := 0, count2 := 1, reset := 0x0, cnt := 0xffffffff },
  { name := "MCX_TRN_MISS", off := 0x78, stride := 0x0, count := 1, stride2 := 0, count2 := 1, reset := 0x0, cnt := 0xffffffff }]

/-- Every register of block MCX (Table 20-1). -/
def rowsMcx : List RegRow := rowsMcx0

/-- Registers of block MC, part 0. -/
def rowsMc0 : List RegRow := [
  { name := "MCn_STAT", off := 0x0, stride := 0x0, count := 1, stride2 := 0, count2 := 1, reset := 0x0, ro := 0xff },
  { name := "MCn_DIMM_SN", off := 0x4, stride := 0x0, count := 1, stride2 := 0, count2 := 1, reset := 0x0, ro := 0xffffffff },
  { name := "MCn_DIMM_MFR", off := 0x8, stride := 0x0, count := 1, stride2 := 0, count2 := 1, reset := 0x0, ro := 0xffff },
  { name := "MCn_CE_CNT", off := 0x10, stride := 0x0, count := 1, stride2 := 0, count2 := 1, reset := 0x0, cnt := 0xffffffff },
  { name := "MCn_UE_CNT", off := 0x14, stride := 0x0, count := 1, stride2 := 0, count2 := 1, reset := 0x0, cnt := 0xffffffff },
  { name := "MCn_CE_LAST", off := 0x18, stride := 0x0, count := 1, stride2 := 0, count2 := 1, reset := 0x0, ro := 0x3fffffff },
  { name := "MCn_CE_INFO", off := 0x1c, stride := 0x0, count := 1, stride2 := 0, count2 := 1, reset := 0x0, ro := 0xf031f },
  { name := "MCn_UE_LAST", off := 0x20, stride := 0x0, count := 1, stride2 := 0, count2 := 1, reset := 0x0, ro := 0x3fffffff },
  { name := "MCn_UE_INFO", off := 0x24, stride := 0x0, count := 1, stride2 := 0, count2 := 1, reset := 0x0, ro := 0xf0300 },
  { name := "MCn_LANE_CEl", off := 0x30, stride := 0x4, count := 20, stride2 := 0, count2 := 1, reset := 0x0, cnt := 0xffffffff },
  { name := "MCn_HAM_CNT", off := 0x90, stride := 0x0, count := 1, stride2 := 0, count2 := 1, reset := 0x0, cnt := 0xffffffff },
  { name := "MCn_HAM_LAST", off := 0x94, stride := 0x0, count := 1, stride2 := 0, count2 := 1, reset := 0x0, ro := 0xffff8f3f },
  { name := "MCn_REF_DEBT", off := 0x98, stride := 0x0, count := 1, stride2 := 0, count2 := 1, reset := 0x0, ro := 0xf },
  { name := "MCn_SCRUB_POS", off := 0x9c, stride := 0x0, count := 1, stride2 := 0, count2 := 1, reset := 0x0, ro := 0x3fffffff },
  { name := "MCn_HAM_MASK", off := 0xa0, stride := 0x0, count := 1, stride2 := 0, count2 := 1, reset := 0x0, ro := 0xffff },
  { name := "MCn_TRN_CTRL", off := 0x100, stride := 0x0, count := 1, stride2 := 0, count2 := 1, reset := 0x0, rw := 0xf },
  { name := "MCn_TRN_ADDR", off := 0x104, stride := 0x0, count := 1, stride2 := 0, count2 := 1, reset := 0x0, rw := 0xffff },
  { name := "MCn_TRN_SWEEP", off := 0x108, stride := 0x0, count := 1, stride2 := 0, count2 := 1, reset := 0x4000000, rw := 0x3fffffff },
  { name := "MCn_TRN_LEN", off := 0x10c, stride := 0x0, count := 1, stride2 := 0, count2 := 1, reset := 0x1, rw := 0xffff },
  { name := "MCn_TRN_CMD", off := 0x110, stride := 0x0, count := 1, stride2 := 0, count2 := 1, reset := 0x0, cmd := 0x1 }]

/-- Registers of block MC, part 1. -/
def rowsMc1 : List RegRow := [
  { name := "MCn_TRN_STAT", off := 0x114, stride := 0x0, count := 1, stride2 := 0, count2 := 1, reset := 0x0, ro := 0x3 },
  { name := "MCn_DLY_SEL", off := 0x118, stride := 0x0, count := 1, stride2 := 0, count2 := 1, reset := 0x0, rw := 0xfff },
  { name := "MCn_DLY_DATA", off := 0x11c, stride := 0x0, count := 1, stride2 := 0, count2 := 1, reset := 0x0, rwh := 0x3ff },
  { name := "MCn_TRN_PATw", off := 0x180, stride := 0x4, count := 32, stride2 := 0, count2 := 1, reset := 0x0, rw := 0xffffffff },
  { name := "MCn_TRN_ERRb", off := 0x200, stride := 0x4, count := 80, stride2 := 0, count2 := 1, reset := 0x0, cnt := 0xffffffff },
  { name := "MCn_TRN_WINb", off := 0x400, stride := 0x4, count := 80, stride2 := 0, count2 := 1, reset := 0x0, ro := 0x3ff03ff }]

/-- Every register of block MC (Table 20-1). -/
def rowsMc : List RegRow := rowsMc0 ++ rowsMc1

/-- Registers of block CST, part 0. -/
def rowsCst0 : List RegRow := [
  { name := "CST_CTRL", off := 0x0, stride := 0x0, count := 1, stride2 := 0, count2 := 1, reset := 0x3c, lk := 0xfff },
  { name := "CST_STAT", off := 0x4, stride := 0x0, count := 1, stride2 := 0, count2 := 1, reset := 0x0, ro := 0xf },
  { name := "CST_TEST", off := 0x8, stride := 0x0, count := 1, stride2 := 0, count2 := 1, reset := 0x0, rwh := 0x1 },
  { name := "CST_BANK_FAIL_L", off := 0x10, stride := 0x0, count := 1, stride2 := 0, count2 := 1, reset := 0x0, wo := 0xffffffff },
  { name := "CST_BANK_FAIL_H", off := 0x14, stride := 0x0, count := 1, stride2 := 0, count2 := 1, reset := 0x0, wo := 0xffffffff },
  { name := "CST_CHK_FAIL_L", off := 0x18, stride := 0x0, count := 1, stride2 := 0, count2 := 1, reset := 0x0, ro := 0xffffffff },
  { name := "CST_CHK_FAIL_H", off := 0x1c, stride := 0x0, count := 1, stride2 := 0, count2 := 1, reset := 0x0, ro := 0xffffffff },
  { name := "CST_CE_CNT", off := 0x20, stride := 0x0, count := 1, stride2 := 0, count2 := 1, reset := 0x0, cnt := 0xffffffff },
  { name := "CST_UE_CNT", off := 0x24, stride := 0x0, count := 1, stride2 := 0, count2 := 1, reset := 0x0, cnt := 0xffffffff },
  { name := "CST_CE_LAST", off := 0x28, stride := 0x0, count := 1, stride2 := 0, count2 := 1, reset := 0x0, ro := 0x1f3fffff },
  { name := "CST_UE_LAST", off := 0x2c, stride := 0x0, count := 1, stride2 := 0, count2 := 1, reset := 0x0, ro := 0x1f3fffff },
  { name := "CST_DROP_CNT", off := 0x30, stride := 0x0, count := 1, stride2 := 0, count2 := 1, reset := 0x0, cnt := 0xffffffff },
  { name := "CST_DROP_LAST", off := 0x34, stride := 0x0, count := 1, stride2 := 0, count2 := 1, reset := 0x0, ro := 0x3f3fffff },
  { name := "CST_SCRUB_POS", off := 0x38, stride := 0x0, count := 1, stride2 := 0, count2 := 1, reset := 0x0, ro := 0xffff }]

/-- Every register of block CST (Table 20-1). -/
def rowsCst : List RegRow := rowsCst0

/-- Registers of block EVT, part 0. -/
def rowsEvt0 : List RegRow := [
  { name := "EVT_STATn", off := 0x0, stride := 0x4, count := 64, stride2 := 0, count2 := 1, reset := 0x0, sqc := 0xffffffff },
  { name := "EVT_ENn", off := 0x100, stride := 0x4, count := 64, stride2 := 0, count2 := 1, reset := 0x0, rw := 0xffffff },
  { name := "EVT_LINEn", off := 0x200, stride := 0x4, count := 64, stride2 := 0, count2 := 1, reset := 0x0, rw := 0x3f },
  { name := "EVT_SCVn", off := 0x300, stride := 0x4, count := 64, stride2 := 0, count2 := 1, reset := 0xffffff, rw := 0xffffff },
  { name := "EVT_LINE_ACT_L", off := 0x400, stride := 0x0, count := 1, stride2 := 0, count2 := 1, reset := 0x0, ro := 0xffffffff },
  { name := "EVT_LINE_ACT_H", off := 0x404, stride := 0x0, count := 1, stride2 := 0, count2 := 1, reset := 0x0, ro := 0xffffffff },
  { name := "EVT_PINk_MAP_L", off := 0x410, stride := 0x8, count := 4, stride2 := 0, count2 := 1, reset := 0x0, rw := 0xffffffff },
  { name := "EVT_PINk_MAP_H", off := 0x414, stride := 0x8, count := 4, stride2 := 0, count2 := 1, reset := 0x0, rw := 0xffffffff },
  { name := "EVT_PIN_CFG", off := 0x430, stride := 0x0, count := 1, stride2 := 0, count2 := 1, reset := 0x0, rw := 0xf },
  { name := "EVT_ORT_MAP_L", off := 0x440, stride := 0x0, count := 1, stride2 := 0, count2 := 1, reset := 0x0, rw := 0xffffffff },
  { name := "EVT_ORT_MAP_H", off := 0x444, stride := 0x0, count := 1, stride2 := 0, count2 := 1, reset := 0x0, rw := 0xffffffff },
  { name := "EVT_ORT_CFG", off := 0x448, stride := 0x0, count := 1, stride2 := 0, count2 := 1, reset := 0x3e8, rw := 0xffffffff },
  { name := "EVT_RAISE", off := 0x450, stride := 0x0, count := 1, stride2 := 0, count2 := 1, reset := 0x0, cmd := 0xffffff },
  { name := "EVT_CMDSTAT", off := 0x454, stride := 0x0, count := 1, stride2 := 0, count2 := 1, reset := 0x0, ro := 0xff }]

/-- Every register of block EVT (Table 20-1). -/
def rowsEvt : List RegRow := rowsEvt0

/-- Registers of block SCV, part 0. -/
def rowsScv0 : List RegRow := [
  { name := "SCV_CTRL", off := 0x0, stride := 0x0, count := 1, stride2 := 0, count2 := 1, reset := 0x3e8, lk := 0xfffff },
  { name := "SCV_STAT", off := 0x4, stride := 0x0, count := 1, stride2 := 0, count2 := 1, reset := 0x4, ro := 0x1ff },
  { name := "SCV_AON", off := 0x8, stride := 0x0, count := 1, stride2 := 0, count2 := 1, reset := 0x0, ro := 0x3 },
  { name := "SCV_LW_L", off := 0x10, stride := 0x0, count := 1, stride2 := 0, count2 := 1, reset := 0x0, ro := 0xffffffff },
  { name := "SCV_LW_H", off := 0x14, stride := 0x0, count := 1, stride2 := 0, count2 := 1, reset := 0x0, ro := 0xffffffff },
  { name := "SCV_CMD", off := 0x20, stride := 0x0, count := 1, stride2 := 0, count2 := 1, reset := 0x0, cmd := 0xf, rw := 0x7f00 },
  { name := "SCV_CMDSTAT", off := 0x24, stride := 0x0, count := 1, stride2 := 0, count2 := 1, reset := 0x0, ro := 0xff },
  { name := "SCV_REC_NO", off := 0x28, stride := 0x0, count := 1, stride2 := 0, count2 := 1, reset := 0x0, ro := 0xffffffff },
  { name := "SCV_HALFA_FIRST", off := 0x30, stride := 0x0, count := 1, stride2 := 0, count2 := 1, reset := 0x1, ro := 0xffffffff },
  { name := "SCV_HALFA_END", off := 0x34, stride := 0x0, count := 1, stride2 := 0, count2 := 1, reset := 0x0, ro := 0x7ffff },
  { name := "SCV_HALFA_EXP", off := 0x38, stride := 0x0, count := 1, stride2 := 0, count2 := 1, reset := 0x0, ro := 0x7ffff },
  { name := "SCV_HALFB_FIRST", off := 0x40, stride := 0x0, count := 1, stride2 := 0, count2 := 1, reset := 0x0, ro := 0xffffffff },
  { name := "SCV_HALFB_END", off := 0x44, stride := 0x0, count := 1, stride2 := 0, count2 := 1, reset := 0x0, ro := 0x7ffff },
  { name := "SCV_HALFB_EXP", off := 0x48, stride := 0x0, count := 1, stride2 := 0, count2 := 1, reset := 0x0, ro := 0x7ffff },
  { name := "SCV_LOST", off := 0x50, stride := 0x0, count := 1, stride2 := 0, count2 := 1, reset := 0x0, cnt := 0xffffffff },
  { name := "SCV_REFUSED", off := 0x54, stride := 0x0, count := 1, stride2 := 0, count2 := 1, reset := 0x0, cnt := 0xffffffff },
  { name := "SCV_FOLD", off := 0x58, stride := 0x0, count := 1, stride2 := 0, count2 := 1, reset := 0x0, cnt := 0xffffffff },
  { name := "SCV_SNAP_BASE", off := 0x60, stride := 0x0, count := 1, stride2 := 0, count2 := 1, reset := 0x0, lk := 0x3fffff },
  { name := "SCV_TRIG_LISTk", off := 0x70, stride := 0x4, count := 4, stride2 := 0, count2 := 1, reset := 0xffffffff, lk := 0xffffffff },
  { name := "SCV_WIN_ADDR", off := 0x80, stride := 0x0, count := 1, stride2 := 0, count2 := 1, reset := 0x0, rw := 0xffff }]

/-- Registers of block SCV, part 1. -/
def rowsScv1 : List RegRow := [
  { name := "SCV_WIN_DATA_L", off := 0x84, stride := 0x0, count := 1, stride2 := 0, count2 := 1, reset := 0x0, ro := 0xffffffff },
  { name := "SCV_WIN_DATA_H", off := 0x88, stride := 0x0, count := 1, stride2 := 0, count2 := 1, reset := 0x0, ro := 0xffffffff }]

/-- Every register of block SCV (Table 20-1). -/
def rowsScv : List RegRow := rowsScv0 ++ rowsScv1

/-- Registers of block STW, part 0. -/
def rowsStw0 : List RegRow := [
  { name := "STW_BOOT_STAT", off := 0x2000, stride := 0x0, count := 1, stride2 := 0, count2 := 1, reset := 0x0, ro := 0x7ffff },
  { name := "STW_BOOT_TIME", off := 0x2004, stride := 0x0, count := 1, stride2 := 0, count2 := 1, reset := 0x0, ro := 0xffffffff },
  { name := "STW_IMG_VERSION", off := 0x2008, stride := 0x0, count := 1, stride2 := 0, count2 := 1, reset := 0x0, ro := 0xffffffff },
  { name := "STW_IMG_BUILD_L", off := 0x200c, stride := 0x0, count := 1, stride2 := 0, count2 := 1, reset := 0x0, ro := 0xffffffff },
  { name := "STW_IMG_BUILD_H", off := 0x2010, stride := 0x0, count := 1, stride2 := 0, count2 := 1, reset := 0x0, ro := 0xffffffff },
  { name := "STW_IMG_FAIL_OFS", off := 0x2014, stride := 0x0, count := 1, stride2 := 0, count2 := 1, reset := 0x0, ro := 0xffffffff },
  { name := "STW_NV_STAT", off := 0x2020, stride := 0x0, count := 1, stride2 := 0, count2 := 1, reset := 0x40000000, ro := 0xffff0fff },
  { name := "STW_NV_VSTAT", off := 0x2024, stride := 0x0, count := 1, stride2 := 0, count2 := 1, reset := 0x0, ro := 0xff },
  { name := "STW_NV_CMD", off := 0x2028, stride := 0x0, count := 1, stride2 := 0, count2 := 1, reset := 0x0, cmd := 0xf },
  { name := "STW_NV_CMDSTAT", off := 0x202c, stride := 0x0, count := 1, stride2 := 0, count2 := 1, reset := 0x0, ro := 0xff },
  { name := "STW_NV_SRC", off := 0x2030, stride := 0x0, count := 1, stride2 := 0, count2 := 1, reset := 0x0, rw := 0x3fffff },
  { name := "STW_NV_OFS", off := 0x2034, stride := 0x0, count := 1, stride2 := 0, count2 := 1, reset := 0x0, rw := 0xffffffff },
  { name := "STW_NV_LEN", off := 0x2038, stride := 0x0, count := 1, stride2 := 0, count2 := 1, reset := 0x0, rw := 0x1ffff },
  { name := "STW_NV_ERASE", off := 0x2040, stride := 0x0, count := 1, stride2 := 0, count2 := 1, reset := 0x0, gd := 0x3 },
  { name := "STW_NV_SLOT", off := 0x2044, stride := 0x0, count := 1, stride2 := 0, count2 := 1, reset := 0x0, gd := 0x1 },
  { name := "STW_KEYHASHj", off := 0x2080, stride := 0x4, count := 24, stride2 := 0, count2 := 1, reset := 0x0, ro := 0xffffffff },
  { name := "STW_MB_CTRL", off := 0x0, stride := 0x0, count := 1, stride2 := 0, count2 := 1, reset := 0x0, rwh := 0x1, ro := 0x6 },
  { name := "STW_STATE", off := 0x4, stride := 0x0, count := 1, stride2 := 0, count2 := 1, reset := 0x0, ro := 0xff03 },
  { name := "STW_CMD", off := 0x8, stride := 0x0, count := 1, stride2 := 0, count2 := 1, reset := 0x0, cmd := 0x1 },
  { name := "STW_CMDSTAT", off := 0xc, stride := 0x0, count := 1, stride2 := 0, count2 := 1, reset := 0x0, ro := 0xff }]

/-- Registers of block STW, part 1. -/
def rowsStw1 : List RegRow := [
  { name := "STW_WDG_CFG", off := 0x10, stride := 0x0, count := 1, stride2 := 0, count2 := 1, reset := 0x103e8, lk := 0x13fff, lks := 0x10001 },
  { name := "STW_AON", off := 0x14, stride := 0x0, count := 1, stride2 := 0, count2 := 1, reset := 0x0, ro := 0xf },
  { name := "STW_SRAM_CE", off := 0x18, stride := 0x0, count := 1, stride2 := 0, count2 := 1, reset := 0x0, cnt := 0xffffffff },
  { name := "STW_MB_REQw", off := 0x100, stride := 0x4, count := 64, stride2 := 0, count2 := 1, reset := 0x0, rw := 0xffffffff },
  { name := "STW_MB_RSPw", off := 0x200, stride := 0x4, count := 64, stride2 := 0, count2 := 1, reset := 0x0, ro := 0xffffffff },
  { name := "STW_THERM_CFG", off := 0x1000, stride := 0x0, count := 1, stride2 := 0, count2 := 1, reset := 0x1057869, lk := 0x10fffff, lks := 0x1010101 },
  { name := "STW_RAIL_CFG", off := 0x1004, stride := 0x0, count := 1, stride2 := 0, count2 := 1, reset := 0x53, lk := 0xff, lks := 0x11 },
  { name := "STW_TEMPs", off := 0x1010, stride := 0x4, count := 16, stride2 := 0, count2 := 1, reset := 0x0, ro := 0xffff },
  { name := "STW_RAILr", off := 0x1060, stride := 0x4, count := 10, stride2 := 0, count2 := 1, reset := 0x0, ro := 0x1ffff }]

/-- Every register of block STW (Table 20-1). -/
def rowsStw : List RegRow := rowsStw0 ++ rowsStw1

/-- Registers of block PWR, part 0. -/
def rowsPwr0 : List RegRow := [
  { name := "PWR_CTRL", off := 0x0, stride := 0x0, count := 1, stride2 := 0, count2 := 1, reset := 0x0, lk := 0x3, lks := 0x3 },
  { name := "PWR_CMD", off := 0x4, stride := 0x0, count := 1, stride2 := 0, count2 := 1, reset := 0x0, cmd := 0x1, rw := 0x700 },
  { name := "PWR_CMDSTAT", off := 0x8, stride := 0x0, count := 1, stride2 := 0, count2 := 1, reset := 0x0, ro := 0xff },
  { name := "PWR_STAT", off := 0xc, stride := 0x0, count := 1, stride2 := 0, count2 := 1, reset := 0x0, ro := 0xff7f },
  { name := "PWR_FORCE", off := 0x10, stride := 0x0, count := 1, stride2 := 0, count2 := 1, reset := 0x0, gd := 0x7 },
  { name := "PWR_WAKE_EN", off := 0x14, stride := 0x0, count := 1, stride2 := 0, count2 := 1, reset := 0x1c, rw := 0x1c },
  { name := "PWR_WAKE_CAUSE", off := 0x18, stride := 0x0, count := 1, stride2 := 0, count2 := 1, reset := 0x0, ro := 0x3f },
  { name := "PWR_CHG_CNT", off := 0x20, stride := 0x0, count := 1, stride2 := 0, count2 := 1, reset := 0x0, cnt := 0xffffffff },
  { name := "PWR_ABORT_CNT", off := 0x24, stride := 0x0, count := 1, stride2 := 0, count2 := 1, reset := 0x0, cnt := 0xffffffff },
  { name := "PWR_CHG_L", off := 0x30, stride := 0x0, count := 1, stride2 := 0, count2 := 1, reset := 0x0, ro := 0xffffffff },
  { name := "PWR_CHG_M", off := 0x34, stride := 0x0, count := 1, stride2 := 0, count2 := 1, reset := 0x0, ro := 0xffffffff },
  { name := "PWR_CHG_H", off := 0x38, stride := 0x0, count := 1, stride2 := 0, count2 := 1, reset := 0x0, ro := 0xffff }]

/-- Every register of block PWR (Table 20-1). -/
def rowsPwr : List RegRow := rowsPwr0

/-- The blocks of Table 20-1 (R445): number of the first 64 KiB range, instances, registers. -/
def regBlocks : List (Nat × Nat × List RegRow) := [
  (0x0, 1, rowsGlb),
  (0x3, 1, rowsEpc),
  (0x7c, 1, rowsSch),
  (0x4, 8, rowsLg),
  (0x20, 1, rowsTrs),
  (0x10, 16, rowsSq),
  (0x30, 1, rowsPrt),
  (0x70, 1, rowsOrt),
  (0x28, 8, rowsFul),
  (0x38, 1, rowsCar),
  (0x60, 1, rowsHif),
  (0x68, 4, rowsEth),
  (0x2, 1, rowsClk),
  (0x48, 1, rowsMcx),
  (0x40, 8, rowsMc),
  (0x50, 1, rowsCst),
  (0x58, 1, rowsEvt),
  (0x5c, 1, rowsScv),
  (0x78, 1, rowsStw),
  (0x1, 1, rowsPwr)]

/-- Does offset `o` of a block fall on a register of this row? -/
def RegRow.hit (r : RegRow) (o : Nat) : Bool :=
  let d := o - r.off
  decide (r.off ≤ o) &&
  (let i := if r.stride = 0 then 0 else if r.count2 = 1 ∨ r.stride2 < r.stride then d / r.stride else 0
   let rest := d - r.stride * i
   decide (i < r.count) &&
   (let j := if r.stride2 = 0 then 0 else rest / r.stride2
    decide (j < r.count2) && decide (r.stride2 * j = rest)))

/-- The block of a BAR0 offset below the guard mirror, if Table 20-1 names one (R446). -/
def findBlock (n : Nat) : List (Nat × Nat × List RegRow) → Option (List RegRow)
  | [] => none
  | (b, k, rows) :: rest => if b ≤ n ∧ n < b + k then some rows else findBlock n rest

/-- The register at BAR0 offset `a`, or none where the offset is unassigned (R10, R446, R449). (DEDUCED, log 26) -/
def regRow (a : Nat) : Option RegRow :=
  match findBlock (a / 0x10000) regBlocks with
  | none => none
  | some rows => rows.find? (fun r => r.hit (a % 0x10000))


/-- The value of the register at `a` after power-on reset (R11). `EVT_LINEn` resets to n (Table 16-10). (DESIGN CHOICE, log 5) -/
def regReset (a : Nat) : BitVec 32 :=
  if 0x580200 ≤ a ∧ a < 0x580300 ∧ a % 4 = 0 then BitVec.ofNat 32 ((a - 0x580200) / 4)
  else match regRow a with
    | none => 0
    | some r => BitVec.ofNat 32 r.reset

end Sys2Proof.Machine
end

