-- ==== Sys2Proof/Machine/SMap.lean ====
section
/-! DEFINITION. Sparse maps: a list of (key, value) pairs with keys strictly rising and no entry equal to what an unlisted key reads
as. The register file, the Common Store, the flash and the other sparse stores of State are such lists. -/

namespace Sys2Proof.Machine

/-- What key `k` holds; an unlisted key holds `d k`. -/
def SMap.get {α : Type} (d : Nat → α) (m : List (Nat × α)) (k : Nat) : α :=
  match m with
  | [] => d k
  | (j, v) :: rest => if j = k then v else SMap.get d rest k

/-- `m` without key `k`. -/
def SMap.del {α : Type} (m : List (Nat × α)) (k : Nat) : List (Nat × α) :=
  match m with
  | [] => []
  | (j, v) :: rest => if j = k then SMap.del rest k else (j, v) :: SMap.del rest k

/-- `m` with key `k` listed as `v`, in key order. -/
def SMap.put {α : Type} (m : List (Nat × α)) (k : Nat) (v : α) : List (Nat × α) :=
  match m with
  | [] => [(k, v)]
  | (j, w) :: rest =>
    if k < j then (k, v) :: (j, w) :: rest
    else if k = j then (k, v) :: rest
    else (j, w) :: SMap.put rest k v

/-- `m` with key `k` holding `v`: an entry equal to the default is not listed. -/
def SMap.set {α : Type} [DecidableEq α] (d : Nat → α) (m : List (Nat × α)) (k : Nat) (v : α) : List (Nat × α) :=
  if v = d k then SMap.del m k else SMap.put m k v

/-- Every key of `m` lies above `lo`. -/
def SMap.above {α : Type} (lo : Nat) (m : List (Nat × α)) : Bool := m.all (fun e => decide (lo < e.1))

/-- The canonical form: keys strictly rising, no entry equal to the default. -/
def SMap.wf {α : Type} [DecidableEq α] (d : Nat → α) (m : List (Nat × α)) : Bool :=
  match m with
  | [] => true
  | (j, v) :: rest => !decide (v = d j) && SMap.above j rest && SMap.wf d rest

end Sys2Proof.Machine
end

