-- ==== Sys2Proof/Machine/State.lean ====
section
/-! DEFINITION. The state of the engine as plain data: the sparse register file with the reset values of RegMap, and beside it every
queue, buffer, counter, latch and pin the spec gives the engine that is not itself a register. -/

namespace Sys2Proof.Machine

/-- Why a step stops with a fault. -/
inductive Fault where
  /-- Raised by no command of this model: every command of the table completes (safe). -/
  | none
  deriving DecidableEq, Repr

/-- Why a step is refused. -/
inductive Refusal where
  /-- The named command has no meaning yet (safe). -/
  | notModelled (mnemonic : String)
  deriving DecidableEq, Repr

/-- The first write of a guarded pair, held pending (R350). -/
structure GuardPend where
  addr : Nat
  val : Word
  /-- The fabric cycle of the first write, for the 4,096-cycle limit (R352). -/
  cycle : Nat
  deriving DecidableEq, Repr

/-- What the engine remembers of each initiator's accesses (R8, R348, R350, R363) and of the register audit (R366). Keys are
`16777216 * initiator code + BAR0 offset`. -/
structure Acc where
  /-- Words captured by a read of a triple's or pair's `_L` (R8), of `SCV_WIN_DATA_L` (R388) and the like. -/
  captured : List (Nat × Word) := []
  /-- `_L` and `_M` words last written, for a later write of `_H` (R8). -/
  written : List (Nat × Word) := []
  /-- Occurrence counts latched by reads of SQC registers (R348). -/
  statC : List (Nat × Nat) := []
  guardHost : Option GuardPend := none
  guardStw : Option GuardPend := none
  fencesHost : Nat := 0
  fencesStw : Nat := 0
  /-- Fields of type WO written since reset, by register offset (R354). -/
  woDone : List Nat := []
  /-- The register audit's shadow (R366), a sparse copy of the LK registers, once it is built. -/
  shadow : Option (List (Nat × Word)) := none
  deriving DecidableEq, Repr

/-- One Scrivener record as its mechanism produces it (R377, R380). -/
structure Rec where
  typ : Nat
  src : Nat
  stamp : Nat
  payload : List Nat
  /-- The fabric cycle that produced it, for the order of R380. -/
  cycle : Nat
  deriving DecidableEq, Repr

/-- One record as a half holds it (R376 to R378, R382). -/
structure HeldRec where
  typ : Nat
  src : Nat
  stamp : Nat
  payload : List Nat
  recNo : Nat
  /-- Occurrences folded after the first; 0 = no extension (Table 16-6). -/
  rpt : Nat
  last : Nat
  deriving DecidableEq, Repr

/-- One half of the Scrivener (R376): its records in order, and words the environment has damaged (R392). -/
structure Half where
  recs : List HeldRec := []
  badWords : List Nat := []
  deriving DecidableEq, Repr

/-- The Scrivener beside its registers. -/
structure Scv where
  queue : List Rec := []
  halfA : Half := {}
  halfB : Half := {}
  /-- The working copy of the snapshot lists (R383): list number to its entries; an unlisted list was never loaded. -/
  lists : List (Nat × List Nat) := []
  /-- Records the running export will have copied, as the offsets of each half (R387). -/
  exportTo : Option (Nat × Nat) := none
  /-- After the warm reset that leaves Safe the Steward exports and then issues THAW (R391). -/
  thawDue : Bool := false
  /-- The record number of the last record copied to the flash log, in order (R387). -/
  exportedNo : Nat := 0
  /-- SCV_LOSS was raised by a full queue; its own EVENT record follows at the first place (R379, R380). -/
  lossDue : Bool := false
  deriving DecidableEq, Repr

/-- The event block beside its registers. -/
structure Evt where
  /-- Hidden occurrence counts C (R347), by status register. -/
  cnt : List (Nat × Nat) := []
  /-- One more than the fabric cycle in which C last advanced, by status register (R347: at most once a cycle). -/
  at_ : List (Nat × Nat) := []
  /-- Lines active at the end of the last command (R371). -/
  active : Nat := 0
  /-- Lines risen since the last EVENT frame (Table 16-2). -/
  risen : Nat := 0
  /-- A rise of a mapped line waits for its EVENT frame (R375). -/
  frameDue : Bool := false
  /-- Synthesiser-timeline time of the last EVENT frame, for HOLDOFF and REPEAT. -/
  lastFrame : Option Nat := none
  /-- Lines with a write to one of their status registers in this command (R372), as a mask. -/
  kick : Nat := 0
  /-- The pending bits of `EVT_RAISE` that the Steward wrote (R374); the host wrote the others. -/
  raiseStw : Nat := 0
  deriving DecidableEq, Repr

/-- The Common Store: words by physical word as they were written (unlisted words hold zero), and what is wrong with them. -/
structure Cst where
  words : List (Nat × DWord) := []
  /-- Stored bits that differ from what was written: data in [63:0], check bits in [71:64] (R335, R336). -/
  bad : List (Nat × Nat) := []
  /-- Words last written under RAW, whose check bits are copies of data bit 0 (R339). -/
  raw : List (Nat × Bool) := []
  deriving DecidableEq, Repr

/-- Accesses that wait at the Common Store's banks (R327), oldest first, each with its bank; and the master whose turn is first at each. -/
structure CstBus where
  wait : List (Nat × CstAccess) := []
  turn : List (Nat × Nat) := []
  /-- Synthesiser-timeline time at which the words of the present scrub row are due (R337). -/
  scrubAt : Nat := 0
  deriving DecidableEq, Repr

/-- The pending epoch word (R37). -/
structure EpochWord where
  payload : Nat
  /-- Keeper-independent time at which its last cell ended, in 2^-64 s of the synthesiser timeline. -/
  endAt : Nat
  deriving DecidableEq, Repr

/-- The epoch keeper beside its registers (R46 to R57). Times are in 2^-64 s: 44 + 36 + 28 bits (R50). -/
structure Epc where
  /-- The keeper's time with its guard bits. -/
  time : Nat := 0
  /-- The synthesiser timeline: advances with the fabric cycle and is never stepped; intervals between edges are read on it. -/
  line : Nat := 0
  word : Option EpochWord := none
  /-- The IRIG-B label of the next PPS edge (R41). -/
  irig : Option Nat := none
  /-- Day and year of the last accepted frame (R43). -/
  irigDay : Nat := 0
  irigYr : Nat := 0
  /-- Synthesiser-timeline time of the last active PPS edge since reset or the last SRC change (R37, R46). -/
  lastEdge : Option Nat := none
  /-- Label of the last labelled edge (R46). -/
  lastLabel : Option Nat := none
  /-- The whole second of the keeper, with an outstanding correction counted in, at the last good second (R46, R47). -/
  lastGood : Nat := 0
  /-- Offset seen at the last good second, and how many consecutive good seconds agree on it (R55). -/
  ofsSeen : Int := 0
  ofsRun : Nat := 0
  /-- A timeline exists (Table 2-6). -/
  timeline : Bool := false
  /-- The synthesiser returned from Coast or Bypass and no offset has been confirmed since (Table 2-8 cause 1). -/
  postCoast : Bool := false
  /-- An offset within a quarter REFIN period that is being slewed out (R55), in 2^-64 s. -/
  slew : Int := 0
  /-- A confirmed correction that waits for its Step (R56), in quanta. -/
  stepDue : Option Int := none
  /-- A confirmed correction being removed at SLEW_RATE (R56), in 2^-64 s. -/
  corrSlew : Option Int := none
  /-- The synthesiser returned from Coast or Bypass and the timeline is not confirmed yet (R54). -/
  awaiting : Bool := false
  /-- Synthesiser-timeline time of the last step or set of the keeper, and its size in 2^-64 s (R56, R57). -/
  stepAt : Nat := 0
  stepBy : Int := 0
  /-- Lane groups that have not yet taken a stepped or set time (R56, R57), as a mask. -/
  ofsWait : Nat := 0
  deriving DecidableEq, Repr

/-- A schedule entry's working copy (Table 2-10). -/
structure SchEntry where
  due : Nat := 0
  enable : Bool := false
  wake : Bool := false
  action : Nat := 0
  target : Nat := 0
  period : Nat := 0
  count : Nat := 0
  arg0 : Nat := 0
  arg1 : Nat := 0
  deriving DecidableEq, Repr

/-- The synthesiser and clock outputs beside their registers. -/
structure Clk where
  /-- The loop follows `XBYP` and not `REFIN` (Table 12-1). -/
  byp : Bool := false
  /-- N and FRAC of the word in force, for the reference the loop follows; while the word moves, of the word it comes from (R277, R282, R284). -/
  wordN : Nat := 100
  wordFrac : Nat := 0
  /-- The word set at the last APPLY (R277). -/
  applyN : Nat := 100
  applyFrac : Nat := 0
  /-- The word to which a ramp or a switch of references is moving, or has moved (R277, R284). -/
  rampTo : Option (Nat × Nat) := none
  /-- Synthesiser-timeline time at which the move began. -/
  rampAt : Nat := 0
  /-- Keeper time of entry to COAST (R283). -/
  coastAt : Nat := 0
  /-- The dither generator's load, and the synthesiser-timeline time of it (R275). -/
  dither : Nat := 1
  ditherAt : Nat := 0
  /-- Magnitude of the phase error in the latest f_pfd period reported, in 1/65536 of the period (R278, R279). -/
  phaseErr : Nat := 0
  /-- Synthesiser-timeline time since when `REFIN` may have been qualifying (R282). -/
  refFrom : Nat := 0
  /-- RETURN was entered from GATED: the sample clock stays held off (Table 12-1). -/
  returnHeld : Bool := false
  /-- Fabric cycle at which Gated mode stopped the sample clock (R288). -/
  stopAt : Nat := 0
  /-- `CKO` outputs whose pulse per second runs (R292), as a mask, and the synthesiser-timeline time of each pulse's leading edge. -/
  ckoHigh : Nat := 0
  ckoEdge : List (Nat × Nat) := []
  /-- Synthesiser-timeline time of the sample-clock edge on which the outputs' dividers were last started (R292). -/
  ckoAt : Nat := 0
  /-- Output aligners: output, CUR when the present move began, and the synthesiser-timeline time of that (R291). -/
  ckoFrom : List (Nat × Nat × Nat) := []
  /-- Synthesiser-timeline time of an edge of the sample clock, from which its grid runs (R60, R292). -/
  gridAt : Nat := 0
  /-- Keeper second of the last pulse of each output, so that a second starts one pulse. -/
  ckoSec : List (Nat × Nat) := []
  deriving DecidableEq, Repr

/-- What one copy of boot control says (Table 17-2). -/
structure BootCtl where
  seq : Nat := 0
  active : Nat := 0
  pending : Nat := 0
  tries : Nat := 0
  flags : Nat := 0
  deriving DecidableEq, Repr

/-- A record deferred until after the profile latch (R407). -/
inductive Deferred where
  | fill (waddr : Nat) (count : Nat) (pattern : Bool) (data : List DWord) (ofs : Nat)
  | sched (index : Nat) (words : List DWord) (ofs : Nat)
  deriving DecidableEq, Repr

/-- The poll of a WAIT record (R402). -/
structure WaitRec where
  addr : Nat
  mask : Word
  val : Word
  /-- Slot byte offset of the record, for `STW_IMG_FAIL_OFS`. -/
  ofs : Nat
  /-- Synthesiser-timeline time at which it times out. -/
  due : Nat
  deriving DecidableEq, Repr

/-- Start-up, flash and the always-on domain beside their registers (spec 17). -/
structure Boot where
  bctl0 : Option BootCtl := none
  bctl1 : Option BootCtl := none
  /-- The flash's two image slots (R396). -/
  slotA : FlashSlot := {}
  slotB : FlashSlot := {}
  runSlot : Nat := 0
  /-- This start was made from PENDING (R411). -/
  fromPending : Bool := false
  deferred : List Deferred := []
  wait : Option WaitRec := none
  /-- Synthesiser-timeline times of the release that began this start, and of RUN. -/
  startAt : Nat := 0
  runAt : Nat := 0
  /-- Synthesiser-timeline time at which the `PEN` pin that the start waits for was asserted (R405). -/
  penAt : Nat := 0
  /-- A failed start from PENDING whose FATAL record is to be exported before the warm reset (R411). -/
  failResetDue : Bool := false
  /-- A start failed, so the BAR restrictions of R409 hold in Safe. -/
  startFailed : Bool := false
  /-- The firmware package as far as its KIND 1 records have been taken, contiguous from 0 (R402). -/
  fw : List Word := []
  /-- Slot offsets of the header of the group whose records are applied, and of the record that is next (R400, R402). -/
  grpAt : Nat := 256
  recAt : Nat := 264
  deriving DecidableEq, Repr

/-- Where the response to an Ortos management request goes, and what it copies (R268). -/
structure MgmtFrom where
  port : Nat
  mac : List Nat
  ip : Nat
  udp : Nat
  op : Nat
  tag : Nat
  deriving DecidableEq, Repr

/-- The flash device and its write path (R395 to R398, R412). -/
structure Nv where
  /-- Bytes of the slot stream taken into the buffer and not yet programmed, with their slot offset. -/
  buffer : List (Nat × List Nat) := []
  /-- Where the next write of the stream must begin (R412). -/
  nextOfs : Nat := 0
  verifying : Bool := false
  /-- The erase running: 1 training cache, 2 log area, 3 inactive slot; 0 none. -/
  erasing : Nat := 0
  /-- The Ortos request that asked for the verify and waits for its answer (R412). -/
  verifyFor : Option MgmtFrom := none
  /-- Sectors of the log area, lowest first: (sequence number, first record, records) (R398). -/
  logSectors : List (Nat × Nat × List HeldRec) := []
  deriving DecidableEq, Repr

/-- The Steward and the hardware Safe controller beside their registers (spec 18). -/
structure Stw where
  /-- An Ortos MAILBOX request in service, with its data (R421). -/
  ortReq : Option (MgmtFrom × List Nat) := none
  /-- Synthesiser-timeline time at which the response of a RESET service was posted or left its port (R422). -/
  resetAt : Option Nat := none
  /-- The Steward serves nothing: Safe entry under R414, R415 or R417 (R429). -/
  dead : Bool := false
  /-- An automatic warm reset is due (R418). -/
  autoDue : Bool := false
  /-- Synthesiser-timeline time at which `FAULTN` was asserted (R418). -/
  faultAt : Nat := 0
  /-- Consecutive readings of each die sensor at or above CRIT (R425). -/
  critRun : List (Nat × Nat) := []
  /-- A thermal warning stands (R425). -/
  warm : Bool := false
  /-- Consecutive rail readings inside the warning window, and outside the fault window (R426). -/
  railIn : List (Nat × Nat) := []
  railOut : List (Nat × Nat) := []
  /-- Last STATUS_WORD of each regulator (R426). -/
  pmbus : List (Nat × Nat) := []
  /-- Synthesiser-timeline times of the Steward's last polls: 0 die sensors, 1 rails, 2 audit, 8 + k the regulator behind `PENk` (R367, R424, R426). -/
  polled : List (Nat × Nat) := []
  deriving DecidableEq, Repr

/-- A power transition in progress (R437). -/
structure PwrReq where
  target : Nat
  cause : Nat
  init : Nat
  entry : Nat
  /-- Synthesiser-timeline time of the request or wake cause. -/
  reqAt : Nat
  /-- The wake source of an exit (Table 19-6); 0xFF for a request. -/
  src : Nat := 255
  deriving DecidableEq, Repr

/-- Power ladder control beside its registers (spec 19). -/
structure Pwr where
  down : Option PwrReq := none
  /-- An exit in progress: where to, wake source, and when its cause came. -/
  up : Option PwrReq := none
  /-- A wake cause held until the step in progress completes (R440). -/
  held : Option Nat := none
  /-- Keeper time of entry to Lull or below (R66). -/
  lowAt : Nat := 0
  /-- Common Store copy in the engine region during Still (R439). -/
  cstCopy : Option Cst := none
  deriving DecidableEq, Repr

/-- The PCI Express side beside its registers (R244, R245, R250). -/
structure Pcie where
  bme : Bool := false
  msixEn : Bool := false
  funcMask : Bool := false
  /-- The function is in D3hot and not in D0 (Table 11-2). -/
  d3hot : Bool := false
  deriving DecidableEq, Repr

/-- What the engine has put on its ports, newest first. -/
inductive Out where
  /-- MSI-X vector `v` sent its message (R372). -/
  | msix (v : Nat)
  /-- Ethernet port sent a frame (R256). -/
  | frame (port : Nat) (bytes : List Nat)
  /-- A write into host memory, and whether it carries Relaxed Ordering (R239, R242, R248, R249). -/
  | hostWrite (addr : Nat) (relaxed : Bool) (bytes : List Nat)
  /-- The Steward has programmed bytes into the flash at an offset, or erased the 64 KiB sector there (R397, R412). -/
  | flashWrite (addr : Nat) (bytes : List Nat)
  | flashErase (addr : Nat)
  /-- The PMBUS service reads bytes of a command code from the regulator at an address (Table 18-3). -/
  | pmbusRead (addr cmd n : Nat)
  deriving DecidableEq, Repr

/-- The pins that hold state. -/
structure Pins where
  /-- `PORN` is low. -/
  porn : Bool := true
  /-- `PEN0` to `PEN5` as a mask (R404, R436). -/
  pen : Nat := 0
  /-- `FAULTN` is asserted (R428); it is low with `PORN` low. -/
  fault : Bool := true
  /-- Rails seen within limits since their pin rose, as a mask (R405). -/
  railOk : Nat := 0
  /-- Levels the board drives on `TRIG` pins at the last f_sc sample of the latest capture window, as a mask (R115). -/
  trigIn : Nat := 0
  deriving DecidableEq, Repr

/-- A gap in a lane group's storage (Table 7-6). -/
structure Gap where
  start : Nat
  /-- 1 overrun, 2 sample clock stopped, 3 paused. -/
  cause : Nat
  group : Nat
  lost : Nat
  duration : Nat := 0
  deriving DecidableEq, Repr

/-- An input block that waits in a staging slot (R80, R87): 16,384 bytes, with what the codec and the directory need of it. -/
structure InBlk where
  s0 : Nat
  bytes : List Nat
  valid : Nat
  /-- P_q of R53 at the block's first sample. -/
  pq : Nat
  /-- Timebase quality flags, Table 2-7. -/
  tbq : Nat
  mode : Nat
  div : Nat
  /-- First block of a run (R181). -/
  runStart : Bool
  part : Nat
  deriving DecidableEq, Repr

/-- A transition record (Table 3-4). -/
structure TrRec where
  word : Nat
  delta : Nat
  phase : Nat
  keep : Bool
  init : Bool
  deriving DecidableEq, Repr

/-- The block a lane group is forming. -/
structure Forming where
  s0 : Nat
  pq : Nat
  /-- Stored words, newest first (timing, state, qualified). -/
  words : List Nat := []
  /-- Transition records, newest first. -/
  recs : List TrRec := []
  count : Nat := 0
  /-- Every sample so far met the LOCKED condition; any COAST, BYPASS, SEAM (Table 2-7). -/
  locked : Bool := true
  coast : Bool := false
  bypass : Bool := false
  seam : Bool := false
  runStart : Bool := false
  deriving DecidableEq, Repr

/-- An output block a Fuller instance offers to its writer: 16-byte header and payload (spec 09). -/
structure OutBlk where
  s0 : Nat
  bytes : List Nat
  valid : Nat
  tbq : Nat
  raw : Bool
  vf : Bool
  part : Nat
  deriving DecidableEq, Repr

/-- One sample of a lane group, as the trigger resources and storing take it (R79, R125, R468). -/
structure Smp where
  /-- Its number among the samples the group has formed. -/
  ix : Nat
  /-- The group word w_0, and the words at all fine positions of its interval (R85); none in a `CQ`-clocked group. -/
  word : Nat
  ws : List Nat := []
  /-- The keeper's time at its instant, in 2^-64 s, and the part of it the group has not taken (R56). -/
  kt : Nat
  ofs : Int := 0
  /-- Its instant on the deskewed grid, on the synthesiser timeline, and its evaluation cycle (R125). -/
  inst : Nat
  cyc : Nat
  /-- The condition of each flag of Table 2-7 when it was taken, in that table's bit order. -/
  tb : Nat := 0
  /-- Channels whose detectors report an event in this sample (R104), as a mask. -/
  det : Nat := 0
  /-- The elastic buffer had no room for it (R83). -/
  lost : Bool := false
  /-- It has left the elastic buffer, or never enters it. -/
  drained : Bool := true
  deriving DecidableEq, Repr

/-- What waits for storing, in order: a sample, a stop of the sample clock after the samples before it, or its restart (R288), with the stamp
of the first sample not taken or taken again. -/
inductive Flow where
  | sample (s : Smp)
  | stop (stamp : Nat)
  | resume (stamp : Nat)
  deriving DecidableEq, Repr

/-- A Fuller instance between blocks (R181 to R185). -/
structure Codec where
  /-- Blocks the instance is reading, coding or checking, oldest first, with the cycle in which reading began (R194). -/
  busy : List (InBlk × Nat) := []
  /-- Output blocks not yet taken by the writer, oldest first (R195). -/
  out : List OutBlk := []
  /-- What the previous input block of the run leaves for the next: the predictor that R181 chooses from it, the symbol counts of
  R186, its VERIFY_FALLBACK and its first-sample stamp. -/
  nextPred : Nat := 1
  hist : List Nat := []
  prevVf : Bool := false
  prevS0 : Nat := 0
  /-- INJECT waits for the next compressed block (R193). -/
  inject : Bool := false
  deriving DecidableEq, Repr

/-- A lane group beside its registers (spec 03). -/
structure Lane where
  /-- Voltage across each `SIN` pair in µV, as last delivered; unlisted = 0. -/
  volts : List (Nat × Int) := []
  /-- The aligner's delay lines (R75): receiver outputs of the 32 channels from a tap position on, newest first; and the tap position at
  which the next interval begins. -/
  line : List (Int × Nat) := []
  tap : Nat := 0
  /-- Samples the group has formed, and the latest of them, newest first. -/
  total : Nat := 0
  hist : List Smp := []
  /-- What waits for storing, oldest first. -/
  pipe : List Flow := []
  /-- Intervals delivered. -/
  count : Nat := 0
  /-- Group word at the last fine position of the latest interval (R85). -/
  last : Nat := 0
  /-- Channels whose latest fine position is known: a detector's first edge is judged from there (R90), as a mask. -/
  known : Nat := 0
  /-- Per channel, one more than the running subsample position of its last edge since its detector was copied or the channel enabled;
  unlisted = none. -/
  edges : List (Nat × Nat) := []
  /-- Detector events that the next sample reports (R104), as a mask. -/
  detNext : Nat := 0
  /-- Events by the fabric-cycle window of their reporting sample, newest first: the cycle terms of `CQ`-clocked domains (R105). -/
  detWin : List (Nat × Nat) := []
  /-- Events kept for the capture register with the next reporting sample (R106): channel and stamp. -/
  capNext : List (Nat × Nat) := []
  forming : Option Forming := none
  /-- Blocks waiting in staging, oldest first (R74). -/
  staged : List InBlk := []
  codec : Codec := {}
  /-- The previous transition record's WORD and the intervals since (R86). -/
  trWord : Nat := 0
  trSince : Nat := 0
  /-- The next stored sample opens a block with INIT or a new run (R86, R89, R91). -/
  fresh : Bool := true
  /-- The next block is the first of a run for the codec (R181). -/
  runStart : Bool := true
  /-- The open gap (R91), and closed ones that wait for the first stored sample after them, oldest first (R172). -/
  gap : Option Gap := none
  closed : List Gap := []
  /-- The open gap is of the elastic buffer (R83) rather than of staging. -/
  gapCq : Bool := false
  /-- Qualified mode: whether the previous sample was stored, and words stored since ARM (R89). -/
  prevStored : Bool := false
  stored : Nat := 0
  /-- Difference in 2^-64 s between the keeper and this group's time, not yet taken (R56). -/
  ofs : Int := 0
  /-- The next block is the first after a Step (Table 2-7). -/
  afterStep : Bool := false
  /-- CAL runs since this synthesiser-timeline time (R78). -/
  calAt : Option Nat := none
  /-- The group's last sample of the post-trigger span has passed: it stores no more (R129). -/
  ended : Bool := false
  deriving DecidableEq, Repr

/-- The `TRIG` pins of one capture window (R115): levels at its last f_sc sample, and transitions up and down within it, as masks. -/
structure TrigWin where
  last : Nat
  rise : Nat
  fall : Nat
  deriving DecidableEq, Repr

/-- The trigger resources beside their registers (spec 04). -/
structure Trs where
  /-- XT activity intervals: line, first and last evaluation cycle (R113). -/
  xt : List (Nat × Nat × Nat) := []
  /-- The model's own: the fixed numbers of fabric cycles from a sample's window to its evaluation cycle (R125), and from a `TRIG` capture
  window to the evaluation cycle that takes it (R115) (DESIGN CHOICE, log 63). -/
  evalE : Nat := 8
  trigE : Nat := 4
  /-- Capture windows of the `TRIG` inputs by the evaluation cycle that takes them, newest first (R115). -/
  wins : List (Nat × TrigWin) := []
  /-- `TRIG` outputs: pulses as pin and synthesiser-timeline times of their start and end (R116). -/
  pulses : List (Nat × Nat × Nat) := []
  /-- Per recogniser, the fabric cycle of its last copy under R97: a sample before the first one after it counts as not matching (R100). -/
  wrCopied : List (Nat × Nat) := []
  /-- Counter and timer values written by software, to take effect at the owner's next evaluation cycle (R109): keyed by the value
  register's offset. -/
  presets : List (Nat × Nat) := []
  /-- Counters that have raised CT_SAT since their last copy, write or RST (R108), as a mask. -/
  satDone : Nat := 0
  deriving DecidableEq, Repr

/-- A hold requested by a sequencer or an accepted notice that waits for its hold instant (R141). -/
structure HoldReq where
  /-- Partitions that judge it, as a mask. -/
  parts : Nat
  start : Int
  stop : Int
  /-- 0 sequencer, 1 host, 2 schedule, 3 notice. -/
  source : Nat
  deriving DecidableEq, Repr

/-- A sequencer beside its registers (spec 05). -/
structure Seq where
  /-- Samples of the post-trigger span still to evaluate (R129). -/
  postLeft : Nat := 0
  /-- The number, in its domain's group, of the next sample to evaluate. -/
  next : Nat := 0
  /-- Evaluation cycle and stamp of the latest sample evaluated since ARM. -/
  lastCycle : Option Nat := none
  lastStamp : Nat := 0
  /-- The instant up to which every sample of the domain is evaluated (R88). -/
  upTo : Option Nat := none
  deriving DecidableEq, Repr

/-- A block in a partition's ring or post region, with its directory entry (Table 7-2). -/
structure Blk where
  id : Nat
  group : Nat
  post : Bool
  ofs : Nat
  len : Nat
  s0 : Nat
  valid : Nat
  tbq : Nat
  raw : Bool
  vf : Bool
  /-- Bit w: held by window slot w. -/
  held : Nat := 0
  trig : Bool := false
  /-- The group's next block: its identifier, first-sample stamp and granule, and whether that lies in the post directory. -/
  next : Option (Nat × Nat × Nat × Bool) := none
  bytes : List Nat
  deriving DecidableEq, Repr

/-- A segment table slot in use (Table 7-5). -/
structure Seg where
  segNo : Nat
  /-- 1 open, 2 committed. -/
  state : Nat := 1
  /-- 1 trigger, 2 hold. -/
  kind : Nat
  truncCause : Nat := 0
  clip : Nat := 0
  sideLost : Bool := false
  source : Nat
  reqStart : Int
  reqEnd : Int
  heldStart : Int := 0
  heldEnd : Int := 0
  at_ : Nat
  /-- The window or trigger segment has left OPEN and its commit is due (R174). -/
  closing : Bool := false
  /-- How far the commit has come: 0 not begun, 1 the list pages are being written, 2 the table entry is (R174). -/
  stage : Nat := 0
  /-- Groups that have allocated a block at or beyond the end (R148), as a mask. -/
  passed : Nat := 0
  /-- First block, last block and count of each group's run, by group. -/
  runs : List (Nat × Nat × Nat × Nat) := []
  /-- Side-log entries copied into its list pages (R173). -/
  markers : List (Nat × Nat × Nat × Nat × Nat) := []
  gaps : List Gap := []
  snaps : List (Nat × Nat × Nat) := []
  /-- Pages taken for the three lists, by page number. -/
  pages : List (List Nat) := []
  /-- 0 not pushed, 1 push refused and waiting, 2 pushed and not released, 3 released. -/
  pushed : Nat := 0
  /-- Byte 6 of its table entry, once its lists are in it (Table 7-5). -/
  flags : Nat := 0
  deriving DecidableEq, Repr

/-- A partition beside its registers (spec 06, 07). -/
structure Part where
  blocks : List Blk := []
  nextId : Nat := 1
  ringHead : Nat := 0
  postHead : Nat := 0
  /-- Identifier of each group's newest block. -/
  newest : List (Nat × Nat) := []
  /-- Groups that have switched to the post region (R169), as a mask. -/
  switched : Nat := 0
  trigStamp : Nat := 0
  endStamp : Option Nat := none
  segs : List (Nat × Seg) := []
  /-- Marker log: stamp, type, code, group, word; newest last (R172). -/
  markers : List (Nat × Nat × Nat × Nat × Nat) := []
  markersLost : Bool := false
  gaps : List Gap := []
  gapsLost : Bool := false
  snaps : List (Nat × Nat × Nat) := []
  snapsLost : Bool := false
  /-- Pages of the pool in use. -/
  pagesUsed : List Nat := []
  storeQ : Bool := false
  /-- State before PAUSED (R166). -/
  prior : Nat := 1
  /-- Slots whose AUTO_FREE is due in the next cycle (R176). -/
  autoFree : List Nat := []
  /-- Sequencer bound at ARM, plus one. -/
  seqBound : Nat := 0
  /-- The post region size Q and other sizes computed at ARM (R168). -/
  q : Nat := 0
  /-- A FREEZE has triggered the partition since its ARM: no ring block is overwritten by a later one (R169). -/
  frozen : Bool := false
  /-- Fabric cycle in which ARM was accepted (R468). -/
  armCycle : Nat := 0
  deriving DecidableEq, Repr

/-- An entry of the Carter pool in use (R224 to R232). Its descriptor bytes stand in the Common Store. -/
structure CarEntry where
  index : Nat
  gen : Nat
  queue : Nat
  arrival : Nat
  prio : Nat
  /-- 1 segment, 2 register push, with the partition and slot of a segment. -/
  kind : Nat
  part : Nat
  slot : Nat
  segNo : Nat
  /-- Fabric cycle of its push: poppable in later cycles (R228). -/
  cycle : Nat
  /-- Its pop number while popped and not returned. -/
  popNo : Option Nat := none
  everPopped : Bool := false
  rdlv : Nat := 0
  deriving DecidableEq, Repr

/-- The Carter engine beside its registers (spec 10). -/
structure Car where
  entries : List CarEntry := []
  /-- Next generation of each entry index (R228). -/
  gens : List (Nat × Nat) := []
  /-- Arrival numbers given, by queue. -/
  arrivals : List (Nat × Nat) := []
  /-- Synthesiser-timeline time since which each queue's stall timer runs (R236), and at which the engine left Gale (R238). -/
  stallAt : List (Nat × Nat) := []
  stopAt : Nat := 0
  deriving DecidableEq, Repr

/-- A stream being written by the DMA engine (R248). -/
structure DmaStream where
  handle : Nat
  desc : List Nat
  /-- Bytes written, and not yet written. -/
  sent : List Nat := []
  rest : List Nat
  total : Nat
  firstBuf : Nat
  nbuf : Nat
  status : Nat
  deriving DecidableEq, Repr

/-- The DMA engine beside its registers (R247 to R250): ring registers copied at START. -/
structure Dma where
  bufBase : Nat := 0
  cplBase : Nat := 0
  bsz : Nat := 4
  csz : Nat := 4
  /-- PHASE of the present pass through the completion ring (Table 11-3). -/
  phase : Bool := true
  stream : Option DmaStream := none
  /-- DMA_STARVED has been raised for the present wait. -/
  starved : Bool := false
  deriving DecidableEq, Repr

/-- A stream a streamer is sending (R261). -/
structure StrStream where
  handle : Nat
  desc : List Nat
  bytes : List Nat
  ofs : Nat
  rdlv : Nat
  segNo : Nat
  part : Nat
  slot : Nat
  kind : Nat
  deriving DecidableEq, Repr

/-- One Ethernet port and its streamer beside their registers (R251 to R264). Waiting frames are whole Ethernet frames without FCS. -/
structure EthPort where
  arp : List (List Nat) := []
  /-- A notice frame and whether it is a repeat copy. -/
  notices : List (List Nat × Bool) := []
  /-- A management response or EVENT frame, and whether it answers a RESET (R422). -/
  mgmt : List (List Nat × Bool) := []
  stream : Option StrStream := none
  /-- Handles popped and not released. -/
  outst : List Nat := []
  resume : Option (Nat × Nat) := none
  /-- A control frame has been accepted since START (R259). -/
  ctlSeen : Bool := false
  /-- Synthesiser-timeline time of the later of the last accepted control frame and the end of the last data frame (R264). -/
  lastAt : Nat := 0
  deriving DecidableEq, Repr

/-- A notice whose repeat copies are still to be sent (R154). -/
structure NoticeRepeat where
  port : Nat
  frame : List Nat
  left : Nat
  due : Nat
  deriving DecidableEq, Repr

/-- The Ortos engine beside its registers. -/
structure Ort where
  repeats : List NoticeRepeat := []
  /-- Synthesiser-timeline times of the frames formed in the last 4 µs (R155). -/
  formed : List Nat := []
  /-- Slots whose Ls and Lq are set (R157), as a mask; bit 16 the management station. -/
  lsValid : Nat := 0
  /-- The model's own: notice frames that a port's transmit queue takes (R155) (DESIGN CHOICE, log 71). -/
  txRoom : Nat := 64
  deriving DecidableEq, Repr

/-- A run of codewords waiting in a channel's read or write queue (R305). -/
structure DramReq where
  req : Nat
  /-- Local byte address of the first codeword. -/
  addr : Nat
  count : Nat
  /-- The first or last codeword is written in part: a read-modify-write (R301). -/
  rmwFirst : Bool := false
  rmwLast : Bool := false
  /-- It belongs to a block in a ring or post region (R314). -/
  data : Bool := false
  /-- Some of it has been carried out. -/
  begun : Bool := false
  deriving DecidableEq, Repr

/-- One entry of a bank's row tracker (R312). -/
structure RowEntry where
  row : Nat
  count : Nat
  mask : Nat
  deriving DecidableEq, Repr

/-- One DRAM channel beside its registers (spec 13). Banks are numbered 32 * rank + 4 * bank group + bank. -/
structure McCh where
  reads : List DramReq := []
  writes : List DramReq := []
  /-- Codewords read and not yet returned: requester and local address >> 7. -/
  flight : List (Nat × Nat) := []
  /-- Codewords read for a merge that is not yet written back (R301): requester and local address >> 7. -/
  merge : List (Nat × Nat) := []
  /-- Banks to which refresh management is due (R313). -/
  rfm : List Nat := []
  /-- Activations that writers have made of a unit's row in this pass of its region, by unit (R314). -/
  acts : List (Nat × Nat) := []
  /-- Capacity of the channel's DIMM in bytes. -/
  bytes : Nat := 0
  draining : Bool := false
  /-- Postponed refreshes, by rank (R309). -/
  debt : List (Nat × Nat) := []
  /-- Requester served last, for the rotation of reads (R305). -/
  lastReq : Nat := 15
  openRow : List (Nat × Nat) := []
  trackers : List (Nat × List RowEntry) := []
  /-- Throttled requesters of the window, by bank, and the line time of each one's last activation of it (R313). -/
  throttle : List (Nat × Nat) := []
  throttleAt : List (Nat × Nat) := []
  /-- Lanes that have raised MC_LANE since their count was written (R299). -/
  laneDone : Nat := 0
  /-- Consecutive cool readings while hot (R310). -/
  coolRun : Nat := 0
  /-- Codewords that read as uncorrectable (2), or with bits nothing states (3), by local address >> 7 (R298, R300). -/
  bad : List (Nat × Nat) := []
  /-- Line times at which the next scrub read and the next drift correction are due (R302, R321). -/
  scrubDue : Nat := 0
  driftDue : Nat := 0
  staged : List (Nat × Nat) := []
  inUse : List (Nat × Nat) := []
  deriving DecidableEq, Repr

/-- The training cache in flash (R320): its key, and the delays of each channel. -/
structure TrnCache where
  key : List Nat
  delays : List (Nat × List (Nat × Nat))
  deriving DecidableEq, Repr

/-- The DRAM controller beside its registers. -/
structure Mc where
  chans : List (Nat × McCh) := []
  /-- The readout token bucket in bytes times 2^64, and the line time it was last filled (R306). -/
  tokens : Nat := 65536 * 18446744073709551616
  tokensAt : Nat := 0
  /-- Controller state held before self-refresh entry, and what asked: 1 the command, 2 the power ladder (R317). -/
  srPrior : Nat := 0
  srBy : Nat := 0
  /-- The residency after the entry command is not over (R316). -/
  residency : Bool := false
  /-- Line time of the commit point (R316). -/
  commitAt : Nat := 0
  /-- Requests that wait for self-refresh exit (R317): requester, and its reads by channel. -/
  late : List (Nat × List (Nat × DramReq)) := []
  /-- The engine's own writes of table entries, list pages and directory entries that wait for room in a write queue, by channel. -/
  wait : List (Nat × DramReq) := []
  /-- Line times from which the Steward and patrol scrub may read again (R306). -/
  stwAt : Nat := 0
  scrubAt : Nat := 0
  /-- SR_EXIT or a wake waits for the end of the residency. -/
  exitDue : Bool := false
  /-- The training cache in flash (R320), if there is one. -/
  cache : Option TrnCache := none
  /-- Capacity C of the smallest DIMM in bytes (R159). -/
  dimmBytes : Nat := 0
  deriving DecidableEq, Repr

/-- A fatal condition declared by the command being executed, for Safe entry at its end (R428). -/
structure Fatal where
  cause : Nat
  detail : List Nat
  stamp : Nat
  /-- Carried out by the hardware Safe controller (R414, R415, R417): the Steward serves nothing afterwards. -/
  hw : Bool := false
  deriving DecidableEq, Repr

/-- Everything of the engine but the queue of waiting commands. -/
structure Chip where
  /-- Fabric cycles since reset (R3). -/
  cycle : Nat := 0
  /-- The model's own: fabric cycles an idle step lets pass (DESIGN CHOICE, log 1). -/
  dwell : Nat := 1
  /-- The model's own: how many free values have been used (DESIGN CHOICE, log 3). -/
  freeCtr : Nat := 0
  /-- BAR0 registers by offset; an unlisted register holds its reset value (RegMap). -/
  regs : List (Nat × Word) := []
  /-- Working copies of configuration registers by the same offsets (R15, R71, R97, R272, R292). -/
  wcopy : List (Nat × Word) := []
  /-- The value of the last read a command made. -/
  rdata : Word := 0
  /-- Data of the last BAR2 read. -/
  rblock : List Word := []
  /-- Whether the last register write of a service was dropped, and the reason of the last command it issued (R423). -/
  dropped : Bool := false
  lastReason : Nat := 0
  out : List Out := []
  pins : Pins := {}
  acc : Acc := {}
  evt : Evt := {}
  scv : Scv := {}
  cst : Cst := {}
  cstBus : CstBus := {}
  epc : Epc := {}
  sch : List (Nat × SchEntry) := []
  clk : Clk := {}
  boot : Boot := {}
  nv : Nv := {}
  stw : Stw := {}
  pwr : Pwr := {}
  pcie : Pcie := {}
  lanes : List (Nat × Lane) := []
  trs : Trs := {}
  seqs : List (Nat × Seq) := []
  /-- Holds that wait for their hold instant (R141), oldest first: of sequencers and of notices. -/
  seqHolds : List HoldReq := []
  noticeHolds : List HoldReq := []
  parts : List (Nat × Part) := []
  car : Car := {}
  dma : Dma := {}
  eths : List (Nat × EthPort) := []
  ort : Ort := {}
  mc : Mc := {}
  fatal : Option Fatal := none
  /-- A warm reset that the command being executed asks for (R430). -/
  resetReq : Bool := false
  deriving DecidableEq, Repr

/-- The state: the commands that wait, first in, first out, and the engine. -/
structure State where
  pending : List Instr
  chip : Chip
  deriving DecidableEq, Repr

/-- The machine right after reset: `PORN` low, every register at its reset value, nothing stored.
(DESIGN CHOICE, log 5; DESIGN CHOICE, log 13) -/
def State.reset : State := { pending := [], chip := {} }

end Sys2Proof.Machine
end

