-- ==== Sys2Proof/Machine/Ops.lean ====
section
/-! DEFINITION. The named operations over registers, working copies, time, free values, events and the Scrivener's input queue, over
which every command's meaning is written. -/

namespace Sys2Proof.Machine

/-! ### Registers -/

/-- The register at BAR0 offset `a`, as the hardware sees it. -/
def Chip.reg (c : Chip) (a : Nat) : Word := SMap.get regReset c.regs a

/-- Put a value into a register: the one place where the register file changes. -/
def Chip.setReg (c : Chip) (a : Nat) (v : Word) : Chip := { c with regs := SMap.set regReset c.regs a v }

/-- A register as a number. -/
def Chip.rn (c : Chip) (a : Nat) : Nat := (c.reg a).toNat

/-- Put a number into a register, modulo 2^32. -/
def Chip.setN (c : Chip) (a n : Nat) : Chip := c.setReg a (BitVec.ofNat 32 n)

/-- A field of a register. -/
def Chip.fld (c : Chip) (a : Nat) (f : Fld) : Nat := bits (c.rn a) f.lo f.w

/-- A one-bit field. -/
def Chip.flag (c : Chip) (a : Nat) (f : Fld) : Bool := decide (c.fld a f ≠ 0)

/-- Hardware update of a field. -/
def Chip.setFld (c : Chip) (a : Nat) (f : Fld) (v : Nat) : Chip := c.setN a (putBits (c.rn a) f.lo f.w v)

/-- Hardware update of a one-bit field. -/
def Chip.setFlag (c : Chip) (a : Nat) (f : Fld) (b : Bool) : Chip := c.setFld a f (if b then 1 else 0)

/-- A counter's increment by hardware, modulo 2^32 (DEDUCED, log 9). -/
def Chip.addCnt (c : Chip) (a k : Nat) : Chip := c.setN a (c.rn a + k)

/-- A saturating counter's increment. (DEDUCED, log 9) -/
def Chip.addSat (c : Chip) (a k : Nat) : Chip := c.setN a (satAdd 32 (c.rn a) k)

/-- The 80-bit value of the triple whose `_L` is at `a` (R8). -/
def Chip.triple (c : Chip) (a : Nat) : Nat := c.rn a + 2 ^ 32 * c.rn (a + 4) + 2 ^ 64 * (c.rn (a + 8) % 2 ^ 16)

/-- Hardware update of a triple. -/
def Chip.setTriple (c : Chip) (a v : Nat) : Chip :=
  ((c.setN a v).setN (a + 4) (v / 2 ^ 32)).setN (a + 8) (v / 2 ^ 64 % 2 ^ 16)

/-- The value of a pair `_L`, `_H` whose `_H` has `w` bits. -/
def Chip.pair (c : Chip) (w a : Nat) : Nat := c.rn a + 2 ^ 32 * (c.rn (a + 4) % 2 ^ w)

/-- Hardware update of a pair. -/
def Chip.setPair (c : Chip) (w a v : Nat) : Chip := (c.setN a v).setN (a + 4) (v / 2 ^ 32 % 2 ^ w)

/-! ### Working copies (R15, R71, R97) -/

/-- The working copy of a register. -/
def Chip.wreg (c : Chip) (a : Nat) : Nat := (SMap.get regReset c.wcopy a).toNat

/-- A field of a working copy. -/
def Chip.wfld (c : Chip) (a : Nat) (f : Fld) : Nat := bits (c.wreg a) f.lo f.w

/-- A one-bit field of a working copy. -/
def Chip.wflag (c : Chip) (a : Nat) (f : Fld) : Bool := decide (c.wfld a f ≠ 0)

/-- The 80-bit working copy of a triple. -/
def Chip.wtriple (c : Chip) (a : Nat) : Nat := c.wreg a + 2 ^ 32 * c.wreg (a + 4) + 2 ^ 64 * (c.wreg (a + 8) % 2 ^ 16)

/-- The working copy of a pair. -/
def Chip.wpair (c : Chip) (w a : Nat) : Nat := c.wreg a + 2 ^ 32 * (c.wreg (a + 4) % 2 ^ w)

/-- Copy one register into its working copy. -/
def Chip.copyReg (c : Chip) (a : Nat) : Chip := { c with wcopy := SMap.set regReset c.wcopy a (c.reg a) }

/-- Copy a list of registers into their working copies. -/
def Chip.copyRegs (c : Chip) (l : List Nat) : Chip := l.foldl Chip.copyReg c

/-- Registers `a`, `a + 4`, … , `n` of them. -/
def run (a n : Nat) : List Nat := (List.range n).map (fun i => a + 4 * i)

/-! ### Sub-structures by index -/

def Chip.lane (c : Chip) (g : Nat) : Lane := SMap.get (fun _ => {}) c.lanes g
def Chip.setLane (c : Chip) (g : Nat) (l : Lane) : Chip := { c with lanes := SMap.put c.lanes g l }
def Chip.seq (c : Chip) (n : Nat) : Seq := SMap.get (fun _ => {}) c.seqs n
def Chip.setSeq (c : Chip) (n : Nat) (q : Seq) : Chip := { c with seqs := SMap.put c.seqs n q }
def Chip.part (c : Chip) (p : Nat) : Part := SMap.get (fun _ => {}) c.parts p
def Chip.setPart (c : Chip) (p : Nat) (q : Part) : Chip := { c with parts := SMap.put c.parts p q }
def Chip.eth (c : Chip) (n : Nat) : EthPort := SMap.get (fun _ => {}) c.eths n
def Chip.setEth (c : Chip) (n : Nat) (e : EthPort) : Chip := { c with eths := SMap.put c.eths n e }
def Chip.mcCh (c : Chip) (n : Nat) : McCh := SMap.get (fun _ => {}) c.mc.chans n
def Chip.setMcCh (c : Chip) (n : Nat) (m : McCh) : Chip := { c with mc := { c.mc with chans := SMap.put c.mc.chans n m } }
def Chip.schEntry (c : Chip) (i : Nat) : SchEntry := SMap.get (fun _ => {}) c.sch i
def Chip.setSch (c : Chip) (i : Nat) (e : SchEntry) : Chip := { c with sch := SMap.set (fun _ => {}) c.sch i e }

/-- A sparse list of numbers read with default 0. -/
def cnt0 (m : List (Nat × Nat)) (k : Nat) : Nat := SMap.get (fun _ => 0) m k

/-- A sparse list of numbers updated with default 0. -/
def put0 (m : List (Nat × Nat)) (k v : Nat) : List (Nat × Nat) := SMap.set (fun _ => 0) m k v

/-! ### Time (R3, R5, R50, R51). All in units of 2^-64 s: a quantum is 2^28 of them. -/

/-- One quantum, 2^-36 s. -/
def quantum : Nat := 268435456

/-- The nominal fabric cycle, 1.6 ns, rounded to 2^-64 s (R50; DESIGN CHOICE, log 2). -/
def fabricCycle : Nat := 29514790518

/-- One second. -/
def second : Nat := 18446744073709551616

/-- One microsecond, rounded. -/
def micro : Nat := 18446744073710

/-- The stamp of a keeper time: rounded to the nearest quantum, halves up (R51). -/
def stampOf (t : Nat) : Nat := (t + quantum / 2) / quantum

/-- The keeper's present stamp. -/
def Chip.now (c : Chip) : Nat := stampOf c.epc.time

/-- SLEW_RATE in force: 0 acts as 1, above 500 as 500 (Table 2-12). -/
def Chip.slewPpm (c : Chip) : Nat := max 1 (min 500 (c.fld R.EPC_CTRL F.EPC_CTRL_SLEW_RATE))

/-- A quarter of the nominal REFIN period (R55). -/
def Chip.refQuarter (c : Chip) : Nat := second / (4000 * max 1 (c.wfld R.CLK_REF_CFG F.CLK_REF_CFG_REF_KHZ))

/-- Is the keeper disciplined: the synthesiser is LOCKED (R50, R281)? -/
def Chip.disciplined (c : Chip) : Bool := decide (c.fld R.CLK_STAT F.CLK_STAT_STATE = 2)

/-- `i` moved towards zero by at most `k`: what is left, and what was taken. -/
def takeToward (i : Int) (k : Nat) : Int × Int :=
  let t := if i ≥ 0 then min i k else max i (-(k : Int))
  (i - t, t)

/-- `n` fabric cycles pass: the keeper advances by the nominal cycle and, while disciplined, slews at SLEW_RATE (R50, R55, R56).
(DESIGN CHOICE, log 1; DESIGN CHOICE, log 2) -/
def Chip.pass (c : Chip) (n : Nat) : Chip :=
  let d := n * fabricCycle
  let lim := d * c.slewPpm / 1000000
  let k := match c.epc.corrSlew with
    | some r => if c.disciplined then takeToward r lim else (r, 0)
    | none => (0, 0)
  let s := if c.disciplined then takeToward c.epc.slew (lim - k.2.natAbs) else (c.epc.slew, 0)
  { c with
    cycle := c.cycle + n
    epc := { c.epc with
      line := c.epc.line + d
      time := ((c.epc.time + d : Int) + s.2 + k.2).toNat
      slew := s.1
      corrSlew := c.epc.corrSlew.map (fun _ => k.1) } }

/-- The present fabric cycle, counted on the synthesiser timeline: cycles of samples, `XT` lines and copies are counted so (R125). -/
def Chip.lineCycle (c : Chip) : Nat := c.epc.line / fabricCycle

/-- The least number not below `lo` for which `p` holds, among the next `2 ^ k`, for a `p` that stays true once it is. -/
def leastFrom (p : Nat → Bool) (lo : Nat) : Nat → Nat
  | 0 => lo
  | k + 1 => if p (lo + 2 ^ k - 1) then leastFrom p lo k else leastFrom p (lo + 2 ^ k) k

/-- The keeper's time after `n` more fabric cycles, with the slews in force (R50). -/
def Chip.timeAfter (c : Chip) (n : Nat) : Nat := (c.pass n).epc.time

/-- Fabric cycles until the keeper reaches `t`: a slew takes at most 500 ppm away, so twice the nominal count is enough (R50). -/
def Chip.cyclesTo (c : Chip) (t : Nat) : Nat :=
  leastFrom (fun n => decide (t ≤ c.timeAfter n)) 0 ((2 * ((t - c.epc.time) / fabricCycle + 1)).log2 + 1)

/-- Fabric cycles pass until the synthesiser timeline has reached `t`. (DESIGN CHOICE, log 7) -/
def Chip.waitLine (c : Chip) (t : Nat) : Chip :=
  if c.epc.line < t then c.pass ((t - c.epc.line + fabricCycle - 1) / fabricCycle) else c

/-- Fabric cycles pass until the keeper has reached stamp `s`. (DESIGN CHOICE, log 7) -/
def Chip.waitStamp (c : Chip) (s : Nat) : Chip :=
  if c.epc.time < s * quantum then c.pass (c.cyclesTo (s * quantum)) else c

/-- Fabric cycles pass until `n` have passed since reset. (DESIGN CHOICE, log 7) -/
def Chip.waitCycle (c : Chip) (n : Nat) : Chip := if c.cycle < n then c.pass (n - c.cycle) else c

/-- The Steward polls: fabric cycles pass until `us` µs after its last poll of the kind `k` (R367, R424, R426), 0 die sensors, 1 rails, 2 the
audit, 8 + k the regulator behind `PENk`. -/
def Chip.pollWait (c : Chip) (k us : Nat) : Chip :=
  let d := match c.stw.polled.find? (fun x => decide (x.1 = k)) with
    | some x => c.waitLine (x.2 + us * micro)
    | none => c
  { d with stw := { d.stw with polled := SMap.put d.stw.polled k d.epc.line } }

/-! ### Free values (DESIGN CHOICE, log 3) -/

/-- The next free word. (DESIGN CHOICE, log 3) -/
def Chip.freeNow (c : Chip) : Word := Config.freeWord c.freeCtr

/-- One free value has been used. (DESIGN CHOICE, log 3) -/
def Chip.used (c : Chip) : Chip := { c with freeCtr := c.freeCtr + 1 }

/-! ### Modes -/

/-- The engine is in Safe (R360). -/
def Chip.inSafe (c : Chip) : Bool := decide (c.fld R.STW_STATE F.STW_STATE_STATE = 2)

/-- The start stage (Table 17-7). -/
def Chip.stage (c : Chip) : Nat := c.fld R.STW_BOOT_STAT F.STW_BOOT_STAT_STAGE

/-- The start is complete and Safe has not followed. -/
def Chip.running (c : Chip) : Bool := decide (c.fld R.STW_STATE F.STW_STATE_STATE = 1)

/-- Steady is in force (Table 1-4). -/
def Chip.steady (c : Chip) : Bool := !c.flag R.GLB_PROFILE_EFF F.GLB_PROFILE_EFF_PROFILE

/-- Gated clock-loss mode is in force (R283). -/
def Chip.gated (c : Chip) : Bool := c.flag R.GLB_PROFILE_EFF F.GLB_PROFILE_EFF_CLK_GATED

/-- The profile has been latched (R18). -/
def Chip.latched (c : Chip) : Bool := c.flag R.GLB_PROFILE_EFF F.GLB_PROFILE_EFF_LATCHED

/-- Configuration is locked (R355). -/
def Chip.locked (c : Chip) : Bool := c.flag R.GLB_CFG_LOCK F.GLB_CFG_LOCK_LOCK

/-- The ladder state (Table 19-1). -/
def Chip.ladder (c : Chip) : Nat := c.fld R.PWR_STAT F.PWR_STAT_STATE

/-- The engine is in Gale with no transition in progress, and not in Safe. -/
def Chip.inGale (c : Chip) : Bool := decide (c.ladder = 0) && c.pwr.down.isNone

/-! ### The Scrivener's input queue (R380, R390) -/

/-- The Scrivener is frozen or dead (R390, R392). -/
def Chip.frozen (c : Chip) : Bool := c.flag R.SCV_STAT F.SCV_STAT_FROZEN

/-- A status bit sets and SEQ advances, at most once in a fabric cycle (R347). (DEDUCED, log 9) -/
def Chip.setEvent (c : Chip) (n b : Nat) : Chip :=
  let a := R.EVT_STAT n
  let first := decide (cnt0 c.evt.at_ n ≠ c.cycle + 1)
  let cn := if first then cnt0 c.evt.cnt n + 1 else cnt0 c.evt.cnt n
  let v := putBits (c.rn a) b 1 1
  let c1 := c.setN a (putBits v 24 8 cn)
  { c1 with evt := { c1.evt with cnt := put0 c1.evt.cnt n (cn % 2 ^ 32), at_ := put0 c1.evt.at_ n (c.cycle + 1) } }

/-- Insert a record behind those of its cycle with no greater SRC (R380). -/
def insertRec (q : List Rec) (r : Rec) : List Rec :=
  match q with
  | [] => [r]
  | x :: rest => if x.cycle = r.cycle ∧ r.src < x.src then r :: x :: rest else x :: insertRec rest r

/-- A record is produced and enters the 64-record input queue; refused while frozen, lost when the queue is full (R380, R390). -/
def Chip.record (c : Chip) (typ src stamp : Nat) (payload : List Nat) : Chip :=
  if c.frozen then c.addCnt R.SCV_REFUSED 1
  else if c.scv.queue.length ≥ 64 then
    let c1 := (c.addCnt R.SCV_LOST 1).setEvent 0 10
    { c1 with scv := { c1.scv with lossDue := true } }
  else { c with scv := { c.scv with queue := insertRec c.scv.queue ⟨typ, src, stamp, payload, c.cycle⟩ } }

/-- An event for which a typed record is written by its mechanism (R379). -/
def Chip.raiseTyped (c : Chip) (e : Nat × Nat) : Chip := c.setEvent e.1 e.2

/-- An event with no typed record: an EVENT record follows when its `EVT_SCVn` bit is 1 (R379). -/
def Chip.raise (c : Chip) (e : Nat × Nat) : Chip :=
  let c1 := c.setEvent e.1 e.2
  if bit (c.rn (R.EVT_SCV e.1)) e.2 then c1.record 1 e.1 c.now [e.1, e.2, 0, 0, 0, 0, 0, 0] else c1

/-! ### Events by name (Table 16-1): status register and bit -/

def Ev.woDrop : Nat × Nat := (0, 0)
def Ev.lkDrop : Nat × Nat := (0, 1)
def Ev.guardMismatch : Nat × Nat := (0, 2)
def Ev.auditMismatch : Nat × Nat := (0, 3)
def Ev.scvHalfFull : Nat × Nat := (0, 8)
def Ev.scvExported : Nat × Nat := (0, 9)
def Ev.scvLoss : Nat × Nat := (0, 10)
def Ev.scvHalfFail : Nat × Nat := (0, 11)
def Ev.scvFrozen : Nat × Nat := (0, 12)
def Ev.scvDead : Nat × Nat := (0, 13)
def Ev.rejEvtScv : Nat × Nat := (0, 16)
def Ev.epochValid : Nat × Nat := (1, 0)
def Ev.epochHoldover : Nat × Nat := (1, 1)
def Ev.wordReject : Nat × Nat := (1, 2)
def Ev.srcInvalid : Nat × Nat := (1, 3)
def Ev.srcHoldover : Nat × Nat := (1, 4)
def Ev.utcOfsChange : Nat × Nat := (1, 5)
def Ev.seam : Nat × Nat := (1, 6)
def Ev.epcSetReject : Nat × Nat := (1, 7)
def Ev.schLate : Nat × Nat := (1, 8)
def Ev.rejSch : Nat × Nat := (1, 9)
def Ev.refLoss : Nat × Nat := (2, 0)
def Ev.refReturn : Nat × Nat := (2, 1)
def Ev.synCoast : Nat × Nat := (2, 2)
def Ev.synBypass : Nat × Nat := (2, 3)
def Ev.synLocked : Nat × Nat := (2, 4)
def Ev.synUnlock : Nat × Nat := (2, 5)
def Ev.sampleStop : Nat × Nat := (2, 6)
def Ev.sampleStart : Nat × Nat := (2, 7)
def Ev.stepDone : Nat × Nat := (2, 8)
def Ev.rejClk : Nat × Nat := (2, 9)
def Ev.pwrChange : Nat × Nat := (3, 0)
def Ev.pwrWake : Nat × Nat := (3, 1)
def Ev.pwrAbort : Nat × Nat := (3, 2)
def Ev.rejPwr : Nat × Nat := (3, 16)
def Ev.mbDone : Nat × Nat := (4, 0)
def Ev.thermWarn : Nat × Nat := (4, 1)
def Ev.thermClear : Nat × Nat := (4, 2)
def Ev.railWarn : Nat × Nat := (4, 3)
def Ev.pmbusFault : Nat × Nat := (4, 4)
def Ev.stwCe : Nat × Nat := (4, 5)
def Ev.startDone : Nat × Nat := (4, 6)
def Ev.nvVerifyDone : Nat × Nat := (4, 7)
def Ev.slotRollback : Nat × Nat := (4, 8)
def Ev.safeEntry : Nat × Nat := (4, 9)
def Ev.rejStw : Nat × Nat := (4, 16)
def Ev.cstCe : Nat × Nat := (5, 0)
def Ev.cstUe : Nat × Nat := (5, 1)
def Ev.cstAccess : Nat × Nat := (5, 2)
def Ev.pcieLink : Nat × Nat := (5, 3)
def Ev.dmaCpl : Nat × Nat := (5, 4)
def Ev.dmaStarved : Nat × Nat := (5, 5)
def Ev.dmaError : Nat × Nat := (5, 6)
def Ev.rejHif : Nat × Nat := (5, 7)
def Ev.rejCar : Nat × Nat := (5, 8)
def Ev.qPushFull (q : Nat) : Nat × Nat := (6, q)
def Ev.qStall (q : Nat) : Nat × Nat := (6, 8 + q)
def Ev.detHit (n : Nat) : Nat × Nat := (7, n)
def Ev.rejTrs : Nat × Nat := (7, 8)
def Ev.ctSat (n : Nat) : Nat × Nat := if n < 24 then (8, n) else (9, n - 24)
def Ev.noticeReject : Nat × Nat := (10, 0)
def Ev.noticeDrop : Nat × Nat := (10, 1)
def Ev.mgmtReject : Nat × Nat := (10, 2)
def Ev.rejMcx : Nat × Nat := (11, 0)
def Ev.overrun (n : Nat) : Nat × Nat := (12 + n, 0)
def Ev.cqOverrate (n : Nat) : Nat × Nat := (12 + n, 1)
def Ev.calDone (n : Nat) : Nat × Nat := (12 + n, 2)
def Ev.rejLg (n : Nat) : Nat × Nat := (12 + n, 3)
def Ev.verifyFallback (n : Nat) : Nat × Nat := (12 + n, 8)
def Ev.rejFul (n : Nat) : Nat × Nat := (12 + n, 9)
def Ev.holdReject (p : Nat) : Nat × Nat := (20 + p, 0)
def Ev.holdClipped (p : Nat) : Nat × Nat := (20 + p, 1)
def Ev.segCommit (p : Nat) : Nat × Nat := (20 + p, 2)
def Ev.segTrunc (p : Nat) : Nat × Nat := (20 + p, 3)
def Ev.sideLost (p : Nat) : Nat × Nat := (20 + p, 4)
def Ev.rejPrt (p : Nat) : Nat × Nat := (20 + p, 5)
def Ev.sqTrig (n : Nat) : Nat × Nat := (20 + n, 8)
def Ev.sqDone (n : Nat) : Nat × Nat := (20 + n, 9)
def Ev.sqPairMismatch (n : Nat) : Nat × Nat := (20 + n, 10)
def Ev.ethLink (n : Nat) : Nat × Nat := (36 + n, 0)
def Ev.strReplay (n : Nat) : Nat × Nat := (36 + n, 1)
def Ev.strTimeout (n : Nat) : Nat × Nat := (36 + n, 2)
def Ev.ctlReject (n : Nat) : Nat × Nat := (36 + n, 3)
def Ev.rejEth (n : Nat) : Nat × Nat := (36 + n, 4)
def Ev.mcCe (n : Nat) : Nat × Nat := (40 + n, 0)
def Ev.mcUe (n : Nat) : Nat × Nat := (40 + n, 1)
def Ev.mcLane (n : Nat) : Nat × Nat := (40 + n, 2)
def Ev.mcHammer (n : Nat) : Nat × Nat := (40 + n, 3)
def Ev.mcHot (n : Nat) : Nat × Nat := (40 + n, 4)
def Ev.mcCool (n : Nat) : Nat × Nat := (40 + n, 5)
def Ev.mcCrit (n : Nat) : Nat × Nat := (40 + n, 6)
def Ev.trnDone (n : Nat) : Nat × Nat := (40 + n, 7)

/-! ### Initiators and commands (Table 15-1, R358 to R360) -/

/-- The initiator's code. -/
def initCode : Init → Nat
  | .host => 1
  | .steward => 2
  | .sched => 3

/-- The key of an initiator's latch for a register. -/
def latchKey (i : Init) (a : Nat) : Nat := 16777216 * initCode i + a

/-- A command register: its offset, the register of its REASON, its CMD_REJECT event. -/
structure CmdPort where
  cmd : Nat
  stat : Nat
  ev : Nat × Nat
  deriving DecidableEq, Repr

/-- REASON lies in bits [7:0] of every `CMDSTAT` (R358). -/
def reasonFld : Fld := ⟨0, 8⟩

/-- A rejected command: REASON, CMD_REJECT and its record (R17, R358, Table 16-5). `entry` is the schedule entry that issued it. -/
def Chip.reject (c : Chip) (p : CmdPort) (i : Init) (entry : Option Nat) (reason : Nat) : Chip :=
  let c1 := (c.setFld p.stat reasonFld reason).raiseTyped p.ev
  let c2 := c1.record 0x0c p.ev.1 c.now
    (leBytes 3 p.cmd ++ [reason % 256, initCode i, entry.getD 0, if entry.isSome then 1 else 0, 0])
  { c2 with lastReason := reason }

/-- A command is judged whole: rejected with 0xFE in Safe unless `safeOk` (R360), with `reason` if that is not 0, and otherwise
accepted, with its effect `f` (R358). -/
def Chip.command (c : Chip) (p : CmdPort) (i : Init) (entry : Option Nat) (safeOk : Bool) (reason : Nat)
    (f : Chip → Chip) : Chip :=
  if c.inSafe && !safeOk then c.reject p i entry 0xfe
  else if reason ≠ 0 then c.reject p i entry reason
  else { f (c.setFld p.stat reasonFld 0) with lastReason := 0 }

/-- The first condition that holds gives the reason; 0 if none does. -/
def firstReason : List (Bool × Nat) → Nat
  | [] => 0
  | (b, r) :: rest => if b then r else firstReason rest

/-- A fatal condition is declared: Safe entry follows at the end of the command (R428). The first of a cycle is the cause. -/
def Chip.declareFatal (c : Chip) (cause : Nat) (detail : List Nat) (stamp : Nat) (hw : Bool) : Chip :=
  match c.fatal with
  | some _ => c
  | none => { c with fatal := some ⟨cause, detail, stamp, hw⟩ }

/-- A STEWARD record (R432, Table 18-8). -/
def Chip.stwRecord (c : Chip) (kind code index value : Nat) : Chip :=
  c.record 0x0e 4 c.now ([kind, code] ++ leBytes 2 index ++ leBytes 4 value)

/-- A STEWARD record of a kind for which Table 18-8 states no INDEX and no VALUE: free values (DESIGN CHOICE, log 62). -/
def Chip.stwRecordOpen (c : Chip) (kind code : Nat) : Chip :=
  (c.stwRecord kind code (c.freeNow.toNat % 65536) c.used.freeNow.toNat).used.used

/-- A STEWARD record of kind 7 for a read of the Common Store that no mailbox service asked for: Table 18-8 states no INDEX for it, a
free value (DESIGN CHOICE, log 62). -/
def Chip.stwReadFailed (c : Chip) (a : Nat) : Chip := (c.stwRecord 7 2 (c.freeNow.toNat % 65536) a).used

/-- What the engine sends, newest first. -/
def Chip.emit (c : Chip) (o : Out) : Chip := { c with out := o :: c.out }

/-- The groups in a mask, ascending. -/
def maskList (n m : Nat) : List Nat := (List.range n).filter (fun i => bit m i)

/-- A mask with one bit set, and with one cleared. -/
def maskSet (m i : Nat) : Nat := if bit m i then m else m + 2 ^ i
def maskClear (m i : Nat) : Nat := if bit m i then m - 2 ^ i else m

end Sys2Proof.Machine
end

