-- ==== Sys2Proof/Machine/Rate.lean ====
section
/-! DEFINITION. The nominal sample rate and period (R53, R73, R270), as exact ratios. -/

namespace Sys2Proof.Machine

/-- The reference multiplier m of RMUL as numerator and denominator (R270); 3 acts as 1. -/
def rmulNum (r : Nat) : Nat := if r = 1 then 2 else 1
def rmulDen (r : Nat) : Nat := if r = 2 then 2 else 1

/-- f_sc in Hz = `fscNum` / `fscDen`, from the synthesiser configuration in force (R270). -/
def Chip.fscNum (c : Chip) : Nat :=
  c.wfld R.CLK_REF_CFG F.CLK_REF_CFG_REF_KHZ * 1000 * rmulNum (c.wfld R.CLK_SYN_CFG F.CLK_SYN_CFG_RMUL) *
    (c.clk.applyN * 2 ^ 32 + c.clk.applyFrac)

def Chip.fscDen (c : Chip) : Nat :=
  rmulDen (c.wfld R.CLK_SYN_CFG F.CLK_SYN_CFG_RMUL) * (c.wfld R.CLK_SYN_CFG F.CLK_SYN_CFG_PDIV + 1) * 2 ^ 32 *
    max 1 (c.wfld R.CLK_SYN_CFG F.CLK_SYN_CFG_OUTDIV)

/-- `round (a / b)`, halves up. -/
def divRound (a b : Nat) : Nat := (2 * a + b) / (2 * b)

/-- `ceil (a / b)`. -/
def divCeil (a b : Nat) : Nat := (a + b - 1) / b

/-! ### The loop: its reference, its word, and the clocks made from it (R270, R271, R277, R284) -/

/-- Nominal frequency of `REFIN`, and of `XBYP` (R273), in Hz. -/
def Chip.refinHz (c : Chip) : Nat := c.wfld R.CLK_REF_CFG F.CLK_REF_CFG_REF_KHZ * 1000
def xbypHz : Nat := 25000000

/-- f_ref: `REFIN`, or `XBYP` where the loop follows that (R270). -/
def Chip.refHz (c : Chip) : Nat := if c.clk.byp then xbypHz else c.refinHz

/-- f_pfd in Hz from f_ref, as numerator and denominator. -/
def Chip.pfd (c : Chip) : Nat × Nat :=
  (c.refHz * rmulNum (c.wfld R.CLK_SYN_CFG F.CLK_SYN_CFG_RMUL),
   rmulDen (c.wfld R.CLK_SYN_CFG F.CLK_SYN_CFG_RMUL) * (c.wfld R.CLK_SYN_CFG F.CLK_SYN_CFG_PDIV + 1))

/-- A word that gives with reference `dst` the f_vco that word `w` gives with reference `from_`: the nearest one. (DESIGN CHOICE, log 27) -/
def wordFor (from_ dst w : Nat) : Nat := divRound (w * from_) (max 1 dst)

/-- The configured word, as APPLY set it for `REFIN`, and as the loop needs it for the reference it follows: in Bypass the word for `XBYP` that
gives the configured nominal f_vco (R284). -/
def Chip.applyWord (c : Chip) : Nat := c.clk.applyN * 2 ^ 32 + c.clk.applyFrac
def Chip.loopWord (c : Chip) : Nat := if c.clk.byp then wordFor c.refinHz xbypHz c.applyWord else c.applyWord

/-- The word in force at synthesiser-timeline time `t`, in units of 2^-32: on its way to a new target it moves at no more than 1 ppm per µs
(R277, R284); its rate is open (DESIGN CHOICE, log 3). -/
def Chip.wordAt (c : Chip) (t : Nat) : Nat :=
  let w := c.clk.wordN * 2 ^ 32 + c.clk.wordFrac
  match c.clk.rampTo with
  | none => w
  | some x =>
    let dst := x.1 * 2 ^ 32 + x.2
    let go := w * (t - c.clk.rampAt) * (Config.rampRate.toNat + 1) / (micro * 1000000 * 2 ^ 32)
    if w ≤ dst then min dst (w + go) else max dst (w - go)

/-- The word in force now. -/
def Chip.wordNow (c : Chip) : Nat := c.wordAt c.epc.line

/-- How long the word takes to its target, in 2^-64 s. -/
def Chip.rampTime (c : Chip) : Nat :=
  let w := c.clk.wordN * 2 ^ 32 + c.clk.wordFrac
  match c.clk.rampTo with
  | none => 0
  | some x =>
    let dst := x.1 * 2 ^ 32 + x.2
    divCeil (((dst - w) + (w - dst)) * (micro * 1000000 * 2 ^ 32)) (max 1 (w * (Config.rampRate.toNat + 1)))

/-- f_vco in Hz with the word in force, as numerator and denominator (R270). -/
def Chip.vco (c : Chip) : Nat × Nat := (c.pfd.1 * c.wordNow, c.pfd.2 * 2 ^ 32)

/-- The fabric divider's ratio, f_vco over 625 MHz, as numerator and denominator: it changes together with the word (R271). -/
def Chip.fabricDiv (c : Chip) : Nat × Nat := (c.vco.1, c.vco.2 * 625000000)

/-- The fabric clock in Hz, f_vco divided by that ratio. -/
def Chip.fabricHz (c : Chip) : Nat × Nat := (c.vco.1 * c.fabricDiv.2, c.vco.2 * c.fabricDiv.1)

/-- The f_pfd period in 2^-64 s, rounded down. -/
def Chip.pfdPeriod (c : Chip) : Nat := c.pfd.2 * 2 ^ 64 / max 1 c.pfd.1

/-- The period of f_sc in 2^-64 s as a ratio, by the word in force (R53, R277). -/
def Chip.fscRatio (c : Chip) : Nat × Nat :=
  (max 1 (c.wfld R.CLK_SYN_CFG F.CLK_SYN_CFG_OUTDIV) * 2 ^ 96 * c.pfd.2, max 1 (c.pfd.1 * c.wordNow))

/-- `n` periods of f_sc in units of 2^-64 s, by the word in force (R53, R277). -/
def Chip.fscPeriods (c : Chip) (n : Nat) : Nat := divRound (n * c.fscRatio.1) c.fscRatio.2

/-! ### Edges of the sample clock -/

/-- The time of edge `k` of the sample clock, on the grid that began with edge 0 (R60, R115). -/
def Chip.fscEdgeTime (c : Chip) (k : Nat) : Nat := c.clk.gridAt + divCeil (k * c.fscRatio.1) c.fscRatio.2

/-- How many edges of the sample clock lie before time `t`. -/
def Chip.fscEdgesBefore (c : Chip) (t : Nat) : Nat := divCeil ((t - c.clk.gridAt) * c.fscRatio.2) c.fscRatio.1

/-- The latest edge of the sample clock before now, from which the grid goes on when the word begins to move. -/
def Chip.regrid (c : Chip) : Chip :=
  { c with clk := { c.clk with gridAt := c.fscEdgeTime (c.fscEdgesBefore c.epc.line - 1) } }

/-- The first edge of the sample clock at or after time `t`. -/
def Chip.fscEdgeFrom (c : Chip) (t : Nat) : Nat := c.fscEdgeTime (c.fscEdgesBefore t)

/-- A lane group's DIV in its working copy. -/
def Chip.laneDiv (c : Chip) (g : Nat) : Nat := c.wfld (R.LG_CFG g) F.LG_CFG_DIV

/-- P_q of a lane group (R53). -/
def Chip.lanePq (c : Chip) (g : Nat) : Nat := c.fscPeriods (c.laneDiv g + 1)

/-- The tap limit L of R75: floor (256 × f_sc / 1 GHz). -/
def Chip.tapLimit (c : Chip) : Nat := 256 * c.fscNum / (c.fscDen * 1000000000)

/-- `n` taps of 1 / (64 × f_sc) in units of 2^-64 s. -/
def Chip.taps (c : Chip) (n : Nat) : Nat := divRound (n * c.fscDen * 2 ^ 58) c.fscNum

end Sys2Proof.Machine
end

