-- ==== Sys2Proof/Machine/Store.lean ====
section
/-! DEFINITION. The Common Store's words as its masters read and write them (spec 14): the usable store, the degraded mapping, the
error reports, and one bank access with the merge of same-cycle writes. -/

namespace Sys2Proof.Machine

/-- The store runs degraded (R324). -/
def Chip.cstDegraded (c : Chip) : Bool := c.flag R.GLB_PROFILE_EFF F.GLB_PROFILE_EFF_CST_DEGRADED

/-- Words of the usable store (R323, R324). -/
def Chip.cstWords (c : Chip) : Nat := if c.cstDegraded then 2097152 else 4194304

/-- Where word `a` lies physically, as row * 64 + bank (R323, R324). -/
def Chip.cstPhys (c : Chip) (a : Nat) : Nat :=
  if c.cstDegraded then a / 32 * 64 + a % 32 + 32 * c.fld R.GLB_PROFILE_EFF F.GLB_PROFILE_EFF_CST_HALF else a

/-- The stored value at a physical word. -/
def Chip.cstCell (c : Chip) (k : Nat) : DWord := SMap.get (fun _ => 0) c.cst.words k

/-- Stored bits of a physical word that differ from what was written: data in [63:0], check bits in [71:64]. -/
def Chip.cstBad (c : Chip) (k : Nat) : Nat := cnt0 c.cst.bad k

/-- The check bits of a physical word were written as copies of data bit 0 (R339). -/
def Chip.cstRaw (c : Chip) (k : Nat) : Bool := SMap.get (fun _ => false) c.cst.raw k

/-- Put a value, the flipped bits and the check coding at a physical word. -/
def Chip.setCstCell (c : Chip) (k : Nat) (v : DWord) (b : Nat) (r : Bool := false) : Chip :=
  { c with cst := { words := SMap.set (fun _ => 0) c.cst.words k v, bad := put0 c.cst.bad k b,
                    raw := SMap.set (fun _ => false) c.cst.raw k r } }

/-- The canonical form of the Common Store: keys strictly rising, no word listed that reads as 0, no sound word listed as in error, none
listed as coded under RAW that is not. -/
def Memory.wf (m : Cst) : Bool :=
  SMap.wf (fun _ => (0 : DWord)) m.words && SMap.wf (fun _ => 0) m.bad && SMap.wf (fun _ => false) m.raw

/-- The environment flips stored bits of a word. -/
def Chip.cstUpset (c : Chip) (k m : Nat) : Chip := { c with cst := { c.cst with bad := put0 c.cst.bad k (c.cstBad k ^^^ m) } }

/-! ### The code (R335, R339) -/

/-- Bits of `m` that are 1, among the low `n`. -/
def ones (n m : Nat) : Nat := ((List.range n).filter (fun i => bit m i)).length

/-- The check bits of a data word. The spec does not write the code out; the march test leaves words of zeros with check bits of zeros, which are
valid (R338, R339; DEDUCED, log 57). -/
def secdedOf (v : DWord) : Nat := if v = 0 then 0 else (Config.secded v).toNat

/-- The data bits of a physical word as they stand in the bank. -/
def Chip.cstData (c : Chip) (k : Nat) : DWord := c.cstCell k ^^^ BitVec.ofNat 64 (c.cstBad k)

/-- The check bits as they stand in the bank. -/
def Chip.cstCheck (c : Chip) (k : Nat) : Nat :=
  (if c.cstRaw k then (if (c.cstCell k).getLsbD 0 then 255 else 0) else secdedOf (c.cstCell k)) ^^^ (c.cstBad k / 2 ^ 64 % 256)

/-- What a SECDED decoder finds in data and check bits: 0 sound, 1 one bit in error, 2 more; and the data corrected where it can be. -/
def secdedDecode (d : DWord) (chk : Nat) : Nat × DWord :=
  if chk = secdedOf d then (0, d)
  else
    let flips := (List.range 64).map (fun i => d ^^^ BitVec.ofNat 64 (2 ^ i))
    match flips.find? (fun x => decide (secdedOf x = chk)) with
    | some x => (1, x)
    | none => if ones 8 (chk ^^^ secdedOf d) = 1 then (1, d) else (2, d)

/-- What a read of a physical word finds (R335, R336): no flipped bit is sound, one is corrected, two are uncorrectable. Of more, and of a word
whose check bits were written under RAW, the code decides. -/
def Chip.cstSee (c : Chip) (k : Nat) : Nat × DWord :=
  if c.cstRaw k then secdedDecode (c.cstData k) (c.cstCheck k)
  else match ones 72 (c.cstBad k) with
    | 0 => (0, c.cstCell k)
    | 1 => (1, c.cstCell k)
    | 2 => (2, c.cstData k)
    | _ => secdedDecode (c.cstData k) (c.cstCheck k)

/-- Two check bits flipped: a code that reads as uncorrectable (R336). -/
def cstMarked : Nat := 3 * 2 ^ 64

/-- An access beyond the usable store, or a partial DW, is counted (R325, R330). -/
def Chip.cstDropped (c : Chip) (master a : Nat) (partialDw : Bool) : Chip :=
  let c1 := c.addCnt R.CST_DROP_CNT 1
  let c2 := ((c1.setFld R.CST_DROP_LAST F.CST_DROP_LAST_ADDR a).setFld R.CST_DROP_LAST F.CST_DROP_LAST_MASTER master).setFlag
    R.CST_DROP_LAST F.CST_DROP_LAST_PARTIAL partialDw
  c2.raise Ev.cstAccess

/-- A MEM_ERROR record of the Common Store (Table 16-5). -/
def Chip.cstErrRecord (c : Chip) (kind source master a : Nat) : Chip :=
  c.record 0x0b 5 c.now ([8, kind, 0xff, source, master, 0, 0, 0] ++ leBytes 8 a)

/-- A corrected error (R335). -/
def Chip.cstCe (c : Chip) (source master a : Nat) : Chip :=
  let c1 := c.addCnt R.CST_CE_CNT 1
  let c2 := (c1.setFld R.CST_CE_LAST F.CST_CE_LAST_ADDR a).setFld R.CST_CE_LAST F.CST_CE_LAST_MASTER master
  (c2.raiseTyped Ev.cstCe).cstErrRecord 1 source master a

/-- An uncorrectable error is reported (R336). -/
def Chip.cstUe (c : Chip) (source master a : Nat) : Chip :=
  let c1 := c.addCnt R.CST_UE_CNT 1
  let c2 := (c1.setFld R.CST_UE_LAST F.CST_UE_LAST_ADDR a).setFld R.CST_UE_LAST F.CST_UE_LAST_MASTER master
  (c2.raiseTyped Ev.cstUe).cstErrRecord 2 source master a

/-- Under RAW a read compares the stored check bits with data bit 0 and marks the bank on a difference (R339). -/
def Chip.cstRawCheck (c : Chip) (k : Nat) : Chip :=
  if decide (c.cstCheck k ≠ if (c.cstData k).getLsbD 0 then 255 else 0) then
    let b := k % 64
    let a := if b < 32 then R.CST_CHK_FAIL_L else R.CST_CHK_FAIL_H
    c.setN a (putBits (c.rn a) (b % 32) 1 1)
  else c

/-- The test coding of R339 is selected. -/
def Chip.cstRawOn (c : Chip) : Bool := c.flag R.CST_TEST F.CST_TEST_RAW

/-- Masters whose uncorrectable read is fatal: the sequencers, the schedule engine and the Carter engine (R336). -/
def cstFatalMaster (m : Nat) : Bool := decide (m ≤ 17)

/-- A read of one word by a master: the engine after it, the word returned, and 2 if it was uncorrectable, 1 if beyond the usable
store, else 0 (R325, R335, R336). -/
def Chip.cstRead (c : Chip) (master a : Nat) : Chip × DWord × Nat :=
  if a ≥ c.cstWords then (c.cstDropped master a false, 0, 1)
  else
    let k := c.cstPhys a
    if c.cstRawOn then (c.cstRawCheck k, c.cstData k, 0)
    else
      let r := c.cstSee k
      if r.1 = 0 then (c, r.2, 0)
      else if r.1 = 1 then (c.cstCe (if master = 20 then 1 else 0) master a, r.2, 0)
      else
        let c1 := c.cstUe (if master = 20 then 1 else 0) master a
        let c2 := if cstFatalMaster master then
            c1.declareFatal 3 (leBytes 4 a ++ [master, 0, 0, 0]) c1.now false
          else c1
        (c2, r.2, 2)

/-- The bits of a byte mask. -/
def byteMask (m : Nat) : DWord :=
  BitVec.ofNat 64 ((List.range 8).foldl (fun x i => if bit m i then x + 255 * 2 ^ (8 * i) else x) 0)

/-- One bit of a word covered by plain writes takes the highest-numbered master's value (R332): the plain writes in ascending master
order are laid over each other. -/
def mergePlain (accs : List CstAccess) (m : Nat) (v : DWord) : DWord :=
  match m with
  | 0 => v
  | n + 1 =>
    accs.foldl (fun v x => if x.kind = 0 ∧ x.master = n then (v &&& ~~~(byteMask x.mask)) ||| (x.data &&& byteMask x.mask) else v)
      (mergePlain accs n v)

/-- The masks of all set or all clear accesses of a word. -/
def aliasMask (accs : List CstAccess) (kind : Nat) : DWord :=
  accs.foldl (fun v x => if x.kind = kind then v ||| (x.data &&& byteMask x.mask) else v) 0

/-- A word after the merge of R332: `old` with the accesses of one cycle. -/
def cstMerge (old : DWord) (accs : List CstAccess) : DWord :=
  let base := (old ||| aliasMask accs 1) &&& ~~~(aliasMask accs 2)
  mergePlain accs 21 base

/-- A plain write of the whole word: it reads nothing and leaves a fresh check code (R336). -/
def wholeWrite (x : CstAccess) : Bool := decide (x.kind = 0) && decide (x.mask % 256 = 255)

/-- The read half of each read-modify-write of a cycle is reported with its own master (R336). -/
def Chip.cstRmwReport (c : Chip) (found a : Nat) (rmw : List CstAccess) : Chip :=
  if found = 0 then c
  else rmw.foldl (fun c x => if found = 1 then c.cstCe 2 x.master a else c.cstUe 2 x.master a) c

/-- The writes of one cycle to one word take effect together (R331, R332). A write through an alias or of part of the word meets the word's
errors and reports them; a word it cannot trust stays marked until a plain write covers it whole (R336). -/
def Chip.cstWriteMerged (c : Chip) (a : Nat) (accs : List CstAccess) : Chip :=
  let ws := accs.filter (fun x => decide (x.kind < 3))
  if ws.isEmpty then c
  else if a ≥ c.cstWords then ws.foldl (fun c x => c.cstDropped x.master a false) c
  else
    let k := c.cstPhys a
    let rmw := ws.filter (fun x => !wholeWrite x)
    if c.cstRawOn then
      let v := cstMerge (c.cstData k) ws
      (if rmw.isEmpty then c else c.cstRawCheck k).setCstCell k v 0 (decide (v ≠ 0))
    else
      let r := c.cstSee k
      (c.cstRmwReport r.1 a rmw).setCstCell k (cstMerge r.2 ws) (if r.1 ≥ 2 && !ws.any wholeWrite then cstMarked else 0)

/-- A plain write of a whole word by a master. -/
def Chip.cstWrite (c : Chip) (master a : Nat) (v : DWord) : Chip :=
  c.cstWriteMerged a [{ master := master, word := a, kind := 0, data := v }]

/-- The first word from `a` on, of `n`, whose stored value is uncorrectable; `a` if there is none. -/
def Chip.firstUe (c : Chip) (a n : Nat) : Nat :=
  (((List.range n).map (fun i => a + i)).find? (fun w => decide (2 ≤ (c.cstSee (c.cstPhys w)).1))).getD a

/-- Words `a`, `a + 1`, … written in order by a master. -/
def Chip.cstWriteList (c : Chip) (master a : Nat) (l : List DWord) : Chip :=
  match l with
  | [] => c
  | v :: rest => (c.cstWrite master a v).cstWriteList master (a + 1) rest

/-- `n` words from `a` read by a master: the engine, the words, and the worst outcome met. -/
def Chip.cstReadList (c : Chip) (master a : Nat) (n : Nat) : Chip × List DWord × Nat :=
  match n with
  | 0 => (c, [], 0)
  | k + 1 =>
    let r := c.cstRead master a
    let s := r.1.cstReadList master (a + 1) k
    (s.1, r.2.1 :: s.2.1, max r.2.2 s.2.2)

/-- The bytes of a list of 64-bit words, little-endian (R323). -/
def dwordBytes (l : List DWord) : List Nat := l.flatMap (fun v => leBytes 8 v.toNat)

/-- The 64-bit words a byte list spells, little-endian. -/
def bytesDwords (l : List Nat) : List DWord :=
  (List.range ((l.length + 7) / 8)).map (fun i => BitVec.ofNat 64 (leAt l (8 * i) 8))

/-- The accesses that a bank performs in one fabric cycle, word by word: the writes to a word merge, and its reads return the word
after the merge (R332, R333). The reads' data are kept as 32-bit halves; an uncorrectable word gives the host all ones, and
what another master receives is not stated (R336): a free value. (DESIGN CHOICE, log 3; DESIGN CHOICE, log 10) -/
def Chip.cstBank (c : Chip) (accs : List CstAccess) : Chip :=
  let words := distinct (accs.map CstAccess.word)
  let c1 := words.foldl (fun c a => c.cstWriteMerged a (accs.filter (fun x => decide (x.word = a)))) c
  accs.foldl (fun c x =>
    if x.kind < 3 then c
    else
      let r := c.cstRead x.master x.word
      let halves : List Word :=
        if r.2.2 = 2 then
          (if x.master = 19 then [BitVec.allOnes 32, BitVec.allOnes 32] else [r.1.freeNow, r.1.used.freeNow])
        else [BitVec.ofNat 32 r.2.1.toNat, BitVec.ofNat 32 (r.2.1.toNat / 2 ^ 32)]
      { r.1.used.used with rblock := r.1.rblock ++ halves })
    { c1 with rblock := [] }

/-! ### Arbitration (R327) -/

/-- The bank of a word address. -/
def Chip.cstBankOf (c : Chip) (a : Nat) : Nat := c.cstPhys a % 64

/-- The oldest waiting access of a master at a bank: a further one waits at the master until it has taken effect (R327, R334). -/
def Chip.cstFirst (c : Chip) (bank m : Nat) : Option CstAccess :=
  (c.cstBus.wait.find? (fun e => decide (e.1 = bank) && decide (e.2.master = m))).map Prod.snd

/-- The masters in round-robin order after the one that a bank granted last. -/
def Chip.cstOrder (c : Chip) (bank : Nat) : List Nat := (List.range 20).map (fun i => (cnt0 c.cstBus.turn bank + i) % 20)

/-- The accesses a bank grants in one fabric cycle: at most two, of different masters (R327). -/
def Chip.cstGrant (c : Chip) (bank : Nat) : List CstAccess := ((c.cstOrder bank).filterMap (c.cstFirst bank)).take 2

/-- The waiting accesses without the granted ones. -/
def cstTake (wait : List (Nat × CstAccess)) (bank : Nat) (granted : List CstAccess) : List (Nat × CstAccess) :=
  granted.foldl (fun l x => l.erase (bank, x)) wait

/-- One fabric cycle of a bank: it grants, and performs what it granted (R327). -/
def Chip.cstCycle (c : Chip) (bank : Nat) : Chip :=
  let g := c.cstGrant bank
  let turn := match g.getLast? with
    | some x => put0 c.cstBus.turn bank ((x.master + 1) % 20)
    | none => c.cstBus.turn
  { c with cstBus := { c.cstBus with wait := cstTake c.cstBus.wait bank g, turn := turn } }.cstBank g

/-- Accesses are issued to a bank, and the environment's flips reach their words. -/
def Chip.cstIssue (c : Chip) (bank : Nat) (accs : List CstAccess) : Chip :=
  let mine := accs.filter (fun x => decide (c.cstBankOf x.word = bank))
  let c1 := mine.foldl (fun c x => if x.upset = 0 ∨ x.word ≥ c.cstWords then c else c.cstUpset (c.cstPhys x.word) x.upset) c
  { c1 with cstBus := { c1.cstBus with wait := c1.cstBus.wait ++ mine.map (fun x => (bank, x)) } }

end Sys2Proof.Machine
end

