-- ==== Sys2Proof/Machine/Scrivener.lean ====
section
/-! DEFINITION. The Scrivener (spec 16, R376 to R394): records and folds, the two halves, export to the flash log, freeze and last
words, a half's failure, snapshot lists, and the read window. -/

namespace Sys2Proof.Machine

/-- Bytes of a half (R376). -/
def halfSize : Nat := 262144

/-- Registers of half A (`false`) and half B (`true`). -/
def halfFirst (b : Bool) : Nat := if b then R.SCV_HALFB_FIRST else R.SCV_HALFA_FIRST
def halfEnd (b : Bool) : Nat := if b then R.SCV_HALFB_END else R.SCV_HALFA_END
def halfExp (b : Bool) : Nat := if b then R.SCV_HALFB_EXP else R.SCV_HALFA_EXP
def halfState (b : Bool) : Fld := if b then F.SCV_STAT_B_STATE else F.SCV_STAT_A_STATE
def halfFail (b : Bool) : Fld := if b then F.SCV_STAT_B_FAIL else F.SCV_STAT_A_FAIL

/-- The records of a half. -/
def Chip.half (c : Chip) (b : Bool) : Half := if b then c.scv.halfB else c.scv.halfA

/-- Put the records of a half. -/
def Chip.setHalf (c : Chip) (b : Bool) (h : Half) : Chip :=
  { c with scv := if b then { c.scv with halfB := h } else { c.scv with halfA := h } }

/-- The half that records (R386). -/
def Chip.recHalf (c : Chip) : Bool := c.flag R.SCV_STAT F.SCV_STAT_ACTIVE

/-- A half has failed (R392). -/
def Chip.halfFailed (c : Chip) (b : Bool) : Bool := c.flag R.SCV_STAT (halfFail b)

/-- A record's bytes in a half (R377, Tables 16-3 and 16-6). -/
def HeldRec.bytes (r : HeldRec) : List Nat :=
  let ext := if r.rpt = 0 then [] else leBytes 3 r.rpt ++ [0] ++ leBytes 10 r.last ++ [0, 0]
  let body := r.payload ++ ext
  [(16 + body.length) / 8, r.typ, if r.rpt = 0 then 0 else 1, r.src] ++ leBytes 10 r.stamp ++ leBytes 2 r.recNo ++ body

/-- A record's length in bytes. -/
def HeldRec.size (r : HeldRec) : Nat := 16 + r.payload.length + (if r.rpt = 0 then 0 else 16)

/-- The bytes a list of records occupies. -/
def recsSize (l : List HeldRec) : Nat := l.foldl (fun n r => n + r.size) 0

/-- The records that lie wholly within `[from, to)` of a half. -/
def recsWithin (l : List HeldRec) (lo hi : Nat) : List HeldRec :=
  (l.foldl (fun (acc : Nat × List HeldRec) r =>
    let e := acc.1 + r.size
    (e, if lo ≤ acc.1 ∧ e ≤ hi then acc.2 ++ [r] else acc.2)) (0, [])).2

/-- Records of a half that have not been exported. -/
def Chip.unexported (c : Chip) (b : Bool) : List HeldRec := recsWithin (c.half b).recs (c.rn (halfExp b)) halfSize

/-- Records copied to the flash log: into the latest 64 KiB sector, or a new one when they do not fit (R398). -/
def logRecord (sectors : List (Nat × Nat × List HeldRec)) (r : HeldRec) : List (Nat × Nat × List HeldRec) :=
  match sectors.getLast? with
  | none => [(1, r.recNo, [r])]
  | some (no, first, recs) =>
    if 16 + recsSize recs + r.size ≤ 65536 then sectors.dropLast ++ [(no, first, recs ++ [r])]
    else sectors ++ [(no + 1, r.recNo, [r])]

/-- Sectors of the log area (R395, R398): when none is free the one with the lowest sequence number is erased. -/
def logKeep (n : Nat) (sectors : List (Nat × Nat × List HeldRec)) : List (Nat × Nat × List HeldRec) :=
  sectors.drop (sectors.length - n)

/-- Records are written to the flash log area, in order. -/
def Chip.exportRecs (c : Chip) (l : List HeldRec) : Chip :=
  { c with
    nv := { c.nv with logSectors := logKeep 253 (l.foldl logRecord c.nv.logSectors) }
    scv := { c.scv with exportedNo := (l.getLast?.map HeldRec.recNo).getD c.scv.exportedNo } }

/-- An export is asked for, or the running one is extended: to the present end of the halves named (R387). -/
def Chip.exportStart (c : Chip) (a b : Bool) : Chip :=
  let old := c.scv.exportTo.getD (c.rn R.SCV_HALFA_EXP, c.rn R.SCV_HALFB_EXP)
  let tgt := (if a then c.rn R.SCV_HALFA_END else old.1, if b then c.rn R.SCV_HALFB_END else old.2)
  { c with scv := { c.scv with exportTo := some tgt } }.setFlag R.SCV_STAT F.SCV_STAT_EXPORTING true

/-- Half `b` holds no records (R386); a running export has nothing more to copy from it. -/
def Chip.halfClear (c : Chip) (b : Bool) : Chip :=
  let c1 := ((c.setHalf b {}).setFld R.SCV_STAT (halfState b) 0).setN (halfEnd b) 0
  { c1.setN (halfExp b) 0 with scv := { c1.scv with exportTo := c1.scv.exportTo.map (fun t => if b then (t.1, 0) else (0, t.2)) } }

/-- Half `b` starts empty and takes up recording with the next record number (R386). -/
def Chip.halfRestart (c : Chip) (b : Bool) : Chip :=
  (((c.halfClear b).setFld R.SCV_STAT (halfState b) 1).setFlag R.SCV_STAT F.SCV_STAT_ACTIVE b).setN (halfFirst b) (c.rn R.SCV_REC_NO + 1)

/-- The unexported records of a half about to be overwritten are counted lost (R386, R392). -/
def Chip.halfLose (c : Chip) (b : Bool) (event : Bool) : Chip :=
  let n := (c.unexported b).length
  if n = 0 then c
  else
    let c1 := c.addCnt R.SCV_LOST n
    if event then c1.raise Ev.scvLoss else c1

/-- Recording moves on because a record does not fit (R386), or the one healthy half wraps (R392). -/
def Chip.halfNext (c : Chip) : Chip :=
  let b := c.recHalf
  if c.halfFailed (!b) then (c.halfLose b false).halfRestart b
  else
    let c1 := (c.setFld R.SCV_STAT (halfState b) 2).raise Ev.scvHalfFull
    let c2 := c1.exportStart (!b) b
    (c2.halfLose (!b) true).halfRestart (!b)

/-- The last record written, with its half, if it still stands there. -/
def Chip.lastRec (c : Chip) : Option HeldRec := (c.half c.recHalf).recs.getLast?

/-- May `r` fold into `l` (R381)? -/
def foldable (flood : Nat) (l : HeldRec) (r : Rec) : Bool :=
  let latest := if l.rpt = 0 then l.stamp else l.last
  decide (l.typ = r.typ) && decide (l.src = r.src) && decide (l.payload = r.payload) &&
    decide (((r.stamp : Int) - latest) * 1000000 ≤ flood * 68719476736) &&
    decide (r.typ ≠ 2) && decide (r.typ ≠ 3) && decide (r.typ ≠ 4)

/-- `SCV_CTRL.FLOOD` in force: 1 to 1,000,000 µs (Table 16-11). -/
def Chip.flood (c : Chip) : Nat := max 1 (min 1000000 (c.rn R.SCV_CTRL))

/-- The first entry of a partition's snapshot log that waits for this record's number takes it (Table 7-6). -/
def fillSnap (stamp list no : Nat) : List (Nat × Nat × Nat) → List (Nat × Nat × Nat)
  | [] => []
  | x :: rest => if x = (stamp, list, 0) then (stamp, list, no) :: rest else x :: fillSnap stamp list no rest

/-- A sequencer's SNAPSHOT record has been numbered: its reference in the partition's snapshot log, or in a segment's list that has
already copied it, takes the number (R378). -/
def Chip.noteSnap (c : Chip) (r : Rec) (no : Nat) : Chip :=
  match r.payload with
  | list :: _ :: 0 :: p :: _ =>
    if r.typ = 2 ∧ p < 16 then
      let pt := c.part p
      c.setPart p { pt with
        snaps := fillSnap r.stamp list no pt.snaps
        segs := pt.segs.map (fun s => (s.1, { s.2 with snaps := fillSnap r.stamp list no s.2.snaps })) }
    else c
  | _ => c

/-- A record is written as a new record (R378, R386). -/
def Chip.writeNew (c0 : Chip) (r : Rec) : Chip :=
  let c := if r.typ = 2 then c0.noteSnap r (c0.rn R.SCV_REC_NO + 1) else c0
  let h0 : HeldRec := ⟨r.typ, r.src, r.stamp, r.payload, 0, 0, 0⟩
  let c1 := if c.rn (halfEnd c.recHalf) + h0.size > halfSize then c.halfNext else c
  let no := c1.rn R.SCV_REC_NO + 1
  let b := c1.recHalf
  let h := c1.half b
  (((c1.setHalf b { h with recs := h.recs ++ [{ h0 with recNo := no }] }).setN R.SCV_REC_NO no).setN (halfEnd b)
    (c1.rn (halfEnd b) + h0.size))

/-- A record is folded into the last one (R382), if the fold fits. -/
def Chip.foldInto (c : Chip) (l : HeldRec) (r : Rec) : Option Chip :=
  let b := c.recHalf
  let h := c.half b
  let grow := if l.rpt = 0 then 16 else 0
  if l.rpt = 0xffffff ∨ c.rn (halfEnd b) + grow > halfSize then none
  else
    some (((c.setHalf b { h with recs := h.recs.dropLast ++ [{ l with rpt := l.rpt + 1, last := r.stamp }] }).setN (halfEnd b)
      (c.rn (halfEnd b) + grow)).addCnt R.SCV_FOLD 1)

/-- A record that has left the input queue is folded or written (R381, R382). -/
def Chip.writeRec (c : Chip) (r : Rec) : Chip :=
  match c.lastRec with
  | none => c.writeNew r
  | some l =>
    if foldable c.flood l r then (c.foldInto l r).getD (c.writeNew r) else c.writeNew r

/-- The SCV_LOSS of a full queue has its own EVENT record when its `EVT_SCV0` bit is 1 (R379): it enters at the first place that frees.
(DEDUCED, log 56) -/
def Chip.lossNote (c : Chip) : Chip :=
  if c.scv.lossDue then
    let c1 := { c with scv := { c.scv with lossDue := false } }
    if bit (c1.rn (R.EVT_SCV 0)) 10 then c1.record 1 0 c1.now [0, 10, 0, 0, 0, 0, 0, 0] else c1
  else c

/-- Every queued record is written (the Scrivener writes one in each fabric cycle, R380). (DEDUCED, log 56) -/
def Chip.drain (c : Chip) : Chip :=
  c.scv.queue.foldl Chip.writeRec { c with scv := { c.scv with queue := [] } }

/-! ### Last words and freeze (R390, R393) -/

/-- The last-words code (Table 16-8). -/
def lwCode (cause stamp : Nat) (dead : Bool) : Nat :=
  cause * 2 ^ 56 + (if dead then 2 ^ 54 else 0) + bits stamp 36 32 * 2 ^ 16 + bits stamp 20 16

/-- The last-words code is latched: the first cause stays (R393). -/
def Chip.latchLw (c : Chip) (cause stamp : Nat) (dead : Bool) : Chip :=
  if c.flag R.SCV_AON F.SCV_AON_LW_VALID then
    let h := putBits (c.rn R.SCV_LW_H) 23 1 1
    c.setN R.SCV_LW_H (if dead then putBits h 22 1 1 else h)
  else (c.setPair 32 R.SCV_LW_L (lwCode cause stamp dead)).setFlag R.SCV_AON F.SCV_AON_LW_VALID true

/-- Partitions with an open segment (R175). -/
def Chip.openMask (c : Chip) : Nat :=
  c.parts.foldl (fun m p => if p.2.segs.any (fun s => decide (s.2.state = 1)) then maskSet m p.1 else m) 0

/-- The FATAL record is written behind every queued record and the Scrivener freezes (R390). -/
def Chip.scvFreeze (c : Chip) (f : Fatal) : Chip :=
  if c.frozen then (if f.cause = 6 then c else c.addCnt R.SCV_REFUSED 1).latchLw f.cause f.stamp (c.flag R.SCV_AON F.SCV_AON_SCV_DEAD)
  else
    let c1 := c.drain.lossNote.drain
    let c2 := if f.cause = 6 then c1
      else c1.writeNew ⟨3, 0, f.stamp, [f.cause, f.detail.length] ++ leBytes 2 c.openMask ++ [0, 0, 0, 0] ++ f.detail, c.cycle⟩
    let c3 := c2.setFlag R.SCV_STAT F.SCV_STAT_FROZEN true
    let c4 := if f.cause = 6 then c3 else c3.raise Ev.scvFrozen
    let c5 := c4.latchLw f.cause f.stamp (c4.flag R.SCV_AON F.SCV_AON_SCV_DEAD)
    c5.exportStart true true

/-! ### Failure of a half (R392) -/

/-- Both halves are lost: the Scrivener is dead, and the engine enters Safe with cause 0x06. -/
def Chip.scvDead (c : Chip) : Chip :=
  let c1 := c.setFlag R.SCV_AON F.SCV_AON_SCV_DEAD true
  let c2 := c1.raise Ev.scvDead
  c2.declareFatal 6 [] c2.now false

/-- A read has met an uncorrectable word of half `b` (R392). -/
def Chip.failHalf (c : Chip) (b : Bool) (word : Nat) : Chip :=
  let h := c.half b
  if c.halfFailed b then c.setHalf b { h with badWords := if h.badWords.contains word then h.badWords else word :: h.badWords }
  else
    let c1 := (c.setHalf b { h with badWords := word :: h.badWords }).setFlag R.SCV_STAT (halfFail b) true
    if c.halfFailed (!b) then c1.scvDead
    else
      let c2 := if c.frozen then c1
        else if c.recHalf = b then
          let c1a := if c.fld R.SCV_STAT (halfState (!b)) = 0 then c1 else c1.halfLose (!b) false
          c1a.halfRestart (!b)
        else c1
      let r : Rec := ⟨4, 0, c.now, [if b then 1 else 0, 0, 0, 0] ++ leBytes 4 word, c.cycle⟩
      let c3 := if c.frozen then c2.addCnt R.SCV_REFUSED 1 else c2.writeNew r
      c3.raise Ev.scvHalfFail

/-! ### Commands and events -/

/-- A record leaves the input queue (R380, R381); `bad` is an uncorrectable word that the fold comparison met (R392). -/
def doScrivenerWrite (bad : Option Nat) (c : Chip) : Chip :=
  match c.scv.queue with
  | [] => c
  | r :: rest =>
    let c1 := { c with scv := { c.scv with queue := rest } }
    let c2 := match bad with
      | some w => if c1.lastRec.isSome then c1.failHalf c1.recHalf w else c1
      | none => c1
    if c2.fatal.isSome then { c2 with scv := { c2.scv with queue := r :: c2.scv.queue } } else (c2.writeRec r).lossNote

/-- The SCV command register. -/
def scvPort : CmdPort := ⟨R.SCV_CMD, R.SCV_CMDSTAT, Ev.rejEvtScv⟩

/-- EXPORT (R387, Table 16-9). (DESIGN CHOICE, log 54) -/
def doScvExport (init : Init) (c : Chip) : Chip :=
  c.command scvPort init none (!c.stw.dead)
    (firstReason [(c.flag R.SCV_STAT F.SCV_STAT_EXPORTING, 0xc0)])
    (fun c => c.exportStart true true)

/-- The records of a half that an export to offset `to` copies, without those on damaged words. -/
def Chip.exportable (c : Chip) (b : Bool) (hi : Nat) : List HeldRec :=
  let h := c.half b
  let all := recsWithin h.recs (c.rn (halfExp b)) hi
  if h.badWords.isEmpty then all
  else
    let lim := (minNat h.badWords).getD 32768 * 8
    recsWithin h.recs (c.rn (halfExp b)) (min hi lim)

/-- Half `b` has been copied up to `to`; a FULL half wholly copied becomes EXPORTED (R387). -/
def Chip.markExported (c : Chip) (b : Bool) (hi : Nat) : Chip :=
  let e := min hi (c.rn (halfEnd b))
  let c1 := c.setN (halfExp b) (max (c.rn (halfExp b)) e)
  if c1.fld R.SCV_STAT (halfState b) = 2 ∧ c1.rn (halfExp b) = c1.rn (halfEnd b) then c1.setFld R.SCV_STAT (halfState b) 3 else c1

/-- The export that runs is complete (R387): records go to the log in record-number order. `bad` is an uncorrectable word it met in
half B (`true`) or A. (DEDUCED, log 56) -/
def doScvExported (bad : Option (Bool × Nat)) (c : Chip) : Chip :=
  if c.scv.exportTo.isNone then c
  else
    let c1 := match bad with
      | some (h, w) => c.failHalf h w
      | none => c
    let (a, b) := c1.scv.exportTo.getD (0, 0)
    let ra := c1.exportable false a
    let rb := c1.exportable true b
    let ordered := if c1.rn R.SCV_HALFA_FIRST ≤ c1.rn R.SCV_HALFB_FIRST then ra ++ rb else rb ++ ra
    let c2 := c1.exportRecs ordered
    let c3 := (c2.markExported false a).markExported true b
    let c4 := { c3 with scv := { c3.scv with exportTo := none } }.setFlag R.SCV_STAT F.SCV_STAT_EXPORTING false
    c4.raise Ev.scvExported

/-- THAW empties both halves and recording resumes (R391): in half A, or in half B where A has failed. (DEDUCED, log 56) -/
def Chip.thaw (c : Chip) : Chip :=
  let c1 := ((c.halfClear false).halfClear true).setFlag R.SCV_STAT F.SCV_STAT_FROZEN false
  let c2 := c1.halfRestart (c1.halfFailed false)
  { c2 with scv := { c2.scv with thawDue := false } }

/-- The reason THAW is rejected, or 0 (Table 16-9). -/
def Chip.thawReason (c : Chip) : Nat :=
  firstReason [(!c.frozen, 0xc1),
    ([false, true].any (fun b => !c.halfFailed b && decide (c.rn (halfExp b) < c.rn (halfEnd b))), 0xc2),
    (c.flag R.SCV_AON F.SCV_AON_SCV_DEAD, 0xc3)]

/-- THAW (R391). -/
def doScvThaw (init : Init) (c : Chip) : Chip :=
  c.command scvPort init none false c.thawReason Chip.thaw

/-- The entries of a list: offsets before the first with VALID = 0 (R383). -/
def listEntries (ws : List Nat) : List Nat := (ws.takeWhile (fun w => bit w 31)).map (fun w => bits w 0 23)

/-- The 32 entries of list `l` as the Steward reads them (R383): the engine, the entries, and the worst read outcome. -/
def Chip.readSnapList (c : Chip) (l : Nat) : Chip × List Nat × Nat :=
  let r := c.cstReadList 18 (c.rn R.SCV_SNAP_BASE + 16 * l) 16
  (r.1, (leWords (dwordBytes r.2.1)), r.2.2)

/-- Lists read in turn: the engine, list numbers with their entries, and the worst outcome. -/
def Chip.readSnapLists (c : Chip) (ls : List Nat) : Chip × List (Nat × List Nat) × Nat :=
  ls.foldl (fun acc l =>
    let r := acc.1.readSnapList l
    (r.1, acc.2.1 ++ [(l, r.2.1)], max acc.2.2 r.2.2)) (c, [], 0)

/-- LOAD's work (R383, Table 16-9): the engine with the lists taken, and 0, or the reason for which no list changes. (DEDUCED, log 56) -/
def Chip.loadLists (c : Chip) (all : Bool) (list : Nat) : Chip × Nat :=
  let ls := if all then List.range 64 else [list % 64]
  let top := c.rn R.SCV_SNAP_BASE + 16 * ((ls.getLast?.getD 0) + 1)
  if top > c.cstWords then (c, 0xc5)
  else
    let r := c.readSnapLists ls
    let badEntry := fun (w : Nat) => bit w 31 && (decide (bits w 0 23 > 0x7ffffc) || decide (bits w 0 23 % 4 ≠ 0))
    if r.2.1.any (fun x => x.2.any badEntry) then (r.1, 0xc4)
    else if r.2.2 = 2 then (r.1, 0xc6)
    else
      ({ r.1 with scv := { r.1.scv with
        lists := r.2.1.foldl (fun m x => SMap.put m x.1 (listEntries x.2)) r.1.scv.lists } }, 0)

/-- LOAD (R383); the write carries LIST and ALL (R345). A list word that cannot be read leaves a STEWARD record too (R416). -/
def doScvLoad (init : Init) (all : Bool) (list : Nat) (c0 : Chip) : Chip :=
  let c := (c0.setFlag R.SCV_CMD F.SCV_CMD_ALL all).setFld R.SCV_CMD F.SCV_CMD_LIST list
  if c.inSafe then c.command scvPort init none false 0 id
  else
    let r := c.loadLists all list
    let c1 := if r.2 = 0xc6 then
        r.1.stwReadFailed (c.firstUe (c.rn R.SCV_SNAP_BASE + (if all then 0 else 16 * (list % 64))) (if all then 1024 else 16))
      else r.1
    c1.command scvPort init none false r.2 id

/-- LW_CLEAR (R393). -/
def doLwClear (init : Init) (c : Chip) : Chip :=
  c.command scvPort init none false 0 (fun c => (c.setPair 32 R.SCV_LW_L 0).setFlag R.SCV_AON F.SCV_AON_LW_VALID false)

/-- The 64-bit word of a half: its records' bytes, then the end word; what lies beyond is not stated, a free value (DESIGN CHOICE, log 3). -/
def Chip.halfWord (c : Chip) (b : Bool) (w : Nat) : Nat :=
  let e := c.rn (halfEnd b)
  if 8 * w < e then leAt ((c.half b).recs.flatMap HeldRec.bytes) (8 * w) 8
  else if 8 * w = e then 0
  else c.freeNow.toNat + 2 ^ 32 * (Config.freeWord (c.freeCtr + 1)).toNat

/-- A window read by an initiator (R388): `_L` returns the low half and captures the high one; `_H` returns the captured bits and
advances the address within the half. `bad`: the word is uncorrectable. -/
def doScvWindowRead (init : Init) (hi bad : Bool) (c : Chip) : Chip :=
  let b := c.flag R.SCV_WIN_ADDR F.SCV_WIN_ADDR_HALF
  let w := c.fld R.SCV_WIN_ADDR F.SCV_WIN_ADDR_WORD
  let key := latchKey init R.SCV_WIN_DATA_H
  if hi then
    let v := SMap.get (fun _ => c.freeNow) c.acc.captured key
    ({ c with rdata := v }.used).setFld R.SCV_WIN_ADDR F.SCV_WIN_ADDR_WORD ((w + 1) % 32768)
  else if bad || (c.half b).badWords.contains w then
    let c1 := c.failHalf b w
    { c1 with rdata := 0xffffffff, acc := { c1.acc with captured := SMap.put c1.acc.captured key 0xffffffff } }
  else
    let v := c.halfWord b w
    { c with
      rdata := BitVec.ofNat 32 v
      freeCtr := c.freeCtr + 2
      acc := { c.acc with captured := SMap.put c.acc.captured key (BitVec.ofNat 32 (v / 2 ^ 32)) } }

/-- EVT_RAISE (R374): the pending bits are accepted together and set in `EVT_STAT63`; in Safe they are rejected (R360). -/
def doEvtRaise (c : Chip) : Chip :=
  let m := c.rn R.EVT_RAISE
  if m = 0 then c
  else if c.inSafe then
    (maskList 24 m).foldl (fun c b =>
      c.reject ⟨R.EVT_RAISE, R.EVT_CMDSTAT, Ev.rejEvtScv⟩ (if bit c.evt.raiseStw b then .steward else .host) none 0xfe) (c.setN R.EVT_RAISE 0)
  else
    let c1 := (c.setN R.EVT_RAISE 0).setFld R.EVT_CMDSTAT reasonFld 0
    { (maskList 24 m).foldl (fun c b => c.raise (63, b)) c1 with lastReason := 0 }

end Sys2Proof.Machine
end

