-- ==== Sys2Proof/Machine/View.lean ====
section
/-! DEFINITION. What a register read shows: registers whose value follows from the engine's present state are computed here; every
other register shows what the register file holds. Snapshots capture these values without any read side effect (R384). -/

namespace Sys2Proof.Machine

/-! ### Notice lines (R371, R373) -/

/-- Line v is active: some status register routed to it holds an enabled event, over the status registers that are not zero. -/
def Chip.activeLines (c : Chip) : Nat :=
  c.regs.foldl (fun m e =>
    if R.EVT_STAT 0 ≤ e.1 ∧ e.1 ≤ R.EVT_STAT 63 then
      let n := (e.1 - R.EVT_STAT 0) / 4
      if (e.2.toNat &&& c.rn (R.EVT_EN n)) % 2 ^ 24 ≠ 0 then maskSet m (c.fld (R.EVT_LINE n) F.EVT_LINE_LINE) else m
    else m) 0

/-- `INTNk` is asserted while a line of its map is active (R373). -/
def Chip.intAsserted (c : Chip) (k : Nat) : Bool :=
  decide (c.activeLines &&& (c.rn (R.EVT_PIN_MAP_L k) + 2 ^ 32 * c.rn (R.EVT_PIN_MAP_H k)) ≠ 0)

/-! ### Cross-trigger lines and TRIG pins -/

/-- XTn is active in evaluation cycle `e` (R113). -/
def Chip.xtActive (c : Chip) (n e : Nat) : Bool := c.trs.xt.any (fun x => decide (x.1 = n) && decide (x.2.1 ≤ e) && decide (e ≤ x.2.2))

/-- A bit mask of the 32 indices for which `f` holds. -/
def mask32 (f : Nat → Bool) : Nat := (List.range 32).foldl (fun m i => if f i then m + 2 ^ i else m) 0

/-- Pin n is an output (R118). -/
def Chip.trigOut (c : Chip) (n : Nat) : Bool := c.wflag (R.TRS_TRIG_CFG n) F.TRS_TRIG_CFG_DIR

/-- A pulse drives output `n` to its active level at synthesiser-timeline time `t` (R116). -/
def Chip.trigActiveAt (c : Chip) (n t : Nat) : Bool :=
  c.trs.pulses.any (fun x => decide (x.1 = n) && decide (x.2.1 ≤ t) && decide (t < x.2.2))

/-- The level output `n` drives at time `t` (R116). -/
def Chip.trigDrive (c : Chip) (n t : Nat) : Bool := c.wflag (R.TRS_TRIG_CFG n) F.TRS_TRIG_CFG_POL != c.trigActiveAt n t

/-- The electrical level of `TRIGn`: what it drives as an output, else what the board drives (R116, R121). -/
def Chip.trigLevel (c : Chip) (n : Nat) : Bool := if c.trigOut n then c.trigDrive n c.epc.line else bit c.pins.trigIn n

/-- The level of `TRIGn` after IPOL. -/
def Chip.trigAfterIpol (c : Chip) (n : Nat) : Bool := c.wflag (R.TRS_TRIG_CFG n) F.TRS_TRIG_CFG_IPOL != c.trigLevel n

/-! ### Clock output phases (R291) -/

/-- PHASE as it acts: modulo one output period, in taps (R291). -/
def Chip.ckoPhase (c : Chip) (m : Nat) : Nat :=
  c.fld (R.CLK_CKO_PHASE m) F.CLK_CKO_PHASE_PHASE % (64 * (c.wfld (R.CLK_CKO_CFG m) F.CLK_CKO_CFG_ODIV + 1))

/-- The output period of m in taps. -/
def Chip.ckoTaps (c : Chip) (m : Nat) : Nat := 64 * (c.wfld (R.CLK_CKO_CFG m) F.CLK_CKO_CFG_ODIV + 1)

/-- A phase on its way from `cur` to `dst`, modulo `d`, after `n` taps in the shorter direction; `tie` decides between two equal ways. -/
def phaseWay (d cur dst n : Nat) (tie : Bool) : Nat :=
  let up := (dst + d - cur) % d
  let down := (cur + d - dst) % d
  if up < down ∨ (up = down ∧ tie = true) then (cur + min n up) % d else (cur + d - min n down) % d

/-- CUR of output m: with SRC = 0 its aligner moves one tap per output period, each no longer than the period and a tap, until it equals
PHASE (R291). (DESIGN CHOICE, log 28) -/
def Chip.ckoCur (c : Chip) (m : Nat) : Nat :=
  let d := c.ckoTaps m
  let f := SMap.get (fun _ => (0, 0)) c.clk.ckoFrom m
  if c.wfld (R.CLK_CKO_CFG m) F.CLK_CKO_CFG_SRC = 0 then
    phaseWay d (f.1 % d) (c.ckoPhase m) ((c.epc.line - f.2) * 64 * c.fscRatio.2 / (c.fscRatio.1 * (d + 1))) (decide (Config.ckoTie m = 1))
  else f.1 % d

/-! ### Carter occupancy (R225) -/

/-- An entry is poppable: not popped, and pushed or returned in an earlier cycle (R228, R232). -/
def Chip.carPoppable (c : Chip) (e : CarEntry) : Bool := e.popNo.isNone && decide (e.cycle < c.cycle)

/-- OCC_q and DEPTH_q. -/
def Chip.carOcc (c : Chip) (q : Nat) : Nat := (c.car.entries.filter (fun e => decide (e.queue = q))).length
def Chip.carDepth (c : Chip) (q : Nat) : Nat := (c.car.entries.filter (fun e => decide (e.queue = q) && c.carPoppable e)).length

/-- RESERVE_q in the working copy. -/
def Chip.carReserve (c : Chip) (q : Nat) : Nat := c.wfld (R.CAR_Q_CFG q) F.CAR_Q_CFG_RESERVE

/-- F. -/
def Chip.carFree (c : Chip) : Nat := 4096 - (List.range 8).foldl (fun n q => n + max (c.carOcc q) (c.carReserve q)) 0

/-! ### Reads -/

/-- The fences an initiator has completed (R363). -/
def Chip.fenceCount (c : Chip) (i : Init) : Nat := if i = .host then c.acc.fencesHost else c.acc.fencesStw

/-- A key register reads 0 whatever was written (R150). -/
def isKeyReg (a : Nat) : Bool :=
  (decide (0x701020 ≤ a) && decide (a < 0x701820) && decide (0x20 ≤ (a - 0x701000) % 0x80) && decide ((a - 0x701000) % 0x80 < 0x40)) ||
  (decide (0x700060 ≤ a) && decide (a < 0x700080)) ||
  (decide (0x680000 ≤ a) && decide (a < 0x6c0000) && decide (0x120 ≤ (a - 0x680000) % 0x10000) &&
    decide ((a - 0x680000) % 0x10000 < 0x140))

/-- `MCn_DLY_DATA` n: the staged value of the delay that `MCn_DLY_SEL` names (R319). -/
def Chip.dlyData (c : Chip) (n : Nat) : Nat := cnt0 (c.mcCh n).staged (c.fld (R.MC_DLY_SEL n) F.MC_DLY_SEL_SEL)

/-- Steady is in force and latched: `PRTp_CFG.VERIFY` reads 1 (R19, Table 7-8). -/
def Chip.verifyForced (c : Chip) : Bool := c.latched && c.steady

/-- The value a read of the register at `a` by `i` shows, without side effects. (DESIGN CHOICE, log 4; DEDUCED, log 26) -/
def Chip.view (c : Chip) (i : Init) (a : Nat) : Word :=
  let n := fun (v : Nat) => BitVec.ofNat 32 v
  if a = R.GLB_DIE_ID_L then n Config.dieId.toNat
  else if a = R.GLB_DIE_ID_H then n (Config.dieId.toNat / 2 ^ 32)
  else if a = R.GLB_FENCE then n (c.fenceCount i % 65536 * 65536)
  else if a = R.GLB_GUARD_STAT then
    n (c.rn a + (if c.acc.guardHost.isSome then 1 else 0) + (if c.acc.guardStw.isSome then 2 else 0))
  else if a = R.HIF_ID then n (putBits (c.rn a) 0 16 Config.vendorId.toNat)
  else if a = R.EPC_NOW_L then n c.now
  else if a = R.EPC_NOW_M then n (c.now / 2 ^ 32)
  else if a = R.EPC_NOW_H then n (c.now / 2 ^ 64 % 65536)
  else if a = R.EVT_LINE_ACT_L then n c.activeLines
  else if a = R.EVT_LINE_ACT_H then n (c.activeLines / 2 ^ 32)
  else if a = R.TRS_XT_NOW then n (mask32 (fun k => c.xtActive k c.lineCycle))
  else if a = R.TRS_TRIG_IN then n (mask32 c.trigAfterIpol)
  else if R.CLK_CKO_PHASE 0 ≤ a ∧ a ≤ R.CLK_CKO_PHASE 7 ∧ (a - R.CLK_CKO_PHASE 0) % 16 = 0 then
    n (putBits (c.rn a) 16 16 (c.ckoCur ((a - R.CLK_CKO_PHASE 0) / 16)))
  else if isKeyReg a then 0
  else if a = R.CAR_FREE then n c.carFree
  else if 0x381000 ≤ a ∧ a < 0x381800 ∧ (a - 0x381000) % 0x100 = 0x10 then
    n (c.rn a + c.carDepth ((a - 0x381000) / 0x100) + 65536 * c.carOcc ((a - 0x381000) / 0x100))
  else if 0x400000 ≤ a ∧ a < 0x480000 ∧ (a - 0x400000) % 0x10000 = 0x11c then n (c.dlyData ((a - 0x400000) / 0x10000))
  else if 0x300000 ≤ a ∧ a < 0x310000 ∧ (a - 0x300000) % 0x1000 = 0 ∧ c.verifyForced then n (putBits (c.rn a) 8 1 1)
  else if (regRow a).isNone then 0
  else c.reg a

/-! ### Snapshots (R383 to R385) -/

/-- The values a snapshot of list `l` captures: `none` for a list above 63 or never loaded. -/
def Chip.snapValues (c : Chip) (l : Nat) : List Nat :=
  if l > 63 then []
  else ((SMap.get (fun _ => []) c.scv.lists l).map (fun a => (c.view .steward a).toNat))

/-- A SNAPSHOT record is produced (Table 16-5). -/
def Chip.snapshot (c : Chip) (list origin part who src stamp : Nat) : Chip :=
  let vs := c.snapValues list
  c.record 2 src stamp (padTo 8 ([list % 256, vs.length, origin, part, who, 0, 0, 0] ++ wordBytes vs))

end Sys2Proof.Machine
end

