-- ==== Sys2Proof/Machine/DramMap.lean ====
section
/-! DEFINITION. Where a byte of DRAM lies and how runs of codewords reach a channel's queues (spec 13, R297, R303, R304; spec 07, R159, R160). -/

namespace Sys2Proof.Machine

/-! ### State -/

/-- `MCX_STAT.STATE` (Table 13-6). -/
def Chip.mcState (c : Chip) : Nat := c.fld R.MCX_STAT F.MCX_STAT_STATE
def Chip.setMcState (c : Chip) (s : Nat) : Chip := c.setFld R.MCX_STAT F.MCX_STAT_STATE s

/-- Populated channels. -/
def Chip.nch (c : Chip) : Nat := c.fld R.MCX_STAT F.MCX_STAT_NCH

/-- The controller serves traffic, or prepares for self-refresh. -/
def Chip.mcActive (c : Chip) : Bool := decide (2 ≤ c.mcState) && decide (c.mcState ≤ 4)

/-! ### Addresses -/

/-- CAP in bytes (R159). -/
def Chip.capBytes (c : Chip) : Nat := c.nch * (c.mc.dimmBytes - 268435456)

/-- Channel and channel-local byte address of a capture address (R160). -/
def Chip.capMap (c : Chip) (a : Nat) : Nat × Nat :=
  let u := a / 4096
  (u % c.nch, 268435456 + u / c.nch * 4096 + a % 4096)

/-- Bytes of the engine region over all channels (R304). -/
def Chip.engBytes (c : Chip) : Nat := c.nch * 268435456

/-- Channel and channel-local byte address of an engine address: the hash of R304. -/
def Chip.engMap (c : Chip) (e : Nat) : Nat × Nat :=
  let u := e / 4096
  let g := u / c.nch
  let fold := (g ^^^ (g / 32) ^^^ (g / 1024) ^^^ (g / 32768)) % 32
  ((u % c.nch + fold) % c.nch, g * 4096 + e % 4096)

/-- Where a codeword lies in a channel (R303): rank, bank group, bank, 4 KiB slot of the lockstep page, row, and column in codewords. -/
structure DramPlace where
  rank : Nat
  group : Nat
  bank : Nat
  slot : Nat
  row : Nat
  col : Nat
  deriving DecidableEq, Repr

/-- The place of the codeword that holds local address `l` (R303). -/
def Chip.dramPlace (c : Chip) (ch l : Nat) : DramPlace :=
  let k := l / 4096
  let rb := if c.flag (R.MC_STAT ch) F.MC_STAT_RANKS2 then 1 else 0
  let s := if c.flag (R.MC_STAT ch) F.MC_STAT_X8 then 2 else 4
  let page := k / 2 ^ (5 + rb)
  let row := page / s
  let slot := page % s
  { rank := k / 32 % (rb + 1)
    group := if k < 65536 then k % 8 ^^^ row % 8 else k % 8
    bank := if k < 65536 then k / 8 % 4 ^^^ row / 8 % 4 else k / 8 % 4
    slot := slot, row := row, col := slot * 32 + l / 128 % 32 }

/-- A bank's number: 32 * rank + 4 * group + bank. -/
def DramPlace.bankNo (d : DramPlace) : Nat := 32 * d.rank + 4 * d.group + d.bank

/-- The bank and row of a local address. -/
def Chip.bankRow (c : Chip) (ch l : Nat) : Nat × Nat := ((c.dramPlace ch l).bankNo, (c.dramPlace ch l).row)

/-! ### Runs of codewords (R297, R301) -/

/-- The pieces of `[a, a + n)` that lie in one 4 KiB unit each. -/
def unitPieces : Nat → Nat → Nat → List (Nat × Nat)
  | 0, _, _ => []
  | fuel + 1, a, n =>
    if n = 0 then []
    else
      let k := min n (4096 - a % 4096)
      (a, k) :: unitPieces fuel (a + k) (n - k)

/-- A run of codewords covering bytes `[l, l + n)` of a channel. -/
def codewordRun (req l n : Nat) : DramReq :=
  { req := req, addr := l / 128 * 128, count := (l + n + 127) / 128 - l / 128, rmwFirst := decide (l % 128 ≠ 0),
    rmwLast := decide ((l + n) % 128 ≠ 0) }

/-- The runs that a transfer of `n` bytes at capture address `a` makes, by channel. -/
def Chip.capRuns (c : Chip) (req a n : Nat) : List (Nat × DramReq) :=
  (unitPieces (n / 4096 + 2) a n).map (fun p => let m := c.capMap p.1; (m.1, codewordRun req m.2 p.2))

/-- The runs that a transfer of `n` bytes at engine address `e` makes, by channel. -/
def Chip.engRuns (c : Chip) (req e n : Nat) : List (Nat × DramReq) :=
  (unitPieces (n / 4096 + 2) e n).map (fun p => let m := c.engMap p.1; (m.1, codewordRun req m.2 p.2))

/-- Two runs of a channel share a codeword. -/
def DramReq.meets (x y : DramReq) : Bool := decide (x.addr < y.addr + 128 * y.count) && decide (y.addr < x.addr + 128 * x.count)

/-! ### Queues (R305, R307) -/

/-- Codewords in a queue. -/
def queued (l : List DramReq) : Nat := l.foldl (fun n r => n + r.count) 0

/-- A run of codewords joins a channel's write queue. -/
def Chip.pushWrite (c : Chip) (ch : Nat) (r : DramReq) : Chip :=
  let m := c.mcCh ch
  c.setMcCh ch { m with writes := m.writes ++ [r] }

/-- A run of codewords joins a channel's read queue. -/
def Chip.pushRead (c : Chip) (ch : Nat) (r : DramReq) : Chip :=
  let m := c.mcCh ch
  c.setMcCh ch { m with reads := m.reads ++ [r] }

/-- Every channel's queue of some kind can take the runs (R307: a full write queue stalls its writers). -/
def Chip.queueFits (c : Chip) (kind : McCh → List DramReq) (rs : List (Nat × DramReq)) : Bool :=
  (List.range 8).all (fun ch =>
    let n := queued ((rs.filter (fun r => decide (r.1 = ch))).map (fun r => r.2))
    decide (n = 0) || decide (queued (kind (c.mcCh ch)) + n ≤ 256))

/-- Every channel's write queue can take the runs. -/
def Chip.writesFit (c : Chip) (rs : List (Nat × DramReq)) : Bool := c.queueFits McCh.writes rs

/-- The runs join their channels' write queues. -/
def Chip.pushWrites (c : Chip) (rs : List (Nat × DramReq)) : Chip := rs.foldl (fun c r => c.pushWrite r.1 r.2) c

/-- The runs join their channels' read queues. -/
def Chip.pushReads (c : Chip) (rs : List (Nat × DramReq)) : Chip := rs.foldl (fun c r => c.pushRead r.1 r.2) c

/-! ### The engine's own writes (R171, R173, R174): table entries, list pages, HELD bits of directory entries -/

/-- One waiting run joins its queue if it has room and no earlier run of its channel waits: the engine, and the runs that still wait. -/
def feedOne (acc : Chip × List (Nat × DramReq)) (r : Nat × DramReq) : Chip × List (Nat × DramReq) :=
  if acc.2.any (fun x => decide (x.1 = r.1)) || decide (queued (acc.1.mcCh r.1).writes + r.2.count > 256) then (acc.1, acc.2 ++ [r])
  else (acc.1.pushWrite r.1 r.2, acc.2)

/-- The engine's own writes join the write queues, in their order, while the controller serves writes. (DESIGN CHOICE, log 70) -/
def Chip.mcFeed (c : Chip) : Chip :=
  if c.mcActive && !c.mc.wait.isEmpty then
    let r := c.mc.wait.foldl feedOne (c, [])
    { r.1 with mc := { r.1.mc with wait := r.2 } }
  else c

/-- The engine writes `n` bytes at capture address `a` on behalf of lane group `req`. -/
def Chip.metaWrite (c : Chip) (req a n : Nat) : Chip := { c with mc := { c.mc with wait := c.mc.wait ++ c.capRuns req a n } }.mcFeed

/-- A write of some of the bytes `[a, a + n)` is not carried out yet. -/
def Chip.capPending (c : Chip) (a n : Nat) : Bool :=
  (c.capRuns 0 a n).any (fun r =>
    (c.mcCh r.1).writes.any r.2.meets || c.mc.wait.any (fun w => decide (w.1 = r.1) && r.2.meets w.2) ||
      (c.mcCh r.1).merge.any (fun m => decide (r.2.addr / 128 ≤ m.2) && decide (m.2 < r.2.addr / 128 + r.2.count)))

end Sys2Proof.Machine
end

