-- ==== Sys2Proof/Machine/Partition.lean ====
section
/-! DEFINITION. Partitions beside arming and commit (spec 06, R136 to R149, and spec 07, R159 to R173): the ring and its retained
blocks, holds and their budget, side logs, and the status registers that follow from them. -/

namespace Sys2Proof.Machine

/-! ### Configuration and state -/

/-- The partition's state (Table 7-3): 0 DISARMED, 1 RECORDING, 2 POST, 3 PAUSED. -/
def Chip.prtState (c : Chip) (p : Nat) : Nat := c.fld (R.PRT_STAT p) F.PRT_STAT_STATE

/-- Put the partition's state. -/
def Chip.setPrtState (c : Chip) (p s : Nat) : Chip := c.setFld (R.PRT_STAT p) F.PRT_STAT_STATE s

/-- The partition is recording (R165). -/
def Chip.recording (c : Chip) (p : Nat) : Bool := decide (c.prtState p = 1) || decide (c.prtState p = 2)

/-- The partition is armed: not DISARMED. -/
def Chip.armed (c : Chip) (p : Nat) : Bool := decide (c.prtState p ≠ 0)

/-- The partition's lane groups in its working copy. -/
def Chip.prtGroups (c : Chip) (p : Nat) : List Nat := maskList 8 (c.wfld (R.PRT_CFG p) F.PRT_CFG_GROUPS)

/-- Does the partition's working copy name group g? -/
def Chip.prtOwns (c : Chip) (p g : Nat) : Bool := bit (c.wfld (R.PRT_CFG p) F.PRT_CFG_GROUPS) g

/-- The partition that owns group g and is armed, if there is one. -/
def Chip.owner (c : Chip) (g : Nat) : Option Nat := (List.range 16).find? (fun p => c.armed p && c.prtOwns p g)

/-- The owner of group g while it is recording. -/
def Chip.recOwner (c : Chip) (g : Nat) : Option Nat := (List.range 16).find? (fun p => c.recording p && c.prtOwns p g)

/-- Bytes of the ring, of the segment store, and their capture addresses, in the working copy (R162). -/
def Chip.ringBytes (c : Chip) (p : Nat) : Nat := c.wfld (R.PRT_RING_SIZE p) F.PRT_RING_SIZE_RING_SIZE * 1048576
def Chip.ringBase (c : Chip) (p : Nat) : Nat := c.wfld (R.PRT_RING_BASE p) F.PRT_RING_BASE_RING_BASE * 1048576
def Chip.segBytes (c : Chip) (p : Nat) : Nat := c.wfld (R.PRT_SEG_SIZE p) F.PRT_SEG_SIZE_SEG_SIZE * 1048576
def Chip.segBase (c : Chip) (p : Nat) : Nat := c.wfld (R.PRT_SEG_BASE p) F.PRT_SEG_BASE_SEG_BASE * 1048576

/-- `x` rounded up to a multiple of 64 KiB. -/
def up64k (x : Nat) : Nat := divCeil x 65536 * 65536

/-- Capture addresses of the parts of the segment store (Table 7-1). -/
def Chip.ringDirBase (c : Chip) (p : Nat) : Nat := c.segBase p + 65536
def Chip.postBase (c : Chip) (p : Nat) : Nat := c.ringDirBase p + up64k (c.ringBytes p / 32)
def Chip.postDirBase (c : Chip) (p : Nat) : Nat := c.postBase p + (c.part p).q
def Chip.sideBase (c : Chip) (p : Nat) : Nat := c.postDirBase p + up64k ((c.part p).q / 32)
def Chip.poolBase (c : Chip) (p : Nat) : Nat := c.sideBase p + 3145728

/-- Pages of the pool. -/
def Chip.poolPages (c : Chip) (p : Nat) : Nat := (c.segBase p + c.segBytes p - c.poolBase p) / 65536

/-- Capture address of a directory entry. -/
def Chip.dirAddr (c : Chip) (p : Nat) (post : Bool) (ofs : Nat) : Nat :=
  (if post then c.postDirBase p else c.ringDirBase p) + ofs / 1024 * 32

/-- Capture address of a block. -/
def Chip.blkAddr (c : Chip) (p : Nat) (post : Bool) (ofs : Nat) : Nat := (if post then c.postBase p else c.ringBase p) + ofs

/-- The requester of the engine's own writes for a partition: the writer of its lowest lane group. (DESIGN CHOICE, log 70) -/
def Chip.metaReq (c : Chip) (p : Nat) : Nat := (c.prtGroups p).head?.getD 0

/-! ### Retained blocks (R137, R138) -/

/-- The blocks that link through NEXT up to block `cur`; the list is newest first. (DEDUCED, log 35) -/
def runBack (cur : Nat) : List Blk → List Blk
  | [] => []
  | b :: rest => if b.next.map (fun n => n.1) = some cur then b :: runBack b.id rest else []

/-- A group's continuous run of retained blocks, oldest first: it ends at the group's newest block, and is empty where that block is
retained no longer (R138). -/
def Part.groupRun (pt : Part) (g : Nat) : List Blk :=
  match (pt.blocks.filter (fun b => decide (b.group = g))).reverse with
  | [] => []
  | n :: older => if pt.newest.contains (g, n.id) then (n :: runBack n.id older).reverse else []

/-- OLDEST (R138): 0 until every group has written a block since ARM; `open_` for a group that retains none in its run, a value the spec
does not state (DESIGN CHOICE, log 3). -/
def Part.oldest (pt : Part) (groups : List Nat) (open_ : Nat) : Nat :=
  if groups.all (fun g => pt.newest.any (fun n => decide (n.1 = g))) then
    groups.foldl (fun m g => max m (((pt.groupRun g).head?.map Blk.s0).getD open_)) 0
  else 0

/-- OLDEST of partition p. -/
def Chip.oldest (c : Chip) (p : Nat) : Nat := (c.part p).oldest (c.prtGroups p) (Config.oldestOpen (c.part p).nextId).toNat

/-- The end of a block's span: the next block's first stamp, or the present (R144), whose own quantum is counted in (DESIGN CHOICE, log 64). -/
def Blk.spanEnd (b : Blk) (now : Nat) : Nat :=
  match b.next with
  | some n => n.2.1
  | none => now + 1

/-- A block's span overlaps [start, stop). -/
def Blk.overlaps (b : Blk) (now : Nat) (start stop : Int) : Bool :=
  decide ((b.s0 : Int) < stop) && decide (start < (b.spanEnd now : Int)) && decide (b.s0 < b.spanEnd now)

/-- The consecutive run of a group from the first to the last block that overlaps (R164). -/
def trimRun (run : List Blk) (now : Nat) (start stop : Int) : List Blk :=
  let miss := fun (b : Blk) => !b.overlaps now start stop
  ((run.dropWhile miss).reverse.dropWhile miss).reverse

/-- Held by some window slot. -/
def Blk.isHeld (b : Blk) : Bool := decide (b.held ≠ 0)

/-- H (R145): bytes of ring blocks held by at least one window. -/
def Part.heldBytes (pt : Part) : Nat := pt.blocks.foldl (fun n b => if b.isHeld && !b.post then n + b.len else n) 0

/-- What joining a window adds to H. -/
def Blk.cost (b : Blk) : Nat := if b.isHeld || b.post then 0 else b.len

/-- Change the block with identifier `id`. -/
def Part.updBlk (pt : Part) (id : Nat) (f : Blk → Blk) : Part :=
  { pt with blocks := pt.blocks.map (fun b => if b.id = id then f b else b) }

/-- Window `w` takes or leaves a block. -/
def Blk.take (w : Nat) (b : Blk) : Blk := { b with held := maskSet b.held w }
def Blk.leave (w : Nat) (b : Blk) : Blk := { b with held := maskClear b.held w }

/-- A segment slot in use. -/
def Part.seg (pt : Part) (slot : Nat) : Option Seg := (pt.segs.find? (fun s => decide (s.1 = slot))).map (fun s => s.2)

/-- Put a segment into a slot. -/
def Part.setSeg (pt : Part) (slot : Nat) (s : Seg) : Part := { pt with segs := SMap.put pt.segs slot s }

/-- The window in a slot is OPEN (Table 6-5). -/
def Seg.isOpen (s : Seg) : Bool := decide (s.state = 1) && !s.closing

/-- Slots of open hold windows, ascending. -/
def Part.openWins (pt : Part) : List Nat := (pt.segs.filter (fun s => decide (s.1 < 64) && s.2.isOpen)).map (fun s => s.1)

/-! ### Status registers that follow -/

/-- The partition's status registers as its segments, windows and blocks stand. -/
def Chip.refreshPart (c : Chip) (p : Nat) : Chip :=
  let pt := c.part p
  let live := pt.segs.foldl (fun m s => if s.2.state = 2 then maskSet m s.1 else m) 0
  let wins := pt.segs.filter (fun s => decide (s.1 < 64))
  let c1 := c.setFld (R.PRT_STAT p) F.PRT_STAT_LIVE_N pt.segs.length
  let c2 := ((c1.setN (R.PRT_LIVE0 p) live).setN (R.PRT_LIVE1 p) (live / 2 ^ 32)).setN (R.PRT_LIVE2 p) (live / 2 ^ 64)
  let c3 := (c2.setFld (R.PRT_HOLD_STAT p) F.PRT_HOLD_STAT_WINDOWS wins.length).setFld (R.PRT_HOLD_STAT p) F.PRT_HOLD_STAT_OPEN
    pt.openWins.length
  let c4 := c3.setPair 16 (R.PRT_HELD_L p) pt.heldBytes
  c4.setTriple (R.PRT_OLDEST_L p) (c4.oldest p)

/-- Put a partition and its status registers. -/
def Chip.putPart (c : Chip) (p : Nat) (pt : Part) : Chip := (c.setPart p pt).refreshPart p

/-! ### Entries in DRAM follow (R171, R164, R176) -/

/-- The HELD and TRIG bits that block `id` has in a partition. -/
def Part.bitsOf (pt : Part) (id : Nat) : Nat × Bool :=
  ((pt.blocks.find? (fun b => decide (b.id = id))).map (fun b => (b.held, b.trig))).getD (0, false)

/-- STATE of a slot's table entry as the engine has last written it. -/
def Part.slotState (pt : Part) (slot : Nat) : Nat := ((pt.seg slot).map Seg.state).getD 0

/-- Partition p has changed since it was `old`: the directory entries whose HELD or TRIG bits differ, and the table entries that have opened or
become free, are written. -/
def Chip.metaSync (c : Chip) (p : Nat) (old : Part) : Chip :=
  let pt := c.part p
  let req := c.metaReq p
  let c1 := old.blocks.foldl (fun c b =>
    if pt.bitsOf b.id = (b.held, b.trig) then c else c.metaWrite req (c.dirAddr p b.post b.ofs) 32) c
  (distinct (old.segs.map Prod.fst ++ pt.segs.map Prod.fst)).foldl (fun c slot =>
    if pt.slotState slot = old.slotState slot then c else c.metaWrite req (c.segBase p + 256 * slot) 256) c1

/-- An operation on partition p, with the entries in DRAM following it. -/
def Chip.synced (c : Chip) (p : Nat) (f : Chip → Chip) : Chip := (f c).metaSync p (c.part p)

/-! ### Side logs (R172) -/

/-- Put an entry into a log held newest first, behind the entries with later stamps (R172). -/
def stampInsert {α : Type} (stamp : α → Nat) (e : α) : List α → List α
  | [] => [e]
  | x :: rest => if stamp e < stamp x then x :: stampInsert stamp e rest else e :: x :: rest

/-- Enter into a circular log of `cap` entries; a full one overwrites its oldest entry: the log, and whether it has wrapped. -/
def logAppend {α : Type} (cap : Nat) (stamp : α → Nat) (l : List α) (lost : Bool) (e : α) : List α × Bool :=
  if l.length ≥ cap then ((stampInsert stamp e (l.drop (l.length + 1 - cap)).reverse).reverse, true)
  else ((stampInsert stamp e l.reverse).reverse, lost)

/-- A marker: stamp, type, code, group, word. -/
def Chip.addMarker (c : Chip) (p : Nat) (m : Nat × Nat × Nat × Nat × Nat) : Chip :=
  let pt := c.part p
  let r := logAppend 43690 (fun m => m.1) pt.markers pt.markersLost m
  c.setPart p { pt with markers := r.1, markersLost := r.2 }

/-- A gap. -/
def Chip.addGap (c : Chip) (p : Nat) (g : Gap) : Chip :=
  let pt := c.part p
  let r := logAppend 32768 Gap.start pt.gaps pt.gapsLost g
  c.setPart p { pt with gaps := r.1, gapsLost := r.2 }

/-- A snapshot reference: stamp, list, record number (0 until the record is written). -/
def Chip.addSnapRef (c : Chip) (p stamp list : Nat) : Chip :=
  let pt := c.part p
  let r := logAppend 65536 (fun x => x.1) pt.snaps pt.snapsLost (stamp, list, 0)
  c.setPart p { pt with snaps := r.1, snapsLost := r.2 }

/-! ### Windows: clipping and closing (R147, R148) -/

/-- A window is clipped with a cause bit (0 AGED, 1 BUDGET, 2 STARVED). -/
def Chip.clipWin (c : Chip) (p slot cause : Nat) : Chip :=
  match (c.part p).seg slot with
  | none => c
  | some s =>
    let first := decide (s.clip = 0)
    let c1 := c.setPart p ((c.part p).setSeg slot { s with clip := maskSet s.clip cause })
    let c2 := if c1.fld (R.PRT_HOLD_LAST p) F.PRT_HOLD_LAST_WIN = slot then
        c1.setFld (R.PRT_HOLD_LAST p) F.PRT_HOLD_LAST_CLIP_CAUSE
          (maskSet (c1.fld (R.PRT_HOLD_LAST p) F.PRT_HOLD_LAST_CLIP_CAUSE) cause)
      else c1
    if first then (c2.addCnt (R.PRT_HOLD_CLIP p) 1).raise (Ev.holdClipped p) else c2

/-- The window leaves OPEN: its commit is due (R174). -/
def Chip.closeWin (c : Chip) (p slot trunc : Nat) : Chip :=
  match (c.part p).seg slot with
  | none => c
  | some s => c.setPart p ((c.part p).setSeg slot { s with closing := true, truncCause := max s.truncCause trunc })

/-! ### Holds (R141 to R146) -/

/-- The reason a hold is rejected, or 0 (Table 6-3); a merge is not HOLD_FULL. -/
def Chip.holdReason (c : Chip) (p : Nat) (start stop : Int) (merges : Bool) : Nat :=
  firstReason [(!c.recording p, 0x30), (decide (stop ≤ start), 0x31), (decide (stop > c.now + 60 * 68719476736), 0x32),
    (decide (stop ≤ (c.oldest p : Int)), 0x33),
    (decide (((c.part p).segs.filter (fun s => decide (s.1 < 64))).length ≥ 64) && !merges, 0x34)]

/-- The slot whose window has the same bounds (R143). -/
def Part.mergeSlot (pt : Part) (start stop : Int) : Option Nat :=
  (pt.segs.find? (fun s => decide (s.1 < 64) && decide (s.2.reqStart = start) && decide (s.2.reqEnd = stop))).map (fun s => s.1)

/-- A HOLD record (Table 16-5). -/
def Chip.holdRecord (c : Chip) (p : Nat) (start stop : Int) (source reason win : Nat) : Chip :=
  c.record 9 (20 + p) c.now (leBytes 10 (unsignedOf 80 start) ++ leBytes 10 (unsignedOf 80 stop) ++ [p, source, reason, win])

/-- `PRTp_HOLD_LAST` after a hold. -/
def Chip.holdLast (c : Chip) (p reason source : Nat) : Chip :=
  (c.setFld (R.PRT_HOLD_LAST p) F.PRT_HOLD_LAST_REASON reason).setFld (R.PRT_HOLD_LAST p) F.PRT_HOLD_LAST_SOURCE source

/-- `PRTp_HOLD_LAST.WIN` of an accepted or merged hold, with its cause bits. -/
def Chip.holdLastWin (c : Chip) (p win clip : Nat) : Chip :=
  (c.setFld (R.PRT_HOLD_LAST p) F.PRT_HOLD_LAST_WIN win).setFld (R.PRT_HOLD_LAST p) F.PRT_HOLD_LAST_CLIP_CAUSE clip

/-- Insert by the order of R146: descending first-sample stamp, lower group first. -/
def joinInsert (b : Blk) : List Blk → List Blk
  | [] => [b]
  | x :: rest =>
    if decide (x.s0 < b.s0) || (decide (x.s0 = b.s0) && decide (b.group ≤ x.group)) then b :: x :: rest else x :: joinInsert b rest

/-- Sorted by that order. -/
def joinSort (l : List Blk) : List Blk := l.foldr joinInsert []

/-- The blocks that qualify for a window at the hold instant (R144, R164). -/
def Chip.holdCandidates (c : Chip) (p : Nat) (start stop : Int) : List Blk :=
  joinSort ((c.prtGroups p).flatMap (fun g => trimRun ((c.part p).groupRun g) c.now start stop))

/-- Blocks join newest first until one would take H above the budget (R146, case 1): the partition, and whether the budget stopped it. -/
def joinAll (budget w : Nat) : List Blk → Part → Part × Bool
  | [], pt => (pt, false)
  | b :: rest, pt =>
    if pt.heldBytes + b.cost > budget then (pt, true) else joinAll budget w rest (pt.updBlk b.id (Blk.take w))

/-- The lowest free window slot (R148). -/
def Part.freeSlot (pt : Part) : Nat := ((List.range 64).find? (fun w => (pt.seg w).isNone)).getD 0

/-- Groups that have a block at or beyond `stop` in their run (R148). -/
def Chip.passedMask (c : Chip) (p : Nat) (stop : Int) : Nat :=
  (c.prtGroups p).foldl (fun m g =>
    if ((c.part p).groupRun g).any (fun b => decide (stop ≤ (b.s0 : Int))) then maskSet m g else m) 0

/-- Every group of the partition is in the mask. -/
def Chip.allGroups (c : Chip) (p m : Nat) : Bool := (c.prtGroups p).all (fun g => bit m g)

/-- An accepted hold takes a slot and opens a segment (R142 to R148). -/
def Chip.holdOpen (c : Chip) (p : Nat) (start stop : Int) (source : Nat) : Chip :=
  let c1 := c.addCnt (R.PRT_SEG_NO p) 1
  let w := (c1.part p).freeSlot
  let passed := c1.passedMask p stop
  let s : Seg := { segNo := c1.rn (R.PRT_SEG_NO p), kind := 2, source := source, reqStart := start, reqEnd := stop, at_ := c.now,
                   passed := passed, closing := c1.allGroups p passed }
  let r := joinAll (c1.pair 16 (R.PRT_BUDGET_L p)) w (c1.holdCandidates p start stop) ((c1.part p).setSeg w s)
  let c2 := (c1.setPart p r.1).holdLastWin p w 0
  let c3 := if start < (c.oldest p : Int) then c2.clipWin p w 0 else c2
  if r.2 then c3.clipWin p w 1 else c3

/-- A hold is judged at its hold instant: the engine, and the rejection reason or 0 (R142, R143). A rejected command or schedule entry does
not show in `PRTp_HOLD_LAST` (R142). -/
def Chip.holdJudge (c : Chip) (p : Nat) (start stop : Int) (source : Nat) : Chip × Nat :=
  let merge := (c.part p).mergeSlot start stop
  let reason := c.holdReason p start stop merge.isSome
  let c0 := if reason = 0 ∨ source = 0 ∨ source = 3 then c.holdLast p reason source else c
  if reason ≠ 0 then (c0, reason)
  else
    let c1 := c0.addCnt (R.PRT_HOLD_CNT p) 1
    match merge with
    | some w =>
      let clip := (((c.part p).seg w).map Seg.clip).getD 0
      (((c1.addCnt (R.PRT_HOLD_MRG p) 1).holdLastWin p w clip).holdRecord p start stop source 0 w, 0)
    | none => (c1.synced p (fun c => (c.holdOpen p start stop source).refreshPart p), 0)

/-- A hold of a sequencer or a notice: a rejection is reported in `PRTp_HOLD_LAST`, `_REJ`, HOLD_REJECT and a record (R142). -/
def Chip.holdInternal (c : Chip) (p : Nat) (start stop : Int) (source : Nat) : Chip :=
  let r := c.holdJudge p start stop source
  if r.2 = 0 then r.1
  else ((r.1.addCnt (R.PRT_HOLD_REJ p) 1).raiseTyped (Ev.holdReject p)).holdRecord p start stop source r.2 0xff

/-- The command port of `PRTp_HOLD_CMD`. -/
def holdPort (p : Nat) : CmdPort := ⟨R.PRT_HOLD_CMD p, R.PRT_CMDSTAT p, Ev.rejPrt p⟩

/-- A hold of the host command or of a schedule entry: judged as a command (R142). In Safe it is rejected with 0xFE (R360). -/
def Chip.holdCommand (c : Chip) (p : Nat) (start stop : Int) (source : Nat) (init : Init) (entry : Option Nat) : Chip :=
  if c.inSafe then c.command (holdPort p) init entry false 0 id
  else
    let r := c.holdJudge p start stop source
    r.1.command (holdPort p) init entry false r.2 id

/-- HOLD_CMD (R141): the window in the START and END registers. -/
def doHoldCmd (init : Init) (p : Nat) (c : Chip) : Chip :=
  c.holdCommand p (c.triple (R.PRT_HOLD_START_L p)) (c.triple (R.PRT_HOLD_END_L p)) 1 init none

/-! ### Allocation (R136, R137, R146, R163) -/

/-- The end of the first of `held` (offset, length) that overlaps [pos, pos + size). -/
def heldEnd (held : List (Nat × Nat)) (pos size : Nat) : Option Nat :=
  (held.find? (fun h => decide (h.1 < pos + size) && decide (pos < h.1 + h.2))).map (fun h => h.1 + h.2)

/-- Ring space for `size` bytes from `pos` on, past held space, wrapping once (R163). -/
def findRing (held : List (Nat × Nat)) (ring size : Nat) : Nat → Nat → Bool → Option Nat
  | 0, _, _ => none
  | fuel + 1, pos, wrapped =>
    if pos + size > ring then (if wrapped then none else findRing held ring size fuel 0 true)
    else
      match heldEnd held pos size with
      | some e => findRing held ring size fuel e wrapped
      | none => some pos

/-- Ring bytes that no new block may take: held by a window or by the trigger segment. -/
def Part.heldRanges (pt : Part) : List (Nat × Nat) :=
  (pt.blocks.filter (fun b => !b.post && (b.isHeld || b.trig))).map (fun b => (b.ofs, b.len))

/-- Where the next block of `size` bytes goes in the ring, if anywhere. -/
def Part.ringPlace (pt : Part) (ring size : Nat) : Option Nat :=
  let held := pt.heldRanges
  findRing held ring size (2 * held.length + 4) pt.ringHead false

/-- Unheld ring blocks that an allocation overlaps are no longer retained (R137). -/
def Part.evict (pt : Part) (pos size : Nat) : Part :=
  { pt with blocks := pt.blocks.filter (fun b => b.post || b.isHeld || b.trig || decide (b.ofs + b.len ≤ pos) || decide (pos + size ≤ b.ofs)) }

/-- A window's oldest block: least stamp, and of equal stamps the highest group, the last in the order of joining: the spec names no tie
rule for removal. (DESIGN CHOICE, log 64) -/
def Part.oldestOf (pt : Part) (w : Nat) : Option Blk :=
  (joinSort (pt.blocks.filter (fun b => bit b.held w))).getLast?

/-- Blocks leave the window's older end until `cost` fits (R146, case 2): the partition, whether any left, and whether it fits. -/
def makeRoom (budget w cost : Nat) : Nat → Part → Bool → Part × Bool × Bool
  | 0, pt, any => (pt, any, false)
  | fuel + 1, pt, any =>
    if pt.heldBytes + cost ≤ budget then (pt, any, true)
    else
      match pt.oldestOf w with
      | none => (pt, any, false)
      | some b => makeRoom budget w cost fuel (pt.updBlk b.id (Blk.leave w)) true

/-- A block joins an open window at an allocation (R146, cases 2 and 3). -/
def Chip.joinOne (c : Chip) (p w : Nat) (b : Blk) : Chip :=
  let pt := c.part p
  let budget := c.pair 16 (R.PRT_BUDGET_L p)
  let cost := ((pt.blocks.find? (fun x => decide (x.id = b.id))).map Blk.cost).getD 0
  let r := makeRoom budget w cost (pt.blocks.length + 1) pt false
  if r.2.2 then
    let c1 := c.setPart p (r.1.updBlk b.id (Blk.take w))
    if r.2.1 then c1.clipWin p w 1 else c1
  else
    let c1 := c.setPart p r.1
    ((if r.2.1 then c1.clipWin p w 1 else c1).clipWin p w 2).closeWin p w 0

/-- A group's newest block qualifies for an open window as soon as the present has reached the window's start (R144). -/
def Chip.joinNewest (c : Chip) (p w g : Nat) : Chip :=
  let pt := c.part p
  match pt.seg w, (pt.groupRun g).getLast? with
  | some s, some b =>
    if s.isOpen && !bit b.held w && decide ((b.s0 : Int) < s.reqEnd) && decide (s.reqStart ≤ (c.now : Int)) && b.next.isNone then c.joinOne p w b
    else c
  | _, _ => c

/-- The groups' newest blocks join the open windows whose start the present has reached, before anything else happens to them. -/
def Chip.joinPresent (c : Chip) (p : Nat) : Chip :=
  if (c.part p).openWins.isEmpty then c
  else c.synced p (fun c => ((c.part p).openWins.foldl (fun c w => (c.prtGroups p).foldl (fun c g => c.joinNewest p w g) c) c).refreshPart p)

/-- Recording has ended: every open window closes with TRUNCATED, cause 1 (R148). -/
def Chip.closeAllWins (c : Chip) (p : Nat) : Chip :=
  let c1 := c.joinPresent p
  (c1.part p).openWins.foldl (fun c w => c.closeWin p w 1) c1

/-- Block `b` joins the window in slot `w` at its allocation if it qualifies, and closes it where it is the last group's to lie beyond the
end (R144, R148). -/
def Chip.joinAlloc (c : Chip) (p w : Nat) (b : Blk) : Chip :=
  match (c.part p).seg w with
  | none => c
  | some s =>
    let c1 := if s.isOpen && decide ((b.s0 : Int) < s.reqEnd) && decide (s.reqStart ≤ (c.now : Int)) then c.joinOne p w b else c
    match (c1.part p).seg w with
    | none => c1
    | some s2 =>
      if s2.isOpen && decide (s.reqEnd ≤ (b.s0 : Int)) then
        let m := maskSet s2.passed b.group
        c1.setPart p ((c1.part p).setSeg w { s2 with passed := m, closing := c1.allGroups p m })
      else c1

/-- Link the group's newest block to the new one (R163, Table 7-2). -/
def Part.link (pt : Part) (b : Blk) : Part :=
  match (pt.newest.find? (fun n => decide (n.1 = b.group))).map (fun n => n.2) with
  | none => { pt with newest := SMap.put pt.newest b.group b.id }
  | some id =>
    { (pt.updBlk id (fun x => { x with next := some (b.id, b.s0, b.ofs / 1024, b.post) })) with
      newest := SMap.put pt.newest b.group b.id }

/-- A block is placed in the ring or the post region at `ofs`, followed by zero bytes up to its allocation (R161, R197), linked, and joins the open windows, which take it in ascending slot
order (R146). -/
def Chip.placeBlk (c : Chip) (p g : Nat) (o : OutBlk) (post : Bool) (ofs len : Nat) (trig : Bool) : Chip :=
  let pt0 := if post then { c.part p with postHead := ofs + len } else { (c.part p).evict ofs len with ringHead := ofs + len }
  let b : Blk := { id := pt0.nextId, group := g, post := post, ofs := ofs, len := len, s0 := o.s0, valid := o.valid, tbq := o.tbq,
                   raw := o.raw, vf := o.vf, trig := trig, bytes := o.bytes ++ zeros (len - o.bytes.length) }
  let pt1 := pt0.link b
  let pt2 := { pt1 with blocks := pt1.blocks ++ [b], nextId := pt1.nextId + 1 }
  c.synced p (fun c => ((pt2.openWins).foldl (fun c w => c.joinAlloc p w b) (c.setPart p pt2)).refreshPart p)

end Sys2Proof.Machine
end

