-- ==== Sys2Proof/Machine/FrontEnd.lean ====
section
/-! DEFINITION. Lane groups (spec 03): receivers and the group word, the four capture modes, staging and overrun, the detector grid of
R85 and R90 with the detectors of R102 to R106, APPLY and CAL. -/

namespace Sys2Proof.Machine

/-! ### Configuration in the working copy -/

def Chip.laneMode (c : Chip) (g : Nat) : Nat := c.wfld (R.LG_CFG g) F.LG_CFG_MODE
def Chip.laneEn (c : Chip) (g : Nat) : Bool := c.wflag (R.LG_CFG g) F.LG_CFG_EN
/-- The group samples on a `CQ` clock: state mode, or qualified with QCLK = 1 (R96). -/
def Chip.laneCq (c : Chip) (g : Nat) : Bool :=
  decide (c.laneMode g = 1) || (decide (c.laneMode g = 3) && c.wflag (R.LG_CFG g) F.LG_CFG_QCLK)

/-- A mask of the group's 32 channels. -/
def Chip.chMask (c : Chip) (g : Nat) (f : Fld) : Nat := mask32 (fun k => c.wflag (R.LG_CH_CFG g k) f)

/-- The sample clock runs (R272, R288). -/
def Chip.sampleOn (c : Chip) : Bool := c.flag R.CLK_STAT F.CLK_STAT_SAMPLE_ON

/-- The sample clock is released at the samplers, or held off; its grid begins with an edge at the release. -/
def Chip.sampleRelease (c : Chip) (on : Bool) : Chip :=
  { c with clk := { c.clk with gridAt := if on then c.epc.line else c.clk.gridAt } }.setFlag R.CLK_STAT F.CLK_STAT_SAMPLE_ON on

/-- Deskew of a channel in the working copy, and of the reference channel: the least of the enabled ones (R77). -/
def Chip.dsk (c : Chip) (g k : Nat) : Nat := c.wfld (R.LG_CH_CFG g k) F.LG_CH_CFG_DSK
def Chip.dskRef (c : Chip) (g : Nat) : Nat :=
  (minNat (((List.range 32).filter (fun k => c.wflag (R.LG_CH_CFG g k) F.LG_CH_CFG_EN)).map (c.dsk g))).getD 0

/-! ### Receivers and the aligner (R67 to R69, R75, R85) -/

/-- The threshold of a channel's comparator in µV: TRIM steps of 0.4 mV, acting at once (R67, R68). -/
def Chip.trimUv (c : Chip) (g k : Nat) : Int := 400 * signedOf 8 (c.fld (R.LG_CH_CFG g k) F.LG_CH_CFG_TRIM)

/-- The 32 receiver outputs for voltages `v` (R67). -/
def Chip.receive (c : Chip) (g : Nat) (v : List (Nat × Int)) : Nat :=
  mask32 (fun k => decide (c.trimUv g k < SMap.get (fun _ => 0) v k))

/-- Voltage changes enter the receivers in order: the voltages after them, and the delay lines' content, newest first; tap places count
from `base`. -/
def Chip.feedLine (c : Chip) (g : Nat) (base : Int) : List VoltStep → List (Nat × Int) → List (Int × Nat) → List (Nat × Int) × List (Int × Nat)
  | [], v, l => (v, l)
  | e :: rest, v, l =>
    let v1 := SMap.set (fun _ => 0) v (e.ch % 32) e.uv
    c.feedLine g base rest v1 ((base + e.tap, c.receive g v1) :: l)

/-- The receiver outputs that entered the delay lines at tap place `x`. -/
def lineAt (x : Int) : List (Int × Nat) → Nat
  | [] => 0
  | e :: rest => if e.1 ≤ x then e.2 else lineAt x rest

/-- Delay lines without what lies before tap place `x`. -/
def lineTrim (x : Int) : List (Int × Nat) → List (Int × Nat)
  | [] => []
  | e :: rest => if e.1 ≤ x then [e] else e :: lineTrim x rest

/-- The enabled channels, with each one's delay in taps beyond `ref` and its INV. -/
def Chip.channels (c : Chip) (g ref : Nat) : List (Nat × Int × Bool) :=
  ((List.range 32).filter (fun k => c.wflag (R.LG_CH_CFG g k) F.LG_CH_CFG_EN)).map
    (fun k => (k, (c.dsk g k : Int) - ref, c.wflag (R.LG_CH_CFG g k) F.LG_CH_CFG_INV))

/-- The group word taken at tap place `x`: each enabled channel as it stood its delay before, complemented under INV; 0 for the others
(R67, R69, R75). -/
def alignedWord (chs : List (Nat × Int × Bool)) (l : List (Int × Nat)) (x : Int) : Nat :=
  chs.foldl (fun w e => if bit (lineAt (x - e.2.1) l) e.1 != e.2.2 then w + 2 ^ e.1 else w) 0

/-- The stamp of a sample in its group's time (R51, R56). -/
def Smp.stamp (s : Smp) : Nat := stampOf ((s.kt : Int) - s.ofs).toNat

/-- The latest sample of a group. -/
def Chip.latest (c : Chip) (g : Nat) : Option Smp := (c.lane g).hist.head?

/-! ### Staging (R74, R91) -/

/-- Slots of the group's staging in use: waiting blocks, the block in formation, and blocks the instance is still reading, which takes
512 fabric cycles (R91, R194). -/
def Chip.slotsUsed (c : Chip) (g : Nat) : Nat :=
  let l := c.lane g
  l.staged.length + (l.codec.busy.filter (fun b => decide (c.cycle < b.2 + 512))).length + (if l.forming.isSome then 1 else 0)

/-- `LGn_STAGE` as staging stands. -/
def Chip.refreshStage (c : Chip) (g : Nat) : Chip :=
  let u := c.slotsUsed g
  let c1 := c.setFld (R.LG_STAGE g) F.LG_STAGE_USED u
  c1.setFld (R.LG_STAGE g) F.LG_STAGE_PEAK (max u (c1.fld (R.LG_STAGE g) F.LG_STAGE_PEAK))

/-- Put a lane group and its `LGn_STAGE`. -/
def Chip.putLane (c : Chip) (g : Nat) (l : Lane) : Chip := (c.setLane g l).refreshStage g

/-- The LOCKED condition of a sample: in VALID not while confirmation is awaited after Coast or Bypass (Tables 2-7 and 2-9); in MANUAL no
confirmation is awaited. (DEDUCED, log 33) -/
def Chip.tbLocked (c : Chip) : Bool :=
  c.disciplined && ((decide (c.fld R.EPC_STAT F.EPC_STAT_STATE = 2) && !c.epc.awaiting) || decide (c.fld R.EPC_STAT F.EPC_STAT_STATE = 4)) &&
    !c.flag R.EPC_STAT F.EPC_STAT_CORR_OUT

/-- The conditions of Table 2-7 for a sample taken now, in that table's bit order. -/
def Chip.tbNow (c : Chip) : Nat :=
  (if c.tbLocked then 1 else 0) + (if c.fld R.CLK_STAT F.CLK_STAT_STATE = 3 then 2 else 0) +
    (if c.fld R.CLK_STAT F.CLK_STAT_STATE = 4 then 4 else 0) + (if c.flag R.EPC_STAT F.EPC_STAT_CORR_OUT then 8 else 0)

/-- The quality flags of a block take in one more sample (Table 2-7). -/
def Forming.note (f : Forming) (s : Smp) : Forming :=
  { f with locked := f.locked && bit s.tb 0, coast := f.coast || bit s.tb 1, bypass := f.bypass || bit s.tb 2, seam := f.seam || bit s.tb 3 }

/-- The four flags in the bit order of Table 2-7. -/
def Forming.tbq (f : Forming) : Nat :=
  (if f.locked then 1 else 0) + (if f.coast then 2 else 0) + (if f.bypass then 4 else 0) + (if f.seam then 8 else 0)

/-- A transition record's seven bytes (Table 3-4). -/
def TrRec.bytes (r : TrRec) : List Nat :=
  leBytes 4 r.word ++ leBytes 2 r.delta ++ [r.phase % 16 + (if r.keep then 16 else 0) + (if r.init then 32 else 0)]

/-- The 16,384 bytes of a closed block: copies of the last word, or zero bytes, fill it (R81, R87). -/
def Forming.bytes (f : Forming) (mode : Nat) : List Nat :=
  if mode = 2 then
    let b := f.recs.reverse.flatMap TrRec.bytes
    b ++ zeros (16384 - b.length)
  else
    match f.words with
    | [] => zeros 16384
    | w :: _ => f.words.reverse.flatMap (leBytes 4) ++ (List.replicate (4096 - f.words.length) w).flatMap (leBytes 4)

/-- The block the group is forming closes and waits in its slot (R80, R81, R87). -/
def Chip.closeBlock (c : Chip) (g p : Nat) : Chip :=
  let l := c.lane g
  match l.forming with
  | none => c
  | some f =>
    let b : InBlk := { s0 := f.s0, bytes := f.bytes (c.laneMode g), valid := f.count, pq := f.pq, tbq := f.tbq, mode := c.laneMode g,
                       div := c.laneDiv g, runStart := f.runStart, part := p }
    c.putLane g { l with forming := none, staged := l.staged ++ [b] }

/-! ### Gaps (R91, R172) -/

/-- The group is in an overrun: samples are being discarded (R91). -/
def Lane.overrun (l : Lane) : Bool := (l.gap.map (fun x => decide (x.cause = 1))).getD false

/-- A gap begins with a sample that is not stored. -/
def Chip.startGap (c : Chip) (g stamp cause lost : Nat) (cq : Bool) : Chip :=
  let c1 := c.setLane g { c.lane g with gap := some { start := stamp, cause := cause, group := g, lost := lost }, gapCq := cq }
  if cause = 1 then (c1.setTriple (R.LG_OVR_LAST_L g) stamp).setFlag (R.LG_STAT g) F.LG_STAT_OVERRUN true else c1

/-- One more sample falls into the open gap. -/
def Chip.gapLose (c : Chip) (g : Nat) : Chip :=
  let l := c.lane g
  c.setLane g { l with gap := l.gap.map (fun x => { x with lost := x.lost + 1 }) }

/-- The gap closes: it is counted and reported if it is an overrun, and the next stored sample begins a new run (R91). -/
def Chip.closeGap (c : Chip) (g : Nat) : Chip :=
  let l := c.lane g
  match l.gap with
  | none => c
  | some x =>
    let c1 := c.setLane g { l with gap := none, closed := l.closed ++ [x], gapCq := false, fresh := true, prevStored := false }
    if x.cause = 1 then
      (((c1.setFlag (R.LG_STAT g) F.LG_STAT_OVERRUN false).addCnt (R.LG_OVR_CNT g) 1).addSat (R.LG_OVR_LOST g) x.lost).raise (Ev.overrun g)
    else c1

/-- The closed gaps enter the gap log: their durations run to the stamp of the first stored sample after them (R172). -/
def Chip.logGaps (c : Chip) (g p stamp : Nat) : Chip :=
  (c.lane g).closed.foldl (fun c x => c.addGap p { x with duration := stamp - x.start }) (c.setLane g { c.lane g with closed := [] })

/-- A clock stop or a pause has lasted from stamp `start` to `stop`: how many samples of the group fell into it. In qualified mode those the
store qualification, as it stands, would have stored (Table 7-6); in a `CQ`-clocked group the number of edges is not known, a free value.
(DESIGN CHOICE, log 3) -/
def Chip.lostPeriods (c : Chip) (g p start stop : Nat) : Nat :=
  if c.laneMode g = 3 ∧ (c.part p).storeQ = false then 0
  else if c.laneCq g then c.freeNow.toNat
  else (stop - start) * quantum / max 1 (c.fscPeriods (c.laneDiv g + 1))

/-- The clock stop or pause of a group closes at stamp `stop`, with its count of samples not taken. -/
def Chip.gapResume (c : Chip) (g p stop : Nat) : Chip :=
  let l := c.lane g
  match l.gap with
  | some x =>
    if x.cause ≠ 1 then
      ((c.setLane g { l with gap := some { x with lost := x.lost + c.lostPeriods g p x.start stop } }).closeGap g).used
    else c
  | none => c

/-! ### Corrections (R56, R57) -/

/-- A sample in the time its group has taken. -/
def Smp.taken (s : Smp) : Smp := { s with ofs := 0 }

/-- The group's samples from number `ix` on are in the time its group has taken. -/
def Lane.takeFrom (l : Lane) (ix : Nat) : Lane :=
  { l with
    hist := l.hist.map (fun s => if ix ≤ s.ix then s.taken else s)
    pipe := l.pipe.map (fun f => match f with
      | .sample s => .sample (if ix ≤ s.ix then s.taken else s)
      | .stop st => .stop st
      | .resume st => .resume st) }

/-- A group takes the stepped or set time from its sample `ix` on (R56, R57). -/
def Chip.takeCorrection (c : Chip) (g ix : Nat) : Chip :=
  if bit c.epc.ofsWait g then
    let w := maskClear c.epc.ofsWait g
    let c1 := { c with epc := { c.epc with ofsWait := w } }.setLane g { (c.lane g).takeFrom ix with ofs := 0, afterStep := true }
    if w = 0 ∧ c1.epc.stepDue.isNone ∧ c1.epc.corrSlew.isNone then c1.setFlag R.EPC_STAT F.EPC_STAT_CORR_OUT false else c1
  else c

/-- A sample that a new block would begin with takes a waiting correction, if it was taken after the step: no block spans it (R56). -/
def Chip.boundary (c : Chip) (g : Nat) (s : Smp) : Chip × Smp :=
  if (c.lane g).forming.isNone && bit c.epc.ofsWait g && decide (c.epc.stepAt ≤ s.inst) then (c.takeCorrection g s.ix, s.taken) else (c, s)

/-! ### Storing -/

/-- A new block opens with a sample, if a slot is free (R91): the engine, and whether it did. -/
def Chip.openBlock (c : Chip) (g stamp : Nat) : Chip × Bool :=
  let l := c.lane g
  if c.slotsUsed g ≥ 128 then (c, false)
  else
    (c.putLane g { l with
      forming := some { s0 := stamp, pq := c.lanePq g, runStart := l.runStart, seam := l.afterStep }
      runStart := false
      afterStep := false }, true)

/-- The block in formation, or a new one; an overrun begins where none can be opened. Answers whether the sample is stored. -/
def Chip.ensureBlock (c : Chip) (g stamp : Nat) : Chip × Bool :=
  let l := c.lane g
  if l.overrun then
    if c.slotsUsed g < 128 then (c.closeGap g).openBlock g stamp else (c.gapLose g, false)
  else if l.forming.isSome then (c, true)
  else
    let r := c.openBlock g stamp
    if r.2 then r else (c.startGap g stamp 1 1 false, false)

/-- A word of timing, state or qualified mode is stored, if it can be. -/
def Chip.storeWord (c : Chip) (g p : Nat) (s : Smp) : Chip × Bool :=
  let r := c.ensureBlock g s.stamp
  if r.2 then
    let c1 := r.1.logGaps g p s.stamp
    let l := c1.lane g
    match l.forming with
    | none => (c1, false)
    | some f =>
      let f1 := Forming.note { f with words := s.word :: f.words, count := f.count + 1 } s
      let c2 := c1.setLane g { l with forming := some f1, fresh := false }
      (if f1.count ≥ 4096 then c2.closeBlock g p else c2, true)
  else r

/-- A transition record is written (R86, R87). -/
def Chip.storeRec (c : Chip) (g p : Nat) (s : Smp) (r : TrRec) : Chip :=
  let q := c.ensureBlock g s.stamp
  if q.2 then
    let c1 := q.1.logGaps g p s.stamp
    let l := c1.lane g
    match l.forming with
    | none => c1
    | some f =>
      let r1 := { r with delta := if f.count = 0 then 0 else r.delta }
      let f1 := Forming.note { f with recs := r1 :: f.recs, count := f.count + 1 } s
      let c2 := c1.setLane g { l with forming := some f1, fresh := false, trWord := r.word, trSince := 0 }
      if f1.count ≥ 2340 then c2.closeBlock g p else c2
  else q.1

/-- The smallest fine position at which a bit of `d` differs from `w` (R86). -/
def firstDiff (d w : Nat) : Nat → List Nat → Nat
  | _, [] => 0
  | f, x :: rest => if (x ^^^ w) &&& d ≠ 0 then f else firstDiff d w (f + 1) rest

/-- One sample interval in transition mode (R86). -/
def Chip.transInterval (c : Chip) (g p : Nat) (s : Smp) : Chip :=
  let l := c.lane g
  let wl := s.ws.getLastD s.word
  let since := l.trSince + 1
  if l.overrun && decide (c.slotsUsed g ≥ 128) then
    let c1 := c.gapLose g
    c1.setLane g { c1.lane g with trSince := since }
  else
    let c0 := if l.overrun then c.closeGap g else c
    if (c0.lane g).fresh then c0.storeRec g p s ⟨s.word, min 65535 since, 0, false, true⟩
    else
      let d := wl ^^^ l.trWord
      if d ≠ 0 then c0.storeRec g p s ⟨wl, since, firstDiff d l.trWord 0 s.ws / (c.laneDiv g + 1), false, false⟩
      else if since ≥ 65535 then c0.storeRec g p s ⟨l.trWord, since, 0, true, false⟩
      else
        let l1 := { c0.lane g with trSince := since }
        c0.setLane g { l1 with forming := l1.forming.map (fun f => f.note s) }

/-- A qualified-mode sample that the qualification stores; the first of a run leaves a run marker (R88, R89). -/
def Chip.storeQualified (c : Chip) (g p : Nat) (s : Smp) : Chip :=
  let l := c.lane g
  let r := c.storeWord g p s
  if r.2 then
    let l1 := r.1.lane g
    let c1 := if l.fresh || l1.stored = 0 || !l.prevStored || l.overrun then r.1.addMarker p (s.stamp, 3, 0, g, l1.stored) else r.1
    c1.setLane g { c1.lane g with prevStored := true, stored := l1.stored + 1 }
  else r.1

/-- A sample that the elastic buffer has discarded falls into an overrun gap: one begins with it, and the block before it closes (R83,
R91, R92). -/
def Chip.lostSample (c : Chip) (g p : Nat) (s : Smp) : Chip :=
  if (c.lane g).overrun then c.gapLose g else (c.closeBlock g p).startGap g s.stamp 1 1 true

/-- The partition's qualification would not store the sample: qualified mode alone asks (R88). -/
def Chip.passedOver (c : Chip) (g p : Nat) : Bool := decide (c.laneMode g = 3) && !(c.part p).storeQ

/-- A decided sample within the partition's recording is stored by its group's mode, passed over, or lost (R80 to R92). -/
def Chip.storeSample (c : Chip) (g p : Nat) (s : Smp) : Chip :=
  if c.passedOver g p then c.setLane g { c.lane g with prevStored := false }
  else if s.lost then c.lostSample g p s
  else
    let c0 := if (c.lane g).gapCq then c.closeGap g else c
    let b := c0.boundary g s
    if c.laneMode g = 2 then b.1.transInterval g p b.2
    else if c.laneMode g = 3 then b.1.storeQualified g p b.2
    else (b.1.storeWord g p b.2).1

/-- A group's recording ends: an open gap is logged up to `stop`, the stamp of the first sample that recording no longer takes, its
block closes, and what waits for storing is dropped (R81, R172, R468). -/
def Chip.laneEndAt (c : Chip) (g p stop : Nat) : Chip :=
  let c1 := (c.gapResume g p c.now).closeGap g
  let c2 := (c1.logGaps g p stop).closeBlock g p
  (c2.setLane g { c2.lane g with ended := true, pipe := [] }).takeCorrection g (c2.lane g).total

/-- A sample's stamp lies beyond the end of its partition's post-trigger span (R129). -/
def Chip.pastEnd (c : Chip) (p stamp : Nat) : Bool :=
  match (c.part p).endStamp with
  | some e => decide (e < stamp)
  | none => false

/-- The sample clock has stopped after the samples before: the block closes and a gap of cause 2 begins (R288). -/
def Chip.clockStopped (c : Chip) (g p stamp : Nat) : Chip :=
  let c1 := (c.closeGap g).closeBlock g p
  (c1.setLane g { c1.lane g with fresh := true, prevStored := false }).startGap g stamp 2 0 false

/-- What waits at the head of the group's pipeline is stored, while its partition records it: evaluated after ARM, and not beyond the
span (R129, R468). -/
def Chip.takeFlow (c : Chip) (g : Nat) (f : Flow) : Chip :=
  match c.recOwner g with
  | none => c
  | some p =>
    if (c.lane g).ended then c
    else
      match f with
      | .stop st => c.clockStopped g p st
      | .resume st => c.gapResume g p st
      | .sample s =>
        if s.cyc ≤ (c.part p).armCycle then c
        else if c.pastEnd p s.stamp then c.laneEndAt g p s.stamp
        else c.storeSample g p s

/-! ### Which samples are decided (R88, R125, R468) -/

/-- The sequencer bound to the partition at its ARM. (DESIGN CHOICE, log 59) -/
def Chip.boundSeq (c : Chip) (p : Nat) : Option Nat := if (c.part p).seqBound = 0 then none else some ((c.part p).seqBound - 1)

/-- Sequencer `n` evaluates: its partition records and its span has not ended (R126). -/
def Chip.seqRuns (c : Chip) (n p : Nat) : Bool := c.flag (R.SQ_STAT n) F.SQ_STAT_RUNNING && (c.part p).endStamp.isNone

/-- The sequencer's next sample: the first of its domain's group that it has not evaluated and whose evaluation cycle comes after the
partition's ARM (R120, R126). -/
def Chip.nextSample (c : Chip) (n p : Nat) : Option Smp :=
  (c.lane (c.wfld (R.SQ_CTRL n) F.SQ_CTRL_DOM)).hist.reverse.find?
    (fun s => decide ((c.seq n).next ≤ s.ix) && decide ((c.part p).armCycle < s.cyc))

/-- Nothing that may still happen changes how the sample is stored: the partition's sequencer has evaluated the samples up to its
instant, or its evaluation cycle has passed with none of them left (R88, R125). (DEDUCED, log 35) -/
def Chip.decided (c : Chip) (p : Nat) (s : Smp) : Bool :=
  match c.boundSeq p with
  | none => decide (s.cyc < c.lineCycle)
  | some n =>
    if c.seqRuns n p then
      (c.seq n).upTo.any (fun x => decide (s.inst ≤ x)) ||
        (decide (s.cyc < c.lineCycle) && !(c.nextSample n p).any (fun x => decide (x.inst ≤ s.inst)))
    else (c.part p).endStamp.isSome || decide (s.cyc < c.lineCycle)

/-- The head of the pipeline may be taken. -/
def Chip.flowReady (c : Chip) (g : Nat) (f : Flow) : Bool :=
  match f with
  | .stop _ => true
  | .resume _ => true
  | .sample s =>
    (s.drained || s.lost) && (match c.recOwner g with
      | some p => c.decided p s
      | none => true)

/-- What is decided leaves the pipeline, in order; at most `n` entries. -/
def Chip.settleGo (c : Chip) (g : Nat) : Nat → Chip
  | 0 => c
  | n + 1 =>
    match (c.lane g).pipe with
    | [] => c
    | f :: rest => if c.flowReady g f then ((c.setLane g { c.lane g with pipe := rest }).takeFlow g f).settleGo g n else c

/-- The group's decided samples are stored (R88, R468). -/
def Chip.laneSettle (c : Chip) (g : Nat) : Chip := c.settleGo g (c.lane g).pipe.length

/-- The samples of a partition's groups that are decided are stored. -/
def Chip.settlePart (c : Chip) (p : Nat) : Chip := (c.prtGroups p).foldl (fun c g => c.laneSettle g) c

/-! ### Detectors (R90, R102 to R106) -/

/-- One edge: fine position, channel, new value. -/
structure Edge where
  f : Nat
  k : Nat
  v : Bool
  deriving DecidableEq, Repr

/-- The edges of an interval, by fine position and then channel (R90). -/
def edgesOf : Nat → Nat → List Nat → List Edge
  | _, _, [] => []
  | f, prev, w :: rest =>
    ((List.range 32).filter (fun k => bit (prev ^^^ w) k)).map (fun k => ⟨f, k, bit w k⟩) ++ edgesOf (f + 1) w rest

/-- WCMP (R103). -/
def wcmpPass (wcmp wa wb w : Nat) : Bool :=
  match wcmp with
  | 0 => decide (w < wa)
  | 1 => decide (w > wa)
  | 2 => decide (wa ≤ w) && decide (w ≤ wb)
  | _ => decide (w < wa) || decide (w > wb)

/-- The events one detector reports for a channel's edges of an interval, as fine positions (R102, R103): `last` is one more than the
running subsample of the channel's previous edge, 0 if unknown; `base` is the running subsample at the interval's start. -/
def detEvents (mode wcmp wa wb div base : Nat) (last : Nat) : List Edge → List Nat
  | [] => []
  | e :: rest =>
    let pos := base + e.f / (div + 1)
    let w := min (pos + 1 - last) 1048575
    let hit := match mode with
      | 1 => e.v
      | 2 => !e.v
      | 3 => true
      | 5 => !e.v && decide (last ≠ 0) && wcmpPass wcmp wa wb w
      | 6 => e.v && decide (last ≠ 0) && wcmpPass wcmp wa wb w
      | _ => false
    (if hit then [e.f] else []) ++ detEvents mode wcmp wa wb div base (pos + 1) rest

/-- All events of channel k (global number `32 g + k`) in an interval, as fine positions. -/
def Chip.chanEvents (c : Chip) (g k base : Nat) (es : List Edge) : List Nat :=
  let n := 32 * g + k
  let mode := c.wfld (R.TRS_DET_CFG n) F.TRS_DET_CFG_MODE
  let mine := es.filter (fun e => decide (e.k = k))
  if mode = 4 then (if mine.length ≥ 2 then [(mine.getLast?.map Edge.f).getD 0] else [])
  else
    detEvents mode (c.wfld (R.TRS_DET_CFG n) F.TRS_DET_CFG_WCMP) (c.wfld (R.TRS_DET_WA n) F.TRS_DET_WA_WA)
      (c.wfld (R.TRS_DET_WB n) F.TRS_DET_WB_WB) (c.laneDiv g) base (cnt0 (c.lane g).edges k) mine

/-- Insert an event (subsample, channel, stamp) in the order of subsample and channel (R106). -/
def evtInsert (e : Nat × Nat × Nat) : List (Nat × Nat × Nat) → List (Nat × Nat × Nat)
  | [] => [e]
  | x :: rest => if e.1 < x.1 ∨ (e.1 = x.1 ∧ e.2.1 ≤ x.2.1) then e :: x :: rest else x :: evtInsert e rest

/-- The stamp of an event at its channel's own ball (R77, R106). -/
def Chip.eventStamp (c : Chip) (g k time j : Nat) : Nat :=
  let t : Int := (time : Int) + (j * c.fscPeriods (c.laneDiv g + 1) / 16 : Nat) - c.taps (c.dsk g k) + c.taps (c.dskRef g)
  stampOf t.toNat

/-- The group's capture register takes the first event reported with the present sample (R106). -/
def Chip.detCapture (c : Chip) (g : Nat) (evs : List (Nat × Nat)) : Chip :=
  match evs with
  | [] => c
  | (k, st) :: _ =>
    if c.flag (R.TRS_DETCAP_CH g) F.TRS_DETCAP_CH_VALID then c
    else
      let c1 := (c.setFld (R.TRS_DETCAP_CH g) F.TRS_DETCAP_CH_CH k).setTriple (R.TRS_DETCAP_L g) st
      (c1.setFlag (R.TRS_DETCAP_CH g) F.TRS_DETCAP_CH_VALID true).raise (Ev.detHit g)

/-- The detectors take in one interval of the group (R90, R104): `ws` its words, `time` its start in the group's time, `win` the window of
its sample. Answers the events that the interval's sample reports, as a mask. -/
def Chip.detect (c : Chip) (g time win : Nat) (ws : List Nat) : Chip × Nat :=
  let l := c.lane g
  let w0 := ws.headD 0
  let es := edgesOf 0 ((l.last &&& l.known) ||| (w0 - (w0 &&& l.known))) ws
  let base := 16 * l.count
  let div := c.laneDiv g
  let evs := (List.range 32).flatMap (fun k => (c.chanEvents g k base es).map (fun f => (f, k)))
  let now := evs.filter (fun e => decide (e.1 = 0))
  let later := evs.filter (fun e => decide (e.1 ≠ 0))
  let caps := fun (xs : List (Nat × Nat)) =>
    (((xs.filter (fun e => c.wflag (R.TRS_DET_CFG (32 * g + e.2)) F.TRS_DET_CFG_CAP)).map
      (fun e => (e.1 / (div + 1), e.2, c.eventStamp g e.2 time (e.1 / (div + 1))))).foldr evtInsert []).map (fun e => e.2)
  let mask := fun (xs : List (Nat × Nat)) => xs.foldl (fun m e => maskSet m e.2) 0
  let det := l.detNext ||| mask now
  let c1 := c.detCapture g (l.capNext ++ caps now)
  (c1.setLane g { l with
    detNext := mask later
    detWin := if det = 0 then l.detWin else ((win, det) :: l.detWin).take 64
    capNext := caps later
    edges := es.foldl (fun m e => put0 m e.k (base + e.f / (div + 1) + 1)) l.edges
    last := ws.getLastD l.last
    known := c.chMask g F.LG_CH_CFG_EN
    count := l.count + 1 }, det)

/-! ### Commands and events -/

/-- The fabric-cycle window of an instant (R125). -/
def windowOf (inst : Nat) : Nat := inst / fabricCycle

/-- A sample is formed at instant `inst` of the deskewed grid, `age` before now at its ball (R79, R125); one from before the keeper's last
step or set bears the time of then (R51, R56). (DESIGN CHOICE, log 63) -/
def Chip.formSample (c : Chip) (g word : Nat) (ws : List Nat) (inst age det : Nat) (cq : Bool) : Smp :=
  let before := decide (inst < c.epc.stepAt)
  { ix := (c.lane g).total, word := word, ws := ws, inst := inst,
    kt := ((c.epc.time : Int) - age - (if before then c.epc.stepBy else 0)).toNat
    ofs := (c.lane g).ofs - (if before && bit c.epc.ofsWait g then c.epc.stepBy else 0)
    cyc := windowOf inst + c.trs.evalE, tb := c.tbNow, det := det, drained := !cq }

/-- A sample enters the group's history and, while its partition records, its pipeline. -/
def Chip.pushSample (c : Chip) (g : Nat) (s : Smp) : Chip :=
  let l := c.lane g
  c.setLane g { l with
    total := l.total + 1
    hist := (s :: l.hist).take 64
    pipe := if (c.recOwner g).isSome then l.pipe ++ [.sample s] else l.pipe }

/-- Words in the group's elastic buffer (R83). -/
def Lane.elastic (l : Lane) : Nat :=
  (l.pipe.filter (fun f => match f with
    | .sample s => !s.drained && !s.lost
    | .stop _ => false
    | .resume _ => false)).length

/-- The oldest word leaves the elastic buffer. -/
def drainFlow : List Flow → List Flow
  | [] => []
  | .sample s :: rest => if !s.drained && !s.lost then .sample { s with drained := true } :: rest else .sample s :: drainFlow rest
  | .stop st :: rest => .stop st :: drainFlow rest
  | .resume st :: rest => .resume st :: drainFlow rest

/-- SAMPLE_DELIVERED (R74, R79, R85): one interval of the group's grid, which began `age` units of 2^-64 s before now at the group's
reference plane; `wave` are the voltage changes at its pins from there on. The aligner delays each channel by its taps beyond the
reference channel's. In a `CQ`-clocked group this is a tick of the internal grid (R84): the detectors run, and one word leaves the
elastic buffer. (DEDUCED, log 35) -/
def doSampleDelivered (g : Nat) (wave : List VoltStep) (age : Nat) (c : Chip) : Chip :=
  if c.laneEn g && c.sampleOn then
    let l := c.lane g
    let n := c.laneDiv g + 1
    let ref := c.dskRef g
    let r := c.feedLine g l.tap wave l.volts (((l.tap : Int), c.receive g l.volts) :: l.line)
    let chs := c.channels g ref
    let ws := (List.range (16 * n)).map (fun f => alignedWord chs r.2 ((l.tap + 4 * f : Nat) : Int))
    let inst := c.epc.line - age + c.taps ref
    let c1 := c.setLane g { l with volts := r.1, line := lineTrim ((l.tap : Int) + 64 * n - 1024) r.2, tap := l.tap + 64 * n }
    let d := c1.detect g ((c.epc.time : Int) - age - l.ofs).toNat (windowOf inst) ws
    let c2 := if c.laneCq g then d.1.setLane g { d.1.lane g with pipe := drainFlow (d.1.lane g).pipe }
      else d.1.pushSample g (d.1.formSample g (ws.headD 0) ws inst age d.2 false)
    c2.laneSettle g
  else c

/-- An edge of pin `pin` is one on which the group samples: its clock's, of the kind CQ_EDGE names, with the qualifier at its active
level (R82). -/
def Chip.cqAccepts (c : Chip) (g pin : Nat) (rise : Bool) (levels : Nat) : Bool :=
  let f := fun (x : Fld) => c.wfld (R.LG_STATE g) x
  let e := f F.LG_STATE_CQ_EDGE
  decide (pin = f F.LG_STATE_CQ_SEL) && (decide (e = 2) || (rise != decide (e = 1))) &&
    (decide (f F.LG_STATE_QUAL_EN = 0) || (bit levels (f F.LG_STATE_QUAL_SEL) != decide (f F.LG_STATE_QUAL_POL ≠ 0)))

/-- CQ_EDGE_ACCEPTED (R82, R83): an edge of `CQ[pin]`, rising or falling, `age` before now at the ball, with the levels of the sixteen
`CQ` pins at it and the voltage changes at the group's pins about it. An edge that the group's clock, edge and qualifier select forms a
word from the channels as they stood CQ_DLY - DSK taps after it; one that finds the elastic buffer full is discarded.
(DEDUCED, log 35) -/
def doCqEdgeAccepted (g pin : Nat) (rise : Bool) (levels : Nat) (wave : List VoltStep) (age : Nat) (c : Chip) : Chip :=
  if c.laneEn g && c.laneCq g && c.sampleOn && c.cqAccepts g pin rise levels then
    let l := c.lane g
    let dly := c.wfld (R.LG_STATE g) F.LG_STATE_CQ_DLY
    let w := alignedWord (c.channels g 0) (c.feedLine g 0 wave l.volts [(-1024, c.receive g l.volts)]).2 dly
    let s := c.formSample g w [] (c.epc.line - age + c.taps dly) age 0 true
    let full := (c.recOwner g).isSome && !l.ended && decide (l.elastic ≥ 64)
    let c1 := if full then (c.addCnt (R.LG_CQ_OVR g) 1).raise (Ev.cqOverrate g) else c
    (c1.pushSample g { s with lost := full }).laneSettle g
  else c

/-- A discarded word still waits for its place in the gap. -/
def Lane.lostWaits (l : Lane) : Bool :=
  l.pipe.any (fun f => match f with
    | .sample s => s.lost
    | .stop _ => false
    | .resume _ => false)

/-- OVERRUN_GAP_END (R91): a cycle begins with a free slot of staging, or with room in the elastic buffer. -/
def doOverrunGapEnd (g : Nat) (c : Chip) : Chip :=
  let c1 := c.laneSettle g
  let l := c1.lane g
  if l.overrun && (if l.gapCq then decide (l.elastic < 64) && !l.lostWaits else decide (c1.slotsUsed g < 128)) then c1.closeGap g else c1

/-- The registers of a lane group's working copy (R71). -/
def laneRegs (g : Nat) : List Nat := [R.LG_CFG g, R.LG_STATE g] ++ run (R.LG_CH_CFG g 0) 32

/-- The group takes its working copy and samples from here on (R71, R72). A channel that was disabled before has no known level and no
known edge (R103); the others go on. REASON of `LGn_CMDSTAT` stays as it was. (DESIGN CHOICE, log 58) -/
def Chip.laneApply (c : Chip) (g : Nat) : Chip :=
  let was := if c.laneEn g then c.chMask g F.LG_CH_CFG_EN else 0
  let c1 := c.copyRegs (laneRegs g)
  let c2 := c1.setFlag (R.LG_STAT g) F.LG_STAT_RUNNING (c1.laneEn g)
  let keep := if c2.laneEn g then was &&& c2.chMask g F.LG_CH_CFG_EN else 0
  let l := c2.lane g
  c2.setLane g { l with
    known := l.known &&& keep
    edges := l.edges.filter (fun e => bit keep e.1)
    detNext := l.detNext &&& keep
    capNext := l.capNext.filter (fun e => bit keep e.1) }

/-- The lowest enabled channel whose DSK exceeds L, or 0xFF for CQ_DLY (R75). -/
def Chip.deskewFault (c : Chip) (g : Nat) : Option Nat :=
  let lim := c.tapLimit
  match (List.range 32).find? (fun k => c.flag (R.LG_CH_CFG g k) F.LG_CH_CFG_EN && decide (c.fld (R.LG_CH_CFG g k) F.LG_CH_CFG_DSK > lim)) with
  | some k => some k
  | none =>
    let m := c.fld (R.LG_CFG g) F.LG_CFG_MODE
    if (m = 1 ∨ (m = 3 ∧ c.flag (R.LG_CFG g) F.LG_CFG_QCLK = true)) ∧ c.fld (R.LG_STATE g) F.LG_STATE_CQ_DLY > lim then some 0xff
    else none

/-- The reason APPLY of group g is rejected, or 0 (Table 3-1); ARM ignores GROUP_ARMED of its own partition. -/
def Chip.applyReason (c : Chip) (g : Nat) (forArm : Bool) : Nat :=
  firstReason [(!forArm && (c.owner g).isSome, 1), ((c.deskewFault g).isSome, 2), (c.flag (R.LG_STAT g) F.LG_STAT_CAL_BUSY, 4)]

/-- `LGn_CMDSTAT.CH` where the reason is DESKEW_RANGE; it keeps its value after every other outcome. (DESIGN CHOICE, log 58) -/
def Chip.deskewNote (c : Chip) (g : Nat) : Chip :=
  match c.deskewFault g with
  | some k => c.setFld (R.LG_CMDSTAT g) F.LG_CMDSTAT_CH k
  | none => c

def lgPort (g : Nat) : CmdPort := ⟨R.LG_CMD g, R.LG_CMDSTAT g, Ev.rejLg g⟩

/-- LG_APPLY (R71, Table 3-1). -/
def doLgApply (init : Init) (g : Nat) (c : Chip) : Chip :=
  let r := c.applyReason g false
  let c1 := if r = 2 ∧ c.inSafe = false then c.deskewNote g else c
  c1.command (lgPort g) init none false r (fun c => c.laneApply g)

/-- LG_CAL (R78, Table 3-1). -/
def doLgCal (init : Init) (g : Nat) (c : Chip) : Chip :=
  c.command (lgPort g) init none false
    (firstReason [((c.owner g).isSome, 1), (!c.sampleOn, 3), (c.flag (R.LG_STAT g) F.LG_STAT_CAL_BUSY, 4)])
    (fun c => (c.setFlag (R.LG_STAT g) F.LG_STAT_CAL_BUSY true).setLane g { c.lane g with calAt := some c.epc.line })

/-- CAL_END (R78): per channel, when its first rising edge after the command came, in taps. Where an enabled channel has seen none, CAL
ends 1 ms after the command. ARR of a channel that gets VALID = 0 keeps its value. (DESIGN CHOICE, log 58) -/
def doCalEnd (g : Nat) (edges : List (Option Nat)) (c : Chip) : Chip :=
  match (c.lane g).calAt with
  | none => c
  | some t0 =>
    let edge := fun (k : Nat) => (edges[k]?).getD none
    let enabled := (List.range 32).filter (fun k => c.wflag (R.LG_CH_CFG g k) F.LG_CH_CFG_EN)
    let c1 := if enabled.all (fun k => (edge k).isSome) then c else c.waitLine (t0 + 1000 * micro)
    let origin := minNat (enabled.filterMap edge)
    let c2 := (List.range 32).foldl (fun c k =>
      let a := R.LG_CH_CAL g k
      let arr := match edge k, origin with
        | some t, some o => if enabled.contains k && decide (t - o ≤ 1023) then some (t - o) else none
        | _, _ => none
      match arr with
      | some v => (c.setFld a F.LG_CH_CAL_ARR v).setFlag a F.LG_CH_CAL_VALID true
      | none => c.setFlag a F.LG_CH_CAL_VALID false) c1
    let c3 := c2.setLane g { c2.lane g with calAt := none }
    (c3.setFlag (R.LG_STAT g) F.LG_STAT_CAL_BUSY false).raise (Ev.calDone g)

/-- DETCAP_REARM (R106): a host write of `TRS_DETCAPn_CH`; VALID = 0 re-arms the capture. -/
def doDetcapRearm (_init : Init) (n : Nat) (val : Word) (c : Chip) : Chip :=
  c.setFlag (R.TRS_DETCAP_CH n) F.TRS_DETCAP_CH_VALID (bit val.toNat 31)

/-- The stamp at which a group's next sample is expected. -/
def Chip.nextStamp (c : Chip) (g : Nat) : Nat :=
  match c.latest g with
  | some s => if c.laneCq g then c.now else stampOf (((s.kt : Int) - s.ofs).toNat + c.fscPeriods (c.laneDiv g + 1))
  | none => c.now

/-- Recording of a group is interrupted by a pause (R166): what is not decided is not stored, its block closes, and a gap of cause 3 begins;
an overrun open till then ends. -/
def Chip.lanePause (c : Chip) (g p : Nat) : Chip :=
  let c0 := c.laneSettle g
  let at_ := match (c0.lane g).pipe with
    | .sample s :: _ => s.stamp
    | _ => if (c0.lane g).gap.isSome && !(c0.lane g).overrun then c0.now else c0.nextStamp g
  let c1 := ((c0.setLane g { c0.lane g with pipe := [] }).gapResume g p c0.now).closeGap g
  let c2 := c1.closeBlock g p
  let c3 := (c2.setLane g { c2.lane g with fresh := true, prevStored := false }).takeCorrection g (c2.lane g).total
  if (c3.lane g).ended then c3 else c3.startGap g at_ 3 0 false

/-- The sample clock stops at the samplers (R288): after the samples that wait, recording of the group is interrupted. -/
def Chip.laneStop (c : Chip) (g : Nat) : Chip :=
  let l := c.lane g
  if l.ended then c else (c.setLane g { l with pipe := l.pipe ++ [.stop (c.nextStamp g)] }).laneSettle g

/-- The sample clock runs at the samplers again (R288). -/
def Chip.laneResume (c : Chip) (g : Nat) : Chip :=
  let l := c.lane g
  if l.ended then c else (c.setLane g { l with pipe := l.pipe ++ [.resume c.now] }).laneSettle g

end Sys2Proof.Machine
end

