-- ==== Sys2Proof/Machine/Fuller.lean ====
section
/-! DEFINITION. The Fuller codec (spec 08 and 09): prediction, matching, the histogram and the canonical tables, the bitstream, the
block header, the decoder with its errors, and the instance's commands. -/

namespace Sys2Proof.Machine

/-! ### Prediction (R180, R181, R216) -/

/-- Each byte combined with the byte `k` back in the input; bytes before the block are 0. -/
def predictBytes (k : Nat) (xs : List Nat) : List Nat := List.zipWith (fun a b => a ^^^ b) xs (zeros k ++ xs)

/-- The residue bytes under predictor `p` (R180): bytewise, a word back is 4 bytes. -/
def residue (p : Nat) (xs : List Nat) : List Nat :=
  match p with
  | 0 => xs
  | 1 => predictBytes 4 xs
  | _ => predictBytes 8 xs

/-- Undo a prediction of `k` bytes back: `hist` holds the last `k` bytes reconstructed, oldest first. -/
def unpredictGo (hist : List Nat) : List Nat → List Nat
  | [] => []
  | r :: rest =>
    let x := r ^^^ hist.headD 0
    x :: unpredictGo (hist.drop 1 ++ [x]) rest

/-- The input bytes of a residue (R216). -/
def unpredict (p : Nat) (rs : List Nat) : List Nat :=
  match p with
  | 0 => rs
  | 1 => unpredictGo (zeros 4) rs
  | _ => unpredictGo (zeros 8) rs

/-- The zero bytes a predictor would leave (R181). -/
def zeroCount (p : Nat) (xs : List Nat) : Nat := ((residue p xs).filter (fun b => decide (b = 0))).length

/-- The predictor chosen from a block's input (R181): ties 1, then 2, then 0. -/
def choosePred (xs : List Nat) : Nat :=
  let z0 := zeroCount 0 xs
  let z1 := zeroCount 1 xs
  let z2 := zeroCount 2 xs
  if z2 > z1 then (if z0 > z2 then 0 else 2) else (if z0 > z1 then 0 else 1)

/-! ### Matching (R182 to R184) -/

/-- One item of a block (R183). -/
inductive Item where
  | lit (b : Nat)
  | copy (len dist : Nat)
  | stop
  deriving DecidableEq, Repr

/-- The hash of a word position (R182). -/
def wordHash (w : Nat) : Nat := w * 0x9e3779b1 % 4294967296 / 131072

/-- The length of the common prefix, up to `n`. -/
def commonLen : Nat → List Nat → List Nat → Nat
  | n + 1, a :: as, b :: bs => if a = b then 1 + commonLen n as bs else 0
  | _, _, _ => 0

/-- The longest match among the candidates, most recent first; between equal lengths the nearer one: length and distance, 0 if none. -/
def bestMatch (pos : Nat) (rest : List Nat) (cands : List (Nat × List Nat)) : Nat × Nat :=
  cands.foldl (fun best c =>
    let n := commonLen 1024 c.2 rest
    if n ≥ 4 ∧ n > best.1 then (n, pos - c.1) else best) (0, 0)

/-- The items of a block from byte `pos` on (R183): `skip` bytes still belong to a match; `tbl` holds by hash the four most recent word
positions with the residue from each on. -/
def parseFrom (tbl : List (Nat × List (Nat × List Nat))) (pos skip : Nat) : List Nat → List Item
  | [] => [.stop]
  | b :: rest =>
    let here := b :: rest
    let atWord := decide (pos % 4 = 0)
    let h := wordHash (leNat (here.take 4))
    let cands := if atWord then SMap.get (fun _ => []) tbl h else []
    let tbl1 := if atWord then SMap.put tbl h ((pos, here) :: cands.take 3) else tbl
    if skip > 0 then parseFrom tbl1 (pos + 1) (skip - 1) rest
    else
      let m := bestMatch pos here cands
      if m.1 ≥ 4 then .copy m.1 m.2 :: parseFrom tbl1 (pos + 1) (m.1 - 1) rest
      else .lit b :: parseFrom tbl1 (pos + 1) 0 rest

/-- The items of a block's residue. -/
def parseBlock (res : List Nat) : List Item := parseFrom [] 0 0 res

/-! ### Alphabets (R204 to R206) -/

/-- Rows of Table 9-2: first symbol, how many, extra bits, first base. -/
def lengthRows : List (Nat × Nat × Nat × Nat) :=
  [(257, 16, 0, 4), (273, 8, 1, 20), (281, 8, 2, 36), (289, 8, 3, 68), (297, 8, 4, 132), (305, 8, 5, 260), (313, 6, 6, 516), (319, 1, 7, 900)]

/-- A length's symbol, extra bits and their value. -/
def lengthCode (len : Nat) : Nat × Nat × Nat :=
  match lengthRows.find? (fun r => decide (r.2.2.2 ≤ len) && decide (len < r.2.2.2 + r.2.1 * 2 ^ r.2.2.1)) with
  | some (s, _, e, b) => (s + (len - b) / 2 ^ e, e, (len - b) % 2 ^ e)
  | none => (319, 7, 0)

/-- Extra bits and base of a length symbol. -/
def lengthBase (s : Nat) : Nat × Nat :=
  match lengthRows.find? (fun r => decide (r.1 ≤ s) && decide (s < r.1 + r.2.1)) with
  | some (f, _, e, b) => (e, b + (s - f) * 2 ^ e)
  | none => (0, 0)

/-- Extra bits and base of a distance symbol (R206). -/
def distBase (d : Nat) : Nat × Nat :=
  if d < 4 then (0, d + 1) else (d / 2 - 1, (2 + d % 2) * 2 ^ (d / 2 - 1) + 1)

/-- A distance's symbol, extra bits and their value (Table 9-3). -/
def distCode (dist : Nat) : Nat × Nat × Nat :=
  match (List.range 32).find? (fun d => decide ((distBase d).2 ≤ dist) && decide (dist < (distBase d).2 + 2 ^ (distBase d).1)) with
  | some d => (d, (distBase d).1, dist - (distBase d).2)
  | none => (31, 14, 0)

/-- The symbols of an item, distance symbols numbered from 320 on, as the histogram counts them (R186). -/
def Item.symbols : Item → List Nat
  | .lit b => [b]
  | .copy len dist => [(lengthCode len).1, 320 + (distCode dist).1]
  | .stop => [256]

/-- The counts of the 352 symbols. -/
def symbolCounts (items : List Item) : List Nat :=
  let syms := items.flatMap Item.symbols
  (List.range 352).map (fun s => (syms.filter (fun x => decide (x = s))).length)

/-! ### The carried histogram (R208, R209) -/

/-- A count quantised (R208). -/
def quantise (n : Nat) : Nat :=
  if n = 0 then 0
  else
    let e := Nat.log2 n
    1 + 8 * e + (if e ≥ 3 then n / 2 ^ (e - 3) % 8 else n * 2 ^ (3 - e) % 8)

/-- A run of `n` zeros as bytes: pieces of 128 from the start, the remainder last. -/
def zeroRunBytes (n : Nat) : List Nat :=
  List.replicate (n / 128) 0xff ++ (if n % 128 = 0 then [] else [n % 128 + 0x7f])

/-- The carried histogram's bytes: `z` zeros precede the list. -/
def histBytesGo (z : Nat) : List Nat → List Nat
  | [] => zeroRunBytes z
  | q :: rest => if q = 0 then histBytesGo (z + 1) rest else zeroRunBytes z ++ q :: histBytesGo 0 rest

/-- The carried histogram of 352 q values (R209). -/
def histBytes (qs : List Nat) : List Nat := histBytesGo 0 qs

/-- The 352 q values of a carried histogram and the bytes after it; `none`: E_HIST (R209). -/
def parseHist (n : Nat) : List Nat → Option (List Nat × List Nat)
  | [] => if n = 0 then some ([], []) else none
  | b :: rest =>
    if n = 0 then some ([], b :: rest)
    else if 1 ≤ b ∧ b ≤ 0x78 then (parseHist (n - 1) rest).map (fun r => (b :: r.1, r.2))
    else if 0x80 ≤ b ∧ b - 0x7f ≤ n then (parseHist (n - (b - 0x7f)) rest).map (fun r => (zeros (b - 0x7f) ++ r.1, r.2))
    else none

/-! ### Table construction (R210 to R214) -/

/-- A symbol's weight from its q (R210). -/
def weightOf (q : Nat) : Nat := if q = 0 then 1 else (8 + (q - 1) % 8) * 2 ^ ((q - 1) / 8)

/-- Insert by (weight, symbol). -/
def leafInsert (e : Nat × Nat) : List (Nat × Nat) → List (Nat × Nat)
  | [] => [e]
  | x :: rest => if e.1 < x.1 ∨ (e.1 = x.1 ∧ e.2 ≤ x.2) then e :: x :: rest else x :: leafInsert e rest

/-- The symbols in the leaf queue's order (R211). -/
def leafOrder (qs : List Nat) : List (Nat × Nat) :=
  (List.zipWith (fun q s => (weightOf q, s)) qs (List.range qs.length)).foldr leafInsert []

/-- A tree node: its weight, and its leaves with their depths below it. -/
abbrev HNode := Nat × List (Nat × Nat)

/-- Take the lighter head of the two queues, the leaf first on a tie (R211). -/
def popMin (leaves : List (Nat × Nat)) (nodes : List HNode) : Option (HNode × List (Nat × Nat) × List HNode) :=
  match leaves, nodes with
  | [], [] => none
  | (w, s) :: ls, [] => some ((w, [(s, 0)]), ls, [])
  | [], n :: ns => some (n, [], ns)
  | (w, s) :: ls, n :: ns => if w ≤ n.1 then some ((w, [(s, 0)]), ls, n :: ns) else some (n, (w, s) :: ls, ns)

/-- Join the two lightest until one is left (R211). -/
def buildTree : Nat → List (Nat × Nat) → List HNode → List (Nat × Nat)
  | 0, _, nodes => (nodes.head?.map (fun n => n.2)).getD []
  | fuel + 1, leaves, nodes =>
    if leaves.length + nodes.length ≤ 1 then (nodes.head?.map (fun n => n.2)).getD (leaves.map (fun l => (l.2, 0)))
    else
      match popMin leaves nodes with
      | none => []
      | some (a, ls, ns) =>
        match popMin ls ns with
        | none => a.2
        | some (b, ls2, ns2) =>
          buildTree fuel ls2 (ns2 ++ [(a.1 + b.1, (a.2 ++ b.2).map (fun x => (x.1, x.2 + 1)))])

/-- The sum of R212. -/
def kraft (lens : List Nat) : Nat := lens.foldl (fun k l => k + 2 ^ (15 - l)) 0

/-- Lengthen the first symbol of the longest length below 15, in leaf order, until the code fits (R212). -/
def limitGo (order : List Nat) : Nat → List Nat → List Nat
  | 0, lens => lens
  | fuel + 1, lens =>
    if kraft lens ≤ 32768 then lens
    else
      let l := lens.foldl (fun m x => if x < 15 then max m x else m) 0
      match order.find? (fun s => decide (lens.getD s 0 = l)) with
      | none => lens
      | some s => limitGo order fuel (lens.set s (l + 1))

/-- The code lengths of an alphabet from its q values (R210 to R212). -/
def codeLengths (qs : List Nat) : List Nat :=
  let order := leafOrder qs
  let depths := buildTree (qs.length + 1) order []
  let lens := (List.range qs.length).map (fun s => min 15 (cnt0 (depths.foldl (fun m x => put0 m x.1 x.2) []) s))
  limitGo (order.map (fun x => x.2)) 4800 lens

/-- The canonical codewords of one length, from `code` on: entries (symbol, length, codeword). -/
def canonLen (lens : List Nat) (l code : Nat) : List (Nat × Nat × Nat) :=
  let syms := (List.range lens.length).filter (fun s => decide (lens.getD s 0 = l))
  List.zipWith (fun s i => (s, l, code + i)) syms (List.range syms.length)

/-- The canonical codewords (R213): entries (symbol, length, codeword). -/
def canonical (lens : List Nat) : List (Nat × Nat × Nat) :=
  ((List.range 15).foldl (fun (acc : Nat × List (Nat × Nat × Nat)) i =>
    let es := canonLen lens (i + 1) acc.1
    ((acc.1 + es.length) * 2, acc.2 ++ es)) (0, [])).2

/-- Table 9-5, literals and lengths. -/
def defaultLitLen (s : Nat) : Nat :=
  if s = 0 then 4 else if s = 255 then 5 else if (257 ≤ s ∧ s ≤ 272) ∨ s = 319 then 6 else if 313 ≤ s ∧ s ≤ 318 then 7
  else if s = 256 ∨ (273 ≤ s ∧ s ≤ 280) then 8 else 9

/-- Table 9-5, distances. -/
def defaultDist (d : Nat) : Nat := if d = 3 then 1 else if d = 5 then 5 else 6

/-- The two tables of a block: the default one, or from 352 q values (R186, R187). -/
def blockTables (qs : Option (List Nat)) : List (Nat × Nat × Nat) × List (Nat × Nat × Nat) :=
  match qs with
  | none => (canonical ((List.range 320).map defaultLitLen), canonical ((List.range 32).map defaultDist))
  | some q => (canonical (codeLengths (q.take 320)), canonical (codeLengths (q.drop 320)))

/-! ### The bitstream (R202, R203, R207) -/

/-- A symbol's codeword, most significant bit first. -/
def codeBits (tbl : List (Nat × Nat × Nat)) (s : Nat) : List Bool :=
  match tbl.find? (fun e => decide (e.1 = s)) with
  | some (_, l, w) => ((List.range l).map (fun i => bit w i)).reverse
  | none => []

/-- An extra-bit field, least significant bit first. -/
def extraBits (n v : Nat) : List Bool := (List.range n).map (fun i => bit v i)

/-- An item's bits (R207). -/
def Item.bits (lit dist : List (Nat × Nat × Nat)) : Item → List Bool
  | .lit b => codeBits lit b
  | .copy len d =>
    let l := lengthCode len
    let k := distCode d
    codeBits lit l.1 ++ extraBits l.2.1 l.2.2 ++ codeBits dist k.1 ++ extraBits k.2.1 k.2.2
  | .stop => codeBits lit 256

/-- Bits packed into bytes from bit 0 upward, zero padded (R203). -/
def packBits : List Bool → List Nat
  | [] => []
  | a :: b :: c :: d :: e :: f :: g :: h :: rest =>
    ([a, b, c, d, e, f, g, h].foldr (fun x n => 2 * n + (if x then 1 else 0)) 0) :: packBits rest
  | l => [l.foldr (fun x n => 2 * n + (if x then 1 else 0)) 0]

/-- The bits of a byte list in stream order. -/
def unpackBits (l : List Nat) : List Bool := l.flatMap (fun b => (List.range 8).map (fun i => bit b i))

/-- The compressed payload of a block's items (R202). -/
def payloadOf (qs : Option (List Nat)) (items : List Item) : List Nat :=
  let t := blockTables qs
  (match qs with | none => [] | some q => histBytes q) ++ packBits (items.flatMap (Item.bits t.1 t.2))

/-! ### Decoding (R215 to R217) -/

/-- The errors of Table 9-6. -/
inductive DecErr where
  | hdr | hist | code | length | dist | tooLong | under | short | pad | crc
  deriving DecidableEq, Repr

/-- A symbol read bit by bit: codeword so far `w` of length `l`. -/
def readSym (tbl : List (Nat × Nat × Nat)) : Nat → Nat → Nat → List Bool → Except DecErr (Nat × List Bool)
  | 0, _, _, _ => .error .code
  | _ + 1, _, _, [] => .error .short
  | fuel + 1, l, w, b :: rest =>
    let w1 := 2 * w + (if b then 1 else 0)
    match tbl.find? (fun e => decide (e.2.1 = l + 1) && decide (e.2.2 = w1)) with
    | some e => .ok (e.1, rest)
    | none => readSym tbl fuel (l + 1) w1 rest

/-- A field of `n` bits, least significant first. -/
def readBits (n : Nat) (bs : List Bool) : Except DecErr (Nat × List Bool) :=
  if bs.length < n then .error .short
  else .ok ((bs.take n).foldr (fun x v => 2 * v + (if x then 1 else 0)) 0, bs.drop n)

/-- Copy `len` bytes from `dist` back; `rev` is newest first. -/
def copyBack (dist : Nat) : Nat → List Nat → List Nat
  | 0, rev => rev
  | n + 1, rev => copyBack dist n (rev.getD (dist - 1) 0 :: rev)

/-- What a decode has reconstructed (newest first), and how it ended. -/
structure Decoded where
  rev : List Nat
  result : Except DecErr (List Bool)

/-- The decoding loop (R215): on END, the bits after it. -/
def decodeGo (lit dist : List (Nat × Nat × Nat)) : Nat → List Bool → Nat → List Nat → Decoded
  | 0, _, _, rev => ⟨rev, .error .short⟩
  | fuel + 1, bs, pos, rev =>
    match readSym lit 15 0 0 bs with
    | .error e => ⟨rev, .error e⟩
    | .ok (s, bs1) =>
      if s < 256 then (if pos = 16384 then ⟨rev, .error .tooLong⟩ else decodeGo lit dist fuel bs1 (pos + 1) (s :: rev))
      else if s = 256 then ⟨rev, if pos ≠ 16384 then .error .under else .ok bs1⟩
      else
        match readBits (lengthBase s).1 bs1 with
        | .error e => ⟨rev, .error e⟩
        | .ok (x, bs2) =>
          let len := (lengthBase s).2 + x
          if len > 1024 then ⟨rev, .error .length⟩
          else
            match readSym dist 15 0 0 bs2 with
            | .error e => ⟨rev, .error e⟩
            | .ok (d, bs3) =>
              match readBits (distBase d).1 bs3 with
              | .error e => ⟨rev, .error e⟩
              | .ok (y, bs4) =>
                let k := (distBase d).2 + y
                if k > pos then ⟨rev, .error .dist⟩
                else if pos + len > 16384 then ⟨rev, .error .tooLong⟩
                else decodeGo lit dist fuel bs4 (pos + len) (copyBack k len rev)

/-- The padding rule after END. -/
def padCheck (d : Decoded) : Decoded :=
  match d.result with
  | .error _ => d
  | .ok bs => if bs.length ≥ 8 ∨ bs.any id then { d with result := .error .pad } else d

/-- A compressed payload decoded to residue bytes. `flip` inverts one bit of the bitstream, `flipPay` one bit of the payload. -/
def decodePayload (td : Bool) (payload : List Nat) (flip : Bool) : Decoded :=
  let go := fun (qs : Option (List Nat)) (bytes : List Nat) =>
    let t := blockTables qs
    let bs := unpackBits bytes
    let bs1 := match bs with
      | b :: rest => (if flip then !b else b) :: rest
      | [] => []
    padCheck (decodeGo t.1 t.2 (bs1.length + 1) bs1 0 [])
  if td then go none payload
  else
    match parseHist 352 payload with
    | none => ⟨[], .error .hist⟩
    | some (q, rest) => go (some q) rest

/-- The header check (R201). -/
def hchk (hdr : List Nat) : Nat := crc16 (hdr.take 14)

/-- A block decoded as R215 states: the 16,384 input bytes, or the error. -/
def decodeBlock (bytes : List Nat) : Except DecErr (List Nat) :=
  if bytes.length < 16 then .error .hdr
  else
    let plen := leAt bytes 4 2 % 32768
    let b6 := leAt bytes 6 1
    let pred := bits b6 3 2
    let hdrBad := decide (hchk bytes ≠ leAt bytes 14 2) || decide (bits b6 6 2 ≠ 0) ||
      (if bit b6 0 then decide (plen ≠ 16384) else decide (plen = 0) || decide (plen > 16383) || decide (pred > 2) || bit b6 1)
    if hdrBad then .error .hdr
    else if bytes.length < 16 + plen then .error .short
    else
      let payload := slice bytes 16 plen
      let out := if bit b6 0 then Except.ok payload
        else
          let d := decodePayload (bit b6 2) payload false
          match d.result with
          | .error e => .error e
          | .ok _ => .ok (unpredict pred d.rev.reverse)
      match out with
      | .error e => .error e
      | .ok xs => if crc32c xs ≠ leAt bytes 0 4 then .error .crc else .ok xs

/-! ### Stamps inside a block (R53) -/

/-- The stamp of sample `k` of a timing-mode block with first-sample stamp `s0`. -/
def sampleStamp (s0 pq k : Nat) : Nat := s0 + (k * pq + 2 ^ 27) / 2 ^ 28

/-- The stamp of a transition record whose sample lies `n` samples after the block's first, with phase `ph`. -/
def recordStamp (s0 pq n ph : Nat) : Nat := s0 + ((16 * n + ph) * pq + 2 ^ 31) / 2 ^ 32

/-- The records of a transition block's 16,384 bytes (R87): seven bytes each, up to the first after the block's first with DELTA 0; at most
`n`. -/
def recordsOf : Nat → List Nat → List TrRec
  | 0, _ => []
  | n + 1, bytes =>
    let f := leAt bytes 6 1
    { word := leAt bytes 0 4, delta := leAt bytes 4 2, phase := f % 16, keep := bit f 4, init := bit f 5 } ::
      (if leAt bytes 11 2 = 0 then [] else recordsOf n (bytes.drop 7))

/-- The stamps of a transition block's records, from the samples that lie before each (R53, R87). -/
def recordStamps (s0 pq : Nat) : Nat → List TrRec → List Nat
  | _, [] => []
  | n, r :: rest => recordStamp s0 pq (n + r.delta) r.phase :: recordStamps s0 pq (n + r.delta) rest

/-- The stamps of the samples or records that a decoded block of a group holds, `valid` of them, in timing or transition mode; blocks of the
other modes carry none beyond their first (R53). -/
def blockStamps (mode s0 pq valid : Nat) (input : List Nat) : List Nat :=
  match mode with
  | 0 => (List.range valid).map (sampleStamp s0 pq)
  | 2 => recordStamps s0 pq 0 (recordsOf valid input)
  | _ => [s0]

/-! ### The instance -/

/-- The block header (Table 9-1). -/
def blockHeader (crc plen : Nat) (raw vf td : Bool) (pred : Nat) (runStart : Bool) (tbq group : Nat) (sdelta : Nat) : List Nat :=
  let b := fun (x : Bool) (k : Nat) => if x then k else 0
  let h := leBytes 4 crc ++ leBytes 2 plen ++ [b raw 1 + b vf 2 + b td 4 + 8 * pred + b runStart 32, tbq + 16 * group] ++ leBytes 6 sdelta
  h ++ leBytes 2 (crc16 h)

/-- SDELTA (R200). -/
def sdeltaOf (runStart : Bool) (s0 prev : Nat) : Nat :=
  if runStart then 0
  else
    let d : Int := (s0 : Int) - prev
    if d.natAbs ≤ 2 ^ 47 - 1 then unsignedOf 48 d else 0x800000000000

/-- Verification is in force for the instance (R192), as `FULn_STAT.VERIFY` reports it. -/
def Chip.fulVerify (c : Chip) (n : Nat) : Bool := c.flag (R.FUL_STAT n) F.FUL_STAT_VERIFY

/-- CODEC_BLOCK_START (R194, R195): the oldest staged block is read, no sooner than 512 cycles after the previous one, unless two
finished blocks are held. (DEDUCED, log 42) -/
def doCodecBlockStart (n : Nat) (c0 : Chip) : Chip :=
  let c := c0.laneSettle n
  let l := c.lane n
  match l.staged with
  | [] => c
  | b :: rest =>
    if l.codec.out.length ≥ 2 then c
    else
      let c1 := match l.codec.busy.getLast? with
        | some x => c.waitCycle (x.2 + 512)
        | none => c
      c1.putLane n { l with staged := rest, codec := { l.codec with busy := l.codec.busy ++ [(b, c1.cycle)] } }

/-- The first reconstructed byte that differs from the input, 16,384 if none does. -/
def firstMismatch : Nat → List Nat → List Nat → Nat
  | i, a :: as, b :: bs => if a = b then firstMismatch (i + 1) as bs else i
  | _, _, _ => 16384

/-- One bit of a byte list inverted. -/
def flipBit (l : List Nat) (i : Nat) : List Nat := l.modify (i / 8) (fun b => b ^^^ 2 ^ (i % 8))

/-- What the checker finds (R190): passed, and MISMATCH. -/
def checkBlock (td : Bool) (pred : Nat) (payload input : List Nat) (inject : Bool) (upset : Option Nat) : Bool × Nat :=
  let d := decodePayload td (match upset with | some i => flipBit payload i | none => payload) inject
  let m := firstMismatch 0 (unpredict pred d.rev.reverse) input
  let ok := match d.result with
    | .ok _ => decide (m = 16384)
    | .error _ => false
  (ok && !inject, m)

/-- CODEC_BLOCK_DONE (R179 to R194): the oldest block in the instance is coded and checked, and its output block offered to the writer.
`upset`: a bit of the checker's copy of the payload that the environment has inverted. -/
def doCodecBlockDone (n : Nat) (upset : Option Nat) (c : Chip) : Chip :=
  let l0 := c.lane n
  match l0.codec.busy with
  | [] => c
  | (b, at_) :: rest =>
    if l0.codec.out.length ≥ 2 then c
    else
      let c1 := c.waitCycle (at_ + 512)
      let k := l0.codec
      let code := c1.wfld (R.FUL_CTRL n) F.FUL_CTRL_PRED_CODE
      let pred := if c1.wflag (R.FUL_CTRL n) F.FUL_CTRL_PRED_FORCE then (if code = 3 then 1 else code)
        else if b.runStart then 1 else k.nextPred
      let td := b.runStart || k.prevVf || c1.wflag (R.FUL_CTRL n) F.FUL_CTRL_DEF_ONLY
      let items := parseBlock (residue pred b.bytes)
      let payload := payloadOf (if td then none else some (k.hist.map quantise)) items
      let raw := decide (payload.length ≥ 16384)
      let checking := c1.fulVerify n && !raw
      let inj := checking && k.inject
      let chk := if checking then checkBlock td pred payload b.bytes inj upset else (true, 16384)
      let vf := !chk.1
      let body := if raw || vf then b.bytes else payload
      let crc := crc32c b.bytes
      let hdr := blockHeader crc body.length (raw || vf) vf td pred b.runStart b.tbq n (sdeltaOf b.runStart b.s0 k.prevS0)
      let o : OutBlk := { s0 := b.s0, bytes := hdr ++ body, valid := b.valid, tbq := b.tbq, raw := raw || vf, vf := vf, part := b.part }
      let k1 : Codec := { busy := rest, out := k.out ++ [o], nextPred := choosePred b.bytes, hist := symbolCounts items, prevVf := vf,
                          prevS0 := b.s0, inject := k.inject && !inj }
      let c2 := c1.putLane n { l0 with codec := k1 }
      let st := R.FUL_STAT n
      let c3 := ((c2.setFld st F.FUL_STAT_PRED pred).setFlag st F.FUL_STAT_TD_LAST td).setFlag st F.FUL_STAT_RAW_LAST (raw || vf)
      let c4 := c3.setFlag st F.FUL_STAT_INJ_PEND k1.inject
      let c5 := if raw then c4.addCnt (R.FUL_RAW n) 1 else c4
      if vf then
        let c6 := ((c5.addCnt (R.FUL_VF n) 1).setTriple (R.FUL_VF_LAST_L n) b.s0).setN (R.FUL_VF_OFS n) chk.2
        (c6.raiseTyped (Ev.verifyFallback n)).record 7 (12 + n) c6.now
          (leBytes 10 b.s0 ++ [n, pred, (if td then 1 else 0) + (if inj then 2 else 0), 0] ++ leBytes 2 payload.length ++
            leBytes 2 chk.2 ++ [0, 0] ++ leBytes 4 crc)
      else c5

def fulPort (n : Nat) : CmdPort := ⟨R.FUL_CMD n, R.FUL_CMDSTAT n, Ev.rejFul n⟩

/-- FUL_INJECT (R193). -/
def doFulInject (init : Init) (n : Nat) (c : Chip) : Chip :=
  c.command (fulPort n) init none false
    (firstReason [((c.recOwner n).isNone, 0x40), ((c.lane n).codec.inject, 0x41), (!c.fulVerify n, 0x42)])
    (fun c =>
      let l := c.lane n
      (c.setLane n { l with codec := { l.codec with inject := true } }).setFlag (R.FUL_STAT n) F.FUL_STAT_INJ_PEND true)

end Sys2Proof.Machine
end

