-- ==== Sys2Proof/Machine/Trigger.lean ====
section
/-! DEFINITION. Trigger resources (spec 04): domains, term values, counters and timers sample by sample, cross-trigger lines and `TRIG`
pulses, and TRS_CMD.APPLY. -/

namespace Sys2Proof.Machine

/-- Two lane groups are in the same sample domain (R96). -/
def Chip.sameDomain (c : Chip) (g h : Nat) : Bool :=
  decide (c.laneDiv g = c.laneDiv h) &&
    ((!c.laneCq g && !c.laneCq h) ||
     (c.laneCq g && c.laneCq h && decide (c.wreg (R.LG_STATE g) = c.wreg (R.LG_STATE h))))

/-! ### Owners (R97 to R99) -/

/-- Does owner field value `o` name sequencer `n`: in Steady either member of the pair owns for both (R99). -/
def Chip.owns (c : Chip) (o n : Nat) : Bool := decide (o < 16) && (decide (o = n) || (c.steady && decide (o / 2 = n / 2)))

def Chip.ctOwner (c : Chip) (n : Nat) : Nat := c.wfld (R.TRS_CT_CFG n) F.TRS_CT_CFG_OWNER
def Chip.tmOwner (c : Chip) (n : Nat) : Nat := c.wfld (R.TRS_TM_CFG n) F.TRS_TM_CFG_OWNER
/-- Timer n is an epoch comparator (R111). (DEDUCED, log 36) -/
def Chip.tmEpoch (c : Chip) (n : Nat) : Bool := c.wflag (R.TRS_TM_CFG n) F.TRS_TM_CFG_MODE

/-! ### Terms (R94, R95, R100 to R115, R121) -/

/-- The match of a recogniser on two group words (R100). -/
def Chip.wrMatch (c : Chip) (n a b : Nat) : Bool :=
  decide ((a ^^^ c.wreg (R.TRS_WR_VALA n)) &&& c.wreg (R.TRS_WR_MASKA n) = 0) &&
    (!c.wflag (R.TRS_WR_CTRL n) F.TRS_WR_CTRL_USE_B ||
     decide ((b ^^^ c.wreg (R.TRS_WR_VALB n)) &&& c.wreg (R.TRS_WR_MASKB n) = 0))

/-- What a term is evaluated for: a sample, the group of the sequencer's domain, and the `TRIG` window of its evaluation cycle (R121). -/
structure Eval where
  s : Smp
  dom : Nat
  win : TrigWin
  deriving DecidableEq, Repr

/-- The sample of group g that stands beside `s` in one domain: its latest at that instant of the deskewed grid. (DEDUCED, log 35) -/
def Chip.beside (c : Chip) (g : Nat) (s : Smp) : Option Smp :=
  (c.lane g).hist.find? (fun x => decide (x.inst ≤ s.inst + c.fscPeriods 1 / 2))

/-- The word a group presents with a sample: 0 where it is not enabled (R72). -/
def Chip.presented (c : Chip) (g : Nat) (s : Smp) : Nat := if c.laneEn g then ((c.beside g s).map Smp.word).getD 0 else 0

/-- The word the group presented in the domain's sample before; none before the first, or where that came before the recogniser's copy
took effect (R97, R100). (DEDUCED, log 36) -/
def Chip.presentedPrev (c : Chip) (n g : Nat) (s : Smp) : Option Nat :=
  if c.laneEn g then
    match (c.beside g s).bind (fun x => (c.lane g).hist.find? (fun y => decide (y.ix + 1 = x.ix))) with
    | some y => if y.cyc ≤ cnt0 c.trs.wrCopied n then none else some y.word
    | none => none
  else some 0

/-- Word recogniser n in a sample (R100). -/
def Chip.wrTerm (c : Chip) (n : Nat) (s : Smp) : Bool :=
  let ga := c.wfld (R.TRS_WR_CTRL n) F.TRS_WR_CTRL_GA
  let gb := c.wfld (R.TRS_WR_CTRL n) F.TRS_WR_CTRL_GB
  let useB := c.wflag (R.TRS_WR_CTRL n) F.TRS_WR_CTRL_USE_B
  if useB && !c.sameDomain ga gb then false
  else
    let now := c.wrMatch n (c.presented ga s) (c.presented gb s)
    if c.wflag (R.TRS_WR_CTRL n) F.TRS_WR_CTRL_ENTER then
      let before := match c.presentedPrev n ga s, (if useB then c.presentedPrev n gb s else some 0) with
        | some a, some b => c.wrMatch n a b
        | _, _ => false
      now && !before
    else now

/-- Range comparator n (R101). -/
def Chip.rcTerm (c : Chip) (n : Nat) (s : Smp) : Bool :=
  let w := c.presented (c.wfld (R.TRS_RC_CTRL n) F.TRS_RC_CTRL_GRP) s
  let lsb := c.wfld (R.TRS_RC_CTRL n) F.TRS_RC_CTRL_LSB
  let width := max 1 (min 32 (c.wfld (R.TRS_RC_CTRL n) F.TRS_RC_CTRL_WIDTH))
  let f := bits w lsb (min width (32 - lsb))
  c.wflag (R.TRS_RC_CTRL n) F.TRS_RC_CTRL_OUT != (decide (c.wreg (R.TRS_RC_LO n) ≤ f) && decide (f ≤ c.wreg (R.TRS_RC_HI n)))

/-- Value and limit of counter n. -/
def Chip.ctVal (c : Chip) (n : Nat) : Nat := c.pair 16 (R.TRS_CT_VAL_L n)
def Chip.tmVal (c : Chip) (n : Nat) : Nat := c.pair 16 (R.TRS_TM_VAL_L n)

/-- Counter term (R107). -/
def Chip.ctTerm (c : Chip) (n : Nat) : Bool := decide (c.wpair 16 (R.TRS_CT_LIM_L n) ≤ c.ctVal n)

/-- Timer or epoch comparator term for a sample with stamp T (R110, R111). -/
def Chip.tmTerm (c : Chip) (n stamp : Nat) : Bool :=
  if c.tmEpoch n then
    let at_ := c.wtriple (R.TRS_TM_AT_L n)
    let len := c.wpair 16 (R.TRS_TM_LEN_L n)
    decide (at_ ≤ stamp) && (decide (len = 0) || decide (stamp < at_ + len))
  else decide (c.wpair 16 (R.TRS_TM_LIM_L n) ≤ c.tmVal n)

/-- The level an output pin shows its own receiver at the last f_sc sample of the window that evaluation cycle `cyc` takes, and whether the
window holds a transition up, and down (R115, R121). -/
def Chip.outputWin (c : Chip) (n cyc : Nat) : Bool × Bool × Bool :=
  let a := (cyc - c.trs.trigE) * fabricCycle
  let k0 := c.fscEdgesBefore a
  let k1 := c.fscEdgesBefore (a + fabricCycle)
  let level := fun (k : Nat) => c.trigDrive n (c.fscEdgeTime (k - 1))
  let ks := (List.range (k1 - k0)).map (fun i => k0 + 1 + i)
  (level k1, ks.any (fun k => level k && !level (k - 1)), ks.any (fun k => !level k && level (k - 1)))

/-- `TRIGn` input term (R115): an output contributes the level it drives (R121). -/
def Chip.trigTerm (c : Chip) (n cyc : Nat) (w : TrigWin) : Bool :=
  let x := if c.trigOut n then c.outputWin n cyc else (bit w.last n, bit w.rise n, bit w.fall n)
  let low := c.wflag (R.TRS_TRIG_CFG n) F.TRS_TRIG_CFG_IPOL
  if c.wflag (R.TRS_TRIG_CFG n) F.TRS_TRIG_CFG_IEDGE then (if low then x.2.2 else x.2.1) else low != x.1

/-- DETk (R105): in an internal-clock domain true in each reporting sample; in a `CQ`-clocked one, true in the evaluation cycle that lies a
fixed number of cycles after the fabric cycle of a reporting sample. (DESIGN CHOICE, log 63) -/
def Chip.detTerm (c : Chip) (k : Nat) (e : Eval) : Bool :=
  let g := k / 32
  c.laneEn g &&
    (if c.laneCq e.dom then (c.lane g).detWin.any (fun x => decide (x.1 + c.trs.evalE = e.s.cyc) && bit x.2 (k % 32))
     else bit (((c.beside g e.s).map Smp.det).getD 0) (k % 32))

/-- The value of a term code in a sample (R94, R121, Table 4-1). -/
def Chip.term (c : Chip) (code : Nat) (e : Eval) : Bool :=
  let t := code % 1024
  let v :=
    if t < 0x40 then c.wrTerm t e.s
    else if t < 0x50 then c.rcTerm (t - 0x40) e.s
    else if t < 0x70 then c.ctTerm (t - 0x50)
    else if t < 0x80 then c.tmTerm (t - 0x70) e.s.stamp
    else if t < 0xa0 then c.xtActive (t - 0x80) e.s.cyc
    else if t < 0xc0 then c.trigTerm (t - 0xa0) e.s.cyc e.win
    else if t < 0x100 then false
    else if t < 0x200 then c.detTerm (t - 0x100) e
    else decide (t = 0x3ff)
  bit code 10 != v

/-- The lane groups a per-sample term draws from: those a program may use only from its own domain (R96); a `CQ`-clocked domain takes
detectors as cycle terms (R105). -/
def Chip.termGroups (c : Chip) (code dom : Nat) : List Nat :=
  let t := code % 1024
  if t < 0x40 then
    let ctrl := R.TRS_WR_CTRL t
    c.wfld ctrl F.TRS_WR_CTRL_GA :: (if c.wflag ctrl F.TRS_WR_CTRL_USE_B then [c.wfld ctrl F.TRS_WR_CTRL_GB] else [])
  else if t < 0x50 then [c.wfld (R.TRS_RC_CTRL (t - 0x40)) F.TRS_RC_CTRL_GRP]
  else if 0x100 ≤ t ∧ t < 0x200 ∧ c.laneCq dom = false then [(t - 0x100) / 32]
  else []

/-! ### Operations (R107, R110, R128) -/

/-- Combined operations on one resource. -/
structure ResOp where
  rst : Bool := false
  inc : Bool := false
  start : Bool := false
  stop : Bool := false
  deriving DecidableEq, Repr

/-- One OPS slot: kind (true timer), index, operation. -/
structure OpSlot where
  timer : Bool
  idx : Nat
  op : Nat
  deriving DecidableEq, Repr

/-- What a slot does to a resource of its kind (Table 5-2). -/
def OpSlot.res (o : OpSlot) : ResOp :=
  if o.timer then
    match o.op with
    | 1 => { start := true }
    | 2 => { stop := true }
    | 3 => { rst := true }
    | 4 => { rst := true, start := true }
    | 5 => { rst := true, stop := true }
    | _ => {}
  else
    match o.op with
    | 1 => { inc := true }
    | 2 => { rst := true }
    | 3 => { rst := true, inc := true }
    | _ => {}

/-- Does the slot name a resource: its operation is not none (R128, Table 5-3)? -/
def Chip.opNames (c : Chip) (o : OpSlot) : Bool :=
  if o.timer then decide (o.idx < 16) && decide (1 ≤ o.op) && decide (o.op ≤ 5) && !c.tmEpoch o.idx
  else decide (1 ≤ o.op) && decide (o.op ≤ 3)

/-- The combination of the slots that name a resource (R128). -/
def Chip.opsFor (c : Chip) (ops : List OpSlot) (timer : Bool) (idx : Nat) : ResOp :=
  ops.foldl (fun r o =>
    if decide (o.timer = timer) && decide (o.idx = idx) && c.opNames o then
      let x := o.res
      ⟨r.rst || x.rst, r.inc || x.inc, r.start || x.start, r.stop || x.stop⟩
    else r) {}

/-- The greatest 48-bit value. -/
def max48 : Nat := 281474976710655

/-- The value a counter carries into the next sample (R107). -/
def ctNext (v : Nat) (rst inc ev : Bool) : Nat :=
  min max48 ((if rst then 0 else v) + (if inc then 1 else 0) + (if ev then 1 else 0))

/-- Run state and value a timer carries into the next sample (R110). -/
def tmNext (v : Nat) (run : Bool) (o : ResOp) : Bool × Nat :=
  let r := if o.start && !o.stop then true else if o.stop then false else run
  (r, min max48 ((if o.rst then 0 else v) + (if r then 1 else 0)))

/-- Every owned counter and timer advances by one sample (R107, R108, R110); `ops` is empty where no branch was taken. `c0` is the
engine at the sample's start: source terms use V_s. -/
def Chip.advanceRes (c0 c : Chip) (sq : Nat) (ops : List OpSlot) (e : Eval) : Chip :=
  let c1 := (List.range 32).foldl (fun c n =>
    if c0.owns (c0.ctOwner n) sq then
      let o := c0.opsFor ops false n
      let ev := c0.wflag (R.TRS_CT_CFG n) F.TRS_CT_CFG_EVENT && c0.term (c0.wfld (R.TRS_CT_CFG n) F.TRS_CT_CFG_SRC) e
      let v := ctNext (c0.ctVal n) o.rst o.inc ev
      let c := { c with trs := { c.trs with satDone := if o.rst then maskClear c.trs.satDone n else c.trs.satDone } }
      let c := c.setPair 16 (R.TRS_CT_VAL_L n) v
      if v = max48 ∧ bit c.trs.satDone n = false then
        { c with trs := { c.trs with satDone := maskSet c.trs.satDone n } }.raise (Ev.ctSat n)
      else c
    else c) c
  (List.range 16).foldl (fun c n =>
    if c0.owns (c0.tmOwner n) sq && !c0.tmEpoch n then
      let r := tmNext (c0.tmVal n) (c0.flag (R.TRS_TM_CFG n) F.TRS_TM_CFG_RUN) (c0.opsFor ops true n)
      (c.setFlag (R.TRS_TM_CFG n) F.TRS_TM_CFG_RUN r.1).setPair 16 (R.TRS_TM_VAL_L n) r.2
    else c) c1

/-! ### Presets of values (R109) -/

/-- The counter or timer whose value pair's `_L` lies at `a`: kind (true timer) and number. -/
def valueReg (a : Nat) : Option (Bool × Nat) :=
  match (List.range 32).find? (fun n => decide (R.TRS_CT_VAL_L n = a)) with
  | some n => some (false, n)
  | none => ((List.range 16).find? (fun n => decide (R.TRS_TM_VAL_L n = a))).map (fun n => (true, n))

/-- A value pair takes a written value. -/
def Chip.setValue (c : Chip) (a v : Nat) : Chip :=
  let c1 := c.setPair 16 a v
  match valueReg a with
  | some (false, n) => { c1 with trs := { c1.trs with satDone := maskClear c1.trs.satDone n } }
  | _ => c1

/-- The resource has an owner sequencer. -/
def Chip.valueOwned (c : Chip) (a : Nat) : Bool :=
  match valueReg a with
  | some (t, n) => decide ((if t then c.tmOwner n else c.ctOwner n) < 16)
  | none => false

/-- A value write waits for its owner's next evaluation cycle, whenever that comes; a resource without an owner has none, and takes the
value at once (R109). (DEDUCED, log 36) -/
def Chip.presetValue (c : Chip) (a v : Nat) : Chip :=
  if c.valueOwned a then { c with trs := { c.trs with presets := SMap.put c.trs.presets a v } } else c.setValue a v

/-- At the start of an evaluation cycle of `sq` the waiting values of its resources take effect. -/
def Chip.applyPresets (c : Chip) (sq : Nat) : Chip :=
  let mine := c.trs.presets.filter (fun e =>
    match valueReg e.1 with
    | some (t, n) => c.owns (if t then c.tmOwner n else c.ctOwner n) sq
    | none => false)
  mine.foldl (fun c e => { c with trs := { c.trs with presets := SMap.del c.trs.presets e.1 } }.setValue e.1 e.2) c

/-! ### Pulses (R113, R116) -/

/-- PULSE on XTn decided in evaluation cycle `cyc` (R113). -/
def Chip.xtPulse (c : Chip) (n cyc : Nat) : Chip :=
  let w := max 1 (c.wfld (R.TRS_XT_CFG n) F.TRS_XT_CFG_WIDTH)
  { c with trs := { c.trs with xt := c.trs.xt ++ [(n, cyc + 4, cyc + 3 + w)] } }

/-- A pulse on an output pin from time `start` on, `w` units of 2^-64 s long (R116); none on an input (R117). Pulses long over are
forgotten: the capture windows still to come do not reach them. -/
def Chip.trigPulse (c : Chip) (n start w : Nat) : Chip :=
  if c.trigOut n then
    { c with trs := { c.trs with
      pulses := c.trs.pulses.filter (fun x => decide (c.epc.line < x.2.2 + 65536 * fabricCycle)) ++ [(n, start, start + w)] } }
  else c

/-- A sequencer's pulse: its leading edge falls a fixed delay after the sample's instant, which depends on f_sc and DIV alone and is not
stated (DESIGN CHOICE, log 3), and it lasts WIDTH periods of f_sc (R116, R132). -/
def Chip.trigPulseSeq (c : Chip) (n dom : Nat) (s : Smp) : Chip :=
  c.trigPulse n (s.inst + (Config.trigDelay c.fscNum c.fscDen (c.laneDiv dom)).toNat)
    (c.fscPeriods (max 1 (c.wfld (R.TRS_TRIG_CFG n) F.TRS_TRIG_CFG_WIDTH)))

/-- Every output pin at its inactive level, every pulse forgotten (R118). -/
def Chip.trigIdle (c : Chip) : Chip := { c with trs := { c.trs with pulses := [] } }

/-- XT_LINE_EXPIRE (R113): evaluation passes the line's latest end. -/
def doXtLineExpire (n : Nat) (c : Chip) : Chip :=
  let mine := c.trs.xt.filter (fun x => decide (x.1 = n))
  if mine.isEmpty then c
  else
    let c1 := c.waitLine ((mine.foldl (fun m x => max m x.2.2) 0 + 1) * fabricCycle)
    { c1 with trs := { c1.trs with xt := c1.trs.xt.filter (fun x => decide (x.1 ≠ n)) } }

/-- TRIG_PULSE_END (R116): the latest pulse on the pin ends. -/
def doTrigPulseEnd (n : Nat) (c : Chip) : Chip :=
  c.waitLine ((c.trs.pulses.filter (fun x => decide (x.1 = n))).foldl (fun m x => max m x.2.2) 0)

/-! ### Copies (R97) -/

/-- Configuration registers of each resource. -/
def wrRegs (n : Nat) : List Nat := run (R.TRS_WR_CTRL n) 5
def rcRegs (n : Nat) : List Nat := run (R.TRS_RC_CTRL n) 3
def ctRegs (n : Nat) : List Nat := run (R.TRS_CT_CFG n) 5
def tmRegs (n : Nat) : List Nat := run (R.TRS_TM_CFG n) 3 ++ run (R.TRS_TM_AT_L n) 5

/-- Recogniser n is copied: an earlier sample counts as not matching (R100). -/
def Chip.copyWr (c : Chip) (n : Nat) : Chip :=
  let c1 := c.copyRegs (wrRegs n)
  { c1 with trs := { c1.trs with wrCopied := SMap.put c1.trs.wrCopied n c1.lineCycle } }

/-- A counter or timer is copied: CT_SAT may be raised anew (R108). -/
def Chip.copyCt (c : Chip) (n : Nat) : Chip :=
  let c1 := c.copyRegs (ctRegs n)
  { c1 with trs := { c1.trs with satDone := maskClear c1.trs.satDone n } }

/-- The resources whose registers' OWNER satisfies `mine` are copied. -/
def Chip.copyResources (c : Chip) (mine : Nat → Bool) : Chip :=
  let c1 := (List.range 64).foldl (fun c n => if mine (c.fld (R.TRS_WR_CTRL n) F.TRS_WR_CTRL_OWNER) then c.copyWr n else c) c
  let c2 := (List.range 16).foldl (fun c n => if mine (c.fld (R.TRS_RC_CTRL n) F.TRS_RC_CTRL_OWNER) then c.copyRegs (rcRegs n) else c) c1
  let c3 := (List.range 32).foldl (fun c n => if mine (c.fld (R.TRS_CT_CFG n) F.TRS_CT_CFG_OWNER) then c.copyCt n else c) c2
  (List.range 16).foldl (fun c n => if mine (c.fld (R.TRS_TM_CFG n) F.TRS_TM_CFG_OWNER) then c.copyRegs (tmRegs n) else c) c3

/-- The work of TRS_CMD.APPLY (R97, R118): unowned resources, XT lines, pins and detectors. A pin whose role changes begins at its
inactive level, and a detector's first pulse after the copy has no known start (R103). -/
def Chip.trsApply (c : Chip) : Chip :=
  let changed := mask32 (fun n => c.trigOut n != c.flag (R.TRS_TRIG_CFG n) F.TRS_TRIG_CFG_DIR)
  let c1 := c.copyResources (fun o => decide (16 ≤ o))
  let c2 := (c1.copyRegs (run (R.TRS_XT_CFG 0) 32)).copyRegs (run (R.TRS_TRIG_CFG 0) 32)
  let c3 := (List.range 256).foldl (fun c k => c.copyRegs (run (R.TRS_DET_CFG k) 3)) c2
  let c4 := (List.range 8).foldl (fun c g => if (c.lane g).edges.isEmpty then c else c.setLane g { c.lane g with edges := [] }) c3
  { c4 with trs := { c4.trs with pulses := c4.trs.pulses.filter (fun p => !bit changed p.1) } }

def trsPort : CmdPort := ⟨R.TRS_CMD, R.TRS_CMDSTAT, Ev.rejTrs⟩

/-- TRS_APPLY (R97): legal in every state but Safe. -/
def doTrsApply (init : Init) (c : Chip) : Chip := c.command trsPort init none false 0 Chip.trsApply

end Sys2Proof.Machine
end

