-- ==== Sys2Proof/Machine/Carter.lean ====
section
/-! DEFINITION. The Carter queues (spec 10): the shared pool, push, pop, release, MARK and REWIND, stall timers, and the commands with
the rules of Table 10-4 for several of them in one write. -/

namespace Sys2Proof.Machine

/-- LIMIT_q in the working copy: at most 4,096, at least RESERVE (R226, Table 10-9). -/
def Chip.carLimit (c : Chip) (q : Nat) : Nat := max (min 4096 (c.wfld (R.CAR_Q_CFG q) F.CAR_Q_CFG_LIMIT)) (c.carReserve q)

/-- R_q: room for pushes (R225). -/
def Chip.carRoom (c : Chip) (q : Nat) : Nat :=
  min (c.carLimit q - c.carOcc q) ((c.carReserve q - c.carOcc q) + c.carFree)

/-- The Common Store word of entry i. -/
def Chip.carWord (c : Chip) (i : Nat) : Nat := c.wfld R.CAR_CTRL F.CAR_CTRL_BASE + 4 * i

/-- Entries of a queue that wait to be popped, those of this cycle included. -/
def Chip.carWaiting (c : Chip) (q : Nat) : Nat := (c.car.entries.filter (fun e => decide (e.queue = q) && e.popNo.isNone)).length

/-- The stall timer after an operation (R236): it restarts at a pop, and at the first cycle that begins with an entry poppable again; it ends,
with STALLED, when none wait. -/
def Chip.carTimer (c : Chip) (q : Nat) (popped : Bool) : Chip :=
  let at_ := c.car.stallAt
  if c.carWaiting q = 0 then
    { c with car := { c.car with stallAt := SMap.del at_ q } }.setFlag (R.CAR_Q_STAT q) F.CAR_Q_STAT_STALLED false
  else if popped then
    { c with car := { c.car with stallAt := SMap.put at_ q c.epc.line } }.setFlag (R.CAR_Q_STAT q) F.CAR_Q_STAT_STALLED false
  else if at_.any (fun e => decide (e.1 = q)) then c
  else { c with car := { c.car with stallAt := SMap.put at_ q (c.epc.line + fabricCycle) } }

/-- The 32 descriptor bytes (Table 10-2). -/
def descBytes (addr segNo part slot prio kind pushed user : Nat) : List Nat :=
  leBytes 8 addr ++ leBytes 4 segNo ++ [part % 256, slot % 256, prio % 8, kind] ++ leBytes 10 pushed ++ [0, 0] ++ leBytes 4 user

/-- A push with room: the entry takes the lowest free index, its descriptor is written, and it is poppable from the next cycle (R224,
R228). -/
def Chip.carEnter (c : Chip) (q prio kind part slot segNo : Nat) (desc : List Nat) : Chip :=
  let idx := ((List.range 4096).find? (fun i => !c.car.entries.any (fun e => decide (e.index = i)))).getD 0
  let gen := cnt0 c.car.gens idx
  let arr := cnt0 c.car.arrivals q + 1
  let e : CarEntry := { index := idx, gen := gen, queue := q, arrival := arr, prio := prio, kind := kind, part := part, slot := slot,
                        segNo := segNo, cycle := c.cycle }
  let c1 := { c with car := { c.car with
    entries := c.car.entries ++ [e]
    gens := put0 c.car.gens idx ((gen + 1) % 16)
    arrivals := put0 c.car.arrivals q arr } }
  let c2 := c1.cstWriteList 17 (c1.carWord idx) (bytesDwords desc)
  (c2.addCnt (R.CAR_Q_PUSHED q) 1).carTimer q false

/-- A segment push (R222, R227): the engine, and whether it was accepted. -/
def Chip.carPushSeg (c : Chip) (q prio part slot segNo addr : Nat) : Chip × Bool :=
  if c.carRoom q = 0 then (c, false)
  else (c.carEnter q prio 1 part slot segNo (descBytes addr segNo part slot prio 1 c.now 0), true)

/-- A is taken before B (R229). -/
def carBefore (a b : CarEntry) : Bool := decide (a.prio < b.prio) || (decide (a.prio = b.prio) && decide (a.arrival < b.arrival))

/-- The poppable entry that a pop takes (R229). -/
def Chip.carHead (c : Chip) (q : Nat) : Option CarEntry :=
  c.car.entries.foldl (fun best e =>
    if decide (e.queue = q) && c.carPoppable e then
      match best with
      | none => some e
      | some b => if carBefore e b then some e else some b
    else best) none

/-- Change the entry with an index. -/
def Chip.carUpd (c : Chip) (idx : Nat) (f : CarEntry → CarEntry) : Chip :=
  { c with car := { c.car with entries := c.car.entries.map (fun e => if e.index = idx then f e else e) } }

/-- A handle (R228). -/
def CarEntry.handle (e : CarEntry) : Nat := e.index + 4096 * e.gen

/-- A pop (R229): the engine, and the handle, descriptor and entry taken. -/
def Chip.carPop (c : Chip) (q : Nat) : Chip × Option (Nat × List Nat × CarEntry) :=
  match c.carHead q with
  | none => (c, none)
  | some e =>
    let no := c.rn (R.CAR_Q_POPNO q)
    let c1 := c.carUpd e.index (fun x => { x with popNo := some no, everPopped := true })
    let r := c1.cstReadList 17 (c1.carWord e.index) 4
    let c2 := ((r.1.setN (R.CAR_Q_POPNO q) (no + 1)).addCnt (R.CAR_Q_POPPED q) 1).carTimer q true
    (c2, some (e.handle, dwordBytes r.2.1, e))

/-- The reason a release is rejected, or 0 (R230). -/
def Chip.carReleaseReason (c : Chip) (q handle : Nat) : Nat :=
  match c.car.entries.find? (fun e => decide (e.handle = handle) && decide (e.queue = q)) with
  | none => 0x55
  | some e => if e.everPopped then 0 else 0x56

/-- The partition frees segments whose descriptors are released (R176). -/
def Chip.autoFreeOn (c : Chip) (p : Nat) : Bool := c.wflag (R.PRT_CFG p) F.PRT_CFG_AUTO_FREE

/-- A segment's descriptor has been released: it may be freed, and under AUTO_FREE it is in the next cycle (R176, R231). -/
def Chip.segReleased (c : Chip) (p slot segNo : Nat) : Chip :=
  let pt := c.part p
  match pt.seg slot with
  | none => c
  | some s =>
    if s.segNo = segNo then
      let pt1 := pt.setSeg slot { s with pushed := 3 }
      c.setPart p { pt1 with autoFree := if c.autoFreeOn p then pt1.autoFree ++ [slot] else pt1.autoFree }
    else c

/-- A released entry is outstanding at its streamer no longer (R260). -/
def Chip.outstDrop (c : Chip) (q h : Nat) : Chip :=
  let e := c.eth (q - 1)
  if 1 ≤ q ∧ q ≤ 4 ∧ e.outst.contains h = true then
    let out := e.outst.filter (fun x => decide (x ≠ h))
    (c.setEth (q - 1) { e with outst := out }).setFld (R.ETH_STR_STAT (q - 1)) F.ETH_STR_STAT_OUTST out.length
  else c

/-- A release (R230). -/
def Chip.carRelease (c : Chip) (q handle : Nat) : Chip :=
  match c.car.entries.find? (fun e => decide (e.handle = handle) && decide (e.queue = q)) with
  | none => c
  | some e =>
    let c1 := { c with car := { c.car with entries := c.car.entries.filter (fun x => decide (x.index ≠ e.index)) } }
    let c2 := ((c1.outstDrop q handle).addCnt (R.CAR_Q_RELEASED q) 1).carTimer q false
    if e.kind = 1 then c2.segReleased e.part e.slot e.segNo else c2

/-- One entry is returned (R232): its RDLV is incremented in the Common Store. -/
def Chip.carReturn (c : Chip) (q : Nat) (e : CarEntry) : Chip :=
  let n := min 65535 (e.rdlv + 1)
  let c1 := c.carUpd e.index (fun x => { x with popNo := none, rdlv := n, cycle := c.cycle })
  let r := c1.cstRead 17 (c1.carWord e.index + 3)
  let w := putBits r.2.1.toNat 16 16 n
  (r.1.cstWrite 17 (r.1.carWord e.index + 3) (BitVec.ofNat 64 w)).addCnt (R.CAR_Q_REWOUND q) 1

/-- REWIND with mark `mark` on the entries as they stood in `c0` (R232): popped, not released, pop number at or after the mark. -/
def Chip.carRewindFrom (c0 c : Chip) (q mark : Nat) : Chip :=
  let back := c0.car.entries.filter (fun e => decide (e.queue = q) && (match e.popNo with
    | some n => decide (mark ≤ n)
    | none => false))
  let alive := back.filter (fun e => c.car.entries.any (fun x => decide (x.handle = e.handle)))
  (alive.foldl (fun c e => c.carReturn q e) c).carTimer q false

/-- REWIND alone, as a consumer inside the engine issues it. -/
def Chip.carRewind (c : Chip) (q : Nat) : Chip := Chip.carRewindFrom c c q (c.rn (R.CAR_Q_MARKNO q))

/-- MARK alone. -/
def Chip.carMark (c : Chip) (q : Nat) : Chip := c.setN (R.CAR_Q_MARKNO q) (c.rn (R.CAR_Q_POPNO q))

/-- The queue's consumer is another than the initiator at the register interface (Table 10-1, R237). With OWNER = 0 the consumer of Q5 is
the Steward, which reaches it through these registers (DEDUCED, log 43). -/
def Chip.carOwned (c : Chip) (q : Nat) (init : Init) : Bool :=
  decide (q < 6) && !c.flag (R.CAR_Q_CFG q) F.CAR_Q_CFG_OWNER && !(decide (q = 5) && decide (init = .steward))

def carQPort (q : Nat) : CmdPort := ⟨R.CAR_Q_CMD q, R.CAR_Q_CMDSTAT q, Ev.rejCar⟩
def carPort : CmdPort := ⟨R.CAR_CMD, R.CAR_CMDSTAT, Ev.rejCar⟩

/-- A register push's descriptor from the IN registers (Table 10-2). -/
def Chip.carInDesc (c : Chip) (q prio : Nat) : List Nat :=
  let inw := fun w => c.rn (R.CAR_Q_IN q w)
  descBytes (inw 0 + 2 ^ 32 * inw 1) (inw 2) (inw 3) (inw 3 / 256) prio 2 c.now (inw 7)

/-- The register POP's result (R229). -/
def Chip.carPopReg (c : Chip) (q : Nat) : Chip :=
  let r := c.carPop q
  match r.2 with
  | none => r.1.setFlag (R.CAR_Q_POPSTAT q) F.CAR_Q_POPSTAT_VALID false
  | some (h, desc, _) =>
    let c1 := (List.range 8).foldl (fun c w => c.setN (R.CAR_Q_OUT q w) (leAt desc (4 * w) 4)) r.1
    (c1.setFld (R.CAR_Q_POPSTAT q) F.CAR_Q_POPSTAT_HANDLE h).setFlag (R.CAR_Q_POPSTAT q) F.CAR_Q_POPSTAT_VALID true

/-- The reason for each command bit of `CAR_Qq_CMD` on the state `c` (Table 10-6), 0 where it is accepted. -/
def Chip.carReason (c : Chip) (q b : Nat) (init : Init) : Nat :=
  if c.inSafe then 0xfe
  else if b = 0 then (if c.carRoom q = 0 then 0x53 else 0)
  else if c.carOwned q init then 0x54
  else if b = 2 then c.carReleaseReason q (c.fld (R.CAR_Q_RELH q) F.CAR_Q_RELH_HANDLE)
  else 0

/-- The effect of the accepted commands of one write, `acc` as a bit mask, all on the state at the start of the cycle (R234, R235). -/
def Chip.carEffects (c : Chip) (q prio acc : Nat) : Chip :=
  let mark0 := c.rn (R.CAR_Q_MARKNO q)
  let pop0 := c.rn (R.CAR_Q_POPNO q)
  let c1 := if bit acc 2 then c.carRelease q (c.fld (R.CAR_Q_RELH q) F.CAR_Q_RELH_HANDLE) else c
  let c2 := if bit acc 1 then c1.carPopReg q else c1
  let c3 := if bit acc 4 then Chip.carRewindFrom c c2 q mark0 else c2
  let c4 := if bit acc 3 then c3.setN (R.CAR_Q_MARKNO q) pop0 else c3
  if bit acc 0 then
    c4.carEnter q prio 2 (bits (c.rn (R.CAR_Q_IN q 3)) 0 8) (bits (c.rn (R.CAR_Q_IN q 3)) 8 8) (c.rn (R.CAR_Q_IN q 2)) (c.carInDesc q prio)
  else c4

/-- The commands of one write to `CAR_Qq_CMD` (R235, R359): accepted ones take effect, each rejected one is reported. -/
def Chip.carCommands (c : Chip) (q mask prio : Nat) (init : Init) : Chip :=
  let cmds := maskList 5 mask
  let acc := cmds.foldl (fun m b => if c.carReason q b init = 0 then maskSet m b else m) 0
  let rej := (cmds.map (fun b => c.carReason q b init)).filter (fun r => decide (r ≠ 0))
  let c1 := c.carEffects q prio acc
  if bit mask 0 && decide (c.carReason q 0 init = 0x53) then
    rej.foldl (fun c r => c.reject (carQPort q) init none r) (c1.addCnt (R.CAR_Q_REFUSED q) 1)
  else if rej.isEmpty then { c1.setFld (R.CAR_Q_CMDSTAT q) reasonFld 0 with lastReason := 0 }
  else rej.foldl (fun c r => c.reject (carQPort q) init none r) c1

/-- CAR_PUSH (R222). The write carries PRIO (R345). -/
def doCarPush (init : Init) (q prio : Nat) (c : Chip) : Chip :=
  (c.setFld (R.CAR_Q_CMD q) F.CAR_Q_CMD_PRIO prio).carCommands q 1 (prio % 8) init

/-- CAR_POP (R229). -/
def doCarPop (init : Init) (q : Nat) (c : Chip) : Chip := c.carCommands q 2 0 init

/-- CAR_RELEASE (R230) of the handle in `CAR_Qq_RELH`. -/
def doCarRelease (init : Init) (q handle : Nat) (c : Chip) : Chip :=
  (c.setFld (R.CAR_Q_RELH q) F.CAR_Q_RELH_HANDLE handle).carCommands q 4 0 init

/-- CAR_MARK (R232). -/
def doCarMark (init : Init) (q : Nat) (c : Chip) : Chip := c.carCommands q 8 0 init

/-- CAR_REWIND (R232). -/
def doCarRewind (init : Init) (q : Nat) (c : Chip) : Chip := c.carCommands q 16 0 init

/-- The reason CAR APPLY is rejected, or 0 (R226). -/
def Chip.carApplyReason (c : Chip) : Nat :=
  firstReason [((List.range 8).any (fun q => decide (c.carOcc q ≠ 0)), 0x50),
    (decide ((List.range 8).foldl (fun n q => n + c.fld (R.CAR_Q_CFG q) F.CAR_Q_CFG_RESERVE) 0 > 4096), 0x51),
    (decide (c.fld R.CAR_CTRL F.CAR_CTRL_BASE + 16384 > c.cstWords), 0x52)]

/-- The working copy of R226, with every POPNO and MARKNO at 0. -/
def Chip.carApply (c : Chip) : Chip :=
  (List.range 8).foldl (fun c q => (c.setN (R.CAR_Q_POPNO q) 0).setN (R.CAR_Q_MARKNO q) 0)
    (c.copyRegs (R.CAR_CTRL :: (List.range 8).map R.CAR_Q_CFG))

/-- CAR_APPLY (R226). -/
def doCarApply (init : Init) (c : Chip) : Chip := c.command carPort init none false c.carApplyReason Chip.carApply

/-- TIMEOUT of a queue in µs (Table 10-9). -/
def Chip.carTimeout (c : Chip) (q : Nat) : Nat := min 1000000 (c.fld (R.CAR_Q_STALL q) F.CAR_Q_STALL_TIMEOUT)

/-- QUEUE_STALL (R236): the stall timer reaches TIMEOUT. Timers run only in Gale (R238). -/
def doQueueStall (q : Nat) (c : Chip) : Chip :=
  match c.car.stallAt.find? (fun e => decide (e.1 = q)) with
  | none => c
  | some (_, t) =>
    if c.carTimeout q = 0 ∨ c.ladder ≠ 0 ∨ c.flag (R.CAR_Q_STAT q) F.CAR_Q_STAT_STALLED = true then c
    else
      let c1 := c.waitLine (t + c.carTimeout q * micro)
      (c1.setFlag (R.CAR_Q_STAT q) F.CAR_Q_STAT_STALLED true).raise (Ev.qStall q)

/-- The engine leaves Gale: the stall timers stop (R238). -/
def Chip.carLeaveGale (c : Chip) : Chip := { c with car := { c.car with stopAt := c.epc.line } }

/-- The engine is back in Gale: each stall timer goes on from where it stopped (R238). -/
def Chip.carEnterGale (c : Chip) : Chip :=
  { c with car := { c.car with stallAt := c.car.stallAt.map (fun e => (e.1, e.2 + (c.epc.line - max e.2 c.car.stopAt))) } }

/-- Every queue is emptied (R238). Generations start again after `PORN` and `WRSTN` (R228). -/
def Chip.carEmpty (c : Chip) : Chip := { c with car := {} }

end Sys2Proof.Machine
end

