-- ==== Sys2Proof/Machine/Hash.lean ====
section
/-! DEFINITION. The cryptographic functions that rules name: SHA-256 and SHA-384 (FIPS 180-4), HMAC-SHA-256 (FIPS 198-1; R153) and ECDSA
over P-384 (FIPS 186-5; R401). Their constants and steps are those of the standards: PRESUMED, log 12. -/

namespace Sys2Proof.Machine

/-! ### SHA-256 and SHA-384 -/

/-- The round constants of SHA-256, eight to a number of 256 bits, the first in its most significant word. -/
def shaRows : List Nat :=
  [0x428a2f9871374491b5c0fbcfe9b5dba53956c25b59f111f1923f82a4ab1c5ed5,
   0xd807aa9812835b01243185be550c7dc372be5d7480deb1fe9bdc06a7c19bf174,
   0xe49b69c1efbe47860fc19dc6240ca1cc2de92c6f4a7484aa5cb0a9dc76f988da,
   0x983e5152a831c66db00327c8bf597fc7c6e00bf3d5a7914706ca635114292967,
   0x27b70a852e1b21384d2c6dfc53380d13650a7354766a0abb81c2c92e92722c85,
   0xa2bfe8a1a81a664bc24b8b70c76c51a3d192e819d6990624f40e3585106aa070,
   0x19a4c1161e376c082748774c34b0bcb5391c0cb34ed8aa4a5b9cca4f682e6ff3,
   0x748f82ee78a5636f84c878148cc7020890befffaa4506cebbef9a3f7c67178f2]

/-- Those of SHA-384, eight to a number of 512 bits. -/
def shaWideRows : List Nat :=
  [0x428a2f98d728ae227137449123ef65cdb5c0fbcfec4d3b2fe9b5dba58189dbbc3956c25bf348b53859f111f1b605d019923f82a4af194f9bab1c5ed5da6d8118,
   0xd807aa98a303024212835b0145706fbe243185be4ee4b28c550c7dc3d5ffb4e272be5d74f27b896f80deb1fe3b1696b19bdc06a725c71235c19bf174cf692694,
   0xe49b69c19ef14ad2efbe4786384f25e30fc19dc68b8cd5b5240ca1cc77ac9c652de92c6f592b02754a7484aa6ea6e4835cb0a9dcbd41fbd476f988da831153b5,
   0x983e5152ee66dfaba831c66d2db43210b00327c898fb213fbf597fc7beef0ee4c6e00bf33da88fc2d5a79147930aa72506ca6351e003826f142929670a0e6e70,
   0x27b70a8546d22ffc2e1b21385c26c9264d2c6dfc5ac42aed53380d139d95b3df650a73548baf63de766a0abb3c77b2a881c2c92e47edaee692722c851482353b,
   0xa2bfe8a14cf10364a81a664bbc423001c24b8b70d0f89791c76c51a30654be30d192e819d6ef5218d69906245565a910f40e35855771202a106aa07032bbd1b8,
   0x19a4c116b8d2d0c81e376c085141ab532748774cdf8eeb9934b0bcb5e19b48a8391c0cb3c5c95a634ed8aa4ae3418acb5b9cca4f7763e373682e6ff3d6b2b8a3,
   0x748f82ee5defb2fc78a5636f43172f6084c87814a1f0ab728cc702081a6439ec90befffa23631e28a4506cebde82bde9bef9a3f7b2c67915c67178f2e372532b,
   0xca273eceea26619cd186b8c721c0c207eada7dd6cde0eb1ef57d4f7fee6ed17806f067aa72176fba0a637dc5a2c898a6113f9804bef90dae1b710b35131c471b,
   0x28db77f523047d8432caab7b40c724933c9ebe0a15c9bebc431d67c49c100d4c4cc5d4becb3e42b6597f299cfc657e2a5fcb6fab3ad6faec6c44198c4a475817]

/-- Which of the two hashes. -/
inductive ShaKind where
  | s256
  | s384
  deriving DecidableEq, Repr

/-- Bits of a word. -/
def ShaKind.w : ShaKind → Nat
  | .s256 => 32
  | .s384 => 64

/-- Rounds of a block. -/
def ShaKind.rounds : ShaKind → Nat
  | .s256 => 64
  | .s384 => 80

/-- Word `i` of a number of eight words, counted from the most significant. -/
def ShaKind.word8 (k : ShaKind) (x i : Nat) : Nat := bits x (k.w * (7 - i)) k.w

/-- The constant of round `t`. -/
def ShaKind.const (k : ShaKind) (t : Nat) : Nat :=
  k.word8 ((match k with | .s256 => shaRows | .s384 => shaWideRows).getD (t / 8) 0) (t % 8)

/-- The eight words before the first block, as one number. -/
def ShaKind.first : ShaKind → Nat
  | .s256 => 0x6a09e667bb67ae853c6ef372a54ff53a510e527f9b05688c1f83d9ab5be0cd19
  | .s384 => 0xcbbb9d5dc1059ed8629a292a367cd5079159015a3070dd17152fecd8f70e593967332667ffc00b318eb44a8768581511db0c2e0d64f98fa747b5481dbefa4fa4

/-- The amounts of the four mixings, three each: of `e` and of `a` in a round, and of the near and the far word of the spread message. -/
def ShaKind.amounts : ShaKind → List Nat
  | .s256 => [6, 11, 25, 2, 13, 22, 7, 18, 3, 17, 19, 10]
  | .s384 => [14, 18, 41, 28, 34, 39, 1, 8, 7, 19, 61, 6]

/-- The eight working words of the hash. -/
structure Sha where
  a : Nat
  b : Nat
  c : Nat
  d : Nat
  e : Nat
  f : Nat
  g : Nat
  h : Nat
  deriving DecidableEq, Repr

/-- The eight words a number spells. -/
def Sha.ofNat (k : ShaKind) (x : Nat) : Sha :=
  let v := k.word8 x
  ⟨v 0, v 1, v 2, v 3, v 4, v 5, v 6, v 7⟩

/-- Word by word sum, modulo 2^w. -/
def Sha.plus (k : ShaKind) (x y : Sha) : Sha :=
  let s := fun (m n : Nat) => (m + n) % 2 ^ k.w
  ⟨s x.a y.a, s x.b y.b, s x.c y.c, s x.d y.d, s x.e y.e, s x.f y.f, s x.g y.g, s x.h y.h⟩

/-- The bytes of all eight words. -/
def Sha.bytes (k : ShaKind) (x : Sha) : List Nat := [x.a, x.b, x.c, x.d, x.e, x.f, x.g, x.h].flatMap (beBytes (k.w / 8))

/-- Rotation right of a word of `w` bits. -/
def rotr (w x n : Nat) : Nat := x / 2 ^ n + x % 2 ^ n * 2 ^ (w - n)

/-- Mixing `j`: three rotations laid over each other; in the two of the message the last is a shift. -/
def ShaKind.mix (k : ShaKind) (j x : Nat) : Nat :=
  let n := fun (i : Nat) => k.amounts.getD (3 * j + i) 0
  rotr k.w x (n 0) ^^^ rotr k.w x (n 1) ^^^ (if 2 ≤ j then x / 2 ^ n 2 else rotr k.w x (n 2))

/-- One round: `kw` is the sum of the round's constant and its word of the message. -/
def Sha.round (k : ShaKind) (x : Sha) (kw : Nat) : Sha :=
  let pick := (x.e &&& x.f) ^^^ ((2 ^ k.w - 1 - x.e) &&& x.g)
  let most := (x.a &&& x.b) ||| (x.c &&& (x.a ||| x.b))
  let add := x.h + kw + pick + k.mix 0 x.e
  { a := (add + most + k.mix 1 x.a) % 2 ^ k.w, b := x.a, c := x.b, d := x.c,
    e := (x.d + add) % 2 ^ k.w, f := x.e, g := x.f, h := x.g }

/-- The last `n` rounds; `w` holds the next sixteen words of the message as it is spread, and the seventeenth follows from them. -/
def Sha.rounds (k : ShaKind) : Nat → Sha → List Nat → Sha
  | 0, x, _ => x
  | n + 1, x, w =>
    let next := (w.getD 0 0 + k.mix 2 (w.getD 1 0) + w.getD 9 0 + k.mix 3 (w.getD 14 0)) % 2 ^ k.w
    Sha.rounds k n (x.round k (k.const (k.rounds - 1 - n) + w.getD 0 0)) (w.drop 1 ++ [next])

/-- One block of sixteen words. -/
def Sha.block (k : ShaKind) (x : Sha) (b : List Nat) : Sha :=
  x.plus k (Sha.rounds k k.rounds x ((List.range 16).map (fun i => beAt b (k.w / 8 * i) (k.w / 8))))

/-- All eight words of the hash of a byte list, as bytes: the message is padded with a one bit, zeros, and its length in bits. -/
def ShaKind.hash (k : ShaKind) (m : List Nat) : List Nat :=
  let n := 2 * k.w
  let full := m ++ [0x80] ++ zeros ((2 * n - 1 - k.w / 4 - m.length % n) % n) ++ beBytes (k.w / 4) (8 * m.length)
  ((List.range (full.length / n)).foldl (fun x i => x.block k (slice full (n * i) n)) (Sha.ofNat k k.first)).bytes k

/-- SHA-256 of a byte list. (PRESUMED, log 12) -/
def sha256 (m : List Nat) : List Nat := ShaKind.s256.hash m

/-- SHA-384 of a byte list. (PRESUMED, log 12) -/
def sha384 (m : List Nat) : List Nat := (ShaKind.s384.hash m).take 48

/-- HMAC-SHA-256 with a key of up to 64 bytes. (PRESUMED, log 12) -/
def hmac256 (key msg : List Nat) : List Nat :=
  let k := slice key 0 64
  sha256 (k.map (fun b => b ^^^ 0x5c) ++ sha256 (k.map (fun b => b ^^^ 0x36) ++ msg))

/-! ### ECDSA over P-384 -/

/-- The field of P-384, the order of its base point, and the constant of its equation y² = x³ − 3x + b. -/
def ecP : Nat := 2 ^ 384 - 2 ^ 128 - 2 ^ 96 + 2 ^ 32 - 1
def ecN : Nat :=
  0xffffffffffffffffffffffffffffffffffffffffffffffffc7634d81f4372ddf581a0db248b0a77aecec196accc52973
def ecB : Nat :=
  0xb3312fa7e23ee7e4988e056be3f82d19181d9c6efe8141120314088f5013875ac656398d8a2ed19d2a85c8edd3ec2aef

/-- A point with coordinates x / z² and y / z³; the one at infinity has z = 0. -/
structure EcPoint where
  x : Nat
  y : Nat
  z : Nat
  deriving DecidableEq, Repr

/-- The base point. -/
def ecBase : EcPoint :=
  ⟨0xaa87ca22be8b05378eb1c71ef320ad746e1d3b628ba79b9859f741e082542a385502f25dbf55296c3a545e3872760ab7,
   0x3617de4a96262c6f5d9e98bf9292dc29f8f41dbd289a147ce9da3113b5f0b8c00a60b1ce1d7e819d7a431d7c90ea0e5f, 1⟩

/-- A product and a difference in the field. -/
def ecMul (a b : Nat) : Nat := a * b % ecP
def ecSub (a b : Nat) : Nat := (a + (ecP - b % ecP)) % ecP

/-- A point added to itself. -/
def EcPoint.twice (q : EcPoint) : EcPoint :=
  let yy := ecMul q.y q.y
  let zz := ecMul q.z q.z
  let s := ecMul (4 * q.x) yy
  let m := ecMul (3 * ecSub q.x zz) (q.x + zz)
  let x := ecSub (ecMul m m) (2 * s)
  ⟨x, ecSub (ecMul m (ecSub s x)) (8 * ecMul yy yy), ecMul (2 * q.y) q.z⟩

/-- The sum of two points. -/
def EcPoint.plus (q r : EcPoint) : EcPoint :=
  if q.z = 0 then r
  else if r.z = 0 then q
  else
    let qz := ecMul q.z q.z
    let rz := ecMul r.z r.z
    let u := ecMul q.x rz
    let h := ecSub (ecMul r.x qz) u
    let s := ecMul q.y (ecMul r.z rz)
    let d := ecSub (ecMul r.y (ecMul q.z qz)) s
    if h = 0 then (if d = 0 then q.twice else ⟨1, 1, 0⟩)
    else
      let hh := ecMul h h
      let hhh := ecMul h hh
      let v := ecMul u hh
      let x := ecSub (ecMul d d) (hhh + 2 * v)
      ⟨x, ecSub (ecMul d (ecSub v x)) (ecMul s hhh), ecMul h (ecMul q.z r.z)⟩

/-- `u` times `q` plus `v` times `r`, by the top `n` of 384 bits of both numbers. -/
def ecSum (u v : Nat) (q r qr : EcPoint) : Nat → EcPoint
  | 0 => ⟨1, 1, 0⟩
  | n + 1 =>
    let t := (ecSum u v q r qr n).twice
    match bit u (383 - n), bit v (383 - n) with
    | true, true => t.plus qr
    | true, false => t.plus q
    | false, true => t.plus r
    | false, false => t

/-- `b` to the power `e`, modulo `m`, by the top `n` of 384 bits of the exponent. -/
def powMod (m b e : Nat) : Nat → Nat
  | 0 => 1
  | n + 1 =>
    let t := powMod m b e n
    if bit e (383 - n) then t * t % m * b % m else t * t % m

/-- ECDSA verification (R401): the public key `0x04, X, Y` of 97 bytes, the signature `r, s` of 96 bytes, and the signed message.
(PRESUMED, log 12) -/
def ecdsaOk (key sig msg : List Nat) : Bool :=
  let q : EcPoint := ⟨beAt key 1 48, beAt key 49 48, 1⟩
  let r := beAt sig 0 48
  let s := beAt sig 48 48
  let onCurve := decide (leAt key 0 1 = 4) && decide (q.x < ecP) && decide (q.y < ecP) &&
    decide (ecMul q.y q.y = (ecMul (ecMul q.x q.x) q.x + (ecP - 3) * q.x + ecB) % ecP)
  if onCurve && decide (1 ≤ r) && decide (r < ecN) && decide (1 ≤ s) && decide (s < ecN) then
    let w := powMod ecN s (ecN - 2) 384
    let t := ecSum (beNat (sha384 msg) * w % ecN) (r * w % ecN) ecBase q (ecBase.plus q) 384
    let zz := ecMul t.z t.z
    decide (t.z ≠ 0) && (decide (t.x = ecMul r zz) || (decide (r + ecN < ecP) && decide (t.x = ecMul (r + ecN) zz)))
  else false

end Sys2Proof.Machine
end

