-- ==== Sys2Proof/Machine/Net.lean ====
section
/-! DEFINITION. Frames on the Ethernet ports (R252 to R256), the Ortos common header (R151) and authentication codes (R153; the IEEE 802.3
FCS and the Internet checksums from the standards those rules name: PRESUMED, log 12). -/

namespace Sys2Proof.Machine

/-! ### Authentication codes (R153) -/

/-- The 32 key bytes of eight key registers from `a` on (R153). -/
def Chip.keyBytes (c : Chip) (a : Nat) : List Nat := (run a 8).flatMap (fun r => leBytes 4 (c.rn r))

/-- The authentication code of a message (R153). -/
def Chip.mac (c : Chip) (keyAt : Nat) (msg : List Nat) : List Nat := (hmac256 (c.keyBytes keyAt) msg).take 16

/-! ### Checksums -/

/-- One byte of the reflected IEEE 802.3 CRC-32 register. -/
def crc32Byte (reg b : Nat) : Nat :=
  let f := fun (r : Nat) => if r % 2 = 1 then (r / 2) ^^^ 0xedb88320 else r / 2
  f (f (f (f (f (f (f (f (reg ^^^ (b % 256)))))))))

/-- The frame check sequence of a frame's bytes, as sent. (PRESUMED, log 12) -/
def fcs (l : List Nat) : List Nat := leBytes 4 ((l.foldl crc32Byte 0xffffffff) ^^^ 0xffffffff)

/-- The 16-bit one's complement sum of a byte list. -/
def onesSum : List Nat → Nat
  | a :: b :: rest => let s := 256 * a + b + onesSum rest; s % 65536 + s / 65536
  | [a] => 256 * a
  | [] => 0

/-- The Internet checksum. (PRESUMED, log 12) -/
def inetSum (l : List Nat) : Nat := 65535 - onesSum l

/-! ### Transmitted frames (R252, R254) -/

/-- The port's MAC address, first octet first. -/
def Chip.ethMac (c : Chip) (n : Nat) : List Nat := beBytes 6 (c.pair 16 (R.ETH_MAC_L n))

/-- A link frame: addresses, the tag of R252, the type, the payload, padded to 60 bytes. -/
def Chip.linkFrame (c : Chip) (n : Nat) (dst : List Nat) (etype : Nat) (payload : List Nat) : List Nat :=
  let tag := if c.flag (R.ETH_CTRL n) F.ETH_CTRL_VLAN_EN then
      [0x81, 0x00] ++ beBytes 2 (c.fld (R.ETH_VLAN n) F.ETH_VLAN_PCP * 8192 + c.fld (R.ETH_VLAN n) F.ETH_VLAN_VID)
    else []
  let f := dst ++ c.ethMac n ++ tag ++ beBytes 2 etype ++ payload
  f ++ zeros (60 - f.length)

/-- An IPv4 UDP datagram (R254). -/
def Chip.udpDatagram (c : Chip) (n dstIp dstPort : Nat) (data : List Nat) : List Nat :=
  let src := beBytes 4 (c.rn (R.ETH_IP n))
  let dst := beBytes 4 dstIp
  let h := fun (sum : Nat) =>
    [0x45, c.fld (R.ETH_IPCFG n) F.ETH_IPCFG_DSCP * 4] ++ beBytes 2 (28 + data.length) ++ [0, 0, 0x40, 0,
      c.fld (R.ETH_IPCFG n) F.ETH_IPCFG_TTL, 17] ++ beBytes 2 sum ++ src ++ dst
  let u := fun (sum : Nat) =>
    beBytes 2 (c.fld R.ORT_CTRL F.ORT_CTRL_UDP_PORT) ++ beBytes 2 dstPort ++ beBytes 2 (8 + data.length) ++ beBytes 2 sum ++ data
  let usum := inetSum (src ++ dst ++ [0, 17] ++ beBytes 2 (8 + data.length) ++ u 0)
  h (inetSum (h 0)) ++ u (if usum = 0 then 65535 else usum)

/-- A UDP frame of the port to a next hop. (PRESUMED, log 12) -/
def Chip.udpFrame (c : Chip) (n : Nat) (hop : List Nat) (dstIp dstPort : Nat) (data : List Nat) : List Nat :=
  c.linkFrame n hop 0x0800 (c.udpDatagram n dstIp dstPort data)

/-- The Ortos common header (Table 6-6). -/
def ortosHeader (kind length flags engine stamp channel seq : Nat) : List Nat :=
  leBytes 2 0x7a0d ++ [1, kind] ++ leBytes 2 length ++ leBytes 2 flags ++ leBytes 8 engine ++ leBytes 10 stamp ++ leBytes 2 channel ++
    leBytes 4 seq

/-- This engine's identifier. -/
def Chip.engineId (c : Chip) : Nat := c.pair 32 R.ORT_ENGINE_ID_L

/-- A port's link is up. -/
def Chip.ethUp (c : Chip) (n : Nat) : Bool := c.flag (R.ETH_STAT n) F.ETH_STAT_LINK

/-! ### Received frames (R253, Table 11-5) -/

/-- MAXFRAME in force. -/
def Chip.maxFrame (c : Chip) (n : Nat) : Nat := max 1518 (min 9216 (c.fld (R.ETH_MAXFRAME n) F.ETH_MAXFRAME_MAXFRAME))

/-- A received frame without its FCS, taken apart. -/
structure RxFrame where
  dst : List Nat
  src : List Nat
  tag : Option Nat
  etype : Nat
  body : List Nat
  deriving DecidableEq, Repr

/-- Addresses, tag, type and body of a frame without its FCS; a port without VLAN_EN handles no tags (R252). (PRESUMED, log 12;
DEDUCED, log 44) -/
def rxParse (tags : Bool) (f : List Nat) : RxFrame :=
  let t := beAt f 12 2
  if tags && decide (t = 0x8100) then ⟨slice f 0 6, slice f 6 6, some (beAt f 14 2), beAt f 16 2, f.drop 18⟩
  else ⟨slice f 0 6, slice f 6 6, none, t, f.drop 14⟩

/-- A broadcast ARP request. -/
def RxFrame.bcastArp (r : RxFrame) : Bool :=
  decide (r.dst = List.replicate 6 255) && decide (r.etype = 0x0806) && decide (beAt r.body 6 2 = 1)

/-- The tag rule of R252 is met. -/
def Chip.vlanOk (c : Chip) (n : Nat) (r : RxFrame) : Bool :=
  if c.flag (R.ETH_CTRL n) F.ETH_CTRL_VLAN_EN then
    match r.tag with
    | some t => decide (t % 4096 = c.fld (R.ETH_VLAN n) F.ETH_VLAN_VID)
    | none => c.flag (R.ETH_CTRL n) F.ETH_CTRL_RX_UNTAGGED
  else true

/-- The UDP payload of an IPv4 body. -/
def udpPayload (ip : List Nat) : List Nat := slice ip 28 (beAt ip 24 2 - 8)

/-- The UDP checksum is absent or right, and its length lies within the datagram. -/
def udpSumOk (ip : List Nat) : Bool :=
  let ulen := beAt ip 24 2
  let u := slice ip 20 ulen
  decide (8 ≤ ulen) && decide (ulen + 20 ≤ beAt ip 2 2) &&
    (decide (beAt ip 26 2 = 0) || decide (onesSum (slice ip 12 8 ++ [0, 17] ++ beBytes 2 ulen ++ u) = 65535))

/-- The IPv4 checks 5 to 10 of Table 11-5. -/
def Chip.ipReason (c : Chip) (n : Nat) (ip : List Nat) : Nat :=
  let kind := (udpPayload ip).getD 3 0
  firstReason [
    (decide (ip.length < 20) || decide (beAt ip 0 1 ≠ 0x45) || decide (onesSum (slice ip 0 20) ≠ 65535) || decide (beAt ip 2 2 > ip.length), 5),
    (decide (beAt ip 6 2 % 16384 ≠ 0), 6),
    (decide (beAt ip 16 4 ≠ c.rn (R.ETH_IP n)), 7),
    (decide (beAt ip 9 1 ≠ 17), 8),
    (decide (beAt ip 22 2 ≠ c.fld R.ORT_CTRL F.ORT_CTRL_UDP_PORT) || !udpSumOk ip, 9),
    (decide (kind < 2) || decide (kind > 4), 0xa)]

/-- A received frame without its FCS. -/
def rxBody (frame : List Nat) : List Nat := frame.take (frame.length - 4)

/-- The first check of Table 11-5 fails: FCS, length or FEC. -/
def Chip.rxBroken (c : Chip) (n : Nat) (frame : List Nat) (fecOk : Bool) : Bool :=
  !fecOk || decide (frame.length < 64) || decide (frame.length > c.maxFrame n) ||
    decide (fcs (rxBody frame) ≠ frame.drop (frame.length - 4))

/-- A PAUSE or priority flow control frame: MAC control type 0x8808, opcode 0x0001 or 0x0101, in a sound frame. It is discarded without effect
(R252; PRESUMED, log 12). -/
def Chip.rxPause (c : Chip) (n : Nat) (frame : List Nat) (fecOk : Bool) : Bool :=
  let r := rxParse (c.flag (R.ETH_CTRL n) F.ETH_CTRL_VLAN_EN) (rxBody frame)
  !c.rxBroken n frame fecOk && decide (r.etype = 0x8808) && (decide (beAt r.body 0 2 = 0x0001) || decide (beAt r.body 0 2 = 0x0101))

/-- The reason a received frame is dropped, or 0. -/
def Chip.rxReason (c : Chip) (n : Nat) (frame : List Nat) (fecOk : Bool) : Nat :=
  let r := rxParse (c.flag (R.ETH_CTRL n) F.ETH_CTRL_VLAN_EN) (rxBody frame)
  let early := firstReason [
    (c.rxBroken n frame fecOk, 1),
    (decide (r.dst ≠ c.ethMac n) && !r.bcastArp, 2),
    (!c.vlanOk n r, 3),
    (decide (r.etype ≠ 0x0800) && decide (r.etype ≠ 0x0806), 4)]
  if early ≠ 0 then early else if r.etype = 0x0806 then 0 else c.ipReason n r.body

end Sys2Proof.Machine
end

