-- ==== Sys2Proof/Machine/Notice.lean ====
section
/-! DEFINITION. Peer notices (spec 06, R150 to R158): forming and sending them, their repeats, the checks on a received one, and the
hold instants of sequencer holds and notices (R141). -/

namespace Sys2Proof.Machine

/-! ### Sending (R154, R155) -/

/-- A notice frame is dropped. -/
def Chip.noticeDrop (c : Chip) : Chip := (c.addCnt R.ORT_NTC_DROP 1).raise Ev.noticeDrop

/-- A port takes a notice frame: its link is up and its transmit queue has room (R155). (DESIGN CHOICE, log 71) -/
def Chip.noticeFits (c : Chip) (port : Nat) : Bool := c.ethUp port && decide ((c.eth port).notices.length < c.ort.txRoom)

/-- A notice frame waits on its port, or is dropped (R155). -/
def Chip.noticeQueue (c : Chip) (port : Nat) (frame : List Nat) (again : Bool) : Chip :=
  if c.noticeFits port then
    let e := c.eth port
    c.setEth port { e with notices := e.notices ++ [(frame, again)] }
  else c.noticeDrop

/-- What a NOTICE action asks: partition, sequencer, window, trigger stamp, MARK_CODE. -/
structure NoticeAsk where
  part : Nat
  sq : Nat
  start : Int
  stop : Int
  trig : Nat
  code : Nat
  deriving DecidableEq, Repr

/-- The 96 bytes of a notice (Tables 6-6 and 6-7). -/
def Chip.noticeBytes (c : Chip) (i seq : Nat) (a : NoticeAsk) : List Nat :=
  let m := ortosHeader 2 96 0 c.engineId c.now 0 seq ++ leBytes 10 (unsignedOf 80 a.start) ++ leBytes 10 (unsignedOf 80 a.stop) ++
    leBytes 10 a.trig ++ [a.part, a.sq, a.code] ++ zeros 15
  m ++ c.mac (R.ORT_PS_KEY i 0) m

/-- Frames formed within the last 4 µs. -/
def Chip.formedNow (c : Chip) : List Nat := c.ort.formed.filter (fun t => decide (c.epc.line - t < 4 * micro))

/-- One frame for slot i is formed, or dropped (R154, R155). (DEDUCED, log 41) -/
def Chip.noticeForm (c : Chip) (i : Nat) (a : NoticeAsk) : Chip :=
  let c1 := c.addCnt (R.ORT_PS_SEQ_TX i) 1
  let recent := c.formedNow
  if recent.length ≥ 16 then c1.noticeDrop
  else
    let c2 := { c1 with ort := { c1.ort with formed := recent ++ [c.epc.line] } }
    let port := c.fld (R.ORT_PS_CTRL i) F.ORT_PS_CTRL_PORT
    let frame := c2.udpFrame port (beBytes 6 (c.pair 16 (R.ORT_PS_NH_L i))) (c.rn (R.ORT_PS_IP i)) (c.fld (R.ORT_PS_UDP i) F.ORT_PS_UDP_UDP)
      (c2.noticeBytes i (c2.rn (R.ORT_PS_SEQ_TX i)) a)
    let again := c.fld R.ORT_CTRL F.ORT_CTRL_REPEAT
    let c3 := c2.noticeQueue port frame false
    if again = 0 ∨ c2.noticeFits port = false then c3
    else { c3 with ort := { c3.ort with repeats := c3.ort.repeats ++ [⟨port, frame, again, c.epc.line + 100 * micro⟩] } }

/-- The slots a partition's NOTICE actions go to. -/
def Chip.noticeSlots (c : Chip) (p : Nat) : List Nat :=
  if c.flag R.ORT_CTRL F.ORT_CTRL_NTC_TX_EN then
    (List.range 16).filter (fun i => c.flag (R.ORT_PS_CTRL i) F.ORT_PS_CTRL_TX_EN && bit (c.rn (R.ORT_PS_TXPART i)) p)
  else []

/-- A NOTICE action: one frame for each routed slot, in ascending order (R154). (DEDUCED, log 41) -/
def Chip.noticeSend (c : Chip) (a : NoticeAsk) : Chip := (c.noticeSlots a.part).foldl (fun c i => c.noticeForm i a) c

/-- The repeat copy that is due first. -/
def firstRepeat (l : List NoticeRepeat) : Option NoticeRepeat :=
  l.foldl (fun best r => match best with
    | none => some r
    | some b => if r.due < b.due then some r else some b) none

/-- NOTICE_REPEAT (R154): the next repeat copy is sent when its time comes. -/
def doNoticeRepeat (c : Chip) : Chip :=
  match firstRepeat c.ort.repeats with
  | none => c
  | some r =>
    let c1 := c.waitLine r.due
    let rest := c1.ort.repeats.erase r
    let next := if r.left ≤ 1 then [] else [{ r with left := r.left - 1, due := r.due + 100 * micro }]
    { c1 with ort := { c1.ort with repeats := rest ++ next } }.noticeQueue r.port r.frame true

/-! ### Receiving (R156 to R158) -/

/-- The keeper has no epoch: IDLE or SEEK. -/
def Chip.noEpoch (c : Chip) : Bool := decide (c.fld R.EPC_STAT F.EPC_STAT_STATE < 2)

/-- The order test of R157 fails. -/
def orderFails (known : Bool) (ls lq stamp seq : Nat) : Bool :=
  known && !(decide (stamp > ls) ||
    (decide (stamp = ls) && decide (1 ≤ (seq + 2 ^ 32 - lq) % 2 ^ 32) && decide ((seq + 2 ^ 32 - lq) % 2 ^ 32 ≤ 2 ^ 31 - 1)))

/-- STAMP is further from the present than `ORT_FRESH`. -/
def Chip.stale (c : Chip) (stamp : Nat) : Bool :=
  let lim := max 1000 (min 60000000 (c.rn R.ORT_FRESH))
  decide (((stamp : Int) - c.now).natAbs * 1000000 > lim * 68719476736)

/-- The slot that receives from an engine. -/
def Chip.peerSlot (c : Chip) (id : Nat) : Option Nat :=
  (List.range 16).find? (fun i => c.flag (R.ORT_PS_CTRL i) F.ORT_PS_CTRL_RX_EN && decide (c.pair 32 (R.ORT_PS_ID_L i) = id))

/-- A PEER_REJECT record (Table 16-5). -/
def Chip.peerReject (c : Chip) (f : List Nat) (reason slot : Nat) : Chip :=
  c.record 0x0a 10 c.now (slice f 8 8 ++ slice f 16 10 ++ slice f 28 4 ++ [reason, slot])

/-- A notice that fails before a slot is found. -/
def Chip.noticeUnknown (c : Chip) (f : List Nat) (reason : Nat) : Chip :=
  ((c.addCnt R.ORT_NTC_UNK 1).raiseTyped Ev.noticeReject).peerReject f reason 0xff

/-- A notice that fails afterwards. -/
def Chip.noticeFail (c : Chip) (f : List Nat) (i reason : Nat) : Chip :=
  (((c.addCnt (R.ORT_PS_RX_REJ i) 1).setFld (R.ORT_PS_REJ_LAST i) F.ORT_PS_REJ_LAST_REASON reason).raiseTyped Ev.noticeReject).peerReject
    f reason i

/-- Bounds of the window a notice asks for. -/
def noticeWindow (f : List Nat) : Int × Int := ((leAt f 32 10 : Int), (leAt f 42 10 : Int))

/-- The reason a notice for slot i is rejected after the duplicate test, or before it (checks 3 and 4, 6 to 8 of Table 6-8). -/
def Chip.noticeEarly (c : Chip) (f : List Nat) (i : Nat) : Nat :=
  firstReason [(decide (c.mac (R.ORT_PS_KEY i 0) (slice f 0 80) ≠ slice f 80 16), 3), (c.noEpoch, 4)]
def Chip.noticeLate (c : Chip) (f : List Nat) (i : Nat) : Nat :=
  firstReason [
    (orderFails (bit c.ort.lsValid i) (c.triple (R.ORT_PS_LAST_L i)) (c.rn (R.ORT_PS_SEQ_RX i)) (leAt f 16 10) (leAt f 28 4), 5),
    (c.stale (leAt f 16 10), 6),
    (decide ((noticeWindow f).2 ≤ (noticeWindow f).1), 7)]

/-- An accepted notice (R158): its hold waits for its instant. -/
def Chip.noticeAccept (c : Chip) (f : List Nat) (i : Nat) : Chip :=
  let c1 := (c.setTriple (R.ORT_PS_LAST_L i) (leAt f 16 10)).setN (R.ORT_PS_SEQ_RX i) (leAt f 28 4)
  let c2 := { c1 with ort := { c1.ort with lsValid := maskSet c1.ort.lsValid i } }.addCnt (R.ORT_PS_RX_OK i) 1
  let w := noticeWindow f
  { c2 with noticeHolds := c2.noticeHolds ++ [⟨c.fld (R.ORT_PS_CTRL i) F.ORT_PS_CTRL_RX_PART, w.1, w.2, 3⟩] }

/-- A datagram whose KIND is notice (R156): `f` is the UDP payload. -/
def Chip.noticeReceive (c : Chip) (f : List Nat) : Chip :=
  if !c.flag R.ORT_CTRL F.ORT_CTRL_NTC_RX_EN then c
  else if leAt f 0 2 ≠ 0x7a0d ∨ leAt f 2 1 ≠ 1 ∨ leAt f 4 2 ≠ 96 ∨ f.length ≠ 96 then c.noticeUnknown f 1
  else
    match c.peerSlot (leAt f 8 8) with
    | none => c.noticeUnknown f 2
    | some i =>
      let early := c.noticeEarly f i
      if early ≠ 0 then c.noticeFail f i early
      else if bit c.ort.lsValid i && decide (leAt f 16 10 = c.triple (R.ORT_PS_LAST_L i)) && decide (leAt f 28 4 = c.rn (R.ORT_PS_SEQ_RX i)) then
        c.addCnt (R.ORT_PS_RX_DUP i) 1
      else
        let late := c.noticeLate f i
        if late ≠ 0 then c.noticeFail f i late else c.noticeAccept f i

/-! ### Hold instants (R141) -/

/-- A waiting hold is judged in each partition it names. -/
def Chip.holdReqJudge (c : Chip) (h : HoldReq) : Chip :=
  (maskList 16 h.parts).foldl (fun c p => c.holdInternal p h.start h.stop h.source) c

/-- SEQ_HOLD_INSTANT (R141): the oldest sequencer hold that waits is judged. -/
def doSeqHoldInstant (c : Chip) : Chip :=
  match c.seqHolds with
  | [] => c
  | h :: rest => { c with seqHolds := rest }.holdReqJudge h

/-- NOTICE_HOLD_INSTANT (R158): the oldest accepted notice that waits is judged, in Gale; one that arrived in Breeze waits for the exit
(R166). In Safe it is judged too, and rejected (R429). -/
def doNoticeHoldInstant (c : Chip) : Chip :=
  match c.noticeHolds with
  | [] => c
  | h :: rest => if c.inGale || c.inSafe then { c with noticeHolds := rest }.holdReqJudge h else c

end Sys2Proof.Machine
end

