-- ==== Sys2Proof/Machine/Dram.lean ====
section
/-! DEFINITION. The DRAM controller (spec 13): capture addresses, the channels' queues and scheduling, refresh and temperature, row
disturbance, errors, self-refresh and its races, and the training helpers. -/

namespace Sys2Proof.Machine

/-! ### What the DRAM returns for stored bytes (R300) -/

/-- What becomes of the byte at capture address `a`: 0 as stored, 2 zero as part of an uncorrectable codeword, 3 not stated. -/
def Chip.capBad (c : Chip) (a : Nat) : Nat :=
  let m := c.capMap a
  cnt0 (c.mcCh m.1).bad (m.2 / 128)

/-- Bytes stored from `a` on as a read returns them: zeros for uncorrectable codewords, and bytes that nothing states where an error over four or
more lanes went undetected (R298, R300). (DEDUCED, log 43; DESIGN CHOICE, log 3) -/
def Chip.dramSee (c : Chip) (a : Nat) (bytes : List Nat) : List Nat :=
  if (List.range 8).all (fun n => (c.mcCh n).bad.isEmpty) then bytes
  else (bytes.zip (List.range bytes.length)).map (fun x => match c.capBad (a + x.2) with
    | 0 => x.1
    | 3 => (Config.dramWild (a + x.2)).toNat
    | _ => 0)

/-! ### Errors (R299, R300) -/

/-- A MEM_ERROR record of a channel (Table 16-5). -/
def Chip.mcErrRecord (c : Chip) (ch kind lane source req cw : Nat) : Chip :=
  c.record 0x0b (40 + ch) c.now ([ch, kind, lane, source, req, 0, 0, 0] ++ leBytes 8 cw)

/-- LANE_THR in force. -/
def Chip.laneThr (c : Chip) : Nat := max 1 (c.fld R.MCX_ECC_CFG F.MCX_ECC_CFG_LANE_THR)

/-- A corrected error (R299). -/
def Chip.mcCe (c : Chip) (ch cw lane source req : Nat) : Chip :=
  let c1 := (c.addCnt (R.MC_CE_CNT ch) 1).addCnt (R.MC_LANE_CE ch lane) 1
  let c2 := c1.setFld (R.MC_CE_LAST ch) F.MC_CE_LAST_ADDR cw
  let c3 := ((c2.setFld (R.MC_CE_INFO ch) F.MC_CE_INFO_LANE lane).setFld (R.MC_CE_INFO ch) F.MC_CE_INFO_SOURCE source).setFld
    (R.MC_CE_INFO ch) F.MC_CE_INFO_REQ req
  let c4 := (c3.raiseTyped (Ev.mcCe ch)).mcErrRecord ch 1 lane source req cw
  let m := c4.mcCh ch
  if c4.rn (R.MC_LANE_CE ch lane) ≥ c4.laneThr ∧ bit m.laneDone lane = false then
    (c4.setMcCh ch { m with laneDone := maskSet m.laneDone lane }).raise (Ev.mcLane ch)
  else c4

/-- What the decoder makes of a codeword whose listed lanes are in error, each in the interleaves of its mask: 0 good, 1 corrected, 2 detected,
3 without guarantee; and the lane of a corrected one (R298). -/
def lanesOutcome (errs : List (Nat × Nat)) : Nat × Nat :=
  let real := errs.filter (fun e => decide (e.2 % 16 ≠ 0))
  let lanes := distinct (real.map Prod.fst)
  let inBit := fun (i : Nat) => (lanes.filter (fun l => real.any (fun e => decide (e.1 = l) && bit e.2 i))).length
  match lanes with
  | [] => (0, 255)
  | [l] => (1, l)
  | [_, _] => (2, 255)
  | [_, _, _] => (2, 255)
  | _ => if (List.range 4).all (fun i => decide (inBit i ≤ 1)) then (2, 255) else (3, 255)

/-- An uncorrectable error (R300): the codeword reads as zeros from here on. The lane of its record is not stated: a free value.
(DESIGN CHOICE, log 3) -/
def Chip.mcUe (c : Chip) (ch cw source req : Nat) : Chip :=
  let m := c.mcCh ch
  let c1 := (c.setMcCh ch { m with bad := put0 m.bad cw 2 }).addCnt (R.MC_UE_CNT ch) 1
  let c2 := c1.setFld (R.MC_UE_LAST ch) F.MC_UE_LAST_ADDR cw
  let c3 := (c2.setFld (R.MC_UE_INFO ch) F.MC_UE_INFO_SOURCE source).setFld (R.MC_UE_INFO ch) F.MC_UE_INFO_REQ req
  (c3.raiseTyped (Ev.mcUe ch)).used.mcErrRecord ch 2 (c.freeNow.toNat % 256) source req cw

/-- An error over four or more lanes, of which the spec guarantees nothing (R298): it goes unnoticed, is taken for a corrected one in some lane, or
is detected; where it is not detected, nothing states what the codeword reads as from here on. (DESIGN CHOICE, log 3) -/
def Chip.mcWild (c : Chip) (ch cw source req : Nat) : Chip :=
  let o := c.freeNow.toNat
  let m := c.used.mcCh ch
  let c1 := c.used.setMcCh ch { m with bad := put0 m.bad cw 3 }
  match o % 3 with
  | 0 => c1
  | 1 => c1.mcCe ch cw (o / 3 % 20) source req
  | _ => c.used.mcUe ch cw source req

/-! ### Self-refresh and its races (R316, R317, R440) -/

/-- Microseconds of the synthesiser timeline since `t`. -/
def Chip.microsSince (c : Chip) (t : Nat) : Nat := (c.epc.line - t) / micro

/-- A POWER record (Table 19-8). -/
def powerPayload (old new cause wakeSrc init entry time : Nat) : List Nat :=
  [old, new, cause, wakeSrc, init, entry, 0, 0] ++ leBytes 4 time ++ [0, 0, 0, 0]

/-- The synthesiser's state lets the sample clock run at the samplers (R283, R288, Table 12-1). -/
def Chip.clockFed (c : Chip) : Bool :=
  match c.fld R.CLK_STAT F.CLK_STAT_STATE with
  | 2 => true
  | 3 => true
  | 4 => true
  | 6 => !c.clk.returnHeld
  | _ => false

/-- A descent met by a readout request ends in Breeze, with the sample clock and `PEN2` as that state has them (R440, Table 19-3). -/
def Chip.descentAbort (c : Chip) : Chip :=
  match c.pwr.down with
  | none => c
  | some d =>
    let c0 := { c with pwr := { c.pwr with down := none }, pins := { c.pins with pen := maskSet c.pins.pen 2 } }
    let c1 := c0.sampleRelease c0.clockFed
    let c2 := ((c1.setFlag R.PWR_STAT F.PWR_STAT_BUSY false).setFld R.PWR_STAT F.PWR_STAT_TARGET 0).addCnt R.PWR_ABORT_CNT 1
    (c2.raiseTyped Ev.pwrAbort).record 0x0f 3 c2.now (powerPayload c2.ladder c2.ladder 6 0xff d.init d.entry (c2.microsSince d.reqAt))

/-- Entry is abandoned: the controller returns to the state before it (R317). -/
def Chip.srAbandon (c : Chip) : Chip :=
  let c1 := (c.setMcState c.mc.srPrior).addCnt R.MCX_SR_ABORT 1
  let c2 := if c.mc.srBy = 2 then c1.descentAbort else c1
  { c2 with mc := { c2.mc with srBy := 0 } }

/-- The exit command is issued once the residency is over. -/
def Chip.srExitNow (c : Chip) : Chip := { c with mc := { c.mc with exitDue := false } }.setMcState 6

/-- Self-refresh is to be left: at once, or at the end of the residency (R316, R317). -/
def Chip.srLeave (c : Chip) : Chip := if c.mc.residency then { c with mc := { c.mc with exitDue := true } } else c.srExitNow

/-- A request arrives: the engine after it, and whether the request can be served now. During entry it abandons entry; past the commit
point it waits for the exit (R317). (DEDUCED, log 45) -/
def Chip.dramArrive (c : Chip) : Chip × Bool :=
  match c.mcState with
  | 2 => (c, true)
  | 3 => (c, true)
  | 4 => (c.srAbandon, true)
  | 5 => (c.srLeave, false)
  | _ => (c, false)

/-- A request of `req` that finds the DRAM past the commit point waits with its runs, and is counted once (R317). -/
def Chip.lateOnce (c : Chip) (req : Nat) (runs : List (Nat × DramReq)) : Chip :=
  if c.mc.late.any (fun l => decide (l.1 = req) && l.2.isEmpty) && runs.isEmpty then c
  else { c with mc := { c.mc with late := c.mc.late ++ [(req, runs)] } }.addCnt R.MCX_SR_LATE 1

/-- A request of `req` with the runs it makes arrives: the engine, and whether it can be served now (R317). -/
def Chip.arriveWith (c : Chip) (req : Nat) (runs : List (Nat × DramReq)) : Chip × Bool :=
  let a := c.dramArrive
  if a.2 || decide (c.mcState < 5) then a else (a.1.lateOnce req runs, false)

/-- A request arrives that its sender offers again once it can be served. -/
def Chip.arrive (c : Chip) (req : Nat) : Chip × Bool := c.arriveWith req []

/-! ### Refresh (R309, R310) -/

/-- `MCn_REF_DEBT` as the debts stand. -/
def Chip.refDebt (c : Chip) (ch : Nat) : Chip :=
  c.setFld (R.MC_REF_DEBT ch) F.MC_REF_DEBT_DEBT ((c.mcCh ch).debt.foldl (fun m d => max m d.2) 0)

/-- A rank's rows close. -/
def closeRank (rank : Nat) (rows : List (Nat × Nat)) : List (Nat × Nat) := rows.filter (fun r => decide (r.1 / 32 ≠ rank))

/-- A refresh of a rank is carried out. -/
def Chip.refreshRank (c : Chip) (ch rank : Nat) : Chip :=
  let m := c.mcCh ch
  c.setMcCh ch { m with openRow := closeRank rank m.openRow }

/-- One postponed refresh of a rank is paid. -/
def Chip.payRefresh (c : Chip) (ch rank : Nat) : Chip :=
  let c1 := c.refreshRank ch rank
  let m := c1.mcCh ch
  (c1.setMcCh ch { m with debt := put0 m.debt rank (cnt0 m.debt rank - 1) }).refDebt ch

/-- The rank that owes most, if any owes. -/
def owing (debt : List (Nat × Nat)) : Option Nat :=
  (debt.foldl (fun best d => match best with
    | none => some d
    | some b => if b.2 < d.2 then some d else some b) none).map (fun d => d.1)

/-- POSTPONE in force. -/
def Chip.postpone (c : Chip) : Nat := min 4 (c.fld R.MCX_REF_CFG F.MCX_REF_CFG_POSTPONE)

/-- REFRESH_WINDOW_START (R312, R313): the trackers clear and the window's throttles end. -/
def doRefreshWindowStart (ch : Nat) (c : Chip) : Chip :=
  c.setMcCh ch { c.mcCh ch with trackers := [], throttle := [], throttleAt := [] }

/-! ### Row disturbance (R312, R313) -/

/-- THRESH in force. -/
def Chip.hamThresh (c : Chip) : Nat := max 512 (c.fld R.MCX_HAM_CFG F.MCX_HAM_CFG_THRESH)

/-- A tracker after an activation. -/
def trackRow (t : List RowEntry) (row req : Nat) : List RowEntry :=
  if t.any (fun e => decide (e.row = row)) then
    t.map (fun e => if e.row = row then { e with count := e.count + 1, mask := maskSet e.mask req } else e)
  else if t.length < 32 then t ++ [⟨row, 1, 2 ^ req⟩]
  else (t.map (fun e => { e with count := e.count - 1 })).filter (fun e => decide (e.count ≠ 0))

/-- The throttled set of a mask. -/
def throttledSet (mask : Nat) : Nat := if mask / 256 ≠ 0 then mask / 256 * 256 else mask

/-- Requester `req` may activate the bank now. -/
def Chip.mayActivate (c : Chip) (ch bank req : Nat) : Bool :=
  let m := c.mcCh ch
  !bit (cnt0 m.throttle bank) req || decide (cnt0 m.throttleAt (16 * bank + req) = 0) ||
    decide (cnt0 m.throttleAt (16 * bank + req) + 400 * (micro / 1000) ≤ c.epc.line + 1)

/-- A row is activated for a requester; where a count reaches THRESH the bank is due refresh management (R312, R313). -/
def Chip.activate (c : Chip) (ch bank row req : Nat) : Chip :=
  let m := c.mcCh ch
  let t := trackRow (SMap.get (fun _ => []) m.trackers bank) row req
  let m1 := { m with openRow := SMap.put m.openRow bank row, trackers := SMap.put m.trackers bank t,
                     throttleAt := put0 m.throttleAt (16 * bank + req) (c.epc.line + 1) }
  match t.find? (fun e => decide (e.row = row)) with
  | none => c.setMcCh ch m1
  | some e =>
    if e.count < c.hamThresh then c.setMcCh ch m1
    else
      let set := throttledSet e.mask
      let m2 := { m1 with trackers := SMap.put m1.trackers bank (t.filter (fun x => decide (x.row ≠ row)))
                          throttle := put0 m1.throttle bank (cnt0 m1.throttle bank ||| set)
                          rfm := if m1.rfm.contains bank then m1.rfm else m1.rfm ++ [bank] }
      let c1 := (c.setMcCh ch m2).addCnt (R.MC_HAM_CNT ch) 1
      let l := R.MC_HAM_LAST ch
      let c2 := ((c1.setFld l F.MC_HAM_LAST_BANK (bank % 32)).setFld l F.MC_HAM_LAST_RANK (bank / 32)).setFld l F.MC_HAM_LAST_REQ req
      ((c2.setFld l F.MC_HAM_LAST_ROW row).setFld (R.MC_HAM_MASK ch) F.MC_HAM_MASK_MASK set).raise (Ev.mcHammer ch)

/-! ### Scheduling (R305) -/

/-- The row of a run's next codeword is open. -/
def Chip.rowOpen (c : Chip) (ch : Nat) (r : DramReq) : Bool :=
  let b := c.bankRow ch r.addr
  (c.mcCh ch).openRow.any (fun o => decide (o.1 = b.1) && decide (o.2 = b.2))

/-- A codeword is being merged (R301): requests to it wait. -/
def McCh.merging (m : McCh) (cw : Nat) : Bool := m.merge.any (fun x => decide (x.2 = cw))

/-- A merge is under way in a bank: its row stays open until the codeword is written back (R301). -/
def Chip.bankMerging (c : Chip) (ch bank : Nat) : Bool := (c.mcCh ch).merge.any (fun x => decide ((c.bankRow ch (128 * x.2)).1 = bank))

/-- Codewords up to the end of a unit are queued for it (R314). -/
def McCh.endQueued (m : McCh) (k : Nat) : Bool :=
  m.writes.any (fun w => w.data && decide (w.addr / 4096 = k) && decide (4096 * (k + 1) ≤ w.addr + 128 * w.count) && !w.rmwLast)

/-- A lane group has no more data on its way. -/
def Lane.drained (l : Lane) : Bool := l.forming.isNone && l.staged.isEmpty && l.codec.busy.isEmpty && l.codec.out.isEmpty

/-- A writer's run would need a unit's fourth activation, before the rest of the unit is there (R314). (DESIGN CHOICE, log 68) -/
def Chip.unitHeld (c : Chip) (ch : Nat) (r : DramReq) : Bool :=
  let m := c.mcCh ch
  let k := r.addr / 4096
  r.data && decide (3 ≤ cnt0 m.acts k) && !m.endQueued k && !(c.lane r.req).drained

/-- A run can go next: its codeword is not being merged, and its row is open or may be opened. -/
def Chip.runReady (c : Chip) (ch : Nat) (r : DramReq) : Bool :=
  let bank := (c.bankRow ch r.addr).1
  !(c.mcCh ch).merging (r.addr / 128) &&
    (c.rowOpen ch r || (c.mayActivate ch bank r.req && !c.bankMerging ch bank && !c.unitHeld ch r))

/-- A read waits for an earlier write of its requester to the same codeword. -/
def Chip.readBehind (c : Chip) (ch : Nat) (r : DramReq) : Bool :=
  (c.mcCh ch).writes.any (fun w => decide (w.req = r.req) && decide (w.addr ≤ r.addr) && decide (r.addr < w.addr + 128 * w.count))

/-- How far a requester stands from its turn in the rotation after `last`; the request begun goes on. -/
def turn (last : Nat) (r : DramReq) : Nat := if r.begun then 0 else 1 + (r.req + 31 - last) % 16

/-- The first of a list by a measure. -/
def leastBy (f : DramReq → Nat) (l : List DramReq) : Option DramReq :=
  l.foldl (fun best r => match best with
    | none => some r
    | some b => if f r < f b then some r else some b) none

/-- The write that goes next: open rows first, then age. -/
def Chip.nextWrite (c : Chip) (ch : Nat) : Option DramReq :=
  let ws := (c.mcCh ch).writes.filter (c.runReady ch)
  match ws.find? (c.rowOpen ch) with
  | some w => some w
  | none => ws.head?

/-- The read that goes next, with reads offered beside the queue: open rows first, then the rotation (R305, rule 3). -/
def Chip.pickRead (c : Chip) (ch : Nat) (more : List DramReq) : Option DramReq :=
  let m := c.mcCh ch
  let rs := (m.reads ++ more).filter (fun r => c.runReady ch r && !c.readBehind ch r)
  match leastBy (turn m.lastReq) (rs.filter (c.rowOpen ch)) with
  | some r => some r
  | none => leastBy (turn m.lastReq) rs

/-- The read of the queue that goes next. -/
def Chip.nextRead (c : Chip) (ch : Nat) : Option DramReq := c.pickRead ch []

/-- A run without its first codeword. -/
def DramReq.rest (r : DramReq) : List DramReq :=
  if r.count ≤ 1 then [] else [{ r with addr := r.addr + 128, count := r.count - 1, rmwFirst := false, begun := true }]

/-- The first codeword of the run is written in part. -/
def DramReq.partialFirst (r : DramReq) : Bool := r.rmwFirst || (decide (r.count ≤ 1) && r.rmwLast)

/-- Replace a run in a queue by what is left of it. -/
def takeRun (l : List DramReq) (r : DramReq) : List DramReq :=
  match l with
  | [] => []
  | x :: rest => if x = r then r.rest ++ rest else x :: takeRun rest r

/-- The run begins a unit's pass: it writes from the unit's first byte on (R314). -/
def DramReq.beginsUnit (r : DramReq) : Bool := r.data && decide (r.addr % 4096 = 0) && !r.rmwFirst

/-- The row of a run's next codeword is opened if it is not; a writer's activation counts on its unit (R314). -/
def Chip.openFor (c : Chip) (ch : Nat) (r : DramReq) : Chip :=
  let m0 := c.mcCh ch
  let k := r.addr / 4096
  let c0 := if r.beginsUnit then c.setMcCh ch { m0 with acts := put0 m0.acts k 0 } else c
  if c0.rowOpen ch r then c0
  else
    let b := c0.bankRow ch r.addr
    let c1 := c0.activate ch b.1 b.2 r.req
    if r.data then c1.setMcCh ch { c1.mcCh ch with acts := put0 (c1.mcCh ch).acts k (cnt0 (c1.mcCh ch).acts k + 1) } else c1

/-- One codeword of a write run is written, or, where it is written in part, read for its merge (R301). -/
def Chip.writeOne (c : Chip) (ch : Nat) (r : DramReq) : Chip :=
  let c1 := c.openFor ch r
  let m := c1.mcCh ch
  let cw := r.addr / 128
  if r.partialFirst then c1.setMcCh ch { m with writes := takeRun m.writes r, merge := m.merge ++ [(r.req, cw)] }
  else c1.setMcCh ch { m with writes := takeRun m.writes r, bad := put0 m.bad cw 0 }

/-- What is queued for unit `k` is written, up to `n` codewords of it. -/
def Chip.writeUnit (c : Chip) (ch k : Nat) : Nat → Chip
  | 0 => c
  | n + 1 =>
    match (c.mcCh ch).writes.find? (fun w => w.data && decide (w.addr / 4096 = k) && c.runReady ch w) with
    | none => c
    | some w => (c.writeOne ch w).writeUnit ch k n

/-- A write goes: one codeword, or, with a unit's fourth activation, all that is queued for the unit (R314). -/
def Chip.writeCodeword (c : Chip) (ch : Nat) (r : DramReq) : Chip :=
  let c1 := c.writeOne ch r
  if r.data && decide (4 ≤ cnt0 (c1.mcCh ch).acts (r.addr / 4096)) then c1.writeUnit ch (r.addr / 4096) 64 else c1

/-- The codeword of a merge comes back with its errors: the merged codeword is written, marked again where it was uncorrectable (R301). -/
def Chip.mergeReturn (c : Chip) (ch cw req e lane : Nat) : Chip :=
  let m := c.mcCh ch
  let c1 := (c.setMcCh ch { m with merge := m.merge.erase (req, cw) }).openFor ch { req := req, addr := 128 * cw, count := 1 }
  if e = 0 then c1
  else if e = 1 then c1.mcCe ch cw lane 2 req
  else if e = 2 then c1.mcUe ch cw 2 req
  else c1.mcWild ch cw 2 req

/-- One codeword of a read run is read; its data return later. -/
def Chip.readCodeword (c : Chip) (ch : Nat) (r : DramReq) : Chip :=
  let c1 := c.openFor ch r
  let m := c1.mcCh ch
  c1.setMcCh ch { m with reads := takeRun m.reads r, flight := m.flight ++ [(r.req, r.addr / 128)], lastReq := r.req }

/-- Draining as the queue stands (R305, rule 2). -/
def McCh.drainNow (m : McCh) : Bool := decide (192 ≤ queued m.writes) || (m.draining && decide (128 < queued m.writes))

/-- A merge is under way in a rank. -/
def Chip.rankMerging (c : Chip) (ch rank : Nat) : Bool := (c.mcCh ch).merge.any (fun x => decide ((c.bankRow ch (128 * x.2)).1 / 32 = rank))

/-- REFRESH_DUE (R309): the refresh is issued, or postponed while reads or writes are ready and the limit is not reached; a hot channel
postpones none (R310). One that meets a merge is issued after it (R301). -/
def doRefreshDue (ch rank : Nat) (c : Chip) : Chip :=
  let m := c.mcCh ch
  if c.mcActive && c.flag (R.MC_STAT ch) F.MC_STAT_READY && (decide (rank = 0) || c.flag (R.MC_STAT ch) F.MC_STAT_RANKS2) then
    let busy := (c.nextRead ch).isSome || (c.nextWrite ch).isSome
    if c.rankMerging ch rank || (busy && !c.flag (R.MC_STAT ch) F.MC_STAT_HOT && decide (cnt0 m.debt rank < c.postpone)) then
      (c.setMcCh ch { m with debt := put0 m.debt rank (cnt0 m.debt rank + 1) }).refDebt ch
    else c.refreshRank ch rank
  else c

/-- Refresh management of a bank (R313): its row closes. -/
def Chip.serveRfm (c : Chip) (ch bank : Nat) : Chip :=
  let m := c.mcCh ch
  c.setMcCh ch { m with rfm := m.rfm.filter (fun b => decide (b ≠ bank)), openRow := SMap.del m.openRow bank }

/-- A rank whose refresh may not be postponed any more: of a hot channel the one that owes most, else one that owes more than POSTPONE
(R305, rule 1; R309, R310). -/
def Chip.urgent (c : Chip) (ch : Nat) : Option Nat :=
  let due := (c.mcCh ch).debt.filter (fun d => !c.rankMerging ch d.1)
  if c.flag (R.MC_STAT ch) F.MC_STAT_HOT then owing due else owing (due.filter (fun d => decide (c.postpone < d.2)))

/-- DRAM_COMMAND (R305): a channel issues its next command. Refresh management goes before traffic, where its bank is not merging.
(DESIGN CHOICE, log 68) -/
def doDramCommand (ch : Nat) (c0 : Chip) : Chip :=
  let c := c0.mcFeed
  if c.mcActive && c.flag (R.MC_STAT ch) F.MC_STAT_READY then
    let m := c.mcCh ch
    let d := m.drainNow
    let c1 := c.setMcCh ch { m with draining := d }
    match c1.urgent ch, m.rfm.find? (fun b => !c.bankMerging ch b) with
    | some rank, _ => c1.payRefresh ch rank
    | none, some bank => c1.serveRfm ch bank
    | none, none =>
      match (if d then c1.nextWrite ch else none) with
      | some w => c1.writeCodeword ch w
      | none =>
        match c1.nextRead ch with
        | some r => c1.readCodeword ch r
        | none =>
          match c1.nextWrite ch with
          | some w => c1.writeCodeword ch w
          | none =>
            match owing (m.debt.filter (fun d => !c1.rankMerging ch d.1)) with
            | some rank => c1.payRefresh ch rank
            | none => c1
  else c

/-! ### The readout regulator (R306) -/

/-- The readout share in bytes a second (Table 13-1). -/
def Chip.readShare (c : Chip) : Nat := if c.nch = 4 then 32000000000 else 64000000000

/-- The bucket filled up to the present. -/
def Chip.fillTokens (c : Chip) : Chip :=
  let t := min (65536 * second) (c.mc.tokens + c.readShare * (c.epc.line - c.mc.tokensAt))
  { c with mc := { c.mc with tokens := t, tokensAt := c.epc.line } }

/-- The bucket holds `n` bytes, waiting if it must. -/
def Chip.waitTokens (c : Chip) (n : Nat) : Chip :=
  let c1 := c.fillTokens
  if c1.mc.tokens < n * second then
    (c1.waitLine (c1.epc.line + (n * second - c1.mc.tokens) / c1.readShare + 1)).fillTokens
  else c1

/-- A requester has nothing queued, in flight or waiting for self-refresh exit on a channel. -/
def Chip.reqIdle (c : Chip) (ch req : Nat) : Bool :=
  let m := c.mcCh ch
  !m.reads.any (fun r => decide (r.req = req)) && !m.flight.any (fun f => decide (f.1 = req)) &&
    !c.mc.late.any (fun l => decide (l.1 = req) && l.2.any (fun r => decide (r.1 = ch)))

/-- Time that `n` bytes take at a rate in bytes a second. -/
def paceOf (n rate : Nat) : Nat := n * second / rate

/-- An admitted request reaches the DRAM (R317). -/
def Chip.admitRuns (c : Chip) (req : Nat) (runs : List (Nat × DramReq)) : Chip :=
  let a := c.arriveWith req runs
  if a.2 then a.1.pushReads runs else a.1

/-- A request of up to 4 KiB lies in the space it names: capture space, or the engine region for the Steward (R304). -/
def Chip.readInside (c : Chip) (req bytes addr : Nat) (engine : Bool) : Bool :=
  decide (1 ≤ bytes) && decide (bytes ≤ 4096) &&
    (if engine then decide (req = 13) && decide (addr + bytes ≤ c.engBytes) else decide (addr + bytes ≤ c.capBytes))

/-- READOUT_ADMIT (R306, R317): a readout request is admitted when the bucket holds its bytes and the requester has no request on a channel it
names; a read of the Steward does not pass the regulator and keeps to 0.5 GB/s. (DEDUCED, log 45) -/
def doReadoutAdmit (req bytes addr : Nat) (engine : Bool) (c : Chip) : Chip :=
  let runs := if engine then c.engRuns req addr bytes else c.capRuns req addr bytes
  if c.readInside req bytes addr engine && decide (c.ladder ≤ 1) && decide (2 ≤ c.mcState) && c.queueFits McCh.reads runs then
    if req = 13 then
      let c1 := c.waitLine c.mc.stwAt
      { c1 with mc := { c1.mc with stwAt := c1.epc.line + paceOf bytes 500000000 } }.admitRuns req runs
    else if 8 ≤ req ∧ req ≤ 12 ∧ runs.all (fun r => c.reqIdle r.1 req) = true then
      let c1 := c.waitTokens bytes
      { c1 with mc := { c1.mc with tokens := c1.mc.tokens - bytes * second } }.admitRuns req runs
    else c
  else c

/-- A readout consumer pops a descriptor of a kind: a segment's needs a read of its table entry (R239), which waits for an exit from
self-refresh like any readout request and counts once (R317). (DEDUCED, log 45) -/
def Chip.popArrive (c : Chip) (req kind : Nat) : Chip × Bool := if kind ≠ 1 then (c, true) else c.arrive req

/-! ### Temperature (R310, R311, R427) -/

/-- The channel's byte of `MCX_TEMP0` or `_TEMP1`. -/
def Chip.setTemp (c : Chip) (ch : Nat) (t : Int) : Chip :=
  let a := if ch < 4 then R.MCX_TEMP0 else R.MCX_TEMP1
  c.setN a (putBits (c.rn a) (8 * (ch % 4)) 8 (unsignedOf 8 t))

/-- DRAM_TEMP_POLL: the DIMM's reading in °C, and for each rank a non-zero number where mode register 4 asks for a doubled rate.
(DEDUCED, log 45) -/
def doDramTempPoll (ch : Nat) (temp : Int) (mr4 : List Nat) (c : Chip) : Chip :=
  if c.flag (R.MC_STAT ch) F.MC_STAT_PRESENT then
    let doubled := mr4.any (fun x => decide (x ≠ 0))
    let m := c.mcCh ch
    let c1 := c.setTemp ch temp
    let c2 :=
      if !c.flag (R.MC_STAT ch) F.MC_STAT_HOT then
        if decide (85 ≤ temp) || doubled then
          ((((c1.setMcCh ch { m with debt := m.debt.map (fun d => (d.1, 2 * d.2)), coolRun := 0 }).refDebt ch).setFlag (R.MC_STAT ch)
            F.MC_STAT_HOT true).raise (Ev.mcHot ch))
        else c1
      else if decide (temp < 83) && !doubled then
        if m.coolRun ≥ 1 then
          (((c1.setMcCh ch { m with debt := [], coolRun := 0 }).refDebt ch).setFlag (R.MC_STAT ch) F.MC_STAT_HOT false).raise (Ev.mcCool ch)
        else c1.setMcCh ch { m with coolRun := 1 }
      else c1.setMcCh ch { m with coolRun := 0 }
    if 95 ≤ temp then
      let c3 := c2.raise (Ev.mcCrit ch)
      if c3.flag R.STW_THERM_CFG F.STW_THERM_CFG_DIMM_ACT then
        c3.declareFatal 8 ([4, ch] ++ leBytes 2 (unsignedOf 16 temp) ++ [0, 0, 0, 0]) c3.now false
      else c3
    else c2
  else c

/-! ### Patrol scrub and drift (R302, R321) -/

/-- Time between two codewords of a channel's scrub pass: PERIOD hours, 1 to 168, over the codewords of its DIMM (R302). -/
def Chip.scrubPace (c : Chip) (ch : Nat) : Nat :=
  max 1 (min 168 (c.fld R.MCX_SCRUB F.MCX_SCRUB_PERIOD)) * 3600 * second / max 1 ((c.mcCh ch).bytes / 128)

/-- Scrub runs on a channel (R302). -/
def Chip.scrubOn (c : Chip) (ch : Nat) : Bool :=
  c.flag R.MCX_SCRUB F.MCX_SCRUB_ACTIVE && decide (c.ladder ≤ 1) && decide (2 ≤ c.mcState) && decide (c.mcState ≤ 3) &&
    c.flag (R.MC_STAT ch) F.MC_STAT_READY && decide (0 < (c.mcCh ch).bytes)

/-- The read of the next codeword to scrub is the channel's next command: no refresh or refresh management is due before it, no drain goes on,
and the rotation has come to it (R305). -/
def Chip.scrubTurn (c : Chip) (ch : Nat) (r : DramReq) : Bool :=
  let m := c.mcCh ch
  (c.urgent ch).isNone && m.rfm.isEmpty && !(m.drainNow && (c.nextWrite ch).isSome) && decide (c.pickRead ch [r] = some r)

/-- PATROL_SCRUB_READ (R302, R305): at its time, and in its turn, the codeword at the scrub position is read; a corrected one is written back.
Scrub keeps to 0.1 GB/s (R306). (DEDUCED, log 45) -/
def doPatrolScrubRead (ch : Nat) (errs : List (Nat × Nat)) (c : Chip) : Chip :=
  if c.scrubOn ch then
    let c0 := c.waitLine (max c.mc.scrubAt (c.mcCh ch).scrubDue)
    let cw := c0.fld (R.MC_SCRUB_POS ch) F.MC_SCRUB_POS_POS
    let r : DramReq := { req := 14, addr := 128 * cw, count := 1 }
    if c0.scrubTurn ch r then
      let o := c0.openFor ch r
      let m := o.mcCh ch
      let c1 := { o.setMcCh ch { m with lastReq := 14, scrubDue := max o.epc.line (m.scrubDue + c.scrubPace ch) } with
        mc := { (o.setMcCh ch { m with lastReq := 14, scrubDue := max o.epc.line (m.scrubDue + c.scrubPace ch) }).mc with
          scrubAt := o.epc.line + paceOf 128 100000000 } }
      let e := lanesOutcome errs
      let c2 := match max e.1 (cnt0 m.bad cw) with
        | 0 => c1
        | 1 => c1.mcCe ch cw e.2 1 14
        | 2 => c1.mcUe ch cw 1 14
        | _ => c1.mcWild ch cw 1 14
      c2.setFld (R.MC_SCRUB_POS ch) F.MC_SCRUB_POS_POS (if cw + 1 < m.bytes / 128 then cw + 1 else 0)
    else c
  else c

/-- Delay numbers of write strobe to data: target 5, two ranks, 80 bits (Table 13-9). -/
def writeDelays : List Nat := (List.range 160).map (fun i => 1280 + 128 * (i / 80) + i % 80)

/-- A delay moved by one step at most, within its ten bits. -/
def delayStep (v : Nat) (dir : Int) : Nat := if dir > 0 then min 1023 (v + 1) else if dir < 0 then v - 1 else v

/-- DQS_DRIFT_CORRECT (R321): in Gale and Breeze, every 100 ms, the write strobe-to-data delays in use move by at most one step.
(DEDUCED, log 45) -/
def doDqsDriftCorrect (ch : Nat) (dir : Int) (c : Chip) : Chip :=
  if c.flag (R.MC_STAT ch) F.MC_STAT_READY && decide (c.ladder ≤ 1) && decide (2 ≤ c.mcState) && decide (c.mcState ≤ 3) then
    let c1 := c.waitLine (c.mcCh ch).driftDue
    let m := c1.mcCh ch
    c1.setMcCh ch { m with inUse := writeDelays.foldl (fun d n => put0 d n (delayStep (cnt0 d n) dir)) m.inUse,
                           driftDue := c1.epc.line + 100000 * micro }
  else c

/-! ### Self-refresh commands and events -/

def mcxPort : CmdPort := ⟨R.MCX_CMD, R.MCX_CMDSTAT, Ev.rejMcx⟩

/-- Self-refresh entry begins (R316); `who`: 1 the command, 2 the ladder, 3 entry to Safe. -/
def Chip.srBegin (c : Chip) (who : Nat) : Chip :=
  { c with mc := { c.mc with srPrior := c.mcState, srBy := who, exitDue := false } }.setMcState 4

/-- A channel is in training. -/
def Chip.anyTraining (c : Chip) : Bool := (List.range 8).any (fun n => c.flag (R.MC_STAT n) F.MC_STAT_TRAINING)

/-- A mask of the channels for which `f` holds. -/
def chanMask (f : Nat → Bool) : Nat := (List.range 8).foldl (fun m n => if f n then maskSet m n else m) 0

/-- A command of the MCX block is judged; a rejected one names the channels at fault in `MCX_CMDSTAT.CH` (R322). -/
def Chip.mcxCommand (c : Chip) (port : CmdPort) (init : Init) (reason chans : Nat) (f : Chip → Chip) : Chip :=
  (c.setFld R.MCX_CMDSTAT F.MCX_CMDSTAT_CH (if c.inSafe ∨ reason = 0 then 0 else chans)).command port init none false reason f

/-- A channel is populated. -/
def Chip.mcPresent (c : Chip) (n : Nat) : Bool := c.flag (R.MC_STAT n) F.MC_STAT_PRESENT

/-- MC_SR_ENTER (R316, Table 13-5). -/
def doMcSrEnter (init : Init) (c : Chip) : Chip :=
  let r := firstReason [(c.anyTraining, 0x90), (decide (c.mcState ≠ 2) && decide (c.mcState ≠ 3), 0x91), ((List.range 16).any c.recording, 0x92)]
  c.mcxCommand mcxPort init r
    (if r = 0x90 then chanMask (fun n => c.flag (R.MC_STAT n) F.MC_STAT_TRAINING) else if r = 0x91 then chanMask c.mcPresent else 0)
    (fun c => c.srBegin 1)

/-- Everything queued has been completed. -/
def Chip.mcQuiet (c : Chip) : Bool :=
  (List.range 8).all (fun n => (c.mcCh n).reads.isEmpty && (c.mcCh n).writes.isEmpty && (c.mcCh n).flight.isEmpty &&
    (c.mcCh n).merge.isEmpty) && c.mc.wait.isEmpty

/-- Every rank's debt is paid and every bank precharged. -/
def Chip.mcPrecharge (c : Chip) : Chip :=
  (List.range 8).foldl (fun c n =>
    if (c.mcCh n).debt.isEmpty ∧ (c.mcCh n).openRow.isEmpty then c
    else (c.setMcCh n { c.mcCh n with debt := [], openRow := [] }).refDebt n) c

/-- SR_COMMIT_POINT (R316): preparation is complete and the entry command is issued. -/
def doSrCommitPoint (c : Chip) : Chip :=
  if c.mcState = 4 ∧ c.mcQuiet = true then
    let c1 := c.mcPrecharge.setMcState 5
    { c1 with mc := { c1.mc with residency := true, commitAt := c1.epc.line } }
  else c

/-- SR_RESIDENCY_END (R316): 1 µs after the entry command; a waiting exit proceeds. -/
def doSrResidencyEnd (c : Chip) : Chip :=
  if c.mcState = 5 ∧ c.mc.residency = true then
    let c1 := c.waitLine (c.mc.commitAt + micro)
    let c2 := { c1 with mc := { c1.mc with residency := false } }
    if c2.mc.exitDue then c2.srExitNow else c2
  else c

/-- MC_SR_EXIT (R316): during the residency the exit waits for its end. -/
def doMcSrExit (init : Init) (c : Chip) : Chip :=
  c.mcxCommand mcxPort init (firstReason [(decide (c.mcState ≠ 5), 0x91)]) (chanMask c.mcPresent) Chip.srLeave

/-- SR_EXIT_DONE (R316, R317): the first access is possible; late requests are served, and a descent they met ends in Breeze. -/
def doSrExitDone (c : Chip) : Chip :=
  if c.mcState = 6 then
    let c1 := c.setMcState c.mc.srPrior
    let c2 := if c.mc.late.isEmpty ∨ c.mc.srBy ≠ 2 then c1 else c1.descentAbort
    let c3 := c.mc.late.foldl (fun c l => c.pushReads l.2) c2
    { c3 with mc := { c3.mc with late := [], srBy := 0 } }.mcFeed
  else c

/-! ### Training (R318, R319, R322) -/

/-- A readout consumer runs. -/
def Chip.consumerRuns (c : Chip) : Bool :=
  c.flag R.HIF_DMA_STAT F.HIF_DMA_STAT_RUNNING || (List.range 4).any (fun n => c.flag (R.ETH_STR_STAT n) F.ETH_STR_STAT_RUNNING)

/-- MC_TRAIN (R322): the mask stands in `MCX_CMD.CH`. -/
def doMcTrain (init : Init) (mask : Nat) (c0 : Chip) : Chip :=
  let c := c0.setFld R.MCX_CMD F.MCX_CMD_CH mask
  let absent := chanMask (fun n => bit mask n && !c.mcPresent n)
  let r := firstReason [(decide (c.mcState ≠ 0) && decide (c.mcState ≠ 2), 0x91), (decide (absent ≠ 0), 0x95),
    ((List.range 16).any c.armed || c.consumerRuns, 0x96)]
  c.mcxCommand mcxPort init r (if r = 0x91 then chanMask c.mcPresent else if r = 0x95 then absent else 0) (fun c =>
    let c2 := (maskList 8 mask).foldl (fun c n => (c.setFlag (R.MC_STAT n) F.MC_STAT_TRAINING true).setFlag (R.MC_STAT n) F.MC_STAT_READY false) c
    if mask = 0 then c2 else c2.setMcState 1)

def sweepPort (n : Nat) : CmdPort := ⟨R.MC_TRN_CMD n, R.MCX_CMDSTAT, Ev.rejMcx⟩

/-- MC_SWEEP (R318, R322). A channel that is not populated is named so before it is named not TRAINING. -/
def doMcSweep (init : Init) (n : Nat) (c : Chip) : Chip :=
  c.mcxCommand (sweepPort n) init
    (firstReason [(!c.mcPresent n, 0x95), (!c.flag (R.MC_STAT n) F.MC_STAT_TRAINING, 0x93), (c.flag (R.MC_TRN_STAT n) F.MC_TRN_STAT_BUSY, 0x94)])
    (2 ^ n)
    (fun c => (c.setFlag (R.MC_TRN_STAT n) F.MC_TRN_STAT_BUSY true).setFlag (R.MC_TRN_STAT n) F.MC_TRN_STAT_DONE false)

/-- The settings of a sweep. -/
def Chip.sweepSettings (c : Chip) (n : Nat) : List Nat :=
  let a := R.MC_TRN_SWEEP n
  let s := c.fld a F.MC_TRN_SWEEP_START
  let e := c.fld a F.MC_TRN_SWEEP_END
  let st := max 1 (c.fld a F.MC_TRN_SWEEP_STEP)
  if e < s then [] else (List.range ((e - s) / st + 1)).map (fun i => s + st * i)

/-- The longest run of settings without a mismatch: first setting, last setting and length; the earlier run on a tie. -/
def bestRun : List (Nat × Nat) → Option (Nat × Nat × Nat) → Option (Nat × Nat × Nat) → Option (Nat × Nat × Nat)
  | [], _, best => best
  | (s, e) :: rest, cur, best =>
    if e ≠ 0 then bestRun rest none best
    else
      let cur' := match cur with
        | none => (s, s, 1)
        | some (l, _, k) => (l, s, k + 1)
      let best' := match best with
        | none => some cur'
        | some b => if b.2.2 < cur'.2.2 then some cur' else some b
      bestRun rest (some cur') best'

/-- One bit's results: its counter and its window. -/
def Chip.sweepBit (c : Chip) (n b : Nat) (settings errs : List Nat) : Chip :=
  let es := settings.zip (errs ++ zeros (settings.length - errs.length))
  let c1 := c.addSat (R.MC_TRN_ERR n b) (es.foldl (fun k x => k + x.2) 0)
  let w := match bestRun es none none with
    | some r => (r.1, r.2.1)
    | none => (0x3ff, 0)
  (c1.setFld (R.MC_TRN_WIN n b) F.MC_TRN_WIN_LEFT w.1).setFld (R.MC_TRN_WIN n b) F.MC_TRN_WIN_RIGHT w.2

/-! ### Patterns of a sweep (R318) -/

/-- One step of a PRBS register of `w` bits with feedback from bits `w - 1` and `t - 1`: the bit it gives, and the register after it
(PRESUMED, log 73). -/
def prbsStep (w t x : Nat) : Nat := x * 2 % 2 ^ w + (if bit x (w - 1) != bit x (t - 1) then 1 else 0)

/-- `n` bits of a PRBS from register `x` on, as a number, first bit lowest; and the register after them. -/
def prbsBits (w t : Nat) : Nat → Nat → Nat × Nat
  | 0, x => (0, x)
  | n + 1, x =>
    let r := prbsBits w t n (prbsStep w t x)
    ((if bit x (w - 1) then 1 else 0) + 2 * r.1, r.2)

/-- `n` steps of a PRBS register. -/
def prbsSkip (w t : Nat) : Nat → Nat → Nat
  | 0, x => x
  | n + 1, x => prbsSkip w t n (prbsStep w t x)

/-- The 1,024 data bits of codeword `j` of a setting, byte 0 lowest (R318): a PRBS that runs on from codeword to codeword, a one that walks
over the 32 data bits of each subchannel from beat to beat, or the user pattern. (DESIGN CHOICE, log 65) -/
def Chip.trnData (c : Chip) (n j : Nat) : Nat :=
  let prbs := fun (w t : Nat) => (prbsBits w t 1024 (prbsSkip w t (1024 * j) (c.rn (R.MC_TRN_PAT n 0) % 2 ^ w))).1
  match c.fld (R.MC_TRN_CTRL n) F.MC_TRN_CTRL_PATTERN with
  | 1 => prbs 15 14
  | 2 => prbs 31 28
  | 3 => (List.range 16).foldl (fun v t => v + 2 ^ (32 * t + (16 * j + t) % 32) + 2 ^ (512 + 32 * t + (16 * j + t) % 32)) 0
  | 4 => (List.range 32).foldl (fun v w => v + c.rn (R.MC_TRN_PAT n w) * 2 ^ (32 * w)) 0
  | _ => prbs 7 6

/-- Bit `b` of beat `t` of a codeword with data bits `d` (R297): lanes 0 to 7 and 10 to 17 carry the data of the two subchannels, lanes 8, 9, 18
and 19 their check bits, which the spec does not write out. (DESIGN CHOICE, log 65) -/
def laneBit (d t b : Nat) : Bool :=
  let lane := b / 4
  if lane < 8 then bit d (32 * t + b)
  else if 10 ≤ lane ∧ lane < 18 then bit d (512 + 32 * t + (b - 40))
  else bit (Config.checkBits d).toNat (16 * t + (if lane < 10 then b - 32 else 8 + (b - 72)))

/-- Mismatches of bit `b` in a codeword read back as `bits`, against data bits `d`. -/
def bitMisses (d bits b : Nat) : Nat := ((List.range 16).filter (fun t => bit bits (80 * t + b) != laneBit d t b)).length

/-- LEN in force, in codewords per setting. -/
def Chip.trnLen (c : Chip) (n : Nat) : Nat := 64 * max 1 (c.fld (R.MC_TRN_LEN n) F.MC_TRN_LEN_LEN)

/-- Units of the engine region that a sweep's codewords lie in, from `MCn_TRN_ADDR` on. (DESIGN CHOICE, log 65) -/
def Chip.trnUnits (c : Chip) (n : Nat) : List Nat :=
  (List.range (c.trnLen n / 32)).map (fun i => (c.fld (R.MC_TRN_ADDR n) F.MC_TRN_ADDR_UNIT + i) % 65536)

/-- The bank of a unit with the rank under test in place of its own. (DESIGN CHOICE, log 65) -/
def Chip.trnBank (c : Chip) (n k : Nat) : Nat × Nat :=
  let d := c.dramPlace n (4096 * k)
  let rank := if c.flag (R.MC_STAT n) F.MC_STAT_RANKS2 then c.fld (R.MC_TRN_CTRL n) F.MC_TRN_CTRL_RANK else 0
  ({ d with rank := rank }.bankNo, d.row)

/-- TARGET names a delay of the read path: 2, 4 and 6. -/
def Chip.trnReads (c : Chip) (n : Nat) : Bool :=
  let t := c.fld (R.MC_TRN_SWEEP n) F.MC_TRN_SWEEP_TARGET
  decide (t = 2) || decide (t = 4) || decide (t = 6)

/-- One setting's accesses: its rows are activated by the training helpers (R312), and for targets that are not of the read path the codewords are
written, so that they are sound (R318). -/
def Chip.trnAccess (c : Chip) (n : Nat) : Chip :=
  (c.trnUnits n).foldl (fun c k =>
    let b := c.trnBank n k
    let c1 := if (c.mcCh n).openRow.any (fun o => decide (o = b)) then c else c.activate n b.1 b.2 15
    if c.trnReads n then c1
    else
      let m := c1.mcCh n
      c1.setMcCh n { m with bad := m.bad.filter (fun e => decide (e.1 / 32 ≠ k)) }) c

/-- Mismatches of bit `b` at setting number `i`: of the codewords read back that are listed; the others are the pattern. -/
def Chip.trnMisses (c : Chip) (n b i : Nat) (reads : List TrnRead) : Nat :=
  (reads.filter (fun r => decide (r.setting = i) && decide (r.codeword < c.trnLen n))).foldl
    (fun k r => k + bitMisses (c.trnData n r.codeword) r.bits b) 0

/-- TRN_DONE (R318): the sweep has gone through its settings; what it read back is the pattern but for the codewords listed. -/
def doTrnDone (n : Nat) (reads : List TrnRead) (c : Chip) : Chip :=
  if c.flag (R.MC_TRN_STAT n) F.MC_TRN_STAT_BUSY then
    let settings := c.sweepSettings n
    let c0 := settings.foldl (fun c _ => c.trnAccess n) c
    let c1 := (List.range 80).foldl (fun d b =>
      d.sweepBit n b settings ((List.range settings.length).map (fun i => c.trnMisses n b i reads))) c0
    ((c1.setFlag (R.MC_TRN_STAT n) F.MC_TRN_STAT_BUSY false).setFlag (R.MC_TRN_STAT n) F.MC_TRN_STAT_DONE true).raise (Ev.trnDone n)
  else c

/-- The work of a completed guarded pair to `MCX_TRN_COMMIT` (R319): staged delays come into use. -/
def Chip.trnCommitNow (c : Chip) (init : Init) (mask : Nat) : Chip :=
  let good := (maskList 8 mask).filter (fun n => c.flag (R.MC_STAT n) F.MC_STAT_TRAINING)
  let bad := chanMask (fun n => bit mask n && !good.contains n)
  let c1 := good.foldl (fun c n =>
    ((c.setMcCh n { c.mcCh n with inUse := (c.mcCh n).staged }).setFlag (R.MC_STAT n) F.MC_STAT_TRAINING false).setFlag (R.MC_STAT n)
      F.MC_STAT_READY true) c
  let all := decide (0 < c1.nch) && (List.range 8).all (fun n => !c1.mcPresent n || c1.flag (R.MC_STAT n) F.MC_STAT_READY)
  let c2 := if c1.mcState = 1 ∧ all = true then c1.setMcState 2 else c1
  c2.mcxCommand ⟨R.MCX_TRN_COMMIT, R.MCX_CMDSTAT, Ev.rejMcx⟩ init (if bad = 0 then 0 else 0x93) bad (fun c => c.setN R.MCX_TRN_COMMIT mask)

/-- The completed guarded pair to `MCX_TRN_COMMIT`, rejected in Safe (R360). (DEDUCED, log 25) -/
def Chip.trnCommit (c : Chip) (init : Init) (mask : Nat) : Chip :=
  if c.inSafe then c.reject ⟨R.MCX_TRN_COMMIT, R.MCX_CMDSTAT, Ev.rejMcx⟩ init none 0xfe else c.trnCommitNow init mask

end Sys2Proof.Machine
end

