-- ==== Sys2Proof/Machine/Segment.lean ====
section
/-! DEFINITION. Segments (spec 07, R168 to R177): the trigger segment, block allocation in ring and post region, the end of recording,
commit with its lists, the push of descriptors, and freeing; the partition commands DISARM, MARK and FREE. -/

namespace Sys2Proof.Machine

/-! ### The bound sequencer -/

/-- The members that execute sequencer n's program: in Steady the pair (R24, R134). -/
def Chip.members (c : Chip) (n : Nat) : List Nat := if c.steady then [n, n + 1] else [n]

/-- The members of a partition's sequencer. -/
def Chip.partMembers (c : Chip) (p : Nat) : List Nat := match c.boundSeq p with
  | some n => c.members n
  | none => []

/-- Evaluation of a partition ends: RUNNING and POST clear (R126). -/
def Chip.seqStop (c : Chip) (p : Nat) : Chip :=
  (c.partMembers p).foldl (fun c n => (c.setFlag (R.SQ_STAT n) F.SQ_STAT_RUNNING false).setFlag (R.SQ_STAT n) F.SQ_STAT_POST false) c

/-! ### The end of recording -/

/-- `FULn_STAT.ACTIVE` of a partition's groups. -/
def Chip.fulActive (c : Chip) (p : Nat) (b : Bool) : Chip :=
  (c.prtGroups p).foldl (fun c g => c.setFlag (R.FUL_STAT g) F.FUL_STAT_ACTIVE b) c

/-- The stamp of a group's first sample that recording no longer takes, when recording ends now. -/
def Chip.endStampOf (c : Chip) (p g : Nat) : Nat :=
  match (c.lane g).pipe with
  | .sample s :: _ => s.stamp
  | _ => if c.prtState p = 3 ∨ c.sampleOn = false then c.now else c.nextStamp g

/-- An injection that no block has taken is discarded (R193). -/
def Chip.injDrop (c : Chip) (g : Nat) : Chip :=
  let l := c.lane g
  (c.setLane g { l with codec := { l.codec with inject := false } }).setFlag (R.FUL_STAT g) F.FUL_STAT_INJ_PEND false

/-- Recording ends: the samples that are decided are stored (R468), every group stores no more and closes its block, open windows close
TRUNCATED (R148), the sequencer stops and is bound no longer (R119), and the partition is DISARMED (R165). (DEDUCED, log 38) -/
def Chip.endRecording (c : Chip) (p : Nat) : Chip :=
  let c0 := c.settlePart p
  let c1 := (c0.prtGroups p).foldl (fun c g => if (c.lane g).ended then c else c.laneEndAt g p (c.endStampOf p g)) c0
  let c2 := (c1.closeAllWins p).seqStop p
  let c3 := (c.prtGroups p).foldl (fun c g => c.injDrop g) c2
  let c4 := c3.setPart p { c3.part p with seqBound := 0 }
  ((c4.fulActive p false).setPrtState p 0).refreshPart p

/-- The trigger segment leaves OPEN: its end is known, and its commit is due (R169, R170). -/
def Chip.trigClose (c : Chip) (p reqEnd trunc : Nat) : Chip :=
  match (c.part p).seg 64 with
  | none => c
  | some s => c.setPart p ((c.part p).setSeg 64 { s with reqEnd := reqEnd, truncCause := max s.truncCause trunc, closing := true })

/-- The stamp of the last sample a partition's sequencer evaluated. -/
def Chip.lastEval (c : Chip) (p : Nat) : Nat := match c.boundSeq p with
  | some n => (c.seq n).lastStamp
  | none => 0

/-- The trigger segment is cut short while the span runs (R170). (DEDUCED, log 38) -/
def Chip.trigTruncate (c : Chip) (p cause : Nat) : Chip := c.trigClose p (c.lastEval p + 1) cause

/-- POST_SPAN_END (R129, R169): the post-trigger count of the sequencer is exhausted. -/
def doPostSpanEnd (sq : Nat) (c : Chip) : Chip :=
  match (List.range 16).find? (fun p => decide (c.boundSeq p = some sq)) with
  | none => c
  | some p =>
    match (c.part p).endStamp with
    | none => c
    | some e =>
      if c.prtState p = 2 then
        let c1 := (c.trigClose p (e + 1) 0).endRecording p
        let c2 := (c.members sq).foldl (fun c n => c.raise (Ev.sqDone n)) c1
        c2.setPart p { c2.part p with endStamp := none }
      else c

/-! ### The trigger segment opens (R169) -/

/-- Blocks of the partition's ring that overlap [start, T] are held by the trigger segment. (DEDUCED, log 38) -/
def Chip.trigHold (c : Chip) (p : Nat) (start : Int) (t : Nat) : Chip :=
  let ids := (c.prtGroups p).flatMap (fun g => (trimRun ((c.part p).groupRun g) c.now start (t + 1)).map Blk.id)
  c.setPart p { c.part p with blocks := (c.part p).blocks.map (fun b => if ids.contains b.id then { b with trig := true } else b) }

/-- A FREEZE in the sample with stamp `t` triggers the partition. -/
def Chip.freezePart (c : Chip) (p t : Nat) : Chip :=
  let pre := c.wpair 16 (R.PRT_PRE_L p)
  let old := c.oldest p
  let start : Int := if pre = 0 then (old : Int) else (t : Int) - pre
  let c1 := (c.addCnt (R.PRT_SEG_NO p) 1).trigHold p start t
  let s : Seg := { segNo := c1.rn (R.PRT_SEG_NO p), kind := 1, source := 0, reqStart := start, reqEnd := 0, at_ := t,
                   clip := if pre ≠ 0 ∧ start < (old : Int) then 1 else 0 }
  let pt := (c1.part p).setSeg 64 s
  (((c1.setPart p { pt with trigStamp := t, switched := 0, frozen := true }).setPrtState p 2).refreshPart p).metaSync p (c.part p)

/-! ### Allocation (R136, R137, R163, R169, R170) -/

/-- Where a block may go. -/
inductive Place where
  | wait
  | drop
  | full
  | ring (ofs : Nat) (trig : Bool)
  | post (ofs : Nat)
  deriving DecidableEq, Repr

/-- Bytes a block occupies (R161). -/
def blkLen (o : OutBlk) : Nat := max 1024 o.bytes.length

/-- The post region's place for a block. -/
def Part.postPlace (pt : Part) (s : Seg) (len : Nat) : Place :=
  if s.closing ∧ s.truncCause ≠ 0 then .drop else if pt.postHead + len ≤ pt.q then .post pt.postHead else .full

/-- The place of group g's next block. Once the trigger segment has left the partition's hands, a block beyond T goes nowhere: no ring block
is overwritten until the next ARM (R169). -/
def Chip.placeOf (c : Chip) (p g : Nat) (o : OutBlk) : Place :=
  let pt := c.part p
  let len := blkLen o
  let ring := fun (trig : Bool) (other : Place) => match pt.ringPlace (c.ringBytes p) len with
    | some ofs => Place.ring ofs trig
    | none => other
  let early := decide (o.s0 ≤ pt.trigStamp) && !bit pt.switched g
  if pt.frozen = false then ring false .wait
  else
    match pt.seg 64 with
    | some s =>
      if s.state ≠ 1 then (if early then ring false .drop else .drop)
      else if early then ring (!(s.closing && decide (s.truncCause ≠ 0))) (pt.postPlace s len)
      else pt.postPlace s len
    | none => if early then ring false .drop else .drop

/-- The writes of a block: its bytes, its directory entry, and the NEXT field of the group's block before it. -/
def Chip.blkRuns (c : Chip) (p g : Nat) (post : Bool) (ofs len : Nat) : List (Nat × DramReq) :=
  let pt := c.part p
  let prev := match (pt.newest.find? (fun n => decide (n.1 = g))).map (fun n => n.2) with
    | some id => (pt.blocks.filter (fun b => decide (b.id = id))).map (fun b => c.dirAddr p b.post b.ofs)
    | none => []
  (c.capRuns g (c.blkAddr p post ofs) len).map (fun r => (r.1, { r.2 with data := true })) ++ (c.dirAddr p post ofs :: prev).flatMap (fun a => c.capRuns g a 32)

/-- A block leaves its Fuller instance (R195). -/
def Chip.handOver (c : Chip) (g : Nat) (o : OutBlk) (rest : List OutBlk) : Chip :=
  let l := c.lane g
  let c1 := (c.putLane g { l with codec := { l.codec with out := rest } }).addCnt (R.FUL_BLOCKS g) 1
  c1.setPair 16 (R.FUL_OUT_L g) (c1.pair 16 (R.FUL_OUT_L g) + o.bytes.length)

/-- A block goes to its place, if the channels' queues can take it (R307). -/
def Chip.allocAt (c : Chip) (p g : Nat) (o : OutBlk) (rest : List OutBlk) (post : Bool) (ofs : Nat) (trig : Bool) : Chip :=
  let len := blkLen o
  let runs := c.blkRuns p g post ofs len
  if c.writesFit runs then
    let c1 := (c.handOver g o rest).pushWrites runs
    let c2 := if post then c1.setPart p { c1.part p with switched := maskSet (c1.part p).switched g } else c1
    c2.placeBlk p g o post ofs len trig
  else c

/-- The post region is full (R170). -/
def Chip.postFull (c : Chip) (p : Nat) : Chip :=
  let c1 := (c.trigTruncate p 2).raise (Ev.segTrunc p)
  if c1.armed p then c1.endRecording p else c1

/-- BLOCK_ALLOCATE (R137): the writer of group g takes the oldest finished block. -/
def doBlockAllocate (g : Nat) (c : Chip) : Chip :=
  match (c.lane g).codec.out with
  | [] => c
  | o :: rest =>
    let a := c.arrive g
    if a.2 then
      let p := o.part
      let c1 := a.1.joinPresent p
      match c1.placeOf p g o with
      | .wait => c1
      | .drop => c1.handOver g o rest
      | .full => (c1.handOver g o rest).postFull p
      | .ring ofs trig => c1.allocAt p g o rest false ofs trig
      | .post ofs => c1.allocAt p g o rest true ofs true
    else a.1

/-! ### Commit (R147, R171 to R175) -/

/-- The blocks of a segment in group g, in allocation order. -/
def Part.segBlocks (pt : Part) (slot g : Nat) : List Blk :=
  pt.blocks.filter (fun b => decide (b.group = g) && (if slot = 64 then b.trig else bit b.held slot))

/-- A granule with its directory in bit 31 (Table 7-5). -/
def granule (post : Bool) (ofs : Nat) : Nat := ofs / 1024 + (if post then 2 ^ 31 else 0)

/-- FIRST, LAST and COUNT of a group (R147). (DEDUCED, log 35) -/
def runOf (g : Nat) (l : List Blk) : Nat × Nat × Nat × Nat :=
  match l.head?, l.getLast? with
  | some a, some b => (g, granule a.post a.ofs, granule b.post b.ofs, l.length)
  | _, _ => (g, 0, 0, 0)

/-- The held bounds of a segment: groups' blocks, requested bounds (R147, Table 7-5). A window with a group that holds nothing has empty
bounds; a trigger segment's bounds follow the groups that hold blocks. (DEDUCED, log 38) -/
def heldBounds (slot : Nat) (all : List (List Blk)) (now : Nat) (start stop : Int) : Int × Int :=
  let runs := if slot = 64 then all.filter (fun l => !l.isEmpty) else all
  if runs.any List.isEmpty then (start, start)
  else
    (runs.foldl (fun m l => max m (((l.head?.map Blk.s0).getD 0 : Nat) : Int)) start,
     runs.foldl (fun m l => min m (((l.getLast?.map (fun b => b.spanEnd now)).getD 0 : Nat) : Int)) stop)

/-- A stamp lies in the held bounds. -/
def inBounds (b : Int × Int) (stamp : Nat) : Bool := decide (b.1 ≤ (stamp : Int)) && decide ((stamp : Int) < b.2)

/-- Pages that a list of `n` entries needs, and how many entries fit in `pages` of them. -/
def listPages (per n : Nat) : Nat := (n + per - 1) / per

/-- The `n` lowest free pages of a pool. -/
def freePages (pool n : Nat) (used : List Nat) : List Nat :=
  ((List.range (min pool (used.length + n))).filter (fun k => !used.contains k)).take n

/-- A side log has wrapped past the segment's start (R173). -/
def wrappedPast (lost : Bool) (oldest : Option Nat) (start : Int) : Bool :=
  lost && (match oldest with
    | some s => decide (start < (s : Int))
    | none => true)

/-- One list's pages: those taken, whether the pool ran short, and the entries that found room. -/
def takeList {α : Type} (per pool : Nat) (used : List Nat) (l : List α) : List Nat × Bool × List α :=
  let need := listPages per l.length
  let got := freePages pool need used
  (got, decide (got.length < need), l.take (per * got.length))

/-- Table 7-5 byte 6. (DEDUCED, log 35) -/
def segFlags (s : Seg) (gaps : List Gap) (runs : List (List Blk)) : Nat :=
  let b := fun (x : Bool) (k : Nat) => if x then 2 ^ k else 0
  b (decide (s.truncCause ≠ 0)) 0 + b (decide (s.clip ≠ 0)) 1 + b (gaps.any (fun g => decide (g.cause = 1))) 2 +
    b (runs.any (fun l => l.any (fun x => bit x.tbq 3))) 3 + b (gaps.any (fun g => decide (g.cause ≠ 1))) 4 + b s.sideLost 5 +
    b (runs.any (fun l => l.any Blk.vf)) 6

/-- What the commit puts into the entry: bounds, lists, pages, flags; the list pages are to be written (R173, R174, step 2). (DESIGN CHOICE, log 8) -/
def Chip.commitLists (c : Chip) (p slot : Nat) (s : Seg) : Chip :=
  let pt := c.part p
  let gs := c.prtGroups p
  let runs := gs.map (pt.segBlocks slot)
  let hb := heldBounds slot runs c.now s.reqStart s.reqEnd
  let pool := c.poolPages p
  let mk := takeList 2730 pool pt.pagesUsed (pt.markers.filter (fun m => inBounds hb m.1))
  let allGaps := pt.gaps.filter (fun g => inBounds hb g.start)
  let gp := takeList 2047 pool (pt.pagesUsed ++ mk.1) allGaps
  let sn := takeList 4095 pool (pt.pagesUsed ++ mk.1 ++ gp.1) (pt.snaps.filter (fun x => inBounds hb x.1))
  let lost := mk.2.1 || gp.2.1 || sn.2.1 || wrappedPast pt.markersLost (pt.markers.head?.map (fun m => m.1)) hb.1 ||
    wrappedPast pt.gapsLost (pt.gaps.head?.map Gap.start) hb.1 || wrappedPast pt.snapsLost (pt.snaps.head?.map (fun x => x.1)) hb.1
  let s1 := { s with stage := 1, heldStart := hb.1, heldEnd := hb.2, sideLost := lost,
                     runs := List.zipWith runOf gs runs, markers := mk.2.2, gaps := gp.2.2, snaps := sn.2.2,
                     pages := [mk.1, gp.1, sn.1] }
  let s2 := { s1 with flags := segFlags s1 allGaps runs }
  let pt1 := { pt.setSeg slot s2 with pagesUsed := pt.pagesUsed ++ mk.1 ++ gp.1 ++ sn.1 }
  let c1 := c.setPart p pt1
  let pages := fun (c : Chip) (per size n : Nat) (ks : List Nat) =>
    (ks.zip (List.range ks.length)).foldl (fun c k =>
      c.metaWrite (c.metaReq p) (c.poolBase p + 65536 * k.1) (16 + size * min per (n - per * k.2))) c
  pages (pages (pages c1 2730 24 s2.markers.length mk.1) 2047 32 s2.gaps.length gp.1) 4095 16 s2.snaps.length sn.1

/-- The table entry is to be written with STATE = 2 (R174, step 3). -/
def Chip.commitEntry (c : Chip) (p slot : Nat) (s : Seg) : Chip :=
  (c.setPart p ((c.part p).setSeg slot { s with stage := 2 })).metaWrite (c.metaReq p) (c.segBase p + 256 * slot) 256

/-- Some of a segment's list pages are not written yet. -/
def Chip.pagesPending (c : Chip) (p : Nat) (s : Seg) : Bool :=
  s.pages.any (fun l => l.any (fun k => c.capPending (c.poolBase p + 65536 * k) 65536))

/-- A block's bytes or its directory entry are not written yet. -/
def Chip.blkPending (c : Chip) (p : Nat) (b : Blk) : Bool :=
  c.capPending (c.blkAddr p b.post b.ofs) b.len || c.capPending (c.dirAddr p b.post b.ofs) 32

/-- A group still has blocks of the partition in its pipeline. -/
def Chip.inPipeline (c : Chip) (p g : Nat) : Bool :=
  let l := c.lane g
  l.staged.any (fun b => decide (b.part = p)) || l.codec.busy.any (fun b => decide (b.1.part = p)) || l.codec.out.any (fun b => decide (b.part = p))

/-- Everything of the segment is written (R174, step 1). (DEDUCED, log 39) -/
def Chip.segWritten (c : Chip) (p slot : Nat) (s : Seg) : Bool :=
  let gs := c.prtGroups p
  (decide (slot ≠ 64) || decide (s.truncCause ≠ 0) || gs.all (fun g => !c.inPipeline p g)) &&
    gs.all (fun g => ((c.part p).segBlocks slot g).all (fun b => !c.blkPending p b))

/-- A committed segment's descriptor waits to be pushed. -/
def Seg.waits (s : Seg) : Bool := decide (s.state = 2) && decide (s.pushed < 2)

/-- The waiting segment with the lowest SEG_NO (R227). -/
def Part.firstWaiting (pt : Part) : Option (Nat × Seg) :=
  (pt.segs.filter (fun s => s.2.waits)).foldl (fun best s => match best with
    | none => some s
    | some b => if s.2.segNo < b.2.segNo then some s else some b) none

/-- The partition's first waiting descriptor is offered to its queue (R174, R227). (DEDUCED, log 39) -/
def Chip.offerPush (c : Chip) (p : Nat) : Chip :=
  match (c.part p).firstWaiting with
  | none => c
  | some (slot, s) =>
    let q := c.wfld (R.PRT_CFG p) F.PRT_CFG_QUEUE
    let r := c.carPushSeg q (c.wfld (R.PRT_CFG p) F.PRT_CFG_PRIO) p slot s.segNo (c.segBase p + 256 * slot)
    if r.2 then r.1.setPart p ((r.1.part p).setSeg slot { s with pushed := 2 })
    else if s.pushed = 0 then
      (((c.setPart p ((c.part p).setSeg slot { s with pushed := 1 })).raise (Ev.qPushFull q)).addCnt (R.CAR_Q_REFUSED q) 1)
    else c

/-- A descriptor that commits behind an earlier refused one of its partition is not pushed; it counts as refused where its queue has no room
(R227). (DEDUCED, log 39) -/
def Chip.refuseBehind (c : Chip) (p slot : Nat) (s : Seg) : Chip :=
  let q := c.wfld (R.PRT_CFG p) F.PRT_CFG_QUEUE
  if c.carRoom q = 0 then
    ((c.setPart p ((c.part p).setSeg slot { s with pushed := 1 })).raise (Ev.qPushFull q)).addCnt (R.CAR_Q_REFUSED q) 1
  else c

/-- The segment is visible to every requester: it is live, SEG_COMMIT is raised, and its descriptor is offered unless an earlier one waits
(R174, steps 4 to 6). -/
def Chip.commitDone (c : Chip) (p slot : Nat) (s : Seg) : Chip :=
  let earlier := (c.part p).firstWaiting.isSome
  let s1 := { s with state := 2, closing := false }
  let c1 := (c.putPart p ((c.part p).setSeg slot s1)).raise (Ev.segCommit p)
  let c2 := if s.sideLost then c1.raise (Ev.sideLost p) else c1
  if earlier then c2.refuseBehind p slot s1 else c2.offerPush p

/-- The commit of a segment goes on by `n` steps of R174 at most, as far as the writes of each are carried out. -/
def Chip.commitGo (c : Chip) (p slot : Nat) : Nat → Chip
  | 0 => c
  | n + 1 =>
    match (c.part p).seg slot with
    | none => c
    | some s =>
      if s.state = 1 ∧ s.closing = true then
        if s.stage = 0 then (if c.segWritten p slot s then (c.commitLists p slot s).commitGo p slot n else c)
        else if s.stage = 1 then (if c.pagesPending p s then c else (c.commitEntry p slot s).commitGo p slot n)
        else if c.capPending (c.segBase p + 256 * slot) 256 then c
        else c.commitDone p slot s
      else c

/-- SEGMENT_COMMIT (R174): a segment that has left OPEN goes through the steps of its commit, as far as the writes before each are carried out.
In Safe an open segment is not committed (R175). (DEDUCED, log 39) -/
def doSegmentCommit (p slot : Nat) (c : Chip) : Chip := if c.inSafe then c else c.commitGo p slot 3

/-- SEGMENT_PUSH_RETRY (R227). -/
def doSegmentPushRetry (p : Nat) (c : Chip) : Chip := c.offerPush p

/-! ### Freeing (R176) -/

/-- A block without the hold of a slot. -/
def Blk.drop (slot : Nat) (b : Blk) : Blk := if slot = 64 then { b with trig := false } else b.leave slot

/-- A segment is freed. -/
def Chip.freeSeg (c : Chip) (p slot : Nat) : Chip :=
  match (c.part p).seg slot with
  | none => c
  | some s =>
    let pt := c.part p
    let bs := pt.blocks.map (Blk.drop slot)
    c.synced p (fun c => c.putPart p { pt with
      blocks := bs.filter (fun b => !b.post || b.trig || b.isHeld)
      segs := SMap.del pt.segs slot
      pagesUsed := pt.pagesUsed.filter (fun k => !s.pages.any (fun l => l.contains k)) })

/-- AUTO_FREE (R176): the segments whose descriptors were released in an earlier cycle are freed. -/
def doAutoFree (p : Nat) (c : Chip) : Chip :=
  let due := (c.part p).autoFree
  due.foldl (fun c slot => c.freeSeg p slot) (c.setPart p { c.part p with autoFree := [] })

def prtPort (p : Nat) : CmdPort := ⟨R.PRT_CMD p, R.PRT_CMDSTAT p, Ev.rejPrt p⟩

/-- The reason FREE is rejected, or 0. -/
def Chip.freeReason (c : Chip) (p slot : Nat) : Nat :=
  if slot > 64 then 0x1f
  else
    match (c.part p).seg slot with
    | none => 0x1e
    | some s => firstReason [(decide (s.state = 1), 0x1c), (decide (s.pushed = 2), 0x1d)]

/-- FREE of the slot named in `PRTp_CMD.SLOT`. -/
def Chip.freeCmd (c : Chip) (init : Init) (p : Nat) (entry : Option Nat) : Chip :=
  let slot := c.fld (R.PRT_CMD p) F.PRT_CMD_SLOT
  let r := c.freeReason p slot
  let c1 := c.setFld (R.PRT_CMDSTAT p) F.PRT_CMDSTAT_SLOT slot
  c1.command (prtPort p) init entry false r (fun c => c.freeSeg p slot)

/-- FREE (R176): the write carries SLOT. -/
def doFree (init : Init) (p slot : Nat) (c : Chip) : Chip := (c.setFld (R.PRT_CMD p) F.PRT_CMD_SLOT slot).freeCmd init p none

/-- The work of DISARM (R126, R170). (DEDUCED, log 38) -/
def Chip.disarmNow (c : Chip) (p : Nat) : Chip :=
  let c1 := if ((c.part p).seg 64).any (fun s => decide (s.state = 1) && !s.closing) then c.trigTruncate p 1 else c
  let c2 := c1.endRecording p
  c2.setPart p { c2.part p with endStamp := none }

/-- DISARM by an initiator. -/
def Chip.disarmCmd (c : Chip) (init : Init) (p : Nat) (entry : Option Nat) : Chip :=
  c.command (prtPort p) init entry false (if c.armed p then 0 else 0x1b) (fun c => c.disarmNow p)

/-- DISARM (R126). -/
def doDisarm (init : Init) (p : Nat) (c : Chip) : Chip := c.disarmCmd init p none

/-- The host MARK with the code in `PRTp_CMD.MARK_CODE`. -/
def Chip.markCmd (c : Chip) (init : Init) (p : Nat) (entry : Option Nat) : Chip :=
  let code := c.fld (R.PRT_CMD p) F.PRT_CMD_MARK_CODE
  c.command (prtPort p) init entry false (if c.recording p then 0 else 0x30) (fun c => c.addMarker p (c.now, 2, code, 0xff, 0))

/-- PRT_MARK (R172): the write carries MARK_CODE. -/
def doPrtMark (init : Init) (p code : Nat) (c : Chip) : Chip := (c.setFld (R.PRT_CMD p) F.PRT_CMD_MARK_CODE code).markCmd init p none

end Sys2Proof.Machine
end

