-- ==== Sys2Proof/Machine/Sequencer.lean ====
section
/-! DEFINITION. The trigger sequencers (spec 05): one sample's evaluation, branch actions, FREEZE and the post-trigger span, Steady
pairs, and the checks at ARM. -/

namespace Sys2Proof.Machine

/-! ### The program in the working copy -/

def Chip.sqDom (c : Chip) (n : Nat) : Nat := c.wfld (R.SQ_CTRL n) F.SQ_CTRL_DOM
def Chip.sqLevel (c : Chip) (n : Nat) : Nat := c.fld (R.SQ_STAT n) F.SQ_STAT_LEVEL

/-- The code of term slot j. -/
def Chip.sqSlot (c : Chip) (n j : Nat) : Nat := c.wfld (R.SQ_TS n j) F.SQ_TS_CODE

/-- Index of branch k of level m among the sequencer's 64. -/
def brIdx (m k : Nat) : Nat := 4 * m + k

/-- Every slot a mask selects is true (R122). -/
def Chip.allTrue (c : Chip) (n mask : Nat) (e : Eval) : Bool := (maskList 16 mask).all (fun j => c.term (c.sqSlot n j) e)

/-- The condition of a branch (R122, R123). -/
def Chip.branchTrue (c : Chip) (n m k : Nat) (e : Eval) : Bool :=
  let a := R.SQ_B_COND n (brIdx m k)
  let p0 := c.wfld a F.SQ_B_COND_P0
  let p1 := c.wfld a F.SQ_B_COND_P1
  (decide (p0 ≠ 0) && c.allTrue n p0 e) || (decide (p1 ≠ 0) && c.allTrue n p1 e)

/-- The branch taken at level m, if any: the lowest-numbered whose condition is true (R123). -/
def Chip.taken (c : Chip) (n m : Nat) (e : Eval) : Option Nat := (List.range 4).find? (fun k => c.branchTrue n m k e)

/-- A field of a branch's ACT, OPS or PULSE register. -/
def Chip.act (c : Chip) (n b : Nat) (f : Fld) : Nat := c.wfld (R.SQ_B_ACT n b) f
def Chip.actOn (c : Chip) (n b : Nat) (f : Fld) : Bool := decide (c.act n b f ≠ 0)

/-- The two OPS slots of a branch. -/
def Chip.opSlots (c : Chip) (n b : Nat) : List OpSlot :=
  let f := fun (x : Fld) => c.wfld (R.SQ_B_OPS n b) x
  [⟨decide (f F.SQ_B_OPS_OPA_KIND ≠ 0), f F.SQ_B_OPS_OPA_IDX, f F.SQ_B_OPS_OPA_OP⟩,
   ⟨decide (f F.SQ_B_OPS_OPB_KIND ≠ 0), f F.SQ_B_OPS_OPB_IDX, f F.SQ_B_OPS_OPB_OP⟩]

/-- Window descriptor j for a sample with stamp T (R131). -/
def Chip.sqWindow (c : Chip) (n j t : Nat) : Int × Int :=
  ((t : Int) + signedOf 48 (c.wpair 16 (R.SQ_WIN_START_L n j)), (t : Int) + signedOf 48 (c.wpair 16 (R.SQ_WIN_END_L n j)))

/-! ### Actions (R127 to R132) -/

/-- The list that `SCV_TRIG_LISTk` names for a partition (R385). (DEDUCED, log 40) -/
def Chip.trigList (c : Chip) (p : Nat) : Nat := bits (c.rn (R.SCV_TRIG_LIST (p / 4))) (8 * (p % 4)) 8

/-- FREEZE (R129, R130): triggers the partition, or is counted while the span runs. Answers whether it triggered. -/
def Chip.sqFreeze (c : Chip) (n p t : Nat) : Chip × Bool :=
  if c.flag (R.SQ_STAT n) F.SQ_STAT_POST then
    ((c.members n).foldl (fun c k => c.addCnt (R.SQ_FRZ_IGN k) 1) c, false)
  else
    let c1 := (c.members n).foldl (fun c k =>
      ((c.setTriple (R.SQ_TRIG_L k) t).setFlag (R.SQ_STAT k) F.SQ_STAT_POST true).raise (Ev.sqTrig k)) c
    let c2 := c1.setSeq n { c1.seq n with postLeft := c1.wpair 16 (R.SQ_POST_L n) + 1 }
    (c2.freezePart p t, true)

/-- MARK, STORE, HOLD and NOTICE of a branch. -/
def Chip.sqRequests (c : Chip) (n p b t : Nat) : Chip :=
  let c1 := if c.actOn n b F.SQ_B_ACT_MARK then c.addMarker p (t, 1, c.act n b F.SQ_B_ACT_MARK_CODE, 0xff, 0) else c
  let st := c.act n b F.SQ_B_ACT_STORE
  let c2 := if st = 1 ∨ st = 2 then c1.setPart p { c1.part p with storeQ := decide (st = 1) } else c1
  let w := c.sqWindow n (c.act n b F.SQ_B_ACT_WIN) t
  let c3 := if c.actOn n b F.SQ_B_ACT_HOLD then { c2 with seqHolds := c2.seqHolds ++ [⟨2 ^ p, w.1, w.2, 0⟩] } else c2
  if c.actOn n b F.SQ_B_ACT_NOTICE then c3.noticeSend ⟨p, n, w.1, w.2, t, c.act n b F.SQ_B_ACT_MARK_CODE⟩ else c3

/-- The pulses of a branch. -/
def Chip.sqPulses (c : Chip) (n b : Nat) (e : Eval) : Chip :=
  let a := R.SQ_B_PULSE n b
  let c1 := if c.wflag a F.SQ_B_PULSE_XT_EN then c.xtPulse (c.wfld a F.SQ_B_PULSE_XT) e.s.cyc else c
  if c.wflag a F.SQ_B_PULSE_TRIG_EN then c1.trigPulseSeq (c.wfld a F.SQ_B_PULSE_TRIG) e.dom e.s else c1

/-- The level after a branch taken at level m (R123). -/
def Chip.nextLevel (c : Chip) (n m b : Nat) : Nat := if c.actOn n b F.SQ_B_ACT_GOTO then c.act n b F.SQ_B_ACT_NEXT else m

/-- The actions of the branch taken, snapshots apart; answers whether a FREEZE triggered. -/
def Chip.sqActions (c : Chip) (n p m k : Nat) (e : Eval) : Chip × Bool :=
  let b := brIdx m k
  let t := e.s.stamp
  let c1 := (c.members n).foldl (fun c i => c.addCnt (R.SQ_DEC_CNT i) 1) c
  let f := if c.actOn n b F.SQ_B_ACT_FREEZE then c1.sqFreeze n p t else (c1, false)
  let c2 := (f.1.sqRequests n p b t).sqPulses n b e
  ((c.members n).foldl (fun c i => c.setFld (R.SQ_STAT i) F.SQ_STAT_LEVEL (c.nextLevel n m b)) c2, f.2)

/-- The snapshots of a sample, with every value as it stands after the sample's actions (R384, R385): the trigger list first. -/
def Chip.sqSnapshots (c : Chip) (n p b t : Nat) (froze : Bool) : Chip :=
  let l := c.trigList p
  let c1 := if froze && decide (l ≠ 0xff) then c.snapshot l 1 p n (20 + p) t else c
  if c.actOn n b F.SQ_B_ACT_SNAP then
    let k := c.act n b F.SQ_B_ACT_SNAP_LIST
    (c1.addSnapRef p t k).snapshot k 0 p n (20 + p) t
  else c1

/-- STORE_Q of the members (R88). (DEDUCED, log 40) -/
def Chip.storeQNote (c : Chip) (n p : Nat) : Chip :=
  (c.members n).foldl (fun c i => c.setFlag (R.SQ_STAT i) F.SQ_STAT_STORE_Q (c.part p).storeQ) c

/-- The post-trigger span counts the sample; its last sample ends evaluation (R126, R129). -/
def Chip.spanCount (c : Chip) (n p t : Nat) : Chip :=
  if c.flag (R.SQ_STAT n) F.SQ_STAT_POST then
    let left := (c.seq n).postLeft - 1
    let c1 := c.setSeq n { c.seq n with postLeft := left }
    if left = 0 then c1.setPart p { c1.part p with endStamp := some t } else c1
  else c

/-- One sample evaluated with no mismatch (R123). -/
def Chip.sqSample (c : Chip) (n p : Nat) (e : Eval) : Chip :=
  let m := c.sqLevel n
  let t := e.s.stamp
  match c.taken n m e with
  | none => ((Chip.advanceRes c c n [] e).spanCount n p t).storeQNote n p
  | some k =>
    let r := c.sqActions n p m k e
    let c1 := Chip.advanceRes c r.1 n (c.opSlots n (brIdx m k)) e
    let c2 := (c1.storeQNote n p).sqSnapshots n p (brIdx m k) t r.2
    c2.spanCount n p t

/-! ### Steady pairs (R25, R135) -/

/-- RST, INC, START and STOP of a combined operation as bits 0 to 3. -/
def ResOp.code (o : ResOp) : Nat :=
  (if o.rst then 1 else 0) + (if o.inc then 2 else 0) + (if o.start then 4 else 0) + (if o.stop then 8 else 0)

/-- The operations of a branch after R128's combination: each resource named, with what is done to it. START with STOP acts as STOP. -/
def Chip.combinedOps (c : Chip) (n b : Nat) : List (Bool × Nat × Nat) :=
  let ops := c.opSlots n b
  distinct ((ops.filter (fun o => c.opNames o)).map (fun o =>
    let r := c.opsFor ops o.timer o.idx
    (o.timer, o.idx, { r with start := r.start && !r.stop }.code)))

/-- What a member computes for a sample: the fields that R135 compares. -/
def Chip.decision (c : Chip) (n m : Nat) (k : Option Nat) : OddSample :=
  match k with
  | none => { level := m, branch := 0xff, act := 0, pulse := 0, ops := [], after := m }
  | some k =>
    let b := brIdx m k
    { level := m, branch := k, act := c.wreg (R.SQ_B_ACT n b) &&& 0xffff3fff, pulse := c.wreg (R.SQ_B_PULSE n b) &&& 0x9f9f,
      ops := c.combinedOps n b, after := c.nextLevel n m b }

/-- Two members decide alike: level at the start, branch, the whole action set, level after (R135). -/
def oddAgrees (a b : OddSample) : Bool :=
  decide (a.level = b.level) && decide (a.branch = b.branch) && decide (a.act = b.act) && decide (a.pulse = b.pulse) &&
    a.ops.all (fun x => b.ops.contains x) && b.ops.all (fun x => a.ops.contains x) && decide (a.after = b.after)

/-- A pair mismatch (R25, R135): both members report it, and the engine enters Safe; no action of the sample takes effect.
(DEDUCED, log 40) -/
def Chip.sqMismatch (c : Chip) (n : Nat) (even odd : OddSample) (t : Nat) : Chip :=
  let c1 := [n, n + 1].foldl (fun c i => (c.setFlag (R.SQ_STAT i) F.SQ_STAT_MISMATCH true).raiseTyped (Ev.sqPairMismatch i)) c
  c1.declareFatal 1 [n / 2, even.level, even.branch, odd.level, odd.branch, 0, 0, 0] t false

/-! ### SAMPLE_EVALUATED -/

/-- The `TRIG` window that an evaluation cycle takes: the one an earlier evaluation of the cycle took, or else the one delivered, which also
shows in `TRS_TRIG_IN` (R95, R115). -/
def Chip.evalWin (c : Chip) (cyc : Nat) (w : TrigWin) : Chip × TrigWin :=
  match c.trs.wins.find? (fun x => decide (x.1 = cyc)) with
  | some x => (c, x.2)
  | none => ({ c with trs := { c.trs with wins := ((cyc, w) :: c.trs.wins).take 64 }, pins := { c.pins with trigIn := w.last } }, w)

/-- Evaluation of sequencer `n` has come to instant `inst`. -/
def Chip.evaluatedTo (c : Chip) (n inst : Nat) : Chip := c.setSeq n { c.seq n with upTo := some inst }

/-- SAMPLE_EVALUATED (R123, R125, R126): the sequencer evaluates its next sample in that sample's evaluation cycle, with the levels and
transitions of the `TRIG` inputs in the window that cycle takes. Samples of the partition's groups before its instant meet the store
qualification in force till then, those at it the one after (R88). `odd`: what the odd member of a Steady pair computes, where a fault
makes it differ. (DESIGN CHOICE, log 10) -/
def doSampleEvaluated (sq trigLast trigRise trigFall : Nat) (odd : Option OddSample) (c : Chip) : Chip :=
  match (List.range 16).find? (fun p => decide (c.boundSeq p = some sq)) with
  | none => c
  | some p =>
    if c.recording p && c.seqRuns sq p then
      match c.nextSample sq p with
      | none => c
      | some s0 =>
        let g := c.sqDom sq
        let c1 := ((c.waitLine (s0.cyc * fabricCycle)).evaluatedTo sq (s0.inst - 1)).settlePart p
        let r := c1.boundary g (((c1.lane g).hist.find? (fun x => decide (x.ix = s0.ix))).getD s0)
        let s := r.2
        let v := r.1.evalWin s.cyc ⟨trigLast, trigRise, trigFall⟩
        let c2 := if (v.1.seq sq).lastCycle = some s.cyc then v.1 else v.1.applyPresets sq
        let c3 := c2.setSeq sq { c2.seq sq with next := s.ix + 1, lastCycle := some s.cyc, lastStamp := s.stamp, upTo := some s.inst }
        let e : Eval := ⟨s, g, v.2⟩
        let m := c3.sqLevel sq
        let even := c3.decision sq m (c3.taken sq m e)
        if c3.steady && odd.any (fun o => !oddAgrees even o) then c3.sqMismatch sq even (odd.getD even) s.stamp
        else (c3.sqSample sq p e).settlePart p
    else c

/-! ### Checks at ARM (R133) -/

/-- Where a program is at fault: level, branch, slot, and whether the slot is an OPS slot. -/
structure SqFault where
  level : Nat
  branch : Nat
  slot : Nat
  ops : Bool := false
  deriving DecidableEq, Repr

/-- The first fault over all branches, in the order of R133. (DEDUCED, log 40) -/
def firstFault (f : Nat → List (Nat × Bool)) : Option SqFault :=
  match (List.range 64).find? (fun b => !(f b).isEmpty) with
  | none => none
  | some b => match f b with
    | [] => none
    | (s, o) :: _ => some ⟨b / 4, b % 4, s, o⟩

/-- Slots that a branch's masks select, ascending. -/
def Chip.selected (c : Chip) (n b : Nat) : List Nat :=
  maskList 16 (c.wfld (R.SQ_B_COND n b) F.SQ_B_COND_P0 ||| c.wfld (R.SQ_B_COND n b) F.SQ_B_COND_P1)

/-- The term code draws from outside the domain (SQ_DOMAIN). -/
def Chip.outsideDom (c : Chip) (n code : Nat) : Bool := (c.termGroups code (c.sqDom n)).any (fun g => !c.sameDomain g (c.sqDom n))

/-- The term code tests a counter or timer of another owner (SQ_OWNER). -/
def Chip.foreignTerm (c : Chip) (n code : Nat) : Bool :=
  let t := code % 1024
  if 0x50 ≤ t ∧ t < 0x70 then !c.owns (c.ctOwner (t - 0x50)) n
  else if 0x70 ≤ t ∧ t < 0x80 then !c.tmEpoch (t - 0x70) && !c.owns (c.tmOwner (t - 0x70)) n
  else false

/-- The OPS slot names a resource of another owner. -/
def Chip.foreignOp (c : Chip) (n : Nat) (o : OpSlot) : Bool :=
  c.opNames o && !c.owns (if o.timer then c.tmOwner o.idx else c.ctOwner o.idx) n

/-- The faults of a branch under SQ_DOMAIN. -/
def Chip.domFaults (c : Chip) (n b : Nat) : List (Nat × Bool) :=
  ((c.selected n b).filter (fun j => c.outsideDom n (c.sqSlot n j))).map (fun j => (j, false))

/-- The faults of a branch under SQ_OWNER. -/
def Chip.ownerFaults (c : Chip) (n b : Nat) : List (Nat × Bool) :=
  ((c.selected n b).filter (fun j => c.foreignTerm n (c.sqSlot n j))).map (fun j => (j, false)) ++
    (((c.opSlots n b).zip [0, 1]).filter (fun o => c.foreignOp n o.1)).map (fun o => (o.2, true))

/-- The faults of a branch under SQ_PRODUCT: which slot is meant is not stated, a free value (DESIGN CHOICE, log 3). -/
def Chip.productFaults (c : Chip) (n b : Nat) : List (Nat × Bool) :=
  let a := R.SQ_B_COND n b
  if (maskList 16 (c.wfld a F.SQ_B_COND_P0)).length > 4 ∨ (maskList 16 (c.wfld a F.SQ_B_COND_P1)).length > 4 then
    [(c.freeNow.toNat % 16, false)]
  else []

/-- The faults of a branch under SQ_WINDOW: a window lies in no slot, and the spec names none, a free value (DESIGN CHOICE, log 3). -/
def Chip.windowFaults (c : Chip) (n b : Nat) : List (Nat × Bool) :=
  let w := c.sqWindow n (c.act n b F.SQ_B_ACT_WIN) 0
  if (c.actOn n b F.SQ_B_ACT_HOLD || c.actOn n b F.SQ_B_ACT_NOTICE) && decide (w.2 ≤ w.1) then [(c.freeNow.toNat % 16, false)] else []

/-- The first row of Table 5-3 from 0x22 on that the program breaks, with the fault. SQ_DOM_OFF lies in no branch: its level, branch and slot
are free values (DESIGN CHOICE, log 3). (DEDUCED, log 37) -/
def Chip.programFault (c : Chip) (n : Nat) : Option (Nat × SqFault) :=
  match firstFault (c.domFaults n) with
  | some f => some (0x22, f)
  | none =>
    match firstFault (c.ownerFaults n) with
    | some f => some (0x23, f)
    | none =>
      match firstFault (c.productFaults n) with
      | some f => some (0x24, f)
      | none =>
        if c.laneEn (c.sqDom n) = false then
          let v := c.freeNow.toNat
          some (0x25, ⟨v % 16, v / 16 % 4, v / 64 % 16, false⟩)
        else (firstFault (c.windowFaults n)).map (fun f => (0x26, f))

/-- `SQn_CHK`. (DESIGN CHOICE, log 3; DEDUCED, log 40) -/
def Chip.setChk (c : Chip) (n reason : Nat) (f : SqFault) : Chip :=
  let a := R.SQ_CHK n
  let c1 := (((c.setN a 0).setFld a F.SQ_CHK_REASON reason).setFld a F.SQ_CHK_LEVEL f.level).setFld a F.SQ_CHK_BRANCH f.branch
  (c1.setFld a F.SQ_CHK_SLOT f.slot).setFlag a F.SQ_CHK_OPS f.ops

end Sys2Proof.Machine
end

