-- ==== Sys2Proof/Machine/Arm.lean ====
section
/-! DEFINITION. ARM (spec 07, R167, R168; R133, R139, R140, R145): its checks against Tables 7-4 and 5-3, the working copies, and the
figures computed. -/

namespace Sys2Proof.Machine

/-! ### The partition's sequencer -/

/-- Sequencers with EN = 1 that name the partition. -/
def Chip.sqEnabled (c : Chip) (p : Nat) : List Nat :=
  (List.range 16).filter (fun n => c.flag (R.SQ_CTRL n) F.SQ_CTRL_EN && decide (c.fld (R.SQ_CTRL n) F.SQ_CTRL_PART = p))

/-- Sequencers that may be bound to the partition: in Steady an odd member's EN counts only under SQ_PAIR (R134). -/
def Chip.sqNaming (c : Chip) (p : Nat) : List Nat := (c.sqEnabled p).filter (fun n => !c.steady || decide (n % 2 = 0))

/-- The sequencer is bound to another armed partition, whose program it runs until that partition is armed anew (R15).
(DESIGN CHOICE, log 59) -/
def Chip.sqBusy (c : Chip) (p n : Nat) : Bool := (List.range 16).any (fun o => decide (o ≠ p) && c.armed o && decide (c.boundSeq o = some n))

/-- The sequencer that an ARM of the partition binds: one that runs another armed partition's program stays with it, and the partition is
armed without a sequencer. (DESIGN CHOICE, log 59) -/
def Chip.sqFor (c : Chip) (p : Nat) : Option Nat := ((c.sqNaming p).filter (fun n => !c.sqBusy p n)).head?

/-- Odd members that break SQ_PAIR. -/
def Chip.sqOdd (c : Chip) (p : Nat) : List Nat := (c.sqEnabled p).filter (fun n => c.steady && decide (n % 2 = 1))

/-- Registers of a sequencer that ARM copies. -/
def sqRegs (n : Nat) : List Nat :=
  [R.SQ_CTRL n, R.SQ_POST_L n, R.SQ_POST_H n] ++ run (R.SQ_TS n 0) 16 ++ run (R.SQ_WIN_START_L n 0) 16 ++ run (R.SQ_B_COND n 0) 256

/-- Registers of a partition that ARM copies. -/
def prtRegs (p : Nat) : List Nat := [R.PRT_CFG p, R.PRT_HOLD_CFG p] ++ run (R.PRT_RING_BASE p) 6

/-- The groups that the register names. -/
def Chip.cfgGroups (c : Chip) (p : Nat) : List Nat := maskList 8 (c.fld (R.PRT_CFG p) F.PRT_CFG_GROUPS)

/-- The engine with the working copies that an ARM would take, on which the ARM is judged. (DEDUCED, log 37) -/
def Chip.armCopies (c : Chip) (p : Nat) : Chip :=
  let gs := c.cfgGroups p
  let c1 := (c.copyRegs (prtRegs p)).copyRegs (gs.map R.FUL_CTRL ++ gs.flatMap laneRegs)
  match c.sqFor p with
  | none => c1
  | some n => (c1.copyRegs (sqRegs n)).copyResources (fun o => c.owns o n)

/-! ### Sizes (R168) -/

/-- K of a group: words or records in a block. -/
def Chip.blockCap (c : Chip) (g : Nat) : Nat := if c.laneMode g = 2 then 2340 else 4096

/-- Q: post-trigger blocks of every group, for the sequencer n of a partition. -/
def Chip.postBytes (c : Chip) (p n : Nat) : Nat :=
  let d := (c.wpair 16 (R.SQ_POST_L n) + 1) * (c.laneDiv (c.sqDom n) + 1)
  up64k ((c.prtGroups p).foldl (fun b g => b + 16400 * (divCeil d (c.blockCap g * (c.laneDiv g + 1)) + 1)) 0)

/-- Q and POSTMAX in the working copy. -/
def Chip.postSize (c : Chip) (p : Nat) (sq : Option Nat) : Nat × Nat :=
  match sq with
  | none => (0, 0)
  | some n => let q := c.postBytes p n; (q, q + up64k (q / 32))

/-- The base size of the segment store. -/
def Chip.segBaseSize (c : Chip) (p : Nat) : Nat := 65536 + up64k (c.ringBytes p / 32) + 16777216

/-! ### Table 7-4 -/

/-- Two areas (base, size) overlap. -/
def areasMeet (a b : Nat × Nat) : Bool := decide (a.1 < b.1 + b.2) && decide (b.1 < a.1 + a.2) && decide (0 < a.2) && decide (0 < b.2)

/-- Ring and segment store of a partition, in MiB: from the working copy while it is armed, else from the registers. -/
def Chip.areas (c : Chip) (p : Nat) : List (Nat × Nat) :=
  let v := fun (a : Nat) => (if c.armed p then c.wreg a else c.rn a) % 2 ^ 21
  if v (R.PRT_RING_SIZE p) = 0 then [] else [(v (R.PRT_RING_BASE p), v (R.PRT_RING_SIZE p)), (v (R.PRT_SEG_BASE p), v (R.PRT_SEG_SIZE p))]

/-- AREA_OVERLAP. (DEDUCED, log 37) -/
def Chip.areaOverlap (c : Chip) (p : Nat) : Bool :=
  let mine := c.areas p
  (match mine with
   | [a, b] => areasMeet a b
   | _ => false) ||
  (List.range 16).any (fun o => decide (o ≠ p) && (c.areas o).any (fun b => mine.any (fun a => areasMeet a b)))

/-- The rows of Table 7-4 that apply to ARM, on the state `c`, with `w` holding the working copies it would take. -/
def Chip.armTableReason (c w : Chip) (p : Nat) : Nat :=
  let gs := c.cfgGroups p
  let post := w.postSize p (c.sqFor p)
  firstReason [
    (c.armed p, 0x10), (c.noEpoch, 0x11), (!c.inGale, 0x12), (gs.isEmpty, 0x13), (gs.any (fun g => (c.owner g).isSome), 0x14),
    (decide (w.ringBytes p < 268435456) || decide (w.segBytes p < w.segBaseSize p), 0x15),
    (decide (w.ringBase p + w.ringBytes p > c.capBytes) || decide (w.segBase p + w.segBytes p > c.capBytes), 0x16),
    (c.areaOverlap p, 0x17), (!(c.part p).segs.isEmpty, 0x18), (decide (w.segBytes p < w.segBaseSize p + post.2), 0x19),
    (gs.any (fun g => decide (c.applyReason g true ≠ 0)), 0x1a)]

/-- The reason ARM is rejected, or 0, with the sequencer's fault where Table 5-3 names one. (DEDUCED, log 37; no reason
where the sequencer runs another armed partition's program: DESIGN CHOICE, log 59) -/
def Chip.armReason (c w : Chip) (p : Nat) : Nat × SqFault :=
  let r := c.armTableReason w p
  let sq := c.sqNaming p
  if r ≠ 0 then (r, ⟨0, 0, 0, false⟩)
  else if sq.length > 1 then (0x20, ⟨0, 0, 0, false⟩)
  else if !(c.sqOdd p).isEmpty then (0x21, ⟨0, 0, 0, false⟩)
  else
    match c.sqFor p with
    | some n => (w.programFault n).getD (0, ⟨0, 0, 0, false⟩)
    | none => (0, ⟨0, 0, 0, false⟩)

/-! ### Figures (R139, R140, R145) -/

/-- A sum of two ratios. -/
def addRatio (a b : Nat × Nat) : Nat × Nat := (a.1 * b.2 + b.1 * a.2, a.2 * b.2)

/-- W_g in bytes a second, as a ratio (Table 6-1). -/
def Chip.storedRate (c : Chip) (g : Nat) : Nat × Nat :=
  let r := (c.fscNum * 16400, c.fscDen * (c.laneDiv g + 1) * c.blockCap g)
  let budget := if c.nch = 4 then 6250000000 else 12500000000
  if r.1 > budget * r.2 then (budget, 1) else r

/-- W_p. -/
def Chip.partRate (c : Chip) (p : Nat) : Nat × Nat := (c.prtGroups p).foldl (fun w g => addRatio w (c.storedRate g)) (0, 1)

/-- Guaranteed retention in µs with `h` bytes held. -/
def Chip.retention (c : Chip) (p h : Nat) : Nat :=
  let w := c.partRate p
  (c.ringBytes p - h - 131200) * 1000000 * w.2 / w.1

/-- The hold budget (R145). -/
def Chip.holdBudget (c : Chip) (p : Nat) : Nat :=
  let pct := max 5 (min 75 (c.wfld (R.PRT_HOLD_CFG p) F.PRT_HOLD_CFG_BUDGET_PCT))
  c.ringBytes p * pct / 100 / 4096 * 4096

/-! ### Acceptance -/

/-- A lane group begins recording: nothing staged, nothing in its instance, a first block to come (R181, R91); samples already taken whose
evaluation cycles come after the ARM wait for storing (R468). -/
def Chip.laneBegin (c : Chip) (g : Nat) : Chip :=
  let l := c.lane g
  c.putLane g { l with forming := none, staged := [], codec := {}, trWord := 0, trSince := 0, fresh := true, runStart := true, gap := none,
                       closed := [], gapCq := false, prevStored := false, stored := 0, ended := false
                       pipe := (l.hist.filter (fun s => decide (c.lineCycle < s.cyc))).reverse.map Flow.sample }

/-- FULn status at ARM (R192). -/
def Chip.fulBegin (c : Chip) (p g : Nat) : Chip :=
  let v := c.wflag (R.PRT_CFG p) F.PRT_CFG_VERIFY || c.steady || !c.latched
  ((c.setFlag (R.FUL_STAT g) F.FUL_STAT_VERIFY v).setFlag (R.FUL_STAT g) F.FUL_STAT_ACTIVE true).setFlag (R.FUL_STAT g) F.FUL_STAT_INJ_PEND false

/-- Counters take INIT; timers take 0 and RUN_INIT (R109, R110). -/
def Chip.resBegin (c : Chip) (n : Nat) : Chip :=
  let c1 := (List.range 32).foldl (fun c k =>
    if c.owns (c.ctOwner k) n then c.setPair 16 (R.TRS_CT_VAL_L k) (c.wpair 16 (R.TRS_CT_INIT_L k)) else c) c
  let c2 := (List.range 16).foldl (fun c k =>
    if c.owns (c.tmOwner k) n then
      (c.setPair 16 (R.TRS_TM_VAL_L k) 0).setFlag (R.TRS_TM_CFG k) F.TRS_TM_CFG_RUN (c.wflag (R.TRS_TM_CFG k) F.TRS_TM_CFG_RUN_INIT)
    else c) c1
  c2

/-- The sequencer begins: at START, evaluating (R126). -/
def Chip.seqBegin (c : Chip) (n p : Nat) : Chip :=
  let c1 := (c.members n).foldl (fun c i =>
    let a := R.SQ_STAT i
    (((c.setFld a F.SQ_STAT_LEVEL (c.wfld (R.SQ_CTRL n) F.SQ_CTRL_START)).setFlag a F.SQ_STAT_RUNNING true).setFlag a F.SQ_STAT_POST
      false).setFlag a F.SQ_STAT_STORE_Q (c.part p).storeQ) c
  ((c1.setChk n 0 ⟨0, 0, 0, false⟩).setSeq n {}).resBegin n

/-- STORE_INIT of the lowest qualified-mode group (R88); without such a group the qualification stays as it was. -/
def Chip.storeInit (c : Chip) (p : Nat) : Bool :=
  match (c.prtGroups p).find? (fun g => decide (c.laneMode g = 3)) with
  | some g => c.wflag (R.LG_CFG g) F.LG_CFG_STORE_INIT
  | none => (c.part p).storeQ

/-- The work of an accepted ARM (R167). -/
def Chip.armNow (c : Chip) (p : Nat) : Chip :=
  let sq := c.sqFor p
  let c1 := (c.cfgGroups p).foldl (fun c g => c.laneApply g) (c.armCopies p)
  let size := c1.postSize p sq
  let c2 := (c1.cfgGroups p).foldl (fun c g => (c.laneBegin g).fulBegin p g) c1
  let c3 := c2.setPart p { storeQ := c2.storeInit p, q := size.1, seqBound := (sq.map (· + 1)).getD 0, armCycle := c2.lineCycle }
  let c4 := (c3.setPair 16 (R.PRT_POSTMAX_L p) size.2).setPair 16 (R.PRT_BUDGET_L p) (c3.holdBudget p)
  let c5 := (c4.setN (R.PRT_RET_FULL p) (c4.retention p 0)).setN (R.PRT_RET_MIN p) (c4.retention p (c4.holdBudget p))
  let c6 := match sq with
    | some n => c5.seqBegin n p
    | none => c5
  (c6.setPrtState p 1).refreshPart p

/-- What a rejected ARM reports beside its reason (R71, R133). -/
def Chip.armReport (c : Chip) (p : Nat) (r : Nat × SqFault) : Chip :=
  if r.1 = 0x1a then
    (c.cfgGroups p).foldl (fun c g =>
      let x := c.applyReason g true
      if x = 0 then c else (if x = 2 then c.deskewNote g else c).setFld (R.LG_CMDSTAT g) reasonFld x) c
  else if 0x20 ≤ r.1 ∧ r.1 ≤ 0x26 then ((if r.1 = 0x21 then c.sqOdd p else c.sqNaming p).foldl (fun c n => c.setChk n r.1 r.2) c).used
  else c

/-- ARM by an initiator. -/
def Chip.armCmd (c : Chip) (init : Init) (p : Nat) (entry : Option Nat) : Chip :=
  if c.inSafe then c.reject (prtPort p) init entry 0xfe
  else
    let r := c.armReason (c.armCopies p) p
    (c.armReport p r).command (prtPort p) init entry false r.1 (fun c => c.armNow p)

/-- ARM (R167). -/
def doArm (init : Init) (p : Nat) (c : Chip) : Chip := c.armCmd init p none

end Sys2Proof.Machine
end

