-- ==== Sys2Proof/Machine/Clocks.lean ====
section
/-! DEFINITION. The synthesiser and the clock outputs (spec 12, R270 to R294): configuration legality, state changes and their records,
loss and return of the reference, steps, the stopped sample clock of Gated mode, and the `CKO` outputs. -/

namespace Sys2Proof.Machine

/-! ### Frequency plan (R270, R275) -/

/-- A synthesiser configuration as the registers spell it. -/
structure SynCfg where
  refKhz : Nat
  rmul : Nat
  pdiv : Nat
  outdiv : Nat
  dither : Bool
  n : Nat
  frac : Nat
  deriving DecidableEq, Repr

/-- The configuration in the registers. -/
def Chip.synCfg (c : Chip) : SynCfg :=
  { refKhz := c.fld R.CLK_REF_CFG F.CLK_REF_CFG_REF_KHZ
    rmul := c.fld R.CLK_SYN_CFG F.CLK_SYN_CFG_RMUL
    pdiv := c.fld R.CLK_SYN_CFG F.CLK_SYN_CFG_PDIV
    outdiv := c.fld R.CLK_SYN_CFG F.CLK_SYN_CFG_OUTDIV
    dither := c.flag R.CLK_SYN_CFG F.CLK_SYN_CFG_DITHER
    n := c.fld R.CLK_SYN_N F.CLK_SYN_N_N
    frac := c.rn R.CLK_SYN_FRAC }

/-- f_pfd = `pfdNum / pfdDen` Hz. -/
def SynCfg.pfdNum (k : SynCfg) : Nat := k.refKhz * 1000 * rmulNum k.rmul
def SynCfg.pfdDen (k : SynCfg) : Nat := rmulDen k.rmul * (k.pdiv + 1)

/-- The word N + FRAC / 2^32 in units of 2^-32. -/
def SynCfg.word (k : SynCfg) : Nat := k.n * 2 ^ 32 + k.frac

/-- f_vco = `vcoNum / vcoDen` Hz with a word `w`. -/
def SynCfg.vcoNum (k : SynCfg) (w : Nat) : Nat := k.pfdNum * w
def SynCfg.vcoDen (k : SynCfg) : Nat := k.pfdDen * 2 ^ 32

/-- f_vco with word `w` lies in 10 to 12.8 GHz. -/
def SynCfg.vcoOk (k : SynCfg) (w : Nat) : Bool :=
  decide (10000000000 * k.vcoDen ≤ k.vcoNum w) && decide (k.vcoNum w ≤ 12800000000 * k.vcoDen)

/-- Every limit of R270 and the range of REF_KHZ hold (Table 12-5). -/
def SynCfg.legal (k : SynCfg) : Bool :=
  decide (5000 ≤ k.refKhz) && decide (k.refKhz ≤ 500000) &&
  decide (5000000 * k.pfdDen ≤ k.pfdNum) && decide (k.pfdNum ≤ 250000000 * k.pfdDen) &&
  k.vcoOk k.word &&
  decide (4 ≤ k.outdiv) && decide (k.outdiv ≤ 25) &&
  decide (500000000 * k.vcoDen * k.outdiv ≤ k.vcoNum k.word) && decide (k.vcoNum k.word ≤ 2500000000 * k.vcoDen * k.outdiv)

/-- Dither is asked for in a fractional configuration above 2 GHz (R275). -/
def SynCfg.ditherBad (k : SynCfg) : Bool :=
  k.dither && decide (k.frac ≠ 0) && decide (2000000000 * k.vcoDen * k.outdiv < k.vcoNum k.word)

/-- The configuration that APPLY has taken (R272), with the word it set. -/
def Chip.synCfgInForce (c : Chip) : SynCfg :=
  { refKhz := c.wfld R.CLK_REF_CFG F.CLK_REF_CFG_REF_KHZ
    rmul := c.wfld R.CLK_SYN_CFG F.CLK_SYN_CFG_RMUL
    pdiv := c.wfld R.CLK_SYN_CFG F.CLK_SYN_CFG_PDIV
    outdiv := c.wfld R.CLK_SYN_CFG F.CLK_SYN_CFG_OUTDIV
    dither := c.wflag R.CLK_SYN_CFG F.CLK_SYN_CFG_DITHER
    n := c.clk.applyN
    frac := c.clk.applyFrac }

/-- The configuration that APPLY has taken, with the reference the loop follows: f_ref is `XBYP` in Bypass (R270). -/
def Chip.synCfgLoop (c : Chip) : SynCfg := { c.synCfgInForce with refKhz := c.refHz / 1000 }

/-! ### States (R281, R283) -/

def Chip.synState (c : Chip) : Nat := c.fld R.CLK_STAT F.CLK_STAT_STATE

/-- `REFIN` is qualified (R282). -/
def Chip.refOk (c : Chip) : Bool := c.flag R.CLK_STAT F.CLK_STAT_REF_OK

/-- REF_SEL (R285). -/
def Chip.refSel (c : Chip) : Bool := c.flag R.CLK_SRC F.CLK_SRC_REF_SEL

/-- The event named for a state (Table 12-1), where there is one. (DESIGN CHOICE, log 27) -/
def synEvent : Nat → Option (Nat × Nat)
  | 2 => some Ev.synLocked
  | 3 => some Ev.synCoast
  | 4 => some Ev.synBypass
  | 6 => some Ev.refReturn
  | _ => none

/-- The dither generator is loaded at each APPLY and at each entry to Bypass or RETURN (R275). -/
def Chip.ditherLoad (c : Chip) : Chip :=
  { c with clk := { c.clk with dither := if c.rn R.CLK_SYN_SEED = 0 then 1 else c.rn R.CLK_SYN_SEED, ditherAt := c.epc.line } }

/-- Dither acts: DITHER = 1, a word with a fraction, in Bypass the bypass word, and f_sc of at most 2 GHz (R275). -/
def Chip.ditherOn (c : Chip) : Bool :=
  c.wflag R.CLK_SYN_CFG F.CLK_SYN_CFG_DITHER && decide (c.loopWord % 2 ^ 32 ≠ 0) && decide (c.fscNum ≤ 2000000000 * c.fscDen)

/-- The dither that the modulator adds now: the generator's sequence since its load, one value an f_pfd period. (DESIGN CHOICE, log 27) -/
def Chip.ditherNow (c : Chip) : Nat :=
  if c.ditherOn then (Config.ditherSeq (BitVec.ofNat 32 c.clk.dither) ((c.epc.line - c.clk.ditherAt) / max 1 c.pfdPeriod)).toNat else 0

/-- A ramp of R277 is abandoned (RAMP clears), where one runs. -/
def Chip.rampDrop (c : Chip) : Chip := c.setFlag R.CLK_STAT F.CLK_STAT_RAMP false

/-- The word stands at `w`. -/
def Chip.wordSet (c : Chip) (w : Nat) : Chip :=
  { c.regrid with clk := { c.regrid.clk with wordN := w / 2 ^ 32, wordFrac := w % 2 ^ 32, rampTo := none } }

/-- The word begins to move to `dst` from where it is. -/
def Chip.wordMove (c : Chip) (dst : Nat) : Chip :=
  let c1 := c.wordSet c.wordNow
  { c1 with clk := { c1.clk with rampTo := some (dst / 2 ^ 32, dst % 2 ^ 32), rampAt := c1.epc.line } }

/-- A hitless switch: the loop follows `XBYP` (`byp`) or `REFIN`, with f_vco as it was, and the word begins to move to the configured one for
that reference (R284). -/
def Chip.refSwitch (c : Chip) (byp : Bool) : Chip :=
  let w := c.wordNow
  let from_ := c.refHz
  let c1 := { c with clk := { c.clk with byp := byp } }
  (c1.wordSet (wordFor from_ c1.refHz w)).wordMove c1.loopWord

/-- The loop takes the configured word for a reference at once: on lock in ACQUIRE (R272). -/
def Chip.refTake (c : Chip) (byp : Bool) : Chip :=
  let c1 := { c with clk := { c.clk with byp := byp } }
  c1.wordSet c1.loopWord

/-- The word is frozen at the value it held 8 f_pfd periods ago (R282). -/
def Chip.wordFreeze (c : Chip) : Chip := c.wordSet (c.wordAt (c.epc.line - 8 * c.pfdPeriod))

/-- Groups of recording partitions. -/
def Chip.recGroups (c : Chip) : List Nat := (List.range 8).filter (fun g => (c.recOwner g).isSome)

/-- The sample clock stops at the samplers (R288): each group of a recording partition closes its block, and a gap of cause 2 begins. -/
def Chip.sampleStop (c : Chip) : Chip :=
  let c1 := c.recGroups.foldl (fun c g => c.laneStop g) c
  { c1 with clk := { c1.clk with stopAt := c1.cycle } }.setFlag R.CLK_STAT F.CLK_STAT_SAMPLE_ON false |>.raise Ev.sampleStop

/-- The sample clock runs at the samplers again (R288). -/
def Chip.sampleStart (c : Chip) : Chip :=
  let c1 := c.sampleRelease true
  (c1.recGroups.foldl (fun c g => c.laneResume g) c1).raise Ev.sampleStart

/-- A change of the synthesiser's state with its cause: status, stamp, event and SYN_STATE record (R283, Table 12-3). A STEP ramp does not
outlive it. (DESIGN CHOICE, log 27) -/
def Chip.synGo (c : Chip) (new cause : Nat) : Chip :=
  let old := c.synState
  let c1 := (c.rampDrop.setFld R.CLK_STAT F.CLK_STAT_STATE new).setFld R.CLK_STAT F.CLK_STAT_CAUSE cause
  let c2 := c1.setTriple R.CLK_CHG_L c1.now
  let c3 := match synEvent new with
    | some e => c2.raiseTyped e
    | none => c2
  let c4 := c3.record 6 2 c3.now ([old, new, cause, 0] ++ leBytes 4 (c3.rn R.CLK_LOSS_CNT))
  if new = 3 ∨ new = 4 ∨ new = 5 then { c4 with epc := { c4.epc with postCoast := true, awaiting := true } } else c4

/-- Entry to COAST: the word is frozen as it was 8 f_pfd periods before, a ramp abandoned (R277, R282). -/
def Chip.synCoast (c : Chip) (cause : Nat) : Chip :=
  let c1 := c.wordFreeze.synGo 3 cause
  { c1 with clk := { c1.clk with coastAt := c1.epc.line } }

/-- Entry to BYPASS: the hitless switch to `XBYP` (R284). From a RETURN that Gated mode had held off the sample clock starts (Table 12-1).
(DESIGN CHOICE, log 27) -/
def Chip.synBypass (c : Chip) (cause : Nat) : Chip :=
  let c1 := (if c.clk.byp then c else c.refSwitch true).synGo 4 cause
  let c2 := { c1.ditherLoad with clk := { c1.ditherLoad.clk with returnHeld := false } }
  if c.clk.returnHeld && decide (c.ladder ≤ 1) then c2.sampleStart else c2

/-- Entry to GATED: the fabric clock goes on from `XBYP`, the sample clock stops (R288). (DESIGN CHOICE, log 27) -/
def Chip.synGated (c : Chip) (cause : Nat) : Chip :=
  let on := c.sampleOn
  let c1 := (if c.clk.byp then c else c.refSwitch true).synGo 5 cause
  if on then c1.sampleStop else c1

/-- Entry to RETURN: the hitless switch to `REFIN`, lock not yet declared; from GATED the sample clock stays held off (Table 12-1).
(DESIGN CHOICE, log 27) -/
def Chip.synReturn (c : Chip) (cause : Nat) : Chip :=
  let held := decide (c.synState = 5)
  let c1 := (((c.refSwitch false).synGo 6 cause).ditherLoad).setFlag R.CLK_STAT F.CLK_STAT_LOCK false
  { c1 with clk := { c1.clk with returnHeld := held } }

/-- In COAST, BYPASS or GATED with `REFIN` qualified and REF_SEL = 0 the next fabric cycle leads to RETURN (Table 12-2). -/
def Chip.synReturnDue (c : Chip) : Chip :=
  let s := c.synState
  if c.refOk && !c.refSel && (decide (s = 3) || decide (s = 4) || decide (s = 5)) then (c.pass 1).synReturn 8 else c

/-- Entry to ACQUIRE: the sample clock is held off and the aligners lock anew (R272); the loop follows `XBYP` where REF_SEL = 1 or `REFIN` is not
qualified. (DESIGN CHOICE, log 27) -/
def Chip.synAcquire (c : Chip) (cause : Nat) : Chip :=
  let c1 := (c.refTake (c.refSel || !c.refOk)).synGo 1 cause
  let c2 := (c1.setFlag R.CLK_STAT F.CLK_STAT_SAMPLE_ON false).setFlag R.CLK_STAT F.CLK_STAT_LOCK false
  let c3 := (c2.setFld R.CLK_STAT F.CLK_STAT_GA_LOCK 0).setFld R.CLK_STAT F.CLK_STAT_OA_LOCK 0
  { c3 with clk := { c3.clk with returnHeld := false, refFrom := if c.synState = 0 then c3.epc.line else c3.clk.refFrom } }

/-- Entry to OFF, with the power state (Table 12-2). -/
def Chip.synOff (c : Chip) : Chip :=
  if c.synState = 0 then c
  else
    let c1 := c.synGo 0 10
    let c2 := (c1.setFlag R.CLK_STAT F.CLK_STAT_SAMPLE_ON false).setFlag R.CLK_STAT F.CLK_STAT_LOCK false
    (c2.setFld R.CLK_STAT F.CLK_STAT_GA_LOCK 0).setFld R.CLK_STAT F.CLK_STAT_OA_LOCK 0

/-- The registers that APPLY takes (R272). -/
def synRegs : List Nat := [R.CLK_SYN_CFG, R.CLK_SYN_N, R.CLK_SYN_FRAC, R.CLK_SYN_SEED, R.CLK_REF_CFG]

/-- The synthesiser takes its configuration and enters ACQUIRE (R272). -/
def Chip.synApply (c : Chip) (cause : Nat) : Chip :=
  let k := c.synCfg
  let c1 := (c.copyRegs synRegs).ditherLoad
  { c1 with clk := { c1.clk with applyN := k.n, applyFrac := k.frac } }.synAcquire cause

/-! ### Commands (R294, Table 12-5) -/

def clkPort : CmdPort := ⟨R.CLK_CMD, R.CLK_CMDSTAT, Ev.rejClk⟩

/-- A partition is armed. -/
def Chip.anyArmed (c : Chip) : Bool := (List.range 16).any (fun p => c.armed p)

/-- A ramp of R277 is in progress. -/
def Chip.ramping (c : Chip) : Bool := c.flag R.CLK_STAT F.CLK_STAT_RAMP

/-- ACQUIRE or a ramp is in progress. -/
def Chip.synBusy (c : Chip) : Bool := decide (c.synState = 1) || c.ramping

/-- CLK_APPLY (R272). -/
def doClkApply (init : Init) (c : Chip) : Chip :=
  c.command clkPort init none false
    (firstReason [(c.anyArmed, 0x80), (!c.synCfg.legal, 0x81), (c.synCfg.ditherBad, 0x82), (decide (c.synState = 0), 0x84),
      (c.synBusy, 0x85)])
    (fun c => c.synApply 1)

/-- The STEP target, in units of 2^-32. -/
def Chip.stepWord (c : Chip) : Nat := c.fld R.CLK_STEP_N F.CLK_STEP_N_N * 2 ^ 32 + c.rn R.CLK_STEP_FRAC

/-- Distance of two numbers. -/
def distNat (a b : Nat) : Nat := (a - b) + (b - a)

/-- The STEP target lies within 200 ppm of the frequency set at the last APPLY, and f_vco in its range; both with the reference the loop
follows (R270, R277). -/
def Chip.stepInRange (c : Chip) : Bool :=
  let set_ := c.synCfgInForce.vcoNum c.applyWord
  let k := c.synCfgLoop
  decide (1000000 * distNat (k.vcoNum c.stepWord) set_ ≤ 200 * set_) && k.vcoOk c.stepWord

/-- The reason STEP is rejected, or 0. -/
def Chip.stepReason (c : Chip) : Nat :=
  firstReason [(!c.stepInRange, 0x83), (decide (c.synState ≠ 2) && decide (c.synState ≠ 4), 0x84), (c.synBusy, 0x85)]

/-- CLK_STEP (R277). -/
def doClkStep (init : Init) (c : Chip) : Chip :=
  c.command clkPort init none false c.stepReason (fun c => (c.wordMove c.stepWord).setFlag R.CLK_STAT F.CLK_STAT_RAMP true)

/-- STEP_DONE (R277): the ramp, at no more than 1 ppm per µs, has ended. -/
def doStepDone (c : Chip) : Chip :=
  match c.clk.rampTo with
  | none => c
  | some t =>
    if c.ramping then
      let c1 := c.waitLine (c.clk.rampAt + c.rampTime)
      ((c1.wordSet (t.1 * 2 ^ 32 + t.2)).rampDrop).raise Ev.stepDone
    else c

/-! ### Clock outputs (R291, R292) -/

/-- The aligner of output m starts from CUR as it stands. -/
def Chip.ckoFromNow (c : Chip) (m cur : Nat) : Chip := { c with clk := { c.clk with ckoFrom := SMap.put c.clk.ckoFrom m (cur, c.epc.line) } }

/-- Output m sends a pulse per second: EN and SRC = 1 in the configuration in force. -/
def Chip.ckoPps (c : Chip) (m : Nat) : Bool :=
  c.wflag (R.CLK_CKO_CFG m) F.CLK_CKO_CFG_EN && decide (c.wfld (R.CLK_CKO_CFG m) F.CLK_CKO_CFG_SRC = 1)

/-- CKO_APPLY's work (R292): every output takes its configuration, and the dividers start together on the next edge of the sample clock.
(DESIGN CHOICE, log 28) -/
def Chip.ckoTake (c : Chip) : Chip :=
  let c1 := (List.range 8).foldl (fun c m => (c.ckoFromNow m (c.ckoCur m)).copyRegs [R.CLK_CKO_CFG m, R.CLK_CKO_PW m]) c
  { c1 with clk := { c1.clk with
    ckoAt := c1.fscEdgeFrom c1.epc.line
    ckoHigh := (List.range 8).foldl (fun x m => if c1.ckoPps m then x else maskClear x m) c1.clk.ckoHigh } }

/-- CKO_APPLY (R292): never rejected (R294), but for Safe (R360). -/
def doCkoApply (init : Init) (c : Chip) : Chip := c.command clkPort init none false 0 Chip.ckoTake

/-- CKO_PHASE_WRITE (R291): the target phase acts at once; the aligner moves from where it is. -/
def doCkoPhaseWrite (m : Nat) (val : Word) (c : Chip) : Chip :=
  (c.ckoFromNow m (c.ckoCur m)).setFld (R.CLK_CKO_PHASE m) F.CLK_CKO_PHASE_PHASE val.toNat

/-- The keeper runs on a timeline: VALID, HOLDOVER or MANUAL (R60, R292). (DEDUCED, log 32) -/
def Chip.epcHolds (c : Chip) : Bool :=
  let s := c.fld R.EPC_STAT F.EPC_STAT_STATE
  decide (s = 2) || decide (s = 3) || decide (s = 4)

/-- CKO_PPS_PULSE_START (R292, R293): for the next whole second of the keeper that has had no pulse; the leading edge falls on the first edge
of the sample clock at or after it. -/
def doCkoPpsPulseStart (m : Nat) (c : Chip) : Chip :=
  if c.ckoPps m && c.epcHolds && c.sampleOn && !c.inSafe && decide (c.ladder ≤ 1) then
    let sec := max (divCeil c.epc.time second) (cnt0 c.clk.ckoSec m)
    let c1 := c.waitStamp (sec * 2 ^ 36)
    { c1 with clk := { c1.clk with
      ckoHigh := maskSet c1.clk.ckoHigh m
      ckoEdge := SMap.put c1.clk.ckoEdge m (c1.fscEdgeFrom (c1.epc.line - (c1.epc.time - sec * second)))
      ckoSec := put0 c1.clk.ckoSec m (sec + 1) } }
  else c

/-- PW of an output in µs, by the nearer limit (Table 12-7). -/
def Chip.ckoPw (c : Chip) (m : Nat) : Nat := max 1 (min 500000 (c.wfld (R.CLK_CKO_PW m) F.CLK_CKO_PW_PW))

/-- CKO_PPS_PULSE_END (R292): PW µs after its leading edge. -/
def doCkoPpsPulseEnd (m : Nat) (c : Chip) : Chip :=
  if bit c.clk.ckoHigh m then
    let c1 := c.waitLine (cnt0 c.clk.ckoEdge m + c.ckoPw m * micro)
    { c1 with clk := { c1.clk with ckoHigh := maskClear c1.clk.ckoHigh m } }
  else c

/-- Every clock output drives its rest levels (R293): a running pulse ends. -/
def Chip.ckoRest (c : Chip) : Chip := { c with clk := { c.clk with ckoHigh := 0 } }

/-! ### Lock, loss and return (R278, R282, R283, R285) -/

/-- `CLK_FSC_KHZ` reports f_sc in kHz, rounded to the nearest (R272). -/
def Chip.fscReport (c : Chip) : Chip := c.setN R.CLK_FSC_KHZ (divRound c.fscNum (c.fscDen * 1000))

/-- How many f_pfd periods at the end of a report had phase errors for which `p` holds; a report lists magnitudes in 1/65536 of the period,
each with a number of consecutive periods, oldest first. -/
def lastPeriods (p : Nat → Bool) (errs : List (Nat × Nat)) : Nat :=
  (errs.reverse.takeWhile (fun e => p e.1)).foldl (fun n e => n + e.2) 0

/-- The lock criterion: within 1/32 of the period for 1,024 consecutive periods; and the criterion of an unlock: beyond 1/4 of it in 8 (R278). -/
def lockMet (errs : List (Nat × Nat)) : Bool := decide (1024 ≤ lastPeriods (fun e => decide (e ≤ 2048)) errs)
def unlockMet (errs : List (Nat × Nat)) : Bool := decide (8 ≤ lastPeriods (fun e => decide (16384 < e)) errs)

/-- The phase error as last reported. -/
def Chip.phaseNote (c : Chip) (errs : List (Nat × Nat)) : Chip :=
  { c with clk := { c.clk with phaseErr := (errs.getLast?.map (fun e => e.1)).getD c.clk.phaseErr } }

/-- The aligners report which of them are locked (R290), as masks: groups, outputs. -/
def Chip.alignNote (c : Chip) (ga oa : Nat) : Chip := (c.setFld R.CLK_STAT F.CLK_STAT_GA_LOCK ga).setFld R.CLK_STAT F.CLK_STAT_OA_LOCK oa

/-- The end of ACQUIRE (R272, Table 12-2). Below Breeze the sample clock stays off at the samplers (Table 19-2). (DESIGN CHOICE, log 28) -/
def Chip.acquireEnd (c : Chip) : Chip :=
  let c1 := c.fscReport
  if c1.refOk && !c1.refSel then ((c1.refTake false).synGo 2 2).sampleRelease (decide (c1.ladder ≤ 1))
  else if c1.refSel || !c1.gated then ((c1.refTake true).synBypass 2).sampleRelease (decide (c1.ladder ≤ 1))
  else (c1.refTake true).synGated 2

/-- SYN_LOCKED (R272, R278): phase errors as the detector found them, and the aligners that are locked. Where the lock criterion is met LOCK
sets; ACQUIRE ends once every aligner is locked too, RETURN at once. -/
def doSynLocked (errs : List (Nat × Nat)) (ga oa : Nat) (c : Chip) : Chip :=
  let s := c.synState
  let c1 := c.phaseNote errs
  if s = 0 ∨ s = 3 ∨ lockMet errs = false then c1
  else
    let c2 := (c1.alignNote ga oa).setFlag R.CLK_STAT F.CLK_STAT_LOCK true
    if s = 1 then (if ga % 256 = 255 ∧ oa % 256 = 255 then c2.acquireEnd else c2)
    else if s = 6 then
      let c3 := c2.synGo 2 2
      let c4 := { c3 with clk := { c3.clk with returnHeld := false } }
      if c.clk.returnHeld && decide (c.ladder ≤ 1) then c4.sampleStart else c4
    else c2

/-- FTOL in ppm and REF_QUAL in ms, by the nearer limit (Table 12-6). -/
def Chip.ftol (c : Chip) : Nat := max 100 (min 1000 (c.wfld R.CLK_REF_CFG F.CLK_REF_CFG_FTOL))
def Chip.refQual (c : Chip) : Nat := max 1 (min 10000 (c.fld R.CLK_QUAL F.CLK_QUAL_REF_QUAL))

/-- A `REFIN` frequency in Hz lies within FTOL of REF_KHZ (R282). -/
def Chip.refInTol (c : Chip) (hz : Nat) : Bool := decide (1000000 * distNat hz c.refinHz ≤ c.ftol * c.refinHz)

/-- The case of R282 that `cause` names, by its measurement: 3, the time since the last rising edge in 2^-64 s; 4, the frequency over a 100 µs
window in Hz; 5, the change of phase between two comparisons in 2^-64 s, in LOCKED or RETURN (R287). -/
def Chip.refLost (c : Chip) (cause meas : Nat) : Bool :=
  match cause with
  | 3 => decide (4 * second ≤ meas * c.refinHz)
  | 4 => !c.refInTol meas
  | 5 => (decide (c.synState = 2) || decide (c.synState = 6)) && decide (second < 4 * meas * c.refinHz)
  | _ => false

/-- REF_LOSS (R282): loss of reference is declared. -/
def doRefLoss (cause meas : Nat) (c : Chip) : Chip :=
  let s := c.synState
  if c.refOk && decide (s ≠ 0) && c.refLost cause meas then
    let c0 := { c with clk := { c.clk with refFrom := c.epc.line } }
    let c1 := ((c0.setFlag R.CLK_STAT F.CLK_STAT_REF_OK false).addCnt R.CLK_LOSS_CNT 1).raise Ev.refLoss
    if s = 2 ∨ s = 6 then (if c1.gated then c1.synGated cause else c1.synCoast cause) else c1
  else c

/-- What an unlock does in each state (Table 12-2). -/
def Chip.unlockGo (c : Chip) : Chip :=
  let s := c.synState
  if s = 2 ∨ s = 6 then
    if c.gated then c.synGated 6 else if c.refOk then c.synBypass 6 else c
  else if s = 3 then c.synBypass 6
  else c

/-- An aligner's lock is lost: group aligners are 0 to 7, output aligners 8 to 15 (R290). -/
def Chip.alignLost (c : Chip) (n : Nat) : Chip :=
  if n < 8 then c.setFld R.CLK_STAT F.CLK_STAT_GA_LOCK (maskClear (c.fld R.CLK_STAT F.CLK_STAT_GA_LOCK) n)
  else c.setFld R.CLK_STAT F.CLK_STAT_OA_LOCK (maskClear (c.fld R.CLK_STAT F.CLK_STAT_OA_LOCK) (n - 8))

/-- SYN_UNLOCK (R278, R290): the phase error exceeds a quarter of the period in 8 periods, which clears LOCK, or an aligner loses lock outside
ACQUIRE. (DESIGN CHOICE, log 27) -/
def doSynUnlock (aligner : Option Nat) (errs : List (Nat × Nat)) (c : Chip) : Chip :=
  let s := c.synState
  if s = 0 then c
  else
    let c1 := (match aligner with
      | some n => c.alignLost n
      | none => c).phaseNote errs
    if (unlockMet errs && (c.flag R.CLK_STAT F.CLK_STAT_LOCK || decide (s = 6))) || (aligner.isSome && decide (s ≠ 1)) then
      ((((c1.setFlag R.CLK_STAT F.CLK_STAT_LOCK false).addCnt R.CLK_UNLOCK_CNT 1).raise Ev.synUnlock).unlockGo).synReturnDue
    else c1

/-- REF_RETURN (R282): `REFIN` has passed both tests for REF_QUAL ms; `hz` is its frequency over the last windows. -/
def doRefReturn (hz : Nat) (c : Chip) : Chip :=
  let s := c.synState
  if s = 0 then c
  else if c.refOk then c.synReturnDue
  else if c.refInTol hz then
    let c1 := (c.waitLine (c.clk.refFrom + c.refQual * 1000 * micro)).setFlag R.CLK_STAT F.CLK_STAT_REF_OK true
    if (s = 3 ∨ s = 4 ∨ s = 5) ∧ c1.refSel = false then c1.synReturn 8 else c1.raise Ev.refReturn
  else c

/-- COAST_MAX in ms: 0 acts as 1, larger values as 3,600,000 (Table 12-6). -/
def Chip.coastMax (c : Chip) : Nat := max 1 (min 3600000 (c.fld R.CLK_LOSS_CFG F.CLK_LOSS_CFG_COAST_MAX))

/-- COAST_MAX_EXPIRE (R283): COAST_MAX has elapsed since entry to COAST. -/
def doCoastMaxExpire (c : Chip) : Chip :=
  if c.synState = 3 then (c.waitLine (c.clk.coastAt + c.coastMax * 1000 * micro)).synBypass 7 else c

/-- A completed pair to `CLK_SRC` (R285). (DESIGN CHOICE, log 27) -/
def Chip.refSelPair (c : Chip) (v : Nat) : Chip :=
  let s := c.synState
  let c1 := c.setFlag R.CLK_SRC F.CLK_SRC_REF_SEL (bit v 0)
  if bit v 0 then (if s = 2 ∨ s = 3 ∨ s = 6 then c1.synBypass 9 else c1)
  else if c1.refOk && (decide (s = 3) || decide (s = 4) || decide (s = 5)) then c1.synReturn 8
  else c1

end Sys2Proof.Machine
end

