-- ==== Sys2Proof/Machine/Epoch.lean ====
section
/-! DEFINITION. The epoch keeper (spec 02, R31 to R58): the epoch word, IRIG-B, good seconds and the keeper's states, offsets and Seam
records, Step and Slew, the manual set, and the past-due test of the schedule's working copy (R63). -/

namespace Sys2Proof.Machine

/-! ### Configuration and states -/

def Chip.epcState (c : Chip) : Nat := c.fld R.EPC_STAT F.EPC_STAT_STATE
def Chip.setEpcState (c : Chip) (s : Nat) : Chip := c.setFld R.EPC_STAT F.EPC_STAT_STATE s

/-- SRC (R33). -/
def Chip.epcSrc (c : Chip) : Nat := c.fld R.EPC_CTRL F.EPC_CTRL_SRC

/-- ACQ_N: 0 and 1 act as 2; MISS_N: 0 acts as 1 (Table 2-12). -/
def Chip.acqN (c : Chip) : Nat := max 2 (c.fld R.EPC_CTRL F.EPC_CTRL_ACQ_N)
def Chip.missN (c : Chip) : Nat := max 1 (c.fld R.EPC_CTRL F.EPC_CTRL_MISS_N)

/-- `EPC_PPS_DLY` in units of 2^-64 s (R32). -/
def Chip.ppsDly (c : Chip) : Int := signedOf 32 (c.rn R.EPC_PPS_DLY) * (quantum : Int)

/-- The confirmed correction still outstanding: a Step that waits, or the residue of a slew (R46). -/
def Chip.outstanding (c : Chip) : Int := (c.epc.stepDue.getD 0) * (quantum : Int) + c.epc.corrSlew.getD 0

/-- Fabric cycles pass until the keeper has reached time `t`. (DESIGN CHOICE, log 7) -/
def Chip.waitTime (c : Chip) (t : Int) : Chip :=
  if (c.epc.time : Int) < t then c.pass (c.cyclesTo t.toNat) else c

/-- `i` in quanta, to the nearest, halves up. -/
def quantaOf (i : Int) : Int := (i + ((quantum / 2 : Nat) : Int)) / (quantum : Int)

/-- A rejected word or frame (R37, R40). -/
def Chip.wordReject (c : Chip) : Chip := (c.addCnt R.EPC_WORD_ERR 1).raise Ev.wordReject

/-! ### The epoch word (R34 to R38) -/

/-- The level of `EPWP` with respect to `EPWN` at `t` ns, from the steady level before and the times of the transitions. -/
def epwLevel (start : Bool) (edges : List Nat) (t : Nat) : Bool := start != decide ((edges.filter (fun x => decide (x ≤ t))).length % 2 = 1)

/-- The centre of the word's first cell: SYNC begins with a 1, a rising transition, which a line at rest high can only make after it has fallen
(R34, R35). (DESIGN CHOICE, log 69) -/
def epwFirst (start : Bool) (edges : List Nat) : Option Nat := if start then edges[1]? else edges[0]?

/-- The bit of the cell whose centre lies at `t` ns: a 1 rises and a 0 falls between the cell's first and third quarter; none where the level is
the same at both (R35). (DESIGN CHOICE, log 69) -/
def epwCell (start : Bool) (edges : List Nat) (t : Nat) : Option Bool :=
  let a := epwLevel start edges (t - 250)
  let b := epwLevel start edges (t + 250)
  if a = b then none else some b

/-- The 96 cells of a word, 1 µs each. -/
def epwCells (start : Bool) (edges : List Nat) (t0 : Nat) : List (Option Bool) := (List.range 96).map (fun k => epwCell start edges (t0 + 1000 * k))

/-- A field of the word, most significant bit first (R34). -/
def epwField (l : List (Option Bool)) (from_ n : Nat) : Nat :=
  ((l.drop from_).take n).foldl (fun v b => 2 * v + (if b = some true then 1 else 0)) 0

/-- A word passes the checks at its last cell (R36, R37). -/
def Chip.wordOk (c : Chip) (l : List (Option Bool)) : Bool :=
  decide (epwField l 0 16 = 0xa5c3) && l.all Option.isSome && decide (crc16 (beBytes 8 (epwField l 16 64)) = epwField l 80 16) &&
    (match c.epc.lastEdge with
     | some t => decide (t + 1000 * micro ≤ c.epc.line)
     | none => true)

/-- EPOCH_WORD (R35, R37): the line has rested at level `start`, and its transitions come at `edges`, in ns after the one before them; the
command stands at the word's last cell. SYNC is looked for only after 8 µs without a transition. -/
def doEpochWord (start : Bool) (edges : List Nat) (c : Chip) : Chip :=
  if c.epcSrc = 0 && decide (8000 ≤ edges.headD 0) then
    match epwFirst start edges with
    | none => c
    | some t0 =>
      let l := epwCells start edges t0
      if c.wordOk l then
        let c1 := if c.epc.word.isSome then c.wordReject else c
        { c1 with epc := { c1.epc with word := some ⟨epwField l 16 64, c1.epc.line⟩ } }
      else c.wordReject
  else c

/-- An accepted word is copied into `EPC_STAT` (R38) and `EPC_UTC_OFS` (R44). -/
def Chip.acceptWord (c : Chip) (p : Nat) : Chip :=
  let hold := bit p 9
  let changed := c.flag R.EPC_STAT F.EPC_STAT_SRC_HOLDOVER != hold
  let c1 := (c.setFld R.EPC_STAT F.EPC_STAT_SRC_ID (bits p 0 8)).setFlag R.EPC_STAT F.EPC_STAT_SRC_HOLDOVER hold
  let c2 := (c1.setFlag R.EPC_STAT F.EPC_STAT_LEAP_PENDING (bit p 10)).setFlag R.EPC_STAT F.EPC_STAT_LEAP_NEG (bit p 11)
  let c3 := if changed then c2.raise Ev.srcHoldover else c2
  let utc := bits p 12 8
  let differs := decide (c3.fld R.EPC_UTC_OFS F.EPC_UTC_OFS_UTC_TAI ≠ utc)
  let c4 := c3.setFld R.EPC_UTC_OFS F.EPC_UTC_OFS_UTC_TAI utc
  if differs then c4.raise Ev.utcOfsChange else c4

/-- The label of an edge at synthesiser-timeline time `te`: the pending word or frame is judged and cleared (R37, R41). -/
def Chip.takeLabel (c : Chip) (te : Nat) : Chip × Option Nat :=
  if c.epcSrc = 0 then
    match c.epc.word with
    | none => (c, none)
    | some w =>
      let c1 := { c with epc := { c.epc with word := none } }
      if te < w.endAt + 100 * micro then (c1.wordReject, none)
      else if bit w.payload 8 then (c1.acceptWord w.payload, some (bits w.payload 20 44))
      else (c1.raise Ev.srcInvalid, none)
  else if c.epcSrc = 1 then ({ c with epc := { c.epc with irig := none } }, c.epc.irig)
  else (c, none)

/-! ### IRIG-B (R39 to R43) -/

/-- The class of an element by its high time in µs: 0, 1, 2 marker, 3 error (R40). (DEDUCED, log 29) -/
def irigClass (us : Nat) : Nat :=
  if us < 1500 then 3 else if us < 3500 then 0 else if us < 6500 then 1 else if us ≤ 9500 then 2 else 3

/-- A marker stands at elements 0, 9, 19, … , 99, a 0 or a 1 elsewhere (PRESUMED, log 12). (DEDUCED, log 29) -/
def irigShape (l : List Nat) : Bool :=
  decide (l.length = 100) &&
    (List.range 100).all (fun i => if i = 0 ∨ i % 10 = 9 then decide (l.getD i 3 = 2) else decide (l.getD i 3 < 2))

/-- `n` bits from element `i`, least significant first (PRESUMED, log 12). -/
def irigBits (l : List Nat) (i n : Nat) : Nat := (List.range n).foldl (fun v k => v + 2 ^ k * (l.getD (i + k) 0)) 0

/-- Leap years and days of the Gregorian calendar. -/
def leapYear (y : Nat) : Bool := decide (y % 4 = 0) && (decide (y % 100 ≠ 0) || decide (y % 400 = 0))
def yearDays (y : Nat) : Nat := if leapYear y then 366 else 365

/-- Days from 0001-01-01 to the first of January of year `y`. -/
def daysBefore (y : Nat) : Nat := (y - 1) * 365 + (y - 1) / 4 - (y - 1) / 100 + (y - 1) / 400

/-- Days from 1958-01-01 to day `d` (1 = 1 January) of year `y` (R42). -/
def days1958 (y d : Nat) : Int := (daysBefore y : Int) - daysBefore 1958 + d - 1

/-- A decoded frame. -/
structure Irig where
  s : Nat
  m : Nat
  h : Nat
  day : Nat
  year : Nat
  deriving DecidableEq, Repr

/-- The frame's BCD fields (PRESUMED, log 12), or none where a digit exceeds 9. -/
def irigDecode (l : List Nat) (year : Option Nat) : Option Irig :=
  let d := fun (i n : Nat) => irigBits l i n
  let digits := [d 1 4, d 6 3, d 10 4, d 15 3, d 20 4, d 25 2, d 30 4, d 35 4, d 40 2] ++ (if year.isNone then [d 50 4, d 55 4] else [])
  if digits.any (fun x => decide (9 < x)) then none
  else some { s := d 1 4 + 10 * d 6 3, m := d 10 4 + 10 * d 15 3, h := d 20 4 + 10 * d 25 2,
              day := d 30 4 + 10 * d 35 4 + 100 * d 40 2, year := year.getD (2000 + d 50 4 + 10 * d 55 4) }

/-- A leap is armed; LEAP_SEC; LEAP_OFS (R45). -/
def Chip.leapArmed (c : Chip) : Bool := c.flag R.EPC_LEAP_H F.EPC_LEAP_H_ARMED
def Chip.leapSec (c : Chip) : Nat := c.pair 12 R.EPC_LEAP_L
def Chip.leapOfs (c : Chip) : Int := signedOf 8 (c.fld R.EPC_LEAP_H F.EPC_LEAP_H_LEAP_OFS)
def Chip.utcOfs (c : Chip) : Int := signedOf 8 (c.fld R.EPC_UTC_OFS F.EPC_UTC_OFS_UTC_TAI)

/-- The time of a frame lies in its ranges (R40). -/
def Chip.irigOk (c : Chip) (t : Irig) : Bool :=
  decide (1 ≤ t.day) && decide (t.day ≤ yearDays t.year) && decide (t.h ≤ 23) && decide (t.m ≤ 59) &&
    (decide (t.s ≤ 59) || (decide (t.s = 60) && decide (t.h = 23) && decide (t.m = 59) && c.leapArmed && decide (c.leapOfs < c.utcOfs)))

/-- TAI seconds of a decoded time (R42). -/
def Chip.irigTai (c : Chip) (t : Irig) : Int :=
  let utc := days1958 t.year t.day * 86400 + t.h * 3600 + t.m * 60 + t.s
  if c.leapArmed && decide (t.s ≠ 60) && decide (utc - c.leapOfs ≥ (c.leapSec : Int)) then utc - c.leapOfs else utc - c.utcOfs

/-- The year to decode with, and whether this frame's day has passed from the last day of the last accepted frame's year into a new one
(R39, R43). -/
def Chip.irigYear (c : Chip) (day : Nat) : Option Nat × Bool :=
  let y := c.fld R.EPC_IRIG_YEAR F.EPC_IRIG_YEAR_YEAR
  let carries := decide (4 ≤ c.fld R.EPC_CTRL F.EPC_CTRL_IRIG_FMT)
  let turn := decide (day = 1) && decide (c.epc.irigDay = yearDays (if carries then c.epc.irigYr else y))
  (if carries then none else some (if turn then y + 1 else y), turn)

/-- IRIG_FRAME (R40 to R43): `onTime` is the on-time point less the active `PPS` edge, in ns; `high` the high times of the frame's
elements in µs, from the reference marker Pr on. -/
def doIrigFrame (onTime : Int) (high : List Nat) (c : Chip) : Chip :=
  if c.epcSrc = 1 then
    let l := high.map irigClass
    let day := irigBits l 30 4 + 10 * irigBits l 35 4 + 100 * irigBits l 40 2
    let y := c.irigYear day
    match irigDecode l y.1 with
    | none => c.wordReject
    | some t =>
      if decide (onTime.natAbs ≤ 10000) && irigShape l && c.irigOk t then
        let c1 := if y.2 then c.setFld R.EPC_IRIG_YEAR F.EPC_IRIG_YEAR_YEAR (c.fld R.EPC_IRIG_YEAR F.EPC_IRIG_YEAR_YEAR + 1) else c
        { c1 with epc := { c1.epc with irig := some (c.irigTai t + 1).toNat, irigDay := t.day, irigYr := t.year } }
      else c.wordReject
  else c

/-! ### Seam records (R55 to R58) -/

/-- A Seam record (Table 2-8), with its counter, latch and event (R58). Blocks in formation contain the seam instant (Table 2-7).
(DEDUCED, log 33) -/
def Chip.seam (c : Chip) (at_ : Nat) (ofs : Int) (cause policy : Nat) : Chip :=
  let c1 := (c.addCnt R.EPC_SEAM_CNT 1).setPair 32 R.EPC_SEAM_OFS_L (unsignedOf 64 ofs)
  let c2 := c1.record 5 1 at_ (leBytes 10 at_ ++ leBytes 8 (unsignedOf 64 ofs) ++ [cause, policy] ++ leBytes 4 (c1.rn R.EPC_SEAM_CNT))
  let c3 := c2.raiseTyped Ev.seam
  (List.range 8).foldl (fun c g =>
    match (c.lane g).forming with
    | some f => c.setLane g { c.lane g with forming := some { f with seam := true } }
    | none => c) c3

/-- CORR_OUT. -/
def Chip.setCorrOut (c : Chip) (b : Bool) : Chip := c.setFlag R.EPC_STAT F.EPC_STAT_CORR_OUT b

/-- The keeper's time jumps by `d`: groups of recording partitions keep the uncorrected timeline until their next block start, every
other group takes the new time at once (R56, R57). (DEDUCED, log 33) -/
def Chip.jump (c : Chip) (d : Int) : Chip :=
  let gs := c.recGroups
  let c1 := (List.range 8).foldl (fun c g =>
    let l := c.lane g
    let o := if gs.contains g then l.ofs + d else 0
    if l.ofs = o then c else c.setLane g { l with ofs := o }) c
  { c1 with epc := { c1.epc with time := ((c1.epc.time : Int) + d).toNat, ofsWait := gs.foldl maskSet 0, stepAt := c1.epc.line, stepBy := d } }

/-- A confirmed offset `off`, in units of 2^-64 s, at keeper time `kt` (R55, R56). (DEDUCED, log 33) -/
def Chip.confirm (c : Chip) (off kt : Int) (cause : Nat) : Chip :=
  let byStep := c.flag R.EPC_CTRL F.EPC_CTRL_POLICY || decide (1000 * micro ≤ off.natAbs)
  let cause1 := if c.epc.postCoast then 1 else cause
  let c1 := (c.setCorrOut true).seam (stampOf kt.toNat) (quantaOf off) cause1 (if byStep then 1 else 0)
  let total := c.outstanding + off
  if byStep || c.epc.stepDue.isSome then
    { c1 with epc := { c1.epc with postCoast := false, awaiting := false, ofsRun := 0, slew := 0, stepDue := some (quantaOf total), corrSlew := none } }
  else { c1 with epc := { c1.epc with postCoast := false, awaiting := false, ofsRun := 0, slew := 0, corrSlew := some total } }

/-- One more good second agrees, or not, with the offset seen before (R55): how many in a row agree. Outside LOCKED nothing is
confirmed (R281). (DEDUCED, log 31) -/
def Chip.agree (c : Chip) (off : Int) : Chip :=
  if c.disciplined = false then { c with epc := { c.epc with ofsRun := 0 } }
  else if 0 < c.epc.ofsRun ∧ (off - c.epc.ofsSeen).natAbs ≤ c.refQuarter then { c with epc := { c.epc with ofsRun := c.epc.ofsRun + 1 } }
  else { c with epc := { c.epc with ofsRun := 1, ofsSeen := off } }

/-- An offset measured at a good second in VALID, or on entry to VALID (R55): while the synthesiser is LOCKED. (DEDUCED, log 32) -/
def Chip.handleOffset (c : Chip) (off kt : Int) (cause : Nat) : Chip :=
  if c.disciplined then
    if off.natAbs ≤ c.refQuarter then { c with epc := { c.epc with slew := off, ofsRun := 0, awaiting := false } }
    else if c.epc.ofsRun ≥ c.acqN then c.confirm off kt cause
    else c
  else c

/-- The reference aligner reports the offset it measured (R289): in quanta, where the register can hold it, else unstated (DESIGN CHOICE, log 3).
(DEDUCED, log 33) -/
def Chip.raReport (c : Chip) (off : Int) : Chip :=
  let q := quantaOf off
  if c.synState = 0 ∨ c.synState = 3 ∨ c.synState = 4 ∨ c.synState = 5 then c
  else if -2147483648 ≤ q ∧ q < 2147483648 then c.setN R.CLK_RA_PHASE (unsignedOf 32 q)
  else (c.setReg R.CLK_RA_PHASE c.freeNow).used

/-! ### The past-due test of the schedule (R63) -/

def schPort : CmdPort := ⟨R.SCH_CMD, R.SCH_CMDSTAT, Ev.rejSch⟩

/-- A repeating entry advanced by whole periods to its first occurrence after `now` (R63, R65). -/
def SchEntry.advance (e : SchEntry) (now : Nat) : SchEntry :=
  if e.period ≠ 0 ∧ e.due ≤ now then { e with due := e.due + e.period * ((now - e.due) / e.period + 1) } else e

/-- Enabled entries whose DUE is not after the present: one-shot entries are rejected as LATE and disabled, repeating ones advanced
without firing (R60, R63). (DEDUCED, log 34) -/
def Chip.schSweep (c : Chip) (init : Init) : Chip :=
  let now := c.now
  let past := c.sch.filter (fun e => e.2.enable && decide (e.2.due ≤ now))
  let c1 := past.foldl (fun c e =>
    if e.2.period = 0 then (c.setSch e.1 { e.2 with enable := false }).reject schPort init (some e.1) 4
    else c.setSch e.1 (e.2.advance now)) c
  match past.find? (fun e => decide (e.2.period = 0)) with
  | some e => c1.setFld R.SCH_CMDSTAT F.SCH_CMDSTAT_IDX e.1
  | none => c1

/-! ### PPS edges (R46, R47) -/

/-- A good second outside VALID arrives 1 s ± 1 µs after the previous edge; in VALID within ±1 µs of the keeper's whole second, with the
label its seconds count; its label follows the previous one (R46). `kt` is the keeper's time at the edge, with the outstanding
correction and `EPC_PPS_DLY` taken out. (DEDUCED, log 31) -/
def Chip.goodSecond (c : Chip) (te : Nat) (kt : Int) (label : Option Nat) : Bool :=
  match label, c.epc.lastLabel with
  | some n, some p =>
    decide (n = p + 1) &&
      (if c.epcState = 2 then decide ((kt - (n : Int) * second).natAbs ≤ micro)
       else match c.epc.lastEdge with
         | some t => decide (distNat (te - t) second ≤ micro)
         | none => false)
  | _, _ => false

/-- GOOD_RUN after an edge. (DEDUCED, log 32) -/
def Chip.goodRun (c : Chip) (good : Bool) : Chip :=
  c.setFld R.EPC_STAT F.EPC_STAT_GOOD_RUN (if good then min 15 (c.fld R.EPC_STAT F.EPC_STAT_GOOD_RUN + 1) else 0)

/-- The keeper enters VALID: EPOCH_VALID (Table 2-6). (DEDUCED, log 31) -/
def Chip.enterValid (c : Chip) : Chip :=
  let c1 := c.setEpcState 2
  { c1 with epc := { c1.epc with timeline := true } }.raise Ev.epochValid

/-- A good second in VALID, at keeper time `kt`: the keeper's own count of it, with an outstanding correction included (R46, R47). -/
def Chip.markGood (c : Chip) (kt : Int) : Chip :=
  { c with epc := { c.epc with lastGood := ((kt - c.ppsDly + c.outstanding + ((second / 2 : Nat) : Int)) / (second : Int)).toNat } }

/-- What a good second labelled `n` does in each state (Table 2-6, R55). `off` is the source's time less the keeper's, with an
outstanding correction counted as applied. -/
def Chip.onGood (c : Chip) (n age : Nat) (off kt : Int) : Chip :=
  let acquired := decide (c.acqN ≤ c.fld R.EPC_STAT F.EPC_STAT_GOOD_RUN)
  match c.epcState with
  | 1 =>
    if acquired then
      let t := ((n : Int) * second + c.ppsDly + age).toNat
      ((({ c with epc := { c.epc with time := t, slew := 0, ofsRun := 0, awaiting := false } }).enterValid).markGood
        ((n : Int) * second + c.ppsDly)).schSweep .sched
    else c
  | 2 => (((c.raReport off).agree off).handleOffset off kt 3).markGood kt
  | 3 => if acquired then ((((c.raReport off).agree off).enterValid).handleOffset off kt 2).markGood kt else (c.raReport off).agree off
  | 4 => if acquired then ((((c.raReport off).agree off).enterValid).handleOffset off kt 2).markGood kt else (c.raReport off).agree off
  | _ => c

/-- The active edge of `PPS` (R32). -/
def Chip.ppsActive (c : Chip) (rise : Bool) : Bool := rise != c.flag R.EPC_CTRL F.EPC_CTRL_PPS_EDGE

/-- An active edge of `PPS` that reached the ball `age` ago; `srcOfs` is what the reference aligner resolves the edge to, less the edge (R31,
R46, R47, R55, R289). (DEDUCED, log 32) -/
def Chip.ppsSecond (c : Chip) (age : Nat) (srcOfs : Int) : Chip :=
  let te := c.epc.line - age
  let r := c.takeLabel te
  let c1 := r.1
  let kt : Int := (c.epc.time : Int) - age
  let good := c1.goodSecond te (kt - c1.ppsDly + c1.outstanding) r.2
  let c2 := c1.goodRun (good && decide (c1.epcState ≠ 0))
  let c3 := match r.2 with
    | some n =>
      if good then c2.onGood n age ((n : Int) * second + c2.ppsDly + srcOfs - kt - c2.outstanding) kt
      else { c2 with epc := { c2.epc with ofsRun := 0 } }
    | none => { c2 with epc := { c2.epc with ofsRun := 0 } }
  let c4 := { c3 with epc := { c3.epc with lastEdge := some te, lastLabel := match r.2 with
    | some n => some n
    | none => c3.epc.lastLabel } }
  if c1.epcState = 0 ∧ c1.epcSrc < 2 then c4.setEpcState 1 else c4

/-- PPS_EDGE (R32): an edge of `PPS`, rising or falling; the other one than EPC_CTRL.PPS_EDGE selects has no effect. -/
def doPpsEdge (rise : Bool) (age : Nat) (srcOfs : Int) (c : Chip) : Chip := if c.ppsActive rise then c.ppsSecond age srcOfs else c

/-- EPOCH_HOLDOVER (R47): MISS_N seconds have passed without a good second, the last of them 1 µs ago. -/
def doEpochHoldover (c : Chip) : Chip :=
  if c.epcState = 2 then
    let c1 := c.waitTime (((c.epc.lastGood + c.missN : Nat) : Int) * second + c.ppsDly - c.outstanding + micro)
    let c2 := (c1.setEpcState 3).goodRun false
    { c2 with epc := { c2.epc with ofsRun := 0 } }.raise Ev.epochHoldover
  else c

/-- SRC has changed (R33, R47): a timeline is held over; without one the keeper waits in IDLE, and SEEK begins at the next `PPS` edge. A pending
word, a pending label and the day of the last frame are dropped without a count or an event. (DESIGN CHOICE, log 67) -/
def Chip.srcChanged (c : Chip) : Chip :=
  let c1 := c.goodRun false
  let c2 := { c1 with epc := { c1.epc with word := none, irig := none, lastEdge := none, lastLabel := none, ofsRun := 0, irigDay := 0, irigYr := 0 } }
  c2.setEpcState (if c2.epc.timeline then 3 else 0)

/-- LEAP_SECOND (R45): the keeper reaches LEAP_SEC. -/
def doLeapSecond (c : Chip) : Chip :=
  if c.leapArmed && c.epcHolds && decide (c.epcSrc = 1) then
    let c1 := c.waitStamp (c.leapSec * 2 ^ 36)
    ((c1.setFld R.EPC_UTC_OFS F.EPC_UTC_OFS_UTC_TAI (c1.fld R.EPC_LEAP_H F.EPC_LEAP_H_LEAP_OFS)).setFlag R.EPC_LEAP_H
      F.EPC_LEAP_H_ARMED false).raise Ev.utcOfsChange
  else c

/-! ### Corrections (R56, R57) -/

/-- A FREEZE post-trigger count of the partition is running. -/
def Chip.postRuns (c : Chip) (p : Nat) : Bool :=
  (decide (c.prtState p = 2) || (decide (c.prtState p = 3) && decide ((c.part p).prior = 2))) && (c.part p).endStamp.isNone

/-- A segment is open: a post-trigger count runs, or a HOLD window's end lies in the future (R56). -/
def Chip.segmentOpen (c : Chip) : Bool :=
  c.parts.any (fun p => c.postRuns p.1 ||
    p.2.segs.any (fun s => decide (s.2.state = 1) && decide (s.2.kind = 2) && decide ((c.now : Int) < s.2.reqEnd)))

/-- The Step itself (R56): the keeper steps by `q` quanta and leaves the second Seam record. (DEDUCED, log 33) -/
def Chip.stepNow (c : Chip) (q : Int) : Chip :=
  let at_ := c.now
  let c1 := ({ c with epc := { c.epc with stepDue := none } }).jump (q * (quantum : Int))
  (c1.seam at_ q 5 1).setCorrOut (decide (c1.epc.ofsWait ≠ 0))

/-- SLEW_COMPLETE (R56): the residue of a slewed correction lies within a quarter `REFIN` period. (DEDUCED, log 33) -/
def doSlewComplete (c : Chip) : Chip :=
  match c.epc.corrSlew with
  | none => c
  | some r =>
    if c.disciplined then
      let left := r.natAbs - c.refQuarter
      let c1 := c.waitLine (c.epc.line + divCeil (left * 1000000) c.slewPpm + (if left = 0 then 0 else fabricCycle))
      let r1 := c1.epc.corrSlew.getD 0
      let c2 := { c1 with epc := { c1.epc with corrSlew := none, slew := c1.epc.slew + r1 } }
      c2.setCorrOut (decide (c2.epc.ofsWait ≠ 0) || c2.epc.stepDue.isSome)
    else c

/-- A completed pair to `EPC_SET_H` (Table 2-6, R57): the keeper takes stamp `v`, or the write is dropped in VALID. -/
def Chip.epcSetNow (c : Chip) (init : Init) (v : Nat) : Chip :=
  if c.epcState = 2 then
    (c.raiseTyped Ev.epcSetReject).record 0x10 1 c.now (leBytes 10 v ++ [initCode init, 0, 0, 0, 0, 0])
  else
    let had := c.epc.timeline
    let old := c.now
    let d : Int := (v * quantum : Nat) - (c.epc.time : Int)
    let c0 := { c with epc := { c.epc with stepDue := none, corrSlew := none, slew := 0, ofsRun := 0, timeline := true } }
    let c1 := c0.jump d
    let c2 := if had then c1.seam old ((v : Int) - old) 4 (if c.flag R.EPC_CTRL F.EPC_CTRL_POLICY then 1 else 0) else c1
    (c2.setCorrOut (decide (c2.epc.ofsWait ≠ 0))).setEpcState 4

end Sys2Proof.Machine
end

