-- ==== Sys2Proof/Machine/Ports.lean ====
section
/-! DEFINITION. The ports of readout (spec 11): when they run, the fall and return of their links, the stop of the DMA engine, and a
streamer's replay. -/

namespace Sys2Proof.Machine

/-- Ports and consumers are clocked: Gale, Breeze and Safe (Tables 19-2 and 19-3, R429). -/
def Chip.portsOn (c : Chip) : Bool := decide (c.ladder ≤ 1) || c.inSafe

/-! ### The DMA engine stops (R250) -/

/-- The DMA engine runs. -/
def Chip.dmaRuns (c : Chip) : Bool := c.flag R.HIF_DMA_STAT F.HIF_DMA_STAT_RUNNING

/-- The DMA engine stops, with or without DMA_ERROR; the descriptor in progress stays popped and unreleased. -/
def Chip.dmaHalt (c : Chip) (err : Bool) : Chip :=
  if c.dmaRuns then
    let c1 := (c.setFlag R.HIF_DMA_STAT F.HIF_DMA_STAT_RUNNING false).setFlag R.HIF_DMA_STAT F.HIF_DMA_STAT_STARVED false
    let c2 := { c1.setFlag R.HIF_DMA_STAT F.HIF_DMA_STAT_ERROR err with dma := { c1.dma with stream := none, starved := false } }
    if err then c2.raise Ev.dmaError else c2
  else c

/-- What the endpoint's configuration space says of it (Table 11-2): Device ID, Class Code, and the Subsystem IDs, which equal Vendor and
Device ID. -/
def pcieDeviceId : Nat := 0x9256
def pcieClassCode : Nat := 0x118000
def pcieSubsystem : Nat × Nat := (Config.vendorId.toNat, pcieDeviceId)

/-- The function is in D0 and its link up: it answers the host and may send requests (Table 11-2). (PRESUMED, log 12) -/
def Chip.pcieAwake (c : Chip) : Bool := c.flag R.HIF_LINK F.HIF_LINK_UP && !c.pcie.d3hot

/-- A conventional reset of the endpoint (R245): its configuration space is reset, which puts it into D0, and the DMA engine stops. -/
def Chip.pcieReset (c : Chip) : Chip :=
  { c.dmaHalt false with pcie := {} }

/-- The PCI Express link is up. -/
def Chip.pcieUp (c : Chip) : Bool := c.flag R.HIF_LINK F.HIF_LINK_UP

/-- The PCI Express link goes down. -/
def Chip.pcieDown (c : Chip) : Chip := if c.pcieUp then (c.pcieReset.setN R.HIF_LINK 0).raise Ev.pcieLink else c

/-! ### A streamer replays (R263, R264) -/

/-- The streamer of port n runs. -/
def Chip.strRuns (c : Chip) (n : Nat) : Bool := c.flag (R.ETH_STR_STAT n) F.ETH_STR_STAT_RUNNING

/-- OUTST shows the number of outstanding entries. -/
def Chip.putEth (c : Chip) (n : Nat) (e : EthPort) : Chip :=
  (c.setEth n e).setFld (R.ETH_STR_STAT n) F.ETH_STR_STAT_OUTST e.outst.length

/-- Handles that a REWIND of queue q would return now. -/
def Chip.returnable (c : Chip) (q : Nat) : List Nat :=
  (c.car.entries.filter (fun e => decide (e.queue = q) && (match e.popNo with
    | some n => decide (c.rn (R.CAR_Q_MARKNO q) ≤ n)
    | none => false))).map CarEntry.handle

/-- REWIND on the streamer's queue: what it returns stays outstanding until its release, and the entry named by `resume` is sent from its
offset (R260, R263). -/
def Chip.strRewind (c : Chip) (n : Nat) (resume : Option (Nat × Nat)) : Chip :=
  let back := c.returnable (n + 1)
  let e := c.eth n
  let keep := match resume with
    | some r => if back.contains r.1 then some r else none
    | none => none
  (c.carRewind (n + 1)).putEth n { e with stream := none, resume := keep }

/-- A REPLAY is acted on. -/
def Chip.strReplay (c : Chip) (n : Nat) (resume : Option (Nat × Nat)) : Chip :=
  ((c.strRewind n resume).addCnt (R.ETH_STR_REPLAYS n) 1).raise (Ev.strReplay n)

/-- The streamer stops (R260): its outstanding entries stay popped. -/
def Chip.strHalt (c : Chip) (n : Nat) : Chip :=
  let c1 := (c.setFlag (R.ETH_STR_STAT n) F.ETH_STR_STAT_RUNNING false).setFlag (R.ETH_STR_STAT n) F.ETH_STR_STAT_WAIT_LINK false
  c1.setEth n { c1.eth n with stream := none }

/-! ### Ethernet links (R255, R256, R264) -/

/-- A port's status bits follow its link. -/
def Chip.setLink (c : Chip) (n : Nat) (up : Bool) : Chip :=
  ((c.setFlag (R.ETH_STAT n) F.ETH_STAT_LINK up).setFlag (R.ETH_STAT n) F.ETH_STAT_ALIGN up).setFlag (R.ETH_STAT n)
    F.ETH_STAT_FEC_LOCK up

/-- A port's link goes down: waiting frames are discarded, notices counted (R155, R256). (DEDUCED, log 41; DEDUCED, log 44) -/
def Chip.ethDown (c : Chip) (n : Nat) : Chip :=
  if c.ethUp n then
    let e := c.eth n
    let c1 := (c.setLink n false).setEth n { e with arp := [], notices := [], mgmt := [] }
    let c2 := e.notices.foldl (fun c _ => c.noticeDrop) c1
    (c2.setFlag (R.ETH_STR_STAT n) F.ETH_STR_STAT_WAIT_LINK (c2.strRuns n)).raise (Ev.ethLink n)
  else c

/-- A port's link comes up: a running streamer replays (R264). -/
def Chip.ethRise (c : Chip) (n : Nat) : Chip :=
  if c.ethUp n = false ∧ c.flag (R.ETH_CTRL n) F.ETH_CTRL_EN = true ∧ c.portsOn = true then
    let c1 := ((c.setLink n true).setFlag (R.ETH_STR_STAT n) F.ETH_STR_STAT_WAIT_LINK false).raise (Ev.ethLink n)
    if c1.strRuns n then c1.strReplay n none else c1
  else c

/-- ETH_LINK. -/
def doEthLink (n : Nat) (up : Bool) (c : Chip) : Chip := if up then c.ethRise n else c.ethDown n

/-- Every Ethernet port goes down. -/
def Chip.ethAllDown (c : Chip) : Chip := (List.range 4).foldl (fun c n => c.ethDown n) c

/-! ### PCI Express link (R245) -/

/-- PCIE_CONVENTIONAL_RESET (R245). -/
def doPcieConventionalReset (c : Chip) : Chip := c.pcieReset

/-- PCIE_CONFIG_WRITE (R242, R250): Bus Master Enable falling stops the DMA engine; the power state is D0 or D3hot, in which the function
answers configuration accesses alone and sends nothing (PRESUMED, log 12). -/
def doPcieConfigWrite (bme msixEn fmask d3 : Bool) (c : Chip) : Chip :=
  let c1 := { c with pcie := { c.pcie with bme := bme, msixEn := msixEn, funcMask := fmask, d3hot := d3 } }
  if c.pcie.bme && !bme then c1.dmaHalt false else c1

/-- PCIE_LINK (R245): the link trains at a speed code and width, or goes down. It cannot train while `PEN0` is low (Table 19-3). -/
def doPcieLink (speed width : Nat) (up : Bool) (c : Chip) : Chip :=
  if up then
    if 1 ≤ speed ∧ speed ≤ 5 ∧ (width = 1 ∨ width = 4 ∨ width = 8 ∨ width = 16) ∧ bit c.pins.pen 0 = true then
      let c1 := ((c.setFld R.HIF_LINK F.HIF_LINK_SPEED speed).setFld R.HIF_LINK F.HIF_LINK_WIDTH width).setFlag R.HIF_LINK F.HIF_LINK_UP true
      if c.pcieUp = false ∨ speed < 5 ∨ width < 16 then c1.raise Ev.pcieLink else c1
    else c
  else c.pcieDown

end Sys2Proof.Machine
end

