-- ==== Sys2Proof/Machine/Power.lean ====
section
/-! DEFINITION. The power ladder (spec 19): requests and their legality, the work of each step down, wakes and the exit. The change of
state that ends an exit is in Schedule.lean, since skipped schedule entries fire there. -/

namespace Sys2Proof.Machine

/-! ### Levels (Table 19-3) -/

/-- The `PEN` pins of a ladder state, as a mask; code 5 is Safe. -/
def Chip.penFor (c : Chip) (s : Nat) : Nat :=
  let aux := c.flag R.PWR_CTRL F.PWR_CTRL_AUX_KEEP
  match s with
  | 0 => 63
  | 1 => 63
  | 2 => 27 + (if aux then 32 else 0)
  | 3 => 24 + (if aux then 32 else 0)
  | 4 => 24
  | 5 => 31
  | _ => 0

/-- The pins follow. -/
def Chip.setPens (c : Chip) (m : Nat) : Chip := { c with pins := { c.pins with pen := m } }

/-! ### Reports (R444) -/

/-- BUSY and TARGET of a transition, or of none. -/
def Chip.pwrBusy (c : Chip) (t : Option Nat) : Chip :=
  (c.setFlag R.PWR_STAT F.PWR_STAT_BUSY t.isSome).setFld R.PWR_STAT F.PWR_STAT_TARGET (t.getD 0)

/-- A change of ladder state: register, count, stamp, event and POWER record; stall timers stop below Gale (R238). -/
def Chip.pwrChange (c : Chip) (new : Nat) (r : PwrReq) : Chip :=
  let old := c.ladder
  let c0 := if old = 0 ∧ new ≠ 0 then c.carLeaveGale else if old ≠ 0 ∧ new = 0 then c.carEnterGale else c
  let c1 := (c0.setFld R.PWR_STAT F.PWR_STAT_STATE new).addCnt R.PWR_CHG_CNT 1
  let c2 := (c1.setTriple R.PWR_CHG_L c1.now).raiseTyped Ev.pwrChange
  c2.record 0x0f 3 c2.now (powerPayload old new r.cause r.src r.init r.entry (c2.microsSince r.reqAt))

/-! ### Going down (R439) -/

/-- Partitions that pause: the block in formation of every group closes, and a gap of cause 3 begins (R166, R439); their instances belong to no
recording partition (Table 8-5). -/
def Chip.pausePart (c : Chip) (p : Nat) : Chip :=
  let c1 := (c.settlePart p).setPart p { (c.settlePart p).part p with prior := c.prtState p }
  (((c1.prtGroups p).foldl (fun c g => c.lanePause g p) c1).fulActive p false).setPrtState p 3

/-- Staging and the pipelines of the paused partitions are empty. -/
def Chip.drained (c : Chip) : Bool :=
  (List.range 8).all (fun g => let l := c.lane g
    l.staged.isEmpty && l.codec.busy.isEmpty && l.codec.out.isEmpty)

/-- The work with which the step down from state `k` begins (Table 19-5). -/
def Chip.stepBegin (c : Chip) (k : Nat) : Chip :=
  match k with
  | 0 => ((List.range 16).filter c.recording).foldl (fun c p => c.pausePart p) c
  | 1 =>
    let c1 := ((c.setFlag R.CLK_STAT F.CLK_STAT_SAMPLE_ON false).trigIdle.ckoRest.ethAllDown).setPens (c.penFor 2)
    if c1.mcState = 2 ∨ c1.mcState = 3 then c1.srBegin 2 else c1
  | 2 => (c.synOff.pcieDown).setPens (c.penFor 3)
  | _ => c

/-- The work of the step from state `k` is done; a request that came past the commit point ends the descent instead (R317). -/
def Chip.stepReady (c : Chip) (k : Nat) : Bool :=
  match k with
  | 0 => c.drained
  | 1 => decide (c.mcState = 5) && c.mc.late.isEmpty && !c.mc.exitDue
  | _ => true

/-- Every record is exported, and the halves are not kept (R389, R439); the completed export raises SCV_EXPORTED (R387), whose record waits
for the Scrivener to resume. (DEDUCED, log 48) -/
def Chip.scvStill (c : Chip) : Chip :=
  let c1 := c.drain
  let a := c1.exportable false halfSize
  let b := c1.exportable true halfSize
  let c2 := c1.exportRecs (if c1.rn R.SCV_HALFA_FIRST ≤ c1.rn R.SCV_HALFB_FIRST then a ++ b else b ++ a)
  let c3 := (c2.halfClear false).halfClear true
  ({ c3 with scv := { c3.scv with exportTo := none } }.setFlag R.SCV_STAT F.SCV_STAT_EXPORTING false).raise Ev.scvExported

/-- The controller state to which self-refresh leads back, where it is one in which the controller serves: 2 in Gale, 3 in Breeze, whose ranks are in
power-down (R315). -/
def Chip.srRanks (c : Chip) (s : Nat) : Chip :=
  if (c.mcState = 4 ∨ c.mcState = 5 ∨ c.mcState = 6) ∧ (c.mc.srPrior = 2 ∨ c.mc.srPrior = 3) then { c with mc := { c.mc with srPrior := s } } else c

/-- What the arrival at state `k + 1` adds (Table 19-5). (DEDUCED, log 48) -/
def Chip.stepEnd (c : Chip) (k : Nat) : Chip :=
  let c1 := { c with pwr := { c.pwr with lowAt := if 1 ≤ k then c.epc.time else c.pwr.lowAt } }
  match k with
  | 0 => if c1.mcState = 2 then c1.setMcState 3 else c1.srRanks 3
  | 3 =>
    let c2 := c1.scvStill.setPens (c1.penFor 4)
    { c2 with cst := {}, pwr := { c2.pwr with cstCopy := some c2.cst } }
  | _ => c1

/-! ### Up again (R442) -/

/-- After Calm or Still the keeper holds over until good seconds counted from here on confirm it (R66). (DEDUCED, log 48) -/
def Chip.epcReconfirm (c : Chip) : Chip :=
  let c1 := c.goodRun false
  let c2 := { c1 with epc := { c1.epc with lastEdge := none, lastLabel := none, ofsRun := 0 } }
  if c2.epcState = 2 then c2.setEpcState 3 else c2

/-- The work with which an exit begins: the rails rise, DRAM leaves self-refresh, and from Calm or Still the Common Store returns, the
synthesiser acquires and the keeper holds over (Table 19-5, R66). (DEDUCED, log 48) -/
def Chip.exitBegin (c : Chip) (target : Nat) : Chip :=
  let k := c.ladder
  let c1 := c.setPens (c.penFor target)
  let c2 := match c1.pwr.cstCopy with
    | some m => { c1 with cst := m, pwr := { c1.pwr with cstCopy := none } }
    | none => c1
  let c3 := if k = 4 then c2.halfRestart (c2.halfFailed false) else c2
  let c4 : Chip := if 3 ≤ k then
      let d := if c3.synState = 0 then c3.synAcquire 10 else c3
      d.epcReconfirm
    else c3
  if 2 ≤ k ∧ c4.mcState = 5 then
    c4.srLeave
  else c4

/-- An exit begins. -/
def Chip.pwrUp (c : Chip) (r : PwrReq) : Chip :=
  let c1 := { c with pwr := { c.pwr with up := some r, down := none, held := none } }
  (c1.pwrBusy (some r.target)).exitBegin r.target

/-- The state a wake leads to (R442). -/
def Chip.wakeTarget (c : Chip) : Nat := if c.ladder ≤ 1 then 0 else c.fld R.PWR_CTRL F.PWR_CTRL_WAKE_TO

/-- The initiator a wake reports (Table 19-8): a schedule entry, the host, the initiator of a register command; for the other sources the
spec states none, and it is a free value (DESIGN CHOICE, log 46). -/
def Chip.wakeInit (c : Chip) (src init : Nat) : Nat :=
  match src with
  | 0 => 3
  | 1 => 1
  | 5 => init
  | _ => c.freeNow.toNat % 256

/-- A wake: its report (R444), and the exit to `target`. (DESIGN CHOICE, log 46; DEDUCED, log 47) -/
def Chip.wakeTo (c : Chip) (src target init : Nat) : Chip :=
  let who := c.wakeInit src init
  let r : PwrReq := { target := target, cause := 5, init := who, entry := 0, reqAt := c.epc.line, src := src }
  let c1 := (c.setFld R.PWR_STAT F.PWR_STAT_LAST_WAKE src).setN R.PWR_WAKE_CAUSE (2 ^ src)
  let c2 := c1.raiseTyped Ev.pwrWake
  let c3 := c2.pwrUp r
  (c3.record 0x0f 3 c3.now (powerPayload c.ladder c.ladder 5 src who 0 0)).used

/-- A source wakes the engine from state `k` (Table 19-6). -/
def wakesFrom (src k : Nat) : Bool :=
  match src with
  | 0 => decide (2 ≤ k) && decide (k ≤ 4)
  | 1 => decide (k = 2)
  | 2 => decide (k = 3) || decide (k = 4)
  | 3 => decide (k = 1)
  | 4 => decide (k = 1)
  | 5 => decide (k = 1) || decide (k = 2)
  | _ => false

/-- The source is enabled (Table 19-6). -/
def Chip.wakeEnabled (c : Chip) (src : Nat) : Bool :=
  if 2 ≤ src ∧ src ≤ 4 then bit (c.rn R.PWR_WAKE_EN) src else true

/-- A wake cause arrives: it wakes the engine at once, or is held until the step in progress completes (R440). (DEDUCED, log 47) -/
def Chip.wakeCause (c : Chip) (src init : Nat) : Chip :=
  if c.inSafe || c.pwr.up.isSome || !c.wakeEnabled src then c
  else if c.pwr.down.isSome then
    if (wakesFrom src c.ladder || wakesFrom src (c.ladder + 1)) && c.pwr.held.isNone then { c with pwr := { c.pwr with held := some src } } else c
  else if wakesFrom src c.ladder then c.wakeTo src c.wakeTarget init
  else c

/-- PWR_WAKE (R441): sources 1 to 4; a schedule entry wakes at SCHEDULE_WAKE, a register command at its command. -/
def doPwrWake (src : Nat) (c : Chip) : Chip := if 1 ≤ src ∧ src ≤ 4 then c.wakeCause src 0 else c

/-- POWER_STEP_DONE (R439, R440): the step in progress completes; a held wake begins its exit, or the next step begins. (DEDUCED, log 47) -/
def doPowerStepDone (c : Chip) : Chip :=
  match c.pwr.down with
  | none =>
    match c.pwr.held with
    | some src => if wakesFrom src c.ladder && c.pwr.up.isNone then c.wakeTo src c.wakeTarget 0 else { c with pwr := { c.pwr with held := none } }
    | none => c
  | some r =>
    let k := c.ladder
    if k = 1 ∧ (c.mcState = 2 ∨ c.mcState = 3) then c.srBegin 2
    else if c.stepReady k then
      let c1 := if k = 3 then (c.pwrChange 4 r).stepEnd 3 else (c.stepEnd k).pwrChange (k + 1) r
      match c1.pwr.held with
      | some src => c1.wakeTo src c1.wakeTarget 0
      | none =>
        if r.target ≤ k + 1 then { c1 with pwr := { c1.pwr with down := none } }.pwrBusy none else c1.stepBegin (k + 1)
    else c

/-! ### Requests (R437, R438) -/

/-- An enabled WAKE entry falls due less than 1 s after now. (DEDUCED, log 47) -/
def Chip.wakeSoon (c : Chip) : Bool :=
  c.sch.any (fun e => e.2.enable && e.2.wake && decide (c.now ≤ e.2.due) && decide (e.2.due < c.now + 2 ^ 36))

/-- A window of some partition is OPEN. -/
def Chip.windowOpen (c : Chip) : Bool := (List.range 16).any (fun p => !(c.part p).openWins.isEmpty)

/-- The reason a request is rejected, or 0 (Table 19-4). -/
def Chip.pwrReason (c : Chip) (target : Nat) (force : Bool) : Nat :=
  firstReason [
    (decide (4 < target), 0xa0),
    (c.flag R.PWR_STAT F.PWR_STAT_BUSY, 0xa1),
    (decide (0 < target) && decide (c.mcState ≤ 1), 0xa2),
    (!force && decide (target = 4) && c.windowOpen, 0xa3),
    (!force && decide (3 ≤ target) && c.anyArmed, 0xa4),
    (decide (2 ≤ target) && c.wakeSoon, 0xa5),
    (decide (c.stage ≠ 9), 0xa6)]

/-- An accepted request takes effect: nothing for the present state, a descent, or an exit. (DEDUCED, log 47) -/
def Chip.pwrGoNow (c : Chip) (target cause init entry : Nat) : Chip :=
  let k := c.ladder
  let r : PwrReq := { target := target, cause := cause, init := init, entry := entry, reqAt := c.epc.line }
  if target = k then c
  else if k < target then ({ c with pwr := { c.pwr with down := some r } }.pwrBusy (some target)).stepBegin k
  else if cause = 1 ∧ k ≤ 2 then c.wakeTo 5 target init
  else c.pwrUp r

def pwrPort : CmdPort := ⟨R.PWR_CMD, R.PWR_CMDSTAT, Ev.rejPwr⟩

/-- A request for a power state, by a register command (cause 1), a schedule entry (2) or a service (3). -/
def Chip.pwrRequest (c : Chip) (init : Init) (entry : Option Nat) (target cause : Nat) : Chip :=
  c.command pwrPort init entry false (c.pwrReason target false) (fun c => c.pwrGoNow target cause (initCode init) (entry.getD 0))

/-- PWR_GO (R437): the write carries TARGET. -/
def doPwrGo (init : Init) (target : Nat) (c : Chip) : Chip :=
  (c.setFld R.PWR_CMD F.PWR_CMD_TARGET target).pwrRequest init none target 1

/-- The completed guarded pair to `PWR_FORCE` (R438): every partition is disarmed, then the descent begins. -/
def Chip.pwrForce (c : Chip) (init : Init) (target : Nat) : Chip :=
  c.command ⟨R.PWR_FORCE, R.PWR_CMDSTAT, Ev.rejPwr⟩ init none false (c.pwrReason target true) (fun c =>
    let c1 := c.setN R.PWR_FORCE target
    let c2 := if target = c.ladder then c1 else ((List.range 16).filter c1.armed).foldl (fun c p => c.disarmNow p) c1
    c2.pwrGoNow target 4 (initCode init) 0)

end Sys2Proof.Machine
end

