-- ==== Sys2Proof/Machine/Schedule.lean ====
section
/-! DEFINITION. The schedule (spec 02, R59 to R66): loading entries, firing them and what each action does, write-back, late firings,
and the two commands that may skip DUE times: a Step and the arrival of an exit. -/

namespace Sys2Proof.Machine

/-! ### Loading (R63) -/

/-- The entry that six Common Store words spell (Table 2-10). -/
def schDecode (l : List DWord) : SchEntry :=
  let b := dwordBytes l
  { due := leAt b 0 10, enable := bit (leAt b 10 1) 0, wake := bit (leAt b 10 1) 1, action := leAt b 11 1, target := leAt b 12 1,
    period := leAt b 16 8, count := leAt b 24 4, arg0 := leAt b 32 8, arg1 := leAt b 40 8 }

/-- Common Store word of entry i. -/
def Chip.schWord (c : Chip) (i : Nat) : Nat := c.fld R.SCH_CTRL F.SCH_CTRL_BASE + 6 * i

/-- TARGET is out of range for the action. -/
def SchEntry.badTarget (e : SchEntry) : Bool :=
  match e.action with
  | 1 => decide (15 < e.target)
  | 2 => decide (15 < e.target)
  | 3 => decide (15 < e.target)
  | 4 => decide (4 < e.target)
  | 5 => decide (31 < e.target)
  | _ => false

/-- The keeper has no timeline to test against: IDLE or SEEK. -/
def Chip.schWaits (c : Chip) : Bool := decide (c.epcState ≤ 1)

/-- The reason an enabled entry is rejected by its contents, or 0. A PERIOD is short below 1 µs, 2^36 / 10^6 quanta. -/
def Chip.schReason (c : Chip) (e : SchEntry) : Nat :=
  firstReason [(decide (e.action = 0) || decide (6 < e.action), 1), (e.badTarget, 2),
    (decide (e.period ≠ 0) && decide (e.period * 1000000 < 2 ^ 36), 3),
    (decide (e.period = 0) && decide (e.due ≤ c.now) && !c.schWaits, 4)]

/-- One entry is loaded: the engine, and the reason it was rejected, or 0. -/
def Chip.schLoadOne (c : Chip) (i : Nat) : Chip × Nat :=
  let a := c.schWord i
  let off := fun (c : Chip) => c.setSch i { c.schEntry i with enable := false }
  if a + 6 > c.cstWords then (off c, 5)
  else
    let ue := c.firstUe a 6
    let r := c.cstReadList 18 a 6
    if r.2.2 = 2 then ((off r.1).stwReadFailed ue, 6)
    else
      let e := schDecode r.2.1
      if e.enable then
        let reason := r.1.schReason e
        if reason ≠ 0 then (r.1.setSch i { e with enable := false }, reason)
        else (r.1.setSch i (if r.1.schWaits then e else e.advance r.1.now), 0)
      else (r.1.setSch i e, 0)

/-- Entries are loaded in ascending order; the rejected ones with their reasons. (DEDUCED, log 34) -/
def Chip.schLoadAll (c : Chip) (l : List Nat) : Chip × List (Nat × Nat) :=
  l.foldl (fun acc i =>
    let r := acc.1.schLoadOne i
    (r.1, if r.2 = 0 then acc.2 else acc.2 ++ [(i, r.2)])) (c, [])

/-- LOAD's work and its report: each rejected entry raises CMD_REJECT; `SCH_CMDSTAT` names the first of them; with none, IDX keeps its
value. (DESIGN CHOICE, log 66) -/
def Chip.schLoad (c : Chip) (init : Init) (l : List Nat) : Chip :=
  let r := c.schLoadAll l
  match r.2 with
  | [] => { r.1.setFld R.SCH_CMDSTAT reasonFld 0 with lastReason := 0 }
  | (i, w) :: _ =>
    let c1 := r.2.foldl (fun c x => c.reject schPort init none x.2) r.1
    { (c1.setFld R.SCH_CMDSTAT reasonFld w).setFld R.SCH_CMDSTAT F.SCH_CMDSTAT_IDX i with lastReason := w }

/-- SCH_LOAD (R63): the write carries ALL and IDX. -/
def doSchLoad (init : Init) (all : Bool) (idx : Nat) (c : Chip) : Chip :=
  let c1 := (c.setFlag R.SCH_CMD F.SCH_CMD_ALL all).setFld R.SCH_CMD F.SCH_CMD_IDX idx
  if c1.inSafe then c1.reject schPort init none 0xfe else c1.schLoad init (if all then List.range 256 else [idx % 256])

/-! ### Actions (Table 2-11) -/

/-- The reason a PULSE is rejected, or 0 (R117). -/
def Chip.schPulseReason (c : Chip) (e : SchEntry) : Nat :=
  firstReason [(!c.trigOut e.target, 1), (bit e.arg0 16 != c.wflag (R.TRS_TRIG_CFG e.target) F.TRS_TRIG_CFG_POL, 2)]

/-- Where on the synthesiser timeline stamp `s` lies, within the present cycle; what is past counts as now. -/
def Chip.lineOf (c : Chip) (s : Nat) : Nat := c.epc.line + (s * quantum - c.epc.time)

/-- PULSE (R60, R116): its leading edge falls on the first sample-clock edge at or after DUE; its width in periods of
f_sc, 0 as 1. No command register stands behind it, so `TRS_CMDSTAT` is written by a rejection alone (R117). (DEDUCED, log 34) -/
def Chip.schPulse (c : Chip) (i : Nat) (e : SchEntry) : Chip :=
  let r := c.schPulseReason e
  if c.inSafe then c.reject trsPort .sched (some i) 0xfe
  else if r = 0 then c.trigPulse e.target (c.fscEdgeFrom (c.lineOf e.due)) (c.fscPeriods (max 1 (e.arg0 % 65536)))
  else (c.setFld R.TRS_CMDSTAT F.TRS_CMDSTAT_PIN e.target).reject trsPort .sched (some i) r

/-- SNAP (R62, R383): `SCV_CMDSTAT` is written by a rejection alone. (DEDUCED, log 34) The snapshot is taken as the fabric cycle ends: see
`Chip.schSnaps`. -/
def Chip.schSnap (c : Chip) (i : Nat) : Chip :=
  if c.inSafe then c.reject scvPort .sched (some i) 0xfe else c

/-- The snapshots of the entries that fired in a cycle capture the registers at its end (R384). -/
def Chip.schSnaps (c : Chip) (l : List (Nat × SchEntry)) : Chip :=
  if c.inSafe then c else (l.filter (fun x => decide (x.2.action = 6))).foldl (fun c x => c.snapshot x.2.target 2 0xff x.1 1 x.2.due) c

/-- The action of entry i. -/
def Chip.schAct (c : Chip) (i : Nat) (e : SchEntry) : Chip :=
  match e.action with
  | 1 => c.armCmd .sched e.target (some i)
  | 2 => c.disarmCmd .sched e.target (some i)
  | 3 => c.holdCommand e.target ((e.due : Int) + signedOf 64 e.arg0) ((e.due : Int) + signedOf 64 e.arg1) 2 .sched (some i)
  | 4 => c.pwrRequest .sched (some i) e.target 2
  | 5 => c.schPulse i e
  | 6 => c.schSnap i
  | _ => c

/-! ### Firing (R60, R62, R65) -/

/-- An entry after a firing: a one-shot is disabled; a repeating one advances by PERIOD and counts down. -/
def SchEntry.fired (e : SchEntry) : SchEntry :=
  if e.period = 0 then { e with enable := false }
  else { e with due := (e.due + e.period) % 2 ^ 80, count := e.count - 1, enable := decide (e.count ≠ 1) }

/-- DUE, FLAGS and COUNT are written back by the schedule master. -/
def Chip.schBack (c : Chip) (i : Nat) (e : SchEntry) : Chip :=
  let a := c.schWord i
  let w := fun (k : Nat) (v m : Nat) (c : Chip) =>
    c.cstWriteMerged (a + k) [{ master := 16, word := a + k, kind := 0, data := BitVec.ofNat 64 v, mask := m }]
  let flags := (if e.enable then 1 else 0) + (if e.wake then 2 else 0)
  w 3 e.count 15 (w 1 (e.due / 2 ^ 64 + 65536 * flags) 7 (w 0 e.due 255 c))

/-- Entry i fires; `late`: once, as a late firing. -/
def Chip.schFire (c : Chip) (i : Nat) (late : Bool) : Chip :=
  let e := c.schEntry i
  let c1 := (c.addCnt R.SCH_FIRED 1).schAct i e
  let e1 := if late then (e.fired).advance c1.now else e.fired
  let c2 := (c1.setSch i e1).schBack i e1
  if late then ((c2.addCnt R.SCH_LATE 1).raiseTyped Ev.schLate).record 0x0d 1 c2.now (leBytes 10 e.due ++ [i, e.action, 0, 0, 0, 0])
  else c2

/-- The schedule runs: EN, in a keeper state with a timeline, once the start is complete (R409). -/
def Chip.schOn (c : Chip) : Bool := c.flag R.SCH_CTRL F.SCH_CTRL_EN && c.epcHolds && decide (c.stage = 9)

/-- A hold goes before a DISARM of its partition, whatever their indices (R61, R141). -/
def holdFirst (e : Nat × SchEntry) : List (Nat × SchEntry) → List (Nat × SchEntry)
  | [] => [e]
  | x :: rest => if x.2.action = 2 ∧ x.2.target = e.2.target then e :: x :: rest else x :: holdFirst e rest

/-- The order in which entries of one cycle fire: ascending index, holds before DISARM (R61). -/
def fireOrder (l : List (Nat × SchEntry)) : List (Nat × SchEntry) :=
  l.foldl (fun acc e => if e.2.action = 3 then holdFirst e acc else acc ++ [e]) []

/-- Entries fire together. -/
def Chip.schFireAll (c : Chip) (l : List (Nat × SchEntry)) (late : Bool) : Chip :=
  ((fireOrder l).foldl (fun c e => c.schFire e.1 late) c).schSnaps (fireOrder l)

/-- Fabric cycles pass until the one whose interval contains stamp `s` (R60). -/
def Chip.waitInto (c : Chip) (s : Nat) : Chip :=
  if c.epc.time < s * quantum then
    let n := c.cyclesTo (s * quantum)
    c.pass (if c.timeAfter n = s * quantum then n else n - 1)
  else c

/-- The entries that fire with entry `i`: itself and the enabled ones whose DUE lies in the present cycle (R61). -/
def Chip.dueNow (c : Chip) (i : Nat) : List (Nat × SchEntry) :=
  c.sch.filter (fun e => e.2.enable &&
    (decide (e.1 = i) || (decide (c.epc.time ≤ e.2.due * quantum) && decide (e.2.due * quantum < c.timeAfter 1))))

/-- SCHEDULE_FIRE (R60, R61, R66): an enabled entry fires in the fabric cycle whose interval contains its DUE, with every other entry due in that
cycle. -/
def doScheduleFire (i : Nat) (c : Chip) : Chip :=
  let e := c.schEntry i
  if c.schOn && e.enable && c.portsOn then
    let c1 := c.waitInto e.due
    c1.schFireAll (c1.dueNow i) false
  else c

/-- Every enabled entry that the keeper has been carried past fires late (R65). -/
def Chip.schLateFire (c : Chip) : Chip :=
  if c.schOn then c.schFireAll (c.sch.filter (fun e => e.2.enable && decide (e.2.due ≤ c.now))) true else c

/-- SCHEDULE_ENABLE (R60): the host or the Steward writes `SCH_CTRL`; EN from 0 to 1 runs the past-due test. -/
def Chip.schEnable (c : Chip) (init : Init) (val : Nat) : Chip :=
  let was := c.flag R.SCH_CTRL F.SCH_CTRL_EN
  let c1 := (c.setFld R.SCH_CTRL F.SCH_CTRL_BASE val).setFlag R.SCH_CTRL F.SCH_CTRL_EN (bit val 31)
  if !was && bit val 31 && c1.epcHolds then c1.schSweep init else c1

/-- The exit time of a ladder state, in µs (Table 19-1). -/
def exitMicros (k : Nat) : Nat := if k = 2 then 100 else if k = 3 then 1000 else 10000

/-- SCHEDULE_WAKE (R66, R442): an entry with WAKE, due at least 1 s after the lower state was entered, wakes the engine at DUE less the
exit time. -/
def doScheduleWake (i : Nat) (c : Chip) : Chip :=
  let e := c.schEntry i
  if c.schOn && e.enable && e.wake && wakesFrom 0 c.ladder && decide (c.pwr.lowAt + second ≤ e.due * quantum) && c.pwr.up.isNone then
    let c1 := c.waitTime ((e.due * quantum : Nat) - (exitMicros c.ladder * micro : Nat))
    c1.wakeCause 0 3
  else c

/-! ### Steps and exits that skip DUE times -/

/-- STEP_APPLY (R56, R57): a confirmed correction with POLICY = Step is applied once no segment is open. -/
def doStepApply (c : Chip) : Chip :=
  match c.epc.stepDue with
  | none => c
  | some q => if c.segmentOpen then c else if 0 < q then (c.stepNow q).schLateFire else c.stepNow q

/-- A completed pair to `EPC_SET_H` (R47, R57, R63, R65). -/
def Chip.epcSet (c : Chip) (init : Init) (v : Nat) : Chip :=
  let s := c.epcState
  let old := c.now
  let c1 := c.epcSetNow init v
  if s = 2 then c1
  else if s ≤ 1 then c1.schSweep init
  else if old < v then c1.schLateFire
  else c1

/-- A PAUSED partition returns to the state it left, and its groups store again (R166). -/
def Chip.resumePart (c : Chip) (p : Nat) : Chip :=
  let c1 := (c.setPrtState p (c.part p).prior).fulActive p true
  (c1.prtGroups p).foldl (fun c g =>
    let d := c.setLane g { c.lane g with runStart := true }
    if d.sampleOn then d.gapResume g p d.now else d) c1

/-- Arrival at Breeze or Gale. -/
def Chip.exitEnd (c : Chip) (r : PwrReq) : Chip :=
  let k := c.ladder
  let c1 := if 2 ≤ k then c.sampleRelease c.clockFed else c
  let ranks := if r.target = 0 then 2 else 3
  let c2 := (if c1.mcState = 2 ∨ c1.mcState = 3 then c1.setMcState ranks else c1.srRanks ranks).pwrChange r.target r
  let c3 := if r.target = 0 then ((List.range 16).filter (fun p => decide (c2.prtState p = 3))).foldl (fun c p => c.resumePart p) c2 else c2
  ({ c3 with pwr := { c3.pwr with up := none } }.pwrBusy none).schLateFire

/-- POWER_EXIT_DONE (R442): DRAM serves, or is in a self-refresh that a command has asked for in Breeze, and, from Calm or Still, the synthesiser has left ACQUIRE. -/
def doPowerExitDone (c : Chip) : Chip :=
  match c.pwr.up with
  | none => c
  | some r => if (c.mcState = 2 ∨ c.mcState = 3 ∨ (c.ladder = 1 ∧ 4 ≤ c.mcState)) ∧ c.synState ≠ 1 then c.exitEnd r else c

end Sys2Proof.Machine
end

