-- ==== Sys2Proof/Machine/Readout.lean ====
section
/-! DEFINITION. Readout (spec 11): the segment stream, the DMA engine, the Ethernet streamers with their acknowledgements and replays,
and the frame a port sends next. -/

namespace Sys2Proof.Machine

/-! ### Bytes of a committed segment (Tables 7-2, 7-5, 7-6) -/

/-- A group's FIRST, LAST and COUNT in a table entry. -/
def Seg.runBytes (s : Seg) (g : Nat) : List Nat :=
  match s.runs.find? (fun r => decide (r.1 = g)) with
  | some r => leBytes 4 r.2.1 ++ leBytes 4 r.2.2.1 ++ leBytes 4 r.2.2.2
  | none => zeros 12

/-- Capture address of a page of the pool. -/
def Chip.pageAddr (c : Chip) (p k : Nat) : Nat := c.poolBase p + 65536 * k

/-- The pages of a segment's list: 0 markers, 1 gaps, 2 snapshots. -/
def Seg.listPagesOf (s : Seg) (i : Nat) : List Nat := s.pages.getD i []

/-- Capture address of a list's first page, or 0. -/
def Chip.firstPage (c : Chip) (p : Nat) (s : Seg) (i : Nat) : Nat :=
  match s.listPagesOf i with
  | k :: _ => c.pageAddr p k
  | [] => 0

/-- A segment table entry (Table 7-5). -/
def Chip.entryBytes (c : Chip) (p : Nat) (s : Seg) : List Nat :=
  let st := fun (i : Int) => leBytes 10 (unsignedOf 80 i)
  let b := leBytes 4 s.segNo ++ [s.state, s.kind, s.flags, s.clip + 16 * s.truncCause, s.source,
      c.wfld (R.PRT_CFG p) F.PRT_CFG_GROUPS, p, 0] ++ st s.reqStart ++ st s.reqEnd ++ st s.heldStart ++ st s.heldEnd ++
    leBytes 10 s.at_ ++ [0, 0] ++ (List.range 8).flatMap s.runBytes ++
    leBytes 8 (c.firstPage p s 0) ++ leBytes 8 (c.firstPage p s 1) ++ leBytes 8 (c.firstPage p s 2) ++
    leBytes 4 s.markers.length ++ leBytes 4 s.gaps.length ++ leBytes 4 s.snaps.length ++ zeros 56
  b ++ leBytes 4 (crc32c b)

/-- A block's directory entry (Table 7-2). -/
def Blk.dirBytes (b : Blk) : List Nat :=
  let f := fun (x : Bool) (k : Nat) => if x then k else 0
  let next := match b.next with
    | some n => n.2.2.1 % 2 ^ 31 + f n.2.2.2 (2 ^ 31)
    | none => 2 ^ 31 - 1
  leBytes 10 b.s0 ++ leBytes 2 b.len ++ leBytes 2 (b.valid % 8192 + 8192 * b.group) ++
    leBytes 2 (b.ofs % 1024 + 1024 * (b.tbq % 16) + f b.raw 16384 + f b.vf 32768) ++ leBytes 8 b.held ++ leBytes 4 next ++
    [1 + f b.trig 2, 0, 0, 0]

/-- Entries of the side logs (Table 7-6). -/
def markerBytes (m : Nat × Nat × Nat × Nat × Nat) : List Nat :=
  leBytes 10 m.1 ++ [m.2.1, m.2.2.1, m.2.2.2.1, 0, 0, 0] ++ leBytes 8 m.2.2.2.2
def Gap.bytes (g : Gap) : List Nat := leBytes 10 g.start ++ leBytes 8 g.duration ++ [g.cause, g.group, 0, 0, 0, 0] ++ leBytes 8 g.lost
def snapBytes (s : Nat × Nat × Nat) : List Nat := leBytes 10 s.1 ++ [s.2.1, 0] ++ leBytes 4 s.2.2

/-! ### The segment stream (R239 to R241) -/

/-- An item: header, body and padding (Table 11-1). -/
def item (typ group : Nat) (body : List Nat) : List Nat := [typ, group, 0, 0] ++ leBytes 4 body.length ++ padTo 8 body

/-- A list page (Table 7-6): header and entries. -/
def pageBytes (next count kind : Nat) (entries : List Nat) : List Nat :=
  leBytes 8 next ++ leBytes 4 count ++ [kind, 0, 0, 0] ++ entries

/-- Capture address of the first page of a list of them, or 0. -/
def Chip.nextPage (c : Chip) (p : Nat) : List Nat → Nat
  | k :: _ => c.pageAddr p k
  | [] => 0

/-- One item for each page of a list, with up to `per` entries a page, which are the page without its header (Table 11-1). -/
def Chip.pageItems (c : Chip) (p kind per : Nat) (entries : List (List Nat)) : List Nat → List (List Nat)
  | [] => []
  | k :: rest =>
    let mine := entries.take per
    let page := pageBytes (c.nextPage p rest) mine.length kind mine.flatten
    item (kind + 2) 255 ((c.dramSee (c.pageAddr p k) page).drop 16) :: c.pageItems p kind per (entries.drop per) rest

/-- The BLOCK item of a held block. -/
def Chip.blockItem (c : Chip) (p : Nat) (b : Blk) : List Nat :=
  item 2 b.group (c.dramSee (c.dirAddr p b.post b.ofs) b.dirBytes ++ c.dramSee (c.blkAddr p b.post b.ofs) b.bytes)

/-- The items before END. -/
def Chip.segItems (c : Chip) (p slot : Nat) (s : Seg) (entry : List Nat) : List (List Nat) :=
  [item 1 255 entry] ++
    (c.prtGroups p).flatMap (fun g => ((c.part p).segBlocks slot g).map (fun b => c.blockItem p b)) ++
    c.pageItems p 1 2730 (s.markers.map markerBytes) (s.listPagesOf 0) ++
    c.pageItems p 2 2047 (s.gaps.map Gap.bytes) (s.listPagesOf 1) ++
    c.pageItems p 3 4095 (s.snaps.map snapBytes) (s.listPagesOf 2)

/-- The whole stream, END included. -/
def streamOf (items : List (List Nat)) : List Nat :=
  let b := items.flatten
  b ++ item 0x7f 255 (leBytes 8 b.length ++ leBytes 4 (crc32c b) ++ leBytes 4 items.length)

/-- The segment whose table entry lies at a capture address. -/
def Chip.entryAt (c : Chip) (addr : Nat) : Option (Nat × Nat × Seg) :=
  ((List.range 16).flatMap (fun p => (c.part p).segs.map (fun s => (p, s.1, s.2)))).find?
    (fun x => decide (c.segBase x.1 + 256 * x.2.1 = addr))

/-- A stream of which `sent` bytes have gone, with the rest as its DRAM reads return it now: the entry stands as it was read at the pop, and END's CRC
is of the bytes that were and will be sent (R240, R300). -/
def Chip.restream (c : Chip) (desc old : List Nat) (sent : Nat) : List Nat :=
  match c.entryAt (leAt desc 0 8) with
  | none => old
  | some (p, slot, s) =>
    let items := c.segItems p slot s (slice old 8 256)
    let body := items.flatten
    if body.length ≤ sent then old
    else
      let b := old.take sent ++ body.drop sent
      b ++ item 0x7f 255 (leBytes 8 b.length ++ leBytes 4 (crc32c b) ++ leBytes 4 items.length)

/-- The stream of a descriptor's 32 bytes: status 0 with the stream, 1 where the table entry fails its CRC or its STATE is not 2, so that it is
not walked (R177, R239), 2 for KIND 2. (DEDUCED, log 43) -/
def Chip.streamFor (c : Chip) (desc : List Nat) : Nat × List Nat :=
  if desc.getD 15 0 = 1 then
    match c.entryAt (leAt desc 0 8) with
    | none => (1, [])
    | some (p, slot, s) =>
      let e := c.dramSee (leAt desc 0 8) (c.entryBytes p s)
      if crc32c (e.take 252) = leAt e 252 4 ∧ e.getD 4 0 = 2 then (0, streamOf (c.segItems p slot s e)) else (1, [])
  else (2, desc)

/-! ### The DMA engine (R247 to R250) -/

def dmaPort : CmdPort := ⟨R.HIF_DMA_CMD, R.HIF_DMA_CMDSTAT, Ev.rejHif⟩

/-- Free-running 16-bit counts: `a` less `b`. -/
def count16 (a b : Nat) : Nat := (a + 65536 - b) % 65536

/-- Buffers posted and not consumed. -/
def Chip.dmaPosted (c : Chip) : Nat := count16 (c.rn R.HIF_DMA_BUF_PI) (c.rn R.HIF_DMA_BUF_CI)

/-- A completion slot is free. -/
def Chip.dmaSlot (c : Chip) : Bool := decide (count16 (c.rn R.HIF_DMA_CPL_PI) (c.rn R.HIF_DMA_CPL_CI) < 2 ^ c.dma.csz)

/-- The reason START is rejected, or 0 (Table 11-4). -/
def Chip.dmaReason (c : Chip) : Nat :=
  let bsz := c.fld R.HIF_DMA_RING F.HIF_DMA_RING_BSZ
  let csz := c.fld R.HIF_DMA_RING F.HIF_DMA_RING_CSZ
  firstReason [
    (c.dmaRuns, 0x60),
    (decide (c.rn R.HIF_DMA_BUF_BASE_L % 64 ≠ 0) || decide (c.rn R.HIF_DMA_CPL_BASE_L % 64 ≠ 0) || decide (bsz < 4) || decide (16 < bsz) ||
      decide (csz < 4) || decide (16 < csz), 0x61),
    (!c.pcieUp || !c.pcie.bme, 0x62),
    (c.flag (R.CAR_Q_CFG 0) F.CAR_Q_CFG_OWNER, 0x63)]

/-- START's work (R250): ring registers are copied, and REWIND and MARK are issued on Q0. (DEDUCED, log 43) -/
def Chip.dmaBegin (c : Chip) : Chip :=
  let c1 := { c with dma := { c.dma with
    bufBase := c.pair 32 R.HIF_DMA_BUF_BASE_L, cplBase := c.pair 32 R.HIF_DMA_CPL_BASE_L
    bsz := c.fld R.HIF_DMA_RING F.HIF_DMA_RING_BSZ, csz := c.fld R.HIF_DMA_RING F.HIF_DMA_RING_CSZ
    phase := true, stream := none, starved := false } }
  let c2 := ((c1.carRewind 0).carMark 0).setFlag R.HIF_DMA_STAT F.HIF_DMA_STAT_RUNNING true
  (c2.setFlag R.HIF_DMA_STAT F.HIF_DMA_STAT_ERROR false).setFlag R.HIF_DMA_STAT F.HIF_DMA_STAT_STARVED false

/-- DMA_START (R250). -/
def doDmaStart (init : Init) (c : Chip) : Chip := c.command dmaPort init none false c.dmaReason Chip.dmaBegin

/-- DMA_STOP (R250): on a stopped engine it does nothing. -/
def doDmaStop (init : Init) (c : Chip) : Chip := c.command dmaPort init none false 0 (fun c => c.dmaHalt false)

/-- A buffer ring entry is valid (R247). -/
def bufOk (b : Nat × Nat) : Bool :=
  decide (b.1 % 64 = 0) && decide (b.2 % 64 = 0) && decide (4096 ≤ b.2) && decide (b.2 ≤ 16777216)

/-- How the filling of buffers ended. -/
inductive FillEnd where
  | done
  | starved
  | error
  deriving DecidableEq, Repr

/-- Buffers filled in ring order (R248): the writes, what is left of the stream, and how it ended. `avail` buffers are posted; an entry
that is posted and not supplied is one whose read failed (R250). -/
def fillBufs : Nat → List Nat → List (Nat × Nat) → List (Nat × List Nat) × List Nat × FillEnd
  | _, [], _ => ([], [], .done)
  | 0, rest, _ => ([], rest, .starved)
  | _ + 1, rest, [] => ([], rest, .error)
  | n + 1, rest, b :: bs =>
    if bufOk b then
      let r := fillBufs n (rest.drop b.2) bs
      ((b.1, rest.take b.2) :: r.1, r.2)
    else ([], rest, .error)

/-- The stream in progress is written into the posted buffers, with Relaxed Ordering where `HIF_DMA_CTRL.RO_EN` allows it (Table 11-2). -/
def Chip.dmaWrite (c : Chip) (bufs : List (Nat × Nat)) : Chip :=
  match c.dma.stream with
  | none => c
  | some s =>
    let r := fillBufs c.dmaPosted s.rest bufs
    let c1 := r.1.foldl (fun c w => c.emit (.hostWrite w.1 (c.flag R.HIF_DMA_CTRL F.HIF_DMA_CTRL_RO_EN) w.2)) c
    let n := r.1.length
    let sent := s.rest.length - r.2.1.length
    let c2 := (c1.setN R.HIF_DMA_BUF_CI ((c.rn R.HIF_DMA_BUF_CI + n) % 65536)).setPair 16 R.HIF_DMA_BYTES_L
      ((c.pair 16 R.HIF_DMA_BYTES_L + sent) % 2 ^ 48)
    let c3 := { c2 with dma := { c2.dma with stream := some { s with sent := s.sent ++ s.rest.take sent, rest := r.2.1, nbuf := s.nbuf + n } } }
    match r.2.2 with
    | .done => { c3 with dma := { c3.dma with starved := false } }.setFlag R.HIF_DMA_STAT F.HIF_DMA_STAT_STARVED false
    | .starved =>
      let c4 := { c3 with dma := { c3.dma with starved := true } }.setFlag R.HIF_DMA_STAT F.HIF_DMA_STAT_STARVED true
      if c.dma.starved ∧ n = 0 then c4 else c4.raise Ev.dmaStarved
    | .error => c3.dmaHalt true

/-- A queue's consumer is inside the engine: OWNER = 0 (Table 10-1). -/
def Chip.engineOwns (c : Chip) (q : Nat) : Bool := !c.flag (R.CAR_Q_CFG q) F.CAR_Q_CFG_OWNER

/-- DMA_DESCRIPTOR_POP (R248): `bufs` are the buffer ring's entries from CI on, as the host holds them. (DEDUCED, log 43) -/
def doDmaDescriptorPop (bufs : List (Nat × Nat)) (c : Chip) : Chip :=
  if c.dmaRuns && c.engineOwns 0 && !c.pcie.d3hot && decide (c.ladder ≤ 1) && c.dma.stream.isNone && decide (0 < c.dmaPosted) && c.dmaSlot && (c.carHead 0).isSome then
    let a := c.popArrive 8 (((c.carHead 0).map CarEntry.kind).getD 0)
    if a.2 then
      let r := a.1.carPop 0
      match r.2 with
      | none => r.1
      | some (h, desc, _) =>
        let s := r.1.streamFor desc
        let bytes := if s.1 = 0 then s.2 else []
        let first := if s.1 = 0 then r.1.rn R.HIF_DMA_BUF_CI % 2 ^ r.1.dma.bsz else r.1.freeNow.toNat
        let st : DmaStream := { handle := h, desc := desc, rest := bytes, total := bytes.length, firstBuf := first, nbuf := 0, status := s.1 }
        ({ r.1 with dma := { r.1.dma with stream := some st } }.used).dmaWrite bufs
    else a.1
  else c

/-- The completion entry's bytes 0 to 30 (Table 11-3). (DESIGN CHOICE, log 3; DEDUCED, log 43) -/
def DmaStream.entry (s : DmaStream) : List Nat :=
  slice s.desc 0 16 ++ leBytes 4 s.firstBuf ++ leBytes 4 s.nbuf ++
    (if s.status = 2 then slice s.desc 28 4 ++ [0, 0] else leBytes 6 s.total) ++ [s.status]

/-- DMA_STREAM_COMPLETE (R249): the completion entry is written, its last byte apart, and the descriptor is released. -/
def doDmaStreamComplete (c : Chip) : Chip :=
  match c.dma.stream with
  | none => c
  | some s =>
    if c.dmaRuns && !c.pcie.d3hot && s.rest.isEmpty then
      let pi := c.rn R.HIF_DMA_CPL_PI
      let at_ := c.dma.cplBase + 32 * (pi % 2 ^ c.dma.csz)
      let c1 := (c.emit (.hostWrite at_ false s.entry)).emit (.hostWrite (at_ + 31) false [if c.dma.phase then 1 else 0])
      let turn := decide ((pi + 1) % 2 ^ c.dma.csz = 0)
      let c2 := { c1 with dma := { c1.dma with stream := none, phase := c1.dma.phase != turn } }
      let c3 := (c2.setN R.HIF_DMA_CPL_PI ((pi + 1) % 65536)).addCnt R.HIF_DMA_SEGS 1
      (c3.carRelease 0 s.handle).raise Ev.dmaCpl
    else c

/-- DMA_BUFFER_POST (R247, R248): PI advances, and a stream that waits for buffers goes on. (DEDUCED, log 43) -/
def doDmaBufferPost (pi : Nat) (bufs : List (Nat × Nat)) (c : Chip) : Chip :=
  let c1 := c.setN R.HIF_DMA_BUF_PI (pi % 65536)
  match c1.dma.stream with
  | some s => if c1.dmaRuns && !c1.pcie.d3hot && !s.rest.isEmpty && decide (0 < c1.dmaPosted) then c1.dmaWrite bufs else c1
  | none => c1

/-- DMA_COMPLETION_FREE (R249). -/
def doDmaCompletionFree (ci : Nat) (c : Chip) : Chip := c.setN R.HIF_DMA_CPL_CI (ci % 65536)

/-! ### Streamers (R260 to R264) -/

def strPort (n : Nat) : CmdPort := ⟨R.ETH_STR_CMD n, R.ETH_STR_CMDSTAT n, Ev.rejEth n⟩

/-- CHUNK: bits [2:0] are ignored. WINDOW: 1 to 64. RTO: 10 to 10,000,000 µs (Table 11-13). -/
def Chip.chunk (c : Chip) (n : Nat) : Nat := c.fld (R.ETH_STR_CFG n) F.ETH_STR_CFG_CHUNK / 8 * 8
def Chip.window (c : Chip) (n : Nat) : Nat := max 1 (min 64 (c.fld (R.ETH_STR_CFG n) F.ETH_STR_CFG_WINDOW))
def Chip.rto (c : Chip) (n : Nat) : Nat := max 10 (min 10000000 (c.fld (R.ETH_STR_RTO n) F.ETH_STR_RTO_RTO))

/-- The reason START is rejected, or 0 (Table 11-4). -/
def Chip.strReason (c : Chip) (n : Nat) : Nat :=
  firstReason [
    (c.strRuns n, 0x70),
    (decide (c.chunk n + 110 > c.maxFrame n) || decide (c.chunk n < 256) || decide (9104 < c.chunk n), 0x71),
    (c.flag (R.CAR_Q_CFG (n + 1)) F.CAR_Q_CFG_OWNER, 0x72),
    (!c.flag (R.ETH_CTRL n) F.ETH_CTRL_EN, 0x73)]

/-- START's work (R260): counts are cleared, REWIND and MARK are issued, and sending begins. -/
def Chip.strBegin (c : Chip) (n : Nat) : Chip :=
  let c1 := (c.setN (R.ETH_STR_SEQ_TX n) 0).setN (R.ETH_STR_CTL_SEQ n) 0
  let c2 := (c1.strRewind n none).carMark (n + 1)
  let c3 := c2.setEth n { c2.eth n with ctlSeen := false, lastAt := c2.epc.line }
  (c3.setFlag (R.ETH_STR_STAT n) F.ETH_STR_STAT_RUNNING true).setFlag (R.ETH_STR_STAT n) F.ETH_STR_STAT_WAIT_LINK (!c3.ethUp n)

/-- STR_START (R260). -/
def doStrStart (init : Init) (n : Nat) (c : Chip) : Chip := c.command (strPort n) init none false (c.strReason n) (fun c => c.strBegin n)

/-- STR_STOP (R260). -/
def doStrStop (init : Init) (n : Nat) (c : Chip) : Chip := c.command (strPort n) init none false 0 (fun c => c.strHalt n)

/-- Where a stream begins: at 0, or at the offset a REPLAY named (R263). -/
def resumeAt (resume : Option (Nat × Nat)) (h chunk len : Nat) : Nat :=
  match resume with
  | some (rh, ofs) =>
    if rh = h then (if ofs / 8 * 8 < len then ofs / 8 * 8 else (len - 1) / chunk * chunk) else 0
  | none => 0

/-- The streamer may pop: fewer than WINDOW entries are outstanding, or the one it would take is outstanding already (R261, R263).
(DEDUCED, log 44) -/
def Chip.strRoom (c : Chip) (n : Nat) : Bool :=
  match c.carHead (n + 1) with
  | none => false
  | some x => decide ((c.eth n).outst.length < c.window n) || (c.eth n).outst.contains x.handle

/-- STREAMER_POP (R261): an entry whose table entry fails its check stays outstanding and sends nothing. (DEDUCED, log 43) -/
def doStreamerPop (n : Nat) (c : Chip) : Chip :=
  let e := c.eth n
  if c.strRuns n && c.engineOwns (n + 1) && c.ethUp n && decide (c.ladder ≤ 1) && e.stream.isNone && c.strRoom n then
    let a := c.popArrive (9 + n) (((c.carHead (n + 1)).map CarEntry.kind).getD 0)
    if a.2 then
      let r := a.1.carPop (n + 1)
      match r.2 with
      | none => r.1
      | some (h, desc, x) =>
        let s := r.1.streamFor desc
        let st : StrStream := { handle := h, desc := desc, bytes := s.2, ofs := resumeAt e.resume h (r.1.chunk n) s.2.length,
                                rdlv := x.rdlv, segNo := leAt desc 8 4, part := desc.getD 12 0, slot := desc.getD 13 0,
                                kind := desc.getD 15 0 }
        let keep := match e.resume with
          | some q => if q.1 = h then none else e.resume
          | none => none
        r.1.putEth n { e with stream := if s.1 = 1 then none else some st, outst := if e.outst.contains h then e.outst else e.outst ++ [h],
                              resume := keep }
    else a.1
  else c

/-- Every outstanding entry is popped: none waits in the queue to be sent again. -/
def Chip.strAllOut (c : Chip) (n : Nat) : Bool :=
  (c.eth n).outst.all (fun h => c.car.entries.any (fun e => decide (e.handle = h) && e.popNo.isSome))

/-- STREAMER_TIMEOUT (R264): each RTO that passes sends the unacknowledged entries again, without end (R265). (DEDUCED, log 44) -/
def doStreamerTimeout (n : Nat) (c : Chip) : Chip :=
  let e := c.eth n
  if c.strRuns n && decide (c.ladder ≤ 1) && !e.outst.isEmpty && e.stream.isNone && c.strAllOut n then
    let c1 := c.waitLine (e.lastAt + c.rto n * micro)
    let c2 := (c1.strReplay n none).addCnt (R.ETH_STR_TIMEOUTS n) 1
    (c2.setEth n { c2.eth n with lastAt := c2.epc.line }).raise (Ev.strTimeout n)
  else c

/-! ### Control frames (R258, R259, R262, R263) -/

/-- A rejected control frame. -/
def Chip.ctlReject (c : Chip) (n reason : Nat) : Chip :=
  ((c.addCnt (R.ETH_STR_CTL_REJ n) 1).setFld (R.ETH_STR_CTL_REJ_LAST n) F.ETH_STR_CTL_REJ_LAST_REASON reason).raise (Ev.ctlReject n)

/-- One acknowledged handle (R262), in a fabric cycle of its own: MARK follows when the last outstanding entry is released. -/
def Chip.strAck (c : Chip) (n h : Nat) : Chip :=
  let q := n + 1
  (if c.carReleaseReason q h = 0 then
    let c1 := c.carRelease q h
    let e := c1.eth n
    let c2 := c1.setEth n { e with stream := if e.stream.any (fun s => decide (s.handle = h)) then none else e.stream }
    if !(c.eth n).outst.isEmpty && e.outst.isEmpty then c2.carMark q else c2
  else c.addCnt (R.ETH_STR_ACK_STALE n) 1).pass 1

/-- The handles a control frame acknowledges. -/
def ackHandles (f : List Nat) : List Nat := (List.range (leAt f 32 2)).map (fun i => leAt f (48 + 2 * i) 2)

/-- An accepted control frame for streamer m. -/
def Chip.ctlAccept (c : Chip) (m : Nat) (f : List Nat) : Chip :=
  let c1 := c.setN (R.ETH_STR_CTL_SEQ m) (leAt f 28 4)
  let c2 := c1.setEth m { c1.eth m with ctlSeen := true, lastAt := c1.epc.line }
  let c3 := if bit (leAt f 6 2) 0 then (ackHandles f).foldl (fun c h => c.strAck m h) c2 else c2
  if bit (leAt f 6 2) 1 then c3.strReplay m (some (leAt f 34 2, leAt f 36 8)) else c3

/-- CONTROL_FRAME (R259): `f` is the UDP payload of a frame that arrived on port n. A frame that names no streamer is counted on its
port. (DEDUCED, log 44) -/
def Chip.ctlReceive (c : Chip) (n : Nat) (f : List Nat) : Chip :=
  let k := leAt f 32 2
  let len := leAt f 4 2
  let m := leAt f 26 2
  if leAt f 0 2 ≠ 0x7a0d ∨ leAt f 2 1 ≠ 1 ∨ 64 < k ∨ len ≠ 64 + 2 * k ∨ len ≠ f.length then c.ctlReject n 1
  else if 3 < m then c.ctlReject n 2
  else if c.strRuns m = false ∨ leAt f 8 8 ≠ c.pair 32 (R.ETH_STR_PEER_ID_L m) then c.ctlReject m 2
  else if c.mac (R.ETH_STR_KEY m 0) (slice f 0 (len - 16)) ≠ slice f (len - 16) 16 then c.ctlReject m 3
  else
    let d := (leAt f 28 4 + 2 ^ 32 - c.rn (R.ETH_STR_CTL_SEQ m)) % 2 ^ 32
    if (c.eth m).ctlSeen = true ∧ (d = 0 ∨ 2 ^ 31 ≤ d) then c.ctlReject m 5 else c.ctlAccept m f

/-! ### What a port sends (R256, R257) -/

/-- A frame leaves the port with its FCS; the MAC sends none longer than MAXFRAME, and such a frame is lost (R252). (DESIGN CHOICE, log 72) -/
def Chip.sendFrame (c : Chip) (n : Nat) (f : List Nat) : Chip :=
  if f.length + 4 ≤ c.maxFrame n then (c.emit (.frame n (f ++ fcs f))).addCnt (R.ETH_TX_OK n) 1 else c

/-- The streamer's next data frame (Table 11-6): the engine with the count advanced, and the frame. -/
def Chip.dataFrame (c : Chip) (n : Nat) (s : StrStream) : Chip × List Nat :=
  let c1 := c.addCnt (R.ETH_STR_SEQ_TX n) 1
  let chunk := (s.bytes.drop s.ofs).take (c1.chunk n)
  let last := decide (s.bytes.length ≤ s.ofs + chunk.length)
  let flags := (if s.ofs = 0 then 1 else 0) + (if last then 2 else 0) + (if 0 < s.rdlv then 4 else 0)
  let m := ortosHeader 1 (56 + chunk.length) flags c1.engineId c1.now n (c1.rn (R.ETH_STR_SEQ_TX n)) ++ leBytes 8 s.ofs ++
    leBytes 2 s.handle ++ leBytes 2 s.rdlv ++ leBytes 4 s.segNo ++ [s.part, s.slot, s.kind, 0, 0, 0, 0, 0] ++ chunk
  (c1, c1.udpFrame n (beBytes 6 (c1.pair 16 (R.ETH_STR_NH_L n))) (c1.rn (R.ETH_STR_DST_IP n))
    (c1.fld (R.ETH_STR_DST_UDP n) F.ETH_STR_DST_UDP_UDP) m)

/-- The streamer sends one data frame; its stream ends with its last chunk. -/
def Chip.sendData (c : Chip) (n : Nat) (s : StrStream) : Chip :=
  let r := c.dataFrame n s
  let c1 := r.1.sendFrame n r.2
  let next := s.ofs + r.1.chunk n
  let e := c1.eth n
  c1.setEth n { e with stream := if s.bytes.length ≤ next then none else some { s with ofs := next }, lastAt := c1.epc.line }

/-- ETH_FRAME_TRANSMIT (R256): at a frame boundary the first waiting frame goes: ARP replies, notices, management, data. -/
def doEthFrameTransmit (n : Nat) (c : Chip) : Chip :=
  if c.ethUp n && c.portsOn then
    let e := c.eth n
    match e.arp with
    | f :: rest => (c.setEth n { e with arp := rest }).sendFrame n f
    | [] =>
      match e.notices with
      | (f, again) :: rest =>
        let c1 := (c.setEth n { e with notices := rest }).sendFrame n f
        if again then c1 else c1.addCnt R.ORT_NTC_TX 1
      | [] =>
        match e.mgmt with
        | (f, reset) :: rest =>
          let c1 := (c.setEth n { e with mgmt := rest }).sendFrame n f
          if reset then { c1 with stw := { c1.stw with resetAt := some c1.epc.line } } else c1
        | [] =>
          match e.stream with
          | some s => if c.strRuns n then c.sendData n s else c
          | none => c
  else c

/-! ### Reads return (R298 to R301) -/

/-- The rest of the stream that a readout requester is sending, as its reads return it now (R300). -/
def Chip.restreamOf (c : Chip) (req : Nat) : Chip :=
  if req = 8 then
    match c.dma.stream with
    | some s =>
      if s.status = 0 then
        let b := c.restream s.desc (s.sent ++ s.rest) s.sent.length
        { c with dma := { c.dma with stream := some { s with rest := b.drop s.sent.length } } }
      else c
    | none => c
  else if 9 ≤ req ∧ req ≤ 12 then
    let e := c.eth (req - 9)
    match e.stream with
    | some s =>
      if s.kind = 1 then c.setEth (req - 9) { e with stream := some { s with bytes := c.restream s.desc s.bytes s.ofs } } else c
    | none => c
  else c

/-- A codeword that a requester reads comes back: good, corrected, or poisoned, as the decoder finds it; what its stream still has to send
follows. A poisoned read of the Steward's working store is fatal (R416). -/
def Chip.demandReturn (c : Chip) (ch cw req e lane : Nat) : Chip :=
  match e with
  | 0 => c
  | 1 => c.mcCe ch cw lane 0 req
  | 2 =>
    let c1 := (c.mcUe ch cw 0 req).restreamOf req
    if req = 13 ∧ cw < 2097152 then c1.declareFatal 9 [2, 0, 0, 0, 0, 0, 0, 0] c1.now false else c1
  | _ => (c.mcWild ch cw 0 req).restreamOf req

/-- DRAM_READ_RETURN (R298 to R301): a codeword in flight comes back to its requester, or to the merge that reads it (source 2), with the lanes in
error. (DEDUCED, log 43) -/
def doDramReadReturn (ch addr req source : Nat) (errs : List (Nat × Nat)) (c : Chip) : Chip :=
  let cw := addr / 128
  let m := c.mcCh ch
  let o := lanesOutcome errs
  let e := max o.1 (cnt0 m.bad cw)
  if source = 0 ∧ m.flight.contains (req, cw) = true then
    (c.setMcCh ch { m with flight := m.flight.erase (req, cw) }).demandReturn ch cw req e o.2
  else if source = 2 ∧ m.merge.contains (req, cw) = true then c.mergeReturn ch cw req e o.2
  else c

end Sys2Proof.Machine
end

