-- ==== Sys2Proof/Machine/Bank.lean ====
section
/-! DEFINITION. The commands of the Common Store (spec 14): BAR2 requests (R329, R330), the accesses a bank performs in one cycle (R327,
R332) and scrub (R337). -/

namespace Sys2Proof.Machine

/-! ### BAR2 (R329, R330) -/

/-- The host reaches the Common Store: the start is complete and has not failed (R409). -/
def Chip.bar2Open (c : Chip) : Bool := decide (c.stage = 9) && !c.boot.startFailed

/-- The alias a BAR2 offset names: 0 plain, 1 set, 2 clear; 3 maps nothing. -/
def bar2Kind (ofs : Nat) : Nat := ofs / 0x2000000 % 4

/-- The word a BAR2 offset names. -/
def bar2Word (ofs : Nat) : Nat := ofs % 0x2000000 / 8

/-- The DWs of a request with their offsets. -/
def bar2Spread {α : Type} (ofs : Nat) (l : List α) : List (Nat × α) :=
  (List.range l.length).zip l |>.map (fun x => (ofs + 4 * x.1, x.2))

/-- The access to one word that the fully enabled DWs of a write make, if any (R330, R331). -/
def dwAccess (w : Nat) (l : List (Nat × Dw)) : List CstAccess :=
  let mine := l.filter (fun x => decide (bar2Word x.1 = w) && decide (x.2.enables = 15))
  match mine with
  | [] => []
  | x :: _ =>
    let half := fun (hi : Nat) => match mine.find? (fun y => decide (y.1 / 4 % 2 = hi)) with
      | some y => (y.2.data.toNat, 15)
      | none => (0, 0)
    [{ master := 19, word := w, kind := bar2Kind x.1, data := BitVec.ofNat 64 ((half 0).1 + 2 ^ 32 * (half 1).1),
       mask := (half 0).2 + 16 * (half 1).2 }]

/-- BAR2_WRITE (R330): a DW with some byte enables only is dropped and counted; each word is an access of its own. (DESIGN CHOICE, log 8) -/
def doBar2Write (ofs : Nat) (dws : List Dw) (c : Chip) : Chip :=
  if c.bar2Open then
    let l := (bar2Spread ofs dws).filter (fun x => decide (bar2Kind x.1 < 3))
    let odd := l.filter (fun x => decide (x.2.enables % 16 ≠ 0) && decide (x.2.enables % 16 ≠ 15))
    let c1 := odd.foldl (fun c x => c.cstDropped 19 (bar2Word x.1) true) c
    let words := distinct (l.map (fun x => bar2Word x.1))
    words.foldl (fun c w => c.cstWriteMerged w (dwAccess w l)) c1
  else c

/-- What a read of one word returns to the host: 0xFFFF_FFFF in each DW where it is uncorrectable (R336). -/
def Chip.bar2Fetch (c : Chip) (w : Nat) : Chip × Nat :=
  let r := c.cstRead 19 w
  (r.1, if r.2.2 = 2 then 2 ^ 64 - 1 else r.2.1.toNat)

/-- The words of a read request, each read once. (DESIGN CHOICE, log 3) -/
def Chip.bar2Words (c : Chip) (ws : List Nat) : Chip × List (Nat × Nat) :=
  ws.foldl (fun acc w =>
    let r := acc.1.bar2Fetch w
    (r.1, acc.2 ++ [(w, r.2)])) (c, [])

/-- BAR2_READ (R330): a DW with any byte enabled returns all four bytes; what a skipped DW returns is not stated, a free value (DESIGN CHOICE, log 3).
(DESIGN CHOICE, log 8) -/
def doBar2Read (ofs : Nat) (dws : List Nat) (c : Chip) : Chip :=
  let l := bar2Spread ofs dws
  if c.bar2Open then
    let live := l.filter (fun x => decide (x.2 % 16 ≠ 0) && decide (bar2Kind x.1 < 3))
    let r := c.bar2Words (distinct (live.map (fun x => bar2Word x.1)))
    let v := fun (x : Nat × Nat) =>
      if 3 ≤ bar2Kind x.1 then (0 : Word)
      else if x.2 % 16 = 0 then c.freeNow
      else BitVec.ofNat 32 (SMap.get (fun _ => 0) r.2 (bar2Word x.1) / 2 ^ (32 * (x.1 / 4 % 2)))
    { r.1 with rblock := l.map v }.used
  else { c with rblock := l.map (fun _ => 0) }

/-! ### One cycle of a bank, and scrub -/

/-- CST_BANK_ACCESS (R327, R332, R333): accesses of masters reach a bank, and it performs its next fabric cycle; an empty list lets a bank go on with
what waits. (DEDUCED, log 45) -/
def doCstBankAccess (bank : Nat) (accs : List CstAccess) (c : Chip) : Chip :=
  if c.portsOn then (c.cstIssue bank accs).cstCycle bank else c

/-- The last bank that scrub visits in a row. -/
def Chip.lastBank (c : Chip) : Nat := if c.cstDegraded && decide (c.fld R.GLB_PROFILE_EFF F.GLB_PROFILE_EFF_CST_HALF = 0) then 31 else 63

/-- Time between the rows of a scrub pass: `PERIOD` seconds, 1 to 3,600, over 65,536 rows (R337). -/
def Chip.scrubGap (c : Chip) : Nat := max 1 (min 3600 (c.fld R.CST_CTRL F.CST_CTRL_PERIOD)) * second / 65536

/-- CST_SCRUB (R337): at its time the word of a bank at the scrub row is read and, where one bit was in error, written back. The row advances
with the last bank. (DEDUCED, log 45) -/
def doCstScrub (bank upset : Nat) (c : Chip) : Chip :=
  if c.flag R.GLB_PROFILE_EFF F.GLB_PROFILE_EFF_CST_SCRUB && decide (c.ladder ≤ 1) &&
      (!c.cstDegraded || decide (bank / 32 = c.fld R.GLB_PROFILE_EFF F.GLB_PROFILE_EFF_CST_HALF)) then
    let c := c.waitLine c.cstBus.scrubAt
    let row := c.fld R.CST_SCRUB_POS F.CST_SCRUB_POS_ROW
    let a := if c.cstDegraded then row * 32 + bank % 32 else row * 64 + bank
    let k := c.cstPhys a
    let c1 := if upset = 0 then c else c.cstUpset k upset
    let r := c1.cstRead 20 a
    let c2 := if (c1.cstSee k).1 = 1 then r.1.setCstCell k r.2.1 0 else r.1
    if bank = c.lastBank then
      { c2.setFld R.CST_SCRUB_POS F.CST_SCRUB_POS_ROW ((row + 1) % 65536) with
        cstBus := { c2.cstBus with scrubAt := max c2.epc.line (c2.cstBus.scrubAt + c2.scrubGap) } }
    else c2
  else c

end Sys2Proof.Machine
end

