-- ==== Sys2Proof/Machine/Image.lean ====
section
/-! DEFINITION. The configuration image as its bytes spell it (spec 17): header, groups and signature (R399 to R401), records (R402) and the
checks of Table 17-5 (R403). -/

namespace Sys2Proof.Machine

/-! ### A slot's bytes (R396, R399) -/

/-- Bytes of a slot, from the size of the flash. -/
def slotBytes (d : Nat) : Nat := (d - 16777216) / 2

/-- `n` bytes of the slot from `ofs` on; erased flash reads 0xFF. -/
def FlashSlot.read (f : FlashSlot) (ofs n : Nat) : List Nat :=
  let t := (f.bytes.drop ofs).take n
  t ++ List.replicate (n - t.length) 255

/-- The little-endian field of `n` bytes at `ofs`. -/
def FlashSlot.le (f : FlashSlot) (ofs n : Nat) : Nat := leNat (f.read ofs n)

/-- `data` replaces the bytes from `ofs` on. -/
def FlashSlot.overlay (f : FlashSlot) (ofs : Nat) (data : List Nat) : FlashSlot :=
  { f with bytes := f.read 0 ofs ++ data ++ f.bytes.drop (ofs + data.length) }

/-! ### The header (Table 17-3) -/

def FlashSlot.provision (f : FlashSlot) : Bool := bit (f.le 6 2) 0
def FlashSlot.imageLen (f : FlashSlot) : Nat := f.le 8 4
def FlashSlot.bodyLen (f : FlashSlot) : Nat := f.le 12 4
def FlashSlot.version (f : FlashSlot) : Nat := f.le 16 4
def FlashSlot.build (f : FlashSlot) : Nat := f.le 24 8
def FlashSlot.target (f : FlashSlot) : Nat := f.le 32 8
def FlashSlot.confirmS (f : FlashSlot) : Nat := f.le 40 4
def FlashSlot.groupCount (f : FlashSlot) : Nat := f.le 44 4
def FlashSlot.pmAddr (f : FlashSlot) (k : Nat) : Nat := if k < 6 then f.le (48 + k) 1 else 0
def FlashSlot.pubKey (f : FlashSlot) : List Nat := f.read 56 97
def FlashSlot.nextKeyHash (f : FlashSlot) : Nat := f.le 160 48

/-- SHA-384 of PUBKEY, as the fuses hold it: a little-endian number of its 48 bytes. -/
def FlashSlot.pubHash (f : FlashSlot) : Nat := leNat (sha384 f.pubKey)

/-- The signature over the image's bytes before it (R401). -/
def FlashSlot.sigOk (f : FlashSlot) : Bool := ecdsaOk f.pubKey (f.read (256 + f.bodyLen) 96) (f.read 0 (256 + f.bodyLen))

/-! ### Groups (R400) -/

/-- A group: the slot offset of its header, GLEN and GCRC. -/
structure ImgGroup where
  ofs : Nat
  len : Nat
  crc : Nat
  deriving DecidableEq, Repr

/-- The groups that fill `left` bytes from `ofs` on exactly, if they do. -/
def FlashSlot.groupsFrom (f : FlashSlot) : Nat → Nat → Nat → Option (List ImgGroup)
  | 0, _, _ => none
  | n + 1, ofs, left =>
    let len := f.le ofs 4
    if left = 0 then some []
    else if left < 8 + len ∨ len % 4 ≠ 0 ∨ len < 4 ∨ 1048576 < len then none
    else (f.groupsFrom n (ofs + 8 + len) (left - 8 - len)).map (fun l => ⟨ofs, len, f.le (ofs + 4) 4⟩ :: l)

/-- The image's groups, if they fill BODY_LEN. -/
def FlashSlot.groups (f : FlashSlot) : Option (List ImgGroup) := f.groupsFrom (f.bodyLen / 12 + 1) 256 f.bodyLen

/-! ### Records (R402, Table 17-4) -/

/-- A record's contents. -/
inductive ImgRec where
  | write (addr : Nat) (vals : List Word)
  | gwrite (addr : Nat) (val : Word)
  | fence
  | fill (waddr count : Nat) (pattern : Bool) (data : List DWord)
  | blob (kind target ofs : Nat) (data : List Word)
  | wait (addr : Nat) (mask val : Word) (timeout : Nat)
  | sched (index : Nat) (words : List DWord)
  | endRec
  deriving DecidableEq, Repr

/-- The 32-bit words that bytes spell. -/
def bytesWords (l : List Nat) : List Word := (leWords l).map (BitVec.ofNat 32)

/-- What a record of `len` bytes `b` holds; nothing where its CODE is unknown, its LEN bad or a reserved byte not zero. (DEDUCED, log 50) -/
def recBody (b : List Nat) (len : Nat) : Option ImgRec :=
  let flags := leAt b 1 1
  let n := fun (k : Nat) => leAt b k 4
  let w := fun (k : Nat) => BitVec.ofNat 32 (n k)
  let plain := fun (ok : Bool) (r : ImgRec) => if flags = 0 ∧ ok = true then some r else none
  match leAt b 0 1 with
  | 1 => plain (decide (12 ≤ len)) (.write (n 4) (bytesWords (b.drop 8)))
  | 2 => plain (decide (len = 12)) (.gwrite (n 4) (w 8))
  | 3 => plain (decide (len = 4)) .fence
  | 4 =>
    if n 4 < 4194304 ∧ 1 ≤ n 8 ∧ ((flags = 0 ∧ len = 12 + 8 * n 8) ∨ (flags = 1 ∧ len = 20)) then
      some (.fill (n 4) (n 8) (decide (flags = 1)) (bytesDwords (b.drop 12)))
    else none
  | 5 =>
    let kind := leAt b 4 1
    let target := leAt b 5 1
    plain (decide (12 ≤ len) && decide (leAt b 6 2 = 0) && (decide (kind = 1) && decide (target = 0) || decide (kind = 2) && decide (target < 16)))
      (.blob kind target (n 8) (bytesWords (b.drop 12)))
  | 6 => plain (decide (len = 20) && decide (1 ≤ n 16)) (.wait (n 4) (w 8) (w 12) (n 16))
  | 7 => plain (decide (len = 56) && decide (leAt b 5 3 = 0)) (.sched (leAt b 4 1) (bytesDwords (b.drop 8)))
  | 127 => plain (decide (len = 4)) .endRec
  | _ => none

/-- The record at `ofs` with its LEN, in a group of which `room` bytes are left. -/
def FlashSlot.recAt (f : FlashSlot) (ofs room : Nat) : Option (ImgRec × Nat) :=
  let len := f.le (ofs + 2) 2
  if room < 4 ∨ room < len ∨ len % 4 ≠ 0 ∨ len < 4 then none else (recBody (f.read ofs len) len).map (fun r => (r, len))

/-- The records of `room` bytes from `ofs` on, with their slot offsets, up to the first that is none. -/
def FlashSlot.recsFrom (f : FlashSlot) : Nat → Nat → Nat → List (Nat × Option ImgRec)
  | 0, _, _ => []
  | n + 1, ofs, room =>
    if room = 0 then []
    else match f.recAt ofs room with
      | none => [(ofs, none)]
      | some (r, len) => (ofs, some r) :: f.recsFrom n (ofs + len) (room - len)

/-- The records of every group, in image order: the group's number, the record's slot offset, the record. -/
def FlashSlot.recs (f : FlashSlot) (gs : List ImgGroup) : List (Nat × Nat × Option ImgRec) :=
  gs.zipIdx.flatMap (fun g => (f.recsFrom (g.1.len / 4) (g.1.ofs + 8) g.1.len).map (fun r => (g.2, r.1, r.2)))

/-- A KIND 1 BLOB. -/
def ImgRec.isFirmware : ImgRec → Bool
  | .blob kind _ _ _ => decide (kind = 1)
  | _ => false

/-! ### Verification (R403, Table 17-5) -/

/-- `a` names a register with GD fields (Table 15-5). -/
def isGuarded (a : Nat) : Bool :=
  match regRow a with
  | some r => decide (r.gd ≠ 0)
  | none => false

/-- Some write of the list reaches a GD field (code IMG_ADDRESS). -/
def writesGuarded (a n : Nat) : Bool := (run a n).any isGuarded

/-- A register that a GWRITE may name (Table 17-4). -/
def gwriteMay (a : Nat) : Bool :=
  isGuarded a && decide (a ≠ R.GLB_RESET) && decide (a ≠ R.STW_NV_ERASE) && decide (a ≠ R.STW_NV_SLOT)

/-- A record lies outside the limits of Table 17-4 (IMG_ADDRESS). (DEDUCED, log 50) -/
def ImgRec.badAddress : ImgRec → Bool
  | .write addr vals => decide (addr % 4 ≠ 0) || decide (0x800000 < addr + 4 * vals.length) || writesGuarded addr vals.length
  | .gwrite addr _ => !gwriteMay addr
  | .fill waddr count _ _ => decide (4194304 < waddr + count)
  | .blob kind _ ofs data => decide (kind = 2) && (decide (ofs % 4 ≠ 0) || decide (0x1400 < ofs + 4 * data.length))
  | .wait addr _ _ _ => decide (0x7ffffc < addr)
  | _ => false

/-- The slot offset at which IMG_RECORD holds, if it does: an ill-formed record, a firmware BLOB outside group 0, another record in it, or an END
that is not last; 0 where END is missing. -/
def formatFault (l : List (Nat × Nat × Option ImgRec)) : Option Nat :=
  let bad := fun (x : (Nat × Nat × Option ImgRec) × Nat) => match x.1.2.2 with
    | none => true
    | some r => r.isFirmware != decide (x.1.1 = 0) || (decide (r = .endRec) && decide (x.2 + 1 < l.length))
  match l.zipIdx.find? bad with
  | some x => some x.1.2.1
  | none => if (l.getLast?.map (fun x => x.2.2)) = some (some .endRec) then none else some 0

/-- The slot offset of the first KIND 1 BLOB that does not go on where the package has got to. -/
def firmwareGap : List (Nat × Nat × Option ImgRec) → Nat → Option Nat
  | [], _ => none
  | (_, at_, some (.blob 1 _ ofs data)) :: rest, n => if ofs = n then firmwareGap rest (n + 4 * data.length) else some at_
  | _ :: rest, n => firmwareGap rest n

/-- The TIMEOUT values of the WAIT records, summed. -/
def waitSum (l : List (Nat × Nat × Option ImgRec)) : Nat :=
  l.foldl (fun n x => match x.2.2 with
    | some (.wait _ _ _ t) => n + t
    | _ => n) 0

/-- A failure of the header or of the whole image names no record: offset 0. -/
def failsWhole (b : Bool) : Option Nat := if b then some 0 else none

/-- The checks of Table 17-5 with their codes: the slot byte offset at fault where one fails; `key` is the outcome of the key check, `flashOk`
that the flash reports no error. (DEDUCED, log 50) -/
def FlashSlot.checks (f : FlashSlot) (key flashOk : Bool) : List (Option Nat × Nat) :=
  let gs := f.groups.getD []
  let rs := f.recs gs
  [(failsWhole (decide (f.le 0 4 ≠ 0x544c4853) || decide (f.le 4 2 ≠ 1) || decide (f.le 20 4 ≠ 0x9256)), 1),
   (failsWhole (decide (f.le 252 4 ≠ crc32c (f.read 0 252))), 2),
   (failsWhole (decide (f.imageLen ≠ 256 + f.bodyLen + 96) || decide (slotBytes f.flashBytes < f.imageLen) || f.groups.isNone ||
      decide (gs.length ≠ f.groupCount) || decide (f.confirmS < 10) || decide (3600 < f.confirmS)), 3),
   (failsWhole !key, 4),
   (failsWhole !f.sigOk, 5),
   ((gs.find? (fun g => decide (g.crc ≠ crc32c (f.read (g.ofs + 8) g.len)))).map ImgGroup.ofs, 6),
   (formatFault rs, 7),
   ((rs.find? (fun x => (x.2.2.map ImgRec.badAddress).getD false)).map (fun x => x.2.1), 8),
   ((firmwareGap rs 0).or (failsWhole !f.vendorOk), 9),
   (failsWhole (decide (500000 < waitSum rs)), 10),
   (failsWhole !flashOk, 11),
   (failsWhole (decide (f.target ≠ 0) && decide (f.target ≠ Config.dieId.toNat)), 12)]

/-- The first check that fails: its code and the offset at fault; (0, 0) where all pass. -/
def firstFailing : List (Option Nat × Nat) → Nat × Nat
  | [] => (0, 0)
  | (some ofs, code) :: _ => (code, ofs)
  | (none, _) :: rest => firstFailing rest

end Sys2Proof.Machine
end

