-- ==== Sys2Proof/Machine/Flash.lean ====
section
/-! DEFINITION. The flash (spec 17): boot control, verification of an image, the slot stream and its commands, and the log area as a
service reads it. -/

namespace Sys2Proof.Machine

/-! ### Regions of the flash (R396, Table 17-1) -/

/-- S: the size of a slot. -/
def Chip.slotSize (c : Chip) : Nat := slotBytes (max c.boot.slotA.flashBytes c.boot.slotB.flashBytes)

/-- Flash offset at which a slot begins. -/
def Chip.slotBase (c : Chip) (s : Nat) : Nat := 16777216 + s * c.slotSize

/-! ### Boot control (R397) -/

/-- The 20 bytes of a boot control copy (Table 17-2). -/
def BootCtl.bytes (b : BootCtl) : List Nat :=
  let f := leBytes 4 0x4c544342 ++ leBytes 4 b.seq ++ [b.active, b.pending, b.tries, b.flags, 0, 0, 0, 0]
  f ++ leBytes 4 (crc32c f)

/-- What a copy's bytes say, where its magic and CRC are right. -/
def BootCtl.ofBytes (b : List Nat) : Option BootCtl :=
  if leAt b 0 4 = 0x4c544342 ∧ leAt b 16 4 = crc32c (slice b 0 16) then
    some { seq := leAt b 4 4, active := leAt b 8 1, pending := leAt b 9 1, tries := leAt b 10 1, flags := leAt b 11 1 }
  else none

/-- The copy in force: the valid one with the higher SEQ; ACTIVE = A and nothing else where neither is valid. -/
def Chip.bctl (c : Chip) : BootCtl :=
  match c.boot.bctl0, c.boot.bctl1 with
  | some a, some b => if a.seq < b.seq then b else a
  | some a, none => a
  | none, some b => b
  | none, none => {}

/-- `STW_NV_STAT` and `STW_BOOT_STAT` show boot control. -/
def Chip.bctlShow (c : Chip) : Chip :=
  let b := c.bctl
  let c1 := (c.setFld R.STW_NV_STAT F.STW_NV_STAT_BCTL_FLAGS b.flags).setFld R.STW_NV_STAT F.STW_NV_STAT_PENDING b.pending
  (c1.setFld R.STW_NV_STAT F.STW_NV_STAT_ACTIVE b.active).setFld R.STW_BOOT_STAT F.STW_BOOT_STAT_TRIES b.tries

/-- Boot control is updated: the copy not in force is erased and takes `b` with SEQ + 1. -/
def Chip.putBctl (c : Chip) (b : BootCtl) : Chip :=
  let now := c.bctl
  let new := { b with seq := (now.seq + 1) % 2 ^ 32 }
  let zero := match c.boot.bctl0, c.boot.bctl1 with
    | some a, some d => decide (a.seq < d.seq)
    | some _, none => false
    | _, _ => true
  let a := if zero then 0 else 65536
  let c1 := (c.emit (.flashErase a)).emit (.flashWrite a new.bytes)
  ({ c1 with boot := if zero then { c1.boot with bctl0 := some new } else { c1.boot with bctl1 := some new } }).bctlShow

/-- Flags of a slot: VERIFIED in bit s, BAD in bit 2 + s; IN_TRIAL in bit 4. -/
def BootCtl.verified (b : BootCtl) (s : Nat) : Bool := bit b.flags s
def BootCtl.inTrial (b : BootCtl) : Bool := bit b.flags 4
def BootCtl.setVerified (b : BootCtl) (s : Nat) : BootCtl := { b with flags := maskSet b.flags s }
def BootCtl.setBad (b : BootCtl) (s : Nat) : BootCtl := { b with flags := maskSet b.flags (2 + s) }
def BootCtl.clearSlot (b : BootCtl) (s : Nat) : BootCtl := { b with flags := maskClear (maskClear b.flags s) (2 + s) }
def BootCtl.endTrial (b : BootCtl) : BootCtl := { b with pending := 0, tries := 0, flags := maskClear b.flags 4 }

/-- The slot not started at this start (R412). -/
def Chip.inactive (c : Chip) : Nat := 1 - c.boot.runSlot

/-- What a slot holds. -/
def Chip.slot (c : Chip) (s : Nat) : FlashSlot := if s = 0 then c.boot.slotA else c.boot.slotB
def Chip.setSlot (c : Chip) (s : Nat) (f : FlashSlot) : Chip :=
  { c with boot := if s = 0 then { c.boot with slotA := f } else { c.boot with slotB := f } }

/-! ### Verification (R403, Table 17-5) -/

/-- Key hash `j`, 0 or 1, as fused. -/
def Chip.keyHash (c : Chip) (j : Nat) : Nat := leNat ((run (R.STW_KEYHASH (12 * j)) 12).flatMap (fun a => leBytes 4 (c.rn a)))

/-- The key check. -/
def Chip.keyOk (c : Chip) (f : FlashSlot) : Bool :=
  if c.keyHash 0 = 0 ∧ c.keyHash 1 = 0 then f.provision
  else decide (f.pubHash = c.keyHash 0) || decide (f.pubHash = c.keyHash 1)

/-- The first code of Table 17-5 that fails for a slot, or 0, and the slot byte offset at fault. -/
def Chip.imgFault (c : Chip) (f : FlashSlot) (flashOk : Bool) : Nat × Nat := firstFailing (f.checks (c.keyOk f) flashOk)

/-- The first code of Table 17-5 that fails, or 0. -/
def Chip.imgVerify (c : Chip) (f : FlashSlot) (flashOk : Bool) : Nat := (c.imgFault f flashOk).1

/-! ### The slot stream (R412) -/

/-- Bytes in the buffer. -/
def Chip.nvUsed (c : Chip) : Nat := c.nv.buffer.foldl (fun n b => n + b.2.length) 0

/-- BUF_FREE and BUSY show the write path. -/
def Chip.nvShow (c : Chip) : Chip :=
  (c.setFld R.STW_NV_STAT F.STW_NV_STAT_BUF_FREE ((262144 - c.nvUsed) / 16)).setFlag R.STW_NV_STAT F.STW_NV_STAT_BUSY
    (c.nv.verifying || decide (c.nv.erasing ≠ 0))

/-- Another flash, programmed outside the engine, is fitted: its slots and boot control; its training cache and log area are erased.
(DESIGN CHOICE, log 13) -/
def Chip.flashFit (c : Chip) (fitted : Option FlashFit) : Chip :=
  match fitted with
  | none => c
  | some f =>
    { c with
      boot := { c.boot with slotA := f.slotA, slotB := f.slotB, bctl0 := BootCtl.ofBytes f.ctl0, bctl1 := BootCtl.ofBytes f.ctl1 }
      mc := { c.mc with cache := none }
      nv := { c.nv with logSectors := [] } }

/-- A verify or an erase runs. -/
def Chip.nvBusy (c : Chip) : Bool := c.nv.verifying || decide (c.nv.erasing ≠ 0)

/-- The reason a write of `len` bytes at offset `ofs` is refused, or 0 (Tables 17-8 and 17-9). -/
def Chip.nvWriteReason (c : Chip) (ofs len : Nat) (srcBad : Bool) : Nat :=
  firstReason [
    (c.nvBusy, 0xd0),
    (decide (ofs ≠ 0) && decide (ofs ≠ c.nv.nextOfs), 0xd1),
    (decide (len % 4 ≠ 0) || decide (len < 4) || decide (65536 < len) || decide (c.slotSize < ofs + len) || srcBad, 0xd2),
    (decide (262144 < c.nvUsed + len), 0xd6)]

/-- Data are taken into the buffer; a write at offset 0 clears the slot's flags and its PENDING. -/
def Chip.nvTake (c : Chip) (ofs : Nat) (data : List Nat) : Chip :=
  let s := c.inactive
  let b := c.bctl
  let c1 := if ofs = 0 then
      c.putBctl { b.clearSlot s with pending := if b.pending = s + 1 then 0 else b.pending }
    else c
  ({ c1 with nv := { c1.nv with buffer := c1.nv.buffer ++ [(ofs, data)], nextOfs := ofs + data.length } }).nvShow

/-- Up to `n` bytes of the buffer are programmed, oldest first. -/
def drainBuf : Nat → List (Nat × List Nat) → List (Nat × List Nat) × List (Nat × List Nat)
  | _, [] => ([], [])
  | n, (ofs, d) :: rest =>
    if n = 0 then ([], (ofs, d) :: rest)
    else if d.length ≤ n then
      let r := drainBuf (n - d.length) rest
      ((ofs, d) :: r.1, r.2)
    else ([(ofs, d.take n)], (ofs + n, d.drop n) :: rest)

/-- Starts of 64 KiB sectors in [ofs, ofs + n). -/
def sectorsIn (ofs n : Nat) : List Nat :=
  ((List.range (n / 65536 + 1)).map (fun k => (ofs + 65535) / 65536 * 65536 + 65536 * k)).filter (fun a => decide (a < ofs + n))

/-- The inactive slot's bytes change; whether they now hold a firmware package that the boot ROM accepts, and of what version, is open until a
verification says: free values (DESIGN CHOICE, log 3). -/
def Chip.slotChange (c : Chip) (f : FlashSlot → FlashSlot) : Chip :=
  (c.setSlot c.inactive { f (c.slot c.inactive) with vendorOk := bit c.freeNow.toNat 0, fwVersion := c.used.freeNow.toNat }).used.used

/-- The sector of the inactive slot at slot offset `a` is erased. -/
def Chip.nvEraseSector (c : Chip) (a : Nat) : Chip :=
  (c.emit (.flashErase (c.slotBase c.inactive + a))).slotChange (fun f => f.overlay a (List.replicate 65536 255))

/-- Bytes of the stream are programmed into the inactive slot, each sector being erased as the stream first reaches it. -/
def Chip.nvProgramRun (c : Chip) (ofs : Nat) (data : List Nat) : Chip :=
  let c1 := (sectorsIn ofs data.length).foldl (fun c a => c.nvEraseSector a) c
  (c1.emit (.flashWrite (c1.slotBase c1.inactive + ofs) data)).slotChange (fun f => f.overlay ofs data)

/-- NV_BUFFER_DRAIN (R412): the Steward programs buffered bytes behind the stream. -/
def doNvBufferDrain (n : Nat) (c : Chip) : Chip :=
  let r := drainBuf n c.nv.buffer
  let c1 := r.1.foldl (fun c w => c.nvProgramRun w.1 w.2) c
  ({ c1 with nv := { c1.nv with buffer := r.2 } }).nvShow

/-! ### Commands (Tables 17-8 and 17-9) -/

def nvPort : CmdPort := ⟨R.STW_NV_CMD, R.STW_NV_CMDSTAT, Ev.rejStw⟩

/-- NV_PROGRAM: LEN bytes from Common Store word SRC. Where the Steward cannot read them, nothing is taken and a STEWARD record says so
(R416). (DEDUCED, log 45) -/
def doNvProgram (init : Init) (c : Chip) : Chip :=
  let ofs := c.rn R.STW_NV_OFS
  let len := c.fld R.STW_NV_LEN F.STW_NV_LEN_LEN
  let src := c.fld R.STW_NV_SRC F.STW_NV_SRC_SRC
  c.command nvPort init none (!c.stw.dead) (c.nvWriteReason ofs len (decide (c.cstWords < src + (len + 7) / 8))) (fun c =>
    let ue := c.firstUe src ((len + 7) / 8)
    let r := c.cstReadList 18 src ((len + 7) / 8)
    if r.2.2 = 2 then r.1.stwReadFailed ue else r.1.nvTake ofs ((dwordBytes r.2.1).take len))

/-- A verify begins. -/
def Chip.nvVerifyStart (c : Chip) (who : Option MgmtFrom) : Chip :=
  ({ c with nv := { c.nv with verifying := true, verifyFor := who } }).nvShow

/-- NV_VERIFY. -/
def doNvVerify (init : Init) (c : Chip) : Chip :=
  c.command nvPort init none (!c.stw.dead) (if c.nvBusy then 0xd0 else 0) (fun c => c.nvVerifyStart none)

/-- The verification of the inactive slot ends: its outcome by Table 17-5. `vendorOk` and `fwVersion` say what its firmware package is. -/
def Chip.nvVerified (c : Chip) (flashOk vendorOk : Bool) (fwVersion : Nat) : Chip × Nat :=
  let s := c.inactive
  let c0 := doNvBufferDrain (c.nvUsed) c
  let c1 := c0.setSlot s { c0.slot s with vendorOk := vendorOk, fwVersion := fwVersion }
  let code := c1.imgVerify (c1.slot s) flashOk
  let c2 := c1.setFld R.STW_NV_VSTAT F.STW_NV_VSTAT_CODE code
  let c3 := if code = 0 then c2.putBctl (c2.bctl.setVerified s) else c2
  ((({ c3 with nv := { c3.nv with verifying := false, verifyFor := none } }).nvShow).raise Ev.nvVerifyDone, code)

/-- PENDING = the inactive slot. -/
def Chip.nvPendingNow (c : Chip) : Chip := c.putBctl { c.bctl with pending := c.inactive + 1, tries := 0 }

/-- NV_PENDING. -/
def doNvPending (init : Init) (c : Chip) : Chip :=
  c.command nvPort init none (!c.stw.dead) (if c.bctl.verified c.inactive then 0 else 0xd3) Chip.nvPendingNow

/-- The running slot is in trial (R411). -/
def Chip.inTrial (c : Chip) : Bool := c.bctl.inTrial && decide (c.bctl.pending = c.boot.runSlot + 1)

/-- Confirmation (R411), in one boot-control update. -/
def Chip.confirmSlot (c : Chip) : Chip :=
  (c.putBctl { c.bctl.endTrial with active := c.boot.runSlot }).setFlag R.STW_BOOT_STAT F.STW_BOOT_STAT_TRIAL false

/-- NV_CONFIRM (R411). -/
def doNvConfirm (init : Init) (c : Chip) : Chip :=
  c.command nvPort init none false (if c.inTrial then 0 else 0xd4) Chip.confirmSlot

/-- TRIAL_CONFIRM_TIMEOUT (R411): CONFIRM_S seconds after RUN. -/
def doTrialConfirmTimeout (c : Chip) : Chip :=
  if c.inTrial && c.running then
    (c.waitLine (c.boot.runAt + (c.slot c.boot.runSlot).confirmS * second)).confirmSlot
  else c

/-- The completed pair to `STW_NV_SLOT`: a command (R412). -/
def Chip.nvSelect (c : Chip) (init : Init) (sel : Nat) : Chip :=
  let b := c.bctl
  c.command ⟨R.STW_NV_SLOT, R.STW_NV_CMDSTAT, Ev.rejStw⟩ init none (!c.stw.dead)
    (if b.verified sel || decide (b.active = sel) then 0 else 0xd3)
    (fun c => (c.setN R.STW_NV_SLOT sel).putBctl { c.bctl with active := sel, pending := 0, tries := 0 })

/-- The completed pair to `STW_NV_ERASE`: a command; 0 does nothing. -/
def Chip.nvErase (c : Chip) (init : Init) (target : Nat) : Chip :=
  c.command ⟨R.STW_NV_ERASE, R.STW_NV_CMDSTAT, Ev.rejStw⟩ init none (!c.stw.dead) (if c.nvBusy then 0xd0 else 0)
    (fun c => ({ c.setN R.STW_NV_ERASE target with nv := { c.nv with erasing := target } }).nvShow)

/-- NV_ERASE_DONE (R412): the training cache, the log area or the inactive slot is erased; an erased slot's flags are cleared. -/
def doNvEraseDone (c : Chip) : Chip :=
  let t := c.nv.erasing
  if t = 0 then c
  else
    let s := c.inactive
    let c1 := if t = 1 then { c with mc := { c.mc with cache := none } }
      else if t = 2 then { c with nv := { c.nv with logSectors := [] } }
      else ({ c with nv := { c.nv with buffer := [], nextOfs := 0 } }.setSlot s { flashBytes := (c.slot s).flashBytes }).putBctl (c.bctl.clearSlot s)
    ({ c1 with nv := { c1.nv with erasing := 0 } }).nvShow

/-! ### The log area (R398) -/

/-- The 64 KiB of a sector of the log area: header, records, and erased flash. -/
def sectorBytes (s : Nat × Nat × List HeldRec) : List Nat :=
  let h := leBytes 4 0x474f4c53 ++ leBytes 4 s.1 ++ leBytes 4 s.2.1
  let b := h ++ leBytes 4 (crc32c h) ++ s.2.2.flatMap HeldRec.bytes
  b ++ List.replicate (65536 - b.length) 255

/-- A byte of the log area: sector numbers run from 1 on, in a circle of 253 sectors. -/
def Chip.logByte (c : Chip) (i : Nat) : Nat :=
  match c.nv.logSectors.find? (fun s => decide ((s.1 + 252) % 253 = i / 65536)) with
  | some s => (sectorBytes s).getD (i % 65536) 255
  | none => 255

/-- Bytes of the log area, without forming a sector anew for each. -/
def Chip.logBytes (c : Chip) (ofs n : Nat) : List Nat :=
  let sect := fun (k : Nat) => match c.nv.logSectors.find? (fun s => decide ((s.1 + 252) % 253 = k)) with
    | some s => sectorBytes s
    | none => List.replicate 65536 255
  (((sect (ofs / 65536)) ++ (if (ofs + n - 1) / 65536 ≠ ofs / 65536 then sect (ofs / 65536 + 1) else [])).drop (ofs % 65536)).take n

end Sys2Proof.Machine
end

