-- ==== Sys2Proof/Machine/RegWrite.lean ====
section
/-! DEFINITION. Register reads and writes as the initiators make them (spec 15): access types, guarded pairs, triples, status registers,
commands by their register, the fence, and the register audit. -/

namespace Sys2Proof.Machine

/-! ### Places that span registers (R8, R109) -/

/-- Triples that software writes: they take effect as a whole with `_H`. -/
def writeTriples : List Nat :=
  R.EPC_SET_L :: (List.range 16).map R.TRS_TM_AT_L ++ (List.range 16).map R.PRT_HOLD_START_L ++ (List.range 16).map R.PRT_HOLD_END_L

/-- Triples that hardware writes. -/
def readTriples : List Nat :=
  [R.EPC_NOW_L, R.CLK_CHG_L, R.PWR_CHG_L, R.ORT_MGMT_LAST_L] ++ (List.range 8).map R.LG_OVR_LAST_L ++
    (List.range 8).map R.TRS_DETCAP_L ++ (List.range 16).map R.SQ_TRIG_L ++ (List.range 16).map R.PRT_OLDEST_L ++
    (List.range 16).map R.ORT_PS_LAST_L ++ (List.range 8).map R.FUL_VF_LAST_L

/-- Counter and timer values, written as pairs (R109). -/
def valuePairs : List Nat := (List.range 32).map R.TRS_CT_VAL_L ++ (List.range 16).map R.TRS_TM_VAL_L

/-- Pairs whose `_L` read captures `_H`. -/
def capturePairs : List Nat := [R.HIF_DMA_BYTES_L, R.SCV_LW_L] ++ (List.range 8).map R.FUL_OUT_L ++ valuePairs

/-- The `_L` address of the span of `n` registers among `l` that `a` belongs to, and which of its registers `a` is. -/
def spanOf (l : List Nat) (n a : Nat) : Option (Nat × Nat) :=
  (l.find? (fun b => decide (b ≤ a) && decide (a < b + 4 * n))).map (fun b => (b, (a - b) / 4))

/-- A read of `_L` captures the registers after it: how many (R8). -/
def captureCount (a : Nat) : Nat :=
  if (writeTriples ++ readTriples).contains a then 2 else if capturePairs.contains a then 1 else 0

/-! ### Who reaches what (R409, R447) -/

/-- The block number of an address; a mirror address belongs to the block that contains its register (R447). -/
def blockOf (a : Nat) : Nat := a % 0x800000 / 0x10000

/-- The BAR restrictions of R409 hold: before RUN, and after a failed start. -/
def Chip.hostShut (c : Chip) : Bool := decide (c.stage ≠ 9) || c.boot.startFailed

/-- A write by this initiator reaches its block. (DESIGN CHOICE, log 22) -/
def Chip.mayWrite (c : Chip) (i : Init) (a : Nat) : Bool := decide (i ≠ .host) || !c.hostShut || decide (blockOf a = 0x78)

/-- A read by this initiator returns the register. -/
def Chip.mayRead (c : Chip) (i : Init) (a : Nat) : Bool :=
  decide (i ≠ .host) || !c.hostShut || decide (blockOf a = 0) || decide (blockOf a = 0x58) || decide (blockOf a = 0x5c) ||
    decide (blockOf a = 0x78)

/-! ### Offences (R357, Table 15-6) -/

/-- The event of an offence, by its cause. -/
def offenceEvent (cause : Nat) : Nat × Nat :=
  if cause = 1 then Ev.woDrop else if cause = 2 then Ev.lkDrop else if cause = 7 then Ev.auditMismatch else Ev.guardMismatch

/-- An offence raises its event and leaves its record. -/
def Chip.offence (c : Chip) (addr val : Nat) (i : Init) (cause other : Nat) : Chip :=
  (c.raiseTyped (offenceEvent cause)).record 8 0 c.now
    (leBytes 4 addr ++ leBytes 4 val ++ [initCode i, cause, 0, 0] ++ leBytes 4 other)

/-- A write dropped under R354 or R355 is counted. -/
def Chip.dropWrite (c : Chip) (a v : Nat) (i : Init) (cause : Nat) : Chip :=
  { (c.addCnt R.GLB_DROP_CNT 1).offence a v i cause 0 with dropped := true }

/-! ### Guarded pairs (R350 to R353) -/

/-- The pending write of an initiator; the schedule engine makes no register writes (Table 15-1). -/
def Chip.guardOf (c : Chip) (i : Init) : Option GuardPend :=
  match i with
  | .host => c.acc.guardHost
  | .steward => c.acc.guardStw
  | .sched => none

/-- Set or clear the pending write. -/
def Chip.setGuard (c : Chip) (i : Init) (p : Option GuardPend) : Chip :=
  match i with
  | .host => { c with acc := { c.acc with guardHost := p } }
  | .steward => { c with acc := { c.acc with guardStw := p } }
  | .sched => c

/-- A guarded pair fails: it is dropped whole, counted and recorded (R352). (DEDUCED, log 23) -/
def Chip.guardFail (c : Chip) (i : Init) (addr val cause other : Nat) : Chip :=
  let c1 := (c.setGuard i none).addCnt R.GLB_GUARD_CNT 1
  let c2 := (c1.setFld R.GLB_GUARD_STAT F.GLB_GUARD_STAT_LAST_CAUSE cause).setFld R.GLB_GUARD_STAT F.GLB_GUARD_STAT_LAST_INIT (initCode i)
  { c2.offence addr val i cause other with dropped := true }

/-- 4,096 fabric cycles have passed since the pending write (R352, cause 3). That was in an earlier cycle: what the present one still records
in `EVT_STAT0` advances its count anew (R347). (DEDUCED, log 14) -/
def Chip.guardExpire (c : Chip) (i : Init) : Chip :=
  match c.guardOf i with
  | some p =>
    if p.cycle + 4096 < c.cycle then
      let c1 := c.guardFail i p.addr p.val.toNat 3 0
      { c1 with evt := { c1.evt with at_ := put0 c1.evt.at_ 0 0 } }
    else c
  | none => c

/-- A write to `a` has broken the pair whose first write was `p` (R352, cause 5): the record names the guarded register, the value written to
it, and the address of the interrupting write (DEDUCED, log 23). The interrupting write itself is not dropped (Table 15-4), and a pair
it has begun stays pending. -/
def Chip.pairBroken (c : Chip) (i : Init) (p : Option GuardPend) (a : Nat) : Chip :=
  match p with
  | some p => { (c.guardFail i p.addr p.val.toNat 5 a).setGuard i (c.guardOf i) with dropped := c.dropped }
  | none => c

/-! ### Values written ahead of `_H` (R8, R109) -/

/-- The value an initiator last wrote to `a`; where it has written none since reset the spec states no value, and it is free (DESIGN CHOICE, log 3). -/
def Chip.lastWritten (c : Chip) (i : Init) (a k : Nat) : Nat :=
  (SMap.get (fun _ => Config.freeWord (c.freeCtr + k)) c.acc.written (latchKey i a)).toNat

/-- A value written ahead of `_H` is kept. -/
def Chip.keepWritten (c : Chip) (i : Init) (a : Nat) (v : Word) : Chip :=
  { c with acc := { c.acc with written := SMap.put c.acc.written (latchKey i a) v } }

/-! ### The lock and the audit's shadow (R356, R366) -/

/-- The LK part of a register as the audit compares it; key registers are not read (R150, R367). -/
def lkMask (a : Nat) : Nat :=
  if isKeyReg a then 0 else match regRow a with
    | some r => r.lk
    | none => 0

/-- The shadow takes every LK field as it stands. (DEDUCED, log 24) -/
def Chip.lkImage (c : Chip) : List (Nat × Word) :=
  c.regs.filterMap (fun e => if lkMask e.1 = 0 then none else some (e.1, e.2 &&& BitVec.ofNat 32 (lkMask e.1)))

/-- The audit starts (R366): once the lock is set, where the profile in force has the audit on. (DEDUCED, log 24) -/
def Chip.auditStart (c : Chip) : Chip :=
  if c.locked && c.flag R.GLB_PROFILE_EFF F.GLB_PROFILE_EFF_AUDIT then
    ({ c with acc := { c.acc with shadow := some c.lkImage } }.setFlag R.GLB_AUDIT_STAT F.GLB_AUDIT_STAT_ACTIVE true).setFlag
      R.GLB_AUDIT_STAT F.GLB_AUDIT_STAT_LIVE_SHADOW (!c.flag R.GLB_CFG_LOCK F.GLB_CFG_LOCK_BY_IMAGE)
  else c

/-- LOCK is set (R356). A lock set after the start is complete starts the audit (R366). -/
def Chip.setLock (c : Chip) (byImage : Bool) : Chip :=
  let c1 := (c.setFlag R.GLB_CFG_LOCK F.GLB_CFG_LOCK_LOCK true).setFlag R.GLB_CFG_LOCK F.GLB_CFG_LOCK_BY_IMAGE byImage
  if c1.stage = 9 then c1.auditStart else c1

/-! ### A completed pair (Table 15-5) -/

/-- The pair to `EPC_SET_H` with the `_L` and `_M` its initiator last wrote (R8, R47). -/
def Chip.epcSetPair (c : Chip) (i : Init) (v : Nat) : Chip :=
  let s := c.lastWritten i R.EPC_SET_L 0 + 2 ^ 32 * c.lastWritten i (R.EPC_SET_L + 4) 1 + 2 ^ 64 * (v % 65536)
  let c1 := c.used.used
  let c2 := if c1.epcState = 2 then c1 else c1.setTriple R.EPC_SET_L s
  c2.epcSet i s

/-- V takes effect at A. -/
def Chip.pairDone (c : Chip) (i : Init) (a v : Nat) (byImage : Bool) : Chip :=
  if a = R.GLB_PROFILE then (if c.latched then c.dropWrite a v i 1 else c.setN a (v % 64))
  else if a = R.GLB_CFG_LOCK then
    (if bit v 0 then (if c.locked then c else c.setLock byImage)
     else if c.locked then c.dropWrite a v i 1 else c)
  else if a = R.GLB_RESET then (if bit v 0 then { c with resetReq := true } else c)
  else if a = R.EPC_SET_H then c.epcSetPair i v
  else if a = R.CLK_SRC then c.refSelPair v
  else if a = R.MCX_TRN_COMMIT then c.trnCommit i (v % 256)
  else if a = R.PWR_FORCE then c.pwrForce i (v % 8)
  else if a = R.STW_NV_ERASE then c.nvErase i (v % 4)
  else if a = R.STW_NV_SLOT then c.nvSelect i (v % 2)
  else c

/-- A write to the guard mirror (R350, R352, R447). (DEDUCED, log 21) -/
def Chip.mirrorWrite (c : Chip) (i : Init) (a : Nat) (v : Word) : Chip :=
  match c.guardOf i with
  | none => c.guardFail i a v.toNat 6 0
  | some p =>
    if a = p.addr + 0x800000 then
      if v = ~~~p.val then (c.setGuard i none).pairDone i p.addr p.val.toNat false
      else c.guardFail i a v.toNat 4 p.val.toNat
    else c.guardFail i a v.toNat 6 0

/-! ### Fields (R343, R354, R355) -/

/-- LK fields on which a write acts: from the latch in Steady, writes to `PRTp_CFG.VERIFY` are dropped with no event (Table 1-5). -/
def Chip.lkOf (c : Chip) (a : Nat) (r : RegRow) : Nat :=
  if c.verifyForced && decide (0x300000 ≤ a) && decide (a < 0x310000) && decide (a % 0x1000 = 0) then r.lk &&& 0xfffffeff else r.lk

/-- The write would change an LK field after the lock (R355). -/
def Chip.lkBars (c : Chip) (a : Nat) (r : RegRow) (v : Nat) : Bool :=
  c.locked && decide ((c.rn a ^^^ v) &&& c.lkOf a r ≠ 0)

/-- A write acts on each field under its access type; CMD, SQC and GD fields are handled by their own rules. (DEDUCED, log 57) -/
def Chip.fieldWrite (c : Chip) (i : Init) (a : Nat) (r : RegRow) (v : Nat) : Chip :=
  let bars := c.lkBars a r v
  let again := decide (r.wo ≠ 0) && c.acc.woDone.contains a
  let mask := r.rw ||| r.rwh ||| r.cnt ||| (if bars then 0 else c.lkOf a r) ||| (if again then 0 else r.wo)
  let c1 := c.setN a (c.rn a - (c.rn a &&& mask) + (v &&& mask))
  let c2 := if r.wo ≠ 0 ∧ again = false then { c1 with acc := { c1.acc with woDone := a :: c1.acc.woDone } } else c1
  let c3 := if again then c2.dropWrite a v i 1 else c2
  if bars then c3.dropWrite a v i 2 else c3

/-! ### Registers whose write does more -/

/-- A clear request to an SQC register (R348); lines routed to it are looked at anew (R372). -/
def Chip.sqcWrite (c : Chip) (i : Init) (n v : Nat) : Chip :=
  let a := R.EVT_STAT n
  let cn := cnt0 c.evt.cnt n
  let latch := (c.acc.statC.find? (fun e => decide (e.1 = latchKey i a))).map (fun e => e.2)
  let hit := decide (v / 2 ^ 24 = cn % 256) && decide (latch = some cn)
  let c1 := if hit then c.setN a (c.rn a - (c.rn a &&& (v % 2 ^ 24))) else c
  { c1 with evt := { c1.evt with kick := maskSet c1.evt.kick (c1.fld (R.EVT_LINE n) F.EVT_LINE_LINE) } }

/-- `_H` of a writable triple (R8): the whole triple takes effect, or is dropped under R355. -/
def Chip.tripleWrite (c : Chip) (i : Init) (b : Nat) (r : RegRow) (v : Nat) : Chip :=
  let s := c.lastWritten i b 0 + 2 ^ 32 * c.lastWritten i (b + 4) 1 + 2 ^ 64 * (v % 65536)
  if c.locked ∧ r.lk ≠ 0 ∧ s ≠ c.triple b then c.used.used.dropWrite (b + 8) v i 2 else c.used.used.setTriple b s

/-- `_L` or `_M` of a writable triple waits for `_H`; after the lock a value that would change an LK field is dropped. -/
def Chip.tripleLow (c : Chip) (i : Init) (a : Nat) (r : RegRow) (v : Word) : Chip :=
  if c.locked ∧ r.lk ≠ 0 ∧ v ≠ c.reg a then c.dropWrite a v.toNat i 2 else c.keepWritten i a v

/-- `_VAL_H` of a counter or timer (R109). -/
def Chip.valueWrite (c : Chip) (i : Init) (b v : Nat) : Chip :=
  c.used.presetValue b (c.lastWritten i b 0 + 2 ^ 32 * (v % 65536))

/-- GO of the mailbox (R420): 1 submits a request and clears DONE; 1 while it reads 1 has no effect. -/
def Chip.mbGo (c : Chip) (v : Nat) : Chip :=
  if bit v 0 then
    (if c.flag R.STW_MB_CTRL F.STW_MB_CTRL_GO then c
     else (c.setFlag R.STW_MB_CTRL F.STW_MB_CTRL_GO true).setFlag R.STW_MB_CTRL F.STW_MB_CTRL_DONE false)
  else c.setFlag R.STW_MB_CTRL F.STW_MB_CTRL_GO false

/-- A channel's block: lane counts (R299) and the delay window (R319). -/
def Chip.mcWrite (c : Chip) (i : Init) (a : Nat) (r : RegRow) (v : Nat) : Chip :=
  let n := (a - 0x400000) / 0x10000
  let o := a % 0x10000
  if o = 0x11c then c.setMcCh n { c.mcCh n with staged := put0 (c.mcCh n).staged (c.fld (R.MC_DLY_SEL n) F.MC_DLY_SEL_SEL) (v % 1024) }
  else
    let c1 := c.fieldWrite i a r v
    if 0x30 ≤ o ∧ o < 0x80 then c1.setMcCh n { c1.mcCh n with laneDone := maskClear (c1.mcCh n).laneDone ((o - 0x30) / 4) } else c1

/-- `ETHn_CTRL`: a port that is disabled loses its link (R255). -/
def Chip.ethCtrlWrite (c : Chip) (i : Init) (n : Nat) (r : RegRow) (v : Nat) : Chip :=
  let was := c.flag (R.ETH_CTRL n) F.ETH_CTRL_EN
  let c1 := c.fieldWrite i (R.ETH_CTRL n) r v
  if was && !c1.flag (R.ETH_CTRL n) F.ETH_CTRL_EN then c1.ethDown n else c1

/-- `EPC_CTRL`: a change of SRC moves the keeper (R47). -/
def Chip.epcCtrlWrite (c : Chip) (i : Init) (r : RegRow) (v : Nat) : Chip :=
  let c1 := c.fieldWrite i R.EPC_CTRL r v
  if c1.epcSrc = c.epcSrc then c1 else c1.srcChanged

/-- `CST_BANK_FAIL_H`: the first write ends the march test (R339). -/
def Chip.bankFailWrite (c : Chip) (i : Init) (r : RegRow) (v : Nat) : Chip :=
  let first := !c.acc.woDone.contains R.CST_BANK_FAIL_H
  let c1 := c.fieldWrite i R.CST_BANK_FAIL_H r v
  if first then c1.setFlag R.CST_STAT F.CST_STAT_MARCH_DONE true else c1

/-! ### Commands by their register (R345, R358, R359) -/

/-- Commands of one write, in ascending bit order: each is judged in a fabric cycle of its own, on the state that those before it left.
REASON holds the code of the highest-numbered rejected one, or 0 (R358, R359). -/
def Chip.runCmds (c : Chip) (stat mask : Nat) (l : List (Chip → Chip)) : Chip :=
  let r := (l.zipIdx.filter (fun x => bit mask x.2)).foldl (fun (acc : Chip × Nat × Bool) x =>
    let d := x.1 (if acc.2.2 then acc.1.pass 1 else acc.1)
    (d, if d.lastReason ≠ 0 then d.lastReason else acc.2.1, true)) (c, 0, false)
  { r.1.setFld stat reasonFld r.2.1 with lastReason := r.2.1 }

/-- A fence of the initiator completes (R363): every earlier write has taken effect already. (DEDUCED, log 50) -/
def Chip.fenceDone (c : Chip) (i : Init) : Chip :=
  { c with
    acc := if i = .host then { c.acc with fencesHost := c.acc.fencesHost + 1 } else { c.acc with fencesStw := c.acc.fencesStw + 1 }
    lastReason := 0 }

/-- AON_CLEAR (R418). -/
def doAonClear (init : Init) (c : Chip) : Chip :=
  c.command ⟨R.STW_CMD, R.STW_CMDSTAT, Ev.rejStw⟩ init none false 0
    (fun c => ((c.setFlag R.STW_AON F.STW_AON_WDG false).setFlag R.STW_AON F.STW_AON_LOCKSTEP false).setFld R.STW_AON F.STW_AON_AUTO_CNT 0)

/-- The commands of a write to a register of one unit, or nothing where the register has none. -/
def Chip.issue (c : Chip) (i : Init) (a v mask : Nat) : Chip :=
  let o := a % 0x10000
  let n := a / 0x10000
  if mask = 0 then c
  else if a = R.GLB_FENCE then c.fenceDone i
  else if a = R.SCH_CMD then doSchLoad i (bit v 1) (bits v 8 8) c
  else if 4 ≤ n ∧ n < 12 then c.runCmds (R.LG_CMDSTAT (n - 4)) mask [doLgApply i (n - 4), doLgCal i (n - 4)]
  else if a = R.TRS_CMD then doTrsApply i c
  else if n = 0x30 then
    let p := o / 0x1000
    if o % 0x1000 = 0x830 then doHoldCmd i p c
    else c.runCmds (R.PRT_CMDSTAT p) mask
      [doArm i p, doDisarm i p, doPrtMark i p (bits v 24 8), doFree i p (bits v 8 7)]
  else if 0x28 ≤ n ∧ n < 0x30 then doFulInject i (n - 0x28) c
  else if a = R.CAR_CMD then doCarApply i c
  else if n = 0x38 then c.carCommands ((o - 0x1000) / 0x100) mask (bits v 8 3) i
  else if a = R.HIF_DMA_CMD then c.runCmds R.HIF_DMA_CMDSTAT mask [doDmaStart i, doDmaStop i]
  else if 0x68 ≤ n ∧ n < 0x6c then c.runCmds (R.ETH_STR_CMDSTAT (n - 0x68)) mask [doStrStart i (n - 0x68), doStrStop i (n - 0x68)]
  else if a = R.CLK_CMD then c.runCmds R.CLK_CMDSTAT mask [doClkApply i, doClkStep i, doCkoApply i]
  else if a = R.MCX_CMD then c.runCmds R.MCX_CMDSTAT mask [doMcSrEnter i, doMcSrExit i, doMcTrain i (bits v 8 8)]
  else if 0x40 ≤ n ∧ n < 0x48 then doMcSweep i (n - 0x40) c
  else if a = R.SCV_CMD then
    c.runCmds R.SCV_CMDSTAT mask [doScvExport i, doScvThaw i, doScvLoad i (bit v 14) (bits v 8 6), doLwClear i]
  else if a = R.STW_NV_CMD then c.runCmds R.STW_NV_CMDSTAT mask [doNvProgram i, doNvVerify i, doNvPending i, doNvConfirm i]
  else if a = R.STW_CMD then doAonClear i c
  else if a = R.PWR_CMD then doPwrGo i (bits v 8 3) c
  else c

/-! ### Writes -/

/-- Bits of `EVT_RAISE` become pending for their writer (R374). -/
def Chip.raiseWrite (c : Chip) (i : Init) (v : Nat) : Chip :=
  let fresh := (v % 2 ^ 24) - (v % 2 ^ 24 &&& c.rn R.EVT_RAISE)
  let kept := c.evt.raiseStw &&& c.rn R.EVT_RAISE
  { c.setN R.EVT_RAISE (c.rn R.EVT_RAISE ||| v % 2 ^ 24) with
    evt := { c.evt with raiseStw := if i = .steward then kept ||| fresh else kept } }

/-- The fields of the register at `a`, not a guarded one, take a write (R10, R343). (DEDUCED, log 26) -/
def Chip.applyFields (c : Chip) (i : Init) (a : Nat) (v : Word) : Chip :=
  match regRow a with
  | none => c
  | some r =>
    let n := a / 0x10000
    if r.sqc ≠ 0 then c.sqcWrite i ((a - R.EVT_STAT 0) / 4) v.toNat
    else match spanOf writeTriples 3 a with
    | some (b, k) => if k = 2 then c.tripleWrite i b r v.toNat else c.tripleLow i a r v
    | none =>
      match spanOf valuePairs 2 a with
      | some (b, k) => if k = 1 then c.valueWrite i b v.toNat else c.keepWritten i a v
      | none =>
        if a = R.EVT_RAISE then c.raiseWrite i v.toNat
        else if a = R.EPC_CTRL then c.epcCtrlWrite i r v.toNat
        else if a = R.SCH_CTRL then (if c.lkBars a r v.toNat then c.fieldWrite i a r v.toNat else c.schEnable i v.toNat)
        else if a = R.STW_MB_CTRL then c.mbGo v.toNat
        else if a = R.CST_TEST ∧ c.latched = true then c
        else if a = R.CST_BANK_FAIL_H then c.bankFailWrite i r v.toNat
        else if 0x68 ≤ n ∧ n < 0x6c ∧ a % 0x10000 = 0 then c.ethCtrlWrite i (n - 0x68) r v.toNat
        else if n = 2 ∧ 0x100 ≤ a % 0x10000 ∧ a % 0x10 = 4 then doCkoPhaseWrite ((a % 0x10000 - 0x100) / 0x10) v c
        else if 0x40 ≤ n ∧ n < 0x48 ∧ r.cmd = 0 then c.mcWrite i a r v.toNat
        else c.fieldWrite i a r v.toNat

/-- The commands of a write to the register at `a` (R345, R358). -/
def Chip.applyCmds (c : Chip) (i : Init) (a : Nat) (v : Word) : Chip :=
  match regRow a with
  | none => c
  | some r => c.issue i a v.toNat (v.toNat &&& r.cmd)

/-- One register write of an initiator that R409 lets through: its values land, a pair it breaks fails in the same cycle and after them, so
that a preset and a clear act before the increment and the event (R344, R349, R352), and then come the commands it issues.
(DESIGN CHOICE, log 22) -/
def Chip.busCycle (c : Chip) (i : Init) (a : Nat) (land issue : Chip → Chip) : Chip :=
  let c0 := { c with dropped := false, lastReason := 0 }
  if c0.mayWrite i a then
    issue ((land (c0.setGuard i none)).pairBroken i (c0.guardOf i) a)
  else c0

/-- A write that issues a command, `f`. -/
def Chip.asWrite (c : Chip) (i : Init) (a : Nat) (f : Chip → Chip) : Chip := c.busCycle i a (fun c => c) f

/-- A register write of an initiator to a BAR0 offset, the guard mirror included. -/
def Chip.busWrite (c : Chip) (i : Init) (a : Nat) (v : Word) : Chip :=
  if 0x800000 ≤ a then
    let c0 := { c with dropped := false, lastReason := 0 }
    if c0.mayWrite i a then c0.mirrorWrite i a v else c0
  else if isGuarded a then c.busCycle i a (fun c => c.setGuard i (some ⟨a, v, c.cycle⟩)) (fun c => c)
  else c.busCycle i a (fun c => c.applyFields i a v) (fun c => c.applyCmds i a v)

/-- The guarded pair of R350 with nothing between its two writes, as the Steward makes it: they reach the block in two cycles (R342). -/
def Chip.busPair (c : Chip) (i : Init) (a : Nat) (v : Word) (byImage : Bool) : Chip :=
  if isGuarded a then c.busCycle i a (fun c => c) (fun c => (c.pass 1).pairDone i a v.toNat byImage) else c.busWrite i a v

/-- Consecutive writes from `a` on, one in each fabric cycle (R342). -/
def Chip.busWrites (c : Chip) (i : Init) (a : Nat) : List Word → Chip
  | [] => c
  | [v] => c.busWrite i a v
  | v :: rest => ((c.busWrite i a v).pass 1).busWrites i (a + 4) rest

/-! ### Reads -/

/-- What a read shows: a value captured with `_L` (R8), or the register. (DEDUCED, log 20) -/
def Chip.busShow (c : Chip) (i : Init) (a : Nat) : Word := SMap.get (fun _ => c.view i a) c.acc.captured (latchKey i a)

/-- A read of `_L` captures the registers after it (R8). (DEDUCED, log 20) -/
def Chip.capture (c : Chip) (i : Init) (a : Nat) : Chip :=
  let v := (List.range (captureCount a)).foldl (fun m k => SMap.put m (latchKey i (a + 4 * (k + 1))) (c.view i (a + 4 * (k + 1))))
    c.acc.captured
  { c with acc := { c.acc with captured := v } }

/-- A read of an SQC register latches C (R348). -/
def Chip.latchStat (c : Chip) (i : Init) (n : Nat) : Chip :=
  { c with acc := { c.acc with statC := SMap.put c.acc.statC (latchKey i (R.EVT_STAT n)) (cnt0 c.evt.cnt n) } }

/-- A register read of an initiator at a BAR0 offset: its value is left in `rdata`. -/
def Chip.busRead (c : Chip) (i : Init) (a : Nat) : Chip :=
  if !c.mayRead i a || decide (0x800000 ≤ a) then { c with rdata := 0 }
  else if a = R.SCV_WIN_DATA_L then doScvWindowRead i false false c
  else if a = R.SCV_WIN_DATA_H then doScvWindowRead i true false c
  else if R.EVT_STAT 0 ≤ a ∧ a ≤ R.EVT_STAT 63 ∧ a % 4 = 0 then { c.latchStat i ((a - R.EVT_STAT 0) / 4) with rdata := c.view i a }
  else { c.capture i a with rdata := c.busShow i a }

/-! ### Commands of the table -/

/-- BAR0_UNALIGNED_ACCESS (R9): an access of another size or alignment has no effect, and a read of it returns 0. Such a write
does not interrupt the initiator's pending pair. (DESIGN CHOICE, log 22) -/
def doBar0UnalignedAccess (init : Init) (write : Bool) (addr size : Nat) (val : Word) (c : Chip) : Chip :=
  if size = 4 ∧ addr % 4 = 0 then (if write then c.busWrite init addr val else c.busRead init addr)
  else if write then c
  else { c with rdata := 0 }

/-- GUARD_TIMEOUT (R352): 4,096 fabric cycles pass with a write pending. -/
def doGuardTimeout (init : Init) (c : Chip) : Chip :=
  match c.guardOf init with
  | some p => (c.waitCycle (p.cycle + 4096)).guardFail init p.addr p.val.toNat 3 0
  | none => c

/-! ### The register audit (R367, R368) -/

/-- The masks of the LK fields of a register. -/
def fieldMasks (lk : Nat) : List Nat → List Nat
  | [] => [lk]
  | [a] => [lk / 2 ^ a * 2 ^ a]
  | a :: b :: rest => (lk % 2 ^ b) / 2 ^ a * 2 ^ a :: fieldMasks lk (b :: rest)

/-- The LK fields of the register at `a`. -/
def lkFields (a : Nat) : List Nat :=
  match regRow a with
  | some r => fieldMasks r.lk (maskList 32 r.lks)
  | none => []

/-- The shadow of a register. -/
def shadowOf (sh : List (Nat × Word)) (a : Nat) : Nat :=
  (SMap.get (fun k => regReset k &&& BitVec.ofNat 32 (lkMask k)) sh a).toNat

/-- The environment has flipped LK bits of a register. -/
def Chip.regUpset (c : Chip) (a m : Nat) : Chip :=
  let lk := lkMask a &&& m
  if lk = 0 then c else c.setN a (c.rn a ^^^ lk)

/-- Each LK field of a register that differs from the shadow is a mismatch, each reported in a fabric cycle of its own. (DEDUCED, log 24) -/
def Chip.auditReg (sh : List (Nat × Word)) (c : Chip) (a : Nat) : Chip :=
  let s := shadowOf sh a
  let v := c.rn a
  (lkFields a).foldl (fun c m =>
    if v &&& m = s &&& m then c
    else
      let c1 := (c.addCnt R.GLB_AUDIT_MIS 1).offence a v .steward 7 s
      (if c.steady then c1.declareFatal 2 [] c1.now false
       else c1.setN a (c1.rn a - (c1.rn a &&& m) + (s &&& m))).pass 1) c

/-- REGISTER_AUDIT (R367): one pass, once in 100 ms, while the Steward reaches the registers. `upsets` flips LK bits first. (DEDUCED, log 24) -/
def doRegisterAudit (upsets : List (Nat × Word)) (c : Chip) : Chip :=
  let c0 := upsets.foldl (fun c u => c.regUpset u.1 u.2.toNat) c
  match c0.acc.shadow with
  | none => c0
  | some sh =>
    if c0.flag R.GLB_AUDIT_STAT F.GLB_AUDIT_STAT_ACTIVE && !c0.stw.dead then
      let l := (distinct ((c0.regs.map (fun e => e.1)) ++ sh.map (fun e => e.1))).filter (fun a => decide (lkMask a ≠ 0))
      (l.foldl (Chip.auditReg sh) (c0.pollWait 2 100000)).addCnt R.GLB_AUDIT_CNT 1
    else c0

end Sys2Proof.Machine
end

