-- ==== Sys2Proof/Machine/Boot.lean ====
section
/-! DEFINITION. Start-up (spec 17): the ROM stage and its slot choice, the stages up to RUN, the configuration image's records, END
processing, and what the two resets keep. Safe.lean holds the entry to Safe that a failed start leads to. -/

namespace Sys2Proof.Machine

/-! ### A start that fails (R409) -/

/-- The start has reached stage `k` and goes on. -/
def Chip.starting (c : Chip) (k : Nat) : Bool := decide (c.stage = k) && !c.inSafe

/-- Put the stage. -/
def Chip.setStage (c : Chip) (k : Nat) : Chip := c.setFld R.STW_BOOT_STAT F.STW_BOOT_STAT_STAGE k

/-- The start fails with a code of Table 17-5, what it names, and the slot byte offset at fault. The Steward performs a warm reset itself
after a start from PENDING, unless it is the failing party (R411, R429). (DEDUCED, log 49) -/
def Chip.startFail (c : Chip) (code what ofs : Nat) (hw : Bool) : Chip :=
  let c1 := (c.setFld R.STW_BOOT_STAT F.STW_BOOT_STAT_RESULT code).setN R.STW_IMG_FAIL_OFS ofs
  let c2 := { c1 with boot := { c1.boot with
    startFailed := true, failResetDue := c1.boot.fromPending && !hw, wait := none, deferred := [] } }
  c2.declareFatal 7 ([code, what, 0, 0] ++ leBytes 4 ofs) c2.now hw

/-! ### The ROM stage (R397, R410) -/

/-- The PENDING slot is rolled back from. -/
def Chip.slotRollback (c : Chip) : Chip :=
  let s := c.bctl.pending - 1
  let c1 := c.putBctl (c.bctl.setBad s).endTrial
  (c1.raiseTyped Ev.slotRollback).stwRecordOpen 4 s

/-- The Steward asserts `PENk` and waits for its rail (R405). -/
def Chip.penUp (c : Chip) (k : Nat) : Chip :=
  { c with pins := { c.pins with pen := maskSet c.pins.pen k }, boot := { c.boot with penAt := c.epc.line } }

/-- The start begins from a slot: its stage, its report, and `PEN0`. -/
def Chip.startSlot (c : Chip) (slot : Nat) (pending : Bool) : Chip :=
  let f := c.slot slot
  let c1 := (c.setStage 1).setFld R.STW_BOOT_STAT F.STW_BOOT_STAT_SLOT slot
  let c2 := c1.setFld R.STW_BOOT_STAT F.STW_BOOT_STAT_OCTAL Config.flashOctal.toNat
  let c3 := (c2.setFlag R.STW_BOOT_STAT F.STW_BOOT_STAT_PROVISIONED (decide (c2.keyHash 0 ≠ 0))).setFlag R.STW_BOOT_STAT
    F.STW_BOOT_STAT_KEY2 (decide (c2.keyHash 1 ≠ 0))
  let c4 := if f.vendorOk then c3.setN R.GLB_FW_VERSION f.fwVersion else c3
  { c4 with
    boot := { c4.boot with runSlot := slot, fromPending := pending, startAt := c4.epc.line, deferred := [], wait := none, fw := [],
                           grpAt := 256, recAt := 264, startFailed := false, failResetDue := false }
    pins := { c4.pins with railOk := 0 } }.penUp 0

/-- ROM_STAGE (R410): the slot is chosen, rolling back where due. -/
def Chip.romStage (c : Chip) : Chip :=
  let c0 := c.bctlShow
  let b := c0.bctl
  if b.pending = 0 then c0.startSlot b.active false
  else if (b.inTrial && c0.flag R.STW_AON F.STW_AON_WDG) || decide (3 ≤ b.tries) then
    let c1 := c0.slotRollback
    c1.startSlot c1.bctl.active false
  else (c0.putBctl { b with tries := b.tries + 1 }).startSlot (b.pending - 1) true

/-! ### Resets (R11, R48, R238, R389, R393, R430, R460) -/

/-- Registers that a warm reset preserves whole. -/
def warmKept : List Nat :=
  [R.SCV_AON, R.SCV_LW_L, R.SCV_LW_L + 4, R.SCV_REC_NO, R.SCV_HALFA_FIRST, R.SCV_HALFA_END, R.SCV_HALFA_EXP, R.SCV_HALFB_FIRST,
   R.SCV_HALFB_END, R.SCV_HALFB_EXP, R.STW_AON, R.STW_IMG_FAIL_OFS] ++ run (R.STW_KEYHASH 0) 24

/-- Registers of which a warm reset preserves some bits: the register and the mask. -/
def warmMasked : List (Nat × Nat) :=
  [(R.SCV_STAT, 0xff), (R.STW_BOOT_STAT, 0xff00)] ++ (List.range 16).map (fun n => (R.SQ_STAT n, 0x800))

/-- The register file after a warm reset (R11). (DEDUCED, log 51) -/
def Chip.warmRegs (c : Chip) : List (Nat × Word) :=
  let m1 := warmKept.foldl (fun m a => SMap.set regReset m a (c.reg a)) []
  warmMasked.foldl (fun m x => SMap.set regReset m x.1
    (BitVec.ofNat 32 ((regReset x.1).toNat - ((regReset x.1).toNat &&& x.2) + (c.rn x.1 &&& x.2)))) m1

/-- What a partition keeps: its committed segments and their blocks; no descriptor is pushed again (R175, R238). (DEDUCED, log 51) -/
def Part.kept (pt : Part) : Part :=
  let segs := (pt.segs.filter (fun s => decide (s.2.state = 2))).map (fun s => (s.1, { s.2 with pushed := 3 }))
  let wins := segs.foldl (fun m s => if s.1 < 64 then maskSet m s.1 else m) 0
  let trig := segs.any (fun s => decide (s.1 = 64))
  { blocks := (pt.blocks.map (fun b => { b with held := b.held &&& wins, trig := b.trig && trig })).filter (fun b => b.isHeld || b.trig)
    nextId := pt.nextId
    segs := segs
    pagesUsed := segs.flatMap (fun s => s.2.pages.flatten)
    q := pt.q }

/-- The partitions after a warm reset. (DEDUCED, log 51) -/
def Chip.keptParts (c : Chip) : List (Nat × Part) :=
  (c.parts.map (fun p => (p.1, p.2.kept))).filter (fun p => !p.2.segs.isEmpty)

/-- The engine as a reset leaves it, before the ROM stage: what survives every reset is the flash, the fuses, the last words, and the
model's own counters. `warm` keeps in addition what `PORN` does not. (DEDUCED, log 51) -/
def Chip.resetCore (c : Chip) (warm : Bool) : Chip :=
  let fuses := (run (R.STW_KEYHASH 0) 24 ++ [R.SCV_LW_L, R.SCV_LW_L + 4]).foldl (fun m a => SMap.set regReset m a (c.reg a)) []
  let aon := SMap.set regReset fuses R.SCV_AON (c.reg R.SCV_AON &&& 2)
  { dwell := c.dwell
    trs := { evalE := c.trs.evalE, trigE := c.trs.trigE }
    ort := { txRoom := c.ort.txRoom }
    freeCtr := c.freeCtr
    out := c.out
    regs := if warm then c.warmRegs else aon
    scv := if warm then { halfA := c.scv.halfA, halfB := c.scv.halfB, exportedNo := c.scv.exportedNo } else {}
    epc := if warm then { time := c.epc.time, line := c.epc.line, timeline := c.epc.timeline } else {}
    boot := { bctl0 := c.boot.bctl0, bctl1 := c.boot.bctl1, slotA := c.boot.slotA, slotB := c.boot.slotB }
    nv := { logSectors := c.nv.logSectors }
    mc := { cache := c.mc.cache, chans := if warm then c.mc.chans.map (fun e => (e.1, { bad := e.2.bad })) else [] }
    parts := if warm then c.keptParts else []
    pins := { porn := c.pins.porn, pen := if warm then c.pins.pen else 0, fault := c.pins.porn, trigIn := c.pins.trigIn } }

/-- A warm reset (R430, R460): records still queued are written first (R389), and the start begins again. A Scrivener that is frozen is
exported, and then thawed (R391). (DEDUCED, log 51) -/
def Chip.warmReset (c : Chip) : Chip :=
  let c1 := (if c.frozen then c else c.drain).resetCore true
  let c2 := (List.range 16).foldl (fun c p => if (c.part p).segs.isEmpty then c else c.refreshPart p) c1
  let c3 := if c2.epc.timeline then c2.setEpcState 3 else c2
  let c4 := if c3.frozen then { c3.exportStart true true with scv := { (c3.exportStart true true).scv with thawDue := true } } else c3
  c4.romStage

/-- PORN_ASSERT (R404, R461): `PORN` goes low: every `PEN` pin and `FAULTN` are low and the engine is in reset. -/
def doPornAssert (c : Chip) : Chip := { c with pins := { c.pins with porn := true } }.resetCore false

/-- PORN_RELEASE (R406): the start begins; `fitted` is another flash that has been fitted meanwhile, if one has. Without `PORN` low it is no
event. (DESIGN CHOICE, log 13) -/
def doPornRelease (fitted : Option FlashFit) (c : Chip) : Chip :=
  if c.pins.porn then { c.flashFit fitted with pins := { c.pins with porn := false, fault := false } }.romStage else c

/-- WARM_RESET (R460): `WRSTN` has been low for 10 µs. -/
def doWarmReset (c : Chip) : Chip := { c with resetReq := true }

/-! ### Verification and rails (R403, R405) -/

/-- The start is about to apply the records of a group: none of them has been applied. -/
def Chip.groupBegins (c : Chip) : Bool := decide (c.boot.recAt = c.boot.grpAt + 8)

/-- IMAGE_VERIFY_DONE (R403): the checks of Table 17-5 pass, and `PEN1` is asserted, or the start fails. `flashOk`: the flash reports no error. In
stage 7 a group about to be applied is read again: where the flash errs, its GCRC fails before any of its records apply (R406).
(DEDUCED, log 49) -/
def doImageVerifyDone (flashOk : Bool) (c : Chip) : Chip :=
  if c.starting 2 then
    let r := c.imgFault (c.slot c.boot.runSlot) flashOk
    if r.1 = 0 then (c.setStage 3).penUp 1 else c.startFail r.1 255 r.2 false
  else if !flashOk && c.starting 7 && c.boot.wait.isNone && c.groupBegins then c.startFail 6 255 c.boot.grpAt false
  else c

/-- The pin whose rail the start waits for; after `PEN5` the start is in RUN already (R408), and its rail is judged there. (DEDUCED, log 49) -/
def Chip.railAwaited (c : Chip) : Option Nat :=
  if c.starting 1 then some 0
  else if c.starting 3 then (List.range 5).find? (fun k => decide (1 ≤ k) && !bit c.pins.railOk k)
  else if c.running && bit c.pins.pen 5 && !bit c.pins.railOk 5 then some 5
  else none

/-- The timeout of `PENk`'s rail in µs (Table 17-6). -/
def railLimit (k : Nat) : Nat := if k = 4 then 50000 else 20000

/-- The rail sequencing result of a pin (Table 18-8). The record's VALUE is not stated for it: a free value (DESIGN CHOICE, log 3). -/
def Chip.railRecord (c : Chip) (k code : Nat) : Chip := c.used.stwRecord 1 code k c.freeNow.toNat

/-- PM_ADDR of the regulator behind `PENk` in the running image; 0 = none. -/
def Chip.pmAddr (c : Chip) (k : Nat) : Nat := (c.slot c.boot.runSlot).pmAddr k

/-- `PENk` fails the start. -/
def Chip.railFail (c : Chip) (k : Nat) : Chip := (c.railRecord k 0x10).startFail 0x10 k 0 false

/-- RAIL_UP (R405): the rail is within its limits, and the next pin is asserted, unless a regulator reports a fault in its STATUS_WORD. Stage 1
ends with `PEN0`, stage 3 with `PEN4`, when the synthesiser begins to acquire (Table 17-7). -/
def doRailUp (k status : Nat) (c : Chip) : Chip :=
  if c.railAwaited = some k then
    if c.pmAddr k ≠ 0 ∧ status ≠ 0 then c.railFail k
    else
      let c1 := { c with pins := { c.pins with railOk := maskSet c.pins.railOk k } }.railRecord k 0
      if k = 0 then c1.setStage 2
      else if k = 4 then (c1.setStage 4).synAcquire 10
      else if k = 5 then c1
      else c1.penUp (k + 1)
  else c

/-- RAIL_TIMEOUT (R405): the row's timeout passes. -/
def doRailTimeout (k : Nat) (c : Chip) : Chip :=
  if c.railAwaited = some k then (c.waitLine (c.boot.penAt + railLimit k * micro)).railFail k else c

/-- SYN_LOCKED as the start sees it: stage 4 ends with LOCKED or BYPASS (Table 17-7). -/
def doSynLockedStart (errs : List (Nat × Nat)) (ga oa : Nat) (c : Chip) : Chip :=
  let c1 := doSynLocked errs ga oa c
  if c.starting 4 ∧ c.synState = 1 ∧ (c1.synState = 2 ∨ c1.synState = 4) then c1.setStage 5 else c1

/-! ### DRAM (R295, R296, R320) -/

/-- The DIMM of channel `n`. -/
def dimmOf (l : List DimmFacts) (n : Nat) : DimmFacts := l.getD n {}

/-- Populated channels, where they are MC0–MC3, MC0–MC5 or MC0–MC7. -/
def dimmCount (l : List DimmFacts) : Option Nat :=
  [4, 6, 8].find? (fun k => (List.range 8).all (fun n => (dimmOf l n).present == decide (n < k)))

/-- A DIMM that breaks R295. -/
def dimmBad (d : DimmFacts) : Bool :=
  !d.supported || decide (2 < d.density) || decide (d.sizeMb < 16384) || decide (131072 < d.sizeMb) || (decide (d.ranks ≠ 1) && decide (d.ranks ≠ 2))

/-- Data rate of a speed grade. -/
def gradeRate (g : Nat) : Nat := 4800 + 800 * g

/-- The grades that `MCX_CFG.MAX_SPEED` and Table 13-1 allow for `n` channels, highest first. -/
def Chip.gradesFor (c : Chip) (n : Nat) : List Nat :=
  [2, 1, 0].filter (fun g => decide (g ≤ c.fld R.MCX_CFG F.MCX_CFG_MAX_SPEED) && (decide (n ≠ 6) || decide (1 ≤ g)))

/-- The DIMM of channel `k` supports a grade. -/
def dimmRuns (l : List DimmFacts) (g k : Nat) : Bool := decide (gradeRate g ≤ (dimmOf l k).speed)

/-- The highest grade that satisfies R296. -/
def Chip.dimmGrade (c : Chip) (l : List DimmFacts) (n : Nat) : Option Nat :=
  (c.gradesFor n).find? (fun g => (List.range n).all (dimmRuns l g))

/-- Where no grade fits: the first channel whose DIMM alone rules out every grade allowed, or 0xFF (R296). (DEDUCED, log 49) -/
def Chip.slowChannel (c : Chip) (l : List DimmFacts) (n : Nat) : Nat :=
  if (c.gradesFor n).isEmpty then 255 else ((List.range n).find? (fun k => (c.gradesFor n).all (fun g => !dimmRuns l g k))).getD 255

/-- The one channel at fault, or 0xFF. -/
def soleChannel (l : List Nat) : Nat := match l with
  | [n] => n
  | _ => 255

/-- START_DRAM by R296: with its STEWARD record. (DEDUCED, log 49) -/
def Chip.dimmFail (c : Chip) (ch : Nat) : Chip := (c.stwRecordOpen 2 ch).startFail 0x11 ch 0 false

/-- A channel's registers after training. -/
def Chip.dimmUp (c : Chip) (l : List DimmFacts) (n : Nat) : Chip :=
  let d := dimmOf l n
  let a := R.MC_STAT n
  let c1 := ((c.setFlag a F.MC_STAT_PRESENT true).setFlag a F.MC_STAT_READY true).setFlag a F.MC_STAT_RANKS2 (decide (d.ranks = 2))
  let c2 := (c1.setFlag a F.MC_STAT_X8 d.x8).setFld a F.MC_STAT_DENSITY d.density
  let c3 := (c2.setN (R.MC_DIMM_SN n) d.serial).setFld (R.MC_DIMM_MFR n) F.MC_DIMM_MFR_MFR d.mfr
  c3.setMcCh n { c3.mcCh n with bytes := d.sizeMb * 1048576 }

/-- The keys of the training cache (R320). -/
def trainKey (l : List DimmFacts) (n g : Nat) : List Nat :=
  [Config.dieId.toNat, n, g] ++ (List.range n).flatMap (fun k => [(dimmOf l k).mfr, (dimmOf l k).serial])

/-- DRAM is in use: the controller, CAP, and stage 6 with the march test's coding (R338). -/
def Chip.dramUp (c : Chip) (l : List DimmFacts) (n g : Nat) : Chip :=
  let small := (List.range n).foldl (fun m k => min m (dimmOf l k).sizeMb) 131072
  let c1 := (List.range n).foldl (fun c k => c.dimmUp l k) c
  let c2 := ((c1.setFld R.MCX_STAT F.MCX_STAT_NCH n).setFld R.MCX_STAT F.MCX_STAT_SPEED g).setMcState 2
  let c3 := { c2 with mc := { c2.mc with dimmBytes := small * 1048576 } }
  let c4 := (List.range 16).foldl (fun c p => c.setFld (R.PRT_CAP p) F.PRT_CAP_CAP (n * (small - 256))) c3
  (c4.setStage 6).setFlag R.CST_TEST F.CST_TEST_RAW true

/-- The delays of every channel come into use (R319, R320). -/
def Chip.loadDelays (c : Chip) (delays : List (Nat × List (Nat × Nat))) : Chip :=
  delays.foldl (fun c d => c.setMcCh d.1 { c.mcCh d.1 with staged := d.2, inUse := d.2 }) c

/-- Full training, after a start without a usable cache (R320): the cache is written anew, or the start fails. -/
def Chip.trainFull (c : Chip) (dimms : List DimmFacts) (n g : Nat) : Chip :=
  let c1 := c.addCnt R.MCX_TRN_MISS 1
  let fail := (List.range n).filter (fun k => !(dimmOf dimms k).trained)
  if !fail.isEmpty then c1.startFail 0x11 (soleChannel fail) 0 false
  else
    let delays := (List.range n).map (fun k => (k, (dimmOf dimms k).delays))
    ({ c1 with mc := { c1.mc with cache := some { key := trainKey dimms n g, delays := delays } } }.loadDelays delays).dramUp dimms n g

/-- The cached delays, where the cache's CRC is right, every key matches and step 7 passes with them (R320). -/
def Chip.cachedDelays (c : Chip) (dimms : List DimmFacts) (n g : Nat) (cacheOk : Bool) : Option (List (Nat × List (Nat × Nat))) :=
  match c.mc.cache with
  | some t =>
    if cacheOk && decide (t.key = trainKey dimms n g) && (List.range n).all (fun k => (dimmOf dimms k).verified) then some t.delays else none
  | none => none

/-- DRAM_TRAINING_DONE (R296, R320): the DIMMs as SPD shows them, whether the training cache's CRC is right, and how verification and training
ended. -/
def doDramTrainingDone (dimms : List DimmFacts) (cacheOk : Bool) (c : Chip) : Chip :=
  if c.starting 5 then
    match dimmCount dimms with
    | none => c.dimmFail 255
    | some n =>
      let bad := (List.range n).filter (fun k => dimmBad (dimmOf dimms k))
      if !bad.isEmpty then c.dimmFail (soleChannel bad)
      else
        match c.dimmGrade dimms n with
        | none => c.dimmFail (c.slowChannel dimms n)
        | some g =>
          match c.cachedDelays dimms n g cacheOk with
          | some d => (c.loadDelays d).dramUp dimms n g
          | none => c.trainFull dimms n g
  else c

/-! ### The image's records in order (R400, R402) -/

/-- The group whose header is at slot offset `a` is the next whose records are applied. -/
def Chip.groupEnter (c : Chip) (a : Nat) : Chip := { c with boot := { c.boot with grpAt := a, recAt := a + 8 } }

/-- Slot offset at which the present group ends. -/
def Chip.groupEnd (c : Chip) : Nat := c.boot.grpAt + 8 + (c.slot c.boot.runSlot).le c.boot.grpAt 4

/-- The record that is next in the running image, with its LEN. -/
def Chip.recNext (c : Chip) : Option (ImgRec × Nat) := (c.slot c.boot.runSlot).recAt c.boot.recAt (c.groupEnd - c.boot.recAt)

/-- `r` is the record that is next. -/
def Chip.recIs (c : Chip) (r : ImgRec) : Bool := decide (c.recNext.map Prod.fst = some r)

/-- The record that is next has been taken: the one behind it follows, in this group or as the first of the next. -/
def Chip.recTaken (c : Chip) : Chip :=
  let e := c.boot.recAt + (c.recNext.map Prod.snd).getD 0
  if e = c.groupEnd then c.groupEnter e else { c with boot := { c.boot with recAt := e } }

/-! ### The march test (R338, R339) -/

/-- MARCH_TEST_DONE: the store is clean, and the mask of failed banks is written: those whose reads failed and those whose bit in `CST_CHK_FAIL` is
set, by the test or by an earlier read under RAW (R339). (DEDUCED, log 49) -/
def doMarchTestDone (fail chk : BitVec 64) (c : Chip) : Chip :=
  if c.starting 6 then
    let marks := chk.toNat ||| (c.rn R.CST_CHK_FAIL_L + 2 ^ 32 * c.rn R.CST_CHK_FAIL_H)
    let m := fail.toNat ||| marks
    let c1 := ({ c with cst := {} }.setN R.CST_CHK_FAIL_L marks).setN R.CST_CHK_FAIL_H (marks / 2 ^ 32)
    let c2 := (c1.busWrite .steward R.CST_BANK_FAIL_L (BitVec.ofNat 32 m)).busWrite .steward R.CST_BANK_FAIL_H
      (BitVec.ofNat 32 (m / 2 ^ 32))
    ((c2.setFlag R.CST_TEST F.CST_TEST_RAW false).setStage 7).groupEnter (264 + (c2.slot c2.boot.runSlot).le 256 4)
  else c

/-- The march test has marked a bank failed. -/
def Chip.marchFailed (c : Chip) : Nat :=
  if c.flag R.CST_STAT F.CST_STAT_MARCH_DONE then c.rn R.CST_BANK_FAIL_L + 2 ^ 32 * c.rn R.CST_BANK_FAIL_H else 2 ^ 64 - 1

/-! ### Records (R402, R407) -/

/-- The Steward applies record `r`: stage 7, with no WAIT polling, and it is the next of the image. -/
def Chip.applies (c : Chip) (r : ImgRec) : Bool := c.starting 7 && c.boot.wait.isNone && c.recIs r

/-- IMG_WRITE: register writes of consecutive values. -/
def doImgWrite (addr : Nat) (vals : List Word) (c : Chip) : Chip :=
  if c.applies (.write addr vals) && !(ImgRec.write addr vals).badAddress then c.recTaken.busWrites .steward addr vals else c

/-- IMG_GWRITE: a guarded pair. (DEDUCED, log 19) -/
def doImgGwrite (addr : Nat) (val : Word) (c : Chip) : Chip :=
  if c.applies (.gwrite addr val) && gwriteMay addr then c.recTaken.busPair .steward addr val true else c

/-- IMG_FENCE (R364): every earlier write has taken effect. -/
def doImgFence (c : Chip) : Chip := if c.applies .fence then c.recTaken else c

/-- The words of a FILL. (DESIGN CHOICE, log 8) -/
def fillWords (count : Nat) (pattern : Bool) (data : List DWord) : List DWord :=
  if pattern then List.replicate count (data.headD 0) else data

/-- A record is deferred until after the profile latch (R407). -/
def Chip.recDefer (c : Chip) (d : Deferred) : Chip := { c.recTaken with boot := { c.recTaken.boot with deferred := c.boot.deferred ++ [d] } }

/-- IMG_FILL: plain writes of the Steward's port, deferred where a bank has failed. -/
def doImgFill (waddr count : Nat) (pattern : Bool) (data : List DWord) (c : Chip) : Chip :=
  if c.applies (.fill waddr count pattern data) && decide (waddr + count ≤ 4194304) then
    if c.marchFailed = 0 then c.recTaken.cstWriteList 18 waddr (fillWords count pattern data)
    else c.recDefer (.fill waddr count pattern data c.boot.recAt)
  else c

/-- Bytes of the firmware package taken so far. -/
def Chip.fwLen (c : Chip) : Nat := 4 * c.boot.fw.length

/-- IMG_BLOB: firmware bytes, contiguous from 0 (KIND 1), which the boot ROM takes from group 0 before stage 3, or a sequencer program (KIND 2).
(DEDUCED, log 50) -/
def doImgBlob (kind target ofs : Nat) (data : List Word) (c : Chip) : Chip :=
  if kind = 1 then
    if (c.starting 1 || c.starting 2) && c.recIs (.blob 1 target ofs data) && decide (ofs = c.fwLen) then
      { c.recTaken with boot := { c.recTaken.boot with fw := c.boot.fw ++ data } }
    else c
  else if c.applies (.blob kind target ofs data) && !(ImgRec.blob kind target ofs data).badAddress then
    c.recTaken.busWrites .steward (R.SQ_CTRL target + ofs) data
  else c

/-- IMG_WAIT: polling begins. -/
def doImgWait (addr : Nat) (mask val : Word) (timeout : Nat) (c : Chip) : Chip :=
  if c.applies (.wait addr mask val timeout) && decide (timeout ≤ 500000) && decide (addr < 0x800000) then
    { c.recTaken with boot := { c.recTaken.boot with wait := some ⟨addr, mask, val, c.boot.recAt, c.epc.line + timeout * micro⟩ } }
  else c

/-- A read of the polled register; at an offset that is no multiple of 4 it returns 0. (DEDUCED, log 50) -/
def Chip.waitRead (c : Chip) (w : WaitRec) : Chip := doBar0UnalignedAccess .steward false w.addr 4 0 c

/-- A read of the polled register shows the awaited value. -/
def Chip.waitMet (c : Chip) (w : WaitRec) : Bool := decide ((c.waitRead w).rdata &&& w.mask = w.val)

/-- The poll ends with a read that shows the awaited value. -/
def Chip.waitEnd (c : Chip) (w : WaitRec) : Chip :=
  let c1 := c.waitRead w
  { c1 with boot := { c1.boot with wait := none } }

/-- IMG_WAIT_MET. -/
def doImgWaitMet (c : Chip) : Chip :=
  match c.boot.wait with
  | none => c
  | some w => if c.starting 7 && c.waitMet w then c.waitEnd w else c

/-- START_WAIT_TIMEOUT (R406): the poll reaches its TIMEOUT. -/
def doStartWaitTimeout (c : Chip) : Chip :=
  match c.boot.wait with
  | none => c
  | some w =>
    if c.starting 7 then
      let c1 := c.waitLine w.due
      if c1.waitMet w then c1.waitEnd w else c1.startFail 0x13 255 w.ofs false
    else c

/-- IMG_SCHED: a schedule entry is written into the Common Store, deferred where a bank has failed. -/
def doImgSched (index : Nat) (words : List DWord) (c : Chip) : Chip :=
  if c.applies (.sched index words) then
    if c.marchFailed = 0 then c.recTaken.cstWriteList 18 (c.schWord index) words
    else c.recDefer (.sched index words c.boot.recAt)
  else c

/-! ### END processing (R408) -/

/-- Step 1: a partition whose segment store is below the minimum of R168. -/
def Chip.segShort (c : Chip) (p : Nat) : Bool :=
  if c.fld (R.PRT_RING_SIZE p) F.PRT_RING_SIZE_RING_SIZE = 0 then false
  else
    let w := c.armCopies p
    (c.sqEnabled p).any (fun n =>
      let v := w.copyRegs (sqRegs n)
      decide (v.segBytes p < v.segBaseSize p + (v.postSize p (some n)).2))

/-- `GLB_PROFILE_EFF` as `GLB_PROFILE` sets it (Tables 1-3 to 1-5), without the degraded mapping. -/
def profileEff (v : Nat) : Nat :=
  let b := fun (i : Nat) => if bit v i then 1 else 0
  if bit v 0 then 2 ^ 31 + 32 * b 5 + 16 * b 4 + 8 * b 3 + 4 * b 2 + 2 * b 1 + 1
  else 2 ^ 31 + 128 + 64 + 32 + 16 + 8

/-- Step 2: the profile is latched, RAW clears, and both patrol scrubs run as the profile in force has them (R18, R22, R302, R339). -/
def Chip.profileLatch (c : Chip) : Chip :=
  let c1 := (c.setN R.GLB_PROFILE_EFF (profileEff (c.rn R.GLB_PROFILE))).setFlag R.CST_TEST F.CST_TEST_RAW false
  (c1.setFlag R.CST_STAT F.CST_STAT_SCRUB_ACTIVE (c1.flag R.GLB_PROFILE_EFF F.GLB_PROFILE_EFF_CST_SCRUB)).setFlag R.MCX_SCRUB F.MCX_SCRUB_ACTIVE
    (c1.flag R.GLB_PROFILE_EFF F.GLB_PROFILE_EFF_DRAM_SCRUB)

/-- The march result is judged (R26, R340): the engine with its mapping, and whether it goes on. -/
def Chip.marchJudge (c : Chip) : Chip × Bool :=
  let f := c.marchFailed
  if f = 0 then (c, true)
  else if (f % 2 ^ 32 ≠ 0 ∧ f / 2 ^ 32 ≠ 0) ∨ c.flag R.GLB_PROFILE_EFF F.GLB_PROFILE_EFF_CST_DEGRADE = false then (c, false)
  else
    let hi := decide (f % 2 ^ 32 ≠ 0)
    let c1 := (c.setFlag R.GLB_PROFILE_EFF F.GLB_PROFILE_EFF_CST_DEGRADED true).setFlag R.GLB_PROFILE_EFF F.GLB_PROFILE_EFF_CST_HALF hi
    ((c1.setFlag R.CST_STAT F.CST_STAT_DEGRADED true).setFlag R.CST_STAT F.CST_STAT_HALF hi, true)

/-- A deferred record is applied under the mapping in force, or reaches beyond the usable store: then its slot offset (R407). -/
def Chip.deferredApply (c : Chip) (d : Deferred) : Chip × Option Nat :=
  match d with
  | .fill waddr count pattern data ofs =>
    if c.cstWords < waddr + count then (c, some ofs) else (c.cstWriteList 18 waddr (fillWords count pattern data), none)
  | .sched index words ofs =>
    if c.cstWords < c.schWord index + 6 then (c, some ofs) else (c.cstWriteList 18 (c.schWord index) words, none)

/-- Deferred records in image order, up to the first that fails. -/
def Chip.deferredAll (c : Chip) : List Deferred → Chip × Option Nat
  | [] => (c, none)
  | d :: rest =>
    let r := c.deferredApply d
    match r.2 with
    | some ofs => (r.1, some ofs)
    | none => r.1.deferredAll rest

/-- Step 3: in Steady the lock is set, if the image has not set it (R356). -/
def Chip.lockAtEnd (c : Chip) : Chip :=
  if c.steady && !c.locked then (c.setLock false).stwRecordOpen 3 0 else c

/-- Step 4: LOAD of the schedule and of the snapshot lists. -/
def Chip.loadsAtEnd (c : Chip) : Chip :=
  let c1 := doSchLoad .steward true 0 c
  doScvLoad .steward true 0 (c1.setFlag R.SCV_CMD F.SCV_CMD_ALL true)

/-- A key hash is fused. -/
def Chip.fuse (c : Chip) (j h : Nat) : Chip :=
  let c1 := ((run (R.STW_KEYHASH (12 * j)) 12).zipIdx).foldl (fun c x => c.setN x.1 (h / 2 ^ (32 * x.2))) c
  c1.setFlag R.STW_BOOT_STAT (if j = 0 then F.STW_BOOT_STAT_PROVISIONED else F.STW_BOOT_STAT_KEY2) true

/-- Step 6: fuses due under R403. (DEDUCED, log 50) -/
def Chip.fusesAtEnd (c : Chip) : Chip :=
  let f := c.slot c.boot.runSlot
  if f.provision then
    let c1 := if c.keyHash 0 = 0 ∧ c.keyHash 1 = 0 then c.fuse 0 f.pubHash else c
    if c1.keyHash 0 = f.pubHash ∧ f.nextKeyHash ≠ 0 ∧ c1.keyHash 1 = 0 then c1.fuse 1 f.nextKeyHash else c1
  else c

/-- Step 7: RUN. A start from PENDING begins its trial (R411). (DEDUCED, log 49) -/
def Chip.startDone (c : Chip) : Chip :=
  let f := c.slot c.boot.runSlot
  let c1 := { c.penUp 5 with boot := { (c.penUp 5).boot with runAt := c.epc.line, deferred := [] } }
  let c2 := (c1.setStage 9).setFld R.STW_STATE F.STW_STATE_STATE 1
  let c3 := c2.setN R.STW_BOOT_TIME ((c.epc.line - c.boot.startAt) / (1000 * micro))
  let c4 := ((c3.setN R.STW_IMG_VERSION f.version).setN R.STW_IMG_BUILD_L f.build).setN R.STW_IMG_BUILD_H (f.build / 2 ^ 32)
  let c5 := if c4.boot.fromPending then
      (c4.putBctl { c4.bctl with flags := maskSet c4.bctl.flags 4 }).setFlag R.STW_BOOT_STAT F.STW_BOOT_STAT_TRIAL true
    else c4
  c5.raise Ev.startDone

/-- IMG_END (R408): the steps in order, each only if every one before it has passed. -/
def doImgEnd (c : Chip) : Chip :=
  if c.applies .endRec then
    let c0 := c.setStage 8
    match (List.range 16).find? c0.segShort with
    | some p => c0.startFail 0x14 p 0 false
    | none =>
      let j := c0.profileLatch.marchJudge
      if j.2 then
        let d := j.1.deferredAll j.1.boot.deferred
        match d.2 with
        | some ofs => d.1.startFail 0x15 255 ofs false
        | none => d.1.lockAtEnd.loadsAtEnd.auditStart.fusesAtEnd.startDone
      else j.1.startFail 0x12 255 0 false
  else c

/-- START_FAIL_RESET (R411): after the FATAL record of a failed start from PENDING is exported, the Steward performs a warm reset.
(DEDUCED, log 50) -/
def doStartFailReset (c : Chip) : Chip :=
  if c.boot.failResetDue && c.scv.exportTo.isNone && !c.stw.dead then { c with resetReq := true } else c

end Sys2Proof.Machine
end

