-- ==== Sys2Proof/Machine/Safe.lean ====
section
/-! DEFINITION. The entry to Safe (spec 18, R428 to R431), processor faults and the watchdog (R414 to R418), sensors and limits (R424
to R427), and the end of the black box's freeze (R391). -/

namespace Sys2Proof.Machine

/-! ### Entry to Safe (R428) -/

/-- A group's data path is emptied: what has not reached DRAM is lost; recording having ended, the group takes a waiting correction (R56).
(DEDUCED, log 52) -/
def Chip.laneDrop (c : Chip) (g : Nat) : Chip :=
  let l := c.lane g
  let c1 := (c.putLane g { l with
    forming := none, staged := [], codec := {}, gap := none, closed := [], gapCq := false, pipe := [], ended := true }).injDrop g
  c1.takeCorrection g (c1.lane g).total

/-- A partition enters DISARMED, and its sequencer stops and is bound no longer; open segments stay uncommitted (R126, R175).
(DEDUCED, log 42; DEDUCED, log 52) -/
def Chip.partSafe (c : Chip) (p : Nat) : Chip :=
  if c.armed p then
    let c1 := (c.prtGroups p).foldl (fun c g => c.laneDrop g) ((c.seqStop p).fulActive p false)
    ((c1.setPart p { c1.part p with endStamp := none, seqBound := 0 }).setPrtState p 0).refreshPart p
  else c

/-- DRAM enters self-refresh, where it is trained (R316, R428 step 5). (DEDUCED, log 52) -/
def Chip.srSafe (c : Chip) : Chip :=
  match c.mcState with
  | 0 => c
  | 4 => { c with mc := { c.mc with srBy := 3 } }
  | 5 => { c with mc := { c.mc with exitDue := false } }
  | _ => c.srBegin 3

/-- The power ladder is left: no transition goes on, and the pins take the levels of Safe (Table 19-3). (DEDUCED, log 48) -/
def Chip.pwrSafe (c : Chip) : Chip :=
  let c1 := { c with pwr := { c.pwr with down := none, up := none, held := none } }.pwrBusy none
  (c1.setFld R.PWR_STAT F.PWR_STAT_STATE 5).setPens (c1.penFor 5)

/-- An automatic warm reset follows this cause (R418). -/
def Chip.autoWanted (c : Chip) (cause : Nat) : Bool :=
  (decide (cause = 4) || decide (cause = 5) || decide (cause = 9)) && c.flag R.STW_WDG_CFG F.STW_WDG_CFG_AUTO_RESET &&
    decide (c.fld R.STW_AON F.STW_AON_AUTO_CNT < 3)

/-- SAFE_ENTRY (R428). (DEDUCED, log 52) -/
def Chip.safeEnter (c : Chip) (f : Fatal) : Chip :=
  let c1 := c.scvFreeze f
  let c2 := (c1.setFld R.STW_STATE F.STW_STATE_STATE 2).setFld R.STW_STATE F.STW_STATE_CAUSE f.cause
  let c3 := { c2 with
    pins := { c2.pins with fault := true }
    stw := { c2.stw with dead := c2.stw.dead || f.hw, autoDue := c2.autoWanted f.cause, faultAt := c2.epc.line } }
  let c4 := (List.range 16).foldl (fun c p => c.partSafe p) (c3.raise Ev.safeEntry)
  let c5 := ({ c4 with trs := { c4.trs with xt := [] } }.trigIdle).ckoRest
  let c6 := (List.range 4).foldl (fun c n => if c.strRuns n then c.strHalt n else c) (c5.dmaHalt false)
  c6.srSafe.pwrSafe

/-- A fatal condition in Safe writes nothing and sets MORE (R431). (DEDUCED, log 52) -/
def Chip.safeAgain (c : Chip) (f : Fatal) : Chip :=
  let c1 := c.scvFreeze f
  { c1 with stw := { c1.stw with dead := c1.stw.dead || f.hw } }

/-- What a command has declared fatal is carried out at its end. -/
def Chip.settleFatal (c : Chip) : Chip :=
  match c.fatal with
  | none => c
  | some f => let c1 := { c with fatal := none }; if c1.inSafe then c1.safeAgain f else c1.safeEnter f

/-- The warm reset that a command has asked for. -/
def Chip.settleReset (c : Chip) : Chip := if c.resetReq then { c with resetReq := false }.warmReset else c

/-! ### Processor faults and the watchdog (R414 to R418) -/

/-- The Steward is powered: `PORN` is high, and the ladder is not in Still (R417). -/
def Chip.stwPowered (c : Chip) : Bool := !c.pins.porn && decide (c.ladder ≠ 4)

/-- The Steward is powered and works. -/
def Chip.stwUp (c : Chip) : Bool := c.stwPowered && !c.stw.dead

/-- LOCKSTEP_FAULT (R414). -/
def doLockstepFault (c : Chip) : Chip :=
  if c.stwPowered then (c.setFlag R.STW_AON F.STW_AON_LOCKSTEP true).declareFatal 4 [] c.now true else c

/-- STW_SRAM_ERROR (R415). -/
def doStwSramError (corrected : Bool) (c : Chip) : Chip :=
  if c.stwPowered then
    if corrected then (c.addCnt R.STW_SRAM_CE 1).raise Ev.stwCe
    else c.declareFatal 9 (1 :: zeros 7) c.now true
  else c

/-- PERIOD of the watchdog in force, 10 to 10,000 ms (Table 18-7). -/
def Chip.wdgPeriod (c : Chip) : Nat := max 10 (min 10000 (c.fld R.STW_WDG_CFG F.STW_WDG_CFG_PERIOD))

/-- WATCHDOG_EXPIRE (R417): PERIOD at least after the release from which it counts. Fatal, or the start fails with START_WATCHDOG below RUN.
(DEDUCED, log 53) -/
def doWatchdogExpire (c : Chip) : Chip :=
  if c.stwPowered then
    let c1 := (c.waitLine (c.boot.startAt + c.wdgPeriod * 1000 * micro)).setFlag R.STW_AON F.STW_AON_WDG true
    if c1.stage < 9 ∧ c1.inSafe = false then c1.startFail 0x16 255 0 true else c1.declareFatal 5 [] c1.now true
  else c

/-- AUTO_RESET (R418): 10 ms after `FAULTN`, with AUTO_CNT one more. (DEDUCED, log 53) -/
def doAutoReset (c : Chip) : Chip :=
  if c.stw.autoDue && c.inSafe then
    let c1 := c.waitLine (c.stw.faultAt + 10000 * micro)
    { c1.setFld R.STW_AON F.STW_AON_AUTO_CNT (min 3 (c1.fld R.STW_AON F.STW_AON_AUTO_CNT + 1)) with resetReq := true }
  else c

/-- AUTO_CNT_CLEAR (R418): the engine has stayed in RUN for 60 s. -/
def doAutoCntClear (c : Chip) : Chip :=
  if c.running then (c.waitLine (c.boot.runAt + 60 * second)).setFld R.STW_AON F.STW_AON_AUTO_CNT 0 else c

/-! ### Die sensors (R424, R425) -/

/-- Die sensor `s` in eighths of a degree. -/
def Chip.dieTemp (c : Chip) (s : Nat) : Int := signedOf 16 (c.fld (R.STW_TEMP s) F.STW_TEMP_TEMP)

/-- The hottest die sensor: the first of those with the greatest reading. -/
def Chip.dieHottest (c : Chip) : Nat := (List.range 16).foldl (fun b s => if c.dieTemp b < c.dieTemp s then s else b) 0

/-- CRIT and WARN in force, in eighths of a degree. -/
def Chip.critAt (c : Chip) : Int := 8 * (min 124 (c.fld R.STW_THERM_CFG F.STW_THERM_CFG_CRIT) : Nat)
def Chip.warnAt (c : Chip) : Int := 8 * (c.fld R.STW_THERM_CFG F.STW_THERM_CFG_WARN : Nat)

/-- THERM_CLEAR is due below this. -/
def Chip.clearAt (c : Chip) : Int := c.warnAt - 8 * (c.fld R.STW_THERM_CFG F.STW_THERM_CFG_HYST : Nat)

/-- A FATAL detail of cause 0x08. -/
def limitDetail (kind idx reading : Nat) : List Nat := [kind, idx] ++ leBytes 2 reading ++ [0, 0, 0, 0]

/-- One reading of a die sensor: two in a row at or above CRIT are fatal. (DEDUCED, log 53) -/
def Chip.dieReading (c : Chip) (s : Nat) (t : Int) : Chip :=
  let n := if c.critAt ≤ t then cnt0 c.stw.critRun s + 1 else 0
  let c1 := (c.setFld (R.STW_TEMP s) F.STW_TEMP_TEMP (unsignedOf 16 t))
  let c2 := { c1 with stw := { c1.stw with critRun := put0 c1.stw.critRun s n } }
  if n = 2 then c2.declareFatal 8 (limitDetail 1 s (unsignedOf 16 t)) c2.now false else c2

/-- The warning or its end, as the sensors stand. (DEDUCED, log 53) -/
def Chip.dieWarn (c : Chip) : Chip :=
  let s := c.dieHottest
  let v := unsignedOf 16 (c.dieTemp s)
  if c.warnAt ≤ c.dieTemp s then
    ({ c with stw := { c.stw with warm := true } }.raiseTyped Ev.thermWarn).stwRecord 5 1 s v
  else if c.stw.warm ∧ c.dieTemp s < c.clearAt then
    ({ c with stw := { c.stw with warm := false } }.raiseTyped Ev.thermClear).stwRecord 5 0 s v
  else c

/-- DIE_SENSOR_POLL (R424, R425), once in 1 ms: readings of the sensors from 0 on. -/
def doDieSensorPoll (temps : List Int) (c : Chip) : Chip :=
  if c.stwUp then ((temps.zipIdx).foldl (fun c x => c.dieReading x.2 x.1) (c.pollWait 0 1000)).dieWarn else c

/-- HW_THERMAL_TRIP (R425): a sensor at 125 °C or more. (DEDUCED, log 53) -/
def doHwThermalTrip (s : Nat) (temp : Int) (c : Chip) : Chip :=
  if c.stwPowered && decide (1000 ≤ temp) then c.declareFatal 8 (limitDetail 2 s (unsignedOf 16 temp)) c.now false else c

/-! ### Rails (R424, R426, Table 18-6) -/

/-- Nominal voltage of rail `r` in mV. -/
def railNominal (r : Nat) : Nat :=
  if r ≤ 2 then 750 else if r = 3 then 800 else if r = 4 then 1200 else if r ≤ 6 then 1100 else if r = 7 then 1800 else 900

/-- The `PEN` pin of rail `r`; `none` for the rails that board logic brings up. -/
def railPin (r : Nat) : Option Nat :=
  if r = 4 then some 1 else if r = 5 ∨ r = 6 then some 3 else if r = 8 then some 0 else if r = 9 then some 2 else none

/-- Rail `r` is judged: its pin is asserted, and the start has seen it within limits (R405). (DEDUCED, log 53) -/
def Chip.railJudged (c : Chip) (r : Nat) : Bool :=
  match railPin r with
  | none => true
  | some k => bit c.pins.pen k && (decide (4 ≤ c.stage) || bit c.pins.railOk k || c.inSafe)

/-- A reading lies outside ±pct of the nominal voltage. -/
def railOutside (r mv pct : Nat) : Bool := decide (railNominal r * pct < 100 * distNat mv (railNominal r))

/-- WARN_PCT and FAULT_PCT in force. -/
def Chip.warnPct (c : Chip) : Nat := max 1 (min 10 (c.fld R.STW_RAIL_CFG F.STW_RAIL_CFG_WARN_PCT))
def Chip.faultPct (c : Chip) : Nat := max 2 (c.fld R.STW_RAIL_CFG F.STW_RAIL_CFG_FAULT_PCT)

/-- The warning window of a rail: a reading outside it warns; ten in a row inside clear WARN. -/
def Chip.railWindow (c : Chip) (r mv : Nat) : Chip :=
  let a := R.STW_RAIL r
  if railOutside r mv c.warnPct then
    let c1 := (c.setFlag a F.STW_RAIL_WARN true).raiseTyped Ev.railWarn
    { c1 with stw := { c1.stw with railIn := put0 c1.stw.railIn r 0 } }.stwRecord 6 0 r mv
  else
    let n := cnt0 c.stw.railIn r + 1
    let c1 := { c with stw := { c.stw with railIn := put0 c.stw.railIn r (min n 10) } }
    if 10 ≤ n then c1.setFlag a F.STW_RAIL_WARN false else c1

/-- One reading of a rail: three in a row outside the fault window are fatal. (DEDUCED, log 53) -/
def Chip.railReading (c : Chip) (r mv : Nat) : Chip :=
  let c1 := c.setFld (R.STW_RAIL r) F.STW_RAIL_MV mv
  if c1.railJudged r then
    let c2 := c1.railWindow r mv
    let n := if railOutside r mv c2.faultPct then cnt0 c2.stw.railOut r + 1 else 0
    let c3 := { c2 with stw := { c2.stw with railOut := put0 c2.stw.railOut r n } }
    if n = 3 then c3.declareFatal 8 (limitDetail 3 r mv) c3.now false else c3
  else { c1 with stw := { c1.stw with railIn := put0 c1.stw.railIn r 0, railOut := put0 c1.stw.railOut r 0 } }

/-- RAIL_MONITOR_POLL (R424, R426), once in 100 µs: readings in mV of the rails from 0 on. -/
def doRailMonitorPoll (mv : List Nat) (c : Chip) : Chip :=
  if c.stwUp then ((mv.take 10).zipIdx).foldl (fun c x => c.railReading x.2 x.1) (c.pollWait 1 100) else c

/-- PMBUS_POLL (R426), once in 100 ms: the STATUS_WORD of the regulator behind `PENk`; a bit that is set is a fault it reports. (DEDUCED, log 53) -/
def doPmbusPoll (k status : Nat) (c : Chip) : Chip :=
  if c.stwUp && decide (k < 6) && decide (c.pmAddr k ≠ 0) && bit c.pins.pen k then
    let c0 := c.pollWait (8 + k) 100000
    let c1 := { c0 with stw := { c0.stw with pmbus := put0 c0.stw.pmbus k status } }
    if status = 0 then c1 else (c1.raiseTyped Ev.pmbusFault).stwRecord 8 0 k status
  else c

/-! ### The Scrivener after Safe (R391) -/

/-- SCV_EXPORTED (R387); the export that follows the reset out of Safe is followed by the Steward's THAW (R391). -/
def doScvExportedThaw (bad : Option (Bool × Nat)) (c : Chip) : Chip :=
  if c.stwUp then
    let c1 := doScvExported bad c
    if c1.scv.thawDue && c1.scv.exportTo.isNone && !c1.inSafe && c1.fatal.isNone then doScvThaw .steward c1 else c1
  else c

end Sys2Proof.Machine
end

