-- ==== Sys2Proof/Machine/Mailbox.lean ====
section
/-! DEFINITION. The mailbox services (spec 18, R419 to R423): what each does with a request, and the response it gives. Which request is
served when, and where its response goes, is in Mgmt.lean. -/

namespace Sys2Proof.Machine

/-- STATUS codes of a response (Table 18-2). -/
def mbOk : Nat := 0
/-- DESIGN CHOICE, log 55. -/
def mbBusy : Nat := 1
def mbBadOp : Nat := 2
def mbBadArg : Nat := 3
def mbFailed : Nat := 4
def mbInSafe : Nat := 5

/-- What a service answers: STATUS, CODE, ARG and data. -/
structure MbAnswer where
  status : Nat := 0
  code : Nat := 0
  arg : List Nat
  data : List Nat := []
  deriving DecidableEq, Repr

/-- A request as Table 18-2 lays it out, and the most data bytes its path carries either way. -/
structure MbReq where
  service : Nat
  arg : List Nat
  data : List Nat
  limit : Nat
  deriving DecidableEq, Repr

/-- Bits of ARG. -/
def MbReq.argBits (q : MbReq) (lo w : Nat) : Nat := bits (leNat q.arg) lo w

/-! ### Reports -/

/-- The hottest DIMM reading among the populated channels, as a signed byte (Table 18-5). -/
def Chip.dimmHottest (c : Chip) : Nat :=
  let temp := fun (n : Nat) => if n < 4 then bits (c.rn R.MCX_TEMP0) (8 * n) 8 else bits (c.rn R.MCX_TEMP1) (8 * (n - 4)) 8
  match (List.range c.nch).map temp with
  | [] => 0
  | x :: rest => rest.foldl (fun m t => if signedOf 8 m < signedOf 8 t then t else m) x

/-- Seconds since RUN, saturating. -/
def Chip.uptime (c : Chip) : Nat := if c.stage = 9 then min ((c.epc.line - c.boot.runAt) / second) (2 ^ 32 - 1) else 0

/-- The status record (Table 18-5). -/
def Chip.statusRecord (c : Chip) : List Nat :=
  let rails := (List.range 10).foldl (fun m r => if c.flag (R.STW_RAIL r) F.STW_RAIL_WARN then maskSet m r else m) 0
  let parts := (List.range 16).foldl (fun m p => if c.armed p then maskSet m p else m) 0
  [c.fld R.STW_STATE F.STW_STATE_STATE, if c.inSafe then c.fld R.STW_STATE F.STW_STATE_CAUSE else 0, c.rn R.GLB_PROFILE_EFF % 256, c.ladder] ++
    leBytes 4 (c.rn R.STW_BOOT_STAT) ++ leBytes 4 (c.rn R.STW_IMG_VERSION) ++ leBytes 4 c.uptime ++ leBytes 10 c.now ++
    [c.epcState, c.synState] ++ leBytes 2 (unsignedOf 16 (c.dieTemp c.dieHottest)) ++ [c.dieHottest, c.dimmHottest] ++
    leBytes 2 rails ++ [0, 0] ++ leBytes 4 (c.rn R.SCV_REC_NO) ++ leBytes 8 (c.pair 32 R.SCV_LW_L) ++ leBytes 2 parts ++ [0, 0] ++
    leBytes 4 (c.rn R.STW_AON) ++ zeros 8

/-- The data of SENSORS (Table 18-3). -/
def Chip.sensorRecord (c : Chip) : List Nat :=
  (List.range 16).flatMap (fun s => leBytes 2 (c.fld (R.STW_TEMP s) F.STW_TEMP_TEMP)) ++
    (List.range 10).flatMap (fun r => leBytes 2 (c.fld (R.STW_RAIL r) F.STW_RAIL_MV)) ++ leBytes 4 (c.rn R.MCX_TEMP0) ++
    leBytes 4 (c.rn R.MCX_TEMP1) ++ zeros 4

/-! ### Services -/

/-- Answers without data. -/
def MbReq.ok (q : MbReq) (data : List Nat) : MbAnswer := { arg := q.arg, data := data }
def MbReq.no (q : MbReq) (status code : Nat) : MbAnswer := { status := status, code := code, arg := q.arg }

/-- The registers read by REG_READ, in order: the engine and their values. (DESIGN CHOICE, log 8; DESIGN CHOICE, log 54) -/
def Chip.mbRegRead (c : Chip) (a : Nat) : Nat → Chip × List Nat
  | 0 => (c, [])
  | n + 1 =>
    let d := doBar0UnalignedAccess .steward false a 4 0 c
    let r := d.mbRegRead (a + 4) n
    (r.1, d.rdata.toNat :: r.2)

/-- A write sets a CMD field. -/
def writesCmd (a v : Nat) : Bool :=
  match regRow a with
  | some r => decide (v &&& r.cmd ≠ 0)
  | none => false

/-- The writes of REG_WRITE, one in each fabric cycle (R342), up to the first that fails: the engine, its CODE or 0, and the rejection code (R423).
(DESIGN CHOICE, log 8; DESIGN CHOICE, log 54) -/
def Chip.mbRegWrite (c : Chip) (a : Nat) : List Nat → Chip × Nat × Nat
  | [] => (c, 0, 0)
  | v :: rest =>
    let d := doBar0UnalignedAccess .steward true a 4 (BitVec.ofNat 32 v) { c with dropped := false, lastReason := 0 }
    if d.dropped then (d, 5, 0)
    else if writesCmd a v && decide (d.lastReason ≠ 0) then (d, 6, d.lastReason)
    else if rest.isEmpty then (d, 0, 0)
    else (d.pass 1).mbRegWrite (a + 4) rest

/-- ARG of a response with a rejection code in byte 7 (R423). -/
def argReject (arg : List Nat) (reason : Nat) : List Nat := slice arg 0 7 ++ [reason]

/-- REG_READ. (DESIGN CHOICE, log 54) -/
def Chip.mbReadService (c : Chip) (q : MbReq) : Chip × MbAnswer :=
  let a := q.argBits 0 24
  let n := q.argBits 32 16
  if n = 0 ∨ q.limit < 4 * n ∨ 0x800000 < a + 4 * n then (c, q.no mbBadArg 0)
  else
    let r := c.mbRegRead a n
    (r.1, q.ok (wordBytes r.2))

/-- REG_WRITE. (DESIGN CHOICE, log 54) -/
def Chip.mbWriteService (c : Chip) (q : MbReq) : Chip × MbAnswer :=
  let a := q.argBits 0 24
  let n := q.argBits 32 16
  if n = 0 ∨ q.data.length < 4 * n ∨ 0x800000 < a + 4 * n then (c, q.no mbBadArg 0)
  else
    let r := c.mbRegWrite a (leWords (q.data.take (4 * n)))
    if r.2.1 = 0 then (r.1, q.ok [])
    else (r.1, { q.no mbFailed r.2.1 with arg := if r.2.1 = 6 then argReject q.arg r.2.2 else q.arg })

/-- REG_GWRITE. (DEDUCED, log 19) -/
def Chip.mbGwriteService (c : Chip) (q : MbReq) : Chip × MbAnswer :=
  let a := q.argBits 0 24
  if isGuarded a then
    let d := c.busPair .steward a (BitVec.ofNat 32 (q.argBits 32 32)) false
    if d.dropped then (d, q.no mbFailed 5)
    else if d.lastReason ≠ 0 then (d, { q.no mbFailed 6 with arg := argReject q.arg d.lastReason })
    else (d, q.ok [])
  else (c, q.no mbBadArg 0)

/-- CST_READ; an uncorrectable word fails the service (R416). -/
def Chip.mbCstReadService (c : Chip) (q : MbReq) : Chip × MbAnswer :=
  let a := q.argBits 0 22
  let n := q.argBits 32 16
  if n = 0 ∨ q.limit < 8 * n then (c, q.no mbBadArg 0)
  else
    let ue := c.firstUe a n
    let r := c.cstReadList 18 a n
    if r.2.2 = 2 then (r.1.stwRecord 7 2 q.service ue, q.no mbFailed 2) else (r.1, q.ok (dwordBytes r.2.1))

/-- CST_WRITE. -/
def Chip.mbCstWriteService (c : Chip) (q : MbReq) : Chip × MbAnswer :=
  let a := q.argBits 0 22
  let n := q.argBits 32 16
  if n = 0 ∨ q.data.length < 8 * n then (c, q.no mbBadArg 0)
  else (c.cstWriteList 18 a (bytesDwords (q.data.take (8 * n))), q.ok [])

/-- Bytes of the log area (Table 17-1). -/
def logSize : Nat := 16580608

/-- LOG_READ; `flashBad`: the flash reports an error. (DESIGN CHOICE, log 54) -/
def Chip.mbLogService (c : Chip) (q : MbReq) (flashBad : Bool) : Chip × MbAnswer :=
  let ofs := q.argBits 0 32
  let n := q.argBits 32 16
  if n = 0 ∨ q.limit < n ∨ logSize < ofs + n then (c, q.no mbBadArg 0)
  else if flashBad then (c, q.no mbFailed 4)
  else (c, q.ok (c.logBytes ofs n))

/-- PMBUS; `reply` is what the regulator returns, nothing where it does not acknowledge. -/
def Chip.mbPmbusService (c : Chip) (q : MbReq) (reply : List Nat) : Chip × MbAnswer :=
  let k := q.argBits 0 3
  let n := q.argBits 16 2
  if n = 0 ∨ n = 3 ∨ c.pmAddr k = 0 then (c, q.no mbBadArg 0)
  else
    let c1 := c.emit (.pmbusRead (c.pmAddr k) (q.argBits 8 8) n)
    (c1, if reply.length < n then q.no mbFailed 3 else q.ok (reply.take n))

/-- POWER. -/
def Chip.mbPowerService (c : Chip) (q : MbReq) : Chip × MbAnswer :=
  let d := c.pwrRequest .steward none (q.argBits 0 4) 3
  (d, if d.lastReason ≠ 0 then q.no mbFailed 7 else q.ok [])

/-- A service that Safe does not allow (Table 18-3). -/
def mbNotInSafe (service : Nat) : Bool := decide (service = 5) || decide (service = 8) || decide (service = 12)

/-- A service is carried out (R421 to R423, Table 18-3). `reply` is what a regulator returns to PMBUS; for LOG_READ anything in it is a
flash error. RESET is begun by the path that answers it (R422). (DESIGN CHOICE, log 54) -/
def Chip.mbService (c : Chip) (q : MbReq) (reply : List Nat) : Chip × MbAnswer :=
  if q.service = 0 ∨ 12 < q.service then (c, q.no mbBadOp 0)
  else if c.inSafe && mbNotInSafe q.service then (c, q.no mbInSafe 0)
  else match q.service with
  | 1 => (c, q.ok c.statusRecord)
  | 2 => (c, q.ok c.sensorRecord)
  | 3 => (c, if q.argBits 0 1 = 1 then q.ok [] else q.no mbBadArg 0)
  | 4 => c.mbReadService q
  | 5 => c.mbWriteService q
  | 6 => c.mbGwriteService q
  | 7 => c.mbCstReadService q
  | 8 => c.mbCstWriteService q
  | 9 => (c.exportStart true true, q.ok [])
  | 10 => c.mbLogService q !reply.isEmpty
  | 11 => c.mbPmbusService q reply
  | _ => c.mbPowerService q

/-- A request's bytes are parsed; DLEN beyond the bytes given or the path's limit is a bad argument. -/
def mbParse (bytes : List Nat) (limit : Nat) : MbReq × Bool :=
  let n := leAt bytes 2 2
  ({ service := leAt bytes 0 2, arg := slice bytes 8 8, data := (bytes.drop 16).take n, limit := limit },
   decide (n ≤ limit) && decide (16 + n ≤ bytes.length))

/-- The bytes of a response (Table 18-2). -/
def mbResponse (service : Nat) (a : MbAnswer) : List Nat :=
  leBytes 2 service ++ leBytes 2 a.data.length ++ [a.status, 0] ++ leBytes 2 (if a.status = mbFailed then a.code else 0) ++ a.arg ++ a.data

/-- A request is served: the engine, the response, and whether a warm reset follows it (R422). -/
def Chip.mbServe (c : Chip) (bytes : List Nat) (limit : Nat) (reply : List Nat) : Chip × List Nat × Bool :=
  let p := mbParse bytes limit
  let r := if p.2 then c.mbService p.1 reply
    else (c, p.1.no (if p.1.service = 0 ∨ 12 < p.1.service then mbBadOp else mbBadArg) 0)
  (r.1, mbResponse p.1.service r.2, decide (p.1.service = 3) && decide (r.2.status = mbOk))

/-! ### The host path (R420) -/

/-- The request in `STW_MB_REQ0` to `_REQ63`. -/
def Chip.mbHostReq (c : Chip) : List Nat := wordBytes ((run (R.STW_MB_REQ 0) 64).map c.rn)

/-- The response is written into `STW_MB_RSP0` on, GO clears and DONE sets. -/
def Chip.mbHostPost (c : Chip) (resp : List Nat) : Chip :=
  let c1 := ((leWords resp).zipIdx).foldl (fun c x => c.setN (R.STW_MB_RSP x.2) x.1) c
  ((c1.setFlag R.STW_MB_CTRL F.STW_MB_CTRL_GO false).setFlag R.STW_MB_CTRL F.STW_MB_CTRL_DONE true).raise Ev.mbDone

/-- The host request is served. -/
def Chip.mbHostServe (c : Chip) (reply : List Nat) : Chip :=
  let r := c.mbServe c.mbHostReq 240 reply
  let c1 := r.1.mbHostPost r.2.1
  if r.2.2 then { c1 with stw := { c1.stw with resetAt := some c1.epc.line } } else c1

/-- MAILBOX_RESET_FIRE (R422): 10 ms after the response was posted, or its frame left. -/
def doMailboxResetFire (c : Chip) : Chip :=
  match c.stw.resetAt with
  | some t => if c.stwUp then { c.waitLine (t + 10000 * micro) with resetReq := true } else c
  | none => c

end Sys2Proof.Machine
end

