-- ==== Sys2Proof/Machine/Mgmt.lean ====
section
/-! DEFINITION. Received Ethernet frames (spec 11, R253, R255), management frames and their operations (R266 to R269), EVENT frames
(R375), and the order in which the Steward serves mailbox requests (R421). -/

namespace Sys2Proof.Machine

/-! ### Frames the Steward sends (R266 to R269) -/

/-- A management frame (Table 11-9) with its authentication code. CHANNEL is not stated for this kind: a free value
(DESIGN CHOICE, log 60). -/
def Chip.mgmtBytes (c : Chip) (flags op tag arg0 arg1 : Nat) (data : List Nat) : List Nat :=
  let m := ortosHeader 4 (80 + data.length) flags c.engineId c.now (c.freeNow.toNat % 65536) (c.rn R.ORT_MGMT_SEQ_TX) ++ leBytes 2 op ++ [0, 0] ++ leBytes 4 tag ++
    leBytes 8 arg0 ++ leBytes 8 arg1 ++ leBytes 4 data.length ++ zeros 4 ++ data
  m ++ c.mac (R.ORT_MGMT_KEY 0) m

/-- A frame of the Steward waits on its port; while the link is down it is discarded (R256). -/
def Chip.mgmtQueue (c : Chip) (port : Nat) (frame : List Nat) (reset : Bool) : Chip :=
  if c.ethUp port then
    let e := c.eth port
    c.setEth port { e with mgmt := e.mgmt ++ [(frame, reset)] }
  else c

/-- A response to a request (R268); `reset`: a RESET service was answered (R422). -/
def Chip.mgmtRespond (c : Chip) (dst : MgmtFrom) (arg0 arg1 : Nat) (data : List Nat) (reset : Bool) : Chip :=
  let c1 := c.addCnt R.ORT_MGMT_SEQ_TX 1
  c1.used.mgmtQueue dst.port (c1.udpFrame dst.port dst.mac dst.ip dst.udp (c1.mgmtBytes 1 dst.op dst.tag arg0 arg1 data)) reset

/-! ### Mailbox requests (R420, R421) -/

/-- ARG0 and ARG1 of the response to MAILBOX, from the STATUS and CODE of the mailbox response it carries; IN_SAFE, which ARG0 does not
know, shows as FAILED (DEDUCED, log 61). -/
def mailboxArgs (resp : List Nat) : Nat × Nat :=
  let s := resp.getD 4 0
  (if s = mbInSafe then 4 else s, leAt resp 6 2)

/-- An Ortos request in service is answered. -/
def Chip.mbOrtosServe (c : Chip) (dst : MgmtFrom) (bytes : List Nat) (reply : List Nat) : Chip :=
  let r := { c with stw := { c.stw with ortReq := none } }.mbServe bytes 8176 reply
  let a := mailboxArgs r.2.1
  (r.1.setFlag R.STW_MB_CTRL F.STW_MB_CTRL_BUSY false).mgmtRespond dst a.1 a.2 r.2.1 r.2.2

/-- MAILBOX_SERVE (R421): the Ortos request in service first, or else the host's. (DESIGN CHOICE, log 54) -/
def doMailboxServe (reply : List Nat) (c : Chip) : Chip :=
  if c.stwUp then
    match c.stw.ortReq with
    | some (dst, bytes) => c.mbOrtosServe dst bytes reply
    | none => if c.flag R.STW_MB_CTRL F.STW_MB_CTRL_GO then c.mbHostServe reply else c
  else c

/-! ### Management operations (Table 11-10) -/

/-- Another management request is being served: a MAILBOX request, or a SLOT_VERIFY whose outcome is awaited (R268). (DESIGN CHOICE, log 55) -/
def Chip.mgmtBusy (c : Chip) : Bool := c.stw.ortReq.isSome || c.nv.verifyFor.isSome

/-- A request of either path is in service, or the host's waits, so that an Ortos MAILBOX request is answered BUSY (R421). -/
def Chip.mbTaken (c : Chip) : Bool := c.mgmtBusy || c.flag R.STW_MB_CTRL F.STW_MB_CTRL_GO

/-- SLOT_WRITE (R412). -/
def Chip.slotWrite (c : Chip) (dst : MgmtFrom) (ofs : Nat) (data : List Nat) : Chip :=
  let r := c.nvWriteReason ofs data.length false
  if r = 0 then (c.nvTake ofs data).mgmtRespond dst 0 0 [] false
  else c.mgmtRespond dst (if r = 0xd0 ∨ r = 0xd6 then 1 else 3) 0 [] false

/-- MAILBOX: the request goes into service, or is answered BUSY. -/
def Chip.slotMailbox (c : Chip) (dst : MgmtFrom) (data : List Nat) : Chip :=
  if data.length < 16 then c.mgmtRespond dst 3 0 [] false
  else if c.mbTaken then
    c.mgmtRespond dst 1 0 (mbResponse (leAt data 0 2) { status := mbBusy, arg := slice data 8 8 }) false
  else { c with stw := { c.stw with ortReq := some (dst, data) } }.setFlag R.STW_MB_CTRL F.STW_MB_CTRL_BUSY true

/-- An operation of an accepted request. (DESIGN CHOICE, log 55) -/
def Chip.mgmtOp (c : Chip) (dst : MgmtFrom) (arg0 : Nat) (data : List Nat) : Chip :=
  let bare := fun (f : Chip → Chip) => if data.isEmpty then f c else c.mgmtRespond dst 3 0 [] false
  if c.mgmtBusy then
    (if dst.op = 0x20 ∧ 16 ≤ data.length then c.slotMailbox dst data else c.mgmtRespond dst 1 0 [] false)
  else if dst.op = 1 then bare (fun c => c.mgmtRespond dst 0 0 c.statusRecord false)
  else if dst.op = 0x10 then c.slotWrite dst arg0 data
  else if dst.op = 0x11 then bare (fun c => if c.nvBusy then c.mgmtRespond dst 1 0 [] false else c.nvVerifyStart (some dst))
  else if dst.op = 0x12 then
    bare (fun c => if c.bctl.verified c.inactive then c.nvPendingNow.mgmtRespond dst 0 0 [] false else c.mgmtRespond dst 4 0xd3 [] false)
  else if dst.op = 0x20 then c.slotMailbox dst data
  else c.mgmtRespond dst 2 0 [] false

/-- NV_VERIFY_DONE (R412): the verification ends; an Ortos request that asked for it is answered. -/
def doNvVerifyDone (flashOk vendorOk : Bool) (fwVersion : Nat) (c : Chip) : Chip :=
  if c.nv.verifying && c.stwUp then
    let r := c.nvVerified flashOk vendorOk fwVersion
    match c.nv.verifyFor with
    | none => r.1
    | some dst => r.1.mgmtRespond dst (if r.2 = 0 then 0 else 4) r.2 [] false
  else c

/-! ### Received management frames (R267) -/

/-- The code of Table 6-8 a management frame fails with before the duplicate test, or 0: `f` is the UDP payload. -/
def Chip.mgmtEarly (c : Chip) (f : List Nat) : Nat :=
  let len := leAt f 4 2
  let n := leAt f 56 4
  firstReason [
    (decide (leAt f 0 2 ≠ 0x7a0d) || decide (leAt f 2 1 ≠ 1) || decide (8192 < n) || decide (len ≠ 80 + n) || decide (len ≠ f.length) ||
      bit (leAt f 6 2) 0, 1),
    (!c.flag R.ORT_MGMT_CTRL F.ORT_MGMT_CTRL_EN || decide (leAt f 8 8 ≠ c.pair 32 R.ORT_MGMT_ID_L), 2),
    (decide (c.mac (R.ORT_MGMT_KEY 0) (slice f 0 (len - 16)) ≠ slice f (len - 16) 16), 3),
    (c.noEpoch, 4)]

/-- The same after it. -/
def Chip.mgmtLate (c : Chip) (f : List Nat) : Nat :=
  firstReason [
    (orderFails (bit c.ort.lsValid 16) (c.triple R.ORT_MGMT_LAST_L) (c.rn R.ORT_MGMT_SEQ_RX) (leAt f 16 10) (leAt f 28 4), 5),
    (c.stale (leAt f 16 10), 6)]

/-- A copy of the last accepted request (R157). -/
def Chip.mgmtDup (c : Chip) (f : List Nat) : Bool :=
  bit c.ort.lsValid 16 && decide (leAt f 16 10 = c.triple R.ORT_MGMT_LAST_L) && decide (leAt f 28 4 = c.rn R.ORT_MGMT_SEQ_RX)

/-- A rejected request. -/
def Chip.mgmtReject (c : Chip) (f : List Nat) (reason : Nat) : Chip :=
  (((c.addCnt R.ORT_MGMT_RX_REJ 1).setFld R.ORT_MGMT_REJ_LAST F.ORT_MGMT_REJ_LAST_REASON reason).raiseTyped Ev.mgmtReject).peerReject f
    reason 0x10

/-- An accepted request sets Ls and Lq, may wake the engine from Breeze (Table 19-6), and is carried out by the Steward. -/
def Chip.mgmtAccept (c : Chip) (port : Nat) (mac : List Nat) (ip udp : Nat) (f : List Nat) : Chip :=
  let c1 := ((c.setTriple R.ORT_MGMT_LAST_L (leAt f 16 10)).setN R.ORT_MGMT_SEQ_RX (leAt f 28 4)).addCnt R.ORT_MGMT_RX_OK 1
  let c2 := { c1 with ort := { c1.ort with lsValid := maskSet c1.ort.lsValid 16 } }.wakeCause 4 0
  if c2.stwUp then c2.mgmtOp ⟨port, mac, ip, udp, leAt f 32 2, leAt f 36 4⟩ (leAt f 40 8) (slice f 64 (leAt f 56 4)) else c2

/-- MGMT_REQUEST (R267): checks in the order of Table 6-8. -/
def Chip.mgmtReceive (c : Chip) (port : Nat) (mac : List Nat) (ip udp : Nat) (f : List Nat) : Chip :=
  let early := c.mgmtEarly f
  if early ≠ 0 then c.mgmtReject f early
  else if c.mgmtDup f then c
  else
    let late := c.mgmtLate f
    if late ≠ 0 then c.mgmtReject f late else c.mgmtAccept port mac ip udp f

/-! ### Received frames (R253, R255) -/

/-- The ARP reply to a request for the port's address, or none. -/
def Chip.arpReply (c : Chip) (n : Nat) (body : List Nat) : Option (List Nat) :=
  if decide (28 ≤ body.length) && decide (slice body 0 8 = [0, 1, 8, 0, 6, 4, 0, 1]) && decide (beAt body 24 4 = c.rn (R.ETH_IP n)) then
    some (c.linkFrame n (slice body 8 6) 0x0806
      ([0, 1, 8, 0, 6, 4, 0, 2] ++ c.ethMac n ++ beBytes 4 (c.rn (R.ETH_IP n)) ++ slice body 8 10))
  else none

/-- A notice frame passes checks 1 to 3 of Table 6-8 (Table 19-6). -/
def Chip.noticeGenuine (c : Chip) (f : List Nat) : Bool :=
  c.flag R.ORT_CTRL F.ORT_CTRL_NTC_RX_EN && decide (leAt f 0 2 = 0x7a0d) && decide (leAt f 2 1 = 1) && decide (leAt f 4 2 = 96) &&
    decide (f.length = 96) &&
    (match c.peerSlot (leAt f 8 8) with
     | none => false
     | some i => decide (c.mac (R.ORT_PS_KEY i 0) (slice f 0 80) = slice f 80 16))

/-- A received notice; one that is genuine may wake the engine from Breeze (R441). -/
def Chip.noticeArrive (c : Chip) (f : List Nat) : Chip :=
  let c1 := c.noticeReceive f
  if c.noticeGenuine f then c1.wakeCause 3 0 else c1

/-- A frame that passes every check goes by its type and KIND. -/
def Chip.rxDispatch (c : Chip) (n : Nat) (r : RxFrame) : Chip :=
  if r.etype = 0x0806 then
    match c.arpReply n r.body with
    | some f => c.setEth n { c.eth n with arp := (c.eth n).arp ++ [f] }
    | none => c
  else
    let f := udpPayload r.body
    let kind := f.getD 3 0
    if kind = 2 then c.noticeArrive f
    else if kind = 3 then c.ctlReceive n f
    else c.mgmtReceive n r.src (beAt r.body 12 4) (beAt r.body 20 2) f

/-- ETH_FRAME_RECEIVED (R253): `frame` with its FCS; `fecOk`: the FEC has corrected what it must. PAUSE frames are discarded without effect (R252). (DEDUCED, log 44) -/
def doEthFrameReceived (n : Nat) (frame : List Nat) (fecOk : Bool) (c : Chip) : Chip :=
  if c.ethUp n && c.portsOn && !c.rxPause n frame fecOk then
    let c0 := if fecOk then c else c.addCnt (R.ETH_FEC_UNCORR n) 1
    let reason := c0.rxReason n frame fecOk
    if reason ≠ 0 then (c0.addCnt (R.ETH_RX_DROP n) 1).setFld (R.ETH_RX_DROP_LAST n) F.ETH_RX_DROP_LAST_REASON reason
    else (c0.addCnt (R.ETH_RX_OK n) 1).rxDispatch n (rxParse (c.flag (R.ETH_CTRL n) F.ETH_CTRL_VLAN_EN) (rxBody frame))
  else c

/-! ### EVENT frames (R375, R269) -/

/-- Lines mapped to EVENT frames. -/
def Chip.ortMap (c : Chip) : Nat := c.rn R.EVT_ORT_MAP_L + 2 ^ 32 * c.rn R.EVT_ORT_MAP_H

/-- HOLDOFF in force, in µs. -/
def Chip.eventHoldoff (c : Chip) : Nat := max 1 (c.fld R.EVT_ORT_CFG F.EVT_ORT_CFG_HOLDOFF)

/-- EVENT frames may be sent: enabled, by a Steward that works, on ports that are clocked. -/
def Chip.eventOn (c : Chip) : Bool := c.flag R.ORT_MGMT_CTRL F.ORT_MGMT_CTRL_EN && c.stwUp && c.portsOn

/-- The report of Table 16-2. -/
def Chip.eventData (c : Chip) : List Nat :=
  leBytes 8 c.activeLines ++ leBytes 8 c.evt.risen ++ leBytes 10 c.now ++ leBytes 4 (c.rn R.SCV_REC_NO) ++ [0, 0] ++
    (run (R.EVT_STAT 0) 64).flatMap (fun a => leBytes 4 (c.rn a))

/-- An EVENT frame is formed; lines risen start anew. (DESIGN CHOICE, log 55) -/
def Chip.eventSend (c : Chip) : Chip :=
  let c1 := c.addCnt R.ORT_MGMT_SEQ_TX 1
  let port := c.fld R.ORT_MGMT_CTRL F.ORT_MGMT_CTRL_PORT
  let frame := c1.udpFrame port (beBytes 6 (c1.pair 16 R.ORT_MGMT_NH_L)) (c1.rn R.ORT_MGMT_IP) (c1.fld R.ORT_MGMT_UDP F.ORT_MGMT_UDP_UDP)
    (c1.mgmtBytes 0 0x40 0 0 0 c1.eventData)
  { c1.used with evt := { c1.evt with risen := 0, frameDue := false, lastFrame := some c1.epc.line } }.mgmtQueue port frame false

/-- Time passes until the spacing after the last EVENT frame is over. -/
def Chip.eventWait (c : Chip) (us : Nat) : Chip :=
  match c.evt.lastFrame with
  | some t => c.waitLine (t + us * micro)
  | none => c

/-- EVENT_FRAME_SEND (R375): a rise of a mapped line waits for its frame; the holdoff passes first. -/
def doEventFrameSend (c : Chip) : Chip :=
  if c.eventOn && c.evt.frameDue then (c.eventWait c.eventHoldoff).eventSend else c

/-- EVENT_FRAME_REPEAT (R375): the repeat period expires while a mapped line is active. -/
def doEventFrameRepeat (c : Chip) : Chip :=
  let n := c.fld R.EVT_ORT_CFG F.EVT_ORT_CFG_REPEAT
  if c.eventOn && decide (n ≠ 0) && decide (c.activeLines &&& c.ortMap ≠ 0) then
    (c.eventWait (max (1000 * n) c.eventHoldoff)).eventSend
  else c

end Sys2Proof.Machine
end

