-- ==== Sys2Proof/WellFormed.lean ====
section
/-! DEFINITION. Which operands name something the engine has: indices within the unit counts of spec 00_scope.md and
01_architecture.md, BAR0 offsets within the window. A command outside these ranges names nothing and has no effect. -/

namespace Sys2Proof

/-- A byte list: every element below 256. -/
def bytesWf (l : List Nat) : Bool := l.all (fun b => decide (b < 256))

/-- A BAR0 offset (a 16 MiB window, the guard mirror in its upper half: R350). -/
def addrWf (a : Nat) : Bool := decide (a < 16777216)

/-- An aligned BAR0 offset. -/
def regWf (a : Nat) : Bool := addrWf a && decide (a % 4 = 0)

/-- Voltage changes in the order of their places, from place `x` on, on the 32 channels of a group. -/
def waveWf (x : Int) : List VoltStep → Bool
  | [] => true
  | e :: rest => decide (x ≤ e.tap) && decide (e.ch < 32) && waveWf e.tap rest

/-- Times that rise, from `x` on. -/
def risingWf (x : Nat) : List Nat → Bool
  | [] => true
  | t :: rest => decide (x ≤ t) && risingWf (t + 1) rest

/-- An initiator of register reads and writes: the schedule engine reaches registers by commands only (Table 15-1). -/
def regInit (i : Init) : Bool := decide (i ≠ .sched)

/-- Lanes in error, each with the interleaves that meet the error in it (R298). -/
def lanesWf (l : List (Nat × Nat)) : Bool := l.all (fun e => decide (e.1 < 20) && decide (e.2 < 16))

/-- What a slot of the fitted flash holds: bytes, of a device of 512 Mbit to 2 Gbit (R395). -/
def slotWf (f : Machine.FlashSlot) : Bool :=
  bytesWf f.bytes && decide (f.fwVersion < 4294967296) && decide (67108864 ≤ f.flashBytes) && decide (f.flashBytes ≤ 268435456)

/-- What the fitted flash holds: one device's two slots, and bytes. -/
def fitWf (f : Machine.FlashFit) : Bool :=
  slotWf f.slotA && slotWf f.slotB && decide (f.slotA.flashBytes = f.slotB.flashBytes) && bytesWf f.ctl0 && bytesWf f.ctl1

/-- The operands of a command lie in the ranges the hardware has. (DESIGN CHOICE, log 30) -/
def Instr.wf : Instr → Bool
  | .pornAssert => true
  | .pornRelease fitted => (fitted.map fitWf).getD true
  | .warmReset => true
  | .imageVerifyDone _ => true
  | .railUp k status => decide (k < 6) && decide (status < 65536)
  | .railTimeout k => decide (k < 6)
  | .dramTrainingDone dimms _ => decide (dimms.length ≤ 8) && dimms.all (fun d => decide (d.density < 3))
  | .marchTestDone _ _ => true
  | .imgWrite addr vals => regWf addr && regWf (addr + 4 * vals.length)
  | .imgGwrite addr _ => regWf addr
  | .imgFence => true
  | .imgFill waddr count _ _ => decide (waddr < 4194304) && decide (count ≤ 4194304)
  | .imgBlob kind target ofs _ => decide (kind < 256) && decide (target < 256) && decide (ofs < 4294967296)
  | .imgWait addr _ _ _ => addrWf addr
  | .imgWaitMet => true
  | .startWaitTimeout => true
  | .imgSched index words => decide (index < 256) && decide (words.length ≤ 8)
  | .imgEnd => true
  | .startFailReset => true
  | .trialConfirmTimeout => true
  | .bar0UnalignedAccess i _ addr _ _ => regInit i && addrWf addr
  | .registerWrite i addr _ => regInit i && regWf addr
  | .woWrite i addr _ => regInit i && regWf addr
  | .stampTripleRead i addr => regInit i && regWf addr
  | .stampTripleWrite i addr _ => regInit i && regWf addr
  | .counterValueWrite i addr _ => regInit i && regWf addr
  | .statusRegisterRead i n => regInit i && decide (n < 64)
  | .statusClear i n _ => regInit i && decide (n < 64)
  | .msixVectorUnmask v => decide (v < 64)
  | .guardFirstWrite i addr _ => regInit i && regWf addr
  | .guardMirrorWrite i addr _ => regInit i && regWf addr
  | .guardTimeout i => regInit i
  | .fence i => regInit i
  | .fenceRead i => regInit i
  | .registerAudit upsets => upsets.all (fun u => regWf u.1)
  | .epochWord _ edges => decide (edges.length ≤ 192) && risingWf 0 edges
  | .irigFrame _ high => decide (high.length ≤ 100)
  | .ppsEdge _ age _ => decide (age < 2 ^ 64)
  | .epochHoldover => true
  | .srcChange i _ => regInit i
  | .leapSecond => true
  | .stepApply => true
  | .slewComplete => true
  | .scheduleFire i => decide (i < 256)
  | .schLoad _ _ idx => decide (idx < 256)
  | .scheduleEnable i _ => regInit i
  | .scheduleWake i => decide (i < 256)
  | .sampleDelivered g wave age => decide (g < 8) && decide (age < 2 ^ 64) && waveWf 0 wave
  | .cqEdgeAccepted g pin _ levels wave age =>
    decide (g < 8) && decide (pin < 16) && decide (levels < 65536) && decide (age < 2 ^ 64) && waveWf (-1024) wave
  | .overrunGapEnd g => decide (g < 8)
  | .detcapRearm i n _ => regInit i && decide (n < 8)
  | .analogSettingWrite i addr _ => regInit i && regWf addr
  | .lgApply _ n => decide (n < 8)
  | .lgCal _ n => decide (n < 8)
  | .calEnd n edges => decide (n < 8) && decide (edges.length ≤ 32)
  | .trsApply _ => true
  | .sampleEvaluated sq _ _ _ _ => decide (sq < 16)
  | .xtLineExpire n => decide (n < 32)
  | .trigPulseEnd n => decide (n < 32)
  | .postSpanEnd sq => decide (sq < 16)
  | .seqHoldInstant => true
  | .holdCmd _ p => decide (p < 16)
  | .noticeHoldInstant => true
  | .noticeRepeat => true
  | .arm _ p => decide (p < 16)
  | .disarm _ p => decide (p < 16)
  | .prtMark _ p code => decide (p < 16) && decide (code < 256)
  | .free _ p slot => decide (p < 16) && decide (slot < 128)
  | .autoFree p => decide (p < 16)
  | .codecBlockStart n => decide (n < 8)
  | .codecBlockDone n _ => decide (n < 8)
  | .fulInject _ n => decide (n < 8)
  | .blockAllocate g => decide (g < 8)
  | .segmentCommit p slot => decide (p < 16) && decide (slot < 256)
  | .segmentPushRetry p => decide (p < 16)
  | .carPush _ q _ => decide (q < 8)
  | .carPop _ q => decide (q < 8)
  | .carRelease _ q handle => decide (q < 8) && decide (handle < 4294967296)
  | .carMark _ q => decide (q < 8)
  | .carRewind _ q => decide (q < 8)
  | .carApply _ => true
  | .queueStall q => decide (q < 8)
  | .dmaStart _ => true
  | .dmaStop _ => true
  | .dmaDescriptorPop bufs => bufs.all (fun b => decide (b.1 < 2 ^ 64) && decide (b.2 < 2 ^ 32))
  | .dmaStreamComplete => true
  | .dmaBufferPost i _ _ => regInit i
  | .dmaCompletionFree i _ => regInit i
  | .pcieConventionalReset => true
  | .pcieLink speed width _ => decide (speed < 8) && decide (width ≤ 16)
  | .ethFrameReceived port frame _ => decide (port < 4) && bytesWf frame
  | .ethFrameTransmit port => decide (port < 4)
  | .ethLink port _ => decide (port < 4)
  | .strStart _ n => decide (n < 4)
  | .strStop _ n => decide (n < 4)
  | .streamerPop n => decide (n < 4)
  | .streamerTimeout n => decide (n < 4)
  | .eventFrameSend => true
  | .eventFrameRepeat => true
  | .clkApply _ => true
  | .clkStep _ => true
  | .stepDone => true
  | .ckoApply _ => true
  | .ckoPhaseWrite i m _ => regInit i && decide (m < 8)
  | .synLocked _ ga oa => decide (ga < 256) && decide (oa < 256)
  | .refLoss cause _ => decide (cause < 8)
  | .synUnlock aligner _ => decide (aligner.getD 0 < 16)
  | .refReturn _ => true
  | .coastMaxExpire => true
  | .mcSrEnter _ => true
  | .mcSrExit _ => true
  | .srCommitPoint => true
  | .srResidencyEnd => true
  | .srExitDone => true
  | .mcTrain _ ch => decide (ch < 256)
  | .mcSweep _ n => decide (n < 8)
  | .trnDone n reads => decide (n < 8) && reads.all (fun r => decide (r.bits < 2 ^ 1280))
  | .readoutAdmit req _ addr _ => decide (req < 16) && decide (addr < 2 ^ 48)
  | .dramCommand ch => decide (ch < 8)
  | .dramReadReturn ch addr req source errs =>
    decide (ch < 8) && decide (addr < 2 ^ 40) && decide (req < 16) && decide (source < 3) && lanesWf errs
  | .refreshDue ch rank => decide (ch < 8) && decide (rank < 2)
  | .dramTempPoll ch _ mr4 => decide (ch < 8) && bytesWf mr4
  | .patrolScrubRead ch errs => decide (ch < 8) && lanesWf errs
  | .dqsDriftCorrect ch dir => decide (ch < 8) && decide (-1 ≤ dir) && decide (dir ≤ 1)
  | .bar2Write ofs dws => decide (ofs < 134217728) && decide (ofs % 4 = 0) && decide (dws.length ≤ 128)
  | .bar2Read ofs dws => decide (ofs < 134217728) && decide (ofs % 4 = 0) && decide (dws.length ≤ 1024)
  | .cstBankAccess bank accs => decide (bank < 64) && accs.all (fun x => decide (x.master < 20) && decide (x.word < 4194304) &&
      decide (x.kind < 4) && decide (x.mask < 256) && decide (x.upset < 2 ^ 72))
  | .cstScrub bank upset => decide (bank < 64) && decide (upset < 2 ^ 72)
  | .evtRaise => true
  | .scrivenerWrite bad => (bad.getD 0) < 32768
  | .scvExport _ => true
  | .scvExported bad => match bad with
    | none => true
    | some b => decide (b.2 < 32768)
  | .scvThaw _ => true
  | .scvLoad _ _ list => decide (list < 64)
  | .lwClear _ => true
  | .scvWindowRead i _ _ => regInit i
  | .nvProgram _ => true
  | .nvVerify _ => true
  | .nvVerifyDone _ _ fwVersion => decide (fwVersion < 4294967296)
  | .nvPending _ => true
  | .nvConfirm _ => true
  | .mailboxGo i _ => regInit i
  | .mailboxServe reply => bytesWf reply
  | .mailboxResetFire => true
  | .lockstepFault => true
  | .stwSramError _ => true
  | .watchdogExpire => true
  | .autoReset => true
  | .autoCntClear => true
  | .aonClear _ => true
  | .dieSensorPoll temps => decide (temps.length ≤ 16)
  | .hwThermalTrip s _ => decide (s < 16)
  | .railMonitorPoll mv => decide (mv.length ≤ 16)
  | .pmbusPoll k status => decide (k < 16) && decide (status < 65536)
  | .pwrGo _ target => decide (target < 8)
  | .powerStepDone => true
  | .pwrWake src => decide (src < 8)
  | .powerExitDone => true
  | .pcieConfigWrite _ _ _ _ => true
  | .refreshWindowStart ch => decide (ch < 8)
  | .ckoPpsPulseStart m => decide (m < 8)
  | .ckoPpsPulseEnd m => decide (m < 8)
  | .nvEraseDone => true
  | .nvBufferDrain n => decide (n ≤ 4294967296)

end Sys2Proof
end

