-- ==== Sys2Proof/Machine/Act.lean ====
section
/-! DEFINITION. The commands: what every command does around its own effect (the ladder's gates, expired guarded pairs, fatal conditions
and warm resets it leads to, notice lines and MSI-X messages, the cycle it takes), and the 164 commands of the table, one definition each. -/

namespace Sys2Proof.Machine

/-! ### What a command acts on (Table 19-2) -/

/-- The parts of the engine that the ladder powers apart. -/
inductive Need where
  /-- The `PORN` pin: acts in reset too. -/
  | always
  /-- The always-on domain, wake and exit logic: acts in every ladder state. -/
  | aon
  /-- The Steward and the epoch keeper: not in Still. -/
  | steward
  /-- The control fabric: not in Calm or Still. -/
  | fabric
  /-- The data fabric: in Gale, on the way out of it, and in Safe. -/
  | data
  deriving DecidableEq, Repr


/-- The part of the engine a command acts on (Table 19-2). (DESIGN CHOICE, log 11; DEDUCED, log 14) -/
def needOf (i : Instr) : Need :=
  match i with
  | .pornAssert => .always
  | .pornRelease _ => .always
  | .warmReset => .aon
  | .imageVerifyDone _ => .fabric
  | .railUp _ _ => .fabric
  | .railTimeout _ => .fabric
  | .dramTrainingDone _ _ => .fabric
  | .marchTestDone _ _ => .fabric
  | .imgWrite _ _ => .fabric
  | .imgGwrite _ _ => .fabric
  | .imgFence => .fabric
  | .imgFill _ _ _ _ => .fabric
  | .imgBlob _ _ _ _ => .fabric
  | .imgWait _ _ _ _ => .fabric
  | .imgWaitMet => .fabric
  | .startWaitTimeout => .fabric
  | .imgSched _ _ => .fabric
  | .imgEnd => .fabric
  | .startFailReset => .steward
  | .trialConfirmTimeout => .steward
  | .bar0UnalignedAccess _ _ _ _ _ => .fabric
  | .registerWrite _ _ _ => .fabric
  | .woWrite _ _ _ => .fabric
  | .stampTripleRead _ _ => .fabric
  | .stampTripleWrite _ _ _ => .fabric
  | .counterValueWrite _ _ _ => .fabric
  | .statusRegisterRead _ _ => .fabric
  | .statusClear _ _ _ => .fabric
  | .msixVectorUnmask _ => .fabric
  | .guardFirstWrite _ _ _ => .fabric
  | .guardMirrorWrite _ _ _ => .fabric
  | .guardTimeout _ => .fabric
  | .fence _ => .fabric
  | .fenceRead _ => .fabric
  | .registerAudit _ => .fabric
  | .epochWord _ _ => .steward
  | .irigFrame _ _ => .steward
  | .ppsEdge _ _ _ => .aon
  | .epochHoldover => .steward
  | .srcChange _ _ => .fabric
  | .leapSecond => .steward
  | .stepApply => .steward
  | .slewComplete => .steward
  | .scheduleFire _ => .fabric
  | .schLoad _ _ _ => .fabric
  | .scheduleEnable _ _ => .fabric
  | .scheduleWake _ => .aon
  | .sampleDelivered _ _ _ => .data
  | .cqEdgeAccepted _ _ _ _ _ _ => .data
  | .overrunGapEnd _ => .data
  | .detcapRearm _ _ _ => .fabric
  | .analogSettingWrite _ _ _ => .fabric
  | .lgApply _ _ => .fabric
  | .lgCal _ _ => .fabric
  | .calEnd _ _ => .data
  | .trsApply _ => .fabric
  | .sampleEvaluated _ _ _ _ _ => .data
  | .xtLineExpire _ => .fabric
  | .trigPulseEnd _ => .fabric
  | .postSpanEnd _ => .data
  | .seqHoldInstant => .fabric
  | .holdCmd _ _ => .fabric
  | .noticeHoldInstant => .fabric
  | .noticeRepeat => .fabric
  | .arm _ _ => .fabric
  | .disarm _ _ => .fabric
  | .prtMark _ _ _ => .fabric
  | .free _ _ _ => .fabric
  | .autoFree _ => .fabric
  | .codecBlockStart _ => .data
  | .codecBlockDone _ _ => .data
  | .fulInject _ _ => .fabric
  | .blockAllocate _ => .data
  | .segmentCommit _ _ => .fabric
  | .segmentPushRetry _ => .fabric
  | .carPush _ _ _ => .fabric
  | .carPop _ _ => .fabric
  | .carRelease _ _ _ => .fabric
  | .carMark _ _ => .fabric
  | .carRewind _ _ => .fabric
  | .carApply _ => .fabric
  | .queueStall _ => .fabric
  | .dmaStart _ => .fabric
  | .dmaStop _ => .fabric
  | .dmaDescriptorPop _ => .fabric
  | .dmaStreamComplete => .fabric
  | .dmaBufferPost _ _ _ => .fabric
  | .dmaCompletionFree _ _ => .fabric
  | .pcieConventionalReset => .aon
  | .pcieLink _ _ _ => .aon
  | .ethFrameReceived _ _ _ => .fabric
  | .ethFrameTransmit _ => .fabric
  | .ethLink _ _ => .fabric
  | .strStart _ _ => .fabric
  | .strStop _ _ => .fabric
  | .streamerPop _ => .fabric
  | .streamerTimeout _ => .fabric
  | .eventFrameSend => .fabric
  | .eventFrameRepeat => .fabric
  | .clkApply _ => .fabric
  | .clkStep _ => .fabric
  | .stepDone => .fabric
  | .ckoApply _ => .fabric
  | .ckoPhaseWrite _ _ _ => .fabric
  | .synLocked _ _ _ => .aon
  | .refLoss _ _ => .fabric
  | .synUnlock _ _ => .fabric
  | .refReturn _ => .fabric
  | .coastMaxExpire => .fabric
  | .mcSrEnter _ => .fabric
  | .mcSrExit _ => .fabric
  | .srCommitPoint => .fabric
  | .srResidencyEnd => .aon
  | .srExitDone => .aon
  | .mcTrain _ _ => .fabric
  | .mcSweep _ _ => .fabric
  | .trnDone _ _ => .fabric
  | .readoutAdmit _ _ _ _ => .fabric
  | .dramCommand _ => .fabric
  | .dramReadReturn _ _ _ _ _ => .fabric
  | .refreshDue _ _ => .fabric
  | .dramTempPoll _ _ _ => .fabric
  | .patrolScrubRead _ _ => .fabric
  | .dqsDriftCorrect _ _ => .fabric
  | .bar2Write _ _ => .fabric
  | .bar2Read _ _ => .fabric
  | .cstBankAccess _ _ => .fabric
  | .cstScrub _ _ => .fabric
  | .evtRaise => .fabric
  | .scrivenerWrite _ => .steward
  | .scvExport _ => .fabric
  | .scvExported _ => .steward
  | .scvThaw _ => .fabric
  | .scvLoad _ _ _ => .fabric
  | .lwClear _ => .fabric
  | .scvWindowRead _ _ _ => .fabric
  | .nvProgram _ => .fabric
  | .nvVerify _ => .fabric
  | .nvVerifyDone _ _ _ => .steward
  | .nvPending _ => .fabric
  | .nvConfirm _ => .fabric
  | .mailboxGo _ _ => .fabric
  | .mailboxServe _ => .fabric
  | .mailboxResetFire => .steward
  | .lockstepFault => .steward
  | .stwSramError _ => .steward
  | .watchdogExpire => .steward
  | .autoReset => .steward
  | .autoCntClear => .steward
  | .aonClear _ => .fabric
  | .dieSensorPoll _ => .steward
  | .hwThermalTrip _ _ => .aon
  | .railMonitorPoll _ => .steward
  | .pmbusPoll _ _ => .steward
  | .pwrGo _ _ => .fabric
  | .powerStepDone => .aon
  | .pwrWake _ => .aon
  | .powerExitDone => .aon
  | .pcieConfigWrite _ _ _ _ => .fabric
  | .refreshWindowStart _ => .fabric
  | .ckoPpsPulseStart _ => .fabric
  | .ckoPpsPulseEnd _ => .fabric
  | .nvEraseDone => .steward
  | .nvBufferDrain _ => .steward

/-- The command is an access of the host over PCI Express (R441). -/
def byHost (i : Instr) : Bool :=
  match i with
  | .pornAssert => false
  | .pornRelease _ => false
  | .warmReset => false
  | .imageVerifyDone _ => false
  | .railUp _ _ => false
  | .railTimeout _ => false
  | .dramTrainingDone _ _ => false
  | .marchTestDone _ _ => false
  | .imgWrite _ _ => false
  | .imgGwrite _ _ => false
  | .imgFence => false
  | .imgFill _ _ _ _ => false
  | .imgBlob _ _ _ _ => false
  | .imgWait _ _ _ _ => false
  | .imgWaitMet => false
  | .startWaitTimeout => false
  | .imgSched _ _ => false
  | .imgEnd => false
  | .startFailReset => false
  | .trialConfirmTimeout => false
  | .bar0UnalignedAccess i _ _ _ _ => decide (i = .host)
  | .registerWrite i _ _ => decide (i = .host)
  | .woWrite i _ _ => decide (i = .host)
  | .stampTripleRead i _ => decide (i = .host)
  | .stampTripleWrite i _ _ => decide (i = .host)
  | .counterValueWrite i _ _ => decide (i = .host)
  | .statusRegisterRead i _ => decide (i = .host)
  | .statusClear i _ _ => decide (i = .host)
  | .msixVectorUnmask _ => true
  | .guardFirstWrite i _ _ => decide (i = .host)
  | .guardMirrorWrite i _ _ => decide (i = .host)
  | .guardTimeout _ => false
  | .fence i => decide (i = .host)
  | .fenceRead i => decide (i = .host)
  | .registerAudit _ => false
  | .epochWord _ _ => false
  | .irigFrame _ _ => false
  | .ppsEdge _ _ _ => false
  | .epochHoldover => false
  | .srcChange i _ => decide (i = .host)
  | .leapSecond => false
  | .stepApply => false
  | .slewComplete => false
  | .scheduleFire _ => false
  | .schLoad i _ _ => decide (i = .host)
  | .scheduleEnable i _ => decide (i = .host)
  | .scheduleWake _ => false
  | .sampleDelivered _ _ _ => false
  | .cqEdgeAccepted _ _ _ _ _ _ => false
  | .overrunGapEnd _ => false
  | .detcapRearm i _ _ => decide (i = .host)
  | .analogSettingWrite i _ _ => decide (i = .host)
  | .lgApply i _ => decide (i = .host)
  | .lgCal i _ => decide (i = .host)
  | .calEnd _ _ => false
  | .trsApply i => decide (i = .host)
  | .sampleEvaluated _ _ _ _ _ => false
  | .xtLineExpire _ => false
  | .trigPulseEnd _ => false
  | .postSpanEnd _ => false
  | .seqHoldInstant => false
  | .holdCmd i _ => decide (i = .host)
  | .noticeHoldInstant => false
  | .noticeRepeat => false
  | .arm i _ => decide (i = .host)
  | .disarm i _ => decide (i = .host)
  | .prtMark i _ _ => decide (i = .host)
  | .free i _ _ => decide (i = .host)
  | .autoFree _ => false
  | .codecBlockStart _ => false
  | .codecBlockDone _ _ => false
  | .fulInject i _ => decide (i = .host)
  | .blockAllocate _ => false
  | .segmentCommit _ _ => false
  | .segmentPushRetry _ => false
  | .carPush i _ _ => decide (i = .host)
  | .carPop i _ => decide (i = .host)
  | .carRelease i _ _ => decide (i = .host)
  | .carMark i _ => decide (i = .host)
  | .carRewind i _ => decide (i = .host)
  | .carApply i => decide (i = .host)
  | .queueStall _ => false
  | .dmaStart i => decide (i = .host)
  | .dmaStop i => decide (i = .host)
  | .dmaDescriptorPop _ => false
  | .dmaStreamComplete => false
  | .dmaBufferPost i _ _ => decide (i = .host)
  | .dmaCompletionFree i _ => decide (i = .host)
  | .pcieConventionalReset => false
  | .pcieLink _ _ _ => false
  | .ethFrameReceived _ _ _ => false
  | .ethFrameTransmit _ => false
  | .ethLink _ _ => false
  | .strStart i _ => decide (i = .host)
  | .strStop i _ => decide (i = .host)
  | .streamerPop _ => false
  | .streamerTimeout _ => false
  | .eventFrameSend => false
  | .eventFrameRepeat => false
  | .clkApply i => decide (i = .host)
  | .clkStep i => decide (i = .host)
  | .stepDone => false
  | .ckoApply i => decide (i = .host)
  | .ckoPhaseWrite i _ _ => decide (i = .host)
  | .synLocked _ _ _ => false
  | .refLoss _ _ => false
  | .synUnlock _ _ => false
  | .refReturn _ => false
  | .coastMaxExpire => false
  | .mcSrEnter i => decide (i = .host)
  | .mcSrExit i => decide (i = .host)
  | .srCommitPoint => false
  | .srResidencyEnd => false
  | .srExitDone => false
  | .mcTrain i _ => decide (i = .host)
  | .mcSweep i _ => decide (i = .host)
  | .trnDone _ _ => false
  | .readoutAdmit _ _ _ _ => false
  | .dramCommand _ => false
  | .dramReadReturn _ _ _ _ _ => false
  | .refreshDue _ _ => false
  | .dramTempPoll _ _ _ => false
  | .patrolScrubRead _ _ => false
  | .dqsDriftCorrect _ _ => false
  | .bar2Write _ _ => true
  | .bar2Read _ _ => true
  | .cstBankAccess _ _ => false
  | .cstScrub _ _ => false
  | .evtRaise => false
  | .scrivenerWrite _ => false
  | .scvExport i => decide (i = .host)
  | .scvExported _ => false
  | .scvThaw i => decide (i = .host)
  | .scvLoad i _ _ => decide (i = .host)
  | .lwClear i => decide (i = .host)
  | .scvWindowRead i _ _ => decide (i = .host)
  | .nvProgram i => decide (i = .host)
  | .nvVerify i => decide (i = .host)
  | .nvVerifyDone _ _ _ => false
  | .nvPending i => decide (i = .host)
  | .nvConfirm i => decide (i = .host)
  | .mailboxGo i _ => decide (i = .host)
  | .mailboxServe _ => false
  | .mailboxResetFire => false
  | .lockstepFault => false
  | .stwSramError _ => false
  | .watchdogExpire => false
  | .autoReset => false
  | .autoCntClear => false
  | .aonClear i => decide (i = .host)
  | .dieSensorPoll _ => false
  | .hwThermalTrip _ _ => false
  | .railMonitorPoll _ => false
  | .pmbusPoll _ _ => false
  | .pwrGo i _ => decide (i = .host)
  | .powerStepDone => false
  | .pwrWake _ => false
  | .powerExitDone => false
  | .pcieConfigWrite _ _ _ _ => true
  | .refreshWindowStart _ => false
  | .ckoPpsPulseStart _ => false
  | .ckoPpsPulseEnd _ => false
  | .nvEraseDone => false
  | .nvBufferDrain _ => false


/-- The command is a configuration access. -/
def byConfig : Instr → Bool
  | .pcieConfigWrite _ _ _ _ => true
  | _ => false

/-- The registers of the always-on domain that a read reaches in Lull (R441). -/
def aonAddr (a : Nat) : Bool := [R.PWR_STAT, R.SCV_AON, R.SCV_LW_L, R.SCV_LW_L + 4, R.STW_AON].contains a

/-- A register read that the always-on domain answers in Lull without a wake (R441). (DEDUCED, log 15) -/
def aonRead (i : Instr) : Bool :=
  match i with
  | .stampTripleRead _ a => aonAddr a
  | .bar0UnalignedAccess _ write a size _ => !write && (decide (size ≠ 4) || aonAddr a)
  | _ => false

/-- The part a command acts on is powered and clocked (Table 19-2); during an exit the control fabric is. (DEDUCED, log 14) -/
def Chip.admits (c : Chip) (n : Need) : Bool :=
  if c.pins.porn then decide (n = .always)
  else match n with
    | .always => true
    | .aon => true
    | .steward => decide (c.ladder ≠ 4) || c.pwr.up.isSome
    | .fabric => (decide (c.ladder ≠ 3) && decide (c.ladder ≠ 4)) || c.pwr.up.isSome
    | .data => decide (c.ladder = 0) || decide (c.ladder = 5)

/-- An exit runs to its end where nothing more is awaited (R442). (DEDUCED, log 15) -/
def Chip.runExit (c : Chip) : Chip := doPowerExitDone (doSrExitDone (doSrResidencyEnd c))

/-- A host access in Lull is held while the exit runs, unless the always-on domain answers it (R441). (DEDUCED, log 15) -/
def Chip.hostWake (c : Chip) (i : Instr) : Chip :=
  if byHost i && !aonRead i && decide (c.ladder = 2) && !c.pins.porn then (c.wakeCause 1 1).runExit else c

/-- An access that does not reach the engine: in Lull one that meets the link going down (Table 19-5; DEDUCED, log 15), and every one while the
function is in D3hot (Table 11-2; PRESUMED, log 12). -/
def Chip.linkLost (c : Chip) (i : Instr) : Bool :=
  byHost i && ((decide (c.ladder = 2) && c.pwr.down.isSome) || (c.pcie.d3hot && !byConfig i))

/-- The command's own effect, where the part it acts on is powered; a guarded write that has waited too long fails before it (R352).
(DEDUCED, log 14; DESIGN CHOICE, log 16) -/
def Chip.perform (c : Chip) (i : Instr) (f : Chip → Chip) : Chip :=
  let c1 := c.hostWake i
  if c1.admits (needOf i) && !c1.linkLost i then
    (if needOf i = .fabric then f ((c1.guardExpire .host).guardExpire .steward) else f c1)
  else c1

/-! ### Notice lines and MSI-X messages (R371, R372, R375) -/

/-- The Pending Bit Array as a mask (R244). -/
def Chip.pba (c : Chip) : Nat := c.rn R.HIF_MSIX_PBA_L + 2 ^ 32 * c.rn R.HIF_MSIX_PBA_H

/-- Put the Pending Bit Array. -/
def Chip.setPba (c : Chip) (m : Nat) : Chip := (c.setN R.HIF_MSIX_PBA_L (m % 2 ^ 32)).setN R.HIF_MSIX_PBA_H (m / 2 ^ 32 % 2 ^ 32)

/-- The endpoint may send messages: Bus Master Enable and MSI-X enable are set, the function is not masked, the link is up (R372).
(PRESUMED, log 17) -/
def Chip.msixOpen (c : Chip) : Bool := c.pcie.bme && c.pcie.msixEn && !c.pcie.funcMask && c.pcieAwake

/-- A vector is not masked. (PRESUMED, log 17) -/
def Chip.vectorOpen (c : Chip) (v : Nat) : Bool := c.msixOpen && !c.flag (R.HIF_MSIX_CTRL v) F.HIF_MSIX_CTRL_MASK

/-- A message due for vector v: it is sent, or its pending bit is set (R372). (PRESUMED, log 17) -/
def Chip.msixDue (c : Chip) (v : Nat) : Chip := if c.vectorOpen v then c.emit (.msix v) else c.setPba (maskSet c.pba v)

/-- A pending vector that can be sent is sent if its line is still active, and its pending bit clears. (PRESUMED, log 17) -/
def Chip.msixRelease (act : Nat) (c : Chip) (v : Nat) : Chip :=
  if c.vectorOpen v then
    let c1 := c.setPba (maskClear c.pba v)
    if bit act v then c1.emit (.msix v) else c1
  else c

/-- The lines as the command leaves them: rises and rewritten status registers send messages (R372), and a rise of a mapped line calls
for an EVENT frame (R375). -/
def Chip.notice (c : Chip) : Chip :=
  let act := c.activeLines
  let rises := act - (act &&& c.evt.active)
  let c1 := (maskList 64 c.pba).foldl (Chip.msixRelease act) c
  let c2 := (maskList 64 ((rises ||| c.evt.kick) &&& act)).foldl Chip.msixDue c1
  { c2 with evt := { c2.evt with
      active := act
      risen := c2.evt.risen ||| rises
      kick := 0
      frameDue := c2.evt.frameDue || (c2.flag R.ORT_MGMT_CTRL F.ORT_MGMT_CTRL_EN && decide (rises &&& c2.ortMap ≠ 0)) } }

/-! ### Stalled Fuller instances (R195) -/

/-- A complete block waits in staging because both finished output blocks are held. (DEDUCED, log 18) -/
def Chip.fulStalled (c : Chip) (n : Nat) : Bool := decide (2 ≤ (c.lane n).codec.out.length) && !(c.lane n).staged.isEmpty

/-- Cycles passed while the instances of `was` were stalled are counted, and STALL shows which are now. (DEDUCED, log 18) -/
def Chip.stallTally (was : List Nat) (cycles : Nat) (c : Chip) : Chip :=
  let c1 := was.foldl (fun c n => c.addSat (R.FUL_STALL n) cycles) c
  (List.range 8).foldl (fun c n =>
    if c.flag (R.FUL_STAT n) F.FUL_STAT_STALL = c.fulStalled n then c
    else c.setFlag (R.FUL_STAT n) F.FUL_STAT_STALL (c.fulStalled n)) c1

/-- The instances stalled now. (DEDUCED, log 18) -/
def Chip.stalledNow (c : Chip) : List Nat := (List.range 8).filter c.fulStalled

/-- Fabric cycles pass with nothing else happening. (DESIGN CHOICE, log 1) -/
def Chip.idleFor (c : Chip) (n : Nat) : Chip := (c.pass n).stallTally c.stalledNow n

/-! ### One command -/

/-- What a command's effect demands is carried out: Safe entry (R428), then a warm reset (R430). -/
def Chip.settle (c : Chip) : Chip := { c.settleFatal.settleReset with fatal := none, resetReq := false }

/-- What follows a command's effect: what it demands, the notice lines, and the cycle it takes (DESIGN CHOICE, log 1). -/
def Chip.finish (c0 c : Chip) : Chip :=
  let c1 := (c.settle.notice).pass 1
  c1.stallTally c0.stalledNow (c1.cycle - c0.cycle)

/-- The state after a command whose effect has made of the engine `c`. (DESIGN CHOICE, log 1) -/
def State.after (s : State) (c : Chip) : State := { s with chip := s.chip.finish c }

/-- A command whose operands name nothing the engine has takes its cycle and does nothing. (DESIGN CHOICE, log 30) -/
def State.act (s : State) (i : Instr) (f : Chip → Chip) : Host.Outcome State Fault Refusal :=
  .next (if i.wf then s.after (s.chip.perform i f) else { s with chip := s.chip.idleFor 1 })

/-! ### The commands of the table -/

/-- PORN_ASSERT (R404). Power-on reset goes low: the PEN pins and FAULTN are driven low and every Steward-controlled rail falls. -/
def execPornAssert (s : State) : Host.Outcome State Fault Refusal := s.act .pornAssert doPornAssert

/-- PORN_RELEASE (R406). Power-on reset is released and a start begins at the ROM stage. -/
def execPornRelease (fitted : Option FlashFit) (s : State) : Host.Outcome State Fault Refusal :=
  s.act (.pornRelease fitted) (doPornRelease fitted)

/-- WARM_RESET (R460). WRSTN held low for at least 10 µs performs a warm reset, which clears the profile latch and leaves Safe. -/
def execWarmReset (s : State) : Host.Outcome State Fault Refusal := s.act .warmReset doWarmReset

/-- IMAGE_VERIFY_DONE (R403). Verification of the slot ends, and the checks of Table 17-5 pass or fail the start. -/
def execImageVerifyDone (flashOk : Bool) (s : State) : Host.Outcome State Fault Refusal :=
  s.act (.imageVerifyDone flashOk) (doImageVerifyDone flashOk)

/-- RAIL_UP (R405). A PEN-controlled rail is seen within limits (and its PMBus status shows no fault), and the next PEN pin is asserted. -/
def execRailUp (k : Nat) (status : Nat) (s : State) :
    Host.Outcome State Fault Refusal :=
  s.act (.railUp k status) (doRailUp k status)

/-- RAIL_TIMEOUT (R405). A rail misses its timeout and the start fails with START_RAIL. -/
def execRailTimeout (k : Nat) (s : State) : Host.Outcome State Fault Refusal := s.act (.railTimeout k) (doRailTimeout k)

/-- DRAM_TRAINING_DONE (R320). Cached-delay or full DRAM training finishes and the start proceeds, or stops and enters Safe. -/
def execDramTrainingDone (dimms : List DimmFacts) (cacheOk : Bool) (s : State) :
    Host.Outcome State Fault Refusal :=
  s.act (.dramTrainingDone dimms cacheOk) (doDramTrainingDone dimms cacheOk)

/-- MARCH_TEST_DONE (R339). The March C− test completes, the failed-bank mask is written and MARCH_DONE is set. -/
def execMarchTestDone (fail : BitVec 64) (chk : BitVec 64) (s : State) :
    Host.Outcome State Fault Refusal :=
  s.act (.marchTestDone fail chk) (doMarchTestDone fail chk)

/-- IMG_WRITE (R402). A WRITE record writes its values to consecutive BAR0 registers. -/
def execImgWrite (addr : Nat) (vals : List Word) (s : State) :
    Host.Outcome State Fault Refusal :=
  s.act (.imgWrite addr vals) (doImgWrite addr vals)

/-- IMG_GWRITE (R402). A GWRITE record performs a guarded pair to a guarded register. -/
def execImgGwrite (addr : Nat) (val : Word) (s : State) :
    Host.Outcome State Fault Refusal :=
  s.act (.imgGwrite addr val) (doImgGwrite addr val)

/-- IMG_FENCE (R364). A FENCE record holds the next record until every earlier Steward write has taken effect. -/
def execImgFence (s : State) : Host.Outcome State Fault Refusal := s.act .imgFence doImgFence

/-- IMG_FILL (R402). A FILL record writes data words or a repeated pattern into the Common Store, deferred when a bank has failed. -/
def execImgFill (waddr : Nat) (count : Nat) (pattern : Bool) (data : List DWord) (s : State) :
    Host.Outcome State Fault Refusal :=
  s.act (.imgFill waddr count pattern data) (doImgFill waddr count pattern data)

/-- IMG_BLOB (R402). A BLOB record carries firmware bytes or writes a sequencer program block. -/
def execImgBlob (kind : Nat) (target : Nat) (ofs : Nat) (data : List Word) (s : State) :
    Host.Outcome State Fault Refusal :=
  s.act (.imgBlob kind target ofs data) (doImgBlob kind target ofs data)

/-- IMG_WAIT (R402). A WAIT record begins polling a register until a masked value is seen. -/
def execImgWait (addr : Nat) (mask : Word) (val : Word) (timeout : Nat) (s : State) :
    Host.Outcome State Fault Refusal :=
  s.act (.imgWait addr mask val timeout) (doImgWait addr mask val timeout)

/-- IMG_WAIT_MET (R402). A polled WAIT register shows the awaited value and record application continues. -/
def execImgWaitMet (s : State) : Host.Outcome State Fault Refusal := s.act .imgWaitMet doImgWaitMet

/-- START_WAIT_TIMEOUT (R406). A WAIT record reaches its TIMEOUT and the start fails with START_WAIT. -/
def execStartWaitTimeout (s : State) : Host.Outcome State Fault Refusal := s.act .startWaitTimeout doStartWaitTimeout

/-- IMG_SCHED (R402). A SCHED record writes a schedule entry into the Common Store. -/
def execImgSched (index : Nat) (words : List DWord) (s : State) :
    Host.Outcome State Fault Refusal :=
  s.act (.imgSched index words) (doImgSched index words)

/-- IMG_END (R408). The END record runs the segment check, profile latch, lock, loads, audit shadow, fuses and completion of the start. -/
def execImgEnd (s : State) : Host.Outcome State Fault Refusal := s.act .imgEnd doImgEnd

/-- START_FAIL_RESET (R411). After a failed start from PENDING has been exported, the Steward performs a warm reset itself. -/
def execStartFailReset (s : State) : Host.Outcome State Fault Refusal := s.act .startFailReset doStartFailReset

/-- TRIAL_CONFIRM_TIMEOUT (R411). CONFIRM_S seconds after RUN, a trial slot is confirmed as ACTIVE. -/
def execTrialConfirmTimeout (s : State) : Host.Outcome State Fault Refusal := s.act .trialConfirmTimeout doTrialConfirmTimeout

/-- BAR0_UNALIGNED_ACCESS (R9). A BAR0 access that is not an aligned 32-bit access completes with its write dropped or a zero read. -/
def execBar0UnalignedAccess (init : Init) (write : Bool) (addr : Nat) (size : Nat) (val : Word) (s : State) :
    Host.Outcome State Fault Refusal :=
  s.act (.bar0UnalignedAccess init write addr size val) (doBar0UnalignedAccess init write addr size val)

/-- REGISTER_WRITE (R343). A register write with no row of its own acts on each field under that field's access type. -/
def execRegisterWrite (init : Init) (addr : Nat) (val : Word) (s : State) :
    Host.Outcome State Fault Refusal :=
  s.act (.registerWrite init addr val) (fun c => c.busWrite init addr val)

/-- WO_WRITE (R354). A write to a write-once field is taken if it is the first since reset, and otherwise dropped with WO_DROP. -/
def execWoWrite (init : Init) (addr : Nat) (val : Word) (s : State) :
    Host.Outcome State Fault Refusal :=
  s.act (.woWrite init addr val) (fun c => c.busWrite init addr val)

/-- STAMP_TRIPLE_READ (R8). A read of a stamp triple's _L register captures _M and _H for the same initiator. -/
def execStampTripleRead (init : Init) (addr : Nat) (s : State) :
    Host.Outcome State Fault Refusal :=
  s.act (.stampTripleRead init addr) (fun c => c.busRead init addr)

/-- STAMP_TRIPLE_WRITE (R8). A write to a writable triple's _H register applies the whole triple, using that initiator's last _L and _M. -/
def execStampTripleWrite (init : Init) (addr : Nat) (val : Word) (s : State) :
    Host.Outcome State Fault Refusal :=
  s.act (.stampTripleWrite init addr val) (fun c => c.busWrite init addr val)

/-- COUNTER_VALUE_WRITE (R109). A host write of a counter or timer value takes effect at the owner's next evaluation cycle. -/
def execCounterValueWrite (init : Init) (addr : Nat) (val : Word) (s : State) :
    Host.Outcome State Fault Refusal :=
  s.act (.counterValueWrite init addr val) (fun c => c.busWrite init addr val)

/-- STATUS_REGISTER_READ (R348). A read of an SQC status register latches its occurrence count for the reading initiator. -/
def execStatusRegisterRead (init : Init) (n : Nat) (s : State) :
    Host.Outcome State Fault Refusal :=
  s.act (.statusRegisterRead init n) (fun c => c.busRead init (R.EVT_STAT n))

/-- STATUS_CLEAR (R348). A write to an SQC register clears the masked bits when its SEQ and the latched count match. -/
def execStatusClear (init : Init) (n : Nat) (val : Word) (s : State) :
    Host.Outcome State Fault Refusal :=
  s.act (.statusClear init n val) (fun c => c.busWrite init (R.EVT_STAT n) val)

/-- MSIX_VECTOR_UNMASK (R372). Unmasking an MSI-X vector issues a pending message if its line is still active. -/
def execMsixVectorUnmask (v : Nat) (s : State) :
    Host.Outcome State Fault Refusal :=
  s.act (.msixVectorUnmask v) (fun c => c.busWrite .host (R.HIF_MSIX_CTRL v) 0)

/-- GUARD_FIRST_WRITE (R350). The first write of a guarded pair is held pending and not applied. -/
def execGuardFirstWrite (init : Init) (addr : Nat) (val : Word) (s : State) :
    Host.Outcome State Fault Refusal :=
  s.act (.guardFirstWrite init addr val) (fun c => c.busWrite init addr val)

/-- GUARD_MIRROR_WRITE (R350). A write to the guard mirror completes a pending pair and applies its value, or fails the pair. -/
def execGuardMirrorWrite (init : Init) (addr : Nat) (val : Word) (s : State) :
    Host.Outcome State Fault Refusal :=
  s.act (.guardMirrorWrite init addr val) (fun c => c.busWrite init addr val)

/-- GUARD_TIMEOUT (R352). 4,096 fabric cycles pass with a guarded write pending, and the pair fails with cause 3. -/
def execGuardTimeout (init : Init) (s : State) : Host.Outcome State Fault Refusal := s.act (.guardTimeout init) (doGuardTimeout init)

/-- FENCE (R363). GLB_FENCE.FENCE completes once every earlier register and BAR2 write of the initiator has taken effect. -/
def execFence (init : Init) (s : State) : Host.Outcome State Fault Refusal := s.act (.fence init) (fun c => c.busWrite init R.GLB_FENCE 1)

/-- FENCE_READ (R363). A read of GLB_FENCE returns the count of completed fences once the initiator's pending fence has completed. -/
def execFenceRead (init : Init) (s : State) :
    Host.Outcome State Fault Refusal :=
  s.act (.fenceRead init) (fun c => c.busRead init R.GLB_FENCE)

/-- REGISTER_AUDIT (R367). Every 100 ms the Steward compares the LK fields with the shadow. -/
def execRegisterAudit (upsets : List (Nat × Word)) (s : State) :
    Host.Outcome State Fault Refusal :=
  s.act (.registerAudit upsets) (doRegisterAudit upsets)

/-- EPOCH_WORD (R37). A received epoch word is checked at its last cell and becomes the pending word or is rejected. -/
def execEpochWord (start : Bool) (edges : List Nat) (s : State) :
    Host.Outcome State Fault Refusal :=
  s.act (.epochWord start edges) (doEpochWord start edges)

/-- IRIG_FRAME (R40). A decoded IRIG-B frame is checked, converted to TAI and labels the next PPS edge, or is rejected. -/
def execIrigFrame (onTime : Int) (high : List Nat) (s : State) :
    Host.Outcome State Fault Refusal :=
  s.act (.irigFrame onTime high) (doIrigFrame onTime high)

/-- PPS_EDGE (R46). An active PPS edge judges the pending label, counts good seconds and moves the keeper's state. -/
def execPpsEdge (rise : Bool) (age : Nat) (srcOfs : Int) (s : State) :
    Host.Outcome State Fault Refusal :=
  s.act (.ppsEdge rise age srcOfs) (doPpsEdge rise age srcOfs)

/-- EPOCH_HOLDOVER (R47). MISS_N seconds pass without a good second and the keeper moves from VALID to HOLDOVER. -/
def execEpochHoldover (s : State) : Host.Outcome State Fault Refusal := s.act .epochHoldover doEpochHoldover

/-- SRC_CHANGE (R47). A write that changes EPC_CTRL.SRC moves the keeper to HOLDOVER, SEEK or IDLE. -/
def execSrcChange (init : Init) (val : Word) (s : State) :
    Host.Outcome State Fault Refusal :=
  s.act (.srcChange init val) (fun c => c.busWrite init R.EPC_CTRL val)

/-- LEAP_SECOND (R45). When the keeper reaches LEAP_SEC, LEAP_OFS is copied into EPC_UTC_OFS and ARMED is cleared. -/
def execLeapSecond (s : State) : Host.Outcome State Fault Refusal := s.act .leapSecond doLeapSecond

/-- STEP_APPLY (R56). At the first cycle with no open segment, the keeper steps by the confirmed offset and writes a cause-5 Seam record. -/
def execStepApply (s : State) : Host.Outcome State Fault Refusal := s.act .stepApply doStepApply

/-- SLEW_COMPLETE (R56). A slewed correction's residue falls within a quarter REFIN period and CORR_OUT clears. -/
def execSlewComplete (s : State) : Host.Outcome State Fault Refusal := s.act .slewComplete doSlewComplete

/-- SCHEDULE_FIRE (R60). The keeper reaches an enabled entry's DUE, its action fires, and DUE and COUNT are written back. -/
def execScheduleFire (i : Nat) (s : State) : Host.Outcome State Fault Refusal := s.act (.scheduleFire i) (doScheduleFire i)

/-- SCH_LOAD (R63). SCH_CMD.LOAD copies one entry, or all 256, into the working copy with its checks. -/
def execSchLoad (init : Init) (all : Bool) (idx : Nat) (s : State) :
    Host.Outcome State Fault Refusal :=
  s.act (.schLoad init all idx) (fun c => c.asWrite init R.SCH_CMD (doSchLoad init all idx))

/-- SCHEDULE_ENABLE (R60). Setting SCH_CTRL.EN from 0 to 1 rejects past-due one-shots and advances past-due repeating entries. -/
def execScheduleEnable (init : Init) (val : Word) (s : State) :
    Host.Outcome State Fault Refusal :=
  s.act (.scheduleEnable init val) (fun c => c.busWrite init R.SCH_CTRL val)

/-- SCHEDULE_WAKE (R442). The always-on domain wakes the engine at a WAKE entry's DUE less the exit time. -/
def execScheduleWake (i : Nat) (s : State) : Host.Outcome State Fault Refusal := s.act (.scheduleWake i) (doScheduleWake i)

/-- SAMPLE_DELIVERED (R74). The sampler delivers a lane group's sample to staging and to the trigger resources. -/
def execSampleDelivered (g : Nat) (wave : List VoltStep) (age : Nat) (s : State) :
    Host.Outcome State Fault Refusal :=
  s.act (.sampleDelivered g wave age) (doSampleDelivered g wave age)

/-- CQ_EDGE_ACCEPTED (R82). An accepted CQ edge forms a state-mode word, which passes through the elastic buffer. -/
def execCqEdgeAccepted (g : Nat) (pin : Nat) (rise : Bool) (levels : Nat) (wave : List VoltStep) (age : Nat) (s : State) :
    Host.Outcome State Fault Refusal :=
  s.act (.cqEdgeAccepted g pin rise levels wave age) (doCqEdgeAccepted g pin rise levels wave age)

/-- OVERRUN_GAP_END (R91). A cycle begins with a free slot, so a new block starts and the gap is counted and logged. -/
def execOverrunGapEnd (g : Nat) (s : State) : Host.Outcome State Fault Refusal := s.act (.overrunGapEnd g) (doOverrunGapEnd g)

/-- DETCAP_REARM (R106). A host write of VALID = 0 re-arms a group's detector capture. -/
def execDetcapRearm (init : Init) (n : Nat) (val : Word) (s : State) :
    Host.Outcome State Fault Refusal :=
  s.act (.detcapRearm init n val) (fun c => c.asWrite init (R.TRS_DETCAP_CH n) (doDetcapRearm init n val))

/-- ANALOG_SETTING_WRITE (R68). A write to TERM or TRIM takes effect within 10 µs, whether or not the group is armed. -/
def execAnalogSettingWrite (init : Init) (addr : Nat) (val : Word) (s : State) :
    Host.Outcome State Fault Refusal :=
  s.act (.analogSettingWrite init addr val) (fun c => c.busWrite init addr val)

/-- LG_APPLY (R71). A lane group's APPLY takes its working copy, or is rejected. -/
def execLgApply (init : Init) (n : Nat) (s : State) :
    Host.Outcome State Fault Refusal :=
  s.act (.lgApply init n) (fun c => c.asWrite init (R.LG_CMD n) (doLgApply init n))

/-- LG_CAL (R78). CAL starts measuring each enabled channel's first rising edge. -/
def execLgCal (init : Init) (n : Nat) (s : State) :
    Host.Outcome State Fault Refusal :=
  s.act (.lgCal init n) (fun c => c.asWrite init (R.LG_CMD n) (doLgCal init n))

/-- CAL_END (R78). CAL ends when every channel has seen its edge, or after 1 ms, and writes ARR and VALID. -/
def execCalEnd (n : Nat) (edges : List (Option Nat)) (s : State) :
    Host.Outcome State Fault Refusal :=
  s.act (.calEnd n edges) (doCalEnd n edges)

/-- TRS_APPLY (R97). TRS_CMD.APPLY copies unowned resources, XT lines, TRIG pins and detectors into their working copy. -/
def execTrsApply (init : Init) (s : State) :
    Host.Outcome State Fault Refusal :=
  s.act (.trsApply init) (fun c => c.asWrite init R.TRS_CMD (doTrsApply init))

/-- SAMPLE_EVALUATED (R123). A sequencer evaluates a sample, takes at most one branch and applies its actions. -/
def execSampleEvaluated (sq : Nat) (trigLast : Nat) (trigRise : Nat) (trigFall : Nat) (odd : Option OddSample) (s : State) :
    Host.Outcome State Fault Refusal :=
  s.act (.sampleEvaluated sq trigLast trigRise trigFall odd) (doSampleEvaluated sq trigLast trigRise trigFall odd)

/-- XT_LINE_EXPIRE (R113). An XT line's latest pulse width ends and the line goes inactive. -/
def execXtLineExpire (n : Nat) (s : State) :
    Host.Outcome State Fault Refusal :=
  s.act (.xtLineExpire n) (doXtLineExpire n)

/-- TRIG_PULSE_END (R116). A TRIG output's latest pulse ends and the pin returns to its inactive level. -/
def execTrigPulseEnd (n : Nat) (s : State) : Host.Outcome State Fault Refusal := s.act (.trigPulseEnd n) (doTrigPulseEnd n)

/-- POST_SPAN_END (R129). The post-trigger count is exhausted, evaluation ends, the groups close their blocks and the partition disarms. -/
def execPostSpanEnd (sq : Nat) (s : State) : Host.Outcome State Fault Refusal := s.act (.postSpanEnd sq) (doPostSpanEnd sq)

/-- SEQ_HOLD_INSTANT (R141). The hold instant of a sequencer HOLD action is reached and the window is judged. -/
def execSeqHoldInstant (s : State) : Host.Outcome State Fault Refusal := s.act .seqHoldInstant doSeqHoldInstant

/-- HOLD_CMD (R141). The host HOLD command requests a hold of the window held in the START and END registers. -/
def execHoldCmd (init : Init) (p : Nat) (s : State) :
    Host.Outcome State Fault Refusal :=
  s.act (.holdCmd init p) (fun c => c.asWrite init (R.PRT_HOLD_CMD p) (doHoldCmd init p))

/-- NOTICE_HOLD_INSTANT (R158). An accepted notice becomes a hold in each partition of RX_PART at its hold instant. -/
def execNoticeHoldInstant (s : State) : Host.Outcome State Fault Refusal := s.act .noticeHoldInstant doNoticeHoldInstant

/-- NOTICE_REPEAT (R154). 100 µs after the previous copy, a repeat copy of a notice is sent. -/
def execNoticeRepeat (s : State) : Host.Outcome State Fault Refusal := s.act .noticeRepeat doNoticeRepeat

/-- ARM (R167). ARM checks the partition, applies its groups and sequencer checks, takes the working copy and enters RECORDING. -/
def execArm (init : Init) (p : Nat) (s : State) :
    Host.Outcome State Fault Refusal :=
  s.act (.arm init p) (fun c => c.asWrite init (R.PRT_CMD p) (doArm init p))

/-- DISARM (R126). DISARM ends evaluation and recording, truncating any open trigger segment and windows. -/
def execDisarm (init : Init) (p : Nat) (s : State) :
    Host.Outcome State Fault Refusal :=
  s.act (.disarm init p) (fun c => c.asWrite init (R.PRT_CMD p) (doDisarm init p))

/-- PRT_MARK (R172). A host MARK enters a marker with its code at the acceptance stamp. -/
def execPrtMark (init : Init) (p : Nat) (code : Nat) (s : State) :
    Host.Outcome State Fault Refusal :=
  s.act (.prtMark init p code) (fun c => c.asWrite init (R.PRT_CMD p) (doPrtMark init p code))

/-- FREE (R176). FREE releases a committed segment's holds, pages, LIVE bit and slot. -/
def execFree (init : Init) (p : Nat) (slot : Nat) (s : State) :
    Host.Outcome State Fault Refusal :=
  s.act (.free init p slot) (fun c => c.asWrite init (R.PRT_CMD p) (doFree init p slot))

/-- AUTO_FREE (R176). In the cycle after its descriptor is released, an AUTO_FREE partition frees the segment. -/
def execAutoFree (p : Nat) (s : State) : Host.Outcome State Fault Refusal := s.act (.autoFree p) (doAutoFree p)

/-- CODEC_BLOCK_START (R194). A Fuller instance begins reading a staged block once it has room for its output. -/
def execCodecBlockStart (n : Nat) (s : State) : Host.Outcome State Fault Refusal := s.act (.codecBlockStart n) (doCodecBlockStart n)

/-- CODEC_BLOCK_DONE (R194). The instance finishes coding and checking a block and offers the output block to its writer. -/
def execCodecBlockDone (n : Nat) (upset : Option Nat) (s : State) :
    Host.Outcome State Fault Refusal :=
  s.act (.codecBlockDone n upset) (doCodecBlockDone n upset)

/-- FUL_INJECT (R193). INJECT arranges a forced check failure on the next compressed block. -/
def execFulInject (init : Init) (n : Nat) (s : State) :
    Host.Outcome State Fault Refusal :=
  s.act (.fulInject init n) (fun c => c.asWrite init (R.FUL_CMD n) (doFulInject init n))

/-- BLOCK_ALLOCATE (R137). A writer allocates ring or post space for a block, overwriting unheld blocks and writing its directory entry. -/
def execBlockAllocate (g : Nat) (s : State) : Host.Outcome State Fault Refusal := s.act (.blockAllocate g) (doBlockAllocate g)

/-- SEGMENT_COMMIT (R174). Once a segment's blocks, pages and entry are written and fenced, its LIVE bit is set and its descriptor pushed. -/
def execSegmentCommit (p : Nat) (slot : Nat) (s : State) :
    Host.Outcome State Fault Refusal :=
  s.act (.segmentCommit p slot) (doSegmentCommit p slot)

/-- SEGMENT_PUSH_RETRY (R227). A refused segment push is offered again in a later cycle until accepted or withdrawn. -/
def execSegmentPushRetry (p : Nat) (s : State) : Host.Outcome State Fault Refusal := s.act (.segmentPushRetry p) (doSegmentPushRetry p)

/-- CAR_PUSH (R222). PUSH enters a KIND 2 descriptor from the IN registers into a queue, or is rejected when the queue is full. -/
def execCarPush (init : Init) (q : Nat) (prio : Nat) (s : State) :
    Host.Outcome State Fault Refusal :=
  s.act (.carPush init q prio) (fun c => c.asWrite init (R.CAR_Q_CMD q) (doCarPush init q prio))

/-- CAR_POP (R229). POP takes the highest-priority, earliest poppable entry and numbers it. -/
def execCarPop (init : Init) (q : Nat) (s : State) :
    Host.Outcome State Fault Refusal :=
  s.act (.carPop init q) (fun c => c.asWrite init (R.CAR_Q_CMD q) (doCarPop init q))

/-- CAR_RELEASE (R230). RELEASE frees a popped entry by its handle. -/
def execCarRelease (init : Init) (q : Nat) (handle : Nat) (s : State) :
    Host.Outcome State Fault Refusal :=
  s.act (.carRelease init q handle) (fun c => c.asWrite init (R.CAR_Q_CMD q) (doCarRelease init q handle))

/-- CAR_MARK (R232). MARK sets MARKNO to the present POPNO. -/
def execCarMark (init : Init) (q : Nat) (s : State) :
    Host.Outcome State Fault Refusal :=
  s.act (.carMark init q) (fun c => c.asWrite init (R.CAR_Q_CMD q) (doCarMark init q))

/-- CAR_REWIND (R232). REWIND returns every popped, unreleased entry at or after the mark. -/
def execCarRewind (init : Init) (q : Nat) (s : State) :
    Host.Outcome State Fault Refusal :=
  s.act (.carRewind init q) (fun c => c.asWrite init (R.CAR_Q_CMD q) (doCarRewind init q))

/-- CAR_APPLY (R226). CAR APPLY takes BASE, RESERVE and LIMIT into the working copy when every queue is empty. -/
def execCarApply (init : Init) (s : State) :
    Host.Outcome State Fault Refusal :=
  s.act (.carApply init) (fun c => c.asWrite init R.CAR_CMD (doCarApply init))

/-- QUEUE_STALL (R236). A queue's stall timer reaches TIMEOUT, so Q_STALL is raised and STALLED is set. -/
def execQueueStall (q : Nat) (s : State) : Host.Outcome State Fault Refusal := s.act (.queueStall q) (doQueueStall q)

/-- DMA_START (R250). START copies the ring registers and issues REWIND and MARK on Q0. -/
def execDmaStart (init : Init) (s : State) :
    Host.Outcome State Fault Refusal :=
  s.act (.dmaStart init) (fun c => c.asWrite init R.HIF_DMA_CMD (doDmaStart init))

/-- DMA_STOP (R250). STOP halts the DMA engine at the end of its current write. -/
def execDmaStop (init : Init) (s : State) :
    Host.Outcome State Fault Refusal :=
  s.act (.dmaStop init) (fun c => c.asWrite init R.HIF_DMA_CMD (doDmaStop init))

/-- DMA_DESCRIPTOR_POP (R248). With a buffer posted and a completion slot free, the DMA engine pops Q0 and streams the segment. -/
def execDmaDescriptorPop (bufs : List (Nat × Nat)) (s : State) :
    Host.Outcome State Fault Refusal :=
  s.act (.dmaDescriptorPop bufs) (doDmaDescriptorPop bufs)

/-- DMA_STREAM_COMPLETE (R249). A stream is written, its completion entry follows, and the descriptor is released from Q0. -/
def execDmaStreamComplete (s : State) : Host.Outcome State Fault Refusal := s.act .dmaStreamComplete doDmaStreamComplete

/-- DMA_BUFFER_POST (R247). Advancing HIF_DMA_BUF_PI posts buffers to the DMA engine. -/
def execDmaBufferPost (init : Init) (pi : Word) (bufs : List (Nat × Nat)) (s : State) :
    Host.Outcome State Fault Refusal :=
  s.act (.dmaBufferPost init pi bufs) (fun c => c.asWrite init R.HIF_DMA_BUF_PI (doDmaBufferPost pi.toNat bufs))

/-- DMA_COMPLETION_FREE (R249). Advancing HIF_DMA_CPL_CI frees completion slots. -/
def execDmaCompletionFree (init : Init) (ci : Word) (s : State) :
    Host.Outcome State Fault Refusal :=
  s.act (.dmaCompletionFree init ci) (fun c => c.asWrite init R.HIF_DMA_CPL_CI (doDmaCompletionFree ci.toNat))

/-- PCIE_CONVENTIONAL_RESET (R245). PE_ reset, a hot reset or link loss resets the configuration space and stops the DMA engine. -/
def execPcieConventionalReset (s : State) : Host.Outcome State Fault Refusal := s.act .pcieConventionalReset doPcieConventionalReset

/-- PCIE_LINK (R245). The PCIe link changes state, or trains below full speed or width, and PCIE_LINK is raised. -/
def execPcieLink (speed : Nat) (width : Nat) (up : Bool) (s : State) :
    Host.Outcome State Fault Refusal :=
  s.act (.pcieLink speed width up) (doPcieLink speed width up)

/-- ETH_FRAME_RECEIVED (R253). A received Ethernet frame passes the receive checks and is dispatched, or is dropped. -/
def execEthFrameReceived (port : Nat) (frame : List Nat) (fecOk : Bool) (s : State) :
    Host.Outcome State Fault Refusal :=
  s.act (.ethFrameReceived port frame fecOk) (doEthFrameReceived port frame fecOk)

/-- ETH_FRAME_TRANSMIT (R256). At a frame boundary, the port sends the first waiting frame in priority order. -/
def execEthFrameTransmit (port : Nat) (s : State) :
    Host.Outcome State Fault Refusal :=
  s.act (.ethFrameTransmit port) (doEthFrameTransmit port)

/-- ETH_LINK (R264). A port's link changes, and on its return a running streamer replays. -/
def execEthLink (port : Nat) (up : Bool) (s : State) : Host.Outcome State Fault Refusal := s.act (.ethLink port up) (doEthLink port up)

/-- STR_START (R260). Streamer START clears its sequence counts and issues REWIND and MARK. -/
def execStrStart (init : Init) (n : Nat) (s : State) :
    Host.Outcome State Fault Refusal :=
  s.act (.strStart init n) (fun c => c.asWrite init (R.ETH_STR_CMD n) (doStrStart init n))

/-- STR_STOP (R260). Streamer STOP halts sending at the next frame boundary. -/
def execStrStop (init : Init) (n : Nat) (s : State) :
    Host.Outcome State Fault Refusal :=
  s.act (.strStop init n) (fun c => c.asWrite init (R.ETH_STR_CMD n) (doStrStop init n))

/-- STREAMER_POP (R261). With fewer than WINDOW entries outstanding, the streamer pops and sends a stream as data frames. -/
def execStreamerPop (n : Nat) (s : State) : Host.Outcome State Fault Refusal := s.act (.streamerPop n) (doStreamerPop n)

/-- STREAMER_TIMEOUT (R264). RTO passes with entries outstanding, and the streamer replays. -/
def execStreamerTimeout (n : Nat) (s : State) : Host.Outcome State Fault Refusal := s.act (.streamerTimeout n) (doStreamerTimeout n)

/-- EVENT_FRAME_SEND (R375). A mapped line rises and the Steward sends an EVENT frame after the holdoff. -/
def execEventFrameSend (s : State) : Host.Outcome State Fault Refusal := s.act .eventFrameSend doEventFrameSend

/-- EVENT_FRAME_REPEAT (R375). The REPEAT period expires while a mapped line is active, and an EVENT frame is sent again. -/
def execEventFrameRepeat (s : State) : Host.Outcome State Fault Refusal := s.act .eventFrameRepeat doEventFrameRepeat

/-- CLK_APPLY (R272). CLK APPLY takes the synthesiser configuration and enters ACQUIRE. -/
def execClkApply (init : Init) (s : State) :
    Host.Outcome State Fault Refusal :=
  s.act (.clkApply init) (fun c => c.asWrite init R.CLK_CMD (doClkApply init))

/-- CLK_STEP (R277). STEP ramps the synthesiser word to a target within 200 ppm. -/
def execClkStep (init : Init) (s : State) :
    Host.Outcome State Fault Refusal :=
  s.act (.clkStep init) (fun c => c.asWrite init R.CLK_CMD (doClkStep init))

/-- STEP_DONE (R277). The step ramp ends and STEP_DONE is raised. -/
def execStepDone (s : State) : Host.Outcome State Fault Refusal := s.act .stepDone doStepDone

/-- CKO_APPLY (R292). CKO_APPLY configures the clock outputs and aligns their dividers. -/
def execCkoApply (init : Init) (s : State) :
    Host.Outcome State Fault Refusal :=
  s.act (.ckoApply init) (fun c => c.asWrite init R.CLK_CMD (doCkoApply init))

/-- CKO_PHASE_WRITE (R291). A write of CKO PHASE starts the output aligner moving one tap per output period. -/
def execCkoPhaseWrite (init : Init) (m : Nat) (val : Word) (s : State) :
    Host.Outcome State Fault Refusal :=
  s.act (.ckoPhaseWrite init m val) (fun c => c.busWrite init (R.CLK_CKO_PHASE m) val)

/-- SYN_LOCKED (R278). The lock criterion is met and the synthesiser enters LOCKED or BYPASS. -/
def execSynLocked (errs : List (Nat × Nat)) (ga : Nat) (oa : Nat) (s : State) :
    Host.Outcome State Fault Refusal :=
  s.act (.synLocked errs ga oa) (doSynLockedStart errs ga oa)

/-- REF_LOSS (R282). Loss of reference is declared, and the synthesiser enters COAST, or GATED in Gated mode. -/
def execRefLoss (cause : Nat) (meas : Nat) (s : State) :
    Host.Outcome State Fault Refusal :=
  s.act (.refLoss cause meas) (doRefLoss cause meas)

/-- SYN_UNLOCK (R278). The phase error exceeds a quarter period for 8 periods and the synthesiser leaves lock. -/
def execSynUnlock (aligner : Option Nat) (errs : List (Nat × Nat)) (s : State) :
    Host.Outcome State Fault Refusal :=
  s.act (.synUnlock aligner errs) (doSynUnlock aligner errs)

/-- REF_RETURN (R282). REFIN qualifies for REF_QUAL ms and the synthesiser enters RETURN. -/
def execRefReturn (hz : Nat) (s : State) :
    Host.Outcome State Fault Refusal :=
  s.act (.refReturn hz) (doRefReturn hz)

/-- COAST_MAX_EXPIRE (R283). COAST_MAX elapses and the synthesiser switches to BYPASS. -/
def execCoastMaxExpire (s : State) : Host.Outcome State Fault Refusal := s.act .coastMaxExpire doCoastMaxExpire

/-- MC_SR_ENTER (R316). SR_ENTER begins self-refresh entry. -/
def execMcSrEnter (init : Init) (s : State) :
    Host.Outcome State Fault Refusal :=
  s.act (.mcSrEnter init) (fun c => c.asWrite init R.MCX_CMD (doMcSrEnter init))

/-- MC_SR_EXIT (R316). SR_EXIT issues the self-refresh exit command. -/
def execMcSrExit (init : Init) (s : State) :
    Host.Outcome State Fault Refusal :=
  s.act (.mcSrExit init) (fun c => c.asWrite init R.MCX_CMD (doMcSrExit init))

/-- SR_COMMIT_POINT (R316). Preparation completes and the self-refresh entry command is issued. -/
def execSrCommitPoint (s : State) : Host.Outcome State Fault Refusal := s.act .srCommitPoint doSrCommitPoint

/-- SR_RESIDENCY_END (R316). The 1 µs self-refresh residency ends and a waiting exit may proceed. -/
def execSrResidencyEnd (s : State) : Host.Outcome State Fault Refusal := s.act .srResidencyEnd doSrResidencyEnd

/-- SR_EXIT_DONE (R316). Self-refresh exit completes and the first access is possible. -/
def execSrExitDone (s : State) : Host.Outcome State Fault Refusal := s.act .srExitDone doSrExitDone

/-- MC_TRAIN (R322). TRAIN puts the named channels into TRAINING. -/
def execMcTrain (init : Init) (ch : Nat) (s : State) :
    Host.Outcome State Fault Refusal :=
  s.act (.mcTrain init ch) (fun c => c.asWrite init R.MCX_CMD (doMcTrain init ch))

/-- MC_SWEEP (R318). SWEEP starts a delay sweep on a training channel. -/
def execMcSweep (init : Init) (n : Nat) (s : State) :
    Host.Outcome State Fault Refusal :=
  s.act (.mcSweep init n) (fun c => c.asWrite init (R.MC_TRN_CMD n) (doMcSweep init n))

/-- TRN_DONE (R318). A sweep completes, its windows are recorded and TRN_DONE is raised. -/
def execTrnDone (n : Nat) (reads : List TrnRead) (s : State) :
    Host.Outcome State Fault Refusal :=
  s.act (.trnDone n reads) (doTrnDone n reads)

/-- READOUT_ADMIT (R306). The token bucket admits a readout DRAM read request. -/
def execReadoutAdmit (req : Nat) (bytes : Nat) (addr : Nat) (engine : Bool) (s : State) :
    Host.Outcome State Fault Refusal :=
  s.act (.readoutAdmit req bytes addr engine) (doReadoutAdmit req bytes addr engine)

/-- DRAM_COMMAND (R305). A channel issues its next refresh, write or read command by the scheduling rules. -/
def execDramCommand (ch : Nat) (s : State) : Host.Outcome State Fault Refusal := s.act (.dramCommand ch) (doDramCommand ch)

/-- DRAM_READ_RETURN (R298). A codeword read completes and is decoded by its ECC. -/
def execDramReadReturn (ch : Nat) (addr : Nat) (req : Nat) (source : Nat) (errs : List (Nat × Nat)) (s : State) :
    Host.Outcome State Fault Refusal :=
  s.act (.dramReadReturn ch addr req source errs) (doDramReadReturn ch addr req source errs)

/-- REFRESH_DUE (R309). A rank's refresh interval expires and the refresh is issued or postponed. -/
def execRefreshDue (ch : Nat) (rank : Nat) (s : State) :
    Host.Outcome State Fault Refusal :=
  s.act (.refreshDue ch rank) (doRefreshDue ch rank)

/-- DRAM_TEMP_POLL (R310). The 1 ms temperature poll may make a channel hot or cool again. -/
def execDramTempPoll (ch : Nat) (temp : Int) (mr4 : List Nat) (s : State) :
    Host.Outcome State Fault Refusal :=
  s.act (.dramTempPoll ch temp mr4) (doDramTempPoll ch temp mr4)

/-- PATROL_SCRUB_READ (R302). Patrol scrub reads the next codeword and writes it back if corrected. -/
def execPatrolScrubRead (ch : Nat) (errs : List (Nat × Nat)) (s : State) :
    Host.Outcome State Fault Refusal :=
  s.act (.patrolScrubRead ch errs) (doPatrolScrubRead ch errs)

/-- DQS_DRIFT_CORRECT (R321). Every 100 ms the write strobe-to-data delay is adjusted by at most one step. -/
def execDqsDriftCorrect (ch : Nat) (dir : Int) (s : State) :
    Host.Outcome State Fault Refusal :=
  s.act (.dqsDriftCorrect ch dir) (doDqsDriftCorrect ch dir)

/-- BAR2_WRITE (R330). A host BAR2 write becomes plain, set or clear accesses per DW of the Common Store. -/
def execBar2Write (ofs : Nat) (dws : List Dw) (s : State) :
    Host.Outcome State Fault Refusal :=
  s.act (.bar2Write ofs dws) (doBar2Write ofs dws)

/-- BAR2_READ (R334). A host BAR2 read returns once every earlier BAR2 write of the host has taken effect. -/
def execBar2Read (ofs : Nat) (dws : List Nat) (s : State) :
    Host.Outcome State Fault Refusal :=
  s.act (.bar2Read ofs dws) (doBar2Read ofs dws)

/-- CST_BANK_ACCESS (R332). A bank performs an access, merging same-cycle writes to one word. -/
def execCstBankAccess (bank : Nat) (accs : List CstAccess) (s : State) :
    Host.Outcome State Fault Refusal :=
  s.act (.cstBankAccess bank accs) (doCstBankAccess bank accs)

/-- CST_SCRUB (R337). Scrub reads its next word and writes back a corrected one. -/
def execCstScrub (bank : Nat) (upset : Nat) (s : State) :
    Host.Outcome State Fault Refusal :=
  s.act (.cstScrub bank upset) (doCstScrub bank upset)

/-- EVT_RAISE (R374). The pending RAISE bits are set in EVT_STAT63. -/
def execEvtRaise (s : State) : Host.Outcome State Fault Refusal := s.act .evtRaise doEvtRaise

/-- SCRIVENER_WRITE (R380). A record leaves the input queue and is written, or folded into the last record. -/
def execScrivenerWrite (bad : Option Nat) (s : State) :
    Host.Outcome State Fault Refusal :=
  s.act (.scrivenerWrite bad) (doScrivenerWrite bad)

/-- SCV_EXPORT (R387). EXPORT copies every unexported record to the flash log. -/
def execScvExport (init : Init) (s : State) :
    Host.Outcome State Fault Refusal :=
  s.act (.scvExport init) (fun c => c.asWrite init R.SCV_CMD (doScvExport init))

/-- SCV_EXPORTED (R387). An export completes and SCV_EXPORTED is raised. -/
def execScvExported (bad : Option (Bool × Nat)) (s : State) :
    Host.Outcome State Fault Refusal :=
  s.act (.scvExported bad) (doScvExportedThaw bad)

/-- SCV_THAW (R391). THAW empties both halves and resumes recording after a freeze. -/
def execScvThaw (init : Init) (s : State) :
    Host.Outcome State Fault Refusal :=
  s.act (.scvThaw init) (fun c => c.asWrite init R.SCV_CMD (doScvThaw init))

/-- SCV_LOAD (R383). LOAD takes snapshot lists from the Common Store into the working copy. -/
def execScvLoad (init : Init) (all : Bool) (list : Nat) (s : State) :
    Host.Outcome State Fault Refusal :=
  s.act (.scvLoad init all list) (fun c => c.asWrite init R.SCV_CMD (doScvLoad init all list))

/-- LW_CLEAR (R393). LW_CLEAR clears the last-words code and LW_VALID. -/
def execLwClear (init : Init) (s : State) :
    Host.Outcome State Fault Refusal :=
  s.act (.lwClear init) (fun c => c.asWrite init R.SCV_CMD (doLwClear init))

/-- SCV_WINDOW_READ (R388). A read of the Scrivener window returns a word half, and the read of _H advances the address. -/
def execScvWindowRead (init : Init) (hi : Bool) (bad : Bool) (s : State) :
    Host.Outcome State Fault Refusal :=
  s.act (.scvWindowRead init hi bad) (fun c => if c.mayRead init R.SCV_WIN_DATA_L then doScvWindowRead init hi bad c else { c with rdata := 0 })

/-- NV_PROGRAM (R412). PROGRAM streams Common Store data into the inactive slot's buffer. -/
def execNvProgram (init : Init) (s : State) :
    Host.Outcome State Fault Refusal :=
  s.act (.nvProgram init) (fun c => c.asWrite init R.STW_NV_CMD (doNvProgram init))

/-- NV_VERIFY (R412). VERIFY drains the buffer and verifies the inactive slot. -/
def execNvVerify (init : Init) (s : State) :
    Host.Outcome State Fault Refusal :=
  s.act (.nvVerify init) (fun c => c.asWrite init R.STW_NV_CMD (doNvVerify init))

/-- NV_VERIFY_DONE (R412). Verification ends, the result is written and NV_VERIFY_DONE is raised. -/
def execNvVerifyDone (flashOk vendorOk : Bool) (fwVersion : Nat) (s : State) : Host.Outcome State Fault Refusal :=
  s.act (.nvVerifyDone flashOk vendorOk fwVersion) (doNvVerifyDone flashOk vendorOk fwVersion)

/-- NV_PENDING (R412). PENDING marks the verified inactive slot pending with TRIES = 0. -/
def execNvPending (init : Init) (s : State) :
    Host.Outcome State Fault Refusal :=
  s.act (.nvPending init) (fun c => c.asWrite init R.STW_NV_CMD (doNvPending init))

/-- NV_CONFIRM (R411). CONFIRM ends a trial and makes the running slot ACTIVE. -/
def execNvConfirm (init : Init) (s : State) :
    Host.Outcome State Fault Refusal :=
  s.act (.nvConfirm init) (fun c => c.asWrite init R.STW_NV_CMD (doNvConfirm init))

/-- MAILBOX_GO (R420). Writing GO = 1 submits the host mailbox request. -/
def execMailboxGo (init : Init) (val : Word) (s : State) :
    Host.Outcome State Fault Refusal :=
  s.act (.mailboxGo init val) (fun c => c.busWrite init R.STW_MB_CTRL val)

/-- MAILBOX_SERVE (R421). The Steward begins serving a mailbox request and posts its response. -/
def execMailboxServe (reply : List Nat) (s : State) : Host.Outcome State Fault Refusal := s.act (.mailboxServe reply) (doMailboxServe reply)

/-- MAILBOX_RESET_FIRE (R422). 10 ms after a RESET response, the warm reset is performed. -/
def execMailboxResetFire (s : State) : Host.Outcome State Fault Refusal := s.act .mailboxResetFire doMailboxResetFire

/-- LOCKSTEP_FAULT (R414). The Steward cores disagree, and the hardware Safe controller enters Safe with cause 0x04. -/
def execLockstepFault (s : State) : Host.Outcome State Fault Refusal := s.act .lockstepFault doLockstepFault

/-- STW_SRAM_ERROR (R415). A Steward SRAM error is counted if corrected and is fatal if not. -/
def execStwSramError (corrected : Bool) (s : State) :
    Host.Outcome State Fault Refusal :=
  s.act (.stwSramError corrected) (doStwSramError corrected)

/-- WATCHDOG_EXPIRE (R417). The Steward watchdog expires, which is fatal or fails the start. -/
def execWatchdogExpire (s : State) : Host.Outcome State Fault Refusal := s.act .watchdogExpire doWatchdogExpire

/-- AUTO_RESET (R418). 10 ms after FAULTN for a processor fault, the Safe controller performs a warm reset. -/
def execAutoReset (s : State) : Host.Outcome State Fault Refusal := s.act .autoReset doAutoReset

/-- AUTO_CNT_CLEAR (R418). After 60 s in RUN, AUTO_CNT clears. -/
def execAutoCntClear (s : State) : Host.Outcome State Fault Refusal := s.act .autoCntClear doAutoCntClear

/-- AON_CLEAR (R418). AON_CLEAR clears WDG, LOCKSTEP and AUTO_CNT. -/
def execAonClear (init : Init) (s : State) :
    Host.Outcome State Fault Refusal :=
  s.act (.aonClear init) (fun c => c.asWrite init R.STW_CMD (doAonClear init))

/-- DIE_SENSOR_POLL (R425). The 1 ms die temperature poll raises warnings or declares a thermal fatal. -/
def execDieSensorPoll (temps : List Int) (s : State) :
    Host.Outcome State Fault Refusal :=
  s.act (.dieSensorPoll temps) (doDieSensorPoll temps)

/-- HW_THERMAL_TRIP (R425). A sensor at 125 °C trips the hardware comparator, which is fatal. -/
def execHwThermalTrip (sensor : Nat) (temp : Int) (s : State) :
    Host.Outcome State Fault Refusal :=
  s.act (.hwThermalTrip sensor temp) (doHwThermalTrip sensor temp)

/-- RAIL_MONITOR_POLL (R426). The 100 µs rail poll raises RAIL_WARN or declares a rail fatal. -/
def execRailMonitorPoll (mv : List Nat) (s : State) : Host.Outcome State Fault Refusal := s.act (.railMonitorPoll mv) (doRailMonitorPoll mv)

/-- PMBUS_POLL (R426). The 100 ms PMBus STATUS_WORD poll raises PMBUS_FAULT on a reported fault. -/
def execPmbusPoll (k : Nat) (status : Nat) (s : State) :
    Host.Outcome State Fault Refusal :=
  s.act (.pmbusPoll k status) (doPmbusPoll k status)

/-- PWR_GO (R437). PWR_CMD.GO requests a transition to TARGET, judged against Table 19-4. -/
def execPwrGo (init : Init) (target : Nat) (s : State) :
    Host.Outcome State Fault Refusal :=
  s.act (.pwrGo init target) (fun c => c.asWrite init R.PWR_CMD (doPwrGo init target))

/-- POWER_STEP_DONE (R439). A descent step's work completes and the next step or rest follows. -/
def execPowerStepDone (s : State) : Host.Outcome State Fault Refusal := s.act .powerStepDone doPowerStepDone

/-- PWR_WAKE (R441). A wake source starts the exit from a lower state. -/
def execPwrWake (src : Nat) (s : State) : Host.Outcome State Fault Refusal := s.act (.pwrWake src) (doPwrWake src)

/-- POWER_EXIT_DONE (R442). The exit reaches its target, and paused partitions resume with a cause-3 gap. -/
def execPowerExitDone (s : State) : Host.Outcome State Fault Refusal := s.act .powerExitDone doPowerExitDone

/-- PCIE_CONFIG_WRITE (R250). A configuration write clears or sets Bus Master Enable or the MSI-X function mask, stopping the DMA engine or holding and then releasing pending MSI-X messages. -/
def execPcieConfigWrite (bme : Bool) (msixEn : Bool) (fmask : Bool) (d3 : Bool) (s : State) :
    Host.Outcome State Fault Refusal :=
  s.act (.pcieConfigWrite bme msixEn fmask d3) (doPcieConfigWrite bme msixEn fmask d3)

/-- REFRESH_WINDOW_START (R312). At each 32 ms (16 ms when hot) refresh window start, every bank's row-disturbance tracker clears and the window's throttles end. -/
def execRefreshWindowStart (ch : Nat) (s : State) :
    Host.Outcome State Fault Refusal :=
  s.act (.refreshWindowStart ch) (doRefreshWindowStart ch)

/-- CKO_PPS_PULSE_START (R292). At each whole second of the keeper, a CKO output with SRC = 1 begins its pulse on the first sample-clock edge, if the keeper is in VALID, MANUAL or HOLDOVER. -/
def execCkoPpsPulseStart (m : Nat) (s : State) : Host.Outcome State Fault Refusal := s.act (.ckoPpsPulseStart m) (doCkoPpsPulseStart m)

/-- CKO_PPS_PULSE_END (R292). PW µs after its leading edge, a CKO pulse-per-second output returns low. -/
def execCkoPpsPulseEnd (m : Nat) (s : State) : Host.Outcome State Fault Refusal := s.act (.ckoPpsPulseEnd m) (doCkoPpsPulseEnd m)

/-- NV_ERASE_DONE (R412). A flash erase of the training cache, log area or inactive slot completes and STW_NV_STAT.BUSY clears. -/
def execNvEraseDone (s : State) : Host.Outcome State Fault Refusal := s.act .nvEraseDone doNvEraseDone

/-- NV_BUFFER_DRAIN (R412). The Steward erases and programs buffered slot data into flash behind the stream, freeing buffer space in BUF_FREE. -/
def execNvBufferDrain (n : Nat) (s : State) : Host.Outcome State Fault Refusal := s.act (.nvBufferDrain n) (doNvBufferDrain n)


end Sys2Proof.Machine
end

