-- ==== Sys2Proof/Machine/Dispatch.lean ====
section
/-! DEFINITION. The dispatch: one arm per command. -/

namespace Sys2Proof.Machine

def exec (i : Instr) (s : State) : Host.Outcome State Fault Refusal :=
  match i with
  | .pornAssert => Sys2Proof.Machine.execPornAssert s
  | .pornRelease fitted => Sys2Proof.Machine.execPornRelease fitted s
  | .warmReset => Sys2Proof.Machine.execWarmReset s
  | .imageVerifyDone flashOk => Sys2Proof.Machine.execImageVerifyDone flashOk s
  | .railUp k status => Sys2Proof.Machine.execRailUp k status s
  | .railTimeout k => Sys2Proof.Machine.execRailTimeout k s
  | .dramTrainingDone dimms cacheOk => Sys2Proof.Machine.execDramTrainingDone dimms cacheOk s
  | .marchTestDone fail chk => Sys2Proof.Machine.execMarchTestDone fail chk s
  | .imgWrite addr vals => Sys2Proof.Machine.execImgWrite addr vals s
  | .imgGwrite addr val => Sys2Proof.Machine.execImgGwrite addr val s
  | .imgFence => Sys2Proof.Machine.execImgFence s
  | .imgFill waddr count pattern data => Sys2Proof.Machine.execImgFill waddr count pattern data s
  | .imgBlob kind target ofs data => Sys2Proof.Machine.execImgBlob kind target ofs data s
  | .imgWait addr mask val timeout => Sys2Proof.Machine.execImgWait addr mask val timeout s
  | .imgWaitMet => Sys2Proof.Machine.execImgWaitMet s
  | .startWaitTimeout => Sys2Proof.Machine.execStartWaitTimeout s
  | .imgSched index words => Sys2Proof.Machine.execImgSched index words s
  | .imgEnd => Sys2Proof.Machine.execImgEnd s
  | .startFailReset => Sys2Proof.Machine.execStartFailReset s
  | .trialConfirmTimeout => Sys2Proof.Machine.execTrialConfirmTimeout s
  | .bar0UnalignedAccess init write addr size val => Sys2Proof.Machine.execBar0UnalignedAccess init write addr size val s
  | .registerWrite init addr val => Sys2Proof.Machine.execRegisterWrite init addr val s
  | .woWrite init addr val => Sys2Proof.Machine.execWoWrite init addr val s
  | .stampTripleRead init addr => Sys2Proof.Machine.execStampTripleRead init addr s
  | .stampTripleWrite init addr val => Sys2Proof.Machine.execStampTripleWrite init addr val s
  | .counterValueWrite init addr val => Sys2Proof.Machine.execCounterValueWrite init addr val s
  | .statusRegisterRead init n => Sys2Proof.Machine.execStatusRegisterRead init n s
  | .statusClear init n val => Sys2Proof.Machine.execStatusClear init n val s
  | .msixVectorUnmask v => Sys2Proof.Machine.execMsixVectorUnmask v s
  | .guardFirstWrite init addr val => Sys2Proof.Machine.execGuardFirstWrite init addr val s
  | .guardMirrorWrite init addr val => Sys2Proof.Machine.execGuardMirrorWrite init addr val s
  | .guardTimeout init => Sys2Proof.Machine.execGuardTimeout init s
  | .fence init => Sys2Proof.Machine.execFence init s
  | .fenceRead init => Sys2Proof.Machine.execFenceRead init s
  | .registerAudit upsets => Sys2Proof.Machine.execRegisterAudit upsets s
  | .epochWord start edges => Sys2Proof.Machine.execEpochWord start edges s
  | .irigFrame onTime high => Sys2Proof.Machine.execIrigFrame onTime high s
  | .ppsEdge rise age srcOfs => Sys2Proof.Machine.execPpsEdge rise age srcOfs s
  | .epochHoldover => Sys2Proof.Machine.execEpochHoldover s
  | .srcChange init val => Sys2Proof.Machine.execSrcChange init val s
  | .leapSecond => Sys2Proof.Machine.execLeapSecond s
  | .stepApply => Sys2Proof.Machine.execStepApply s
  | .slewComplete => Sys2Proof.Machine.execSlewComplete s
  | .scheduleFire n => Sys2Proof.Machine.execScheduleFire n s
  | .schLoad init all idx => Sys2Proof.Machine.execSchLoad init all idx s
  | .scheduleEnable init val => Sys2Proof.Machine.execScheduleEnable init val s
  | .scheduleWake n => Sys2Proof.Machine.execScheduleWake n s
  | .sampleDelivered g wave age => Sys2Proof.Machine.execSampleDelivered g wave age s
  | .cqEdgeAccepted g pin rise levels wave age => Sys2Proof.Machine.execCqEdgeAccepted g pin rise levels wave age s
  | .overrunGapEnd g => Sys2Proof.Machine.execOverrunGapEnd g s
  | .detcapRearm init n val => Sys2Proof.Machine.execDetcapRearm init n val s
  | .analogSettingWrite init addr val => Sys2Proof.Machine.execAnalogSettingWrite init addr val s
  | .lgApply init n => Sys2Proof.Machine.execLgApply init n s
  | .lgCal init n => Sys2Proof.Machine.execLgCal init n s
  | .calEnd n edges => Sys2Proof.Machine.execCalEnd n edges s
  | .trsApply init => Sys2Proof.Machine.execTrsApply init s
  | .sampleEvaluated sq trigLast trigRise trigFall odd => Sys2Proof.Machine.execSampleEvaluated sq trigLast trigRise trigFall odd s
  | .xtLineExpire n => Sys2Proof.Machine.execXtLineExpire n s
  | .trigPulseEnd n => Sys2Proof.Machine.execTrigPulseEnd n s
  | .postSpanEnd sq => Sys2Proof.Machine.execPostSpanEnd sq s
  | .seqHoldInstant => Sys2Proof.Machine.execSeqHoldInstant s
  | .holdCmd init p => Sys2Proof.Machine.execHoldCmd init p s
  | .noticeHoldInstant => Sys2Proof.Machine.execNoticeHoldInstant s
  | .noticeRepeat => Sys2Proof.Machine.execNoticeRepeat s
  | .arm init p => Sys2Proof.Machine.execArm init p s
  | .disarm init p => Sys2Proof.Machine.execDisarm init p s
  | .prtMark init p code => Sys2Proof.Machine.execPrtMark init p code s
  | .free init p slot => Sys2Proof.Machine.execFree init p slot s
  | .autoFree p => Sys2Proof.Machine.execAutoFree p s
  | .codecBlockStart n => Sys2Proof.Machine.execCodecBlockStart n s
  | .codecBlockDone n upset => Sys2Proof.Machine.execCodecBlockDone n upset s
  | .fulInject init n => Sys2Proof.Machine.execFulInject init n s
  | .blockAllocate g => Sys2Proof.Machine.execBlockAllocate g s
  | .segmentCommit p slot => Sys2Proof.Machine.execSegmentCommit p slot s
  | .segmentPushRetry p => Sys2Proof.Machine.execSegmentPushRetry p s
  | .carPush init q prio => Sys2Proof.Machine.execCarPush init q prio s
  | .carPop init q => Sys2Proof.Machine.execCarPop init q s
  | .carRelease init q handle => Sys2Proof.Machine.execCarRelease init q handle s
  | .carMark init q => Sys2Proof.Machine.execCarMark init q s
  | .carRewind init q => Sys2Proof.Machine.execCarRewind init q s
  | .carApply init => Sys2Proof.Machine.execCarApply init s
  | .queueStall q => Sys2Proof.Machine.execQueueStall q s
  | .dmaStart init => Sys2Proof.Machine.execDmaStart init s
  | .dmaStop init => Sys2Proof.Machine.execDmaStop init s
  | .dmaDescriptorPop bufs => Sys2Proof.Machine.execDmaDescriptorPop bufs s
  | .dmaStreamComplete => Sys2Proof.Machine.execDmaStreamComplete s
  | .dmaBufferPost init pi bufs => Sys2Proof.Machine.execDmaBufferPost init pi bufs s
  | .dmaCompletionFree init ci => Sys2Proof.Machine.execDmaCompletionFree init ci s
  | .pcieConventionalReset => Sys2Proof.Machine.execPcieConventionalReset s
  | .pcieLink speed width up => Sys2Proof.Machine.execPcieLink speed width up s
  | .ethFrameReceived port frame fecOk => Sys2Proof.Machine.execEthFrameReceived port frame fecOk s
  | .ethFrameTransmit port => Sys2Proof.Machine.execEthFrameTransmit port s
  | .ethLink port up => Sys2Proof.Machine.execEthLink port up s
  | .strStart init n => Sys2Proof.Machine.execStrStart init n s
  | .strStop init n => Sys2Proof.Machine.execStrStop init n s
  | .streamerPop n => Sys2Proof.Machine.execStreamerPop n s
  | .streamerTimeout n => Sys2Proof.Machine.execStreamerTimeout n s
  | .eventFrameSend => Sys2Proof.Machine.execEventFrameSend s
  | .eventFrameRepeat => Sys2Proof.Machine.execEventFrameRepeat s
  | .clkApply init => Sys2Proof.Machine.execClkApply init s
  | .clkStep init => Sys2Proof.Machine.execClkStep init s
  | .stepDone => Sys2Proof.Machine.execStepDone s
  | .ckoApply init => Sys2Proof.Machine.execCkoApply init s
  | .ckoPhaseWrite init m val => Sys2Proof.Machine.execCkoPhaseWrite init m val s
  | .synLocked errs ga oa => Sys2Proof.Machine.execSynLocked errs ga oa s
  | .refLoss cause meas => Sys2Proof.Machine.execRefLoss cause meas s
  | .synUnlock aligner errs => Sys2Proof.Machine.execSynUnlock aligner errs s
  | .refReturn hz => Sys2Proof.Machine.execRefReturn hz s
  | .coastMaxExpire => Sys2Proof.Machine.execCoastMaxExpire s
  | .mcSrEnter init => Sys2Proof.Machine.execMcSrEnter init s
  | .mcSrExit init => Sys2Proof.Machine.execMcSrExit init s
  | .srCommitPoint => Sys2Proof.Machine.execSrCommitPoint s
  | .srResidencyEnd => Sys2Proof.Machine.execSrResidencyEnd s
  | .srExitDone => Sys2Proof.Machine.execSrExitDone s
  | .mcTrain init ch => Sys2Proof.Machine.execMcTrain init ch s
  | .mcSweep init n => Sys2Proof.Machine.execMcSweep init n s
  | .trnDone n reads => Sys2Proof.Machine.execTrnDone n reads s
  | .readoutAdmit req bytes addr engine => Sys2Proof.Machine.execReadoutAdmit req bytes addr engine s
  | .dramCommand ch => Sys2Proof.Machine.execDramCommand ch s
  | .dramReadReturn ch addr req source errs => Sys2Proof.Machine.execDramReadReturn ch addr req source errs s
  | .refreshDue ch rank => Sys2Proof.Machine.execRefreshDue ch rank s
  | .dramTempPoll ch temp mr4 => Sys2Proof.Machine.execDramTempPoll ch temp mr4 s
  | .patrolScrubRead ch errs => Sys2Proof.Machine.execPatrolScrubRead ch errs s
  | .dqsDriftCorrect ch dir => Sys2Proof.Machine.execDqsDriftCorrect ch dir s
  | .bar2Write ofs dws => Sys2Proof.Machine.execBar2Write ofs dws s
  | .bar2Read ofs dws => Sys2Proof.Machine.execBar2Read ofs dws s
  | .cstBankAccess bank accs => Sys2Proof.Machine.execCstBankAccess bank accs s
  | .cstScrub bank upset => Sys2Proof.Machine.execCstScrub bank upset s
  | .evtRaise => Sys2Proof.Machine.execEvtRaise s
  | .scrivenerWrite bad => Sys2Proof.Machine.execScrivenerWrite bad s
  | .scvExport init => Sys2Proof.Machine.execScvExport init s
  | .scvExported bad => Sys2Proof.Machine.execScvExported bad s
  | .scvThaw init => Sys2Proof.Machine.execScvThaw init s
  | .scvLoad init all list => Sys2Proof.Machine.execScvLoad init all list s
  | .lwClear init => Sys2Proof.Machine.execLwClear init s
  | .scvWindowRead init hi bad => Sys2Proof.Machine.execScvWindowRead init hi bad s
  | .nvProgram init => Sys2Proof.Machine.execNvProgram init s
  | .nvVerify init => Sys2Proof.Machine.execNvVerify init s
  | .nvVerifyDone flashOk vendorOk fwVersion => Sys2Proof.Machine.execNvVerifyDone flashOk vendorOk fwVersion s
  | .nvPending init => Sys2Proof.Machine.execNvPending init s
  | .nvConfirm init => Sys2Proof.Machine.execNvConfirm init s
  | .mailboxGo init val => Sys2Proof.Machine.execMailboxGo init val s
  | .mailboxServe reply => Sys2Proof.Machine.execMailboxServe reply s
  | .mailboxResetFire => Sys2Proof.Machine.execMailboxResetFire s
  | .lockstepFault => Sys2Proof.Machine.execLockstepFault s
  | .stwSramError corrected => Sys2Proof.Machine.execStwSramError corrected s
  | .watchdogExpire => Sys2Proof.Machine.execWatchdogExpire s
  | .autoReset => Sys2Proof.Machine.execAutoReset s
  | .autoCntClear => Sys2Proof.Machine.execAutoCntClear s
  | .aonClear init => Sys2Proof.Machine.execAonClear init s
  | .dieSensorPoll temps => Sys2Proof.Machine.execDieSensorPoll temps s
  | .hwThermalTrip sensor temp => Sys2Proof.Machine.execHwThermalTrip sensor temp s
  | .railMonitorPoll mv => Sys2Proof.Machine.execRailMonitorPoll mv s
  | .pmbusPoll k status => Sys2Proof.Machine.execPmbusPoll k status s
  | .pwrGo init target => Sys2Proof.Machine.execPwrGo init target s
  | .powerStepDone => Sys2Proof.Machine.execPowerStepDone s
  | .pwrWake src => Sys2Proof.Machine.execPwrWake src s
  | .powerExitDone => Sys2Proof.Machine.execPowerExitDone s
  | .pcieConfigWrite bme msixEn fmask d3 => Sys2Proof.Machine.execPcieConfigWrite bme msixEn fmask d3 s
  | .refreshWindowStart ch => Sys2Proof.Machine.execRefreshWindowStart ch s
  | .ckoPpsPulseStart m => Sys2Proof.Machine.execCkoPpsPulseStart m s
  | .ckoPpsPulseEnd m => Sys2Proof.Machine.execCkoPpsPulseEnd m s
  | .nvEraseDone => Sys2Proof.Machine.execNvEraseDone s
  | .nvBufferDrain n => Sys2Proof.Machine.execNvBufferDrain n s

end Sys2Proof.Machine
end

