-- ==== Sys2Proof/Machine/Step.lean ====
section
/-! DEFINITION. One step of the engine: the command at the front of the queue takes effect; on an empty queue fabric cycles pass. -/

namespace Sys2Proof.Machine

/-- On an empty queue `dwell` fabric cycles pass (DESIGN CHOICE, log 1). -/
def State.idle (s : State) : State := { s with chip := s.chip.idleFor s.chip.dwell }

/-- One step: the front command is executed with the rest of the queue waiting.
(DESIGN CHOICE, log 1; DESIGN CHOICE, log 10; DESIGN CHOICE, log 11) -/
def step (s : State) : Host.Outcome State Fault Refusal :=
  match s.pending with
  | [] => .next s.idle
  | c :: rest => exec c { s with pending := rest }

/-- `s` with the command that a table word spells put at the front of its queue. (DESIGN CHOICE, log 13) -/
def State.withFetchWord (s : State) (nbits w : Nat) : State :=
  match decodeTableWord nbits w with
  | some c => { s with pending := c :: s.pending }
  | none => s

end Sys2Proof.Machine
end

