-- ==== Sys2Proof/Machine/Pins.lean ====
section
/-! DEFINITION. What the engine drives at its output balls, as functions of the state: Table 21-10 (R463), with R116 and R118 (`TRIG`),
R291 to R293 (`CKO`), R68 (terminations), R436 (`PEN`), R279 (`SYN_LKA`), R428 (`FAULTN`) and R373 (`INTN`). -/

namespace Sys2Proof.Machine

/-- A ball's level: driven low or high, or released to high impedance. -/
inductive PinLevel where
  | low
  | high
  | released
  deriving DecidableEq, Repr

/-- A driven level. -/
def PinLevel.ofBool (b : Bool) : PinLevel := if b then .high else .low

/-- `VDDA` is off: `PORN` low, Calm or Still (R455, R463). -/
def Chip.vddaOff (c : Chip) : Bool := c.pins.porn || (!c.inSafe && decide (3 ≤ c.ladder))

/-- The `TRIGn` pair as the engine drives it: an input, or a pair without `VDDA`, is released; an output in Safe or in Lull is inactive
(R116, R118). -/
def Chip.trigPin (c : Chip) (n : Nat) : PinLevel :=
  if c.vddaOff || !c.trigOut n then .released
  else PinLevel.ofBool (c.wflag (R.TRS_TRIG_CFG n) F.TRS_TRIG_CFG_POL != (c.trigActiveAt n c.epc.line && !c.inSafe && decide (c.ladder ≠ 2)))

/-- Output m rests: EN = 0, SRC = 3, Safe, or below Breeze (R292, R293). -/
def Chip.ckoIdle (c : Chip) (m : Nat) : Bool :=
  !c.wflag (R.CLK_CKO_CFG m) F.CLK_CKO_CFG_EN || decide (c.wfld (R.CLK_CKO_CFG m) F.CLK_CKO_CFG_SRC = 3) || c.inSafe || decide (2 ≤ c.ladder)

/-- Taps of the `n` sample-clock periods of an output period for which the divided clock is high: the larger half (R292). -/
def ckoHighTaps (n : Nat) : Nat := if n = 1 then 32 else 64 * ((n + 1) / 2)

/-- The divided sample clock of output m, f_sc / (ODIV + 1), delayed by CUR taps from the dividers' common start; low where Gated mode has stopped
the sample clock (R288, R291, R292). -/
def Chip.ckoClock (c : Chip) (m : Nat) : Bool :=
  let d := c.ckoTaps m
  let x := (c.epc.line - c.clk.ckoAt) * 64 * c.fscRatio.2 / c.fscRatio.1
  decide (c.synState ≠ 5) && !c.clk.returnHeld && decide (c.clk.ckoAt ≤ c.epc.line) && decide (c.ckoCur m ≤ x) &&
    decide ((x - c.ckoCur m) % d < ckoHighTaps (d / 64))

/-- The pulse per second of output m (R292). -/
def Chip.ckoPulse (c : Chip) (m : Nat) : Bool := bit c.clk.ckoHigh m && decide (cnt0 c.clk.ckoEdge m ≤ c.epc.line)

/-- The P and N balls of `CKOm`, with `REFIN` at level `refin` (R291 to R293). -/
def Chip.ckoPins (c : Chip) (m : Nat) (refin : Bool) : PinLevel × PinLevel :=
  let lvcmos := decide (c.wfld (R.CLK_CKO_CFG m) F.CLK_CKO_CFG_FMT = 3)
  let pair := fun (p : Bool) => (PinLevel.ofBool p, PinLevel.ofBool (!p && !lvcmos))
  if c.pins.porn then (.released, .released)
  else if c.ckoIdle m then pair false
  else
    match c.wfld (R.CLK_CKO_CFG m) F.CLK_CKO_CFG_SRC with
    | 0 => pair (c.ckoClock m)
    | 1 => pair (c.ckoPulse m)
    | _ => pair refin

/-- The 100 Ω termination of channel k of group g is connected (R68, R463). -/
def Chip.termOn (c : Chip) (g k : Nat) : Bool := c.flag (R.LG_CH_CFG g k) F.LG_CH_CFG_TERM && !c.vddaOff

/-- The 100 Ω input termination of `TRIGn` is connected: its TERM bit acts at once (R118). -/
def Chip.trigTermOn (c : Chip) (n : Nat) : Bool := c.flag (R.TRS_TRIG_CFG n) F.TRS_TRIG_CFG_TERM && !c.vddaOff

/-- `PENk` (R404, R436). -/
def Chip.penPin (c : Chip) (k : Nat) : PinLevel := PinLevel.ofBool (bit c.pins.pen k && !c.pins.porn)

/-- How much of each f_pfd period `SYN_LKA` is high, in 1/65536: none with `PORN` low; in ACQUIRE, LOCKED and RETURN as long as the phase error,
up to the whole period; all of it in every other state (R279). -/
def Chip.synLka (c : Chip) : Nat :=
  if c.pins.porn then 0
  else if c.synState = 1 ∨ c.synState = 2 ∨ c.synState = 6 then min 65536 c.clk.phaseErr
  else 65536

/-- `FAULTN`, an open-drain output (R428). -/
def Chip.faultnPin (c : Chip) : PinLevel := if c.pins.porn || c.pins.fault then .low else .released

/-- `INTNk` (R373): released before RUN (Table 21-10); while not asserted, a push-pull pin drives high. -/
def Chip.intnPin (c : Chip) (k : Nat) : PinLevel :=
  if c.pins.porn || (decide (c.stage ≠ 9) && !c.inSafe) then .released
  else if c.intAsserted k then .low
  else if bit (c.fld R.EVT_PIN_CFG F.EVT_PIN_CFG_PP) k then .high
  else .released

/-- `Mn_RSTN` of a populated channel: low until training begins, which is in stage 5 (R320, Table 17-7). -/
def Chip.mRstnPin (c : Chip) : PinLevel := PinLevel.ofBool (!c.pins.porn && (decide (c.mcState ≠ 0) || decide (5 ≤ c.stage)))

/-- `NV_RSTN`. -/
def Chip.nvRstnPin (c : Chip) : PinLevel := PinLevel.ofBool (!c.pins.porn)

end Sys2Proof.Machine
end

