-- ==== Sys2Proof/Safety.lean ====
section
/-! DEFINITION. What a safe run is, and the terms the statements use: an engine at work, a start in progress, a register write that
begins, a command that is accepted, what a command may leave behind, and the canonical form of the sparse stores. -/

namespace Sys2Proof.Machine

/-- A step that neither faults nor is refused. -/
def StepSafe (s : State) : Prop := ∃ t, step s = .next t

/-- Nothing stands between a command and its effect: `PORN` is high, nothing is demanded, no guarded pair pends, the ladder is in Gale with
no transition, and the PCI Express function is in D0. -/
def Chip.quiet (c : Chip) : Bool :=
  !c.pins.porn && c.fatal.isNone && !c.resetReq && c.acc.guardHost.isNone && c.acc.guardStw.isNone && decide (c.ladder = 0) &&
    c.pwr.down.isNone && c.pwr.up.isNone && !c.pcie.d3hot

/-- The engine is at work: quiet, in RUN, its start complete and not failed. -/
def Chip.atWork (c : Chip) : Bool := c.quiet && c.running && decide (c.stage = 9) && !c.boot.startFailed

/-- A start is in progress at stage `k`. -/
def Chip.inStart (c : Chip) (k : Nat) : Bool := c.quiet && c.starting k && !c.boot.startFailed

/-- Stage 7 with the Steward applying records, where no bank has failed the march test. -/
def Chip.inRecords (c : Chip) : Bool := c.inStart 7 && c.boot.wait.isNone && decide (c.marchFailed = 0)

/-- A register write begins: nothing dropped, no reason yet. -/
def Chip.writing (c : Chip) : Chip := { c with dropped := false, lastReason := 0 }

/-- An accepted command: REASON 0, and its effect `f` (R358). -/
def Chip.accept (c : Chip) (p : CmdPort) (f : Chip → Chip) : Chip := { f (c.setFld p.stat reasonFld 0) with lastReason := 0 }

/-- The command completes and leaves of the engine, before the lines and the cycle that every command ends with, something of which `P`
holds, with nothing demanded. -/
def Completes (i : Instr) (s : State) (P : Chip → Prop) : Prop :=
  ∃ c, exec i s = .next (s.after c) ∧ c.fatal = none ∧ c.resetReq = false ∧ P c

/-- The command completes and demands something: Safe entry or a warm reset. -/
def Demands (i : Instr) (s : State) (P : Chip → Prop) : Prop := ∃ c, exec i s = .next (s.after c) ∧ P c

/-- Registers outside the list are unchanged. -/
def Chip.keepsRegs (c d : Chip) (l : List Nat) : Prop := ∀ a, a ∉ l → d.reg a = c.reg a

/-- Both memories are unchanged: every word of the Common Store with its check bits, and all of the DRAM. -/
def Chip.keepsMem (c d : Chip) : Prop :=
  (∀ k, d.cstCell k = c.cstCell k) ∧ (∀ k, d.cstBad k = c.cstBad k) ∧ (∀ k, d.cstRaw k = c.cstRaw k) ∧ d.mc = c.mc

/-- Registers that raising an event may change: its status register, and the Scrivener's counts. -/
def eventRegs (e : Nat × Nat) : List Nat := [R.EVT_STAT e.1, R.EVT_STAT 0, R.SCV_REFUSED, R.SCV_LOST]

/-- A register that only field access types govern: none of its fields is CMD, SQC, GD, LK or WO, and no rule of its own (a triple, a
value pair, a lane count, a staged delay and the few named registers) applies to it. -/
def plainReg (a : Nat) (r : RegRow) : Bool :=
  decide (regRow a = some r) && decide (a < 0x800000) && decide (r.sqc = 0) && decide (r.gd = 0) && decide (r.cmd = 0) && decide (r.lk = 0) &&
    decide (r.wo = 0) && (spanOf writeTriples 3 a).isNone && (spanOf valuePairs 2 a).isNone &&
    !([R.EVT_RAISE, R.EPC_CTRL, R.SCH_CTRL, R.STW_MB_CTRL, R.CST_TEST, R.CST_BANK_FAIL_H].contains a) &&
    !(decide (a % 0x10000 = 0) && decide (0x68 ≤ a / 0x10000) && decide (a / 0x10000 < 0x6c)) &&
    !(decide (a / 0x10000 = 2) && decide (0x100 ≤ a % 0x10000) && decide (a % 0x10 = 4)) &&
    !(decide (0x40 ≤ a / 0x10000) && decide (a / 0x10000 < 0x48))

/-- A field write of the types RW, RWH and CNT: the written bits under `mask`, the others as they were. -/
def masked (old v mask : Nat) : Nat := old - (old &&& mask) + (v &&& mask)

/-- What every command leaves settled: nothing demanded, the lines recorded as they are, no rewritten line waiting, `FULn_STAT.STALL` as
the instances are, and no pending MSI-X vector that could be sent. -/
structure Chip.Settled (c : Chip) : Prop where
  fatal : c.fatal = none
  reset : c.resetReq = false
  kick : c.evt.kick = 0
  lines : c.evt.active = c.activeLines
  stall : ∀ n, n < 8 → c.flag (R.FUL_STAT n) F.FUL_STAT_STALL = c.fulStalled n
  pending : ∀ v, v < 64 → bit c.pba v = true → c.vectorOpen v = false

/-- The register file, its working copies and the Common Store keep the canonical form of SMap. -/
def Chip.canonical (c : Chip) : Bool :=
  SMap.wf regReset c.regs && SMap.wf regReset c.wcopy && Memory.wf c.cst

end Sys2Proof.Machine
end

