-- ==== Sys2Proof/Certificates/Slice0/Obligations.lean ====
section
/-! DEFINITION. The statements about the model, for the provers. In the result statements `Completes i s P` says that the command answers
a next state, demands nothing, and leaves of the engine something of which `P` holds, before the notice lines and the cycle that every
command ends with (stated by AfterFrame). -/

open Sys2Proof Sys2Proof.Machine

/-- In State.reset no command waits, PORN is low, FAULTN is asserted, every PEN pin is low, every register reads its reset value, and
nothing is stored, queued, recorded or armed. The value of a register for which the spec gives no reset value is the model's choice.
(01_architecture.md, 17_startup_image.md, 21_pins_electrical.md) -/
def Obligations.ResetState : Prop :=
  State.reset.pending = [] ∧ State.reset.chip.pins.porn = true ∧ State.reset.chip.pins.fault = true ∧ State.reset.chip.pins.pen = 0 ∧
    (∀ a, State.reset.chip.reg a = regReset a) ∧ (∀ k, State.reset.chip.cstCell k = 0) ∧ State.reset.chip.scv.queue = [] ∧
    State.reset.chip.car.entries = [] ∧ (∀ p, State.reset.chip.part p = {}) ∧ (∀ p, State.reset.chip.armed p = false) ∧
    State.reset.chip.out = [] ∧ State.reset.chip.canonical = true

/-- For every command and state, step of the state with the command at the front of its queue is exec of the command on the state with the
queue's rest. (15_register_model.md) -/
def Obligations.StepRunsFront : Prop :=
  ∀ (i : Instr) (rest : List Instr) (s : State), step { s with pending := i :: rest } = exec i { s with pending := rest }

/-- The model's choice (log 1): with no command waiting a step lets dwell fabric cycles pass; the fabric cycle count and the synthesiser
timeline advance by them, and the Common Store, the lane groups and the partitions stay as they are. (01_architecture.md) -/
def Obligations.IdleStep : Prop :=
  ∀ (s : State), s.pending = [] →
    ∃ t, step s = .next t ∧ t.pending = [] ∧ t.chip.cycle = s.chip.cycle + s.chip.dwell ∧
      t.chip.epc.line = s.chip.epc.line + s.chip.dwell * fabricCycle ∧ t.chip.cst = s.chip.cst ∧ t.chip.lanes = s.chip.lanes ∧
      t.chip.parts = s.chip.parts ∧ t.chip.mc = s.chip.mc ∧ t.chip.pins = s.chip.pins

/-- For every command and every state exec answers a next state whose queue is the one it was given: no command of the table ends in a
fault or a refusal. One whose operands lie outside the ranges of the engine's units and of the BAR0 window has no effect but the
passing of one fabric cycle (the model's choice, log 30). (15_register_model.md, 00_scope.md, 01_architecture.md) -/
def Obligations.EveryCommandAnswers : Prop :=
  (∀ (i : Instr) (s : State), ∃ t, exec i s = .next t ∧ t.pending = s.pending) ∧
  (∀ (i : Instr) (s : State), i.wf = false → exec i s = .next { s with chip := s.chip.idleFor 1 })

/-- In a state with PORN low, every well-formed command but PORN_ASSERT and PORN_RELEASE leaves the engine as it is, apart from what every
command ends with. With no exit in progress, a command on the data fabric has no effect of its own below Gale, one on the control
fabric none in Calm and Still, and one on the Steward and the keeper none in Still. (17_startup_image.md, 21_pins_electrical.md,
19_power_ladder.md) -/
def Obligations.StoppedPartsDoNothing : Prop :=
  (∀ (i : Instr) (s : State), s.chip.pins.porn = true → i.wf = true → i ≠ .pornAssert → (∀ f, i ≠ .pornRelease f) →
    exec i s = .next (s.after s.chip)) ∧
  (∀ (i : Instr) (s : State), s.chip.pins.porn = false → s.chip.pwr.up = none → i.wf = true →
    ((needOf i = .data ∧ 1 ≤ s.chip.ladder ∧ s.chip.ladder ≤ 4) ∨ (needOf i = .fabric ∧ 3 ≤ s.chip.ladder ∧ s.chip.ladder ≤ 4) ∨
      (needOf i = .steward ∧ s.chip.ladder = 4)) →
    exec i s = .next (s.after s.chip))

/-- Where a command has left nothing demanded, what follows it (the notice lines, the MSI-X messages, the cycle it takes and the stall
counts) changes no register but the pending-bit arrays and the stall registers, no memory, no lane group, partition, queue or record,
and takes exactly one fabric cycle. (16_events_scrivener.md, 08_fuller_method.md, 15_register_model.md) -/
def Obligations.AfterFrame : Prop :=
  ∀ (s : State) (c : Chip), c.fatal = none → c.resetReq = false →
    (∀ a, a ≠ R.HIF_MSIX_PBA_L → a ≠ R.HIF_MSIX_PBA_H → (∀ n, n < 8 → a ≠ R.FUL_STALL n ∧ a ≠ R.FUL_STAT n) →
      (s.after c).chip.reg a = c.reg a) ∧
    (s.after c).pending = s.pending ∧ (s.after c).chip.cycle = c.cycle + 1 ∧ (s.after c).chip.cst = c.cst ∧
    (s.after c).chip.mc = c.mc ∧ (s.after c).chip.lanes = c.lanes ∧ (s.after c).chip.parts = c.parts ∧ (s.after c).chip.car = c.car ∧
    (s.after c).chip.scv = c.scv ∧ (s.after c).chip.acc = c.acc ∧ (s.after c).chip.pins = c.pins ∧ (s.after c).chip.boot = c.boot ∧
    (s.after c).chip.wcopy = c.wcopy ∧ (s.after c).chip.rdata = c.rdata

/-- State.reset is settled: nothing demanded, no line active or recorded as active, no stalled instance, no pending vector.
(16_events_scrivener.md, 08_fuller_method.md) -/
def Obligations.SettledAtReset : Prop :=
  State.reset.chip.Settled

/-- If a state is settled and a step answers a next state, that state is settled too: the active lines are recorded as they are, no
rewritten status register waits for its lines, FULn_STAT.STALL shows the instances that are stalled, no MSI-X vector is pending that
could be sent, and nothing demanded is left undone. (16_events_scrivener.md, 08_fuller_method.md, 11_readout.md, 18_steward.md) -/
def Obligations.SettledKept : Prop :=
  ∀ (s t : State), s.chip.Settled → step s = .next t → t.chip.Settled

/-- In an engine at work a lockstep fault sets LOCKSTEP and enters Safe with cause 0x04: FAULTN is asserted, every partition is DISARMED,
the DMA engine and the streamers stop, no TRIG pulse or XT line is left, the pins take the levels of Safe, the ladder reads 5 and the
Steward serves nothing more. (18_steward.md) -/
def Obligations.ProcessorFaultEntersSafe : Prop :=
  ∀ (s : State), s.chip.atWork = true →
    ∃ t, exec .lockstepFault s = .next t ∧ t.chip.inSafe = true ∧ t.chip.fld R.STW_STATE F.STW_STATE_CAUSE = 4 ∧
      t.chip.flag R.STW_AON F.STW_AON_LOCKSTEP = true ∧ t.chip.stw.dead = true ∧ t.chip.pins.fault = true ∧
      (∀ p, p < 16 → t.chip.armed p = false) ∧ t.chip.dmaRuns = false ∧ (∀ n, n < 4 → t.chip.strRuns n = false) ∧
      t.chip.trs.pulses = [] ∧ t.chip.trs.xt = [] ∧ t.chip.pins.pen = 31 ∧ t.chip.ladder = 5 ∧ t.chip.pwr.down = none

/-- In a quiet engine WARM_RESET begins a start at stage 1 outside Safe with FAULTN released and the profile latch clear; the record
numbers, the last-words code, STW_AON and the fuses are as they were, the keeper keeps its timeline in HOLDOVER where it had one,
queues and streams are empty, and no partition is armed. (01_architecture.md, 18_steward.md, 21_pins_electrical.md) -/
def Obligations.WarmResetRestarts : Prop :=
  ∀ (s : State), s.chip.quiet = true → s.chip.frozen = false → s.chip.scv.queue = [] →
    ∃ t, exec .warmReset s = .next t ∧ t.chip.stage = 1 ∧ t.chip.inSafe = false ∧ t.chip.pins.fault = false ∧ t.chip.latched = false ∧
      t.chip.locked = false ∧ t.chip.reg R.SCV_REC_NO = s.chip.reg R.SCV_REC_NO ∧ t.chip.reg R.SCV_LW_L = s.chip.reg R.SCV_LW_L ∧
      t.chip.reg R.STW_AON = s.chip.reg R.STW_AON ∧ (∀ k, k < 24 → t.chip.reg (R.STW_KEYHASH k) = s.chip.reg (R.STW_KEYHASH k)) ∧
      t.chip.epcState = (if s.chip.epc.timeline then 3 else 0) ∧ t.chip.car.entries = [] ∧ t.chip.dma.stream = none ∧
      (∀ p, p < 16 → t.chip.armed p = false)

/-- PORN_ASSERT leaves every PEN pin and FAULTN low in every state. PORN_RELEASE, with the flash as it was or another one fitted, releases
FAULTN, asserts PEN0 and, with no slot pending, begins the start of the active slot at stage 1. A verified image asserts PEN1 and ends
stage 2. A rail within limits whose regulator reports no fault is recorded: PEN0's ends stage 1, those of PEN1 to PEN3 assert the next
pin, PEN4's brings the synthesiser to ACQUIRE at stage 4, and in RUN PEN5's is seen within limits. The end of the march test clears
the Common Store, writes the mask of failed banks once (those whose reads failed and those whose check bits did), clears RAW and ends
stage 6. (17_startup_image.md, 14_common_store.md) -/
def Obligations.PinsAndStages : Prop :=
  (∀ (s : State), Completes .pornAssert s (fun c => c.pins.porn = true ∧ c.pins.pen = 0 ∧ c.pins.fault = true ∧ c.cst.words = [] ∧
      c.parts = [] ∧ c.boot.slotA = s.chip.boot.slotA ∧ c.boot.slotB = s.chip.boot.slotB)) ∧
  (∀ (f : Option FlashFit) (s : State), (Instr.pornRelease f).wf = true → s.chip.pins.porn = true → s.chip.fatal = none →
    s.chip.resetReq = false → (s.chip.flashFit f).bctl.pending = 0 → (s.chip.flashFit f).bctl.active < 2 →
    Completes (.pornRelease f) s (fun c => c.pins.porn = false ∧ c.pins.fault = false ∧ bit c.pins.pen 0 = true ∧ c.stage = 1 ∧
      c.fld R.STW_BOOT_STAT F.STW_BOOT_STAT_SLOT = (s.chip.flashFit f).bctl.active ∧ c.boot.slotA = (s.chip.flashFit f).boot.slotA ∧
      c.boot.slotB = (s.chip.flashFit f).boot.slotB)) ∧
  (∀ (s : State) (o : Bool), s.chip.inStart 2 = true → s.chip.imgVerify (s.chip.slot s.chip.boot.runSlot) o = 0 →
    Completes (.imageVerifyDone o) s (fun c => c.stage = 3 ∧ c.pins.pen = maskSet s.chip.pins.pen 1 ∧ c.boot.penAt = s.chip.epc.line ∧
      (∀ a, a ≠ R.STW_BOOT_STAT → c.reg a = s.chip.reg a))) ∧
  (∀ (s : State) (k v : Nat), v < 65536 → s.chip.quiet = true → s.chip.railAwaited = some k → (s.chip.pmAddr k = 0 ∨ v = 0) →
    let c := { s.chip with pins := { s.chip.pins with railOk := maskSet s.chip.pins.railOk k } }.railRecord k 0
    (k = 0 → exec (.railUp k v) s = .next (s.after (c.setStage 2))) ∧
    (1 ≤ k → k ≤ 3 → exec (.railUp k v) s = .next (s.after (c.penUp (k + 1)))) ∧
    (k = 4 → exec (.railUp k v) s = .next (s.after ((c.setStage 4).synAcquire 10))) ∧
    (k = 5 → exec (.railUp k v) s = .next (s.after c))) ∧
  (∀ (s : State) (f g : BitVec 64), s.chip.inStart 6 = true → s.chip.acc.woDone.contains R.CST_BANK_FAIL_L = false →
    s.chip.acc.woDone.contains R.CST_BANK_FAIL_H = false →
    let m := f.toNat ||| (g.toNat ||| (s.chip.rn R.CST_CHK_FAIL_L + 2 ^ 32 * s.chip.rn R.CST_CHK_FAIL_H))
    Completes (.marchTestDone f g) s (fun c => c.stage = 7 ∧ c.cst = {} ∧ c.reg R.CST_BANK_FAIL_L = BitVec.ofNat 32 m ∧
      c.reg R.CST_BANK_FAIL_H = BitVec.ofNat 32 (m / 2 ^ 32) ∧ c.flag R.CST_TEST F.CST_TEST_RAW = false ∧
      c.flag R.CST_STAT F.CST_STAT_MARCH_DONE = true))

/-- At stage 5, DIMMs that populate the first n channels, keep R295 and run at grade g bring the controller to READY with NCH = n and
SPEED = g, set RAW for the march test and move the start to stage 6: where the training cache serves, MCX_TRN_MISS and the cache stay
as they are; where it does not and full training passes on every channel, MCX_TRN_MISS counts, the cache is written with the start's
keys, and the delays found come into use. (13_dram.md, 17_startup_image.md) -/
def Obligations.DramStartUp : Prop :=
  ∀ (s : State) (l : List DimmFacts) (b : Bool) (n g : Nat), s.chip.inStart 5 = true → (Instr.dramTrainingDone l b).wf = true →
    dimmCount l = some n → (∀ k, k < n → dimmBad (dimmOf l k) = false) → s.chip.dimmGrade l n = some g →
    let up := fun (c : Chip) => c.stage = 6 ∧ c.mcState = 2 ∧ c.nch = n ∧ c.fld R.MCX_STAT F.MCX_STAT_SPEED = g ∧
      c.flag R.CST_TEST F.CST_TEST_RAW = true ∧
      (∀ k, k < n → c.flag (R.MC_STAT k) F.MC_STAT_READY = true ∧ c.reg (R.MC_DIMM_SN k) = BitVec.ofNat 32 (dimmOf l k).serial)
    (∀ d, s.chip.cachedDelays l n g b = some d → Completes (.dramTrainingDone l b) s (fun c => up c ∧ c.mc.cache = s.chip.mc.cache ∧
      c.reg R.MCX_TRN_MISS = s.chip.reg R.MCX_TRN_MISS)) ∧
    (s.chip.cachedDelays l n g b = none → (∀ k, k < n → (dimmOf l k).trained = true) →
      Completes (.dramTrainingDone l b) s (fun c => up c ∧ c.reg R.MCX_TRN_MISS = s.chip.reg R.MCX_TRN_MISS + 1 ∧
        (∃ t, c.mc.cache = some t ∧ t.key = trainKey l n g) ∧ (∀ k, k < n → (c.mcCh k).inUse = (dimmOf l k).delays)))

/-- An image that fails a check of Table 17-5, a rail that misses its timeout, a group whose CRC fails as it is read again before its
records apply, a WAIT that reaches its TIMEOUT without the value, and the watchdog below RUN end the start: the engine is in Safe with
cause 0x07, and STW_BOOT_STAT.RESULT holds the code of the first check that fails, START_RAIL, the code 0x06, START_WAIT or
START_WATCHDOG. The Steward's reset after an exported failed start, the reset after a RESET service's response and the automatic reset
out of Safe each ask for a warm reset, which follows at the end of the command; the automatic one counts in AUTO_CNT. CONFIRM_S
seconds after RUN a slot in trial is confirmed in one boot-control update; 60 s after RUN AUTO_CNT is 0. (17_startup_image.md,
18_steward.md) -/
def Obligations.FailuresAndResets : Prop :=
  (∀ (s : State) (k : Nat), s.chip.quiet = true → s.chip.railAwaited = some k →
    Demands (.railTimeout k) s (fun c => c.settle.inSafe = true ∧ c.settle.fld R.STW_STATE F.STW_STATE_CAUSE = 7 ∧
      c.settle.fld R.STW_BOOT_STAT F.STW_BOOT_STAT_RESULT = 0x10)) ∧
  (∀ (s : State) (o : Bool), s.chip.inStart 2 = true → s.chip.imgVerify (s.chip.slot s.chip.boot.runSlot) o ≠ 0 →
    Demands (.imageVerifyDone o) s (fun c => c.settle.inSafe = true ∧ c.settle.fld R.STW_STATE F.STW_STATE_CAUSE = 7 ∧
      c.settle.fld R.STW_BOOT_STAT F.STW_BOOT_STAT_RESULT = s.chip.imgVerify (s.chip.slot s.chip.boot.runSlot) o)) ∧
  (∀ (s : State), s.chip.inStart 7 = true → s.chip.boot.wait = none → s.chip.groupBegins = true →
    Demands (.imageVerifyDone false) s (fun c => c.settle.inSafe = true ∧ c.settle.fld R.STW_STATE F.STW_STATE_CAUSE = 7 ∧
      c.settle.fld R.STW_BOOT_STAT F.STW_BOOT_STAT_RESULT = 6)) ∧
  (∀ (s : State) (w : WaitRec), s.chip.inStart 7 = true → s.chip.boot.wait = some w → (s.chip.waitLine w.due).waitMet w = false →
    Demands .startWaitTimeout s (fun c => c.settle.inSafe = true ∧ c.settle.fld R.STW_STATE F.STW_STATE_CAUSE = 7 ∧
      c.settle.fld R.STW_BOOT_STAT F.STW_BOOT_STAT_RESULT = 0x13)) ∧
  (∀ (s : State) (k : Nat), k < 9 → s.chip.inStart k = true →
    Demands .watchdogExpire s (fun c => c.settle.inSafe = true ∧ c.settle.fld R.STW_STATE F.STW_STATE_CAUSE = 7 ∧
      c.settle.fld R.STW_BOOT_STAT F.STW_BOOT_STAT_RESULT = 0x16 ∧ c.settle.stw.dead = true)) ∧
  (∀ (s : State), s.chip.pins.porn = false → s.chip.ladder ≠ 4 → s.chip.boot.failResetDue = true → s.chip.scv.exportTo = none →
    s.chip.stw.dead = false → exec .startFailReset s = .next (s.after { s.chip with resetReq := true })) ∧
  (∀ (s : State) (t : Nat), s.chip.pins.porn = false → s.chip.ladder ≠ 4 → s.chip.stw.dead = false → s.chip.stw.resetAt = some t →
    exec .mailboxResetFire s = .next (s.after { s.chip.waitLine (t + 10000 * micro) with resetReq := true })) ∧
  (∀ (s : State), s.chip.pins.porn = false → s.chip.ladder ≠ 4 → s.chip.stw.autoDue = true → s.chip.inSafe = true →
    exec .autoReset s = .next (s.after
      (let c := s.chip.waitLine (s.chip.stw.faultAt + 10000 * micro)
       { c.setFld R.STW_AON F.STW_AON_AUTO_CNT (min 3 (c.fld R.STW_AON F.STW_AON_AUTO_CNT + 1)) with resetReq := true }))) ∧
  (∀ (s : State), s.chip.atWork = true → s.chip.inTrial = true →
    exec .trialConfirmTimeout s = .next (s.after
      (s.chip.waitLine (s.chip.boot.runAt + (s.chip.slot s.chip.boot.runSlot).confirmS * second)).confirmSlot)) ∧
  (∀ (s : State), s.chip.atWork = true →
    exec .autoCntClear s = .next (s.after
      ((s.chip.waitLine (s.chip.boot.runAt + 60 * second)).setFld R.STW_AON F.STW_AON_AUTO_CNT 0)))

/-- With the march test clean, no WAIT polling and the record next in the running image, the Steward takes it, so that the one behind it
is next: WRITE records write consecutive registers as the Steward, one a cycle, GWRITE records perform a guarded pair, whose value
applies a cycle after its first write, FENCE changes nothing else, BLOB records of KIND 1, taken in stages 1 and 2, carry the firmware
package on, those of KIND 2 write a sequencer block, WAIT records begin and end a poll, and FILL and SCHED records write the Common
Store through the Steward's port. (17_startup_image.md, 15_register_model.md) -/
def Obligations.ImageRecords : Prop :=
  (∀ (s : State) (a : Nat) (vs : List Word), s.chip.inRecords = true → s.chip.recIs (.write a vs) = true → (Instr.imgWrite a vs).wf = true →
    (ImgRec.write a vs).badAddress = false → exec (.imgWrite a vs) s = .next (s.after (s.chip.recTaken.busWrites .steward a vs))) ∧
  (∀ (s : State) (a : Nat) (v : Word), s.chip.inRecords = true → s.chip.recIs (.gwrite a v) = true →
    a ∈ [R.GLB_PROFILE, R.GLB_CFG_LOCK, R.EPC_SET_H, R.CLK_SRC, R.MCX_TRN_COMMIT, R.PWR_FORCE] →
    exec (.imgGwrite a v) s = .next (s.after ((s.chip.recTaken.writing.pass 1).pairDone .steward a v.toNat true))) ∧
  (∀ (s : State), s.chip.inRecords = true → s.chip.recIs .fence = true → exec .imgFence s = .next (s.after s.chip.recTaken)) ∧
  (∀ (s : State) (k t : Nat) (vs : List Word), k = 1 ∨ k = 2 → s.chip.inStart k = true → t < 256 → s.chip.fwLen < 4294967296 →
    s.chip.recIs (.blob 1 t s.chip.fwLen vs) = true →
    exec (.imgBlob 1 t s.chip.fwLen vs) s = .next (s.after
      { s.chip.recTaken with boot := { s.chip.recTaken.boot with fw := s.chip.boot.fw ++ vs } })) ∧
  (∀ (s : State) (t o : Nat) (vs : List Word), s.chip.inRecords = true → s.chip.recIs (.blob 2 t o vs) = true → t < 16 → o % 4 = 0 →
    o + 4 * vs.length ≤ 0x1400 →
    exec (.imgBlob 2 t o vs) s = .next (s.after (s.chip.recTaken.busWrites .steward (R.SQ_CTRL t + o) vs))) ∧
  (∀ (s : State) (a : Nat) (m v : Word) (t : Nat), s.chip.inRecords = true → s.chip.recIs (.wait a m v t) = true → a < 0x800000 →
    t ≤ 500000 →
    exec (.imgWait a m v t) s = .next (s.after { s.chip.recTaken with boot := { s.chip.recTaken.boot with
      wait := some ⟨a, m, v, s.chip.boot.recAt, s.chip.epc.line + t * micro⟩ } })) ∧
  (∀ (s : State) (w : WaitRec), s.chip.inStart 7 = true → s.chip.boot.wait = some w → s.chip.waitMet w = true →
    exec .imgWaitMet s = .next (s.after (s.chip.waitEnd w))) ∧
  (∀ (s : State) (a n : Nat) (vs : List DWord), s.chip.inRecords = true → s.chip.recIs (.fill a n false vs) = true → a < 4194304 →
    a + n ≤ 4194304 → exec (.imgFill a n false vs) s = .next (s.after (s.chip.recTaken.cstWriteList 18 a vs))) ∧
  (∀ (s : State) (a n : Nat) (v : DWord), s.chip.inRecords = true → s.chip.recIs (.fill a n true [v]) = true → a < 4194304 →
    a + n ≤ 4194304 → exec (.imgFill a n true [v]) s = .next (s.after (s.chip.recTaken.cstWriteList 18 a (List.replicate n v)))) ∧
  (∀ (s : State) (k : Nat) (vs : List DWord), s.chip.inRecords = true → s.chip.recIs (.sched k vs) = true → k < 256 → vs.length = 6 →
    exec (.imgSched k vs) s = .next (s.after (s.chip.recTaken.cstWriteList 18 (s.chip.schWord k) vs)))

/-- With no bank failed, nothing deferred, every partition's store large enough, no fuse due and no slot in trial, the END record latches
the profile as Tables 1-3 to 1-5 set it, clears RAW, locks where Steady is in force, and ends at stage 9 in RUN with PEN5 asserted.
(17_startup_image.md, 01_architecture.md) -/
def Obligations.StartCompletes : Prop :=
  ∀ (s : State), s.chip.inRecords = true → s.chip.recIs .endRec = true → s.chip.boot.deferred = [] → (∀ p, p < 16 → (s.chip.setStage 8).segShort p = false) →
    (s.chip.slot s.chip.boot.runSlot).provision = false → s.chip.boot.fromPending = false →
    ∃ c, exec .imgEnd s = .next (s.after c) ∧ c.stage = 9 ∧ c.running = true ∧ bit c.pins.pen 5 = true ∧
      c.flag R.CST_TEST F.CST_TEST_RAW = false ∧ c.reg R.GLB_PROFILE_EFF = BitVec.ofNat 32 (profileEff (s.chip.rn R.GLB_PROFILE)) ∧
      (bit (s.chip.rn R.GLB_PROFILE) 0 = false → c.locked = true) ∧ c.boot.runAt = s.chip.epc.line

/-- In an engine at work a write of another size or alignment changes nothing, and a read of it returns 0, for each initiator of register
accesses (Table 15-1), every address and size. (R9) -/
def Obligations.UnalignedAccess : Prop :=
  ∀ (s : State) (i : Init) (a n : Nat) (v : Word), s.chip.atWork = true → i ≠ .sched → a < 16777216 → (n ≠ 4 ∨ a % 4 ≠ 0) →
    exec (.bar0UnalignedAccess i true a n v) s = .next (s.after s.chip) ∧
    exec (.bar0UnalignedAccess i false a n v) s = .next (s.after { s.chip with rdata := 0 })

/-- In an engine at work, a write of a register whose fields are RW, RWH, CNT or read only replaces exactly the bits of its writable
fields, drops nothing and changes no other register, working copy or memory word. An analogue setting is a write of a channel's
LGn_CHk_CFG (TERM, TRIM) or of a TRS_TRIGn_CFG (TERM): TERM and TRIM take the written bits at once, whether or not the LK fields
beside them are locked; no working copy and no memory word changes. Where no LK field would change after the lock, the LK fields take
the written bits too, nothing is dropped and no other register changes; where one would, they stay, and the write counts in
GLB_DROP_CNT. (15_register_model.md, 03_front_end.md, 04_trigger_resources.md) -/
def Obligations.PlainRegisterWrite : Prop :=
  (∀ (s : State) (i : Init) (a : Nat) (v : Word) (r : RegRow), s.chip.atWork = true → i ≠ .sched → a % 4 = 0 → plainReg a r = true →
    Completes (.registerWrite i a v) s (fun c => c.rn a = masked (s.chip.rn a) v.toNat (r.rw ||| r.rwh ||| r.cnt) ∧ c.dropped = false ∧
      (∀ b, b ≠ a → c.reg b = s.chip.reg b) ∧ c.wcopy = s.chip.wcopy ∧ s.chip.keepsMem c)) ∧
  (∀ (s : State) (i : Init) (a : Nat) (v : Word), s.chip.atWork = true → i ≠ .sched →
    ((∃ g k, g < 8 ∧ k < 32 ∧ a = R.LG_CH_CFG g k) ∨ (∃ n, n < 32 ∧ a = R.TRS_TRIG_CFG n)) →
    let bars := s.chip.locked = true ∧ (s.chip.rn a ^^^ v.toNat) &&& lkMask a ≠ 0
    Completes (.analogSettingWrite i a v) s (fun c => c.wcopy = s.chip.wcopy ∧ s.chip.keepsMem c ∧
      (∀ g k, g < 8 → k < 32 → a = R.LG_CH_CFG g k → c.flag a F.LG_CH_CFG_TERM = bit v.toNat 24 ∧ c.fld a F.LG_CH_CFG_TRIM = bits v.toNat 16 8) ∧
      (∀ n, n < 32 → a = R.TRS_TRIG_CFG n → c.flag a F.TRS_TRIG_CFG_TERM = bit v.toNat 4) ∧
      (¬bars → c.dropped = false ∧ c.rn a &&& lkMask a = v.toNat &&& lkMask a ∧ (∀ b, b ≠ a → c.reg b = s.chip.reg b)) ∧
      (bars → c.dropped = true ∧ c.rn a &&& lkMask a = s.chip.rn a &&& lkMask a ∧
        c.reg R.GLB_DROP_CNT = s.chip.reg R.GLB_DROP_CNT + 1)))

/-- In an engine at work whose configuration is locked, a write that would change the LK field of a lane group's CFG register leaves the
register as it was, counts in GLB_DROP_CNT and is reported as dropped; before the lock the same write takes effect. In an engine at
work the first write of CST_BANK_FAIL_L since reset is taken whole and remembered; a later one leaves the register as it was, counts
in GLB_DROP_CNT and is reported as dropped. (15_register_model.md, 14_common_store.md) -/
def Obligations.LockedAndOnce : Prop :=
  (∀ (s : State) (i : Init) (g : Nat) (v : Word), s.chip.atWork = true → i ≠ .sched → g < 8 →
    (s.chip.locked = true → (s.chip.rn (R.LG_CFG g) ^^^ v.toNat) &&& lkMask (R.LG_CFG g) ≠ 0 →
      Completes (.registerWrite i (R.LG_CFG g) v) s (fun c => c.reg (R.LG_CFG g) = s.chip.reg (R.LG_CFG g) ∧ c.dropped = true ∧
        c.reg R.GLB_DROP_CNT = s.chip.reg R.GLB_DROP_CNT + 1)) ∧
    (s.chip.locked = false →
      Completes (.registerWrite i (R.LG_CFG g) v) s (fun c => c.rn (R.LG_CFG g) &&& lkMask (R.LG_CFG g) = v.toNat &&& lkMask (R.LG_CFG g) ∧
        c.dropped = false ∧ c.reg R.GLB_DROP_CNT = s.chip.reg R.GLB_DROP_CNT))) ∧
  (∀ (s : State) (i : Init) (v : Word), s.chip.atWork = true → i ≠ .sched →
    (s.chip.acc.woDone.contains R.CST_BANK_FAIL_L = false →
      Completes (.woWrite i R.CST_BANK_FAIL_L v) s (fun c => c.reg R.CST_BANK_FAIL_L = v ∧ c.dropped = false ∧
        c.acc.woDone.contains R.CST_BANK_FAIL_L = true)) ∧
    (s.chip.acc.woDone.contains R.CST_BANK_FAIL_L = true →
      Completes (.woWrite i R.CST_BANK_FAIL_L v) s (fun c => c.reg R.CST_BANK_FAIL_L = s.chip.reg R.CST_BANK_FAIL_L ∧ c.dropped = true ∧
        c.reg R.GLB_DROP_CNT = s.chip.reg R.GLB_DROP_CNT + 1)))

/-- In an engine at work a read of a triple's _L shows it and captures _M and _H for its initiator, so that a later read of _M or _H by
the same initiator shows the captured value; and writes of _L, _M and then _H of a writable triple put all three at the write of _H,
where a lock does not bar it. (01_architecture.md) -/
def Obligations.StampTriples : Prop :=
  (∀ (s : State) (i : Init) (p : Nat), s.chip.atWork = true → i ≠ .sched → p < 16 →
    (∀ e, e ∈ s.chip.acc.captured → e.1 ≠ latchKey i (R.PRT_OLDEST_L p)) →
    Completes (.stampTripleRead i (R.PRT_OLDEST_L p)) s (fun c => c.rdata = s.chip.view i (R.PRT_OLDEST_L p) ∧ c.regs = s.chip.regs ∧
      (∀ d, SMap.get d c.acc.captured (latchKey i (R.PRT_OLDEST_L p + 4)) = s.chip.view i (R.PRT_OLDEST_L p + 4)) ∧
      (∀ d, SMap.get d c.acc.captured (latchKey i (R.PRT_OLDEST_L p + 8)) = s.chip.view i (R.PRT_OLDEST_L p + 8)))) ∧
  (∀ (s : State) (i : Init) (p k : Nat) (m : Word), s.chip.atWork = true → i ≠ .sched → p < 16 → (k = 1 ∨ k = 2) →
    (∀ d, SMap.get d s.chip.acc.captured (latchKey i (R.PRT_OLDEST_L p + 4 * k)) = m) →
    Completes (.stampTripleRead i (R.PRT_OLDEST_L p + 4 * k)) s (fun c => c.rdata = m ∧ c.regs = s.chip.regs)) ∧
  (∀ (s : State) (i : Init) (p : Nat) (lo mi hi : Word), s.chip.atWork = true → i ≠ .sched → p < 16 → s.chip.locked = false →
    (∀ d, SMap.get d s.chip.acc.written (latchKey i (R.PRT_HOLD_START_L p)) = lo) →
    (∀ d, SMap.get d s.chip.acc.written (latchKey i (R.PRT_HOLD_START_L p + 4)) = mi) →
    Completes (.stampTripleWrite i (R.PRT_HOLD_START_L p + 8) hi) s (fun c =>
      c.triple (R.PRT_HOLD_START_L p) = lo.toNat + 2 ^ 32 * mi.toNat + 2 ^ 64 * (hi.toNat % 65536) ∧
      s.chip.keepsRegs c [R.PRT_HOLD_START_L p, R.PRT_HOLD_START_L p + 4, R.PRT_HOLD_START_L p + 8]))

/-- In an engine at work a read of a status register latches its occurrence count for its initiator, and a clear request clears exactly
the masked bits where its SEQ equals the count's low byte and the initiator's latched count is still the count; on a mismatch, or with
no latch held, nothing is cleared and no event is raised. (R348) -/
def Obligations.StatusClear : Prop :=
  (∀ (s : State) (i : Init) (n : Nat), s.chip.atWork = true → i ≠ .sched → n < 64 →
    Completes (.statusRegisterRead i n) s (fun c => c.rdata = s.chip.view i (R.EVT_STAT n) ∧
      SMap.get (fun _ => 0) c.acc.statC (latchKey i (R.EVT_STAT n)) = cnt0 s.chip.evt.cnt n ∧ c.regs = s.chip.regs)) ∧
  (∀ (s : State) (i : Init) (n : Nat) (v : Word), s.chip.atWork = true → i ≠ .sched → n < 64 → v.toNat / 2 ^ 24 = cnt0 s.chip.evt.cnt n % 256 →
    (latchKey i (R.EVT_STAT n), cnt0 s.chip.evt.cnt n) ∈ s.chip.acc.statC →
    (∀ x, (latchKey i (R.EVT_STAT n), x) ∈ s.chip.acc.statC → x = cnt0 s.chip.evt.cnt n) →
    Completes (.statusClear i n v) s (fun c =>
      c.rn (R.EVT_STAT n) = s.chip.rn (R.EVT_STAT n) - (s.chip.rn (R.EVT_STAT n) &&& (v.toNat % 2 ^ 24)) ∧
      (∀ b, b ≠ R.EVT_STAT n → c.reg b = s.chip.reg b))) ∧
  (∀ (s : State) (i : Init) (n : Nat) (v : Word), s.chip.atWork = true → i ≠ .sched → n < 64 →
    (v.toNat / 2 ^ 24 ≠ cnt0 s.chip.evt.cnt n % 256 ∨ (∀ x, (latchKey i (R.EVT_STAT n), x) ∈ s.chip.acc.statC → x ≠ cnt0 s.chip.evt.cnt n)) →
    Completes (.statusClear i n v) s (fun c => c.regs = s.chip.regs))

/-- In an engine at work the first write of a guarded register changes no register and is held pending; the mirror write of its complement
then applies the value; any other mirror value, a mirror write with nothing pending, and 4,096 cycles without the mirror write leave
the guarded register as it was and count in GLB_GUARD_CNT. (15_register_model.md) -/
def Obligations.GuardedPair : Prop :=
  (∀ (s : State) (i : Init) (v : Word), s.chip.atWork = true → i ≠ .sched →
    Completes (.guardFirstWrite i R.CLK_SRC v) s (fun c => c.regs = s.chip.regs ∧ c.guardOf i = some ⟨R.CLK_SRC, v, s.chip.cycle⟩)) ∧
  (∀ (s : State) (p : GuardPend) (v : Word), s.chip.running = true → s.chip.stage = 9 → s.chip.boot.startFailed = false →
    s.chip.pins.porn = false → s.chip.ladder = 0 → s.chip.fatal = none → s.chip.resetReq = false → s.chip.acc.guardStw = none →
    s.chip.pcie.d3hot = false → s.chip.acc.guardHost = some p → p.addr = R.GLB_CFG_LOCK → s.chip.cycle ≤ p.cycle + 4096 → s.chip.locked = false → bit p.val.toNat 0 = true →
    (v = ~~~p.val → Completes (.guardMirrorWrite .host (R.GLB_CFG_LOCK + 0x800000) v) s (fun c => c.locked = true ∧ c.acc.guardHost = none)) ∧
    (v ≠ ~~~p.val → Completes (.guardMirrorWrite .host (R.GLB_CFG_LOCK + 0x800000) v) s (fun c => c.locked = false ∧ c.acc.guardHost = none ∧
      c.reg R.GLB_GUARD_CNT = s.chip.reg R.GLB_GUARD_CNT + 1 ∧ c.dropped = true)) ∧
    Completes (.guardTimeout .host) s (fun c => c.locked = false ∧ c.acc.guardHost = none ∧ p.cycle + 4096 ≤ c.cycle ∧
      c.reg R.GLB_GUARD_CNT = s.chip.reg R.GLB_GUARD_CNT + 1)) ∧
  (∀ (s : State) (v : Word), s.chip.atWork = true →
    Completes (.guardMirrorWrite .host (R.GLB_CFG_LOCK + 0x800000) v) s (fun c => c.reg R.GLB_CFG_LOCK = s.chip.reg R.GLB_CFG_LOCK ∧
      c.reg R.GLB_GUARD_CNT = s.chip.reg R.GLB_GUARD_CNT + 1))

/-- In an engine at work a write of a counter's VAL_L is kept for its initiator and changes no register; the write of VAL_H then sets the
48-bit value at once where the counter has no owner sequencer, and where it has one waits to replace the value at the start of that
owner's next evaluation cycle. (04_trigger_resources.md) -/
def Obligations.CounterValueWrite : Prop :=
  (∀ (s : State) (i : Init) (n : Nat) (v : Word), s.chip.atWork = true → i ≠ .sched → n < 32 →
    Completes (.counterValueWrite i (R.TRS_CT_VAL_L n) v) s (fun c => c.regs = s.chip.regs ∧
      SMap.get (fun _ => 0) c.acc.written (latchKey i (R.TRS_CT_VAL_L n)) = v)) ∧
  (∀ (s : State) (i : Init) (n : Nat) (lo v : Word), s.chip.atWork = true → i ≠ .sched → n < 32 →
    (∀ d, SMap.get d s.chip.acc.written (latchKey i (R.TRS_CT_VAL_L n)) = lo) →
    Completes (.counterValueWrite i (R.TRS_CT_VAL_L n + 4) v) s (fun c =>
      (s.chip.valueOwned (R.TRS_CT_VAL_L n) = false → c.ctVal n = lo.toNat + 2 ^ 32 * (v.toNat % 65536)) ∧
      (s.chip.valueOwned (R.TRS_CT_VAL_L n) = true → c.ctVal n = s.chip.ctVal n ∧
        SMap.get (fun _ => 0) c.trs.presets (R.TRS_CT_VAL_L n) = lo.toNat + 2 ^ 32 * (v.toNat % 65536))))

/-- In an engine at work, unmasking vector v clears its MASK; where its pending bit is set, its line is active and the endpoint may send,
the message is sent and the pending bit clears. A configuration write puts Bus Master Enable, MSI-X Enable, Function Mask and the
power state, and Bus Master Enable falling stops the DMA engine; a conventional reset clears the three bits, leaves the function in D0
and stops the DMA engine. In an engine at work GLB_FENCE.FENCE completes at once, since every earlier write of its initiator has taken
effect, and adds one to that initiator's count; a read of GLB_FENCE that has captured nothing returns the count in its upper half and
changes no register. In an engine at work with the audit active, a pass over LK fields that all agree with the shadow, 100 ms after
the pass before, only counts the pass; with no audit it does nothing. (16_events_scrivener.md, 11_readout.md, 15_register_model.md) -/
def Obligations.VectorsFencesAudit : Prop :=
  (∀ (s : State) (v : Nat), s.chip.atWork = true → v < 64 →
    Completes (.msixVectorUnmask v) s (fun c => c.flag (R.HIF_MSIX_CTRL v) F.HIF_MSIX_CTRL_MASK = false ∧
      (∀ a, a ≠ R.HIF_MSIX_CTRL v → c.reg a = s.chip.reg a))) ∧
  (∀ (s t : State) (v : Nat), s.chip.atWork = true → v < 64 → s.chip.msixOpen = true → bit s.chip.pba v = true → bit s.chip.activeLines v = true →
    exec (.msixVectorUnmask v) s = .next t → Out.msix v ∈ t.chip.out ∧ bit t.chip.pba v = false) ∧
  (∀ (s : State) (b m f d : Bool), s.chip.atWork = true →
    Completes (.pcieConfigWrite b m f d) s (fun c => c.pcie = ⟨b, m, f, d⟩ ∧ (s.chip.pcie.bme = true → b = false → c.dmaRuns = false))) ∧
  (∀ (s : State), s.chip.atWork = true →
    Completes .pcieConventionalReset s (fun c => c.pcie = {} ∧ c.dmaRuns = false)) ∧
  (∀ (s : State), s.chip.atWork = true →
    Completes (.fence .host) s (fun c => c.fenceCount .host = s.chip.fenceCount .host + 1 ∧ c.fenceCount .steward = s.chip.fenceCount .steward ∧
      (∀ a, a ≠ R.GLB_FENCE → c.reg a = s.chip.reg a)) ∧
    Completes (.fence .steward) s (fun c => c.fenceCount .steward = s.chip.fenceCount .steward + 1 ∧ c.fenceCount .host = s.chip.fenceCount .host ∧
      (∀ a, a ≠ R.GLB_FENCE → c.reg a = s.chip.reg a))) ∧
  (∀ (s : State) (i : Init), s.chip.atWork = true → i ≠ .sched → (∀ e, e ∈ s.chip.acc.captured → e.1 ≠ latchKey i R.GLB_FENCE) →
    Completes (.fenceRead i) s (fun c => c.rdata.toNat = s.chip.fenceCount i % 65536 * 65536 ∧ c.regs = s.chip.regs)) ∧
  (∀ (s : State) (sh : List (Nat × Word)), s.chip.atWork = true → s.chip.acc.shadow = some sh →
    s.chip.flag R.GLB_AUDIT_STAT F.GLB_AUDIT_STAT_ACTIVE = true → s.chip.stw.dead = false →
    (∀ e, e ∈ s.chip.regs ++ sh → ∀ m, m ∈ lkFields e.1 → s.chip.rn e.1 &&& m = shadowOf sh e.1 &&& m) →
    exec (.registerAudit []) s = .next (s.after ((s.chip.pollWait 2 100000).addCnt R.GLB_AUDIT_CNT 1))) ∧
  (∀ (s : State), s.chip.atWork = true → s.chip.acc.shadow = none → exec (.registerAudit []) s = .next (s.after s.chip))

/-- In an engine at work with SRC = epoch word, EPOCH_WORD with the transitions of a word of 96 Manchester cells of 1 µs, SYNC 0xA5C3, any
payload and its CRC, after at least 8 µs of rest at the low level and its time behind the last edge, makes that payload the pending
word, a pending one before it being counted in EPC_WORD_ERR. In general, the command with at least 8 µs before its first transition
reads the 96 cells: where SYNC, cells, CRC and time pass their checks the payload becomes the pending word; where one fails the word
is counted in EPC_WORD_ERR, raises WORD_REJECT, and the pending word stays. In an engine at work with SRC = IRIG-B, IRIG_FRAME whose
digits decode, of the right shape, with its on-time point within 10 µs of the edge and its time in range labels the next PPS edge with
its TAI second plus one, and EPC_IRIG_YEAR counts one where the frame's day has passed into a new year; a frame that fails one of
these is counted and raises WORD_REJECT, and changes nothing else. (02_epoch.md) -/
def Obligations.EpochSources : Prop :=
  (∀ (s : State) (p T : Nat) (es : List Nat) (b : Nat → Bool), s.chip.atWork = true → s.chip.epcSrc = 0 → p < 2 ^ 64 → 8000 ≤ T →
    (∀ t, s.chip.epc.lastEdge = some t → t + 1000 * micro ≤ s.chip.epc.line) →
    (∀ k, b k = bit (0xa5c3 * 2 ^ 80 + p * 2 ^ 16 + crc16 (beBytes 8 p)) (95 - k)) →
    es = (List.range 96).flatMap (fun k => (T + 1000 * k) :: (if k < 95 ∧ b k = b (k + 1) then [T + 1000 * k + 500] else [])) →
    Completes (.epochWord false es) s (fun c => c.epc.word = some ⟨p, s.chip.epc.line⟩ ∧
      c.reg R.EPC_WORD_ERR = (if s.chip.epc.word.isSome then s.chip.reg R.EPC_WORD_ERR + 1 else s.chip.reg R.EPC_WORD_ERR) ∧
      (∀ a, a ∉ R.EPC_WORD_ERR :: eventRegs Ev.wordReject → c.reg a = s.chip.reg a))) ∧
  (∀ (s : State) (start : Bool) (edges : List Nat) (t0 : Nat), s.chip.atWork = true → s.chip.epcSrc = 0 → edges.length ≤ 192 →
    risingWf 0 edges = true → 8000 ≤ edges.headD 0 → epwFirst start edges = some t0 →
    (epwField (epwCells start edges t0) 0 16 = 0xa5c3 ∧ (epwCells start edges t0).all Option.isSome = true ∧
      crc16 (beBytes 8 (epwField (epwCells start edges t0) 16 64)) = epwField (epwCells start edges t0) 80 16 ∧
      (∀ t, s.chip.epc.lastEdge = some t → t + 1000 * micro ≤ s.chip.epc.line) →
      Completes (.epochWord start edges) s (fun c =>
        c.epc.word = some ⟨epwField (epwCells start edges t0) 16 64, s.chip.epc.line⟩)) ∧
    (epwField (epwCells start edges t0) 0 16 ≠ 0xa5c3 ∨ (epwCells start edges t0).all Option.isSome = false ∨
      crc16 (beBytes 8 (epwField (epwCells start edges t0) 16 64)) ≠ epwField (epwCells start edges t0) 80 16 ∨
      (∃ t, s.chip.epc.lastEdge = some t ∧ s.chip.epc.line < t + 1000 * micro) →
      exec (.epochWord start edges) s = .next (s.after ((s.chip.addCnt R.EPC_WORD_ERR 1).raise Ev.wordReject)))) ∧
  (∀ (s : State) (on : Int) (high : List Nat) (t : Irig) (day : Nat), s.chip.atWork = true → s.chip.epcSrc = 1 → high.length ≤ 100 →
    day = irigBits (high.map irigClass) 30 4 + 10 * irigBits (high.map irigClass) 35 4 + 100 * irigBits (high.map irigClass) 40 2 →
    irigDecode (high.map irigClass) (s.chip.irigYear day).1 = some t →
    (on.natAbs ≤ 10000 ∧ irigShape (high.map irigClass) = true ∧ s.chip.irigOk t = true →
      Completes (.irigFrame on high) s (fun c => c.epc.irig = some (s.chip.irigTai t + 1).toNat ∧ c.epc.irigDay = t.day ∧
        c.fld R.EPC_IRIG_YEAR F.EPC_IRIG_YEAR_YEAR =
          (s.chip.fld R.EPC_IRIG_YEAR F.EPC_IRIG_YEAR_YEAR + (if (s.chip.irigYear day).2 then 1 else 0)) % 2 ^ F.EPC_IRIG_YEAR_YEAR.w ∧
        (∀ a, a ≠ R.EPC_IRIG_YEAR → c.reg a = s.chip.reg a))) ∧
    (10000 < on.natAbs ∨ irigShape (high.map irigClass) = false ∨ s.chip.irigOk t = false →
      exec (.irigFrame on high) s = .next (s.after ((s.chip.addCnt R.EPC_WORD_ERR 1).raise Ev.wordReject)))) ∧
  (∀ (s : State) (on : Int) (high : List Nat), s.chip.atWork = true → s.chip.epcSrc = 1 → high.length ≤ 100 →
    (∀ y, irigDecode (high.map irigClass) y = none) →
    exec (.irigFrame on high) s = .next (s.after ((s.chip.addCnt R.EPC_WORD_ERR 1).raise Ev.wordReject)))

/-- In an engine at work with SRC = epoch word in SEEK, an active edge of PPS with a valid pending word that follows the last label by one
second and the last edge by 1 s ± 1 µs, as the ACQ_N-th good second in a row with no correction outstanding, moves the keeper to VALID
with its time at the labelled second plus EPC_PPS_DLY plus the edge's age; the pending word is cleared and the edge and its label are
kept. An active edge with no pending word is no good second: GOOD_RUN is 0 and the keeper's state and time stay. In IDLE with a source
the first active edge begins SEEK. The edge of PPS that PPS_EDGE does not select does nothing. In an engine at work the keeper in
VALID goes to HOLDOVER with GOOD_RUN 0 when MISS_N seconds have passed without a good one; a write of the host or the Steward that
changes EPC_CTRL.SRC moves it to HOLDOVER where it has a timeline and to IDLE where it has none, and drops the pending word, edge and
label (the model's choice for the word, log 67); and at LEAP_SEC an armed leap puts LEAP_OFS into EPC_UTC_OFS, clears ARMED and raises
UTC_OFS_CHANGE. In an engine at work a waiting Step is applied at a cycle with no open segment, with its second Seam record, and
entries a positive one skips fire late; a slewed correction ends when its residue lies within a quarter REFIN period, which leaves no
correction outstanding on the keeper. (02_epoch.md) -/
def Obligations.KeeperMoves : Prop :=
  (∀ (s : State) (rise : Bool) (age n : Nat) (w : EpochWord) (t : Nat), s.chip.atWork = true → s.chip.ppsActive rise = true →
    s.chip.epcSrc = 0 → s.chip.epcState = 1 → age < 2 ^ 64 →
    s.chip.epc.word = some w → bit w.payload 8 = true → bits w.payload 20 44 = n → w.endAt + 100 * micro ≤ s.chip.epc.line - age →
    s.chip.epc.lastLabel = some (n - 1) → 1 ≤ n → s.chip.epc.lastEdge = some t → distNat (s.chip.epc.line - age - t) second ≤ micro →
    s.chip.acqN ≤ min 15 (s.chip.fld R.EPC_STAT F.EPC_STAT_GOOD_RUN + 1) → s.chip.sch = [] → s.chip.epc.stepDue = none →
    s.chip.epc.corrSlew = none →
    Completes (.ppsEdge rise age 0) s (fun c => c.epcState = 2 ∧ c.epc.time = ((n : Int) * second + s.chip.ppsDly + age).toNat ∧
      c.epc.word = none ∧ c.epc.lastGood = n ∧ c.epc.timeline = true ∧ c.epc.lastLabel = some n ∧
      c.epc.lastEdge = some (s.chip.epc.line - age))) ∧
  (∀ (s : State) (rise : Bool) (age : Nat) (ofs : Int), s.chip.atWork = true → s.chip.ppsActive rise = true → s.chip.epcSrc = 0 →
    s.chip.epcState ≠ 0 → age < 2 ^ 64 → s.chip.epc.word = none →
    Completes (.ppsEdge rise age ofs) s (fun c => c.epcState = s.chip.epcState ∧ c.epc.time = s.chip.epc.time ∧
      c.fld R.EPC_STAT F.EPC_STAT_GOOD_RUN = 0 ∧ c.epc.lastLabel = s.chip.epc.lastLabel ∧ (∀ a, a ≠ R.EPC_STAT → c.reg a = s.chip.reg a))) ∧
  (∀ (s : State) (rise : Bool) (age : Nat) (ofs : Int), s.chip.atWork = true → s.chip.ppsActive rise = true → s.chip.epcSrc < 2 →
    s.chip.epcState = 0 → age < 2 ^ 64 →
    Completes (.ppsEdge rise age ofs) s (fun c => c.epcState = 1 ∧ c.epc.time = s.chip.epc.time ∧
      c.epc.lastEdge = some (s.chip.epc.line - age))) ∧
  (∀ (s : State) (rise : Bool) (age : Nat) (ofs : Int), s.chip.atWork = true → s.chip.ppsActive rise = false → age < 2 ^ 64 →
    exec (.ppsEdge rise age ofs) s = .next (s.after s.chip)) ∧
  (∀ (s : State), s.chip.atWork = true → s.chip.epcState = 2 →
    Completes .epochHoldover s (fun c => c.epcState = 3 ∧ c.fld R.EPC_STAT F.EPC_STAT_GOOD_RUN = 0  ∧
      (∀ a, a ∉ R.EPC_STAT :: eventRegs Ev.epochHoldover → c.reg a = s.chip.reg a))) ∧
  (∀ (s : State) (i : Init) (v : Word), s.chip.atWork = true → i ≠ .sched → s.chip.locked = false →
    bits v.toNat F.EPC_CTRL_SRC.lo F.EPC_CTRL_SRC.w ≠ s.chip.epcSrc →
    Completes (.srcChange i v) s (fun c => c.epcState = (if s.chip.epc.timeline then 3 else 0) ∧
      c.epcSrc = bits v.toNat F.EPC_CTRL_SRC.lo F.EPC_CTRL_SRC.w ∧ c.epc.word = none ∧ c.epc.lastEdge = none ∧ c.epc.lastLabel = none)) ∧
  (∀ (s : State), s.chip.atWork = true → s.chip.leapArmed = true → s.chip.epcHolds = true → s.chip.epcSrc = 1 →
    Completes .leapSecond s (fun c => c.leapArmed = false ∧
      c.fld R.EPC_UTC_OFS F.EPC_UTC_OFS_UTC_TAI = s.chip.fld R.EPC_LEAP_H F.EPC_LEAP_H_LEAP_OFS)) ∧
  (∀ (s : State) (q : Int), s.chip.atWork = true → s.chip.epc.stepDue = some q → s.chip.segmentOpen = false →
    exec .stepApply s = .next (s.after (if 0 < q then (s.chip.stepNow q).schLateFire else s.chip.stepNow q))) ∧
  (∀ (s : State) (q : Int), s.chip.atWork = true → s.chip.epc.stepDue = some q → s.chip.segmentOpen = true →
    exec .stepApply s = .next (s.after s.chip)) ∧
  (∀ (s : State) (r : Int), s.chip.atWork = true → s.chip.epc.corrSlew = some r → s.chip.disciplined = true →
    Completes .slewComplete s (fun c => c.epc.corrSlew = none ∧
      c.flag R.EPC_STAT F.EPC_STAT_CORR_OUT = (decide (s.chip.epc.ofsWait ≠ 0) || s.chip.epc.stepDue.isSome)))

/-- In an engine at work LOAD of one entry reads it from the Common Store and records a rejection with its reason, and LOAD ALL does so
for all 256 entries in ascending order; a rise of SCH_CTRL.EN in a keeper with a timeline runs the past-due test. In an engine at work
with the schedule on, an enabled entry fires in the cycle that contains its DUE, together with every other enabled entry due in that
cycle; an enabled one-shot snapshot entry alone in the schedule fires: SCH_FIRED counts it and the entry is disabled; where its DUE
lies ahead and no slew runs, the keeper has been carried into the fabric cycle that contains DUE. In Lull an enabled WAKE entry due at
least 1 s after the lower state was entered wakes the engine with source 0, at DUE less the exit time. (02_epoch.md,
19_power_ladder.md) -/
def Obligations.ScheduleEntries : Prop :=
  (∀ (s : State) (i : Init) (k : Nat), s.chip.atWork = true → k < 256 →
    exec (.schLoad i false k) s = .next (s.after
      (((s.chip.writing.setFlag R.SCH_CMD F.SCH_CMD_ALL false).setFld R.SCH_CMD F.SCH_CMD_IDX k).schLoad i [k]))) ∧
  (∀ (s : State) (i : Init) (k : Nat), s.chip.atWork = true → k < 256 →
    exec (.schLoad i true k) s = .next (s.after
      (((s.chip.writing.setFlag R.SCH_CMD F.SCH_CMD_ALL true).setFld R.SCH_CMD F.SCH_CMD_IDX k).schLoad i (List.range 256)))) ∧
  (∀ (s : State) (i : Init) (v : Word), s.chip.atWork = true → i ≠ .sched → s.chip.locked = false → s.chip.flag R.SCH_CTRL F.SCH_CTRL_EN = false →
    bit v.toNat 31 = true → s.chip.epcHolds = true →
    exec (.scheduleEnable i v) s = .next (s.after
      (((s.chip.writing.setFld R.SCH_CTRL F.SCH_CTRL_BASE v.toNat).setFlag R.SCH_CTRL F.SCH_CTRL_EN true).schSweep i))) ∧
  (∀ (s : State) (k : Nat), s.chip.atWork = true → k < 256 → s.chip.schOn = true → (s.chip.schEntry k).enable = true →
    exec (.scheduleFire k) s = .next (s.after
      ((s.chip.waitInto (s.chip.schEntry k).due).schFireAll ((s.chip.waitInto (s.chip.schEntry k).due).dueNow k) false))) ∧
  (∀ (s : State) (k : Nat) (e : SchEntry), s.chip.atWork = true → k < 256 → s.chip.schOn = true → s.chip.sch = [(k, e)] → e.enable = true →
    e.action = 6 → e.period = 0 →
    Completes (.scheduleFire k) s (fun c => c.reg R.SCH_FIRED = s.chip.reg R.SCH_FIRED + 1 ∧ (c.schEntry k).enable = false ∧
      (c.schEntry k).due = e.due ∧
      (s.chip.epc.slew = 0 → s.chip.epc.corrSlew = none → s.chip.epc.time < e.due * quantum →
        c.epc.time ≤ e.due * quantum ∧ e.due * quantum < c.epc.time + fabricCycle))) ∧
  (∀ (s : State) (k : Nat), s.chip.pins.porn = false → s.chip.ladder = 2 → s.chip.inSafe = false → s.chip.pwr.down = none → s.chip.pwr.up = none →
    k < 256 → s.chip.schOn = true → (s.chip.schEntry k).enable = true → (s.chip.schEntry k).wake = true →
    s.chip.pwr.lowAt + second ≤ (s.chip.schEntry k).due * quantum →
    exec (.scheduleWake k) s = .next (s.after
      (let c := s.chip.waitTime (((s.chip.schEntry k).due * quantum : Nat) - (100 * micro : Nat))
       c.wakeCause 0 3)))

/-- In an engine at work APPLY of an unowned group whose deskew is in range and whose CAL does not run is accepted: its working copy takes
the group's registers, RUNNING shows EN, and nothing else changes but REASON; CAL on an unowned group with the sample clock running
sets CAL_BUSY from now on; TRS APPLY takes the unowned resources; a write of a capture register re-arms it exactly with VALID = 0.
Each accepted command leaves REASON 0. In an engine at work, when CAL ends, every enabled channel whose first rising edge came at most
1,023 taps after the earliest gets that delay in ARR with VALID set, every other channel gets VALID = 0, CAL_BUSY clears, and where
some enabled channel saw no edge 1 ms has passed since the command. (03_front_end.md, 04_trigger_resources.md) -/
def Obligations.GroupCommands : Prop :=
  (∀ (s : State) (i : Init) (g : Nat), s.chip.atWork = true → g < 8 → s.chip.owner g = none → s.chip.deskewFault g = none →
    s.chip.flag (R.LG_STAT g) F.LG_STAT_CAL_BUSY = false →
    exec (.lgApply i g) s = .next (s.after (s.chip.writing.accept (lgPort g) (fun c => c.laneApply g)))) ∧
  (∀ (s : State) (i : Init) (g : Nat), s.chip.atWork = true → g < 8 → s.chip.owner g = none → s.chip.deskewFault g = none →
    s.chip.flag (R.LG_STAT g) F.LG_STAT_CAL_BUSY = false →
    Completes (.lgApply i g) s (fun c => (∀ a, a ∈ laneRegs g → c.wreg a = s.chip.rn a) ∧
      c.flag (R.LG_STAT g) F.LG_STAT_RUNNING = s.chip.flag (R.LG_CFG g) F.LG_CFG_EN ∧ c.fld (R.LG_CMDSTAT g) reasonFld = 0 ∧
      s.chip.keepsRegs c [R.LG_STAT g, R.LG_CMDSTAT g] ∧ s.chip.keepsMem c)) ∧
  (∀ (s : State) (i : Init) (g : Nat), s.chip.atWork = true → g < 8 → s.chip.owner g = none → s.chip.sampleOn = true →
    s.chip.flag (R.LG_STAT g) F.LG_STAT_CAL_BUSY = false →
    exec (.lgCal i g) s = .next (s.after (s.chip.writing.accept (lgPort g) (fun c =>
      (c.setFlag (R.LG_STAT g) F.LG_STAT_CAL_BUSY true).setLane g { c.lane g with calAt := some c.epc.line })))) ∧
  (∀ (s : State) (i : Init), s.chip.atWork = true → exec (.trsApply i) s = .next (s.after (s.chip.writing.accept trsPort Chip.trsApply))) ∧
  (∀ (s : State) (i : Init) (g : Nat) (v : Word), s.chip.atWork = true → i ≠ .sched → g < 8 →
    exec (.detcapRearm i g v) s = .next (s.after
      (s.chip.writing.setFlag (R.TRS_DETCAP_CH g) F.TRS_DETCAP_CH_VALID (bit v.toNat 31)))) ∧
  (∀ (s : State) (g t0 : Nat) (es : List (Option Nat)), s.chip.atWork = true → g < 8 → es.length ≤ 32 → (s.chip.lane g).calAt = some t0 →
    Completes (.calEnd g es) s (fun c =>
      (∀ k t o, k < 32 → (es[k]?).getD none = some t → s.chip.wflag (R.LG_CH_CFG g k) F.LG_CH_CFG_EN = true →
        minNat (((List.range 32).filter (fun j => s.chip.wflag (R.LG_CH_CFG g j) F.LG_CH_CFG_EN)).filterMap (fun j => (es[j]?).getD none)) = some o →
        (t - o ≤ 1023 → c.flag (R.LG_CH_CAL g k) F.LG_CH_CAL_VALID = true ∧ c.fld (R.LG_CH_CAL g k) F.LG_CH_CAL_ARR = t - o) ∧
        (1023 < t - o → c.flag (R.LG_CH_CAL g k) F.LG_CH_CAL_VALID = false)) ∧
      (∀ k, k < 32 → ((es[k]?).getD none = none ∨ s.chip.wflag (R.LG_CH_CFG g k) F.LG_CH_CFG_EN = false) →
        c.flag (R.LG_CH_CAL g k) F.LG_CH_CAL_VALID = false) ∧
      c.flag (R.LG_STAT g) F.LG_STAT_CAL_BUSY = false ∧ (c.lane g).calAt = none ∧
      ((∃ k, k < 32 ∧ s.chip.wflag (R.LG_CH_CFG g k) F.LG_CH_CFG_EN = true ∧ (es[k]?).getD none = none) →
        t0 + 1000 * micro ≤ c.epc.line)))

/-- In an engine at work with the sample clock running, SAMPLE_DELIVERED to an enabled group on the internal clock takes the group's next
sample: its word holds each enabled channel as its comparator stood the channel's delay before, complemented under INV; its instant is
the interval's start on the deskewed grid and its evaluation cycle the fixed number of cycles after that instant's window; the
voltages and delay lines move on, and where no partition records the group nothing but the group's capture register, its event and the
detectors' own state changes. With steady voltages and no channel delayed bit k of the word is EN and the comparison of the voltage
with TRIM, complemented under INV. Where a partition without a sequencer records the group in timing mode, a sample evaluated after
the partition's ARM whose evaluation cycle has passed joins the block in formation, or opens one where a slot is free. An edge that
the group's clock, edge and qualifier select forms a sample of a CQ-clocked group with its word taken CQ_DLY after the edge: it waits
in the elastic buffer, or, where that holds 64 words, is lost, counted in LG_CQ_OVR and raises CQ_OVERRATE; an edge they do not select
does nothing. A tick of such a group takes no sample; it drains the oldest word of the elastic buffer, which then waits for its
qualification. OVERRUN_GAP_END with a free slot, or with room in the elastic buffer, ends the overrun: the gap is closed, counted in
LG_OVR_CNT and its lost samples in LG_OVR_LOST, and raises OVERRUN. (03_front_end.md, 04_trigger_resources.md) -/
def Obligations.SamplesDelivered : Prop :=
  (∀ (s : State) (g : Nat) (wave : List VoltStep) (age : Nat), s.chip.atWork = true → g < 8 → age < 2 ^ 64 → waveWf 0 wave = true →
    s.chip.laneEn g = true → s.chip.sampleOn = true → s.chip.laneCq g = false → s.chip.recOwner g = none →
    let l := s.chip.lane g
    let r := s.chip.feedLine g l.tap wave l.volts (((l.tap : Int), s.chip.receive g l.volts) :: l.line)
    Completes (.sampleDelivered g wave age) s (fun c =>
      (∃ x, (c.lane g).hist.head? = some x ∧ x.ix = l.total ∧ x.inst = s.chip.epc.line - age + s.chip.taps (s.chip.dskRef g) ∧
        x.cyc = windowOf x.inst + s.chip.trs.evalE ∧ x.word = alignedWord (s.chip.channels g (s.chip.dskRef g)) r.2 l.tap) ∧
      (c.lane g).total = l.total + 1 ∧ (c.lane g).count = l.count + 1 ∧ (c.lane g).tap = l.tap + 64 * (s.chip.laneDiv g + 1) ∧
      (c.lane g).volts = r.1 ∧ (∀ h, h ≠ g → c.lane h = s.chip.lane h) ∧
      s.chip.keepsRegs c ([R.TRS_DETCAP_CH g, R.TRS_DETCAP_L g, R.TRS_DETCAP_L g + 4, R.TRS_DETCAP_L g + 8] ++ eventRegs (Ev.detHit g)) ∧
      s.chip.keepsMem c)) ∧
  (∀ (s : State) (g age : Nat), s.chip.atWork = true → g < 8 → age < 2 ^ 64 → s.chip.laneEn g = true → s.chip.sampleOn = true →
    s.chip.laneCq g = false → s.chip.recOwner g = none →
    (∀ k, k < 32 → s.chip.wflag (R.LG_CH_CFG g k) F.LG_CH_CFG_EN = true → s.chip.dsk g k = s.chip.dskRef g) →
    Completes (.sampleDelivered g [] age) s (fun c => ∃ x, (c.lane g).hist.head? = some x ∧ x.word < 2 ^ 32 ∧ ∀ k, k < 32 →
      bit x.word k = (s.chip.wflag (R.LG_CH_CFG g k) F.LG_CH_CFG_EN &&
        (decide (s.chip.trimUv g k < SMap.get (fun _ => 0) (s.chip.lane g).volts k) != s.chip.wflag (R.LG_CH_CFG g k) F.LG_CH_CFG_INV)))) ∧
  (∀ (s : State) (g p age : Nat) (wave : List VoltStep), s.chip.atWork = true → g < 8 → age < 2 ^ 64 → waveWf 0 wave = true →
    s.chip.laneEn g = true → s.chip.sampleOn = true → s.chip.laneCq g = false → s.chip.laneMode g = 0 → s.chip.recOwner g = some p →
    s.chip.boundSeq p = none → (s.chip.part p).endStamp = none → (s.chip.lane g).ended = false → (s.chip.lane g).pipe = [] →
    (s.chip.lane g).gap = none → (s.chip.lane g).gapCq = false → (s.chip.lane g).closed = [] → bit s.chip.epc.ofsWait g = false →
    (s.chip.part p).armCycle < windowOf (s.chip.epc.line - age + s.chip.taps (s.chip.dskRef g)) + s.chip.trs.evalE →
    windowOf (s.chip.epc.line - age + s.chip.taps (s.chip.dskRef g)) + s.chip.trs.evalE < s.chip.lineCycle →
    let l := s.chip.lane g
    let w := alignedWord (s.chip.channels g (s.chip.dskRef g))
      (s.chip.feedLine g l.tap wave l.volts (((l.tap : Int), s.chip.receive g l.volts) :: l.line)).2 l.tap
    (∀ f, l.forming = some f → f.count + 1 < 4096 →
      Completes (.sampleDelivered g wave age) s (fun c => (c.lane g).pipe = [] ∧
        ∃ f1, (c.lane g).forming = some f1 ∧ f1.words = w :: f.words ∧ f1.count = f.count + 1 ∧ f1.s0 = f.s0)) ∧
    (l.forming = none → s.chip.slotsUsed g < 128 →
      Completes (.sampleDelivered g wave age) s (fun c => (c.lane g).pipe = [] ∧
        ∃ f1, (c.lane g).forming = some f1 ∧ f1.words = [w] ∧ f1.count = 1 ∧ f1.pq = s.chip.lanePq g))) ∧
  (∀ (s : State) (g pin levels age : Nat) (rise : Bool) (wave : List VoltStep), s.chip.atWork = true → g < 8 → pin < 16 → levels < 65536 →
    age < 2 ^ 64 → waveWf (-1024) wave = true → s.chip.laneEn g = true → s.chip.sampleOn = true → s.chip.laneCq g = true →
    let l := s.chip.lane g
    let dly := s.chip.wfld (R.LG_STATE g) F.LG_STATE_CQ_DLY
    let w := alignedWord (s.chip.channels g 0) (s.chip.feedLine g 0 wave l.volts [(-1024, s.chip.receive g l.volts)]).2 dly
    (s.chip.cqAccepts g pin rise levels = true → s.chip.recOwner g = none →
      Completes (.cqEdgeAccepted g pin rise levels wave age) s (fun c =>
        ∃ x, (c.lane g).hist.head? = some x ∧ x.word = w ∧ x.ix = l.total ∧ x.inst = s.chip.epc.line - age + s.chip.taps dly ∧
          x.cyc = windowOf x.inst + s.chip.trs.evalE ∧ (c.lane g).total = l.total + 1 ∧ c.regs = s.chip.regs ∧
          s.chip.keepsMem c)) ∧
    (∀ p y rest, s.chip.cqAccepts g pin rise levels = true → s.chip.recOwner g = some p → l.ended = false →
      l.pipe = .sample y :: rest → y.drained = false → y.lost = false → l.elastic < 64 →
      Completes (.cqEdgeAccepted g pin rise levels wave age) s (fun c =>
        ∃ x, (c.lane g).pipe = l.pipe ++ [.sample x] ∧ x.word = w ∧ x.drained = false ∧ x.lost = false ∧ c.regs = s.chip.regs)) ∧
    (∀ p y rest, s.chip.cqAccepts g pin rise levels = true → s.chip.recOwner g = some p → l.ended = false →
      l.pipe = .sample y :: rest → y.drained = false → y.lost = false → 64 ≤ l.elastic →
      Completes (.cqEdgeAccepted g pin rise levels wave age) s (fun c =>
        (∃ x, (c.lane g).pipe = l.pipe ++ [.sample x] ∧ x.lost = true) ∧ c.reg (R.LG_CQ_OVR g) = s.chip.reg (R.LG_CQ_OVR g) + 1 ∧
        bit (c.rn (R.EVT_STAT (Ev.cqOverrate g).1)) (Ev.cqOverrate g).2 = true)) ∧
    (s.chip.cqAccepts g pin rise levels = false → exec (.cqEdgeAccepted g pin rise levels wave age) s = .next (s.after s.chip)) ∧
    (s.chip.recOwner g = none → l.pipe = [] →
      Completes (.sampleDelivered g [] age) s (fun c => (c.lane g).total = l.total ∧ (c.lane g).hist = l.hist ∧ (c.lane g).pipe = [] ∧
        (c.lane g).count = l.count + 1)) ∧
    (∀ p y rest, s.chip.recOwner g = some p → s.chip.boundSeq p = none → l.pipe = .sample y :: rest → y.drained = false → y.lost = false →
      s.chip.lineCycle ≤ y.cyc →
      Completes (.sampleDelivered g [] age) s (fun c => (c.lane g).total = l.total ∧
        (c.lane g).pipe = .sample { y with drained := true } :: rest ∧ (c.lane g).count = l.count + 1))) ∧
  (∀ (s : State) (g : Nat) (x : Gap), s.chip.atWork = true → g < 8 → (s.chip.lane g).gap = some x → x.cause = 1 → (s.chip.lane g).pipe = [] →
    ((s.chip.lane g).gapCq = false → s.chip.slotsUsed g < 128) →
    Completes (.overrunGapEnd g) s (fun c => (c.lane g).gap = none ∧ (c.lane g).closed = (s.chip.lane g).closed ++ [x] ∧
      (c.lane g).gapCq = false ∧ c.flag (R.LG_STAT g) F.LG_STAT_OVERRUN = false ∧
      c.reg (R.LG_OVR_CNT g) = s.chip.reg (R.LG_OVR_CNT g) + 1 ∧
      c.rn (R.LG_OVR_LOST g) = satAdd 32 (s.chip.rn (R.LG_OVR_LOST g)) x.lost ∧
      bit (c.rn (R.EVT_STAT (12 + g))) 0 = true ∧ s.chip.keepsMem c))

/-- In an engine at work SAMPLE_EVALUATED has a running sequencer, bound to a recording partition, evaluate the next sample of its domain
once: with that sample's evaluation cycle reached, no value waiting to be set, no sample waiting for its qualification, no TRIG window
taken for the cycle yet and no disagreeing member, the conditions are judged with the TRIG levels and transitions delivered; with no
true branch the level and the decision count stay; with a first true branch every member's level becomes NEXT where GOTO is set, else
stays, and every member's decision count is one more. Either way the sample is evaluated: the next one is due. (05_sequencers.md) -/
def Obligations.SequencerTakesABranch : Prop :=
  ∀ (s : State) (p sq l r f : Nat) (odd : Option OddSample) (x : Smp), s.chip.atWork = true → p < 16 → sq < 16 → (s.chip.steady = true → sq < 15) →
    (List.range 16).find? (fun y => decide (s.chip.boundSeq y = some sq)) = some p →
    s.chip.recording p = true → s.chip.flag (R.SQ_STAT sq) F.SQ_STAT_RUNNING = true → (s.chip.part p).endStamp = none →
    s.chip.nextSample sq p = some x →
    (s.chip.lane (s.chip.sqDom sq)).hist.find? (fun y => decide (y.ix = x.ix)) = some x → x.cyc * fabricCycle ≤ s.chip.epc.line →
    bit s.chip.epc.ofsWait (s.chip.sqDom sq) = false → (∀ g, g < 8 → (s.chip.lane g).pipe = []) → s.chip.trs.presets = [] →
    s.chip.trs.wins.find? (fun y => decide (y.1 = x.cyc)) = none → (s.chip.steady = true → odd = none) →
    let e : Eval := ⟨x, s.chip.sqDom sq, ⟨l, r, f⟩⟩
    (s.chip.taken sq (s.chip.sqLevel sq) e = none →
      Completes (.sampleEvaluated sq l r f odd) s (fun c => c.sqLevel sq = s.chip.sqLevel sq ∧
        c.reg (R.SQ_DEC_CNT sq) = s.chip.reg (R.SQ_DEC_CNT sq) ∧ (c.seq sq).next = x.ix + 1 ∧ (c.seq sq).lastStamp = x.stamp ∧
        (c.seq sq).lastCycle = some x.cyc)) ∧
    (∀ k, s.chip.taken sq (s.chip.sqLevel sq) e = some k →
      Completes (.sampleEvaluated sq l r f odd) s (fun c => (c.seq sq).next = x.ix + 1 ∧
        (∀ i, i ∈ s.chip.members sq → c.sqLevel i = (if s.chip.actOn sq (brIdx (s.chip.sqLevel sq) k) F.SQ_B_ACT_GOTO
          then s.chip.act sq (brIdx (s.chip.sqLevel sq) k) F.SQ_B_ACT_NEXT else s.chip.sqLevel sq) ∧
          c.reg (R.SQ_DEC_CNT i) = s.chip.reg (R.SQ_DEC_CNT i) + 1)))

/-- In an engine at work in Steady, with no sample waiting for its qualification and no value waiting to be set, a sample for which the
odd member of a pair computes another level than the even member flags both members, and the engine ends in Safe with cause 0x01; no
TRIG pulse and no XT line of the sample is left. (05_sequencers.md, 01_architecture.md) -/
def Obligations.PairMismatch : Prop :=
  ∀ (s : State) (p sq l r f : Nat) (o : OddSample) (x : Smp), s.chip.atWork = true → s.chip.steady = true → p < 16 → sq < 15 →
    (List.range 16).find? (fun y => decide (s.chip.boundSeq y = some sq)) = some p →
    s.chip.recording p = true → s.chip.flag (R.SQ_STAT sq) F.SQ_STAT_RUNNING = true → (s.chip.part p).endStamp = none →
    s.chip.nextSample sq p = some x → bit s.chip.epc.ofsWait (s.chip.sqDom sq) = false →
    (∀ g, g < 8 → (s.chip.lane g).pipe = []) → s.chip.trs.presets = [] → o.level ≠ s.chip.sqLevel sq →
    ∃ t, exec (.sampleEvaluated sq l r f (some o)) s = .next t ∧ t.chip.inSafe = true ∧ t.chip.fld R.STW_STATE F.STW_STATE_CAUSE = 1 ∧
      t.chip.flag (R.SQ_STAT sq) F.SQ_STAT_MISMATCH = true ∧ t.chip.flag (R.SQ_STAT (sq + 1)) F.SQ_STAT_MISMATCH = true ∧
      t.chip.trs.pulses = [] ∧ t.chip.trs.xt = []

/-- In an engine at work XT_LINE_EXPIRE carries the engine past the latest evaluation cycle of an XT line's pulses: no interval of that
line is left, the other lines keep theirs, and no register changes. TRIG_PULSE_END carries it to the latest end of a TRIG pin's
pulses: the pin is inactive from then on, and nothing else of the trigger resources and no register changes. The end of the post-
trigger span of a bound sequencer closes the trigger segment at the sample after the last and disarms the partition, and each member
raises SQ_DONE. (04_trigger_resources.md, 05_sequencers.md) -/
def Obligations.TriggerEdges : Prop :=
  (∀ (s : State) (n : Nat), s.chip.atWork = true → n < 32 →
    Completes (.xtLineExpire n) s (fun c => (∀ x, x ∈ c.trs.xt → x.1 ≠ n) ∧ (∀ x, x.1 ≠ n → (x ∈ c.trs.xt ↔ x ∈ s.chip.trs.xt)) ∧
      (∀ x, x ∈ s.chip.trs.xt → x.1 = n → (x.2.2 + 1) * fabricCycle ≤ c.epc.line) ∧ c.regs = s.chip.regs ∧ s.chip.keepsMem c)) ∧
  (∀ (s : State) (n : Nat), s.chip.atWork = true → n < 32 →
    Completes (.trigPulseEnd n) s (fun c => (∀ t, c.epc.line ≤ t → c.trigActiveAt n t = false) ∧ c.trs = s.chip.trs ∧
      (∀ x, x ∈ s.chip.trs.pulses → x.1 = n → x.2.2 ≤ c.epc.line) ∧ c.regs = s.chip.regs ∧ s.chip.keepsMem c)) ∧
  (∀ (s : State) (sq p e : Nat), s.chip.atWork = true → sq < 16 → (List.range 16).find? (fun x => decide (s.chip.boundSeq x = some sq)) = some p →
    (s.chip.part p).endStamp = some e → s.chip.prtState p = 2 →
    exec (.postSpanEnd sq) s = .next (s.after
      (let c := (s.chip.members sq).foldl (fun c n => c.raise (Ev.sqDone n)) ((s.chip.trigClose p (e + 1) 0).endRecording p)
       c.setPart p { c.part p with endStamp := none })))

/-- In an engine at work the oldest waiting hold of a sequencer, and in Gale the oldest accepted notice, is judged in each partition it
names; a host HOLD that no row of Table 6-3 rejects is accepted with the window of the START and END registers and leaves REASON 0. In
an engine at work a host HOLD on a partition that is not recording is rejected with 0x30, and on a recording one a HOLD whose END is
not after its START with 0x31: REASON shows the code, PRTp_HOLD_LAST stays, and no window opens. In an engine at work the repeat copy
that is due is put on its port's notice queue once its time has come, where the port's link is up and its queue has room; on a port
whose link is down it is dropped and counted in ORT_NTC_DROP; it is due again 100 µs later while copies are left, else it is
forgotten. (06_reach_back.md) -/
def Obligations.HoldsJudged : Prop :=
  (∀ (s : State) (h : HoldReq) (l : List HoldReq), s.chip.atWork = true → s.chip.seqHolds = h :: l →
    exec .seqHoldInstant s = .next (s.after ({ s.chip with seqHolds := l }.holdReqJudge h))) ∧
  (∀ (s : State) (h : HoldReq) (l : List HoldReq), s.chip.atWork = true → s.chip.noticeHolds = h :: l →
    exec .noticeHoldInstant s = .next (s.after ({ s.chip with noticeHolds := l }.holdReqJudge h))) ∧
  (∀ (s : State) (i : Init) (p : Nat), s.chip.atWork = true → p < 16 →
    let a := s.chip.triple (R.PRT_HOLD_START_L p)
    let b := s.chip.triple (R.PRT_HOLD_END_L p)
    s.chip.holdReason p a b ((s.chip.part p).mergeSlot a b).isSome = 0 →
    exec (.holdCmd i p) s = .next (s.after ((s.chip.writing.holdJudge p a b 1).1.accept (holdPort p) id))) ∧
  (∀ (s : State) (i : Init) (p : Nat), s.chip.atWork = true → p < 16 →
    (s.chip.recording p = false →
      Completes (.holdCmd i p) s (fun c => c.fld (R.PRT_CMDSTAT p) reasonFld = 0x30 ∧
        c.reg (R.PRT_HOLD_LAST p) = s.chip.reg (R.PRT_HOLD_LAST p) ∧ c.parts = s.chip.parts)) ∧
    (s.chip.recording p = true → s.chip.triple (R.PRT_HOLD_END_L p) ≤ s.chip.triple (R.PRT_HOLD_START_L p) →
      Completes (.holdCmd i p) s (fun c => c.fld (R.PRT_CMDSTAT p) reasonFld = 0x31 ∧
        c.reg (R.PRT_HOLD_LAST p) = s.chip.reg (R.PRT_HOLD_LAST p) ∧ c.parts = s.chip.parts))) ∧
  (∀ (s : State) (r : NoticeRepeat), s.chip.atWork = true → s.chip.ort.repeats = [r] → r.port < 4 →
    let left := if r.left ≤ 1 then [] else [{ r with left := r.left - 1, due := r.due + 100 * micro }]
    (s.chip.ethUp r.port = true → (s.chip.eth r.port).notices.length < s.chip.ort.txRoom →
      Completes .noticeRepeat s (fun c => (c.eth r.port).notices = (s.chip.eth r.port).notices ++ [(r.frame, true)] ∧ r.due ≤ c.epc.line ∧
        c.ort.repeats = left ∧ c.regs = s.chip.regs)) ∧
    (s.chip.ethUp r.port = false →
      Completes .noticeRepeat s (fun c => c.eths = s.chip.eths ∧ r.due ≤ c.epc.line ∧ c.ort.repeats = left ∧
        c.reg R.ORT_NTC_DROP = s.chip.reg R.ORT_NTC_DROP + 1)))

/-- In an engine at work an ARM that no row of Tables 7-4 and 5-3 rejects enters RECORDING with REASON 0; the partition has no block,
segment, marker or gap left from before, and with no sequencer bound its post-trigger region is empty. (07_capture_storage.md,
05_sequencers.md) -/
def Obligations.ArmAccepted : Prop :=
  ∀ (s : State) (i : Init) (p : Nat), s.chip.atWork = true → p < 16 → (s.chip.armReason (s.chip.armCopies p) p).1 = 0 →
    Completes (.arm i p) s (fun c => c.prtState p = 1 ∧ c.recording p = true ∧ c.fld (R.PRT_CMDSTAT p) reasonFld = 0 ∧ (c.part p).blocks = [] ∧
      (c.part p).segs = [] ∧ (c.part p).markers = [] ∧ (c.part p).gaps = [] ∧ s.chip.keepsMem c ∧
      (s.chip.sqNaming p = [] → (c.part p).q = 0 ∧ (c.part p).seqBound = 0))

/-- In an engine at work DISARM of an armed partition ends its recording and truncates an open trigger segment; a host MARK in a recording
partition enters a marker of type 2 with its code at the present stamp; FREE of a committed segment whose descriptor is not
outstanding releases its holds, pages and slot; AUTO_FREE frees each segment that is due. Accepted commands leave REASON 0.
(07_capture_storage.md, 05_sequencers.md) -/
def Obligations.PartitionCommands : Prop :=
  (∀ (s : State) (i : Init) (p : Nat), s.chip.atWork = true → p < 16 → s.chip.armed p = true →
    exec (.disarm i p) s = .next (s.after (s.chip.writing.accept (prtPort p) (fun c => c.disarmNow p)))) ∧
  (∀ (s : State) (i : Init) (p k : Nat), s.chip.atWork = true → p < 16 → k < 256 → s.chip.recording p = true →
    exec (.prtMark i p k) s = .next (s.after ((s.chip.writing.setFld (R.PRT_CMD p) F.PRT_CMD_MARK_CODE k).accept (prtPort p)
      (fun c => c.addMarker p (c.now, 2, k, 0xff, 0))))) ∧
  (∀ (s : State) (i : Init) (p n : Nat) (g : Seg), s.chip.atWork = true → p < 16 → n ≤ 64 → (s.chip.part p).seg n = some g → g.state ≠ 1 →
    g.pushed ≠ 2 →
    exec (.free i p n) s = .next (s.after
      (((s.chip.writing.setFld (R.PRT_CMD p) F.PRT_CMD_SLOT n).setFld (R.PRT_CMDSTAT p) F.PRT_CMDSTAT_SLOT n).accept (prtPort p)
        (fun c => c.freeSeg p n)))) ∧
  (∀ (s : State) (p : Nat), s.chip.atWork = true → p < 16 →
    exec (.autoFree p) s = .next (s.after
      ((s.chip.part p).autoFree.foldl (fun c n => c.freeSeg p n) (s.chip.setPart p { s.chip.part p with autoFree := [] }))))

/-- In an engine at work an instance with room for its output, no sample of its group waiting for its qualification, begins reading the
oldest staged block, no sooner than 512 cycles after the one before; INJECT on a verifying instance of a recording group arranges one
forced failure and shows INJ_PEND; an instance whose coded block is done takes it from its pipeline and holds one more finished output
block. In an engine at work whose DRAM serves, the oldest finished block of an instance whose partition has no open window, whose ring
has a place and whose writes fit is handed over, written and placed there. A segment that has left OPEN goes through its commit in
order: its lists once its blocks are written, its table entry once its list pages are, and then it is committed, which raises
SEG_COMMIT and offers its descriptor; a segment not written waits. A refused descriptor is offered again. (08_fuller_method.md,
06_reach_back.md, 07_capture_storage.md, 10_carter_queues.md) -/
def Obligations.BlocksAndSegments : Prop :=
  (∀ (s : State) (n : Nat) (b : InBlk) (l : List InBlk), s.chip.atWork = true → n < 8 → (s.chip.lane n).staged = b :: l →
    (s.chip.lane n).codec.out.length < 2 → (s.chip.lane n).pipe = [] →
    Completes (.codecBlockStart n) s (fun c => (c.lane n).staged = l ∧ (c.lane n).codec.busy = (s.chip.lane n).codec.busy ++ [(b, c.cycle)] ∧
      (∀ x, (s.chip.lane n).codec.busy.getLast? = some x → x.2 + 512 ≤ c.cycle) ∧ (c.lane n).codec.out = (s.chip.lane n).codec.out)) ∧
  (∀ (s : State) (i : Init) (n p : Nat), s.chip.atWork = true → n < 8 → s.chip.recOwner n = some p → (s.chip.lane n).codec.inject = false →
    s.chip.fulVerify n = true →
    exec (.fulInject i n) s = .next (s.after (s.chip.writing.accept (fulPort n) (fun c =>
      (c.setLane n { c.lane n with codec := { (c.lane n).codec with inject := true } }).setFlag (R.FUL_STAT n) F.FUL_STAT_INJ_PEND true)))) ∧
  (∀ (s : State) (n a : Nat) (b : InBlk) (l : List (InBlk × Nat)), s.chip.atWork = true → n < 8 → (s.chip.lane n).codec.busy = (b, a) :: l →
    (s.chip.lane n).codec.out.length < 2 →
    Completes (.codecBlockDone n none) s (fun c => (c.lane n).codec.busy = l ∧
      (c.lane n).codec.out.length = (s.chip.lane n).codec.out.length + 1 ∧ a + 512 ≤ c.cycle ∧ (c.lane n).staged = (s.chip.lane n).staged)) ∧
  (∀ (s : State) (g ofs : Nat) (t : Bool) (o : OutBlk) (l : List OutBlk), s.chip.atWork = true → g < 8 → (s.chip.lane g).codec.out = o :: l →
    s.chip.mcState = 2 → (s.chip.part o.part).openWins = [] → s.chip.placeOf o.part g o = .ring ofs t → s.chip.writesFit (s.chip.blkRuns o.part g false ofs (blkLen o)) = true →
    exec (.blockAllocate g) s = .next (s.after
      (((s.chip.handOver g o l).pushWrites (s.chip.blkRuns o.part g false ofs (blkLen o))).placeBlk o.part g o false ofs (blkLen o) t))) ∧
  (∀ (s : State) (p n : Nat) (g : Seg), s.chip.atWork = true → p < 16 → n < 256 → (s.chip.part p).seg n = some g → g.state = 1 → g.closing = true →
    (g.stage = 0 → s.chip.segWritten p n g = true →
      exec (.segmentCommit p n) s = .next (s.after ((s.chip.commitLists p n g).commitGo p n 2))) ∧
    (g.stage = 0 → s.chip.segWritten p n g = false → exec (.segmentCommit p n) s = .next (s.after s.chip)) ∧
    (g.stage = 1 → s.chip.pagesPending p g = false →
      exec (.segmentCommit p n) s = .next (s.after ((s.chip.commitEntry p n g).commitGo p n 2))) ∧
    (g.stage = 2 → s.chip.capPending (s.chip.segBase p + 256 * n) 256 = false →
      exec (.segmentCommit p n) s = .next (s.after (s.chip.commitDone p n g)) ∧
      Completes (.segmentCommit p n) s (fun c => ∃ g1, (c.part p).seg n = some g1 ∧ g1.state = 2 ∧ g1.closing = false ∧ g1.segNo = g.segNo))) ∧
  (∀ (s : State) (p : Nat), s.chip.atWork = true → p < 16 → exec (.segmentPushRetry p) s = .next (s.after (s.chip.offerPush p)))

/-- In an engine at work: PUSH with room enters a KIND 2 descriptor from the IN registers, and without room is refused with 0x53; POP,
RELEASE of a popped entry, MARK and REWIND on a queue that the registers own do their work and leave REASON 0; APPLY takes the working
copies; a stall timer that reaches its TIMEOUT sets STALLED and raises Q_STALL. (10_carter_queues.md, 15_register_model.md) -/
def Obligations.CarterCommands : Prop :=
  (∀ (s : State) (i : Init) (q k : Nat), s.chip.atWork = true → q < 8 →
    let c := s.chip.writing.setFld (R.CAR_Q_CMD q) F.CAR_Q_CMD_PRIO k
    (s.chip.carRoom q ≠ 0 → exec (.carPush i q k) s = .next (s.after
      { (c.carEnter q (k % 8) 2 (bits (c.rn (R.CAR_Q_IN q 3)) 0 8) (bits (c.rn (R.CAR_Q_IN q 3)) 8 8) (c.rn (R.CAR_Q_IN q 2))
        (c.carInDesc q (k % 8))).setFld (R.CAR_Q_CMDSTAT q) reasonFld 0 with lastReason := 0 })) ∧
    (s.chip.carRoom q = 0 → exec (.carPush i q k) s = .next (s.after
      ((c.addCnt (R.CAR_Q_REFUSED q) 1).reject (carQPort q) i none 0x53)))) ∧
  (∀ (s : State) (i : Init) (q : Nat), s.chip.atWork = true → q < 8 → s.chip.carOwned q i = false →
    exec (.carPop i q) s = .next (s.after { (s.chip.writing.carPopReg q).setFld (R.CAR_Q_CMDSTAT q) reasonFld 0 with lastReason := 0 }) ∧
    exec (.carMark i q) s = .next (s.after { (s.chip.writing.carMark q).setFld (R.CAR_Q_CMDSTAT q) reasonFld 0 with lastReason := 0 }) ∧
    exec (.carRewind i q) s = .next (s.after { (s.chip.writing.carRewind q).setFld (R.CAR_Q_CMDSTAT q) reasonFld 0 with lastReason := 0 })) ∧
  (∀ (s : State) (i : Init) (q h : Nat), s.chip.atWork = true → q < 8 → h < 65536 → s.chip.carOwned q i = false → s.chip.carReleaseReason q h = 0 →
    exec (.carRelease i q h) s = .next (s.after
      { ((s.chip.writing.setFld (R.CAR_Q_RELH q) F.CAR_Q_RELH_HANDLE h).carRelease q h).setFld (R.CAR_Q_CMDSTAT q) reasonFld 0 with
        lastReason := 0 })) ∧
  (∀ (s : State) (i : Init), s.chip.atWork = true → s.chip.carApplyReason = 0 →
    exec (.carApply i) s = .next (s.after (s.chip.writing.accept carPort Chip.carApply))) ∧
  (∀ (s : State) (q t : Nat), s.chip.atWork = true → q < 8 → s.chip.car.stallAt.find? (fun e => decide (e.1 = q)) = some (q, t) →
    s.chip.carTimeout q ≠ 0 → s.chip.flag (R.CAR_Q_STAT q) F.CAR_Q_STAT_STALLED = false →
    exec (.queueStall q) s = .next (s.after
      (((s.chip.waitLine (t + s.chip.carTimeout q * micro)).setFlag (R.CAR_Q_STAT q) F.CAR_Q_STAT_STALLED true).raise (Ev.qStall q))))

/-- In an engine at work, POP of a queue the registers own takes a poppable entry of the highest priority and, among those, of the lowest
arrival number, gives it POPNO and increments POPNO, writes its descriptor to OUT0 to OUT7 and its handle to POPSTAT with VALID = 1,
and pops no other entry; the descriptor's words being sound and inside the usable store. A POP of an empty queue writes VALID = 0 and
changes nothing else. (R229) -/
def Obligations.CarterPops : Prop :=
  ∀ (s : State) (i : Init) (q : Nat), s.chip.atWork = true → q < 8 → s.chip.carOwned q i = false →
    (∀ e, s.chip.carHead q = some e →
      (∀ k, k < 4 → s.chip.cstBad (s.chip.cstPhys (s.chip.carWord e.index + k)) = 0 ∧
        s.chip.cstRaw (s.chip.cstPhys (s.chip.carWord e.index + k)) = false ∧ s.chip.carWord e.index + k < s.chip.cstWords) →
      (e ∈ s.chip.car.entries ∧ e.queue = q ∧ s.chip.carPoppable e = true) ∧
      (∀ x, x ∈ s.chip.car.entries → x.queue = q → s.chip.carPoppable x = true →
        e.prio < x.prio ∨ (e.prio = x.prio ∧ e.arrival ≤ x.arrival)) ∧
      Completes (.carPop i q) s (fun c => c.car.entries = s.chip.car.entries.map (fun x =>
          if x.index = e.index then { x with popNo := some (s.chip.rn (R.CAR_Q_POPNO q)), everPopped := true } else x) ∧
        c.rn (R.CAR_Q_POPNO q) = (s.chip.rn (R.CAR_Q_POPNO q) + 1) % 2 ^ 32 ∧
        c.flag (R.CAR_Q_POPSTAT q) F.CAR_Q_POPSTAT_VALID = true ∧ c.fld (R.CAR_Q_POPSTAT q) F.CAR_Q_POPSTAT_HANDLE = e.handle % 65536 ∧
        (∀ w, w < 8 → c.rn (R.CAR_Q_OUT q w) =
          (s.chip.cstCell (s.chip.cstPhys (s.chip.carWord e.index + w / 2))).toNat / 2 ^ (32 * (w % 2)) % 2 ^ 32))) ∧
    (s.chip.carHead q = none →
      (∀ x, x ∈ s.chip.car.entries → x.queue = q → s.chip.carPoppable x = false) ∧
      Completes (.carPop i q) s (fun c => c.car = s.chip.car ∧ c.flag (R.CAR_Q_POPSTAT q) F.CAR_Q_POPSTAT_VALID = false ∧ s.chip.keepsMem c ∧
        (∀ a, a ≠ R.CAR_Q_POPSTAT q → a ≠ R.CAR_Q_CMDSTAT q → c.reg a = s.chip.reg a)))

/-- In an engine at work: an accepted START begins, STOP halts, a write of BUF_PI posts buffers and lets a waiting stream go on, a write
of CPL_CI frees slots; a running engine whose queue Q0 is the engine's own, with a buffer, a slot and a poppable entry, pops Q0 and
writes the stream into the buffers; a stream wholly written gives a completion entry whose last byte is written apart and carries the
phase, advances CPL_PI and HIF_DMA_SEGS and raises DMA_CPL. (11_readout.md) -/
def Obligations.DmaEngine : Prop :=
  (∀ (s : State) (i : Init), s.chip.atWork = true → s.chip.dmaReason = 0 →
    exec (.dmaStart i) s = .next (s.after (s.chip.writing.accept dmaPort Chip.dmaBegin))) ∧
  (∀ (s : State) (i : Init), s.chip.atWork = true →
    exec (.dmaStop i) s = .next (s.after (s.chip.writing.accept dmaPort (fun c => c.dmaHalt false)))) ∧
  (∀ (s : State) (i : Init) (n : Word) (l : List (Nat × Nat)), s.chip.atWork = true → i ≠ .sched →
    let c := s.chip.writing.setN R.HIF_DMA_BUF_PI (n.toNat % 65536)
    (s.chip.dma.stream = none → exec (.dmaBufferPost i n l) s = .next (s.after c)) ∧
    (∀ d, s.chip.dma.stream = some d → c.dmaRuns = true → d.rest ≠ [] → 0 < c.dmaPosted →
      exec (.dmaBufferPost i n l) s = .next (s.after (c.dmaWrite l)))) ∧
  (∀ (s : State) (i : Init) (n : Word), s.chip.atWork = true → i ≠ .sched →
    exec (.dmaCompletionFree i n) s = .next (s.after (s.chip.writing.setN R.HIF_DMA_CPL_CI (n.toNat % 65536)))) ∧
  (∀ (s : State) (l : List (Nat × Nat)) (e : CarEntry), s.chip.atWork = true → l.all (fun b => decide (b.1 < 2 ^ 64) && decide (b.2 < 2 ^ 32)) = true →
    s.chip.dmaRuns = true → s.chip.engineOwns 0 = true → s.chip.dma.stream = none → 0 < s.chip.dmaPosted → s.chip.dmaSlot = true →
    s.chip.carHead 0 = some e → s.chip.mcState = 2 →
    ∃ d, (s.chip.carPop 0).2 = some (e.handle, d, e) ∧
      (let c := (s.chip.carPop 0).1
       let b := if (c.streamFor d).1 = 0 then (c.streamFor d).2 else []
       let t : DmaStream := { handle := e.handle, desc := d, rest := b, total := b.length, nbuf := 0, status := (c.streamFor d).1
                              firstBuf := if (c.streamFor d).1 = 0 then c.rn R.HIF_DMA_BUF_CI % 2 ^ c.dma.bsz else c.freeNow.toNat }
       exec (.dmaDescriptorPop l) s = .next (s.after (({ c with dma := { c.dma with stream := some t } }.used).dmaWrite l)))) ∧
  (∀ (s : State) (d : DmaStream), s.chip.atWork = true → s.chip.dmaRuns = true → s.chip.dma.stream = some d → d.rest = [] →
    let p := s.chip.dma.cplBase + 32 * (s.chip.rn R.HIF_DMA_CPL_PI % 2 ^ s.chip.dma.csz)
    Completes .dmaStreamComplete s (fun c => c.dma.stream = none ∧
      c.out = .hostWrite (p + 31) false [if s.chip.dma.phase then 1 else 0] :: .hostWrite p false d.entry :: s.chip.out ∧
      c.rn R.HIF_DMA_CPL_PI = (s.chip.rn R.HIF_DMA_CPL_PI + 1) % 65536 ∧ c.reg R.HIF_DMA_SEGS = s.chip.reg R.HIF_DMA_SEGS + 1 ∧
      bit (c.rn (R.EVT_STAT 5)) 4 = true ∧
      c.dma.phase = (s.chip.dma.phase != decide ((s.chip.rn R.HIF_DMA_CPL_PI + 1) % 2 ^ s.chip.dma.csz = 0)) ∧ c.mc = s.chip.mc))

/-- In an engine at work, a frame received on a port that is up is discarded without effect where it is a PAUSE or priority flow control
frame, else dropped and counted with the reason of the first check it fails, or counted and dispatched; one that its FEC could not
correct is counted and dropped with reason 1. At a frame boundary the port sends the first waiting frame in the order ARP replies,
notices, management, data, the reply to a RESET service noting its time and a first notice copy counted. A link that falls discards
what waits, each notice counted as dropped, and one that rises on an enabled port is up, its running streamer replaying.
(11_readout.md) -/
def Obligations.EthernetPorts : Prop :=
  (∀ (s : State) (n : Nat) (f : List Nat), s.chip.atWork = true → n < 4 → bytesWf f = true → s.chip.ethUp n = true →
    (s.chip.rxPause n f true = true → exec (.ethFrameReceived n f true) s = .next (s.after s.chip)) ∧
    (s.chip.rxPause n f true = false → s.chip.rxReason n f true ≠ 0 → exec (.ethFrameReceived n f true) s = .next (s.after
      ((s.chip.addCnt (R.ETH_RX_DROP n) 1).setFld (R.ETH_RX_DROP_LAST n) F.ETH_RX_DROP_LAST_REASON (s.chip.rxReason n f true)))) ∧
    (s.chip.rxPause n f true = false → s.chip.rxReason n f true = 0 → exec (.ethFrameReceived n f true) s = .next (s.after
      ((s.chip.addCnt (R.ETH_RX_OK n) 1).rxDispatch n (rxParse (s.chip.flag (R.ETH_CTRL n) F.ETH_CTRL_VLAN_EN) (rxBody f)))))) ∧
  (∀ (s : State) (n : Nat) (f : List Nat), s.chip.atWork = true → n < 4 → bytesWf f = true → s.chip.ethUp n = true →
    Completes (.ethFrameReceived n f false) s (fun c => c.reg (R.ETH_FEC_UNCORR n) = s.chip.reg (R.ETH_FEC_UNCORR n) + 1 ∧
      c.reg (R.ETH_RX_DROP n) = s.chip.reg (R.ETH_RX_DROP n) + 1 ∧ c.fld (R.ETH_RX_DROP_LAST n) F.ETH_RX_DROP_LAST_REASON = 1)) ∧
  (∀ (s : State) (n : Nat), s.chip.atWork = true → n < 4 → s.chip.ethUp n = true →
    let e := s.chip.eth n
    (∀ f l, e.arp = f :: l → exec (.ethFrameTransmit n) s = .next (s.after ((s.chip.setEth n { e with arp := l }).sendFrame n f))) ∧
    (∀ f b l, e.arp = [] → e.notices = (f, b) :: l → exec (.ethFrameTransmit n) s = .next (s.after
      (let c := (s.chip.setEth n { e with notices := l }).sendFrame n f
       if b then c else c.addCnt R.ORT_NTC_TX 1))) ∧
    (∀ f l, e.arp = [] → e.notices = [] → e.mgmt = (f, false) :: l →
      exec (.ethFrameTransmit n) s = .next (s.after ((s.chip.setEth n { e with mgmt := l }).sendFrame n f))) ∧
    (∀ f l, e.arp = [] → e.notices = [] → e.mgmt = (f, true) :: l → exec (.ethFrameTransmit n) s = .next (s.after
      (let c := (s.chip.setEth n { e with mgmt := l }).sendFrame n f
       { c with stw := { c.stw with resetAt := some c.epc.line } }))) ∧
    (∀ t, e.arp = [] → e.notices = [] → e.mgmt = [] → e.stream = some t → s.chip.strRuns n = true →
      exec (.ethFrameTransmit n) s = .next (s.after (s.chip.sendData n t)))) ∧
  (∀ (s : State) (n : Nat), s.chip.atWork = true → n < 4 →
    (s.chip.ethUp n = true → Completes (.ethLink n false) s (fun c => c.ethUp n = false ∧ (c.eth n).arp = [] ∧ (c.eth n).notices = [] ∧
      (c.eth n).mgmt = [] ∧ c.reg R.ORT_NTC_DROP = s.chip.reg R.ORT_NTC_DROP + BitVec.ofNat 32 (s.chip.eth n).notices.length)) ∧
    (s.chip.ethUp n = false → s.chip.flag (R.ETH_CTRL n) F.ETH_CTRL_EN = true → s.chip.strRuns n = false →
      Completes (.ethLink n true) s (fun c => c.ethUp n = true ∧ c.eths = s.chip.eths)) ∧
    (s.chip.ethUp n = false → s.chip.flag (R.ETH_CTRL n) F.ETH_CTRL_EN = true → s.chip.strRuns n = true →
      exec (.ethLink n true) s = .next (s.after
        ((((s.chip.setLink n true).setFlag (R.ETH_STR_STAT n) F.ETH_STR_STAT_WAIT_LINK false).raise (Ev.ethLink n)).strReplay n none))))

/-- In an engine at work: an accepted streamer START begins and STOP halts; a running streamer whose queue is the engine's own, with room
in its window, pops its queue, and the entry, with its segment's stream from the start, is outstanding; RTO with every outstanding
entry sent replays and raises STR_TIMEOUT, however often it has before; a due EVENT frame and its repeat are sent once the holdoff is
over; a link that trains shows its speed and width, and one that falls resets the configuration space and stops the DMA engine.
(11_readout.md, 16_events_scrivener.md) -/
def Obligations.Streamers : Prop :=
  (∀ (s : State) (i : Init) (n : Nat), s.chip.atWork = true → n < 4 →
    (s.chip.strReason n = 0 → exec (.strStart i n) s = .next (s.after (s.chip.writing.accept (strPort n) (fun c => c.strBegin n)))) ∧
    exec (.strStop i n) s = .next (s.after (s.chip.writing.accept (strPort n) (fun c => c.strHalt n)))) ∧
  (∀ (s : State) (n : Nat) (x : CarEntry), s.chip.atWork = true → n < 4 → s.chip.strRuns n = true → s.chip.engineOwns (n + 1) = true →
    s.chip.ethUp n = true → (s.chip.eth n).stream = none → (s.chip.eth n).outst.length < s.chip.window n →
    (s.chip.eth n).outst.contains x.handle = false → (s.chip.eth n).resume = none → s.chip.carHead (n + 1) = some x → s.chip.mcState = 2 →
    ∃ d, (s.chip.carPop (n + 1)).2 = some (x.handle, d, x) ∧
      (let c := (s.chip.carPop (n + 1)).1
       let t : StrStream := { handle := x.handle, desc := d, bytes := (c.streamFor d).2, ofs := 0, rdlv := x.rdlv, segNo := leAt d 8 4,
                              part := d.getD 12 0, slot := d.getD 13 0, kind := d.getD 15 0 }
       exec (.streamerPop n) s = .next (s.after (c.putEth n
         { s.chip.eth n with stream := if (c.streamFor d).1 = 1 then none else some t, outst := (s.chip.eth n).outst ++ [x.handle] })))) ∧
  (∀ (s : State) (n : Nat), s.chip.atWork = true → n < 4 → s.chip.strRuns n = true → (s.chip.eth n).outst ≠ [] → (s.chip.eth n).stream = none →
    s.chip.strAllOut n = true →
    exec (.streamerTimeout n) s = .next (s.after
      (let c := ((s.chip.waitLine ((s.chip.eth n).lastAt + s.chip.rto n * micro)).strReplay n none).addCnt (R.ETH_STR_TIMEOUTS n) 1
       (c.setEth n { c.eth n with lastAt := c.epc.line }).raise (Ev.strTimeout n)))) ∧
  (∀ (s : State), s.chip.atWork = true → s.chip.eventOn = true → s.chip.evt.frameDue = true →
    exec .eventFrameSend s = .next (s.after (s.chip.eventWait s.chip.eventHoldoff).eventSend)) ∧
  (∀ (s : State), s.chip.atWork = true → s.chip.eventOn = true → s.chip.fld R.EVT_ORT_CFG F.EVT_ORT_CFG_REPEAT ≠ 0 →
    s.chip.activeLines &&& s.chip.ortMap ≠ 0 →
    exec .eventFrameRepeat s = .next (s.after
      (s.chip.eventWait (max (1000 * s.chip.fld R.EVT_ORT_CFG F.EVT_ORT_CFG_REPEAT) s.chip.eventHoldoff)).eventSend)) ∧
  (∀ (s : State) (v w : Nat), s.chip.atWork = true → 1 ≤ v → v ≤ 5 → (w = 1 ∨ w = 4 ∨ w = 8 ∨ w = 16) → bit s.chip.pins.pen 0 = true →
    Completes (.pcieLink v w true) s (fun c => c.pcieUp = true ∧ c.fld R.HIF_LINK F.HIF_LINK_SPEED = v ∧ c.fld R.HIF_LINK F.HIF_LINK_WIDTH = w)) ∧
  (∀ (s : State) (v w : Nat), s.chip.atWork = true → v < 8 → w ≤ 16 → s.chip.pcieUp = true →
    Completes (.pcieLink v w false) s (fun c => c.pcieUp = false ∧ c.reg R.HIF_LINK = 0 ∧ c.pcie = {} ∧ c.dmaRuns = false))

/-- In an engine at work: an APPLY that Table 12-5 accepts takes the configuration and enters ACQUIRE; a STEP in range, in LOCKED or
BYPASS with no ramp, begins its ramp and leaves REASON 0, and STEP_DONE ends the ramp on the target word, clears RAMP and raises
STEP_DONE; CKO_APPLY takes the outputs' configuration; a PHASE write of the host or the Steward stores PHASE and nothing else, and the
aligner starts from where it is; a pulse per second rises, and falls PW after its leading edge. An aligner that has moved for as many
taps as the output's period holds stands at its target. (12_clocks.md) -/
def Obligations.ClockCommands : Prop :=
  (∀ (s : State) (i : Init), s.chip.atWork = true → s.chip.anyArmed = false → s.chip.synCfg.legal = true → s.chip.synCfg.ditherBad = false →
    s.chip.synState ≠ 0 → s.chip.synBusy = false →
    exec (.clkApply i) s = .next (s.after (s.chip.writing.accept clkPort (fun c => c.synApply 1)))) ∧
  (∀ (s : State) (i : Init), s.chip.atWork = true → s.chip.stepInRange = true → (s.chip.synState = 2 ∨ s.chip.synState = 4) →
    s.chip.ramping = false →
    Completes (.clkStep i) s (fun c => c.clk.rampTo = some (s.chip.stepWord / 2 ^ 32, s.chip.stepWord % 2 ^ 32) ∧ c.clk.rampAt = s.chip.epc.line ∧
      c.flag R.CLK_STAT F.CLK_STAT_RAMP = true ∧ c.fld R.CLK_CMDSTAT reasonFld = 0)) ∧
  (∀ (s : State) (t : Nat × Nat), s.chip.atWork = true → s.chip.clk.rampTo = some t → s.chip.ramping = true →
    Completes .stepDone s (fun c => c.clk.rampTo = none ∧ c.clk.wordN * 2 ^ 32 + c.clk.wordFrac = t.1 * 2 ^ 32 + t.2 ∧
      c.flag R.CLK_STAT F.CLK_STAT_RAMP = false ∧
      s.chip.clk.rampAt ≤ c.epc.line ∧ bit (c.rn (R.EVT_STAT 2)) 8 = true)) ∧
  (∀ (s : State) (i : Init), s.chip.atWork = true → exec (.ckoApply i) s = .next (s.after (s.chip.writing.accept clkPort Chip.ckoTake))) ∧
  (∀ (s : State) (i : Init) (m : Nat) (v : Word), s.chip.atWork = true → i ≠ .sched → m < 8 →
    Completes (.ckoPhaseWrite i m v) s (fun c => c.fld (R.CLK_CKO_PHASE m) F.CLK_CKO_PHASE_PHASE = v.toNat % 65536 ∧
      c.ckoCur m = s.chip.ckoCur m ∧ SMap.get (fun _ => (0, 0)) c.clk.ckoFrom m = (s.chip.ckoCur m, s.chip.epc.line) ∧
      (∀ a, a ≠ R.CLK_CKO_PHASE m → c.reg a = s.chip.reg a))) ∧
  (∀ (s : State) (m : Nat), s.chip.atWork = true → m < 8 → s.chip.ckoPps m = true → s.chip.epcHolds = true → s.chip.sampleOn = true →
    Completes (.ckoPpsPulseStart m) s (fun c => bit c.clk.ckoHigh m = true ∧ c.regs = s.chip.regs)) ∧
  (∀ (s : State) (m : Nat), s.chip.atWork = true → m < 8 → bit s.chip.clk.ckoHigh m = true →
    Completes (.ckoPpsPulseEnd m) s (fun c => bit c.clk.ckoHigh m = false ∧ c.regs = s.chip.regs ∧
      cnt0 s.chip.clk.ckoEdge m + s.chip.ckoPw m * micro ≤ c.epc.line)) ∧
  (∀ (d cur dst n : Nat) (tie : Bool), 0 < d → cur < d → dst < d → d ≤ n → phaseWay d cur dst n tie = dst)

/-- In an engine at work: phase errors that meet the lock criterion give, in ACQUIRE with every aligner locked and REFIN qualified and
selected, LOCKED with LOCK and the sample clock on, and in RETURN LOCKED; errors that do not meet it only show in LKA. Loss of
reference, by the criterion of its cause, in LOCKED counts in CLK_LOSS_CNT, clears REF_OK and gives COAST, or GATED with the sample
clock stopped where gated mode is in force; COAST_MAX later COAST becomes BYPASS on XBYP. An unlock in LOCKED, by the phase detector
or by an aligner, counts and clears LOCK and, without gated mode and with REFIN qualified, gives BYPASS where REF_SEL = 1, and else
leads through BYPASS to RETURN; an aligner that lost its lock shows no lock. The return of a REFIN within tolerance in COAST gives
RETURN after REF_QUAL where REFIN is selected, else it is only qualified. (12_clocks.md) -/
def Obligations.SynthesiserMoves : Prop :=
  (∀ (s : State) (l : List (Nat × Nat)), s.chip.atWork = true → lockMet l = true →
    (s.chip.synState = 1 → s.chip.refOk = true → s.chip.refSel = false →
      Completes (.synLocked l 255 255) s (fun c => c.synState = 2 ∧ c.flag R.CLK_STAT F.CLK_STAT_LOCK = true ∧ c.sampleOn = true ∧
        c.fld R.CLK_STAT F.CLK_STAT_GA_LOCK = 255 ∧ c.fld R.CLK_STAT F.CLK_STAT_OA_LOCK = 255)) ∧
    (∀ ga oa, ga < 256 → oa < 256 → s.chip.synState = 6 →
      Completes (.synLocked l ga oa) s (fun c => c.synState = 2 ∧ c.flag R.CLK_STAT F.CLK_STAT_LOCK = true ∧ c.clk.returnHeld = false))) ∧
  (∀ (s : State) (l : List (Nat × Nat)) (ga oa : Nat), s.chip.atWork = true → lockMet l = false → ga < 256 → oa < 256 →
    exec (.synLocked l ga oa) s = .next (s.after (s.chip.phaseNote l))) ∧
  (∀ (s : State) (k m : Nat), s.chip.atWork = true → s.chip.synState = 2 → s.chip.refOk = true → k < 8 → s.chip.refLost k m = true →
    s.chip.gated = false →
    Completes (.refLoss k m) s (fun c => c.synState = 3 ∧ c.refOk = false ∧ c.reg R.CLK_LOSS_CNT = s.chip.reg R.CLK_LOSS_CNT + 1 ∧
      c.fld R.CLK_STAT F.CLK_STAT_CAUSE = k ∧ c.sampleOn = s.chip.sampleOn ∧ c.clk.coastAt = s.chip.epc.line)) ∧
  (∀ (s : State) (k m : Nat), s.chip.atWork = true → s.chip.synState = 2 → s.chip.refOk = true → k < 8 → s.chip.refLost k m = true →
    s.chip.gated = true →
    Completes (.refLoss k m) s (fun c => c.synState = 5 ∧ c.refOk = false ∧ (s.chip.sampleOn = true → c.sampleOn = false))) ∧
  (∀ (s : State), s.chip.atWork = true → s.chip.synState = 3 →
    Completes .coastMaxExpire s (fun c => c.synState = 4 ∧ s.chip.clk.coastAt + s.chip.coastMax * 1000 * micro ≤ c.epc.line ∧ c.clk.byp = true)) ∧
  (∀ (s : State) (al : Option Nat) (l : List (Nat × Nat)), s.chip.atWork = true → s.chip.synState = 2 → s.chip.gated = false →
    s.chip.refOk = true → al.getD 0 < 16 → ((unlockMet l = true ∧ s.chip.flag R.CLK_STAT F.CLK_STAT_LOCK = true) ∨ al.isSome = true) →
    Completes (.synUnlock al l) s (fun c => c.synState = (if s.chip.refSel then 4 else 6) ∧ c.flag R.CLK_STAT F.CLK_STAT_LOCK = false ∧
      c.reg R.CLK_UNLOCK_CNT = s.chip.reg R.CLK_UNLOCK_CNT + 1 ∧
      (∀ n, al = some n → n < 8 → bit (c.fld R.CLK_STAT F.CLK_STAT_GA_LOCK) n = false))) ∧
  (∀ (s : State) (hz : Nat), s.chip.atWork = true → s.chip.synState = 3 → s.chip.refOk = false → s.chip.refInTol hz = true →
    Completes (.refReturn hz) s (fun c => c.synState = (if s.chip.refSel then 3 else 6) ∧ c.refOk = true ∧
      s.chip.clk.refFrom + s.chip.refQual * 1000 * micro ≤ c.epc.line))

/-- In an engine at work: an SR_ENTER accepted in READY or IDLE, with no channel in training and no partition recording, brings the
controller to SR_ENTRY remembering the state before; with everything queued completed the entry command brings it to SELF_REFRESH with
the residency running, every debt paid and every row closed; the residency ends no sooner than 1 µs later, a waiting exit then
proceeding; SR_EXIT waits for that end or issues the exit, whose end restores the state before entry. A readout request of the host's
or a streamer's admitted in preparation abandons entry, counts in MCX_SR_ABORT and is served; past the commit point it counts in
MCX_SR_LATE and waits with its reads for the exit, which begins at the end of the residency or, after that, at once. (13_dram.md) -/
def Obligations.SelfRefresh : Prop :=
  (∀ (s : State) (i : Init), s.chip.atWork = true → s.chip.anyTraining = false → (s.chip.mcState = 2 ∨ s.chip.mcState = 3) →
    (∀ p, p < 16 → s.chip.recording p = false) →
    Completes (.mcSrEnter i) s (fun c => c.mcState = 4 ∧ c.mc.srPrior = s.chip.mcState ∧ c.mc.srBy = 1 ∧ c.fld R.MCX_CMDSTAT reasonFld = 0 ∧
      c.fld R.MCX_CMDSTAT F.MCX_CMDSTAT_CH = 0)) ∧
  (∀ (s : State), s.chip.atWork = true → s.chip.mcState = 4 → s.chip.mcQuiet = true →
    Completes .srCommitPoint s (fun c => c.mcState = 5 ∧ c.mc.residency = true ∧ c.mc.commitAt = s.chip.epc.line ∧
      (∀ n, n < 8 → (c.mcCh n).debt = [] ∧ (c.mcCh n).openRow = []))) ∧
  (∀ (s : State), s.chip.atWork = true → s.chip.mcState = 5 → s.chip.mc.residency = true →
    Completes .srResidencyEnd s (fun c => c.mc.residency = false ∧ s.chip.mc.commitAt + micro ≤ c.epc.line ∧
      c.mcState = (if s.chip.mc.exitDue then 6 else 5))) ∧
  (∀ (s : State) (i : Init), s.chip.atWork = true → s.chip.mcState = 5 →
    Completes (.mcSrExit i) s (fun c => c.fld R.MCX_CMDSTAT reasonFld = 0 ∧
      (s.chip.mc.residency = true → c.mcState = 5 ∧ c.mc.exitDue = true) ∧ (s.chip.mc.residency = false → c.mcState = 6))) ∧
  (∀ (s : State), s.chip.atWork = true → s.chip.mcState = 6 → s.chip.mc.srPrior < 8 → s.chip.mc.late = [] →
    Completes .srExitDone s (fun c => c.mcState = s.chip.mc.srPrior ∧ c.mc.srBy = 0)) ∧
  (∀ (s : State) (r n a : Nat), s.chip.atWork = true → s.chip.mcState = 4 → s.chip.mc.srBy = 1 → s.chip.mc.srPrior < 8 → 8 ≤ r → r ≤ 12 →
    1 ≤ n → n ≤ 4096 → a < 2 ^ 48 → a + n ≤ s.chip.capBytes → s.chip.queueFits McCh.reads (s.chip.capRuns r a n) = true →
    (s.chip.capRuns r a n).all (fun x => s.chip.reqIdle x.1 r) = true →
    Completes (.readoutAdmit r n a false) s (fun c => c.mcState = s.chip.mc.srPrior ∧ c.mc.srBy = 0 ∧
      c.reg R.MCX_SR_ABORT = s.chip.reg R.MCX_SR_ABORT + 1 ∧ c.mc.late = s.chip.mc.late)) ∧
  (∀ (s : State) (r n a : Nat), s.chip.atWork = true → s.chip.mcState = 5 → 8 ≤ r → r ≤ 12 → 1 ≤ n → n ≤ 4096 → a < 2 ^ 48 →
    a + n ≤ s.chip.capBytes → s.chip.queueFits McCh.reads (s.chip.capRuns r a n) = true →
    (s.chip.capRuns r a n).all (fun x => s.chip.reqIdle x.1 r) = true →
    Completes (.readoutAdmit r n a false) s (fun c => (s.chip.mc.residency = true → c.mcState = 5 ∧ c.mc.exitDue = true) ∧
      (s.chip.mc.residency = false → c.mcState = 6) ∧ c.reg R.MCX_SR_LATE = s.chip.reg R.MCX_SR_LATE + 1 ∧
      c.mc.late = s.chip.mc.late ++ [(r, s.chip.capRuns r a n)]))

/-- In an engine at work with nothing armed and no consumer running, TRAIN of populated channels puts each into TRAINING and the
controller with them; SWEEP of a channel in training sets BUSY and clears DONE; when the sweep completes, BUSY clears, DONE sets and
TRN_DONE is raised, and where everything read back is the pattern a bit has its window from the first setting to the last and its
counter as it was. (13_dram.md) -/
def Obligations.TrainingCommands : Prop :=
  (∀ (s : State) (i : Init) (m : Nat), s.chip.atWork = true → 0 < m → m < 256 → s.chip.mcState = 2 →
    (∀ n, n < 8 → bit m n = true → s.chip.mcPresent n = true) → (∀ p, p < 16 → s.chip.armed p = false) → s.chip.consumerRuns = false →
    Completes (.mcTrain i m) s (fun c => c.mcState = 1 ∧ c.fld R.MCX_CMDSTAT reasonFld = 0 ∧
      (∀ n, n < 8 → bit m n = true → c.flag (R.MC_STAT n) F.MC_STAT_TRAINING = true ∧ c.flag (R.MC_STAT n) F.MC_STAT_READY = false) ∧
      (∀ n, n < 8 → bit m n = false → c.reg (R.MC_STAT n) = s.chip.reg (R.MC_STAT n)))) ∧
  (∀ (s : State) (i : Init) (n : Nat), s.chip.atWork = true → n < 8 → s.chip.flag (R.MC_STAT n) F.MC_STAT_TRAINING = true →
    s.chip.flag (R.MC_TRN_STAT n) F.MC_TRN_STAT_BUSY = false → s.chip.mcPresent n = true →
    Completes (.mcSweep i n) s (fun c => c.flag (R.MC_TRN_STAT n) F.MC_TRN_STAT_BUSY = true ∧
      c.flag (R.MC_TRN_STAT n) F.MC_TRN_STAT_DONE = false ∧ c.fld R.MCX_CMDSTAT reasonFld = 0)) ∧
  (∀ (s : State) (n : Nat) (es : List TrnRead), s.chip.atWork = true → n < 8 → (Instr.trnDone n es).wf = true →
    s.chip.flag (R.MC_TRN_STAT n) F.MC_TRN_STAT_BUSY = true →
    Completes (.trnDone n es) s (fun c => c.flag (R.MC_TRN_STAT n) F.MC_TRN_STAT_BUSY = false ∧
      c.flag (R.MC_TRN_STAT n) F.MC_TRN_STAT_DONE = true ∧ bit (c.rn (R.EVT_STAT (40 + n))) 7 = true ∧
      (∀ b l r, b < 80 → es = [] → (s.chip.sweepSettings n).head? = some l → (s.chip.sweepSettings n).getLast? = some r →
        c.fld (R.MC_TRN_WIN n b) F.MC_TRN_WIN_LEFT = l ∧ c.fld (R.MC_TRN_WIN n b) F.MC_TRN_WIN_RIGHT = r ∧
        c.reg (R.MC_TRN_ERR n b) = s.chip.reg (R.MC_TRN_ERR n b))))

/-- In an engine at work whose controller serves: a readout request of the host's or a streamer's is admitted once the token bucket holds
its bytes and joins the read queues, and one of the Steward's, of the engine region too, at the pace of its own limit; a ready channel
with no refresh or refresh management due and no drain issues the read that goes next, else the write, else pays a postponed refresh;
a read codeword that returns good ends its flight, one with an error in one lane is counted and recorded, one with errors in two or
three lanes is marked and taken from its stream, and is fatal in the Steward's working store. (13_dram.md) -/
def Obligations.DramTraffic : Prop :=
  (∀ (s : State) (r n a : Nat), s.chip.atWork = true → (s.chip.mcState = 2 ∨ s.chip.mcState = 3) → 8 ≤ r → r ≤ 12 → 1 ≤ n → n ≤ 4096 →
    a < 2 ^ 48 → a + n ≤ s.chip.capBytes → s.chip.queueFits McCh.reads (s.chip.capRuns r a n) = true →
    (s.chip.capRuns r a n).all (fun x => s.chip.reqIdle x.1 r) = true →
    exec (.readoutAdmit r n a false) s = .next (s.after
      (let c := s.chip.waitTokens n
       { c with mc := { c.mc with tokens := c.mc.tokens - n * second } }.pushReads (s.chip.capRuns r a n)))) ∧
  (∀ (s : State) (n a : Nat) (engine : Bool), s.chip.atWork = true → (s.chip.mcState = 2 ∨ s.chip.mcState = 3) → 1 ≤ n → n ≤ 4096 →
    a < 2 ^ 48 → a + n ≤ (if engine then s.chip.engBytes else s.chip.capBytes) →
    s.chip.queueFits McCh.reads (if engine then s.chip.engRuns 13 a n else s.chip.capRuns 13 a n) = true →
    exec (.readoutAdmit 13 n a engine) s = .next (s.after
      (let c := s.chip.waitLine s.chip.mc.stwAt
       { c with mc := { c.mc with stwAt := c.epc.line + n * second / 500000000 } }.pushReads
         (if engine then s.chip.engRuns 13 a n else s.chip.capRuns 13 a n)))) ∧
  (∀ (s : State) (h : Nat), s.chip.atWork = true → h < 8 → s.chip.mcState = 2 → s.chip.flag (R.MC_STAT h) F.MC_STAT_READY = true →
    s.chip.mc.wait = [] → s.chip.urgent h = none → (s.chip.mcCh h).rfm = [] → (s.chip.mcCh h).drainNow = false →
    let c := s.chip.setMcCh h { s.chip.mcCh h with draining := false }
    (∀ r, c.nextRead h = some r → exec (.dramCommand h) s = .next (s.after (c.readCodeword h r))) ∧
    (∀ w, c.nextRead h = none → c.nextWrite h = some w → exec (.dramCommand h) s = .next (s.after (c.writeCodeword h w))) ∧
    (∀ k, c.nextRead h = none → c.nextWrite h = none → (s.chip.mcCh h).merge = [] → owing (s.chip.mcCh h).debt = some k →
      exec (.dramCommand h) s = .next (s.after (c.payRefresh h k)))) ∧
  (∀ (s : State) (h a r l m : Nat) (es : List (Nat × Nat)), s.chip.atWork = true → h < 8 → a < 2 ^ 40 → r < 16 → l < 20 → 0 < m → m < 16 →
    (s.chip.mcCh h).flight.contains (r, a / 128) = true → cnt0 (s.chip.mcCh h).bad (a / 128) = 0 →
    let c := s.chip.setMcCh h { s.chip.mcCh h with flight := (s.chip.mcCh h).flight.erase (r, a / 128) }
    exec (.dramReadReturn h a r 0 []) s = .next (s.after c) ∧
    exec (.dramReadReturn h a r 0 [(l, m)]) s = .next (s.after (c.mcCe h (a / 128) l 0 r)) ∧
    ((Instr.dramReadReturn h a r 0 es).wf = true → (∀ e, e ∈ es → 0 < e.2) →
      ((distinct (es.map Prod.fst)).length = 2 ∨ (distinct (es.map Prod.fst)).length = 3) →
      let u := (c.mcUe h (a / 128) 0 r).restreamOf r
      exec (.dramReadReturn h a r 0 es) s = .next (s.after
        (if r = 13 ∧ a / 128 < 2097152 then u.declareFatal 9 [2, 0, 0, 0, 0, 0, 0, 0] u.now false else u))))

/-- In an engine at work: a refresh that falls due on a ready channel's first rank with no read or write ready and no merge in the rank is
issued, and with one ready on a cool channel below POSTPONE it is owed; a refresh window's start clears the trackers and throttles; a
poll at 85 °C makes a cool channel hot and raises MC_HOT; a patrol read, at its time and in its turn, opens its row and with no error
only advances the position, wrapping; the drift correction, no sooner than 100 ms after the one before, moves each write strobe-to-
data delay in use by its step. (13_dram.md) -/
def Obligations.DramKeeping : Prop :=
  (∀ (s : State) (h : Nat), s.chip.atWork = true → h < 8 → s.chip.mcState = 2 → s.chip.flag (R.MC_STAT h) F.MC_STAT_READY = true →
    s.chip.rankMerging h 0 = false →
    (s.chip.nextRead h = none → s.chip.nextWrite h = none → exec (.refreshDue h 0) s = .next (s.after (s.chip.refreshRank h 0))) ∧
    (s.chip.nextRead h ≠ none ∨ s.chip.nextWrite h ≠ none → s.chip.flag (R.MC_STAT h) F.MC_STAT_HOT = false →
      cnt0 (s.chip.mcCh h).debt 0 < s.chip.postpone →
      Completes (.refreshDue h 0) s (fun c => cnt0 (c.mcCh h).debt 0 = cnt0 (s.chip.mcCh h).debt 0 + 1 ∧
        (c.mcCh h).reads = (s.chip.mcCh h).reads ∧ (∀ a, a ≠ R.MC_REF_DEBT h → c.reg a = s.chip.reg a)))) ∧
  (∀ (s : State) (h : Nat), s.chip.atWork = true → h < 8 →
    Completes (.refreshWindowStart h) s (fun c => (c.mcCh h).trackers = [] ∧ (c.mcCh h).throttle = [] ∧ (c.mcCh h).throttleAt = [] ∧
      (c.mcCh h).reads = (s.chip.mcCh h).reads ∧ (c.mcCh h).writes = (s.chip.mcCh h).writes ∧ c.regs = s.chip.regs)) ∧
  (∀ (s : State) (h : Nat) (t : Int), s.chip.atWork = true → h < 8 → 85 ≤ t → t < 95 → s.chip.mcPresent h = true →
    s.chip.flag (R.MC_STAT h) F.MC_STAT_HOT = false →
    Completes (.dramTempPoll h t []) s (fun c => c.flag (R.MC_STAT h) F.MC_STAT_HOT = true ∧ bit (c.rn (R.EVT_STAT (40 + h))) 4 = true ∧
      bits (c.rn (if h < 4 then R.MCX_TEMP0 else R.MCX_TEMP1)) (8 * (h % 4)) 8 = t.toNat)) ∧
  (∀ (s : State) (h : Nat), s.chip.atWork = true → h < 8 → s.chip.flag R.MCX_SCRUB F.MCX_SCRUB_ACTIVE = true →
    (s.chip.mcState = 2 ∨ s.chip.mcState = 3) → s.chip.flag (R.MC_STAT h) F.MC_STAT_READY = true → 0 < (s.chip.mcCh h).bytes →
    let c := s.chip.waitLine (max s.chip.mc.scrubAt (s.chip.mcCh h).scrubDue)
    let p := s.chip.fld (R.MC_SCRUB_POS h) F.MC_SCRUB_POS_POS
    let r : DramReq := { req := 14, addr := 128 * p, count := 1 }
    c.scrubTurn h r = true → cnt0 (s.chip.mcCh h).bad p = 0 → (s.chip.mcCh h).bytes ≤ 2 ^ 37 →
    Completes (.patrolScrubRead h []) s (fun d => (d.mcCh h).openRow = ((c.openFor h r).mcCh h).openRow ∧ (d.mcCh h).lastReq = 14 ∧
      d.mc.scrubAt = c.epc.line + 128 * second / 100000000 ∧ s.chip.mc.scrubAt ≤ c.epc.line ∧ (s.chip.mcCh h).scrubDue ≤ c.epc.line ∧
      d.fld (R.MC_SCRUB_POS h) F.MC_SCRUB_POS_POS = (if p + 1 < (s.chip.mcCh h).bytes / 128 then p + 1 else 0) ∧
      d.reg (R.MC_CE_CNT h) = s.chip.reg (R.MC_CE_CNT h) ∧ d.reg (R.MC_UE_CNT h) = s.chip.reg (R.MC_UE_CNT h))) ∧
  (∀ (s : State) (h n : Nat) (d : Int), s.chip.atWork = true → h < 8 → -1 ≤ d → d ≤ 1 → s.chip.flag (R.MC_STAT h) F.MC_STAT_READY = true →
    (s.chip.mcState = 2 ∨ s.chip.mcState = 3) →
    Completes (.dqsDriftCorrect h d) s (fun c => c.regs = s.chip.regs ∧ (s.chip.mcCh h).driftDue ≤ c.epc.line ∧
      (c.mcCh h).driftDue = c.epc.line + 100000 * micro ∧
      (n ∈ writeDelays → cnt0 (c.mcCh h).inUse n = delayStep (cnt0 (s.chip.mcCh h).inUse n) d) ∧
      (n ∉ writeDelays → cnt0 (c.mcCh h).inUse n = cnt0 (s.chip.mcCh h).inUse n)))

/-- In an engine at work whose store is not under the test coding, a BAR2 write of both DWs of a word of the usable store puts it through
the plain alias, sets its bits through the set alias and clears them through the clear alias, and changes no other word and no
register, where the word was sound; a read returns the word; a DW with some byte enables only is dropped and counted. Scrub of a sound
word waits for its time, changes no word and moves the row on with the last bank. (14_common_store.md, 11_readout.md) -/
def Obligations.Bar2Access : Prop :=
  (∀ (s : State) (w : Nat) (lo hi : Word), s.chip.atWork = true → w < s.chip.cstWords → s.chip.cstBad (s.chip.cstPhys w) = 0 →
    s.chip.cstRaw (s.chip.cstPhys w) = false → s.chip.cstRawOn = false →
    let k := s.chip.cstPhys w
    let v : DWord := BitVec.ofNat 64 (lo.toNat + 2 ^ 32 * hi.toNat)
    let d : List Dw := [⟨lo, 15⟩, ⟨hi, 15⟩]
    let only := fun (x : DWord) (c : Chip) => c.cstCell k = x ∧ (∀ j, j ≠ k → c.cstCell j = s.chip.cstCell j) ∧
      (∀ j, c.cstBad j = s.chip.cstBad j) ∧ (∀ j, c.cstRaw j = s.chip.cstRaw j) ∧ c.regs = s.chip.regs ∧ c.mc = s.chip.mc
    Completes (.bar2Write (8 * w) d) s (only v) ∧
    Completes (.bar2Write (0x2000000 + 8 * w) d) s (only (s.chip.cstCell k ||| v)) ∧
    Completes (.bar2Write (0x4000000 + 8 * w) d) s (only (s.chip.cstCell k &&& ~~~v)) ∧
    Completes (.bar2Read (8 * w) [15, 15]) s (fun c => c.rblock =
      [BitVec.ofNat 32 (s.chip.cstCell k).toNat, BitVec.ofNat 32 ((s.chip.cstCell k).toNat / 2 ^ 32)] ∧ c.regs = s.chip.regs ∧ c.cst = s.chip.cst)) ∧
  (∀ (s : State) (w e : Nat) (v : Word), s.chip.atWork = true → w < s.chip.cstWords → 0 < e → e < 15 →
    Completes (.bar2Write (8 * w) [⟨v, e⟩]) s (fun c => c.cst = s.chip.cst ∧ c.reg R.CST_DROP_CNT = s.chip.reg R.CST_DROP_CNT + 1 ∧
      c.flag R.CST_DROP_LAST F.CST_DROP_LAST_PARTIAL = true ∧ c.fld R.CST_DROP_LAST F.CST_DROP_LAST_ADDR = w)) ∧
  (∀ (s : State) (b : Nat), s.chip.atWork = true → b < 64 → s.chip.cstDegraded = false → s.chip.cstRawOn = false →
    s.chip.flag R.GLB_PROFILE_EFF F.GLB_PROFILE_EFF_CST_SCRUB = true →
    let p := s.chip.fld R.CST_SCRUB_POS F.CST_SCRUB_POS_ROW
    s.chip.cstBad (p * 64 + b) = 0 → s.chip.cstRaw (p * 64 + b) = false →
    Completes (.cstScrub b 0) s (fun c => c.cst = s.chip.cst ∧ s.chip.cstBus.scrubAt ≤ c.epc.line ∧ c.keepsRegs s.chip [R.CST_SCRUB_POS] ∧
      c.fld R.CST_SCRUB_POS F.CST_SCRUB_POS_ROW = (if b = 63 then (p + 1) % 65536 else p) ∧
      c.cstBus.scrubAt = (if b = 63 then max c.epc.line (s.chip.cstBus.scrubAt + s.chip.scrubGap) else s.chip.cstBus.scrubAt)))

/-- Each bit of the merged word that some plain write covers takes the value of the highest-numbered covering master, and every other bit
is (old or all set masks) and not all clear masks. In an engine at work whose store is not under the test coding, accesses of two
masters to one sound word of the usable store that find nothing waiting leave it at this merge of their writes in one cycle, and a
read among them returns the word after the merge. A bank performs at most two waiting accesses a cycle, of different masters. (R332,
R333) -/
def Obligations.BankMerge : Prop :=
  (∀ (old : DWord) (l : List CstAccess) (b : Nat), b < 64 → (∀ x, x ∈ l → x.master < 21) →
    (∀ x, x ∈ l → x.kind = 0 → bit x.mask (b / 8) = true →
      (∀ y, y ∈ l → y.kind = 0 → bit y.mask (b / 8) = true → y.master < x.master ∨ y = x) →
      (cstMerge old l).getLsbD b = x.data.getLsbD b) ∧
    ((∀ x, x ∈ l → x.kind = 0 → bit x.mask (b / 8) = false) →
      (cstMerge old l).getLsbD b = ((old.getLsbD b || l.any (fun x => decide (x.kind = 1) && bit x.mask (b / 8) && x.data.getLsbD b)) &&
        !l.any (fun x => decide (x.kind = 2) && bit x.mask (b / 8) && x.data.getLsbD b)))) ∧
  (∀ (s : State) (x y : CstAccess), s.chip.atWork = true → x.word < s.chip.cstWords → y.word = x.word → x.master ≠ y.master →
    (Instr.cstBankAccess (s.chip.cstBankOf x.word) [x, y]).wf = true → x.upset = 0 → y.upset = 0 →
    s.chip.cstBad (s.chip.cstPhys x.word) = 0 → s.chip.cstRaw (s.chip.cstPhys x.word) = false → s.chip.cstRawOn = false →
    s.chip.cstBus.wait = [] →
    let k := s.chip.cstPhys x.word
    let v := cstMerge (s.chip.cstCell k) ([x, y].filter (fun a => decide (a.kind < 3)))
    Completes (.cstBankAccess (s.chip.cstBankOf x.word) [x, y]) s (fun c => c.cstCell k = v ∧
      (∀ j, j ≠ k → c.cstCell j = s.chip.cstCell j) ∧ (∀ j, c.cstBad j = s.chip.cstBad j) ∧ c.regs = s.chip.regs ∧ c.mc = s.chip.mc ∧
      c.cstBus.wait = [] ∧
      c.rblock = ([x, y].filter (fun a => decide (a.kind = 3))).flatMap (fun _ => [BitVec.ofNat 32 v.toNat, BitVec.ofNat 32 (v.toNat / 2 ^ 32)]))) ∧
  (∀ (c : Chip) (b : Nat), (c.cstGrant b).length ≤ 2 ∧ ((c.cstGrant b).map CstAccess.master).Nodup ∧
    (∀ x, x ∈ c.cstGrant b → (b, x) ∈ c.cstBus.wait))

/-- In an engine at work, a write of any kind at a word address beyond the usable store, which finds nothing waiting, leaves both memories
as they were and a read of it returns 0; either adds one to CST_DROP_CNT, latches the address and the master in CST_DROP_LAST, and
raises CST_ACCESS. (R325) -/
def Obligations.BeyondTheStore : Prop :=
  ∀ (s : State) (x : CstAccess), s.chip.atWork = true → (Instr.cstBankAccess (s.chip.cstBankOf x.word) [x]).wf = true → s.chip.cstWords ≤ x.word →
    s.chip.cstBus.wait = [] →
    Completes (.cstBankAccess (s.chip.cstBankOf x.word) [x]) s (fun c => c.cst = s.chip.cst ∧ c.mc = s.chip.mc ∧
      c.rblock = (if x.kind < 3 then [] else [0, 0]) ∧
      c.reg R.CST_DROP_CNT = s.chip.reg R.CST_DROP_CNT + 1 ∧ c.fld R.CST_DROP_LAST F.CST_DROP_LAST_ADDR = x.word ∧
      c.fld R.CST_DROP_LAST F.CST_DROP_LAST_MASTER = x.master ∧ bit (c.rn (R.EVT_STAT 5)) 2 = true)

/-- In an engine at work the oldest queued record that may not fold and fits the recording half is appended to it with the next record
number, its length added to the half's END; one that may fold into the last record adds one to its REPEAT and to SCV_FOLD and takes no
number; either leaves the queue. EVT_RAISE's pending bits are all set in EVT_STAT63 and no longer pending. (16_events_scrivener.md) -/
def Obligations.ScrivenerWrites : Prop :=
  (∀ (s : State) (r : Rec) (l : List Rec), s.chip.atWork = true → s.chip.scv.queue = r :: l → r.typ ≠ 2 → s.chip.scv.lossDue = false →
    (∀ x, s.chip.lastRec = some x → foldable s.chip.flood x r = false) →
    s.chip.rn (halfEnd s.chip.recHalf) + (16 + r.payload.length) ≤ 262144 →
    Completes (.scrivenerWrite none) s (fun c => c.scv.queue = l ∧ c.reg R.SCV_REC_NO = s.chip.reg R.SCV_REC_NO + 1 ∧
      (c.half s.chip.recHalf).recs = (s.chip.half s.chip.recHalf).recs ++
        [⟨r.typ, r.src, r.stamp, r.payload, (s.chip.rn R.SCV_REC_NO + 1), 0, 0⟩] ∧
      c.rn (halfEnd s.chip.recHalf) = s.chip.rn (halfEnd s.chip.recHalf) + (16 + r.payload.length) ∧
      (∀ a, a ≠ R.SCV_REC_NO → a ≠ halfEnd s.chip.recHalf → c.reg a = s.chip.reg a))) ∧
  (∀ (s : State) (r : Rec) (l : List Rec) (x : HeldRec) (z : List HeldRec), s.chip.atWork = true → s.chip.scv.queue = r :: l →
    s.chip.scv.lossDue = false → (s.chip.half s.chip.recHalf).recs = z ++ [x] → foldable s.chip.flood x r = true → x.rpt < 0xffffff →
    s.chip.rn (halfEnd s.chip.recHalf) + 16 ≤ 262144 →
    Completes (.scrivenerWrite none) s (fun c => c.scv.queue = l ∧ c.reg R.SCV_REC_NO = s.chip.reg R.SCV_REC_NO ∧
      (c.half s.chip.recHalf).recs = z ++ [{ x with rpt := x.rpt + 1, last := r.stamp }] ∧
      c.reg R.SCV_FOLD = s.chip.reg R.SCV_FOLD + 1)) ∧
  (∀ (s : State), s.chip.atWork = true → s.chip.rn R.EVT_RAISE ≠ 0 →
    Completes .evtRaise s (fun c => c.reg R.EVT_RAISE = 0 ∧ (∀ b, b < 24 → bit (s.chip.rn R.EVT_RAISE) b = true → bit (c.rn (R.EVT_STAT 63)) b = true)))

/-- In an engine at work: an EXPORT with none running begins one; when it completes, EXPORTING clears and SCV_EXPORTED is raised; an
accepted THAW empties both halves and ends the freeze, leaving the record number; LOAD stores its LIST and ALL and takes the snapshot
lists they name where their words serve; LW_CLEAR clears the last-words code and LW_VALID. Accepted commands leave REASON 0.
(16_events_scrivener.md) -/
def Obligations.ScrivenerCommands : Prop :=
  (∀ (s : State) (i : Init), s.chip.atWork = true → s.chip.flag R.SCV_STAT F.SCV_STAT_EXPORTING = false →
    exec (.scvExport i) s = .next (s.after (s.chip.writing.accept scvPort (fun c => c.exportStart true true)))) ∧
  (∀ (s : State) (t : Nat × Nat), s.chip.atWork = true → s.chip.stw.dead = false → s.chip.scv.exportTo = some t → s.chip.scv.thawDue = false →
    Completes (.scvExported none) s (fun c => c.scv.exportTo = none ∧ c.flag R.SCV_STAT F.SCV_STAT_EXPORTING = false ∧
      bit (c.rn (R.EVT_STAT 0)) 9 = true ∧ c.reg R.SCV_REC_NO = s.chip.reg R.SCV_REC_NO)) ∧
  (∀ (s : State) (i : Init), s.chip.atWork = true → s.chip.thawReason = 0 →
    Completes (.scvThaw i) s (fun c => c.frozen = false ∧ c.scv.halfA.recs = [] ∧ c.scv.halfB.recs = [] ∧
      c.reg R.SCV_REC_NO = s.chip.reg R.SCV_REC_NO ∧ c.recHalf = s.chip.halfFailed false ∧ c.fld R.SCV_CMDSTAT reasonFld = 0)) ∧
  (∀ (s : State) (i : Init) (b : Bool) (n : Nat), s.chip.atWork = true → n < 64 →
    let c := (s.chip.writing.setFlag R.SCV_CMD F.SCV_CMD_ALL b).setFld R.SCV_CMD F.SCV_CMD_LIST n
    (c.loadLists b n).2 = 0 → exec (.scvLoad i b n) s = .next (s.after ((c.loadLists b n).1.accept scvPort id))) ∧
  (∀ (s : State) (i : Init), s.chip.atWork = true →
    Completes (.lwClear i) s (fun c => c.reg R.SCV_LW_L = 0 ∧ c.reg R.SCV_LW_H = 0 ∧ c.flag R.SCV_AON F.SCV_AON_LW_VALID = false ∧
      c.fld R.SCV_CMDSTAT reasonFld = 0))

/-- In an engine at work a read of SCV_WIN_DATA_L by the host or the Steward returns the low half of the addressed word and captures its
high half for that initiator; a read of _H returns what it captured and then advances the word address by one, wrapping within the
half, and changes no other register. A read that meets an uncorrectable word, one met before among them, returns 0xFFFF_FFFF, captures
it for _H, and leaves the half failed. (R388) -/
def Obligations.WindowRead : Prop :=
  (∀ (s : State) (i : Init), s.chip.atWork = true → i ≠ .sched →
    let b := s.chip.flag R.SCV_WIN_ADDR F.SCV_WIN_ADDR_HALF
    let n := s.chip.fld R.SCV_WIN_ADDR F.SCV_WIN_ADDR_WORD
    let w := s.chip.halfWord b n
    (s.chip.half b).badWords.contains n = false →
    Completes (.scvWindowRead i false false) s (fun c => c.rdata = BitVec.ofNat 32 w ∧
      SMap.get (fun _ => 0) c.acc.captured (latchKey i R.SCV_WIN_DATA_H) = BitVec.ofNat 32 (w / 2 ^ 32) ∧ c.regs = s.chip.regs)) ∧
  (∀ (s : State) (i : Init) (b : Bool) (v : Word), s.chip.atWork = true → i ≠ .sched →
    (∀ d, SMap.get d s.chip.acc.captured (latchKey i R.SCV_WIN_DATA_H) = v) →
    Completes (.scvWindowRead i true b) s (fun c => c.rdata = v ∧
      c.fld R.SCV_WIN_ADDR F.SCV_WIN_ADDR_WORD = (s.chip.fld R.SCV_WIN_ADDR F.SCV_WIN_ADDR_WORD + 1) % 32768 ∧
      c.flag R.SCV_WIN_ADDR F.SCV_WIN_ADDR_HALF = s.chip.flag R.SCV_WIN_ADDR F.SCV_WIN_ADDR_HALF ∧
      (∀ a, a ≠ R.SCV_WIN_ADDR → c.reg a = s.chip.reg a))) ∧
  (∀ (s : State) (i : Init) (x : Bool), s.chip.atWork = true → i ≠ .sched →
    (x = true ∨ (s.chip.half (s.chip.flag R.SCV_WIN_ADDR F.SCV_WIN_ADDR_HALF)).badWords.contains
      (s.chip.fld R.SCV_WIN_ADDR F.SCV_WIN_ADDR_WORD) = true) →
    Demands (.scvWindowRead i false x) s (fun c => c.rdata = 0xffffffff ∧
      SMap.get (fun _ => 0) c.acc.captured (latchKey i R.SCV_WIN_DATA_H) = 0xffffffff ∧
      c.halfFailed (s.chip.flag R.SCV_WIN_ADDR F.SCV_WIN_ADDR_HALF) = true))

/-- In an engine at work whose Steward works: an accepted PROGRAM of sound words takes them into the buffer; VERIFY begins, and
NV_VERIFY_DONE programs what is left of the buffer and ends with the code of the first check of Table 17-5 that the bytes in the slot
fail; the 20 bytes of a boot control copy read back as what was written; PENDING of a verified slot and CONFIRM of a trial update boot
control; a drain of the whole buffer leaves BUF_FREE at 16,384; an erase of the training cache empties it. (17_startup_image.md) -/
def Obligations.FlashCommands : Prop :=
  (∀ (s : State) (i : Init), s.chip.atWork = true →
    let n := (s.chip.fld R.STW_NV_LEN F.STW_NV_LEN_LEN + 7) / 8
    let a := s.chip.fld R.STW_NV_SRC F.STW_NV_SRC_SRC
    s.chip.nvWriteReason (s.chip.rn R.STW_NV_OFS) (s.chip.fld R.STW_NV_LEN F.STW_NV_LEN_LEN) (decide (s.chip.cstWords < a + n)) = 0 →
    s.chip.cstRawOn = false → (∀ k, k < n → s.chip.cstBad (s.chip.cstPhys (a + k)) = 0 ∧ s.chip.cstRaw (s.chip.cstPhys (a + k)) = false) →
    exec (.nvProgram i) s = .next (s.after (s.chip.writing.accept nvPort (fun c => c.nvTake (s.chip.rn R.STW_NV_OFS)
      ((dwordBytes ((List.range n).map (fun k => s.chip.cstCell (s.chip.cstPhys (a + k))))).take (s.chip.fld R.STW_NV_LEN F.STW_NV_LEN_LEN)))))) ∧
  (∀ (s : State) (i : Init), s.chip.atWork = true → s.chip.nvBusy = false →
    Completes (.nvVerify i) s (fun c => c.nv.verifying = true ∧ c.nv.verifyFor = none ∧ c.flag R.STW_NV_STAT F.STW_NV_STAT_BUSY = true ∧
      c.fld R.STW_NV_CMDSTAT reasonFld = 0)) ∧
  (∀ (s : State) (o v : Bool) (w : Nat), w < 4294967296 → s.chip.atWork = true → s.chip.stw.dead = false → s.chip.nv.verifying = true →
    s.chip.nv.verifyFor = none →
    let d := doNvBufferDrain s.chip.nvUsed s.chip
    let f := { d.slot s.chip.inactive with vendorOk := v, fwVersion := w }
    Completes (.nvVerifyDone o v w) s (fun c => c.nv.verifying = false ∧ c.nv.buffer = d.nv.buffer ∧ bit (c.rn (R.EVT_STAT 4)) 7 = true ∧
      c.fld R.STW_NV_VSTAT F.STW_NV_VSTAT_CODE = d.imgVerify f o ∧ c.slot s.chip.inactive = f)) ∧
  (∀ (s : State) (i : Init), s.chip.atWork = true → s.chip.bctl.verified s.chip.inactive = true →
    exec (.nvPending i) s = .next (s.after (s.chip.writing.accept nvPort Chip.nvPendingNow))) ∧
  (∀ (s : State) (i : Init), s.chip.atWork = true → s.chip.inTrial = true →
    exec (.nvConfirm i) s = .next (s.after (s.chip.writing.accept nvPort Chip.confirmSlot))) ∧
  (∀ (s : State), s.chip.atWork = true → s.chip.nv.erasing = 1 →
    Completes .nvEraseDone s (fun c => c.mc.cache = none ∧ c.nv.erasing = 0 ∧ c.boot = s.chip.boot ∧
      c.flag R.STW_NV_STAT F.STW_NV_STAT_BUSY = s.chip.nv.verifying)) ∧
  (∀ (s : State) (n : Nat), s.chip.atWork = true → n ≤ 4294967296 → (∀ b, b ∈ s.chip.nv.buffer → b.2 ≠ []) → s.chip.nvUsed ≤ n →
    Completes (.nvBufferDrain n) s (fun c => c.nv.buffer = [] ∧ c.fld R.STW_NV_STAT F.STW_NV_STAT_BUF_FREE = 16384 ∧
      (∀ a, a ≠ R.STW_NV_STAT → c.reg a = s.chip.reg a))) ∧
  (∀ b : BootCtl, b.seq < 2 ^ 32 → b.active < 256 → b.pending < 256 → b.tries < 256 → b.flags < 256 → BootCtl.ofBytes b.bytes = some b)

/-- In an engine at work, writing GO = 1 with no request waiting submits one and clears DONE; the Steward serves an Ortos request in
service first, else the host's, whose response echoes the service, with GO cleared, DONE set and MB_DONE raised: shown whole for the
STATUS and SENSORS services. (18_steward.md) -/
def Obligations.MailboxPath : Prop :=
  (∀ (s : State) (i : Init) (v : Word), s.chip.atWork = true → i ≠ .sched → bit v.toNat 0 = true → s.chip.flag R.STW_MB_CTRL F.STW_MB_CTRL_GO = false →
    Completes (.mailboxGo i v) s (fun c => c.flag R.STW_MB_CTRL F.STW_MB_CTRL_GO = true ∧ c.flag R.STW_MB_CTRL F.STW_MB_CTRL_DONE = false ∧
      (∀ a, a ≠ R.STW_MB_CTRL → c.reg a = s.chip.reg a))) ∧
  (∀ (s : State) (d : MgmtFrom) (b l : List Nat), s.chip.atWork = true → bytesWf l = true → s.chip.stw.dead = false → s.chip.stw.ortReq = some (d, b) →
    exec (.mailboxServe l) s = .next (s.after (s.chip.mbOrtosServe d b l))) ∧
  (∀ (s : State), s.chip.atWork = true → s.chip.stw.dead = false → s.chip.stw.ortReq = none →
    s.chip.flag R.STW_MB_CTRL F.STW_MB_CTRL_GO = true → (s.chip.rn (R.STW_MB_REQ 0) = 1 ∨ s.chip.rn (R.STW_MB_REQ 0) = 2) →
    Completes (.mailboxServe []) s (fun c => c.flag R.STW_MB_CTRL F.STW_MB_CTRL_GO = false ∧ c.flag R.STW_MB_CTRL F.STW_MB_CTRL_DONE = true ∧
      bit (c.rn (R.EVT_STAT 4)) 0 = true ∧ c.rn (R.STW_MB_RSP 0) % 65536 = s.chip.rn (R.STW_MB_REQ 0) ∧ c.rn (R.STW_MB_RSP 1) = 0))

/-- In an engine at work a corrected error of the Steward's SRAM is counted in STW_SRAM_CE and raises STW_CE, and changes no other
register but the Scrivener's counts; an uncorrectable one is fatal with cause 0x09 and sub-code 0x01 in the FATAL detail, and the
hardware Safe controller takes the engine to Safe, the Steward serving no more. (R415) -/
def Obligations.StewardSram : Prop :=
  (∀ (s : State), s.chip.atWork = true →
    Completes (.stwSramError true) s (fun c => c.reg R.STW_SRAM_CE = s.chip.reg R.STW_SRAM_CE + 1 ∧ bit (c.rn (R.EVT_STAT 4)) 5 = true ∧
      s.chip.keepsRegs c (R.STW_SRAM_CE :: eventRegs Ev.stwCe) ∧ s.chip.keepsMem c)) ∧
  (∀ (s : State), s.chip.atWork = true →
    Demands (.stwSramError false) s (fun c => c.fatal = some ⟨9, [1, 0, 0, 0, 0, 0, 0, 0], s.chip.now, true⟩ ∧ c.settle.inSafe = true ∧
      c.settle.fld R.STW_STATE F.STW_STATE_CAUSE = 9 ∧ c.settle.stw.dead = true ∧ c.settle.pins.fault = true))

/-- In an engine at work whose Steward works: AON_CLEAR clears WDG, LOCKSTEP and AUTO_CNT; a die reading below the warning threshold only
shows; a second reading in a row at CRIT, a sensor at 125 °C, and a third reading in a row of a judged rail outside the fault window
each end in Safe with cause 0x08; a rail reading inside both windows shows and warns of nothing; a PMBus status with a fault raises
PMBUS_FAULT, and one without raises nothing. (18_steward.md) -/
def Obligations.SensorsAndRails : Prop :=
  (∀ (s : State) (i : Init), s.chip.atWork = true →
    Completes (.aonClear i) s (fun c => c.flag R.STW_AON F.STW_AON_WDG = false ∧ c.flag R.STW_AON F.STW_AON_LOCKSTEP = false ∧
      c.fld R.STW_AON F.STW_AON_AUTO_CNT = 0 ∧ (∀ a, a ≠ R.STW_AON → a ≠ R.STW_CMDSTAT → c.reg a = s.chip.reg a))) ∧
  (∀ (s : State) (t : Int), s.chip.atWork = true → s.chip.stw.dead = false → -32768 ≤ t → t < s.chip.critAt → t < s.chip.warnAt →
    (∀ n, n < 16 → s.chip.dieTemp n < s.chip.warnAt) → s.chip.stw.warm = false →
    Completes (.dieSensorPoll [t]) s (fun c => c.dieTemp 0 = t ∧ (∀ a, a ≠ R.STW_TEMP 0 → c.reg a = s.chip.reg a))) ∧
  (∀ (s : State) (t : Int), s.chip.atWork = true → s.chip.stw.dead = false → s.chip.critAt ≤ t → t < 32768 → cnt0 s.chip.stw.critRun 0 = 1 →
    Demands (.dieSensorPoll [t]) s (fun c => c.settle.inSafe = true ∧ c.settle.fld R.STW_STATE F.STW_STATE_CAUSE = 8)) ∧
  (∀ (s : State) (n : Nat) (t : Int), s.chip.atWork = true → n < 16 → 1000 ≤ t →
    Demands (.hwThermalTrip n t) s (fun c => c.settle.inSafe = true ∧ c.settle.fld R.STW_STATE F.STW_STATE_CAUSE = 8)) ∧
  (∀ (s : State) (v : Nat), s.chip.atWork = true → s.chip.stw.dead = false → v < 65536 → railOutside 0 v s.chip.warnPct = false →
    railOutside 0 v s.chip.faultPct = false →
    Completes (.railMonitorPoll [v]) s (fun c => c.fld (R.STW_RAIL 0) F.STW_RAIL_MV = v ∧ cnt0 c.stw.railOut 0 = 0 ∧
      (∀ a, a ≠ R.STW_RAIL 0 → c.reg a = s.chip.reg a))) ∧
  (∀ (s : State) (v : Nat), s.chip.atWork = true → s.chip.stw.dead = false → railOutside 0 v s.chip.faultPct = true →
    cnt0 s.chip.stw.railOut 0 = 2 →
    Demands (.railMonitorPoll [v]) s (fun c => c.settle.inSafe = true ∧ c.settle.fld R.STW_STATE F.STW_STATE_CAUSE = 8)) ∧
  (∀ (s : State) (k v : Nat), s.chip.atWork = true → s.chip.stw.dead = false → k < 6 → v < 65536 → s.chip.pmAddr k ≠ 0 →
    bit s.chip.pins.pen k = true →
    Completes (.pmbusPoll k v) s (fun c => cnt0 c.stw.pmbus k = v ∧ (v = 0 → c.regs = s.chip.regs) ∧ (v ≠ 0 → bit (c.rn (R.EVT_STAT 4)) 4 = true)))

/-- In an engine at work an accepted GO begins the descent it names; with the pipelines drained, the step from Gale reaches Breeze as the
last one of a request for it, with DRAM in power-down, BUSY clear and the change counted; in Breeze an enabled wake source begins the
exit to Gale; and an exit whose DRAM serves and whose synthesiser has left ACQUIRE ends in its target. (19_power_ladder.md) -/
def Obligations.PowerLadder : Prop :=
  (∀ (s : State) (i : Init) (k : Nat), s.chip.atWork = true → k ≤ 4 → s.chip.pwrReason k false = 0 →
    exec (.pwrGo i k) s = .next (s.after
      ((s.chip.writing.setFld R.PWR_CMD F.PWR_CMD_TARGET k).accept pwrPort (fun c => c.pwrGoNow k 1 (initCode i) 0)))) ∧
  (∀ (s : State) (r : PwrReq), s.chip.pins.porn = false → s.chip.fatal = none → s.chip.resetReq = false → s.chip.ladder = 0 →
    s.chip.pwr.down = some r → s.chip.pwr.held = none → r.target = 1 → s.chip.drained = true → s.chip.mcState = 2 →
    Completes .powerStepDone s (fun c => c.ladder = 1 ∧ c.pwr.down = none ∧ c.mcState = 3 ∧ c.flag R.PWR_STAT F.PWR_STAT_BUSY = false ∧
      c.reg R.PWR_CHG_CNT = s.chip.reg R.PWR_CHG_CNT + 1 ∧ c.cst = s.chip.cst)) ∧
  (∀ (s : State) (k : Nat), s.chip.pins.porn = false → s.chip.fatal = none → s.chip.resetReq = false → s.chip.ladder = 1 → s.chip.inSafe = false →
    s.chip.pwr.down = none → s.chip.pwr.up = none → (k = 3 ∨ k = 4) → bit (s.chip.rn R.PWR_WAKE_EN) k = true →
    Completes (.pwrWake k) s (fun c => (∃ r, c.pwr.up = some r ∧ r.target = 0 ∧ r.cause = 5 ∧ r.src = k) ∧
      c.fld R.PWR_STAT F.PWR_STAT_LAST_WAKE = k ∧ c.rn R.PWR_WAKE_CAUSE = 2 ^ k ∧ c.pins.pen = 63)) ∧
  (∀ (s : State) (r : PwrReq), s.chip.pins.porn = false → s.chip.fatal = none → s.chip.resetReq = false → s.chip.ladder = 1 →
    s.chip.pwr.up = some r → r.target = 0 → s.chip.mcState = 3 → s.chip.synState ≠ 1 → s.chip.schOn = false →
    (∀ p, p < 16 → s.chip.prtState p ≠ 3) →
    Completes .powerExitDone s (fun c => c.ladder = 0 ∧ c.pwr.up = none ∧ c.mcState = 2 ∧ c.flag R.PWR_STAT F.PWR_STAT_BUSY = false ∧
      c.reg R.PWR_CHG_CNT = s.chip.reg R.PWR_CHG_CNT + 1))

/-- In an engine at work a write of the host or the Steward in a 64 KiB range below 0x0080_0000 that Table 20-1 does not name changes
nothing and raises no event, and a read of it returns 0x0000_0000, at every aligned address of the range (an address of which nothing
was captured). (R446) -/
def Obligations.UnassignedRange : Prop :=
  ∀ (s : State) (i : Init) (a : Nat) (v : Word), s.chip.atWork = true → i ≠ .sched → a < 0x800000 → a % 4 = 0 →
    (a / 65536 = 0x0c ∨ a / 65536 = 0x0d ∨ a / 65536 = 0x0e ∨ a / 65536 = 0x0f ∨ (0x21 ≤ a / 65536 ∧ a / 65536 ≤ 0x27) ∨
      (0x31 ≤ a / 65536 ∧ a / 65536 ≤ 0x37) ∨ (0x39 ≤ a / 65536 ∧ a / 65536 ≤ 0x3f) ∨ (0x49 ≤ a / 65536 ∧ a / 65536 ≤ 0x4f) ∨
      (0x51 ≤ a / 65536 ∧ a / 65536 ≤ 0x57) ∨ (0x59 ≤ a / 65536 ∧ a / 65536 ≤ 0x5b) ∨ (0x5d ≤ a / 65536 ∧ a / 65536 ≤ 0x5f) ∨
      (0x61 ≤ a / 65536 ∧ a / 65536 ≤ 0x67) ∨ (0x6c ≤ a / 65536 ∧ a / 65536 ≤ 0x6f) ∨ (0x71 ≤ a / 65536 ∧ a / 65536 ≤ 0x77) ∨
      (0x79 ≤ a / 65536 ∧ a / 65536 ≤ 0x7b) ∨ (0x7d ≤ a / 65536 ∧ a / 65536 ≤ 0x7f)) →
    exec (.registerWrite i a v) s = .next (s.after s.chip.writing) ∧
    ((∀ e, e ∈ s.chip.acc.captured → e.1 ≠ latchKey i a) →
      exec (.bar0UnalignedAccess i false a 4 v) s = .next (s.after { s.chip with rdata := 0 }))

/-- In an engine at work whose profile has been latched, a completed pair of the host to GLB_PROFILE leaves it as it was, counts as
dropped, raises WO_DROP and leaves the record of a second write to a WO field (cause 1); a pair that fails on its value raises
GUARD_MISMATCH instead, latched or not. (R20) -/
def Obligations.ProfilePair : Prop :=
  ∀ (s : State) (p : GuardPend) (v : Word), s.chip.running = true → s.chip.stage = 9 → s.chip.boot.startFailed = false →
    s.chip.pins.porn = false → s.chip.ladder = 0 → s.chip.fatal = none → s.chip.resetReq = false → s.chip.acc.guardStw = none →
    s.chip.pcie.d3hot = false → s.chip.acc.guardHost = some p → p.addr = R.GLB_PROFILE → s.chip.cycle ≤ p.cycle + 4096 → s.chip.frozen = false → s.chip.scv.queue = [] →
    (s.chip.latched = true → v = ~~~p.val →
      Completes (.guardMirrorWrite .host (R.GLB_PROFILE + 0x800000) v) s (fun c => c.reg R.GLB_PROFILE = s.chip.reg R.GLB_PROFILE ∧
        c.reg R.GLB_DROP_CNT = s.chip.reg R.GLB_DROP_CNT + 1 ∧ bit (c.rn (R.EVT_STAT 0)) 0 = true ∧ c.acc.guardHost = none ∧
        c.scv.queue = [⟨8, 0, s.chip.now, leBytes 4 R.GLB_PROFILE ++ leBytes 4 p.val.toNat ++ [1, 1, 0, 0, 0, 0, 0, 0], s.chip.cycle⟩])) ∧
    (v ≠ ~~~p.val →
      Completes (.guardMirrorWrite .host (R.GLB_PROFILE + 0x800000) v) s (fun c => c.reg R.GLB_PROFILE = s.chip.reg R.GLB_PROFILE ∧
        bit (c.rn (R.EVT_STAT 0)) 2 = true ∧ c.reg R.GLB_GUARD_CNT = s.chip.reg R.GLB_GUARD_CNT + 1 ∧ c.acc.guardHost = none))

/-- In an engine at work an ARM of a partition that is not armed is rejected with EPOCH_INVALID (0x11) in REASON while the keeper is in
IDLE or SEEK, and with an epoch it is never rejected for that reason; an ARM of an armed partition is rejected with 0x10. A rejected
ARM changes no partition, no lane group and no memory. (R49) -/
def Obligations.ArmNeedsAnEpoch : Prop :=
  ∀ (s : State) (i : Init) (p : Nat), s.chip.atWork = true → p < 16 →
    (s.chip.armed p = true → exec (.arm i p) s = .next (s.after (s.chip.writing.reject (prtPort p) i none 0x10))) ∧
    (s.chip.armed p = false → (s.chip.epcState = 0 ∨ s.chip.epcState = 1) →
      Completes (.arm i p) s (fun c => c.fld (R.PRT_CMDSTAT p) reasonFld = 0x11 ∧ c.parts = s.chip.parts ∧ c.lanes = s.chip.lanes ∧
        c.armed p = false ∧ s.chip.keepsMem c)) ∧
    (2 ≤ s.chip.epcState → (s.chip.armReason (s.chip.armCopies p) p).1 ≠ 0x11)
end

