-- ==== Sys2Proof/Laws/SMap.lean ====
section
/-! SUPPORT. Sparse maps: what a key holds after each operation, and that every operation keeps the canonical form. -/

namespace Sys2Proof.Machine

variable {α : Type}

theorem SMap.get_del (d : Nat → α) (m : List (Nat × α)) (k j : Nat) :
    SMap.get d (SMap.del m k) j = if j = k then d j else SMap.get d m j := by
  induction m with
  | nil => simp [SMap.del, SMap.get]
  | cons e rest ih =>
    obtain ⟨i, v⟩ := e
    simp only [SMap.del]
    by_cases h : i = k
    · subst h
      rw [if_pos rfl, ih]
      by_cases hj : j = i
      · simp [hj]
      · simp [hj, SMap.get, Ne.symm hj]
    · rw [if_neg h]
      simp only [SMap.get, ih]
      by_cases hj : i = j
      · subst hj; simp [h]
      · simp [hj]

theorem SMap.get_put (d : Nat → α) (m : List (Nat × α)) (k : Nat) (v : α) (j : Nat) :
    SMap.get d (SMap.put m k v) j = if j = k then v else SMap.get d m j := by
  induction m with
  | nil => simp [SMap.put, SMap.get, eq_comm]
  | cons e rest ih =>
    obtain ⟨i, w⟩ := e
    simp only [SMap.put]
    split
    · simp only [SMap.get]; by_cases hj : k = j
      · simp [hj]
      · simp [hj, Ne.symm hj]
    · split
      · rename_i hk; subst hk
        simp only [SMap.get]; by_cases hj : k = j
        · simp [hj]
        · simp [hj, Ne.symm hj]
      · simp only [SMap.get, ih]
        rename_i hk
        by_cases hj : i = j
        · subst hj; simp [Ne.symm hk]
        · simp [hj]

theorem SMap.get_set [DecidableEq α] (d : Nat → α) (m : List (Nat × α)) (k : Nat) (v : α) (j : Nat) :
    SMap.get d (SMap.set d m k v) j = if j = k then v else SMap.get d m j := by
  unfold SMap.set
  split
  · rename_i h; rw [SMap.get_del]; by_cases hj : j = k
    · simp [hj, h]
    · simp [hj]
  · exact SMap.get_put d m k v j

@[simp] theorem SMap.get_put_same (d : Nat → α) (m : List (Nat × α)) (k : Nat) (v : α) : SMap.get d (SMap.put m k v) k = v := by
  simp [SMap.get_put]

@[simp] theorem SMap.get_set_same [DecidableEq α] (d : Nat → α) (m : List (Nat × α)) (k : Nat) (v : α) :
    SMap.get d (SMap.set d m k v) k = v := by simp [SMap.get_set]

theorem SMap.get_put_ne (d : Nat → α) (m : List (Nat × α)) {k j : Nat} (v : α) (h : j ≠ k) :
    SMap.get d (SMap.put m k v) j = SMap.get d m j := by simp [SMap.get_put, h]

theorem SMap.get_set_ne [DecidableEq α] (d : Nat → α) (m : List (Nat × α)) {k j : Nat} (v : α) (h : j ≠ k) :
    SMap.get d (SMap.set d m k v) j = SMap.get d m j := by simp [SMap.get_set, h]

/-! ### The canonical form -/

theorem SMap.above_mono {lo hi : Nat} {m : List (Nat × α)} (h : lo ≤ hi) (ha : SMap.above hi m = true) : SMap.above lo m = true := by
  simp only [SMap.above, List.all_eq_true, decide_eq_true_eq] at *
  exact fun e he => Nat.lt_of_le_of_lt h (ha e he)

theorem SMap.above_del {lo : Nat} {m : List (Nat × α)} (k : Nat) (h : SMap.above lo m = true) : SMap.above lo (SMap.del m k) = true := by
  induction m with
  | nil => simp [SMap.del, SMap.above]
  | cons e rest ih =>
    obtain ⟨i, v⟩ := e
    simp only [SMap.above, List.all_cons, Bool.and_eq_true] at h ih
    simp only [SMap.del]
    split
    · exact ih h.2
    · simp only [SMap.above, List.all_cons, Bool.and_eq_true]; exact ⟨h.1, ih h.2⟩

theorem SMap.above_put {lo : Nat} {m : List (Nat × α)} {k : Nat} (v : α) (hk : lo < k) (h : SMap.above lo m = true) :
    SMap.above lo (SMap.put m k v) = true := by
  induction m with
  | nil => simp [SMap.put, SMap.above, hk]
  | cons e rest ih =>
    obtain ⟨i, w⟩ := e
    simp only [SMap.above, List.all_cons, Bool.and_eq_true, decide_eq_true_eq] at h ih
    simp only [SMap.put]
    split
    · simp only [SMap.above, List.all_cons, Bool.and_eq_true, decide_eq_true_eq]; exact ⟨hk, h⟩
    · split
      · simp only [SMap.above, List.all_cons, Bool.and_eq_true, decide_eq_true_eq]; exact ⟨hk, h.2⟩
      · simp only [SMap.above, List.all_cons, Bool.and_eq_true, decide_eq_true_eq]; exact ⟨h.1, ih h.2⟩

theorem SMap.wf_del [DecidableEq α] {d : Nat → α} {m : List (Nat × α)} (k : Nat) (h : SMap.wf d m = true) :
    SMap.wf d (SMap.del m k) = true := by
  induction m with
  | nil => simp [SMap.del, SMap.wf]
  | cons e rest ih =>
    obtain ⟨i, v⟩ := e
    simp only [SMap.wf, Bool.and_eq_true] at h
    simp only [SMap.del]
    split
    · exact ih h.2
    · simp only [SMap.wf, Bool.and_eq_true]; exact ⟨⟨h.1.1, SMap.above_del k h.1.2⟩, ih h.2⟩

theorem SMap.wf_put [DecidableEq α] {d : Nat → α} {m : List (Nat × α)} {k : Nat} {v : α} (hv : v ≠ d k) (h : SMap.wf d m = true) :
    SMap.wf d (SMap.put m k v) = true := by
  induction m with
  | nil => simp [SMap.put, SMap.wf, SMap.above, hv]
  | cons e rest ih =>
    obtain ⟨i, w⟩ := e
    simp only [SMap.wf, Bool.and_eq_true] at h
    simp only [SMap.put]
    split
    · rename_i hlt
      simp only [SMap.wf, Bool.and_eq_true, SMap.above, List.all_cons, decide_eq_true_eq]
      exact ⟨⟨by simp [hv], hlt, SMap.above_mono (Nat.le_of_lt hlt) h.1.2⟩, ⟨h.1.1, h.1.2⟩, h.2⟩
    · split
      · rename_i he; subst he
        simp only [SMap.wf, Bool.and_eq_true]; exact ⟨⟨by simp [hv], h.1.2⟩, h.2⟩
      · rename_i h1 h2
        simp only [SMap.wf, Bool.and_eq_true]
        exact ⟨⟨h.1.1, SMap.above_put v (by omega) h.1.2⟩, ih h.2⟩

/-- Every write of a sparse map keeps the canonical form. -/
theorem SMap.wf_set [DecidableEq α] {d : Nat → α} {m : List (Nat × α)} (k : Nat) (v : α) (h : SMap.wf d m = true) :
    SMap.wf d (SMap.set d m k v) = true := by
  unfold SMap.set
  split
  · exact SMap.wf_del k h
  · rename_i hv; exact SMap.wf_put hv h

end Sys2Proof.Machine
end

