-- ==== Sys2Proof/Laws/State.lean ====
section
/-! SUPPORT. The named updates of the engine, field by field: what each leaves as it is. One lemma per field and update. -/

namespace Sys2Proof.Machine

/-! ### Chip.setReg changes regs only -/

@[simp] theorem Chip.setReg_cycle (c : Chip) (a : Nat) (v : Word) : (c.setReg a v).cycle = c.cycle := rfl
@[simp] theorem Chip.setReg_dwell (c : Chip) (a : Nat) (v : Word) : (c.setReg a v).dwell = c.dwell := rfl
@[simp] theorem Chip.setReg_freeCtr (c : Chip) (a : Nat) (v : Word) : (c.setReg a v).freeCtr = c.freeCtr := rfl
@[simp] theorem Chip.setReg_wcopy (c : Chip) (a : Nat) (v : Word) : (c.setReg a v).wcopy = c.wcopy := rfl
@[simp] theorem Chip.setReg_rdata (c : Chip) (a : Nat) (v : Word) : (c.setReg a v).rdata = c.rdata := rfl
@[simp] theorem Chip.setReg_rblock (c : Chip) (a : Nat) (v : Word) : (c.setReg a v).rblock = c.rblock := rfl
@[simp] theorem Chip.setReg_dropped (c : Chip) (a : Nat) (v : Word) : (c.setReg a v).dropped = c.dropped := rfl
@[simp] theorem Chip.setReg_lastReason (c : Chip) (a : Nat) (v : Word) : (c.setReg a v).lastReason = c.lastReason := rfl
@[simp] theorem Chip.setReg_out (c : Chip) (a : Nat) (v : Word) : (c.setReg a v).out = c.out := rfl
@[simp] theorem Chip.setReg_pins (c : Chip) (a : Nat) (v : Word) : (c.setReg a v).pins = c.pins := rfl
@[simp] theorem Chip.setReg_acc (c : Chip) (a : Nat) (v : Word) : (c.setReg a v).acc = c.acc := rfl
@[simp] theorem Chip.setReg_evt (c : Chip) (a : Nat) (v : Word) : (c.setReg a v).evt = c.evt := rfl
@[simp] theorem Chip.setReg_scv (c : Chip) (a : Nat) (v : Word) : (c.setReg a v).scv = c.scv := rfl
@[simp] theorem Chip.setReg_cst (c : Chip) (a : Nat) (v : Word) : (c.setReg a v).cst = c.cst := rfl
@[simp] theorem Chip.setReg_cstBus (c : Chip) (a : Nat) (v : Word) : (c.setReg a v).cstBus = c.cstBus := rfl
@[simp] theorem Chip.setReg_epc (c : Chip) (a : Nat) (v : Word) : (c.setReg a v).epc = c.epc := rfl
@[simp] theorem Chip.setReg_sch (c : Chip) (a : Nat) (v : Word) : (c.setReg a v).sch = c.sch := rfl
@[simp] theorem Chip.setReg_clk (c : Chip) (a : Nat) (v : Word) : (c.setReg a v).clk = c.clk := rfl
@[simp] theorem Chip.setReg_boot (c : Chip) (a : Nat) (v : Word) : (c.setReg a v).boot = c.boot := rfl
@[simp] theorem Chip.setReg_nv (c : Chip) (a : Nat) (v : Word) : (c.setReg a v).nv = c.nv := rfl
@[simp] theorem Chip.setReg_stw (c : Chip) (a : Nat) (v : Word) : (c.setReg a v).stw = c.stw := rfl
@[simp] theorem Chip.setReg_pwr (c : Chip) (a : Nat) (v : Word) : (c.setReg a v).pwr = c.pwr := rfl
@[simp] theorem Chip.setReg_pcie (c : Chip) (a : Nat) (v : Word) : (c.setReg a v).pcie = c.pcie := rfl
@[simp] theorem Chip.setReg_lanes (c : Chip) (a : Nat) (v : Word) : (c.setReg a v).lanes = c.lanes := rfl
@[simp] theorem Chip.setReg_trs (c : Chip) (a : Nat) (v : Word) : (c.setReg a v).trs = c.trs := rfl
@[simp] theorem Chip.setReg_seqs (c : Chip) (a : Nat) (v : Word) : (c.setReg a v).seqs = c.seqs := rfl
@[simp] theorem Chip.setReg_seqHolds (c : Chip) (a : Nat) (v : Word) : (c.setReg a v).seqHolds = c.seqHolds := rfl
@[simp] theorem Chip.setReg_noticeHolds (c : Chip) (a : Nat) (v : Word) : (c.setReg a v).noticeHolds = c.noticeHolds := rfl
@[simp] theorem Chip.setReg_parts (c : Chip) (a : Nat) (v : Word) : (c.setReg a v).parts = c.parts := rfl
@[simp] theorem Chip.setReg_car (c : Chip) (a : Nat) (v : Word) : (c.setReg a v).car = c.car := rfl
@[simp] theorem Chip.setReg_dma (c : Chip) (a : Nat) (v : Word) : (c.setReg a v).dma = c.dma := rfl
@[simp] theorem Chip.setReg_eths (c : Chip) (a : Nat) (v : Word) : (c.setReg a v).eths = c.eths := rfl
@[simp] theorem Chip.setReg_ort (c : Chip) (a : Nat) (v : Word) : (c.setReg a v).ort = c.ort := rfl
@[simp] theorem Chip.setReg_mc (c : Chip) (a : Nat) (v : Word) : (c.setReg a v).mc = c.mc := rfl
@[simp] theorem Chip.setReg_fatal (c : Chip) (a : Nat) (v : Word) : (c.setReg a v).fatal = c.fatal := rfl
@[simp] theorem Chip.setReg_resetReq (c : Chip) (a : Nat) (v : Word) : (c.setReg a v).resetReq = c.resetReq := rfl

/-! ### Chip.setN changes regs only -/

@[simp] theorem Chip.setN_cycle (c : Chip) (a n : Nat) : (c.setN a n).cycle = c.cycle := rfl
@[simp] theorem Chip.setN_dwell (c : Chip) (a n : Nat) : (c.setN a n).dwell = c.dwell := rfl
@[simp] theorem Chip.setN_freeCtr (c : Chip) (a n : Nat) : (c.setN a n).freeCtr = c.freeCtr := rfl
@[simp] theorem Chip.setN_wcopy (c : Chip) (a n : Nat) : (c.setN a n).wcopy = c.wcopy := rfl
@[simp] theorem Chip.setN_rdata (c : Chip) (a n : Nat) : (c.setN a n).rdata = c.rdata := rfl
@[simp] theorem Chip.setN_rblock (c : Chip) (a n : Nat) : (c.setN a n).rblock = c.rblock := rfl
@[simp] theorem Chip.setN_dropped (c : Chip) (a n : Nat) : (c.setN a n).dropped = c.dropped := rfl
@[simp] theorem Chip.setN_lastReason (c : Chip) (a n : Nat) : (c.setN a n).lastReason = c.lastReason := rfl
@[simp] theorem Chip.setN_out (c : Chip) (a n : Nat) : (c.setN a n).out = c.out := rfl
@[simp] theorem Chip.setN_pins (c : Chip) (a n : Nat) : (c.setN a n).pins = c.pins := rfl
@[simp] theorem Chip.setN_acc (c : Chip) (a n : Nat) : (c.setN a n).acc = c.acc := rfl
@[simp] theorem Chip.setN_evt (c : Chip) (a n : Nat) : (c.setN a n).evt = c.evt := rfl
@[simp] theorem Chip.setN_scv (c : Chip) (a n : Nat) : (c.setN a n).scv = c.scv := rfl
@[simp] theorem Chip.setN_cst (c : Chip) (a n : Nat) : (c.setN a n).cst = c.cst := rfl
@[simp] theorem Chip.setN_cstBus (c : Chip) (a n : Nat) : (c.setN a n).cstBus = c.cstBus := rfl
@[simp] theorem Chip.setN_epc (c : Chip) (a n : Nat) : (c.setN a n).epc = c.epc := rfl
@[simp] theorem Chip.setN_sch (c : Chip) (a n : Nat) : (c.setN a n).sch = c.sch := rfl
@[simp] theorem Chip.setN_clk (c : Chip) (a n : Nat) : (c.setN a n).clk = c.clk := rfl
@[simp] theorem Chip.setN_boot (c : Chip) (a n : Nat) : (c.setN a n).boot = c.boot := rfl
@[simp] theorem Chip.setN_nv (c : Chip) (a n : Nat) : (c.setN a n).nv = c.nv := rfl
@[simp] theorem Chip.setN_stw (c : Chip) (a n : Nat) : (c.setN a n).stw = c.stw := rfl
@[simp] theorem Chip.setN_pwr (c : Chip) (a n : Nat) : (c.setN a n).pwr = c.pwr := rfl
@[simp] theorem Chip.setN_pcie (c : Chip) (a n : Nat) : (c.setN a n).pcie = c.pcie := rfl
@[simp] theorem Chip.setN_lanes (c : Chip) (a n : Nat) : (c.setN a n).lanes = c.lanes := rfl
@[simp] theorem Chip.setN_trs (c : Chip) (a n : Nat) : (c.setN a n).trs = c.trs := rfl
@[simp] theorem Chip.setN_seqs (c : Chip) (a n : Nat) : (c.setN a n).seqs = c.seqs := rfl
@[simp] theorem Chip.setN_seqHolds (c : Chip) (a n : Nat) : (c.setN a n).seqHolds = c.seqHolds := rfl
@[simp] theorem Chip.setN_noticeHolds (c : Chip) (a n : Nat) : (c.setN a n).noticeHolds = c.noticeHolds := rfl
@[simp] theorem Chip.setN_parts (c : Chip) (a n : Nat) : (c.setN a n).parts = c.parts := rfl
@[simp] theorem Chip.setN_car (c : Chip) (a n : Nat) : (c.setN a n).car = c.car := rfl
@[simp] theorem Chip.setN_dma (c : Chip) (a n : Nat) : (c.setN a n).dma = c.dma := rfl
@[simp] theorem Chip.setN_eths (c : Chip) (a n : Nat) : (c.setN a n).eths = c.eths := rfl
@[simp] theorem Chip.setN_ort (c : Chip) (a n : Nat) : (c.setN a n).ort = c.ort := rfl
@[simp] theorem Chip.setN_mc (c : Chip) (a n : Nat) : (c.setN a n).mc = c.mc := rfl
@[simp] theorem Chip.setN_fatal (c : Chip) (a n : Nat) : (c.setN a n).fatal = c.fatal := rfl
@[simp] theorem Chip.setN_resetReq (c : Chip) (a n : Nat) : (c.setN a n).resetReq = c.resetReq := rfl

/-! ### Chip.setFld changes regs only -/

@[simp] theorem Chip.setFld_cycle (c : Chip) (a : Nat) (f : Fld) (v : Nat) : (c.setFld a f v).cycle = c.cycle := rfl
@[simp] theorem Chip.setFld_dwell (c : Chip) (a : Nat) (f : Fld) (v : Nat) : (c.setFld a f v).dwell = c.dwell := rfl
@[simp] theorem Chip.setFld_freeCtr (c : Chip) (a : Nat) (f : Fld) (v : Nat) : (c.setFld a f v).freeCtr = c.freeCtr := rfl
@[simp] theorem Chip.setFld_wcopy (c : Chip) (a : Nat) (f : Fld) (v : Nat) : (c.setFld a f v).wcopy = c.wcopy := rfl
@[simp] theorem Chip.setFld_rdata (c : Chip) (a : Nat) (f : Fld) (v : Nat) : (c.setFld a f v).rdata = c.rdata := rfl
@[simp] theorem Chip.setFld_rblock (c : Chip) (a : Nat) (f : Fld) (v : Nat) : (c.setFld a f v).rblock = c.rblock := rfl
@[simp] theorem Chip.setFld_dropped (c : Chip) (a : Nat) (f : Fld) (v : Nat) : (c.setFld a f v).dropped = c.dropped := rfl
@[simp] theorem Chip.setFld_lastReason (c : Chip) (a : Nat) (f : Fld) (v : Nat) : (c.setFld a f v).lastReason = c.lastReason := rfl
@[simp] theorem Chip.setFld_out (c : Chip) (a : Nat) (f : Fld) (v : Nat) : (c.setFld a f v).out = c.out := rfl
@[simp] theorem Chip.setFld_pins (c : Chip) (a : Nat) (f : Fld) (v : Nat) : (c.setFld a f v).pins = c.pins := rfl
@[simp] theorem Chip.setFld_acc (c : Chip) (a : Nat) (f : Fld) (v : Nat) : (c.setFld a f v).acc = c.acc := rfl
@[simp] theorem Chip.setFld_evt (c : Chip) (a : Nat) (f : Fld) (v : Nat) : (c.setFld a f v).evt = c.evt := rfl
@[simp] theorem Chip.setFld_scv (c : Chip) (a : Nat) (f : Fld) (v : Nat) : (c.setFld a f v).scv = c.scv := rfl
@[simp] theorem Chip.setFld_cst (c : Chip) (a : Nat) (f : Fld) (v : Nat) : (c.setFld a f v).cst = c.cst := rfl
@[simp] theorem Chip.setFld_cstBus (c : Chip) (a : Nat) (f : Fld) (v : Nat) : (c.setFld a f v).cstBus = c.cstBus := rfl
@[simp] theorem Chip.setFld_epc (c : Chip) (a : Nat) (f : Fld) (v : Nat) : (c.setFld a f v).epc = c.epc := rfl
@[simp] theorem Chip.setFld_sch (c : Chip) (a : Nat) (f : Fld) (v : Nat) : (c.setFld a f v).sch = c.sch := rfl
@[simp] theorem Chip.setFld_clk (c : Chip) (a : Nat) (f : Fld) (v : Nat) : (c.setFld a f v).clk = c.clk := rfl
@[simp] theorem Chip.setFld_boot (c : Chip) (a : Nat) (f : Fld) (v : Nat) : (c.setFld a f v).boot = c.boot := rfl
@[simp] theorem Chip.setFld_nv (c : Chip) (a : Nat) (f : Fld) (v : Nat) : (c.setFld a f v).nv = c.nv := rfl
@[simp] theorem Chip.setFld_stw (c : Chip) (a : Nat) (f : Fld) (v : Nat) : (c.setFld a f v).stw = c.stw := rfl
@[simp] theorem Chip.setFld_pwr (c : Chip) (a : Nat) (f : Fld) (v : Nat) : (c.setFld a f v).pwr = c.pwr := rfl
@[simp] theorem Chip.setFld_pcie (c : Chip) (a : Nat) (f : Fld) (v : Nat) : (c.setFld a f v).pcie = c.pcie := rfl
@[simp] theorem Chip.setFld_lanes (c : Chip) (a : Nat) (f : Fld) (v : Nat) : (c.setFld a f v).lanes = c.lanes := rfl
@[simp] theorem Chip.setFld_trs (c : Chip) (a : Nat) (f : Fld) (v : Nat) : (c.setFld a f v).trs = c.trs := rfl
@[simp] theorem Chip.setFld_seqs (c : Chip) (a : Nat) (f : Fld) (v : Nat) : (c.setFld a f v).seqs = c.seqs := rfl
@[simp] theorem Chip.setFld_seqHolds (c : Chip) (a : Nat) (f : Fld) (v : Nat) : (c.setFld a f v).seqHolds = c.seqHolds := rfl
@[simp] theorem Chip.setFld_noticeHolds (c : Chip) (a : Nat) (f : Fld) (v : Nat) : (c.setFld a f v).noticeHolds = c.noticeHolds := rfl
@[simp] theorem Chip.setFld_parts (c : Chip) (a : Nat) (f : Fld) (v : Nat) : (c.setFld a f v).parts = c.parts := rfl
@[simp] theorem Chip.setFld_car (c : Chip) (a : Nat) (f : Fld) (v : Nat) : (c.setFld a f v).car = c.car := rfl
@[simp] theorem Chip.setFld_dma (c : Chip) (a : Nat) (f : Fld) (v : Nat) : (c.setFld a f v).dma = c.dma := rfl
@[simp] theorem Chip.setFld_eths (c : Chip) (a : Nat) (f : Fld) (v : Nat) : (c.setFld a f v).eths = c.eths := rfl
@[simp] theorem Chip.setFld_ort (c : Chip) (a : Nat) (f : Fld) (v : Nat) : (c.setFld a f v).ort = c.ort := rfl
@[simp] theorem Chip.setFld_mc (c : Chip) (a : Nat) (f : Fld) (v : Nat) : (c.setFld a f v).mc = c.mc := rfl
@[simp] theorem Chip.setFld_fatal (c : Chip) (a : Nat) (f : Fld) (v : Nat) : (c.setFld a f v).fatal = c.fatal := rfl
@[simp] theorem Chip.setFld_resetReq (c : Chip) (a : Nat) (f : Fld) (v : Nat) : (c.setFld a f v).resetReq = c.resetReq := rfl

/-! ### Chip.setFlag changes regs only -/

@[simp] theorem Chip.setFlag_cycle (c : Chip) (a : Nat) (f : Fld) (b : Bool) : (c.setFlag a f b).cycle = c.cycle := rfl
@[simp] theorem Chip.setFlag_dwell (c : Chip) (a : Nat) (f : Fld) (b : Bool) : (c.setFlag a f b).dwell = c.dwell := rfl
@[simp] theorem Chip.setFlag_freeCtr (c : Chip) (a : Nat) (f : Fld) (b : Bool) : (c.setFlag a f b).freeCtr = c.freeCtr := rfl
@[simp] theorem Chip.setFlag_wcopy (c : Chip) (a : Nat) (f : Fld) (b : Bool) : (c.setFlag a f b).wcopy = c.wcopy := rfl
@[simp] theorem Chip.setFlag_rdata (c : Chip) (a : Nat) (f : Fld) (b : Bool) : (c.setFlag a f b).rdata = c.rdata := rfl
@[simp] theorem Chip.setFlag_rblock (c : Chip) (a : Nat) (f : Fld) (b : Bool) : (c.setFlag a f b).rblock = c.rblock := rfl
@[simp] theorem Chip.setFlag_dropped (c : Chip) (a : Nat) (f : Fld) (b : Bool) : (c.setFlag a f b).dropped = c.dropped := rfl
@[simp] theorem Chip.setFlag_lastReason (c : Chip) (a : Nat) (f : Fld) (b : Bool) : (c.setFlag a f b).lastReason = c.lastReason := rfl
@[simp] theorem Chip.setFlag_out (c : Chip) (a : Nat) (f : Fld) (b : Bool) : (c.setFlag a f b).out = c.out := rfl
@[simp] theorem Chip.setFlag_pins (c : Chip) (a : Nat) (f : Fld) (b : Bool) : (c.setFlag a f b).pins = c.pins := rfl
@[simp] theorem Chip.setFlag_acc (c : Chip) (a : Nat) (f : Fld) (b : Bool) : (c.setFlag a f b).acc = c.acc := rfl
@[simp] theorem Chip.setFlag_evt (c : Chip) (a : Nat) (f : Fld) (b : Bool) : (c.setFlag a f b).evt = c.evt := rfl
@[simp] theorem Chip.setFlag_scv (c : Chip) (a : Nat) (f : Fld) (b : Bool) : (c.setFlag a f b).scv = c.scv := rfl
@[simp] theorem Chip.setFlag_cst (c : Chip) (a : Nat) (f : Fld) (b : Bool) : (c.setFlag a f b).cst = c.cst := rfl
@[simp] theorem Chip.setFlag_cstBus (c : Chip) (a : Nat) (f : Fld) (b : Bool) : (c.setFlag a f b).cstBus = c.cstBus := rfl
@[simp] theorem Chip.setFlag_epc (c : Chip) (a : Nat) (f : Fld) (b : Bool) : (c.setFlag a f b).epc = c.epc := rfl
@[simp] theorem Chip.setFlag_sch (c : Chip) (a : Nat) (f : Fld) (b : Bool) : (c.setFlag a f b).sch = c.sch := rfl
@[simp] theorem Chip.setFlag_clk (c : Chip) (a : Nat) (f : Fld) (b : Bool) : (c.setFlag a f b).clk = c.clk := rfl
@[simp] theorem Chip.setFlag_boot (c : Chip) (a : Nat) (f : Fld) (b : Bool) : (c.setFlag a f b).boot = c.boot := rfl
@[simp] theorem Chip.setFlag_nv (c : Chip) (a : Nat) (f : Fld) (b : Bool) : (c.setFlag a f b).nv = c.nv := rfl
@[simp] theorem Chip.setFlag_stw (c : Chip) (a : Nat) (f : Fld) (b : Bool) : (c.setFlag a f b).stw = c.stw := rfl
@[simp] theorem Chip.setFlag_pwr (c : Chip) (a : Nat) (f : Fld) (b : Bool) : (c.setFlag a f b).pwr = c.pwr := rfl
@[simp] theorem Chip.setFlag_pcie (c : Chip) (a : Nat) (f : Fld) (b : Bool) : (c.setFlag a f b).pcie = c.pcie := rfl
@[simp] theorem Chip.setFlag_lanes (c : Chip) (a : Nat) (f : Fld) (b : Bool) : (c.setFlag a f b).lanes = c.lanes := rfl
@[simp] theorem Chip.setFlag_trs (c : Chip) (a : Nat) (f : Fld) (b : Bool) : (c.setFlag a f b).trs = c.trs := rfl
@[simp] theorem Chip.setFlag_seqs (c : Chip) (a : Nat) (f : Fld) (b : Bool) : (c.setFlag a f b).seqs = c.seqs := rfl
@[simp] theorem Chip.setFlag_seqHolds (c : Chip) (a : Nat) (f : Fld) (b : Bool) : (c.setFlag a f b).seqHolds = c.seqHolds := rfl
@[simp] theorem Chip.setFlag_noticeHolds (c : Chip) (a : Nat) (f : Fld) (b : Bool) : (c.setFlag a f b).noticeHolds = c.noticeHolds := rfl
@[simp] theorem Chip.setFlag_parts (c : Chip) (a : Nat) (f : Fld) (b : Bool) : (c.setFlag a f b).parts = c.parts := rfl
@[simp] theorem Chip.setFlag_car (c : Chip) (a : Nat) (f : Fld) (b : Bool) : (c.setFlag a f b).car = c.car := rfl
@[simp] theorem Chip.setFlag_dma (c : Chip) (a : Nat) (f : Fld) (b : Bool) : (c.setFlag a f b).dma = c.dma := rfl
@[simp] theorem Chip.setFlag_eths (c : Chip) (a : Nat) (f : Fld) (b : Bool) : (c.setFlag a f b).eths = c.eths := rfl
@[simp] theorem Chip.setFlag_ort (c : Chip) (a : Nat) (f : Fld) (b : Bool) : (c.setFlag a f b).ort = c.ort := rfl
@[simp] theorem Chip.setFlag_mc (c : Chip) (a : Nat) (f : Fld) (b : Bool) : (c.setFlag a f b).mc = c.mc := rfl
@[simp] theorem Chip.setFlag_fatal (c : Chip) (a : Nat) (f : Fld) (b : Bool) : (c.setFlag a f b).fatal = c.fatal := rfl
@[simp] theorem Chip.setFlag_resetReq (c : Chip) (a : Nat) (f : Fld) (b : Bool) : (c.setFlag a f b).resetReq = c.resetReq := rfl

/-! ### Chip.addCnt changes regs only -/

@[simp] theorem Chip.addCnt_cycle (c : Chip) (a k : Nat) : (c.addCnt a k).cycle = c.cycle := rfl
@[simp] theorem Chip.addCnt_dwell (c : Chip) (a k : Nat) : (c.addCnt a k).dwell = c.dwell := rfl
@[simp] theorem Chip.addCnt_freeCtr (c : Chip) (a k : Nat) : (c.addCnt a k).freeCtr = c.freeCtr := rfl
@[simp] theorem Chip.addCnt_wcopy (c : Chip) (a k : Nat) : (c.addCnt a k).wcopy = c.wcopy := rfl
@[simp] theorem Chip.addCnt_rdata (c : Chip) (a k : Nat) : (c.addCnt a k).rdata = c.rdata := rfl
@[simp] theorem Chip.addCnt_rblock (c : Chip) (a k : Nat) : (c.addCnt a k).rblock = c.rblock := rfl
@[simp] theorem Chip.addCnt_dropped (c : Chip) (a k : Nat) : (c.addCnt a k).dropped = c.dropped := rfl
@[simp] theorem Chip.addCnt_lastReason (c : Chip) (a k : Nat) : (c.addCnt a k).lastReason = c.lastReason := rfl
@[simp] theorem Chip.addCnt_out (c : Chip) (a k : Nat) : (c.addCnt a k).out = c.out := rfl
@[simp] theorem Chip.addCnt_pins (c : Chip) (a k : Nat) : (c.addCnt a k).pins = c.pins := rfl
@[simp] theorem Chip.addCnt_acc (c : Chip) (a k : Nat) : (c.addCnt a k).acc = c.acc := rfl
@[simp] theorem Chip.addCnt_evt (c : Chip) (a k : Nat) : (c.addCnt a k).evt = c.evt := rfl
@[simp] theorem Chip.addCnt_scv (c : Chip) (a k : Nat) : (c.addCnt a k).scv = c.scv := rfl
@[simp] theorem Chip.addCnt_cst (c : Chip) (a k : Nat) : (c.addCnt a k).cst = c.cst := rfl
@[simp] theorem Chip.addCnt_cstBus (c : Chip) (a k : Nat) : (c.addCnt a k).cstBus = c.cstBus := rfl
@[simp] theorem Chip.addCnt_epc (c : Chip) (a k : Nat) : (c.addCnt a k).epc = c.epc := rfl
@[simp] theorem Chip.addCnt_sch (c : Chip) (a k : Nat) : (c.addCnt a k).sch = c.sch := rfl
@[simp] theorem Chip.addCnt_clk (c : Chip) (a k : Nat) : (c.addCnt a k).clk = c.clk := rfl
@[simp] theorem Chip.addCnt_boot (c : Chip) (a k : Nat) : (c.addCnt a k).boot = c.boot := rfl
@[simp] theorem Chip.addCnt_nv (c : Chip) (a k : Nat) : (c.addCnt a k).nv = c.nv := rfl
@[simp] theorem Chip.addCnt_stw (c : Chip) (a k : Nat) : (c.addCnt a k).stw = c.stw := rfl
@[simp] theorem Chip.addCnt_pwr (c : Chip) (a k : Nat) : (c.addCnt a k).pwr = c.pwr := rfl
@[simp] theorem Chip.addCnt_pcie (c : Chip) (a k : Nat) : (c.addCnt a k).pcie = c.pcie := rfl
@[simp] theorem Chip.addCnt_lanes (c : Chip) (a k : Nat) : (c.addCnt a k).lanes = c.lanes := rfl
@[simp] theorem Chip.addCnt_trs (c : Chip) (a k : Nat) : (c.addCnt a k).trs = c.trs := rfl
@[simp] theorem Chip.addCnt_seqs (c : Chip) (a k : Nat) : (c.addCnt a k).seqs = c.seqs := rfl
@[simp] theorem Chip.addCnt_seqHolds (c : Chip) (a k : Nat) : (c.addCnt a k).seqHolds = c.seqHolds := rfl
@[simp] theorem Chip.addCnt_noticeHolds (c : Chip) (a k : Nat) : (c.addCnt a k).noticeHolds = c.noticeHolds := rfl
@[simp] theorem Chip.addCnt_parts (c : Chip) (a k : Nat) : (c.addCnt a k).parts = c.parts := rfl
@[simp] theorem Chip.addCnt_car (c : Chip) (a k : Nat) : (c.addCnt a k).car = c.car := rfl
@[simp] theorem Chip.addCnt_dma (c : Chip) (a k : Nat) : (c.addCnt a k).dma = c.dma := rfl
@[simp] theorem Chip.addCnt_eths (c : Chip) (a k : Nat) : (c.addCnt a k).eths = c.eths := rfl
@[simp] theorem Chip.addCnt_ort (c : Chip) (a k : Nat) : (c.addCnt a k).ort = c.ort := rfl
@[simp] theorem Chip.addCnt_mc (c : Chip) (a k : Nat) : (c.addCnt a k).mc = c.mc := rfl
@[simp] theorem Chip.addCnt_fatal (c : Chip) (a k : Nat) : (c.addCnt a k).fatal = c.fatal := rfl
@[simp] theorem Chip.addCnt_resetReq (c : Chip) (a k : Nat) : (c.addCnt a k).resetReq = c.resetReq := rfl

/-! ### Chip.addSat changes regs only -/

@[simp] theorem Chip.addSat_cycle (c : Chip) (a k : Nat) : (c.addSat a k).cycle = c.cycle := rfl
@[simp] theorem Chip.addSat_dwell (c : Chip) (a k : Nat) : (c.addSat a k).dwell = c.dwell := rfl
@[simp] theorem Chip.addSat_freeCtr (c : Chip) (a k : Nat) : (c.addSat a k).freeCtr = c.freeCtr := rfl
@[simp] theorem Chip.addSat_wcopy (c : Chip) (a k : Nat) : (c.addSat a k).wcopy = c.wcopy := rfl
@[simp] theorem Chip.addSat_rdata (c : Chip) (a k : Nat) : (c.addSat a k).rdata = c.rdata := rfl
@[simp] theorem Chip.addSat_rblock (c : Chip) (a k : Nat) : (c.addSat a k).rblock = c.rblock := rfl
@[simp] theorem Chip.addSat_dropped (c : Chip) (a k : Nat) : (c.addSat a k).dropped = c.dropped := rfl
@[simp] theorem Chip.addSat_lastReason (c : Chip) (a k : Nat) : (c.addSat a k).lastReason = c.lastReason := rfl
@[simp] theorem Chip.addSat_out (c : Chip) (a k : Nat) : (c.addSat a k).out = c.out := rfl
@[simp] theorem Chip.addSat_pins (c : Chip) (a k : Nat) : (c.addSat a k).pins = c.pins := rfl
@[simp] theorem Chip.addSat_acc (c : Chip) (a k : Nat) : (c.addSat a k).acc = c.acc := rfl
@[simp] theorem Chip.addSat_evt (c : Chip) (a k : Nat) : (c.addSat a k).evt = c.evt := rfl
@[simp] theorem Chip.addSat_scv (c : Chip) (a k : Nat) : (c.addSat a k).scv = c.scv := rfl
@[simp] theorem Chip.addSat_cst (c : Chip) (a k : Nat) : (c.addSat a k).cst = c.cst := rfl
@[simp] theorem Chip.addSat_cstBus (c : Chip) (a k : Nat) : (c.addSat a k).cstBus = c.cstBus := rfl
@[simp] theorem Chip.addSat_epc (c : Chip) (a k : Nat) : (c.addSat a k).epc = c.epc := rfl
@[simp] theorem Chip.addSat_sch (c : Chip) (a k : Nat) : (c.addSat a k).sch = c.sch := rfl
@[simp] theorem Chip.addSat_clk (c : Chip) (a k : Nat) : (c.addSat a k).clk = c.clk := rfl
@[simp] theorem Chip.addSat_boot (c : Chip) (a k : Nat) : (c.addSat a k).boot = c.boot := rfl
@[simp] theorem Chip.addSat_nv (c : Chip) (a k : Nat) : (c.addSat a k).nv = c.nv := rfl
@[simp] theorem Chip.addSat_stw (c : Chip) (a k : Nat) : (c.addSat a k).stw = c.stw := rfl
@[simp] theorem Chip.addSat_pwr (c : Chip) (a k : Nat) : (c.addSat a k).pwr = c.pwr := rfl
@[simp] theorem Chip.addSat_pcie (c : Chip) (a k : Nat) : (c.addSat a k).pcie = c.pcie := rfl
@[simp] theorem Chip.addSat_lanes (c : Chip) (a k : Nat) : (c.addSat a k).lanes = c.lanes := rfl
@[simp] theorem Chip.addSat_trs (c : Chip) (a k : Nat) : (c.addSat a k).trs = c.trs := rfl
@[simp] theorem Chip.addSat_seqs (c : Chip) (a k : Nat) : (c.addSat a k).seqs = c.seqs := rfl
@[simp] theorem Chip.addSat_seqHolds (c : Chip) (a k : Nat) : (c.addSat a k).seqHolds = c.seqHolds := rfl
@[simp] theorem Chip.addSat_noticeHolds (c : Chip) (a k : Nat) : (c.addSat a k).noticeHolds = c.noticeHolds := rfl
@[simp] theorem Chip.addSat_parts (c : Chip) (a k : Nat) : (c.addSat a k).parts = c.parts := rfl
@[simp] theorem Chip.addSat_car (c : Chip) (a k : Nat) : (c.addSat a k).car = c.car := rfl
@[simp] theorem Chip.addSat_dma (c : Chip) (a k : Nat) : (c.addSat a k).dma = c.dma := rfl
@[simp] theorem Chip.addSat_eths (c : Chip) (a k : Nat) : (c.addSat a k).eths = c.eths := rfl
@[simp] theorem Chip.addSat_ort (c : Chip) (a k : Nat) : (c.addSat a k).ort = c.ort := rfl
@[simp] theorem Chip.addSat_mc (c : Chip) (a k : Nat) : (c.addSat a k).mc = c.mc := rfl
@[simp] theorem Chip.addSat_fatal (c : Chip) (a k : Nat) : (c.addSat a k).fatal = c.fatal := rfl
@[simp] theorem Chip.addSat_resetReq (c : Chip) (a k : Nat) : (c.addSat a k).resetReq = c.resetReq := rfl

/-! ### Chip.setTriple changes regs only -/

/-- A triple's update is three register writes. -/
theorem Chip.setTriple_eq (c : Chip) (a v : Nat) :
    ∃ x y z, c.setTriple a v = ((c.setN a x).setN (a + 4) y).setN (a + 8) z := ⟨_, _, _, rfl⟩

@[simp] theorem Chip.setTriple_cycle (c : Chip) (a v : Nat) : (c.setTriple a v).cycle = c.cycle := by obtain ⟨x, y, z, h⟩ := c.setTriple_eq a v; rw [h]; rfl
@[simp] theorem Chip.setTriple_dwell (c : Chip) (a v : Nat) : (c.setTriple a v).dwell = c.dwell := by obtain ⟨x, y, z, h⟩ := c.setTriple_eq a v; rw [h]; rfl
@[simp] theorem Chip.setTriple_freeCtr (c : Chip) (a v : Nat) : (c.setTriple a v).freeCtr = c.freeCtr := by obtain ⟨x, y, z, h⟩ := c.setTriple_eq a v; rw [h]; rfl
@[simp] theorem Chip.setTriple_wcopy (c : Chip) (a v : Nat) : (c.setTriple a v).wcopy = c.wcopy := by obtain ⟨x, y, z, h⟩ := c.setTriple_eq a v; rw [h]; rfl
@[simp] theorem Chip.setTriple_rdata (c : Chip) (a v : Nat) : (c.setTriple a v).rdata = c.rdata := by obtain ⟨x, y, z, h⟩ := c.setTriple_eq a v; rw [h]; rfl
@[simp] theorem Chip.setTriple_rblock (c : Chip) (a v : Nat) : (c.setTriple a v).rblock = c.rblock := by obtain ⟨x, y, z, h⟩ := c.setTriple_eq a v; rw [h]; rfl
@[simp] theorem Chip.setTriple_dropped (c : Chip) (a v : Nat) : (c.setTriple a v).dropped = c.dropped := by obtain ⟨x, y, z, h⟩ := c.setTriple_eq a v; rw [h]; rfl
@[simp] theorem Chip.setTriple_lastReason (c : Chip) (a v : Nat) : (c.setTriple a v).lastReason = c.lastReason := by obtain ⟨x, y, z, h⟩ := c.setTriple_eq a v; rw [h]; rfl
@[simp] theorem Chip.setTriple_out (c : Chip) (a v : Nat) : (c.setTriple a v).out = c.out := by obtain ⟨x, y, z, h⟩ := c.setTriple_eq a v; rw [h]; rfl
@[simp] theorem Chip.setTriple_pins (c : Chip) (a v : Nat) : (c.setTriple a v).pins = c.pins := by obtain ⟨x, y, z, h⟩ := c.setTriple_eq a v; rw [h]; rfl
@[simp] theorem Chip.setTriple_acc (c : Chip) (a v : Nat) : (c.setTriple a v).acc = c.acc := by obtain ⟨x, y, z, h⟩ := c.setTriple_eq a v; rw [h]; rfl
@[simp] theorem Chip.setTriple_evt (c : Chip) (a v : Nat) : (c.setTriple a v).evt = c.evt := by obtain ⟨x, y, z, h⟩ := c.setTriple_eq a v; rw [h]; rfl
@[simp] theorem Chip.setTriple_scv (c : Chip) (a v : Nat) : (c.setTriple a v).scv = c.scv := by obtain ⟨x, y, z, h⟩ := c.setTriple_eq a v; rw [h]; rfl
@[simp] theorem Chip.setTriple_cst (c : Chip) (a v : Nat) : (c.setTriple a v).cst = c.cst := by obtain ⟨x, y, z, h⟩ := c.setTriple_eq a v; rw [h]; rfl
@[simp] theorem Chip.setTriple_cstBus (c : Chip) (a v : Nat) : (c.setTriple a v).cstBus = c.cstBus := by obtain ⟨x, y, z, h⟩ := c.setTriple_eq a v; rw [h]; rfl
@[simp] theorem Chip.setTriple_epc (c : Chip) (a v : Nat) : (c.setTriple a v).epc = c.epc := by obtain ⟨x, y, z, h⟩ := c.setTriple_eq a v; rw [h]; rfl
@[simp] theorem Chip.setTriple_sch (c : Chip) (a v : Nat) : (c.setTriple a v).sch = c.sch := by obtain ⟨x, y, z, h⟩ := c.setTriple_eq a v; rw [h]; rfl
@[simp] theorem Chip.setTriple_clk (c : Chip) (a v : Nat) : (c.setTriple a v).clk = c.clk := by obtain ⟨x, y, z, h⟩ := c.setTriple_eq a v; rw [h]; rfl
@[simp] theorem Chip.setTriple_boot (c : Chip) (a v : Nat) : (c.setTriple a v).boot = c.boot := by obtain ⟨x, y, z, h⟩ := c.setTriple_eq a v; rw [h]; rfl
@[simp] theorem Chip.setTriple_nv (c : Chip) (a v : Nat) : (c.setTriple a v).nv = c.nv := by obtain ⟨x, y, z, h⟩ := c.setTriple_eq a v; rw [h]; rfl
@[simp] theorem Chip.setTriple_stw (c : Chip) (a v : Nat) : (c.setTriple a v).stw = c.stw := by obtain ⟨x, y, z, h⟩ := c.setTriple_eq a v; rw [h]; rfl
@[simp] theorem Chip.setTriple_pwr (c : Chip) (a v : Nat) : (c.setTriple a v).pwr = c.pwr := by obtain ⟨x, y, z, h⟩ := c.setTriple_eq a v; rw [h]; rfl
@[simp] theorem Chip.setTriple_pcie (c : Chip) (a v : Nat) : (c.setTriple a v).pcie = c.pcie := by obtain ⟨x, y, z, h⟩ := c.setTriple_eq a v; rw [h]; rfl
@[simp] theorem Chip.setTriple_lanes (c : Chip) (a v : Nat) : (c.setTriple a v).lanes = c.lanes := by obtain ⟨x, y, z, h⟩ := c.setTriple_eq a v; rw [h]; rfl
@[simp] theorem Chip.setTriple_trs (c : Chip) (a v : Nat) : (c.setTriple a v).trs = c.trs := by obtain ⟨x, y, z, h⟩ := c.setTriple_eq a v; rw [h]; rfl
@[simp] theorem Chip.setTriple_seqs (c : Chip) (a v : Nat) : (c.setTriple a v).seqs = c.seqs := by obtain ⟨x, y, z, h⟩ := c.setTriple_eq a v; rw [h]; rfl
@[simp] theorem Chip.setTriple_seqHolds (c : Chip) (a v : Nat) : (c.setTriple a v).seqHolds = c.seqHolds := by obtain ⟨x, y, z, h⟩ := c.setTriple_eq a v; rw [h]; rfl
@[simp] theorem Chip.setTriple_noticeHolds (c : Chip) (a v : Nat) : (c.setTriple a v).noticeHolds = c.noticeHolds := by obtain ⟨x, y, z, h⟩ := c.setTriple_eq a v; rw [h]; rfl
@[simp] theorem Chip.setTriple_parts (c : Chip) (a v : Nat) : (c.setTriple a v).parts = c.parts := by obtain ⟨x, y, z, h⟩ := c.setTriple_eq a v; rw [h]; rfl
@[simp] theorem Chip.setTriple_car (c : Chip) (a v : Nat) : (c.setTriple a v).car = c.car := by obtain ⟨x, y, z, h⟩ := c.setTriple_eq a v; rw [h]; rfl
@[simp] theorem Chip.setTriple_dma (c : Chip) (a v : Nat) : (c.setTriple a v).dma = c.dma := by obtain ⟨x, y, z, h⟩ := c.setTriple_eq a v; rw [h]; rfl
@[simp] theorem Chip.setTriple_eths (c : Chip) (a v : Nat) : (c.setTriple a v).eths = c.eths := by obtain ⟨x, y, z, h⟩ := c.setTriple_eq a v; rw [h]; rfl
@[simp] theorem Chip.setTriple_ort (c : Chip) (a v : Nat) : (c.setTriple a v).ort = c.ort := by obtain ⟨x, y, z, h⟩ := c.setTriple_eq a v; rw [h]; rfl
@[simp] theorem Chip.setTriple_mc (c : Chip) (a v : Nat) : (c.setTriple a v).mc = c.mc := by obtain ⟨x, y, z, h⟩ := c.setTriple_eq a v; rw [h]; rfl
@[simp] theorem Chip.setTriple_fatal (c : Chip) (a v : Nat) : (c.setTriple a v).fatal = c.fatal := by obtain ⟨x, y, z, h⟩ := c.setTriple_eq a v; rw [h]; rfl
@[simp] theorem Chip.setTriple_resetReq (c : Chip) (a v : Nat) : (c.setTriple a v).resetReq = c.resetReq := by obtain ⟨x, y, z, h⟩ := c.setTriple_eq a v; rw [h]; rfl

/-! ### Chip.setPair changes regs only -/

/-- A pair's update is two register writes. -/
theorem Chip.setPair_eq (c : Chip) (w a v : Nat) : ∃ y, c.setPair w a v = (c.setN a v).setN (a + 4) y := ⟨_, rfl⟩

@[simp] theorem Chip.setPair_cycle (c : Chip) (w a v : Nat) : (c.setPair w a v).cycle = c.cycle := by obtain ⟨y, h⟩ := c.setPair_eq w a v; rw [h]; rfl
@[simp] theorem Chip.setPair_dwell (c : Chip) (w a v : Nat) : (c.setPair w a v).dwell = c.dwell := by obtain ⟨y, h⟩ := c.setPair_eq w a v; rw [h]; rfl
@[simp] theorem Chip.setPair_freeCtr (c : Chip) (w a v : Nat) : (c.setPair w a v).freeCtr = c.freeCtr := by obtain ⟨y, h⟩ := c.setPair_eq w a v; rw [h]; rfl
@[simp] theorem Chip.setPair_wcopy (c : Chip) (w a v : Nat) : (c.setPair w a v).wcopy = c.wcopy := by obtain ⟨y, h⟩ := c.setPair_eq w a v; rw [h]; rfl
@[simp] theorem Chip.setPair_rdata (c : Chip) (w a v : Nat) : (c.setPair w a v).rdata = c.rdata := by obtain ⟨y, h⟩ := c.setPair_eq w a v; rw [h]; rfl
@[simp] theorem Chip.setPair_rblock (c : Chip) (w a v : Nat) : (c.setPair w a v).rblock = c.rblock := by obtain ⟨y, h⟩ := c.setPair_eq w a v; rw [h]; rfl
@[simp] theorem Chip.setPair_dropped (c : Chip) (w a v : Nat) : (c.setPair w a v).dropped = c.dropped := by obtain ⟨y, h⟩ := c.setPair_eq w a v; rw [h]; rfl
@[simp] theorem Chip.setPair_lastReason (c : Chip) (w a v : Nat) : (c.setPair w a v).lastReason = c.lastReason := by obtain ⟨y, h⟩ := c.setPair_eq w a v; rw [h]; rfl
@[simp] theorem Chip.setPair_out (c : Chip) (w a v : Nat) : (c.setPair w a v).out = c.out := by obtain ⟨y, h⟩ := c.setPair_eq w a v; rw [h]; rfl
@[simp] theorem Chip.setPair_pins (c : Chip) (w a v : Nat) : (c.setPair w a v).pins = c.pins := by obtain ⟨y, h⟩ := c.setPair_eq w a v; rw [h]; rfl
@[simp] theorem Chip.setPair_acc (c : Chip) (w a v : Nat) : (c.setPair w a v).acc = c.acc := by obtain ⟨y, h⟩ := c.setPair_eq w a v; rw [h]; rfl
@[simp] theorem Chip.setPair_evt (c : Chip) (w a v : Nat) : (c.setPair w a v).evt = c.evt := by obtain ⟨y, h⟩ := c.setPair_eq w a v; rw [h]; rfl
@[simp] theorem Chip.setPair_scv (c : Chip) (w a v : Nat) : (c.setPair w a v).scv = c.scv := by obtain ⟨y, h⟩ := c.setPair_eq w a v; rw [h]; rfl
@[simp] theorem Chip.setPair_cst (c : Chip) (w a v : Nat) : (c.setPair w a v).cst = c.cst := by obtain ⟨y, h⟩ := c.setPair_eq w a v; rw [h]; rfl
@[simp] theorem Chip.setPair_cstBus (c : Chip) (w a v : Nat) : (c.setPair w a v).cstBus = c.cstBus := by obtain ⟨y, h⟩ := c.setPair_eq w a v; rw [h]; rfl
@[simp] theorem Chip.setPair_epc (c : Chip) (w a v : Nat) : (c.setPair w a v).epc = c.epc := by obtain ⟨y, h⟩ := c.setPair_eq w a v; rw [h]; rfl
@[simp] theorem Chip.setPair_sch (c : Chip) (w a v : Nat) : (c.setPair w a v).sch = c.sch := by obtain ⟨y, h⟩ := c.setPair_eq w a v; rw [h]; rfl
@[simp] theorem Chip.setPair_clk (c : Chip) (w a v : Nat) : (c.setPair w a v).clk = c.clk := by obtain ⟨y, h⟩ := c.setPair_eq w a v; rw [h]; rfl
@[simp] theorem Chip.setPair_boot (c : Chip) (w a v : Nat) : (c.setPair w a v).boot = c.boot := by obtain ⟨y, h⟩ := c.setPair_eq w a v; rw [h]; rfl
@[simp] theorem Chip.setPair_nv (c : Chip) (w a v : Nat) : (c.setPair w a v).nv = c.nv := by obtain ⟨y, h⟩ := c.setPair_eq w a v; rw [h]; rfl
@[simp] theorem Chip.setPair_stw (c : Chip) (w a v : Nat) : (c.setPair w a v).stw = c.stw := by obtain ⟨y, h⟩ := c.setPair_eq w a v; rw [h]; rfl
@[simp] theorem Chip.setPair_pwr (c : Chip) (w a v : Nat) : (c.setPair w a v).pwr = c.pwr := by obtain ⟨y, h⟩ := c.setPair_eq w a v; rw [h]; rfl
@[simp] theorem Chip.setPair_pcie (c : Chip) (w a v : Nat) : (c.setPair w a v).pcie = c.pcie := by obtain ⟨y, h⟩ := c.setPair_eq w a v; rw [h]; rfl
@[simp] theorem Chip.setPair_lanes (c : Chip) (w a v : Nat) : (c.setPair w a v).lanes = c.lanes := by obtain ⟨y, h⟩ := c.setPair_eq w a v; rw [h]; rfl
@[simp] theorem Chip.setPair_trs (c : Chip) (w a v : Nat) : (c.setPair w a v).trs = c.trs := by obtain ⟨y, h⟩ := c.setPair_eq w a v; rw [h]; rfl
@[simp] theorem Chip.setPair_seqs (c : Chip) (w a v : Nat) : (c.setPair w a v).seqs = c.seqs := by obtain ⟨y, h⟩ := c.setPair_eq w a v; rw [h]; rfl
@[simp] theorem Chip.setPair_seqHolds (c : Chip) (w a v : Nat) : (c.setPair w a v).seqHolds = c.seqHolds := by obtain ⟨y, h⟩ := c.setPair_eq w a v; rw [h]; rfl
@[simp] theorem Chip.setPair_noticeHolds (c : Chip) (w a v : Nat) : (c.setPair w a v).noticeHolds = c.noticeHolds := by obtain ⟨y, h⟩ := c.setPair_eq w a v; rw [h]; rfl
@[simp] theorem Chip.setPair_parts (c : Chip) (w a v : Nat) : (c.setPair w a v).parts = c.parts := by obtain ⟨y, h⟩ := c.setPair_eq w a v; rw [h]; rfl
@[simp] theorem Chip.setPair_car (c : Chip) (w a v : Nat) : (c.setPair w a v).car = c.car := by obtain ⟨y, h⟩ := c.setPair_eq w a v; rw [h]; rfl
@[simp] theorem Chip.setPair_dma (c : Chip) (w a v : Nat) : (c.setPair w a v).dma = c.dma := by obtain ⟨y, h⟩ := c.setPair_eq w a v; rw [h]; rfl
@[simp] theorem Chip.setPair_eths (c : Chip) (w a v : Nat) : (c.setPair w a v).eths = c.eths := by obtain ⟨y, h⟩ := c.setPair_eq w a v; rw [h]; rfl
@[simp] theorem Chip.setPair_ort (c : Chip) (w a v : Nat) : (c.setPair w a v).ort = c.ort := by obtain ⟨y, h⟩ := c.setPair_eq w a v; rw [h]; rfl
@[simp] theorem Chip.setPair_mc (c : Chip) (w a v : Nat) : (c.setPair w a v).mc = c.mc := by obtain ⟨y, h⟩ := c.setPair_eq w a v; rw [h]; rfl
@[simp] theorem Chip.setPair_fatal (c : Chip) (w a v : Nat) : (c.setPair w a v).fatal = c.fatal := by obtain ⟨y, h⟩ := c.setPair_eq w a v; rw [h]; rfl
@[simp] theorem Chip.setPair_resetReq (c : Chip) (w a v : Nat) : (c.setPair w a v).resetReq = c.resetReq := by obtain ⟨y, h⟩ := c.setPair_eq w a v; rw [h]; rfl

/-! ### Chip.copyReg changes wcopy only -/

@[simp] theorem Chip.copyReg_cycle (c : Chip) (a : Nat) : (c.copyReg a).cycle = c.cycle := rfl
@[simp] theorem Chip.copyReg_dwell (c : Chip) (a : Nat) : (c.copyReg a).dwell = c.dwell := rfl
@[simp] theorem Chip.copyReg_freeCtr (c : Chip) (a : Nat) : (c.copyReg a).freeCtr = c.freeCtr := rfl
@[simp] theorem Chip.copyReg_regs (c : Chip) (a : Nat) : (c.copyReg a).regs = c.regs := rfl
@[simp] theorem Chip.copyReg_rdata (c : Chip) (a : Nat) : (c.copyReg a).rdata = c.rdata := rfl
@[simp] theorem Chip.copyReg_rblock (c : Chip) (a : Nat) : (c.copyReg a).rblock = c.rblock := rfl
@[simp] theorem Chip.copyReg_dropped (c : Chip) (a : Nat) : (c.copyReg a).dropped = c.dropped := rfl
@[simp] theorem Chip.copyReg_lastReason (c : Chip) (a : Nat) : (c.copyReg a).lastReason = c.lastReason := rfl
@[simp] theorem Chip.copyReg_out (c : Chip) (a : Nat) : (c.copyReg a).out = c.out := rfl
@[simp] theorem Chip.copyReg_pins (c : Chip) (a : Nat) : (c.copyReg a).pins = c.pins := rfl
@[simp] theorem Chip.copyReg_acc (c : Chip) (a : Nat) : (c.copyReg a).acc = c.acc := rfl
@[simp] theorem Chip.copyReg_evt (c : Chip) (a : Nat) : (c.copyReg a).evt = c.evt := rfl
@[simp] theorem Chip.copyReg_scv (c : Chip) (a : Nat) : (c.copyReg a).scv = c.scv := rfl
@[simp] theorem Chip.copyReg_cst (c : Chip) (a : Nat) : (c.copyReg a).cst = c.cst := rfl
@[simp] theorem Chip.copyReg_cstBus (c : Chip) (a : Nat) : (c.copyReg a).cstBus = c.cstBus := rfl
@[simp] theorem Chip.copyReg_epc (c : Chip) (a : Nat) : (c.copyReg a).epc = c.epc := rfl
@[simp] theorem Chip.copyReg_sch (c : Chip) (a : Nat) : (c.copyReg a).sch = c.sch := rfl
@[simp] theorem Chip.copyReg_clk (c : Chip) (a : Nat) : (c.copyReg a).clk = c.clk := rfl
@[simp] theorem Chip.copyReg_boot (c : Chip) (a : Nat) : (c.copyReg a).boot = c.boot := rfl
@[simp] theorem Chip.copyReg_nv (c : Chip) (a : Nat) : (c.copyReg a).nv = c.nv := rfl
@[simp] theorem Chip.copyReg_stw (c : Chip) (a : Nat) : (c.copyReg a).stw = c.stw := rfl
@[simp] theorem Chip.copyReg_pwr (c : Chip) (a : Nat) : (c.copyReg a).pwr = c.pwr := rfl
@[simp] theorem Chip.copyReg_pcie (c : Chip) (a : Nat) : (c.copyReg a).pcie = c.pcie := rfl
@[simp] theorem Chip.copyReg_lanes (c : Chip) (a : Nat) : (c.copyReg a).lanes = c.lanes := rfl
@[simp] theorem Chip.copyReg_trs (c : Chip) (a : Nat) : (c.copyReg a).trs = c.trs := rfl
@[simp] theorem Chip.copyReg_seqs (c : Chip) (a : Nat) : (c.copyReg a).seqs = c.seqs := rfl
@[simp] theorem Chip.copyReg_seqHolds (c : Chip) (a : Nat) : (c.copyReg a).seqHolds = c.seqHolds := rfl
@[simp] theorem Chip.copyReg_noticeHolds (c : Chip) (a : Nat) : (c.copyReg a).noticeHolds = c.noticeHolds := rfl
@[simp] theorem Chip.copyReg_parts (c : Chip) (a : Nat) : (c.copyReg a).parts = c.parts := rfl
@[simp] theorem Chip.copyReg_car (c : Chip) (a : Nat) : (c.copyReg a).car = c.car := rfl
@[simp] theorem Chip.copyReg_dma (c : Chip) (a : Nat) : (c.copyReg a).dma = c.dma := rfl
@[simp] theorem Chip.copyReg_eths (c : Chip) (a : Nat) : (c.copyReg a).eths = c.eths := rfl
@[simp] theorem Chip.copyReg_ort (c : Chip) (a : Nat) : (c.copyReg a).ort = c.ort := rfl
@[simp] theorem Chip.copyReg_mc (c : Chip) (a : Nat) : (c.copyReg a).mc = c.mc := rfl
@[simp] theorem Chip.copyReg_fatal (c : Chip) (a : Nat) : (c.copyReg a).fatal = c.fatal := rfl
@[simp] theorem Chip.copyReg_resetReq (c : Chip) (a : Nat) : (c.copyReg a).resetReq = c.resetReq := rfl

/-! ### Chip.setLane changes lanes only -/

@[simp] theorem Chip.setLane_cycle (c : Chip) (g : Nat) (l : Lane) : (c.setLane g l).cycle = c.cycle := rfl
@[simp] theorem Chip.setLane_dwell (c : Chip) (g : Nat) (l : Lane) : (c.setLane g l).dwell = c.dwell := rfl
@[simp] theorem Chip.setLane_freeCtr (c : Chip) (g : Nat) (l : Lane) : (c.setLane g l).freeCtr = c.freeCtr := rfl
@[simp] theorem Chip.setLane_regs (c : Chip) (g : Nat) (l : Lane) : (c.setLane g l).regs = c.regs := rfl
@[simp] theorem Chip.setLane_wcopy (c : Chip) (g : Nat) (l : Lane) : (c.setLane g l).wcopy = c.wcopy := rfl
@[simp] theorem Chip.setLane_rdata (c : Chip) (g : Nat) (l : Lane) : (c.setLane g l).rdata = c.rdata := rfl
@[simp] theorem Chip.setLane_rblock (c : Chip) (g : Nat) (l : Lane) : (c.setLane g l).rblock = c.rblock := rfl
@[simp] theorem Chip.setLane_dropped (c : Chip) (g : Nat) (l : Lane) : (c.setLane g l).dropped = c.dropped := rfl
@[simp] theorem Chip.setLane_lastReason (c : Chip) (g : Nat) (l : Lane) : (c.setLane g l).lastReason = c.lastReason := rfl
@[simp] theorem Chip.setLane_out (c : Chip) (g : Nat) (l : Lane) : (c.setLane g l).out = c.out := rfl
@[simp] theorem Chip.setLane_pins (c : Chip) (g : Nat) (l : Lane) : (c.setLane g l).pins = c.pins := rfl
@[simp] theorem Chip.setLane_acc (c : Chip) (g : Nat) (l : Lane) : (c.setLane g l).acc = c.acc := rfl
@[simp] theorem Chip.setLane_evt (c : Chip) (g : Nat) (l : Lane) : (c.setLane g l).evt = c.evt := rfl
@[simp] theorem Chip.setLane_scv (c : Chip) (g : Nat) (l : Lane) : (c.setLane g l).scv = c.scv := rfl
@[simp] theorem Chip.setLane_cst (c : Chip) (g : Nat) (l : Lane) : (c.setLane g l).cst = c.cst := rfl
@[simp] theorem Chip.setLane_cstBus (c : Chip) (g : Nat) (l : Lane) : (c.setLane g l).cstBus = c.cstBus := rfl
@[simp] theorem Chip.setLane_epc (c : Chip) (g : Nat) (l : Lane) : (c.setLane g l).epc = c.epc := rfl
@[simp] theorem Chip.setLane_sch (c : Chip) (g : Nat) (l : Lane) : (c.setLane g l).sch = c.sch := rfl
@[simp] theorem Chip.setLane_clk (c : Chip) (g : Nat) (l : Lane) : (c.setLane g l).clk = c.clk := rfl
@[simp] theorem Chip.setLane_boot (c : Chip) (g : Nat) (l : Lane) : (c.setLane g l).boot = c.boot := rfl
@[simp] theorem Chip.setLane_nv (c : Chip) (g : Nat) (l : Lane) : (c.setLane g l).nv = c.nv := rfl
@[simp] theorem Chip.setLane_stw (c : Chip) (g : Nat) (l : Lane) : (c.setLane g l).stw = c.stw := rfl
@[simp] theorem Chip.setLane_pwr (c : Chip) (g : Nat) (l : Lane) : (c.setLane g l).pwr = c.pwr := rfl
@[simp] theorem Chip.setLane_pcie (c : Chip) (g : Nat) (l : Lane) : (c.setLane g l).pcie = c.pcie := rfl
@[simp] theorem Chip.setLane_trs (c : Chip) (g : Nat) (l : Lane) : (c.setLane g l).trs = c.trs := rfl
@[simp] theorem Chip.setLane_seqs (c : Chip) (g : Nat) (l : Lane) : (c.setLane g l).seqs = c.seqs := rfl
@[simp] theorem Chip.setLane_seqHolds (c : Chip) (g : Nat) (l : Lane) : (c.setLane g l).seqHolds = c.seqHolds := rfl
@[simp] theorem Chip.setLane_noticeHolds (c : Chip) (g : Nat) (l : Lane) : (c.setLane g l).noticeHolds = c.noticeHolds := rfl
@[simp] theorem Chip.setLane_parts (c : Chip) (g : Nat) (l : Lane) : (c.setLane g l).parts = c.parts := rfl
@[simp] theorem Chip.setLane_car (c : Chip) (g : Nat) (l : Lane) : (c.setLane g l).car = c.car := rfl
@[simp] theorem Chip.setLane_dma (c : Chip) (g : Nat) (l : Lane) : (c.setLane g l).dma = c.dma := rfl
@[simp] theorem Chip.setLane_eths (c : Chip) (g : Nat) (l : Lane) : (c.setLane g l).eths = c.eths := rfl
@[simp] theorem Chip.setLane_ort (c : Chip) (g : Nat) (l : Lane) : (c.setLane g l).ort = c.ort := rfl
@[simp] theorem Chip.setLane_mc (c : Chip) (g : Nat) (l : Lane) : (c.setLane g l).mc = c.mc := rfl
@[simp] theorem Chip.setLane_fatal (c : Chip) (g : Nat) (l : Lane) : (c.setLane g l).fatal = c.fatal := rfl
@[simp] theorem Chip.setLane_resetReq (c : Chip) (g : Nat) (l : Lane) : (c.setLane g l).resetReq = c.resetReq := rfl

/-! ### Chip.setSeq changes seqs only -/

@[simp] theorem Chip.setSeq_cycle (c : Chip) (n : Nat) (q : Seq) : (c.setSeq n q).cycle = c.cycle := rfl
@[simp] theorem Chip.setSeq_dwell (c : Chip) (n : Nat) (q : Seq) : (c.setSeq n q).dwell = c.dwell := rfl
@[simp] theorem Chip.setSeq_freeCtr (c : Chip) (n : Nat) (q : Seq) : (c.setSeq n q).freeCtr = c.freeCtr := rfl
@[simp] theorem Chip.setSeq_regs (c : Chip) (n : Nat) (q : Seq) : (c.setSeq n q).regs = c.regs := rfl
@[simp] theorem Chip.setSeq_wcopy (c : Chip) (n : Nat) (q : Seq) : (c.setSeq n q).wcopy = c.wcopy := rfl
@[simp] theorem Chip.setSeq_rdata (c : Chip) (n : Nat) (q : Seq) : (c.setSeq n q).rdata = c.rdata := rfl
@[simp] theorem Chip.setSeq_rblock (c : Chip) (n : Nat) (q : Seq) : (c.setSeq n q).rblock = c.rblock := rfl
@[simp] theorem Chip.setSeq_dropped (c : Chip) (n : Nat) (q : Seq) : (c.setSeq n q).dropped = c.dropped := rfl
@[simp] theorem Chip.setSeq_lastReason (c : Chip) (n : Nat) (q : Seq) : (c.setSeq n q).lastReason = c.lastReason := rfl
@[simp] theorem Chip.setSeq_out (c : Chip) (n : Nat) (q : Seq) : (c.setSeq n q).out = c.out := rfl
@[simp] theorem Chip.setSeq_pins (c : Chip) (n : Nat) (q : Seq) : (c.setSeq n q).pins = c.pins := rfl
@[simp] theorem Chip.setSeq_acc (c : Chip) (n : Nat) (q : Seq) : (c.setSeq n q).acc = c.acc := rfl
@[simp] theorem Chip.setSeq_evt (c : Chip) (n : Nat) (q : Seq) : (c.setSeq n q).evt = c.evt := rfl
@[simp] theorem Chip.setSeq_scv (c : Chip) (n : Nat) (q : Seq) : (c.setSeq n q).scv = c.scv := rfl
@[simp] theorem Chip.setSeq_cst (c : Chip) (n : Nat) (q : Seq) : (c.setSeq n q).cst = c.cst := rfl
@[simp] theorem Chip.setSeq_cstBus (c : Chip) (n : Nat) (q : Seq) : (c.setSeq n q).cstBus = c.cstBus := rfl
@[simp] theorem Chip.setSeq_epc (c : Chip) (n : Nat) (q : Seq) : (c.setSeq n q).epc = c.epc := rfl
@[simp] theorem Chip.setSeq_sch (c : Chip) (n : Nat) (q : Seq) : (c.setSeq n q).sch = c.sch := rfl
@[simp] theorem Chip.setSeq_clk (c : Chip) (n : Nat) (q : Seq) : (c.setSeq n q).clk = c.clk := rfl
@[simp] theorem Chip.setSeq_boot (c : Chip) (n : Nat) (q : Seq) : (c.setSeq n q).boot = c.boot := rfl
@[simp] theorem Chip.setSeq_nv (c : Chip) (n : Nat) (q : Seq) : (c.setSeq n q).nv = c.nv := rfl
@[simp] theorem Chip.setSeq_stw (c : Chip) (n : Nat) (q : Seq) : (c.setSeq n q).stw = c.stw := rfl
@[simp] theorem Chip.setSeq_pwr (c : Chip) (n : Nat) (q : Seq) : (c.setSeq n q).pwr = c.pwr := rfl
@[simp] theorem Chip.setSeq_pcie (c : Chip) (n : Nat) (q : Seq) : (c.setSeq n q).pcie = c.pcie := rfl
@[simp] theorem Chip.setSeq_lanes (c : Chip) (n : Nat) (q : Seq) : (c.setSeq n q).lanes = c.lanes := rfl
@[simp] theorem Chip.setSeq_trs (c : Chip) (n : Nat) (q : Seq) : (c.setSeq n q).trs = c.trs := rfl
@[simp] theorem Chip.setSeq_seqHolds (c : Chip) (n : Nat) (q : Seq) : (c.setSeq n q).seqHolds = c.seqHolds := rfl
@[simp] theorem Chip.setSeq_noticeHolds (c : Chip) (n : Nat) (q : Seq) : (c.setSeq n q).noticeHolds = c.noticeHolds := rfl
@[simp] theorem Chip.setSeq_parts (c : Chip) (n : Nat) (q : Seq) : (c.setSeq n q).parts = c.parts := rfl
@[simp] theorem Chip.setSeq_car (c : Chip) (n : Nat) (q : Seq) : (c.setSeq n q).car = c.car := rfl
@[simp] theorem Chip.setSeq_dma (c : Chip) (n : Nat) (q : Seq) : (c.setSeq n q).dma = c.dma := rfl
@[simp] theorem Chip.setSeq_eths (c : Chip) (n : Nat) (q : Seq) : (c.setSeq n q).eths = c.eths := rfl
@[simp] theorem Chip.setSeq_ort (c : Chip) (n : Nat) (q : Seq) : (c.setSeq n q).ort = c.ort := rfl
@[simp] theorem Chip.setSeq_mc (c : Chip) (n : Nat) (q : Seq) : (c.setSeq n q).mc = c.mc := rfl
@[simp] theorem Chip.setSeq_fatal (c : Chip) (n : Nat) (q : Seq) : (c.setSeq n q).fatal = c.fatal := rfl
@[simp] theorem Chip.setSeq_resetReq (c : Chip) (n : Nat) (q : Seq) : (c.setSeq n q).resetReq = c.resetReq := rfl

/-! ### Chip.setPart changes parts only -/

@[simp] theorem Chip.setPart_cycle (c : Chip) (p : Nat) (q : Part) : (c.setPart p q).cycle = c.cycle := rfl
@[simp] theorem Chip.setPart_dwell (c : Chip) (p : Nat) (q : Part) : (c.setPart p q).dwell = c.dwell := rfl
@[simp] theorem Chip.setPart_freeCtr (c : Chip) (p : Nat) (q : Part) : (c.setPart p q).freeCtr = c.freeCtr := rfl
@[simp] theorem Chip.setPart_regs (c : Chip) (p : Nat) (q : Part) : (c.setPart p q).regs = c.regs := rfl
@[simp] theorem Chip.setPart_wcopy (c : Chip) (p : Nat) (q : Part) : (c.setPart p q).wcopy = c.wcopy := rfl
@[simp] theorem Chip.setPart_rdata (c : Chip) (p : Nat) (q : Part) : (c.setPart p q).rdata = c.rdata := rfl
@[simp] theorem Chip.setPart_rblock (c : Chip) (p : Nat) (q : Part) : (c.setPart p q).rblock = c.rblock := rfl
@[simp] theorem Chip.setPart_dropped (c : Chip) (p : Nat) (q : Part) : (c.setPart p q).dropped = c.dropped := rfl
@[simp] theorem Chip.setPart_lastReason (c : Chip) (p : Nat) (q : Part) : (c.setPart p q).lastReason = c.lastReason := rfl
@[simp] theorem Chip.setPart_out (c : Chip) (p : Nat) (q : Part) : (c.setPart p q).out = c.out := rfl
@[simp] theorem Chip.setPart_pins (c : Chip) (p : Nat) (q : Part) : (c.setPart p q).pins = c.pins := rfl
@[simp] theorem Chip.setPart_acc (c : Chip) (p : Nat) (q : Part) : (c.setPart p q).acc = c.acc := rfl
@[simp] theorem Chip.setPart_evt (c : Chip) (p : Nat) (q : Part) : (c.setPart p q).evt = c.evt := rfl
@[simp] theorem Chip.setPart_scv (c : Chip) (p : Nat) (q : Part) : (c.setPart p q).scv = c.scv := rfl
@[simp] theorem Chip.setPart_cst (c : Chip) (p : Nat) (q : Part) : (c.setPart p q).cst = c.cst := rfl
@[simp] theorem Chip.setPart_cstBus (c : Chip) (p : Nat) (q : Part) : (c.setPart p q).cstBus = c.cstBus := rfl
@[simp] theorem Chip.setPart_epc (c : Chip) (p : Nat) (q : Part) : (c.setPart p q).epc = c.epc := rfl
@[simp] theorem Chip.setPart_sch (c : Chip) (p : Nat) (q : Part) : (c.setPart p q).sch = c.sch := rfl
@[simp] theorem Chip.setPart_clk (c : Chip) (p : Nat) (q : Part) : (c.setPart p q).clk = c.clk := rfl
@[simp] theorem Chip.setPart_boot (c : Chip) (p : Nat) (q : Part) : (c.setPart p q).boot = c.boot := rfl
@[simp] theorem Chip.setPart_nv (c : Chip) (p : Nat) (q : Part) : (c.setPart p q).nv = c.nv := rfl
@[simp] theorem Chip.setPart_stw (c : Chip) (p : Nat) (q : Part) : (c.setPart p q).stw = c.stw := rfl
@[simp] theorem Chip.setPart_pwr (c : Chip) (p : Nat) (q : Part) : (c.setPart p q).pwr = c.pwr := rfl
@[simp] theorem Chip.setPart_pcie (c : Chip) (p : Nat) (q : Part) : (c.setPart p q).pcie = c.pcie := rfl
@[simp] theorem Chip.setPart_lanes (c : Chip) (p : Nat) (q : Part) : (c.setPart p q).lanes = c.lanes := rfl
@[simp] theorem Chip.setPart_trs (c : Chip) (p : Nat) (q : Part) : (c.setPart p q).trs = c.trs := rfl
@[simp] theorem Chip.setPart_seqs (c : Chip) (p : Nat) (q : Part) : (c.setPart p q).seqs = c.seqs := rfl
@[simp] theorem Chip.setPart_seqHolds (c : Chip) (p : Nat) (q : Part) : (c.setPart p q).seqHolds = c.seqHolds := rfl
@[simp] theorem Chip.setPart_noticeHolds (c : Chip) (p : Nat) (q : Part) : (c.setPart p q).noticeHolds = c.noticeHolds := rfl
@[simp] theorem Chip.setPart_car (c : Chip) (p : Nat) (q : Part) : (c.setPart p q).car = c.car := rfl
@[simp] theorem Chip.setPart_dma (c : Chip) (p : Nat) (q : Part) : (c.setPart p q).dma = c.dma := rfl
@[simp] theorem Chip.setPart_eths (c : Chip) (p : Nat) (q : Part) : (c.setPart p q).eths = c.eths := rfl
@[simp] theorem Chip.setPart_ort (c : Chip) (p : Nat) (q : Part) : (c.setPart p q).ort = c.ort := rfl
@[simp] theorem Chip.setPart_mc (c : Chip) (p : Nat) (q : Part) : (c.setPart p q).mc = c.mc := rfl
@[simp] theorem Chip.setPart_fatal (c : Chip) (p : Nat) (q : Part) : (c.setPart p q).fatal = c.fatal := rfl
@[simp] theorem Chip.setPart_resetReq (c : Chip) (p : Nat) (q : Part) : (c.setPart p q).resetReq = c.resetReq := rfl

/-! ### Chip.setEth changes eths only -/

@[simp] theorem Chip.setEth_cycle (c : Chip) (n : Nat) (e : EthPort) : (c.setEth n e).cycle = c.cycle := rfl
@[simp] theorem Chip.setEth_dwell (c : Chip) (n : Nat) (e : EthPort) : (c.setEth n e).dwell = c.dwell := rfl
@[simp] theorem Chip.setEth_freeCtr (c : Chip) (n : Nat) (e : EthPort) : (c.setEth n e).freeCtr = c.freeCtr := rfl
@[simp] theorem Chip.setEth_regs (c : Chip) (n : Nat) (e : EthPort) : (c.setEth n e).regs = c.regs := rfl
@[simp] theorem Chip.setEth_wcopy (c : Chip) (n : Nat) (e : EthPort) : (c.setEth n e).wcopy = c.wcopy := rfl
@[simp] theorem Chip.setEth_rdata (c : Chip) (n : Nat) (e : EthPort) : (c.setEth n e).rdata = c.rdata := rfl
@[simp] theorem Chip.setEth_rblock (c : Chip) (n : Nat) (e : EthPort) : (c.setEth n e).rblock = c.rblock := rfl
@[simp] theorem Chip.setEth_dropped (c : Chip) (n : Nat) (e : EthPort) : (c.setEth n e).dropped = c.dropped := rfl
@[simp] theorem Chip.setEth_lastReason (c : Chip) (n : Nat) (e : EthPort) : (c.setEth n e).lastReason = c.lastReason := rfl
@[simp] theorem Chip.setEth_out (c : Chip) (n : Nat) (e : EthPort) : (c.setEth n e).out = c.out := rfl
@[simp] theorem Chip.setEth_pins (c : Chip) (n : Nat) (e : EthPort) : (c.setEth n e).pins = c.pins := rfl
@[simp] theorem Chip.setEth_acc (c : Chip) (n : Nat) (e : EthPort) : (c.setEth n e).acc = c.acc := rfl
@[simp] theorem Chip.setEth_evt (c : Chip) (n : Nat) (e : EthPort) : (c.setEth n e).evt = c.evt := rfl
@[simp] theorem Chip.setEth_scv (c : Chip) (n : Nat) (e : EthPort) : (c.setEth n e).scv = c.scv := rfl
@[simp] theorem Chip.setEth_cst (c : Chip) (n : Nat) (e : EthPort) : (c.setEth n e).cst = c.cst := rfl
@[simp] theorem Chip.setEth_cstBus (c : Chip) (n : Nat) (e : EthPort) : (c.setEth n e).cstBus = c.cstBus := rfl
@[simp] theorem Chip.setEth_epc (c : Chip) (n : Nat) (e : EthPort) : (c.setEth n e).epc = c.epc := rfl
@[simp] theorem Chip.setEth_sch (c : Chip) (n : Nat) (e : EthPort) : (c.setEth n e).sch = c.sch := rfl
@[simp] theorem Chip.setEth_clk (c : Chip) (n : Nat) (e : EthPort) : (c.setEth n e).clk = c.clk := rfl
@[simp] theorem Chip.setEth_boot (c : Chip) (n : Nat) (e : EthPort) : (c.setEth n e).boot = c.boot := rfl
@[simp] theorem Chip.setEth_nv (c : Chip) (n : Nat) (e : EthPort) : (c.setEth n e).nv = c.nv := rfl
@[simp] theorem Chip.setEth_stw (c : Chip) (n : Nat) (e : EthPort) : (c.setEth n e).stw = c.stw := rfl
@[simp] theorem Chip.setEth_pwr (c : Chip) (n : Nat) (e : EthPort) : (c.setEth n e).pwr = c.pwr := rfl
@[simp] theorem Chip.setEth_pcie (c : Chip) (n : Nat) (e : EthPort) : (c.setEth n e).pcie = c.pcie := rfl
@[simp] theorem Chip.setEth_lanes (c : Chip) (n : Nat) (e : EthPort) : (c.setEth n e).lanes = c.lanes := rfl
@[simp] theorem Chip.setEth_trs (c : Chip) (n : Nat) (e : EthPort) : (c.setEth n e).trs = c.trs := rfl
@[simp] theorem Chip.setEth_seqs (c : Chip) (n : Nat) (e : EthPort) : (c.setEth n e).seqs = c.seqs := rfl
@[simp] theorem Chip.setEth_seqHolds (c : Chip) (n : Nat) (e : EthPort) : (c.setEth n e).seqHolds = c.seqHolds := rfl
@[simp] theorem Chip.setEth_noticeHolds (c : Chip) (n : Nat) (e : EthPort) : (c.setEth n e).noticeHolds = c.noticeHolds := rfl
@[simp] theorem Chip.setEth_parts (c : Chip) (n : Nat) (e : EthPort) : (c.setEth n e).parts = c.parts := rfl
@[simp] theorem Chip.setEth_car (c : Chip) (n : Nat) (e : EthPort) : (c.setEth n e).car = c.car := rfl
@[simp] theorem Chip.setEth_dma (c : Chip) (n : Nat) (e : EthPort) : (c.setEth n e).dma = c.dma := rfl
@[simp] theorem Chip.setEth_ort (c : Chip) (n : Nat) (e : EthPort) : (c.setEth n e).ort = c.ort := rfl
@[simp] theorem Chip.setEth_mc (c : Chip) (n : Nat) (e : EthPort) : (c.setEth n e).mc = c.mc := rfl
@[simp] theorem Chip.setEth_fatal (c : Chip) (n : Nat) (e : EthPort) : (c.setEth n e).fatal = c.fatal := rfl
@[simp] theorem Chip.setEth_resetReq (c : Chip) (n : Nat) (e : EthPort) : (c.setEth n e).resetReq = c.resetReq := rfl

/-! ### Chip.setMcCh changes mc only -/

@[simp] theorem Chip.setMcCh_cycle (c : Chip) (n : Nat) (m : McCh) : (c.setMcCh n m).cycle = c.cycle := rfl
@[simp] theorem Chip.setMcCh_dwell (c : Chip) (n : Nat) (m : McCh) : (c.setMcCh n m).dwell = c.dwell := rfl
@[simp] theorem Chip.setMcCh_freeCtr (c : Chip) (n : Nat) (m : McCh) : (c.setMcCh n m).freeCtr = c.freeCtr := rfl
@[simp] theorem Chip.setMcCh_regs (c : Chip) (n : Nat) (m : McCh) : (c.setMcCh n m).regs = c.regs := rfl
@[simp] theorem Chip.setMcCh_wcopy (c : Chip) (n : Nat) (m : McCh) : (c.setMcCh n m).wcopy = c.wcopy := rfl
@[simp] theorem Chip.setMcCh_rdata (c : Chip) (n : Nat) (m : McCh) : (c.setMcCh n m).rdata = c.rdata := rfl
@[simp] theorem Chip.setMcCh_rblock (c : Chip) (n : Nat) (m : McCh) : (c.setMcCh n m).rblock = c.rblock := rfl
@[simp] theorem Chip.setMcCh_dropped (c : Chip) (n : Nat) (m : McCh) : (c.setMcCh n m).dropped = c.dropped := rfl
@[simp] theorem Chip.setMcCh_lastReason (c : Chip) (n : Nat) (m : McCh) : (c.setMcCh n m).lastReason = c.lastReason := rfl
@[simp] theorem Chip.setMcCh_out (c : Chip) (n : Nat) (m : McCh) : (c.setMcCh n m).out = c.out := rfl
@[simp] theorem Chip.setMcCh_pins (c : Chip) (n : Nat) (m : McCh) : (c.setMcCh n m).pins = c.pins := rfl
@[simp] theorem Chip.setMcCh_acc (c : Chip) (n : Nat) (m : McCh) : (c.setMcCh n m).acc = c.acc := rfl
@[simp] theorem Chip.setMcCh_evt (c : Chip) (n : Nat) (m : McCh) : (c.setMcCh n m).evt = c.evt := rfl
@[simp] theorem Chip.setMcCh_scv (c : Chip) (n : Nat) (m : McCh) : (c.setMcCh n m).scv = c.scv := rfl
@[simp] theorem Chip.setMcCh_cst (c : Chip) (n : Nat) (m : McCh) : (c.setMcCh n m).cst = c.cst := rfl
@[simp] theorem Chip.setMcCh_cstBus (c : Chip) (n : Nat) (m : McCh) : (c.setMcCh n m).cstBus = c.cstBus := rfl
@[simp] theorem Chip.setMcCh_epc (c : Chip) (n : Nat) (m : McCh) : (c.setMcCh n m).epc = c.epc := rfl
@[simp] theorem Chip.setMcCh_sch (c : Chip) (n : Nat) (m : McCh) : (c.setMcCh n m).sch = c.sch := rfl
@[simp] theorem Chip.setMcCh_clk (c : Chip) (n : Nat) (m : McCh) : (c.setMcCh n m).clk = c.clk := rfl
@[simp] theorem Chip.setMcCh_boot (c : Chip) (n : Nat) (m : McCh) : (c.setMcCh n m).boot = c.boot := rfl
@[simp] theorem Chip.setMcCh_nv (c : Chip) (n : Nat) (m : McCh) : (c.setMcCh n m).nv = c.nv := rfl
@[simp] theorem Chip.setMcCh_stw (c : Chip) (n : Nat) (m : McCh) : (c.setMcCh n m).stw = c.stw := rfl
@[simp] theorem Chip.setMcCh_pwr (c : Chip) (n : Nat) (m : McCh) : (c.setMcCh n m).pwr = c.pwr := rfl
@[simp] theorem Chip.setMcCh_pcie (c : Chip) (n : Nat) (m : McCh) : (c.setMcCh n m).pcie = c.pcie := rfl
@[simp] theorem Chip.setMcCh_lanes (c : Chip) (n : Nat) (m : McCh) : (c.setMcCh n m).lanes = c.lanes := rfl
@[simp] theorem Chip.setMcCh_trs (c : Chip) (n : Nat) (m : McCh) : (c.setMcCh n m).trs = c.trs := rfl
@[simp] theorem Chip.setMcCh_seqs (c : Chip) (n : Nat) (m : McCh) : (c.setMcCh n m).seqs = c.seqs := rfl
@[simp] theorem Chip.setMcCh_seqHolds (c : Chip) (n : Nat) (m : McCh) : (c.setMcCh n m).seqHolds = c.seqHolds := rfl
@[simp] theorem Chip.setMcCh_noticeHolds (c : Chip) (n : Nat) (m : McCh) : (c.setMcCh n m).noticeHolds = c.noticeHolds := rfl
@[simp] theorem Chip.setMcCh_parts (c : Chip) (n : Nat) (m : McCh) : (c.setMcCh n m).parts = c.parts := rfl
@[simp] theorem Chip.setMcCh_car (c : Chip) (n : Nat) (m : McCh) : (c.setMcCh n m).car = c.car := rfl
@[simp] theorem Chip.setMcCh_dma (c : Chip) (n : Nat) (m : McCh) : (c.setMcCh n m).dma = c.dma := rfl
@[simp] theorem Chip.setMcCh_eths (c : Chip) (n : Nat) (m : McCh) : (c.setMcCh n m).eths = c.eths := rfl
@[simp] theorem Chip.setMcCh_ort (c : Chip) (n : Nat) (m : McCh) : (c.setMcCh n m).ort = c.ort := rfl
@[simp] theorem Chip.setMcCh_fatal (c : Chip) (n : Nat) (m : McCh) : (c.setMcCh n m).fatal = c.fatal := rfl
@[simp] theorem Chip.setMcCh_resetReq (c : Chip) (n : Nat) (m : McCh) : (c.setMcCh n m).resetReq = c.resetReq := rfl

/-! ### Chip.setSch changes sch only -/

@[simp] theorem Chip.setSch_cycle (c : Chip) (k : Nat) (e : SchEntry) : (c.setSch k e).cycle = c.cycle := rfl
@[simp] theorem Chip.setSch_dwell (c : Chip) (k : Nat) (e : SchEntry) : (c.setSch k e).dwell = c.dwell := rfl
@[simp] theorem Chip.setSch_freeCtr (c : Chip) (k : Nat) (e : SchEntry) : (c.setSch k e).freeCtr = c.freeCtr := rfl
@[simp] theorem Chip.setSch_regs (c : Chip) (k : Nat) (e : SchEntry) : (c.setSch k e).regs = c.regs := rfl
@[simp] theorem Chip.setSch_wcopy (c : Chip) (k : Nat) (e : SchEntry) : (c.setSch k e).wcopy = c.wcopy := rfl
@[simp] theorem Chip.setSch_rdata (c : Chip) (k : Nat) (e : SchEntry) : (c.setSch k e).rdata = c.rdata := rfl
@[simp] theorem Chip.setSch_rblock (c : Chip) (k : Nat) (e : SchEntry) : (c.setSch k e).rblock = c.rblock := rfl
@[simp] theorem Chip.setSch_dropped (c : Chip) (k : Nat) (e : SchEntry) : (c.setSch k e).dropped = c.dropped := rfl
@[simp] theorem Chip.setSch_lastReason (c : Chip) (k : Nat) (e : SchEntry) : (c.setSch k e).lastReason = c.lastReason := rfl
@[simp] theorem Chip.setSch_out (c : Chip) (k : Nat) (e : SchEntry) : (c.setSch k e).out = c.out := rfl
@[simp] theorem Chip.setSch_pins (c : Chip) (k : Nat) (e : SchEntry) : (c.setSch k e).pins = c.pins := rfl
@[simp] theorem Chip.setSch_acc (c : Chip) (k : Nat) (e : SchEntry) : (c.setSch k e).acc = c.acc := rfl
@[simp] theorem Chip.setSch_evt (c : Chip) (k : Nat) (e : SchEntry) : (c.setSch k e).evt = c.evt := rfl
@[simp] theorem Chip.setSch_scv (c : Chip) (k : Nat) (e : SchEntry) : (c.setSch k e).scv = c.scv := rfl
@[simp] theorem Chip.setSch_cst (c : Chip) (k : Nat) (e : SchEntry) : (c.setSch k e).cst = c.cst := rfl
@[simp] theorem Chip.setSch_cstBus (c : Chip) (k : Nat) (e : SchEntry) : (c.setSch k e).cstBus = c.cstBus := rfl
@[simp] theorem Chip.setSch_epc (c : Chip) (k : Nat) (e : SchEntry) : (c.setSch k e).epc = c.epc := rfl
@[simp] theorem Chip.setSch_clk (c : Chip) (k : Nat) (e : SchEntry) : (c.setSch k e).clk = c.clk := rfl
@[simp] theorem Chip.setSch_boot (c : Chip) (k : Nat) (e : SchEntry) : (c.setSch k e).boot = c.boot := rfl
@[simp] theorem Chip.setSch_nv (c : Chip) (k : Nat) (e : SchEntry) : (c.setSch k e).nv = c.nv := rfl
@[simp] theorem Chip.setSch_stw (c : Chip) (k : Nat) (e : SchEntry) : (c.setSch k e).stw = c.stw := rfl
@[simp] theorem Chip.setSch_pwr (c : Chip) (k : Nat) (e : SchEntry) : (c.setSch k e).pwr = c.pwr := rfl
@[simp] theorem Chip.setSch_pcie (c : Chip) (k : Nat) (e : SchEntry) : (c.setSch k e).pcie = c.pcie := rfl
@[simp] theorem Chip.setSch_lanes (c : Chip) (k : Nat) (e : SchEntry) : (c.setSch k e).lanes = c.lanes := rfl
@[simp] theorem Chip.setSch_trs (c : Chip) (k : Nat) (e : SchEntry) : (c.setSch k e).trs = c.trs := rfl
@[simp] theorem Chip.setSch_seqs (c : Chip) (k : Nat) (e : SchEntry) : (c.setSch k e).seqs = c.seqs := rfl
@[simp] theorem Chip.setSch_seqHolds (c : Chip) (k : Nat) (e : SchEntry) : (c.setSch k e).seqHolds = c.seqHolds := rfl
@[simp] theorem Chip.setSch_noticeHolds (c : Chip) (k : Nat) (e : SchEntry) : (c.setSch k e).noticeHolds = c.noticeHolds := rfl
@[simp] theorem Chip.setSch_parts (c : Chip) (k : Nat) (e : SchEntry) : (c.setSch k e).parts = c.parts := rfl
@[simp] theorem Chip.setSch_car (c : Chip) (k : Nat) (e : SchEntry) : (c.setSch k e).car = c.car := rfl
@[simp] theorem Chip.setSch_dma (c : Chip) (k : Nat) (e : SchEntry) : (c.setSch k e).dma = c.dma := rfl
@[simp] theorem Chip.setSch_eths (c : Chip) (k : Nat) (e : SchEntry) : (c.setSch k e).eths = c.eths := rfl
@[simp] theorem Chip.setSch_ort (c : Chip) (k : Nat) (e : SchEntry) : (c.setSch k e).ort = c.ort := rfl
@[simp] theorem Chip.setSch_mc (c : Chip) (k : Nat) (e : SchEntry) : (c.setSch k e).mc = c.mc := rfl
@[simp] theorem Chip.setSch_fatal (c : Chip) (k : Nat) (e : SchEntry) : (c.setSch k e).fatal = c.fatal := rfl
@[simp] theorem Chip.setSch_resetReq (c : Chip) (k : Nat) (e : SchEntry) : (c.setSch k e).resetReq = c.resetReq := rfl

/-! ### Chip.used changes freeCtr only -/

@[simp] theorem Chip.used_cycle (c : Chip) : (c.used).cycle = c.cycle := rfl
@[simp] theorem Chip.used_dwell (c : Chip) : (c.used).dwell = c.dwell := rfl
@[simp] theorem Chip.used_regs (c : Chip) : (c.used).regs = c.regs := rfl
@[simp] theorem Chip.used_wcopy (c : Chip) : (c.used).wcopy = c.wcopy := rfl
@[simp] theorem Chip.used_rdata (c : Chip) : (c.used).rdata = c.rdata := rfl
@[simp] theorem Chip.used_rblock (c : Chip) : (c.used).rblock = c.rblock := rfl
@[simp] theorem Chip.used_dropped (c : Chip) : (c.used).dropped = c.dropped := rfl
@[simp] theorem Chip.used_lastReason (c : Chip) : (c.used).lastReason = c.lastReason := rfl
@[simp] theorem Chip.used_out (c : Chip) : (c.used).out = c.out := rfl
@[simp] theorem Chip.used_pins (c : Chip) : (c.used).pins = c.pins := rfl
@[simp] theorem Chip.used_acc (c : Chip) : (c.used).acc = c.acc := rfl
@[simp] theorem Chip.used_evt (c : Chip) : (c.used).evt = c.evt := rfl
@[simp] theorem Chip.used_scv (c : Chip) : (c.used).scv = c.scv := rfl
@[simp] theorem Chip.used_cst (c : Chip) : (c.used).cst = c.cst := rfl
@[simp] theorem Chip.used_cstBus (c : Chip) : (c.used).cstBus = c.cstBus := rfl
@[simp] theorem Chip.used_epc (c : Chip) : (c.used).epc = c.epc := rfl
@[simp] theorem Chip.used_sch (c : Chip) : (c.used).sch = c.sch := rfl
@[simp] theorem Chip.used_clk (c : Chip) : (c.used).clk = c.clk := rfl
@[simp] theorem Chip.used_boot (c : Chip) : (c.used).boot = c.boot := rfl
@[simp] theorem Chip.used_nv (c : Chip) : (c.used).nv = c.nv := rfl
@[simp] theorem Chip.used_stw (c : Chip) : (c.used).stw = c.stw := rfl
@[simp] theorem Chip.used_pwr (c : Chip) : (c.used).pwr = c.pwr := rfl
@[simp] theorem Chip.used_pcie (c : Chip) : (c.used).pcie = c.pcie := rfl
@[simp] theorem Chip.used_lanes (c : Chip) : (c.used).lanes = c.lanes := rfl
@[simp] theorem Chip.used_trs (c : Chip) : (c.used).trs = c.trs := rfl
@[simp] theorem Chip.used_seqs (c : Chip) : (c.used).seqs = c.seqs := rfl
@[simp] theorem Chip.used_seqHolds (c : Chip) : (c.used).seqHolds = c.seqHolds := rfl
@[simp] theorem Chip.used_noticeHolds (c : Chip) : (c.used).noticeHolds = c.noticeHolds := rfl
@[simp] theorem Chip.used_parts (c : Chip) : (c.used).parts = c.parts := rfl
@[simp] theorem Chip.used_car (c : Chip) : (c.used).car = c.car := rfl
@[simp] theorem Chip.used_dma (c : Chip) : (c.used).dma = c.dma := rfl
@[simp] theorem Chip.used_eths (c : Chip) : (c.used).eths = c.eths := rfl
@[simp] theorem Chip.used_ort (c : Chip) : (c.used).ort = c.ort := rfl
@[simp] theorem Chip.used_mc (c : Chip) : (c.used).mc = c.mc := rfl
@[simp] theorem Chip.used_fatal (c : Chip) : (c.used).fatal = c.fatal := rfl
@[simp] theorem Chip.used_resetReq (c : Chip) : (c.used).resetReq = c.resetReq := rfl

/-! ### Chip.emit changes out only -/

@[simp] theorem Chip.emit_cycle (c : Chip) (o : Out) : (c.emit o).cycle = c.cycle := rfl
@[simp] theorem Chip.emit_dwell (c : Chip) (o : Out) : (c.emit o).dwell = c.dwell := rfl
@[simp] theorem Chip.emit_freeCtr (c : Chip) (o : Out) : (c.emit o).freeCtr = c.freeCtr := rfl
@[simp] theorem Chip.emit_regs (c : Chip) (o : Out) : (c.emit o).regs = c.regs := rfl
@[simp] theorem Chip.emit_wcopy (c : Chip) (o : Out) : (c.emit o).wcopy = c.wcopy := rfl
@[simp] theorem Chip.emit_rdata (c : Chip) (o : Out) : (c.emit o).rdata = c.rdata := rfl
@[simp] theorem Chip.emit_rblock (c : Chip) (o : Out) : (c.emit o).rblock = c.rblock := rfl
@[simp] theorem Chip.emit_dropped (c : Chip) (o : Out) : (c.emit o).dropped = c.dropped := rfl
@[simp] theorem Chip.emit_lastReason (c : Chip) (o : Out) : (c.emit o).lastReason = c.lastReason := rfl
@[simp] theorem Chip.emit_pins (c : Chip) (o : Out) : (c.emit o).pins = c.pins := rfl
@[simp] theorem Chip.emit_acc (c : Chip) (o : Out) : (c.emit o).acc = c.acc := rfl
@[simp] theorem Chip.emit_evt (c : Chip) (o : Out) : (c.emit o).evt = c.evt := rfl
@[simp] theorem Chip.emit_scv (c : Chip) (o : Out) : (c.emit o).scv = c.scv := rfl
@[simp] theorem Chip.emit_cst (c : Chip) (o : Out) : (c.emit o).cst = c.cst := rfl
@[simp] theorem Chip.emit_cstBus (c : Chip) (o : Out) : (c.emit o).cstBus = c.cstBus := rfl
@[simp] theorem Chip.emit_epc (c : Chip) (o : Out) : (c.emit o).epc = c.epc := rfl
@[simp] theorem Chip.emit_sch (c : Chip) (o : Out) : (c.emit o).sch = c.sch := rfl
@[simp] theorem Chip.emit_clk (c : Chip) (o : Out) : (c.emit o).clk = c.clk := rfl
@[simp] theorem Chip.emit_boot (c : Chip) (o : Out) : (c.emit o).boot = c.boot := rfl
@[simp] theorem Chip.emit_nv (c : Chip) (o : Out) : (c.emit o).nv = c.nv := rfl
@[simp] theorem Chip.emit_stw (c : Chip) (o : Out) : (c.emit o).stw = c.stw := rfl
@[simp] theorem Chip.emit_pwr (c : Chip) (o : Out) : (c.emit o).pwr = c.pwr := rfl
@[simp] theorem Chip.emit_pcie (c : Chip) (o : Out) : (c.emit o).pcie = c.pcie := rfl
@[simp] theorem Chip.emit_lanes (c : Chip) (o : Out) : (c.emit o).lanes = c.lanes := rfl
@[simp] theorem Chip.emit_trs (c : Chip) (o : Out) : (c.emit o).trs = c.trs := rfl
@[simp] theorem Chip.emit_seqs (c : Chip) (o : Out) : (c.emit o).seqs = c.seqs := rfl
@[simp] theorem Chip.emit_seqHolds (c : Chip) (o : Out) : (c.emit o).seqHolds = c.seqHolds := rfl
@[simp] theorem Chip.emit_noticeHolds (c : Chip) (o : Out) : (c.emit o).noticeHolds = c.noticeHolds := rfl
@[simp] theorem Chip.emit_parts (c : Chip) (o : Out) : (c.emit o).parts = c.parts := rfl
@[simp] theorem Chip.emit_car (c : Chip) (o : Out) : (c.emit o).car = c.car := rfl
@[simp] theorem Chip.emit_dma (c : Chip) (o : Out) : (c.emit o).dma = c.dma := rfl
@[simp] theorem Chip.emit_eths (c : Chip) (o : Out) : (c.emit o).eths = c.eths := rfl
@[simp] theorem Chip.emit_ort (c : Chip) (o : Out) : (c.emit o).ort = c.ort := rfl
@[simp] theorem Chip.emit_mc (c : Chip) (o : Out) : (c.emit o).mc = c.mc := rfl
@[simp] theorem Chip.emit_fatal (c : Chip) (o : Out) : (c.emit o).fatal = c.fatal := rfl
@[simp] theorem Chip.emit_resetReq (c : Chip) (o : Out) : (c.emit o).resetReq = c.resetReq := rfl

/-! ### Chip.pass changes cycle and epc only -/

/-- Time changes the cycle counter and the keeper. -/
theorem Chip.pass_eq (c : Chip) (n : Nat) : ∃ k e, c.pass n = { c with cycle := k, epc := e } := ⟨_, _, rfl⟩

@[simp] theorem Chip.pass_dwell (c : Chip) (n : Nat) : (c.pass n).dwell = c.dwell := by obtain ⟨k, e, h⟩ := c.pass_eq n; rw [h]
@[simp] theorem Chip.pass_freeCtr (c : Chip) (n : Nat) : (c.pass n).freeCtr = c.freeCtr := by obtain ⟨k, e, h⟩ := c.pass_eq n; rw [h]
@[simp] theorem Chip.pass_regs (c : Chip) (n : Nat) : (c.pass n).regs = c.regs := by obtain ⟨k, e, h⟩ := c.pass_eq n; rw [h]
@[simp] theorem Chip.pass_wcopy (c : Chip) (n : Nat) : (c.pass n).wcopy = c.wcopy := by obtain ⟨k, e, h⟩ := c.pass_eq n; rw [h]
@[simp] theorem Chip.pass_rdata (c : Chip) (n : Nat) : (c.pass n).rdata = c.rdata := by obtain ⟨k, e, h⟩ := c.pass_eq n; rw [h]
@[simp] theorem Chip.pass_rblock (c : Chip) (n : Nat) : (c.pass n).rblock = c.rblock := by obtain ⟨k, e, h⟩ := c.pass_eq n; rw [h]
@[simp] theorem Chip.pass_dropped (c : Chip) (n : Nat) : (c.pass n).dropped = c.dropped := by obtain ⟨k, e, h⟩ := c.pass_eq n; rw [h]
@[simp] theorem Chip.pass_lastReason (c : Chip) (n : Nat) : (c.pass n).lastReason = c.lastReason := by obtain ⟨k, e, h⟩ := c.pass_eq n; rw [h]
@[simp] theorem Chip.pass_out (c : Chip) (n : Nat) : (c.pass n).out = c.out := by obtain ⟨k, e, h⟩ := c.pass_eq n; rw [h]
@[simp] theorem Chip.pass_pins (c : Chip) (n : Nat) : (c.pass n).pins = c.pins := by obtain ⟨k, e, h⟩ := c.pass_eq n; rw [h]
@[simp] theorem Chip.pass_acc (c : Chip) (n : Nat) : (c.pass n).acc = c.acc := by obtain ⟨k, e, h⟩ := c.pass_eq n; rw [h]
@[simp] theorem Chip.pass_evt (c : Chip) (n : Nat) : (c.pass n).evt = c.evt := by obtain ⟨k, e, h⟩ := c.pass_eq n; rw [h]
@[simp] theorem Chip.pass_scv (c : Chip) (n : Nat) : (c.pass n).scv = c.scv := by obtain ⟨k, e, h⟩ := c.pass_eq n; rw [h]
@[simp] theorem Chip.pass_cst (c : Chip) (n : Nat) : (c.pass n).cst = c.cst := by obtain ⟨k, e, h⟩ := c.pass_eq n; rw [h]
@[simp] theorem Chip.pass_cstBus (c : Chip) (n : Nat) : (c.pass n).cstBus = c.cstBus := by obtain ⟨k, e, h⟩ := c.pass_eq n; rw [h]
@[simp] theorem Chip.pass_sch (c : Chip) (n : Nat) : (c.pass n).sch = c.sch := by obtain ⟨k, e, h⟩ := c.pass_eq n; rw [h]
@[simp] theorem Chip.pass_clk (c : Chip) (n : Nat) : (c.pass n).clk = c.clk := by obtain ⟨k, e, h⟩ := c.pass_eq n; rw [h]
@[simp] theorem Chip.pass_boot (c : Chip) (n : Nat) : (c.pass n).boot = c.boot := by obtain ⟨k, e, h⟩ := c.pass_eq n; rw [h]
@[simp] theorem Chip.pass_nv (c : Chip) (n : Nat) : (c.pass n).nv = c.nv := by obtain ⟨k, e, h⟩ := c.pass_eq n; rw [h]
@[simp] theorem Chip.pass_stw (c : Chip) (n : Nat) : (c.pass n).stw = c.stw := by obtain ⟨k, e, h⟩ := c.pass_eq n; rw [h]
@[simp] theorem Chip.pass_pwr (c : Chip) (n : Nat) : (c.pass n).pwr = c.pwr := by obtain ⟨k, e, h⟩ := c.pass_eq n; rw [h]
@[simp] theorem Chip.pass_pcie (c : Chip) (n : Nat) : (c.pass n).pcie = c.pcie := by obtain ⟨k, e, h⟩ := c.pass_eq n; rw [h]
@[simp] theorem Chip.pass_lanes (c : Chip) (n : Nat) : (c.pass n).lanes = c.lanes := by obtain ⟨k, e, h⟩ := c.pass_eq n; rw [h]
@[simp] theorem Chip.pass_trs (c : Chip) (n : Nat) : (c.pass n).trs = c.trs := by obtain ⟨k, e, h⟩ := c.pass_eq n; rw [h]
@[simp] theorem Chip.pass_seqs (c : Chip) (n : Nat) : (c.pass n).seqs = c.seqs := by obtain ⟨k, e, h⟩ := c.pass_eq n; rw [h]
@[simp] theorem Chip.pass_seqHolds (c : Chip) (n : Nat) : (c.pass n).seqHolds = c.seqHolds := by obtain ⟨k, e, h⟩ := c.pass_eq n; rw [h]
@[simp] theorem Chip.pass_noticeHolds (c : Chip) (n : Nat) : (c.pass n).noticeHolds = c.noticeHolds := by obtain ⟨k, e, h⟩ := c.pass_eq n; rw [h]
@[simp] theorem Chip.pass_parts (c : Chip) (n : Nat) : (c.pass n).parts = c.parts := by obtain ⟨k, e, h⟩ := c.pass_eq n; rw [h]
@[simp] theorem Chip.pass_car (c : Chip) (n : Nat) : (c.pass n).car = c.car := by obtain ⟨k, e, h⟩ := c.pass_eq n; rw [h]
@[simp] theorem Chip.pass_dma (c : Chip) (n : Nat) : (c.pass n).dma = c.dma := by obtain ⟨k, e, h⟩ := c.pass_eq n; rw [h]
@[simp] theorem Chip.pass_eths (c : Chip) (n : Nat) : (c.pass n).eths = c.eths := by obtain ⟨k, e, h⟩ := c.pass_eq n; rw [h]
@[simp] theorem Chip.pass_ort (c : Chip) (n : Nat) : (c.pass n).ort = c.ort := by obtain ⟨k, e, h⟩ := c.pass_eq n; rw [h]
@[simp] theorem Chip.pass_mc (c : Chip) (n : Nat) : (c.pass n).mc = c.mc := by obtain ⟨k, e, h⟩ := c.pass_eq n; rw [h]
@[simp] theorem Chip.pass_fatal (c : Chip) (n : Nat) : (c.pass n).fatal = c.fatal := by obtain ⟨k, e, h⟩ := c.pass_eq n; rw [h]
@[simp] theorem Chip.pass_resetReq (c : Chip) (n : Nat) : (c.pass n).resetReq = c.resetReq := by obtain ⟨k, e, h⟩ := c.pass_eq n; rw [h]

/-! ### Chip.setEvent changes regs and evt only -/

/-- Raising an event writes one register and the event counts. -/
theorem Chip.setEvent_eq (c : Chip) (n b : Nat) :
    ∃ v w e, c.setEvent n b = { c.setN v w with evt := e } := ⟨R.EVT_STAT n, _, _, rfl⟩

@[simp] theorem Chip.setEvent_cycle (c : Chip) (n b : Nat) : (c.setEvent n b).cycle = c.cycle := by obtain ⟨a, v, e, h⟩ := c.setEvent_eq n b; rw [h]; rfl
@[simp] theorem Chip.setEvent_dwell (c : Chip) (n b : Nat) : (c.setEvent n b).dwell = c.dwell := by obtain ⟨a, v, e, h⟩ := c.setEvent_eq n b; rw [h]; rfl
@[simp] theorem Chip.setEvent_freeCtr (c : Chip) (n b : Nat) : (c.setEvent n b).freeCtr = c.freeCtr := by obtain ⟨a, v, e, h⟩ := c.setEvent_eq n b; rw [h]; rfl
@[simp] theorem Chip.setEvent_wcopy (c : Chip) (n b : Nat) : (c.setEvent n b).wcopy = c.wcopy := by obtain ⟨a, v, e, h⟩ := c.setEvent_eq n b; rw [h]; rfl
@[simp] theorem Chip.setEvent_rdata (c : Chip) (n b : Nat) : (c.setEvent n b).rdata = c.rdata := by obtain ⟨a, v, e, h⟩ := c.setEvent_eq n b; rw [h]; rfl
@[simp] theorem Chip.setEvent_rblock (c : Chip) (n b : Nat) : (c.setEvent n b).rblock = c.rblock := by obtain ⟨a, v, e, h⟩ := c.setEvent_eq n b; rw [h]; rfl
@[simp] theorem Chip.setEvent_dropped (c : Chip) (n b : Nat) : (c.setEvent n b).dropped = c.dropped := by obtain ⟨a, v, e, h⟩ := c.setEvent_eq n b; rw [h]; rfl
@[simp] theorem Chip.setEvent_lastReason (c : Chip) (n b : Nat) : (c.setEvent n b).lastReason = c.lastReason := by obtain ⟨a, v, e, h⟩ := c.setEvent_eq n b; rw [h]; rfl
@[simp] theorem Chip.setEvent_out (c : Chip) (n b : Nat) : (c.setEvent n b).out = c.out := by obtain ⟨a, v, e, h⟩ := c.setEvent_eq n b; rw [h]; rfl
@[simp] theorem Chip.setEvent_pins (c : Chip) (n b : Nat) : (c.setEvent n b).pins = c.pins := by obtain ⟨a, v, e, h⟩ := c.setEvent_eq n b; rw [h]; rfl
@[simp] theorem Chip.setEvent_acc (c : Chip) (n b : Nat) : (c.setEvent n b).acc = c.acc := by obtain ⟨a, v, e, h⟩ := c.setEvent_eq n b; rw [h]; rfl
@[simp] theorem Chip.setEvent_scv (c : Chip) (n b : Nat) : (c.setEvent n b).scv = c.scv := by obtain ⟨a, v, e, h⟩ := c.setEvent_eq n b; rw [h]; rfl
@[simp] theorem Chip.setEvent_cst (c : Chip) (n b : Nat) : (c.setEvent n b).cst = c.cst := by obtain ⟨a, v, e, h⟩ := c.setEvent_eq n b; rw [h]; rfl
@[simp] theorem Chip.setEvent_cstBus (c : Chip) (n b : Nat) : (c.setEvent n b).cstBus = c.cstBus := by obtain ⟨a, v, e, h⟩ := c.setEvent_eq n b; rw [h]; rfl
@[simp] theorem Chip.setEvent_epc (c : Chip) (n b : Nat) : (c.setEvent n b).epc = c.epc := by obtain ⟨a, v, e, h⟩ := c.setEvent_eq n b; rw [h]; rfl
@[simp] theorem Chip.setEvent_sch (c : Chip) (n b : Nat) : (c.setEvent n b).sch = c.sch := by obtain ⟨a, v, e, h⟩ := c.setEvent_eq n b; rw [h]; rfl
@[simp] theorem Chip.setEvent_clk (c : Chip) (n b : Nat) : (c.setEvent n b).clk = c.clk := by obtain ⟨a, v, e, h⟩ := c.setEvent_eq n b; rw [h]; rfl
@[simp] theorem Chip.setEvent_boot (c : Chip) (n b : Nat) : (c.setEvent n b).boot = c.boot := by obtain ⟨a, v, e, h⟩ := c.setEvent_eq n b; rw [h]; rfl
@[simp] theorem Chip.setEvent_nv (c : Chip) (n b : Nat) : (c.setEvent n b).nv = c.nv := by obtain ⟨a, v, e, h⟩ := c.setEvent_eq n b; rw [h]; rfl
@[simp] theorem Chip.setEvent_stw (c : Chip) (n b : Nat) : (c.setEvent n b).stw = c.stw := by obtain ⟨a, v, e, h⟩ := c.setEvent_eq n b; rw [h]; rfl
@[simp] theorem Chip.setEvent_pwr (c : Chip) (n b : Nat) : (c.setEvent n b).pwr = c.pwr := by obtain ⟨a, v, e, h⟩ := c.setEvent_eq n b; rw [h]; rfl
@[simp] theorem Chip.setEvent_pcie (c : Chip) (n b : Nat) : (c.setEvent n b).pcie = c.pcie := by obtain ⟨a, v, e, h⟩ := c.setEvent_eq n b; rw [h]; rfl
@[simp] theorem Chip.setEvent_lanes (c : Chip) (n b : Nat) : (c.setEvent n b).lanes = c.lanes := by obtain ⟨a, v, e, h⟩ := c.setEvent_eq n b; rw [h]; rfl
@[simp] theorem Chip.setEvent_trs (c : Chip) (n b : Nat) : (c.setEvent n b).trs = c.trs := by obtain ⟨a, v, e, h⟩ := c.setEvent_eq n b; rw [h]; rfl
@[simp] theorem Chip.setEvent_seqs (c : Chip) (n b : Nat) : (c.setEvent n b).seqs = c.seqs := by obtain ⟨a, v, e, h⟩ := c.setEvent_eq n b; rw [h]; rfl
@[simp] theorem Chip.setEvent_seqHolds (c : Chip) (n b : Nat) : (c.setEvent n b).seqHolds = c.seqHolds := by obtain ⟨a, v, e, h⟩ := c.setEvent_eq n b; rw [h]; rfl
@[simp] theorem Chip.setEvent_noticeHolds (c : Chip) (n b : Nat) : (c.setEvent n b).noticeHolds = c.noticeHolds := by obtain ⟨a, v, e, h⟩ := c.setEvent_eq n b; rw [h]; rfl
@[simp] theorem Chip.setEvent_parts (c : Chip) (n b : Nat) : (c.setEvent n b).parts = c.parts := by obtain ⟨a, v, e, h⟩ := c.setEvent_eq n b; rw [h]; rfl
@[simp] theorem Chip.setEvent_car (c : Chip) (n b : Nat) : (c.setEvent n b).car = c.car := by obtain ⟨a, v, e, h⟩ := c.setEvent_eq n b; rw [h]; rfl
@[simp] theorem Chip.setEvent_dma (c : Chip) (n b : Nat) : (c.setEvent n b).dma = c.dma := by obtain ⟨a, v, e, h⟩ := c.setEvent_eq n b; rw [h]; rfl
@[simp] theorem Chip.setEvent_eths (c : Chip) (n b : Nat) : (c.setEvent n b).eths = c.eths := by obtain ⟨a, v, e, h⟩ := c.setEvent_eq n b; rw [h]; rfl
@[simp] theorem Chip.setEvent_ort (c : Chip) (n b : Nat) : (c.setEvent n b).ort = c.ort := by obtain ⟨a, v, e, h⟩ := c.setEvent_eq n b; rw [h]; rfl
@[simp] theorem Chip.setEvent_mc (c : Chip) (n b : Nat) : (c.setEvent n b).mc = c.mc := by obtain ⟨a, v, e, h⟩ := c.setEvent_eq n b; rw [h]; rfl
@[simp] theorem Chip.setEvent_fatal (c : Chip) (n b : Nat) : (c.setEvent n b).fatal = c.fatal := by obtain ⟨a, v, e, h⟩ := c.setEvent_eq n b; rw [h]; rfl
@[simp] theorem Chip.setEvent_resetReq (c : Chip) (n b : Nat) : (c.setEvent n b).resetReq = c.resetReq := by obtain ⟨a, v, e, h⟩ := c.setEvent_eq n b; rw [h]; rfl

/-! ### Chip.raiseTyped changes regs and evt only -/

@[simp] theorem Chip.raiseTyped_cycle (c : Chip) (e : Nat × Nat) : (c.raiseTyped e).cycle = c.cycle := c.setEvent_cycle e.1 e.2
@[simp] theorem Chip.raiseTyped_dwell (c : Chip) (e : Nat × Nat) : (c.raiseTyped e).dwell = c.dwell := c.setEvent_dwell e.1 e.2
@[simp] theorem Chip.raiseTyped_freeCtr (c : Chip) (e : Nat × Nat) : (c.raiseTyped e).freeCtr = c.freeCtr := c.setEvent_freeCtr e.1 e.2
@[simp] theorem Chip.raiseTyped_wcopy (c : Chip) (e : Nat × Nat) : (c.raiseTyped e).wcopy = c.wcopy := c.setEvent_wcopy e.1 e.2
@[simp] theorem Chip.raiseTyped_rdata (c : Chip) (e : Nat × Nat) : (c.raiseTyped e).rdata = c.rdata := c.setEvent_rdata e.1 e.2
@[simp] theorem Chip.raiseTyped_rblock (c : Chip) (e : Nat × Nat) : (c.raiseTyped e).rblock = c.rblock := c.setEvent_rblock e.1 e.2
@[simp] theorem Chip.raiseTyped_dropped (c : Chip) (e : Nat × Nat) : (c.raiseTyped e).dropped = c.dropped := c.setEvent_dropped e.1 e.2
@[simp] theorem Chip.raiseTyped_lastReason (c : Chip) (e : Nat × Nat) : (c.raiseTyped e).lastReason = c.lastReason := c.setEvent_lastReason e.1 e.2
@[simp] theorem Chip.raiseTyped_out (c : Chip) (e : Nat × Nat) : (c.raiseTyped e).out = c.out := c.setEvent_out e.1 e.2
@[simp] theorem Chip.raiseTyped_pins (c : Chip) (e : Nat × Nat) : (c.raiseTyped e).pins = c.pins := c.setEvent_pins e.1 e.2
@[simp] theorem Chip.raiseTyped_acc (c : Chip) (e : Nat × Nat) : (c.raiseTyped e).acc = c.acc := c.setEvent_acc e.1 e.2
@[simp] theorem Chip.raiseTyped_scv (c : Chip) (e : Nat × Nat) : (c.raiseTyped e).scv = c.scv := c.setEvent_scv e.1 e.2
@[simp] theorem Chip.raiseTyped_cst (c : Chip) (e : Nat × Nat) : (c.raiseTyped e).cst = c.cst := c.setEvent_cst e.1 e.2
@[simp] theorem Chip.raiseTyped_cstBus (c : Chip) (e : Nat × Nat) : (c.raiseTyped e).cstBus = c.cstBus := c.setEvent_cstBus e.1 e.2
@[simp] theorem Chip.raiseTyped_epc (c : Chip) (e : Nat × Nat) : (c.raiseTyped e).epc = c.epc := c.setEvent_epc e.1 e.2
@[simp] theorem Chip.raiseTyped_sch (c : Chip) (e : Nat × Nat) : (c.raiseTyped e).sch = c.sch := c.setEvent_sch e.1 e.2
@[simp] theorem Chip.raiseTyped_clk (c : Chip) (e : Nat × Nat) : (c.raiseTyped e).clk = c.clk := c.setEvent_clk e.1 e.2
@[simp] theorem Chip.raiseTyped_boot (c : Chip) (e : Nat × Nat) : (c.raiseTyped e).boot = c.boot := c.setEvent_boot e.1 e.2
@[simp] theorem Chip.raiseTyped_nv (c : Chip) (e : Nat × Nat) : (c.raiseTyped e).nv = c.nv := c.setEvent_nv e.1 e.2
@[simp] theorem Chip.raiseTyped_stw (c : Chip) (e : Nat × Nat) : (c.raiseTyped e).stw = c.stw := c.setEvent_stw e.1 e.2
@[simp] theorem Chip.raiseTyped_pwr (c : Chip) (e : Nat × Nat) : (c.raiseTyped e).pwr = c.pwr := c.setEvent_pwr e.1 e.2
@[simp] theorem Chip.raiseTyped_pcie (c : Chip) (e : Nat × Nat) : (c.raiseTyped e).pcie = c.pcie := c.setEvent_pcie e.1 e.2
@[simp] theorem Chip.raiseTyped_lanes (c : Chip) (e : Nat × Nat) : (c.raiseTyped e).lanes = c.lanes := c.setEvent_lanes e.1 e.2
@[simp] theorem Chip.raiseTyped_trs (c : Chip) (e : Nat × Nat) : (c.raiseTyped e).trs = c.trs := c.setEvent_trs e.1 e.2
@[simp] theorem Chip.raiseTyped_seqs (c : Chip) (e : Nat × Nat) : (c.raiseTyped e).seqs = c.seqs := c.setEvent_seqs e.1 e.2
@[simp] theorem Chip.raiseTyped_seqHolds (c : Chip) (e : Nat × Nat) : (c.raiseTyped e).seqHolds = c.seqHolds := c.setEvent_seqHolds e.1 e.2
@[simp] theorem Chip.raiseTyped_noticeHolds (c : Chip) (e : Nat × Nat) : (c.raiseTyped e).noticeHolds = c.noticeHolds := c.setEvent_noticeHolds e.1 e.2
@[simp] theorem Chip.raiseTyped_parts (c : Chip) (e : Nat × Nat) : (c.raiseTyped e).parts = c.parts := c.setEvent_parts e.1 e.2
@[simp] theorem Chip.raiseTyped_car (c : Chip) (e : Nat × Nat) : (c.raiseTyped e).car = c.car := c.setEvent_car e.1 e.2
@[simp] theorem Chip.raiseTyped_dma (c : Chip) (e : Nat × Nat) : (c.raiseTyped e).dma = c.dma := c.setEvent_dma e.1 e.2
@[simp] theorem Chip.raiseTyped_eths (c : Chip) (e : Nat × Nat) : (c.raiseTyped e).eths = c.eths := c.setEvent_eths e.1 e.2
@[simp] theorem Chip.raiseTyped_ort (c : Chip) (e : Nat × Nat) : (c.raiseTyped e).ort = c.ort := c.setEvent_ort e.1 e.2
@[simp] theorem Chip.raiseTyped_mc (c : Chip) (e : Nat × Nat) : (c.raiseTyped e).mc = c.mc := c.setEvent_mc e.1 e.2
@[simp] theorem Chip.raiseTyped_fatal (c : Chip) (e : Nat × Nat) : (c.raiseTyped e).fatal = c.fatal := c.setEvent_fatal e.1 e.2
@[simp] theorem Chip.raiseTyped_resetReq (c : Chip) (e : Nat × Nat) : (c.raiseTyped e).resetReq = c.resetReq := c.setEvent_resetReq e.1 e.2

/-! ### What time can do -/

/-- Waiting for the timeline lets some number of cycles pass. -/
theorem Chip.waitLine_eq (c : Chip) (t : Nat) : ∃ n, c.waitLine t = c.pass n ∨ c.waitLine t = c := by
  unfold Chip.waitLine; split
  · exact ⟨_, .inl rfl⟩
  · exact ⟨0, .inr rfl⟩

/-- Waiting for a stamp lets some number of cycles pass. -/
theorem Chip.waitStamp_eq (c : Chip) (t : Nat) : ∃ n, c.waitStamp t = c.pass n ∨ c.waitStamp t = c := by
  unfold Chip.waitStamp; split
  · exact ⟨_, .inl rfl⟩
  · exact ⟨0, .inr rfl⟩

@[simp] theorem Chip.pass_cycle (c : Chip) (n : Nat) : (c.pass n).cycle = c.cycle + n := rfl

@[simp] theorem Chip.waitCycle_cycle (c : Chip) (n : Nat) : (c.waitCycle n).cycle = max c.cycle n := by
  unfold Chip.waitCycle; split
  · rw [Chip.pass_cycle]; omega
  · omega

/-! ### What is written is read back -/

@[simp] theorem Chip.reg_setReg (c : Chip) (a : Nat) (v : Word) : (c.setReg a v).reg a = v := by
  simp [Chip.reg, Chip.setReg]

theorem Chip.reg_setReg_ne (c : Chip) {a b : Nat} (v : Word) (h : b ≠ a) : (c.setReg a v).reg b = c.reg b := by
  simp [Chip.reg, Chip.setReg, SMap.get_set, h]

@[simp] theorem Chip.rn_setN (c : Chip) (a n : Nat) : (c.setN a n).rn a = n % 2 ^ 32 := by
  simp [Chip.rn, Chip.setN]

theorem Chip.rn_setN_ne (c : Chip) {a b : Nat} (n : Nat) (h : b ≠ a) : (c.setN a n).rn b = c.rn b := by
  simp [Chip.rn, Chip.setN, Chip.reg_setReg_ne c _ h]

theorem Chip.rn_lt (c : Chip) (a : Nat) : c.rn a < 2 ^ 32 := (c.reg a).isLt

@[simp] theorem Chip.part_setPart (c : Chip) (p : Nat) (q : Part) : (c.setPart p q).part p = q := by simp [Chip.part, Chip.setPart]

theorem Chip.part_setPart_ne (c : Chip) {p r : Nat} (q : Part) (h : r ≠ p) : (c.setPart p q).part r = c.part r := by
  simp [Chip.part, Chip.setPart, SMap.get_put, h]

@[simp] theorem Chip.seq_setSeq (c : Chip) (n : Nat) (q : Seq) : (c.setSeq n q).seq n = q := by simp [Chip.seq, Chip.setSeq]

theorem Chip.seq_setSeq_ne (c : Chip) {n m : Nat} (q : Seq) (h : m ≠ n) : (c.setSeq n q).seq m = c.seq m := by
  simp [Chip.seq, Chip.setSeq, SMap.get_put, h]

@[simp] theorem Chip.lane_setLane (c : Chip) (g : Nat) (l : Lane) : (c.setLane g l).lane g = l := by simp [Chip.lane, Chip.setLane]

@[simp] theorem Chip.eth_setEth (c : Chip) (n : Nat) (e : EthPort) : (c.setEth n e).eth n = e := by simp [Chip.eth, Chip.setEth]

@[simp] theorem Chip.mcCh_setMcCh (c : Chip) (n : Nat) (m : McCh) : (c.setMcCh n m).mcCh n = m := by simp [Chip.mcCh, Chip.setMcCh]

@[simp] theorem Chip.schEntry_setSch (c : Chip) (k : Nat) (e : SchEntry) : (c.setSch k e).schEntry k = e := by
  simp [Chip.schEntry, Chip.setSch]


end Sys2Proof.Machine
end

