-- ==== Sys2Proof/Laws/Bits.lean ====
section
/-! SUPPORT. Bit fields: what a field reads after a field is written, and the same for fields of registers and for masks. -/

namespace Sys2Proof.Machine

theorem bits_lt (x lo w : Nat) : bits x lo w < 2 ^ w := Nat.mod_lt _ (Nat.two_pow_pos w)

@[simp] theorem bits_mod (x lo w : Nat) : bits x lo w % 2 ^ w = bits x lo w := Nat.mod_mod _ _

/-- A number, cut at a field: what lies above it, the field, and what lies below. -/
theorem bits_cut (x lo w : Nat) : x = x / 2 ^ lo / 2 ^ w * 2 ^ w * 2 ^ lo + bits x lo w * 2 ^ lo + x % 2 ^ lo := by
  have h1 := Nat.div_add_mod x (2 ^ lo)
  have h2 := Nat.div_add_mod (x / 2 ^ lo) (2 ^ w)
  have h3 : 2 ^ lo * (2 ^ w * (x / 2 ^ lo / 2 ^ w) + x / 2 ^ lo % 2 ^ w) + x % 2 ^ lo = x := by rw [h2, h1]
  unfold bits
  exact h3.symm.trans (by ring)

/-- A field write keeps what lies above and below the field. -/
theorem putBits_cut (x lo w v : Nat) :
    putBits x lo w v = x / 2 ^ lo / 2 ^ w * 2 ^ w * 2 ^ lo + v % 2 ^ w * 2 ^ lo + x % 2 ^ lo := by
  have h := bits_cut x lo w
  unfold putBits
  omega

@[simp] theorem bits_putBits (x lo w v : Nat) : bits (putBits x lo w v) lo w = v % 2 ^ w := by
  have hl : x % 2 ^ lo < 2 ^ lo := Nat.mod_lt _ (Nat.two_pow_pos lo)
  have e : (x / 2 ^ lo / 2 ^ w * 2 ^ w * 2 ^ lo + v % 2 ^ w * 2 ^ lo + x % 2 ^ lo)
      = x % 2 ^ lo + 2 ^ lo * (x / 2 ^ lo / 2 ^ w * 2 ^ w + v % 2 ^ w) := by ring
  rw [putBits_cut]
  unfold bits
  rw [e, Nat.add_mul_div_left _ _ (Nat.two_pow_pos lo), Nat.div_eq_of_lt hl, Nat.zero_add, Nat.add_comm, Nat.add_mul_mod_self_right,
    Nat.mod_mod]

/-- A field that lies below the written one reads as before. -/
theorem bits_putBits_below (x lo w v lo' w' : Nat) (h : lo' + w' ≤ lo) : bits (putBits x lo w v) lo' w' = bits x lo' w' := by
  obtain ⟨k, rfl⟩ := Nat.exists_eq_add_of_le h
  have e : ∀ n, n % 2 ^ (lo' + w') / 2 ^ lo' = n / 2 ^ lo' % 2 ^ w' := fun n => by
    rw [Nat.pow_add, Nat.mod_mul_right_div_self]
  have m : putBits x (lo' + w' + k) w v % 2 ^ (lo' + w') = x % 2 ^ (lo' + w') := by
    rw [putBits_cut]
    have e2 : x / 2 ^ (lo' + w' + k) / 2 ^ w * 2 ^ w * 2 ^ (lo' + w' + k) + v % 2 ^ w * 2 ^ (lo' + w' + k) + x % 2 ^ (lo' + w' + k)
        = x % 2 ^ (lo' + w' + k) + 2 ^ (lo' + w') * (2 ^ k * (x / 2 ^ (lo' + w' + k) / 2 ^ w * 2 ^ w + v % 2 ^ w)) := by
      rw [Nat.pow_add 2 (lo' + w') k]; ring
    rw [e2, Nat.add_mul_mod_self_left, Nat.pow_add 2 (lo' + w') k, Nat.mod_mul_right_mod]
  unfold bits
  rw [← e, ← e, m]

/-- A field that lies above the written one reads as before. -/
theorem bits_putBits_above (x lo w v lo' w' : Nat) (h : lo + w ≤ lo') : bits (putBits x lo w v) lo' w' = bits x lo' w' := by
  obtain ⟨k, rfl⟩ := Nat.exists_eq_add_of_le h
  have hl : x % 2 ^ lo < 2 ^ lo := Nat.mod_lt _ (Nat.two_pow_pos lo)
  have hv : v % 2 ^ w < 2 ^ w := Nat.mod_lt _ (Nat.two_pow_pos w)
  have e : putBits x lo w v = x % 2 ^ lo + 2 ^ lo * (v % 2 ^ w + 2 ^ w * (x / 2 ^ lo / 2 ^ w)) := by rw [putBits_cut]; ring
  unfold bits
  rw [Nat.pow_add, Nat.pow_add, ← Nat.div_div_eq_div_mul, ← Nat.div_div_eq_div_mul, e, Nat.add_mul_div_left _ _ (Nat.two_pow_pos lo),
    Nat.div_eq_of_lt hl, Nat.zero_add, Nat.add_mul_div_left _ _ (Nat.two_pow_pos w), Nat.div_eq_of_lt hv, Nat.zero_add,
    ← Nat.div_div_eq_div_mul, ← Nat.div_div_eq_div_mul]

theorem putBits_lt {x lo w v n : Nat} (hx : x < 2 ^ n) (h : lo + w ≤ n) : putBits x lo w v < 2 ^ n := by
  obtain ⟨k, rfl⟩ := Nat.exists_eq_add_of_le h
  have hl : x % 2 ^ lo < 2 ^ lo := Nat.mod_lt _ (Nat.two_pow_pos lo)
  have hv : v % 2 ^ w < 2 ^ w := Nat.mod_lt _ (Nat.two_pow_pos w)
  have hq : x / 2 ^ lo / 2 ^ w < 2 ^ k := by
    rw [Nat.div_div_eq_div_mul, ← Nat.pow_add]
    exact Nat.div_lt_of_lt_mul (by rw [← Nat.pow_add]; exact hx)
  rw [putBits_cut, Nat.pow_add, Nat.pow_add]
  have h1 : x / 2 ^ lo / 2 ^ w * 2 ^ w + 2 ^ w ≤ 2 ^ w * 2 ^ k := by
    rw [← Nat.succ_mul, Nat.mul_comm]; exact Nat.mul_le_mul_left _ hq
  have h2 : (x / 2 ^ lo / 2 ^ w * 2 ^ w + v % 2 ^ w) * 2 ^ lo + 2 ^ lo ≤ 2 ^ w * 2 ^ k * 2 ^ lo := by
    rw [← Nat.succ_mul]; exact Nat.mul_le_mul_right _ (by omega)
  calc _ = (x / 2 ^ lo / 2 ^ w * 2 ^ w + v % 2 ^ w) * 2 ^ lo + x % 2 ^ lo := by ring
    _ < 2 ^ w * 2 ^ k * 2 ^ lo := by omega
    _ = _ := by ring

/-! ### Fields of registers -/

theorem Fld.le_word (f : Fld) (h : f.lo + f.w ≤ 32) {x v : Nat} (hx : x < 2 ^ 32) : putBits x f.lo f.w v < 2 ^ 32 := putBits_lt hx h

/-- A register after a field of it is written. -/
theorem Chip.rn_setFld (c : Chip) (a : Nat) (f : Fld) (v : Nat) (h : f.lo + f.w ≤ 32) :
    (c.setFld a f v).rn a = putBits (c.rn a) f.lo f.w v := by
  rw [Chip.setFld, Chip.rn_setN, Nat.mod_eq_of_lt (f.le_word h (c.rn_lt a))]

theorem Chip.rn_setFld_ne (c : Chip) {a b : Nat} (f : Fld) (v : Nat) (h : b ≠ a) : (c.setFld a f v).rn b = c.rn b :=
  c.rn_setN_ne _ h

theorem Chip.reg_setFld_ne (c : Chip) {a b : Nat} (f : Fld) (v : Nat) (h : b ≠ a) : (c.setFld a f v).reg b = c.reg b :=
  c.reg_setReg_ne _ h

theorem Chip.fld_setFld (c : Chip) (a : Nat) (f : Fld) (v : Nat) (h : f.lo + f.w ≤ 32) :
    (c.setFld a f v).fld a f = v % 2 ^ f.w := by
  rw [Chip.fld, Chip.rn_setFld c a f v h, bits_putBits]

theorem Chip.fld_setFld_ne (c : Chip) {a b : Nat} (f g : Fld) (v : Nat) (h : b ≠ a) : (c.setFld a f v).fld b g = c.fld b g := by
  rw [Chip.fld, Chip.fld, Chip.rn_setFld_ne c f v h]

/-- Fields of one register that do not overlap. -/
theorem Chip.fld_setFld_apart (c : Chip) (a : Nat) (f g : Fld) (v : Nat) (h : f.lo + f.w ≤ 32)
    (d : g.lo + g.w ≤ f.lo ∨ f.lo + f.w ≤ g.lo) : (c.setFld a f v).fld a g = c.fld a g := by
  rw [Chip.fld, Chip.rn_setFld c a f v h, Chip.fld]
  exact d.elim (bits_putBits_below _ _ _ _ _ _) (bits_putBits_above _ _ _ _ _ _)

theorem Chip.flag_setFlag (c : Chip) (a : Nat) (f : Fld) (b : Bool) (h : f.lo + f.w ≤ 32) (hw : f.w = 1) :
    (c.setFlag a f b).flag a f = b := by
  rw [Chip.flag, Chip.setFlag, Chip.fld_setFld c a f _ h, hw]
  cases b <;> rfl

theorem Chip.flag_setFlag_ne (c : Chip) {a d : Nat} (f g : Fld) (b : Bool) (h : d ≠ a) : (c.setFlag a f b).flag d g = c.flag d g := by
  rw [Chip.flag, Chip.flag, Chip.setFlag, Chip.fld_setFld_ne c f g _ h]

theorem Chip.flag_setFld_ne (c : Chip) {a d : Nat} (f g : Fld) (v : Nat) (h : d ≠ a) : (c.setFld a f v).flag d g = c.flag d g := by
  rw [Chip.flag, Chip.flag, Chip.fld_setFld_ne c f g _ h]

/-! ### Masks -/

theorem bit_eq_bits (m i : Nat) : bit m i = decide (bits m i 1 = 1) := rfl

/-- A mask with a bit set is the mask with that one-bit field written. -/
theorem maskSet_eq (m i : Nat) : maskSet m i = putBits m i 1 1 := by
  have h := bits_lt m i 1
  have hc := bits_cut m i 1
  unfold maskSet putBits
  by_cases hb : bits m i 1 = 1
  · rw [if_pos (by simp [bit_eq_bits, hb])]
    simp only [hb] at hc ⊢
    omega
  · rw [if_neg (by simp [bit_eq_bits, hb])]
    have h0 : bits m i 1 = 0 := by omega
    simp [h0]

/-- A mask with a bit cleared is the mask with that one-bit field written 0. -/
theorem maskClear_eq (m i : Nat) : maskClear m i = putBits m i 1 0 := by
  have h := bits_lt m i 1
  unfold maskClear putBits
  by_cases hb : bits m i 1 = 1
  · rw [if_pos (by simp [bit_eq_bits, hb])]; simp [hb]
  · rw [if_neg (by simp [bit_eq_bits, hb])]
    have h0 : bits m i 1 = 0 := by omega
    simp [h0]

theorem bit_putBits (m i v j : Nat) : bit (putBits m i 1 v) j = if j = i then decide (v % 2 = 1) else bit m j := by
  rw [bit_eq_bits, bit_eq_bits]
  by_cases hj : j = i
  · subst hj; rw [if_pos rfl, bits_putBits, pow_one]
  · rw [if_neg hj]
    rcases Nat.lt_or_gt_of_ne hj with h | h
    · rw [bits_putBits_below _ _ _ _ _ _ (by omega)]
    · rw [bits_putBits_above _ _ _ _ _ _ (by omega)]

/-- Setting a bit of a mask sets it and keeps every other. -/
theorem bit_maskSet (m i j : Nat) : bit (maskSet m i) j = if j = i then true else bit m j := by
  rw [maskSet_eq, bit_putBits]; rfl

/-- Clearing a bit of a mask clears it and keeps every other. -/
theorem bit_maskClear (m i j : Nat) : bit (maskClear m i) j = if j = i then false else bit m j := by
  rw [maskClear_eq, bit_putBits]; rfl

end Sys2Proof.Machine
end

