-- ==== Sys2Proof/Laws/Act.lean ====
section
/-! SUPPORT. What every command does around its own effect: at work nothing stands between the command and its effect, so its next
state is the engine its effect makes, finished; and what the shared operations over commands, events and records leave as it is. -/

namespace Sys2Proof.Machine

/-! ### The gates -/

/-- Quiet, spelled out. -/
theorem Chip.quiet_iff (c : Chip) :
    c.quiet = true ↔ c.pins.porn = false ∧ c.fatal = none ∧ c.resetReq = false ∧ c.acc.guardHost = none ∧ c.acc.guardStw = none ∧
      c.ladder = 0 ∧ c.pwr.down = none ∧ c.pwr.up = none ∧ c.pcie.d3hot = false := by
  simp only [Chip.quiet, Bool.and_eq_true, Bool.not_eq_true', decide_eq_true_eq, Option.isNone_iff_eq_none]
  tauto

theorem Chip.quiet_of_atWork {c : Chip} (h : c.atWork = true) : c.quiet = true := by
  simp only [Chip.atWork, Bool.and_eq_true] at h; exact h.1.1.1

theorem Chip.running_of_atWork {c : Chip} (h : c.atWork = true) : c.running = true := by
  simp only [Chip.atWork, Bool.and_eq_true] at h; exact h.1.1.2

theorem Chip.quiet_of_inStart {c : Chip} {k : Nat} (h : c.inStart k = true) : c.quiet = true := by
  simp only [Chip.inStart, Bool.and_eq_true] at h; exact h.1.1

theorem Chip.inStart_of_inRecords {c : Chip} (h : c.inRecords = true) : c.inStart 7 = true := by
  simp only [Chip.inRecords, Bool.and_eq_true] at h; exact h.1.1

theorem Chip.quiet_of_inRecords {c : Chip} (h : c.inRecords = true) : c.quiet = true :=
  Chip.quiet_of_inStart (Chip.inStart_of_inRecords h)

/-- Neither state of the Steward that runs the engine is Safe. -/
theorem Chip.inSafe_of_running {c : Chip} (h : c.running = true) : c.inSafe = false := by
  simp only [Chip.running, Chip.inSafe, decide_eq_true_eq, decide_eq_false_iff_not] at *; omega

theorem Chip.inSafe_of_atWork {c : Chip} (h : c.atWork = true) : c.inSafe = false := Chip.inSafe_of_running (Chip.running_of_atWork h)

/-- In Gale with no transition every part is powered. -/
theorem Chip.admits_of_quiet {c : Chip} (h : c.quiet = true) (n : Need) : c.admits n = true := by
  obtain ⟨hp, -, -, -, -, hl, -, -, -⟩ := (Chip.quiet_iff c).1 h
  cases n <;> simp [Chip.admits, hp, hl]

theorem Chip.hostWake_of_quiet {c : Chip} (h : c.quiet = true) (i : Instr) : c.hostWake i = c := by
  obtain ⟨-, -, -, -, -, hl, -, -, -⟩ := (Chip.quiet_iff c).1 h
  simp [Chip.hostWake, hl]

theorem Chip.linkLost_of_quiet {c : Chip} (h : c.quiet = true) (i : Instr) : c.linkLost i = false := by
  obtain ⟨-, -, -, -, -, hl, -, -, hd⟩ := (Chip.quiet_iff c).1 h
  simp [Chip.linkLost, hl, hd]

theorem Chip.guardExpire_of_quiet {c : Chip} (h : c.quiet = true) (i : Init) : c.guardExpire i = c := by
  obtain ⟨-, -, -, hh, hs, -, -, -, -⟩ := (Chip.quiet_iff c).1 h
  have : c.guardOf i = none := by cases i <;> simp [Chip.guardOf, hh, hs]
  simp [Chip.guardExpire, this]

/-- Nothing stands between a command and its effect. -/
theorem Chip.perform_of_quiet {c : Chip} (h : c.quiet = true) (i : Instr) (f : Chip → Chip) : c.perform i f = f c := by
  simp only [Chip.perform, Chip.hostWake_of_quiet h, Chip.admits_of_quiet h, Chip.linkLost_of_quiet h, Bool.not_false, Bool.and_self,
    if_true, Chip.guardExpire_of_quiet h, ite_self]

/-- The next state of a well-formed command while the engine is quiet. -/
theorem State.act_of_quiet {s : State} {i : Instr} (h : s.chip.quiet = true) (hw : i.wf = true) (f : Chip → Chip) :
    s.act i f = .next (s.after (f s.chip)) := by
  rw [State.act, if_pos hw, Chip.perform_of_quiet h]

theorem State.act_of_atWork {s : State} {i : Instr} (h : s.chip.atWork = true) (hw : i.wf = true) (f : Chip → Chip) :
    s.act i f = .next (s.after (f s.chip)) := State.act_of_quiet (Chip.quiet_of_atWork h) hw f

/-- A command with operands the engine does not have takes its cycle. -/
theorem State.act_of_illFormed {s : State} {i : Instr} (hw : i.wf = false) (f : Chip → Chip) :
    s.act i f = .next { s with chip := s.chip.idleFor 1 } := by simp [State.act, hw]

@[simp] theorem State.after_pending (s : State) (c : Chip) : (s.after c).pending = s.pending := rfl

/-- A command's effect completes with `P` when what it makes of the engine demands nothing and has `P`. -/
theorem Completes.of_quiet {s : State} {i : Instr} {f : Chip → Chip} {P : Chip → Prop} (he : exec i s = s.act i f)
    (h : s.chip.quiet = true) (hw : i.wf = true) (hf : (f s.chip).fatal = none) (hr : (f s.chip).resetReq = false) (hP : P (f s.chip)) :
    Completes i s P := ⟨f s.chip, by rw [he, State.act_of_quiet h hw], hf, hr, hP⟩

/-! ### Register writes -/

theorem Chip.guardOf_of_quiet {c : Chip} (h : c.quiet = true) (i : Init) : c.guardOf i = none := by
  obtain ⟨-, -, -, hh, hs, -, -, -, -⟩ := (Chip.quiet_iff c).1 h
  cases i <;> simp [Chip.guardOf, hh, hs]

/-- With nothing pending, forgetting what is pending changes nothing. -/
theorem Chip.setGuard_none_of_quiet {c : Chip} (h : c.quiet = true) (i : Init) : c.setGuard i none = c := by
  obtain ⟨-, -, -, hh, hs, -, -, -, -⟩ := (Chip.quiet_iff c).1 h
  cases i with
  | host => rw [Chip.setGuard, ← hh]
  | steward => rw [Chip.setGuard, ← hs]
  | sched => rfl

@[simp] theorem Chip.pairBroken_none (c : Chip) (i : Init) (a : Nat) : c.pairBroken i none a = c := rfl

theorem Chip.hostShut_of_atWork {c : Chip} (h : c.atWork = true) : c.hostShut = false := by
  simp only [Chip.atWork, Bool.and_eq_true, Bool.not_eq_true', decide_eq_true_eq] at h
  simp [Chip.hostShut, h.1.2, h.2]

theorem Chip.mayWrite_of_atWork {c : Chip} (h : c.atWork = true) (i : Init) (a : Nat) : c.mayWrite i a = true := by
  simp [Chip.mayWrite, Chip.hostShut_of_atWork h]

theorem Chip.mayRead_of_atWork {c : Chip} (h : c.atWork = true) (i : Init) (a : Nat) : c.mayRead i a = true := by
  simp [Chip.mayRead, Chip.hostShut_of_atWork h]

theorem Chip.atWork_writing {c : Chip} (h : c.atWork = true) : c.writing.atWork = true := h

/-- At work a register write lands and issues, and nothing else happens. -/
theorem Chip.busCycle_of_atWork {c : Chip} (h : c.atWork = true) (i : Init) (a : Nat) (land issue : Chip → Chip) :
    c.busCycle i a land issue = issue (land c.writing) := by
  have h2 := Chip.atWork_writing h
  have hq := Chip.quiet_of_atWork h2
  unfold Chip.busCycle
  change (if c.writing.mayWrite i a then
    issue ((land (c.writing.setGuard i none)).pairBroken i (c.writing.guardOf i) a) else c.writing) = _
  rw [if_pos (Chip.mayWrite_of_atWork h2 i a), Chip.setGuard_none_of_quiet hq, Chip.guardOf_of_quiet hq, Chip.pairBroken_none]

/-- At work a command's register write is the command's own effect. -/
theorem Chip.asWrite_of_atWork {c : Chip} (h : c.atWork = true) (i : Init) (a : Nat) (f : Chip → Chip) : c.asWrite i a f = f c.writing :=
  Chip.busCycle_of_atWork h i a _ f

/-- At work a write of a register that is not guarded puts its fields and issues its commands. -/
theorem Chip.busWrite_of_atWork {c : Chip} (h : c.atWork = true) (i : Init) {a : Nat} (v : Word) (ha : a < 0x800000)
    (hg : isGuarded a = false) : c.busWrite i a v = (c.writing.applyFields i a v).applyCmds i a v := by
  unfold Chip.busWrite
  rw [if_neg (by omega), hg, if_neg (by decide)]
  exact Chip.busCycle_of_atWork h i a _ _

/-! ### Commands (R358) -/

/-- An accepted command. -/
theorem Chip.command_accept {c : Chip} (p : CmdPort) (i : Init) (e : Option Nat) (so : Bool) (f : Chip → Chip) (hs : c.inSafe = false) :
    c.command p i e so 0 f = c.accept p f := by simp [Chip.command, hs, Chip.accept]

/-- A command rejected outside Safe. -/
theorem Chip.command_reject {c : Chip} (p : CmdPort) (i : Init) (e : Option Nat) (so : Bool) {r : Nat} (f : Chip → Chip)
    (hs : c.inSafe = false) (hr : r ≠ 0) : c.command p i e so r f = c.reject p i e r := by simp [Chip.command, hs, hr]

/-- A command rejected in Safe (R360). -/
theorem Chip.command_inSafe {c : Chip} (p : CmdPort) (i : Init) (e : Option Nat) (r : Nat) (f : Chip → Chip) (hs : c.inSafe = true) :
    c.command p i e false r f = c.reject p i e 0xfe := by simp [Chip.command, hs]

/-! ### Records and events: what each can do -/

/-- `d` is `c` but for the register file, the event counts and the Scrivener's queue. -/
def Chip.EventsOnly (c d : Chip) : Prop := ∃ r v q, d = { c with regs := r, evt := v, scv := q }

theorem Chip.EventsOnly.refl (c : Chip) : c.EventsOnly c := ⟨_, _, _, rfl⟩

theorem Chip.EventsOnly.trans {c d e : Chip} (h : c.EventsOnly d) (k : d.EventsOnly e) : c.EventsOnly e := by
  obtain ⟨r, v, q, rfl⟩ := h; obtain ⟨r', v', q', rfl⟩ := k; exact ⟨r', v', q', rfl⟩

theorem Chip.EventsOnly.setReg (c : Chip) (a : Nat) (v : Word) : c.EventsOnly (c.setReg a v) := ⟨_, _, _, rfl⟩

theorem Chip.EventsOnly.setN (c : Chip) (a n : Nat) : c.EventsOnly (c.setN a n) := .setReg c a _

theorem Chip.EventsOnly.setFld (c : Chip) (a : Nat) (f : Fld) (v : Nat) : c.EventsOnly (c.setFld a f v) := .setN c a _

theorem Chip.EventsOnly.addCnt (c : Chip) (a k : Nat) : c.EventsOnly (c.addCnt a k) := .setN c a _

theorem Chip.EventsOnly.setEvent (c : Chip) (n b : Nat) : c.EventsOnly (c.setEvent n b) := by
  obtain ⟨v, w, e, h⟩ := c.setEvent_eq n b
  rw [h]
  exact (Chip.EventsOnly.setN c v w).trans ⟨(c.setN v w).regs, e, (c.setN v w).scv, rfl⟩

/-- Producing a record changes the register file, the event counts and the input queue. -/
theorem Chip.EventsOnly.record (c : Chip) (t k m : Nat) (l : List Nat) : c.EventsOnly (c.record t k m l) := by
  unfold Chip.record
  split
  · exact .addCnt c _ _
  · split
    · exact ((Chip.EventsOnly.addCnt c _ _).trans (.setEvent _ 0 10)).trans ⟨_, _, _, rfl⟩
    · exact ⟨_, _, _, rfl⟩

theorem Chip.EventsOnly.raise (c : Chip) (e : Nat × Nat) : c.EventsOnly (c.raise e) := by
  unfold Chip.raise
  simp only
  split
  · exact (Chip.EventsOnly.setEvent c e.1 e.2).trans (.record _ _ _ _ _)
  · exact .setEvent c e.1 e.2

theorem Chip.EventsOnly.stwRecord (c : Chip) (k d n v : Nat) : c.EventsOnly (c.stwRecord k d n v) := .record c _ _ _ _

/-- A rejection changes, besides, the engine's note of the last reason. -/
theorem Chip.reject_eq (c : Chip) (p : CmdPort) (i : Init) (e : Option Nat) (k : Nat) :
    ∃ d, c.EventsOnly d ∧ c.reject p i e k = { d with lastReason := k } :=
  ⟨_, ((Chip.EventsOnly.setFld c _ _ _).trans (.setEvent _ _ _)).trans (.record _ _ _ _ _), rfl⟩

theorem Chip.EventsOnly.cycle {c d : Chip} (h : c.EventsOnly d) : d.cycle = c.cycle := by obtain ⟨r, v, q, rfl⟩ := h; rfl
theorem Chip.EventsOnly.wcopy {c d : Chip} (h : c.EventsOnly d) : d.wcopy = c.wcopy := by obtain ⟨r, v, q, rfl⟩ := h; rfl
theorem Chip.EventsOnly.acc {c d : Chip} (h : c.EventsOnly d) : d.acc = c.acc := by obtain ⟨r, v, q, rfl⟩ := h; rfl
theorem Chip.EventsOnly.cst {c d : Chip} (h : c.EventsOnly d) : d.cst = c.cst := by obtain ⟨r, v, q, rfl⟩ := h; rfl
theorem Chip.EventsOnly.epc {c d : Chip} (h : c.EventsOnly d) : d.epc = c.epc := by obtain ⟨r, v, q, rfl⟩ := h; rfl
theorem Chip.EventsOnly.sch {c d : Chip} (h : c.EventsOnly d) : d.sch = c.sch := by obtain ⟨r, v, q, rfl⟩ := h; rfl
theorem Chip.EventsOnly.clk {c d : Chip} (h : c.EventsOnly d) : d.clk = c.clk := by obtain ⟨r, v, q, rfl⟩ := h; rfl
theorem Chip.EventsOnly.boot {c d : Chip} (h : c.EventsOnly d) : d.boot = c.boot := by obtain ⟨r, v, q, rfl⟩ := h; rfl
theorem Chip.EventsOnly.nv {c d : Chip} (h : c.EventsOnly d) : d.nv = c.nv := by obtain ⟨r, v, q, rfl⟩ := h; rfl
theorem Chip.EventsOnly.stw {c d : Chip} (h : c.EventsOnly d) : d.stw = c.stw := by obtain ⟨r, v, q, rfl⟩ := h; rfl
theorem Chip.EventsOnly.pwr {c d : Chip} (h : c.EventsOnly d) : d.pwr = c.pwr := by obtain ⟨r, v, q, rfl⟩ := h; rfl
theorem Chip.EventsOnly.pcie {c d : Chip} (h : c.EventsOnly d) : d.pcie = c.pcie := by obtain ⟨r, v, q, rfl⟩ := h; rfl
theorem Chip.EventsOnly.lanes {c d : Chip} (h : c.EventsOnly d) : d.lanes = c.lanes := by obtain ⟨r, v, q, rfl⟩ := h; rfl
theorem Chip.EventsOnly.trs {c d : Chip} (h : c.EventsOnly d) : d.trs = c.trs := by obtain ⟨r, v, q, rfl⟩ := h; rfl
theorem Chip.EventsOnly.seqs {c d : Chip} (h : c.EventsOnly d) : d.seqs = c.seqs := by obtain ⟨r, v, q, rfl⟩ := h; rfl
theorem Chip.EventsOnly.parts {c d : Chip} (h : c.EventsOnly d) : d.parts = c.parts := by obtain ⟨r, v, q, rfl⟩ := h; rfl
theorem Chip.EventsOnly.car {c d : Chip} (h : c.EventsOnly d) : d.car = c.car := by obtain ⟨r, v, q, rfl⟩ := h; rfl
theorem Chip.EventsOnly.dma {c d : Chip} (h : c.EventsOnly d) : d.dma = c.dma := by obtain ⟨r, v, q, rfl⟩ := h; rfl
theorem Chip.EventsOnly.eths {c d : Chip} (h : c.EventsOnly d) : d.eths = c.eths := by obtain ⟨r, v, q, rfl⟩ := h; rfl
theorem Chip.EventsOnly.ort {c d : Chip} (h : c.EventsOnly d) : d.ort = c.ort := by obtain ⟨r, v, q, rfl⟩ := h; rfl
theorem Chip.EventsOnly.mc {c d : Chip} (h : c.EventsOnly d) : d.mc = c.mc := by obtain ⟨r, v, q, rfl⟩ := h; rfl
theorem Chip.EventsOnly.fatal {c d : Chip} (h : c.EventsOnly d) : d.fatal = c.fatal := by obtain ⟨r, v, q, rfl⟩ := h; rfl
theorem Chip.EventsOnly.resetReq {c d : Chip} (h : c.EventsOnly d) : d.resetReq = c.resetReq := by obtain ⟨r, v, q, rfl⟩ := h; rfl

@[simp] theorem Chip.record_cycle (c : Chip) (t k m : Nat) (l : List Nat) : (c.record t k m l).cycle = c.cycle :=
  (Chip.EventsOnly.record c t k m l).cycle
@[simp] theorem Chip.raise_cycle (c : Chip) (e : Nat × Nat) : (c.raise e).cycle = c.cycle := (Chip.EventsOnly.raise c e).cycle
@[simp] theorem Chip.reject_cycle (c : Chip) (p : CmdPort) (i : Init) (e : Option Nat) (k : Nat) : (c.reject p i e k).cycle = c.cycle := by
  obtain ⟨d, h, q⟩ := c.reject_eq p i e k; rw [q]; exact h.cycle
@[simp] theorem Chip.record_acc (c : Chip) (t k m : Nat) (l : List Nat) : (c.record t k m l).acc = c.acc :=
  (Chip.EventsOnly.record c t k m l).acc
@[simp] theorem Chip.raise_acc (c : Chip) (e : Nat × Nat) : (c.raise e).acc = c.acc := (Chip.EventsOnly.raise c e).acc
@[simp] theorem Chip.reject_acc (c : Chip) (p : CmdPort) (i : Init) (e : Option Nat) (k : Nat) : (c.reject p i e k).acc = c.acc := by
  obtain ⟨d, h, q⟩ := c.reject_eq p i e k; rw [q]; exact h.acc
@[simp] theorem Chip.record_cst (c : Chip) (t k m : Nat) (l : List Nat) : (c.record t k m l).cst = c.cst :=
  (Chip.EventsOnly.record c t k m l).cst
@[simp] theorem Chip.raise_cst (c : Chip) (e : Nat × Nat) : (c.raise e).cst = c.cst := (Chip.EventsOnly.raise c e).cst
@[simp] theorem Chip.reject_cst (c : Chip) (p : CmdPort) (i : Init) (e : Option Nat) (k : Nat) : (c.reject p i e k).cst = c.cst := by
  obtain ⟨d, h, q⟩ := c.reject_eq p i e k; rw [q]; exact h.cst
@[simp] theorem Chip.record_epc (c : Chip) (t k m : Nat) (l : List Nat) : (c.record t k m l).epc = c.epc :=
  (Chip.EventsOnly.record c t k m l).epc
@[simp] theorem Chip.raise_epc (c : Chip) (e : Nat × Nat) : (c.raise e).epc = c.epc := (Chip.EventsOnly.raise c e).epc
@[simp] theorem Chip.reject_epc (c : Chip) (p : CmdPort) (i : Init) (e : Option Nat) (k : Nat) : (c.reject p i e k).epc = c.epc := by
  obtain ⟨d, h, q⟩ := c.reject_eq p i e k; rw [q]; exact h.epc
@[simp] theorem Chip.record_clk (c : Chip) (t k m : Nat) (l : List Nat) : (c.record t k m l).clk = c.clk :=
  (Chip.EventsOnly.record c t k m l).clk
@[simp] theorem Chip.raise_clk (c : Chip) (e : Nat × Nat) : (c.raise e).clk = c.clk := (Chip.EventsOnly.raise c e).clk
@[simp] theorem Chip.reject_clk (c : Chip) (p : CmdPort) (i : Init) (e : Option Nat) (k : Nat) : (c.reject p i e k).clk = c.clk := by
  obtain ⟨d, h, q⟩ := c.reject_eq p i e k; rw [q]; exact h.clk
@[simp] theorem Chip.record_boot (c : Chip) (t k m : Nat) (l : List Nat) : (c.record t k m l).boot = c.boot :=
  (Chip.EventsOnly.record c t k m l).boot
@[simp] theorem Chip.raise_boot (c : Chip) (e : Nat × Nat) : (c.raise e).boot = c.boot := (Chip.EventsOnly.raise c e).boot
@[simp] theorem Chip.reject_boot (c : Chip) (p : CmdPort) (i : Init) (e : Option Nat) (k : Nat) : (c.reject p i e k).boot = c.boot := by
  obtain ⟨d, h, q⟩ := c.reject_eq p i e k; rw [q]; exact h.boot
@[simp] theorem Chip.record_nv (c : Chip) (t k m : Nat) (l : List Nat) : (c.record t k m l).nv = c.nv :=
  (Chip.EventsOnly.record c t k m l).nv
@[simp] theorem Chip.raise_nv (c : Chip) (e : Nat × Nat) : (c.raise e).nv = c.nv := (Chip.EventsOnly.raise c e).nv
@[simp] theorem Chip.reject_nv (c : Chip) (p : CmdPort) (i : Init) (e : Option Nat) (k : Nat) : (c.reject p i e k).nv = c.nv := by
  obtain ⟨d, h, q⟩ := c.reject_eq p i e k; rw [q]; exact h.nv
@[simp] theorem Chip.record_stw (c : Chip) (t k m : Nat) (l : List Nat) : (c.record t k m l).stw = c.stw :=
  (Chip.EventsOnly.record c t k m l).stw
@[simp] theorem Chip.raise_stw (c : Chip) (e : Nat × Nat) : (c.raise e).stw = c.stw := (Chip.EventsOnly.raise c e).stw
@[simp] theorem Chip.reject_stw (c : Chip) (p : CmdPort) (i : Init) (e : Option Nat) (k : Nat) : (c.reject p i e k).stw = c.stw := by
  obtain ⟨d, h, q⟩ := c.reject_eq p i e k; rw [q]; exact h.stw
@[simp] theorem Chip.record_pwr (c : Chip) (t k m : Nat) (l : List Nat) : (c.record t k m l).pwr = c.pwr :=
  (Chip.EventsOnly.record c t k m l).pwr
@[simp] theorem Chip.raise_pwr (c : Chip) (e : Nat × Nat) : (c.raise e).pwr = c.pwr := (Chip.EventsOnly.raise c e).pwr
@[simp] theorem Chip.reject_pwr (c : Chip) (p : CmdPort) (i : Init) (e : Option Nat) (k : Nat) : (c.reject p i e k).pwr = c.pwr := by
  obtain ⟨d, h, q⟩ := c.reject_eq p i e k; rw [q]; exact h.pwr
@[simp] theorem Chip.record_pcie (c : Chip) (t k m : Nat) (l : List Nat) : (c.record t k m l).pcie = c.pcie :=
  (Chip.EventsOnly.record c t k m l).pcie
@[simp] theorem Chip.raise_pcie (c : Chip) (e : Nat × Nat) : (c.raise e).pcie = c.pcie := (Chip.EventsOnly.raise c e).pcie
@[simp] theorem Chip.reject_pcie (c : Chip) (p : CmdPort) (i : Init) (e : Option Nat) (k : Nat) : (c.reject p i e k).pcie = c.pcie := by
  obtain ⟨d, h, q⟩ := c.reject_eq p i e k; rw [q]; exact h.pcie
@[simp] theorem Chip.record_lanes (c : Chip) (t k m : Nat) (l : List Nat) : (c.record t k m l).lanes = c.lanes :=
  (Chip.EventsOnly.record c t k m l).lanes
@[simp] theorem Chip.raise_lanes (c : Chip) (e : Nat × Nat) : (c.raise e).lanes = c.lanes := (Chip.EventsOnly.raise c e).lanes
@[simp] theorem Chip.reject_lanes (c : Chip) (p : CmdPort) (i : Init) (e : Option Nat) (k : Nat) : (c.reject p i e k).lanes = c.lanes := by
  obtain ⟨d, h, q⟩ := c.reject_eq p i e k; rw [q]; exact h.lanes
@[simp] theorem Chip.record_seqs (c : Chip) (t k m : Nat) (l : List Nat) : (c.record t k m l).seqs = c.seqs :=
  (Chip.EventsOnly.record c t k m l).seqs
@[simp] theorem Chip.raise_seqs (c : Chip) (e : Nat × Nat) : (c.raise e).seqs = c.seqs := (Chip.EventsOnly.raise c e).seqs
@[simp] theorem Chip.reject_seqs (c : Chip) (p : CmdPort) (i : Init) (e : Option Nat) (k : Nat) : (c.reject p i e k).seqs = c.seqs := by
  obtain ⟨d, h, q⟩ := c.reject_eq p i e k; rw [q]; exact h.seqs
@[simp] theorem Chip.record_parts (c : Chip) (t k m : Nat) (l : List Nat) : (c.record t k m l).parts = c.parts :=
  (Chip.EventsOnly.record c t k m l).parts
@[simp] theorem Chip.raise_parts (c : Chip) (e : Nat × Nat) : (c.raise e).parts = c.parts := (Chip.EventsOnly.raise c e).parts
@[simp] theorem Chip.reject_parts (c : Chip) (p : CmdPort) (i : Init) (e : Option Nat) (k : Nat) : (c.reject p i e k).parts = c.parts := by
  obtain ⟨d, h, q⟩ := c.reject_eq p i e k; rw [q]; exact h.parts
@[simp] theorem Chip.record_car (c : Chip) (t k m : Nat) (l : List Nat) : (c.record t k m l).car = c.car :=
  (Chip.EventsOnly.record c t k m l).car
@[simp] theorem Chip.raise_car (c : Chip) (e : Nat × Nat) : (c.raise e).car = c.car := (Chip.EventsOnly.raise c e).car
@[simp] theorem Chip.reject_car (c : Chip) (p : CmdPort) (i : Init) (e : Option Nat) (k : Nat) : (c.reject p i e k).car = c.car := by
  obtain ⟨d, h, q⟩ := c.reject_eq p i e k; rw [q]; exact h.car
@[simp] theorem Chip.record_dma (c : Chip) (t k m : Nat) (l : List Nat) : (c.record t k m l).dma = c.dma :=
  (Chip.EventsOnly.record c t k m l).dma
@[simp] theorem Chip.raise_dma (c : Chip) (e : Nat × Nat) : (c.raise e).dma = c.dma := (Chip.EventsOnly.raise c e).dma
@[simp] theorem Chip.reject_dma (c : Chip) (p : CmdPort) (i : Init) (e : Option Nat) (k : Nat) : (c.reject p i e k).dma = c.dma := by
  obtain ⟨d, h, q⟩ := c.reject_eq p i e k; rw [q]; exact h.dma
@[simp] theorem Chip.record_eths (c : Chip) (t k m : Nat) (l : List Nat) : (c.record t k m l).eths = c.eths :=
  (Chip.EventsOnly.record c t k m l).eths
@[simp] theorem Chip.raise_eths (c : Chip) (e : Nat × Nat) : (c.raise e).eths = c.eths := (Chip.EventsOnly.raise c e).eths
@[simp] theorem Chip.reject_eths (c : Chip) (p : CmdPort) (i : Init) (e : Option Nat) (k : Nat) : (c.reject p i e k).eths = c.eths := by
  obtain ⟨d, h, q⟩ := c.reject_eq p i e k; rw [q]; exact h.eths
@[simp] theorem Chip.record_ort (c : Chip) (t k m : Nat) (l : List Nat) : (c.record t k m l).ort = c.ort :=
  (Chip.EventsOnly.record c t k m l).ort
@[simp] theorem Chip.raise_ort (c : Chip) (e : Nat × Nat) : (c.raise e).ort = c.ort := (Chip.EventsOnly.raise c e).ort
@[simp] theorem Chip.reject_ort (c : Chip) (p : CmdPort) (i : Init) (e : Option Nat) (k : Nat) : (c.reject p i e k).ort = c.ort := by
  obtain ⟨d, h, q⟩ := c.reject_eq p i e k; rw [q]; exact h.ort
@[simp] theorem Chip.record_mc (c : Chip) (t k m : Nat) (l : List Nat) : (c.record t k m l).mc = c.mc :=
  (Chip.EventsOnly.record c t k m l).mc
@[simp] theorem Chip.raise_mc (c : Chip) (e : Nat × Nat) : (c.raise e).mc = c.mc := (Chip.EventsOnly.raise c e).mc
@[simp] theorem Chip.reject_mc (c : Chip) (p : CmdPort) (i : Init) (e : Option Nat) (k : Nat) : (c.reject p i e k).mc = c.mc := by
  obtain ⟨d, h, q⟩ := c.reject_eq p i e k; rw [q]; exact h.mc
@[simp] theorem Chip.record_fatal (c : Chip) (t k m : Nat) (l : List Nat) : (c.record t k m l).fatal = c.fatal :=
  (Chip.EventsOnly.record c t k m l).fatal
@[simp] theorem Chip.raise_fatal (c : Chip) (e : Nat × Nat) : (c.raise e).fatal = c.fatal := (Chip.EventsOnly.raise c e).fatal
@[simp] theorem Chip.reject_fatal (c : Chip) (p : CmdPort) (i : Init) (e : Option Nat) (k : Nat) : (c.reject p i e k).fatal = c.fatal := by
  obtain ⟨d, h, q⟩ := c.reject_eq p i e k; rw [q]; exact h.fatal
@[simp] theorem Chip.record_resetReq (c : Chip) (t k m : Nat) (l : List Nat) : (c.record t k m l).resetReq = c.resetReq :=
  (Chip.EventsOnly.record c t k m l).resetReq
@[simp] theorem Chip.raise_resetReq (c : Chip) (e : Nat × Nat) : (c.raise e).resetReq = c.resetReq := (Chip.EventsOnly.raise c e).resetReq
@[simp] theorem Chip.reject_resetReq (c : Chip) (p : CmdPort) (i : Init) (e : Option Nat) (k : Nat) : (c.reject p i e k).resetReq = c.resetReq := by
  obtain ⟨d, h, q⟩ := c.reject_eq p i e k; rw [q]; exact h.resetReq
@[simp] theorem Chip.reject_lastReason (c : Chip) (p : CmdPort) (i : Init) (e : Option Nat) (k : Nat) :
    (c.reject p i e k).lastReason = k := rfl

/-! ### The canonical form of the register file -/

theorem Chip.regs_wf_setReg {c : Chip} (a : Nat) (v : Word) (h : SMap.wf regReset c.regs = true) :
    SMap.wf regReset (c.setReg a v).regs = true := SMap.wf_set a v h

theorem Chip.regs_wf_setN {c : Chip} (a n : Nat) (h : SMap.wf regReset c.regs = true) : SMap.wf regReset (c.setN a n).regs = true :=
  SMap.wf_set a _ h

theorem Chip.regs_wf_setFld {c : Chip} (a : Nat) (f : Fld) (v : Nat) (h : SMap.wf regReset c.regs = true) :
    SMap.wf regReset (c.setFld a f v).regs = true := SMap.wf_set a _ h

theorem Chip.wcopy_wf_copyReg {c : Chip} (a : Nat) (h : SMap.wf regReset c.wcopy = true) :
    SMap.wf regReset (c.copyReg a).wcopy = true := SMap.wf_set a _ h

/-! ### Registers that an event leaves as they are -/

theorem Chip.reg_setN_ne (c : Chip) {a b : Nat} (n : Nat) (h : b ≠ a) : (c.setN a n).reg b = c.reg b := c.reg_setReg_ne _ h

theorem Chip.reg_addCnt_ne (c : Chip) {a b : Nat} (k : Nat) (h : b ≠ a) : (c.addCnt a k).reg b = c.reg b := c.reg_setReg_ne _ h

/-- The register file alone decides what a register reads. -/
theorem Chip.reg_congr {c d : Chip} (h : d.regs = c.regs) (a : Nat) : d.reg a = c.reg a := by rw [Chip.reg, h, Chip.reg]

theorem Chip.reg_scv (c : Chip) (a : Nat) (q : Scv) : Chip.reg { c with scv := q } a = c.reg a := Chip.reg_congr rfl a

theorem Chip.setEvent_regs (c : Chip) (n b : Nat) : ∃ w, (c.setEvent n b).regs = (c.setN (R.EVT_STAT n) w).regs := by
  unfold Chip.setEvent; generalize R.EVT_STAT n = a; exact ⟨_, rfl⟩

theorem Chip.reg_setEvent_ne (c : Chip) (n b : Nat) {a : Nat} (h : a ≠ R.EVT_STAT n) : (c.setEvent n b).reg a = c.reg a := by
  obtain ⟨w, hw⟩ := c.setEvent_regs n b
  rw [Chip.reg_congr hw, Chip.reg_setN_ne c w h]

theorem Chip.reg_record_ne (c : Chip) (t k m : Nat) (l : List Nat) {a : Nat} (h0 : a ≠ R.EVT_STAT 0) (h1 : a ≠ R.SCV_REFUSED)
    (h2 : a ≠ R.SCV_LOST) : (c.record t k m l).reg a = c.reg a := by
  unfold Chip.record
  split
  · exact Chip.reg_addCnt_ne c 1 h1
  · split
    · exact (Chip.reg_scv _ a _).trans ((Chip.reg_setEvent_ne (c.addCnt R.SCV_LOST 1) 0 10 h0).trans (Chip.reg_addCnt_ne c 1 h2))
    · exact Chip.reg_congr rfl a

/-- Raising an event changes only the registers that `eventRegs` lists. -/
theorem Chip.reg_raise_ne (c : Chip) (e : Nat × Nat) {a : Nat} (h : a ∉ eventRegs e) : (c.raise e).reg a = c.reg a := by
  simp only [eventRegs, List.mem_cons, List.not_mem_nil, not_or] at h
  unfold Chip.raise
  simp only
  split
  · rw [Chip.reg_record_ne _ _ _ _ _ h.2.1 h.2.2.1 h.2.2.2.1, Chip.reg_setEvent_ne _ _ _ h.1]
  · exact Chip.reg_setEvent_ne _ _ _ h.1

end Sys2Proof.Machine
end

