-- ==== Sys2Proof/Laws/Store.lean ====
section
/-! SUPPORT. The Common Store: a word reads as it was written, a write leaves every other word alone, and every operation over the
store keeps its canonical form. -/

namespace Sys2Proof.Machine

/-! ### Read after write -/

theorem Chip.cstCell_setCstCell (c : Chip) (k : Nat) (v : DWord) (b : Nat) (r : Bool) (j : Nat) :
    (c.setCstCell k v b r).cstCell j = if j = k then v else c.cstCell j := SMap.get_set _ _ _ _ _

theorem Chip.cstBad_setCstCell (c : Chip) (k : Nat) (v : DWord) (b : Nat) (r : Bool) (j : Nat) :
    (c.setCstCell k v b r).cstBad j = if j = k then b else c.cstBad j := SMap.get_set _ _ _ _ _

theorem Chip.cstRaw_setCstCell (c : Chip) (k : Nat) (v : DWord) (b : Nat) (r : Bool) (j : Nat) :
    (c.setCstCell k v b r).cstRaw j = if j = k then r else c.cstRaw j := SMap.get_set _ _ _ _ _

theorem Chip.cstBad_cstUpset (c : Chip) (k m j : Nat) :
    (c.cstUpset k m).cstBad j = if j = k then c.cstBad k ^^^ m else c.cstBad j := SMap.get_set _ _ _ _ _

@[simp] theorem Chip.cstCell_cstUpset (c : Chip) (k m j : Nat) : (c.cstUpset k m).cstCell j = c.cstCell j := rfl

@[simp] theorem Chip.cstRaw_cstUpset (c : Chip) (k m j : Nat) : (c.cstUpset k m).cstRaw j = c.cstRaw j := rfl

/-! ### The canonical form -/

theorem Memory.wf_iff (m : Cst) :
    Memory.wf m = true ↔ SMap.wf (fun _ => (0 : DWord)) m.words = true ∧ SMap.wf (fun _ => 0) m.bad = true ∧
      SMap.wf (fun _ => false) m.raw = true := by
  simp only [Memory.wf, Bool.and_eq_true, and_assoc]

theorem Memory.wf_reset : Memory.wf State.reset.chip.cst = true := rfl

theorem Memory.wf_setCstCell {c : Chip} (k : Nat) (v : DWord) (b : Nat) (r : Bool) (h : Memory.wf c.cst = true) :
    Memory.wf (c.setCstCell k v b r).cst = true := by
  rw [Memory.wf_iff] at h ⊢
  exact ⟨SMap.wf_set k v h.1, SMap.wf_set k b h.2.1, SMap.wf_set k r h.2.2⟩

theorem Memory.wf_cstUpset {c : Chip} (k m : Nat) (h : Memory.wf c.cst = true) : Memory.wf (c.cstUpset k m).cst = true := by
  rw [Memory.wf_iff] at h ⊢
  exact ⟨h.1, SMap.wf_set k _ h.2.1, h.2.2⟩

/-! ### Reports leave the store as it is -/

theorem Chip.EventsOnly.cstDropped (c : Chip) (m a : Nat) (p : Bool) : c.EventsOnly (c.cstDropped m a p) :=
  ((((Chip.EventsOnly.addCnt c _ _).trans (.setFld _ _ _ _)).trans (.setFld _ _ _ _)).trans (.setFld _ _ _ _)).trans (.raise _ _)

@[simp] theorem Chip.cstDropped_cst (c : Chip) (m a : Nat) (p : Bool) : (c.cstDropped m a p).cst = c.cst :=
  (Chip.EventsOnly.cstDropped c m a p).cst

theorem Chip.EventsOnly.raiseTyped (c : Chip) (e : Nat × Nat) : c.EventsOnly (c.raiseTyped e) := .setEvent c _ _

theorem Chip.EventsOnly.cstCe (c : Chip) (s m a : Nat) : c.EventsOnly (c.cstCe s m a) :=
  ((((Chip.EventsOnly.addCnt c _ _).trans (.setFld _ _ _ _)).trans (.setFld _ _ _ _)).trans (.raiseTyped _ _)).trans (.record _ _ _ _ _)

theorem Chip.EventsOnly.cstUe (c : Chip) (s m a : Nat) : c.EventsOnly (c.cstUe s m a) :=
  ((((Chip.EventsOnly.addCnt c _ _).trans (.setFld _ _ _ _)).trans (.setFld _ _ _ _)).trans (.raiseTyped _ _)).trans (.record _ _ _ _ _)

@[simp] theorem Chip.cstCe_cst (c : Chip) (s m a : Nat) : (c.cstCe s m a).cst = c.cst := (Chip.EventsOnly.cstCe c s m a).cst
@[simp] theorem Chip.cstUe_cst (c : Chip) (s m a : Nat) : (c.cstUe s m a).cst = c.cst := (Chip.EventsOnly.cstUe c s m a).cst

/-- Reports made one after the other leave the store as it is when each does. -/
theorem foldl_cst {α : Type} {f : Chip → α → Chip} (hf : ∀ c x, (f c x).cst = c.cst) (l : List α) (c : Chip) :
    (l.foldl f c).cst = c.cst := by
  induction l generalizing c with
  | nil => rfl
  | cons x l ih => rw [List.foldl_cons, ih, hf]

theorem Chip.foldl_cstDropped_cst (l : List CstAccess) (a : Nat) (c : Chip) :
    (l.foldl (fun c x => c.cstDropped x.master a false) c).cst = c.cst := by
  induction l generalizing c with
  | nil => rfl
  | cons x l ih => rw [List.foldl_cons, ih, Chip.cstDropped_cst]

@[simp] theorem Chip.cstRmwReport_cst (c : Chip) (found a : Nat) (l : List CstAccess) : (c.cstRmwReport found a l).cst = c.cst := by
  unfold Chip.cstRmwReport
  split
  · rfl
  · exact foldl_cst (fun c x => by split <;> simp) l c

@[simp] theorem Chip.cstRawCheck_cst (c : Chip) (k : Nat) : (c.cstRawCheck k).cst = c.cst := by
  simp only [Chip.cstRawCheck, apply_ite Chip.cst, Chip.setN_cst, ite_self]

/-- A physical word written into a store that is as `c`'s. -/
theorem Chip.setCstCell_cst_congr {c d : Chip} (h : d.cst = c.cst) (k : Nat) (v : DWord) (b : Nat) (r : Bool) :
    (d.setCstCell k v b r).cst = (c.setCstCell k v b r).cst := by simp only [Chip.setCstCell, h]

/-- The store after the writes of one cycle to one word: as it was, or with one physical word written. -/
theorem Chip.cstWriteMerged_cst (c : Chip) (a : Nat) (accs : List CstAccess) :
    (c.cstWriteMerged a accs).cst = c.cst ∨
      ∃ v b r, a < c.cstWords ∧ (c.cstWriteMerged a accs).cst = (c.setCstCell (c.cstPhys a) v b r).cst := by
  unfold Chip.cstWriteMerged
  simp only
  split
  · exact .inl rfl
  · split
    · exact .inl (Chip.foldl_cstDropped_cst _ _ _)
    · rename_i h
      refine .inr ?_
      have h := Nat.lt_of_not_ge h
      split
      · refine ⟨_, _, _, h, Chip.setCstCell_cst_congr ?_ _ _ _ _⟩
        simp only [apply_ite Chip.cst, Chip.cstRawCheck_cst, ite_self]
      · exact ⟨_, _, _, h, Chip.setCstCell_cst_congr (Chip.cstRmwReport_cst c _ a _) _ _ _ _⟩

theorem Memory.wf_cstWriteMerged {c : Chip} (a : Nat) (accs : List CstAccess) (h : Memory.wf c.cst = true) :
    Memory.wf (c.cstWriteMerged a accs).cst = true := by
  obtain e | ⟨v, b, r, -, e⟩ := c.cstWriteMerged_cst a accs
  · rw [e]; exact h
  · rw [e]; exact Memory.wf_setCstCell _ v b r h

/-- A merged write of a word leaves every other physical word alone. -/
theorem Chip.cstCell_cstWriteMerged_ne (c : Chip) (a : Nat) (accs : List CstAccess) {j : Nat} (h : j ≠ c.cstPhys a) :
    (c.cstWriteMerged a accs).cstCell j = c.cstCell j := by
  obtain e | ⟨v, b, r, -, e⟩ := c.cstWriteMerged_cst a accs
  · simp only [Chip.cstCell, e]
  · have := c.cstCell_setCstCell (c.cstPhys a) v b r j
    simp only [Chip.cstCell, e] at this ⊢
    rw [this, if_neg h]

theorem Memory.wf_cstWriteList (l : List DWord) : ∀ {c : Chip} (m a : Nat), Memory.wf c.cst = true →
    Memory.wf (c.cstWriteList m a l).cst = true := by
  induction l with
  | nil => intro c m a h; exact h
  | cons v l ih => intro c m a h; exact ih m (a + 1) (Memory.wf_cstWriteMerged a _ h)

@[simp] theorem Chip.declareFatal_cst (c : Chip) (k : Nat) (l : List Nat) (t : Nat) (b : Bool) : (c.declareFatal k l t b).cst = c.cst := by
  unfold Chip.declareFatal
  split <;> rfl

/-- A read leaves the store as it is. -/
@[simp] theorem Chip.cstRead_cst (c : Chip) (m a : Nat) : (c.cstRead m a).1.cst = c.cst := by
  simp only [Chip.cstRead]
  split
  · exact Chip.cstDropped_cst c m a false
  · split
    · exact Chip.cstRawCheck_cst c _
    · split
      · rfl
      · split
        · exact Chip.cstCe_cst c _ m a
        · split
          · exact (Chip.declareFatal_cst _ _ _ _ _).trans (Chip.cstUe_cst c _ m a)
          · exact Chip.cstUe_cst c _ m a

end Sys2Proof.Machine
end

