-- ==== Sys2Proof/Tests/Slice0.lean ====
section
/-! SUPPORT. Tests: ill-formed operands, the manual's worked examples, one-step checks, and for every statement with hypotheses a
concrete state and operands that meet them, clause by clause (witness_<statement>_<clause>). -/

namespace Sys2Proof.Tests

open Sys2Proof.Machine

set_option Elab.async false

/-- The state a command answers; `s` where it answers none. -/
def obNext (s : State) (o : Host.Outcome State Fault Refusal) : State := match o with | .next t => t | _ => s

/-- Does the outcome hold a next state? -/
def answers (o : Host.Outcome State Fault Refusal) : Bool := match o with | .next _ => true | _ => false

theorem next_of_answers {s : State} {o : Host.Outcome State Fault Refusal} (h : answers o = true) : o = .next (obNext s o) := by
  cases o with
  | next t => rfl
  | fault _ => cases h
  | refused _ => cases h

/-! ### Small states -/

/-- Fields put in registers. -/
def flds (c : Chip) (l : List (Nat × Fld × Nat)) : Chip := l.foldl (fun c x => c.setFld x.1 x.2.1 x.2.2) c

/-- An engine at work, with every rail up and nothing configured. -/
def work : Chip := flds { State.reset.chip with pins := { State.reset.chip.pins with porn := false, fault := false, pen := 63, railOk := 31 } } [(R.STW_STATE, F.STW_STATE_STATE, 1), (R.STW_BOOT_STAT, F.STW_BOOT_STAT_STAGE, 9)]

/-- An engine with no command waiting. -/
def st (c : Chip) : State := ⟨[], c⟩

/-! ### Ill-formed operands: one term for each check of WellFormed, refused -/

theorem smoke_start : ([
    .railUp 6 0, .railUp 0 65536, .railTimeout 6, .dramTrainingDone (List.replicate 9 {}) true,
      .dramTrainingDone [{ density := 3 }] true, .imgWrite 2 [], .imgWrite 16777212 [1, 2], .imgGwrite 16777216 0,
      .imgFill 4194304 0 false [], .imgFill 0 4194305 false [], .imgBlob 256 0 0 [], .imgBlob 0 256 0 [], .imgBlob 0 0 4294967296 [],
      .imgWait 16777216 0 0 0, .imgSched 256 [], .imgSched 0 (List.replicate 9 0)] : List Instr).all (fun i => !i.wf) = true := by decide +kernel

theorem smoke_registers : ([
    .bar0UnalignedAccess .host true 16777216 4 0, .bar0UnalignedAccess .sched true 0 2 0, .registerWrite .host 3 0,
      .registerWrite .sched 0 0, .fence .sched, .woWrite .host 16777216 0, .stampTripleRead .host 5, .stampTripleWrite .host 6 0,
      .counterValueWrite .host 7 0, .statusRegisterRead .host 64, .statusClear .host 64 0, .msixVectorUnmask 64,
      .guardFirstWrite .host 9 0, .guardMirrorWrite .host 10 0, .registerAudit [(1, 0)]] : List Instr).all (fun i => !i.wf) = true := by decide +kernel

theorem smoke_epoch : ([
    .epochWord false [2, 1], .epochWord false (List.range 193), .irigFrame 0 (List.replicate 101 0), .ppsEdge true (2 ^ 64) 0,
      .scheduleFire 256, .schLoad .host false 256, .scheduleWake 256] : List Instr).all (fun i => !i.wf) = true := by decide +kernel

theorem smoke_groups : ([
    .sampleDelivered 8 [] 0, .sampleDelivered 0 [] (2 ^ 64), .sampleDelivered 0 [⟨2, 0, 0⟩, ⟨1, 0, 0⟩] 0,
      .sampleDelivered 0 [⟨0, 32, 0⟩] 0, .cqEdgeAccepted 8 0 true 0 [] 0, .cqEdgeAccepted 0 16 true 0 [] 0,
      .cqEdgeAccepted 0 0 true 65536 [] 0, .cqEdgeAccepted 0 0 true 0 [⟨-1025, 0, 0⟩] 0, .cqEdgeAccepted 0 0 true 0 [] (2 ^ 64),
      .overrunGapEnd 8, .detcapRearm .host 8 0, .analogSettingWrite .host 3 0, .lgApply .host 8, .lgCal .host 8, .calEnd 8 [],
      .calEnd 0 (List.replicate 33 none), .codecBlockStart 8, .codecBlockDone 8 none, .fulInject .host 8, .blockAllocate 8] : List Instr).all (fun i => !i.wf) = true := by decide +kernel

theorem smoke_partitions : ([
    .sampleEvaluated 16 0 0 0 none, .xtLineExpire 32, .trigPulseEnd 32, .postSpanEnd 16, .holdCmd .host 16, .arm .host 16,
      .disarm .host 16, .prtMark .host 16 0, .prtMark .host 0 256, .free .host 16 0, .free .host 0 128, .autoFree 16,
      .segmentCommit 16 0, .segmentCommit 0 256, .segmentPushRetry 16] : List Instr).all (fun i => !i.wf) = true := by decide +kernel

theorem smoke_readout : ([
    .carPush .host 8 0, .carPop .host 8, .carRelease .host 8 0, .carRelease .host 0 4294967296, .carMark .host 8, .carRewind .host 8,
      .queueStall 8, .dmaDescriptorPop [(2 ^ 64, 0)], .dmaDescriptorPop [(0, 2 ^ 32)], .pcieLink 8 1 true, .pcieLink 1 17 true,
      .ethFrameReceived 4 [] true, .ethFrameReceived 0 [256] true, .ethFrameTransmit 4, .ethLink 4 true, .strStart .host 4,
      .strStop .host 4, .streamerPop 4, .streamerTimeout 4] : List Instr).all (fun i => !i.wf) = true := by decide +kernel

theorem smoke_clocks : ([
    .ckoPhaseWrite .host 8 0, .refLoss 8 0, .synLocked [] 256 0, .synLocked [] 0 256, .synUnlock (some 16) [], .ckoPpsPulseStart 8,
      .ckoPpsPulseEnd 8] : List Instr).all (fun i => !i.wf) = true := by decide +kernel

theorem smoke_memories : ([
    .mcTrain .host 256, .mcSweep .host 8, .trnDone 8 [], .trnDone 0 [⟨0, 0, 2 ^ 1280⟩], .readoutAdmit 16 0 0 false,
      .readoutAdmit 0 0 (2 ^ 48) false, .dramCommand 8, .dramReadReturn 8 0 0 0 [], .dramReadReturn 0 (2 ^ 40) 0 0 [],
      .dramReadReturn 0 0 16 0 [], .dramReadReturn 0 0 0 3 [], .dramReadReturn 0 0 0 0 [(20, 1)], .dramReadReturn 0 0 0 0 [(0, 16)],
      .refreshDue 8 0, .refreshDue 0 2, .refreshWindowStart 8, .dramTempPoll 8 0 [], .dramTempPoll 0 0 [256], .patrolScrubRead 8 [],
      .patrolScrubRead 0 [(20, 1)], .dqsDriftCorrect 8 0, .dqsDriftCorrect 0 (-2), .dqsDriftCorrect 0 2, .bar2Write 134217728 [],
      .bar2Write 2 [], .bar2Write 0 (List.replicate 129 ⟨0, 0⟩), .bar2Read 134217728 [], .bar2Read 2 [],
      .bar2Read 0 (List.replicate 1025 0), .cstBankAccess 64 [], .cstBankAccess 0 [{ master := 20, word := 0, kind := 0 }],
      .cstBankAccess 0 [{ master := 0, word := 0, kind := 0, upset := 2 ^ 72 }],
      .cstBankAccess 0 [{ master := 0, word := 4194304, kind := 0 }], .cstBankAccess 0 [{ master := 0, word := 0, kind := 4 }],
      .cstBankAccess 0 [{ master := 0, word := 0, kind := 0, mask := 256 }], .cstScrub 64 0, .cstScrub 0 (2 ^ 72)] : List Instr).all (fun i => !i.wf) = true := by decide +kernel

theorem smoke_steward : ([
    .scrivenerWrite (some 32768), .scvExported (some (false, 32768)), .scvLoad .host false 64, .mailboxServe [256],
      .dieSensorPoll (List.replicate 17 0), .hwThermalTrip 16 0, .railMonitorPoll (List.replicate 17 0), .pmbusPoll 16 0,
      .pmbusPoll 0 65536, .pwrGo .host 8, .pwrWake 8, .nvBufferDrain 4294967297] : List Instr).all (fun i => !i.wf) = true := by decide +kernel

/-! ### The manual's worked examples -/

/-- The ASCII string of the check values. -/
def digits : List Nat := [0x31, 0x32, 0x33, 0x34, 0x35, 0x36, 0x37, 0x38, 0x39]

/-- R36: the check value 0x29B1. -/
theorem test_crc16 : crc16 digits = 0x29b1 := by decide +kernel

/-- R201: the check value 0xE306_9283. -/
theorem test_crc32c : crc32c digits = 0xe3069283 := by decide +kernel

/-- R53's example: P_q at 2.5 GS/s. -/
theorem test_period_quanta : work.lanePq 0 = 7378697629 := by decide +kernel

/-- Spec 03: L = 640 taps at 2.5 GHz. -/
theorem test_tap_limit : work.tapLimit = 640 := by decide +kernel

/-- The example of R204: the distance alphabet with weight 128 for symbol 3 and weight 1 for the 31 others. -/
theorem test_code_lengths : codeLengths ((List.range 32).map (fun i => if i = 3 then 33 else 0)) =
    [6, 6, 6, 1, 6, 6, 6, 6, 6, 6, 6, 6, 6, 6, 6, 6, 6, 6, 6, 6, 6, 6, 6, 6, 6, 6, 6, 6, 6, 6, 6, 5] := by decide +kernel

/-- Spec 09, decoding one block by hand: h(0x0000_0C3A) = 14,626. -/
theorem test_word_hash : wordHash 0xc3a = 14626 := by decide +kernel

/-- The nominal build of eight 16 GB channels. -/
def nominal : Chip :=
  { flds work [(R.MCX_STAT, F.MCX_STAT_STATE, 2), (R.MCX_STAT, F.MCX_STAT_NCH, 8)] with mc := { work.mc with dimmBytes := 17179869184 } }

/-- Spec 07: CAP of the nominal build, and where its block at 0x1_2345_6789 begins. -/
theorem test_striping : nominal.capBytes = 135291469824 ∧ nominal.capMap 0x123456789 = (6, 0x3468a789) := by decide +kernel

/-- Spec 07: the first, the whole and the last pieces of that block of 16,400 bytes. -/
theorem test_unit_pieces : (unitPieces 10 0x123456789 16400).map (fun x => x.2) = [2167, 4096, 4096, 4096, 1945] := by decide +kernel

/-- The Common Store word of Table 14-2. -/
def table142 : Chip := work.setCstCell 0x12340 0xf0 0

/-- Table 14-2, cycle c: the host sets 0x0F, the Steward clears 0x30. -/
theorem test_set_clear_merge :
    (obNext (st table142) (exec (.cstBankAccess 0 [⟨19, 0x12340, 1, 0x0f, 255, 0⟩, ⟨18, 0x12340, 2, 0x30, 255, 0⟩]) (st table142))).chip.cstCell
      0x12340 = 0xcf := by decide +kernel

/-- Table 14-2, cycle c + 1: SQ5 reads what the Carter engine writes. -/
theorem test_read_with_write :
    (obNext (st table142) (exec (.cstBankAccess 0 [⟨5, 0x12340, 3, 0, 255, 0⟩, ⟨17, 0x12340, 0, 0x1234, 255, 0⟩]) (st table142))).chip.cstCell
      0x12340 = 0x1234 := by decide +kernel

/-- Spec 15, the guarded pair of `CLK_SRC`: the first write arms the pair, its mirror completes it. -/
theorem test_clk_src_pair :
    let s1 := obNext (st work) (exec (.guardFirstWrite .host 0x20018 1) (st work))
    s1.chip.acc.guardHost.isSome = true ∧ s1.chip.flag R.CLK_SRC F.CLK_SRC_REF_SEL = false ∧
      (obNext s1 (exec (.guardMirrorWrite .host 0x820018 0xfffffffe) s1)).chip.flag R.CLK_SRC F.CLK_SRC_REF_SEL = true := by decide +kernel

/-- Spec 18, die sensor 9: 121.5 °C leaves the engine running; a second reading at or above CRIT enters Safe with cause 0x08. -/
theorem test_die_sensor :
    let s1 := obNext (st work) (exec (.dieSensorPoll (List.replicate 9 400 ++ [972])) (st work))
    let s2 := obNext s1 (exec (.dieSensorPoll (List.replicate 9 400 ++ [976])) s1)
    s1.chip.inSafe = false ∧ s2.chip.inSafe = true ∧ s2.chip.fld R.STW_STATE F.STW_STATE_CAUSE = 8 ∧ s2.chip.pins.fault = true := by
  decide +kernel

/-- Table 20-2: `SQ3_L5_B2_COND`, `PRT9_HOLD_CMD` and `ORT_PS7_KEY3`. -/
theorem test_addresses : R.SQ_B_COND 3 (brIdx 5 2) = 0x131160 ∧ R.PRT_HOLD_CMD 9 = 0x309830 ∧ R.ORT_PS_KEY 7 3 = 0x7013ac := by decide

/-! ### One step -/

/-- No command waits after reset, and none is spelled by a word. -/
theorem test_no_word : decodeTableWord 32 0x12345678 = none ∧ (State.reset.withFetchWord 32 5).pending = [] := by decide

/-- A step takes the first of two commands. -/
theorem test_first_in_first_out :
    (obNext (st work) (step ⟨[.evtRaise, .fence .host], work⟩)).pending = [.fence .host] := by decide +kernel

/-- Time passes while PORN is low, and nothing else does. -/
theorem test_porn_holds :
    (obNext State.reset (exec (.registerWrite .host R.EVT_RAISE 1) State.reset)).chip.regs = State.reset.chip.regs := by decide +kernel

/-! ### Witnesses of the statements' hypotheses -/

theorem witness_ProcessorFaultEntersSafe :
    (st work).chip.atWork = true := by decide

theorem witness_WarmResetRestarts :
    (st work).chip.quiet = true ∧
    (st work).chip.frozen = false ∧
    (st work).chip.scv.queue = [] := by decide

theorem witness_IdleStep :
    (st work).pending = [] := by decide

theorem witness_EveryCommandAnswers_2 :
    (Instr.railUp 6 0).wf = false := by decide

theorem witness_StoppedPartsDoNothing_1 :
    State.reset.chip.pins.porn = true ∧
    Instr.warmReset.wf = true ∧
    Instr.warmReset ≠ Instr.pornAssert ∧
    (∀ (f : Option FlashFit), Instr.warmReset ≠ Instr.pornRelease f) := ⟨by decide, by decide, by decide, fun _ h => by cases h⟩

def cStoppedPartsDoNothing2 : Chip := flds work [(R.PWR_STAT, F.PWR_STAT_STATE, 1)]

theorem witness_StoppedPartsDoNothing_2 :
    (st cStoppedPartsDoNothing2).chip.pins.porn = false ∧
    (st cStoppedPartsDoNothing2).chip.pwr.up = none ∧
    (Instr.blockAllocate 0).wf = true ∧
    (needOf (Instr.blockAllocate 0) = Need.data ∧ 1 ≤ (st cStoppedPartsDoNothing2).chip.ladder ∧ (st cStoppedPartsDoNothing2).chip.ladder ≤ 4 ∨ needOf (Instr.blockAllocate 0) = Need.fabric ∧ 3 ≤ (st cStoppedPartsDoNothing2).chip.ladder ∧ (st cStoppedPartsDoNothing2).chip.ladder ≤ 4 ∨ needOf (Instr.blockAllocate 0) = Need.steward ∧ (st cStoppedPartsDoNothing2).chip.ladder = 4) := by decide

def cStoppedPartsDoNothing2b : Chip := flds work [(R.PWR_STAT, F.PWR_STAT_STATE, 3)]

theorem witness_StoppedPartsDoNothing_2b :
    (st cStoppedPartsDoNothing2b).chip.pins.porn = false ∧
    (st cStoppedPartsDoNothing2b).chip.pwr.up = none ∧
    (Instr.trsApply Init.host).wf = true ∧
    (needOf (Instr.trsApply Init.host) = Need.data ∧ 1 ≤ (st cStoppedPartsDoNothing2b).chip.ladder ∧ (st cStoppedPartsDoNothing2b).chip.ladder ≤ 4 ∨ needOf (Instr.trsApply Init.host) = Need.fabric ∧ 3 ≤ (st cStoppedPartsDoNothing2b).chip.ladder ∧ (st cStoppedPartsDoNothing2b).chip.ladder ≤ 4 ∨ needOf (Instr.trsApply Init.host) = Need.steward ∧ (st cStoppedPartsDoNothing2b).chip.ladder = 4) := by decide

def cStoppedPartsDoNothing2c : Chip := flds work [(R.PWR_STAT, F.PWR_STAT_STATE, 4)]

theorem witness_StoppedPartsDoNothing_2c :
    (st cStoppedPartsDoNothing2c).chip.pins.porn = false ∧
    (st cStoppedPartsDoNothing2c).chip.pwr.up = none ∧
    Instr.stepApply.wf = true ∧
    (needOf Instr.stepApply = Need.data ∧ 1 ≤ (st cStoppedPartsDoNothing2c).chip.ladder ∧ (st cStoppedPartsDoNothing2c).chip.ladder ≤ 4 ∨ needOf Instr.stepApply = Need.fabric ∧ 3 ≤ (st cStoppedPartsDoNothing2c).chip.ladder ∧ (st cStoppedPartsDoNothing2c).chip.ladder ≤ 4 ∨ needOf Instr.stepApply = Need.steward ∧ (st cStoppedPartsDoNothing2c).chip.ladder = 4) := by decide

def kicked : Chip := { work with evt := { work.evt with kick := 3 } }

theorem witness_AfterFrame :
    kicked.fatal = none ∧
    kicked.resetReq = false := by decide

/-- A signed image of 388 bytes, as a little-endian number, built by hand from R399 to R402 with a key of its own: group 0 with a firmware BLOB of four bytes, group 1 with END. -/
def imageBytes : Nat :=
  0xf0c8c978356c98b64cddd407cfc429e32ccc15a188706be353d6a7539b274fcdfaa43849d049eec09a6a03f4c9337540733eaa783e4f48c4332e334a6edd28b99a9d336e354ad7cb0db88a99292642e850f1c7ee8c207465aa1184a5a6a0d4770004007f7c4e0b660000000464636261000000000000000100100005cf8e576c000000105cef006b0000000000000000000000000000000000000000000000000000000000000000000000000000000000000000000000000000000000000000000000000000000000000000000000000000000000000000000000000000000000000000000000000000007d37721c5a644159f9aa0f0b5b3b8057f89d09df118d6d72cafaa560c5cf904547dba8cd002460b55ea05de72ab705dc5899a2d24ce5a44246474991b6c8dd27e7dcaa1d7daba794bed66b412528f2b1395e507527b907f824cc7cf75cfe6629040000000000000000000000020000000a000000000000000011223344556677880000925600000007000000240000018400010001544c4853

def image : FlashSlot := { vendorOk := true, bytes := leBytes 388 imageBytes }

def fitA : FlashFit := { slotA := image, ctl1 := BootCtl.bytes { seq := 7, active := 1 } }

theorem witness_PinsAndStages_2 :
    (Instr.pornRelease (some fitA)).wf = true ∧
    State.reset.chip.pins.porn = true ∧
    State.reset.chip.fatal = none ∧
    State.reset.chip.resetReq = false ∧
    (State.reset.chip.flashFit (some fitA)).bctl.pending = 0 ∧
    (State.reset.chip.flashFit (some fitA)).bctl.active < 2 := by decide +kernel

theorem witness_PinsAndStages_2b :
    (Instr.pornRelease none).wf = true ∧
    State.reset.chip.pins.porn = true ∧
    State.reset.chip.fatal = none ∧
    State.reset.chip.resetReq = false ∧
    (State.reset.chip.flashFit none).bctl.pending = 0 ∧
    (State.reset.chip.flashFit none).bctl.active < 2 := by decide

def start (k : Nat) : Chip := flds work [(R.STW_STATE, F.STW_STATE_STATE, 0), (R.STW_BOOT_STAT, F.STW_BOOT_STAT_STAGE, k)]

/-- FIPS 180-4: the digest of the three bytes abc, as a big-endian number. -/
theorem test_sha384_abc :
    beNat (sha384 [97, 98, 99]) = 0xcb00753f45a35e8bb5a03d699ac65007272c32ab0eded1631a8b605a43ff5bed8086072ba1e7cc2358baeca134c825a7 := by
  decide +kernel

theorem test_sha256_abc :
    beNat (sha256 [97, 98, 99]) = 0xba7816bf8f01cfea414140de5dae2223b00361a396177a9cb410ff61f20015ad := by decide +kernel

def cPinsAndStages3 : Chip := { start 2 with boot := { (start 2).boot with slotA := image } }

theorem witness_PinsAndStages_3 :
    (st cPinsAndStages3).chip.inStart 2 = true ∧
    (st cPinsAndStages3).chip.imgVerify ((st cPinsAndStages3).chip.slot (st cPinsAndStages3).chip.boot.runSlot) true = 0 := by decide +kernel

/-- Table 17-5: a flash error is found after every check before it, and a wrong byte of the image's body by the signature. -/
theorem test_image_flash_error : (st cPinsAndStages3).chip.imgVerify image false = 11 := by decide +kernel
theorem test_image_bad_byte : (st cPinsAndStages3).chip.imgVerify (image.overlay 276 [0]) true = 5 := by decide +kernel

def rail (m p : Nat) (c : Chip) : Chip := { c with pins := { c.pins with railOk := m, pen := p } }

theorem witness_PinsAndStages_4 :
    0 < 65536 ∧
    (st (rail 0 1 (start 1))).chip.quiet = true ∧
    (st (rail 0 1 (start 1))).chip.railAwaited = some 0 ∧
    ((st (rail 0 1 (start 1))).chip.pmAddr 0 = 0 ∨ 0 = 0) ∧
    0 = 0 := by decide

theorem witness_PinsAndStages_4b :
    0 < 65536 ∧
    (st (rail 1 3 (start 3))).chip.quiet = true ∧
    (st (rail 1 3 (start 3))).chip.railAwaited = some 1 ∧
    ((st (rail 1 3 (start 3))).chip.pmAddr 1 = 0 ∨ 0 = 0) ∧
    1 ≤ 1 ∧
    1 ≤ 3 := by decide

/-- No regulator behind any pin. -/
def bare : Chip := { rail 7 15 (start 3) with boot := { (start 3).boot with slotA := { bytes := zeros 256 } } }

theorem witness_PinsAndStages_4c :
    65535 < 65536 ∧
    (st bare).chip.quiet = true ∧
    (st bare).chip.railAwaited = some 3 ∧
    ((st bare).chip.pmAddr 3 = 0 ∨ 65535 = 0) ∧
    1 ≤ 3 ∧
    3 ≤ 3 := by decide

theorem witness_PinsAndStages_4d :
    0 < 65536 ∧
    (st (rail 15 31 (start 3))).chip.quiet = true ∧
    (st (rail 15 31 (start 3))).chip.railAwaited = some 4 ∧
    ((st (rail 15 31 (start 3))).chip.pmAddr 4 = 0 ∨ 0 = 0) ∧
    4 = 4 := by decide

theorem witness_PinsAndStages_4e :
    0 < 65536 ∧
    (st (rail 31 63 work)).chip.quiet = true ∧
    (st (rail 31 63 work)).chip.railAwaited = some 5 ∧
    ((st (rail 31 63 work)).chip.pmAddr 5 = 0 ∨ 0 = 0) ∧
    5 = 5 := by decide

theorem witness_PinsAndStages_5 :
    (st (start 6)).chip.inStart 6 = true ∧
    (st (start 6)).chip.acc.woDone.contains R.CST_BANK_FAIL_L = false ∧
    (st (start 6)).chip.acc.woDone.contains R.CST_BANK_FAIL_H = false := by decide

def dimm : DimmFacts := { present := true, sizeMb := 16384, speed := 4800 }

def dimms4 : List DimmFacts := List.replicate 4 { dimm with delays := [(1280, 5)] }

theorem witness_DramStartUp :
    (st (start 5)).chip.inStart 5 = true ∧
    (Instr.dramTrainingDone dimms4 true).wf = true ∧
    dimmCount dimms4 = some 4 ∧
    (∀ (k : Nat), k < 4 → dimmBad (dimmOf dimms4 k) = false) ∧
    (st (start 5)).chip.dimmGrade dimms4 4 = some 0 ∧
    (st (start 5)).chip.cachedDelays dimms4 4 0 true = none ∧
    (∀ (k : Nat), k < 4 → (dimmOf dimms4 k).trained = true) := by decide

def cache4 : TrnCache := ⟨trainKey dimms4 4 0, (List.range 4).map (fun k => (k, [(1280, 7)]))⟩

def cDramStartUpb : Chip := { start 5 with mc := { (start 5).mc with cache := some cache4 } }

theorem witness_DramStartUpb :
    (st cDramStartUpb).chip.inStart 5 = true ∧
    (Instr.dramTrainingDone dimms4 true).wf = true ∧
    dimmCount dimms4 = some 4 ∧
    (∀ (k : Nat), k < 4 → dimmBad (dimmOf dimms4 k) = false) ∧
    (st cDramStartUpb).chip.dimmGrade dimms4 4 = some 0 ∧
    (st cDramStartUpb).chip.cachedDelays dimms4 4 0 true = some (List.map (fun k => (k, [(1280, 7)])) (List.range 4)) := ⟨by decide +kernel, by decide +kernel, by decide +kernel, by decide +kernel, by decide +kernel, (by simp [cDramStartUpb, Chip.cachedDelays, st, cache4]; decide)⟩

def cDramStartUpc : Chip := { start 5 with mc := { (start 5).mc with cache := some cache4 } }

theorem witness_DramStartUpc :
    (st cDramStartUpc).chip.inStart 5 = true ∧
    (Instr.dramTrainingDone dimms4 false).wf = true ∧
    dimmCount dimms4 = some 4 ∧
    (∀ (k : Nat), k < 4 → dimmBad (dimmOf dimms4 k) = false) ∧
    (st cDramStartUpc).chip.dimmGrade dimms4 4 = some 0 ∧
    (st cDramStartUpc).chip.cachedDelays dimms4 4 0 false = none ∧
    (∀ (k : Nat), k < 4 → (dimmOf dimms4 k).trained = true) := by decide

theorem witness_FailuresAndResets_1 :
    (st (rail 1 3 (start 3))).chip.quiet = true ∧
    (st (rail 1 3 (start 3))).chip.railAwaited = some 1 := by decide

theorem witness_FailuresAndResets_1b :
    (st (rail 0 1 (start 1))).chip.quiet = true ∧
    (st (rail 0 1 (start 1))).chip.railAwaited = some 0 := by decide

theorem witness_FailuresAndResets_1c :
    (st (rail 31 63 work)).chip.quiet = true ∧
    (st (rail 31 63 work)).chip.railAwaited = some 5 := by decide

def cFailuresAndResets2 : Chip := { start 2 with boot := { (start 2).boot with slotA := { image with bytes := [0] } } }

theorem witness_FailuresAndResets_2 :
    (st cFailuresAndResets2).chip.inStart 2 = true ∧
    (st cFailuresAndResets2).chip.imgVerify ((st cFailuresAndResets2).chip.slot (st cFailuresAndResets2).chip.boot.runSlot) true ≠ 0 := by
  decide +kernel

theorem witness_FailuresAndResets_2b :
    (st (start 7)).chip.inStart 7 = true ∧
    (st (start 7)).chip.boot.wait = none ∧
    (st (start 7)).chip.groupBegins = true := by decide

def recs : Chip := flds (start 7) [(R.CST_STAT, F.CST_STAT_MARCH_DONE, 1), (R.CST_BANK_FAIL_L, ⟨0, 32⟩, 0), (R.CST_BANK_FAIL_H, ⟨0, 32⟩, 0)]

def waitR1 : WaitRec := ⟨R.CLK_STAT, 1, 1, 0, 100⟩

def cFailuresAndResets3 : Chip := { recs with boot := { recs.boot with wait := some waitR1 } }

theorem witness_FailuresAndResets_3 :
    (st cFailuresAndResets3).chip.inStart 7 = true ∧
    (st cFailuresAndResets3).chip.boot.wait = some waitR1 ∧
    ((st cFailuresAndResets3).chip.waitLine waitR1.due).waitMet waitR1 = false := by decide

theorem witness_FailuresAndResets_4 :
    8 < 9 ∧
    (st (start 8)).chip.inStart 8 = true := by decide

theorem witness_FailuresAndResets_4b :
    0 < 9 ∧
    (st (start 0)).chip.inStart 0 = true := by decide

def cFailuresAndResets5 : Chip := { work with boot := { work.boot with failResetDue := true } }

theorem witness_FailuresAndResets_5 :
    (st cFailuresAndResets5).chip.pins.porn = false ∧
    (st cFailuresAndResets5).chip.ladder ≠ 4 ∧
    (st cFailuresAndResets5).chip.boot.failResetDue = true ∧
    (st cFailuresAndResets5).chip.scv.exportTo = none ∧
    (st cFailuresAndResets5).chip.stw.dead = false := by decide

def cFailuresAndResets6 : Chip := { work with stw := { work.stw with resetAt := some 7 } }

theorem witness_FailuresAndResets_6 :
    (st cFailuresAndResets6).chip.pins.porn = false ∧
    (st cFailuresAndResets6).chip.ladder ≠ 4 ∧
    (st cFailuresAndResets6).chip.stw.dead = false ∧
    (st cFailuresAndResets6).chip.stw.resetAt = some 7 := by decide

def cFailuresAndResets7 : Chip := { flds work [(R.STW_STATE, F.STW_STATE_STATE, 2)] with stw := { work.stw with autoDue := true } }

theorem witness_FailuresAndResets_7 :
    (st cFailuresAndResets7).chip.pins.porn = false ∧
    (st cFailuresAndResets7).chip.ladder ≠ 4 ∧
    (st cFailuresAndResets7).chip.stw.autoDue = true ∧
    (st cFailuresAndResets7).chip.inSafe = true := by decide

def cFailuresAndResets8 : Chip := { work with boot := { work.boot with bctl0 := some { pending := 1, flags := 17 }, fromPending := true, slotA := image } }

theorem witness_FailuresAndResets_8 :
    (st cFailuresAndResets8).chip.atWork = true ∧
    (st cFailuresAndResets8).chip.inTrial = true := by decide

theorem witness_FailuresAndResets_9 :
    (st work).chip.atWork = true := by decide

/-- The engine in a start, where the group whose records are applied, at slot offset 0, holds the bytes `b` of records (R400, R402). -/
def before (c : Chip) (b : List Nat) : Chip :=
  { c with boot := { c.boot with slotA := { bytes := leBytes 4 b.length ++ [0, 0, 0, 0] ++ b }, grpAt := 0, recAt := 8 } }

def atWrite : Chip := before recs ([1, 0, 16, 0] ++ leBytes 4 (R.TRS_WR_CTRL 0) ++ [1, 0, 0, 0, 2, 0, 0, 0])

theorem witness_ImageRecords_1 :
    (st atWrite).chip.inRecords = true ∧
    (st atWrite).chip.recIs (.write (R.TRS_WR_CTRL 0) [1, 2]) = true ∧
    (Instr.imgWrite (R.TRS_WR_CTRL 0) [1, 2]).wf = true ∧
    (ImgRec.write (R.TRS_WR_CTRL 0) [1, 2]).badAddress = false := by decide +kernel

def atGwrite (a : Nat) : Chip := before recs ([2, 0, 12, 0] ++ leBytes 4 a ++ [4, 0, 0, 0])

theorem witness_ImageRecords_2 :
    (st (atGwrite R.GLB_PROFILE)).chip.inRecords = true ∧
    (st (atGwrite R.GLB_PROFILE)).chip.recIs (.gwrite R.GLB_PROFILE 4) = true ∧
    R.GLB_PROFILE ∈ [R.GLB_PROFILE, R.GLB_CFG_LOCK, R.EPC_SET_H, R.CLK_SRC, R.MCX_TRN_COMMIT, R.PWR_FORCE] := by decide +kernel

theorem witness_ImageRecords_2b :
    (st (atGwrite R.PWR_FORCE)).chip.inRecords = true ∧
    (st (atGwrite R.PWR_FORCE)).chip.recIs (.gwrite R.PWR_FORCE 4) = true ∧
    R.PWR_FORCE ∈ [R.GLB_PROFILE, R.GLB_CFG_LOCK, R.EPC_SET_H, R.CLK_SRC, R.MCX_TRN_COMMIT, R.PWR_FORCE] := by decide +kernel

def atFence : Chip := before recs [3, 0, 4, 0]

theorem witness_ImageRecords_3 :
    (st atFence).chip.inRecords = true ∧
    (st atFence).chip.recIs .fence = true := by decide +kernel

def atFirmware (k : Nat) : Chip := before (start k) [5, 0, 16, 0, 1, 0, 0, 0, 0, 0, 0, 0, 97, 98, 99, 100]

theorem witness_ImageRecords_4 :
    (1 = 1 ∨ 1 = 2) ∧
    (st (atFirmware 1)).chip.inStart 1 = true ∧
    0 < 256 ∧
    (st (atFirmware 1)).chip.fwLen < 4294967296 ∧
    (st (atFirmware 1)).chip.recIs (.blob 1 0 (st (atFirmware 1)).chip.fwLen [0x64636261]) = true := by decide +kernel

theorem witness_ImageRecords_4b :
    (2 = 1 ∨ 2 = 2) ∧
    (st (atFirmware 2)).chip.inStart 2 = true ∧
    0 < 256 ∧
    (st (atFirmware 2)).chip.fwLen < 4294967296 ∧
    (st (atFirmware 2)).chip.recIs (.blob 1 0 (st (atFirmware 2)).chip.fwLen [0x64636261]) = true := by decide +kernel

def atProgram : Chip := before recs [5, 0, 16, 0, 2, 15, 0, 0, 0xfc, 0x13, 0, 0, 1, 0, 0, 0]

theorem witness_ImageRecords_5 :
    (st atProgram).chip.inRecords = true ∧
    (st atProgram).chip.recIs (.blob 2 15 5116 [1]) = true ∧
    15 < 16 ∧
    5116 % 4 = 0 ∧
    5116 + 4 * [1].length ≤ 5120 := by decide +kernel

def atWait : Chip := before recs ([6, 0, 20, 0, 0xfc, 0xff, 0x7f, 0, 1, 0, 0, 0, 1, 0, 0, 0] ++ leBytes 4 500000)

theorem witness_ImageRecords_6 :
    (st atWait).chip.inRecords = true ∧
    (st atWait).chip.recIs (.wait 8388604 1 1 500000) = true ∧
    8388604 < 8388608 ∧
    500000 ≤ 500000 := by decide +kernel

def waitR0 : WaitRec := ⟨R.CLK_STAT, 1, 0, 0, 100⟩

def waits : Chip := { recs with boot := { recs.boot with wait := some waitR0 } }

theorem witness_ImageRecords_7 :
    (st waits).chip.inStart 7 = true ∧
    (st waits).chip.boot.wait = some waitR0 ∧
    (st waits).chip.waitMet waitR0 = true := by decide

def atFill : Chip := before recs [4, 0, 28, 0, 64, 0, 0, 0, 2, 0, 0, 0, 1, 0, 0, 0, 0, 0, 0, 0, 2, 0, 0, 0, 0, 0, 0, 0]

theorem witness_ImageRecords_8 :
    (st atFill).chip.inRecords = true ∧
    (st atFill).chip.recIs (.fill 64 2 false [1, 2]) = true ∧
    64 < 4194304 ∧
    64 + 2 ≤ 4194304 := by decide +kernel

def atPattern : Chip := before recs [4, 1, 20, 0, 64, 0, 0, 0, 3, 0, 0, 0, 1, 0, 0, 0, 0, 0, 0, 0]

theorem witness_ImageRecords_9 :
    (st atPattern).chip.inRecords = true ∧
    (st atPattern).chip.recIs (.fill 64 3 true [1]) = true ∧
    64 < 4194304 ∧
    64 + 3 ≤ 4194304 := by decide +kernel

def atSched : Chip := before recs ([7, 0, 56, 0, 255, 0, 0, 0] ++ [1, 2, 3, 4, 5, 6].flatMap (leBytes 8))

theorem witness_ImageRecords_10 :
    (st atSched).chip.inRecords = true ∧
    (st atSched).chip.recIs (.sched 255 [1, 2, 3, 4, 5, 6]) = true ∧
    255 < 256 ∧
    ([1, 2, 3, 4, 5, 6] : List DWord).length = 6 := by decide +kernel

def atEnd : Chip := before recs [0x7f, 0, 4, 0]

theorem witness_StartCompletes :
    (st atEnd).chip.inRecords = true ∧
    (st atEnd).chip.recIs .endRec = true ∧
    (st atEnd).chip.boot.deferred = [] ∧
    (∀ (p : Nat), p < 16 → ((st atEnd).chip.setStage 8).segShort p = false) ∧
    ((st atEnd).chip.slot (st atEnd).chip.boot.runSlot).provision = false ∧
    (st atEnd).chip.boot.fromPending = false := by decide +kernel

theorem witness_UnalignedAccess :
    (st work).chip.atWork = true ∧
    Init.host ≠ Init.sched ∧
    16777215 < 16777216 ∧
    (4 ≠ 4 ∨ 16777215 % 4 ≠ 0) := by decide

theorem witness_UnalignedAccessb :
    (st work).chip.atWork = true ∧
    Init.steward ≠ Init.sched ∧
    0 < 16777216 ∧
    (2 ≠ 4 ∨ 0 % 4 ≠ 0) := by decide

def rowOf (a : Nat) : RegRow := (regRow a).getD { name := "", off := 0, stride := 0, count := 0, stride2 := 0, count2 := 0, reset := 0 }

theorem witness_PlainRegisterWrite_1 :
    (st work).chip.atWork = true ∧
    Init.host ≠ Init.sched ∧
    R.EVT_SCV 0 % 4 = 0 ∧
    plainReg (R.EVT_SCV 0) (rowOf (R.EVT_SCV 0)) = true := by decide

theorem witness_PlainRegisterWrite_2 :
    (st work).chip.atWork = true ∧
    Init.host ≠ Init.sched ∧
    ((∃ g k, g < 8 ∧ k < 32 ∧ R.LG_CH_CFG 7 31 = R.LG_CH_CFG g k) ∨ ∃ n, n < 32 ∧ R.LG_CH_CFG 7 31 = R.TRS_TRIG_CFG n) := ⟨by decide, by decide, Or.inl ⟨7, 31, by decide, by decide, rfl⟩⟩

def cPlainRegisterWrite2b : Chip := flds work [(R.GLB_CFG_LOCK, F.GLB_CFG_LOCK_LOCK, 1)]

theorem witness_PlainRegisterWrite_2b :
    (st cPlainRegisterWrite2b).chip.atWork = true ∧
    Init.steward ≠ Init.sched ∧
    ((∃ g k, g < 8 ∧ k < 32 ∧ R.LG_CH_CFG 0 0 = R.LG_CH_CFG g k) ∨ ∃ n, n < 32 ∧ R.LG_CH_CFG 0 0 = R.TRS_TRIG_CFG n) := ⟨by decide, by decide, Or.inl ⟨0, 0, by decide, by decide, rfl⟩⟩

def cPlainRegisterWrite2c : Chip := flds work [(R.GLB_CFG_LOCK, F.GLB_CFG_LOCK_LOCK, 1)]

theorem witness_PlainRegisterWrite_2c :
    (st cPlainRegisterWrite2c).chip.atWork = true ∧
    Init.steward ≠ Init.sched ∧
    ((∃ g k, g < 8 ∧ k < 32 ∧ R.TRS_TRIG_CFG 31 = R.LG_CH_CFG g k) ∨ ∃ n, n < 32 ∧ R.TRS_TRIG_CFG 31 = R.TRS_TRIG_CFG n) := ⟨by decide, by decide, Or.inr ⟨31, by decide, rfl⟩⟩

theorem witness_PlainRegisterWrite_2d :
    (st work).chip.atWork = true ∧
    Init.host ≠ Init.sched ∧
    ((∃ g k, g < 8 ∧ k < 32 ∧ R.TRS_TRIG_CFG 0 = R.LG_CH_CFG g k) ∨ ∃ n, n < 32 ∧ R.TRS_TRIG_CFG 0 = R.TRS_TRIG_CFG n) := ⟨by decide, by decide, Or.inr ⟨0, by decide, rfl⟩⟩

def cLockedAndOnce1 : Chip := flds work [(R.GLB_CFG_LOCK, F.GLB_CFG_LOCK_LOCK, 1)]

theorem witness_LockedAndOnce_1 :
    (st cLockedAndOnce1).chip.atWork = true ∧
    Init.host ≠ Init.sched ∧
    7 < 8 ∧
    (st cLockedAndOnce1).chip.locked = true ∧
    ((st cLockedAndOnce1).chip.rn (R.LG_CFG 7) ^^^ BitVec.toNat (4294967295 : Word)) &&& lkMask (R.LG_CFG 7) ≠ 0 := by decide

theorem witness_LockedAndOnce_1b :
    (st work).chip.atWork = true ∧
    Init.steward ≠ Init.sched ∧
    0 < 8 ∧
    (st work).chip.locked = false := by decide

theorem witness_LockedAndOnce_2 :
    (st work).chip.atWork = true ∧
    Init.host ≠ Init.sched ∧
    (st work).chip.acc.woDone.contains R.CST_BANK_FAIL_L = false := by decide

def cLockedAndOnce2b : Chip := { work with acc := { work.acc with woDone := [R.CST_BANK_FAIL_L] } }

theorem witness_LockedAndOnce_2b :
    (st cLockedAndOnce2b).chip.atWork = true ∧
    Init.host ≠ Init.sched ∧
    (st cLockedAndOnce2b).chip.acc.woDone.contains R.CST_BANK_FAIL_L = true := by decide

theorem witness_StampTriples_1 :
    (st work).chip.atWork = true ∧
    Init.host ≠ Init.sched ∧
    15 < 16 ∧
    (∀ (e : Nat × Word), e ∈ (st work).chip.acc.captured → e.fst ≠ latchKey Init.host (R.PRT_OLDEST_L 15)) := by decide

def cStampTriples2 : Chip := { work with acc := { work.acc with captured := [(latchKey .host (R.PRT_OLDEST_L 15 + 8), 7)] } }

theorem witness_StampTriples_2 :
    (st cStampTriples2).chip.atWork = true ∧
    Init.host ≠ Init.sched ∧
    15 < 16 ∧
    (2 = 1 ∨ 2 = 2) ∧
    (∀ (d : Nat → Word), SMap.get d (st cStampTriples2).chip.acc.captured (latchKey Init.host (R.PRT_OLDEST_L 15 + 4 * 2)) = 7) := ⟨by decide, by decide, by decide, by decide, fun _ => rfl⟩

def cStampTriples2b : Chip := { work with acc := { work.acc with captured := [(latchKey .host (R.PRT_OLDEST_L 0 + 4), 7)] } }

theorem witness_StampTriples_2b :
    (st cStampTriples2b).chip.atWork = true ∧
    Init.host ≠ Init.sched ∧
    0 < 16 ∧
    (1 = 1 ∨ 1 = 2) ∧
    (∀ (d : Nat → Word), SMap.get d (st cStampTriples2b).chip.acc.captured (latchKey Init.host (R.PRT_OLDEST_L 0 + 4 * 1)) = 7) := ⟨by decide, by decide, by decide, by decide, fun _ => rfl⟩

def cStampTriples3 : Chip := { work with acc := { work.acc with written := [(latchKey .host (R.PRT_HOLD_START_L 3), 7), (latchKey .host (R.PRT_HOLD_START_L 3 + 4), 8)] } }

theorem witness_StampTriples_3 :
    (st cStampTriples3).chip.atWork = true ∧
    Init.host ≠ Init.sched ∧
    3 < 16 ∧
    (st cStampTriples3).chip.locked = false ∧
    (∀ (d : Nat → Word), SMap.get d (st cStampTriples3).chip.acc.written (latchKey Init.host (R.PRT_HOLD_START_L 3)) = 7) ∧
    (∀ (d : Nat → Word), SMap.get d (st cStampTriples3).chip.acc.written (latchKey Init.host (R.PRT_HOLD_START_L 3 + 4)) = 8) := ⟨by decide, by decide, by decide, by decide, fun _ => rfl, fun _ => rfl⟩

theorem witness_StatusClear_1 :
    (st work).chip.atWork = true ∧
    Init.host ≠ Init.sched ∧
    63 < 64 := by decide

def cStatusClear2 : Chip := { flds work [(R.EVT_STAT 5, ⟨0, 24⟩, 6), (R.EVT_STAT 5, ⟨24, 8⟩, 3)] with evt := { work.evt with cnt := [(5, 259)] }, acc := { work.acc with statC := [(latchKey .host (R.EVT_STAT 5), 259)] } }

theorem witness_StatusClear_2 :
    (st cStatusClear2).chip.atWork = true ∧
    Init.host ≠ Init.sched ∧
    5 < 64 ∧
    BitVec.toNat (50331650 : Word) / 2 ^ 24 = cnt0 (st cStatusClear2).chip.evt.cnt 5 % 256 ∧
    (latchKey Init.host (R.EVT_STAT 5), cnt0 (st cStatusClear2).chip.evt.cnt 5) ∈ (st cStatusClear2).chip.acc.statC ∧
    (∀ (x : Nat), (latchKey Init.host (R.EVT_STAT 5), x) ∈ (st cStatusClear2).chip.acc.statC → x = cnt0 (st cStatusClear2).chip.evt.cnt 5) := ⟨by decide, by decide, by decide, by decide, by decide, fun x h => by
      rw [show (st cStatusClear2).chip.acc.statC = [(latchKey Init.host (R.EVT_STAT 5), 259)] from rfl, List.mem_singleton] at h
      rw [(Prod.mk.inj h).2]; decide⟩

def cStatusClear3 : Chip := { flds work [(R.EVT_STAT 5, ⟨0, 24⟩, 6), (R.EVT_STAT 5, ⟨24, 8⟩, 3)] with evt := { work.evt with cnt := [(5, 259)] }, acc := { work.acc with statC := [(latchKey .host (R.EVT_STAT 5), 3)] } }

theorem witness_StatusClear_3 :
    (st cStatusClear3).chip.atWork = true ∧
    Init.host ≠ Init.sched ∧
    5 < 64 ∧
    (BitVec.toNat (50331650 : Word) / 2 ^ 24 ≠ cnt0 (st cStatusClear3).chip.evt.cnt 5 % 256 ∨ ∀ (x : Nat), (latchKey Init.host (R.EVT_STAT 5), x) ∈ (st cStatusClear3).chip.acc.statC → x ≠ cnt0 (st cStatusClear3).chip.evt.cnt 5) := ⟨by decide, by decide, by decide, Or.inr (fun x h => by
      rw [show (st cStatusClear3).chip.acc.statC = [(latchKey Init.host (R.EVT_STAT 5), 3)] from rfl, List.mem_singleton] at h
      rw [(Prod.mk.inj h).2]; decide)⟩

theorem witness_StatusClear_3b :
    (st work).chip.atWork = true ∧
    Init.host ≠ Init.sched ∧
    63 < 64 ∧
    (BitVec.toNat (16777218 : Word) / 2 ^ 24 ≠ cnt0 (st work).chip.evt.cnt 63 % 256 ∨ ∀ (x : Nat), (latchKey Init.host (R.EVT_STAT 63), x) ∈ (st work).chip.acc.statC → x ≠ cnt0 (st work).chip.evt.cnt 63) := ⟨by decide, by decide, by decide, Or.inl (by decide)⟩

theorem witness_GuardedPair_1 :
    (st work).chip.atWork = true ∧
    Init.host ≠ Init.sched := by decide

def pend : GuardPend := ⟨R.GLB_CFG_LOCK, 1, 0⟩

def pended : Chip := { work with acc := { work.acc with guardHost := some pend }, cycle := 4096 }

theorem witness_GuardedPair_2 :
    (st pended).chip.running = true ∧
    (st pended).chip.stage = 9 ∧
    (st pended).chip.boot.startFailed = false ∧
    (st pended).chip.pins.porn = false ∧
    (st pended).chip.ladder = 0 ∧
    (st pended).chip.fatal = none ∧
    (st pended).chip.resetReq = false ∧
    (st pended).chip.acc.guardStw = none ∧
    (st pended).chip.pcie.d3hot = false ∧
    (st pended).chip.acc.guardHost = some pend ∧
    pend.addr = R.GLB_CFG_LOCK ∧
    (st pended).chip.cycle ≤ pend.cycle + 4096 ∧
    (st pended).chip.locked = false ∧
    bit (BitVec.toNat pend.val) 0 = true ∧
    4294967294 = ~~~pend.val := by decide

theorem witness_GuardedPair_2b :
    (st pended).chip.running = true ∧
    (st pended).chip.stage = 9 ∧
    (st pended).chip.boot.startFailed = false ∧
    (st pended).chip.pins.porn = false ∧
    (st pended).chip.ladder = 0 ∧
    (st pended).chip.fatal = none ∧
    (st pended).chip.resetReq = false ∧
    (st pended).chip.acc.guardStw = none ∧
    (st pended).chip.pcie.d3hot = false ∧
    (st pended).chip.acc.guardHost = some pend ∧
    pend.addr = R.GLB_CFG_LOCK ∧
    (st pended).chip.cycle ≤ pend.cycle + 4096 ∧
    (st pended).chip.locked = false ∧
    bit (BitVec.toNat pend.val) 0 = true ∧
    4294967295 ≠ ~~~pend.val := by decide

theorem witness_GuardedPair_3 :
    (st work).chip.atWork = true := by decide

theorem witness_CounterValueWrite_1 :
    (st work).chip.atWork = true ∧
    Init.host ≠ Init.sched ∧
    31 < 32 := by decide

def cCounterValueWrite2 : Chip := { work with acc := { work.acc with written := [(latchKey .host (R.TRS_CT_VAL_L 31), 7)] } }

theorem witness_CounterValueWrite_2 :
    (st cCounterValueWrite2).chip.atWork = true ∧
    Init.host ≠ Init.sched ∧
    31 < 32 ∧
    (∀ (d : Nat → Word), SMap.get d (st cCounterValueWrite2).chip.acc.written (latchKey Init.host (R.TRS_CT_VAL_L 31)) = 7) := ⟨by decide, by decide, by decide, fun _ => rfl⟩

def ctRuns : Chip := { flds work [(R.SQ_STAT 0, F.SQ_STAT_RUNNING, 1)] with acc := { work.acc with written := [(latchKey .host (R.TRS_CT_VAL_L 0), 7)] }, wcopy := [(R.TRS_CT_CFG 0, 0)] }

theorem witness_CounterValueWrite_2b :
    (st ctRuns).chip.atWork = true ∧
    Init.host ≠ Init.sched ∧
    0 < 32 ∧
    (∀ (d : Nat → Word), SMap.get d (st ctRuns).chip.acc.written (latchKey Init.host (R.TRS_CT_VAL_L 0)) = 7) := ⟨by decide, by decide, by decide, fun _ => rfl⟩

theorem witness_VectorsFencesAudit_1 :
    (st work).chip.atWork = true ∧
    63 < 64 := by decide

def msix : Chip := { flds (work.setPba (2^63)) [(R.HIF_LINK, F.HIF_LINK_UP, 1), (R.HIF_MSIX_CTRL 63, F.HIF_MSIX_CTRL_MASK, 1), (R.EVT_STAT 63, ⟨0, 24⟩, 1), (R.EVT_EN 63, ⟨0, 24⟩, 1)] with pcie := ⟨true, true, false, false⟩ }

theorem witness_VectorsFencesAudit_2 :
    (st msix).chip.atWork = true ∧
    63 < 64 ∧
    (st msix).chip.msixOpen = true ∧
    bit (st msix).chip.pba 63 = true ∧
    bit (st msix).chip.activeLines 63 = true ∧
    exec (Instr.msixVectorUnmask 63) (st msix) = Host.Outcome.next (obNext (st msix) (exec (Instr.msixVectorUnmask 63) (st msix))) := ⟨by decide, by decide, by decide, by decide, by decide, next_of_answers (by decide +kernel)⟩

def cVectorsFencesAudit3 : Chip := { flds work [(R.HIF_DMA_STAT, F.HIF_DMA_STAT_RUNNING, 1)] with pcie := ⟨true, true, false, false⟩ }

theorem witness_VectorsFencesAudit_3 :
    (st cVectorsFencesAudit3).chip.atWork = true := by decide

theorem witness_VectorsFencesAudit_4 :
    (st msix).chip.atWork = true := by decide

theorem witness_VectorsFencesAudit_5 :
    (st work).chip.atWork = true := by decide

def cVectorsFencesAudit6 : Chip := { work with acc := { work.acc with fencesHost := 65535 } }

theorem witness_VectorsFencesAudit_6 :
    (st cVectorsFencesAudit6).chip.atWork = true ∧
    Init.host ≠ Init.sched ∧
    (∀ (e : Nat × Word), e ∈ (st cVectorsFencesAudit6).chip.acc.captured → e.fst ≠ latchKey Init.host R.GLB_FENCE) := by decide

def cVectorsFencesAudit7 : Chip := { flds work [(R.GLB_AUDIT_STAT, F.GLB_AUDIT_STAT_ACTIVE, 1)] with acc := { work.acc with shadow := some [] } }

theorem witness_VectorsFencesAudit_7 :
    (st cVectorsFencesAudit7).chip.atWork = true ∧
    (st cVectorsFencesAudit7).chip.acc.shadow = some [] ∧
    (st cVectorsFencesAudit7).chip.flag R.GLB_AUDIT_STAT F.GLB_AUDIT_STAT_ACTIVE = true ∧
    (st cVectorsFencesAudit7).chip.stw.dead = false ∧
    (∀ (e : Nat × Word), e ∈ (st cVectorsFencesAudit7).chip.regs ++ [] → ∀ (m : Nat), m ∈ lkFields e.fst → (st cVectorsFencesAudit7).chip.rn e.fst &&& m = shadowOf [] e.fst &&& m) := by decide

theorem witness_VectorsFencesAudit_8 :
    (st work).chip.atWork = true ∧
    (st work).chip.acc.shadow = none := by decide

def wordSrc : Chip := flds work [(R.EPC_CTRL, F.EPC_CTRL_SRC, 0)]

def fbits (p : Nat) (k : Nat) : Bool := bit (0xa5c3 * 2 ^ 80 + p * 2 ^ 16 + crc16 (beBytes 8 p)) (95 - k)

def fedges (b : Nat → Bool) (T : Nat) : List Nat := (List.range 96).flatMap (fun k => (T + 1000 * k) :: (if k < 95 ∧ b k = b (k + 1) then [T + 1000 * k + 500] else []))

theorem witness_EpochSources_1 :
    (st wordSrc).chip.atWork = true ∧
    (st wordSrc).chip.epcSrc = 0 ∧
    2 ^ 64 - 1 < 2 ^ 64 ∧
    8000 ≤ 8000 ∧
    (∀ (t : Nat), (st wordSrc).chip.epc.lastEdge = some t → t + 1000 * micro ≤ (st wordSrc).chip.epc.line) ∧
    (∀ (k : Nat), fbits (2 ^ 64 - 1) k = bit (42435 * 2 ^ 80 + (2 ^ 64 - 1) * 2 ^ 16 + crc16 (beBytes 8 (2 ^ 64 - 1))) (95 - k)) ∧
    (fedges (fbits (2 ^ 64 - 1)) 8000 = List.flatMap (fun k => (8000 + 1000 * k) :: if k < 95 ∧ fbits (2 ^ 64 - 1) k = fbits (2 ^ 64 - 1) (k + 1) then [8000 + 1000 * k + 500] else []) (List.range 96)) := ⟨by decide, by decide, by decide, by decide, (fun t h => by cases (show none = some t from h)), fun _ => rfl, rfl⟩

def cEpochSources1b : Chip := { wordSrc with epc := { wordSrc.epc with word := some ⟨1, 2⟩ } }

theorem witness_EpochSources_1b :
    (st cEpochSources1b).chip.atWork = true ∧
    (st cEpochSources1b).chip.epcSrc = 0 ∧
    3 < 2 ^ 64 ∧
    8000 ≤ 12345 ∧
    (∀ (t : Nat), (st cEpochSources1b).chip.epc.lastEdge = some t → t + 1000 * micro ≤ (st cEpochSources1b).chip.epc.line) ∧
    (∀ (k : Nat), fbits 3 k = bit (42435 * 2 ^ 80 + 3 * 2 ^ 16 + crc16 (beBytes 8 3)) (95 - k)) ∧
    (fedges (fbits 3) 12345 = List.flatMap (fun k => (12345 + 1000 * k) :: if k < 95 ∧ fbits 3 k = fbits 3 (k + 1) then [12345 + 1000 * k + 500] else []) (List.range 96)) := ⟨by decide, by decide, by decide, by decide, (fun t h => by cases (show none = some t from h)), fun _ => rfl, rfl⟩

theorem witness_EpochSources_1c :
    (st wordSrc).chip.atWork = true ∧
    (st wordSrc).chip.epcSrc = 0 ∧
    0 < 2 ^ 64 ∧
    8000 ≤ 9000 ∧
    (∀ (t : Nat), (st wordSrc).chip.epc.lastEdge = some t → t + 1000 * micro ≤ (st wordSrc).chip.epc.line) ∧
    (∀ (k : Nat), fbits 0 k = bit (42435 * 2 ^ 80 + 0 * 2 ^ 16 + crc16 (beBytes 8 0)) (95 - k)) ∧
    (fedges (fbits 0) 9000 = List.flatMap (fun k => (9000 + 1000 * k) :: if k < 95 ∧ fbits 0 k = fbits 0 (k + 1) then [9000 + 1000 * k + 500] else []) (List.range 96)) := ⟨by decide, by decide, by decide, by decide, (fun t h => by cases (show none = some t from h)), fun _ => rfl, rfl⟩

theorem witness_EpochSources_2 :
    (st wordSrc).chip.atWork = true ∧
    (st wordSrc).chip.epcSrc = 0 ∧
    (fedges (fbits 3) 9000).length ≤ 192 ∧
    risingWf 0 (fedges (fbits 3) 9000) = true ∧
    8000 ≤ (fedges (fbits 3) 9000).headD 0 ∧
    epwFirst false (fedges (fbits 3) 9000) = some ((epwFirst false (fedges (fbits 3) 9000)).getD 0) ∧
    epwField (epwCells false (fedges (fbits 3) 9000) ((epwFirst false (fedges (fbits 3) 9000)).getD 0)) 0 16 = 42435 ∧ (epwCells false (fedges (fbits 3) 9000) ((epwFirst false (fedges (fbits 3) 9000)).getD 0)).all Option.isSome = true ∧ crc16 (beBytes 8 (epwField (epwCells false (fedges (fbits 3) 9000) ((epwFirst false (fedges (fbits 3) 9000)).getD 0)) 16 64)) = epwField (epwCells false (fedges (fbits 3) 9000) ((epwFirst false (fedges (fbits 3) 9000)).getD 0)) 80 16 ∧ ∀ (t : Nat), (st wordSrc).chip.epc.lastEdge = some t → t + 1000 * micro ≤ (st wordSrc).chip.epc.line := ⟨by decide +kernel, by decide +kernel, by decide +kernel, by decide +kernel, by decide +kernel, by decide +kernel, ⟨by decide +kernel, by decide +kernel, by decide +kernel, fun t h => by cases (show none = some t from h)⟩⟩

theorem witness_EpochSources_2b :
    (st wordSrc).chip.atWork = true ∧
    (st wordSrc).chip.epcSrc = 0 ∧
    (fedges (fbits 3) 9000).length ≤ 192 ∧
    risingWf 0 (fedges (fbits 3) 9000) = true ∧
    8000 ≤ (fedges (fbits 3) 9000).headD 0 ∧
    epwFirst true (fedges (fbits 3) 9000) = some ((epwFirst true (fedges (fbits 3) 9000)).getD 0) ∧
    (epwField (epwCells true (fedges (fbits 3) 9000) ((epwFirst true (fedges (fbits 3) 9000)).getD 0)) 0 16 ≠ 42435 ∨ (epwCells true (fedges (fbits 3) 9000) ((epwFirst true (fedges (fbits 3) 9000)).getD 0)).all Option.isSome = false ∨ crc16 (beBytes 8 (epwField (epwCells true (fedges (fbits 3) 9000) ((epwFirst true (fedges (fbits 3) 9000)).getD 0)) 16 64)) ≠ epwField (epwCells true (fedges (fbits 3) 9000) ((epwFirst true (fedges (fbits 3) 9000)).getD 0)) 80 16 ∨ ∃ t, (st wordSrc).chip.epc.lastEdge = some t ∧ (st wordSrc).chip.epc.line < t + 1000 * micro) := ⟨by decide +kernel, by decide +kernel, by decide +kernel, by decide +kernel, by decide +kernel, by decide +kernel, Or.inl (by decide +kernel)⟩

theorem witness_EpochSources_2c :
    (st wordSrc).chip.atWork = true ∧
    (st wordSrc).chip.epcSrc = 0 ∧
    (fedges (fun k => !fbits 3 k) 9000).length ≤ 192 ∧
    risingWf 0 (fedges (fun k => !fbits 3 k) 9000) = true ∧
    8000 ≤ (fedges (fun k => !fbits 3 k) 9000).headD 0 ∧
    epwFirst false (fedges (fun k => !fbits 3 k) 9000) = some ((epwFirst false (fedges (fun k => !fbits 3 k) 9000)).getD 0) ∧
    epwField (epwCells false (fedges (fun k => !fbits 3 k) 9000) ((epwFirst false (fedges (fun k => !fbits 3 k) 9000)).getD 0)) 0 16 = 42435 ∧ (epwCells false (fedges (fun k => !fbits 3 k) 9000) ((epwFirst false (fedges (fun k => !fbits 3 k) 9000)).getD 0)).all Option.isSome = true ∧ crc16 (beBytes 8 (epwField (epwCells false (fedges (fun k => !fbits 3 k) 9000) ((epwFirst false (fedges (fun k => !fbits 3 k) 9000)).getD 0)) 16 64)) = epwField (epwCells false (fedges (fun k => !fbits 3 k) 9000) ((epwFirst false (fedges (fun k => !fbits 3 k) 9000)).getD 0)) 80 16 ∧ ∀ (t : Nat), (st wordSrc).chip.epc.lastEdge = some t → t + 1000 * micro ≤ (st wordSrc).chip.epc.line := ⟨by decide +kernel, by decide +kernel, by decide +kernel, by decide +kernel, by decide +kernel, by decide +kernel, ⟨by decide +kernel, by decide +kernel, by decide +kernel, fun t h => by cases (show none = some t from h)⟩⟩

def cEpochSources2d : Chip := { wordSrc with epc := { wordSrc.epc with lastEdge := some 5 } }

theorem witness_EpochSources_2d :
    (st cEpochSources2d).chip.atWork = true ∧
    (st cEpochSources2d).chip.epcSrc = 0 ∧
    (fedges (fbits 3) 9000).length ≤ 192 ∧
    risingWf 0 (fedges (fbits 3) 9000) = true ∧
    8000 ≤ (fedges (fbits 3) 9000).headD 0 ∧
    epwFirst false (fedges (fbits 3) 9000) = some ((epwFirst false (fedges (fbits 3) 9000)).getD 0) ∧
    (epwField (epwCells false (fedges (fbits 3) 9000) ((epwFirst false (fedges (fbits 3) 9000)).getD 0)) 0 16 ≠ 42435 ∨ (epwCells false (fedges (fbits 3) 9000) ((epwFirst false (fedges (fbits 3) 9000)).getD 0)).all Option.isSome = false ∨ crc16 (beBytes 8 (epwField (epwCells false (fedges (fbits 3) 9000) ((epwFirst false (fedges (fbits 3) 9000)).getD 0)) 16 64)) ≠ epwField (epwCells false (fedges (fbits 3) 9000) ((epwFirst false (fedges (fbits 3) 9000)).getD 0)) 80 16 ∨ ∃ t, (st cEpochSources2d).chip.epc.lastEdge = some t ∧ (st cEpochSources2d).chip.epc.line < t + 1000 * micro) := ⟨by decide +kernel, by decide +kernel, by decide +kernel, by decide +kernel, by decide +kernel, by decide +kernel, Or.inr (Or.inr (Or.inr ⟨5, rfl, by decide⟩))⟩

def irigOn : Chip := flds work [(R.EPC_CTRL, F.EPC_CTRL_SRC, 1), (R.EPC_IRIG_YEAR, F.EPC_IRIG_YEAR_YEAR, 2024)]

def irigHigh : List Nat := (List.range 100).map (fun i => if i = 0 ∨ i % 10 = 9 then 8000 else if i = 30 then 5000 else 2000)

def irig1 : Irig := ⟨0, 0, 0, 1, 2024⟩

theorem witness_EpochSources_3 :
    (st irigOn).chip.atWork = true ∧
    (st irigOn).chip.epcSrc = 1 ∧
    irigHigh.length ≤ 100 ∧
    1 = irigBits (List.map irigClass irigHigh) 30 4 + 10 * irigBits (List.map irigClass irigHigh) 35 4 + 100 * irigBits (List.map irigClass irigHigh) 40 2 ∧
    irigDecode (List.map irigClass irigHigh) ((st irigOn).chip.irigYear 1).fst = some irig1 ∧
    Int.natAbs 10000 ≤ 10000 ∧ irigShape (List.map irigClass irigHigh) = true ∧ (st irigOn).chip.irigOk irig1 = true := by decide

theorem witness_EpochSources_3b :
    (st irigOn).chip.atWork = true ∧
    (st irigOn).chip.epcSrc = 1 ∧
    irigHigh.length ≤ 100 ∧
    1 = irigBits (List.map irigClass irigHigh) 30 4 + 10 * irigBits (List.map irigClass irigHigh) 35 4 + 100 * irigBits (List.map irigClass irigHigh) 40 2 ∧
    irigDecode (List.map irigClass irigHigh) ((st irigOn).chip.irigYear 1).fst = some irig1 ∧
    (10000 < (-10001).natAbs ∨ irigShape (List.map irigClass irigHigh) = false ∨ (st irigOn).chip.irigOk irig1 = false) := by decide

theorem witness_EpochSources_4 :
    (st irigOn).chip.atWork = true ∧
    (st irigOn).chip.epcSrc = 1 ∧
    (List.replicate 30 5000).length ≤ 100 ∧
    (∀ (y : Option Nat), irigDecode (List.map irigClass (List.replicate 30 5000)) y = none) := ⟨by decide, by decide, by decide, fun _ => rfl⟩

def word7 : EpochWord := ⟨2 ^ 20 * 7 + 256, 19 * second⟩

def seek : Chip := { flds wordSrc [(R.EPC_STAT, F.EPC_STAT_STATE, 1), (R.EPC_STAT, F.EPC_STAT_GOOD_RUN, 15)] with epc := { work.epc with line := 20 * second, word := some word7, lastLabel := some 6, lastEdge := some (19 * second - 5) } }

theorem witness_KeeperMoves_1 :
    (st seek).chip.atWork = true ∧
    (st seek).chip.ppsActive true = true ∧
    (st seek).chip.epcSrc = 0 ∧
    (st seek).chip.epcState = 1 ∧
    3 < 2 ^ 64 ∧
    (st seek).chip.epc.word = some word7 ∧
    bit word7.payload 8 = true ∧
    bits word7.payload 20 44 = 7 ∧
    word7.endAt + 100 * micro ≤ (st seek).chip.epc.line - 3 ∧
    (st seek).chip.epc.lastLabel = some (7 - 1) ∧
    1 ≤ 7 ∧
    (st seek).chip.epc.lastEdge = some (19 * second - 5) ∧
    distNat ((st seek).chip.epc.line - 3 - (19 * second - 5)) second ≤ micro ∧
    (st seek).chip.acqN ≤ min 15 ((st seek).chip.fld R.EPC_STAT F.EPC_STAT_GOOD_RUN + 1) ∧
    (st seek).chip.sch = [] ∧
    (st seek).chip.epc.stepDue = none ∧
    (st seek).chip.epc.corrSlew = none := by decide

def valid : Chip := flds wordSrc [(R.EPC_STAT, F.EPC_STAT_STATE, 2)]

theorem witness_KeeperMoves_2 :
    (st valid).chip.atWork = true ∧
    (st valid).chip.ppsActive true = true ∧
    (st valid).chip.epcSrc = 0 ∧
    (st valid).chip.epcState ≠ 0 ∧
    3 < 2 ^ 64 ∧
    (st valid).chip.epc.word = none := by decide

def cKeeperMoves2b : Chip := { seek with epc := { seek.epc with word := none } }

theorem witness_KeeperMoves_2b :
    (st cKeeperMoves2b).chip.atWork = true ∧
    (st cKeeperMoves2b).chip.ppsActive true = true ∧
    (st cKeeperMoves2b).chip.epcSrc = 0 ∧
    (st cKeeperMoves2b).chip.epcState ≠ 0 ∧
    3 < 2 ^ 64 ∧
    (st cKeeperMoves2b).chip.epc.word = none := by decide

theorem witness_KeeperMoves_3 :
    (st wordSrc).chip.atWork = true ∧
    (st wordSrc).chip.ppsActive true = true ∧
    (st wordSrc).chip.epcSrc < 2 ∧
    (st wordSrc).chip.epcState = 0 ∧
    3 < 2 ^ 64 := by decide

theorem witness_KeeperMoves_4 :
    (st valid).chip.atWork = true ∧
    (st valid).chip.ppsActive false = false ∧
    3 < 2 ^ 64 := by decide

theorem witness_KeeperMoves_5 :
    (st valid).chip.atWork = true ∧
    (st valid).chip.epcState = 2 := by decide

def cKeeperMoves6 : Chip := { valid with epc := { valid.epc with timeline := true } }

theorem witness_KeeperMoves_6 :
    (st cKeeperMoves6).chip.atWork = true ∧
    Init.host ≠ Init.sched ∧
    (st cKeeperMoves6).chip.locked = false ∧
    bits (BitVec.toNat (1 : Word)) F.EPC_CTRL_SRC.lo F.EPC_CTRL_SRC.w ≠ (st cKeeperMoves6).chip.epcSrc := by decide

theorem witness_KeeperMoves_6b :
    (st valid).chip.atWork = true ∧
    Init.steward ≠ Init.sched ∧
    (st valid).chip.locked = false ∧
    bits (BitVec.toNat (2 : Word)) F.EPC_CTRL_SRC.lo F.EPC_CTRL_SRC.w ≠ (st valid).chip.epcSrc := by decide

def cKeeperMoves7 : Chip := flds irigOn [(R.EPC_STAT, F.EPC_STAT_STATE, 2), (R.EPC_LEAP_H, F.EPC_LEAP_H_ARMED, 1), (R.EPC_LEAP_H, F.EPC_LEAP_H_LEAP_OFS, 0x80)]

theorem witness_KeeperMoves_7 :
    (st cKeeperMoves7).chip.atWork = true ∧
    (st cKeeperMoves7).chip.leapArmed = true ∧
    (st cKeeperMoves7).chip.epcHolds = true ∧
    (st cKeeperMoves7).chip.epcSrc = 1 := by decide

def cKeeperMoves8 : Chip := { valid with epc := { valid.epc with stepDue := some (-5) } }

theorem witness_KeeperMoves_8 :
    (st cKeeperMoves8).chip.atWork = true ∧
    (st cKeeperMoves8).chip.epc.stepDue = some (-5) ∧
    (st cKeeperMoves8).chip.segmentOpen = false := by decide

def cKeeperMoves8b : Chip := { valid with epc := { valid.epc with stepDue := some 5 } }

theorem witness_KeeperMoves_8b :
    (st cKeeperMoves8b).chip.atWork = true ∧
    (st cKeeperMoves8b).chip.epc.stepDue = some 5 ∧
    (st cKeeperMoves8b).chip.segmentOpen = false := by decide

def trigSeg : Seg := { segNo := 1, kind := 1, source := 0, reqStart := 0, reqEnd := 0, at_ := 0 }

def segOpen : Chip := { flds valid [(R.PRT_STAT 0, F.PRT_STAT_STATE, 2)] with epc := { valid.epc with stepDue := some (-5) }, parts := [(0, { segs := [(64, trigSeg)] })] }

theorem witness_KeeperMoves_9 :
    (st segOpen).chip.atWork = true ∧
    (st segOpen).chip.epc.stepDue = some (-5) ∧
    (st segOpen).chip.segmentOpen = true := by decide

def cKeeperMoves10 : Chip := { flds valid [(R.CLK_STAT, F.CLK_STAT_STATE, 2)] with epc := { valid.epc with corrSlew := some (-5000000000000) } }

theorem witness_KeeperMoves_10 :
    (st cKeeperMoves10).chip.atWork = true ∧
    (st cKeeperMoves10).chip.epc.corrSlew = some (-5000000000000) ∧
    (st cKeeperMoves10).chip.disciplined = true := by decide

theorem witness_ScheduleEntries_1 :
    (st valid).chip.atWork = true ∧
    255 < 256 := by decide

theorem witness_ScheduleEntries_2 :
    (st valid).chip.atWork = true ∧
    3 < 256 := by decide

theorem witness_ScheduleEntries_3 :
    (st valid).chip.atWork = true ∧
    Init.host ≠ Init.sched ∧
    (st valid).chip.locked = false ∧
    (st valid).chip.flag R.SCH_CTRL F.SCH_CTRL_EN = false ∧
    bit (BitVec.toNat (2147483664 : Word)) 31 = true ∧
    (st valid).chip.epcHolds = true := by decide

def schd : Chip := { flds valid [(R.SCH_CTRL, F.SCH_CTRL_EN, 1)] with sch := [(255, { enable := true, action := 6, due := 100, wake := true })] }

theorem witness_ScheduleEntries_4 :
    (st schd).chip.atWork = true ∧
    255 < 256 ∧
    (st schd).chip.schOn = true ∧
    ((st schd).chip.schEntry 255).enable = true := by decide

def schE : SchEntry := { enable := true, action := 6, due := 100, wake := true }

theorem witness_ScheduleEntries_5 :
    (st schd).chip.atWork = true ∧
    255 < 256 ∧
    (st schd).chip.schOn = true ∧
    (st schd).chip.sch = [(255, schE)] ∧
    schE.enable = true ∧
    schE.action = 6 ∧
    schE.period = 0 := by decide

def cScheduleEntries6 : Chip := flds { schd with sch := [(255, { enable := true, action := 6, due := 68719476736, wake := true })]} [(R.PWR_STAT, F.PWR_STAT_STATE, 2)]

theorem witness_ScheduleEntries_6 :
    (st cScheduleEntries6).chip.pins.porn = false ∧
    (st cScheduleEntries6).chip.ladder = 2 ∧
    (st cScheduleEntries6).chip.inSafe = false ∧
    (st cScheduleEntries6).chip.pwr.down = none ∧
    (st cScheduleEntries6).chip.pwr.up = none ∧
    255 < 256 ∧
    (st cScheduleEntries6).chip.schOn = true ∧
    ((st cScheduleEntries6).chip.schEntry 255).enable = true ∧
    ((st cScheduleEntries6).chip.schEntry 255).wake = true ∧
    (st cScheduleEntries6).chip.pwr.lowAt + second ≤ ((st cScheduleEntries6).chip.schEntry 255).due * quantum := by decide

theorem witness_GroupCommands_1 :
    (st work).chip.atWork = true ∧
    7 < 8 ∧
    (st work).chip.owner 7 = none ∧
    (st work).chip.deskewFault 7 = none ∧
    (st work).chip.flag (R.LG_STAT 7) F.LG_STAT_CAL_BUSY = false := by decide

def cGroupCommands2 : Chip := flds work [(R.LG_CFG 7, F.LG_CFG_EN, 1), (R.LG_CH_CFG 7 5, F.LG_CH_CFG_EN, 1)]

theorem witness_GroupCommands_2 :
    (st cGroupCommands2).chip.atWork = true ∧
    7 < 8 ∧
    (st cGroupCommands2).chip.owner 7 = none ∧
    (st cGroupCommands2).chip.deskewFault 7 = none ∧
    (st cGroupCommands2).chip.flag (R.LG_STAT 7) F.LG_STAT_CAL_BUSY = false := by decide

def lit : Chip := flds work [(R.CLK_STAT, F.CLK_STAT_SAMPLE_ON, 1)]

theorem witness_GroupCommands_3 :
    (st lit).chip.atWork = true ∧
    7 < 8 ∧
    (st lit).chip.owner 7 = none ∧
    (st lit).chip.sampleOn = true ∧
    (st lit).chip.flag (R.LG_STAT 7) F.LG_STAT_CAL_BUSY = false := by decide

theorem witness_GroupCommands_4 :
    (st work).chip.atWork = true := by decide

theorem witness_GroupCommands_5 :
    (st work).chip.atWork = true ∧
    Init.host ≠ Init.sched ∧
    7 < 8 := by decide

def caled : Chip := { work with lanes := [(7, { calAt := some 5 })], wcopy := [(R.LG_CH_CFG 7 0, 1), (R.LG_CH_CFG 7 1, 1), (R.LG_CH_CFG 7 2, 1), (R.LG_CH_CFG 7 3, 1)] }

theorem witness_GroupCommands_6 :
    (st caled).chip.atWork = true ∧
    7 < 8 ∧
    [some 10, some 1033, some 1034].length ≤ 32 ∧
    ((st caled).chip.lane 7).calAt = some 5 := by decide

theorem witness_GroupCommands_6b :
    (st caled).chip.atWork = true ∧
    7 < 8 ∧
    [some 10, some 1033, some 11, some 12, some 7].length ≤ 32 ∧
    ((st caled).chip.lane 7).calAt = some 5 := by decide

def wset (c : Chip) (l : List (Nat × Fld × Nat)) : Chip :=
  l.foldl (fun c x => { c with wcopy := SMap.set regReset c.wcopy x.1 (BitVec.ofNat 32 (putBits (c.wreg x.1) x.2.1.lo x.2.1.w x.2.2)) }) c

def enl : Chip := wset lit [(R.LG_CFG 0, F.LG_CFG_EN, 1), (R.LG_CH_CFG 0 3, F.LG_CH_CFG_EN, 1), (R.LG_CH_CFG 0 9, F.LG_CH_CFG_EN, 1), (R.LG_CH_CFG 0 9, F.LG_CH_CFG_INV, 1), (R.LG_CH_CFG 0 3, F.LG_CH_CFG_DSK, 5)]

def wave0 : List VoltStep := [⟨5, 3, 1000000⟩, ⟨20, 9, -7⟩]

theorem witness_SamplesDelivered_1 :
    (st enl).chip.atWork = true ∧
    0 < 8 ∧
    5 < 2 ^ 64 ∧
    waveWf 0 wave0 = true ∧
    (st enl).chip.laneEn 0 = true ∧
    (st enl).chip.sampleOn = true ∧
    (st enl).chip.laneCq 0 = false ∧
    (st enl).chip.recOwner 0 = none := by decide

def cSamplesDelivered1b : Chip := { enl with epc := { enl.epc with line := 1000 * fabricCycle } }

theorem witness_SamplesDelivered_1b :
    (st cSamplesDelivered1b).chip.atWork = true ∧
    0 < 8 ∧
    0 < 2 ^ 64 ∧
    waveWf 0 [] = true ∧
    (st cSamplesDelivered1b).chip.laneEn 0 = true ∧
    (st cSamplesDelivered1b).chip.sampleOn = true ∧
    (st cSamplesDelivered1b).chip.laneCq 0 = false ∧
    (st cSamplesDelivered1b).chip.recOwner 0 = none := by decide

def enl2 : Chip := { wset enl [(R.LG_CH_CFG 0 3, F.LG_CH_CFG_DSK, 0)] with lanes := [(0, { volts := [(3, 500000), (9, 1)] })] }

theorem witness_SamplesDelivered_2 :
    (st enl2).chip.atWork = true ∧
    0 < 8 ∧
    0 < 2 ^ 64 ∧
    (st enl2).chip.laneEn 0 = true ∧
    (st enl2).chip.sampleOn = true ∧
    (st enl2).chip.laneCq 0 = false ∧
    (st enl2).chip.recOwner 0 = none ∧
    (∀ (k : Nat), k < 32 → (st enl2).chip.wflag (R.LG_CH_CFG 0 k) F.LG_CH_CFG_EN = true → (st enl2).chip.dsk 0 k = (st enl2).chip.dskRef 0) := by decide

def cSamplesDelivered2b : Chip := { enl2 with lanes := [] }

theorem witness_SamplesDelivered_2b :
    (st cSamplesDelivered2b).chip.atWork = true ∧
    0 < 8 ∧
    7 < 2 ^ 64 ∧
    (st cSamplesDelivered2b).chip.laneEn 0 = true ∧
    (st cSamplesDelivered2b).chip.sampleOn = true ∧
    (st cSamplesDelivered2b).chip.laneCq 0 = false ∧
    (st cSamplesDelivered2b).chip.recOwner 0 = none ∧
    (∀ (k : Nat), k < 32 → (st cSamplesDelivered2b).chip.wflag (R.LG_CH_CFG 0 k) F.LG_CH_CFG_EN = true → (st cSamplesDelivered2b).chip.dsk 0 k = (st cSamplesDelivered2b).chip.dskRef 0) := by decide

def later (c : Chip) : Chip := { c with epc := { c.epc with line := 1000 * fabricCycle } }

def armed0 : Chip := wset (flds lit [(R.PRT_STAT 0, F.PRT_STAT_STATE, 1)]) [(R.LG_CFG 0, F.LG_CFG_EN, 1), (R.PRT_CFG 0, F.PRT_CFG_GROUPS, 1)]

theorem witness_SamplesDelivered_3 :
    (st (later armed0)).chip.atWork = true ∧
    0 < 8 ∧
    900 * fabricCycle < 2 ^ 64 ∧
    waveWf 0 [] = true ∧
    (st (later armed0)).chip.laneEn 0 = true ∧
    (st (later armed0)).chip.sampleOn = true ∧
    (st (later armed0)).chip.laneCq 0 = false ∧
    (st (later armed0)).chip.laneMode 0 = 0 ∧
    (st (later armed0)).chip.recOwner 0 = some 0 ∧
    (st (later armed0)).chip.boundSeq 0 = none ∧
    ((st (later armed0)).chip.part 0).endStamp = none ∧
    ((st (later armed0)).chip.lane 0).ended = false ∧
    ((st (later armed0)).chip.lane 0).pipe = [] ∧
    ((st (later armed0)).chip.lane 0).gap = none ∧
    ((st (later armed0)).chip.lane 0).gapCq = false ∧
    ((st (later armed0)).chip.lane 0).closed = [] ∧
    bit (st (later armed0)).chip.epc.ofsWait 0 = false ∧
    ((st (later armed0)).chip.part 0).armCycle < windowOf ((st (later armed0)).chip.epc.line - 900 * fabricCycle + (st (later armed0)).chip.taps ((st (later armed0)).chip.dskRef 0)) + (st (later armed0)).chip.trs.evalE ∧
    windowOf ((st (later armed0)).chip.epc.line - 900 * fabricCycle + (st (later armed0)).chip.taps ((st (later armed0)).chip.dskRef 0)) + (st (later armed0)).chip.trs.evalE < (st (later armed0)).chip.lineCycle ∧
    ((st (later armed0)).chip.lane 0).forming = none ∧
    (st (later armed0)).chip.slotsUsed 0 < 128 := by decide

def form0 : Forming := { s0 := 5, pq := 7, words := [3], count := 1 }

def cSamplesDelivered3b : Chip := { later armed0 with lanes := [(0, { forming := some form0 })] }

theorem witness_SamplesDelivered_3b :
    (st cSamplesDelivered3b).chip.atWork = true ∧
    0 < 8 ∧
    900 * fabricCycle < 2 ^ 64 ∧
    waveWf 0 [] = true ∧
    (st cSamplesDelivered3b).chip.laneEn 0 = true ∧
    (st cSamplesDelivered3b).chip.sampleOn = true ∧
    (st cSamplesDelivered3b).chip.laneCq 0 = false ∧
    (st cSamplesDelivered3b).chip.laneMode 0 = 0 ∧
    (st cSamplesDelivered3b).chip.recOwner 0 = some 0 ∧
    (st cSamplesDelivered3b).chip.boundSeq 0 = none ∧
    ((st cSamplesDelivered3b).chip.part 0).endStamp = none ∧
    ((st cSamplesDelivered3b).chip.lane 0).ended = false ∧
    ((st cSamplesDelivered3b).chip.lane 0).pipe = [] ∧
    ((st cSamplesDelivered3b).chip.lane 0).gap = none ∧
    ((st cSamplesDelivered3b).chip.lane 0).gapCq = false ∧
    ((st cSamplesDelivered3b).chip.lane 0).closed = [] ∧
    bit (st cSamplesDelivered3b).chip.epc.ofsWait 0 = false ∧
    ((st cSamplesDelivered3b).chip.part 0).armCycle < windowOf ((st cSamplesDelivered3b).chip.epc.line - 900 * fabricCycle + (st cSamplesDelivered3b).chip.taps ((st cSamplesDelivered3b).chip.dskRef 0)) + (st cSamplesDelivered3b).chip.trs.evalE ∧
    windowOf ((st cSamplesDelivered3b).chip.epc.line - 900 * fabricCycle + (st cSamplesDelivered3b).chip.taps ((st cSamplesDelivered3b).chip.dskRef 0)) + (st cSamplesDelivered3b).chip.trs.evalE < (st cSamplesDelivered3b).chip.lineCycle ∧
    ((st cSamplesDelivered3b).chip.lane 0).forming = some form0 ∧
    form0.count + 1 < 4096 := by decide

def cqIdle : Chip := wset enl2 [(R.LG_CFG 0, F.LG_CFG_MODE, 1)]

theorem witness_SamplesDelivered_4 :
    (st cqIdle).chip.atWork = true ∧
    0 < 8 ∧
    0 < 16 ∧
    0 < 65536 ∧
    5 < 2 ^ 64 ∧
    waveWf (-1024) wave0 = true ∧
    (st cqIdle).chip.laneEn 0 = true ∧
    (st cqIdle).chip.sampleOn = true ∧
    (st cqIdle).chip.laneCq 0 = true ∧
    (st cqIdle).chip.cqAccepts 0 0 true 0 = true ∧
    (st cqIdle).chip.recOwner 0 = none := by decide

theorem witness_SamplesDelivered_4b :
    (st cqIdle).chip.atWork = true ∧
    0 < 8 ∧
    0 < 16 ∧
    0 < 65536 ∧
    5 < 2 ^ 64 ∧
    waveWf (-1024) wave0 = true ∧
    (st cqIdle).chip.laneEn 0 = true ∧
    (st cqIdle).chip.sampleOn = true ∧
    (st cqIdle).chip.laneCq 0 = true ∧
    (st cqIdle).chip.recOwner 0 = none ∧
    ((st cqIdle).chip.lane 0).pipe = [] := by decide

theorem witness_SamplesDelivered_4c :
    (st cqIdle).chip.atWork = true ∧
    0 < 8 ∧
    0 < 16 ∧
    0 < 65536 ∧
    5 < 2 ^ 64 ∧
    waveWf (-1024) [] = true ∧
    (st cqIdle).chip.laneEn 0 = true ∧
    (st cqIdle).chip.sampleOn = true ∧
    (st cqIdle).chip.laneCq 0 = true ∧
    (st cqIdle).chip.cqAccepts 0 0 false 0 = false := by decide

theorem witness_SamplesDelivered_4d :
    (st cqIdle).chip.atWork = true ∧
    0 < 8 ∧
    0 < 16 ∧
    0 < 65536 ∧
    5 < 2 ^ 64 ∧
    waveWf (-1024) [] = true ∧
    (st cqIdle).chip.laneEn 0 = true ∧
    (st cqIdle).chip.sampleOn = true ∧
    (st cqIdle).chip.laneCq 0 = true ∧
    (st cqIdle).chip.recOwner 0 = none ∧
    ((st cqIdle).chip.lane 0).pipe = [] := by decide

theorem witness_SamplesDelivered_4e :
    (st cqIdle).chip.atWork = true ∧
    0 < 8 ∧
    1 < 16 ∧
    65535 < 65536 ∧
    5 < 2 ^ 64 ∧
    waveWf (-1024) [] = true ∧
    (st cqIdle).chip.laneEn 0 = true ∧
    (st cqIdle).chip.sampleOn = true ∧
    (st cqIdle).chip.laneCq 0 = true ∧
    (st cqIdle).chip.cqAccepts 0 1 true 65535 = false := by decide

theorem witness_SamplesDelivered_4f :
    (st cqIdle).chip.atWork = true ∧
    0 < 8 ∧
    1 < 16 ∧
    65535 < 65536 ∧
    5 < 2 ^ 64 ∧
    waveWf (-1024) [] = true ∧
    (st cqIdle).chip.laneEn 0 = true ∧
    (st cqIdle).chip.sampleOn = true ∧
    (st cqIdle).chip.laneCq 0 = true ∧
    (st cqIdle).chip.recOwner 0 = none ∧
    ((st cqIdle).chip.lane 0).pipe = [] := by decide

def cqed : Chip := wset armed0 [(R.LG_CFG 0, F.LG_CFG_MODE, 1)]

def und : Smp := { ix := 0, word := 0, kt := 0, inst := 0, cyc := 5, drained := false }

def cqPend (k : Nat) : Chip := { cqed with lanes := [(0, { pipe := List.replicate k (.sample und) })] }

theorem witness_SamplesDelivered_4g :
    (st (cqPend 1)).chip.atWork = true ∧
    0 < 8 ∧
    0 < 16 ∧
    0 < 65536 ∧
    5 < 2 ^ 64 ∧
    waveWf (-1024) wave0 = true ∧
    (st (cqPend 1)).chip.laneEn 0 = true ∧
    (st (cqPend 1)).chip.sampleOn = true ∧
    (st (cqPend 1)).chip.laneCq 0 = true ∧
    (st (cqPend 1)).chip.cqAccepts 0 0 true 0 = true ∧
    (st (cqPend 1)).chip.recOwner 0 = some 0 ∧
    ((st (cqPend 1)).chip.lane 0).ended = false ∧
    ((st (cqPend 1)).chip.lane 0).pipe = [Flow.sample und] ∧
    und.drained = false ∧
    und.lost = false ∧
    ((st (cqPend 1)).chip.lane 0).elastic < 64 := by decide

theorem witness_SamplesDelivered_4h :
    (st (cqPend 1)).chip.atWork = true ∧
    0 < 8 ∧
    0 < 16 ∧
    0 < 65536 ∧
    5 < 2 ^ 64 ∧
    waveWf (-1024) wave0 = true ∧
    (st (cqPend 1)).chip.laneEn 0 = true ∧
    (st (cqPend 1)).chip.sampleOn = true ∧
    (st (cqPend 1)).chip.laneCq 0 = true ∧
    (st (cqPend 1)).chip.recOwner 0 = some 0 ∧
    (st (cqPend 1)).chip.boundSeq 0 = none ∧
    ((st (cqPend 1)).chip.lane 0).pipe = [Flow.sample und] ∧
    und.drained = false ∧
    und.lost = false ∧
    (st (cqPend 1)).chip.lineCycle ≤ und.cyc := by decide

theorem witness_SamplesDelivered_4i :
    (st (cqPend 64)).chip.atWork = true ∧
    0 < 8 ∧
    0 < 16 ∧
    0 < 65536 ∧
    5 < 2 ^ 64 ∧
    waveWf (-1024) [] = true ∧
    (st (cqPend 64)).chip.laneEn 0 = true ∧
    (st (cqPend 64)).chip.sampleOn = true ∧
    (st (cqPend 64)).chip.laneCq 0 = true ∧
    (st (cqPend 64)).chip.cqAccepts 0 0 true 0 = true ∧
    (st (cqPend 64)).chip.recOwner 0 = some 0 ∧
    ((st (cqPend 64)).chip.lane 0).ended = false ∧
    ((st (cqPend 64)).chip.lane 0).pipe = Flow.sample und :: List.replicate 63 (Flow.sample und) ∧
    und.drained = false ∧
    und.lost = false ∧
    64 ≤ ((st (cqPend 64)).chip.lane 0).elastic := by decide

theorem witness_SamplesDelivered_4j :
    (st (cqPend 64)).chip.atWork = true ∧
    0 < 8 ∧
    0 < 16 ∧
    0 < 65536 ∧
    5 < 2 ^ 64 ∧
    waveWf (-1024) [] = true ∧
    (st (cqPend 64)).chip.laneEn 0 = true ∧
    (st (cqPend 64)).chip.sampleOn = true ∧
    (st (cqPend 64)).chip.laneCq 0 = true ∧
    (st (cqPend 64)).chip.recOwner 0 = some 0 ∧
    (st (cqPend 64)).chip.boundSeq 0 = none ∧
    ((st (cqPend 64)).chip.lane 0).pipe = Flow.sample und :: List.replicate 63 (Flow.sample und) ∧
    und.drained = false ∧
    und.lost = false ∧
    (st (cqPend 64)).chip.lineCycle ≤ und.cyc := by decide

def gapE : Gap := ⟨1, 1, 7, 5, 0⟩

def cSamplesDelivered5 : Chip := { lit with lanes := [(7, { gap := some gapE })] }

theorem witness_SamplesDelivered_5 :
    (st cSamplesDelivered5).chip.atWork = true ∧
    7 < 8 ∧
    ((st cSamplesDelivered5).chip.lane 7).gap = some gapE ∧
    gapE.cause = 1 ∧
    ((st cSamplesDelivered5).chip.lane 7).pipe = [] ∧
    ((st cSamplesDelivered5).chip.lane 7).gapCq = false → (st cSamplesDelivered5).chip.slotsUsed 7 < 128 := by decide

def cSamplesDelivered5b : Chip := { lit with lanes := [(7, { gap := some gapE, gapCq := true })] }

theorem witness_SamplesDelivered_5b :
    (st cSamplesDelivered5b).chip.atWork = true ∧
    7 < 8 ∧
    ((st cSamplesDelivered5b).chip.lane 7).gap = some gapE ∧
    gapE.cause = 1 ∧
    ((st cSamplesDelivered5b).chip.lane 7).pipe = [] ∧
    ((st cSamplesDelivered5b).chip.lane 7).gapCq = false → (st cSamplesDelivered5b).chip.slotsUsed 7 < 128 := by decide

def smp9 : Smp := { ix := 0, word := 0, kt := 9 * quantum, inst := 9 * fabricCycle, cyc := 10 }

def bound0 : Chip := { wset (flds armed0 [(R.SQ_STAT 0, F.SQ_STAT_RUNNING, 1)]) [(R.SQ_CTRL 0, F.SQ_CTRL_DOM, 0)] with parts := [(0, { seqBound := 1 })], lanes := [(0, { hist := [smp9], total := 1 })], epc := { armed0.epc with line := 10 * fabricCycle + 5 } }

theorem witness_SequencerTakesABranch :
    (st bound0).chip.atWork = true ∧
    0 < 16 ∧
    0 < 16 ∧
    (st bound0).chip.steady = true → 0 < 15 ∧
    List.find? (fun y => decide ((st bound0).chip.boundSeq y = some 0)) (List.range 16) = some 0 ∧
    (st bound0).chip.recording 0 = true ∧
    (st bound0).chip.flag (R.SQ_STAT 0) F.SQ_STAT_RUNNING = true ∧
    ((st bound0).chip.part 0).endStamp = none ∧
    (st bound0).chip.nextSample 0 0 = some smp9 ∧
    List.find? (fun y => decide (y.ix = smp9.ix)) ((st bound0).chip.lane ((st bound0).chip.sqDom 0)).hist = some smp9 ∧
    smp9.cyc * fabricCycle ≤ (st bound0).chip.epc.line ∧
    bit (st bound0).chip.epc.ofsWait ((st bound0).chip.sqDom 0) = false ∧
    (∀ (g : Nat), g < 8 → ((st bound0).chip.lane g).pipe = []) ∧
    (st bound0).chip.trs.presets = [] ∧
    List.find? (fun y => decide (y.fst = smp9.cyc)) (st bound0).chip.trs.wins = none ∧
    (st bound0).chip.steady = true → (none : Option OddSample) = none ∧
    (st bound0).chip.taken 0 ((st bound0).chip.sqLevel 0) { s := smp9, dom := (st bound0).chip.sqDom 0, win := { last := 3, rise := 0, fall := 0 } } = none := by decide

def eSt (c : Chip) : Chip := flds c [(R.GLB_PROFILE_EFF, F.GLB_PROFILE_EFF_PROFILE, 1)]

theorem witness_SequencerTakesABranchb :
    (st (eSt bound0)).chip.atWork = true ∧
    0 < 16 ∧
    0 < 16 ∧
    (st (eSt bound0)).chip.steady = true → 0 < 15 ∧
    List.find? (fun y => decide ((st (eSt bound0)).chip.boundSeq y = some 0)) (List.range 16) = some 0 ∧
    (st (eSt bound0)).chip.recording 0 = true ∧
    (st (eSt bound0)).chip.flag (R.SQ_STAT 0) F.SQ_STAT_RUNNING = true ∧
    ((st (eSt bound0)).chip.part 0).endStamp = none ∧
    (st (eSt bound0)).chip.nextSample 0 0 = some smp9 ∧
    List.find? (fun y => decide (y.ix = smp9.ix)) ((st (eSt bound0)).chip.lane ((st (eSt bound0)).chip.sqDom 0)).hist = some smp9 ∧
    smp9.cyc * fabricCycle ≤ (st (eSt bound0)).chip.epc.line ∧
    bit (st (eSt bound0)).chip.epc.ofsWait ((st (eSt bound0)).chip.sqDom 0) = false ∧
    (∀ (g : Nat), g < 8 → ((st (eSt bound0)).chip.lane g).pipe = []) ∧
    (st (eSt bound0)).chip.trs.presets = [] ∧
    List.find? (fun y => decide (y.fst = smp9.cyc)) (st (eSt bound0)).chip.trs.wins = none ∧
    (st (eSt bound0)).chip.steady = true → (none : Option OddSample) = none ∧
    (st (eSt bound0)).chip.taken 0 ((st (eSt bound0)).chip.sqLevel 0) { s := smp9, dom := (st (eSt bound0)).chip.sqDom 0, win := { last := 3, rise := 0, fall := 0 } } = none := by decide

def goes (c : Chip) : Chip := wset c [(R.SQ_B_COND 0 1, F.SQ_B_COND_P0, 1), (R.SQ_TS 0 0, F.SQ_TS_CODE, 0x3ff), (R.SQ_B_ACT 0 1, F.SQ_B_ACT_GOTO, 1), (R.SQ_B_ACT 0 1, F.SQ_B_ACT_NEXT, 15)]

theorem witness_SequencerTakesABranchc :
    (st (goes bound0)).chip.atWork = true ∧
    0 < 16 ∧
    0 < 16 ∧
    (st (goes bound0)).chip.steady = true → 0 < 15 ∧
    List.find? (fun y => decide ((st (goes bound0)).chip.boundSeq y = some 0)) (List.range 16) = some 0 ∧
    (st (goes bound0)).chip.recording 0 = true ∧
    (st (goes bound0)).chip.flag (R.SQ_STAT 0) F.SQ_STAT_RUNNING = true ∧
    ((st (goes bound0)).chip.part 0).endStamp = none ∧
    (st (goes bound0)).chip.nextSample 0 0 = some smp9 ∧
    List.find? (fun y => decide (y.ix = smp9.ix)) ((st (goes bound0)).chip.lane ((st (goes bound0)).chip.sqDom 0)).hist = some smp9 ∧
    smp9.cyc * fabricCycle ≤ (st (goes bound0)).chip.epc.line ∧
    bit (st (goes bound0)).chip.epc.ofsWait ((st (goes bound0)).chip.sqDom 0) = false ∧
    (∀ (g : Nat), g < 8 → ((st (goes bound0)).chip.lane g).pipe = []) ∧
    (st (goes bound0)).chip.trs.presets = [] ∧
    List.find? (fun y => decide (y.fst = smp9.cyc)) (st (goes bound0)).chip.trs.wins = none ∧
    (st (goes bound0)).chip.steady = true → (none : Option OddSample) = none ∧
    (st (goes bound0)).chip.taken 0 ((st (goes bound0)).chip.sqLevel 0) { s := smp9, dom := (st (goes bound0)).chip.sqDom 0, win := { last := 3, rise := 0, fall := 0 } } = some 1 := by decide

def frz (c : Chip) : Chip := wset (goes c) [(R.SQ_B_ACT 0 1, F.SQ_B_ACT_FREEZE, 1)]

theorem witness_SequencerTakesABranchd :
    (st (frz (eSt bound0))).chip.atWork = true ∧
    0 < 16 ∧
    0 < 16 ∧
    (st (frz (eSt bound0))).chip.steady = true → 0 < 15 ∧
    List.find? (fun y => decide ((st (frz (eSt bound0))).chip.boundSeq y = some 0)) (List.range 16) = some 0 ∧
    (st (frz (eSt bound0))).chip.recording 0 = true ∧
    (st (frz (eSt bound0))).chip.flag (R.SQ_STAT 0) F.SQ_STAT_RUNNING = true ∧
    ((st (frz (eSt bound0))).chip.part 0).endStamp = none ∧
    (st (frz (eSt bound0))).chip.nextSample 0 0 = some smp9 ∧
    List.find? (fun y => decide (y.ix = smp9.ix)) ((st (frz (eSt bound0))).chip.lane ((st (frz (eSt bound0))).chip.sqDom 0)).hist = some smp9 ∧
    smp9.cyc * fabricCycle ≤ (st (frz (eSt bound0))).chip.epc.line ∧
    bit (st (frz (eSt bound0))).chip.epc.ofsWait ((st (frz (eSt bound0))).chip.sqDom 0) = false ∧
    (∀ (g : Nat), g < 8 → ((st (frz (eSt bound0))).chip.lane g).pipe = []) ∧
    (st (frz (eSt bound0))).chip.trs.presets = [] ∧
    List.find? (fun y => decide (y.fst = smp9.cyc)) (st (frz (eSt bound0))).chip.trs.wins = none ∧
    (st (frz (eSt bound0))).chip.steady = true → (none : Option OddSample) = none ∧
    (st (frz (eSt bound0))).chip.taken 0 ((st (frz (eSt bound0))).chip.sqLevel 0) { s := smp9, dom := (st (frz (eSt bound0))).chip.sqDom 0, win := { last := 3, rise := 0, fall := 0 } } = some 1 := by decide

def odd0 : OddSample := ⟨15, 0, 0, 0, [], 0⟩

theorem witness_PairMismatch :
    (st bound0).chip.atWork = true ∧
    (st bound0).chip.steady = true ∧
    0 < 16 ∧
    0 < 15 ∧
    List.find? (fun y => decide ((st bound0).chip.boundSeq y = some 0)) (List.range 16) = some 0 ∧
    (st bound0).chip.recording 0 = true ∧
    (st bound0).chip.flag (R.SQ_STAT 0) F.SQ_STAT_RUNNING = true ∧
    ((st bound0).chip.part 0).endStamp = none ∧
    (st bound0).chip.nextSample 0 0 = some smp9 ∧
    bit (st bound0).chip.epc.ofsWait ((st bound0).chip.sqDom 0) = false ∧
    (∀ (g : Nat), g < 8 → ((st bound0).chip.lane g).pipe = []) ∧
    (st bound0).chip.trs.presets = [] ∧
    odd0.level ≠ (st bound0).chip.sqLevel 0 := by decide

theorem witness_PairMismatchb :
    (st (frz bound0)).chip.atWork = true ∧
    (st (frz bound0)).chip.steady = true ∧
    0 < 16 ∧
    0 < 15 ∧
    List.find? (fun y => decide ((st (frz bound0)).chip.boundSeq y = some 0)) (List.range 16) = some 0 ∧
    (st (frz bound0)).chip.recording 0 = true ∧
    (st (frz bound0)).chip.flag (R.SQ_STAT 0) F.SQ_STAT_RUNNING = true ∧
    ((st (frz bound0)).chip.part 0).endStamp = none ∧
    (st (frz bound0)).chip.nextSample 0 0 = some smp9 ∧
    bit (st (frz bound0)).chip.epc.ofsWait ((st (frz bound0)).chip.sqDom 0) = false ∧
    (∀ (g : Nat), g < 8 → ((st (frz bound0)).chip.lane g).pipe = []) ∧
    (st (frz bound0)).chip.trs.presets = [] ∧
    odd0.level ≠ (st (frz bound0)).chip.sqLevel 0 := by decide

def cTriggerEdges1 : Chip := { work with trs := { work.trs with xt := [(31, 5, 9), (3, 2, 100)] } }

theorem witness_TriggerEdges_1 :
    (st cTriggerEdges1).chip.atWork = true ∧
    31 < 32 := by decide

def cTriggerEdges2 : Chip := { work with trs := { work.trs with pulses := [(31, 5, 9), (31, 7, 2000000000000), (0, 3, 7)] } }

theorem witness_TriggerEdges_2 :
    (st cTriggerEdges2).chip.atWork = true ∧
    31 < 32 := by decide

def cTriggerEdges3 : Chip := { flds bound0 [(R.PRT_STAT 0, F.PRT_STAT_STATE, 2)] with parts := [(0, { seqBound := 1, endStamp := some 9, segs := [(64, { segNo := 1, kind := 1, source := 0, reqStart := 0, reqEnd := 0, at_ := 0 })] })] }

theorem witness_TriggerEdges_3 :
    (st cTriggerEdges3).chip.atWork = true ∧
    0 < 16 ∧
    List.find? (fun x => decide ((st cTriggerEdges3).chip.boundSeq x = some 0)) (List.range 16) = some 0 ∧
    ((st cTriggerEdges3).chip.part 0).endStamp = some 9 ∧
    (st cTriggerEdges3).chip.prtState 0 = 2 := by decide

def cHoldsJudged1 : Chip := { armed0 with seqHolds := [⟨1, 0, 5, 0⟩] }

theorem witness_HoldsJudged_1 :
    (st cHoldsJudged1).chip.atWork = true ∧
    (st cHoldsJudged1).chip.seqHolds = [{ parts := 1, start := 0, stop := 5, source := 0 }] := by decide

def cHoldsJudged2 : Chip := { armed0 with noticeHolds := [⟨3, 0, 5, 3⟩] }

theorem witness_HoldsJudged_2 :
    (st cHoldsJudged2).chip.atWork = true ∧
    (st cHoldsJudged2).chip.noticeHolds = [{ parts := 3, start := 0, stop := 5, source := 3 }] := by decide

def cHoldsJudged3 : Chip := flds armed0 [(R.PRT_HOLD_END_L 0, ⟨0, 32⟩, 5)]

theorem witness_HoldsJudged_3 :
    (st cHoldsJudged3).chip.atWork = true ∧
    0 < 16 ∧
    (st cHoldsJudged3).chip.holdReason 0 (↑((st cHoldsJudged3).chip.triple (R.PRT_HOLD_START_L 0))) (↑((st cHoldsJudged3).chip.triple (R.PRT_HOLD_END_L 0))) (((st cHoldsJudged3).chip.part 0).mergeSlot ↑((st cHoldsJudged3).chip.triple (R.PRT_HOLD_START_L 0)) ↑((st cHoldsJudged3).chip.triple (R.PRT_HOLD_END_L 0))).isSome = 0 := by decide

theorem witness_HoldsJudged_4 :
    (st armed0).chip.atWork = true ∧
    15 < 16 ∧
    (st armed0).chip.recording 15 = false := by decide

theorem witness_HoldsJudged_4b :
    (st armed0).chip.atWork = true ∧
    0 < 16 ∧
    (st armed0).chip.recording 0 = true ∧
    (st armed0).chip.triple (R.PRT_HOLD_END_L 0) ≤ (st armed0).chip.triple (R.PRT_HOLD_START_L 0) := by decide

def eth3 : Chip := flds work [(R.ETH_STAT 3, F.ETH_STAT_LINK, 1), (R.ETH_CTRL 3, F.ETH_CTRL_EN, 1)]

def rept1 : NoticeRepeat := ⟨3, [1], 1, 7⟩

def cHoldsJudged5 : Chip := { eth3 with ort := { work.ort with repeats := [rept1] } }

theorem witness_HoldsJudged_5 :
    (st cHoldsJudged5).chip.atWork = true ∧
    (st cHoldsJudged5).chip.ort.repeats = [rept1] ∧
    rept1.port < 4 ∧
    (st cHoldsJudged5).chip.ethUp rept1.port = true ∧
    ((st cHoldsJudged5).chip.eth rept1.port).notices.length < (st cHoldsJudged5).chip.ort.txRoom := by decide

def rept3 : NoticeRepeat := ⟨3, [1], 3, 7⟩

def cHoldsJudged5b : Chip := { eth3 with ort := { work.ort with repeats := [rept3] } }

theorem witness_HoldsJudged_5b :
    (st cHoldsJudged5b).chip.atWork = true ∧
    (st cHoldsJudged5b).chip.ort.repeats = [rept3] ∧
    rept3.port < 4 ∧
    (st cHoldsJudged5b).chip.ethUp rept3.port = true ∧
    ((st cHoldsJudged5b).chip.eth rept3.port).notices.length < (st cHoldsJudged5b).chip.ort.txRoom := by decide

def cHoldsJudged5c : Chip := { work with ort := { work.ort with repeats := [rept3] } }

theorem witness_HoldsJudged_5c :
    (st cHoldsJudged5c).chip.atWork = true ∧
    (st cHoldsJudged5c).chip.ort.repeats = [rept3] ∧
    rept3.port < 4 ∧
    (st cHoldsJudged5c).chip.ethUp rept3.port = false := by decide

def up3 : Chip := flds work [(R.ETH_STAT 3, F.ETH_STAT_LINK, 1), (R.ETH_CTRL 3, F.ETH_CTRL_EN, 1)]

theorem witness_Streamers_1 :
    (st up3).chip.atWork = true ∧
    3 < 4 ∧
    (st up3).chip.strReason 3 = 0 := by decide

def served (c : Chip) : Chip := { flds c [(R.MCX_STAT, F.MCX_STAT_STATE, 2), (R.MCX_STAT, F.MCX_STAT_NCH, 4), (R.MC_STAT 0, F.MC_STAT_READY, 1), (R.MC_STAT 0, F.MC_STAT_PRESENT, 1)] with mc := { c.mc with dimmBytes := 17179869184 } }

def str3 : Chip := flds up3 [(R.ETH_STR_STAT 3, F.ETH_STR_STAT_RUNNING, 1)]

def ent : CarEntry := { index := 5, gen := 2, queue := 4, arrival := 3, prio := 1, kind := 2, part := 0, slot := 0, segNo := 0, cycle := 4 }

def strPop : Chip := served { str3 with cycle := 10, car := { work.car with entries := [ent] } }

def sres := (strPop.carPop 4).2.getD (0, [], ent)

theorem witness_Streamers_2 :
    (st strPop).chip.atWork = true ∧
    3 < 4 ∧
    (st strPop).chip.strRuns 3 = true ∧
    (st strPop).chip.engineOwns (3 + 1) = true ∧
    (st strPop).chip.ethUp 3 = true ∧
    ((st strPop).chip.eth 3).stream = none ∧
    ((st strPop).chip.eth 3).outst.length < (st strPop).chip.window 3 ∧
    ((st strPop).chip.eth 3).outst.contains sres.snd.snd.handle = false ∧
    ((st strPop).chip.eth 3).resume = none ∧
    (st strPop).chip.carHead (3 + 1) = some sres.snd.snd ∧
    (st strPop).chip.mcState = 2 := by decide

def cStreamers3 : Chip := { str3 with eths := [(3, { outst := [ent.handle] })], car := { work.car with entries := [{ ent with popNo := some 5, everPopped := true }] } }

theorem witness_Streamers_3 :
    (st cStreamers3).chip.atWork = true ∧
    3 < 4 ∧
    (st cStreamers3).chip.strRuns 3 = true ∧
    ((st cStreamers3).chip.eth 3).outst ≠ [] ∧
    ((st cStreamers3).chip.eth 3).stream = none ∧
    (st cStreamers3).chip.strAllOut 3 = true := by decide

def evOn : Chip := { flds up3 [(R.ORT_MGMT_CTRL, F.ORT_MGMT_CTRL_EN, 1), (R.EVT_ORT_CFG, F.EVT_ORT_CFG_REPEAT, 2), (R.EVT_STAT 63, ⟨0, 24⟩, 1), (R.EVT_EN 63, ⟨0, 24⟩, 1)] with evt := { work.evt with frameDue := true } }

theorem witness_Streamers_4 :
    (st evOn).chip.atWork = true ∧
    (st evOn).chip.eventOn = true ∧
    (st evOn).chip.evt.frameDue = true := by decide

def cStreamers5 : Chip := flds evOn [(R.EVT_ORT_MAP_H, ⟨0, 32⟩, 0x80000000)]

theorem witness_Streamers_5 :
    (st cStreamers5).chip.atWork = true ∧
    (st cStreamers5).chip.eventOn = true ∧
    (st cStreamers5).chip.fld R.EVT_ORT_CFG F.EVT_ORT_CFG_REPEAT ≠ 0 ∧
    (st cStreamers5).chip.activeLines &&& (st cStreamers5).chip.ortMap ≠ 0 := by decide

theorem witness_Streamers_6 :
    (st work).chip.atWork = true ∧
    1 ≤ 5 ∧
    5 ≤ 5 ∧
    (16 = 1 ∨ 16 = 4 ∨ 16 = 8 ∨ 16 = 16) ∧
    bit (st work).chip.pins.pen 0 = true := by decide

theorem witness_Streamers_6b :
    (st work).chip.atWork = true ∧
    1 ≤ 1 ∧
    1 ≤ 5 ∧
    (1 = 1 ∨ 1 = 4 ∨ 1 = 8 ∨ 1 = 16) ∧
    bit (st work).chip.pins.pen 0 = true := by decide

def cStreamers7 : Chip := { flds work [(R.HIF_LINK, F.HIF_LINK_UP, 1), (R.HIF_DMA_STAT, F.HIF_DMA_STAT_RUNNING, 1)] with pcie := ⟨true, true, true, false⟩ }

theorem witness_Streamers_7 :
    (st cStreamers7).chip.atWork = true ∧
    7 < 8 ∧
    16 ≤ 16 ∧
    (st cStreamers7).chip.pcieUp = true := by decide

def syn : Chip := wset (flds lit [(R.CLK_REF_CFG, F.CLK_REF_CFG_REF_KHZ, 10000), (R.CLK_SYN_CFG, F.CLK_SYN_CFG_RMUL, 1), (R.CLK_SYN_CFG, F.CLK_SYN_CFG_PDIV, 1), (R.CLK_SYN_CFG, F.CLK_SYN_CFG_OUTDIV, 4), (R.CLK_SYN_N, F.CLK_SYN_N_N, 1000), (R.CLK_STEP_N, F.CLK_STEP_N_N, 1000), (R.CLK_STAT, F.CLK_STAT_STATE, 2), (R.CLK_STAT, F.CLK_STAT_REF_OK, 1)]) [(R.CLK_REF_CFG, F.CLK_REF_CFG_REF_KHZ, 10000), (R.CLK_SYN_CFG, F.CLK_SYN_CFG_RMUL, 1), (R.CLK_SYN_CFG, F.CLK_SYN_CFG_PDIV, 1), (R.CLK_SYN_CFG, F.CLK_SYN_CFG_OUTDIV, 4)]

theorem witness_ClockCommands_1 :
    (st syn).chip.atWork = true ∧
    (st syn).chip.anyArmed = false ∧
    (st syn).chip.synCfg.legal = true ∧
    (st syn).chip.synCfg.ditherBad = false ∧
    (st syn).chip.synState ≠ 0 ∧
    (st syn).chip.synBusy = false := by decide

def cClockCommands2 : Chip := { syn with clk := { syn.clk with applyN := 1000 } }

theorem witness_ClockCommands_2 :
    (st cClockCommands2).chip.atWork = true ∧
    (st cClockCommands2).chip.stepInRange = true ∧
    ((st cClockCommands2).chip.synState = 2 ∨ (st cClockCommands2).chip.synState = 4) ∧
    (st cClockCommands2).chip.ramping = false := by decide

def cClockCommands3 : Chip := { flds syn [(R.CLK_STAT, F.CLK_STAT_RAMP, 1)] with clk := { syn.clk with rampTo := some (5, 6) } }

theorem witness_ClockCommands_3 :
    (st cClockCommands3).chip.atWork = true ∧
    (st cClockCommands3).chip.clk.rampTo = some (5, 6) ∧
    (st cClockCommands3).chip.ramping = true := by decide +kernel

theorem witness_ClockCommands_4 :
    (st syn).chip.atWork = true := by decide

theorem witness_ClockCommands_5 :
    (st syn).chip.atWork = true ∧
    Init.host ≠ Init.sched ∧
    7 < 8 := by decide

def pps : Chip := wset (flds lit [(R.EPC_STAT, F.EPC_STAT_STATE, 2)]) [(R.CLK_CKO_CFG 7, F.CLK_CKO_CFG_EN, 1), (R.CLK_CKO_CFG 7, F.CLK_CKO_CFG_SRC, 1)]

theorem witness_ClockCommands_6 :
    (st pps).chip.atWork = true ∧
    7 < 8 ∧
    (st pps).chip.ckoPps 7 = true ∧
    (st pps).chip.epcHolds = true ∧
    (st pps).chip.sampleOn = true := by decide

def cClockCommands7 : Chip := { pps with clk := { pps.clk with ckoHigh := 128 } }

theorem witness_ClockCommands_7 :
    (st cClockCommands7).chip.atWork = true ∧
    7 < 8 ∧
    bit (st cClockCommands7).chip.clk.ckoHigh 7 = true := by decide

theorem witness_ClockCommands_8 :
    0 < 64 ∧
    63 < 64 ∧
    0 < 64 ∧
    64 ≤ 64 := by decide

theorem witness_ClockCommands_8b :
    0 < 64 ∧
    0 < 64 ∧
    32 < 64 ∧
    64 ≤ 64 := by decide

def cSynthesiserMoves1 : Chip := flds syn [(R.CLK_STAT, F.CLK_STAT_STATE, 1)]

def good : List (Nat × Nat) := [(5, 1024)]

theorem witness_SynthesiserMoves_1 :
    (st cSynthesiserMoves1).chip.atWork = true ∧
    lockMet good = true ∧
    (st cSynthesiserMoves1).chip.synState = 1 ∧
    (st cSynthesiserMoves1).chip.refOk = true ∧
    (st cSynthesiserMoves1).chip.refSel = false := by decide +kernel

def ret : Chip := flds syn [(R.CLK_STAT, F.CLK_STAT_STATE, 6)]

def cSynthesiserMoves1b : Chip := { ret with clk := { ret.clk with returnHeld := true } }

theorem witness_SynthesiserMoves_1b :
    (st cSynthesiserMoves1b).chip.atWork = true ∧
    lockMet [(3000, 7), (2048, 2000)] = true ∧
    0 < 256 ∧
    0 < 256 ∧
    (st cSynthesiserMoves1b).chip.synState = 6 := by decide +kernel

def cSynthesiserMoves2 : Chip := flds syn [(R.CLK_STAT, F.CLK_STAT_STATE, 1)]

theorem witness_SynthesiserMoves_2 :
    (st cSynthesiserMoves2).chip.atWork = true ∧
    lockMet [(2049, 5)] = false ∧
    255 < 256 ∧
    3 < 256 := by decide +kernel

theorem witness_SynthesiserMoves_3 :
    (st syn).chip.atWork = true ∧
    (st syn).chip.synState = 2 ∧
    (st syn).chip.refOk = true ∧
    3 < 8 ∧
    (st syn).chip.refLost 3 (2 ^ 64) = true ∧
    (st syn).chip.gated = false := by decide

theorem witness_SynthesiserMoves_3b :
    (st syn).chip.atWork = true ∧
    (st syn).chip.synState = 2 ∧
    (st syn).chip.refOk = true ∧
    4 < 8 ∧
    (st syn).chip.refLost 4 10 = true ∧
    (st syn).chip.gated = false := by decide

theorem witness_SynthesiserMoves_3c :
    (st syn).chip.atWork = true ∧
    (st syn).chip.synState = 2 ∧
    (st syn).chip.refOk = true ∧
    5 < 8 ∧
    (st syn).chip.refLost 5 (2 ^ 64) = true ∧
    (st syn).chip.gated = false := by decide

def gat : Chip := flds syn [(R.GLB_PROFILE_EFF, F.GLB_PROFILE_EFF_CLK_GATED, 1)]

theorem witness_SynthesiserMoves_4 :
    (st gat).chip.atWork = true ∧
    (st gat).chip.synState = 2 ∧
    (st gat).chip.refOk = true ∧
    4 < 8 ∧
    (st gat).chip.refLost 4 0 = true ∧
    (st gat).chip.gated = true := by decide +kernel

def cSynthesiserMoves5 : Chip := { flds syn [(R.CLK_STAT, F.CLK_STAT_STATE, 3)] with clk := { syn.clk with applyN := 1000, applyFrac := 7 } }

theorem witness_SynthesiserMoves_5 :
    (st cSynthesiserMoves5).chip.atWork = true ∧
    (st cSynthesiserMoves5).chip.synState = 3 := by decide +kernel

def synLk : Chip := flds syn [(R.CLK_STAT, F.CLK_STAT_LOCK, 1), (R.CLK_STAT, F.CLK_STAT_GA_LOCK, 255)]

theorem witness_SynthesiserMoves_6 :
    (st synLk).chip.atWork = true ∧
    (st synLk).chip.synState = 2 ∧
    (st synLk).chip.gated = false ∧
    (st synLk).chip.refOk = true ∧
    none.getD 0 < 16 ∧
    (unlockMet [(16385, 8)] = true ∧ (st synLk).chip.flag R.CLK_STAT F.CLK_STAT_LOCK = true ∨ (none : Option Nat).isSome = true) := by decide +kernel

theorem witness_SynthesiserMoves_6b :
    (st synLk).chip.atWork = true ∧
    (st synLk).chip.synState = 2 ∧
    (st synLk).chip.gated = false ∧
    (st synLk).chip.refOk = true ∧
    (some 7).getD 0 < 16 ∧
    (unlockMet [] = true ∧ (st synLk).chip.flag R.CLK_STAT F.CLK_STAT_LOCK = true ∨ (some 7).isSome = true) := by decide +kernel

theorem witness_SynthesiserMoves_6c :
    (st synLk).chip.atWork = true ∧
    (st synLk).chip.synState = 2 ∧
    (st synLk).chip.gated = false ∧
    (st synLk).chip.refOk = true ∧
    (some 15).getD 0 < 16 ∧
    (unlockMet [] = true ∧ (st synLk).chip.flag R.CLK_STAT F.CLK_STAT_LOCK = true ∨ (some 15).isSome = true) := by decide +kernel

def cSynthesiserMoves7 : Chip := flds syn [(R.CLK_STAT, F.CLK_STAT_STATE, 3), (R.CLK_STAT, F.CLK_STAT_REF_OK, 0)]

theorem witness_SynthesiserMoves_7 :
    (st cSynthesiserMoves7).chip.atWork = true ∧
    (st cSynthesiserMoves7).chip.synState = 3 ∧
    (st cSynthesiserMoves7).chip.refOk = false ∧
    (st cSynthesiserMoves7).chip.refInTol 10000000 = true := by decide +kernel

def mc2 : Chip := served work

theorem witness_SelfRefresh_1 :
    (st mc2).chip.atWork = true ∧
    (st mc2).chip.anyTraining = false ∧
    ((st mc2).chip.mcState = 2 ∨ (st mc2).chip.mcState = 3) ∧
    (∀ (p : Nat), p < 16 → (st mc2).chip.recording p = false) := by decide

def mcS (k : Nat) : Chip := flds mc2 [(R.MCX_STAT, F.MCX_STAT_STATE, k)]

def cSelfRefresh2 : Chip := { mcS 4 with mc := { mc2.mc with chans := [(7, { debt := [(0, 3)], openRow := [(1, 2)] })] } }

theorem witness_SelfRefresh_2 :
    (st cSelfRefresh2).chip.atWork = true ∧
    (st cSelfRefresh2).chip.mcState = 4 ∧
    (st cSelfRefresh2).chip.mcQuiet = true := by decide

def cSelfRefresh3 : Chip := { mcS 5 with mc := { mc2.mc with residency := true } }

theorem witness_SelfRefresh_3 :
    (st cSelfRefresh3).chip.atWork = true ∧
    (st cSelfRefresh3).chip.mcState = 5 ∧
    (st cSelfRefresh3).chip.mc.residency = true := by decide

def cSelfRefresh3b : Chip := { mcS 5 with mc := { mc2.mc with residency := true, exitDue := true } }

theorem witness_SelfRefresh_3b :
    (st cSelfRefresh3b).chip.atWork = true ∧
    (st cSelfRefresh3b).chip.mcState = 5 ∧
    (st cSelfRefresh3b).chip.mc.residency = true := by decide

def cSelfRefresh4 : Chip := { mcS 5 with mc := { mc2.mc with residency := true } }

theorem witness_SelfRefresh_4 :
    (st cSelfRefresh4).chip.atWork = true ∧
    (st cSelfRefresh4).chip.mcState = 5 := by decide

theorem witness_SelfRefresh_4b :
    (st (mcS 5)).chip.atWork = true ∧
    (st (mcS 5)).chip.mcState = 5 := by decide

def cSelfRefresh5 : Chip := { mcS 6 with mc := { mc2.mc with srPrior := 7, srBy := 1 } }

theorem witness_SelfRefresh_5 :
    (st cSelfRefresh5).chip.atWork = true ∧
    (st cSelfRefresh5).chip.mcState = 6 ∧
    (st cSelfRefresh5).chip.mc.srPrior < 8 ∧
    (st cSelfRefresh5).chip.mc.late = [] := by decide

def cSelfRefresh6 : Chip := { mcS 4 with mc := { mc2.mc with srPrior := 2, srBy := 1 } }

theorem witness_SelfRefresh_6 :
    (st cSelfRefresh6).chip.atWork = true ∧
    (st cSelfRefresh6).chip.mcState = 4 ∧
    (st cSelfRefresh6).chip.mc.srBy = 1 ∧
    (st cSelfRefresh6).chip.mc.srPrior < 8 ∧
    8 ≤ 12 ∧
    12 ≤ 12 ∧
    1 ≤ 4096 ∧
    4096 ≤ 4096 ∧
    0 < 2 ^ 48 ∧
    0 + 4096 ≤ (st cSelfRefresh6).chip.capBytes ∧
    (st cSelfRefresh6).chip.queueFits McCh.reads ((st cSelfRefresh6).chip.capRuns 12 0 4096) = true ∧
    (((st cSelfRefresh6).chip.capRuns 12 0 4096).all fun x => (st cSelfRefresh6).chip.reqIdle x.fst 12) = true := by decide

def cSelfRefresh6b : Chip := { mcS 4 with mc := { mc2.mc with srPrior := 2, srBy := 1 } }

theorem witness_SelfRefresh_6b :
    (st cSelfRefresh6b).chip.atWork = true ∧
    (st cSelfRefresh6b).chip.mcState = 4 ∧
    (st cSelfRefresh6b).chip.mc.srBy = 1 ∧
    (st cSelfRefresh6b).chip.mc.srPrior < 8 ∧
    8 ≤ 8 ∧
    8 ≤ 12 ∧
    1 ≤ 1 ∧
    1 ≤ 4096 ∧
    5 < 2 ^ 48 ∧
    5 + 1 ≤ (st cSelfRefresh6b).chip.capBytes ∧
    (st cSelfRefresh6b).chip.queueFits McCh.reads ((st cSelfRefresh6b).chip.capRuns 8 5 1) = true ∧
    (((st cSelfRefresh6b).chip.capRuns 8 5 1).all fun x => (st cSelfRefresh6b).chip.reqIdle x.fst 8) = true := by decide

def cSelfRefresh7 : Chip := { mcS 5 with mc := { mc2.mc with srPrior := 2, srBy := 1 } }

theorem witness_SelfRefresh_7 :
    (st cSelfRefresh7).chip.atWork = true ∧
    (st cSelfRefresh7).chip.mcState = 5 ∧
    8 ≤ 12 ∧
    12 ≤ 12 ∧
    1 ≤ 4096 ∧
    4096 ≤ 4096 ∧
    0 < 2 ^ 48 ∧
    0 + 4096 ≤ (st cSelfRefresh7).chip.capBytes ∧
    (st cSelfRefresh7).chip.queueFits McCh.reads ((st cSelfRefresh7).chip.capRuns 12 0 4096) = true ∧
    (((st cSelfRefresh7).chip.capRuns 12 0 4096).all fun x => (st cSelfRefresh7).chip.reqIdle x.fst 12) = true := by decide

theorem witness_TrainingCommands_1 :
    (st mc2).chip.atWork = true ∧
    0 < 1 ∧
    1 < 256 ∧
    (st mc2).chip.mcState = 2 ∧
    (∀ (n : Nat), n < 8 → bit 1 n = true → (st mc2).chip.mcPresent n = true) ∧
    (∀ (p : Nat), p < 16 → (st mc2).chip.armed p = false) ∧
    (st mc2).chip.consumerRuns = false := by decide

def trn : Chip := flds (mcS 1) [(R.MC_STAT 0, F.MC_STAT_TRAINING, 1), (R.MC_TRN_STAT 0, F.MC_TRN_STAT_DONE, 1), (R.MC_TRN_SWEEP 0, F.MC_TRN_SWEEP_END, 7)]

theorem witness_TrainingCommands_2 :
    (st trn).chip.atWork = true ∧
    0 < 8 ∧
    (st trn).chip.flag (R.MC_STAT 0) F.MC_STAT_TRAINING = true ∧
    (st trn).chip.flag (R.MC_TRN_STAT 0) F.MC_TRN_STAT_BUSY = false ∧
    (st trn).chip.mcPresent 0 = true := by decide

def cTrainingCommands3 : Chip := flds trn [(R.MC_TRN_STAT 0, F.MC_TRN_STAT_BUSY, 1)]

theorem witness_TrainingCommands_3 :
    (st cTrainingCommands3).chip.atWork = true ∧
    0 < 8 ∧
    (Instr.trnDone 0 [{ setting := 3, codeword := 0, bits := 2 ^ 79 }]).wf = true ∧
    (st cTrainingCommands3).chip.flag (R.MC_TRN_STAT 0) F.MC_TRN_STAT_BUSY = true := by decide +kernel

def cTrainingCommands3b : Chip := flds trn [(R.MC_TRN_STAT 0, F.MC_TRN_STAT_BUSY, 1)]

theorem witness_TrainingCommands_3b :
    (st cTrainingCommands3b).chip.atWork = true ∧
    0 < 8 ∧
    (Instr.trnDone 0 []).wf = true ∧
    (st cTrainingCommands3b).chip.flag (R.MC_TRN_STAT 0) F.MC_TRN_STAT_BUSY = true := by decide

theorem witness_DramTraffic_1 :
    (st mc2).chip.atWork = true ∧
    ((st mc2).chip.mcState = 2 ∨ (st mc2).chip.mcState = 3) ∧
    8 ≤ 12 ∧
    12 ≤ 12 ∧
    1 ≤ 4096 ∧
    4096 ≤ 4096 ∧
    0 < 2 ^ 48 ∧
    0 + 4096 ≤ (st mc2).chip.capBytes ∧
    (st mc2).chip.queueFits McCh.reads ((st mc2).chip.capRuns 12 0 4096) = true ∧
    (((st mc2).chip.capRuns 12 0 4096).all fun x => (st mc2).chip.reqIdle x.fst 12) = true := by decide

theorem witness_DramTraffic_2 :
    (st mc2).chip.atWork = true ∧
    ((st mc2).chip.mcState = 2 ∨ (st mc2).chip.mcState = 3) ∧
    1 ≤ 4096 ∧
    4096 ≤ 4096 ∧
    0 < 2 ^ 48 ∧
    (0 + 4096 ≤ if false = true then (st mc2).chip.engBytes else (st mc2).chip.capBytes) ∧
    (st mc2).chip.queueFits McCh.reads (if false = true then (st mc2).chip.engRuns 13 0 4096 else (st mc2).chip.capRuns 13 0 4096) = true := by decide

theorem witness_DramTraffic_2b :
    (st mc2).chip.atWork = true ∧
    ((st mc2).chip.mcState = 2 ∨ (st mc2).chip.mcState = 3) ∧
    1 ≤ 1 ∧
    1 ≤ 4096 ∧
    3000 < 2 ^ 48 ∧
    (3000 + 1 ≤ if true = true then (st mc2).chip.engBytes else (st mc2).chip.capBytes) ∧
    (st mc2).chip.queueFits McCh.reads (if true = true then (st mc2).chip.engRuns 13 3000 1 else (st mc2).chip.capRuns 13 3000 1) = true := by decide

def req1 : DramReq := { req := 9, addr := 0, count := 2 }

def wr1 : DramReq := { req := 1, addr := 4096, count := 1 }

def cDramTraffic3 : Chip := { mc2 with mc := { mc2.mc with chans := [(0, { reads := [req1], writes := [wr1] })] } }

theorem witness_DramTraffic_3 :
    (st cDramTraffic3).chip.atWork = true ∧
    0 < 8 ∧
    (st cDramTraffic3).chip.mcState = 2 ∧
    (st cDramTraffic3).chip.flag (R.MC_STAT 0) F.MC_STAT_READY = true ∧
    (st cDramTraffic3).chip.mc.wait = [] ∧
    (st cDramTraffic3).chip.urgent 0 = none ∧
    ((st cDramTraffic3).chip.mcCh 0).rfm = [] ∧
    ((st cDramTraffic3).chip.mcCh 0).drainNow = false ∧
    ((st cDramTraffic3).chip.setMcCh 0 (have __src := (st cDramTraffic3).chip.mcCh 0; { reads := __src.reads, writes := __src.writes, flight := __src.flight, merge := __src.merge, rfm := __src.rfm, acts := __src.acts, bytes := __src.bytes, debt := __src.debt, lastReq := __src.lastReq, openRow := __src.openRow, trackers := __src.trackers, throttle := __src.throttle, throttleAt := __src.throttleAt, laneDone := __src.laneDone, coolRun := __src.coolRun, bad := __src.bad, scrubDue := __src.scrubDue, driftDue := __src.driftDue, staged := __src.staged, inUse := __src.inUse })).nextRead 0 = some req1 := by decide

def cDramTraffic3b : Chip := { mc2 with mc := { mc2.mc with chans := [(0, { writes := [wr1] })] } }

theorem witness_DramTraffic_3b :
    (st cDramTraffic3b).chip.atWork = true ∧
    0 < 8 ∧
    (st cDramTraffic3b).chip.mcState = 2 ∧
    (st cDramTraffic3b).chip.flag (R.MC_STAT 0) F.MC_STAT_READY = true ∧
    (st cDramTraffic3b).chip.mc.wait = [] ∧
    (st cDramTraffic3b).chip.urgent 0 = none ∧
    ((st cDramTraffic3b).chip.mcCh 0).rfm = [] ∧
    ((st cDramTraffic3b).chip.mcCh 0).drainNow = false ∧
    ((st cDramTraffic3b).chip.setMcCh 0 (have __src := (st cDramTraffic3b).chip.mcCh 0; { reads := __src.reads, writes := __src.writes, flight := __src.flight, merge := __src.merge, rfm := __src.rfm, acts := __src.acts, bytes := __src.bytes, debt := __src.debt, lastReq := __src.lastReq, openRow := __src.openRow, trackers := __src.trackers, throttle := __src.throttle, throttleAt := __src.throttleAt, laneDone := __src.laneDone, coolRun := __src.coolRun, bad := __src.bad, scrubDue := __src.scrubDue, driftDue := __src.driftDue, staged := __src.staged, inUse := __src.inUse })).nextRead 0 = none ∧
    ((st cDramTraffic3b).chip.setMcCh 0 (have __src := (st cDramTraffic3b).chip.mcCh 0; { reads := __src.reads, writes := __src.writes, flight := __src.flight, merge := __src.merge, rfm := __src.rfm, acts := __src.acts, bytes := __src.bytes, debt := __src.debt, lastReq := __src.lastReq, openRow := __src.openRow, trackers := __src.trackers, throttle := __src.throttle, throttleAt := __src.throttleAt, laneDone := __src.laneDone, coolRun := __src.coolRun, bad := __src.bad, scrubDue := __src.scrubDue, driftDue := __src.driftDue, staged := __src.staged, inUse := __src.inUse })).nextWrite 0 = some wr1 := by decide

def cDramTraffic3c : Chip := { mc2 with mc := { mc2.mc with chans := [(0, { debt := [(0, 3)] })] } }

theorem witness_DramTraffic_3c :
    (st cDramTraffic3c).chip.atWork = true ∧
    0 < 8 ∧
    (st cDramTraffic3c).chip.mcState = 2 ∧
    (st cDramTraffic3c).chip.flag (R.MC_STAT 0) F.MC_STAT_READY = true ∧
    (st cDramTraffic3c).chip.mc.wait = [] ∧
    (st cDramTraffic3c).chip.urgent 0 = none ∧
    ((st cDramTraffic3c).chip.mcCh 0).rfm = [] ∧
    ((st cDramTraffic3c).chip.mcCh 0).drainNow = false ∧
    ((st cDramTraffic3c).chip.setMcCh 0 (have __src := (st cDramTraffic3c).chip.mcCh 0; { reads := __src.reads, writes := __src.writes, flight := __src.flight, merge := __src.merge, rfm := __src.rfm, acts := __src.acts, bytes := __src.bytes, debt := __src.debt, lastReq := __src.lastReq, openRow := __src.openRow, trackers := __src.trackers, throttle := __src.throttle, throttleAt := __src.throttleAt, laneDone := __src.laneDone, coolRun := __src.coolRun, bad := __src.bad, scrubDue := __src.scrubDue, driftDue := __src.driftDue, staged := __src.staged, inUse := __src.inUse })).nextRead 0 = none ∧
    ((st cDramTraffic3c).chip.setMcCh 0 (have __src := (st cDramTraffic3c).chip.mcCh 0; { reads := __src.reads, writes := __src.writes, flight := __src.flight, merge := __src.merge, rfm := __src.rfm, acts := __src.acts, bytes := __src.bytes, debt := __src.debt, lastReq := __src.lastReq, openRow := __src.openRow, trackers := __src.trackers, throttle := __src.throttle, throttleAt := __src.throttleAt, laneDone := __src.laneDone, coolRun := __src.coolRun, bad := __src.bad, scrubDue := __src.scrubDue, driftDue := __src.driftDue, staged := __src.staged, inUse := __src.inUse })).nextWrite 0 = none ∧
    ((st cDramTraffic3c).chip.mcCh 0).merge = [] ∧
    owing ((st cDramTraffic3c).chip.mcCh 0).debt = some 0 := by decide

def cDramTraffic4 : Chip := { mc2 with mc := { mc2.mc with chans := [(7, { flight := [(12, 3)] })] } }

theorem witness_DramTraffic_4 :
    (st cDramTraffic4).chip.atWork = true ∧
    7 < 8 ∧
    384 < 2 ^ 40 ∧
    12 < 16 ∧
    19 < 20 ∧
    0 < 3 ∧
    3 < 16 ∧
    ((st cDramTraffic4).chip.mcCh 7).flight.contains (12, 384 / 128) = true ∧
    cnt0 ((st cDramTraffic4).chip.mcCh 7).bad (384 / 128) = 0 ∧
    (Instr.dramReadReturn 7 384 12 0 [(19, 3), (2, 1)]).wf = true ∧
    (∀ (e : Nat × Nat), e ∈ [(19, 3), (2, 1)] → 0 < e.snd) ∧
    ((distinct (List.map Prod.fst [(19, 3), (2, 1)])).length = 2 ∨ (distinct (List.map Prod.fst [(19, 3), (2, 1)])).length = 3) := by decide

def cDramTraffic4b : Chip := { mc2 with mc := { mc2.mc with chans := [(7, { flight := [(13, 3)] })] } }

theorem witness_DramTraffic_4b :
    (st cDramTraffic4b).chip.atWork = true ∧
    7 < 8 ∧
    384 < 2 ^ 40 ∧
    13 < 16 ∧
    0 < 20 ∧
    0 < 15 ∧
    15 < 16 ∧
    ((st cDramTraffic4b).chip.mcCh 7).flight.contains (13, 384 / 128) = true ∧
    cnt0 ((st cDramTraffic4b).chip.mcCh 7).bad (384 / 128) = 0 ∧
    (Instr.dramReadReturn 7 384 13 0 [(19, 3), (2, 1), (19, 3), (5, 15)]).wf = true ∧
    (∀ (e : Nat × Nat), e ∈ [(19, 3), (2, 1), (19, 3), (5, 15)] → 0 < e.snd) ∧
    ((distinct (List.map Prod.fst [(19, 3), (2, 1), (19, 3), (5, 15)])).length = 2 ∨ (distinct (List.map Prod.fst [(19, 3), (2, 1), (19, 3), (5, 15)])).length = 3) := by decide

theorem witness_DramKeeping_1 :
    (st mc2).chip.atWork = true ∧
    0 < 8 ∧
    (st mc2).chip.mcState = 2 ∧
    (st mc2).chip.flag (R.MC_STAT 0) F.MC_STAT_READY = true ∧
    (st mc2).chip.rankMerging 0 0 = false ∧
    (st mc2).chip.nextRead 0 = none ∧
    (st mc2).chip.nextWrite 0 = none := by decide

def cDramKeeping1b : Chip := { mc2 with mc := { mc2.mc with chans := [(0, { reads := [req1] })] } }

theorem witness_DramKeeping_1b :
    (st cDramKeeping1b).chip.atWork = true ∧
    0 < 8 ∧
    (st cDramKeeping1b).chip.mcState = 2 ∧
    (st cDramKeeping1b).chip.flag (R.MC_STAT 0) F.MC_STAT_READY = true ∧
    (st cDramKeeping1b).chip.rankMerging 0 0 = false ∧
    ((st cDramKeeping1b).chip.nextRead 0 ≠ none ∨ (st cDramKeeping1b).chip.nextWrite 0 ≠ none) ∧
    (st cDramKeeping1b).chip.flag (R.MC_STAT 0) F.MC_STAT_HOT = false ∧
    cnt0 ((st cDramKeeping1b).chip.mcCh 0).debt 0 < (st cDramKeeping1b).chip.postpone := by decide

def cDramKeeping2 : Chip := { mc2 with mc := { mc2.mc with chans := [(7, { trackers := [(0, [])], throttle := [(1, 2)] })] } }

theorem witness_DramKeeping_2 :
    (st cDramKeeping2).chip.atWork = true ∧
    7 < 8 := by decide

theorem witness_DramKeeping_3 :
    (st mc2).chip.atWork = true ∧
    0 < 8 ∧
    85 ≤ 85 ∧
    85 < 95 ∧
    (st mc2).chip.mcPresent 0 = true ∧
    (st mc2).chip.flag (R.MC_STAT 0) F.MC_STAT_HOT = false := by decide

theorem witness_DramKeeping_3b :
    (st mc2).chip.atWork = true ∧
    0 < 8 ∧
    85 ≤ 94 ∧
    94 < 95 ∧
    (st mc2).chip.mcPresent 0 = true ∧
    (st mc2).chip.flag (R.MC_STAT 0) F.MC_STAT_HOT = false := by decide

def scr : Chip := flds { mc2 with mc := { mc2.mc with chans := [(0, { bytes := 256 })] } } [(R.MCX_SCRUB, F.MCX_SCRUB_ACTIVE, 1)]

theorem witness_DramKeeping_4 :
    (st scr).chip.atWork = true ∧
    0 < 8 ∧
    (st scr).chip.flag R.MCX_SCRUB F.MCX_SCRUB_ACTIVE = true ∧
    ((st scr).chip.mcState = 2 ∨ (st scr).chip.mcState = 3) ∧
    (st scr).chip.flag (R.MC_STAT 0) F.MC_STAT_READY = true ∧
    0 < ((st scr).chip.mcCh 0).bytes ∧
    ((st scr).chip.waitLine (max (st scr).chip.mc.scrubAt ((st scr).chip.mcCh 0).scrubDue)).scrubTurn 0 { req := 14, addr := 128 * (st scr).chip.fld (R.MC_SCRUB_POS 0) F.MC_SCRUB_POS_POS, count := 1 } = true ∧
    cnt0 ((st scr).chip.mcCh 0).bad ((st scr).chip.fld (R.MC_SCRUB_POS 0) F.MC_SCRUB_POS_POS) = 0 ∧
    ((st scr).chip.mcCh 0).bytes ≤ 2 ^ 37 := by decide

def cDramKeeping4b : Chip := flds scr [(R.MC_SCRUB_POS 0, F.MC_SCRUB_POS_POS, 1)]

theorem witness_DramKeeping_4b :
    (st cDramKeeping4b).chip.atWork = true ∧
    0 < 8 ∧
    (st cDramKeeping4b).chip.flag R.MCX_SCRUB F.MCX_SCRUB_ACTIVE = true ∧
    ((st cDramKeeping4b).chip.mcState = 2 ∨ (st cDramKeeping4b).chip.mcState = 3) ∧
    (st cDramKeeping4b).chip.flag (R.MC_STAT 0) F.MC_STAT_READY = true ∧
    0 < ((st cDramKeeping4b).chip.mcCh 0).bytes ∧
    ((st cDramKeeping4b).chip.waitLine (max (st cDramKeeping4b).chip.mc.scrubAt ((st cDramKeeping4b).chip.mcCh 0).scrubDue)).scrubTurn 0 { req := 14, addr := 128 * (st cDramKeeping4b).chip.fld (R.MC_SCRUB_POS 0) F.MC_SCRUB_POS_POS, count := 1 } = true ∧
    cnt0 ((st cDramKeeping4b).chip.mcCh 0).bad ((st cDramKeeping4b).chip.fld (R.MC_SCRUB_POS 0) F.MC_SCRUB_POS_POS) = 0 ∧
    ((st cDramKeeping4b).chip.mcCh 0).bytes ≤ 2 ^ 37 := by decide

theorem witness_DramKeeping_5 :
    (st mc2).chip.atWork = true ∧
    0 < 8 ∧
    -1 ≤ -1 ∧
    -1 ≤ 1 ∧
    (st mc2).chip.flag (R.MC_STAT 0) F.MC_STAT_READY = true ∧
    ((st mc2).chip.mcState = 2 ∨ (st mc2).chip.mcState = 3) := by decide

theorem witness_DramKeeping_5b :
    (st mc2).chip.atWork = true ∧
    0 < 8 ∧
    -1 ≤ 1 ∧
    1 ≤ 1 ∧
    (st mc2).chip.flag (R.MC_STAT 0) F.MC_STAT_READY = true ∧
    ((st mc2).chip.mcState = 2 ∨ (st mc2).chip.mcState = 3) := by decide

def full : Chip := { work with cst := { words := [(5, 9), (4194303, 0xff)], bad := [(6, 2)] } }

theorem witness_Bar2Access_1 :
    (st full).chip.atWork = true ∧
    4194303 < (st full).chip.cstWords ∧
    (st full).chip.cstBad ((st full).chip.cstPhys 4194303) = 0 ∧
    (st full).chip.cstRaw ((st full).chip.cstPhys 4194303) = false ∧
    (st full).chip.cstRawOn = false := by decide

theorem witness_Bar2Access_1b :
    (st full).chip.atWork = true ∧
    5 < (st full).chip.cstWords ∧
    (st full).chip.cstBad ((st full).chip.cstPhys 5) = 0 ∧
    (st full).chip.cstRaw ((st full).chip.cstPhys 5) = false ∧
    (st full).chip.cstRawOn = false := by decide

theorem witness_Bar2Access_2 :
    (st full).chip.atWork = true ∧
    4194303 < (st full).chip.cstWords ∧
    0 < 14 ∧
    14 < 15 := by decide

def cBar2Access3 : Chip := flds full [(R.GLB_PROFILE_EFF, F.GLB_PROFILE_EFF_CST_SCRUB, 1), (R.CST_SCRUB_POS, F.CST_SCRUB_POS_ROW, 65535)]

theorem witness_Bar2Access_3 :
    (st cBar2Access3).chip.atWork = true ∧
    63 < 64 ∧
    (st cBar2Access3).chip.cstDegraded = false ∧
    (st cBar2Access3).chip.cstRawOn = false ∧
    (st cBar2Access3).chip.flag R.GLB_PROFILE_EFF F.GLB_PROFILE_EFF_CST_SCRUB = true ∧
    (st cBar2Access3).chip.cstBad ((st cBar2Access3).chip.fld R.CST_SCRUB_POS F.CST_SCRUB_POS_ROW * 64 + 63) = 0 ∧
    (st cBar2Access3).chip.cstRaw ((st cBar2Access3).chip.fld R.CST_SCRUB_POS F.CST_SCRUB_POS_ROW * 64 + 63) = false := by decide

def cBar2Access3b : Chip := flds full [(R.GLB_PROFILE_EFF, F.GLB_PROFILE_EFF_CST_SCRUB, 1)]

theorem witness_Bar2Access_3b :
    (st cBar2Access3b).chip.atWork = true ∧
    0 < 64 ∧
    (st cBar2Access3b).chip.cstDegraded = false ∧
    (st cBar2Access3b).chip.cstRawOn = false ∧
    (st cBar2Access3b).chip.flag R.GLB_PROFILE_EFF F.GLB_PROFILE_EFF_CST_SCRUB = true ∧
    (st cBar2Access3b).chip.cstBad ((st cBar2Access3b).chip.fld R.CST_SCRUB_POS F.CST_SCRUB_POS_ROW * 64 + 0) = 0 ∧
    (st cBar2Access3b).chip.cstRaw ((st cBar2Access3b).chip.fld R.CST_SCRUB_POS F.CST_SCRUB_POS_ROW * 64 + 0) = false := by decide

def ac (m k : Nat) (d : BitVec 64) (mask : Nat) : CstAccess := { master := m, word := 4194303, kind := k, data := d, mask := mask }

theorem witness_BankMerge_1 :
    9 < 64 ∧
    (∀ (x : CstAccess), x ∈ [ac 3 0 5 1, ac 19 1 (2 ^ 63) 128, ac 0 2 65280 3, ac 9 0 43520 3] → x.master < 21) := by decide

theorem witness_BankMerge_1b :
    63 < 64 ∧
    (∀ (x : CstAccess), x ∈ [ac 3 0 5 1, ac 19 1 (2 ^ 63) 128, ac 0 2 65280 3, ac 9 0 43520 1] → x.master < 21) ∧
    (∀ (x : CstAccess), x ∈ [ac 3 0 5 1, ac 19 1 (2 ^ 63) 128, ac 0 2 65280 3, ac 9 0 43520 1] → x.kind = 0 → bit x.mask (63 / 8) = false) := by decide

theorem witness_BankMerge_1c :
    9 < 64 ∧
    (∀ (x : CstAccess), x ∈ [ac 3 0 5 1, ac 19 1 (2 ^ 63) 128, ac 0 2 65280 3, ac 9 0 43520 1] → x.master < 21) ∧
    (∀ (x : CstAccess), x ∈ [ac 3 0 5 1, ac 19 1 (2 ^ 63) 128, ac 0 2 65280 3, ac 9 0 43520 1] → x.kind = 0 → bit x.mask (9 / 8) = false) := by decide

theorem witness_BankMerge_2 :
    (st full).chip.atWork = true ∧
    (ac 19 0 5 3).word < (st full).chip.cstWords ∧
    (ac 0 3 0 255).word = (ac 19 0 5 3).word ∧
    (ac 19 0 5 3).master ≠ (ac 0 3 0 255).master ∧
    (Instr.cstBankAccess ((st full).chip.cstBankOf (ac 19 0 5 3).word) [ac 19 0 5 3, ac 0 3 0 255]).wf = true ∧
    (ac 19 0 5 3).upset = 0 ∧
    (ac 0 3 0 255).upset = 0 ∧
    (st full).chip.cstBad ((st full).chip.cstPhys (ac 19 0 5 3).word) = 0 ∧
    (st full).chip.cstRaw ((st full).chip.cstPhys (ac 19 0 5 3).word) = false ∧
    (st full).chip.cstRawOn = false ∧
    (st full).chip.cstBus.wait = [] := by decide

theorem witness_BankMerge_2b :
    (st full).chip.atWork = true ∧
    (ac 19 1 65280 3).word < (st full).chip.cstWords ∧
    (ac 0 2 15 255).word = (ac 19 1 65280 3).word ∧
    (ac 19 1 65280 3).master ≠ (ac 0 2 15 255).master ∧
    (Instr.cstBankAccess ((st full).chip.cstBankOf (ac 19 1 65280 3).word) [ac 19 1 65280 3, ac 0 2 15 255]).wf = true ∧
    (ac 19 1 65280 3).upset = 0 ∧
    (ac 0 2 15 255).upset = 0 ∧
    (st full).chip.cstBad ((st full).chip.cstPhys (ac 19 1 65280 3).word) = 0 ∧
    (st full).chip.cstRaw ((st full).chip.cstPhys (ac 19 1 65280 3).word) = false ∧
    (st full).chip.cstRawOn = false ∧
    (st full).chip.cstBus.wait = [] := by decide

theorem witness_BankMerge_2c :
    (st full).chip.atWork = true ∧
    (ac 19 0 65280 3).word < (st full).chip.cstWords ∧
    (ac 18 0 15 255).word = (ac 19 0 65280 3).word ∧
    (ac 19 0 65280 3).master ≠ (ac 18 0 15 255).master ∧
    (Instr.cstBankAccess ((st full).chip.cstBankOf (ac 19 0 65280 3).word) [ac 19 0 65280 3, ac 18 0 15 255]).wf = true ∧
    (ac 19 0 65280 3).upset = 0 ∧
    (ac 18 0 15 255).upset = 0 ∧
    (st full).chip.cstBad ((st full).chip.cstPhys (ac 19 0 65280 3).word) = 0 ∧
    (st full).chip.cstRaw ((st full).chip.cstPhys (ac 19 0 65280 3).word) = false ∧
    (st full).chip.cstRawOn = false ∧
    (st full).chip.cstBus.wait = [] := by decide

def half : Chip := flds full [(R.GLB_PROFILE_EFF, F.GLB_PROFILE_EFF_CST_DEGRADED, 1)]

theorem witness_BeyondTheStore :
    (st half).chip.atWork = true ∧
    (Instr.cstBankAccess ((st half).chip.cstBankOf (ac 19 0 5 255).word) [ac 19 0 5 255]).wf = true ∧
    (st half).chip.cstWords ≤ (ac 19 0 5 255).word ∧
    (st half).chip.cstBus.wait = [] := by decide

theorem witness_BeyondTheStoreb :
    (st half).chip.atWork = true ∧
    (Instr.cstBankAccess ((st half).chip.cstBankOf (ac 0 3 5 255).word) [ac 0 3 5 255]).wf = true ∧
    (st half).chip.cstWords ≤ (ac 0 3 5 255).word ∧
    (st half).chip.cstBus.wait = [] := by decide

def rec1 : Rec := ⟨1, 5, 100, [5, 3, 0, 0, 0, 0, 0, 0], 0⟩

def cScrivenerWrites1 : Chip := { work with scv := { work.scv with queue := [rec1, rec1] } }

theorem witness_ScrivenerWrites_1 :
    (st cScrivenerWrites1).chip.atWork = true ∧
    (st cScrivenerWrites1).chip.scv.queue = [rec1, rec1] ∧
    rec1.typ ≠ 2 ∧
    (st cScrivenerWrites1).chip.scv.lossDue = false ∧
    (∀ (x : HeldRec), (st cScrivenerWrites1).chip.lastRec = some x → foldable (st cScrivenerWrites1).chip.flood x rec1 = false) ∧
    (st cScrivenerWrites1).chip.rn (halfEnd (st cScrivenerWrites1).chip.recHalf) + (16 + rec1.payload.length) ≤ 262144 := ⟨by decide, by decide, by decide, by decide, (by intro t h; cases (show (none : Option HeldRec) = some t from h)), by decide⟩

def hr : HeldRec := ⟨1, 5, 99, [5, 3, 0, 0, 0, 0, 0, 0], 7, 0xfffffe, 98⟩

def folding : Chip := { work with scv := { work.scv with queue := [rec1], halfA := { recs := [hr, hr] } } }

theorem witness_ScrivenerWrites_2 :
    (st folding).chip.atWork = true ∧
    (st folding).chip.scv.queue = [rec1] ∧
    (st folding).chip.scv.lossDue = false ∧
    ((st folding).chip.half (st folding).chip.recHalf).recs = [hr] ++ [hr] ∧
    foldable (st folding).chip.flood hr rec1 = true ∧
    hr.rpt < 16777215 ∧
    (st folding).chip.rn (halfEnd (st folding).chip.recHalf) + 16 ≤ 262144 := by decide

def hr0 : HeldRec := { hr with rpt := 0 }

def cScrivenerWrites2b : Chip := { folding with scv := { folding.scv with halfA := { recs := [hr0] } } }

theorem witness_ScrivenerWrites_2b :
    (st cScrivenerWrites2b).chip.atWork = true ∧
    (st cScrivenerWrites2b).chip.scv.queue = [rec1] ∧
    (st cScrivenerWrites2b).chip.scv.lossDue = false ∧
    ((st cScrivenerWrites2b).chip.half (st cScrivenerWrites2b).chip.recHalf).recs = [] ++ [hr0] ∧
    foldable (st cScrivenerWrites2b).chip.flood hr0 rec1 = true ∧
    hr0.rpt < 16777215 ∧
    (st cScrivenerWrites2b).chip.rn (halfEnd (st cScrivenerWrites2b).chip.recHalf) + 16 ≤ 262144 := by decide

def cScrivenerWrites3 : Chip := flds work [(R.EVT_RAISE, ⟨0, 24⟩, 0x800001)]

theorem witness_ScrivenerWrites_3 :
    (st cScrivenerWrites3).chip.atWork = true ∧
    (st cScrivenerWrites3).chip.rn R.EVT_RAISE ≠ 0 := by decide

theorem witness_ScrivenerCommands_1 :
    (st work).chip.atWork = true ∧
    (st work).chip.flag R.SCV_STAT F.SCV_STAT_EXPORTING = false := by decide

def cScrivenerCommands2 : Chip := { folding with scv := { folding.scv with exportTo := some (3, 4) } }

theorem witness_ScrivenerCommands_2 :
    (st cScrivenerCommands2).chip.atWork = true ∧
    (st cScrivenerCommands2).chip.stw.dead = false ∧
    (st cScrivenerCommands2).chip.scv.exportTo = some (3, 4) ∧
    (st cScrivenerCommands2).chip.scv.thawDue = false := by decide

def cScrivenerCommands3 : Chip := flds folding [(R.SCV_STAT, F.SCV_STAT_FROZEN, 1)]

theorem witness_ScrivenerCommands_3 :
    (st cScrivenerCommands3).chip.atWork = true ∧
    (st cScrivenerCommands3).chip.thawReason = 0 := by decide

theorem witness_ScrivenerCommands_4 :
    (st work).chip.atWork = true ∧
    0 < 64 ∧
    ((((st work).chip.writing.setFlag R.SCV_CMD F.SCV_CMD_ALL true).setFld R.SCV_CMD F.SCV_CMD_LIST 0).loadLists true 0).snd = 0 := ⟨by decide, by decide, by decide +kernel⟩

theorem witness_ScrivenerCommands_4b :
    (st work).chip.atWork = true ∧
    63 < 64 ∧
    ((((st work).chip.writing.setFlag R.SCV_CMD F.SCV_CMD_ALL false).setFld R.SCV_CMD F.SCV_CMD_LIST 63).loadLists false 63).snd = 0 := ⟨by decide, by decide, by decide +kernel⟩

def cScrivenerCommands5 : Chip := flds work [(R.SCV_AON, F.SCV_AON_LW_VALID, 1), (R.SCV_LW_H, ⟨0, 32⟩, 9)]

theorem witness_ScrivenerCommands_5 :
    (st cScrivenerCommands5).chip.atWork = true := by decide

theorem witness_WindowRead_1 :
    (st folding).chip.atWork = true ∧
    Init.host ≠ Init.sched ∧
    ((st folding).chip.half ((st folding).chip.flag R.SCV_WIN_ADDR F.SCV_WIN_ADDR_HALF)).badWords.contains ((st folding).chip.fld R.SCV_WIN_ADDR F.SCV_WIN_ADDR_WORD) = false := by decide

def cWindowRead2 : Chip := { flds folding [(R.SCV_WIN_ADDR, F.SCV_WIN_ADDR_WORD, 32767), (R.SCV_WIN_ADDR, F.SCV_WIN_ADDR_HALF, 1)] with acc := { work.acc with captured := [(latchKey .steward R.SCV_WIN_DATA_H, 8)] } }

theorem witness_WindowRead_2 :
    (st cWindowRead2).chip.atWork = true ∧
    Init.steward ≠ Init.sched ∧
    (∀ (d : Nat → Word), SMap.get d (st cWindowRead2).chip.acc.captured (latchKey Init.steward R.SCV_WIN_DATA_H) = 8) := ⟨by decide, by decide, fun _ => rfl⟩

theorem witness_WindowRead_3 :
    (st folding).chip.atWork = true ∧
    Init.host ≠ Init.sched ∧
    (true = true ∨ ((st folding).chip.half ((st folding).chip.flag R.SCV_WIN_ADDR F.SCV_WIN_ADDR_HALF)).badWords.contains ((st folding).chip.fld R.SCV_WIN_ADDR F.SCV_WIN_ADDR_WORD) = true) := by decide

def cWindowRead3b : Chip := flds folding [(R.SCV_STAT, halfFail true, 1)]

theorem witness_WindowRead_3b :
    (st cWindowRead3b).chip.atWork = true ∧
    Init.host ≠ Init.sched ∧
    (true = true ∨ ((st cWindowRead3b).chip.half ((st cWindowRead3b).chip.flag R.SCV_WIN_ADDR F.SCV_WIN_ADDR_HALF)).badWords.contains ((st cWindowRead3b).chip.fld R.SCV_WIN_ADDR F.SCV_WIN_ADDR_WORD) = true) := by decide

def cWindowRead3c : Chip := { folding with scv := { folding.scv with halfA := { badWords := [0] } } }

theorem witness_WindowRead_3c :
    (st cWindowRead3c).chip.atWork = true ∧
    Init.steward ≠ Init.sched ∧
    (false = true ∨ ((st cWindowRead3c).chip.half ((st cWindowRead3c).chip.flag R.SCV_WIN_ADDR F.SCV_WIN_ADDR_HALF)).badWords.contains ((st cWindowRead3c).chip.fld R.SCV_WIN_ADDR F.SCV_WIN_ADDR_WORD) = true) := by decide

def nvOk : Chip := { flds full [(R.STW_NV_LEN, F.STW_NV_LEN_LEN, 12), (R.STW_NV_SRC, F.STW_NV_SRC_SRC, 4)] with boot := { full.boot with slotA := image, slotB := image } }

theorem witness_FlashCommands_1 :
    (st nvOk).chip.atWork = true ∧
    (st nvOk).chip.nvWriteReason ((st nvOk).chip.rn R.STW_NV_OFS) ((st nvOk).chip.fld R.STW_NV_LEN F.STW_NV_LEN_LEN) (decide ((st nvOk).chip.cstWords < (st nvOk).chip.fld R.STW_NV_SRC F.STW_NV_SRC_SRC + ((st nvOk).chip.fld R.STW_NV_LEN F.STW_NV_LEN_LEN + 7) / 8)) = 0 ∧
    (st nvOk).chip.cstRawOn = false ∧
    (∀ (k : Nat), k < ((st nvOk).chip.fld R.STW_NV_LEN F.STW_NV_LEN_LEN + 7) / 8 → (st nvOk).chip.cstBad ((st nvOk).chip.cstPhys ((st nvOk).chip.fld R.STW_NV_SRC F.STW_NV_SRC_SRC + k)) = 0 ∧ (st nvOk).chip.cstRaw ((st nvOk).chip.cstPhys ((st nvOk).chip.fld R.STW_NV_SRC F.STW_NV_SRC_SRC + k)) = false) := by decide

theorem witness_FlashCommands_2 :
    (st nvOk).chip.atWork = true ∧
    (st nvOk).chip.nvBusy = false := by decide

def cFlashCommands3 : Chip := { nvOk with nv := { nvOk.nv with verifying := true } }

theorem witness_FlashCommands_3 :
    4294967295 < 4294967296 ∧
    (st cFlashCommands3).chip.atWork = true ∧
    (st cFlashCommands3).chip.stw.dead = false ∧
    (st cFlashCommands3).chip.nv.verifying = true ∧
    (st cFlashCommands3).chip.nv.verifyFor = none := by decide

def cFlashCommands4 : Chip := { nvOk with boot := { nvOk.boot with bctl0 := some { flags := 2 } } }

theorem witness_FlashCommands_9 : (0xffffffff < 2 ^ 32 ∧ 1 < 256 ∧ 2 < 256 ∧ 3 < 256 ∧ 0x1f < 256) ∧
    BootCtl.ofBytes (BootCtl.bytes ⟨0xffffffff, 1, 2, 3, 0x1f⟩) = some ⟨0xffffffff, 1, 2, 3, 0x1f⟩ := by decide +kernel

theorem witness_FlashCommands_4 :
    (st cFlashCommands4).chip.atWork = true ∧
    (st cFlashCommands4).chip.bctl.verified (st cFlashCommands4).chip.inactive = true := by decide

def cFlashCommands5 : Chip := { nvOk with boot := { nvOk.boot with bctl0 := some { pending := 1, flags := 17 } } }

theorem witness_FlashCommands_5 :
    (st cFlashCommands5).chip.atWork = true ∧
    (st cFlashCommands5).chip.inTrial = true := by decide

def cFlashCommands6 : Chip := { nvOk with nv := { nvOk.nv with erasing := 1 }, mc := { nvOk.mc with cache := some ⟨[1], []⟩ } }

theorem witness_FlashCommands_6 :
    (st cFlashCommands6).chip.atWork = true ∧
    (st cFlashCommands6).chip.nv.erasing = 1 := by decide

def cFlashCommands7 : Chip := { nvOk with nv := { nvOk.nv with buffer := [(0, [1, 2, 3])] } }

theorem witness_FlashCommands_7 :
    (st cFlashCommands7).chip.atWork = true ∧
    4294967296 ≤ 4294967296 ∧
    (∀ (b : Nat × List Nat), b ∈ (st cFlashCommands7).chip.nv.buffer → b.snd ≠ []) ∧
    (st cFlashCommands7).chip.nvUsed ≤ 4294967296 := by decide

def cFlashCommands7b : Chip := { nvOk with nv := { nvOk.nv with buffer := [(0, [1, 2, 3])] } }

theorem witness_FlashCommands_7b :
    (st cFlashCommands7b).chip.atWork = true ∧
    3 ≤ 4294967296 ∧
    (∀ (b : Nat × List Nat), b ∈ (st cFlashCommands7b).chip.nv.buffer → b.snd ≠ []) ∧
    (st cFlashCommands7b).chip.nvUsed ≤ 3 := by decide

theorem witness_MailboxPath_1 :
    (st work).chip.atWork = true ∧
    Init.host ≠ Init.sched ∧
    bit (BitVec.toNat (1 : Word)) 0 = true ∧
    (st work).chip.flag R.STW_MB_CTRL F.STW_MB_CTRL_GO = false := by decide

def frm : MgmtFrom := ⟨3, [2, 0, 0, 0, 0, 1], 5, 6, 7, 8⟩

def cMailboxPath2 : Chip := { work with stw := { work.stw with ortReq := some (frm, [1, 0, 0, 0]) } }

theorem witness_MailboxPath_2 :
    (st cMailboxPath2).chip.atWork = true ∧
    bytesWf [255] = true ∧
    (st cMailboxPath2).chip.stw.dead = false ∧
    (st cMailboxPath2).chip.stw.ortReq = some (frm, [1, 0, 0, 0]) := by decide

def mb (op : Nat) : Chip := flds work [(R.STW_MB_CTRL, F.STW_MB_CTRL_GO, 1), (R.STW_MB_REQ 0, ⟨0, 32⟩, op)]

theorem witness_MailboxPath_3 :
    (st (mb 1)).chip.atWork = true ∧
    (st (mb 1)).chip.stw.dead = false ∧
    (st (mb 1)).chip.stw.ortReq = none ∧
    (st (mb 1)).chip.flag R.STW_MB_CTRL F.STW_MB_CTRL_GO = true ∧
    ((st (mb 1)).chip.rn (R.STW_MB_REQ 0) = 1 ∨ (st (mb 1)).chip.rn (R.STW_MB_REQ 0) = 2) := by decide

theorem witness_MailboxPath_3b :
    (st (mb 2)).chip.atWork = true ∧
    (st (mb 2)).chip.stw.dead = false ∧
    (st (mb 2)).chip.stw.ortReq = none ∧
    (st (mb 2)).chip.flag R.STW_MB_CTRL F.STW_MB_CTRL_GO = true ∧
    ((st (mb 2)).chip.rn (R.STW_MB_REQ 0) = 1 ∨ (st (mb 2)).chip.rn (R.STW_MB_REQ 0) = 2) := by decide

theorem witness_StewardSram_1 :
    (st work).chip.atWork = true := by decide

theorem witness_StewardSram_2 :
    (st work).chip.atWork = true := by decide

def cSensorsAndRails1 : Chip := flds work [(R.STW_AON, F.STW_AON_WDG, 1)]

theorem witness_SensorsAndRails_1 :
    (st cSensorsAndRails1).chip.atWork = true := by decide

def cold : Chip := flds work ((List.range 16).map (fun n => (R.STW_TEMP n, ⟨0, 32⟩, 0)))

theorem witness_SensorsAndRails_2 :
    (st cold).chip.atWork = true ∧
    (st cold).chip.stw.dead = false ∧
    -32768 ≤ -32768 ∧
    -32768 < (st cold).chip.critAt ∧
    -32768 < (st cold).chip.warnAt ∧
    (∀ (n : Nat), n < 16 → (st cold).chip.dieTemp n < (st cold).chip.warnAt) ∧
    (st cold).chip.stw.warm = false := by decide +kernel

theorem witness_SensorsAndRails_2b :
    (st cold).chip.atWork = true ∧
    (st cold).chip.stw.dead = false ∧
    -32768 ≤ work.warnAt - 1 ∧
    work.warnAt - 1 < (st cold).chip.critAt ∧
    work.warnAt - 1 < (st cold).chip.warnAt ∧
    (∀ (n : Nat), n < 16 → (st cold).chip.dieTemp n < (st cold).chip.warnAt) ∧
    (st cold).chip.stw.warm = false := by decide +kernel

def cSensorsAndRails3 : Chip := { work with stw := { work.stw with critRun := [(0, 1)] } }

theorem witness_SensorsAndRails_3 :
    (st cSensorsAndRails3).chip.atWork = true ∧
    (st cSensorsAndRails3).chip.stw.dead = false ∧
    (st cSensorsAndRails3).chip.critAt ≤ work.critAt ∧
    work.critAt < 32768 ∧
    cnt0 (st cSensorsAndRails3).chip.stw.critRun 0 = 1 := by decide

theorem witness_SensorsAndRails_4 :
    (st work).chip.atWork = true ∧
    15 < 16 ∧
    1000 ≤ 1000 := by decide

theorem witness_SensorsAndRails_5 :
    (st work).chip.atWork = true ∧
    (st work).chip.stw.dead = false ∧
    railNominal 0 < 65536 ∧
    railOutside 0 (railNominal 0) (st work).chip.warnPct = false ∧
    railOutside 0 (railNominal 0) (st work).chip.faultPct = false := by decide

def cSensorsAndRails6 : Chip := { work with stw := { work.stw with railOut := [(0, 2)] } }

theorem witness_SensorsAndRails_6 :
    (st cSensorsAndRails6).chip.atWork = true ∧
    (st cSensorsAndRails6).chip.stw.dead = false ∧
    railOutside 0 0 (st cSensorsAndRails6).chip.faultPct = true ∧
    cnt0 (st cSensorsAndRails6).chip.stw.railOut 0 = 2 := by decide

def pmb : Chip := { work with boot := { work.boot with slotA := { bytes := zeros 48 ++ [0x40, 0x41, 0x42, 0x43, 0x44, 0x45] } } }

theorem witness_SensorsAndRails_7 :
    (st pmb).chip.atWork = true ∧
    (st pmb).chip.stw.dead = false ∧
    5 < 6 ∧
    65535 < 65536 ∧
    (st pmb).chip.pmAddr 5 ≠ 0 ∧
    bit (st pmb).chip.pins.pen 5 = true := by decide

theorem witness_SensorsAndRails_7b :
    (st pmb).chip.atWork = true ∧
    (st pmb).chip.stw.dead = false ∧
    5 < 6 ∧
    0 < 65536 ∧
    (st pmb).chip.pmAddr 5 ≠ 0 ∧
    bit (st pmb).chip.pins.pen 5 = true := by decide

theorem witness_PowerLadder_1 :
    (st (served work)).chip.atWork = true ∧
    4 ≤ 4 ∧
    (st (served work)).chip.pwrReason 4 false = 0 := by decide

theorem witness_PowerLadder_1b :
    (st (served work)).chip.atWork = true ∧
    0 ≤ 4 ∧
    (st (served work)).chip.pwrReason 0 false = 0 := by decide

def pwr1 : PwrReq := ⟨1, 1, 1, 0, 0, 255⟩

def down (c : Chip) : Chip := { served c with pwr := { c.pwr with down := some pwr1 } }

theorem witness_PowerLadder_2 :
    (st (down work)).chip.pins.porn = false ∧
    (st (down work)).chip.fatal = none ∧
    (st (down work)).chip.resetReq = false ∧
    (st (down work)).chip.ladder = 0 ∧
    (st (down work)).chip.pwr.down = some pwr1 ∧
    (st (down work)).chip.pwr.held = none ∧
    pwr1.target = 1 ∧
    (st (down work)).chip.drained = true ∧
    (st (down work)).chip.mcState = 2 := by decide

def cPowerLadder3 : Chip := flds (served work) [(R.PWR_STAT, F.PWR_STAT_STATE, 1), (R.PWR_WAKE_EN, ⟨0, 32⟩, 16), (R.MCX_STAT, F.MCX_STAT_STATE, 3)]

theorem witness_PowerLadder_3 :
    (st cPowerLadder3).chip.pins.porn = false ∧
    (st cPowerLadder3).chip.fatal = none ∧
    (st cPowerLadder3).chip.resetReq = false ∧
    (st cPowerLadder3).chip.ladder = 1 ∧
    (st cPowerLadder3).chip.inSafe = false ∧
    (st cPowerLadder3).chip.pwr.down = none ∧
    (st cPowerLadder3).chip.pwr.up = none ∧
    (4 = 3 ∨ 4 = 4) ∧
    bit ((st cPowerLadder3).chip.rn R.PWR_WAKE_EN) 4 = true := by decide

def pwr4 : PwrReq := ⟨0, 5, 0, 0, 0, 4⟩

def cPowerLadder4 : Chip := { flds (served work) [(R.PWR_STAT, F.PWR_STAT_STATE, 1), (R.MCX_STAT, F.MCX_STAT_STATE, 3)] with pwr := { work.pwr with up := some pwr4 } }

theorem witness_PowerLadder_4 :
    (st cPowerLadder4).chip.pins.porn = false ∧
    (st cPowerLadder4).chip.fatal = none ∧
    (st cPowerLadder4).chip.resetReq = false ∧
    (st cPowerLadder4).chip.ladder = 1 ∧
    (st cPowerLadder4).chip.pwr.up = some pwr4 ∧
    pwr4.target = 0 ∧
    (st cPowerLadder4).chip.mcState = 3 ∧
    (st cPowerLadder4).chip.synState ≠ 1 ∧
    (st cPowerLadder4).chip.schOn = false ∧
    (∀ (p : Nat), p < 16 → (st cPowerLadder4).chip.prtState p ≠ 3) := by decide

theorem witness_UnassignedRange :
    (st work).chip.atWork = true ∧
    Init.host ≠ Init.sched ∧
    8388604 < 8388608 ∧
    8388604 % 4 = 0 ∧
    (8388604 / 65536 = 12 ∨ 8388604 / 65536 = 13 ∨ 8388604 / 65536 = 14 ∨ 8388604 / 65536 = 15 ∨ 33 ≤ 8388604 / 65536 ∧ 8388604 / 65536 ≤ 39 ∨ 49 ≤ 8388604 / 65536 ∧ 8388604 / 65536 ≤ 55 ∨ 57 ≤ 8388604 / 65536 ∧ 8388604 / 65536 ≤ 63 ∨ 73 ≤ 8388604 / 65536 ∧ 8388604 / 65536 ≤ 79 ∨ 81 ≤ 8388604 / 65536 ∧ 8388604 / 65536 ≤ 87 ∨ 89 ≤ 8388604 / 65536 ∧ 8388604 / 65536 ≤ 91 ∨ 93 ≤ 8388604 / 65536 ∧ 8388604 / 65536 ≤ 95 ∨ 97 ≤ 8388604 / 65536 ∧ 8388604 / 65536 ≤ 103 ∨ 108 ≤ 8388604 / 65536 ∧ 8388604 / 65536 ≤ 111 ∨ 113 ≤ 8388604 / 65536 ∧ 8388604 / 65536 ≤ 119 ∨ 121 ≤ 8388604 / 65536 ∧ 8388604 / 65536 ≤ 123 ∨ 125 ≤ 8388604 / 65536 ∧ 8388604 / 65536 ≤ 127) ∧
    (∀ (e : Nat × Word), e ∈ (st work).chip.acc.captured → e.fst ≠ latchKey Init.host 8388604) := by decide

theorem witness_UnassignedRangeb :
    (st work).chip.atWork = true ∧
    Init.steward ≠ Init.sched ∧
    786432 < 8388608 ∧
    786432 % 4 = 0 ∧
    (786432 / 65536 = 12 ∨ 786432 / 65536 = 13 ∨ 786432 / 65536 = 14 ∨ 786432 / 65536 = 15 ∨ 33 ≤ 786432 / 65536 ∧ 786432 / 65536 ≤ 39 ∨ 49 ≤ 786432 / 65536 ∧ 786432 / 65536 ≤ 55 ∨ 57 ≤ 786432 / 65536 ∧ 786432 / 65536 ≤ 63 ∨ 73 ≤ 786432 / 65536 ∧ 786432 / 65536 ≤ 79 ∨ 81 ≤ 786432 / 65536 ∧ 786432 / 65536 ≤ 87 ∨ 89 ≤ 786432 / 65536 ∧ 786432 / 65536 ≤ 91 ∨ 93 ≤ 786432 / 65536 ∧ 786432 / 65536 ≤ 95 ∨ 97 ≤ 786432 / 65536 ∧ 786432 / 65536 ≤ 103 ∨ 108 ≤ 786432 / 65536 ∧ 786432 / 65536 ≤ 111 ∨ 113 ≤ 786432 / 65536 ∧ 786432 / 65536 ≤ 119 ∨ 121 ≤ 786432 / 65536 ∧ 786432 / 65536 ≤ 123 ∨ 125 ≤ 786432 / 65536 ∧ 786432 / 65536 ≤ 127) ∧
    (∀ (e : Nat × Word), e ∈ (st work).chip.acc.captured → e.fst ≠ latchKey Init.steward 786432) := by decide

theorem witness_UnassignedRangec :
    (st work).chip.atWork = true ∧
    Init.host ≠ Init.sched ∧
    7077888 < 8388608 ∧
    7077888 % 4 = 0 ∧
    (7077888 / 65536 = 12 ∨ 7077888 / 65536 = 13 ∨ 7077888 / 65536 = 14 ∨ 7077888 / 65536 = 15 ∨ 33 ≤ 7077888 / 65536 ∧ 7077888 / 65536 ≤ 39 ∨ 49 ≤ 7077888 / 65536 ∧ 7077888 / 65536 ≤ 55 ∨ 57 ≤ 7077888 / 65536 ∧ 7077888 / 65536 ≤ 63 ∨ 73 ≤ 7077888 / 65536 ∧ 7077888 / 65536 ≤ 79 ∨ 81 ≤ 7077888 / 65536 ∧ 7077888 / 65536 ≤ 87 ∨ 89 ≤ 7077888 / 65536 ∧ 7077888 / 65536 ≤ 91 ∨ 93 ≤ 7077888 / 65536 ∧ 7077888 / 65536 ≤ 95 ∨ 97 ≤ 7077888 / 65536 ∧ 7077888 / 65536 ≤ 103 ∨ 108 ≤ 7077888 / 65536 ∧ 7077888 / 65536 ≤ 111 ∨ 113 ≤ 7077888 / 65536 ∧ 7077888 / 65536 ≤ 119 ∨ 121 ≤ 7077888 / 65536 ∧ 7077888 / 65536 ≤ 123 ∨ 125 ≤ 7077888 / 65536 ∧ 7077888 / 65536 ≤ 127) ∧
    (∀ (e : Nat × Word), e ∈ (st work).chip.acc.captured → e.fst ≠ latchKey Init.host 7077888) := by decide

def pend6 : GuardPend := ⟨R.GLB_PROFILE, 1, 0⟩

def pended6 : Chip := { work with acc := { work.acc with guardHost := some pend6 }, cycle := 4096 }

def cProfilePair : Chip := flds pended6 [(R.GLB_PROFILE_EFF, F.GLB_PROFILE_EFF_LATCHED, 1)]

theorem witness_ProfilePair :
    (st cProfilePair).chip.running = true ∧
    (st cProfilePair).chip.stage = 9 ∧
    (st cProfilePair).chip.boot.startFailed = false ∧
    (st cProfilePair).chip.pins.porn = false ∧
    (st cProfilePair).chip.ladder = 0 ∧
    (st cProfilePair).chip.fatal = none ∧
    (st cProfilePair).chip.resetReq = false ∧
    (st cProfilePair).chip.acc.guardStw = none ∧
    (st cProfilePair).chip.pcie.d3hot = false ∧
    (st cProfilePair).chip.acc.guardHost = some pend6 ∧
    pend6.addr = R.GLB_PROFILE ∧
    (st cProfilePair).chip.cycle ≤ pend6.cycle + 4096 ∧
    (st cProfilePair).chip.frozen = false ∧
    (st cProfilePair).chip.scv.queue = [] ∧
    (st cProfilePair).chip.latched = true ∧
    4294967294 = ~~~pend6.val := by decide

theorem witness_ProfilePairb :
    (st pended6).chip.running = true ∧
    (st pended6).chip.stage = 9 ∧
    (st pended6).chip.boot.startFailed = false ∧
    (st pended6).chip.pins.porn = false ∧
    (st pended6).chip.ladder = 0 ∧
    (st pended6).chip.fatal = none ∧
    (st pended6).chip.resetReq = false ∧
    (st pended6).chip.acc.guardStw = none ∧
    (st pended6).chip.pcie.d3hot = false ∧
    (st pended6).chip.acc.guardHost = some pend6 ∧
    pend6.addr = R.GLB_PROFILE ∧
    (st pended6).chip.cycle ≤ pend6.cycle + 4096 ∧
    (st pended6).chip.frozen = false ∧
    (st pended6).chip.scv.queue = [] ∧
    3 ≠ ~~~pend6.val := by decide

theorem witness_ArmNeedsAnEpoch :
    (st armed0).chip.atWork = true ∧
    0 < 16 ∧
    (st armed0).chip.armed 0 = true := by decide

theorem witness_ArmNeedsAnEpochb :
    (st work).chip.atWork = true ∧
    15 < 16 ∧
    (st work).chip.armed 15 = false ∧
    ((st work).chip.epcState = 0 ∨ (st work).chip.epcState = 1) := by decide

def cArmNeedsAnEpochc : Chip := flds work [(R.EPC_STAT, F.EPC_STAT_STATE, 2)]

theorem witness_ArmNeedsAnEpochc :
    (st cArmNeedsAnEpochc).chip.atWork = true ∧
    15 < 16 ∧
    2 ≤ (st cArmNeedsAnEpochc).chip.epcState := by decide

def armable : Chip := served (flds lit [(R.EPC_STAT, F.EPC_STAT_STATE, 2), (R.PRT_CFG 15, F.PRT_CFG_GROUPS, 1), (R.PRT_RING_SIZE 15, ⟨0, 21⟩, 256), (R.PRT_SEG_BASE 15, ⟨0, 21⟩, 256), (R.PRT_SEG_SIZE 15, ⟨0, 21⟩, 25)])

theorem witness_ArmAccepted :
    (st armable).chip.atWork = true ∧
    15 < 16 ∧
    ((st armable).chip.armReason ((st armable).chip.armCopies 15) 15).fst = 0 := by decide +kernel

def armableSq : Chip := flds armable [(R.SQ_CTRL 2, F.SQ_CTRL_EN, 1), (R.SQ_CTRL 2, F.SQ_CTRL_PART, 15), (R.PRT_SEG_SIZE 15, ⟨0, 21⟩, 26), (R.LG_CFG 0, F.LG_CFG_EN, 1)]

theorem witness_ArmAcceptedb :
    (st armableSq).chip.atWork = true ∧
    15 < 16 ∧
    ((st armableSq).chip.armReason ((st armableSq).chip.armCopies 15) 15).fst = 0 := by decide +kernel

theorem witness_PartitionCommands_1 :
    (st armed0).chip.atWork = true ∧
    0 < 16 ∧
    (st armed0).chip.armed 0 = true := by decide

theorem witness_PartitionCommands_2 :
    (st armed0).chip.atWork = true ∧
    0 < 16 ∧
    255 < 256 ∧
    (st armed0).chip.recording 0 = true := by decide

def seg0 : Seg := { segNo := 1, state := 2, kind := 2, source := 0, reqStart := 0, reqEnd := 5, at_ := 0, pages := [[3]] }

def cPartitionCommands3 : Chip := { work with parts := [(15, { segs := [(64, seg0)], pagesUsed := [3, 4] })] }

theorem witness_PartitionCommands_3 :
    (st cPartitionCommands3).chip.atWork = true ∧
    15 < 16 ∧
    64 ≤ 64 ∧
    ((st cPartitionCommands3).chip.part 15).seg 64 = some seg0 ∧
    seg0.state ≠ 1 ∧
    seg0.pushed ≠ 2 := by decide

def cPartitionCommands3b : Chip := { work with parts := [(15, { segs := [(0, seg0)], pagesUsed := [3, 4] })] }

theorem witness_PartitionCommands_3b :
    (st cPartitionCommands3b).chip.atWork = true ∧
    15 < 16 ∧
    0 ≤ 64 ∧
    ((st cPartitionCommands3b).chip.part 15).seg 0 = some seg0 ∧
    seg0.state ≠ 1 ∧
    seg0.pushed ≠ 2 := by decide

def cPartitionCommands4 : Chip := { work with parts := [(15, { segs := [(64, seg0)], autoFree := [64] })] }

theorem witness_PartitionCommands_4 :
    (st cPartitionCommands4).chip.atWork = true ∧
    15 < 16 := by decide

def blk0 : InBlk := { s0 := 5, bytes := List.replicate 16384 0, valid := 4096, pq := 0, tbq := 0, mode := 0, div := 0, runStart := false, part := 0 }

def out0 : OutBlk := { s0 := 5, bytes := [1, 2, 3], valid := 4096, tbq := 0, raw := false, vf := false, part := 0 }

def coding : Chip := { armed0 with lanes := [(0, { staged := [blk0], codec := { busy := [(blk0, 3)], out := [out0] } })] }

theorem witness_BlocksAndSegments_1 :
    (st coding).chip.atWork = true ∧
    0 < 8 ∧
    ((st coding).chip.lane 0).staged = [blk0] ∧
    ((st coding).chip.lane 0).codec.out.length < 2 ∧
    ((st coding).chip.lane 0).pipe = [] := ⟨by decide, by decide, rfl, by decide, by decide⟩

def cBlocksAndSegments2 : Chip := flds armed0 [(R.FUL_STAT 0, F.FUL_STAT_VERIFY, 1)]

theorem witness_BlocksAndSegments_2 :
    (st cBlocksAndSegments2).chip.atWork = true ∧
    0 < 8 ∧
    (st cBlocksAndSegments2).chip.recOwner 0 = some 0 ∧
    ((st cBlocksAndSegments2).chip.lane 0).codec.inject = false ∧
    (st cBlocksAndSegments2).chip.fulVerify 0 = true := by decide

theorem witness_BlocksAndSegments_3 :
    (st coding).chip.atWork = true ∧
    0 < 8 ∧
    ((st coding).chip.lane 0).codec.busy = [(blk0, 3)] ∧
    ((st coding).chip.lane 0).codec.out.length < 2 := ⟨by decide, by decide, rfl, by decide⟩

def full0 : Chip := wset (served coding) [(R.PRT_RING_SIZE 0, ⟨0, 21⟩, 256)]

theorem witness_BlocksAndSegments_4 :
    (st full0).chip.atWork = true ∧
    0 < 8 ∧
    ((st full0).chip.lane 0).codec.out = [out0] ∧
    (st full0).chip.mcState = 2 ∧
    ((st full0).chip.part out0.part).openWins = [] ∧
    (st full0).chip.placeOf out0.part 0 out0 = Place.ring 0 false ∧
    (st full0).chip.writesFit ((st full0).chip.blkRuns out0.part 0 false 0 (blkLen out0)) = true := by decide

def open0 : Seg := { segNo := 1, kind := 2, source := 0, reqStart := 0, reqEnd := 5, at_ := 0, closing := true }

def cBlocksAndSegments5 : Chip := { armed0 with parts := [(0, { segs := [(63, open0)] })] }

theorem witness_BlocksAndSegments_5 :
    (st cBlocksAndSegments5).chip.atWork = true ∧
    0 < 16 ∧
    63 < 256 ∧
    ((st cBlocksAndSegments5).chip.part 0).seg 63 = some open0 ∧
    open0.state = 1 ∧
    open0.closing = true ∧
    open0.stage = 0 ∧
    (st cBlocksAndSegments5).chip.segWritten 0 63 open0 = true := by decide

def open1 : Seg := { open0 with stage := 1 }

def cBlocksAndSegments5b : Chip := { armed0 with parts := [(0, { segs := [(63, open1)] })] }

theorem witness_BlocksAndSegments_5b :
    (st cBlocksAndSegments5b).chip.atWork = true ∧
    0 < 16 ∧
    63 < 256 ∧
    ((st cBlocksAndSegments5b).chip.part 0).seg 63 = some open1 ∧
    open1.state = 1 ∧
    open1.closing = true ∧
    open1.stage = 1 ∧
    (st cBlocksAndSegments5b).chip.pagesPending 0 open1 = false := by decide

def open2 : Seg := { open0 with stage := 2 }

def cBlocksAndSegments5c : Chip := { armed0 with parts := [(0, { segs := [(63, open2)] })] }

theorem witness_BlocksAndSegments_5c :
    (st cBlocksAndSegments5c).chip.atWork = true ∧
    0 < 16 ∧
    63 < 256 ∧
    ((st cBlocksAndSegments5c).chip.part 0).seg 63 = some open2 ∧
    open2.state = 1 ∧
    open2.closing = true ∧
    open2.stage = 2 ∧
    (st cBlocksAndSegments5c).chip.capPending ((st cBlocksAndSegments5c).chip.segBase 0 + 256 * 63) 256 = false := by decide

def trig0 : Seg := { open0 with kind := 1 }

def cBlocksAndSegments5d : Chip := { coding with parts := [(0, { segs := [(64, trig0)] })] }

theorem witness_BlocksAndSegments_5d :
    (st cBlocksAndSegments5d).chip.atWork = true ∧
    0 < 16 ∧
    64 < 256 ∧
    ((st cBlocksAndSegments5d).chip.part 0).seg 64 = some trig0 ∧
    trig0.state = 1 ∧
    trig0.closing = true ∧
    trig0.stage = 0 ∧
    (st cBlocksAndSegments5d).chip.segWritten 0 64 trig0 = false := by decide

def cBlocksAndSegments6 : Chip := { armed0 with parts := [(0, { segs := [(63, seg0)] })] }

theorem witness_BlocksAndSegments_6 :
    (st cBlocksAndSegments6).chip.atWork = true ∧
    0 < 16 := by decide

theorem witness_CarterCommands_1 :
    (st work).chip.atWork = true ∧
    7 < 8 ∧
    (st work).chip.carRoom 7 ≠ 0 := by decide

def noRoom : Chip := wset work [(R.CAR_Q_CFG 7, F.CAR_Q_CFG_LIMIT, 0), (R.CAR_Q_CFG 7, F.CAR_Q_CFG_RESERVE, 0)]

theorem witness_CarterCommands_1b :
    (st noRoom).chip.atWork = true ∧
    7 < 8 ∧
    (st noRoom).chip.carRoom 7 = 0 := by decide

def ent7 : CarEntry := { index := 5, gen := 2, queue := 7, arrival := 3, prio := 1, kind := 2, part := 0, slot := 0, segNo := 0, cycle := 4 }

def carried : Chip := { work with cycle := 10, car := { work.car with entries := [{ ent7 with arrival := 9, index := 6 }, ent7, { ent7 with prio := 7, index := 9 }] } }

theorem witness_CarterCommands_2 :
    (st carried).chip.atWork = true ∧
    7 < 8 ∧
    (st carried).chip.carOwned 7 Init.host = false := by decide

def cCarterCommands3 : Chip := { carried with car := { carried.car with entries := [{ ent7 with everPopped := true }] } }

theorem witness_CarterCommands_3 :
    (st cCarterCommands3).chip.atWork = true ∧
    7 < 8 ∧
    8197 < 65536 ∧
    (st cCarterCommands3).chip.carOwned 7 Init.host = false ∧
    (st cCarterCommands3).chip.carReleaseReason 7 8197 = 0 := by decide

theorem witness_CarterCommands_4 :
    (st work).chip.atWork = true ∧
    (st work).chip.carApplyReason = 0 := by decide

def cCarterCommands5 : Chip := { flds carried [(R.CAR_Q_STALL 7, F.CAR_Q_STALL_TIMEOUT, 3)] with car := { carried.car with stallAt := [(7, 5)] } }

theorem witness_CarterCommands_5 :
    (st cCarterCommands5).chip.atWork = true ∧
    7 < 8 ∧
    List.find? (fun e => decide (e.fst = 7)) (st cCarterCommands5).chip.car.stallAt = some (7, 5) ∧
    (st cCarterCommands5).chip.carTimeout 7 ≠ 0 ∧
    (st cCarterCommands5).chip.flag (R.CAR_Q_STAT 7) F.CAR_Q_STAT_STALLED = false := by decide

theorem witness_CarterPops :
    (st carried).chip.atWork = true ∧
    7 < 8 ∧
    (st carried).chip.carOwned 7 Init.host = false ∧
    (st carried).chip.carHead 7 = some ent7 ∧
    (∀ (k : Nat), k < 4 → (st carried).chip.cstBad ((st carried).chip.cstPhys ((st carried).chip.carWord ent7.index + k)) = 0 ∧ (st carried).chip.cstRaw ((st carried).chip.cstPhys ((st carried).chip.carWord ent7.index + k)) = false ∧ (st carried).chip.carWord ent7.index + k < (st carried).chip.cstWords) := by decide

theorem witness_CarterPopsb :
    (st work).chip.atWork = true ∧
    7 < 8 ∧
    (st work).chip.carOwned 7 Init.host = false ∧
    (st work).chip.carHead 7 = none := by decide

def dmaIdle : Chip := { flds work [(R.HIF_LINK, F.HIF_LINK_UP, 1), (R.HIF_DMA_RING, F.HIF_DMA_RING_BSZ, 4), (R.HIF_DMA_RING, F.HIF_DMA_RING_CSZ, 4)] with pcie := ⟨true, true, false, false⟩ }

theorem witness_DmaEngine_1 :
    (st dmaIdle).chip.atWork = true ∧
    (st dmaIdle).chip.dmaReason = 0 := by decide

theorem witness_DmaEngine_2 :
    (st dmaIdle).chip.atWork = true := by decide

theorem witness_DmaEngine_3 :
    (st dmaIdle).chip.atWork = true ∧
    Init.host ≠ Init.sched ∧
    (st dmaIdle).chip.dma.stream = none := by decide

def strm : DmaStream := { handle := 5, desc := List.replicate 32 1, rest := [1, 2], total := 2, firstBuf := 0, nbuf := 0, status := 0 }

def dmaOn : Chip := { flds dmaIdle [(R.HIF_DMA_STAT, F.HIF_DMA_STAT_RUNNING, 1)] with dma := { work.dma with stream := some strm } }

theorem witness_DmaEngine_3b :
    (st dmaOn).chip.atWork = true ∧
    Init.host ≠ Init.sched ∧
    (st dmaOn).chip.dma.stream = some strm ∧
    ((st dmaOn).chip.writing.setN R.HIF_DMA_BUF_PI (BitVec.toNat (65535 : Word) % 65536)).dmaRuns = true ∧
    strm.rest ≠ [] ∧
    0 < ((st dmaOn).chip.writing.setN R.HIF_DMA_BUF_PI (BitVec.toNat (65535 : Word) % 65536)).dmaPosted := by decide

theorem witness_DmaEngine_4 :
    (st dmaOn).chip.atWork = true ∧
    Init.host ≠ Init.sched := by decide

def dmaPop : Chip := served { flds dmaOn [(R.HIF_DMA_BUF_PI, ⟨0, 16⟩, 3)] with cycle := 10, dma := work.dma, car := { work.car with entries := [{ ent7 with queue := 0 }] } }

def dres := (dmaPop.carPop 0).2.getD (0, [], ent7)

theorem witness_DmaEngine_5 :
    (st dmaPop).chip.atWork = true ∧
    ([(4096, 4096)].all fun b => decide (b.fst < 2 ^ 64) && decide (b.snd < 2 ^ 32)) = true ∧
    (st dmaPop).chip.dmaRuns = true ∧
    (st dmaPop).chip.engineOwns 0 = true ∧
    (st dmaPop).chip.dma.stream = none ∧
    0 < (st dmaPop).chip.dmaPosted ∧
    (st dmaPop).chip.dmaSlot = true ∧
    (st dmaPop).chip.carHead 0 = some dres.snd.snd ∧
    (st dmaPop).chip.mcState = 2 := by decide

def strm0 : DmaStream := { strm with rest := [] }

def cDmaEngine6 : Chip := { dmaOn with dma := { dmaOn.dma with stream := some strm0 } }

theorem witness_DmaEngine_6 :
    (st cDmaEngine6).chip.atWork = true ∧
    (st cDmaEngine6).chip.dmaRuns = true ∧
    (st cDmaEngine6).chip.dma.stream = some strm0 ∧
    strm0.rest = [] := by decide

def arpReq : List Nat := [255,255,255,255,255,255, 2,0,0,0,0,1, 8,6, 0,1,8,0,6,4,0,1, 2,0,0,0,0,1, 10,0,0,1, 0,0,0,0,0,0, 0,0,0,0] ++ List.replicate 22 0

theorem witness_EthernetPorts_1 :
    (st up3).chip.atWork = true ∧
    3 < 4 ∧
    bytesWf arpReq = true ∧
    (st up3).chip.ethUp 3 = true ∧
    (st up3).chip.rxPause 3 arpReq true = false ∧
    (st up3).chip.rxReason 3 arpReq true ≠ 0 := by decide +kernel

theorem witness_EthernetPorts_1b :
    (st up3).chip.atWork = true ∧
    3 < 4 ∧
    bytesWf (arpReq ++ fcs arpReq) = true ∧
    (st up3).chip.ethUp 3 = true ∧
    (st up3).chip.rxPause 3 (arpReq ++ fcs arpReq) true = false ∧
    (st up3).chip.rxReason 3 (arpReq ++ fcs arpReq) true = 0 := by decide +kernel

theorem witness_EthernetPorts_1c :
    (st up3).chip.atWork = true ∧
    3 < 4 ∧
    bytesWf [1] = true ∧
    (st up3).chip.ethUp 3 = true ∧
    (st up3).chip.rxPause 3 [1] true = false ∧
    (st up3).chip.rxReason 3 [1] true ≠ 0 := by decide

def pauseB : List Nat := [1,128,194,0,0,1, 2,0,0,0,0,1, 0x88,8, 0,1, 0,5] ++ List.replicate 42 0

def pauseF : List Nat := pauseB ++ fcs pauseB

theorem witness_EthernetPorts_1d :
    (st up3).chip.atWork = true ∧
    3 < 4 ∧
    bytesWf pauseF = true ∧
    (st up3).chip.ethUp 3 = true ∧
    (st up3).chip.rxPause 3 pauseF true = true := by decide +kernel

theorem witness_EthernetPorts_2 :
    (st up3).chip.atWork = true ∧
    3 < 4 ∧
    bytesWf [1] = true ∧
    (st up3).chip.ethUp 3 = true := by decide

def cEthernetPorts3 : Chip := { up3 with eths := [(3, { arp := [[1, 2], [3]] })] }

theorem witness_EthernetPorts_3 :
    (st cEthernetPorts3).chip.atWork = true ∧
    3 < 4 ∧
    (st cEthernetPorts3).chip.ethUp 3 = true ∧
    ((st cEthernetPorts3).chip.eth 3).arp = [[1, 2], [3]] := by decide

def cEthernetPorts3b : Chip := { up3 with eths := [(3, { notices := [([1, 2], true)] })] }

theorem witness_EthernetPorts_3b :
    (st cEthernetPorts3b).chip.atWork = true ∧
    3 < 4 ∧
    (st cEthernetPorts3b).chip.ethUp 3 = true ∧
    ((st cEthernetPorts3b).chip.eth 3).arp = [] ∧
    ((st cEthernetPorts3b).chip.eth 3).notices = [([1, 2], true)] := by decide

def cEthernetPorts3c : Chip := { up3 with eths := [(3, { mgmt := [([1, 2], true)] })] }

theorem witness_EthernetPorts_3c :
    (st cEthernetPorts3c).chip.atWork = true ∧
    3 < 4 ∧
    (st cEthernetPorts3c).chip.ethUp 3 = true ∧
    ((st cEthernetPorts3c).chip.eth 3).arp = [] ∧
    ((st cEthernetPorts3c).chip.eth 3).notices = [] ∧
    ((st cEthernetPorts3c).chip.eth 3).mgmt = [([1, 2], true)] := by decide

def cEthernetPorts3d : Chip := { up3 with eths := [(3, { mgmt := [([1, 2], false)] })] }

theorem witness_EthernetPorts_3d :
    (st cEthernetPorts3d).chip.atWork = true ∧
    3 < 4 ∧
    (st cEthernetPorts3d).chip.ethUp 3 = true ∧
    ((st cEthernetPorts3d).chip.eth 3).arp = [] ∧
    ((st cEthernetPorts3d).chip.eth 3).notices = [] ∧
    ((st cEthernetPorts3d).chip.eth 3).mgmt = [([1, 2], false)] := by decide

def sst : StrStream := { handle := 5, desc := List.replicate 32 1, bytes := [1, 2, 3], ofs := 0, rdlv := 0, segNo := 1, part := 0, slot := 0, kind := 2 }

def cEthernetPorts3e : Chip := { flds up3 [(R.ETH_STR_STAT 3, F.ETH_STR_STAT_RUNNING, 1)] with eths := [(3, { stream := some sst, outst := [5] })] }

theorem witness_EthernetPorts_3e :
    (st cEthernetPorts3e).chip.atWork = true ∧
    3 < 4 ∧
    (st cEthernetPorts3e).chip.ethUp 3 = true ∧
    ((st cEthernetPorts3e).chip.eth 3).arp = [] ∧
    ((st cEthernetPorts3e).chip.eth 3).notices = [] ∧
    ((st cEthernetPorts3e).chip.eth 3).mgmt = [] ∧
    ((st cEthernetPorts3e).chip.eth 3).stream = some sst ∧
    (st cEthernetPorts3e).chip.strRuns 3 = true := by decide

def cEthernetPorts4 : Chip := { up3 with eths := [(3, { notices := [([1, 2], true), ([1], false)] })] }

theorem witness_EthernetPorts_4 :
    (st cEthernetPorts4).chip.atWork = true ∧
    3 < 4 ∧
    (st cEthernetPorts4).chip.ethUp 3 = true := by decide

def cEthernetPorts4b : Chip := flds work [(R.ETH_CTRL 3, F.ETH_CTRL_EN, 1)]

theorem witness_EthernetPorts_4b :
    (st cEthernetPorts4b).chip.atWork = true ∧
    3 < 4 ∧
    (st cEthernetPorts4b).chip.ethUp 3 = false ∧
    (st cEthernetPorts4b).chip.flag (R.ETH_CTRL 3) F.ETH_CTRL_EN = true ∧
    (st cEthernetPorts4b).chip.strRuns 3 = false := by decide

def cEthernetPorts4c : Chip := flds work [(R.ETH_CTRL 3, F.ETH_CTRL_EN, 1), (R.ETH_STR_STAT 3, F.ETH_STR_STAT_RUNNING, 1)]

theorem witness_EthernetPorts_4c :
    (st cEthernetPorts4c).chip.atWork = true ∧
    3 < 4 ∧
    (st cEthernetPorts4c).chip.ethUp 3 = false ∧
    (st cEthernetPorts4c).chip.flag (R.ETH_CTRL 3) F.ETH_CTRL_EN = true ∧
    (st cEthernetPorts4c).chip.strRuns 3 = true := by decide

/-- A settled engine and its idle step. -/
theorem witness_SettledKept : (st work).chip.Settled ∧ ∃ t, step (st work) = .next t := by
  refine ⟨⟨by decide +kernel, by decide +kernel, by decide +kernel, by decide +kernel, by decide +kernel, by decide +kernel⟩, ?_⟩
  exact ⟨_, next_of_answers (s := st work) (by decide +kernel)⟩

end Sys2Proof.Tests
end

section
/-! BAR0 accesses that are not aligned 32-bit accesses (R9). -/

namespace Sys2Proof.Machine

/-- The command is well-formed for every size and alignment: the initiator reaches registers and the offset lies in BAR0. -/
theorem wf_bar0UnalignedAccess {i : Init} {a : Nat} (hi : i ≠ .sched) (ha : a < 16777216) (write : Bool) (n : Nat) (v : Word) :
    (Instr.bar0UnalignedAccess i write a n v).wf = true := by
  simp [Instr.wf, regInit, addrWf, hi, ha]

theorem doBar0UnalignedAccess_write {a n : Nat} (h : n ≠ 4 ∨ a % 4 ≠ 0) (i : Init) (v : Word) (c : Chip) :
    doBar0UnalignedAccess i true a n v c = c := by
  rw [doBar0UnalignedAccess, if_neg (by omega), if_pos rfl]

theorem doBar0UnalignedAccess_read {a n : Nat} (h : n ≠ 4 ∨ a % 4 ≠ 0) (i : Init) (v : Word) (c : Chip) :
    doBar0UnalignedAccess i false a n v c = { c with rdata := 0 } := by
  rw [doBar0UnalignedAccess, if_neg (by omega), if_neg (by decide)]

/-- At work nothing stands between the access and its effect. -/
theorem exec_bar0UnalignedAccess_of_atWork {s : State} {i : Init} {a : Nat} (hs : s.chip.atWork = true) (hi : i ≠ .sched)
    (ha : a < 16777216) (write : Bool) (n : Nat) (v : Word) :
    exec (.bar0UnalignedAccess i write a n v) s = .next (s.after (doBar0UnalignedAccess i write a n v s.chip)) :=
  State.act_of_atWork hs (wf_bar0UnalignedAccess hi ha write n v) _

/-- Settles O16: at work the command's effect is all that happens, and the effect is R9's for a write and for a read. -/
theorem unalignedAccess : Obligations.UnalignedAccess := by
  intro s i a n v hs hi ha h
  constructor
  · rw [exec_bar0UnalignedAccess_of_atWork hs hi ha, doBar0UnalignedAccess_write h]
  · rw [exec_bar0UnalignedAccess_of_atWork hs hi ha, doBar0UnalignedAccess_read h]

end Sys2Proof.Machine
end

section
/-! What an event and an offence leave behind: the counter one up, the event's status bit, and the record (R347, R354, R357, R380). -/

namespace Sys2Proof.Machine

theorem Chip.reg_addCnt_same (c : Chip) (a k : Nat) : (c.addCnt a k).reg a = c.reg a + BitVec.ofNat 32 k := by
  rw [Chip.addCnt, Chip.setN, Chip.reg_setReg, BitVec.ofNat_add, Chip.rn, BitVec.ofNat_toNat, BitVec.setWidth_eq]

theorem Chip.rn_congr {c d : Chip} {a : Nat} (h : d.reg a = c.reg a) : d.rn a = c.rn a := by rw [Chip.rn, h, Chip.rn]

theorem Chip.frozen_congr {c d : Chip} (h : d.reg R.SCV_STAT = c.reg R.SCV_STAT) : d.frozen = c.frozen := by
  unfold Chip.frozen Chip.flag Chip.fld
  rw [Chip.rn_congr h]

theorem Chip.reg_dropped (c : Chip) (a : Nat) (b : Bool) : Chip.reg { c with dropped := b } a = c.reg a := Chip.reg_congr rfl a

theorem Chip.scv_dropped (c : Chip) (b : Bool) : Chip.scv { c with dropped := b } = c.scv := rfl

theorem Chip.reg_evt (c : Chip) (e : Evt) (a : Nat) : Chip.reg { c with evt := e } a = c.reg a := Chip.reg_congr rfl a

/-- The status register after an event: its bit set, and SEQ (bits [31:24]) put to the count. -/
theorem Chip.rn_setEvent (c : Chip) (n b : Nat) :
    ∃ seq, (c.setEvent n b).rn (R.EVT_STAT n) = putBits (putBits (c.rn (R.EVT_STAT n)) b 1 1) 24 8 seq % 2 ^ 32 := by
  unfold Chip.setEvent
  generalize R.EVT_STAT n = a
  exact ⟨_, (Chip.rn_congr (Chip.reg_evt (c.setN a _) _ a)).trans (c.rn_setN a _)⟩

/-- Raising an event sets its status bit and keeps the others; SEQ lies above them. -/
theorem Chip.bit_rn_setEvent (c : Chip) (n : Nat) {b j : Nat} (hb : b < 24) (hj : j < 24) :
    bit ((c.setEvent n b).rn (R.EVT_STAT n)) j = if j = b then true else bit (c.rn (R.EVT_STAT n)) j := by
  have hset : putBits (c.rn (R.EVT_STAT n)) b 1 1 < 2 ^ 32 := putBits_lt (c.rn_lt _) (by omega)
  obtain ⟨seq, hrn⟩ := c.rn_setEvent n b
  rw [hrn, Nat.mod_eq_of_lt (putBits_lt hset (by omega)), bit_eq_bits, bits_putBits_below _ _ _ _ _ _ (by omega), ← bit_eq_bits,
    bit_putBits]
  rfl

/-- Producing a record clears no status bit: where the queue is full it sets one more, SCV_LOSS. -/
theorem Chip.bit_rn_record (c : Chip) (t k m : Nat) (l : List Nat) {j : Nat} (hj : j < 24) (h : bit (c.rn (R.EVT_STAT 0)) j = true) :
    bit ((c.record t k m l).rn (R.EVT_STAT 0)) j = true := by
  unfold Chip.record
  split
  · rw [Chip.rn_congr (Chip.reg_addCnt_ne c 1 (by decide))]; exact h
  · split
    · rw [Chip.rn_congr (Chip.reg_scv _ _ _), Chip.bit_rn_setEvent _ 0 (by decide) hj,
        Chip.rn_congr (Chip.reg_addCnt_ne c 1 (by decide)), h, ite_self]
    · rw [Chip.rn_congr (Chip.reg_scv c _ _)]; exact h

/-- A record produced while the Scrivener records and its queue is empty. -/
theorem Chip.record_queue_of_nil {c : Chip} (hf : c.frozen = false) (hq : c.scv.queue = []) (t k m : Nat) (l : List Nat) :
    (c.record t k m l).scv.queue = [⟨t, k, m, l, c.cycle⟩] := by
  simp [Chip.record, hf, hq, insertRec]

/-! ### Offences (R357) -/

/-- Every offence raises an event of `EVT_STAT0`. -/
theorem offenceEvent_eq (k : Nat) : ∃ b, b < 24 ∧ offenceEvent k = (0, b) := by
  unfold offenceEvent
  split
  · exact ⟨0, by decide, rfl⟩
  · split
    · exact ⟨1, by decide, rfl⟩
    · split
      · exact ⟨3, by decide, rfl⟩
      · exact ⟨2, by decide, rfl⟩

theorem eventRegs_offence (k : Nat) : eventRegs (offenceEvent k) = eventRegs (0, 0) := by
  obtain ⟨b, -, h⟩ := offenceEvent_eq k
  rw [h]; rfl

theorem Chip.EventsOnly.offence (c : Chip) (a v : Nat) (i : Init) (k o : Nat) : c.EventsOnly (c.offence a v i k o) :=
  (Chip.EventsOnly.raiseTyped c _).trans (.record _ _ _ _ _)

theorem Chip.reg_offence_ne (c : Chip) (a v : Nat) (i : Init) (k o : Nat) {b : Nat} (h : b ∉ eventRegs (offenceEvent k)) :
    (c.offence a v i k o).reg b = c.reg b := by
  simp only [eventRegs, List.mem_cons, List.not_mem_nil, not_or] at h
  obtain ⟨hev, h0, href, hlost, -⟩ := h
  rw [Chip.offence, Chip.reg_record_ne _ _ _ _ _ h0 href hlost, Chip.raiseTyped, Chip.reg_setEvent_ne _ _ _ hev]

theorem Chip.bit_rn_offence (c : Chip) (a v : Nat) (i : Init) (k o : Nat) :
    bit ((c.offence a v i k o).rn (R.EVT_STAT 0)) (offenceEvent k).2 = true := by
  obtain ⟨b, hb, hev⟩ := offenceEvent_eq k
  rw [Chip.offence, hev]
  refine Chip.bit_rn_record _ _ _ _ _ hb ?_
  rw [Chip.raiseTyped, Chip.bit_rn_setEvent c 0 hb hb, if_pos rfl]

theorem Chip.offence_queue_of_nil {c : Chip} (hf : c.frozen = false) (hq : c.scv.queue = []) (a v : Nat) (i : Init) (k o : Nat) :
    (c.offence a v i k o).scv.queue =
      [⟨8, 0, c.now, leBytes 4 a ++ leBytes 4 v ++ [initCode i, k, 0, 0] ++ leBytes 4 o, c.cycle⟩] := by
  obtain ⟨b, -, hev⟩ := offenceEvent_eq k
  have hfz : (c.raiseTyped (offenceEvent k)).frozen = false := by
    rw [hev, Chip.raiseTyped, Chip.frozen_congr (Chip.reg_setEvent_ne c 0 b (by decide))]; exact hf
  rw [Chip.offence, Chip.record_queue_of_nil hfz ((congrArg Scv.queue (c.raiseTyped_scv _)).trans hq), Chip.raiseTyped_cycle]

/-! ### Dropped writes (R354, R355) -/

theorem Chip.dropWrite_eq (c : Chip) (a v : Nat) (i : Init) (k : Nat) :
    ∃ d, c.EventsOnly d ∧ c.dropWrite a v i k = { d with dropped := true } :=
  ⟨_, (Chip.EventsOnly.addCnt c _ _).trans (.offence _ _ _ _ _ _), rfl⟩

@[simp] theorem Chip.dropWrite_acc (c : Chip) (a v : Nat) (i : Init) (k : Nat) : (c.dropWrite a v i k).acc = c.acc := by
  obtain ⟨d, hd, h⟩ := c.dropWrite_eq a v i k; rw [h]; exact hd.acc
@[simp] theorem Chip.dropWrite_fatal (c : Chip) (a v : Nat) (i : Init) (k : Nat) : (c.dropWrite a v i k).fatal = c.fatal := by
  obtain ⟨d, hd, h⟩ := c.dropWrite_eq a v i k; rw [h]; exact hd.fatal
@[simp] theorem Chip.dropWrite_resetReq (c : Chip) (a v : Nat) (i : Init) (k : Nat) : (c.dropWrite a v i k).resetReq = c.resetReq := by
  obtain ⟨d, hd, h⟩ := c.dropWrite_eq a v i k; rw [h]; exact hd.resetReq

theorem Chip.reg_dropWrite_ne (c : Chip) (a v : Nat) (i : Init) (k : Nat) {b : Nat} (h : b ∉ eventRegs (offenceEvent k))
    (hd : b ≠ R.GLB_DROP_CNT) : (c.dropWrite a v i k).reg b = c.reg b := by
  rw [Chip.dropWrite, Chip.reg_dropped, Chip.reg_offence_ne _ _ _ _ _ _ h, Chip.reg_addCnt_ne _ _ hd]

theorem Chip.dropWrite_dropCnt (c : Chip) (a v : Nat) (i : Init) (k : Nat) :
    (c.dropWrite a v i k).reg R.GLB_DROP_CNT = c.reg R.GLB_DROP_CNT + 1 := by
  have hne : R.GLB_DROP_CNT ∉ eventRegs (offenceEvent k) := by rw [eventRegs_offence]; decide
  rw [Chip.dropWrite, Chip.reg_dropped, Chip.reg_offence_ne _ _ _ _ _ _ hne, Chip.reg_addCnt_same]
  rfl

theorem Chip.bit_rn_dropWrite (c : Chip) (a v : Nat) (i : Init) (k : Nat) :
    bit ((c.dropWrite a v i k).rn (R.EVT_STAT 0)) (offenceEvent k).2 = true := by
  rw [Chip.dropWrite, Chip.rn_congr (Chip.reg_dropped _ _ _)]
  exact Chip.bit_rn_offence _ _ _ _ _ _

theorem Chip.dropWrite_queue_of_nil {c : Chip} (hf : c.frozen = false) (hq : c.scv.queue = []) (a v : Nat) (i : Init) (k : Nat) :
    (c.dropWrite a v i k).scv.queue =
      [⟨8, 0, c.now, leBytes 4 a ++ leBytes 4 v ++ [initCode i, k, 0, 0, 0, 0, 0, 0], c.cycle⟩] := by
  have hfz : (c.addCnt R.GLB_DROP_CNT 1).frozen = false := (Chip.frozen_congr (c.reg_addCnt_ne 1 (by decide))).trans hf
  rw [Chip.dropWrite, Chip.scv_dropped, Chip.offence_queue_of_nil hfz hq, Chip.addCnt_cycle, Chip.now, Chip.addCnt_epc, ← Chip.now,
    List.append_assoc]
  rfl

end Sys2Proof.Machine
end

section
/-! Guarded pairs on the bus (R350 to R353). -/

namespace Sys2Proof.Machine

/-! ### A failed pair (R352) -/

@[simp] theorem Chip.setGuard_fatal (c : Chip) (i : Init) (p : Option GuardPend) : (c.setGuard i p).fatal = c.fatal := by
  cases i <;> rfl
@[simp] theorem Chip.setGuard_resetReq (c : Chip) (i : Init) (p : Option GuardPend) : (c.setGuard i p).resetReq = c.resetReq := by
  cases i <;> rfl
@[simp] theorem Chip.setGuard_regs (c : Chip) (i : Init) (p : Option GuardPend) : (c.setGuard i p).regs = c.regs := by
  cases i <;> rfl

theorem Chip.guardFail_eq (c : Chip) (i : Init) (a v k o : Nat) :
    ∃ d, (c.setGuard i none).EventsOnly d ∧ c.guardFail i a v k o = { d with dropped := true } :=
  ⟨_, (((Chip.EventsOnly.addCnt (c.setGuard i none) _ _).trans (.setFld _ _ _ _)).trans (.setFld _ _ _ _)).trans
    (.offence _ _ _ _ _ _), rfl⟩

theorem Chip.guardFail_acc (c : Chip) (i : Init) (a v k o : Nat) : (c.guardFail i a v k o).acc = (c.setGuard i none).acc := by
  obtain ⟨d, hd, h⟩ := c.guardFail_eq i a v k o; rw [h]; exact hd.acc
@[simp] theorem Chip.guardFail_fatal (c : Chip) (i : Init) (a v k o : Nat) : (c.guardFail i a v k o).fatal = c.fatal := by
  obtain ⟨d, hd, h⟩ := c.guardFail_eq i a v k o; rw [h]; exact hd.fatal.trans (c.setGuard_fatal i none)
@[simp] theorem Chip.guardFail_resetReq (c : Chip) (i : Init) (a v k o : Nat) : (c.guardFail i a v k o).resetReq = c.resetReq := by
  obtain ⟨d, hd, h⟩ := c.guardFail_eq i a v k o; rw [h]; exact hd.resetReq.trans (c.setGuard_resetReq i none)

/-- Of the registers, a failed pair reaches the event's and those of `GLB_GUARD_CNT` and `GLB_GUARD_STAT`. -/
theorem Chip.reg_guardFail (c : Chip) (i : Init) (a v k o : Nat) {b : Nat} (h : b ∉ eventRegs (offenceEvent k))
    (hs : b ≠ R.GLB_GUARD_STAT) : (c.guardFail i a v k o).reg b = ((c.setGuard i none).addCnt R.GLB_GUARD_CNT 1).reg b := by
  rw [Chip.guardFail, Chip.reg_dropped, Chip.reg_offence_ne _ _ _ _ _ _ h, Chip.reg_setFld_ne _ _ _ hs, Chip.reg_setFld_ne _ _ _ hs]

theorem Chip.reg_guardFail_ne (c : Chip) (i : Init) (a v k o : Nat) {b : Nat} (h : b ∉ eventRegs (offenceEvent k))
    (hs : b ≠ R.GLB_GUARD_STAT) (hc : b ≠ R.GLB_GUARD_CNT) : (c.guardFail i a v k o).reg b = c.reg b := by
  rw [c.reg_guardFail i a v k o h hs, Chip.reg_addCnt_ne _ _ hc, Chip.reg_congr (c.setGuard_regs i none)]

theorem Chip.guardFail_guardCnt (c : Chip) (i : Init) (a v k o : Nat) :
    (c.guardFail i a v k o).reg R.GLB_GUARD_CNT = c.reg R.GLB_GUARD_CNT + 1 := by
  have hne : R.GLB_GUARD_CNT ∉ eventRegs (offenceEvent k) := by rw [eventRegs_offence]; decide
  rw [c.reg_guardFail i a v k o hne (by decide), Chip.reg_addCnt_same, Chip.reg_congr (c.setGuard_regs i none)]
  rfl

theorem Chip.bit_rn_guardFail (c : Chip) (i : Init) (a v k o : Nat) :
    bit ((c.guardFail i a v k o).rn (R.EVT_STAT 0)) (offenceEvent k).2 = true := by
  rw [Chip.guardFail, Chip.rn_congr (Chip.reg_dropped _ _ _)]
  exact Chip.bit_rn_offence _ _ _ _ _ _

/-! ### The mirror write (R350) -/

theorem Chip.mirrorWrite_complement {c : Chip} {i : Init} {p : GuardPend} (hg : c.guardOf i = some p) :
    c.mirrorWrite i (p.addr + 0x800000) (~~~p.val) = (c.setGuard i none).pairDone i p.addr p.val.toNat false := by
  simp only [Chip.mirrorWrite, hg, if_true]

theorem Chip.mirrorWrite_other {c : Chip} {i : Init} {p : GuardPend} {v : Word} (hg : c.guardOf i = some p) (hv : v ≠ ~~~p.val) :
    c.mirrorWrite i (p.addr + 0x800000) v = c.guardFail i (p.addr + 0x800000) v.toNat 4 p.val.toNat := by
  simp only [Chip.mirrorWrite, hg, if_true, if_neg hv]

/-- From the latch on a completed pair to `GLB_PROFILE` is dropped as a second write to a WO field is (R20). -/
theorem Chip.mirrorWrite_profile_of_latched {c : Chip} {i : Init} {p : GuardPend} (hg : c.guardOf i = some p)
    (ha : p.addr = R.GLB_PROFILE) (hl : c.latched = true) :
    c.mirrorWrite i (R.GLB_PROFILE + 0x800000) (~~~p.val) = (c.setGuard i none).dropWrite R.GLB_PROFILE p.val.toNat i 1 := by
  have hlatched : (c.setGuard i none).latched = true := by cases i <;> exact hl
  rw [← ha, Chip.mirrorWrite_complement hg, ha, Chip.pairDone, if_pos rfl, if_pos hlatched]

theorem Chip.busWrite_mirror {c : Chip} {i : Init} {a : Nat} (h : 0x800000 ≤ a) (hm : c.mayWrite i a = true) (v : Word) :
    c.busWrite i a v = c.writing.mirrorWrite i a v := by
  rw [Chip.busWrite, if_pos h]; exact if_pos hm

theorem Chip.mayWrite_of_stage {c : Chip} (hs : c.stage = 9) (hf : c.boot.startFailed = false) (i : Init) (a : Nat) :
    c.mayWrite i a = true := by simp [Chip.mayWrite, Chip.hostShut, hs, hf]

/-! ### A pair that pends while the command is made -/

theorem Chip.guardExpire_of_none {c : Chip} {i : Init} (h : c.guardOf i = none) : c.guardExpire i = c := by
  rw [Chip.guardExpire, h]

/-- A pending write has 4,096 fabric cycles (R352). -/
theorem Chip.guardExpire_of_le {c : Chip} {i : Init} {p : GuardPend} (h : c.guardOf i = some p) (hc : c.cycle ≤ p.cycle + 4096) :
    c.guardExpire i = c := by
  simp only [Chip.guardExpire, h, if_neg (Nat.not_lt.2 hc)]

/-- In Gale and in D0 a command on the control fabric acts, once expired pairs have failed. -/
theorem Chip.perform_fabric_of_gale {c : Chip} {i : Instr} (hn : needOf i = .fabric) (hp : c.pins.porn = false) (hl : c.ladder = 0)
    (hd : c.pcie.d3hot = false) (f : Chip → Chip) : c.perform i f = f ((c.guardExpire .host).guardExpire .steward) := by
  have hw : c.hostWake i = c := by simp [Chip.hostWake, hl]
  have ha : c.admits .fabric = true := by simp [Chip.admits, hp, hl]
  have hk : c.linkLost i = false := by simp [Chip.linkLost, hl, hd]
  simp [Chip.perform, hw, hn, ha, hk]

/-- The mirror write of the host's pending pair, in RUN and in Gale: it reaches the pair, and nothing else happens before it. -/
theorem exec_guardMirrorWrite_host {s : State} {p : GuardPend} (hp : s.chip.pins.porn = false) (hl : s.chip.ladder = 0)
    (hd : s.chip.pcie.d3hot = false) (hs : s.chip.stage = 9) (hf : s.chip.boot.startFailed = false)
    (hstw : s.chip.acc.guardStw = none) (hg : s.chip.acc.guardHost = some p) (hc : s.chip.cycle ≤ p.cycle + 4096) {a : Nat}
    (ha : 0x800000 ≤ a) (hw : regWf a = true) (v : Word) :
    exec (.guardMirrorWrite .host a v) s = .next (s.after (s.chip.writing.mirrorWrite .host a v)) := by
  have he : (s.chip.guardExpire .host).guardExpire .steward = s.chip := by
    rw [Chip.guardExpire_of_le (i := .host) hg hc, Chip.guardExpire_of_none (i := .steward) hstw]
  change s.act (.guardMirrorWrite .host a v) (fun c => c.busWrite .host a v) = _
  have hwf : (Instr.guardMirrorWrite .host a v).wf = true := hw
  rw [State.act, if_pos hwf, Chip.perform_fabric_of_gale rfl hp hl hd, he, Chip.busWrite_mirror ha (Chip.mayWrite_of_stage hs hf _ _)]

/-- Settles O59: the mirror write reaches the pending pair; one that completes it is a dropped write from the latch on, and one of another
value fails it, latched or not (R20, R352). -/
theorem profilePair : Obligations.ProfilePair := by
  intro s p v _ hs hf hp hl hfatal hreset hstw hd hg haddr hc hfrozen hqueue
  have hexec := exec_guardMirrorWrite_host hp hl hd hs hf hstw hg hc (a := R.GLB_PROFILE + 0x800000) (by decide) (by decide) v
  have hpend : s.chip.writing.guardOf .host = some p := hg
  constructor
  · rintro hlatched rfl
    rw [Chip.mirrorWrite_profile_of_latched hpend haddr hlatched] at hexec
    exact ⟨_, hexec, (Chip.dropWrite_fatal _ _ _ _ _).trans hfatal, (Chip.dropWrite_resetReq _ _ _ _ _).trans hreset,
      Chip.reg_dropWrite_ne _ _ _ _ _ (by decide) (by decide), Chip.dropWrite_dropCnt _ _ _ _ _, Chip.bit_rn_dropWrite _ _ _ _ 1,
      congrArg Acc.guardHost (Chip.dropWrite_acc _ _ _ _ _),
      Chip.dropWrite_queue_of_nil (c := s.chip.writing.setGuard .host none) hfrozen hqueue _ _ _ _⟩
  · intro hv
    have hfail := Chip.mirrorWrite_other hpend hv
    rw [haddr] at hfail
    rw [hfail] at hexec
    exact ⟨_, hexec, (Chip.guardFail_fatal _ _ _ _ _ _).trans hfatal, (Chip.guardFail_resetReq _ _ _ _ _ _).trans hreset,
      Chip.reg_guardFail_ne _ _ _ _ _ _ (by decide) (by decide) (by decide), Chip.bit_rn_guardFail _ _ _ _ 4 _,
      Chip.guardFail_guardCnt _ _ _ _ _ _, congrArg Acc.guardHost (Chip.guardFail_acc _ _ _ _ _ _)⟩

end Sys2Proof.Machine
end

section
/-! ARM and the epoch (R49, R167): why an ARM is rejected, and what a rejected command leaves as it was. -/

namespace Sys2Proof.Machine

/-! ### A rejected command (R358) -/

theorem Chip.reg_lastReason (c : Chip) (k a : Nat) : Chip.reg { c with lastReason := k } a = c.reg a := Chip.reg_congr rfl a

/-- Of the registers, a rejection reaches the one that holds REASON and the event's. -/
theorem Chip.reg_reject (c : Chip) (p : CmdPort) (i : Init) (e : Option Nat) (k : Nat) {a : Nat} (h : a ∉ eventRegs p.ev) :
    (c.reject p i e k).reg a = (c.setFld p.stat reasonFld k).reg a := by
  simp only [eventRegs, List.mem_cons, List.not_mem_nil, not_or] at h
  obtain ⟨hev, h0, href, hlost, -⟩ := h
  rw [Chip.reject, Chip.reg_lastReason, Chip.reg_record_ne _ _ _ _ _ h0 href hlost, Chip.raiseTyped, Chip.reg_setEvent_ne _ _ _ hev]

/-- REASON reads the reason of the rejection. -/
theorem Chip.fld_reject_reason (c : Chip) {p : CmdPort} (i : Init) (e : Option Nat) (k : Nat) (h : p.stat ∉ eventRegs p.ev) :
    (c.reject p i e k).fld p.stat reasonFld = k % 256 := by
  rw [Chip.fld, Chip.rn_congr (c.reg_reject p i e k h), ← Chip.fld, Chip.fld_setFld _ _ _ _ (by decide)]
  rfl

/-- The registers of an event lie from `EVT_STAT0` on. -/
theorem not_mem_eventRegs_of_lt {a : Nat} (h : a < 0x580000) (e : Nat × Nat) : a ∉ eventRegs e := by
  simp only [eventRegs, R.EVT_STAT, R.SCV_REFUSED, R.SCV_LOST, List.mem_cons, List.not_mem_nil, or_false]
  omega

theorem Chip.fld_reject_prtPort (c : Chip) {p : Nat} (hp : p < 16) (i : Init) (e : Option Nat) (k : Nat) :
    (c.reject (prtPort p) i e k).fld (R.PRT_CMDSTAT p) reasonFld = k % 256 :=
  c.fld_reject_reason (p := prtPort p) i e k (not_mem_eventRegs_of_lt (by simp only [prtPort, R.PRT_CMDSTAT]; omega) _)

/-- A rejected command of a partition neither arms nor disarms it. -/
theorem Chip.armed_reject_prtPort (c : Chip) {p : Nat} (hp : p < 16) (i : Init) (e : Option Nat) (k : Nat) :
    (c.reject (prtPort p) i e k).armed p = c.armed p := by
  have hev : R.PRT_STAT p ∉ eventRegs (prtPort p).ev := not_mem_eventRegs_of_lt (by simp only [R.PRT_STAT]; omega) _
  have hne : R.PRT_STAT p ≠ (prtPort p).stat := by simp only [prtPort, R.PRT_STAT, R.PRT_CMDSTAT]; omega
  have hreg := (c.reg_reject (prtPort p) i e k hev).trans (c.reg_setFld_ne reasonFld k hne)
  rw [Chip.armed, Chip.prtState, Chip.fld, Chip.rn_congr hreg]
  rfl

theorem Chip.keepsMem_of_eq {c d : Chip} (hcst : d.cst = c.cst) (hmc : d.mc = c.mc) : c.keepsMem d := by
  simp only [Chip.keepsMem, Chip.cstCell, Chip.cstBad, Chip.cstRaw, hcst, hmc, implies_true, and_self]

/-! ### The reason of an ARM (Tables 7-4 and 5-3) -/

/-- A reason given is that of a condition that holds. -/
theorem firstReason_mem : ∀ {l : List (Bool × Nat)}, firstReason l ≠ 0 → (true, firstReason l) ∈ l
  | [], h => absurd rfl h
  | (true, _) :: _, _ => List.mem_cons_self
  | (false, _) :: _, h => List.mem_cons_of_mem _ (firstReason_mem h)

/-- ALREADY_ARMED stands first in Table 7-4. -/
theorem Chip.armTableReason_of_armed {c : Chip} {p : Nat} (h : c.armed p = true) (w : Chip) : c.armTableReason w p = 0x10 := by
  simp only [Chip.armTableReason, firstReason, h, if_true]

/-- EPOCH_INVALID stands second. -/
theorem Chip.armTableReason_of_noEpoch {c : Chip} {p : Nat} (ha : c.armed p = false) (he : c.noEpoch = true) (w : Chip) :
    c.armTableReason w p = 0x11 := by
  simp only [Chip.armTableReason, firstReason, ha, he, if_true, Bool.false_eq_true, if_false]

/-- No other row of Table 7-4 gives EPOCH_INVALID. -/
theorem Chip.armTableReason_ne_epochInvalid {c : Chip} (he : c.noEpoch = false) (w : Chip) (p : Nat) :
    c.armTableReason w p ≠ 0x11 := by
  intro h
  have hmem : (true, c.armTableReason w p) ∈ _ := firstReason_mem (show c.armTableReason w p ≠ 0 by omega)
  rw [h] at hmem
  simp [he] at hmem

/-- Every reason that a program is at fault for stands in Table 5-3 from SQ_DOMAIN on. -/
theorem Chip.programFault_reason {c : Chip} {n : Nat} {r : Nat × SqFault} (h : c.programFault n = some r) : 0x22 ≤ r.1 := by
  unfold Chip.programFault at h
  split at h
  case h_1 => cases h; exact Nat.le_add_right 0x22 0
  split at h
  case h_1 => cases h; exact Nat.le_add_right 0x22 1
  split at h
  case h_1 => cases h; exact Nat.le_add_right 0x22 2
  split at h
  · cases h; exact Nat.le_add_right 0x22 3
  · obtain ⟨f, -, rfl⟩ := Option.map_eq_some_iff.1 h
    exact Nat.le_add_right 0x22 4

/-- A row of Table 7-4 that applies comes before Table 5-3. -/
theorem Chip.armReason_of_table {c w : Chip} {p : Nat} (h : c.armTableReason w p ≠ 0) :
    c.armReason w p = (c.armTableReason w p, ⟨0, 0, 0, false⟩) := by
  simp only [Chip.armReason, if_pos h]

/-- Where no row of Table 7-4 applies, the ARM is accepted or rejected for a row of Table 5-3. -/
theorem Chip.armReason_of_table_zero {c w : Chip} {p : Nat} (h : c.armTableReason w p = 0) :
    (c.armReason w p).1 = 0 ∨ 0x20 ≤ (c.armReason w p).1 := by
  unfold Chip.armReason
  rw [if_neg (not_not.2 h)]
  split_ifs
  · exact .inr (by decide)
  · exact .inr (by decide)
  · split
    · next n _ =>
      cases hf : w.programFault n with
      | none => exact .inl rfl
      | some r => exact .inr ((by decide : 0x20 ≤ 0x22).trans (Chip.programFault_reason hf))
    · exact .inl rfl

/-- With an epoch no ARM is rejected with EPOCH_INVALID. -/
theorem Chip.armReason_ne_epochInvalid {c : Chip} (he : c.noEpoch = false) (w : Chip) (p : Nat) : (c.armReason w p).1 ≠ 0x11 := by
  by_cases h : c.armTableReason w p = 0
  · have := Chip.armReason_of_table_zero h; omega
  · rw [Chip.armReason_of_table h]; exact Chip.armTableReason_ne_epochInvalid he w p

/-! ### A rejected ARM (R167) -/

/-- Only a refused lane group and a sequencer's fault have a report beside REASON (R71, R133). -/
theorem Chip.armReport_of_lt {r : Nat × SqFault} (h : r.1 < 0x1a) (c : Chip) (p : Nat) : c.armReport p r = c := by
  rw [Chip.armReport, if_neg (by omega), if_neg (by omega)]

/-- Outside Safe an ARM that a row of Table 7-4 other than the groups' rejects is rejected for it, and nothing else happens. -/
theorem Chip.armCmd_of_table {c : Chip} {p r : Nat} (hs : c.inSafe = false) (ht : c.armTableReason (c.armCopies p) p = r) (h0 : r ≠ 0)
    (hr : r < 0x1a) (i : Init) (e : Option Nat) : c.armCmd i p e = c.reject (prtPort p) i e r := by
  have harm : c.armReason (c.armCopies p) p = (r, ⟨0, 0, 0, false⟩) := by rw [Chip.armReason_of_table (by omega), ht]
  rw [Chip.armCmd, hs, if_neg Bool.false_ne_true, harm]
  dsimp only
  rw [Chip.armReport_of_lt hr, Chip.command_reject _ _ _ _ _ hs h0]

theorem exec_arm_of_atWork {s : State} (hs : s.chip.atWork = true) {p : Nat} (hp : p < 16) (i : Init) :
    exec (.arm i p) s = .next (s.after (s.chip.writing.armCmd i p none)) := by
  change s.act (.arm i p) (fun c => c.asWrite i (R.PRT_CMD p) (doArm i p)) = _
  rw [State.act_of_atWork hs (by simp [Instr.wf, hp]), Chip.asWrite_of_atWork hs, doArm]

/-- At work an ARM that a row of Table 7-4 other than the groups' rejects changes nothing but what a rejection does. -/
theorem exec_arm_of_table {s : State} (hs : s.chip.atWork = true) {p r : Nat} (hp : p < 16)
    (ht : s.chip.writing.armTableReason (s.chip.writing.armCopies p) p = r) (h0 : r ≠ 0) (hr : r < 0x1a) (i : Init) :
    exec (.arm i p) s = .next (s.after (s.chip.writing.reject (prtPort p) i none r)) := by
  rw [exec_arm_of_atWork hs hp, Chip.armCmd_of_table (Chip.inSafe_of_atWork (Chip.atWork_writing hs)) ht h0 hr]

/-- Settles O60: ALREADY_ARMED and EPOCH_INVALID are the first rows of Table 7-4, so each decides the ARM it applies to, and no other row of
Table 7-4 or 5-3 gives EPOCH_INVALID. -/
theorem armNeedsAnEpoch : Obligations.ArmNeedsAnEpoch := by
  intro s i p hs hp
  obtain ⟨-, hfatal, hreset, -⟩ := (Chip.quiet_iff _).1 (Chip.quiet_of_atWork hs)
  refine ⟨fun harmed => ?_, fun hidle hep => ?_, fun hep => ?_⟩
  · exact exec_arm_of_table hs hp (Chip.armTableReason_of_armed harmed _) (by decide) (by decide) i
  · have hno : s.chip.writing.noEpoch = true := decide_eq_true (show s.chip.epcState < 2 by omega)
    refine ⟨_, exec_arm_of_table hs hp (Chip.armTableReason_of_noEpoch hidle hno _) (by decide) (by decide) i, ?_⟩
    exact ⟨(Chip.reject_fatal _ _ _ _ _).trans hfatal, (Chip.reject_resetReq _ _ _ _ _).trans hreset,
      Chip.fld_reject_prtPort _ hp _ _ _, Chip.reject_parts _ _ _ _ _, Chip.reject_lanes _ _ _ _ _,
      (Chip.armed_reject_prtPort _ hp _ _ _).trans hidle,
      Chip.keepsMem_of_eq (Chip.reject_cst _ _ _ _ _) (Chip.reject_mc _ _ _ _ _)⟩
  · exact Chip.armReason_ne_epochInvalid (decide_eq_false (show ¬ s.chip.epcState < 2 by omega)) _ p

end Sys2Proof.Machine
end

section
/-! Operations that change registers only, and which. -/

namespace Sys2Proof.Machine

/-- `d` is `c` but for registers of the list and the notes of what became of the last write. -/
def Chip.RegsOnly (c d : Chip) (l : List Nat) : Prop :=
  (∃ r x k, d = { c with regs := r, dropped := x, lastReason := k }) ∧ c.keepsRegs d l

theorem Chip.RegsOnly.refl (c : Chip) (l : List Nat) : c.RegsOnly c l := ⟨⟨_, _, _, rfl⟩, fun _ _ => rfl⟩

theorem Chip.RegsOnly.trans {c d e : Chip} {l : List Nat} (h : c.RegsOnly d l) (k : d.RegsOnly e l) : c.RegsOnly e l := by
  obtain ⟨⟨r, x, n, rfl⟩, hr⟩ := h
  obtain ⟨⟨r', x', n', rfl⟩, hr'⟩ := k
  exact ⟨⟨r', x', n', rfl⟩, fun a ha => (hr' a ha).trans (hr a ha)⟩

theorem Chip.RegsOnly.writing (c : Chip) (l : List Nat) : c.RegsOnly c.writing l := ⟨⟨_, _, _, rfl⟩, fun _ _ => rfl⟩

theorem Chip.RegsOnly.lastReason (c : Chip) (k : Nat) (l : List Nat) : c.RegsOnly { c with lastReason := k } l :=
  ⟨⟨_, _, _, rfl⟩, fun a _ => c.reg_lastReason k a⟩

theorem Chip.RegsOnly.setN (c : Chip) {a : Nat} (n : Nat) {l : List Nat} (h : a ∈ l) : c.RegsOnly (c.setN a n) l :=
  ⟨⟨_, _, _, rfl⟩, fun _ hb => c.reg_setN_ne n (fun e => hb (e ▸ h))⟩

theorem Chip.RegsOnly.setFld (c : Chip) {a : Nat} (f : Fld) (v : Nat) {l : List Nat} (h : a ∈ l) : c.RegsOnly (c.setFld a f v) l :=
  .setN c _ h

theorem Chip.RegsOnly.setFlag (c : Chip) {a : Nat} (f : Fld) (b : Bool) {l : List Nat} (h : a ∈ l) : c.RegsOnly (c.setFlag a f b) l :=
  .setFld c f _ h

theorem Chip.RegsOnly.car {c d : Chip} {l : List Nat} (h : c.RegsOnly d l) : d.car = c.car := by
  obtain ⟨⟨_, _, _, rfl⟩, -⟩ := h; rfl
theorem Chip.RegsOnly.cst {c d : Chip} {l : List Nat} (h : c.RegsOnly d l) : d.cst = c.cst := by
  obtain ⟨⟨_, _, _, rfl⟩, -⟩ := h; rfl
theorem Chip.RegsOnly.mc {c d : Chip} {l : List Nat} (h : c.RegsOnly d l) : d.mc = c.mc := by
  obtain ⟨⟨_, _, _, rfl⟩, -⟩ := h; rfl
theorem Chip.RegsOnly.fatal {c d : Chip} {l : List Nat} (h : c.RegsOnly d l) : d.fatal = c.fatal := by
  obtain ⟨⟨_, _, _, rfl⟩, -⟩ := h; rfl
theorem Chip.RegsOnly.resetReq {c d : Chip} {l : List Nat} (h : c.RegsOnly d l) : d.resetReq = c.resetReq := by
  obtain ⟨⟨_, _, _, rfl⟩, -⟩ := h; rfl

theorem Chip.RegsOnly.rn {c d : Chip} {l : List Nat} (h : c.RegsOnly d l) {a : Nat} (ha : a ∉ l) : d.rn a = c.rn a :=
  Chip.rn_congr (h.2 a ha)

theorem Chip.RegsOnly.fld {c d : Chip} {l : List Nat} (h : c.RegsOnly d l) {a : Nat} (ha : a ∉ l) (f : Fld) : d.fld a f = c.fld a f := by
  rw [Chip.fld, h.rn ha, ← Chip.fld]

theorem Chip.RegsOnly.flag {c d : Chip} {l : List Nat} (h : c.RegsOnly d l) {a : Nat} (ha : a ∉ l) (f : Fld) :
    d.flag a f = c.flag a f := by
  rw [Chip.flag, h.fld ha, ← Chip.flag]

theorem Chip.RegsOnly.keepsMem {c d : Chip} {l : List Nat} (h : c.RegsOnly d l) : c.keepsMem d := Chip.keepsMem_of_eq h.cst h.mc

/-- One register after another put. -/
theorem Chip.RegsOnly.foldl_setN {a : Nat → Nat} (f : Nat → Nat) {l L : List Nat} (h : ∀ w ∈ l, a w ∈ L) (c : Chip) :
    c.RegsOnly (l.foldl (fun c w => c.setN (a w) (f w)) c) L := by
  induction l generalizing c with
  | nil => exact .refl c L
  | cons w l ih =>
    obtain ⟨hw, hl⟩ := List.forall_mem_cons.1 h
    exact (Chip.RegsOnly.setN c (f w) hw).trans (ih hl (c.setN (a w) (f w)))

theorem Chip.rn_foldl_setN {a : Nat → Nat} (ha : Function.Injective a) (f : Nat → Nat) (c : Chip) {n j : Nat} (hj : j < n) :
    ((List.range n).foldl (fun c w => c.setN (a w) (f w)) c).rn (a j) = f j % 2 ^ 32 := by
  induction n with
  | zero => exact absurd hj (Nat.not_lt_zero j)
  | succ n ih =>
    rw [List.range_succ, List.foldl_concat]
    by_cases h : j = n
    · rw [h, Chip.rn_setN]
    · rw [Chip.rn_setN_ne _ _ (ha.ne h), ih (by omega)]

end Sys2Proof.Machine
end

section
/-! Reads of sound words of the Common Store (R325, R335, R339). -/

namespace Sys2Proof.Machine

/-- A word of the usable store as it was written. -/
def Chip.cstSound (c : Chip) (a : Nat) : Prop :=
  c.cstBad (c.cstPhys a) = 0 ∧ c.cstRaw (c.cstPhys a) = false ∧ a < c.cstWords

/-- The registers in which a read under RAW marks a bank (R339). -/
def rawMarks : List Nat := [R.CST_CHK_FAIL_L, R.CST_CHK_FAIL_H]

theorem Chip.cstData_of_not_bad {c : Chip} {k : Nat} (h : c.cstBad k = 0) : c.cstData k = c.cstCell k := by
  simp [Chip.cstData, h]

theorem Chip.cstSee_of_sound {c : Chip} {k : Nat} (hb : c.cstBad k = 0) (hr : c.cstRaw k = false) : c.cstSee k = (0, c.cstCell k) := by
  have h0 : ones 72 0 = 0 := by decide
  simp [Chip.cstSee, hb, hr, h0]

theorem Chip.RegsOnly.cstRawCheck (c : Chip) (k : Nat) : c.RegsOnly (c.cstRawCheck k) rawMarks := by
  unfold Chip.cstRawCheck
  refine iteInduction (motive := fun d => c.RegsOnly d rawMarks) (fun _ => .setN c _ ?_) (fun _ => .refl c _)
  split
  · exact List.mem_cons_self
  · exact List.mem_cons_of_mem _ List.mem_cons_self

theorem Chip.RegsOnly.cstPhys {c d : Chip} (h : c.RegsOnly d rawMarks) (a : Nat) : d.cstPhys a = c.cstPhys a := by
  have hr : d.rn R.GLB_PROFILE_EFF = c.rn R.GLB_PROFILE_EFF := Chip.rn_congr (h.2 _ (by decide))
  unfold Chip.cstPhys Chip.cstDegraded Chip.flag Chip.fld
  rw [hr]

theorem Chip.RegsOnly.cstWords {c d : Chip} (h : c.RegsOnly d rawMarks) : d.cstWords = c.cstWords := by
  have hr : d.rn R.GLB_PROFILE_EFF = c.rn R.GLB_PROFILE_EFF := Chip.rn_congr (h.2 _ (by decide))
  unfold Chip.cstWords Chip.cstDegraded Chip.flag Chip.fld
  rw [hr]

theorem Chip.RegsOnly.cstSound {c d : Chip} (h : c.RegsOnly d rawMarks) {a : Nat} (hs : c.cstSound a) : d.cstSound a := by
  rw [Chip.cstSound, h.cstPhys, h.cstWords, Chip.cstBad, Chip.cstRaw, h.cst]
  exact hs

/-- A sound word reads as it was written, and nothing is reported; under RAW the read may mark its bank. -/
theorem Chip.cstRead_of_sound {c : Chip} {a : Nat} (hs : c.cstSound a) (m : Nat) :
    ∃ d, c.cstRead m a = (d, c.cstCell (c.cstPhys a), 0) ∧ c.RegsOnly d rawMarks := by
  obtain ⟨hb, hr, ha⟩ := hs
  by_cases hraw : c.cstRawOn = true
  · refine ⟨_, ?_, .cstRawCheck c (c.cstPhys a)⟩
    simp only [Chip.cstRead, if_neg (Nat.not_le.2 ha), if_pos hraw, Chip.cstData_of_not_bad hb]
  · refine ⟨_, ?_, .refl c rawMarks⟩
    simp only [Chip.cstRead, if_neg (Nat.not_le.2 ha), if_neg hraw, Chip.cstSee_of_sound hb hr, if_true]

theorem Chip.cstReadList_of_sound (m : Nat) : ∀ {c : Chip} {a n : Nat}, (∀ k, k < n → c.cstSound (a + k)) →
    ∃ d o, c.cstReadList m a n = (d, (List.range n).map (fun k => c.cstCell (c.cstPhys (a + k))), o) ∧ c.RegsOnly d rawMarks
  | c, a, 0, _ => ⟨c, 0, rfl, .refl c _⟩
  | c, a, n + 1, hs => by
    obtain ⟨d, hd, hcd⟩ := Chip.cstRead_of_sound (hs 0 (Nat.succ_pos n)) m
    have hnext : ∀ k, k < n → d.cstSound (a + 1 + k) := fun k hk => by
      rw [Nat.add_assoc, Nat.add_comm 1 k]; exact hcd.cstSound (hs (k + 1) (Nat.succ_lt_succ hk))
    obtain ⟨e, o, he, hde⟩ := Chip.cstReadList_of_sound m hnext
    refine ⟨e, max 0 o, ?_, hcd.trans hde⟩
    have hcell : ∀ k, d.cstCell k = c.cstCell k := fun k => by rw [Chip.cstCell, hcd.cst, Chip.cstCell]
    rw [Nat.add_zero] at hd
    simp [Chip.cstReadList, hd, he, List.range_succ_eq_map, hcell, hcd.cstPhys, Nat.add_comm, Nat.add_left_comm]

end Sys2Proof.Machine
end

section
/-! Little-endian byte lists (R2): fields of a number's bytes, and of the bytes of 64-bit words. -/

namespace Sys2Proof.Machine

theorem leBytes_length (n x : Nat) : (leBytes n x).length = n := by
  induction n generalizing x with
  | zero => rfl
  | succ n ih => rw [leBytes, List.length_cons, ih]

theorem leNat_leBytes (n x : Nat) : leNat (leBytes n x) = x % 256 ^ n := by
  induction n generalizing x with
  | zero => simp [leBytes, leNat, Nat.mod_one]
  | succ n ih => rw [leBytes, leNat, ih, Nat.mod_mod, Nat.pow_succ', Nat.mod_mul]

theorem drop_leBytes (m x ofs : Nat) : (leBytes m x).drop ofs = leBytes (m - ofs) (x / 256 ^ ofs) := by
  induction ofs generalizing m x with
  | zero => simp
  | succ k ih =>
    cases m with
    | zero => simp [leBytes]
    | succ m => rw [leBytes, List.drop_succ_cons, ih, Nat.div_div_eq_div_mul, ← Nat.pow_succ', Nat.succ_sub_succ]

theorem take_leBytes (n k x : Nat) : (leBytes (n + k) x).take n = leBytes n x := by
  induction n generalizing x with
  | zero => simp [leBytes]
  | succ n ih => rw [Nat.succ_add, leBytes, List.take_succ_cons, ih, leBytes]

theorem leAt_eq_of_le {l : List Nat} {ofs n : Nat} (h : ofs + n ≤ l.length) : leAt l ofs n = leNat ((l.drop ofs).take n) := by
  have hlen : ((l.drop ofs).take n).length = n := by simp; omega
  simp [leAt, slice, hlen, zeros]

theorem leAt_leBytes {m ofs n : Nat} (h : ofs + n ≤ m) (x : Nat) : leAt (leBytes m x) ofs n = x / 256 ^ ofs % 256 ^ n := by
  obtain ⟨k, rfl⟩ := Nat.exists_eq_add_of_le h
  rw [leAt_eq_of_le (by rw [leBytes_length]; omega), drop_leBytes, show ofs + n + k - ofs = n + k by omega, take_leBytes,
    leNat_leBytes]

theorem leAt_append_left {l₁ : List Nat} {ofs n : Nat} (h : ofs + n ≤ l₁.length) (l₂ : List Nat) :
    leAt (l₁ ++ l₂) ofs n = leAt l₁ ofs n := by
  rw [leAt_eq_of_le (by rw [List.length_append]; omega), leAt_eq_of_le h, List.drop_append_of_le_length (by omega),
    List.take_append_of_le_length (by rw [List.length_drop]; omega)]

theorem leAt_append_right (l₁ l₂ : List Nat) (ofs n : Nat) : leAt (l₁ ++ l₂) (l₁.length + ofs) n = leAt l₂ ofs n := by
  rw [leAt, slice, List.drop_length_add_append, leAt, slice]

/-- The 32-bit halves of a list of 64-bit words, in the order of their bytes. -/
theorem leAt_dwordBytes : ∀ (l : List DWord) {w : Nat} (h : w / 2 < l.length),
    leAt (dwordBytes l) (4 * w) 4 = l[w / 2].toNat / 2 ^ (32 * (w % 2)) % 2 ^ 32
  | v :: l, w, h => by
    have hcons : dwordBytes (v :: l) = leBytes 8 v.toNat ++ dwordBytes l := List.flatMap_cons
    have hlen := leBytes_length 8 v.toNat
    by_cases hw : w < 2
    · have h256 : 256 ^ (4 * w) = 2 ^ (32 * (w % 2)) := by
        rw [Nat.mod_eq_of_lt hw, show 256 = 2 ^ 8 by rfl, ← Nat.pow_mul]; congr 1; omega
      rw [hcons, leAt_append_left (by omega), leAt_leBytes (by omega), h256]
      simp [Nat.div_eq_of_lt hw]
    · obtain ⟨u, rfl⟩ := Nat.exists_eq_add_of_le' (Nat.le_of_not_lt hw)
      have hu : u / 2 < l.length := by rw [List.length_cons] at h; omega
      have hright := leAt_append_right (leBytes 8 v.toNat) (dwordBytes l) (4 * u) 4
      rw [hlen] at hright
      rw [hcons, show 4 * (u + 2) = 8 + 4 * u by omega, hright, leAt_dwordBytes l hu]
      simp

end Sys2Proof.Machine
end

section
/-! POP (R229): which entry a pop takes, what it reads from the Common Store, and what the registers show of it. -/

namespace Sys2Proof.Machine

/-! ### The entry a pop takes -/

/-- Entries of a queue in the order in which they are popped: by priority, and by arrival within one. -/
def carKey (e : CarEntry) : Nat ×ₗ Nat := toLex (e.prio, e.arrival)

theorem carBefore_iff (a b : CarEntry) : carBefore a b = true ↔ carKey a < carKey b := by
  simp [carBefore, carKey, Prod.Lex.toLex_lt_toLex]

/-- The head is the least, in that order, of the queue's poppable entries. -/
theorem Chip.carHead_eq_argmin (c : Chip) (q : Nat) :
    c.carHead q = (c.car.entries.filter (fun e => decide (e.queue = q) && c.carPoppable e)).argmin carKey := by
  rw [Chip.carHead, List.argmin, List.foldl_filter]
  congr
  funext best e
  cases best with
  | none => rfl
  | some b => simp only [List.argAux, carBefore_iff]

theorem Chip.mem_carHead {c : Chip} {q : Nat} {e : CarEntry} (h : c.carHead q = some e) :
    e ∈ c.car.entries ∧ e.queue = q ∧ c.carPoppable e = true := by
  rw [Chip.carHead_eq_argmin] at h
  simpa using List.argmin_mem h

theorem Chip.carHead_le {c : Chip} {q : Nat} {e x : CarEntry} (h : c.carHead q = some e) (hx : x ∈ c.car.entries) (hq : x.queue = q)
    (hp : c.carPoppable x = true) : e.prio < x.prio ∨ (e.prio = x.prio ∧ e.arrival ≤ x.arrival) := by
  rw [Chip.carHead_eq_argmin] at h
  have hle : carKey e ≤ carKey x := List.le_of_mem_argmin (by simp [hx, hq, hp]) h
  simpa [carKey, Prod.Lex.toLex_le_toLex] using hle

theorem Chip.not_carPoppable_of_carHead_none {c : Chip} {q : Nat} {x : CarEntry} (h : c.carHead q = none) (hx : x ∈ c.car.entries)
    (hq : x.queue = q) : c.carPoppable x = false := by
  rw [Chip.carHead_eq_argmin, List.argmin_eq_none, List.filter_eq_nil_iff] at h
  simpa [hq] using h x hx

/-! ### A pop -/

/-- The stall timer reaches the timers and STALLED only. -/
theorem Chip.carTimer_regsOnly (c : Chip) (q : Nat) (b : Bool) :
    ∃ t, { c with car := { c.car with stallAt := t } }.RegsOnly (c.carTimer q b) [R.CAR_Q_STAT q] := by
  unfold Chip.carTimer
  simp only
  split
  · exact ⟨_, .setN _ _ List.mem_cons_self⟩
  · split
    · exact ⟨_, .setN _ _ List.mem_cons_self⟩
    · split
      · exact ⟨_, .refl c _⟩
      · exact ⟨_, .refl _ _⟩

/-- POPNO, the count of pops and the stall timer after the pop numbered `n` (R229, R236). -/
def Chip.carCounted (c : Chip) (q n : Nat) : Chip :=
  ((c.setN (R.CAR_Q_POPNO q) (n + 1)).addCnt (R.CAR_Q_POPPED q) 1).carTimer q true

theorem Chip.carCounted_fatal (c : Chip) (q n : Nat) : (c.carCounted q n).fatal = c.fatal :=
  (Chip.carTimer_regsOnly _ q true).elim fun _ h => h.fatal

theorem Chip.carCounted_resetReq (c : Chip) (q n : Nat) : (c.carCounted q n).resetReq = c.resetReq :=
  (Chip.carTimer_regsOnly _ q true).elim fun _ h => h.resetReq

theorem Chip.carCounted_entries (c : Chip) (q n : Nat) : (c.carCounted q n).car.entries = c.car.entries := by
  obtain ⟨t, ht⟩ := ((c.setN (R.CAR_Q_POPNO q) (n + 1)).addCnt (R.CAR_Q_POPPED q) 1).carTimer_regsOnly q true
  rw [Chip.carCounted, ht.car]
  rfl

theorem Chip.rn_carCounted_popno (c : Chip) (q n : Nat) : (c.carCounted q n).rn (R.CAR_Q_POPNO q) = (n + 1) % 2 ^ 32 := by
  obtain ⟨t, ht⟩ := ((c.setN (R.CAR_Q_POPNO q) (n + 1)).addCnt (R.CAR_Q_POPPED q) 1).carTimer_regsOnly q true
  have hstat : R.CAR_Q_POPNO q ∉ [R.CAR_Q_STAT q] := by simp [R.CAR_Q_POPNO, R.CAR_Q_STAT]
  have hcnt : R.CAR_Q_POPNO q ≠ R.CAR_Q_POPPED q := by simp [R.CAR_Q_POPNO, R.CAR_Q_POPPED]
  calc (c.carCounted q n).rn (R.CAR_Q_POPNO q)
      = ((c.setN (R.CAR_Q_POPNO q) (n + 1)).addCnt (R.CAR_Q_POPPED q) 1).rn (R.CAR_Q_POPNO q) := ht.rn hstat
    _ = (c.setN (R.CAR_Q_POPNO q) (n + 1)).rn (R.CAR_Q_POPNO q) := Chip.rn_congr (Chip.reg_addCnt_ne _ 1 hcnt)
    _ = (n + 1) % 2 ^ 32 := c.rn_setN _ _

/-- The entry `e` of a queue popped: it has the queue's pop number. -/
def Chip.carTaken (c : Chip) (q : Nat) (e : CarEntry) : Chip :=
  c.carUpd e.index (fun x => { x with popNo := some (c.rn (R.CAR_Q_POPNO q)), everPopped := true })

/-- A pop of a queue with a head, the descriptor read. -/
theorem Chip.carPop_of_read {c d : Chip} {q o : Nat} {e : CarEntry} {l : List DWord} (h : c.carHead q = some e)
    (hr : (c.carTaken q e).cstReadList 17 ((c.carTaken q e).carWord e.index) 4 = (d, l, o)) :
    c.carPop q = (d.carCounted q (c.rn (R.CAR_Q_POPNO q)), some (e.handle, dwordBytes l, e)) := by
  simp only [Chip.carTaken] at hr
  simp only [Chip.carPop, h, hr, Chip.carCounted]

/-- The words of an entry's descriptor. -/
def Chip.carDesc (c : Chip) (i : Nat) : List DWord := (List.range 4).map (fun k => c.cstCell (c.cstPhys (c.carWord i + k)))

/-- A pop of a queue whose head's descriptor is sound: the head is taken and numbered, POPNO goes on, and nothing is demanded. -/
theorem Chip.carPop_of_head {c : Chip} {q : Nat} {e : CarEntry} (h : c.carHead q = some e)
    (hs : ∀ k, k < 4 → c.cstSound (c.carWord e.index + k)) :
    ∃ d, c.carPop q = (d, some (e.handle, dwordBytes (c.carDesc e.index), e)) ∧ d.fatal = c.fatal ∧ d.resetReq = c.resetReq ∧
      d.car.entries = (c.carTaken q e).car.entries ∧ d.rn (R.CAR_Q_POPNO q) = (c.rn (R.CAR_Q_POPNO q) + 1) % 2 ^ 32 := by
  obtain ⟨r, o, hread, hr⟩ := Chip.cstReadList_of_sound (c := c.carTaken q e) 17 hs
  exact ⟨_, Chip.carPop_of_read h hread, (r.carCounted_fatal q _).trans hr.fatal, (r.carCounted_resetReq q _).trans hr.resetReq,
    (r.carCounted_entries q _).trans (congrArg Car.entries hr.car), r.rn_carCounted_popno q _⟩

/-- The 32-bit halves of a descriptor's words. -/
theorem Chip.leAt_carDesc (c : Chip) (n : Nat) {w : Nat} (hw : w < 8) :
    leAt (dwordBytes (c.carDesc n)) (4 * w) 4 =
      (c.cstCell (c.cstPhys (c.carWord n + w / 2))).toNat / 2 ^ (32 * (w % 2)) % 2 ^ 32 := by
  have hlen : w / 2 < (c.carDesc n).length := by simp only [Chip.carDesc, List.length_map, List.length_range]; omega
  rw [leAt_dwordBytes _ hlen]
  simp [Chip.carDesc]

/-! ### What the registers show of a pop -/

/-- A handle and the bytes of a descriptor put into POPSTAT and OUT0 to OUT7. -/
def Chip.carShow (c : Chip) (q handle : Nat) (desc : List Nat) : Chip :=
  ((((List.range 8).foldl (fun c w => c.setN (R.CAR_Q_OUT q w) (leAt desc (4 * w) 4)) c).setFld (R.CAR_Q_POPSTAT q)
    F.CAR_Q_POPSTAT_HANDLE handle).setFlag (R.CAR_Q_POPSTAT q) F.CAR_Q_POPSTAT_VALID true)

theorem Chip.carPopReg_of_none {c : Chip} {q : Nat} (h : c.carHead q = none) :
    c.carPopReg q = c.setFlag (R.CAR_Q_POPSTAT q) F.CAR_Q_POPSTAT_VALID false := by
  simp only [Chip.carPopReg, Chip.carPop, h]

theorem Chip.carPopReg_of_some {c d : Chip} {q n : Nat} {l : List Nat} {e : CarEntry} (h : c.carPop q = (d, some (n, l, e))) :
    c.carPopReg q = d.carShow q n l := by
  simp only [Chip.carPopReg, h, Chip.carShow]

theorem R.CAR_Q_OUT_injective (q : Nat) : Function.Injective (R.CAR_Q_OUT q) := fun v w h => by
  simp only [R.CAR_Q_OUT] at h; omega

/-- The registers that show a pop. -/
def popRegs (q : Nat) : List Nat := R.CAR_Q_POPSTAT q :: (List.range 8).map (R.CAR_Q_OUT q)

theorem Chip.RegsOnly.carShow (c : Chip) (q n : Nat) (l : List Nat) : c.RegsOnly (c.carShow q n l) (popRegs q) :=
  ((Chip.RegsOnly.foldl_setN _ (fun _ hw => List.mem_cons_of_mem _ (List.mem_map_of_mem hw)) c).trans
    (.setFld _ _ _ List.mem_cons_self)).trans (.setFlag _ _ _ List.mem_cons_self)

theorem Chip.carShow_valid (c : Chip) (q n : Nat) (l : List Nat) :
    (c.carShow q n l).flag (R.CAR_Q_POPSTAT q) F.CAR_Q_POPSTAT_VALID = true :=
  Chip.flag_setFlag _ _ _ _ (by decide) rfl

theorem Chip.carShow_handle (c : Chip) (q n : Nat) (l : List Nat) :
    (c.carShow q n l).fld (R.CAR_Q_POPSTAT q) F.CAR_Q_POPSTAT_HANDLE = n % 65536 :=
  (Chip.fld_setFld_apart _ _ _ _ _ (by decide) (.inl (by decide))).trans (Chip.fld_setFld _ _ _ _ (by decide))

theorem Chip.carShow_out (c : Chip) (q n : Nat) (l : List Nat) {w : Nat} (hw : w < 8) :
    (c.carShow q n l).rn (R.CAR_Q_OUT q w) = leAt l (4 * w) 4 % 2 ^ 32 := by
  have hne : R.CAR_Q_OUT q w ≠ R.CAR_Q_POPSTAT q := by simp only [R.CAR_Q_OUT, R.CAR_Q_POPSTAT]; omega
  rw [Chip.carShow, Chip.setFlag, Chip.rn_setFld_ne _ _ _ hne, Chip.rn_setFld_ne _ _ _ hne,
    Chip.rn_foldl_setN (R.CAR_Q_OUT_injective q) (fun w => leAt l (4 * w) 4) c hw]

/-! ### The command (R229, R235) -/

/-- POP alone, of a queue that the initiator may pop outside Safe. -/
theorem Chip.carCommands_pop {c : Chip} {q : Nat} {i : Init} (hs : c.inSafe = false) (ho : c.carOwned q i = false) :
    c.carCommands q 2 0 i = { (c.carPopReg q).setFld (R.CAR_Q_CMDSTAT q) reasonFld 0 with lastReason := 0 } := by
  have hlist : maskList 5 2 = [1] := by decide
  have hreason : c.carReason q 1 i = 0 := by simp [Chip.carReason, hs, ho]
  simp [Chip.carCommands, hlist, hreason, Chip.carEffects, maskSet, bit]

theorem exec_carPop_of_atWork {s : State} (hs : s.chip.atWork = true) {q : Nat} (hq : q < 8) {i : Init}
    (ho : s.chip.carOwned q i = false) : exec (.carPop i q) s =
      .next (s.after { (s.chip.writing.carPopReg q).setFld (R.CAR_Q_CMDSTAT q) reasonFld 0 with lastReason := 0 }) := by
  change s.act (.carPop i q) (fun c => c.asWrite i (R.CAR_Q_CMD q) (doCarPop i q)) = _
  rw [State.act_of_atWork hs (by simp [Instr.wf, hq]), Chip.asWrite_of_atWork hs, doCarPop,
    Chip.carCommands_pop (Chip.inSafe_of_atWork (Chip.atWork_writing hs)) ho]

/-- Of the registers, the command's REASON reaches CMDSTAT. -/
theorem Chip.RegsOnly.reasonZero (c : Chip) {q : Nat} {l : List Nat} (h : R.CAR_Q_CMDSTAT q ∈ l) :
    c.RegsOnly { c.setFld (R.CAR_Q_CMDSTAT q) reasonFld 0 with lastReason := 0 } l :=
  (Chip.RegsOnly.setFld c reasonFld 0 h).trans (.lastReason _ 0 l)

theorem carPopstat_not_mem_cmdstat (q : Nat) : R.CAR_Q_POPSTAT q ∉ [R.CAR_Q_CMDSTAT q] := by
  simp [R.CAR_Q_POPSTAT, R.CAR_Q_CMDSTAT]

theorem carOut_not_mem_cmdstat (q w : Nat) : R.CAR_Q_OUT q w ∉ [R.CAR_Q_CMDSTAT q] := by
  simp only [R.CAR_Q_OUT, R.CAR_Q_CMDSTAT, List.mem_singleton]; omega

theorem carPopno_not_mem_cmdstat (q : Nat) : R.CAR_Q_POPNO q ∉ [R.CAR_Q_CMDSTAT q] := by
  simp [R.CAR_Q_POPNO, R.CAR_Q_CMDSTAT]

theorem carPopno_not_mem_popRegs (q : Nat) : R.CAR_Q_POPNO q ∉ popRegs q := by
  simp only [popRegs, List.mem_cons, List.mem_map, List.mem_range, not_or, not_exists, not_and, R.CAR_Q_POPNO, R.CAR_Q_POPSTAT,
    R.CAR_Q_OUT]
  exact ⟨by omega, fun w hw => by omega⟩

/-- What POP leaves of an engine at work whose queue has a sound head. -/
theorem completes_carPop_of_head {s : State} {i : Init} {q : Nat} {e : CarEntry} (hs : s.chip.atWork = true) (hq : q < 8)
    (ho : s.chip.carOwned q i = false) (he : s.chip.carHead q = some e)
    (hsound : ∀ k, k < 4 → s.chip.cstSound (s.chip.carWord e.index + k)) :
    Completes (.carPop i q) s (fun c => c.car.entries = (s.chip.carTaken q e).car.entries ∧
      c.rn (R.CAR_Q_POPNO q) = (s.chip.rn (R.CAR_Q_POPNO q) + 1) % 2 ^ 32 ∧
      c.flag (R.CAR_Q_POPSTAT q) F.CAR_Q_POPSTAT_VALID = true ∧ c.fld (R.CAR_Q_POPSTAT q) F.CAR_Q_POPSTAT_HANDLE = e.handle % 65536 ∧
      (∀ w, w < 8 → c.rn (R.CAR_Q_OUT q w) = leAt (dwordBytes (s.chip.carDesc e.index)) (4 * w) 4 % 2 ^ 32)) := by
  obtain ⟨-, hfatal, hreset, -⟩ := (Chip.quiet_iff _).1 (Chip.quiet_of_atWork hs)
  obtain ⟨d, hpop, hf, hr, hentries, hpopno⟩ := Chip.carPop_of_head (c := s.chip.writing) he hsound
  have hexec := exec_carPop_of_atWork hs hq ho
  rw [Chip.carPopReg_of_some hpop] at hexec
  have hshow := Chip.RegsOnly.carShow d q e.handle (dwordBytes (s.chip.carDesc e.index))
  have hdone := Chip.RegsOnly.reasonZero (d.carShow q e.handle (dwordBytes (s.chip.carDesc e.index)))
    (l := [R.CAR_Q_CMDSTAT q]) List.mem_cons_self
  refine ⟨_, hexec, (hdone.fatal.trans hshow.fatal).trans (hf.trans hfatal),
    (hdone.resetReq.trans hshow.resetReq).trans (hr.trans hreset),
    (congrArg Car.entries (hdone.car.trans hshow.car)).trans hentries, ?_, ?_, ?_, fun w hw => ?_⟩
  · exact (hdone.rn (carPopno_not_mem_cmdstat q)).trans ((hshow.rn (carPopno_not_mem_popRegs q)).trans hpopno)
  · exact (hdone.flag (carPopstat_not_mem_cmdstat q) _).trans (Chip.carShow_valid _ _ _ _)
  · exact (hdone.fld (carPopstat_not_mem_cmdstat q) _).trans (Chip.carShow_handle _ _ _ _)
  · exact (hdone.rn (carOut_not_mem_cmdstat q w)).trans (Chip.carShow_out _ _ _ _ hw)

/-- What POP leaves of an engine at work whose queue has no poppable entry: VALID = 0. -/
theorem completes_carPop_of_none {s : State} {i : Init} {q : Nat} (hs : s.chip.atWork = true) (hq : q < 8)
    (ho : s.chip.carOwned q i = false) (hnone : s.chip.carHead q = none) :
    Completes (.carPop i q) s (fun c => c.car = s.chip.car ∧ c.flag (R.CAR_Q_POPSTAT q) F.CAR_Q_POPSTAT_VALID = false ∧
      s.chip.keepsMem c ∧ ∀ a, a ≠ R.CAR_Q_POPSTAT q → a ≠ R.CAR_Q_CMDSTAT q → c.reg a = s.chip.reg a) := by
  obtain ⟨-, hfatal, hreset, -⟩ := (Chip.quiet_iff _).1 (Chip.quiet_of_atWork hs)
  have hhead : s.chip.writing.carHead q = none := hnone
  have hexec := exec_carPop_of_atWork hs hq ho
  rw [Chip.carPopReg_of_none hhead] at hexec
  have hdone := (Chip.RegsOnly.writing s.chip [R.CAR_Q_POPSTAT q, R.CAR_Q_CMDSTAT q]).trans
    ((Chip.RegsOnly.setFlag _ F.CAR_Q_POPSTAT_VALID false List.mem_cons_self).trans
      (.reasonZero _ (q := q) (List.mem_cons_of_mem _ List.mem_cons_self)))
  refine ⟨_, hexec, hdone.fatal.trans hfatal, hdone.resetReq.trans hreset, hdone.car, ?_, hdone.keepsMem,
    fun a hp hc => hdone.2 a (by simp [hp, hc])⟩
  exact ((Chip.RegsOnly.reasonZero _ (l := [R.CAR_Q_CMDSTAT q]) List.mem_cons_self).flag (carPopstat_not_mem_cmdstat q) _).trans
    (Chip.flag_setFlag _ _ _ _ (by decide) rfl)

/-- Settles O37: the head is the least of the poppable entries in the order of R229, and its descriptor's words read as they were
written. -/
theorem carterPops : Obligations.CarterPops := by
  intro s i q hs hq ho
  refine ⟨fun e he hsound => ⟨Chip.mem_carHead he, fun x => Chip.carHead_le he, ?_⟩, fun hnone =>
    ⟨fun x => Chip.not_carPoppable_of_carHead_none hnone, completes_carPop_of_none hs hq ho hnone⟩⟩
  obtain ⟨c, hexec, hfatal, hreset, hentries, hpopno, hvalid, hhandle, hout⟩ := completes_carPop_of_head hs hq ho he hsound
  refine ⟨c, hexec, hfatal, hreset, hentries, hpopno, hvalid, hhandle, fun w hw => ?_⟩
  rw [hout w hw, s.chip.leAt_carDesc e.index hw, Nat.mod_mod]

end Sys2Proof.Machine
end

section
/-! The merge of one cycle's writes to a word, bit by bit (R331, R332). -/

namespace Sys2Proof.Machine

/-! ### Byte masks -/

/-- The low `n` bytes of a byte mask's word. -/
def lowBytes (m n : Nat) : Nat := (List.range n).foldl (fun x i => if bit m i then x + 255 * 2 ^ (8 * i) else x) 0

theorem lowBytes_succ (m n : Nat) : lowBytes m (n + 1) = if bit m n then lowBytes m n + 255 * 2 ^ (8 * n) else lowBytes m n := by
  rw [lowBytes, List.range_succ, List.foldl_concat, ← lowBytes]

theorem lowBytes_lt (m n : Nat) : lowBytes m n < 2 ^ (8 * n) := by
  induction n with
  | zero => exact Nat.one_pos
  | succ n ih =>
    have hpow : 2 ^ (8 * (n + 1)) = 256 * 2 ^ (8 * n) := by rw [Nat.mul_succ, Nat.pow_add, Nat.mul_comm]
    rw [lowBytes_succ]
    split <;> omega

/-- Byte `n` of the mask's word is all ones where the mask covers it, and lies above the bytes below it. -/
theorem testBit_lowBytes_succ (m n b : Nat) : (lowBytes m (n + 1)).testBit b =
    if b < 8 * n then (lowBytes m n).testBit b else (bit m n && decide (b - 8 * n < 8)) := by
  have hbyte : (if bit m n then lowBytes m n + 255 * 2 ^ (8 * n) else lowBytes m n) =
      2 ^ (8 * n) * (if bit m n then 2 ^ 8 - 1 else 0) + lowBytes m n := by split <;> omega
  rw [lowBytes_succ, hbyte, Nat.testBit_two_pow_mul_add _ (lowBytes_lt m n)]
  cases bit m n
  · simp
  · rw [if_pos rfl, Nat.testBit_two_pow_sub_one, Bool.true_and]

theorem testBit_lowBytes (m n b : Nat) : (lowBytes m n).testBit b = (decide (b < 8 * n) && bit m (b / 8)) := by
  induction n with
  | zero => simp [lowBytes]
  | succ n ih =>
    rw [testBit_lowBytes_succ, ih]
    by_cases hlow : b < 8 * n
    · simp [hlow, show b < 8 * (n + 1) by omega]
    · by_cases hbyte : b < 8 * (n + 1)
      · simp [hlow, hbyte, show b - 8 * n < 8 by omega, show b / 8 = n by omega]
      · simp [hlow, hbyte, show ¬b - 8 * n < 8 by omega]

/-- A byte mask covers the bits of its bytes. -/
theorem getLsbD_byteMask (m : Nat) {b : Nat} (hb : b < 64) : (byteMask m).getLsbD b = bit m (b / 8) := by
  rw [byteMask, ← lowBytes, BitVec.getLsbD_ofNat, testBit_lowBytes]
  simp [hb]

/-! ### Plain writes -/

/-- A plain write laid over a word gives the bits it covers and keeps the others. -/
theorem getLsbD_layPlain (v d : DWord) (m : Nat) {b : Nat} (hb : b < 64) :
    ((v &&& ~~~(byteMask m)) ||| (d &&& byteMask m)).getLsbD b = if bit m (b / 8) then d.getLsbD b else v.getLsbD b := by
  simp only [BitVec.getLsbD_or, BitVec.getLsbD_and, BitVec.getLsbD_not, getLsbD_byteMask m hb, hb]
  cases bit m (b / 8) <;> simp

/-- One master's plain writes agree on a bit, and the bit had that value or one of them covers it. -/
theorem getLsbD_foldl_layPlain (n : Nat) {b : Nat} (hb : b < 64) (t : Bool) : ∀ (l : List CstAccess) (v : DWord),
    (∀ x, x ∈ l → x.kind = 0 → x.master = n → bit x.mask (b / 8) = true → x.data.getLsbD b = t) →
    (v.getLsbD b = t ∨ ∃ x, x ∈ l ∧ x.kind = 0 ∧ x.master = n ∧ bit x.mask (b / 8) = true) →
    (l.foldl (fun v x => if x.kind = 0 ∧ x.master = n then (v &&& ~~~(byteMask x.mask)) ||| (x.data &&& byteMask x.mask) else v)
      v).getLsbD b = t
  | [], v, _, h => by simpa using h
  | x :: l, v, hall, h => by
    obtain ⟨hx, hl⟩ := List.forall_mem_cons.1 hall
    rw [List.foldl_cons]
    refine getLsbD_foldl_layPlain n hb t l _ hl ?_
    by_cases hmine : x.kind = 0 ∧ x.master = n
    · rw [if_pos hmine, getLsbD_layPlain _ _ _ hb]
      by_cases hcov : bit x.mask (b / 8) = true
      · exact .inl (by rw [if_pos hcov, hx hmine.1 hmine.2 hcov])
      · rw [if_neg hcov]
        exact h.imp_right fun ⟨y, hy, hk, hm, hc⟩ =>
          ⟨y, (List.mem_cons.1 hy).resolve_left fun e => hcov (e ▸ hc), hk, hm, hc⟩
    · rw [if_neg hmine]
      exact h.imp_right fun ⟨y, hy, hk, hm, hc⟩ =>
        ⟨y, (List.mem_cons.1 hy).resolve_left fun e => hmine (e ▸ ⟨hk, hm⟩), hk, hm, hc⟩

/-- A bit that no plain write of the masters below `m` covers stays as it is. -/
theorem getLsbD_mergePlain_of_uncovered {l : List CstAccess} {b : Nat} (hb : b < 64) (v : DWord) : ∀ {m : Nat},
    (∀ x, x ∈ l → x.kind = 0 → x.master < m → bit x.mask (b / 8) = false) → (mergePlain l m v).getLsbD b = v.getLsbD b
  | 0, _ => rfl
  | m + 1, h => by
    have hbelow := getLsbD_mergePlain_of_uncovered hb v (m := m) fun x hx hk hm => h x hx hk (by omega)
    exact getLsbD_foldl_layPlain m hb _ l _
      (fun x hx hk hm hc => absurd hc (by simp [h x hx hk (by omega)])) (.inl hbelow)

/-- The highest-numbered plain write that covers a bit gives it its value. -/
theorem getLsbD_mergePlain_of_highest {l : List CstAccess} {b : Nat} (hb : b < 64) (v : DWord) {x : CstAccess} (hx : x ∈ l)
    (hk : x.kind = 0) (hc : bit x.mask (b / 8) = true)
    (htop : ∀ y, y ∈ l → y.kind = 0 → bit y.mask (b / 8) = true → y.master < x.master ∨ y = x) : ∀ {m : Nat}, x.master < m →
    (mergePlain l m v).getLsbD b = x.data.getLsbD b
  | m + 1, hm => by
    refine getLsbD_foldl_layPlain m hb _ l _ (fun y hy hyk hym hyc => ?_) ?_
    · obtain hlt | rfl := htop y hy hyk hyc
      · omega
      · rfl
    · by_cases hxm : x.master = m
      · exact .inr ⟨x, hx, hk, hxm, hc⟩
      · exact .inl (getLsbD_mergePlain_of_highest hb v hx hk hc htop (by omega))

/-! ### Set and clear masks -/

theorem getLsbD_foldl_aliasMask (k : Nat) {b : Nat} (hb : b < 64) (l : List CstAccess) : ∀ v : DWord,
    (l.foldl (fun v x => if x.kind = k then v ||| (x.data &&& byteMask x.mask) else v) v).getLsbD b =
      (v.getLsbD b || l.any (fun x => decide (x.kind = k) && bit x.mask (b / 8) && x.data.getLsbD b)) := by
  induction l with
  | nil => simp
  | cons x l ih =>
    intro v
    rw [List.foldl_cons, ih, List.any_cons]
    by_cases h : x.kind = k
    · simp [h, getLsbD_byteMask _ hb, Bool.or_assoc, Bool.and_comm]
    · simp [h]

/-- A bit of the set masks, or of the clear masks, of a cycle. -/
theorem getLsbD_aliasMask (l : List CstAccess) (k : Nat) {b : Nat} (hb : b < 64) :
    (aliasMask l k).getLsbD b = l.any (fun x => decide (x.kind = k) && bit x.mask (b / 8) && x.data.getLsbD b) := by
  rw [aliasMask, getLsbD_foldl_aliasMask k hb]
  simp

/-! ### The merge -/

/-- A bit that plain writes cover. -/
theorem getLsbD_cstMerge_of_highest {l : List CstAccess} {b : Nat} (hb : b < 64) (old : DWord) {x : CstAccess} (hx : x ∈ l)
    (hm : x.master < 21) (hk : x.kind = 0) (hc : bit x.mask (b / 8) = true)
    (htop : ∀ y, y ∈ l → y.kind = 0 → bit y.mask (b / 8) = true → y.master < x.master ∨ y = x) :
    (cstMerge old l).getLsbD b = x.data.getLsbD b :=
  getLsbD_mergePlain_of_highest hb _ hx hk hc htop hm

/-- A bit that no plain write covers. -/
theorem getLsbD_cstMerge_of_uncovered {l : List CstAccess} {b : Nat} (hb : b < 64) (old : DWord)
    (h : ∀ x, x ∈ l → x.kind = 0 → bit x.mask (b / 8) = false) :
    (cstMerge old l).getLsbD b =
      ((old.getLsbD b || l.any (fun x => decide (x.kind = 1) && bit x.mask (b / 8) && x.data.getLsbD b)) &&
        !l.any (fun x => decide (x.kind = 2) && bit x.mask (b / 8) && x.data.getLsbD b)) := by
  rw [cstMerge, getLsbD_mergePlain_of_uncovered hb _ fun x hx hk _ => h x hx hk, ← getLsbD_aliasMask l 1 hb,
    ← getLsbD_aliasMask l 2 hb]
  simp [hb]

@[simp] theorem cstMerge_nil (old : DWord) : cstMerge old [] = old :=
  BitVec.eq_of_getLsbD_eq fun b hb => by rw [getLsbD_cstMerge_of_uncovered hb _ (by simp)]; simp

/-- The masks of a cycle's aliases do not depend on the order of its accesses. -/
theorem aliasMask_perm {l g : List CstAccess} (h : g.Perm l) (k : Nat) : aliasMask g k = aliasMask l k := by
  refine h.foldl_eq' (fun x _ y _ v => ?_) 0
  by_cases hx : x.kind = k <;> by_cases hy : y.kind = k <;> simp only [hx, hy, if_true, if_false]
  rw [BitVec.or_assoc, BitVec.or_assoc, BitVec.or_comm (x.data &&& _)]

/-- Nor do its plain writes, where each is of a master of its own. -/
theorem mergePlain_perm {l g : List CstAccess} (h : g.Perm l) (hd : (g.map CstAccess.master).Nodup) (m : Nat) (v : DWord) :
    mergePlain g m v = mergePlain l m v := by
  induction m with
  | zero => rfl
  | succ m ih =>
    rw [mergePlain, mergePlain, ih]
    refine h.foldl_eq' (fun x hx y hy v => ?_) _
    by_cases hxm : x.kind = 0 ∧ x.master = m
    · by_cases hym : y.kind = 0 ∧ y.master = m
      · rw [List.inj_on_of_nodup_map hd hx hy (hxm.2.trans hym.2.symm)]
      · simp only [if_pos hxm, if_neg hym]
    · simp only [if_neg hxm]

/-- The merge of accesses of different masters does not depend on the order in which a bank grants them. -/
theorem cstMerge_perm {l g : List CstAccess} (h : g.Perm l) (hd : (g.map CstAccess.master).Nodup) (old : DWord) :
    cstMerge old g = cstMerge old l := by
  rw [cstMerge, cstMerge, aliasMask_perm h, aliasMask_perm h, mergePlain_perm h hd]

end Sys2Proof.Machine
end

section
/-! Arbitration (R327): what a bank grants, and the cycle of a bank that finds nothing waiting. -/

namespace Sys2Proof.Machine

/-! ### What a bank grants -/

theorem Chip.mem_cstOrder {c : Chip} {bank m : Nat} : m ∈ c.cstOrder bank ↔ m < 20 := by
  simp only [Chip.cstOrder, List.mem_map, List.mem_range]
  exact ⟨fun ⟨i, _, hi⟩ => by omega, fun hm => ⟨(m + 20 - cnt0 c.cstBus.turn bank % 20) % 20, by omega, by omega⟩⟩

/-- Each master has one turn in a round. -/
theorem Chip.nodup_cstOrder (c : Chip) (bank : Nat) : (c.cstOrder bank).Nodup :=
  List.nodup_range.map_on fun i hi j hj h => by
    rw [List.mem_range] at hi hj
    omega

/-- The oldest access of a master at a bank waits there, and is that master's. -/
theorem Chip.cstFirst_eq_some {c : Chip} {bank m : Nat} {x : CstAccess} (h : c.cstFirst bank m = some x) :
    (bank, x) ∈ c.cstBus.wait ∧ x.master = m := by
  obtain ⟨⟨b, y⟩, hfind, rfl⟩ := Option.map_eq_some_iff.1 h
  have hwho := List.find?_some hfind
  simp only [Bool.and_eq_true, decide_eq_true_eq] at hwho
  obtain ⟨rfl, hm⟩ := hwho
  exact ⟨List.mem_of_find?_eq_some hfind, hm⟩

/-- The masters' oldest accesses at a bank, in the order of their turns, are of masters apart. -/
theorem Chip.nodup_master_filterMap_cstFirst (c : Chip) (bank : Nat) :
    (((c.cstOrder bank).filterMap (c.cstFirst bank)).map CstAccess.master).Nodup := by
  have hown : ∀ m n, n ∈ (c.cstFirst bank m).map CstAccess.master → n = m := fun m n h => by
    obtain ⟨x, hx, rfl⟩ := Option.map_eq_some_iff.1 h
    exact (Chip.cstFirst_eq_some hx).2
  rw [List.map_filterMap]
  exact (c.nodup_cstOrder bank).filterMap fun m m' n hm hm' => (hown m n hm).symm.trans (hown m' n hm')

theorem Chip.length_cstGrant_le (c : Chip) (bank : Nat) : (c.cstGrant bank).length ≤ 2 := List.length_take_le _ _

/-- The accesses that a bank grants in a cycle are of different masters. -/
theorem Chip.nodup_master_cstGrant (c : Chip) (bank : Nat) : ((c.cstGrant bank).map CstAccess.master).Nodup :=
  (c.nodup_master_filterMap_cstFirst bank).sublist ((List.take_sublist _ _).map _)

theorem Chip.waits_of_mem_cstGrant {c : Chip} {bank : Nat} {x : CstAccess} (h : x ∈ c.cstGrant bank) : (bank, x) ∈ c.cstBus.wait := by
  obtain ⟨m, -, hm⟩ := List.mem_filterMap.1 (List.mem_of_mem_take h)
  exact (Chip.cstFirst_eq_some hm).1

/-! ### A bank that finds nothing waiting -/

/-- Accesses that a bank with nothing waiting performs in its next cycle: they are at most two, of different masters, and the environment
flips no bit of the usable store with them. -/
structure Chip.CstFits (c : Chip) (bank : Nat) (l : List CstAccess) : Prop where
  idle : c.cstBus.wait = []
  bank : ∀ x, x ∈ l → c.cstBankOf x.word = bank
  calm : ∀ x, x ∈ l → x.upset = 0 ∨ x.word ≥ c.cstWords
  master : ∀ x, x ∈ l → x.master < 20
  apart : (l.map CstAccess.master).Nodup
  two : l.length ≤ 2

/-- The engine with other state at its banks. -/
def Chip.withBus (c : Chip) (b : CstBus) : Chip := { c with cstBus := b }

theorem Chip.reg_withBus (c : Chip) (b : CstBus) (a : Nat) : (c.withBus b).reg a = c.reg a := Chip.reg_congr rfl a
theorem Chip.withBus_cst (c : Chip) (b : CstBus) : (c.withBus b).cst = c.cst := rfl
theorem Chip.withBus_mc (c : Chip) (b : CstBus) : (c.withBus b).mc = c.mc := rfl
theorem Chip.withBus_fatal (c : Chip) (b : CstBus) : (c.withBus b).fatal = c.fatal := rfl
theorem Chip.withBus_resetReq (c : Chip) (b : CstBus) : (c.withBus b).resetReq = c.resetReq := rfl
theorem Chip.withBus_cstWords (c : Chip) (b : CstBus) : (c.withBus b).cstWords = c.cstWords := rfl

/-- An issue into an idle bank puts the accesses in its queue and does nothing else. -/
theorem Chip.CstFits.cstIssue {c : Chip} {bank : Nat} {l : List CstAccess} (h : c.CstFits bank l) :
    c.cstIssue bank l = c.withBus { c.cstBus with wait := l.map (fun x => (bank, x)) } := by
  have hmine : l.filter (fun x => decide (c.cstBankOf x.word = bank)) = l :=
    List.filter_eq_self.2 fun x hx => decide_eq_true (h.bank x hx)
  have hcalm : ∀ g : List CstAccess, (∀ x, x ∈ g → x ∈ l) →
      g.foldl (fun c x => if x.upset = 0 ∨ x.word ≥ c.cstWords then c else c.cstUpset (c.cstPhys x.word) x.upset) c = c := fun g => by
    induction g with
    | nil => exact fun _ => rfl
    | cons x g ih =>
      intro hg
      obtain ⟨hx, hg⟩ := List.forall_mem_cons.1 hg
      rw [List.foldl_cons, if_pos (h.calm x hx), ih hg]
  simp only [Chip.cstIssue, hmine, hcalm l fun _ hx => hx, h.idle, List.nil_append, Chip.withBus]

/-- A bank at which only `l` waits grants all of it, in the order of the masters' turns. -/
theorem Chip.cstGrant_perm {c : Chip} {bank : Nat} {l : List CstAccess} (hw : c.cstBus.wait = l.map (fun x => (bank, x)))
    (hm : ∀ x, x ∈ l → x.master < 20) (hd : (l.map CstAccess.master).Nodup) (h2 : l.length ≤ 2) : (c.cstGrant bank).Perm l := by
  have hfirst : ∀ x, x ∈ l → c.cstFirst bank x.master = some x := fun x hx => by
    have hsome : (c.cstFirst bank x.master).isSome := by
      rw [Chip.cstFirst, Option.isSome_map, List.find?_isSome]
      exact ⟨(bank, x), hw ▸ List.mem_map_of_mem hx, by simp⟩
    obtain ⟨y, hy⟩ := Option.isSome_iff_exists.1 hsome
    obtain ⟨hyw, hym⟩ := Chip.cstFirst_eq_some hy
    have hyl : y ∈ l := by simpa [hw] using hyw
    rw [hy, List.inj_on_of_nodup_map hd hyl hx hym]
  have hall : ((c.cstOrder bank).filterMap (c.cstFirst bank)).Perm l := by
    refine (List.perm_ext_iff_of_nodup (c.nodup_master_filterMap_cstFirst bank).of_map hd.of_map).2 fun x =>
      ⟨fun hx => ?_, fun hx => ?_⟩
    · obtain ⟨m, -, hxm⟩ := List.mem_filterMap.1 hx
      simpa [hw] using (Chip.cstFirst_eq_some hxm).1
    · exact List.mem_filterMap.2 ⟨x.master, Chip.mem_cstOrder.2 (hm x hx), hfirst x hx⟩
  rwa [Chip.cstGrant, List.take_of_length_le (hall.length_eq.trans_le h2)]

/-- What was granted waits no longer. -/
theorem cstTake_of_perm {g l : List CstAccess} (h : g.Perm l) (bank : Nat) : cstTake (l.map (fun x => (bank, x))) bank g = [] := by
  have hself : ∀ w : List (Nat × CstAccess), w.diff w = [] := fun w => by
    induction w with
    | nil => rfl
    | cons x w ih => rw [List.diff_cons, List.erase_cons_head, ih]
  rw [cstTake, ← List.foldl_map (f := fun x => (bank, x)) (g := List.erase), ← List.diff_eq_foldl, List.Perm.diff_left _ (h.map _),
    hself]

/-- A cycle of a bank takes what it grants out of its queue, passes the turn on, and performs it. -/
theorem Chip.cstCycle_eq (c : Chip) (bank : Nat) : ∃ t, c.cstCycle bank =
    (c.withBus { c.cstBus with wait := cstTake c.cstBus.wait bank (c.cstGrant bank), turn := t }).cstBank (c.cstGrant bank) := ⟨_, rfl⟩

/-- The cycle of a bank to which accesses come that it can perform at once: it performs them, in the order of the masters' turns, and
nothing waits afterwards. -/
theorem Chip.CstFits.cstCycle {c : Chip} {bank : Nat} {l : List CstAccess} (h : c.CstFits bank l) :
    ∃ b g, b.wait = [] ∧ g.Perm l ∧ (c.cstIssue bank l).cstCycle bank = (c.withBus b).cstBank g := by
  have hg : ((c.cstIssue bank l).cstGrant bank).Perm l := by
    rw [h.cstIssue]; exact Chip.cstGrant_perm rfl h.master h.apart h.two
  obtain ⟨t, ht⟩ := (c.cstIssue bank l).cstCycle_eq bank
  rw [h.cstIssue] at hg ht ⊢
  exact ⟨_, _, cstTake_of_perm hg bank, hg, ht⟩

/-! ### The command -/

theorem Chip.portsOn_of_quiet {c : Chip} (h : c.quiet = true) : c.portsOn = true := by
  obtain ⟨-, -, -, -, -, hl, -, -, -⟩ := (Chip.quiet_iff c).1 h
  simp [Chip.portsOn, hl]

theorem wf_cstBankAccess_iff {bank : Nat} {l : List CstAccess} : (Instr.cstBankAccess bank l).wf = true ↔
    bank < 64 ∧ ∀ x, x ∈ l → x.master < 20 ∧ x.word < 4194304 ∧ x.kind < 4 ∧ x.mask < 256 ∧ x.upset < 2 ^ 72 := by
  simp [Instr.wf, and_assoc]

/-- CST_BANK_ACCESS at work, with accesses that the bank performs at once, completes with what the bank's cycle leaves. -/
theorem completes_cstBankAccess {s : State} {bank : Nat} {l : List CstAccess} {P : Chip → Prop} (hs : s.chip.atWork = true)
    (hw : (Instr.cstBankAccess bank l).wf = true) (hfit : s.chip.CstFits bank l)
    (hP : ∀ b g, b.wait = [] → g.Perm l → ((s.chip.withBus b).cstBank g).fatal = s.chip.fatal ∧
      ((s.chip.withBus b).cstBank g).resetReq = s.chip.resetReq ∧ P ((s.chip.withBus b).cstBank g)) :
    Completes (.cstBankAccess bank l) s P := by
  have hq := Chip.quiet_of_atWork hs
  obtain ⟨-, hfatal, hreset, -⟩ := (Chip.quiet_iff _).1 hq
  obtain ⟨b, g, hb, hg, hcycle⟩ := hfit.cstCycle
  have hdo : doCstBankAccess bank l s.chip = (s.chip.withBus b).cstBank g := by
    rw [doCstBankAccess, if_pos (Chip.portsOn_of_quiet hq), hcycle]
  obtain ⟨hf, hr, hp⟩ := hP b g hb hg
  exact .of_quiet (f := doCstBankAccess bank l) rfl hq hw (by rw [hdo, hf, hfatal]) (by rw [hdo, hr, hreset]) (hdo ▸ hp)

end Sys2Proof.Machine
end

section
/-! A bank's accesses to one word in one cycle (R332, R333): the writes merge, and a read returns the word after the merge. -/

namespace Sys2Proof.Machine

/-! ### The cycle of one word -/

/-- The 32-bit halves of a word, as a read returns them. -/
def dwordHalves (v : DWord) : List Word := [BitVec.ofNat 32 v.toNat, BitVec.ofNat 32 (v.toNat / 2 ^ 32)]

/-- An access of a bank's cycle after the merge: a read returns the word, a write does nothing further. -/
def Chip.cstReadStep (c : Chip) (x : CstAccess) : Chip :=
  if x.kind < 3 then c
  else
    let r := c.cstRead x.master x.word
    let halves : List Word :=
      if r.2.2 = 2 then (if x.master = 19 then [BitVec.allOnes 32, BitVec.allOnes 32] else [r.1.freeNow, r.1.used.freeNow])
      else dwordHalves r.2.1
    { r.1.used.used with rblock := r.1.rblock ++ halves }

/-- The engine with other data returned, and its free values counted on. -/
def Chip.withData (c : Chip) (n : Nat) (l : List Word) : Chip := { c with freeCtr := n, rblock := l }

/-- No data returned yet. -/
def Chip.noData (c : Chip) : Chip := c.withData c.freeCtr []

theorem Chip.withData_cst (c : Chip) (n : Nat) (l : List Word) : (c.withData n l).cst = c.cst := rfl
theorem Chip.withData_mc (c : Chip) (n : Nat) (l : List Word) : (c.withData n l).mc = c.mc := rfl
theorem Chip.withData_rblock (c : Chip) (n : Nat) (l : List Word) : (c.withData n l).rblock = l := rfl
theorem Chip.withData_fatal (c : Chip) (n : Nat) (l : List Word) : (c.withData n l).fatal = c.fatal := rfl
theorem Chip.withData_resetReq (c : Chip) (n : Nat) (l : List Word) : (c.withData n l).resetReq = c.resetReq := rfl
theorem Chip.reg_withData (c : Chip) (n : Nat) (l : List Word) (a : Nat) : (c.withData n l).reg a = c.reg a := Chip.reg_congr rfl a
theorem Chip.rn_withData (c : Chip) (n : Nat) (l : List Word) (a : Nat) : (c.withData n l).rn a = c.rn a :=
  Chip.rn_congr (c.reg_withData n l a)
theorem Chip.fld_withData (c : Chip) (n : Nat) (l : List Word) (a : Nat) (f : Fld) : (c.withData n l).fld a f = c.fld a f := by
  rw [Chip.fld, Chip.rn_withData, Chip.fld]
theorem Chip.withData_self (c : Chip) : c.withData c.freeCtr c.rblock = c := rfl

theorem Chip.cstReadStep_of_write {x : CstAccess} (h : x.kind < 3) (c : Chip) : c.cstReadStep x = c := if_pos h

/-- A read that is not uncorrectable returns the halves of what it finds. -/
theorem Chip.cstReadStep_of_read {c d : Chip} {x : CstAccess} {v : DWord} {o : Nat} (h : ¬x.kind < 3)
    (hr : c.cstRead x.master x.word = (d, v, o)) (ho : o ≠ 2) :
    c.cstReadStep x = d.withData (d.freeCtr + 1 + 1) (d.rblock ++ dwordHalves v) := by
  rw [Chip.cstReadStep, if_neg h, hr]
  simp only [if_neg ho]
  rfl

/-- A list of words that are all the same has that one distinct word. -/
theorem distinct_map_word {l : List CstAccess} {w : Nat} (h : ∀ x, x ∈ l → x.word = w) (hl : l ≠ []) :
    distinct (l.map CstAccess.word) = [w] := by
  induction l with
  | nil => exact absurd rfl hl
  | cons x l ih =>
    obtain ⟨rfl, hrest⟩ := List.forall_mem_cons.1 h
    cases l with
    | nil => rfl
    | cons y l =>
      have htail := ih hrest (List.cons_ne_nil y l)
      rw [distinct] at htail ⊢
      rw [List.map_cons, List.foldr_cons, htail, if_pos List.mem_cons_self]

/-- A bank's cycle over one word: the writes of the cycle take effect together, and then its reads. -/
theorem Chip.cstBank_of_word (c : Chip) {l : List CstAccess} {w : Nat} (h : ∀ x, x ∈ l → x.word = w) (hl : l ≠ []) :
    c.cstBank l = l.foldl Chip.cstReadStep (c.cstWriteMerged w l).noData := by
  have hall : l.filter (fun x => decide (x.word = w)) = l := List.filter_eq_self.2 fun x hx => decide_eq_true (h x hx)
  simp only [Chip.cstBank, distinct_map_word h hl, List.foldl_cons, List.foldl_nil, hall]
  rfl

/-! ### A sound word -/

/-- The plain, set and clear accesses of a cycle. -/
def cstWrites (l : List CstAccess) : List CstAccess := l.filter (fun x => decide (x.kind < 3))

/-- The reads of a cycle. -/
def cstReads (l : List CstAccess) : List CstAccess := l.filter (fun x => decide (x.kind = 3))

/-- The writes of a cycle to a sound word leave the merge there, sound, and reach nothing else. -/
theorem Chip.cstWriteMerged_of_sound {c : Chip} {w : Nat} (hs : c.cstSound w) (hraw : c.cstRawOn = false) (l : List CstAccess) :
    ∃ m, c.cstWriteMerged w l = { c with cst := m } ∧
      (∀ j, Chip.cstCell { c with cst := m } j =
        if j = c.cstPhys w then cstMerge (c.cstCell (c.cstPhys w)) (cstWrites l) else c.cstCell j) ∧
      (∀ j, Chip.cstBad { c with cst := m } j = c.cstBad j) ∧ (∀ j, Chip.cstRaw { c with cst := m } j = c.cstRaw j) := by
  obtain ⟨hbad, hrawk, hw⟩ := hs
  by_cases hws : cstWrites l = []
  · refine ⟨c.cst, ?_, fun j => ?_, fun _ => rfl, fun _ => rfl⟩
    · rw [cstWrites] at hws
      simp [Chip.cstWriteMerged, hws]
    · split
      · subst j; rw [hws, cstMerge_nil]
      · rfl
  · have hset : c.cstWriteMerged w l = c.setCstCell (c.cstPhys w) (cstMerge (c.cstCell (c.cstPhys w)) (cstWrites l)) 0 := by
      rw [cstWrites] at hws
      simp [Chip.cstWriteMerged, hws, Nat.not_le.2 hw, hraw, Chip.cstSee_of_sound hbad hrawk, Chip.cstRmwReport, cstWrites]
    exact ⟨_, hset, c.cstCell_setCstCell _ _ 0 false,
      fun j => (c.cstBad_setCstCell _ _ 0 false j).trans (ite_eq_right_iff.2 fun e => e ▸ hbad.symm),
      fun j => (c.cstRaw_setCstCell _ _ 0 false j).trans (ite_eq_right_iff.2 fun e => e ▸ hrawk.symm)⟩

/-- A read of a sound word of a store that is not under the test coding returns it and reports nothing. -/
theorem Chip.cstRead_of_sound_of_not_raw {c : Chip} {w : Nat} (hs : c.cstSound w) (hraw : c.cstRawOn = false) (m : Nat) :
    c.cstRead m w = (c, c.cstCell (c.cstPhys w), 0) := by
  obtain ⟨hbad, hrawk, hw⟩ := hs
  simp [Chip.cstRead, Nat.not_le.2 hw, hraw, Chip.cstSee_of_sound hbad hrawk]

/-- The reads of a cycle from a sound word each return it. -/
theorem Chip.foldl_cstReadStep_of_sound {w : Nat} : ∀ {l : List CstAccess} {c : Chip}, c.cstSound w → c.cstRawOn = false →
    (∀ x, x ∈ l → x.word = w ∧ x.kind < 4) → ∃ n, l.foldl Chip.cstReadStep c =
      c.withData n (c.rblock ++ (cstReads l).flatMap (fun _ => dwordHalves (c.cstCell (c.cstPhys w))))
  | [], c, _, _, _ => ⟨c.freeCtr, by simp [Chip.withData, cstReads]⟩
  | x :: l, c, hs, hraw, h => by
    obtain ⟨⟨hxw, hxk⟩, hl⟩ := List.forall_mem_cons.1 h
    by_cases hread : x.kind = 3
    · have hstep : c.cstReadStep x = c.withData (c.freeCtr + 1 + 1) (c.rblock ++ dwordHalves (c.cstCell (c.cstPhys w))) :=
        Chip.cstReadStep_of_read (by omega)
          (by rw [hxw]; exact Chip.cstRead_of_sound_of_not_raw hs hraw x.master) (by decide)
      obtain ⟨n, hn⟩ := Chip.foldl_cstReadStep_of_sound (l := l) (c := c.cstReadStep x) (hstep ▸ hs) (hstep ▸ hraw) hl
      have hreads : cstReads (x :: l) = x :: cstReads l := List.filter_cons_of_pos (by simp [hread])
      refine ⟨n, ?_⟩
      rw [List.foldl_cons, hn, hstep, hreads, List.flatMap_cons, ← List.append_assoc]
      rfl
    · have hstep : c.cstReadStep x = c := Chip.cstReadStep_of_write (by omega) c
      have hreads : cstReads (x :: l) = cstReads l := List.filter_cons_of_neg (by simp [hread])
      rw [List.foldl_cons, hstep, hreads]
      exact Chip.foldl_cstReadStep_of_sound hs hraw hl

/-- A bank's cycle over one sound word: the word at the merge of the writes, sound as every other, and the reads' data that word. -/
theorem Chip.cstBank_of_sound {c : Chip} {w : Nat} (hs : c.cstSound w) (hraw : c.cstRawOn = false) {l : List CstAccess} (hl : l ≠ [])
    (h : ∀ x, x ∈ l → x.word = w ∧ x.kind < 4) :
    let v := cstMerge (c.cstCell (c.cstPhys w)) (cstWrites l)
    ∃ m n, c.cstBank l = Chip.withData { c with cst := m } n ((cstReads l).flatMap (fun _ => dwordHalves v)) ∧
      (∀ j, Chip.cstCell { c with cst := m } j = if j = c.cstPhys w then v else c.cstCell j) ∧
      (∀ j, Chip.cstBad { c with cst := m } j = c.cstBad j) := by
  intro v
  obtain ⟨m, hwrite, hcell, hbad, hrawk⟩ := Chip.cstWriteMerged_of_sound hs hraw l
  have hsound : (Chip.noData { c with cst := m }).cstSound w := by
    obtain ⟨hb, hr, hw⟩ := hs
    exact ⟨(hbad _).trans hb, (hrawk _).trans hr, hw⟩
  obtain ⟨n, hreads⟩ := Chip.foldl_cstReadStep_of_sound (l := l) hsound hraw h
  have hv : (Chip.noData { c with cst := m }).cstCell ((Chip.noData { c with cst := m }).cstPhys w) = v :=
    (hcell _).trans (if_pos rfl)
  refine ⟨m, n, ?_, hcell, hbad⟩
  rw [Chip.cstBank_of_word c (fun x hx => (h x hx).1) hl, hwrite, hreads, hv]
  rfl

/-- The data that a cycle's reads of one word return do not depend on the order of its accesses. -/
theorem flatMap_cstReads_perm {l g : List CstAccess} (h : g.Perm l) (d : List Word) :
    (cstReads g).flatMap (fun _ => d) = (cstReads l).flatMap (fun _ => d) := by
  have hlen : (cstReads g).length = (cstReads l).length := (h.filter _).length_eq
  rw [List.flatMap_def, List.flatMap_def, List.map_const', List.map_const', hlen]

/-! ### Two masters at one word -/

/-- Accesses of two masters to one sound word that find nothing waiting, performed in one cycle. -/
theorem completes_cstBankAccess_pair {s : State} {x y : CstAccess} (hs : s.chip.atWork = true) (hy : y.word = x.word)
    (hm : x.master ≠ y.master) (hw : (Instr.cstBankAccess (s.chip.cstBankOf x.word) [x, y]).wf = true) (hxu : x.upset = 0)
    (hyu : y.upset = 0) (hsound : s.chip.cstSound x.word) (hraw : s.chip.cstRawOn = false) (hidle : s.chip.cstBus.wait = []) :
    let k := s.chip.cstPhys x.word
    let v := cstMerge (s.chip.cstCell k) (cstWrites [x, y])
    Completes (.cstBankAccess (s.chip.cstBankOf x.word) [x, y]) s (fun c => c.cstCell k = v ∧
      (∀ j, j ≠ k → c.cstCell j = s.chip.cstCell j) ∧ (∀ j, c.cstBad j = s.chip.cstBad j) ∧ c.regs = s.chip.regs ∧ c.mc = s.chip.mc ∧
      c.cstBus.wait = [] ∧ c.rblock = (cstReads [x, y]).flatMap (fun _ => dwordHalves v)) := by
  intro k v
  obtain ⟨-, hops⟩ := wf_cstBankAccess_iff.1 hw
  have hword : ∀ z, z ∈ [x, y] → z.word = x.word := by simp [hy]
  have hfit : s.chip.CstFits (s.chip.cstBankOf x.word) [x, y] :=
    { idle := hidle
      bank := fun z hz => by rw [hword z hz]
      calm := by simp [hxu, hyu]
      master := fun z hz => (hops z hz).1
      apart := by simp [hm]
      two := by simp }
  refine completes_cstBankAccess hs hw hfit fun b g hb hg => ?_
  have hne : g ≠ [] := fun e => by simpa [e] using hg.length_eq
  obtain ⟨m, n, hbank, hcell, hbad⟩ := Chip.cstBank_of_sound (c := s.chip.withBus b) hsound hraw hne fun z hz =>
    ⟨hword z (hg.mem_iff.1 hz), (hops z (hg.mem_iff.1 hz)).2.2.1⟩
  have hapart : ((cstWrites g).map CstAccess.master).Nodup :=
    ((hg.map _).nodup_iff.2 hfit.apart).sublist (List.filter_sublist.map _)
  have hv : cstMerge (s.chip.cstCell k) (cstWrites g) = v := cstMerge_perm (hg.filter _) hapart _
  rw [hbank]
  refine ⟨rfl, rfl, ((hcell k).trans (if_pos rfl)).trans hv, fun j hj => (hcell j).trans (if_neg hj), hbad, rfl, rfl, hb, ?_⟩
  exact (flatMap_cstReads_perm hg _).trans (by rw [← hv]; rfl)

/-- Settles O48: the merge bit by bit, two masters' accesses in one cycle, and what a bank grants. -/
theorem bankMerge : Obligations.BankMerge := by
  refine ⟨fun old l b hb hm => ⟨fun x hx hk hc htop => getLsbD_cstMerge_of_highest hb old hx (hm x hx) hk hc htop,
    getLsbD_cstMerge_of_uncovered hb old⟩, ?_, fun c b => ⟨c.length_cstGrant_le b, c.nodup_master_cstGrant b,
    fun _ => Chip.waits_of_mem_cstGrant⟩⟩
  intro s x y hs hx hy hm hw hxu hyu hbad hrawk hraw hidle
  exact completes_cstBankAccess_pair hs hy hm hw hxu hyu ⟨hbad, hrawk, hx⟩ hraw hidle

end Sys2Proof.Machine
end

section
/-! An access beyond the usable store (R325): the count, the latch and the event, and nothing else. -/

namespace Sys2Proof.Machine

/-! ### What a dropped access leaves behind -/

/-- Raising an event sets its status bit, whether or not a record follows. -/
theorem Chip.bit_rn_raise (c : Chip) {n b : Nat} (hn : 0 < n) (hn64 : n < 64) (hb : b < 24) :
    bit ((c.raise (n, b)).rn (R.EVT_STAT n)) b = true := by
  have hset : bit ((c.setEvent n b).rn (R.EVT_STAT n)) b = true := by rw [c.bit_rn_setEvent n hb hb, if_pos rfl]
  unfold Chip.raise
  simp only
  split
  · rwa [Chip.rn_congr (Chip.reg_record_ne _ _ _ _ _ ?_ ?_ ?_)] <;> simp only [R.EVT_STAT, R.SCV_REFUSED, R.SCV_LOST] <;> omega
  · exact hset

theorem Chip.reg_cstDropped_dropCnt (c : Chip) (m a : Nat) (p : Bool) :
    (c.cstDropped m a p).reg R.CST_DROP_CNT = c.reg R.CST_DROP_CNT + 1 := by
  have hlast : R.CST_DROP_CNT ≠ R.CST_DROP_LAST := by decide
  rw [Chip.cstDropped, Chip.reg_raise_ne _ _ (by decide), Chip.setFlag, Chip.reg_setFld_ne _ _ _ hlast,
    Chip.reg_setFld_ne _ _ _ hlast, Chip.reg_setFld_ne _ _ _ hlast, Chip.reg_addCnt_same]
  rfl

/-- CST_DROP_LAST names the word, cut to the field. -/
theorem Chip.fld_cstDropped_addr (c : Chip) (m a : Nat) (p : Bool) :
    (c.cstDropped m a p).fld R.CST_DROP_LAST F.CST_DROP_LAST_ADDR = a % 4194304 := by
  rw [Chip.cstDropped, Chip.fld, Chip.rn_congr (Chip.reg_raise_ne _ _ (by decide)), ← Chip.fld, Chip.setFlag,
    Chip.fld_setFld_apart _ _ _ _ _ (by decide) (.inl (by decide)), Chip.fld_setFld_apart _ _ _ _ _ (by decide) (.inl (by decide)),
    Chip.fld_setFld _ _ _ _ (by decide)]
  rfl

/-- CST_DROP_LAST names the master, cut to the field. -/
theorem Chip.fld_cstDropped_master (c : Chip) (m a : Nat) (p : Bool) :
    (c.cstDropped m a p).fld R.CST_DROP_LAST F.CST_DROP_LAST_MASTER = m % 32 := by
  rw [Chip.cstDropped, Chip.fld, Chip.rn_congr (Chip.reg_raise_ne _ _ (by decide)), ← Chip.fld, Chip.setFlag,
    Chip.fld_setFld_apart _ _ _ _ _ (by decide) (.inl (by decide)), Chip.fld_setFld _ _ _ _ (by decide)]
  rfl

theorem Chip.bit_rn_cstDropped (c : Chip) (m a : Nat) (p : Bool) : bit ((c.cstDropped m a p).rn (R.EVT_STAT 5)) 2 = true :=
  Chip.bit_rn_raise _ (by decide) (by decide) (by decide)

/-! ### The access -/

/-- The writes of a cycle beyond the usable store are each counted, and write nothing. -/
theorem Chip.cstWriteMerged_of_beyond {c : Chip} {a : Nat} (h : c.cstWords ≤ a) (l : List CstAccess) :
    c.cstWriteMerged a l = (cstWrites l).foldl (fun c x => c.cstDropped x.master a false) c := by
  unfold Chip.cstWriteMerged
  by_cases hws : (cstWrites l).isEmpty = true
  · rw [List.isEmpty_iff.1 hws]; exact if_pos hws
  · exact (if_neg hws).trans (if_pos h)

/-- A read beyond the usable store returns 0 and is counted. -/
theorem Chip.cstRead_of_beyond {c : Chip} {a : Nat} (h : c.cstWords ≤ a) (m : Nat) : c.cstRead m a = (c.cstDropped m a false, 0, 1) :=
  if_pos h

theorem Chip.cstDropped_mc (c : Chip) (m a : Nat) (p : Bool) : (c.cstDropped m a p).mc = c.mc :=
  (Chip.EventsOnly.cstDropped c m a p).mc
theorem Chip.cstDropped_fatal (c : Chip) (m a : Nat) (p : Bool) : (c.cstDropped m a p).fatal = c.fatal :=
  (Chip.EventsOnly.cstDropped c m a p).fatal
theorem Chip.cstDropped_resetReq (c : Chip) (m a : Nat) (p : Bool) : (c.cstDropped m a p).resetReq = c.resetReq :=
  (Chip.EventsOnly.cstDropped c m a p).resetReq

theorem Chip.cstDropped_rblock (c : Chip) (m a : Nat) (p : Bool) : (c.cstDropped m a p).rblock = c.rblock := by
  obtain ⟨r, v, q, h⟩ := Chip.EventsOnly.cstDropped c m a p
  rw [h]

/-- A bank's cycle with one access, beyond the usable store: the access is counted, whatever its kind, and a read returns 0. -/
theorem Chip.cstBank_of_beyond {c : Chip} {x : CstAccess} (h : c.cstWords ≤ x.word) :
    ∃ r n, c.cstBank [x] =
      ((c.withData c.freeCtr r).cstDropped x.master x.word false).withData n (if x.kind < 3 then [] else [0, 0]) := by
  rw [Chip.cstBank_of_word c (w := x.word) (by simp) (List.cons_ne_nil _ _), Chip.cstWriteMerged_of_beyond h, List.foldl_cons,
    List.foldl_nil]
  by_cases hk : x.kind < 3
  · have hws : cstWrites [x] = [x] := List.filter_cons_of_pos (decide_eq_true hk)
    rw [hws, List.foldl_cons, List.foldl_nil, Chip.cstReadStep_of_write hk, if_pos hk]
    exact ⟨c.rblock, _, by rw [Chip.withData_self, Chip.noData]⟩
  · have hws : cstWrites [x] = [] := List.filter_cons_of_neg (by simpa using hk)
    have hread : c.noData.cstRead x.master x.word = (c.noData.cstDropped x.master x.word false, 0, 1) :=
      Chip.cstRead_of_beyond (c := c.noData) h _
    have hdata : (c.noData.cstDropped x.master x.word false).rblock ++ dwordHalves 0 = [0, 0] := by
      rw [Chip.cstDropped_rblock]; rfl
    rw [hws, List.foldl_nil, Chip.cstReadStep_of_read hk hread (by decide), hdata, if_neg hk]
    exact ⟨[], _, by rw [Chip.noData]⟩

/-- Settles O49: the access is performed at once, the environment reaches no word with it, and it is counted, latched and reported. -/
theorem beyondTheStore : Obligations.BeyondTheStore := by
  intro s x hs hw hbeyond hidle
  obtain ⟨-, hops⟩ := wf_cstBankAccess_iff.1 hw
  obtain ⟨hmaster, hword, -⟩ := hops x List.mem_cons_self
  have hfit : s.chip.CstFits (s.chip.cstBankOf x.word) [x] :=
    { idle := hidle
      bank := by simp
      calm := by simp [hbeyond]
      master := by simp [hmaster]
      apart := by simp
      two := by simp }
  refine completes_cstBankAccess hs hw hfit fun b g hb hg => ?_
  obtain rfl := List.perm_singleton.1 hg
  obtain ⟨r, n, hbank⟩ := Chip.cstBank_of_beyond ((s.chip.withBus_cstWords b).trans_le hbeyond)
  rw [hbank]
  refine ⟨?_, ?_, ?_, ?_, Chip.withData_rblock _ _ _, ?_, ?_, ?_, ?_⟩
  · rw [Chip.withData_fatal, Chip.cstDropped_fatal, Chip.withData_fatal, Chip.withBus_fatal]
  · rw [Chip.withData_resetReq, Chip.cstDropped_resetReq, Chip.withData_resetReq, Chip.withBus_resetReq]
  · rw [Chip.withData_cst, Chip.cstDropped_cst, Chip.withData_cst, Chip.withBus_cst]
  · rw [Chip.withData_mc, Chip.cstDropped_mc, Chip.withData_mc, Chip.withBus_mc]
  · rw [Chip.reg_withData, Chip.reg_cstDropped_dropCnt, Chip.reg_withData, Chip.reg_withBus]
  · rw [Chip.fld_withData, Chip.fld_cstDropped_addr, Nat.mod_eq_of_lt hword]
  · rw [Chip.fld_withData, Chip.fld_cstDropped_master, Nat.mod_eq_of_lt (by omega)]
  · rw [Chip.rn_withData, Chip.bit_rn_cstDropped]

end Sys2Proof.Machine
end

section
/-! Status registers (R347, R348): what a read latches for its initiator, and what a clear request clears. -/

namespace Sys2Proof.Machine

/-! ### The registers -/

/-- The status registers' row of Table 20-1 holds an SQC field, and neither a command nor a guarded field. -/
theorem regRow_evtStat {n : Nat} (hn : n < 64) : ∃ r, regRow (R.EVT_STAT n) = some r ∧ r.sqc ≠ 0 ∧ r.cmd = 0 ∧ r.gd = 0 := by
  have hblock : R.EVT_STAT n / 0x10000 = 0x58 := by rw [R.EVT_STAT]; omega
  have hoff : R.EVT_STAT n % 0x10000 = 4 * n := by rw [R.EVT_STAT]; omega
  rw [regRow, hblock, hoff]
  exact ⟨_, List.find?_cons_of_pos (by simp [RegRow.hit, hn]), by decide, by decide, by decide⟩

theorem R.EVT_STAT_lt_mirror {n : Nat} (hn : n < 64) : R.EVT_STAT n < 0x800000 := by rw [R.EVT_STAT]; omega

/-- A status register's number from its offset. -/
theorem R.EVT_STAT_index (n : Nat) : (R.EVT_STAT n - R.EVT_STAT 0) / 4 = n := by rw [R.EVT_STAT, R.EVT_STAT]; omega

/-! ### The latch -/

/-- The occurrence count that an initiator's last read of a status register latched (R348). -/
def Chip.statLatch (c : Chip) (i : Init) (n : Nat) : Option Nat :=
  (c.acc.statC.find? (fun e => decide (e.1 = latchKey i (R.EVT_STAT n)))).map (fun e => e.2)

theorem Chip.mem_of_statLatch_eq_some {c : Chip} {i : Init} {n x : Nat} (h : c.statLatch i n = some x) :
    (latchKey i (R.EVT_STAT n), x) ∈ c.acc.statC := by
  obtain ⟨e, hfind, rfl⟩ := Option.map_eq_some_iff.1 h
  have hkey : e.1 = latchKey i (R.EVT_STAT n) := by simpa using List.find?_some hfind
  rw [← hkey]
  exact List.mem_of_find?_eq_some hfind

/-- Where all that is latched is one count, the latch holds it. -/
theorem Chip.statLatch_eq_some {c : Chip} {i : Init} {n x : Nat} (hmem : (latchKey i (R.EVT_STAT n), x) ∈ c.acc.statC)
    (hall : ∀ y, (latchKey i (R.EVT_STAT n), y) ∈ c.acc.statC → y = x) : c.statLatch i n = some x := by
  cases hlatch : c.statLatch i n with
  | none =>
    have hnot := List.find?_eq_none.1 (Option.map_eq_none_iff.1 hlatch) _ hmem
    simp at hnot
  | some y => rw [hall y (Chip.mem_of_statLatch_eq_some hlatch)]

/-! ### A clear request -/

theorem Chip.EventsOnly.sqcWrite (c : Chip) (i : Init) (n v : Nat) : c.EventsOnly (c.sqcWrite i n v) := by
  unfold Chip.sqcWrite
  dsimp only
  split
  · exact (Chip.EventsOnly.setN c _ _).trans ⟨_, _, _, rfl⟩
  · exact ⟨_, _, _, rfl⟩

/-- SEQ equals the count's low byte and the latched count is still the count: the masked bits clear. -/
theorem Chip.sqcWrite_regs_of_match {c : Chip} {i : Init} {n v : Nat} (hseq : v / 2 ^ 24 = cnt0 c.evt.cnt n % 256)
    (hlatch : c.statLatch i n = some (cnt0 c.evt.cnt n)) :
    (c.sqcWrite i n v).regs =
      (c.setN (R.EVT_STAT n) (c.rn (R.EVT_STAT n) - (c.rn (R.EVT_STAT n) &&& (v % 2 ^ 24)))).regs := by
  rw [Chip.statLatch] at hlatch
  simp only [Chip.sqcWrite, hseq, hlatch, decide_true, Bool.and_self, if_true]

/-- Otherwise no register changes. -/
theorem Chip.sqcWrite_regs_of_mismatch {c : Chip} {i : Init} {n v : Nat}
    (h : v / 2 ^ 24 ≠ cnt0 c.evt.cnt n % 256 ∨ c.statLatch i n ≠ some (cnt0 c.evt.cnt n)) :
    (c.sqcWrite i n v).regs = c.regs := by
  rw [Chip.statLatch] at h
  rcases h with hseq | hlatch
  · simp only [Chip.sqcWrite, decide_eq_false hseq, Bool.false_and, Bool.false_eq_true, if_false]
  · simp only [Chip.sqcWrite, decide_eq_false hlatch, Bool.and_false, Bool.false_eq_true, if_false]

/-! ### The commands -/

/-- At work a write of a status register is a clear request, and nothing else happens. -/
theorem Chip.busWrite_evtStat {c : Chip} (hc : c.atWork = true) (i : Init) {n : Nat} (hn : n < 64) (v : Word) :
    c.busWrite i (R.EVT_STAT n) v = c.writing.sqcWrite i n v.toNat := by
  obtain ⟨r, hrow, hsqc, hcmd, hgd⟩ := regRow_evtStat hn
  have hguard : isGuarded (R.EVT_STAT n) = false := by simp only [isGuarded, hrow, hgd]; rfl
  have hfields : c.writing.applyFields i (R.EVT_STAT n) v = c.writing.sqcWrite i n v.toNat := by
    simp only [Chip.applyFields, hrow, if_pos hsqc, R.EVT_STAT_index]
  rw [Chip.busWrite_of_atWork hc i v (R.EVT_STAT_lt_mirror hn) hguard, hfields]
  simp only [Chip.applyCmds, hrow, hcmd, Nat.and_zero, Chip.issue, if_true]

/-- At work a read of a status register latches its count and shows it. -/
theorem Chip.busRead_evtStat {c : Chip} (hc : c.atWork = true) (i : Init) {n : Nat} (hn : n < 64) :
    c.busRead i (R.EVT_STAT n) = { c.latchStat i n with rdata := c.view i (R.EVT_STAT n) } := by
  have hreach : (!c.mayRead i (R.EVT_STAT n) || decide (0x800000 ≤ R.EVT_STAT n)) = false := by
    rw [Chip.mayRead_of_atWork hc, decide_eq_false (Nat.not_le.2 (R.EVT_STAT_lt_mirror hn))]; rfl
  have hlow : R.EVT_STAT n ≠ R.SCV_WIN_DATA_L := by simp only [R.EVT_STAT, R.SCV_WIN_DATA_L]; omega
  have hhigh : R.EVT_STAT n ≠ R.SCV_WIN_DATA_H := by simp only [R.EVT_STAT, R.SCV_WIN_DATA_H]; omega
  have hstat : R.EVT_STAT 0 ≤ R.EVT_STAT n ∧ R.EVT_STAT n ≤ R.EVT_STAT 63 ∧ R.EVT_STAT n % 4 = 0 := by
    simp only [R.EVT_STAT]; omega
  rw [Chip.busRead, hreach, if_neg Bool.false_ne_true, if_neg hlow, if_neg hhigh, if_pos hstat, R.EVT_STAT_index]

/-- At work a clear request completes with what it makes of the engine. -/
theorem completes_statusClear {s : State} {i : Init} {n : Nat} {v : Word} {P : Chip → Prop} (hs : s.chip.atWork = true)
    (hi : i ≠ .sched) (hn : n < 64) (hP : P (s.chip.writing.sqcWrite i n v.toNat)) : Completes (.statusClear i n v) s P := by
  have hquiet := Chip.quiet_of_atWork hs
  obtain ⟨-, hfatal, hreset, -⟩ := (Chip.quiet_iff _).1 hquiet
  have hevents := Chip.EventsOnly.sqcWrite s.chip.writing i n v.toNat
  refine Completes.of_quiet (f := fun c => c.busWrite i (R.EVT_STAT n) v) rfl hquiet (by simp [Instr.wf, regInit, hi, hn]) ?_ ?_ ?_
  all_goals rw [Chip.busWrite_evtStat hs i hn]
  · exact hevents.fatal.trans hfatal
  · exact hevents.resetReq.trans hreset
  · exact hP

/-- At work a read of a status register completes with its count latched and its value shown. -/
theorem completes_statusRegisterRead {s : State} {i : Init} {n : Nat} {P : Chip → Prop} (hs : s.chip.atWork = true)
    (hi : i ≠ .sched) (hn : n < 64) (hP : P { s.chip.latchStat i n with rdata := s.chip.view i (R.EVT_STAT n) }) :
    Completes (.statusRegisterRead i n) s P := by
  have hquiet := Chip.quiet_of_atWork hs
  obtain ⟨-, hfatal, hreset, -⟩ := (Chip.quiet_iff _).1 hquiet
  refine Completes.of_quiet (f := fun c => c.busRead i (R.EVT_STAT n)) rfl hquiet (by simp [Instr.wf, regInit, hi, hn]) ?_ ?_ ?_
  all_goals rw [Chip.busRead_evtStat hs i hn]
  · exact hfatal
  · exact hreset
  · exact hP

/-- Settles O20: a read latches the count, and a clear request goes by SEQ and by the initiator's latch: all that is latched is the count
on a match, and none of it on a mismatch. -/
theorem statusClear : Obligations.StatusClear := by
  refine ⟨fun s i n hs hi hn => ?_, fun s i n v hs hi hn hseq hmem hall => ?_, fun s i n v hs hi hn hmiss => ?_⟩
  · exact completes_statusRegisterRead hs hi hn ⟨rfl, SMap.get_put_same _ _ _ _, rfl⟩
  · have hregs := Chip.sqcWrite_regs_of_match (c := s.chip.writing) hseq (Chip.statLatch_eq_some hmem hall)
    have hlt := Nat.lt_of_le_of_lt (Nat.sub_le (s.chip.rn (R.EVT_STAT n)) (s.chip.rn (R.EVT_STAT n) &&& (v.toNat % 2 ^ 24)))
      (s.chip.rn_lt (R.EVT_STAT n))
    refine completes_statusClear hs hi hn ⟨?_, fun b hb => ?_⟩
    · exact (Chip.rn_congr (Chip.reg_congr hregs _)).trans ((Chip.rn_setN _ _ _).trans (Nat.mod_eq_of_lt hlt))
    · exact (Chip.reg_congr hregs b).trans (Chip.reg_setN_ne _ _ hb)
  · refine completes_statusClear hs hi hn (Chip.sqcWrite_regs_of_mismatch (c := s.chip.writing) ?_)
    exact hmiss.imp_right fun hother hlatch => hother _ (Chip.mem_of_statLatch_eq_some hlatch) rfl

end Sys2Proof.Machine
end

section
/-! The Scrivener's window (R388), and the failure of a half that a window read can find (R392). -/

namespace Sys2Proof.Machine

/-! ### What leaves the marks of failed halves as they are -/

theorem halfFail_lo (b : Bool) : 6 ≤ (halfFail b).lo ∧ (halfFail b).lo + (halfFail b).w ≤ 8 := by cases b <;> decide

theorem halfState_within (b : Bool) : (halfState b).lo + (halfState b).w ≤ 6 := by cases b <;> decide

theorem halfFirst_ne_stat (b : Bool) : R.SCV_STAT ≠ halfFirst b := by cases b <;> decide

theorem halfEnd_ne_stat (b : Bool) : R.SCV_STAT ≠ halfEnd b := by cases b <;> decide

theorem halfExp_ne_stat (b : Bool) : R.SCV_STAT ≠ halfExp b := by cases b <;> decide

/-- SCV_STAT alone decides which halves have failed. -/
theorem Chip.halfFailed_congr {c d : Chip} (h : d.reg R.SCV_STAT = c.reg R.SCV_STAT) (b : Bool) : d.halfFailed b = c.halfFailed b := by
  rw [Chip.halfFailed, Chip.flag, Chip.fld, Chip.rn_congr h]
  rfl

theorem Chip.halfFailed_of_regs {c d : Chip} (h : d.regs = c.regs) (b : Bool) : d.halfFailed b = c.halfFailed b :=
  Chip.halfFailed_congr (Chip.reg_congr h _) b

theorem Chip.halfFailed_setN_ne (c : Chip) {a : Nat} (n : Nat) (h : R.SCV_STAT ≠ a) (b : Bool) :
    (c.setN a n).halfFailed b = c.halfFailed b := Chip.halfFailed_congr (c.reg_setN_ne n h) b

theorem Chip.halfFailed_addCnt_ne (c : Chip) {a : Nat} (k : Nat) (h : R.SCV_STAT ≠ a) (b : Bool) :
    (c.addCnt a k).halfFailed b = c.halfFailed b := Chip.halfFailed_congr (c.reg_addCnt_ne k h) b

/-- A write of a field of SCV_STAT other than A_FAIL and B_FAIL. -/
theorem Chip.halfFailed_setFld_apart (c : Chip) (f : Fld) (v : Nat) (h : f.lo + f.w ≤ 32) (hf : f.lo + f.w ≤ 6 ∨ 8 ≤ f.lo) (b : Bool) :
    (c.setFld R.SCV_STAT f v).halfFailed b = c.halfFailed b := by
  obtain ⟨hlo, hhi⟩ := halfFail_lo b
  have happart : (halfFail b).lo + (halfFail b).w ≤ f.lo ∨ f.lo + f.w ≤ (halfFail b).lo := by omega
  rw [Chip.halfFailed, Chip.flag, c.fld_setFld_apart _ _ _ _ h happart]
  rfl

theorem Chip.halfFailed_setFld_halfState (c : Chip) (h : Bool) (v : Nat) (b : Bool) :
    (c.setFld R.SCV_STAT (halfState h) v).halfFailed b = c.halfFailed b :=
  c.halfFailed_setFld_apart _ _ ((halfState_within h).trans (by decide)) (.inl (halfState_within h)) b

theorem Chip.halfFailed_raise (c : Chip) {e : Nat × Nat} (h : R.SCV_STAT ∉ eventRegs e) (b : Bool) :
    (c.raise e).halfFailed b = c.halfFailed b := Chip.halfFailed_congr (c.reg_raise_ne e h) b

/-- What is put into the Scrivener besides its registers. -/
theorem Chip.halfFailed_scv (c : Chip) (q : Scv) (b : Bool) : Chip.halfFailed { c with scv := q } b = c.halfFailed b :=
  Chip.halfFailed_of_regs rfl b

theorem Chip.halfFailed_setHalf (c : Chip) (h : Bool) (x : Half) (b : Bool) : (c.setHalf h x).halfFailed b = c.halfFailed b :=
  Chip.halfFailed_scv c _ b

theorem Chip.halfFailed_declareFatal (c : Chip) (k : Nat) (l : List Nat) (t : Nat) (w b : Bool) :
    (c.declareFatal k l t w).halfFailed b = c.halfFailed b := by
  unfold Chip.declareFatal
  split
  · rfl
  · exact Chip.halfFailed_of_regs rfl b

/-! ### Recording goes on in another half (R386) -/

theorem Chip.halfFailed_exportStart (c : Chip) (x y b : Bool) : (c.exportStart x y).halfFailed b = c.halfFailed b := by
  rw [Chip.exportStart, Chip.setFlag, Chip.halfFailed_setFld_apart _ _ _ (by decide) (.inr (by decide)), Chip.halfFailed_scv]

theorem Chip.halfFailed_halfClear (c : Chip) (h b : Bool) : (c.halfClear h).halfFailed b = c.halfFailed b := by
  rw [Chip.halfClear, Chip.halfFailed_scv, Chip.halfFailed_setN_ne _ _ (halfExp_ne_stat h),
    Chip.halfFailed_setN_ne _ _ (halfEnd_ne_stat h), Chip.halfFailed_setFld_halfState, Chip.halfFailed_setHalf]

theorem Chip.halfFailed_halfRestart (c : Chip) (h b : Bool) : (c.halfRestart h).halfFailed b = c.halfFailed b := by
  rw [Chip.halfRestart, Chip.halfFailed_setN_ne _ _ (halfFirst_ne_stat h), Chip.setFlag,
    Chip.halfFailed_setFld_apart _ _ _ (by decide) (.inl (by decide)), Chip.halfFailed_setFld_halfState, Chip.halfFailed_halfClear]

theorem Chip.halfFailed_halfLose (c : Chip) (h e b : Bool) : (c.halfLose h e).halfFailed b = c.halfFailed b := by
  have hcount (n : Nat) : (c.addCnt R.SCV_LOST n).halfFailed b = c.halfFailed b := c.halfFailed_addCnt_ne n (by decide) b
  unfold Chip.halfLose
  dsimp only
  split
  · rfl
  · split
    · exact (Chip.halfFailed_raise _ (by decide) b).trans (hcount _)
    · exact hcount _

theorem Chip.halfFailed_halfNext (c : Chip) (b : Bool) : c.halfNext.halfFailed b = c.halfFailed b := by
  unfold Chip.halfNext
  dsimp only
  split
  · rw [Chip.halfFailed_halfRestart, Chip.halfFailed_halfLose]
  · rw [Chip.halfFailed_halfRestart, Chip.halfFailed_halfLose, Chip.halfFailed_exportStart, Chip.halfFailed_raise _ (by decide),
      Chip.halfFailed_setFld_halfState]

/-! ### A record is written (R378) -/

theorem Chip.noteSnap_regs (c : Chip) (r : Rec) (no : Nat) : (c.noteSnap r no).regs = c.regs := by
  unfold Chip.noteSnap
  split
  · dsimp only
    split
    · exact Chip.setPart_regs _ _ _
    · rfl
  · rfl

theorem Chip.halfFailed_writeNew (c : Chip) (r : Rec) (b : Bool) : (c.writeNew r).halfFailed b = c.halfFailed b := by
  unfold Chip.writeNew
  dsimp only
  rw [Chip.halfFailed_setN_ne _ _ (halfEnd_ne_stat _), Chip.halfFailed_setN_ne _ _ (by decide), Chip.halfFailed_setHalf,
    apply_ite (Chip.halfFailed · b), Chip.halfFailed_halfNext, ite_self]
  split
  · exact Chip.halfFailed_of_regs (c.noteSnap_regs _ _) b
  · rfl

/-! ### A half fails (R392) -/

theorem Chip.halfFailed_scvDead (c : Chip) (b : Bool) : c.scvDead.halfFailed b = c.halfFailed b := by
  rw [Chip.scvDead, Chip.halfFailed_declareFatal, Chip.halfFailed_raise _ (by decide)]
  exact Chip.halfFailed_congr (c.reg_setFld_ne _ _ (by decide)) b

/-- The mark of a half, once set. -/
theorem Chip.halfFailed_setFlag_halfFail (c : Chip) (b : Bool) : (c.setFlag R.SCV_STAT (halfFail b) true).halfFailed b = true :=
  c.flag_setFlag _ _ true (by cases b <;> decide) (by cases b <;> rfl)

/-- An uncorrectable word leaves its half failed, whether or not it had failed, and whatever becomes of the other. -/
theorem Chip.halfFailed_failHalf (c : Chip) (b : Bool) (w : Nat) : (c.failHalf b w).halfFailed b = true := by
  unfold Chip.failHalf
  dsimp only
  split
  case isTrue hfailed => rw [Chip.halfFailed_setHalf, hfailed]
  case isFalse =>
    generalize hmark : Chip.setFlag _ R.SCV_STAT (halfFail b) true = c1
    have hset : c1.halfFailed b = true := hmark ▸ Chip.halfFailed_setFlag_halfFail _ b
    split
    · rw [Chip.halfFailed_scvDead, hset]
    · rw [Chip.halfFailed_raise _ (by decide)]
      split
      · rw [Chip.halfFailed_addCnt_ne _ _ (by decide), hset]
      · rw [Chip.halfFailed_writeNew]
        split
        · rw [Chip.halfFailed_halfRestart]
          split
          · exact hset
          · rw [Chip.halfFailed_halfLose, hset]
        · exact hset

/-! ### The window (R388) -/

/-- The half and the word that SCV_WIN_ADDR addresses. -/
def Chip.winHalf (c : Chip) : Bool := c.flag R.SCV_WIN_ADDR F.SCV_WIN_ADDR_HALF
def Chip.winWord (c : Chip) : Nat := c.fld R.SCV_WIN_ADDR F.SCV_WIN_ADDR_WORD

/-- What a read of `_L` gives an initiator: `lo` at once, and `hi` for its read of `_H`. -/
def Chip.windowAnswer (c : Chip) (i : Init) (lo hi : Word) : Chip :=
  { c with rdata := lo, acc := { c.acc with captured := SMap.put c.acc.captured (latchKey i R.SCV_WIN_DATA_H) hi } }

theorem Chip.windowAnswer_rdata (c : Chip) (i : Init) (lo hi : Word) : (c.windowAnswer i lo hi).rdata = lo := rfl

theorem Chip.windowAnswer_captured (c : Chip) (i : Init) (lo hi : Word) (d : Nat → Word) :
    SMap.get d (c.windowAnswer i lo hi).acc.captured (latchKey i R.SCV_WIN_DATA_H) = hi := SMap.get_put_same _ _ _ _

theorem Chip.windowAnswer_regs (c : Chip) (i : Init) (lo hi : Word) : (c.windowAnswer i lo hi).regs = c.regs := rfl

/-- A read of `_L` that meets a sound word. -/
theorem doScvWindowRead_low {c : Chip} (h : (c.half c.winHalf).badWords.contains c.winWord = false) (i : Init) :
    doScvWindowRead i false false c = c.used.used.windowAnswer i (BitVec.ofNat 32 (c.halfWord c.winHalf c.winWord))
      (BitVec.ofNat 32 (c.halfWord c.winHalf c.winWord / 2 ^ 32)) := by
  rw [Chip.winHalf, Chip.winWord] at h
  simp only [doScvWindowRead, h, Bool.or_false, Bool.false_eq_true, if_false]
  rfl

/-- A read of `_H`. -/
theorem doScvWindowRead_high (c : Chip) (i : Init) (x : Bool) :
    doScvWindowRead i true x c =
      Chip.setFld (Chip.used { c with rdata := SMap.get (fun _ => c.freeNow) c.acc.captured (latchKey i R.SCV_WIN_DATA_H) })
        R.SCV_WIN_ADDR F.SCV_WIN_ADDR_WORD ((c.winWord + 1) % 32768) := rfl

/-- A read of `_L` that meets an uncorrectable word. -/
theorem doScvWindowRead_low_bad {c : Chip} {x : Bool} (h : x = true ∨ (c.half c.winHalf).badWords.contains c.winWord = true) (i : Init) :
    doScvWindowRead i false x c = (c.failHalf c.winHalf c.winWord).windowAnswer i 0xffffffff 0xffffffff := by
  rw [Chip.winHalf, Chip.winWord, ← Bool.or_eq_true] at h
  simp only [doScvWindowRead, h, Bool.false_eq_true, if_false, if_true]
  rfl

theorem wf_scvWindowRead {i : Init} (hi : i ≠ .sched) (high x : Bool) : (Instr.scvWindowRead i high x).wf = true := by
  simp [Instr.wf, regInit, hi]

/-- At work the command's effect is all that happens. -/
theorem exec_scvWindowRead_of_atWork {s : State} {i : Init} (hs : s.chip.atWork = true) (hi : i ≠ .sched) (high x : Bool) :
    exec (.scvWindowRead i high x) s = .next (s.after (doScvWindowRead i high x s.chip)) :=
  (State.act_of_atWork hs (wf_scvWindowRead hi high x) _).trans (by rw [if_pos (Chip.mayRead_of_atWork hs _ _)])

/-- At work a window read completes with what it makes of the engine. -/
theorem completes_scvWindowRead {s : State} {i : Init} {high x : Bool} {P : Chip → Prop} (hs : s.chip.atWork = true) (hi : i ≠ .sched)
    (hfatal : (doScvWindowRead i high x s.chip).fatal = s.chip.fatal)
    (hreset : (doScvWindowRead i high x s.chip).resetReq = s.chip.resetReq) (hP : P (doScvWindowRead i high x s.chip)) :
    Completes (.scvWindowRead i high x) s P := by
  obtain ⟨-, hfatal0, hreset0, -⟩ := (Chip.quiet_iff _).1 (Chip.quiet_of_atWork hs)
  exact ⟨_, exec_scvWindowRead_of_atWork hs hi high x, hfatal.trans hfatal0, hreset.trans hreset0, hP⟩

/-- Settles O52: the three cases of the command's effect, the third by what the failure of a half leaves set. -/
theorem windowRead : Obligations.WindowRead := by
  refine ⟨fun s i hs hi => ?_, fun s i x v hs hi hv => ?_, fun s i x hs hi hbad => ?_⟩
  · intro b n w hsound
    have heff := doScvWindowRead_low hsound i
    refine completes_scvWindowRead hs hi ?_ ?_ ?_ <;> rw [heff]
    · rfl
    · rfl
    · exact ⟨Chip.windowAnswer_rdata _ _ _ _, Chip.windowAnswer_captured _ _ _ _ _, Chip.windowAnswer_regs _ _ _ _⟩
  · have heff := doScvWindowRead_high s.chip i x
    refine completes_scvWindowRead hs hi ?_ ?_ ?_ <;> rw [heff]
    · rfl
    · rfl
    · refine ⟨hv _, ?_, ?_, fun a ha => ?_⟩
      · rw [Chip.fld_setFld _ _ _ _ (by decide)]
        exact Nat.mod_mod _ _
      · rw [Chip.flag, Chip.fld_setFld_apart _ _ _ _ _ (by decide) (.inr (by decide))]
        rfl
      · rw [Chip.reg_setFld_ne _ _ _ ha]
        rfl
  · refine ⟨_, exec_scvWindowRead_of_atWork hs hi false x, ?_⟩
    rw [doScvWindowRead_low_bad hbad]
    exact ⟨Chip.windowAnswer_rdata _ _ _ _, Chip.windowAnswer_captured _ _ _ _ _,
      (Chip.halfFailed_of_regs (Chip.windowAnswer_regs _ _ _ _) _).trans (s.chip.halfFailed_failHalf _ _)⟩

end Sys2Proof.Machine
end

section
/-! What follows a command's effect (R371, R372, R195): the notice lines, the cycle and the stall counts leave every register but the
pending-bit arrays and the stall registers as it is. -/

namespace Sys2Proof.Machine

/-- A register that every update of a run leaves as it is keeps its value over the run. -/
theorem Chip.reg_foldl {α : Type} {f : Chip → α → Chip} {a : Nat} {l : List α} (h : ∀ c, ∀ x ∈ l, (f c x).reg a = c.reg a) (c : Chip) :
    (l.foldl f c).reg a = c.reg a := by
  induction l generalizing c with
  | nil => rfl
  | cons x l ih =>
    rw [List.foldl_cons, ih (fun d y hy => h d y (List.mem_cons_of_mem x hy)), h c x List.mem_cons_self]

theorem Chip.reg_pass (c : Chip) (n a : Nat) : (c.pass n).reg a = c.reg a := Chip.reg_congr (c.pass_regs n) a

/-! ### Messages (R372) -/

section
variable {a : Nat} (hlow : a ≠ R.HIF_MSIX_PBA_L) (hhigh : a ≠ R.HIF_MSIX_PBA_H)
include hlow hhigh

theorem Chip.reg_setPba_ne (c : Chip) (m : Nat) : (c.setPba m).reg a = c.reg a := by
  rw [Chip.setPba, Chip.reg_setN_ne _ _ hhigh, Chip.reg_setN_ne _ _ hlow]

theorem Chip.reg_msixDue_ne (c : Chip) (v : Nat) : (c.msixDue v).reg a = c.reg a := by
  unfold Chip.msixDue
  split
  · exact Chip.reg_congr (Chip.emit_regs c _) a
  · exact c.reg_setPba_ne hlow hhigh _

theorem Chip.reg_msixRelease_ne (act : Nat) (c : Chip) (v : Nat) : (Chip.msixRelease act c v).reg a = c.reg a := by
  have hclear := c.reg_setPba_ne hlow hhigh (maskClear c.pba v)
  unfold Chip.msixRelease
  split
  · dsimp only
    split
    · exact (Chip.reg_congr (Chip.emit_regs _ _) a).trans hclear
    · exact hclear
  · rfl

theorem Chip.reg_notice_ne (c : Chip) : c.notice.reg a = c.reg a := by
  unfold Chip.notice
  rw [Chip.reg_evt, Chip.reg_foldl (fun d v _ => d.reg_msixDue_ne hlow hhigh v),
    Chip.reg_foldl (fun d v _ => Chip.reg_msixRelease_ne hlow hhigh c.activeLines d v)]

end

/-! ### Stall counts (R195) -/

theorem Chip.lt_of_mem_stalledNow {c : Chip} {n : Nat} (h : n ∈ c.stalledNow) : n < 8 := List.mem_range.1 (List.mem_filter.1 h).1

theorem Chip.reg_addSat_ne (c : Chip) {a b : Nat} (k : Nat) (h : b ≠ a) : (c.addSat a k).reg b = c.reg b := c.reg_setN_ne _ h

theorem Chip.reg_stallTally_ne {a : Nat} {was : List Nat} (hstall : ∀ n ∈ was, a ≠ R.FUL_STALL n) (hstat : ∀ n < 8, a ≠ R.FUL_STAT n)
    (k : Nat) (c : Chip) : (Chip.stallTally was k c).reg a = c.reg a := by
  unfold Chip.stallTally
  rw [Chip.reg_foldl (fun d n hn => ?_), Chip.reg_foldl (fun d n hn => d.reg_addSat_ne k (hstall n hn))]
  split
  · rfl
  · exact d.reg_setFld_ne _ _ (hstat n (List.mem_range.1 hn))

/-! ### The end of a command -/

/-- Beside the pending-bit arrays and the stall registers, the registers after a command are those its effect and what it demands leave. -/
theorem State.reg_after {a : Nat} (hlow : a ≠ R.HIF_MSIX_PBA_L) (hhigh : a ≠ R.HIF_MSIX_PBA_H)
    (hful : ∀ n < 8, a ≠ R.FUL_STALL n ∧ a ≠ R.FUL_STAT n) (s : State) (c : Chip) : (s.after c).chip.reg a = c.settle.reg a := by
  rw [State.after, Chip.finish, Chip.reg_stallTally_ne (fun n hn => (hful n (Chip.lt_of_mem_stalledNow hn)).1) (fun n hn => (hful n hn).2),
    Chip.reg_pass, Chip.reg_notice_ne hlow hhigh]

end Sys2Proof.Machine
end

section
/-! Errors of the Steward's SRAM (R415), in an engine whose partition is bound to a sequencer that does not exist. -/

namespace Sys2Proof.Machine

/-- STW_STATE is none of the registers that every command's end may change. -/
theorem State.reg_after_stwState (s : State) (c : Chip) : (s.after c).chip.reg R.STW_STATE = c.settle.reg R.STW_STATE :=
  s.reg_after (by decide) (by decide) (by decide) c

/-- At work the command's effect is all that happens. -/
theorem exec_stwSramError_of_atWork {s : State} (hs : s.chip.atWork = true) (corrected : Bool) :
    exec (.stwSramError corrected) s = .next (s.after (doStwSramError corrected s.chip)) := State.act_of_atWork hs rfl _

/-- Whatever the command is said to have made of the engine, what that settles to has the STW_STATE that its effect settles to. -/
theorem reg_stwState_of_exec_stwSramError {s : State} {c : Chip} {corrected : Bool} (hs : s.chip.atWork = true)
    (h : exec (.stwSramError corrected) s = .next (s.after c)) :
    c.settle.reg R.STW_STATE = (doStwSramError corrected s.chip).settle.reg R.STW_STATE := by
  have hafter : s.after c = s.after (doStwSramError corrected s.chip) :=
    Host.Outcome.next.inj (h.symm.trans (exec_stwSramError_of_atWork hs corrected))
  rw [← s.reg_after_stwState c, hafter, s.reg_after_stwState]

/-- An engine at work, with every rail up, whose partition 0 records and keeps a sequencer 104 as the one bound to it. -/
def boundBeyond : State where
  pending := []
  chip :=
    let rails : Chip := { pins := { porn := false, fault := false, pen := 63, railOk := 31 }, parts := [(0, { seqBound := 105 })] }
    ((rails.setFld R.STW_STATE F.STW_STATE_STATE 1).setFld R.STW_BOOT_STAT F.STW_BOOT_STAT_STAGE 9).setPrtState 0 1

theorem atWork_boundBeyond : boundBeyond.chip.atWork = true := by decide

/-- Safe entry writes CAUSE, and then stops the bound sequencer (R126): it clears RUNNING, bit 8, at 0x100004 + 0x10000 · 104 = 0x780004.
That is bit 0 of CAUSE in STW_STATE, and what was written as 0x09 reads 0x08. -/
theorem fld_cause_settle_boundBeyond :
    (doStwSramError false boundBeyond.chip).settle.fld R.STW_STATE F.STW_STATE_CAUSE = 8 := by decide +kernel

/-- Refutes O55: the statement is about every engine at work, also one whose partition 0 is armed and bound to a sequencer 104. Its SQ_STAT
has the address of STW_STATE, and the sequencer's stop on Safe entry clears a bit of the cause. No ARM binds such a sequencer. -/
theorem not_stewardSram : ¬ Obligations.StewardSram := by
  rintro ⟨-, huncorrected⟩
  obtain ⟨c, hexec, -, -, hcause, -⟩ := huncorrected boundBeyond atWork_boundBeyond
  have hstate := reg_stwState_of_exec_stwSramError atWork_boundBeyond hexec
  rw [Chip.fld, Chip.rn_congr hstate, ← Chip.fld, fld_cause_settle_boundBeyond] at hcause
  exact absurd hcause (by decide)

end Sys2Proof.Machine
end

section
/-! The ranges below 0x0080_0000 that Table 20-1 does not name (R446): at work a write there is dropped and a read returns 0. -/

namespace Sys2Proof.Machine

/-! ### The ranges -/

/-- A 64 KiB range is in no block of a list when it lies outside the ranges of each. -/
theorem findBlock_eq_none_iff {n : Nat} {l : List (Nat × Nat × List RegRow)} :
    findBlock n l = none ↔ ∀ e ∈ l, ¬(e.1 ≤ n ∧ n < e.1 + e.2.1) := by
  induction l with
  | nil => simp [findBlock]
  | cons e rest ih =>
    obtain ⟨b, k, rows⟩ := e
    rw [findBlock, List.forall_mem_cons]
    split
    next h => exact ⟨nofun, fun hall => absurd h hall.1⟩
    next h => rw [ih, and_iff_right h]

/-- The offset lies in a 64 KiB range that Table 20-1 does not name. -/
def Unnamed (a : Nat) : Prop := findBlock (a / 0x10000) regBlocks = none

theorem Unnamed.regRow {a : Nat} (h : Unnamed a) : regRow a = none := by rw [Machine.regRow, h]

/-- An unnamed range is none of the ranges Table 20-1 names. -/
theorem Unnamed.range_ne {a n : Nat} (h : Unnamed a) (hn : (findBlock n regBlocks).isSome = true) : a / 0x10000 ≠ n := by
  rintro rfl
  rw [h] at hn
  exact Bool.false_ne_true hn

/-- An offset in an unnamed range is no register of a named one. -/
theorem Unnamed.ne {a b : Nat} (h : Unnamed a) (hb : (findBlock (b / 0x10000) regBlocks).isSome = true) : a ≠ b :=
  fun hab => h.range_ne hb (congrArg (· / 0x10000) hab)

/-- Every register that captures others with a read lies in a named range (R8). -/
theorem isSome_findBlock_of_captures :
    ∀ b ∈ writeTriples ++ readTriples ++ capturePairs, (findBlock (b / 0x10000) regBlocks).isSome = true := by decide +kernel

/-! ### Writes -/

/-- At work a write to an unassigned offset is dropped: it is no first write of a guarded pair, puts no field and issues no command. -/
theorem Chip.busWrite_of_regRow_none {c : Chip} (hc : c.atWork = true) (i : Init) {a : Nat} (v : Word) (ha : a < 0x800000)
    (h : regRow a = none) : c.busWrite i a v = c.writing := by
  have hguard : isGuarded a = false := by rw [isGuarded, h]
  rw [Chip.busWrite_of_atWork hc i v ha hguard, Chip.applyFields, h, Chip.applyCmds, h]

/-! ### Reads -/

/-- A key that is not listed reads as the default. -/
theorem SMap.get_of_forall_ne {α : Type} (d : Nat → α) {m : List (Nat × α)} {k : Nat} (h : ∀ e ∈ m, e.1 ≠ k) : SMap.get d m k = d k := by
  induction m with
  | nil => rfl
  | cons e rest ih =>
    obtain ⟨hne, hrest⟩ := List.forall_mem_cons.1 h
    rw [SMap.get, if_neg hne, ih hrest]

/-- No register whose view is not its stored value lies in an unnamed range, so an offset there shows 0. -/
theorem Unnamed.view {a : Nat} (h : Unnamed a) (c : Chip) (i : Init) : c.view i a = 0 := by
  have hclk : a / 0x10000 ≠ 2 := h.range_ne rfl
  have hcar : a / 0x10000 ≠ 0x38 := h.range_ne rfl
  have hprt : a / 0x10000 ≠ 0x30 := h.range_ne rfl
  have hmc : ¬(0x40 ≤ a / 0x10000 ∧ a / 0x10000 < 0x48) :=
    findBlock_eq_none_iff.1 h (0x40, 8, rowsMc) (by simp [regBlocks])
  unfold Chip.view
  iterate 12 rw [if_neg (h.ne (by decide))]
  rw [if_neg (by simp only [R.CLK_CKO_PHASE]; omega)]
  split
  next => rfl
  next =>
    rw [if_neg (h.ne (by decide)), if_neg (by omega), if_neg (by omega), if_neg (by omega), h.regRow]
    rfl

theorem Unnamed.captureCount {a : Nat} (h : Unnamed a) : captureCount a = 0 := by
  have hnot : a ∉ writeTriples ++ readTriples ++ capturePairs := fun hmem => h.ne (isSome_findBlock_of_captures a hmem) rfl
  rw [List.mem_append, not_or] at hnot
  obtain ⟨htriples, hpairs⟩ := hnot
  simp [Machine.captureCount, htriples, hpairs]

theorem Unnamed.capture {a : Nat} (h : Unnamed a) (c : Chip) (i : Init) : c.capture i a = c := by
  rw [Chip.capture, h.captureCount]; rfl

/-- At work a read in an unnamed range returns 0 where nothing was captured for the initiator under the offset (R8, R446). -/
theorem Unnamed.busRead {a : Nat} (h : Unnamed a) {c : Chip} (hc : c.atWork = true) {i : Init} (ha : a < 0x800000)
    (hcap : ∀ e ∈ c.acc.captured, e.1 ≠ latchKey i a) : c.busRead i a = { c with rdata := 0 } := by
  have hreach : (!c.mayRead i a || decide (0x800000 ≤ a)) = false := by
    rw [Chip.mayRead_of_atWork hc, decide_eq_false (Nat.not_le.2 ha)]; rfl
  have hevt : a / 0x10000 ≠ 0x58 := h.range_ne rfl
  have hshow : c.busShow i a = 0 := by rw [Chip.busShow, SMap.get_of_forall_ne _ hcap, h.view]
  rw [Chip.busRead, hreach, if_neg Bool.false_ne_true, if_neg (h.ne (by decide)), if_neg (h.ne (by decide)),
    if_neg (by simp only [R.EVT_STAT]; omega), h.capture, hshow]

/-! ### The commands -/

theorem exec_registerWrite_of_atWork {s : State} {i : Init} {a : Nat} (hs : s.chip.atWork = true) (hi : i ≠ .sched)
    (ha : a < 16777216) (ha4 : a % 4 = 0) (v : Word) :
    exec (.registerWrite i a v) s = .next (s.after (s.chip.busWrite i a v)) :=
  State.act_of_atWork hs (by simp [Instr.wf, regInit, regWf, addrWf, hi, ha, ha4]) _

/-- An aligned 32-bit read is a register read. -/
theorem doBar0UnalignedAccess_aligned_read {a : Nat} (h : a % 4 = 0) (i : Init) (v : Word) (c : Chip) :
    doBar0UnalignedAccess i false a 4 v c = c.busRead i a := by
  rw [doBar0UnalignedAccess, if_pos ⟨rfl, h⟩, if_neg (by decide)]

/-- Settles O58: the ranges of the statement are in no block of Table 20-1, so no register there takes the write, and the read finds
neither a register nor a captured value. -/
theorem unassignedRange : Obligations.UnassignedRange := by
  intro s i a v hs hi ha ha4 hrange
  have hun : Unnamed a := by
    rw [Unnamed, findBlock_eq_none_iff]
    simp only [regBlocks, List.forall_mem_cons, List.not_mem_nil, false_implies, implies_true, and_true]
    omega
  have hbar : a < 16777216 := by omega
  constructor
  · rw [exec_registerWrite_of_atWork hs hi hbar ha4, Chip.busWrite_of_regRow_none hs i v ha hun.regRow]
  · intro hcap
    rw [exec_bar0UnalignedAccess_of_atWork hs hi hbar, doBar0UnalignedAccess_aligned_read ha4, hun.busRead hs ha hcap]

end Sys2Proof.Machine
end

section
/-! What every command does around its own effect: its gates (Table 19-2), the notice lines and messages (R371, R372), the cycle it
takes and the stall counts (R195), as shapes: which parts of the engine each may change. -/

namespace Sys2Proof.Machine

/-! ### Every command is its effect with the gates and the end that all share -/

theorem exec_eq_act (i : Instr) (s : State) : ∃ f, exec i s = s.act i f := by
  cases i <;> exact ⟨_, rfl⟩

/-- Settles O2: a step takes the front command off the queue and executes it. -/
theorem stepRunsFront : Obligations.StepRunsFront := fun _ _ _ => rfl

/-- Settles O4: whatever the effect, a command answers with the queue it was given, and an ill-formed one has none. -/
theorem everyCommandAnswers : Obligations.EveryCommandAnswers := by
  refine ⟨fun i s => ?_, fun i s hwf => ?_⟩ <;> obtain ⟨f, hf⟩ := exec_eq_act i s
  · refine ⟨_, hf, ?_⟩
    split <;> rfl
  · rw [hf, State.act_of_illFormed hwf]

/-! ### The gates (Table 19-2) -/

/-- No command of the data fabric, and none that acts on the Steward alone, is an access of the host. -/
theorem byHost_eq_false_of_needOf {i : Instr} (h : needOf i = .data ∨ needOf i = .steward) : byHost i = false := by
  cases i <;> revert h <;> simp [needOf, byHost]

theorem needOf_eq_always {i : Instr} (h : needOf i = .always) : i = .pornAssert ∨ ∃ f, i = .pornRelease f := by
  cases i <;> revert h <;> simp [needOf]

/-- With no wake of the host, a command whose part is not powered leaves the engine as it is. -/
theorem Chip.perform_of_not_admits {c : Chip} {i : Instr} (hw : c.hostWake i = c) (h : c.admits (needOf i) = false) (f : Chip → Chip) :
    c.perform i f = c := by
  simp only [Chip.perform, hw, h, Bool.false_and, Bool.false_eq_true, if_false]

theorem exec_of_not_admits {s : State} {i : Instr} (hwf : i.wf = true) (hw : s.chip.hostWake i = s.chip)
    (h : s.chip.admits (needOf i) = false) : exec i s = .next (s.after s.chip) := by
  obtain ⟨f, hf⟩ := exec_eq_act i s
  rw [hf, State.act, if_pos hwf, Chip.perform_of_not_admits hw h]

/-- Settles O5: in reset only the `PORN` pin's commands are admitted, and below Gale the ladder admits neither the data fabric's, nor in Calm
and Still the control fabric's, nor in Still the Steward's. -/
theorem stoppedPartsDoNothing : Obligations.StoppedPartsDoNothing := by
  constructor
  · intro i s hporn hwf hassert hrelease
    refine exec_of_not_admits hwf (by simp [Chip.hostWake, hporn]) ?_
    rw [Chip.admits.eq_def, if_pos hporn, decide_eq_false_iff_not]
    exact fun h => (needOf_eq_always h).elim hassert (fun ⟨f, hf⟩ => hrelease f hf)
  · intro i s hporn hup hwf hstopped
    refine exec_of_not_admits hwf ?_ ?_
    · have hgate : byHost i = false ∨ s.chip.ladder ≠ 2 := by
        rcases hstopped with ⟨hneed, -⟩ | ⟨-, hlow, -⟩ | ⟨hneed, -⟩
        · exact .inl (byHost_eq_false_of_needOf (.inl hneed))
        · exact .inr (by omega)
        · exact .inl (byHost_eq_false_of_needOf (.inr hneed))
      rcases hgate with hhost | hladder
      · simp [Chip.hostWake, hhost]
      · simp [Chip.hostWake, hladder]
    · rw [Chip.admits.eq_def, hporn, if_neg Bool.false_ne_true, hup]
      rcases hstopped with ⟨hneed, hlow, hhigh⟩ | ⟨hneed, hlow, hhigh⟩ | ⟨hneed, hstill⟩
      · simp only [hneed]; grind
      · simp only [hneed]; grind
      · simp [hneed, hstill]

/-! ### What the end of a command may change -/

/-- `d` is `c` but for registers and what the engine has sent. -/
def Chip.RegsOut (c d : Chip) : Prop := ∃ r o, d = { c with regs := r, out := o }

theorem Chip.RegsOut.refl (c : Chip) : c.RegsOut c := ⟨_, _, rfl⟩

theorem Chip.RegsOut.trans {c d e : Chip} (h : c.RegsOut d) (k : d.RegsOut e) : c.RegsOut e := by
  obtain ⟨r, o, rfl⟩ := h; obtain ⟨r', o', rfl⟩ := k; exact ⟨r', o', rfl⟩

theorem Chip.RegsOut.setN (c : Chip) (a n : Nat) : c.RegsOut (c.setN a n) := ⟨_, _, rfl⟩

theorem Chip.RegsOut.foldl {α : Type} {f : Chip → α → Chip} (h : ∀ (c : Chip) x, c.RegsOut (f c x)) (l : List α) (c : Chip) :
    c.RegsOut (l.foldl f c) := by
  induction l generalizing c with
  | nil => exact .refl c
  | cons x l ih => exact (h c x).trans (ih _)

theorem Chip.RegsOut.setPba (c : Chip) (m : Nat) : c.RegsOut (c.setPba m) := (Chip.RegsOut.setN c _ _).trans (.setN _ _ _)

theorem Chip.RegsOut.emit (c : Chip) (o : Out) : c.RegsOut (c.emit o) := ⟨_, _, rfl⟩

theorem Chip.RegsOut.msixDue (c : Chip) (v : Nat) : c.RegsOut (c.msixDue v) := by
  unfold Chip.msixDue
  split
  · exact .emit c _
  · exact .setPba c _

theorem Chip.RegsOut.msixRelease (act : Nat) (c : Chip) (v : Nat) : c.RegsOut (Chip.msixRelease act c v) := by
  unfold Chip.msixRelease
  split
  · dsimp only
    split
    · exact (Chip.RegsOut.setPba c _).trans (.emit _ _)
    · exact .setPba c _
  · exact .refl c

theorem Chip.RegsOut.stallTally (was : List Nat) (k : Nat) (c : Chip) : c.RegsOut (Chip.stallTally was k c) := by
  unfold Chip.stallTally
  refine (Chip.RegsOut.foldl (fun d n => Chip.RegsOut.setN d _ _) was c).trans (Chip.RegsOut.foldl (fun (d : Chip) n => ?_) _ _)
  split
  · exact .refl d
  · exact .setN d _ _

/-- The notice lines and messages change, beside registers and what is sent, only what the event block remembers of the lines. -/
theorem Chip.notice_eq (c : Chip) : ∃ d e, c.RegsOut d ∧ c.notice = { d with evt := e } :=
  ⟨_, _, (Chip.RegsOut.foldl (Chip.RegsOut.msixRelease _) _ c).trans (.foldl Chip.RegsOut.msixDue _ _), rfl⟩

theorem Chip.RegsOut.idleFor (c : Chip) (n : Nat) : (c.pass n).RegsOut (c.idleFor n) := .stallTally _ _ _

/-- What a command leaves, besides what it demands, changes in registers, in what is sent, in the event block and in time. -/
theorem State.after_eq (s : State) (c : Chip) :
    ∃ r o e k p, (s.after c).chip = { c.settle with regs := r, out := o, evt := e, cycle := k, epc := p } := by
  obtain ⟨d, e, ⟨r, o, rfl⟩, hnotice⟩ := c.settle.notice_eq
  obtain ⟨k, p, hpass⟩ := c.settle.notice.pass_eq 1
  obtain ⟨r', o', htally⟩ := Chip.RegsOut.stallTally s.chip.stalledNow ((c.settle.notice.pass 1).cycle - s.chip.cycle)
    (c.settle.notice.pass 1)
  refine ⟨r', o', e, k, p, ?_⟩
  rw [State.after, Chip.finish]
  dsimp only
  rw [htally, hpass, hnotice]

theorem Chip.notice_cycle (c : Chip) : c.notice.cycle = c.cycle := by
  obtain ⟨d, e, ⟨r, o, rfl⟩, hnotice⟩ := c.notice_eq
  rw [hnotice]

/-- A command takes one cycle beyond those its effect lets pass. -/
theorem State.after_cycle (s : State) (c : Chip) : (s.after c).chip.cycle = c.settle.cycle + 1 := by
  obtain ⟨r, o, htally⟩ := Chip.RegsOut.stallTally s.chip.stalledNow ((c.settle.notice.pass 1).cycle - s.chip.cycle)
    (c.settle.notice.pass 1)
  rw [State.after, Chip.finish]
  dsimp only
  rw [htally, ← c.settle.notice_cycle]
  rfl

/-- A command that demands nothing. -/
theorem Chip.settle_of_none {c : Chip} (hf : c.fatal = none) (hr : c.resetReq = false) : c.settle = c := by
  simp only [Chip.settle, Chip.settleFatal, Chip.settleReset, hf, hr, Bool.false_eq_true, if_false]
  rw [← hf, ← hr]

/-- Settles O3: nothing but the fabric cycles and the stall counts of idle time. -/
theorem idleStep : Obligations.IdleStep := by
  intro s hnone
  obtain ⟨r, o, h⟩ := Chip.RegsOut.idleFor s.chip s.chip.dwell
  refine ⟨s.idle, by rw [step, hnone], hnone, ?_⟩
  rw [State.idle, h]
  exact ⟨rfl, rfl, rfl, rfl, rfl, rfl, rfl⟩

/-- Settles O6: what follows an effect that demands nothing is time, messages and stall counts. -/
theorem afterFrame : Obligations.AfterFrame := by
  intro s c hfatal hreset
  have hsettle := Chip.settle_of_none hfatal hreset
  refine ⟨fun a hlow hhigh hful => ?_, rfl, ?_, ?_⟩
  · rw [s.reg_after hlow hhigh (fun n hn => hful n hn), hsettle]
  · rw [s.after_cycle, hsettle]
  · obtain ⟨r, o, e, k, p, h⟩ := s.after_eq c
    rw [h, hsettle]
    exact ⟨rfl, rfl, rfl, rfl, rfl, rfl, rfl, rfl, rfl, rfl, rfl⟩

end Sys2Proof.Machine
end

section
/-! The settled condition (R195, R371, R372): every command leaves the lines recorded, the stalls shown, and no vector pending that could
be sent. -/

namespace Sys2Proof.Machine

/-! ### A sparse map folded over -/

section
variable {α β : Type} {f : β → Nat × α → β} {k : Nat} (hskip : ∀ b v, f b (k, v) = b)
include hskip

theorem SMap.foldl_del (m : List (Nat × α)) (b : β) : (SMap.del m k).foldl f b = m.foldl f b := by
  induction m generalizing b with
  | nil => rfl
  | cons e rest ih =>
    obtain ⟨j, w⟩ := e
    rw [SMap.del, List.foldl_cons]
    split
    next hj => rw [ih, hj, hskip]
    next => rw [List.foldl_cons, ih]

theorem SMap.foldl_put (m : List (Nat × α)) (v : α) (b : β) : (SMap.put m k v).foldl f b = m.foldl f b := by
  induction m generalizing b with
  | nil => exact hskip b v
  | cons e rest ih =>
    obtain ⟨j, w⟩ := e
    rw [SMap.put]
    split
    · rw [List.foldl_cons, hskip]
    · split
      next hj => rw [List.foldl_cons, List.foldl_cons, ← hj, hskip, hskip]
      next => rw [List.foldl_cons, ih, List.foldl_cons]

/-- A fold that passes over a key's entries does not see that key written. -/
theorem SMap.foldl_set [DecidableEq α] (d : Nat → α) (m : List (Nat × α)) (v : α) (b : β) :
    (SMap.set d m k v).foldl f b = m.foldl f b := by
  unfold SMap.set
  split
  · exact SMap.foldl_del hskip m b
  · exact SMap.foldl_put hskip m v b

end

/-! ### The active lines (R371) -/

/-- A register that the notice lines do not depend on: no `EVT_STATn`, `EVT_ENn` or `EVT_LINEn`. -/
def noLineReg (a : Nat) : Prop := a < 0x580000 ∨ 0x580300 ≤ a

theorem Chip.activeLines_setReg {a : Nat} (h : noLineReg a) (c : Chip) (v : Word) : (c.setReg a v).activeLines = c.activeLines := by
  have hskip : ∀ e : Nat × Word, e.1 = a → ¬(R.EVT_STAT 0 ≤ e.1 ∧ e.1 ≤ R.EVT_STAT 63) := by
    intro e he
    rw [noLineReg] at h
    simp only [R.EVT_STAT]
    omega
  have hsame : ∀ n, n ≤ 63 → R.EVT_EN n ≠ a ∧ R.EVT_LINE n ≠ a := by
    intro n hn
    rw [noLineReg] at h
    simp only [R.EVT_EN, R.EVT_LINE]
    omega
  unfold Chip.activeLines
  rw [Chip.setReg, SMap.foldl_set (fun b v => if_neg (hskip (a, v) rfl))]
  congr 1
  funext m e
  split
  next he =>
    obtain ⟨hen, hline⟩ := hsame ((e.1 - R.EVT_STAT 0) / 4) (by simp only [R.EVT_STAT] at he ⊢; omega)
    have hrn := Chip.rn_congr (c.reg_setReg_ne v hen)
    have hfld := Chip.rn_congr (c.reg_setReg_ne v hline)
    simp only [Chip.setReg] at hrn hfld
    simp only [Chip.fld, hrn, hfld]
  next => rfl

/-- The register file alone decides which lines are active. -/
theorem Chip.activeLines_congr {c d : Chip} (h : d.regs = c.regs) : d.activeLines = c.activeLines := by
  unfold Chip.activeLines Chip.fld Chip.rn Chip.reg
  rw [h]

theorem Chip.activeLines_setN {a : Nat} (h : noLineReg a) (c : Chip) (n : Nat) : (c.setN a n).activeLines = c.activeLines :=
  Chip.activeLines_setReg h c _

/-- A field that every update of a run leaves as it is keeps its value over the run. -/
theorem Chip.foldl_keeps {α β : Type} {f : Chip → α → Chip} (g : Chip → β) {l : List α} (h : ∀ c, ∀ x ∈ l, g (f c x) = g c) (c : Chip) :
    g (l.foldl f c) = g c := by
  induction l generalizing c with
  | nil => rfl
  | cons x l ih =>
    rw [List.foldl_cons, ih (fun d y hy => h d y (List.mem_cons_of_mem x hy)), h c x List.mem_cons_self]

theorem Chip.activeLines_setPba (c : Chip) (m : Nat) : (c.setPba m).activeLines = c.activeLines := by
  rw [Chip.setPba, Chip.activeLines_setN (.inr (by decide)), Chip.activeLines_setN (.inr (by decide))]

theorem Chip.activeLines_msixDue (c : Chip) (v : Nat) : (c.msixDue v).activeLines = c.activeLines := by
  unfold Chip.msixDue
  split
  · exact Chip.activeLines_congr rfl
  · exact c.activeLines_setPba _

theorem Chip.activeLines_msixRelease (act : Nat) (c : Chip) (v : Nat) : (Chip.msixRelease act c v).activeLines = c.activeLines := by
  have hclear := c.activeLines_setPba (maskClear c.pba v)
  unfold Chip.msixRelease
  split
  · dsimp only
    split
    · exact (Chip.activeLines_congr rfl).trans hclear
    · exact hclear
  · rfl

theorem Chip.activeLines_notice (c : Chip) : c.notice.activeLines = c.activeLines := by
  exact (Chip.activeLines_congr rfl).trans ((Chip.foldl_keeps Chip.activeLines (fun d v _ => d.activeLines_msixDue v) _).trans
    (Chip.foldl_keeps Chip.activeLines (fun d v _ => d.activeLines_msixRelease _ v) c))

theorem Chip.activeLines_addSat {a : Nat} (h : noLineReg a) (c : Chip) (k : Nat) : (c.addSat a k).activeLines = c.activeLines :=
  Chip.activeLines_setReg h c _

theorem noLineReg_FUL_STALL {n : Nat} (h : n < 8) : noLineReg (R.FUL_STALL n) := .inl (by rw [R.FUL_STALL]; omega)

theorem noLineReg_FUL_STAT {n : Nat} (h : n < 8) : noLineReg (R.FUL_STAT n) := .inl (by rw [R.FUL_STAT]; omega)

theorem Chip.activeLines_stallTally {was : List Nat} (hwas : ∀ n ∈ was, n < 8) (k : Nat) (c : Chip) :
    (Chip.stallTally was k c).activeLines = c.activeLines := by
  unfold Chip.stallTally
  rw [Chip.foldl_keeps Chip.activeLines (fun d n hn => ?_),
    Chip.foldl_keeps Chip.activeLines (fun d n hn => d.activeLines_addSat (noLineReg_FUL_STALL (hwas n hn)) k)]
  split
  · rfl
  · exact d.activeLines_setN (noLineReg_FUL_STAT (List.mem_range.1 hn)) _

/-! ### Pending vectors (R244, R372) -/

theorem bit_mod_two_pow {m v n : Nat} (h : v < n) : bit (m % 2 ^ n) v = bit m v := by
  have htest : ∀ x, bit x v = x.testBit v := fun x => Nat.testBit_eq_decide_div_mod_eq.symm
  rw [htest, htest, Nat.testBit_mod_two_pow, decide_eq_true h, Bool.true_and]

theorem Chip.pba_setPba (c : Chip) (m : Nat) : (c.setPba m).pba = m % 2 ^ 64 := by
  rw [Chip.pba, Chip.setPba, Chip.rn_setN_ne _ _ (by decide), Chip.rn_setN, Chip.rn_setN]
  omega

theorem Chip.flag_congr {c d : Chip} {a : Nat} (h : d.reg a = c.reg a) (f : Fld) : d.flag a f = c.flag a f := by
  rw [Chip.flag, Chip.fld, Chip.rn_congr h]
  rfl

/-- The registers that decide whether a vector may be sent. -/
theorem Chip.vectorOpen_congr {c d : Chip} (hp : d.pcie = c.pcie) {v : Nat} (hc : d.reg (R.HIF_MSIX_CTRL v) = c.reg (R.HIF_MSIX_CTRL v))
    (hl : d.reg R.HIF_LINK = c.reg R.HIF_LINK) : d.vectorOpen v = c.vectorOpen v := by
  rw [Chip.vectorOpen, Chip.msixOpen, Chip.pcieAwake, hp, Chip.flag_congr hc, Chip.flag_congr hl]
  rfl

section
variable {v : Nat} (hv : v < 64)
include hv

theorem R.HIF_MSIX_CTRL_ne_low : R.HIF_MSIX_CTRL v ≠ R.HIF_MSIX_PBA_L := by simp only [R.HIF_MSIX_CTRL, R.HIF_MSIX_PBA_L]; omega

theorem R.HIF_MSIX_CTRL_ne_high : R.HIF_MSIX_CTRL v ≠ R.HIF_MSIX_PBA_H := by simp only [R.HIF_MSIX_CTRL, R.HIF_MSIX_PBA_H]; omega

theorem Chip.vectorOpen_msixDue (c : Chip) (w : Nat) : (c.msixDue w).vectorOpen v = c.vectorOpen v := by
  obtain ⟨r, o, h⟩ := Chip.RegsOut.msixDue c w
  exact Chip.vectorOpen_congr (by rw [h]) (c.reg_msixDue_ne (R.HIF_MSIX_CTRL_ne_low hv) (R.HIF_MSIX_CTRL_ne_high hv) w)
    (c.reg_msixDue_ne (by decide) (by decide) w)

theorem Chip.vectorOpen_msixRelease (act : Nat) (c : Chip) (w : Nat) : (Chip.msixRelease act c w).vectorOpen v = c.vectorOpen v := by
  obtain ⟨r, o, h⟩ := Chip.RegsOut.msixRelease act c w
  exact Chip.vectorOpen_congr (by rw [h]) (Chip.reg_msixRelease_ne (R.HIF_MSIX_CTRL_ne_low hv) (R.HIF_MSIX_CTRL_ne_high hv) act c w)
    (Chip.reg_msixRelease_ne (by decide) (by decide) act c w)

/-- A vector that could be sent is not pending. -/
theorem Chip.bit_pba_msixDue {c : Chip} (h : bit c.pba v = true → c.vectorOpen v = false) (w : Nat) :
    bit (c.msixDue w).pba v = true → (c.msixDue w).vectorOpen v = false := by
  rw [c.vectorOpen_msixDue hv]
  unfold Chip.msixDue
  split
  · exact h
  next hshut =>
    rw [Chip.pba_setPba, bit_mod_two_pow hv, bit_maskSet]
    split
    next hvw => exact fun _ => hvw ▸ Bool.eq_false_of_not_eq_true hshut
    next => exact h

/-- Releasing vectors sets no pending bit, and clears that of a vector that could be sent. -/
theorem Chip.bit_pba_msixRelease (act : Nat) (c : Chip) (w : Nat) : bit (Chip.msixRelease act c w).pba v = true →
    bit c.pba v = true ∧ (w = v → c.vectorOpen v = false) := by
  unfold Chip.msixRelease
  split
  next hopen =>
    have hpba : (c.setPba (maskClear c.pba w)).pba = maskClear c.pba w % 2 ^ 64 := c.pba_setPba _
    have hclear : bit (maskClear c.pba w % 2 ^ 64) v = true → bit c.pba v = true ∧ (w = v → c.vectorOpen v = false) := by
      rw [bit_mod_two_pow hv, bit_maskClear]
      split
      · nofun
      next hvw => exact fun h => ⟨h, fun hwv => absurd hwv.symm hvw⟩
    dsimp only
    split <;> exact hpba ▸ hclear
  next hshut => exact fun h => ⟨h, fun hwv => hwv ▸ Bool.eq_false_of_not_eq_true hshut⟩

theorem Chip.bit_pba_foldl_msixRelease (act : Nat) (l : List Nat) (c : Chip) : bit (l.foldl (Chip.msixRelease act) c).pba v = true →
    bit c.pba v = true ∧ (v ∈ l → c.vectorOpen v = false) := by
  induction l generalizing c with
  | nil => exact fun h => ⟨h, nofun⟩
  | cons w l ih =>
    intro h
    obtain ⟨hbit, hrest⟩ := ih _ h
    obtain ⟨hpend, hshut⟩ := c.bit_pba_msixRelease hv act w hbit
    refine ⟨hpend, fun hmem => ?_⟩
    rcases List.mem_cons.1 hmem with hvw | hin
    · exact hshut hvw.symm
    · rw [← c.vectorOpen_msixRelease hv act w, hrest hin]

theorem Chip.bit_pba_foldl_msixDue (l : List Nat) (c : Chip) (h : bit c.pba v = true → c.vectorOpen v = false) :
    bit (l.foldl Chip.msixDue c).pba v = true → (l.foldl Chip.msixDue c).vectorOpen v = false := by
  induction l generalizing c with
  | nil => exact h
  | cons w l ih => exact ih _ (c.bit_pba_msixDue hv h w)

/-- After the messages of a command no vector is pending that could be sent. -/
theorem Chip.bit_pba_notice (c : Chip) : bit c.notice.pba v = true → c.notice.vectorOpen v = false := by
  refine Chip.bit_pba_foldl_msixDue hv _ _ (fun hbit => ?_)
  obtain ⟨hpend, hshut⟩ := Chip.bit_pba_foldl_msixRelease hv _ _ _ hbit
  rw [Chip.foldl_keeps (Chip.vectorOpen · v) (fun d w _ => d.vectorOpen_msixRelease hv _ w)]
  exact hshut (List.mem_filter.2 ⟨List.mem_range.2 hv, hpend⟩)

end

/-! ### Stalled instances (R195) -/

theorem R.FUL_STAT_injective : Function.Injective R.FUL_STAT := fun n m h => by simp only [R.FUL_STAT] at h; omega

theorem Chip.fulStalled_congr {c d : Chip} (h : d.lanes = c.lanes) (n : Nat) : d.fulStalled n = c.fulStalled n := by
  rw [Chip.fulStalled, Chip.lane, h]
  rfl

/-- STALL of one codec, put as the codec is. -/
def Chip.showStall (c : Chip) (n : Nat) : Chip :=
  if c.flag (R.FUL_STAT n) F.FUL_STAT_STALL = c.fulStalled n then c else c.setFlag (R.FUL_STAT n) F.FUL_STAT_STALL (c.fulStalled n)

theorem Chip.showStall_lanes (c : Chip) (n : Nat) : (c.showStall n).lanes = c.lanes := by
  unfold Chip.showStall
  split <;> rfl

theorem Chip.flag_showStall_same (c : Chip) (n : Nat) : (c.showStall n).flag (R.FUL_STAT n) F.FUL_STAT_STALL = c.fulStalled n := by
  unfold Chip.showStall
  split
  next h => exact h
  next => exact c.flag_setFlag _ _ _ (by decide) rfl

theorem Chip.flag_showStall_ne (c : Chip) {n m : Nat} (h : m ≠ n) :
    (c.showStall n).flag (R.FUL_STAT m) F.FUL_STAT_STALL = c.flag (R.FUL_STAT m) F.FUL_STAT_STALL := by
  unfold Chip.showStall
  split
  · rfl
  · exact c.flag_setFlag_ne _ _ _ (fun hreg => h (R.FUL_STAT_injective hreg))

theorem Chip.flag_foldl_showStall (l : List Nat) (c : Chip) {n : Nat} (h : n ∈ l) :
    (l.foldl Chip.showStall c).flag (R.FUL_STAT n) F.FUL_STAT_STALL = c.fulStalled n := by
  induction l using List.reverseRecOn generalizing c with
  | nil => exact absurd h List.not_mem_nil
  | append_singleton l m ih =>
    rw [List.foldl_concat]
    have hlanes : (l.foldl Chip.showStall c).lanes = c.lanes := Chip.foldl_keeps Chip.lanes (fun d k _ => d.showStall_lanes k) c
    by_cases hm : n = m
    · rw [hm, Chip.flag_showStall_same, Chip.fulStalled_congr hlanes]
    · rw [Chip.flag_showStall_ne _ hm, ih c ((List.mem_append.1 h).resolve_right (fun hin => hm (List.mem_singleton.1 hin)))]

/-- STALL shows the instances as they are. -/
theorem Chip.flag_stallTally (was : List Nat) (k : Nat) (c : Chip) {n : Nat} (hn : n < 8) :
    (Chip.stallTally was k c).flag (R.FUL_STAT n) F.FUL_STAT_STALL = (Chip.stallTally was k c).fulStalled n := by
  obtain ⟨r, o, h⟩ := Chip.RegsOut.stallTally was k c
  have hlanes : (Chip.stallTally was k c).lanes = c.lanes := by rw [h]
  have hwas : (was.foldl (fun c n => c.addSat (R.FUL_STALL n) k) c).lanes = c.lanes := Chip.foldl_keeps Chip.lanes (fun d m _ => d.addSat_lanes _ k) c
  rw [Chip.fulStalled_congr hlanes, ← Chip.fulStalled_congr hwas]
  exact Chip.flag_foldl_showStall _ _ (List.mem_range.2 hn)

/-! ### The condition kept -/

/-- All that the settled condition asks before the stalls are shown. -/
structure Chip.LinesSettled (c : Chip) : Prop where
  fatal : c.fatal = none
  reset : c.resetReq = false
  kick : c.evt.kick = 0
  lines : c.evt.active = c.activeLines
  pending : ∀ v, v < 64 → bit c.pba v = true → c.vectorOpen v = false

theorem Chip.Settled.linesSettled {c : Chip} (h : c.Settled) : c.LinesSettled := ⟨h.fatal, h.reset, h.kick, h.lines, h.pending⟩

theorem Chip.LinesSettled.pass {c : Chip} (h : c.LinesSettled) (n : Nat) : (c.pass n).LinesSettled :=
  ⟨h.fatal, h.reset, h.kick, h.lines, h.pending⟩

theorem Chip.linesSettled_notice {c : Chip} (hf : c.fatal = none) (hr : c.resetReq = false) : c.notice.LinesSettled := by
  obtain ⟨d, e, ⟨r, o, rfl⟩, hnotice⟩ := c.notice_eq
  exact ⟨by rw [hnotice]; exact hf, by rw [hnotice]; exact hr, rfl, c.activeLines_notice.symm, fun v hv => c.bit_pba_notice hv⟩

/-- The stall counts and flags settle the last of the condition and leave the rest. -/
theorem Chip.LinesSettled.settled_stallTally {c : Chip} (h : c.LinesSettled) {was : List Nat} (hwas : ∀ n ∈ was, n < 8) (k : Nat) :
    (Chip.stallTally was k c).Settled := by
  obtain ⟨r, o, hshape⟩ := Chip.RegsOut.stallTally was k c
  have hreg : ∀ a, 0x600000 ≤ a → (Chip.stallTally was k c).reg a = c.reg a := fun a ha =>
    Chip.reg_stallTally_ne (fun n hn => by have := hwas n hn; rw [R.FUL_STALL]; omega) (fun n hn => by rw [R.FUL_STAT]; omega) k c
  have hlow := Chip.rn_congr (hreg R.HIF_MSIX_PBA_L (by decide))
  have hhigh := Chip.rn_congr (hreg R.HIF_MSIX_PBA_H (by decide))
  refine ⟨by rw [hshape]; exact h.fatal, by rw [hshape]; exact h.reset, by rw [hshape]; exact h.kick, ?_,
    fun n hn => Chip.flag_stallTally was k c hn, fun v hv hbit => ?_⟩
  · rw [Chip.activeLines_stallTally hwas, ← h.lines, hshape]
  · rw [Chip.vectorOpen_congr (by rw [hshape]) (hreg _ (by rw [R.HIF_MSIX_CTRL]; omega)) (hreg _ (by decide))]
    refine h.pending v hv ?_
    rwa [Chip.pba, hlow, hhigh] at hbit

theorem Chip.Settled.idleFor {c : Chip} (h : c.Settled) (n : Nat) : (c.idleFor n).Settled :=
  (h.linesSettled.pass n).settled_stallTally (fun _ hm => Chip.lt_of_mem_stalledNow hm) n

/-- What every command ends with settles whatever its effect has made of the engine. -/
theorem State.settled_after (s : State) (c : Chip) : (s.after c).chip.Settled :=
  ((Chip.linesSettled_notice (c := c.settle) rfl rfl).pass 1).settled_stallTally (fun _ hm => Chip.lt_of_mem_stalledNow hm) _

/-- Settles O7: at reset nothing is demanded, active, stalled or pending. -/
theorem settledAtReset : Obligations.SettledAtReset :=
  ⟨rfl, rfl, rfl, rfl, by decide, by decide⟩

/-- Settles O8: a command's end settles, and idle time keeps what is settled. -/
theorem settledKept : Obligations.SettledKept := by
  intro s t hs hstep
  rw [step] at hstep
  split at hstep
  next =>
    cases hstep
    exact hs.idleFor _
  next i rest hpending =>
    obtain ⟨f, hf⟩ := exec_eq_act i { s with pending := rest }
    rw [hf, State.act] at hstep
    cases hstep
    split
    · exact State.settled_after _ _
    · exact hs.idleFor 1

end Sys2Proof.Machine
end

section
/-! The reset state (R11), read at an address beyond the 16 partitions. -/

namespace Sys2Proof.Machine

/-- Where the status register of a partition 1153 would stand, STW_RAIL_CFG resets to a value whose two low bits are not 0. -/
theorem prtState_reset_beyond : State.reset.chip.prtState 1153 ≠ 0 := by decide +kernel

/-- Refutes O1: the statement is about every number p, also 1153, where PRT_STAT's address is that of STW_RAIL_CFG. Read as a partition's
status, its reset value says that the partition is armed. -/
theorem not_resetState : ¬ Obligations.ResetState := by
  rintro ⟨-, -, -, -, -, -, -, -, -, harmed, -⟩
  exact absurd (harmed 1153) (by rw [Chip.armed, decide_eq_true prtState_reset_beyond]; decide)

end Sys2Proof.Machine
end

section
/-! Registers by range: what an update leaves of the register file outside a set of addresses. -/

namespace Sys2Proof.Machine

/-- Registers outside `P` read in `d` as in `c`. -/
def Chip.RegsIn (P : Nat → Prop) (c d : Chip) : Prop := ∀ a, ¬P a → d.reg a = c.reg a

section
variable {P : Nat → Prop} {c d e : Chip}

theorem Chip.RegsIn.refl (P : Nat → Prop) (c : Chip) : c.RegsIn P c := fun _ _ => rfl

theorem Chip.RegsIn.of_regs (h : d.regs = c.regs) : c.RegsIn P d := fun a _ => Chip.reg_congr h a

theorem Chip.RegsIn.trans (h : c.RegsIn P d) (k : d.RegsIn P e) : c.RegsIn P e := fun a ha => (k a ha).trans (h a ha)

theorem Chip.RegsIn.mono {Q : Nat → Prop} (h : c.RegsIn P d) (hPQ : ∀ a, P a → Q a) : c.RegsIn Q d := fun a ha => h a (fun hp => ha (hPQ a hp))

theorem Chip.RegsIn.ite {b : Prop} [Decidable b] (h : c.RegsIn P d) (k : c.RegsIn P e) : c.RegsIn P (if b then d else e) := by
  split
  · exact h
  · exact k

theorem Chip.RegsIn.setN (c : Chip) {a : Nat} (n : Nat) (h : P a) : c.RegsIn P (c.setN a n) := fun _ hb => c.reg_setN_ne n (fun hab => hb (hab ▸ h))

theorem Chip.RegsIn.setFld (c : Chip) {a : Nat} (f : Fld) (v : Nat) (h : P a) : c.RegsIn P (c.setFld a f v) := .setN c _ h

theorem Chip.RegsIn.setFlag (c : Chip) {a : Nat} (f : Fld) (b : Bool) (h : P a) : c.RegsIn P (c.setFlag a f b) := .setN c _ h

theorem Chip.RegsIn.addCnt (c : Chip) {a : Nat} (k : Nat) (h : P a) : c.RegsIn P (c.addCnt a k) := .setN c _ h

theorem Chip.RegsIn.setPair (c : Chip) {a : Nat} (w v : Nat) (h : P a) (h4 : P (a + 4)) : c.RegsIn P (c.setPair w a v) :=
  (Chip.RegsIn.setN c _ h).trans (.setN _ _ h4)

theorem Chip.RegsIn.setTriple (c : Chip) {a : Nat} (v : Nat) (h : P a) (h4 : P (a + 4)) (h8 : P (a + 8)) : c.RegsIn P (c.setTriple a v) :=
  ((Chip.RegsIn.setN c _ h).trans (.setN _ _ h4)).trans (.setN _ _ h8)

theorem Chip.RegsIn.foldl {α : Type} {f : Chip → α → Chip} {l : List α} (h : ∀ c, ∀ x ∈ l, Chip.RegsIn P c (f c x)) (c : Chip) :
    c.RegsIn P (l.foldl f c) := fun a ha => Chip.reg_foldl (fun c x hx => h c x hx a ha) c

theorem Chip.RegsIn.rn (h : c.RegsIn P d) {a : Nat} (ha : ¬P a) : d.rn a = c.rn a := Chip.rn_congr (h a ha)

theorem Chip.RegsIn.flag (h : c.RegsIn P d) {a : Nat} (ha : ¬P a) (f : Fld) : d.flag a f = c.flag a f := Chip.flag_congr (h a ha) f

theorem Chip.RegsIn.fld (h : c.RegsIn P d) {a : Nat} (ha : ¬P a) (f : Fld) : d.fld a f = c.fld a f := by rw [Chip.fld, h.rn ha, Chip.fld]

end

/-- The status registers and the Scrivener's: where events and records are noted. -/
def noteReg (a : Nat) : Prop := 0x580000 ≤ a ∧ a < 0x5d0000

theorem noteReg_EVT_STAT {n : Nat} (h : n < 64) : noteReg (R.EVT_STAT n) := by
  rw [noteReg, R.EVT_STAT]; omega

/-- Raising an event changes its status register and the Scrivener's counts. -/
theorem Chip.RegsIn.raise (c : Chip) {e : Nat × Nat} (h : e.1 < 64) : c.RegsIn noteReg (c.raise e) := fun a ha =>
  c.reg_raise_ne e (fun hmem => ha (by
    simp only [eventRegs, List.mem_cons, List.not_mem_nil, or_false] at hmem
    rcases hmem with rfl | rfl | rfl | rfl
    · exact noteReg_EVT_STAT h
    · exact noteReg_EVT_STAT (by decide)
    · exact ⟨by decide, by decide⟩
    · exact ⟨by decide, by decide⟩))

theorem Chip.RegsIn.raiseTyped (c : Chip) {e : Nat × Nat} (h : e.1 < 64) : c.RegsIn noteReg (c.raiseTyped e) := fun _ ha =>
  c.reg_setEvent_ne e.1 e.2 (fun hab => ha (hab ▸ noteReg_EVT_STAT h))

theorem Chip.RegsIn.record (c : Chip) (t k m : Nat) (l : List Nat) : c.RegsIn noteReg (c.record t k m l) := fun _ ha =>
  c.reg_record_ne t k m l (fun hab => ha (hab ▸ noteReg_EVT_STAT (by decide))) (fun hab => ha (hab ▸ ⟨by decide, by decide⟩))
    (fun hab => ha (hab ▸ ⟨by decide, by decide⟩))

end Sys2Proof.Machine
end

section
/-! The Scrivener's work (R376 to R393): what writing records, freezing and exporting may change of the engine. -/

namespace Sys2Proof.Machine

/-- `d` is `c` but for the Scrivener, the event counts, the registers of both, and the partitions' references to snapshots (R378). -/
def Chip.ScvOnly (c d : Chip) : Prop := (∃ r e q p, d = { c with regs := r, evt := e, scv := q, parts := p }) ∧ c.RegsIn noteReg d

section
variable {c d e : Chip}

theorem Chip.ScvOnly.refl (c : Chip) : c.ScvOnly c := ⟨⟨_, _, _, _, rfl⟩, .refl _ c⟩

theorem Chip.ScvOnly.trans (h : c.ScvOnly d) (k : d.ScvOnly e) : c.ScvOnly e := by
  obtain ⟨⟨r, e, q, p, rfl⟩, hregs⟩ := h
  obtain ⟨⟨r', e', q', p', rfl⟩, kregs⟩ := k
  exact ⟨⟨r', e', q', p', rfl⟩, hregs.trans kregs⟩

theorem Chip.ScvOnly.ite {b : Prop} [Decidable b] (h : c.ScvOnly d) (k : c.ScvOnly e) : c.ScvOnly (if b then d else e) := by
  split
  · exact h
  · exact k

theorem Chip.ScvOnly.of_scv (c : Chip) (q : Scv) : c.ScvOnly { c with scv := q } := ⟨⟨_, _, q, _, rfl⟩, .of_regs rfl⟩

theorem Chip.ScvOnly.of_events (h : c.EventsOnly d) (k : c.RegsIn noteReg d) : c.ScvOnly d := by
  obtain ⟨r, e, q, rfl⟩ := h
  exact ⟨⟨r, e, q, _, rfl⟩, k⟩

theorem Chip.ScvOnly.setN (c : Chip) {a : Nat} (n : Nat) (h : noteReg a) : c.ScvOnly (c.setN a n) := .of_events (.setN c a n) (.setN c n h)

theorem Chip.ScvOnly.setFld (c : Chip) {a : Nat} (f : Fld) (v : Nat) (h : noteReg a) : c.ScvOnly (c.setFld a f v) := .setN c _ h

theorem Chip.ScvOnly.setFlag (c : Chip) {a : Nat} (f : Fld) (b : Bool) (h : noteReg a) : c.ScvOnly (c.setFlag a f b) := .setN c _ h

theorem Chip.ScvOnly.addCnt (c : Chip) {a : Nat} (k : Nat) (h : noteReg a) : c.ScvOnly (c.addCnt a k) := .setN c _ h

theorem Chip.ScvOnly.raise (c : Chip) {e : Nat × Nat} (h : e.1 < 64) : c.ScvOnly (c.raise e) := .of_events (.raise c e) (.raise c h)

theorem Chip.ScvOnly.record (c : Chip) (t k m : Nat) (l : List Nat) : c.ScvOnly (c.record t k m l) :=
  .of_events (.record c t k m l) (.record c t k m l)

theorem Chip.ScvOnly.foldl {α : Type} {f : Chip → α → Chip} (h : ∀ (c : Chip) x, c.ScvOnly (f c x)) (l : List α) (c : Chip) :
    c.ScvOnly (l.foldl f c) := by
  induction l generalizing c with
  | nil => exact .refl c
  | cons x l ih => exact (h c x).trans (ih _)

end

theorem noteReg_halfFirst (b : Bool) : noteReg (halfFirst b) := by cases b <;> exact ⟨by decide, by decide⟩

theorem noteReg_halfEnd (b : Bool) : noteReg (halfEnd b) := by cases b <;> exact ⟨by decide, by decide⟩

theorem noteReg_halfExp (b : Bool) : noteReg (halfExp b) := by cases b <;> exact ⟨by decide, by decide⟩

/-- The named registers of the Scrivener. -/
theorem noteReg_SCV_STAT : noteReg R.SCV_STAT := ⟨by decide, by decide⟩
theorem noteReg_SCV_AON : noteReg R.SCV_AON := ⟨by decide, by decide⟩
theorem noteReg_SCV_REC_NO : noteReg R.SCV_REC_NO := ⟨by decide, by decide⟩

theorem Chip.ScvOnly.setHalf (c : Chip) (b : Bool) (h : Half) : c.ScvOnly (c.setHalf b h) := .of_scv c _

theorem Chip.ScvOnly.exportStart (c : Chip) (a b : Bool) : c.ScvOnly (c.exportStart a b) :=
  (Chip.ScvOnly.of_scv c _).trans (.setFlag _ _ _ noteReg_SCV_STAT)

theorem Chip.ScvOnly.halfClear (c : Chip) (b : Bool) : c.ScvOnly (c.halfClear b) :=
  ((((Chip.ScvOnly.setHalf c b {}).trans (.setFld _ _ _ noteReg_SCV_STAT)).trans (.setN _ _ (noteReg_halfEnd b))).trans
    (.setN _ _ (noteReg_halfExp b))).trans (.of_scv _ _)

theorem Chip.ScvOnly.halfRestart (c : Chip) (b : Bool) : c.ScvOnly (c.halfRestart b) :=
  (((Chip.ScvOnly.halfClear c b).trans (.setFld _ _ _ noteReg_SCV_STAT)).trans (.setFlag _ _ _ noteReg_SCV_STAT)).trans
    (.setN _ _ (noteReg_halfFirst b))

theorem Chip.ScvOnly.halfLose (c : Chip) (b e : Bool) : c.ScvOnly (c.halfLose b e) := by
  have hcount (n : Nat) : c.ScvOnly (c.addCnt R.SCV_LOST n) := .addCnt c n ⟨by decide, by decide⟩
  unfold Chip.halfLose
  exact .ite (.refl c) (.ite ((hcount _).trans (.raise _ (by decide))) (hcount _))

theorem Chip.ScvOnly.halfNext (c : Chip) : c.ScvOnly c.halfNext := by
  unfold Chip.halfNext
  exact .ite ((Chip.ScvOnly.halfLose c _ _).trans (.halfRestart _ _))
    (((((Chip.ScvOnly.setFld c _ _ noteReg_SCV_STAT).trans (.raise _ (by decide))).trans (.exportStart _ _ _)).trans
      (.halfLose _ _ _)).trans (.halfRestart _ _))

theorem Chip.ScvOnly.noteSnap (c : Chip) (r : Rec) (no : Nat) : c.ScvOnly (c.noteSnap r no) := by
  refine ⟨?_, .of_regs (c.noteSnap_regs r no)⟩
  unfold Chip.noteSnap
  split
  · dsimp only
    split
    · exact ⟨_, _, _, _, rfl⟩
    · exact ⟨_, _, _, _, rfl⟩
  · exact ⟨_, _, _, _, rfl⟩

theorem Chip.ScvOnly.writeNew (c : Chip) (r : Rec) : c.ScvOnly (c.writeNew r) := by
  have hnote : c.ScvOnly (if r.typ = 2 then c.noteSnap r (c.rn R.SCV_REC_NO + 1) else c) := .ite (.noteSnap c _ _) (.refl c)
  exact (hnote.trans (.ite (.halfNext _) (.refl _))).trans
    (((Chip.ScvOnly.setHalf _ _ _).trans (.setN _ _ noteReg_SCV_REC_NO)).trans (.setN _ _ (noteReg_halfEnd _)))

theorem Chip.ScvOnly.foldInto {c d : Chip} {l : HeldRec} {r : Rec} (h : c.foldInto l r = some d) : c.ScvOnly d := by
  unfold Chip.foldInto at h
  obtain ⟨-, hd⟩ := (Option.ite_none_left_eq_some ..).1 h
  cases hd
  exact ((Chip.ScvOnly.setHalf _ _ _).trans (.setN _ _ (noteReg_halfEnd _))).trans (.addCnt _ _ ⟨by decide, by decide⟩)

theorem Chip.ScvOnly.writeRec (c : Chip) (r : Rec) : c.ScvOnly (c.writeRec r) := by
  unfold Chip.writeRec
  split
  · exact .writeNew c r
  next l _ =>
    refine .ite ?_ (.writeNew c r)
    cases hfold : c.foldInto l r with
    | none => exact .writeNew c r
    | some d => exact .foldInto hfold

theorem Chip.ScvOnly.drain (c : Chip) : c.ScvOnly c.drain := (Chip.ScvOnly.of_scv c _).trans (.foldl Chip.ScvOnly.writeRec _ _)

theorem Chip.ScvOnly.lossNote (c : Chip) : c.ScvOnly c.lossNote := by
  unfold Chip.lossNote
  exact .ite ((Chip.ScvOnly.of_scv c _).trans (.ite (.record _ _ _ _ _) (.refl _))) (.refl c)

theorem Chip.ScvOnly.latchLw (c : Chip) (k t : Nat) (b : Bool) : c.ScvOnly (c.latchLw k t b) := by
  have hlw : noteReg R.SCV_LW_L ∧ noteReg R.SCV_LW_H := ⟨⟨by decide, by decide⟩, ⟨by decide, by decide⟩⟩
  unfold Chip.latchLw
  exact .ite (.setN c _ hlw.2) (((Chip.ScvOnly.setN c _ hlw.1).trans (.setN _ _ hlw.2)).trans (.setFlag _ _ _ noteReg_SCV_AON))

theorem Chip.ScvOnly.scvFreeze (c : Chip) (f : Fatal) : c.ScvOnly (c.scvFreeze f) := by
  unfold Chip.scvFreeze
  refine .ite ((Chip.ScvOnly.ite (.refl c) (.addCnt c 1 ⟨by decide, by decide⟩)).trans (.latchLw _ _ _ _)) ?_
  have hdrain : c.ScvOnly c.drain.lossNote.drain := ((Chip.ScvOnly.drain c).trans (.lossNote _)).trans (.drain _)
  have hfatal := hdrain.trans (.ite (b := f.cause = 6) (.refl _)
    (.writeNew _ ⟨3, 0, f.stamp, [f.cause, f.detail.length] ++ leBytes 2 c.openMask ++ [0, 0, 0, 0] ++ f.detail, c.cycle⟩))
  exact (((hfatal.trans (.setFlag _ _ _ noteReg_SCV_STAT)).trans (.ite (.refl _) (.raise _ (by decide)))).trans (.latchLw _ _ _ _)).trans
    (.exportStart _ _ _)

end Sys2Proof.Machine
end

section
/-! Safe entry (R428): what each of its steps may change, and the state it leaves. -/

namespace Sys2Proof.Machine

/-! ### Fields of registers -/

/-- A field reads as before when another field, apart from it, is written, be it of the same register or not. -/
theorem Chip.fld_setFld_of_apart (c : Chip) (a b : Nat) (f g : Fld) (v : Nat) (h : f.lo + f.w ≤ 32)
    (d : g.lo + g.w ≤ f.lo ∨ f.lo + f.w ≤ g.lo) : (c.setFld a f v).fld b g = c.fld b g := by
  by_cases hab : b = a
  · rw [hab, c.fld_setFld_apart a f g v h d]
  · exact c.fld_setFld_ne f g v hab

theorem putBits_bits_self (x lo w : Nat) : putBits x lo w (bits x lo w) = x := by
  have hcut := bits_cut x lo w
  rw [putBits_cut, bits_mod, ← hcut]

/-- Clearing a flag that is clear changes no register. -/
theorem Chip.reg_setFlag_false (c : Chip) {a : Nat} {f : Fld} (h : c.flag a f = false) (b : Nat) : (c.setFlag a f false).reg b = c.reg b := by
  have hzero : c.fld a f = 0 := by simpa [Chip.flag] using h
  by_cases hb : b = a
  · have hself : putBits (c.rn a) f.lo f.w 0 = c.rn a := by rw [← hzero]; exact putBits_bits_self _ _ _
    have hset : c.setFlag a f false = c.setReg a (BitVec.ofNat 32 (putBits (c.rn a) f.lo f.w 0)) := rfl
    rw [hb, hset, hself, Chip.reg_setReg, Chip.rn, BitVec.ofNat_toNat, BitVec.setWidth_eq]
  · exact c.reg_setFld_ne f _ hb

/-! ### What the data path leaves alone -/

/-- The pins, the Steward's own state, the trigger resources, the ladder's transitions and a demanded reset: what no step of the data path's
end changes. -/
def Chip.control (c : Chip) : Pins × Stw × Trs × Pwr × Bool := (c.pins, c.stw, c.trs, c.pwr, c.resetReq)

@[simp] theorem Chip.setN_control (c : Chip) (a n : Nat) : (c.setN a n).control = c.control := rfl

@[simp] theorem Chip.setFld_control (c : Chip) (a : Nat) (f : Fld) (v : Nat) : (c.setFld a f v).control = c.control := rfl

@[simp] theorem Chip.setFlag_control (c : Chip) (a : Nat) (f : Fld) (b : Bool) : (c.setFlag a f b).control = c.control := rfl

@[simp] theorem Chip.setLane_control (c : Chip) (g : Nat) (l : Lane) : (c.setLane g l).control = c.control := rfl

@[simp] theorem Chip.setPart_control (c : Chip) (p : Nat) (q : Part) : (c.setPart p q).control = c.control := rfl

@[simp] theorem Chip.setPair_control (c : Chip) (w a v : Nat) : (c.setPair w a v).control = c.control := rfl

@[simp] theorem Chip.setTriple_control (c : Chip) (a v : Nat) : (c.setTriple a v).control = c.control := rfl

@[simp] theorem Chip.setEth_control (c : Chip) (n : Nat) (e : EthPort) : (c.setEth n e).control = c.control := rfl

theorem Chip.ScvOnly.control {c d : Chip} (h : c.ScvOnly d) : d.control = c.control := by
  obtain ⟨⟨_, _, _, _, rfl⟩, -⟩ := h
  rfl

@[simp] theorem Chip.raise_control (c : Chip) (e : Nat × Nat) : (c.raise e).control = c.control := by
  obtain ⟨_, _, _, h⟩ := Chip.EventsOnly.raise c e
  rw [h]; rfl

/-! ### A partition leaves its recording -/

/-- Registers of a lane group's data path and the keeper's status. -/
def laneReg (a : Nat) : Prop := a < 0x300000

@[simp] theorem Chip.seqStop_control (c : Chip) (p : Nat) : (c.seqStop p).control = c.control := by
  unfold Chip.seqStop
  exact Chip.foldl_keeps Chip.control (fun d _ _ => (Chip.setFlag_control _ _ _ _).trans (d.setFlag_control _ _ _)) c

@[simp] theorem Chip.fulActive_control (c : Chip) (p : Nat) (b : Bool) : (c.fulActive p b).control = c.control := by
  unfold Chip.fulActive
  exact Chip.foldl_keeps Chip.control (fun d _ _ => d.setFlag_control _ _ _) c

@[simp] theorem Chip.takeCorrection_control (c : Chip) (g ix : Nat) : (c.takeCorrection g ix).control = c.control := by
  unfold Chip.takeCorrection
  split
  · dsimp only
    split <;> rfl
  · rfl

@[simp] theorem Chip.laneDrop_control (c : Chip) (g : Nat) : (c.laneDrop g).control = c.control := by
  simp only [Chip.laneDrop, Chip.takeCorrection_control, Chip.injDrop, Chip.setFlag_control, Chip.setLane_control, Chip.putLane,
    Chip.refreshStage, Chip.setFld_control]

@[simp] theorem Chip.refreshPart_control (c : Chip) (p : Nat) : (c.refreshPart p).control = c.control := by
  simp only [Chip.refreshPart, Chip.setTriple_control, Chip.setPair_control, Chip.setFld_control, Chip.setN_control]

@[simp] theorem Chip.partSafe_control (c : Chip) (p : Nat) : (c.partSafe p).control = c.control := by
  have hdrop : ∀ d : Chip, ((c.prtGroups p).foldl Chip.laneDrop d).control = d.control :=
    Chip.foldl_keeps Chip.control (fun d g _ => d.laneDrop_control g)
  unfold Chip.partSafe
  split
  · simp only [Chip.refreshPart_control, Chip.setPrtState, Chip.setFld_control, Chip.setPart_control, hdrop, Chip.fulActive_control,
      Chip.seqStop_control]
  · rfl

theorem Chip.lt_of_mem_prtGroups {c : Chip} {p g : Nat} (h : g ∈ c.prtGroups p) : g < 8 := List.mem_range.1 (List.mem_filter.1 h).1

theorem Chip.RegsIn.fulActive (c : Chip) (p : Nat) (b : Bool) : c.RegsIn laneReg (c.fulActive p b) :=
  .foldl (fun c g hg => .setFlag c _ _ (by have := Chip.lt_of_mem_prtGroups hg; rw [laneReg, R.FUL_STAT]; omega)) c

theorem Chip.RegsIn.takeCorrection (c : Chip) (g ix : Nat) : c.RegsIn laneReg (c.takeCorrection g ix) := by
  unfold Chip.takeCorrection
  exact .ite (.ite (.trans (.of_regs rfl) (.setFlag _ _ _ (by rw [laneReg]; decide))) (.of_regs rfl)) (.refl _ c)

theorem Chip.RegsIn.refreshStage (c : Chip) {g : Nat} (h : g < 8) : c.RegsIn laneReg (c.refreshStage g) := by
  have hstage : laneReg (R.LG_STAGE g) := by rw [laneReg, R.LG_STAGE]; omega
  have hused := Chip.RegsIn.setFld c F.LG_STAGE_USED (c.slotsUsed g) hstage
  exact hused.trans (.setFld _ F.LG_STAGE_PEAK _ hstage)

theorem Chip.RegsIn.injDrop (c : Chip) {g : Nat} (h : g < 8) : c.RegsIn laneReg (c.injDrop g) :=
  .setFlag (c.setLane g { c.lane g with codec := { (c.lane g).codec with inject := false } }) F.FUL_STAT_INJ_PEND false
    (by rw [laneReg, R.FUL_STAT]; omega)

theorem Chip.RegsIn.laneDrop (c : Chip) {g : Nat} (h : g < 8) : c.RegsIn laneReg (c.laneDrop g) := by
  unfold Chip.laneDrop
  exact ((Chip.RegsIn.refreshStage (c.setLane g _) h).trans (.injDrop _ h)).trans (.takeCorrection _ _ _)

/-- The status registers of a partition that follow its segments, windows and blocks. -/
def partReg (p a : Nat) : Prop := 0x300004 + 0x1000 * p ≤ a ∧ a < 0x300880 + 0x1000 * p

theorem Chip.RegsIn.refreshPart (c : Chip) (p : Nat) : c.RegsIn (partReg p) (c.refreshPart p) := by
  have hstat : partReg p (R.PRT_STAT p) := by simp only [partReg, R.PRT_STAT]; omega
  have hlive : partReg p (R.PRT_LIVE0 p) ∧ partReg p (R.PRT_LIVE1 p) ∧ partReg p (R.PRT_LIVE2 p) := by
    simp only [partReg, R.PRT_LIVE0, R.PRT_LIVE1, R.PRT_LIVE2]; omega
  have hhold : partReg p (R.PRT_HOLD_STAT p) := by simp only [partReg, R.PRT_HOLD_STAT]; omega
  have hheld : partReg p (R.PRT_HELD_L p) ∧ partReg p (R.PRT_HELD_L p + 4) := by simp only [partReg, R.PRT_HELD_L]; omega
  have hold : partReg p (R.PRT_OLDEST_L p) ∧ partReg p (R.PRT_OLDEST_L p + 4) ∧ partReg p (R.PRT_OLDEST_L p + 8) := by
    simp only [partReg, R.PRT_OLDEST_L]; omega
  obtain ⟨h0, h1, h2⟩ := hlive
  unfold Chip.refreshPart
  generalize (c.part p).segs.foldl _ 0 = live
  dsimp only
  refine Chip.RegsIn.trans ?_ (.setTriple _ _ hold.1 hold.2.1 hold.2.2)
  refine Chip.RegsIn.trans ?_ (.setPair _ _ _ hheld.1 hheld.2)
  refine Chip.RegsIn.trans (Chip.RegsIn.trans ?_ (.setFld _ _ _ hhold)) (.setFld _ _ _ hhold)
  refine Chip.RegsIn.trans (Chip.RegsIn.trans (Chip.RegsIn.trans ?_ (.setN _ _ h0)) (.setN _ _ h1)) (.setN _ _ h2)
  exact .setFld _ _ _ hstat

/-- Two pages' registers differ where their places in the page do. -/
theorem Chip.prtState_refreshPart (c : Chip) (p q : Nat) : (c.refreshPart p).prtState q = c.prtState q := by
  have hne : ∀ {k : Nat}, 4 < k → k < 0x1000 → R.PRT_STAT q ≠ 0x300000 + k + 0x1000 * p := by
    intro k hlo hhi
    rw [R.PRT_STAT]
    omega
  have hlive : R.PRT_STAT q ≠ R.PRT_LIVE0 p ∧ R.PRT_STAT q ≠ R.PRT_LIVE1 p ∧ R.PRT_STAT q ≠ R.PRT_LIVE2 p := by
    simp only [R.PRT_STAT, R.PRT_LIVE0, R.PRT_LIVE1, R.PRT_LIVE2]; omega
  have hhold : R.PRT_STAT q ≠ R.PRT_HOLD_STAT p ∧ R.PRT_STAT q ≠ R.PRT_HELD_L p ∧ R.PRT_STAT q ≠ R.PRT_HELD_L p + 4 := by
    simp only [R.PRT_STAT, R.PRT_HOLD_STAT, R.PRT_HELD_L]; omega
  have hold : R.PRT_STAT q ≠ R.PRT_OLDEST_L p ∧ R.PRT_STAT q ≠ R.PRT_OLDEST_L p + 4 ∧ R.PRT_STAT q ≠ R.PRT_OLDEST_L p + 8 := by
    simp only [R.PRT_STAT, R.PRT_OLDEST_L]; omega
  have hlast : (c.refreshPart p).reg (R.PRT_STAT q) =
      (c.setFld (R.PRT_STAT p) F.PRT_STAT_LIVE_N (c.part p).segs.length).reg (R.PRT_STAT q) := by
    simp only [Chip.refreshPart, Chip.setTriple, Chip.setPair]
    rw [Chip.reg_setN_ne _ _ hold.2.2, Chip.reg_setN_ne _ _ hold.2.1, Chip.reg_setN_ne _ _ hold.1, Chip.reg_setN_ne _ _ hhold.2.2,
      Chip.reg_setN_ne _ _ hhold.2.1, Chip.reg_setFld_ne _ _ _ hhold.1, Chip.reg_setFld_ne _ _ _ hhold.1,
      Chip.reg_setN_ne _ _ hlive.2.2, Chip.reg_setN_ne _ _ hlive.2.1, Chip.reg_setN_ne _ _ hlive.1]
  rw [Chip.prtState, Chip.fld, Chip.rn_congr hlast]
  exact c.fld_setFld_of_apart _ _ _ _ _ (by decide) (.inl (by decide))

theorem R.PRT_STAT_injective : Function.Injective R.PRT_STAT := fun p q h => by simp only [R.PRT_STAT] at h; omega

theorem Chip.prtState_setPrtState (c : Chip) (p q s : Nat) : (c.setPrtState p s).prtState q = if q = p then s % 4 else c.prtState q := by
  split
  next h => rw [h]; exact c.fld_setFld _ _ _ (by decide)
  next h => exact c.fld_setFld_ne _ _ _ (fun hreg => h (R.PRT_STAT_injective hreg))

theorem Chip.prtState_seqStop (c : Chip) (p q : Nat) : (c.seqStop p).prtState q = c.prtState q :=
  Chip.foldl_keeps (Chip.prtState · q) (fun d n _ => (Chip.fld_setFld_of_apart _ _ _ _ _ _ (by decide) (.inl (by decide))).trans
    (d.fld_setFld_of_apart _ _ _ _ _ (by decide) (.inl (by decide)))) c

theorem Chip.RegsIn.prtState {c d : Chip} {P : Nat → Prop} (h : c.RegsIn P d) {q : Nat} (hq : ¬P (R.PRT_STAT q)) :
    d.prtState q = c.prtState q := h.fld hq _

theorem Chip.prtState_partSafe (c : Chip) (p q : Nat) : (c.partSafe p).prtState q = if q = p then 0 else c.prtState q := by
  have hlane : ¬laneReg (R.PRT_STAT q) := by rw [laneReg, R.PRT_STAT]; omega
  unfold Chip.partSafe
  split
  · dsimp only
    rw [Chip.prtState_refreshPart, Chip.prtState_setPrtState]
    split
    · rfl
    · have hset : ∀ (d : Chip) (x : Part), (d.setPart p x).prtState q = d.prtState q := fun d x => rfl
      have hdrop := Chip.RegsIn.foldl (P := laneReg) (f := fun c g => Chip.laneDrop c g)
        (fun d g hg => Chip.RegsIn.laneDrop d (Chip.lt_of_mem_prtGroups (c := c) (p := p) hg)) ((c.seqStop p).fulActive p false)
      rw [hset, hdrop.prtState hlane, (Chip.RegsIn.fulActive _ _ _).prtState hlane, Chip.prtState_seqStop]
  next h =>
    split
    next hqp => rw [hqp]; simpa [Chip.armed] using h
    next => rfl

/-- Once Safe entry has gone over the partitions none is armed. -/
theorem Chip.prtState_foldl_partSafe (l : List Nat) (c : Chip) (q : Nat) :
    (l.foldl Chip.partSafe c).prtState q = if q ∈ l then 0 else c.prtState q := by
  induction l using List.reverseRecOn with
  | nil => rfl
  | append_singleton l p ih =>
    rw [List.foldl_concat, Chip.prtState_partSafe, ih]
    by_cases hp : q = p <;> simp [hp]

/-- A sequencer's stop clears RUNNING and POST in a register at offset 4 of a block: others it leaves, and one in which both are clear. -/
theorem Chip.reg_seqStop (c : Chip) (p : Nat) {a : Nat}
    (h : a % 0x10000 ≠ 4 ∨ (c.flag a F.SQ_STAT_RUNNING = false ∧ c.flag a F.SQ_STAT_POST = false)) : (c.seqStop p).reg a = c.reg a := by
  refine List.foldlRecOn (motive := fun d : Chip => d.reg a = c.reg a) _ _ rfl (fun d hd n _ => ?_)
  by_cases hn : a = R.SQ_STAT n
  · have hclear := h.resolve_left (by rw [hn, R.SQ_STAT]; omega)
    rw [← Chip.flag_congr hd, ← Chip.flag_congr hd, hn] at hclear
    have hrun := d.reg_setFlag_false hclear.1
    rw [Chip.reg_setFlag_false _ ((Chip.flag_congr (hrun _) _).trans hclear.2), hrun, hd]
  · rw [← hd]
    exact (Chip.reg_setFld_ne _ _ _ hn).trans (d.reg_setFld_ne _ _ hn)

/-- A register above the partitions' that no sequencer's stop may change. -/
theorem Chip.reg_partSafe (c : Chip) {p a : Nat} (hp : p < 16) (ha : 0x400000 ≤ a)
    (h : a % 0x10000 ≠ 4 ∨ (c.flag a F.SQ_STAT_RUNNING = false ∧ c.flag a F.SQ_STAT_POST = false)) : (c.partSafe p).reg a = c.reg a := by
  have hlane : ¬laneReg a := by rw [laneReg]; omega
  have hpart : ¬partReg p a := by rw [partReg]; omega
  have hstat : a ≠ R.PRT_STAT p := by rw [R.PRT_STAT]; omega
  unfold Chip.partSafe
  split
  · have hset : ∀ (d : Chip) (x : Part), (d.setPart p x).reg a = d.reg a := fun d x => rfl
    have hdrop := Chip.RegsIn.foldl (P := laneReg) (f := fun c g => Chip.laneDrop c g)
      (fun d g hg => Chip.RegsIn.laneDrop d (Chip.lt_of_mem_prtGroups (c := c) (p := p) hg)) ((c.seqStop p).fulActive p false)
    dsimp only
    rw [Chip.RegsIn.refreshPart _ _ a hpart, Chip.setPrtState, Chip.reg_setFld_ne _ _ _ hstat, hset, hdrop a hlane,
      Chip.RegsIn.fulActive _ _ _ a hlane, c.reg_seqStop p h]
  · rfl

theorem Chip.reg_foldl_partSafe (c : Chip) {a : Nat} (ha : 0x400000 ≤ a)
    (h : a % 0x10000 ≠ 4 ∨ (c.flag a F.SQ_STAT_RUNNING = false ∧ c.flag a F.SQ_STAT_POST = false)) :
    ((List.range 16).foldl Chip.partSafe c).reg a = c.reg a := by
  refine List.foldlRecOn (motive := fun d : Chip => d.reg a = c.reg a) _ _ rfl (fun d hd p hp => ?_)
  rw [d.reg_partSafe (List.mem_range.1 hp) ha (by rwa [Chip.flag_congr hd, Chip.flag_congr hd]), hd]

/-! ### DMA, streamers, DRAM and the ladder -/

/-- Registers of the ladder, of the DRAM controller, of the host interface and of the ports. -/
def portReg (a : Nat) : Prop := a < 0x20000 ∨ (0x400000 ≤ a ∧ a < 0x700000)

@[simp] theorem Chip.dmaHalt_control (c : Chip) (b : Bool) : (c.dmaHalt b).control = c.control := by
  unfold Chip.dmaHalt
  split
  · dsimp only
    split
    · rw [Chip.raise_control]; rfl
    · rfl
  · rfl

/-- The registers that DMA's stop without an error changes. -/
theorem Chip.RegsIn.dmaHalt_false (c : Chip) : c.RegsIn (· = R.HIF_DMA_STAT) (c.dmaHalt false) := by
  unfold Chip.dmaHalt
  refine .ite ?_ (.refl _ c)
  have hrun := Chip.RegsIn.setFlag (P := (· = R.HIF_DMA_STAT)) c F.HIF_DMA_STAT_RUNNING false rfl
  have hstarved := hrun.trans (.setFlag _ F.HIF_DMA_STAT_STARVED false rfl)
  exact (hstarved.trans (.setFlag _ F.HIF_DMA_STAT_ERROR false rfl)).trans (.of_regs rfl)

theorem Chip.dmaRuns_dmaHalt_false (c : Chip) : (c.dmaHalt false).dmaRuns = false := by
  unfold Chip.dmaHalt
  split
  · have happart : ∀ (d : Chip) (f : Fld), F.HIF_DMA_STAT_RUNNING.lo + F.HIF_DMA_STAT_RUNNING.w ≤ f.lo → f.lo + f.w ≤ 32 →
        (d.setFlag R.HIF_DMA_STAT f false).dmaRuns = d.dmaRuns := fun d f hle h => by
      rw [Chip.dmaRuns, Chip.flag, Chip.setFlag, d.fld_setFld_apart _ _ _ _ h (.inl hle)]
      rfl
    have hrec : ∀ (d : Chip) (x : Dma), Chip.dmaRuns { d with dma := x } = d.dmaRuns := fun _ _ => rfl
    dsimp only
    rw [if_neg Bool.false_ne_true, hrec, happart _ _ (by decide) (by decide), happart _ _ (by decide) (by decide)]
    exact c.flag_setFlag _ _ _ (by decide) rfl
  next h => exact Bool.eq_false_of_not_eq_true h

theorem Chip.RegsIn.strHalt (c : Chip) (n : Nat) : c.RegsIn (· = R.ETH_STR_STAT n) (c.strHalt n) := by
  have hrun := Chip.RegsIn.setFlag (P := (· = R.ETH_STR_STAT n)) c F.ETH_STR_STAT_RUNNING false rfl
  have hwait := hrun.trans (.setFlag _ F.ETH_STR_STAT_WAIT_LINK false rfl)
  exact hwait.trans (.of_regs rfl)

/-- A streamer that runs is halted. -/
def Chip.strSafe (c : Chip) (n : Nat) : Chip := if c.strRuns n then c.strHalt n else c

@[simp] theorem Chip.strSafe_control (c : Chip) (n : Nat) : (c.strSafe n).control = c.control := by
  unfold Chip.strSafe
  split
  · exact (Chip.setEth_control _ n _).trans (Chip.setFlag_control _ _ _ _)
  · rfl

theorem Chip.RegsIn.strSafe (c : Chip) (n : Nat) : c.RegsIn (· = R.ETH_STR_STAT n) (c.strSafe n) := .ite (.strHalt c n) (.refl _ c)

theorem Chip.strRuns_strSafe (c : Chip) (n : Nat) : (c.strSafe n).strRuns n = false := by
  unfold Chip.strSafe
  split
  · have hflag := c.flag_setFlag (R.ETH_STR_STAT n) F.ETH_STR_STAT_RUNNING false (by decide) rfl
    have happart := Chip.fld_setFld_apart (c.setFlag (R.ETH_STR_STAT n) F.ETH_STR_STAT_RUNNING false) (R.ETH_STR_STAT n)
      F.ETH_STR_STAT_WAIT_LINK F.ETH_STR_STAT_RUNNING 0 (by decide) (.inl (by decide))
    have hrec : (c.strHalt n).strRuns n = ((c.setFlag (R.ETH_STR_STAT n) F.ETH_STR_STAT_RUNNING false).setFlag (R.ETH_STR_STAT n)
      F.ETH_STR_STAT_WAIT_LINK false).strRuns n := rfl
    rw [hrec]
    exact (congrArg (fun k => decide (k ≠ 0)) happart).trans hflag
  next h => exact Bool.eq_false_of_not_eq_true h

theorem R.ETH_STR_STAT_injective : Function.Injective R.ETH_STR_STAT := fun n m h => by simp only [R.ETH_STR_STAT] at h; omega

theorem Chip.strRuns_foldl_strSafe (l : List Nat) (c : Chip) {n : Nat} (h : n ∈ l) : (l.foldl Chip.strSafe c).strRuns n = false := by
  induction l using List.reverseRecOn with
  | nil => exact absurd h List.not_mem_nil
  | append_singleton l m ih =>
    rw [List.foldl_concat]
    by_cases hm : n = m
    · rw [hm, Chip.strRuns_strSafe]
    · rw [Chip.strRuns, (Chip.RegsIn.strSafe _ m).flag (fun hreg => hm (R.ETH_STR_STAT_injective hreg))]
      exact ih ((List.mem_append.1 h).resolve_right (fun hin => hm (List.mem_singleton.1 hin)))

@[simp] theorem Chip.srSafe_control (c : Chip) : c.srSafe.control = c.control := by
  unfold Chip.srSafe
  split
  · rfl
  · rfl
  · rfl
  · exact Chip.setFld_control _ R.MCX_STAT F.MCX_STAT_STATE 4

theorem Chip.RegsIn.srSafe (c : Chip) : c.RegsIn (· = R.MCX_STAT) c.srSafe := by
  unfold Chip.srSafe
  split
  · exact .refl _ c
  · exact .of_regs rfl
  · exact .of_regs rfl
  · have hmc := Chip.RegsIn.of_regs (P := (· = R.MCX_STAT)) (c := c)
      (d := { c with mc := { c.mc with srPrior := c.mcState, srBy := 3, exitDue := false } }) rfl
    exact hmc.trans (.setFld _ F.MCX_STAT_STATE 4 rfl)

theorem Chip.RegsIn.pwrSafe (c : Chip) : c.RegsIn (· = R.PWR_STAT) c.pwrSafe := by
  have hpwr := Chip.RegsIn.of_regs (P := (· = R.PWR_STAT)) (c := c)
    (d := { c with pwr := { c.pwr with down := none, up := none, held := none } }) rfl
  have hbusy := hpwr.trans (.setFlag _ F.PWR_STAT_BUSY false rfl)
  have htarget := hbusy.trans (.setFld _ F.PWR_STAT_TARGET 0 rfl)
  have hstate := htarget.trans (.setFld _ F.PWR_STAT_STATE 5 rfl)
  exact hstate.trans (.of_regs rfl)

theorem Chip.ladder_pwrSafe (c : Chip) : c.pwrSafe.ladder = 5 := by
  unfold Chip.pwrSafe
  exact Chip.fld_setFld _ R.PWR_STAT F.PWR_STAT_STATE 5 (by decide)

/-! ### The whole entry -/

/-- The Scrivener frozen, the Steward's state and cause put, and `FAULTN` asserted. -/
def Chip.safeMark (c : Chip) (f : Fatal) : Chip :=
  let c1 := c.scvFreeze f
  let c2 := (c1.setFld R.STW_STATE F.STW_STATE_STATE 2).setFld R.STW_STATE F.STW_STATE_CAUSE f.cause
  { c2 with
    pins := { c2.pins with fault := true }
    stw := { c2.stw with dead := c2.stw.dead || f.hw, autoDue := c2.autoWanted f.cause, faultAt := c2.epc.line } }

/-- Every partition leaves its recording. -/
def Chip.safeParts (c : Chip) : Chip := (List.range 16).foldl Chip.partSafe (c.raise Ev.safeEntry)

/-- Trigger outputs, cross-trigger lines, clock outputs, DMA and streamers come to rest. -/
def Chip.safeRest (c : Chip) : Chip :=
  (List.range 4).foldl Chip.strSafe ((({ c with trs := { c.trs with xt := [] } }.trigIdle).ckoRest).dmaHalt false)

theorem Chip.safeEnter_eq (c : Chip) (f : Fatal) : c.safeEnter f = (c.safeMark f).safeParts.safeRest.srSafe.pwrSafe := rfl

@[simp] theorem Chip.safeParts_control (c : Chip) : c.safeParts.control = c.control :=
  (Chip.foldl_keeps Chip.control (fun d p _ => d.partSafe_control p) _).trans (c.raise_control _)

theorem Chip.safeRest_control (c : Chip) : c.safeRest.control = (c.pins, c.stw, { c.trs with xt := [], pulses := [] }, c.pwr, c.resetReq) :=
  (Chip.foldl_keeps Chip.control (fun d n _ => d.strSafe_control n) _).trans (Chip.dmaHalt_control _ _)

theorem portReg_ETH_STR_STAT {n : Nat} (h : n < 4) : portReg (R.ETH_STR_STAT n) := by
  rw [portReg, R.ETH_STR_STAT]; omega

theorem portReg_named : portReg R.HIF_DMA_STAT ∧ portReg R.MCX_STAT ∧ portReg R.PWR_STAT ∧ ¬portReg R.STW_STATE := by
  simp only [portReg]; decide

theorem Chip.RegsIn.safeRest (c : Chip) : c.RegsIn portReg c.safeRest := by
  have hrest := Chip.RegsIn.of_regs (P := portReg) (c := c) (d := ({ c with trs := { c.trs with xt := [] } }.trigIdle).ckoRest) rfl
  have hdma := hrest.trans ((Chip.RegsIn.dmaHalt_false _).mono fun a ha => by rw [ha]; exact portReg_named.1)
  exact hdma.trans (.foldl (fun d n hn => (Chip.RegsIn.strSafe d n).mono fun a ha => by
    rw [ha]; exact portReg_ETH_STR_STAT (List.mem_range.1 hn)) _)

theorem Chip.RegsIn.safeRest_srSafe_pwrSafe (c : Chip) : c.RegsIn portReg c.safeRest.srSafe.pwrSafe := by
  obtain ⟨-, hmc, hpwr, -⟩ := portReg_named
  have hsr := (Chip.RegsIn.safeRest c).trans ((Chip.RegsIn.srSafe _).mono fun a ha => by rw [ha]; exact hmc)
  exact hsr.trans ((Chip.RegsIn.pwrSafe _).mono fun a ha => by rw [ha]; exact hpwr)

theorem Chip.safeMark_control (c : Chip) (f : Fatal) : ∃ d t, (c.safeMark f).control =
    ({ c.pins with fault := true }, { c.stw with dead := c.stw.dead || f.hw, autoDue := d, faultAt := t }, c.trs, c.pwr, c.resetReq) := by
  have hfreeze := (Chip.ScvOnly.scvFreeze c f).control
  simp only [Chip.control, Prod.mk.injEq] at hfreeze
  obtain ⟨hpins, hstw, htrs, hpwr, hreset⟩ := hfreeze
  refine ⟨(c.safeMark f).stw.autoDue, (c.safeMark f).stw.faultAt, ?_⟩
  rw [← hpins, ← hstw, ← htrs, ← hpwr, ← hreset]
  rfl

/-- What Safe entry makes of the pins, the Steward's state, the trigger resources and the ladder. -/
theorem Chip.safeEnter_control (c : Chip) (f : Fatal) :
    (c.safeEnter f).resetReq = c.resetReq ∧ (c.safeEnter f).pins.pen = 31 ∧ (c.safeEnter f).pins.fault = true ∧
      (c.safeEnter f).stw.dead = (c.stw.dead || f.hw) ∧ (c.safeEnter f).trs.pulses = [] ∧ (c.safeEnter f).trs.xt = [] ∧
      (c.safeEnter f).pwr.down = none := by
  obtain ⟨d, t, hmark⟩ := c.safeMark_control f
  have hparts := (Chip.safeParts_control (c.safeMark f)).trans hmark
  have hrest := (Chip.srSafe_control _).trans (Chip.safeRest_control (c.safeMark f).safeParts)
  simp only [Chip.control, Prod.mk.injEq] at hparts hrest
  obtain ⟨hpins, hstw, htrs, hpwr, hreset⟩ := hparts
  obtain ⟨kpins, kstw, ktrs, kpwr, kreset⟩ := hrest
  rw [Chip.safeEnter_eq]
  generalize (c.safeMark f).safeParts.safeRest.srSafe = e at *
  refine ⟨kreset.trans hreset, rfl, ?_, ?_, ?_, ?_, rfl⟩
  · exact congrArg Pins.fault (kpins.trans hpins)
  · exact congrArg Stw.dead (kstw.trans hstw)
  · exact congrArg Trs.pulses ktrs
  · exact congrArg Trs.xt ktrs

theorem Chip.armed_safeEnter (c : Chip) (f : Fatal) {p : Nat} (hp : p < 16) : (c.safeEnter f).armed p = false := by
  have hport : ¬portReg (R.PRT_STAT p) := by rw [portReg, R.PRT_STAT]; omega
  rw [Chip.safeEnter_eq, Chip.armed, (Chip.RegsIn.safeRest_srSafe_pwrSafe _).prtState hport, Chip.safeParts,
    Chip.prtState_foldl_partSafe, if_pos (List.mem_range.2 hp)]
  rfl

theorem Chip.dmaRuns_safeEnter (c : Chip) (f : Fatal) : (c.safeEnter f).dmaRuns = false := by
  rw [Chip.safeEnter_eq, Chip.dmaRuns, (Chip.RegsIn.pwrSafe _).flag (by decide), (Chip.RegsIn.srSafe _).flag (by decide), Chip.safeRest,
    (Chip.RegsIn.foldl (P := fun a => 0x610000 ≤ a) (fun d n _ => (Chip.RegsIn.strSafe d n).mono fun a ha => ?_) _).flag (by decide)]
  · exact Chip.dmaRuns_dmaHalt_false _
  · rw [ha, R.ETH_STR_STAT]; omega

theorem Chip.strRuns_safeEnter (c : Chip) (f : Fatal) {n : Nat} (hn : n < 4) : (c.safeEnter f).strRuns n = false := by
  have hpwr : R.ETH_STR_STAT n ≠ R.PWR_STAT := by simp only [R.ETH_STR_STAT, R.PWR_STAT]; omega
  have hmc : R.ETH_STR_STAT n ≠ R.MCX_STAT := by simp only [R.ETH_STR_STAT, R.MCX_STAT]; omega
  rw [Chip.safeEnter_eq, Chip.strRuns, (Chip.RegsIn.pwrSafe _).flag hpwr, (Chip.RegsIn.srSafe _).flag hmc, Chip.safeRest]
  exact Chip.strRuns_foldl_strSafe _ _ (List.mem_range.2 hn)

theorem Chip.ladder_safeEnter (c : Chip) (f : Fatal) : (c.safeEnter f).ladder = 5 := by
  rw [Chip.safeEnter_eq, Chip.ladder_pwrSafe]

theorem Chip.reg_safeMark (c : Chip) (f : Fatal) {a : Nat} (h : a ≠ R.STW_STATE) : (c.safeMark f).reg a = (c.scvFreeze f).reg a := by
  have hstate := (c.scvFreeze f).reg_setFld_ne F.STW_STATE_STATE 2 h
  have hcause := ((c.scvFreeze f).setFld R.STW_STATE F.STW_STATE_STATE 2).reg_setFld_ne F.STW_STATE_CAUSE f.cause h
  exact hcause.trans hstate

/-- Of the Steward's block, Safe entry changes STW_STATE alone, but for what a sequencer's stop may clear. -/
theorem Chip.reg_safeEnter (c : Chip) (f : Fatal) {a : Nat} (ha : 0x700000 ≤ a) (hstate : a ≠ R.STW_STATE) (h4 : a % 0x10000 ≠ 4) :
    (c.safeEnter f).reg a = c.reg a := by
  have hnote : ¬noteReg a := by rw [noteReg]; omega
  have hport : ¬portReg a := by rw [portReg]; omega
  rw [Chip.safeEnter_eq, Chip.RegsIn.safeRest_srSafe_pwrSafe _ a hport, Chip.safeParts, Chip.reg_foldl_partSafe _ (by omega) (.inl h4),
    Chip.RegsIn.raise _ (by decide) a hnote]
  exact (c.reg_safeMark f hstate).trans ((Chip.ScvOnly.scvFreeze c f).2 a hnote)

theorem Chip.fld_stwState_partSafe (c : Chip) {p : Nat} (hp : p < 16) :
    (c.partSafe p).fld R.STW_STATE F.STW_STATE_STATE = c.fld R.STW_STATE F.STW_STATE_STATE := by
  have hlane : ¬laneReg R.STW_STATE := by rw [laneReg]; decide
  have hpart : ¬partReg p R.STW_STATE := by rw [partReg, R.STW_STATE]; omega
  have hstat : R.STW_STATE ≠ R.PRT_STAT p := by rw [R.PRT_STAT, R.STW_STATE]; omega
  have hstop : (c.seqStop p).fld R.STW_STATE F.STW_STATE_STATE = c.fld R.STW_STATE F.STW_STATE_STATE :=
    Chip.foldl_keeps (Chip.fld · R.STW_STATE F.STW_STATE_STATE) (fun d n _ =>
      (Chip.fld_setFld_of_apart (d.setFlag (R.SQ_STAT n) F.SQ_STAT_RUNNING false) (R.SQ_STAT n) R.STW_STATE F.SQ_STAT_POST F.STW_STATE_STATE 0
        (by decide) (.inl (by decide))).trans
      (d.fld_setFld_of_apart (R.SQ_STAT n) R.STW_STATE F.SQ_STAT_RUNNING F.STW_STATE_STATE 0 (by decide) (.inl (by decide)))) c
  have hdrop := Chip.RegsIn.foldl (P := laneReg) (f := fun c g => Chip.laneDrop c g)
    (fun d g hg => Chip.RegsIn.laneDrop d (Chip.lt_of_mem_prtGroups (c := c) (p := p) hg)) ((c.seqStop p).fulActive p false)
  unfold Chip.partSafe
  split
  · dsimp only
    rw [(Chip.RegsIn.refreshPart _ _).fld hpart, Chip.setPrtState, Chip.fld_setFld_ne _ _ _ _ hstat]
    exact ((hdrop.fld hlane _).trans ((Chip.RegsIn.fulActive _ _ _).fld hlane _)).trans hstop
  · rfl

theorem Chip.fld_safeParts_state (c : Chip) : c.safeParts.fld R.STW_STATE F.STW_STATE_STATE = c.fld R.STW_STATE F.STW_STATE_STATE := by
  have hraise : (c.raise Ev.safeEntry).fld R.STW_STATE F.STW_STATE_STATE = c.fld R.STW_STATE F.STW_STATE_STATE :=
    (Chip.RegsIn.raise c (by decide)).fld (fun h => absurd h.2 (by decide)) _
  rw [Chip.safeParts, ← hraise]
  exact Chip.foldl_keeps (Chip.fld · R.STW_STATE F.STW_STATE_STATE)
    (fun d p hp => d.fld_stwState_partSafe (List.mem_range.1 hp)) _

theorem Chip.inSafe_safeEnter (c : Chip) (f : Fatal) : (c.safeEnter f).inSafe = true := by
  have hput := (c.scvFreeze f).fld_setFld R.STW_STATE F.STW_STATE_STATE 2 (by decide)
  have hmark := ((c.scvFreeze f).setFld R.STW_STATE F.STW_STATE_STATE 2).fld_setFld_apart R.STW_STATE F.STW_STATE_CAUSE F.STW_STATE_STATE
    f.cause (by decide) (.inl (by decide))
  have hrest := (Chip.RegsIn.safeRest_srSafe_pwrSafe (c.safeMark f).safeParts).fld portReg_named.2.2.2 F.STW_STATE_STATE
  exact decide_eq_true (hrest.trans ((Chip.fld_safeParts_state _).trans (hmark.trans hput)))

/-- The cause stands in STW_STATE: no sequencer's stop clears a bit of it where its two low bits are 0. -/
theorem Chip.cause_safeEnter (c : Chip) (f : Fatal) (h4 : f.cause % 4 = 0) :
    (c.safeEnter f).fld R.STW_STATE F.STW_STATE_CAUSE = f.cause % 256 := by
  have hcause : (c.safeMark f).fld R.STW_STATE F.STW_STATE_CAUSE = f.cause % 256 :=
    ((c.scvFreeze f).setFld R.STW_STATE F.STW_STATE_STATE 2).fld_setFld R.STW_STATE F.STW_STATE_CAUSE f.cause (by decide)
  have hraise : ((c.safeMark f).raise Ev.safeEntry).reg R.STW_STATE = (c.safeMark f).reg R.STW_STATE :=
    Chip.RegsIn.raise _ (by decide) _ (fun h => absurd h.2 (by decide))
  have hlow : (c.safeMark f).rn R.STW_STATE / 2 ^ 8 % 2 ^ 2 = 0 := by
    have hbits : (c.safeMark f).rn R.STW_STATE / 2 ^ 8 % 2 ^ 8 = f.cause % 256 := hcause
    omega
  have hrun : ((c.safeMark f).raise Ev.safeEntry).flag R.STW_STATE F.SQ_STAT_RUNNING = false := by
    rw [Chip.flag_congr hraise, Chip.flag, Chip.fld, bits, F.SQ_STAT_RUNNING, decide_eq_false_iff_not, not_not]
    dsimp only
    omega
  have hpost : ((c.safeMark f).raise Ev.safeEntry).flag R.STW_STATE F.SQ_STAT_POST = false := by
    rw [Chip.flag_congr hraise, Chip.flag, Chip.fld, bits, F.SQ_STAT_POST, decide_eq_false_iff_not, not_not]
    dsimp only
    omega
  have hparts : (c.safeMark f).safeParts.fld R.STW_STATE F.STW_STATE_CAUSE = (c.safeMark f).fld R.STW_STATE F.STW_STATE_CAUSE := by
    rw [Chip.fld, Chip.safeParts, Chip.rn_congr ((Chip.reg_foldl_partSafe _ (by decide) (.inr ⟨hrun, hpost⟩)).trans hraise), Chip.fld]
  have hrest := (Chip.RegsIn.safeRest_srSafe_pwrSafe (c.safeMark f).safeParts).fld portReg_named.2.2.2 F.STW_STATE_CAUSE
  exact hrest.trans (hparts.trans hcause)

end Sys2Proof.Machine
end

section
/-! A fatal condition that a command of an engine at work declares (R428), and the lockstep fault (R414). -/

namespace Sys2Proof.Machine

/-- What a command has demanded where it declared a fatal condition outside Safe. -/
theorem Chip.settle_of_fatal {c : Chip} {f : Fatal} (hf : c.fatal = some f) (hs : c.inSafe = false) (hr : c.resetReq = false) :
    c.settle = { Chip.safeEnter { c with fatal := none } f with fatal := none, resetReq := false } := by
  have hfatal : c.settleFatal = Chip.safeEnter { c with fatal := none } f := by
    unfold Chip.settleFatal
    rw [hf]
    exact if_neg (by rw [show Chip.inSafe { c with fatal := none } = c.inSafe from rfl, hs]; decide)
  have hreset : (Chip.safeEnter { c with fatal := none } f).resetReq = false := (Chip.safeEnter_control _ f).1.trans hr
  rw [Chip.settle, hfatal, Chip.settleReset, hreset, if_neg Bool.false_ne_true]

theorem Chip.settle_declareFatal {c : Chip} (hf : c.fatal = none) (hs : c.inSafe = false) (hr : c.resetReq = false) (k : Nat) (l : List Nat)
    (t : Nat) (b : Bool) :
    (c.declareFatal k l t b).settle = { c.safeEnter ⟨k, l, t, b⟩ with fatal := none, resetReq := false } := by
  have hdecl : c.declareFatal k l t b = { c with fatal := some ⟨k, l, t, b⟩ } := by
    unfold Chip.declareFatal
    rw [hf]
  have hsame : { c with fatal := none } = c := by rw [← hf]
  rw [hdecl, Chip.settle_of_fatal (c := { c with fatal := some ⟨k, l, t, b⟩ }) rfl hs hr, hsame]

theorem Chip.stwPowered_of_atWork {c : Chip} (h : c.atWork = true) : c.stwPowered = true := by
  obtain ⟨hporn, -, -, -, -, hladder, -, -, -⟩ := (Chip.quiet_iff c).1 (Chip.quiet_of_atWork h)
  simp [Chip.stwPowered, hporn, hladder]

/-- Beside registers, events and time, what follows a command keeps what it demanded. -/
theorem State.after_fields (s : State) (c : Chip) :
    (s.after c).chip.pins = c.settle.pins ∧ (s.after c).chip.stw = c.settle.stw ∧ (s.after c).chip.trs = c.settle.trs ∧
      (s.after c).chip.pwr = c.settle.pwr := by
  obtain ⟨_, _, _, _, _, h⟩ := s.after_eq c
  rw [h]
  exact ⟨rfl, rfl, rfl, rfl⟩

/-- The registers that what follows a command may change. -/
def afterReg (a : Nat) : Prop := (0x280000 ≤ a ∧ a < 0x300000) ∨ a = R.HIF_MSIX_PBA_L ∨ a = R.HIF_MSIX_PBA_H

/-- Registers beyond the Fuller instances' and apart from the pending-bit array are as the command's demands left them. -/
theorem State.regsIn_after (s : State) (c : Chip) :
    c.settle.RegsIn afterReg (s.after c).chip := fun a ha => by
  simp only [afterReg, not_or, not_and, not_lt] at ha
  obtain ⟨hful, hlow, hhigh⟩ := ha
  exact State.reg_after hlow hhigh (fun n hn => by rw [R.FUL_STALL, R.FUL_STAT]; omega) s c

theorem not_afterReg_named : ¬afterReg R.STW_STATE ∧ ¬afterReg R.STW_AON ∧ ¬afterReg R.HIF_DMA_STAT ∧ ¬afterReg R.PWR_STAT := by
  simp only [afterReg]; decide

theorem not_afterReg_PRT_STAT {p : Nat} (hp : p < 16) : ¬afterReg (R.PRT_STAT p) := by
  simp only [afterReg, R.PRT_STAT, R.HIF_MSIX_PBA_L, R.HIF_MSIX_PBA_H]; omega

theorem not_afterReg_ETH_STR_STAT (n : Nat) : ¬afterReg (R.ETH_STR_STAT n) := by
  simp only [afterReg, R.ETH_STR_STAT, R.HIF_MSIX_PBA_L, R.HIF_MSIX_PBA_H]; omega

theorem Chip.RegsIn.inSafe {P : Nat → Prop} {c d : Chip} (h : c.RegsIn P d) (hP : ¬P R.STW_STATE) : d.inSafe = c.inSafe := by
  rw [Chip.inSafe, h.fld hP, Chip.inSafe]

/-- A hardware fatal condition of an engine at work: all that Safe entry leaves of it. -/
theorem State.after_declareFatal {s : State} {c : Chip} (hf : c.fatal = none) (hs : c.inSafe = false) (hr : c.resetReq = false) (k : Nat)
    (l : List Nat) (t : Nat) (b : Bool) (h4 : k % 4 = 0) (h256 : k < 256) :
    ∀ d, d = (s.after (c.declareFatal k l t b)).chip →
      d.inSafe = true ∧ d.fld R.STW_STATE F.STW_STATE_CAUSE = k ∧ d.reg R.STW_AON = c.reg R.STW_AON ∧ d.stw.dead = (c.stw.dead || b) ∧
        d.pins.fault = true ∧ (∀ p, p < 16 → d.armed p = false) ∧ d.dmaRuns = false ∧ (∀ n, n < 4 → d.strRuns n = false) ∧
        d.trs.pulses = [] ∧ d.trs.xt = [] ∧ d.pins.pen = 31 ∧ d.ladder = 5 ∧ d.pwr.down = none := by
  rintro d rfl
  obtain ⟨-, hpen, hfault, hdead, hpulses, hxt, hdown⟩ := c.safeEnter_control ⟨k, l, t, b⟩
  have hin := c.inSafe_safeEnter ⟨k, l, t, b⟩
  have hcause := (c.cause_safeEnter ⟨k, l, t, b⟩ h4).trans (Nat.mod_eq_of_lt h256)
  have haon := c.reg_safeEnter ⟨k, l, t, b⟩ (a := R.STW_AON) (by decide) (by decide) (by decide)
  have harmed := fun p (hp : p < 16) => c.armed_safeEnter ⟨k, l, t, b⟩ hp
  have hdma := c.dmaRuns_safeEnter ⟨k, l, t, b⟩
  have hstr := fun n (hn : n < 4) => c.strRuns_safeEnter ⟨k, l, t, b⟩ hn
  have hladder := c.ladder_safeEnter ⟨k, l, t, b⟩
  obtain ⟨kpins, kstw, ktrs, kpwr⟩ := s.after_fields (c.declareFatal k l t b)
  have hregs := s.regsIn_after (c.declareFatal k l t b)
  rw [Chip.settle_declareFatal hf hs hr k l t b] at kpins kstw ktrs kpwr hregs
  generalize c.safeEnter ⟨k, l, t, b⟩ = e at *
  have hsame : e.RegsIn afterReg (s.after (c.declareFatal k l t b)).chip := hregs
  obtain ⟨nstate, naon, ndma, npwr⟩ := not_afterReg_named
  refine ⟨(hsame.inSafe nstate).trans hin, (hsame.fld nstate _).trans hcause, (hsame _ naon).trans haon, (congrArg Stw.dead kstw).trans hdead,
    (congrArg Pins.fault kpins).trans hfault, fun p hp => ?_, (hsame.flag ndma _).trans hdma, fun n hn => ?_,
    (congrArg Trs.pulses ktrs).trans hpulses, (congrArg Trs.xt ktrs).trans hxt, (congrArg Pins.pen kpins).trans hpen,
    (hsame.fld npwr _).trans hladder, (congrArg Pwr.down kpwr).trans hdown⟩
  · exact (congrArg (fun k => decide (k ≠ 0)) (hsame.prtState (not_afterReg_PRT_STAT hp))).trans (harmed p hp)
  · exact (hsame.flag (not_afterReg_ETH_STR_STAT n) _).trans (hstr n hn)

/-- Settles O9: what Safe entry leaves (R428), the cause 0x04 having no bit that a sequencer's stop could clear. -/
theorem processorFaultEntersSafe : Obligations.ProcessorFaultEntersSafe := by
  unfold Obligations.ProcessorFaultEntersSafe
  intro s hwork
  obtain ⟨-, hfatal, hreset, -⟩ := (Chip.quiet_iff s.chip).1 (Chip.quiet_of_atWork hwork)
  let c := s.chip.setFlag R.STW_AON F.STW_AON_LOCKSTEP true
  have hdo : doLockstepFault s.chip = c.declareFatal 4 [] s.chip.now true := if_pos (Chip.stwPowered_of_atWork hwork)
  have hsafe : c.inSafe = false := by
    have hregs := Chip.RegsIn.setFlag (P := (· = R.STW_AON)) s.chip F.STW_AON_LOCKSTEP true rfl
    exact (hregs.inSafe (by decide)).trans (Chip.inSafe_of_atWork hwork)
  obtain ⟨kin, kcause, kaon, kdead, kfault, karmed, kdma, kstr, kpulses, kxt, kpen, kladder, kdown⟩ :=
    State.after_declareFatal (s := s) (c := c) hfatal hsafe hreset 4 [] s.chip.now true rfl (by decide) _ rfl
  have hlock := s.chip.flag_setFlag R.STW_AON F.STW_AON_LOCKSTEP true (by decide) rfl
  exact ⟨_, (State.act_of_atWork hwork rfl _).trans (congrArg _ (congrArg _ hdo)), kin, kcause, (Chip.flag_congr kaon _).trans hlock,
    kdead.trans (Bool.or_true _), kfault, karmed, kdma, kstr, kpulses, kxt, kpen, kladder, kdown⟩

end Sys2Proof.Machine
end

section
/-! Starts that fail and pairs that disagree (R417, R428), in an engine whose partition is bound to a sequencer that does not exist. -/

namespace Sys2Proof.Machine

/-- What two engines that one command leaves settle to has one STW_STATE. -/
theorem reg_stwState_settle_of_exec {i : Instr} {s : State} {c d : Chip} (hc : exec i s = .next (s.after c))
    (hd : exec i s = .next (s.after d)) : c.settle.reg R.STW_STATE = d.settle.reg R.STW_STATE := by
  rw [← s.reg_after_stwState c, Host.Outcome.next.inj (hc.symm.trans hd), s.reg_after_stwState]

/-- An engine with a start in progress at stage 3, whose partition 0 records and keeps a sequencer 104 as the one bound to it. -/
def startBeyond : State where
  pending := []
  chip :=
    let rails : Chip := { pins := { porn := false, fault := false, pen := 63, railOk := 31 }, parts := [(0, { seqBound := 105 })] }
    (rails.setFld R.STW_BOOT_STAT F.STW_BOOT_STAT_STAGE 3).setPrtState 0 1

theorem inStart_startBeyond : startBeyond.chip.inStart 3 = true := by decide

/-- The cause 0x07 without the two bits that the stop of sequencer 104 clears. -/
theorem fld_cause_settle_startBeyond :
    (doWatchdogExpire startBeyond.chip).settle.fld R.STW_STATE F.STW_STATE_CAUSE = 4 := by decide +kernel

/-- Refutes O13: the statement is about every start in progress, also one whose partition 0 is armed and bound to a sequencer 104. Its
SQ_STAT has the address of STW_STATE, and the sequencer's stop on Safe entry clears two bits of the cause. -/
theorem not_failuresAndResets : ¬ Obligations.FailuresAndResets := by
  rintro ⟨-, -, -, -, hwatchdog, -⟩
  obtain ⟨c, hexec, -, hcause, -⟩ := hwatchdog startBeyond 3 (by decide) inStart_startBeyond
  have hstate := reg_stwState_settle_of_exec hexec (State.act_of_quiet (Chip.quiet_of_inStart inStart_startBeyond) rfl doWatchdogExpire)
  rw [Chip.fld, Chip.rn_congr hstate, ← Chip.fld, fld_cause_settle_startBeyond] at hcause
  exact absurd hcause (by decide)

end Sys2Proof.Machine
end

section
/-! A pair that disagrees (R135) while another partition is bound to a sequencer that does not exist. -/

namespace Sys2Proof.Machine

/-- The sample that sequencer 0 evaluates next. -/
def pairSample : Smp := { ix := 0, word := 0, kt := 9 * quantum, inst := 9 * fabricCycle, cyc := 10 }

/-- An engine at work in Steady: partition 0 records with sequencer 0, and partition 1 records and keeps a sequencer 104 as the one bound
to it. -/
def pairBeyond : State where
  pending := []
  chip :=
    let rails : Chip := {
      pins := { porn := false, fault := false, pen := 63, railOk := 31 }
      parts := [(0, { seqBound := 1 }), (1, { seqBound := 105 })]
      lanes := [(0, { hist := [pairSample], total := 1 })]
      wcopy := [(R.SQ_CTRL 0, 0)]
      epc := { line := 10 * fabricCycle + 5 } }
    let runs := (rails.setFld R.STW_STATE F.STW_STATE_STATE 1).setFld R.STW_BOOT_STAT F.STW_BOOT_STAT_STAGE 9
    ((runs.setFlag (R.SQ_STAT 0) F.SQ_STAT_RUNNING true).setPrtState 0 1).setPrtState 1 1

/-- What the odd member computes: a level that is not the even one's. -/
def oddLevel : OddSample := ⟨15, 0, 0, 0, [], 0⟩

theorem atWork_pairBeyond : pairBeyond.chip.atWork = true := by decide

/-- The cause 0x01 without the bit that the stop of sequencer 104 clears. -/
theorem fld_cause_settle_pairBeyond :
    (doSampleEvaluated 0 0 0 0 (some oddLevel) pairBeyond.chip).settle.fld R.STW_STATE F.STW_STATE_CAUSE = 0 := by decide +kernel

/-- Refutes O30: the statement leaves open what the other partitions hold. Here partition 1 is armed and bound to a sequencer 104, whose
SQ_STAT has the address of STW_STATE, and the sequencer's stop on Safe entry clears the cause's one bit. -/
theorem not_pairMismatch : ¬ Obligations.PairMismatch := by
  intro h
  obtain ⟨t, hexec, -, hcause, -⟩ := h pairBeyond 0 0 0 0 0 oddLevel pairSample atWork_pairBeyond (by decide) (by decide) (by decide)
    (by decide) (by decide) (by decide) (by decide) (by decide) (by decide) (by decide) (by decide) (by decide)
  rw [← Host.Outcome.next.inj ((State.act_of_atWork atWork_pairBeyond rfl _).symm.trans hexec), Chip.fld,
    Chip.rn_congr (State.reg_after_stwState _ _), ← Chip.fld, fld_cause_settle_pairBeyond] at hcause
  exact absurd hcause (by decide)

end Sys2Proof.Machine
end

section
/-! Reading back: fields apart, and what waiting leaves as it was. -/

namespace Sys2Proof.Machine

/-! ### Fields and flags of one register -/

theorem Chip.flag_setFld_of_apart (c : Chip) (a b : Nat) (f g : Fld) (v : Nat) (h : f.lo + f.w ≤ 32)
    (d : g.lo + g.w ≤ f.lo ∨ f.lo + f.w ≤ g.lo) : (c.setFld a f v).flag b g = c.flag b g := by
  rw [Chip.flag, c.fld_setFld_of_apart a b f g v h d, Chip.flag]

theorem Chip.flag_setFlag_of_apart (c : Chip) (a b : Nat) (f g : Fld) (v : Bool) (h : f.lo + f.w ≤ 32)
    (d : g.lo + g.w ≤ f.lo ∨ f.lo + f.w ≤ g.lo) : (c.setFlag a f v).flag b g = c.flag b g := c.flag_setFld_of_apart a b f g _ h d

theorem Chip.fld_setFlag_of_apart (c : Chip) (a b : Nat) (f g : Fld) (v : Bool) (h : f.lo + f.w ≤ 32)
    (d : g.lo + g.w ≤ f.lo ∨ f.lo + f.w ≤ g.lo) : (c.setFlag a f v).fld b g = c.fld b g := c.fld_setFld_of_apart a b f g _ h d

theorem Chip.fld_setFlag_ne (c : Chip) {a b : Nat} (f g : Fld) (v : Bool) (h : b ≠ a) : (c.setFlag a f v).fld b g = c.fld b g :=
  c.fld_setFld_ne f g _ h

theorem Chip.reg_setFlag_ne (c : Chip) {a b : Nat} (f : Fld) (v : Bool) (h : b ≠ a) : (c.setFlag a f v).reg b = c.reg b :=
  c.reg_setFld_ne f _ h

theorem Chip.rn_setFlag_ne (c : Chip) {a b : Nat} (f : Fld) (v : Bool) (h : b ≠ a) : (c.setFlag a f v).rn b = c.rn b :=
  c.rn_setFld_ne f _ h

theorem Chip.reg_addCnt (c : Chip) (a k : Nat) : (c.addCnt a k).reg a = c.reg a + BitVec.ofNat 32 k := by
  rw [Chip.addCnt, Chip.setN, Chip.reg_setReg, Chip.rn]
  exact BitVec.eq_of_toNat_eq (by rw [BitVec.toNat_ofNat, BitVec.toNat_add, BitVec.toNat_ofNat, Nat.add_mod_mod])

theorem Chip.reg_addCnt_one (c : Chip) (a : Nat) : (c.addCnt a 1).reg a = c.reg a + 1 := c.reg_addCnt a 1

/-- Registers and fields do not see an update of anything but the register file. -/
theorem Chip.fld_congr {c d : Chip} {a : Nat} (h : d.reg a = c.reg a) (f : Fld) : d.fld a f = c.fld a f := by
  rw [Chip.fld, Chip.rn_congr h, Chip.fld]

/-! ### Waiting -/

/-- Only the cycle count and the keeper move while cycles pass. -/
theorem Chip.waitLine_shape (c : Chip) (t : Nat) : ∃ k e, c.waitLine t = { c with cycle := k, epc := e } := by
  obtain ⟨n, h | h⟩ := c.waitLine_eq t
  · obtain ⟨k, e, hpass⟩ := c.pass_eq n
    exact ⟨k, e, h.trans hpass⟩
  · exact ⟨c.cycle, c.epc, h⟩

@[simp] theorem Chip.waitLine_regs (c : Chip) (t : Nat) : (c.waitLine t).regs = c.regs := by
  obtain ⟨k, e, h⟩ := c.waitLine_shape t; rw [h]

@[simp] theorem Chip.reg_waitLine (c : Chip) (t a : Nat) : (c.waitLine t).reg a = c.reg a := Chip.reg_congr (c.waitLine_regs t) a

@[simp] theorem Chip.rn_waitLine (c : Chip) (t a : Nat) : (c.waitLine t).rn a = c.rn a := Chip.rn_congr (c.reg_waitLine t a)

@[simp] theorem Chip.fld_waitLine (c : Chip) (t a : Nat) (f : Fld) : (c.waitLine t).fld a f = c.fld a f := Chip.fld_congr (c.reg_waitLine t a) f

@[simp] theorem Chip.flag_waitLine (c : Chip) (t a : Nat) (f : Fld) : (c.waitLine t).flag a f = c.flag a f :=
  Chip.flag_congr (c.reg_waitLine t a) f

@[simp] theorem Chip.waitLine_fatal (c : Chip) (t : Nat) : (c.waitLine t).fatal = c.fatal := by
  obtain ⟨k, e, h⟩ := c.waitLine_shape t; rw [h]

@[simp] theorem Chip.waitLine_resetReq (c : Chip) (t : Nat) : (c.waitLine t).resetReq = c.resetReq := by
  obtain ⟨k, e, h⟩ := c.waitLine_shape t; rw [h]

@[simp] theorem Chip.waitLine_stw (c : Chip) (t : Nat) : (c.waitLine t).stw = c.stw := by
  obtain ⟨k, e, h⟩ := c.waitLine_shape t; rw [h]

@[simp] theorem Chip.waitLine_pins (c : Chip) (t : Nat) : (c.waitLine t).pins = c.pins := by
  obtain ⟨k, e, h⟩ := c.waitLine_shape t; rw [h]

@[simp] theorem Chip.waitLine_lanes (c : Chip) (t : Nat) : (c.waitLine t).lanes = c.lanes := by
  obtain ⟨k, e, h⟩ := c.waitLine_shape t; rw [h]

@[simp] theorem Chip.waitLine_mc (c : Chip) (t : Nat) : (c.waitLine t).mc = c.mc := by
  obtain ⟨k, e, h⟩ := c.waitLine_shape t; rw [h]

@[simp] theorem Chip.waitLine_clk (c : Chip) (t : Nat) : (c.waitLine t).clk = c.clk := by
  obtain ⟨k, e, h⟩ := c.waitLine_shape t; rw [h]

@[simp] theorem Chip.waitLine_trs (c : Chip) (t : Nat) : (c.waitLine t).trs = c.trs := by
  obtain ⟨k, e, h⟩ := c.waitLine_shape t; rw [h]

@[simp] theorem Chip.waitLine_parts (c : Chip) (t : Nat) : (c.waitLine t).parts = c.parts := by
  obtain ⟨k, e, h⟩ := c.waitLine_shape t; rw [h]

@[simp] theorem Chip.waitLine_cst (c : Chip) (t : Nat) : (c.waitLine t).cst = c.cst := by
  obtain ⟨k, e, h⟩ := c.waitLine_shape t; rw [h]

@[simp] theorem Chip.waitLine_eths (c : Chip) (t : Nat) : (c.waitLine t).eths = c.eths := by
  obtain ⟨k, e, h⟩ := c.waitLine_shape t; rw [h]

@[simp] theorem Chip.waitLine_ort (c : Chip) (t : Nat) : (c.waitLine t).ort = c.ort := by
  obtain ⟨k, e, h⟩ := c.waitLine_shape t; rw [h]

@[simp] theorem Chip.waitLine_wcopy (c : Chip) (t : Nat) : (c.waitLine t).wcopy = c.wcopy := by
  obtain ⟨k, e, h⟩ := c.waitLine_shape t; rw [h]

@[simp] theorem Chip.pass_line (c : Chip) (n : Nat) : (c.pass n).epc.line = c.epc.line + n * fabricCycle := rfl

theorem fabricCycle_pos : 0 < fabricCycle := by rw [fabricCycle]; omega

theorem le_ceil_mul (n : Nat) {m : Nat} (hm : 0 < m) : n ≤ (n + m - 1) / m * m := by
  have hdiv := Nat.div_add_mod (n + m - 1) m
  have hmod := Nat.mod_lt (n + m - 1) hm
  rw [Nat.mul_comm] at hdiv
  omega

/-- A wait ends at the instant waited for or later. -/
theorem Chip.le_line_waitLine (c : Chip) (t : Nat) : t ≤ (c.waitLine t).epc.line := by
  unfold Chip.waitLine
  split
  · have hceil := le_ceil_mul (t - c.epc.line) fabricCycle_pos
    rw [Chip.pass_line]
    omega
  · omega

theorem Chip.line_le_waitLine (c : Chip) (t : Nat) : c.epc.line ≤ (c.waitLine t).epc.line := by
  unfold Chip.waitLine
  split
  · rw [Chip.pass_line]; omega
  · exact le_rfl

/-! ### Polls -/

/-- A poll is noted with its time. -/
def Chip.polledNow (c : Chip) (k : Nat) : Chip := { c with stw := { c.stw with polled := SMap.put c.stw.polled k c.epc.line } }

theorem Chip.pollWait_eq (c : Chip) (k us : Nat) : ∃ t, c.pollWait k us = (c.waitLine t).polledNow k := by
  have hwait : ∃ t, (match c.stw.polled.find? (fun x => decide (x.1 = k)) with
      | some x => c.waitLine (x.2 + us * micro)
      | none => c) = c.waitLine t := by
    split
    · exact ⟨_, rfl⟩
    · exact ⟨0, (if_neg (Nat.not_lt_zero _)).symm⟩
  obtain ⟨t, ht⟩ := hwait
  exact ⟨t, congrArg (Chip.polledNow · k) ht⟩

/-- A poll of the Steward waits for its time and notes when it was. -/
theorem Chip.pollWait_shape (c : Chip) (k us : Nat) :
    ∃ n e p, c.pollWait k us = { c with cycle := n, epc := e, stw := { c.stw with polled := p } } := by
  obtain ⟨t, h⟩ := c.pollWait_eq k us
  obtain ⟨n, e, hw⟩ := c.waitLine_shape t
  rw [h, hw]
  exact ⟨n, e, _, rfl⟩

@[simp] theorem Chip.reg_pollWait (c : Chip) (k us a : Nat) : (c.pollWait k us).reg a = c.reg a := by
  obtain ⟨_, _, _, h⟩ := c.pollWait_shape k us; rw [h]; rfl

@[simp] theorem Chip.pollWait_regs (c : Chip) (k us : Nat) : (c.pollWait k us).regs = c.regs := by
  obtain ⟨_, _, _, h⟩ := c.pollWait_shape k us; rw [h]

@[simp] theorem Chip.pollWait_fatal (c : Chip) (k us : Nat) : (c.pollWait k us).fatal = c.fatal := by
  obtain ⟨_, _, _, h⟩ := c.pollWait_shape k us; rw [h]

@[simp] theorem Chip.pollWait_resetReq (c : Chip) (k us : Nat) : (c.pollWait k us).resetReq = c.resetReq := by
  obtain ⟨_, _, _, h⟩ := c.pollWait_shape k us; rw [h]

end Sys2Proof.Machine
end

section
/-! Commands of an engine at work, and the fatal conditions some of them declare. -/

namespace Sys2Proof.Machine

/-- A command issued by a register write of an engine at work has the effect of the command alone. -/
theorem exec_of_asWrite {s : State} {i : Instr} {a : Nat} {n : Init} {f : Chip → Chip} (h : s.chip.atWork = true) (hw : i.wf = true)
    (he : exec i s = s.act i (fun c => c.asWrite n a f)) : exec i s = .next (s.after (f s.chip.writing)) := by
  rw [he, State.act_of_atWork h hw, Chip.asWrite_of_atWork h]

/-- An accepted command of an engine at work. -/
theorem exec_of_accept {s : State} {i : Instr} {a : Nat} {n : Init} {f g : Chip → Chip} {p : CmdPort} {e : Option Nat} {so : Bool}
    (h : s.chip.atWork = true) (hw : i.wf = true) (he : exec i s = s.act i (fun c => c.asWrite n a f))
    (hf : f s.chip.writing = s.chip.writing.command p n e so 0 g) : exec i s = .next (s.after (s.chip.writing.accept p g)) := by
  rw [exec_of_asWrite h hw he, hf, Chip.command_accept _ _ _ _ _ (Chip.inSafe_of_atWork h : s.chip.writing.inSafe = false)]

theorem Chip.reg_accept (c : Chip) (p : CmdPort) (f : Chip → Chip) (a : Nat) :
    (c.accept p f).reg a = (f (c.setFld p.stat reasonFld 0)).reg a := rfl

theorem Chip.flag_accept (c : Chip) (p : CmdPort) (f : Chip → Chip) (a : Nat) (x : Fld) :
    (c.accept p f).flag a x = (f (c.setFld p.stat reasonFld 0)).flag a x := rfl

theorem Chip.fld_accept (c : Chip) (p : CmdPort) (f : Chip → Chip) (a : Nat) (x : Fld) :
    (c.accept p f).fld a x = (f (c.setFld p.stat reasonFld 0)).fld a x := rfl

theorem Chip.reg_writing (c : Chip) (a : Nat) : c.writing.reg a = c.reg a := rfl

theorem Completes.of_exec {i : Instr} {s : State} {c : Chip} {P : Chip → Prop} (he : exec i s = .next (s.after c)) (hf : c.fatal = none)
    (hr : c.resetReq = false) (hP : P c) : Completes i s P := ⟨c, he, hf, hr, hP⟩

@[simp] theorem Chip.declareFatal_regs (c : Chip) (k : Nat) (l : List Nat) (t : Nat) (b : Bool) : (c.declareFatal k l t b).regs = c.regs := by
  unfold Chip.declareFatal
  split <;> rfl

theorem Chip.fatal_declareFatal {c : Chip} (h : c.fatal = none) (k : Nat) (l : List Nat) (t : Nat) (b : Bool) :
    (c.declareFatal k l t b).fatal = some ⟨k, l, t, b⟩ := by
  unfold Chip.declareFatal
  rw [h]

@[simp] theorem Chip.declareFatal_resetReq (c : Chip) (k : Nat) (l : List Nat) (t : Nat) (b : Bool) :
    (c.declareFatal k l t b).resetReq = c.resetReq := by
  unfold Chip.declareFatal
  split <;> rfl

theorem Chip.fatal_of_atWork {c : Chip} (h : c.atWork = true) : c.fatal = none := by
  obtain ⟨-, hfatal, -⟩ := (Chip.quiet_iff c).1 (Chip.quiet_of_atWork h)
  exact hfatal

theorem Chip.resetReq_of_atWork {c : Chip} (h : c.atWork = true) : c.resetReq = false := by
  obtain ⟨-, -, hreset, -⟩ := (Chip.quiet_iff c).1 (Chip.quiet_of_atWork h)
  exact hreset

theorem Chip.stwUp_of_atWork {c : Chip} (h : c.atWork = true) (hdead : c.stw.dead = false) : c.stwUp = true := by
  rw [Chip.stwUp, Chip.stwPowered_of_atWork h, hdead]; rfl

/-- What a fatal condition whose code has its two low bits 0 settles to. -/
theorem Chip.settle_inSafe_cause {c : Chip} {f : Fatal} (hf : c.fatal = some f) (hs : c.inSafe = false) (hr : c.resetReq = false)
    (h4 : f.cause % 4 = 0) : c.settle.inSafe = true ∧ c.settle.fld R.STW_STATE F.STW_STATE_CAUSE = f.cause % 256 := by
  have hin := Chip.inSafe_safeEnter { c with fatal := none } f
  have hcause := Chip.cause_safeEnter { c with fatal := none } f h4
  rw [Chip.settle_of_fatal hf hs hr]
  generalize Chip.safeEnter { c with fatal := none } f = d at *
  exact ⟨hin, hcause⟩

end Sys2Proof.Machine
end

section
/-! AON_CLEAR, die sensors, rails and regulators (R418, R424 to R426). -/

namespace Sys2Proof.Machine

/-! ### AON_CLEAR -/

/-- The flags of STW_AON that AON_CLEAR clears, and AUTO_CNT. -/
def Chip.aonClear (c : Chip) : Chip :=
  ((c.setFlag R.STW_AON F.STW_AON_WDG false).setFlag R.STW_AON F.STW_AON_LOCKSTEP false).setFld R.STW_AON F.STW_AON_AUTO_CNT 0

theorem Chip.aonClear_reads (c : Chip) : c.aonClear.flag R.STW_AON F.STW_AON_WDG = false ∧
    c.aonClear.flag R.STW_AON F.STW_AON_LOCKSTEP = false ∧ c.aonClear.fld R.STW_AON F.STW_AON_AUTO_CNT = 0 := by
  refine ⟨?_, ?_, Chip.fld_setFld _ _ _ _ (by decide)⟩
  · rw [Chip.aonClear, Chip.flag_setFld_of_apart _ _ _ _ _ _ (by decide) (by decide), Chip.flag_setFlag_of_apart _ _ _ _ _ _ (by decide) (by decide),
      Chip.flag_setFlag _ _ _ _ (by decide) rfl]
  · rw [Chip.aonClear, Chip.flag_setFld_of_apart _ _ _ _ _ _ (by decide) (by decide), Chip.flag_setFlag _ _ _ _ (by decide) rfl]

theorem Chip.RegsIn.aonClear (c : Chip) : c.RegsIn (· = R.STW_AON) c.aonClear := by
  have hwdg := Chip.RegsIn.setFlag (P := (· = R.STW_AON)) c F.STW_AON_WDG false rfl
  exact (hwdg.trans (.setFlag _ F.STW_AON_LOCKSTEP false rfl)).trans (.setFld _ F.STW_AON_AUTO_CNT 0 rfl)

theorem completes_aonClear {s : State} (h : s.chip.atWork = true) (i : Init) :
    Completes (.aonClear i) s (fun c => c.flag R.STW_AON F.STW_AON_WDG = false ∧ c.flag R.STW_AON F.STW_AON_LOCKSTEP = false ∧
      c.fld R.STW_AON F.STW_AON_AUTO_CNT = 0 ∧ (∀ a, a ≠ R.STW_AON → a ≠ R.STW_CMDSTAT → c.reg a = s.chip.reg a)) := by
  have hexec := exec_of_accept (i := .aonClear i) (g := Chip.aonClear) h rfl rfl rfl
  obtain ⟨hwdg, hlock, hcnt⟩ := (s.chip.writing.setFld R.STW_CMDSTAT reasonFld 0).aonClear_reads
  refine .of_exec hexec (Chip.fatal_of_atWork (c := s.chip) h) (Chip.resetReq_of_atWork (c := s.chip) h) ?_
  rw [Chip.flag_accept, Chip.flag_accept, Chip.fld_accept]
  refine ⟨hwdg, hlock, hcnt, fun a haon hcmd => ?_⟩
  rw [Chip.reg_accept, Chip.RegsIn.aonClear _ a haon, Chip.reg_setFld_ne _ _ _ hcmd, Chip.reg_writing]

/-! ### Die sensors -/

theorem signedOf_unsignedOf {t : Int} (hlo : -32768 ≤ t) (hhi : t < 32768) : signedOf 16 (unsignedOf 16 t) = t := by
  simp only [signedOf, unsignedOf]
  omega

theorem Chip.critAt_le (c : Chip) : c.critAt ≤ 992 := by
  rw [Chip.critAt]
  omega

/-- A reading below CRIT only shows. -/
theorem Chip.dieReading_of_lt {c : Chip} (n : Nat) {t : Int} (h : t < c.critAt) : ∃ w, c.dieReading n t =
    { c.setFld (R.STW_TEMP n) F.STW_TEMP_TEMP (unsignedOf 16 t) with stw := { c.stw with critRun := w } } := by
  refine ⟨put0 c.stw.critRun n 0, ?_⟩
  unfold Chip.dieReading
  rw [if_neg (Int.not_le.2 h)]
  rfl

/-- The second reading in a row at or above CRIT is fatal. -/
theorem Chip.dieReading_of_le {c : Chip} (n : Nat) {t : Int} (h : c.critAt ≤ t) (hrun : cnt0 c.stw.critRun n = 1) (hf : c.fatal = none) :
    ∃ st, (c.dieReading n t).fatal = some ⟨8, limitDetail 1 n (unsignedOf 16 t), st, false⟩ ∧ (c.dieReading n t).resetReq = c.resetReq ∧
      (c.dieReading n t).regs = (c.setFld (R.STW_TEMP n) F.STW_TEMP_TEMP (unsignedOf 16 t)).regs := by
  let d : Chip := { c.setFld (R.STW_TEMP n) F.STW_TEMP_TEMP (unsignedOf 16 t) with stw := { c.stw with critRun := put0 c.stw.critRun n 2 } }
  have hread : c.dieReading n t = d.declareFatal 8 (limitDetail 1 n (unsignedOf 16 t)) d.now false := by
    unfold Chip.dieReading
    rw [if_pos h, hrun]
    rfl
  rw [hread]
  exact ⟨d.now, Chip.fatal_declareFatal (c := d) hf _ _ _ _, Chip.declareFatal_resetReq _ _ _ _ _, Chip.declareFatal_regs _ _ _ _ _⟩

theorem Chip.dieHottest_lt (c : Chip) : c.dieHottest < 16 := by
  unfold Chip.dieHottest
  refine List.foldlRecOn (motive := fun b : Nat => b < 16) _ _ (by decide) (fun b hb n hn => ?_)
  split
  · exact List.mem_range.1 hn
  · exact hb

/-- With every sensor below the warning threshold and no warning given, none is given nor ended. -/
theorem Chip.dieWarn_of_lt {c : Chip} (h : ∀ n, n < 16 → c.dieTemp n < c.warnAt) (hwarm : c.stw.warm = false) : c.dieWarn = c := by
  unfold Chip.dieWarn
  rw [if_neg (Int.not_le.2 (h _ c.dieHottest_lt)), hwarm, if_neg (fun hclear => absurd hclear.1 Bool.false_ne_true)]

theorem Chip.RegsIn.stwRecord (c : Chip) (k d n v : Nat) : c.RegsIn noteReg (c.stwRecord k d n v) := .record c _ _ _ _

/-- An event of the Steward with its record changes registers of events and the Scrivener. -/
theorem Chip.raiseTyped_stwRecord_keeps (c : Chip) {e : Nat × Nat} (he : e.1 < 64) (k d n v : Nat) :
    ((c.raiseTyped e).stwRecord k d n v).fatal = c.fatal ∧ ((c.raiseTyped e).stwRecord k d n v).resetReq = c.resetReq ∧
      c.RegsIn noteReg ((c.raiseTyped e).stwRecord k d n v) := by
  have hev := (Chip.EventsOnly.setEvent c e.1 e.2).trans (.stwRecord (c.raiseTyped e) k d n v)
  exact ⟨hev.fatal, hev.resetReq, (Chip.RegsIn.raiseTyped c he).trans (.record (c.raiseTyped e) _ _ _ _)⟩

/-- A warning or its end changes, beside these, the Steward's note of it. -/
theorem Chip.dieWarn_keeps (c : Chip) : c.dieWarn.fatal = c.fatal ∧ c.dieWarn.resetReq = c.resetReq ∧ c.RegsIn noteReg c.dieWarn := by
  unfold Chip.dieWarn
  dsimp only
  split
  · exact Chip.raiseTyped_stwRecord_keeps { c with stw := { c.stw with warm := true } } (e := Ev.thermWarn) (by decide) 5 1 _ _
  · split
    · exact Chip.raiseTyped_stwRecord_keeps { c with stw := { c.stw with warm := false } } (e := Ev.thermClear) (by decide) 5 0 _ _
    · exact ⟨rfl, rfl, .refl _ c⟩

theorem exec_dieSensorPoll_one {s : State} (h : s.chip.atWork = true) (hdead : s.chip.stw.dead = false) (t : Int) :
    exec (.dieSensorPoll [t]) s = .next (s.after ((s.chip.pollWait 0 1000).dieReading 0 t).dieWarn) := by
  have hdo : doDieSensorPoll [t] s.chip = ((s.chip.pollWait 0 1000).dieReading 0 t).dieWarn := if_pos (Chip.stwUp_of_atWork h hdead)
  rw [← hdo]
  exact State.act_of_atWork h rfl _

theorem Chip.critAt_congr {c d : Chip} (h : d.reg R.STW_THERM_CFG = c.reg R.STW_THERM_CFG) : d.critAt = c.critAt := by
  rw [Chip.critAt, Chip.fld_congr h, Chip.critAt]

theorem Chip.warnAt_congr {c d : Chip} (h : d.reg R.STW_THERM_CFG = c.reg R.STW_THERM_CFG) : d.warnAt = c.warnAt := by
  rw [Chip.warnAt, Chip.fld_congr h, Chip.warnAt]

theorem Chip.dieTemp_congr {c d : Chip} {n : Nat} (h : d.reg (R.STW_TEMP n) = c.reg (R.STW_TEMP n)) : d.dieTemp n = c.dieTemp n := by
  rw [Chip.dieTemp, Chip.fld_congr h, Chip.dieTemp]

theorem R.STW_TEMP_injective : Function.Injective R.STW_TEMP := fun n m h => by simp only [R.STW_TEMP] at h; omega

theorem completes_dieSensorPoll {s : State} (h : s.chip.atWork = true) (hdead : s.chip.stw.dead = false) {t : Int} (hlo : -32768 ≤ t)
    (hcrit : t < s.chip.critAt) (hwarn : t < s.chip.warnAt) (hothers : ∀ n, n < 16 → s.chip.dieTemp n < s.chip.warnAt)
    (hwarm : s.chip.stw.warm = false) :
    Completes (.dieSensorPoll [t]) s (fun c => c.dieTemp 0 = t ∧ (∀ a, a ≠ R.STW_TEMP 0 → c.reg a = s.chip.reg a)) := by
  have hhi := Chip.critAt_le s.chip
  have hexec := exec_dieSensorPoll_one h hdead t
  obtain ⟨_, _, _, hpoll⟩ := s.chip.pollWait_shape 0 1000
  have hregs := Chip.reg_pollWait s.chip 0 1000
  have hfatal := (Chip.pollWait_fatal s.chip 0 1000).trans (Chip.fatal_of_atWork h)
  have hreset := (Chip.pollWait_resetReq s.chip 0 1000).trans (Chip.resetReq_of_atWork h)
  have hwarm' : (s.chip.pollWait 0 1000).stw.warm = false := by rw [hpoll]; exact hwarm
  generalize s.chip.pollWait 0 1000 = d at *
  obtain ⟨w, hread⟩ := Chip.dieReading_of_lt (c := d) 0 (t := t) (by rwa [Chip.critAt_congr (hregs _)])
  have hself : (d.dieReading 0 t).dieTemp 0 = t := by
    have hfld := d.fld_setFld (R.STW_TEMP 0) F.STW_TEMP_TEMP (unsignedOf 16 t) (by decide)
    have hmod : unsignedOf 16 t % 2 ^ 16 = unsignedOf 16 t := by rw [unsignedOf]; omega
    rw [hread]
    exact (congrArg (signedOf 16) (hfld.trans hmod)).trans (signedOf_unsignedOf hlo (by omega))
  have hother : ∀ a, a ≠ R.STW_TEMP 0 → (d.dieReading 0 t).reg a = s.chip.reg a := fun a ha => by
    rw [hread]
    exact (d.reg_setFld_ne _ _ ha).trans (hregs a)
  have hquiet : (d.dieReading 0 t).dieWarn = d.dieReading 0 t := by
    refine Chip.dieWarn_of_lt (fun n hn => ?_) (by rw [hread]; exact hwarm')
    rw [Chip.warnAt_congr (hother _ (by decide))]
    by_cases h0 : n = 0
    · rw [h0, hself]; exact hwarn
    · rw [Chip.dieTemp_congr (hother _ (fun heq => h0 (R.STW_TEMP_injective heq)))]; exact hothers n hn
  rw [hquiet] at hexec
  refine .of_exec hexec ?_ ?_ ⟨hself, hother⟩
  · rw [hread]; exact hfatal
  · rw [hread]; exact hreset

theorem demands_dieSensorPoll {s : State} (h : s.chip.atWork = true) (hdead : s.chip.stw.dead = false) {t : Int}
    (hcrit : s.chip.critAt ≤ t) (hrun : cnt0 s.chip.stw.critRun 0 = 1) :
    Demands (.dieSensorPoll [t]) s (fun c => c.settle.inSafe = true ∧ c.settle.fld R.STW_STATE F.STW_STATE_CAUSE = 8) := by
  refine ⟨_, exec_dieSensorPoll_one h hdead t, ?_⟩
  obtain ⟨_, _, _, hpoll⟩ := s.chip.pollWait_shape 0 1000
  have hregs := Chip.reg_pollWait s.chip 0 1000
  have hfatal := (Chip.pollWait_fatal s.chip 0 1000).trans (Chip.fatal_of_atWork h)
  have hreset := (Chip.pollWait_resetReq s.chip 0 1000).trans (Chip.resetReq_of_atWork h)
  have hrun' : cnt0 (s.chip.pollWait 0 1000).stw.critRun 0 = 1 := by rw [hpoll]; exact hrun
  generalize s.chip.pollWait 0 1000 = d at *
  obtain ⟨st, hdecl, hkeep, hshow⟩ := Chip.dieReading_of_le (c := d) 0 (t := t) (by rwa [Chip.critAt_congr (hregs _)]) hrun' hfatal
  obtain ⟨kfatal, kreset, kregs⟩ := (d.dieReading 0 t).dieWarn_keeps
  have hstate : (d.dieReading 0 t).reg R.STW_STATE = s.chip.reg R.STW_STATE :=
    ((Chip.reg_congr hshow _).trans (d.reg_setFld_ne _ _ (by decide))).trans (hregs _)
  have hsafe : (d.dieReading 0 t).dieWarn.inSafe = false := by
    rw [kregs.inSafe (fun hnote => absurd hnote.2 (by decide)), Chip.inSafe, Chip.fld_congr hstate]
    exact Chip.inSafe_of_atWork h
  exact Chip.settle_inSafe_cause (kfatal.trans hdecl) hsafe ((kreset.trans hkeep).trans hreset) (show 8 % 4 = 0 from rfl)

theorem demands_hwThermalTrip {s : State} (h : s.chip.atWork = true) {n : Nat} (hn : n < 16) {t : Int} (ht : 1000 ≤ t) :
    Demands (.hwThermalTrip n t) s (fun c => c.settle.inSafe = true ∧ c.settle.fld R.STW_STATE F.STW_STATE_CAUSE = 8) := by
  have hdo : doHwThermalTrip n t s.chip = s.chip.declareFatal 8 (limitDetail 2 n (unsignedOf 16 t)) s.chip.now false := by
    unfold doHwThermalTrip
    rw [Chip.stwPowered_of_atWork h, decide_eq_true ht, Bool.and_self, if_pos rfl]
  refine ⟨_, (State.act_of_atWork (i := .hwThermalTrip n t) h (decide_eq_true hn) _).trans (congrArg _ (congrArg _ hdo)), ?_⟩
  refine Chip.settle_inSafe_cause (Chip.fatal_declareFatal (Chip.fatal_of_atWork h) _ _ _ _) ?_
    ((Chip.declareFatal_resetReq _ _ _ _ _).trans (Chip.resetReq_of_atWork h)) (show 8 % 4 = 0 from rfl)
  rw [Chip.inSafe, Chip.fld_congr (Chip.reg_congr (Chip.declareFatal_regs _ _ _ _ _) _)]
  exact Chip.inSafe_of_atWork h

/-! ### Rails -/

theorem exec_railMonitorPoll_one {s : State} (h : s.chip.atWork = true) (hdead : s.chip.stw.dead = false) (v : Nat) :
    exec (.railMonitorPoll [v]) s = .next (s.after ((s.chip.pollWait 1 100).railReading 0 v)) := by
  have hdo : doRailMonitorPoll [v] s.chip = (s.chip.pollWait 1 100).railReading 0 v := if_pos (Chip.stwUp_of_atWork h hdead)
  rw [← hdo]
  exact State.act_of_atWork h rfl _

/-- The windows of a rail are those that STW_RAIL_CFG sets. -/
theorem Chip.warnPct_congr {c d : Chip} (h : d.reg R.STW_RAIL_CFG = c.reg R.STW_RAIL_CFG) : d.warnPct = c.warnPct := by
  rw [Chip.warnPct, Chip.fld_congr h, Chip.warnPct]

theorem Chip.faultPct_congr {c d : Chip} (h : d.reg R.STW_RAIL_CFG = c.reg R.STW_RAIL_CFG) : d.faultPct = c.faultPct := by
  rw [Chip.faultPct, Chip.fld_congr h, Chip.faultPct]

/-- The readings of the rails counted inside their warning windows. -/
def Chip.putRailIn (c : Chip) (l : List (Nat × Nat)) : Chip := { c with stw := { c.stw with railIn := l } }

/-- The readings of the rails counted outside their fault windows. -/
def Chip.putRailOut (c : Chip) (l : List (Nat × Nat)) : Chip := { c with stw := { c.stw with railOut := l } }

theorem Chip.reg_putRailIn (c : Chip) (l : List (Nat × Nat)) (a : Nat) : (c.putRailIn l).reg a = c.reg a := rfl

theorem Chip.reg_putRailOut (c : Chip) (l : List (Nat × Nat)) (a : Nat) : (c.putRailOut l).reg a = c.reg a := rfl

theorem Chip.railWindow_eq (c : Chip) (n v : Nat) : c.railWindow n v =
    if railOutside n v c.warnPct then
      (((c.setFlag (R.STW_RAIL n) F.STW_RAIL_WARN true).raiseTyped Ev.railWarn).putRailIn
        (put0 ((c.setFlag (R.STW_RAIL n) F.STW_RAIL_WARN true).raiseTyped Ev.railWarn).stw.railIn n 0)).stwRecord 6 0 n v
    else if 10 ≤ cnt0 c.stw.railIn n + 1 then
      (c.putRailIn (put0 c.stw.railIn n (min (cnt0 c.stw.railIn n + 1) 10))).setFlag (R.STW_RAIL n) F.STW_RAIL_WARN false
    else c.putRailIn (put0 c.stw.railIn n (min (cnt0 c.stw.railIn n + 1) 10)) := rfl

/-- The rail's register, and those of events and the Scrivener. -/
def railReg (n a : Nat) : Prop := a = R.STW_RAIL n ∨ noteReg a

theorem Chip.putRailIn_stwRecord_keeps (d : Chip) (l : List (Nat × Nat)) (n v : Nat) :
    ((d.putRailIn l).stwRecord 6 0 n v).fatal = d.fatal ∧ ((d.putRailIn l).stwRecord 6 0 n v).resetReq = d.resetReq ∧
      ((d.putRailIn l).stwRecord 6 0 n v).stw.railOut = d.stw.railOut ∧ d.RegsIn noteReg ((d.putRailIn l).stwRecord 6 0 n v) := by
  have hrec := Chip.EventsOnly.stwRecord (d.putRailIn l) 6 0 n v
  have hregs := Chip.RegsIn.stwRecord (d.putRailIn l) 6 0 n v
  have hsame : (d.putRailIn l).stw.railOut = d.stw.railOut := rfl
  exact ⟨hrec.fatal, hrec.resetReq, (congrArg Stw.railOut hrec.stw).trans hsame, fun a ha => (hregs a ha).trans (d.reg_putRailIn l a)⟩

theorem Chip.railWarn_keeps (c : Chip) (l : List (Nat × Nat)) (n v : Nat) :
    (((c.raiseTyped Ev.railWarn).putRailIn l).stwRecord 6 0 n v).fatal = c.fatal ∧
      (((c.raiseTyped Ev.railWarn).putRailIn l).stwRecord 6 0 n v).resetReq = c.resetReq ∧
      (((c.raiseTyped Ev.railWarn).putRailIn l).stwRecord 6 0 n v).stw.railOut = c.stw.railOut ∧
      c.RegsIn noteReg (((c.raiseTyped Ev.railWarn).putRailIn l).stwRecord 6 0 n v) := by
  obtain ⟨hfatal, hreset, hout, hregs⟩ := (c.raiseTyped Ev.railWarn).putRailIn_stwRecord_keeps l n v
  rw [Chip.raiseTyped_fatal] at hfatal
  rw [Chip.raiseTyped_resetReq] at hreset
  rw [Chip.raiseTyped_stw] at hout
  exact ⟨hfatal, hreset, hout, (Chip.RegsIn.raiseTyped c (e := Ev.railWarn) (by decide)).trans hregs⟩

/-- What the warning window may change: the rail's register, events with their records, and the readings counted inside it. -/
theorem Chip.railWindow_keeps (c : Chip) (n v : Nat) : (c.railWindow n v).fatal = c.fatal ∧ (c.railWindow n v).resetReq = c.resetReq ∧
    (c.railWindow n v).stw.railOut = c.stw.railOut ∧ c.RegsIn (railReg n) (c.railWindow n v) := by
  rw [Chip.railWindow_eq]
  split
  · obtain ⟨hfatal, hreset, hout, hregs⟩ := (c.setFlag (R.STW_RAIL n) F.STW_RAIL_WARN true).railWarn_keeps
      (put0 ((c.setFlag (R.STW_RAIL n) F.STW_RAIL_WARN true).raiseTyped Ev.railWarn).stw.railIn n 0) n v
    rw [Chip.setFlag_fatal] at hfatal
    rw [Chip.setFlag_resetReq] at hreset
    rw [Chip.setFlag_stw] at hout
    exact ⟨hfatal, hreset, hout, fun a ha => (hregs a (fun hn => ha (.inr hn))).trans (c.reg_setFlag_ne _ _ (fun heq => ha (.inl heq)))⟩
  · split
    · exact ⟨rfl, rfl, rfl, fun a ha => (Chip.reg_setFlag_ne _ _ _ (fun heq => ha (.inl heq))).trans (c.reg_putRailIn _ a)⟩
    · exact ⟨rfl, rfl, rfl, fun a _ => c.reg_putRailIn _ a⟩

/-- Inside the warning window only the rail's register may change, and the voltage shown does not. -/
theorem Chip.railWindow_of_inside {c : Chip} {n v : Nat} (h : railOutside n v c.warnPct = false) :
    c.RegsIn (· = R.STW_RAIL n) (c.railWindow n v) ∧
      (c.railWindow n v).fld (R.STW_RAIL n) F.STW_RAIL_MV = c.fld (R.STW_RAIL n) F.STW_RAIL_MV := by
  rw [Chip.railWindow_eq, h, if_neg Bool.false_ne_true]
  split
  · exact ⟨fun a ha => (Chip.reg_setFlag_ne _ _ _ ha).trans (c.reg_putRailIn _ a),
      (Chip.fld_setFlag_of_apart _ _ _ _ _ _ (by decide) (by decide)).trans (Chip.fld_congr (c.reg_putRailIn _ _) _)⟩
  · exact ⟨fun a _ => c.reg_putRailIn _ a, Chip.fld_congr (c.reg_putRailIn _ _) _⟩

/-- The readings of a rail in a row outside its fault window, with this one. -/
def Chip.railCount (c : Chip) (n v : Nat) : Nat := if railOutside n v c.faultPct then cnt0 c.stw.railOut n + 1 else 0

/-- What a judged reading is counted as, and what the third in a row declares. -/
def Chip.railCounted (c : Chip) (n v : Nat) : Chip :=
  let d := c.putRailOut (put0 c.stw.railOut n (c.railCount n v))
  if c.railCount n v = 3 then d.declareFatal 8 (limitDetail 3 n v) d.now false else d

/-- A reading of rail 0, which no pin brings up, is judged. -/
theorem Chip.railReading_zero (c : Chip) (v : Nat) :
    c.railReading 0 v = ((c.setFld (R.STW_RAIL 0) F.STW_RAIL_MV v).railWindow 0 v).railCounted 0 v := rfl

theorem Chip.railCounted_of_inside {c : Chip} {n v : Nat} (h : railOutside n v c.faultPct = false) :
    c.railCounted n v = c.putRailOut (put0 c.stw.railOut n 0) := by
  have hcount : c.railCount n v = 0 := by rw [Chip.railCount, h, if_neg Bool.false_ne_true]
  rw [Chip.railCounted, hcount, if_neg (by decide)]

theorem Chip.railCounted_of_third {c : Chip} {n v : Nat} (h : railOutside n v c.faultPct = true) (hout : cnt0 c.stw.railOut n = 2) :
    ∃ l t, c.railCounted n v = (c.putRailOut l).declareFatal 8 (limitDetail 3 n v) t false := by
  have hcount : c.railCount n v = 3 := by rw [Chip.railCount, h, if_pos rfl, hout]
  exact ⟨_, _, by rw [Chip.railCounted, hcount, if_pos rfl]⟩

theorem completes_railMonitorPoll {s : State} (h : s.chip.atWork = true) (hdead : s.chip.stw.dead = false) {v : Nat} (hv : v < 65536)
    (hwarn : railOutside 0 v s.chip.warnPct = false) (hfault : railOutside 0 v s.chip.faultPct = false) :
    Completes (.railMonitorPoll [v]) s (fun c => c.fld (R.STW_RAIL 0) F.STW_RAIL_MV = v ∧ cnt0 c.stw.railOut 0 = 0 ∧
      (∀ a, a ≠ R.STW_RAIL 0 → c.reg a = s.chip.reg a)) := by
  have hexec := exec_railMonitorPoll_one h hdead v
  have hregs := Chip.reg_pollWait s.chip 1 100
  have hfatal := (Chip.pollWait_fatal s.chip 1 100).trans (Chip.fatal_of_atWork h)
  have hreset := (Chip.pollWait_resetReq s.chip 1 100).trans (Chip.resetReq_of_atWork h)
  generalize s.chip.pollWait 1 100 = d at *
  rw [Chip.railReading_zero] at hexec
  have hother : ∀ a, a ≠ R.STW_RAIL 0 → (d.setFld (R.STW_RAIL 0) F.STW_RAIL_MV v).reg a = s.chip.reg a := fun a ha =>
    (d.reg_setFld_ne _ _ ha).trans (hregs a)
  have hmv := (d.fld_setFld (R.STW_RAIL 0) F.STW_RAIL_MV v (by decide)).trans (Nat.mod_eq_of_lt hv)
  have hfatal' : (d.setFld (R.STW_RAIL 0) F.STW_RAIL_MV v).fatal = none := hfatal
  have hreset' : (d.setFld (R.STW_RAIL 0) F.STW_RAIL_MV v).resetReq = false := hreset
  generalize d.setFld (R.STW_RAIL 0) F.STW_RAIL_MV v = f at *
  obtain ⟨kfatal, kreset, -, -⟩ := f.railWindow_keeps 0 v
  obtain ⟨kregs, kmv⟩ := Chip.railWindow_of_inside (c := f) (n := 0) (v := v) (by rwa [Chip.warnPct_congr (hother _ (by decide))])
  generalize f.railWindow 0 v = e at *
  have kother : ∀ a, a ≠ R.STW_RAIL 0 → e.reg a = s.chip.reg a := fun a ha => (kregs a ha).trans (hother a ha)
  rw [Chip.railCounted_of_inside (by rwa [Chip.faultPct_congr (kother _ (by decide))])] at hexec
  refine .of_exec hexec (kfatal.trans hfatal') (kreset.trans hreset') ⟨?_, SMap.get_set_same (fun _ => 0) e.stw.railOut 0 0, kother⟩
  exact (Chip.fld_congr (e.reg_putRailOut _ _) _).trans (kmv.trans hmv)

theorem demands_railMonitorPoll {s : State} (h : s.chip.atWork = true) (hdead : s.chip.stw.dead = false) {v : Nat}
    (hfault : railOutside 0 v s.chip.faultPct = true) (hout : cnt0 s.chip.stw.railOut 0 = 2) :
    Demands (.railMonitorPoll [v]) s (fun c => c.settle.inSafe = true ∧ c.settle.fld R.STW_STATE F.STW_STATE_CAUSE = 8) := by
  refine ⟨_, exec_railMonitorPoll_one h hdead v, ?_⟩
  obtain ⟨_, _, _, hpoll⟩ := s.chip.pollWait_shape 1 100
  have hregs := Chip.reg_pollWait s.chip 1 100
  have hfatal := (Chip.pollWait_fatal s.chip 1 100).trans (Chip.fatal_of_atWork h)
  have hreset := (Chip.pollWait_resetReq s.chip 1 100).trans (Chip.resetReq_of_atWork h)
  have hout' : cnt0 (s.chip.pollWait 1 100).stw.railOut 0 = 2 := by rw [hpoll]; exact hout
  generalize s.chip.pollWait 1 100 = d at *
  have hother : ∀ a, a ≠ R.STW_RAIL 0 → (d.setFld (R.STW_RAIL 0) F.STW_RAIL_MV v).reg a = s.chip.reg a := fun a ha =>
    (d.reg_setFld_ne _ _ ha).trans (hregs a)
  obtain ⟨kfatal, kreset, kout, kregs⟩ := (d.setFld (R.STW_RAIL 0) F.STW_RAIL_MV v).railWindow_keeps 0 v
  have hcfg : ¬railReg 0 R.STW_RAIL_CFG ∧ ¬railReg 0 R.STW_STATE := by simp only [railReg, noteReg]; decide
  have hpct := (kregs _ hcfg.1).trans (hother _ (by decide))
  have hstate := (kregs _ hcfg.2).trans (hother _ (by decide))
  rw [Chip.railReading_zero]
  generalize (d.setFld (R.STW_RAIL 0) F.STW_RAIL_MV v).railWindow 0 v = e at *
  obtain ⟨l, t, hdecl⟩ := Chip.railCounted_of_third (c := e) (n := 0) (v := v) (by rwa [Chip.faultPct_congr hpct])
    ((congrArg (cnt0 · 0) kout).trans hout')
  rw [hdecl]
  refine Chip.settle_inSafe_cause (Chip.fatal_declareFatal (c := e.putRailOut l) (kfatal.trans hfatal) _ _ _ _) ?_
    ((Chip.declareFatal_resetReq _ _ _ _ _).trans (kreset.trans hreset)) (show 8 % 4 = 0 from rfl)
  rw [Chip.inSafe, Chip.fld_congr ((Chip.reg_congr (Chip.declareFatal_regs _ _ _ _ _) _).trans ((e.reg_putRailOut l _).trans hstate))]
  exact Chip.inSafe_of_atWork h

/-! ### Regulators -/

/-- The status last read from the regulators. -/
def Chip.putPmbus (c : Chip) (l : List (Nat × Nat)) : Chip := { c with stw := { c.stw with pmbus := l } }

theorem exec_pmbusPoll_of_atWork {s : State} (h : s.chip.atWork = true) (hdead : s.chip.stw.dead = false) {k v : Nat} (hk : k < 6)
    (hv : v < 65536) (haddr : s.chip.pmAddr k ≠ 0) (hpen : bit s.chip.pins.pen k = true) :
    exec (.pmbusPoll k v) s = .next (s.after
      (let e := (s.chip.pollWait (8 + k) 100000).putPmbus (put0 (s.chip.pollWait (8 + k) 100000).stw.pmbus k v)
       if v = 0 then e else (e.raiseTyped Ev.pmbusFault).stwRecord 8 0 k v)) := by
  have hguard : (s.chip.stwUp && decide (k < 6) && decide (s.chip.pmAddr k ≠ 0) && bit s.chip.pins.pen k) = true := by
    rw [Chip.stwUp_of_atWork h hdead, decide_eq_true hk, decide_eq_true haddr, hpen]; rfl
  have hwf : (Instr.pmbusPoll k v).wf = true := by
    simp only [Instr.wf, Bool.and_eq_true, decide_eq_true_eq]
    omega
  have hdo := State.act_of_atWork (i := .pmbusPoll k v) h hwf (doPmbusPoll k v)
  rw [doPmbusPoll, if_pos hguard] at hdo
  exact hdo

theorem completes_pmbusPoll {s : State} (h : s.chip.atWork = true) (hdead : s.chip.stw.dead = false) {k v : Nat} (hk : k < 6) (hv : v < 65536)
    (haddr : s.chip.pmAddr k ≠ 0) (hpen : bit s.chip.pins.pen k = true) :
    Completes (.pmbusPoll k v) s (fun c => cnt0 c.stw.pmbus k = v ∧ (v = 0 → c.regs = s.chip.regs) ∧
      (v ≠ 0 → bit (c.rn (R.EVT_STAT 4)) 4 = true)) := by
  have hexec := exec_pmbusPoll_of_atWork h hdead hk hv haddr hpen
  have hfatal := (Chip.pollWait_fatal s.chip (8 + k) 100000).trans (Chip.fatal_of_atWork h)
  have hreset := (Chip.pollWait_resetReq s.chip (8 + k) 100000).trans (Chip.resetReq_of_atWork h)
  have hregs := Chip.pollWait_regs s.chip (8 + k) 100000
  generalize s.chip.pollWait (8 + k) 100000 = d at *
  have hshown : cnt0 (d.putPmbus (put0 d.stw.pmbus k v)).stw.pmbus k = v := SMap.get_set_same (fun _ => 0) d.stw.pmbus k v
  have hregs' : (d.putPmbus (put0 d.stw.pmbus k v)).regs = s.chip.regs := hregs
  have hfatal' : (d.putPmbus (put0 d.stw.pmbus k v)).fatal = none := hfatal
  have hreset' : (d.putPmbus (put0 d.stw.pmbus k v)).resetReq = false := hreset
  generalize d.putPmbus (put0 d.stw.pmbus k v) = e at *
  dsimp only at hexec
  by_cases hzero : v = 0
  · rw [if_pos hzero] at hexec
    exact .of_exec hexec hfatal' hreset' ⟨hshown, fun _ => hregs', fun hne => absurd hzero hne⟩
  · rw [if_neg hzero] at hexec
    obtain ⟨kfatal, kreset, -⟩ := e.raiseTyped_stwRecord_keeps (e := Ev.pmbusFault) (by decide) 8 0 k v
    have hstw := (Chip.EventsOnly.stwRecord (e.raiseTyped Ev.pmbusFault) 8 0 k v).stw.trans (e.raiseTyped_stw Ev.pmbusFault)
    refine .of_exec hexec (kfatal.trans hfatal') (kreset.trans hreset') ⟨?_, fun hz => absurd hz hzero, fun _ => ?_⟩
    · rw [hstw]; exact hshown
    · rw [Chip.stwRecord, Chip.rn_congr (Chip.reg_record_ne _ _ _ _ _ (by decide) (by decide) (by decide))]
      exact (e.bit_rn_setEvent 4 (b := 4) (j := 4) (by decide) (by decide)).trans (if_pos rfl)

/-- Settles O56: each poll is one reading, and a code of 0x08 keeps its two low bits 0 whatever a sequencer's stop clears. -/
theorem sensorsAndRails : Obligations.SensorsAndRails :=
  ⟨fun _ i h => completes_aonClear h i,
   fun _ _ h hdead hlo hcrit hwarn hothers hwarm => completes_dieSensorPoll h hdead hlo hcrit hwarn hothers hwarm,
   fun _ _ h hdead hcrit _ hrun => demands_dieSensorPoll h hdead hcrit hrun,
   fun _ _ _ h hn ht => demands_hwThermalTrip h hn ht,
   fun _ _ h hdead hv hwarn hfault => completes_railMonitorPoll h hdead hv hwarn hfault,
   fun _ _ h hdead hfault hout => demands_railMonitorPoll h hdead hfault hout,
   fun _ _ _ h hdead hk hv haddr hpen => completes_pmbusPoll h hdead hk hv haddr hpen⟩

end Sys2Proof.Machine
end

section
/-! DISARM, MARK, FREE and AUTO_FREE of a partition (R126, R172, R176). -/

namespace Sys2Proof.Machine

/-- A command of an engine at work, judged on what the write has put, and not rejected. -/
theorem exec_of_command {s : State} {i : Instr} {a : Nat} {n : Init} {f g : Chip → Chip} {p : CmdPort} {e : Option Nat} {so : Bool} {r : Nat}
    {d : Chip} (h : s.chip.atWork = true) (hw : i.wf = true) (he : exec i s = s.act i (fun c => c.asWrite n a f))
    (hf : f s.chip.writing = d.command p n e so r g) (hr : r = 0) (hd : d.inSafe = false) : exec i s = .next (s.after (d.accept p g)) := by
  rw [exec_of_asWrite h hw he, hf, hr, Chip.command_accept _ _ _ _ _ hd]

/-- A write to another register leaves Safe and the partitions' states as they are. -/
theorem Chip.inSafe_setFld_ne (c : Chip) {a : Nat} (f : Fld) (v : Nat) (h : R.STW_STATE ≠ a) : (c.setFld a f v).inSafe = c.inSafe := by
  rw [Chip.inSafe, c.fld_setFld_ne _ _ _ h, Chip.inSafe]

theorem Chip.prtState_setFld_ne (c : Chip) {a p : Nat} (f : Fld) (v : Nat) (h : R.PRT_STAT p ≠ a) : (c.setFld a f v).prtState p = c.prtState p :=
  c.fld_setFld_ne _ _ _ h

theorem Chip.recording_setFld_ne (c : Chip) {a p : Nat} (f : Fld) (v : Nat) (h : R.PRT_STAT p ≠ a) :
    (c.setFld a f v).recording p = c.recording p := by
  rw [Chip.recording, c.prtState_setFld_ne f v h, Chip.recording]

theorem R.STW_STATE_ne_PRT {p : Nat} (hp : p < 16) : R.STW_STATE ≠ R.PRT_CMD p ∧ R.STW_STATE ≠ R.PRT_CMDSTAT p := by
  simp only [R.STW_STATE, R.PRT_CMD, R.PRT_CMDSTAT]; omega

theorem exec_disarm_of_armed {s : State} (h : s.chip.atWork = true) (i : Init) {p : Nat} (hp : p < 16) (harmed : s.chip.armed p = true) :
    exec (.disarm i p) s = .next (s.after (s.chip.writing.accept (prtPort p) (fun c => c.disarmNow p))) :=
  exec_of_command (i := .disarm i p) h (decide_eq_true hp) rfl rfl (if_pos harmed) (Chip.inSafe_of_atWork h)

theorem exec_prtMark_of_recording {s : State} (h : s.chip.atWork = true) (i : Init) {p k : Nat} (hp : p < 16) (hk : k < 256)
    (hrec : s.chip.recording p = true) :
    exec (.prtMark i p k) s = .next (s.after ((s.chip.writing.setFld (R.PRT_CMD p) F.PRT_CMD_MARK_CODE k).accept (prtPort p)
      (fun c => c.addMarker p (c.now, 2, k, 0xff, 0)))) := by
  have hstat : R.PRT_STAT p ≠ R.PRT_CMD p := by simp only [R.PRT_STAT, R.PRT_CMD]; omega
  have hcode : (s.chip.writing.setFld (R.PRT_CMD p) F.PRT_CMD_MARK_CODE k).fld (R.PRT_CMD p) F.PRT_CMD_MARK_CODE = k :=
    (Chip.fld_setFld _ _ _ _ (by decide)).trans (Nat.mod_eq_of_lt hk)
  have hwf : (Instr.prtMark i p k).wf = true := by simp [Instr.wf, hp, hk]
  have hdo : doPrtMark i p k s.chip.writing =
      (s.chip.writing.setFld (R.PRT_CMD p) F.PRT_CMD_MARK_CODE k).command (prtPort p) i none false
        (if (s.chip.writing.setFld (R.PRT_CMD p) F.PRT_CMD_MARK_CODE k).recording p then 0 else 0x30)
        (fun c => c.addMarker p (c.now, 2, k, 0xff, 0)) := by
    rw [doPrtMark, Chip.markCmd, hcode]
  exact exec_of_command (i := .prtMark i p k) h hwf rfl hdo
    (if_pos ((Chip.recording_setFld_ne s.chip.writing F.PRT_CMD_MARK_CODE k hstat).trans hrec))
    ((Chip.inSafe_setFld_ne s.chip.writing F.PRT_CMD_MARK_CODE k (R.STW_STATE_ne_PRT hp).1).trans (Chip.inSafe_of_atWork h))

theorem Chip.freeReason_eq_zero {c : Chip} {p n : Nat} {g : Seg} (hn : n ≤ 64) (hseg : (c.part p).seg n = some g) (hstate : g.state ≠ 1)
    (hpush : g.pushed ≠ 2) : c.freeReason p n = 0 := by
  rw [Chip.freeReason, if_neg (by omega), hseg]
  simp [firstReason, hstate, hpush]

theorem exec_free_of_committed {s : State} (h : s.chip.atWork = true) (i : Init) {p n : Nat} {g : Seg} (hp : p < 16) (hn : n ≤ 64)
    (hseg : (s.chip.part p).seg n = some g) (hstate : g.state ≠ 1) (hpush : g.pushed ≠ 2) :
    exec (.free i p n) s = .next (s.after
      (((s.chip.writing.setFld (R.PRT_CMD p) F.PRT_CMD_SLOT n).setFld (R.PRT_CMDSTAT p) F.PRT_CMDSTAT_SLOT n).accept (prtPort p)
        (fun c => c.freeSeg p n))) := by
  obtain ⟨hcmd, hcmdstat⟩ := R.STW_STATE_ne_PRT hp
  have hslot : (s.chip.writing.setFld (R.PRT_CMD p) F.PRT_CMD_SLOT n).fld (R.PRT_CMD p) F.PRT_CMD_SLOT = n :=
    (Chip.fld_setFld _ _ _ _ (by decide)).trans (Nat.mod_eq_of_lt (Nat.lt_of_le_of_lt hn (by decide)))
  have hwf : (Instr.free i p n).wf = true := by simp [Instr.wf, hp]; omega
  have hdo : doFree i p n s.chip.writing =
      ((s.chip.writing.setFld (R.PRT_CMD p) F.PRT_CMD_SLOT n).setFld (R.PRT_CMDSTAT p) F.PRT_CMDSTAT_SLOT n).command (prtPort p) i none false
        ((s.chip.writing.setFld (R.PRT_CMD p) F.PRT_CMD_SLOT n).freeReason p n) (fun c => c.freeSeg p n) := by
    rw [doFree, Chip.freeCmd, hslot]
  refine exec_of_command (i := .free i p n) h hwf rfl hdo (Chip.freeReason_eq_zero hn hseg hstate hpush) ?_
  rw [Chip.inSafe_setFld_ne _ _ _ hcmdstat, Chip.inSafe_setFld_ne _ _ _ hcmd]
  exact Chip.inSafe_of_atWork h

theorem exec_autoFree {s : State} (h : s.chip.atWork = true) {p : Nat} (hp : p < 16) :
    exec (.autoFree p) s = .next (s.after
      ((s.chip.part p).autoFree.foldl (fun c n => c.freeSeg p n) (s.chip.setPart p { s.chip.part p with autoFree := [] }))) :=
  State.act_of_atWork (i := .autoFree p) h (decide_eq_true hp) (doAutoFree p)

/-- Settles O34: each command is accepted, and its effect is the partition's own. -/
theorem partitionCommands : Obligations.PartitionCommands :=
  ⟨fun _ i _ h hp harmed => exec_disarm_of_armed h i hp harmed,
   fun _ i _ _ h hp hk hrec => exec_prtMark_of_recording h i hp hk hrec,
   fun _ i _ _ _ h hp hn hseg hstate hpush => exec_free_of_committed h i hp hn hseg hstate hpush,
   fun _ _ h hp => exec_autoFree h hp⟩

end Sys2Proof.Machine
end

section
/-! Ends of pulses and of a post-trigger span (R113, R116, R129). -/

namespace Sys2Proof.Machine

theorem Chip.keepsMem_waitLine (c : Chip) (t : Nat) : c.keepsMem (c.waitLine t) := by
  obtain ⟨k, e, h⟩ := c.waitLine_shape t
  rw [h]
  exact ⟨fun _ => rfl, fun _ => rfl, fun _ => rfl, rfl⟩

/-- A running maximum is reached by each element it has met. -/
theorem le_foldl_max {α : Type} (f : α → Nat) {l : List α} {x : α} (hx : x ∈ l) (m : Nat) : f x ≤ l.foldl (fun m x => max m (f x)) m := by
  have hmono : ∀ (l : List α) (m : Nat), m ≤ l.foldl (fun m x => max m (f x)) m := by
    intro l
    induction l with
    | nil => exact fun m => le_rfl
    | cons y l ih => exact fun m => (le_max_left _ _).trans (ih _)
  induction l generalizing m with
  | nil => exact absurd hx List.not_mem_nil
  | cons y l ih =>
    rcases List.mem_cons.1 hx with rfl | hl
    · exact (le_max_right _ _).trans (hmono l _)
    · exact ih hl _

/-- The engine without the XT intervals of line n. -/
def Chip.dropLine (c : Chip) (n : Nat) : Chip := { c with trs := { c.trs with xt := c.trs.xt.filter (fun x => decide (x.1 ≠ n)) } }

theorem Chip.dropLine_fatal (c : Chip) (n : Nat) : (c.dropLine n).fatal = c.fatal := rfl
theorem Chip.dropLine_resetReq (c : Chip) (n : Nat) : (c.dropLine n).resetReq = c.resetReq := rfl
theorem Chip.dropLine_regs (c : Chip) (n : Nat) : (c.dropLine n).regs = c.regs := rfl
theorem Chip.dropLine_epc (c : Chip) (n : Nat) : (c.dropLine n).epc = c.epc := rfl

/-- Where evaluation has passed the latest interval of XT line n. -/
def Chip.xtEnd (c : Chip) (n : Nat) : Nat := ((c.trs.xt.filter (fun x => decide (x.1 = n))).foldl (fun m x => max m x.2.2) 0 + 1) * fabricCycle

theorem Chip.le_xtEnd {c : Chip} {n : Nat} {x : Nat × Nat × Nat} (hx : x ∈ c.trs.xt) (hn : x.1 = n) : (x.2.2 + 1) * fabricCycle ≤ c.xtEnd n :=
  Nat.mul_le_mul_right _ (Nat.succ_le_succ
    (le_foldl_max (fun x : Nat × Nat × Nat => x.2.2) (List.mem_filter.2 ⟨hx, decide_eq_true hn⟩) 0))

theorem doXtLineExpire_of_none {n : Nat} {c : Chip} (h : ∀ x ∈ c.trs.xt, x.1 ≠ n) : doXtLineExpire n c = c :=
  if_pos (List.isEmpty_iff.2 (List.filter_eq_nil_iff.2 fun x hx => by simpa using h x hx))

theorem doXtLineExpire_of_some {n : Nat} {c : Chip} (h : ¬ ∀ x ∈ c.trs.xt, x.1 ≠ n) : doXtLineExpire n c = (c.waitLine (c.xtEnd n)).dropLine n :=
  if_neg (c := (c.trs.xt.filter (fun x => decide (x.1 = n))).isEmpty = true)
    fun hempty => h fun x hx => by simpa using List.filter_eq_nil_iff.1 (List.isEmpty_iff.1 hempty) x hx

theorem Chip.keepsMem_dropLine {c d : Chip} {n : Nat} (h : c.keepsMem d) : c.keepsMem (d.dropLine n) := h

theorem Chip.mem_dropLine {c : Chip} {n : Nat} {x : Nat × Nat × Nat} : x ∈ (c.dropLine n).trs.xt ↔ x ∈ c.trs.xt ∧ x.1 ≠ n := by
  rw [Chip.dropLine, List.mem_filter, decide_eq_true_eq]

theorem completes_xtLineExpire {s : State} (h : s.chip.atWork = true) {n : Nat} (hn : n < 32) :
    Completes (.xtLineExpire n) s (fun c => (∀ x, x ∈ c.trs.xt → x.1 ≠ n) ∧ (∀ x, x.1 ≠ n → (x ∈ c.trs.xt ↔ x ∈ s.chip.trs.xt)) ∧
      (∀ x, x ∈ s.chip.trs.xt → x.1 = n → (x.2.2 + 1) * fabricCycle ≤ c.epc.line) ∧ c.regs = s.chip.regs ∧ s.chip.keepsMem c) := by
  have hexec : exec (.xtLineExpire n) s = .next (s.after (doXtLineExpire n s.chip)) :=
    State.act_of_atWork (i := .xtLineExpire n) h (decide_eq_true hn) (doXtLineExpire n)
  have hfatal := Chip.fatal_of_atWork h
  have hreset := Chip.resetReq_of_atWork h
  by_cases hnone : ∀ x ∈ s.chip.trs.xt, x.1 ≠ n
  · rw [doXtLineExpire_of_none hnone] at hexec
    exact .of_exec hexec hfatal hreset
      ⟨hnone, fun _ _ => Iff.rfl, fun x hx hxn => absurd hxn (hnone x hx), rfl, ⟨fun _ => rfl, fun _ => rfl, fun _ => rfl, rfl⟩⟩
  · have hend : ∀ x ∈ s.chip.trs.xt, x.1 = n → (x.2.2 + 1) * fabricCycle ≤ s.chip.xtEnd n := fun _ => Chip.le_xtEnd
    rw [doXtLineExpire_of_some hnone] at hexec
    generalize s.chip.xtEnd n = t at hexec hend
    refine .of_exec hexec ((Chip.dropLine_fatal _ n).trans ((s.chip.waitLine_fatal t).trans hfatal))
      ((Chip.dropLine_resetReq _ n).trans ((s.chip.waitLine_resetReq t).trans hreset))
      ⟨fun x hx => (Chip.mem_dropLine.1 hx).2, fun x hxn => ?_, fun x hx hxn => ?_,
        (Chip.dropLine_regs _ n).trans (s.chip.waitLine_regs t), Chip.keepsMem_dropLine (s.chip.keepsMem_waitLine t)⟩
    · rw [Chip.mem_dropLine, s.chip.waitLine_trs, and_iff_left hxn]
    · rw [Chip.dropLine_epc]
      exact (hend x hx hxn).trans (s.chip.le_line_waitLine t)

theorem completes_trigPulseEnd {s : State} (h : s.chip.atWork = true) {n : Nat} (hn : n < 32) :
    Completes (.trigPulseEnd n) s (fun c => (∀ t, c.epc.line ≤ t → c.trigActiveAt n t = false) ∧ c.trs = s.chip.trs ∧
      (∀ x, x ∈ s.chip.trs.pulses → x.1 = n → x.2.2 ≤ c.epc.line) ∧ c.regs = s.chip.regs ∧ s.chip.keepsMem c) := by
  have hexec := State.act_of_atWork (i := .trigPulseEnd n) h (decide_eq_true hn) (doTrigPulseEnd n)
  rw [doTrigPulseEnd] at hexec
  generalize hlatest : (s.chip.trs.pulses.filter (fun x => decide (x.1 = n))).foldl (fun m x => max m x.2.2) 0 = latest at hexec
  have hle := s.chip.le_line_waitLine latest
  have htrs := s.chip.waitLine_trs latest
  have hend : ∀ x, x ∈ s.chip.trs.pulses → x.1 = n → x.2.2 ≤ (s.chip.waitLine latest).epc.line := fun x hx hxn => by
    have hmax := le_foldl_max (fun x : Nat × Nat × Nat => x.2.2) (List.mem_filter.2 ⟨hx, by simpa using hxn⟩ : x ∈ s.chip.trs.pulses.filter (fun x => decide (x.1 = n))) 0
    exact (hlatest ▸ hmax : x.2.2 ≤ latest).trans hle
  refine .of_exec hexec ((s.chip.waitLine_fatal _).trans (Chip.fatal_of_atWork h)) ((s.chip.waitLine_resetReq _).trans (Chip.resetReq_of_atWork h))
    ⟨fun t ht => ?_, htrs, hend, s.chip.waitLine_regs _, s.chip.keepsMem_waitLine _⟩
  rw [Chip.trigActiveAt, htrs, List.any_eq_false]
  intro x hx hactive
  simp only [Bool.and_eq_true, decide_eq_true_eq] at hactive
  obtain ⟨⟨hxn, -⟩, hlt⟩ := hactive
  have := hend x hx hxn
  omega

theorem exec_postSpanEnd {s : State} (h : s.chip.atWork = true) {sq p e : Nat} (hsq : sq < 16)
    (hbound : (List.range 16).find? (fun x => decide (s.chip.boundSeq x = some sq)) = some p) (hend : (s.chip.part p).endStamp = some e)
    (hpost : s.chip.prtState p = 2) :
    exec (.postSpanEnd sq) s = .next (s.after
      (let c := (s.chip.members sq).foldl (fun c n => c.raise (Ev.sqDone n)) ((s.chip.trigClose p (e + 1) 0).endRecording p)
       c.setPart p { c.part p with endStamp := none })) := by
  have hexec := State.act_of_atWork (i := .postSpanEnd sq) h (decide_eq_true hsq) (doPostSpanEnd sq)
  rw [doPostSpanEnd, hbound] at hexec
  dsimp only at hexec
  rw [hend] at hexec
  dsimp only at hexec
  rw [if_pos hpost] at hexec
  exact hexec

/-- Settles O31: waiting changes time alone, and the latest end is waited for. -/
theorem triggerEdges : Obligations.TriggerEdges :=
  ⟨fun _ _ h hn => completes_xtLineExpire h hn, fun _ _ h hn => completes_trigPulseEnd h hn,
   fun _ _ _ _ h hsq hbound hend hpost => exec_postSpanEnd h hsq hbound hend hpost⟩

end Sys2Proof.Machine
end

section
/-! The commands of the Carter queues and their stall timers (R226, R232, R235, R236). -/

namespace Sys2Proof.Machine

/-! ### Several commands of one write, one of them named -/

/-- What one accepted command of `CAR_Qq_CMD` leaves of the engine: its effect, and REASON 0. -/
def Chip.carDone (c : Chip) (q : Nat) : Chip := { c.setFld (R.CAR_Q_CMDSTAT q) reasonFld 0 with lastReason := 0 }

theorem Chip.carCommands_push {c : Chip} {q k : Nat} {i : Init} (hs : c.inSafe = false) (hroom : c.carRoom q ≠ 0) :
    c.carCommands q 1 k i = (c.carEnter q k 2 (bits (c.rn (R.CAR_Q_IN q 3)) 0 8) (bits (c.rn (R.CAR_Q_IN q 3)) 8 8) (c.rn (R.CAR_Q_IN q 2))
      (c.carInDesc q k)).carDone q := by
  have hlist : maskList 5 1 = [0] := by decide
  have hreason : c.carReason q 0 i = 0 := by simp [Chip.carReason, hs, hroom]
  simp [Chip.carCommands, hlist, hreason, Chip.carEffects, maskSet, bit, Chip.carDone]

theorem Chip.carCommands_push_of_full {c : Chip} {q k : Nat} {i : Init} (hs : c.inSafe = false) (hroom : c.carRoom q = 0) :
    c.carCommands q 1 k i = (c.addCnt (R.CAR_Q_REFUSED q) 1).reject (carQPort q) i none 0x53 := by
  have hlist : maskList 5 1 = [0] := by decide
  have hreason : c.carReason q 0 i = 0x53 := by simp [Chip.carReason, hs, hroom]
  simp [Chip.carCommands, hlist, hreason, Chip.carEffects, bit]

theorem Chip.carCommands_mark {c : Chip} {q : Nat} {i : Init} (hs : c.inSafe = false) (ho : c.carOwned q i = false) :
    c.carCommands q 8 0 i = (c.carMark q).carDone q := by
  have hlist : maskList 5 8 = [3] := by decide
  have hreason : c.carReason q 3 i = 0 := by simp [Chip.carReason, hs, ho]
  simp [Chip.carCommands, hlist, hreason, Chip.carEffects, maskSet, bit, Chip.carDone, Chip.carMark]

theorem Chip.carCommands_rewind {c : Chip} {q : Nat} {i : Init} (hs : c.inSafe = false) (ho : c.carOwned q i = false) :
    c.carCommands q 16 0 i = (c.carRewind q).carDone q := by
  have hlist : maskList 5 16 = [4] := by decide
  have hreason : c.carReason q 4 i = 0 := by simp [Chip.carReason, hs, ho]
  simp [Chip.carCommands, hlist, hreason, Chip.carEffects, maskSet, bit, Chip.carDone, Chip.carRewind]

theorem Chip.carCommands_release {c : Chip} {q n : Nat} {i : Init} (hs : c.inSafe = false) (ho : c.carOwned q i = false)
    (hn : c.fld (R.CAR_Q_RELH q) F.CAR_Q_RELH_HANDLE = n) (hrel : c.carReleaseReason q n = 0) :
    c.carCommands q 4 0 i = (c.carRelease q n).carDone q := by
  have hlist : maskList 5 4 = [2] := by decide
  have hreason : c.carReason q 2 i = 0 := by simp [Chip.carReason, hs, ho, hn, hrel]
  simp [Chip.carCommands, hlist, hreason, Chip.carEffects, maskSet, bit, Chip.carDone, hn]

/-! ### A field of the write itself -/

theorem Chip.carRoom_setFld (c : Chip) (a : Nat) (f : Fld) (v q : Nat) : (c.setFld a f v).carRoom q = c.carRoom q := rfl

theorem Chip.carReleaseReason_setFld (c : Chip) (a : Nat) (f : Fld) (v q n : Nat) :
    (c.setFld a f v).carReleaseReason q n = c.carReleaseReason q n := rfl

theorem Chip.carOwned_setFld_ne (c : Chip) {a q : Nat} (f : Fld) (v : Nat) (i : Init) (h : R.CAR_Q_CFG q ≠ a) :
    (c.setFld a f v).carOwned q i = c.carOwned q i := by
  rw [Chip.carOwned, Chip.flag_setFld_ne _ _ _ _ h, Chip.carOwned]

/-! ### The commands -/

theorem exec_carPush {s : State} (h : s.chip.atWork = true) (i : Init) {q k : Nat} (hq : q < 8) :
    exec (.carPush i q k) s =
      .next (s.after ((s.chip.writing.setFld (R.CAR_Q_CMD q) F.CAR_Q_CMD_PRIO k).carCommands q 1 (k % 8) i)) := by
  rw [exec_of_asWrite (i := .carPush i q k) h (decide_eq_true hq) rfl, doCarPush]

theorem Chip.inSafe_carWrite {s : State} (h : s.chip.atWork = true) {a : Nat} (f : Fld) (v : Nat) (ha : R.STW_STATE ≠ a) :
    (s.chip.writing.setFld a f v).inSafe = false :=
  (Chip.inSafe_setFld_ne _ f v ha).trans (Chip.inSafe_of_atWork h)

theorem R.STW_STATE_ne_CAR {q : Nat} (hq : q < 8) : R.STW_STATE ≠ R.CAR_Q_CMD q ∧ R.STW_STATE ≠ R.CAR_Q_RELH q := by
  simp only [R.STW_STATE, R.CAR_Q_CMD, R.CAR_Q_RELH]; omega

theorem exec_carMark {s : State} (h : s.chip.atWork = true) {i : Init} {q : Nat} (hq : q < 8) (ho : s.chip.carOwned q i = false) :
    exec (.carMark i q) s = .next (s.after ((s.chip.writing.carMark q).carDone q)) := by
  rw [exec_of_asWrite (i := .carMark i q) h (decide_eq_true hq) rfl, doCarMark,
    Chip.carCommands_mark (c := s.chip.writing) (Chip.inSafe_of_atWork h) ho]

theorem exec_carRewind {s : State} (h : s.chip.atWork = true) {i : Init} {q : Nat} (hq : q < 8) (ho : s.chip.carOwned q i = false) :
    exec (.carRewind i q) s = .next (s.after ((s.chip.writing.carRewind q).carDone q)) := by
  rw [exec_of_asWrite (i := .carRewind i q) h (decide_eq_true hq) rfl, doCarRewind,
    Chip.carCommands_rewind (c := s.chip.writing) (Chip.inSafe_of_atWork h) ho]

theorem exec_carRelease {s : State} (h : s.chip.atWork = true) {i : Init} {q n : Nat} (hq : q < 8) (hn : n < 65536)
    (ho : s.chip.carOwned q i = false) (hrel : s.chip.carReleaseReason q n = 0) :
    exec (.carRelease i q n) s = .next (s.after
      (((s.chip.writing.setFld (R.CAR_Q_RELH q) F.CAR_Q_RELH_HANDLE n).carRelease q n).carDone q)) := by
  have hwf : (Instr.carRelease i q n).wf = true := by simp [Instr.wf, hq]; omega
  have hcfg : R.CAR_Q_CFG q ≠ R.CAR_Q_RELH q := by simp only [R.CAR_Q_CFG, R.CAR_Q_RELH]; omega
  have hhandle : (s.chip.writing.setFld (R.CAR_Q_RELH q) F.CAR_Q_RELH_HANDLE n).fld (R.CAR_Q_RELH q) F.CAR_Q_RELH_HANDLE = n :=
    (Chip.fld_setFld _ _ _ _ (by decide)).trans (Nat.mod_eq_of_lt hn)
  rw [exec_of_asWrite (i := .carRelease i q n) h hwf rfl, doCarRelease,
    Chip.carCommands_release (Chip.inSafe_carWrite h _ _ (R.STW_STATE_ne_CAR hq).2)
      ((Chip.carOwned_setFld_ne _ _ _ i hcfg).trans ho) hhandle ((Chip.carReleaseReason_setFld _ _ _ _ _ _).trans hrel)]

theorem Chip.ladder_of_atWork {c : Chip} (h : c.atWork = true) : c.ladder = 0 :=
  ((Chip.quiet_iff _).1 (Chip.quiet_of_atWork h)).2.2.2.2.2.1

theorem doQueueStall_of_timer {c : Chip} {q t : Nat} (hfind : c.car.stallAt.find? (fun e => decide (e.1 = q)) = some (q, t))
    (htimeout : c.carTimeout q ≠ 0) (hladder : c.ladder = 0) (hstalled : c.flag (R.CAR_Q_STAT q) F.CAR_Q_STAT_STALLED = false) :
    doQueueStall q c =
      ((c.waitLine (t + c.carTimeout q * micro)).setFlag (R.CAR_Q_STAT q) F.CAR_Q_STAT_STALLED true).raise (Ev.qStall q) := by
  rw [doQueueStall, hfind]
  exact if_neg (by simp [htimeout, hladder, hstalled])

/-- Settles O36: one command of the write is accepted, or PUSH is refused for want of room; the timer of Gale is waited for. -/
theorem carterCommands : Obligations.CarterCommands := by
  refine ⟨fun s i q k h hq => ⟨fun hroom => ?_, fun hroom => ?_⟩,
    fun s i q h hq ho => ⟨exec_carPop_of_atWork h hq ho, exec_carMark h hq ho, exec_carRewind h hq ho⟩,
    fun s i q n h hq hn ho hrel => exec_carRelease h hq hn ho hrel,
    fun s i h hr => exec_of_command (i := .carApply i) h rfl rfl rfl hr (Chip.inSafe_of_atWork h),
    fun s q t h hq hfind htimeout hstalled => ?_⟩
  · rw [exec_carPush h i hq, Chip.carCommands_push (Chip.inSafe_carWrite h _ _ (R.STW_STATE_ne_CAR hq).1) hroom]
    rfl
  · rw [exec_carPush h i hq, Chip.carCommands_push_of_full (Chip.inSafe_carWrite h _ _ (R.STW_STATE_ne_CAR hq).1) hroom]
  · have hexec := State.act_of_atWork (i := .queueStall q) h (decide_eq_true hq) (doQueueStall q)
    rw [doQueueStall_of_timer hfind htimeout (Chip.ladder_of_atWork h) hstalled] at hexec
    exact hexec

end Sys2Proof.Machine
end

section
/-! Holds judged and notices repeated (R141 to R148, R154, R155, R158). -/

namespace Sys2Proof.Machine

/-! ### The engine's own writes change no register -/

theorem Chip.feedOne_regs (a : Chip × List (Nat × DramReq)) (r : Nat × DramReq) : (feedOne a r).1.regs = a.1.regs := by
  unfold feedOne
  split <;> rfl

theorem Chip.mcFeed_regs (c : Chip) : c.mcFeed.regs = c.regs := by
  have hfold : ∀ (l : List (Nat × DramReq)) (a : Chip × List (Nat × DramReq)), (l.foldl feedOne a).1.regs = a.1.regs := by
    intro l
    induction l with
    | nil => exact fun _ => rfl
    | cons r l ih => exact fun a => (ih _).trans (Chip.feedOne_regs a r)
  unfold Chip.mcFeed
  split
  · exact hfold _ _
  · rfl

theorem Chip.metaWrite_regs (c : Chip) (k a n : Nat) : (c.metaWrite k a n).regs = c.regs := Chip.mcFeed_regs _

theorem Chip.metaSync_regs (c : Chip) (p : Nat) (old : Part) : (c.metaSync p old).regs = c.regs := by
  unfold Chip.metaSync
  refine (Chip.foldl_keeps Chip.regs (fun d slot _ => ?_) _).trans (Chip.foldl_keeps Chip.regs (fun d b _ => ?_) _)
  · split
    · rfl
    · exact d.metaWrite_regs _ _ _
  · split
    · rfl
    · exact d.metaWrite_regs _ _ _

/-! ### The registers that a judged hold can change -/

/-- The registers of a partition, and those where events are noted. -/
def holdReg (p a : Nat) : Prop := (0x300000 + 0x1000 * p ≤ a ∧ a < 0x301000 + 0x1000 * p) ∨ noteReg a

theorem holdReg_of_partReg {p a : Nat} (h : partReg p a) : holdReg p a := by
  rw [partReg] at h; rw [holdReg]; omega

theorem not_holdReg_STW_STATE {p : Nat} (hp : p < 16) : ¬holdReg p R.STW_STATE := by
  rw [holdReg, noteReg, R.STW_STATE]; omega

theorem holdReg_counts (p : Nat) : holdReg p (R.PRT_HOLD_LAST p) ∧ holdReg p (R.PRT_HOLD_CNT p) ∧ holdReg p (R.PRT_HOLD_MRG p) ∧
    holdReg p (R.PRT_HOLD_CLIP p) ∧ holdReg p (R.PRT_SEG_NO p) := by
  simp only [holdReg, R.PRT_HOLD_LAST, R.PRT_HOLD_CNT, R.PRT_HOLD_MRG, R.PRT_HOLD_CLIP, R.PRT_SEG_NO]; omega

theorem Chip.RegsIn.holdLast (c : Chip) (p k m : Nat) : c.RegsIn (holdReg p) (c.holdLast p k m) :=
  (Chip.RegsIn.setFld c _ _ (holdReg_counts p).1).trans (.setFld _ _ _ (holdReg_counts p).1)

theorem Chip.RegsIn.holdLastWin (c : Chip) (p k m : Nat) : c.RegsIn (holdReg p) (c.holdLastWin p k m) :=
  (Chip.RegsIn.setFld c _ _ (holdReg_counts p).1).trans (.setFld _ _ _ (holdReg_counts p).1)

theorem Chip.RegsIn.clipWin (c : Chip) {p : Nat} (hp : p < 16) (w k : Nat) : c.RegsIn (holdReg p) (c.clipWin p w k) := by
  obtain ⟨hlast, -, -, hclip, -⟩ := holdReg_counts p
  unfold Chip.clipWin
  split
  · exact .refl _ c
  · next g _ =>
    dsimp only
    have hput : c.RegsIn (holdReg p) (c.setPart p ((c.part p).setSeg w { g with clip := maskSet g.clip k })) := .of_regs rfl
    generalize c.setPart p ((c.part p).setSeg w { g with clip := maskSet g.clip k }) = d at *
    have hmark : c.RegsIn (holdReg p) (if d.fld (R.PRT_HOLD_LAST p) F.PRT_HOLD_LAST_WIN = w then
        d.setFld (R.PRT_HOLD_LAST p) F.PRT_HOLD_LAST_CLIP_CAUSE (maskSet (d.fld (R.PRT_HOLD_LAST p) F.PRT_HOLD_LAST_CLIP_CAUSE) k) else d) :=
      hput.trans (.ite (.setFld d _ _ hlast) (.refl _ d))
    exact .ite ((hmark.trans (.addCnt _ _ hclip)).trans
      ((Chip.RegsIn.raise _ (e := Ev.holdClipped p) (by simp only [Ev.holdClipped]; omega)).mono fun _ => .inr)) hmark

theorem Chip.RegsIn.holdOpen (c : Chip) {p : Nat} (hp : p < 16) (x y : Int) (k : Nat) : c.RegsIn (holdReg p) (c.holdOpen p x y k) := by
  have hopen : ∀ (d e : Chip) (w : Nat) (b b' : Prop) [Decidable b] [Decidable b'], d.regs = (c.addCnt (R.PRT_SEG_NO p) 1).regs →
      e = d.holdLastWin p w 0 →
      c.RegsIn (holdReg p) (let f := if b then e.clipWin p w 0 else e
        if b' then f.clipWin p w 1 else f) := fun d e w b b' _ _ hd he => by
    have hlast : c.RegsIn (holdReg p) e := he ▸ ((Chip.RegsIn.addCnt c 1 (holdReg_counts p).2.2.2.2).trans (.of_regs hd)).trans
      (.holdLastWin d p w 0)
    have hclip := hlast.trans (.ite (b := b) (.clipWin e hp w 0) (.refl _ e))
    exact hclip.trans (.ite (b := b') (.clipWin _ hp w 1) (.refl _ _))
  exact hopen _ _ _ _ _ (by rfl) rfl

theorem Chip.RegsIn.synced_refresh (c : Chip) (p : Nat) {f : Chip → Chip} (h : c.RegsIn (holdReg p) (f c)) :
    c.RegsIn (holdReg p) (c.synced p (fun c => (f c).refreshPart p)) :=
  (h.trans ((Chip.RegsIn.refreshPart (f c) p).mono fun _ => holdReg_of_partReg)).trans (.of_regs (Chip.metaSync_regs _ p _))

theorem Chip.RegsIn.holdRecord (c : Chip) (p : Nat) (x y : Int) (k r w : Nat) : c.RegsIn (holdReg p) (c.holdRecord p x y k r w) :=
  (Chip.RegsIn.record c _ _ _ _).mono fun _ => .inr

theorem Chip.RegsIn.holdJudge (c : Chip) {p : Nat} (hp : p < 16) (x y : Int) (k : Nat) : c.RegsIn (holdReg p) (c.holdJudge p x y k).1 := by
  obtain ⟨-, hcnt, hmrg, -, -⟩ := holdReg_counts p
  have hlast : ∀ (b : Prop) [Decidable b] (r : Nat), c.RegsIn (holdReg p) (if b then c.holdLast p r k else c) := fun b _ r =>
    .ite (.holdLast c p r k) (.refl _ c)
  unfold Chip.holdJudge
  dsimp only
  split
  · exact hlast _ _
  · split
    · exact ((((hlast _ _).trans (.addCnt _ _ hcnt)).trans (.addCnt _ _ hmrg)).trans (.holdLastWin _ p _ _)).trans (.holdRecord _ p x y k 0 _)
    · exact ((hlast _ _).trans (.addCnt _ _ hcnt)).trans (.synced_refresh _ p (f := fun c => c.holdOpen p x y k) (.holdOpen _ hp x y k))

theorem Chip.holdJudge_of_reason {c : Chip} {p k : Nat} {x y : Int} (h : c.holdReason p x y ((c.part p).mergeSlot x y).isSome = 0) :
    (c.holdJudge p x y k).2 = 0 := by
  unfold Chip.holdJudge
  dsimp only
  rw [if_neg (not_not.2 h)]
  split <;> rfl

/-! ### The host's command (Table 6-3) -/

theorem exec_holdCmd {s : State} (h : s.chip.atWork = true) (i : Init) {p : Nat} (hp : p < 16) {x y : Int} {r : Chip × Nat}
    (hx : s.chip.triple (R.PRT_HOLD_START_L p) = x) (hy : s.chip.triple (R.PRT_HOLD_END_L p) = y)
    (hr : s.chip.writing.holdJudge p x y 1 = r) :
    exec (.holdCmd i p) s = .next (s.after (r.1.command (holdPort p) i none false r.2 id)) := by
  have hsafe : s.chip.writing.inSafe = false := Chip.inSafe_of_atWork h
  have hdo : doHoldCmd i p s.chip.writing = s.chip.writing.holdCommand p x y 1 i none := by rw [doHoldCmd, ← hx, ← hy]; rfl
  rw [exec_of_asWrite (i := .holdCmd i p) h (decide_eq_true hp) rfl, hdo, Chip.holdCommand, hsafe, hr]
  rfl

theorem exec_holdCmd_of_reason {s : State} (h : s.chip.atWork = true) (i : Init) {p : Nat} (hp : p < 16)
    (hr : s.chip.holdReason p (s.chip.triple (R.PRT_HOLD_START_L p)) (s.chip.triple (R.PRT_HOLD_END_L p))
      ((s.chip.part p).mergeSlot (s.chip.triple (R.PRT_HOLD_START_L p)) (s.chip.triple (R.PRT_HOLD_END_L p))).isSome = 0) :
    exec (.holdCmd i p) s = .next (s.after ((s.chip.writing.holdJudge p (s.chip.triple (R.PRT_HOLD_START_L p))
      (s.chip.triple (R.PRT_HOLD_END_L p)) 1).1.accept (holdPort p) id)) := by
  have hsafe := ((Chip.RegsIn.holdJudge s.chip.writing hp (s.chip.triple (R.PRT_HOLD_START_L p)) (s.chip.triple (R.PRT_HOLD_END_L p)) 1).inSafe
    (not_holdReg_STW_STATE hp)).trans (Chip.inSafe_of_atWork h)
  have hzero := Chip.holdJudge_of_reason (c := s.chip.writing) (k := 1) hr
  rw [exec_holdCmd h i hp rfl rfl rfl, hzero]
  exact congrArg (fun c => Host.Outcome.next (s.after c)) (Chip.command_accept _ _ _ _ _ hsafe)

theorem Chip.holdJudge_of_ne {c : Chip} {p k r : Nat} {x y : Int} (h : c.holdReason p x y ((c.part p).mergeSlot x y).isSome = r) (hr : r ≠ 0)
    (hk : ¬(k = 0 ∨ k = 3)) : c.holdJudge p x y k = (c, r) := by
  have hnot : ¬(r = 0 ∨ k = 0 ∨ k = 3) := not_or.2 ⟨hr, hk⟩
  unfold Chip.holdJudge
  dsimp only
  rw [h, if_pos hr, if_neg hnot]

/-- A command of the host that a row of Table 6-3 rejects shows its reason, and opens nothing. -/
theorem completes_holdCmd_rejected {s : State} (h : s.chip.atWork = true) (i : Init) {p r : Nat} (hp : p < 16) {x y : Int}
    (hx : s.chip.triple (R.PRT_HOLD_START_L p) = x) (hy : s.chip.triple (R.PRT_HOLD_END_L p) = y)
    (hreason : s.chip.holdReason p x y ((s.chip.part p).mergeSlot x y).isSome = r) (hr : r ≠ 0) :
    Completes (.holdCmd i p) s (fun c => c.fld (R.PRT_CMDSTAT p) reasonFld = r % 256 ∧
      c.reg (R.PRT_HOLD_LAST p) = s.chip.reg (R.PRT_HOLD_LAST p) ∧ c.parts = s.chip.parts) := by
  have hsafe : s.chip.writing.inSafe = false := Chip.inSafe_of_atWork h
  have hexec := exec_holdCmd h i hp hx hy (Chip.holdJudge_of_ne (c := s.chip.writing) (k := 1) hreason hr (by decide))
  rw [Chip.command_reject _ _ _ _ _ hsafe hr] at hexec
  have hnote : ∀ a, a < 0x580000 → a ∉ eventRegs (holdPort p).ev := fun a ha => not_mem_eventRegs_of_lt ha _
  have hstat : R.PRT_CMDSTAT p < 0x580000 := by rw [R.PRT_CMDSTAT]; omega
  have hlast : R.PRT_HOLD_LAST p < 0x580000 ∧ R.PRT_HOLD_LAST p ≠ R.PRT_CMDSTAT p := by rw [R.PRT_HOLD_LAST, R.PRT_CMDSTAT]; omega
  refine .of_exec hexec ((Chip.reject_fatal _ _ _ _ _).trans (Chip.fatal_of_atWork h)) ((Chip.reject_resetReq _ _ _ _ _).trans (Chip.resetReq_of_atWork h))
    ⟨Chip.fld_reject_reason _ (p := holdPort p) i none r (hnote _ hstat), ?_, Chip.reject_parts _ _ _ _ _⟩
  rw [Chip.reg_reject _ _ _ _ _ (hnote _ hlast.1)]
  exact Chip.reg_setFld_ne _ _ _ hlast.2

/-! ### Holds that wait, and repeat copies -/

theorem exec_noticeHoldInstant {s : State} (h : s.chip.atWork = true) {r : HoldReq} {l : List HoldReq} (hl : s.chip.noticeHolds = r :: l) :
    exec .noticeHoldInstant s = .next (s.after ({ s.chip with noticeHolds := l }.holdReqJudge r)) := by
  obtain ⟨-, -, -, -, -, hladder, hdown, -⟩ := (Chip.quiet_iff _).1 (Chip.quiet_of_atWork h)
  have hgale : s.chip.inGale = true := by rw [Chip.inGale, hladder, hdown]; rfl
  have hexec := State.act_of_atWork (i := .noticeHoldInstant) h rfl doNoticeHoldInstant
  rw [doNoticeHoldInstant, hl] at hexec
  exact hexec.trans (congrArg (fun c => Host.Outcome.next (s.after c)) (if_pos (by rw [hgale]; rfl)))

theorem exec_seqHoldInstant {s : State} (h : s.chip.atWork = true) {r : HoldReq} {l : List HoldReq} (hl : s.chip.seqHolds = r :: l) :
    exec .seqHoldInstant s = .next (s.after ({ s.chip with seqHolds := l }.holdReqJudge r)) := by
  have hexec := State.act_of_atWork (i := .seqHoldInstant) h rfl doSeqHoldInstant
  rw [doSeqHoldInstant, hl] at hexec
  exact hexec

/-- The engine with the repeat copies `l` left. -/
def Chip.putRepeats (c : Chip) (l : List NoticeRepeat) : Chip := { c with ort := { c.ort with repeats := l } }

/-- The copies of one notice that are left once one is sent. -/
def NoticeRepeat.rest (r : NoticeRepeat) : List NoticeRepeat :=
  if r.left ≤ 1 then [] else [{ r with left := r.left - 1, due := r.due + 100 * micro }]

theorem doNoticeRepeat_of_one {c : Chip} {r : NoticeRepeat} (h : c.ort.repeats = [r]) :
    doNoticeRepeat c = ((c.waitLine r.due).putRepeats r.rest).noticeQueue r.port r.frame true := by
  have hrest : (c.waitLine r.due).ort.repeats.erase r = [] := by rw [c.waitLine_ort, h, List.erase_cons_head]
  have hfirst : firstRepeat c.ort.repeats = some r := by rw [h]; rfl
  rw [doNoticeRepeat, hfirst]
  dsimp only
  rw [hrest]
  rfl

section
variable (c : Chip) (l : List NoticeRepeat)

theorem Chip.putRepeats_regs : (c.putRepeats l).regs = c.regs := rfl
theorem Chip.putRepeats_fatal : (c.putRepeats l).fatal = c.fatal := rfl
theorem Chip.putRepeats_resetReq : (c.putRepeats l).resetReq = c.resetReq := rfl
theorem Chip.putRepeats_eths : (c.putRepeats l).eths = c.eths := rfl
theorem Chip.putRepeats_epc : (c.putRepeats l).epc = c.epc := rfl
theorem Chip.putRepeats_repeats : (c.putRepeats l).ort.repeats = l := rfl
theorem Chip.putRepeats_txRoom : (c.putRepeats l).ort.txRoom = c.ort.txRoom := rfl
end

theorem Chip.eth_congr {c d : Chip} (h : d.eths = c.eths) (n : Nat) : d.eth n = c.eth n := by rw [Chip.eth, h, Chip.eth]

theorem Chip.ethUp_congr {c d : Chip} (h : d.regs = c.regs) (n : Nat) : d.ethUp n = c.ethUp n := Chip.flag_congr (Chip.reg_congr h _) _

/-- The engine once a copy's time has come, before the copy is put on its port. -/
structure Chip.CopyDue (c : Chip) (r : NoticeRepeat) (d : Chip) : Prop where
  regs : d.regs = c.regs
  eths : d.eths = c.eths
  fatal : d.fatal = c.fatal
  resetReq : d.resetReq = c.resetReq
  room : d.ort.txRoom = c.ort.txRoom
  left : d.ort.repeats = r.rest
  due : r.due ≤ d.epc.line

theorem Chip.copyDue_putRepeats (c : Chip) (r : NoticeRepeat) : c.CopyDue r ((c.waitLine r.due).putRepeats r.rest) where
  regs := (Chip.putRepeats_regs _ _).trans (c.waitLine_regs _)
  eths := (Chip.putRepeats_eths _ _).trans (c.waitLine_eths _)
  fatal := (Chip.putRepeats_fatal _ _).trans (c.waitLine_fatal _)
  resetReq := (Chip.putRepeats_resetReq _ _).trans (c.waitLine_resetReq _)
  room := (Chip.putRepeats_txRoom _ _).trans (congrArg Ort.txRoom (c.waitLine_ort _))
  left := Chip.putRepeats_repeats _ _
  due := by rw [Chip.putRepeats_epc]; exact c.le_line_waitLine _

theorem exec_noticeRepeat {s : State} (h : s.chip.atWork = true) {r : NoticeRepeat} (hr : s.chip.ort.repeats = [r]) :
    ∃ d, s.chip.CopyDue r d ∧ exec .noticeRepeat s = .next (s.after (d.noticeQueue r.port r.frame true)) :=
  ⟨_, s.chip.copyDue_putRepeats r, by
    rw [← doNoticeRepeat_of_one hr]; exact State.act_of_atWork (i := .noticeRepeat) h rfl doNoticeRepeat⟩

theorem Chip.noticeQueue_of_fits {c : Chip} {n : Nat} {f : List Nat} {b : Bool} (h : c.noticeFits n = true) :
    c.noticeQueue n f b = c.setEth n { c.eth n with notices := (c.eth n).notices ++ [(f, b)] } := if_pos h

theorem Chip.noticeQueue_of_full {c : Chip} {n : Nat} {f : List Nat} {b : Bool} (h : c.noticeFits n = false) :
    c.noticeQueue n f b = c.noticeDrop := if_neg (by simp [h])

theorem completes_noticeRepeat_up {s : State} (h : s.chip.atWork = true) {r : NoticeRepeat} (hr : s.chip.ort.repeats = [r])
    (hup : s.chip.ethUp r.port = true) (hroom : (s.chip.eth r.port).notices.length < s.chip.ort.txRoom) :
    Completes .noticeRepeat s (fun c => (c.eth r.port).notices = (s.chip.eth r.port).notices ++ [(r.frame, true)] ∧ r.due ≤ c.epc.line ∧
      c.ort.repeats = r.rest ∧ c.regs = s.chip.regs) := by
  obtain ⟨d, hd, hexec⟩ := exec_noticeRepeat h hr
  have heth := Chip.eth_congr hd.eths r.port
  have hfits : d.noticeFits r.port = true := by
    rw [Chip.noticeFits, Chip.ethUp_congr hd.regs, hup, heth, hd.room, decide_eq_true hroom]; rfl
  rw [Chip.noticeQueue_of_fits hfits] at hexec
  exact .of_exec hexec (hd.fatal.trans (Chip.fatal_of_atWork h)) (hd.resetReq.trans (Chip.resetReq_of_atWork h))
    ⟨by rw [Chip.eth_setEth, heth], hd.due, hd.left, hd.regs⟩

theorem completes_noticeRepeat_down {s : State} (h : s.chip.atWork = true) {r : NoticeRepeat} (hr : s.chip.ort.repeats = [r])
    (hdown : s.chip.ethUp r.port = false) :
    Completes .noticeRepeat s (fun c => c.eths = s.chip.eths ∧ r.due ≤ c.epc.line ∧ c.ort.repeats = r.rest ∧
      c.reg R.ORT_NTC_DROP = s.chip.reg R.ORT_NTC_DROP + 1) := by
  obtain ⟨d, hd, hexec⟩ := exec_noticeRepeat h hr
  have hfits : d.noticeFits r.port = false := by rw [Chip.noticeFits, Chip.ethUp_congr hd.regs, hdown]; rfl
  rw [Chip.noticeQueue_of_full hfits] at hexec
  have hraise := Chip.EventsOnly.trans (Chip.EventsOnly.addCnt d R.ORT_NTC_DROP 1) (.raise _ Ev.noticeDrop)
  have hreg : d.noticeDrop.reg R.ORT_NTC_DROP = s.chip.reg R.ORT_NTC_DROP + 1 := by
    rw [Chip.noticeDrop, Chip.reg_raise_ne _ _ (by decide), Chip.reg_addCnt_one, Chip.reg_congr hd.regs]
  exact .of_exec hexec (hraise.fatal.trans (hd.fatal.trans (Chip.fatal_of_atWork h)))
    (hraise.resetReq.trans (hd.resetReq.trans (Chip.resetReq_of_atWork h)))
    ⟨hraise.eths.trans hd.eths, hraise.epc.symm ▸ hd.due, hraise.ort.symm ▸ hd.left, hreg⟩

/-- Settles O32: the oldest hold is judged, a command is judged by Table 6-3, and a repeat copy is queued or dropped at its time. -/
theorem holdsJudged : Obligations.HoldsJudged :=
  ⟨fun _ _ _ h hl => exec_seqHoldInstant h hl, fun _ _ _ h hl => exec_noticeHoldInstant h hl,
   fun _ i _ h hp hr => exec_holdCmd_of_reason h i hp hr,
   fun s i p h hp => ⟨fun hrec => completes_holdCmd_rejected h i hp rfl rfl (r := 0x30) (by rw [Chip.holdReason, hrec]; rfl) (by decide),
     fun hrec hle => completes_holdCmd_rejected h i hp rfl rfl (r := 0x31)
       (by rw [Chip.holdReason, hrec, decide_eq_true (Int.ofNat_le.2 hle)]; rfl) (by decide)⟩,
   fun _ _ h hr _ => ⟨completes_noticeRepeat_up h hr, completes_noticeRepeat_down h hr⟩⟩

end Sys2Proof.Machine
end

section
/-! Field writes by mask, and the write of a register that only its fields govern (R343, R354, R355). -/

namespace Sys2Proof.Machine

/-! ### A masked write, bit by bit -/

theorem add_eq_or_of_and_eq_zero (a : Nat) : ∀ b : Nat, a &&& b = 0 → a + b = a ||| b := by
  induction a using Nat.strong_induction_on with
  | _ a ih =>
    intro b h
    rcases Nat.eq_zero_or_pos a with rfl | hpos
    · simp
    · have hhalf : a / 2 + b / 2 = a / 2 ||| b / 2 := ih _ (Nat.div_lt_self hpos (by decide)) _ (by rw [← Nat.and_div_two, h])
      have hlow : a % 2 + b % 2 = (a ||| b) % 2 := by
        have hand : (a &&& b) % 2 = 0 := by rw [h]
        have hor : (a ||| b) % 2 = a % 2 ||| b % 2 := Nat.or_mod_two_pow (n := 1)
        rw [Nat.and_mod_two_pow (n := 1)] at hand
        rw [hor]
        rcases Nat.mod_two_eq_zero_or_one a with ha | ha <;> rcases Nat.mod_two_eq_zero_or_one b with hb | hb <;> simp_all
      have hdiv : (a ||| b) / 2 = a / 2 ||| b / 2 := Nat.or_div_two
      omega

theorem sub_and_eq_xor (x m : Nat) : x - (x &&& m) = x ^^^ (x &&& m) := by
  have hand : (x &&& m) &&& (x ^^^ (x &&& m)) = 0 := Nat.eq_of_testBit_eq fun i => by
    simp only [Nat.testBit_and, Nat.testBit_xor, Nat.zero_testBit]; cases x.testBit i <;> cases m.testBit i <;> rfl
  have hor : (x &&& m) ||| (x ^^^ (x &&& m)) = x := Nat.eq_of_testBit_eq fun i => by
    simp only [Nat.testBit_and, Nat.testBit_or, Nat.testBit_xor]; cases x.testBit i <;> cases m.testBit i <;> rfl
  have hsum := (add_eq_or_of_and_eq_zero _ _ hand).trans hor
  omega

/-- The written bits under the mask, the others as they were. -/
theorem testBit_masked (x v m i : Nat) : (masked x v m).testBit i = if m.testBit i then v.testBit i else x.testBit i := by
  have hand : (x ^^^ (x &&& m)) &&& (v &&& m) = 0 := Nat.eq_of_testBit_eq fun i => by
    simp only [Nat.testBit_and, Nat.testBit_xor, Nat.zero_testBit]; cases x.testBit i <;> cases m.testBit i <;> simp
  rw [masked, sub_and_eq_xor, add_eq_or_of_and_eq_zero _ _ hand]
  simp only [Nat.testBit_and, Nat.testBit_or, Nat.testBit_xor]
  cases x.testBit i <;> cases m.testBit i <;> simp

theorem masked_lt {x v : Nat} (hx : x < 2 ^ 32) (hv : v < 2 ^ 32) (m : Nat) : masked x v m < 2 ^ 32 := by
  refine Nat.lt_pow_two_of_testBit _ fun i hi => ?_
  have hxi : x.testBit i = false := Nat.testBit_lt_two_pow (hx.trans_le (Nat.pow_le_pow_right (by decide) hi))
  have hvi : v.testBit i = false := Nat.testBit_lt_two_pow (hv.trans_le (Nat.pow_le_pow_right (by decide) hi))
  rw [testBit_masked, hxi, hvi, ite_self]

/-- Under a mask that holds the bits asked for, a masked write shows the written ones. -/
theorem masked_and_of_subset {x v m n : Nat} (h : ∀ i, n.testBit i = true → m.testBit i = true) : masked x v m &&& n = v &&& n :=
  Nat.eq_of_testBit_eq fun i => by
    rw [Nat.testBit_and, Nat.testBit_and, testBit_masked]
    cases hn : n.testBit i with
    | false => rw [Bool.and_false, Bool.and_false]
    | true => rw [if_pos (h i hn)]

/-- Under a mask apart from the bits asked for, they stay. -/
theorem masked_and_of_apart {x v m n : Nat} (h : m &&& n = 0) : masked x v m &&& n = x &&& n :=
  Nat.eq_of_testBit_eq fun i => by
    have hi := congrArg (fun y => Nat.testBit y i) h
    simp only [Nat.testBit_and, Nat.zero_testBit] at hi
    rw [Nat.testBit_and, Nat.testBit_and, testBit_masked]
    cases hn : n.testBit i with
    | false => rw [Bool.and_false, Bool.and_false]
    | true => rw [hn, Bool.and_true] at hi; rw [hi, if_neg Bool.false_ne_true]

theorem bits_eq_of_testBit {x y lo w : Nat} (h : ∀ i, lo ≤ i → i < lo + w → x.testBit i = y.testBit i) : bits x lo w = bits y lo w := by
  refine Nat.eq_of_testBit_eq fun i => ?_
  rw [bits, bits, Nat.testBit_mod_two_pow, Nat.testBit_mod_two_pow, Nat.testBit_div_two_pow, Nat.testBit_div_two_pow]
  by_cases hi : i < w
  · rw [h (i + lo) (by omega) (by omega)]
  · rw [decide_eq_false hi, Bool.false_and, Bool.false_and]

theorem bits_masked {x v m lo w : Nat} (h : ∀ i, lo ≤ i → i < lo + w → m.testBit i = true) : bits (masked x v m) lo w = bits v lo w :=
  bits_eq_of_testBit fun i hlo hhi => by rw [testBit_masked, if_pos (h i hlo hhi)]

/-! ### Registers that a field write alone governs -/

/-- The write of the register acts on its fields and does nothing more. -/
structure FieldsOnly (a : Nat) (r : RegRow) : Prop where
  row : regRow a = some r
  low : a < 0x800000
  sqc : r.sqc = 0
  gd : r.gd = 0
  cmd : r.cmd = 0
  triple : spanOf writeTriples 3 a = none
  value : spanOf valuePairs 2 a = none
  named : a ∉ [R.EVT_RAISE, R.EPC_CTRL, R.SCH_CTRL, R.STW_MB_CTRL, R.CST_TEST, R.CST_BANK_FAIL_H]
  eth : ¬(0x68 ≤ a / 0x10000 ∧ a / 0x10000 < 0x6c ∧ a % 0x10000 = 0)
  cko : ¬(a / 0x10000 = 2 ∧ 0x100 ≤ a % 0x10000 ∧ a % 0x10 = 4)
  mc : ¬(0x40 ≤ a / 0x10000 ∧ a / 0x10000 < 0x48)

theorem spanOf_eq_none_of_gap {l : List Nat} {n lo hi a : Nat} (h : l.all (fun b => decide (b + 4 * n ≤ lo) || decide (hi ≤ b)) = true)
    (hlo : lo ≤ a) (hhi : a < hi) : spanOf l n a = none := by
  rw [spanOf, Option.map_eq_none_iff, List.find?_eq_none]
  intro b hb
  have := List.all_eq_true.1 h b hb
  simp only [Bool.or_eq_true, Bool.and_eq_true, decide_eq_true_eq] at this ⊢
  omega

section
variable {a : Nat} {r : RegRow}

theorem FieldsOnly.of_plainReg (h : plainReg a r = true) : FieldsOnly a r ∧ r.lk = 0 ∧ r.wo = 0 := by
  simp only [plainReg, Bool.and_eq_true, decide_eq_true_eq, Bool.not_eq_true', Bool.and_eq_false_iff, decide_eq_false_iff_not,
    Option.isNone_iff_eq_none] at h
  obtain ⟨⟨⟨⟨⟨⟨⟨⟨⟨⟨⟨⟨hrow, hlow⟩, hsqc⟩, hgd⟩, hcmd⟩, hlk⟩, hwo⟩, htriple⟩, hvalue⟩, hnamed⟩, heth⟩, hcko⟩, hmc⟩ := h
  exact ⟨⟨hrow, hlow, hsqc, hgd, hcmd, htriple, hvalue, by simpa using hnamed, by tauto, by tauto, by tauto⟩, hlk, hwo⟩

theorem FieldsOnly.applyFields (h : FieldsOnly a r) (c : Chip) (i : Init) (v : Word) : c.applyFields i a v = c.fieldWrite i a r v.toNat := by
  have hnamed := h.named
  simp only [List.mem_cons, List.not_mem_nil, or_false, not_or] at hnamed
  obtain ⟨hraise, hepc, hsch, hmb, htest, hbank⟩ := hnamed
  have hmc : ¬(0x40 ≤ a / 0x10000 ∧ a / 0x10000 < 0x48 ∧ r.cmd = 0) := fun ⟨hlo, hhi, _⟩ => h.mc ⟨hlo, hhi⟩
  simp only [Chip.applyFields, h.row, h.triple, h.value, if_neg (not_not.2 h.sqc), if_neg hraise, if_neg hepc, if_neg hsch, if_neg hmb,
    if_neg (fun hc : a = R.CST_TEST ∧ _ => htest hc.1), if_neg hbank, if_neg h.eth, if_neg h.cko, if_neg hmc]

theorem FieldsOnly.applyCmds (h : FieldsOnly a r) (c : Chip) (i : Init) (v : Word) : c.applyCmds i a v = c := by
  simp only [Chip.applyCmds, h.row, h.cmd, Nat.and_zero, Chip.issue, if_true]

theorem FieldsOnly.busWrite (h : FieldsOnly a r) {c : Chip} (hc : c.atWork = true) (i : Init) (v : Word) :
    c.busWrite i a v = c.writing.fieldWrite i a r v.toNat := by
  have hguard : isGuarded a = false := by simp only [isGuarded, h.row, h.gd]; rfl
  rw [Chip.busWrite_of_atWork hc i v h.low hguard, h.applyCmds, h.applyFields]
end

/-! ### The write of the fields -/

/-- Without write-once fields and with none barred, the fields take the written bits. -/
theorem Chip.fieldWrite_of_open {c : Chip} {a v : Nat} {r : RegRow} (i : Init) (hwo : r.wo = 0) (hbars : c.lkBars a r v = false) :
    c.fieldWrite i a r v = c.setN a (masked (c.rn a) v (r.rw ||| r.rwh ||| r.cnt ||| c.lkOf a r)) := by
  simp [Chip.fieldWrite, hwo, hbars, masked]

/-- Where the lock bars it, the LK fields stay and the write is dropped. -/
theorem Chip.fieldWrite_of_barred {c : Chip} {a v : Nat} {r : RegRow} (i : Init) (hwo : r.wo = 0) (hbars : c.lkBars a r v = true) :
    c.fieldWrite i a r v = (c.setN a (masked (c.rn a) v (r.rw ||| r.rwh ||| r.cnt))).dropWrite a v i 2 := by
  simp [Chip.fieldWrite, hwo, hbars, masked]

theorem Chip.rn_setN_masked (c : Chip) (a m : Nat) (v : Word) : (c.setN a (masked (c.rn a) v.toNat m)).rn a = masked (c.rn a) v.toNat m := by
  rw [Chip.rn_setN]
  exact Nat.mod_eq_of_lt (masked_lt (BitVec.isLt _) v.isLt m)

theorem Chip.lkOf_of_apart {a : Nat} (h : a < 0x300000 ∨ 0x310000 ≤ a) (c : Chip) (r : RegRow) : c.lkOf a r = r.lk := by
  rw [Chip.lkOf, if_neg]
  simp only [Bool.and_eq_true, decide_eq_true_eq]
  omega

theorem Chip.lkBars_iff {c : Chip} {a v : Nat} {r : RegRow} (h : a < 0x300000 ∨ 0x310000 ≤ a) :
    c.lkBars a r v = true ↔ c.locked = true ∧ (c.rn a ^^^ v) &&& r.lk ≠ 0 := by
  rw [Chip.lkBars, Chip.lkOf_of_apart h, Bool.and_eq_true, decide_eq_true_eq]

theorem completes_registerWrite_plain {s : State} {i : Init} {a : Nat} {r : RegRow} (h : s.chip.atWork = true) (hi : i ≠ .sched) (ha : a % 4 = 0)
    (hplain : plainReg a r = true) (v : Word) :
    Completes (.registerWrite i a v) s (fun c => c.rn a = masked (s.chip.rn a) v.toNat (r.rw ||| r.rwh ||| r.cnt) ∧ c.dropped = false ∧
      (∀ b, b ≠ a → c.reg b = s.chip.reg b) ∧ c.wcopy = s.chip.wcopy ∧ s.chip.keepsMem c) := by
  obtain ⟨hfields, hlk, hwo⟩ := FieldsOnly.of_plainReg hplain
  have hlkOf : s.chip.writing.lkOf a r = 0 := by
    rw [Chip.lkOf, hlk]
    split <;> rfl
  have hbars : s.chip.writing.lkBars a r v.toNat = false := by rw [Chip.lkBars, hlkOf, Nat.and_zero]; simp
  have hexec := exec_registerWrite_of_atWork h hi (hfields.low.trans (by decide)) ha v
  rw [hfields.busWrite h, Chip.fieldWrite_of_open i hwo hbars, hlkOf, Nat.or_zero] at hexec
  exact .of_exec hexec (Chip.fatal_of_atWork (c := s.chip) h) (Chip.resetReq_of_atWork (c := s.chip) h)
    ⟨Chip.rn_setN_masked s.chip.writing a _ v, rfl, fun b hb => Chip.reg_setN_ne _ _ hb, rfl, Chip.keepsMem_of_eq rfl rfl⟩

end Sys2Proof.Machine
end

section
/-! Writes of analogue settings, of locked fields and of write-once registers (R68, R354, R355). -/

namespace Sys2Proof.Machine

/-- The row of a register from its block and its offset there. -/
theorem regRow_of_block {a n o : Nat} {rows : List RegRow} (ha : a = 0x10000 * n + o) (ho : o < 0x10000) (h : findBlock n regBlocks = some rows) :
    regRow a = rows.find? (fun r => r.hit o) := by
  have hblock : a / 0x10000 = n := by omega
  have hoff : a % 0x10000 = o := by omega
  rw [regRow, hblock, hoff, h]

theorem findBlock_lg {g : Nat} (hg : g < 8) : findBlock (4 + g) regBlocks = some rowsLg := by
  interval_cases g <;> rfl

def rowLgCfg : RegRow :=
  { name := "LGn_CFG", off := 0x0, stride := 0x0, count := 1, stride2 := 0, count2 := 1, reset := 0x0, lk := 0xffff1f, lks := 0x11d }

def rowLgChCfg : RegRow :=
  { name := "LGn_CHk_CFG", off := 0x100, stride := 0x4, count := 32, stride2 := 0, count2 := 1, reset := 0x2000000, lk := 0x60003ff,
    lks := 0x6000001, rw := 0x1ff0000 }

def rowTrsTrigCfg : RegRow :=
  { name := "TRS_TRIGn_CFG", off := 0x3100, stride := 0x4, count := 32, stride2 := 0, count2 := 1, reset := 0x10000, lk := 0xffff000f,
    lks := 0x1000f, rw := 0x10 }

theorem regRow_lgCfg {g : Nat} (hg : g < 8) : regRow (R.LG_CFG g) = some rowLgCfg := by
  rw [regRow_of_block (n := 4 + g) (o := 0) (by rw [R.LG_CFG]; omega) (by decide) (findBlock_lg hg)]
  decide

theorem regRow_lgChCfg {g k : Nat} (hg : g < 8) (hk : k < 32) : regRow (R.LG_CH_CFG g k) = some rowLgChCfg := by
  have hfind : ∀ k < 32, rowsLg.find? (fun r => r.hit (0x100 + 4 * k)) = some rowLgChCfg := by decide
  rw [regRow_of_block (n := 4 + g) (o := 0x100 + 4 * k) (by rw [R.LG_CH_CFG]; omega) (by omega) (findBlock_lg hg), hfind k hk]

theorem regRow_trsTrigCfg {n : Nat} (hn : n < 32) : regRow (R.TRS_TRIG_CFG n) = some rowTrsTrigCfg := by
  have hfind : ∀ n < 32, rowsTrs.find? (fun r => r.hit (0x3100 + 4 * n)) = some rowTrsTrigCfg := by decide
  rw [regRow_of_block (n := 0x20) (o := 0x3100 + 4 * n) (by rw [R.TRS_TRIG_CFG]; omega) (by omega) rfl, hfind n hn]

/-- The registers of a lane group have no rule of their own beside their fields and commands. -/
theorem FieldsOnly.of_lg {a : Nat} {r : RegRow} (hlo : 0x40000 ≤ a) (hhi : a < 0xc0000) (hrow : regRow a = some r) (hsqc : r.sqc = 0)
    (hgd : r.gd = 0) (hcmd : r.cmd = 0) : FieldsOnly a r where
  row := hrow
  low := hhi.trans (by decide)
  sqc := hsqc
  gd := hgd
  cmd := hcmd
  triple := spanOf_eq_none_of_gap (by decide) hlo hhi
  value := spanOf_eq_none_of_gap (by decide) hlo hhi
  named := by
    simp only [List.mem_cons, List.not_mem_nil, or_false, R.EVT_RAISE, R.EPC_CTRL, R.SCH_CTRL, R.STW_MB_CTRL, R.CST_TEST, R.CST_BANK_FAIL_H]
    omega
  eth := by omega
  cko := by omega
  mc := by omega

theorem FieldsOnly.of_lgCfg {g : Nat} (hg : g < 8) : FieldsOnly (R.LG_CFG g) rowLgCfg :=
  .of_lg (by rw [R.LG_CFG]; omega) (by rw [R.LG_CFG]; omega) (regRow_lgCfg hg) rfl rfl rfl

theorem FieldsOnly.of_lgChCfg {g k : Nat} (hg : g < 8) (hk : k < 32) : FieldsOnly (R.LG_CH_CFG g k) rowLgChCfg :=
  .of_lg (by rw [R.LG_CH_CFG]; omega) (by rw [R.LG_CH_CFG]; omega) (regRow_lgChCfg hg hk) rfl rfl rfl

theorem FieldsOnly.of_trsTrigCfg {n : Nat} (hn : n < 32) : FieldsOnly (R.TRS_TRIG_CFG n) rowTrsTrigCfg := by
  have hlo : 0x203100 ≤ R.TRS_TRIG_CFG n := by rw [R.TRS_TRIG_CFG]; omega
  have hhi : R.TRS_TRIG_CFG n < 0x203180 := by rw [R.TRS_TRIG_CFG]; omega
  refine ⟨regRow_trsTrigCfg hn, hhi.trans (by decide), rfl, rfl, rfl, spanOf_eq_none_of_gap (by decide) hlo hhi,
    spanOf_eq_none_of_gap (by decide) hlo hhi, ?_, by omega, by omega, by omega⟩
  simp only [List.mem_cons, List.not_mem_nil, or_false, R.EVT_RAISE, R.EPC_CTRL, R.SCH_CTRL, R.STW_MB_CTRL, R.CST_TEST, R.CST_BANK_FAIL_H]
  omega

theorem isKeyReg_eq_false {a : Nat} (h : a < 0x680000) : isKeyReg a = false := by
  simp only [isKeyReg, Bool.or_eq_false_iff, Bool.and_eq_false_iff, decide_eq_false_iff_not]
  omega

/-- Registers whose fields alone a write acts on, none of them write-once, below the partitions' block. -/
structure LockedFields (a : Nat) (r : RegRow) : Prop extends FieldsOnly a r where
  wo : r.wo = 0
  below : a < 0x300000

section
variable {a : Nat} {r : RegRow} {c : Chip} {v : Word}

theorem LockedFields.lkMask (h : LockedFields a r) : lkMask a = r.lk := by
  simp only [Machine.lkMask, isKeyReg_eq_false (h.below.trans (by decide)), h.row]
  rfl

/-- The write would change a locked field. -/
def Chip.barsAt (c : Chip) (a : Nat) (v : Word) : Prop := c.locked = true ∧ (c.rn a ^^^ v.toNat) &&& Machine.lkMask a ≠ 0

theorem LockedFields.fieldWrite_of_barsAt (h : LockedFields a r) (i : Init) (hb : c.barsAt a v) :
    c.fieldWrite i a r v.toNat = (c.setN a (masked (c.rn a) v.toNat (r.rw ||| r.rwh ||| r.cnt))).dropWrite a v.toNat i 2 :=
  Chip.fieldWrite_of_barred i h.wo ((Chip.lkBars_iff (.inl h.below)).2 (by rw [Chip.barsAt, h.lkMask] at hb; exact hb))

theorem LockedFields.fieldWrite_of_not_barsAt (h : LockedFields a r) (i : Init) (hb : ¬c.barsAt a v) :
    c.fieldWrite i a r v.toNat = c.setN a (masked (c.rn a) v.toNat (r.rw ||| r.rwh ||| r.cnt ||| r.lk)) := by
  rw [Chip.barsAt, h.lkMask, ← Chip.lkBars_iff (.inl h.below), Bool.not_eq_true] at hb
  rw [Chip.fieldWrite_of_open i h.wo hb, Chip.lkOf_of_apart (.inl h.below)]

theorem R.GLB_DROP_CNT_ne_of_lg (h : 0x40000 ≤ a) : R.GLB_DROP_CNT ≠ a := by rw [R.GLB_DROP_CNT]; omega

/-- What a barred write leaves: the fields that no lock holds have taken it, the others stay, and the drop is counted. -/
theorem LockedFields.of_barsAt (h : LockedFields a r) (hlo : 0x40000 ≤ a) (i : Init) (hb : c.barsAt a v) :
    (c.fieldWrite i a r v.toNat).rn a = masked (c.rn a) v.toNat (r.rw ||| r.rwh ||| r.cnt) ∧ (c.fieldWrite i a r v.toNat).dropped = true ∧
      (c.fieldWrite i a r v.toNat).reg R.GLB_DROP_CNT = c.reg R.GLB_DROP_CNT + 1 := by
  have hev : a ∉ eventRegs (offenceEvent 2) := not_mem_eventRegs_of_lt (h.below.trans (by decide)) _
  have hcnt := R.GLB_DROP_CNT_ne_of_lg hlo
  rw [h.fieldWrite_of_barsAt i hb]
  refine ⟨?_, rfl, ?_⟩
  · rw [Chip.rn_congr (Chip.reg_dropWrite_ne _ _ _ _ _ hev hcnt.symm), Chip.rn_setN_masked]
  · rw [Chip.dropWrite_dropCnt, Chip.reg_setN_ne _ _ hcnt]

theorem LockedFields.of_not_barsAt (h : LockedFields a r) (i : Init) (hb : ¬c.barsAt a v) :
    (c.fieldWrite i a r v.toNat).rn a = masked (c.rn a) v.toNat (r.rw ||| r.rwh ||| r.cnt ||| r.lk) ∧
      (c.fieldWrite i a r v.toNat).dropped = c.dropped ∧ ∀ b, b ≠ a → (c.fieldWrite i a r v.toNat).reg b = c.reg b := by
  rw [h.fieldWrite_of_not_barsAt i hb]
  exact ⟨Chip.rn_setN_masked _ _ _ _, rfl, fun b hne => Chip.reg_setN_ne _ _ hne⟩

theorem Chip.EventsOnly.fieldWrite (h : LockedFields a r) (c : Chip) (i : Init) (v : Word) : ∃ b, c.EventsOnly b ∧
    c.fieldWrite i a r v.toNat = { b with dropped := (c.fieldWrite i a r v.toNat).dropped } := by
  by_cases hb : c.barsAt a v
  · rw [h.fieldWrite_of_barsAt i hb]
    exact ⟨_, ((Chip.EventsOnly.setN c _ _).trans (.addCnt _ _ _)).trans (.offence _ _ _ _ _ _), rfl⟩
  · rw [h.fieldWrite_of_not_barsAt i hb]
    exact ⟨_, .setN c _ _, rfl⟩

end

/-! ### Analogue settings -/

theorem LockedFields.of_lgCfg {g : Nat} (hg : g < 8) : LockedFields (R.LG_CFG g) rowLgCfg :=
  ⟨.of_lgCfg hg, rfl, by rw [R.LG_CFG]; omega⟩

theorem LockedFields.of_lgChCfg {g k : Nat} (hg : g < 8) (hk : k < 32) : LockedFields (R.LG_CH_CFG g k) rowLgChCfg :=
  ⟨.of_lgChCfg hg hk, rfl, by rw [R.LG_CH_CFG]; omega⟩

theorem LockedFields.of_trsTrigCfg {n : Nat} (hn : n < 32) : LockedFields (R.TRS_TRIG_CFG n) rowTrsTrigCfg :=
  ⟨.of_trsTrigCfg hn, rfl, by rw [R.TRS_TRIG_CFG]; omega⟩

/-- The registers that hold an analogue setting, with the mask of its bits. -/
inductive AnalogReg : Nat → RegRow → Prop
  | channel {g k : Nat} (hg : g < 8) (hk : k < 32) : AnalogReg (R.LG_CH_CFG g k) rowLgChCfg
  | trigger {n : Nat} (hn : n < 32) : AnalogReg (R.TRS_TRIG_CFG n) rowTrsTrigCfg

theorem AnalogReg.locked {a : Nat} {r : RegRow} (h : AnalogReg a r) : LockedFields a r := by
  cases h with
  | channel hg hk => exact .of_lgChCfg hg hk
  | trigger hn => exact .of_trsTrigCfg hn

theorem AnalogReg.low {a : Nat} {r : RegRow} (h : AnalogReg a r) : 0x40000 ≤ a ∧ a % 4 = 0 := by
  cases h with
  | channel hg hk => rw [R.LG_CH_CFG]; omega
  | trigger hn => rw [R.TRS_TRIG_CFG]; omega

theorem AnalogReg.apart {a : Nat} {r : RegRow} (h : AnalogReg a r) : (r.rw ||| r.rwh ||| r.cnt) &&& r.lk = 0 := by
  cases h <;> decide

theorem AnalogReg.settings {a : Nat} {r : RegRow} (h : AnalogReg a r) {x v m : Nat} (hm : m = 0 ∨ m = r.lk) :
    let y := masked x v (r.rw ||| r.rwh ||| r.cnt ||| m)
    (∀ g k, g < 8 → k < 32 → a = R.LG_CH_CFG g k → bits y 24 1 = bits v 24 1 ∧ bits y 16 8 = bits v 16 8) ∧
      (∀ n, n < 32 → a = R.TRS_TRIG_CFG n → bits y 4 1 = bits v 4 1) := by
  have hbits : ∀ (lo w : Nat), (∀ i, lo ≤ i → i < lo + w → r.rw.testBit i = true) →
      bits (masked x v (r.rw ||| r.rwh ||| r.cnt ||| m)) lo w = bits v lo w := fun lo w hrw =>
    bits_masked fun i hlo hhi => by simp [Nat.testBit_or, hrw i hlo hhi]
  cases h with
  | channel hg hk =>
    have htrim : ∀ i, 16 ≤ i → i < 16 + 9 → rowLgChCfg.rw.testBit i = true := fun i hlo hhi => by interval_cases i <;> rfl
    refine ⟨fun _ _ _ _ _ => ⟨hbits 24 1 fun i hlo hhi => htrim i (by omega) (by omega), hbits 16 8 fun i hlo hhi => htrim i hlo (by omega)⟩,
      fun n hn ha => ?_⟩
    rw [R.LG_CH_CFG, R.TRS_TRIG_CFG] at ha
    omega
  | trigger hn =>
    refine ⟨fun g k hg hk ha => ?_, fun _ _ _ => hbits 4 1 fun i hlo hhi => ?_⟩
    · rw [R.LG_CH_CFG, R.TRS_TRIG_CFG] at ha
      omega
    · obtain rfl : i = 4 := by omega
      rfl

theorem decide_bits_one_ne_zero {x y lo : Nat} (h : bits x lo 1 = bits y lo 1) : decide (bits x lo 1 ≠ 0) = bit y lo := by
  have := bits_lt y lo 1
  rw [h, bit_eq_bits]
  congr 1
  exact propext (by omega)

theorem masked_zero (x v : Nat) : masked x v 0 = x := by simp [masked]

theorem completes_analogSettingWrite {s : State} {i : Init} {a : Nat} {r : RegRow} (h : s.chip.atWork = true) (hi : i ≠ .sched)
    (ha : AnalogReg a r) (v : Word) :
    Completes (.analogSettingWrite i a v) s (fun c => c.wcopy = s.chip.wcopy ∧ s.chip.keepsMem c ∧
      (∀ g k, g < 8 → k < 32 → a = R.LG_CH_CFG g k → c.flag a F.LG_CH_CFG_TERM = bit v.toNat 24 ∧ c.fld a F.LG_CH_CFG_TRIM = bits v.toNat 16 8) ∧
      (∀ n, n < 32 → a = R.TRS_TRIG_CFG n → c.flag a F.TRS_TRIG_CFG_TERM = bit v.toNat 4) ∧
      (¬s.chip.barsAt a v → c.dropped = false ∧ c.rn a &&& lkMask a = v.toNat &&& lkMask a ∧ (∀ b, b ≠ a → c.reg b = s.chip.reg b)) ∧
      (s.chip.barsAt a v → c.dropped = true ∧ c.rn a &&& lkMask a = s.chip.rn a &&& lkMask a ∧
        c.reg R.GLB_DROP_CNT = s.chip.reg R.GLB_DROP_CNT + 1)) := by
  obtain ⟨hlo, h4⟩ := ha.low
  have hlocked := ha.locked
  have hlt : a < 16777216 := hlocked.low.trans (by decide)
  have hwf : (Instr.analogSettingWrite i a v).wf = true := by simp [Instr.wf, regInit, regWf, addrWf, hi, h4, hlt]
  have hexec := State.act_of_atWork (i := .analogSettingWrite i a v) h hwf (fun c => c.busWrite i a v)
  rw [hlocked.busWrite h] at hexec
  obtain ⟨d, hd, hkeep⟩ := Chip.EventsOnly.fieldWrite hlocked s.chip.writing i v
  have hbars := fun hb => hlocked.of_barsAt (c := s.chip.writing) (v := v) hlo i hb
  have hopen := fun hb => hlocked.of_not_barsAt (c := s.chip.writing) (v := v) i hb
  generalize s.chip.writing.fieldWrite i a r v.toNat = e at *
  have hvalue : ∃ m, (m = 0 ∨ m = r.lk) ∧ e.rn a = masked (s.chip.rn a) v.toNat (r.rw ||| r.rwh ||| r.cnt ||| m) := by
    by_cases hb : s.chip.writing.barsAt a v
    · exact ⟨0, .inl rfl, (hbars hb).1.trans (by rw [Nat.or_zero]; rfl)⟩
    · exact ⟨r.lk, .inr rfl, (hopen hb).1⟩
  obtain ⟨m, hm, hrn⟩ := hvalue
  obtain ⟨hchannel, htrigger⟩ := ha.settings (x := s.chip.rn a) (v := v.toNat) hm
  refine .of_exec hexec (by rw [hkeep]; exact hd.fatal.trans (Chip.fatal_of_atWork (c := s.chip) h))
    (by rw [hkeep]; exact hd.resetReq.trans (Chip.resetReq_of_atWork (c := s.chip) h))
    ⟨by rw [hkeep]; exact hd.wcopy, by rw [hkeep]; exact Chip.keepsMem_of_eq hd.cst hd.mc, fun g k hg hk hreg => ?_, fun n hn hreg => ?_,
      fun hb => ?_, fun hb => ?_⟩
  · obtain ⟨hterm, htrim⟩ := hchannel g k hg hk hreg
    exact ⟨by rw [Chip.flag, Chip.fld, hrn]; exact decide_bits_one_ne_zero hterm, by rw [Chip.fld, hrn]; exact htrim⟩
  · rw [Chip.flag, Chip.fld, hrn]
    exact decide_bits_one_ne_zero (htrigger n hn hreg)
  · obtain ⟨hrn', hdropped, hothers⟩ := hopen hb
    refine ⟨hdropped, ?_, hothers⟩
    rw [hrn', hlocked.lkMask]
    exact masked_and_of_subset fun j hj => by simp [Nat.testBit_or, hj]
  · obtain ⟨hrn', hdropped, hcnt⟩ := hbars hb
    refine ⟨hdropped, ?_, hcnt⟩
    rw [hrn', hlocked.lkMask]
    exact masked_and_of_apart ha.apart

/-- Settles O17: a plain register and an analogue setting take the written bits under their masks; a lock bars LK fields alone. -/
theorem plainRegisterWrite : Obligations.PlainRegisterWrite := by
  refine ⟨fun s i a v r h hi ha hplain => completes_registerWrite_plain h hi ha hplain v, fun s i a v h hi ha => ?_⟩
  rcases ha with ⟨g, k, hg, hk, rfl⟩ | ⟨n, hn, rfl⟩
  · exact completes_analogSettingWrite h hi (.channel hg hk) v
  · exact completes_analogSettingWrite h hi (.trigger hn) v

/-! ### The lock on a lane group's configuration -/

theorem exec_lgCfgWrite {s : State} (h : s.chip.atWork = true) {i : Init} (hi : i ≠ .sched) {g : Nat} (hg : g < 8) (v : Word) :
    exec (.registerWrite i (R.LG_CFG g) v) s = .next (s.after (s.chip.writing.fieldWrite i (R.LG_CFG g) rowLgCfg v.toNat)) := by
  have haddr : R.LG_CFG g < 16777216 ∧ R.LG_CFG g % 4 = 0 := by rw [R.LG_CFG]; omega
  rw [exec_registerWrite_of_atWork h hi haddr.1 haddr.2, (FieldsOnly.of_lgCfg hg).busWrite h]

theorem completes_lgCfgWrite {s : State} (h : s.chip.atWork = true) {i : Init} (hi : i ≠ .sched) {g : Nat} (hg : g < 8) (v : Word)
    {P : Chip → Prop} (hP : P (s.chip.writing.fieldWrite i (R.LG_CFG g) rowLgCfg v.toNat)) :
    Completes (.registerWrite i (R.LG_CFG g) v) s P := by
  obtain ⟨d, hd, hkeep⟩ := Chip.EventsOnly.fieldWrite (.of_lgCfg hg) s.chip.writing i v
  refine .of_exec (exec_lgCfgWrite h hi hg v) ?_ ?_ hP
  · rw [hkeep]; exact hd.fatal.trans (Chip.fatal_of_atWork (c := s.chip) h)
  · rw [hkeep]; exact hd.resetReq.trans (Chip.resetReq_of_atWork (c := s.chip) h)

theorem completes_lgCfgWrite_locked {s : State} (h : s.chip.atWork = true) {i : Init} (hi : i ≠ .sched) {g : Nat} (hg : g < 8) (v : Word)
    (hb : s.chip.barsAt (R.LG_CFG g) v) :
    Completes (.registerWrite i (R.LG_CFG g) v) s (fun c => c.reg (R.LG_CFG g) = s.chip.reg (R.LG_CFG g) ∧ c.dropped = true ∧
      c.reg R.GLB_DROP_CNT = s.chip.reg R.GLB_DROP_CNT + 1) := by
  have hlo : 0x40000 ≤ R.LG_CFG g := by rw [R.LG_CFG]; omega
  obtain ⟨hrn, hdropped, hcnt⟩ := (LockedFields.of_lgCfg hg).of_barsAt (c := s.chip.writing) hlo i hb
  exact completes_lgCfgWrite h hi hg v ⟨BitVec.eq_of_toNat_eq (hrn.trans (masked_zero _ _)), hdropped, hcnt⟩

theorem completes_lgCfgWrite_open {s : State} (h : s.chip.atWork = true) {i : Init} (hi : i ≠ .sched) {g : Nat} (hg : g < 8) (v : Word)
    (hopen : s.chip.locked = false) :
    Completes (.registerWrite i (R.LG_CFG g) v) s (fun c => c.rn (R.LG_CFG g) &&& lkMask (R.LG_CFG g) = v.toNat &&& lkMask (R.LG_CFG g) ∧
      c.dropped = false ∧ c.reg R.GLB_DROP_CNT = s.chip.reg R.GLB_DROP_CNT) := by
  have hlocked := LockedFields.of_lgCfg hg
  have hne : R.GLB_DROP_CNT ≠ R.LG_CFG g := R.GLB_DROP_CNT_ne_of_lg (by rw [R.LG_CFG]; omega)
  have hb : ¬s.chip.writing.barsAt (R.LG_CFG g) v := fun hb => Bool.false_ne_true (hopen.symm.trans hb.1)
  obtain ⟨hrn, hdropped, hothers⟩ := hlocked.of_not_barsAt i hb
  refine completes_lgCfgWrite h hi hg v ⟨?_, hdropped, hothers _ hne⟩
  rw [hrn, hlocked.lkMask]
  exact masked_and_of_subset fun j hj => by simp [Nat.testBit_or, hj]

/-! ### A write-once register -/

def rowBankFailL : RegRow :=
  { name := "CST_BANK_FAIL_L", off := 0x10, stride := 0x0, count := 1, stride2 := 0, count2 := 1, reset := 0x0, wo := 0xffffffff }

theorem FieldsOnly.of_bankFailL : FieldsOnly R.CST_BANK_FAIL_L rowBankFailL :=
  ⟨by decide, by decide, rfl, rfl, rfl, by decide, by decide, by decide, by decide, by decide, by decide⟩

/-- The engine with the register remembered as written. -/
def Chip.wroteOnce (c : Chip) (a : Nat) : Chip := { c with acc := { c.acc with woDone := a :: c.acc.woDone } }

theorem Chip.lkBars_bankFailL (c : Chip) (v : Nat) : c.lkBars R.CST_BANK_FAIL_L rowBankFailL v = false := by
  rw [Chip.lkBars, Chip.lkOf_of_apart (.inr (by decide))]
  simp [rowBankFailL]

theorem Chip.fieldWrite_bankFailL_first (c : Chip) (i : Init) (v : Word) (h : c.acc.woDone.contains R.CST_BANK_FAIL_L = false) :
    c.fieldWrite i R.CST_BANK_FAIL_L rowBankFailL v.toNat =
      (c.setN R.CST_BANK_FAIL_L (masked (c.rn R.CST_BANK_FAIL_L) v.toNat 0xffffffff)).wroteOnce R.CST_BANK_FAIL_L := by
  have hlk : c.lkOf R.CST_BANK_FAIL_L rowBankFailL = 0 := Chip.lkOf_of_apart (.inr (by decide)) c rowBankFailL
  rw [Chip.fieldWrite, c.lkBars_bankFailL, h, hlk]
  rfl

theorem Chip.fieldWrite_bankFailL_again (c : Chip) (i : Init) (v : Word) (h : c.acc.woDone.contains R.CST_BANK_FAIL_L = true) :
    c.fieldWrite i R.CST_BANK_FAIL_L rowBankFailL v.toNat =
      (c.setN R.CST_BANK_FAIL_L (masked (c.rn R.CST_BANK_FAIL_L) v.toNat 0)).dropWrite R.CST_BANK_FAIL_L v.toNat i 1 := by
  have hlk : c.lkOf R.CST_BANK_FAIL_L rowBankFailL = 0 := Chip.lkOf_of_apart (.inr (by decide)) c rowBankFailL
  rw [Chip.fieldWrite, c.lkBars_bankFailL, h, hlk]
  rfl

theorem Chip.reg_setN_masked_all (c : Chip) (a : Nat) (v : Word) : (c.setN a (masked (c.rn a) v.toNat 0xffffffff)).reg a = v := by
  have hall : masked (c.rn a) v.toNat 0xffffffff = v.toNat := Nat.eq_of_testBit_eq fun j => by
    rw [testBit_masked, show 0xffffffff = 2 ^ 32 - 1 from rfl, Nat.testBit_two_pow_sub_one]
    by_cases hj : j < 32
    · rw [if_pos (decide_eq_true hj)]
    · have hpow := Nat.pow_le_pow_right (n := 2) (by decide) (Nat.le_of_not_lt hj)
      rw [if_neg (by simpa using hj), Chip.rn, Nat.testBit_lt_two_pow ((BitVec.isLt (c.reg a)).trans_le hpow), Nat.testBit_lt_two_pow (v.isLt.trans_le hpow)]
  exact BitVec.eq_of_toNat_eq ((c.rn_setN_masked a 0xffffffff v).trans hall)

theorem completes_woWrite_bankFailL {s : State} (h : s.chip.atWork = true) {i : Init} (hi : i ≠ .sched) (v : Word) :
    (s.chip.acc.woDone.contains R.CST_BANK_FAIL_L = false →
      Completes (.woWrite i R.CST_BANK_FAIL_L v) s (fun c => c.reg R.CST_BANK_FAIL_L = v ∧ c.dropped = false ∧
        c.acc.woDone.contains R.CST_BANK_FAIL_L = true)) ∧
    (s.chip.acc.woDone.contains R.CST_BANK_FAIL_L = true →
      Completes (.woWrite i R.CST_BANK_FAIL_L v) s (fun c => c.reg R.CST_BANK_FAIL_L = s.chip.reg R.CST_BANK_FAIL_L ∧ c.dropped = true ∧
        c.reg R.GLB_DROP_CNT = s.chip.reg R.GLB_DROP_CNT + 1)) := by
  have hwf : (Instr.woWrite i R.CST_BANK_FAIL_L v).wf = true := by
    simp only [Instr.wf, regInit, regWf, addrWf, Bool.and_eq_true, decide_eq_true_eq]
    exact ⟨hi, by decide, by decide⟩
  have hexec := State.act_of_atWork (i := .woWrite i R.CST_BANK_FAIL_L v) h hwf (fun c => c.busWrite i R.CST_BANK_FAIL_L v)
  rw [FieldsOnly.of_bankFailL.busWrite h] at hexec
  have hfatal := Chip.fatal_of_atWork (c := s.chip) h
  have hreset := Chip.resetReq_of_atWork (c := s.chip) h
  refine ⟨fun hfirst => ?_, fun hagain => ?_⟩
  · rw [Chip.fieldWrite_bankFailL_first s.chip.writing i v hfirst] at hexec
    refine .of_exec hexec hfatal hreset ⟨Chip.reg_setN_masked_all s.chip.writing R.CST_BANK_FAIL_L v, rfl, ?_⟩
    rw [Chip.wroteOnce, List.contains_cons, beq_self_eq_true, Bool.true_or]
  · rw [Chip.fieldWrite_bankFailL_again s.chip.writing i v hagain] at hexec
    refine .of_exec hexec ((Chip.dropWrite_fatal _ _ _ _ _).trans hfatal) ((Chip.dropWrite_resetReq _ _ _ _ _).trans hreset) ⟨?_, rfl, ?_⟩
    · rw [Chip.reg_dropWrite_ne _ _ _ _ _ (not_mem_eventRegs_of_lt (by decide) _) (by decide)]
      exact BitVec.eq_of_toNat_eq ((Chip.rn_setN_masked s.chip.writing R.CST_BANK_FAIL_L 0 v).trans (masked_zero _ _))
    · rw [Chip.dropWrite_dropCnt, Chip.reg_setN_ne _ _ (by decide)]
      rfl

/-- Settles O18: the lock bars what would change an LK field and nothing before it is set; a write-once register takes one write. -/
theorem lockedAndOnce : Obligations.LockedAndOnce :=
  ⟨fun _ _ _ v h hi hg => ⟨fun hlocked hchange => completes_lgCfgWrite_locked h hi hg v ⟨hlocked, hchange⟩, completes_lgCfgWrite_open h hi hg v⟩,
   fun _ _ v h hi => completes_woWrite_bankFailL h hi v⟩

end Sys2Proof.Machine
end

section
/-! Places that span registers: triples, value pairs, and guarded pairs (R8, R109, R350 to R352). -/

namespace Sys2Proof.Machine

/-! ### Reads of a triple -/

theorem latchKey_ne {i : Init} {a b : Nat} (h : a ≠ b) : latchKey i a ≠ latchKey i b := by
  rw [latchKey, latchKey]; omega

/-- A read outside the Scrivener's window and the status registers. -/
theorem Chip.busRead_of_plain {c : Chip} (hc : c.atWork = true) (i : Init) {a : Nat} (ha : a < 0x580000) :
    c.busRead i a = { c.capture i a with rdata := c.busShow i a } := by
  have hlow : a < 0x800000 := ha.trans (by decide)
  have hreach : (!c.mayRead i a || decide (0x800000 ≤ a)) = false := by
    rw [Chip.mayRead_of_atWork hc, decide_eq_false (Nat.not_le.2 hlow)]; rfl
  have hwin : a ≠ R.SCV_WIN_DATA_L ∧ a ≠ R.SCV_WIN_DATA_H := by rw [R.SCV_WIN_DATA_L, R.SCV_WIN_DATA_H]; omega
  have hstat : ¬(R.EVT_STAT 0 ≤ a ∧ a ≤ R.EVT_STAT 63 ∧ a % 4 = 0) := by simp only [R.EVT_STAT]; omega
  rw [Chip.busRead, hreach, if_neg Bool.false_ne_true, if_neg hwin.1, if_neg hwin.2, if_neg hstat]

theorem captureCount_oldest {p : Nat} (hp : p < 16) : captureCount (R.PRT_OLDEST_L p) = 2 := by
  have hall : ∀ p < 16, captureCount (R.PRT_OLDEST_L p) = 2 := by decide
  exact hall p hp

/-- The second and third register of a triple capture nothing. -/
theorem captureCount_oldest_upper {p k : Nat} (hp : p < 16) (hk : k = 1 ∨ k = 2) : captureCount (R.PRT_OLDEST_L p + 4 * k) = 0 := by
  have hall : ∀ p < 16, captureCount (R.PRT_OLDEST_L p + 4 * 1) = 0 ∧ captureCount (R.PRT_OLDEST_L p + 4 * 2) = 0 := by decide
  rcases hk with rfl | rfl
  · exact (hall p hp).1
  · exact (hall p hp).2

theorem exec_stampTripleRead {s : State} (h : s.chip.atWork = true) {i : Init} (hi : i ≠ .sched) {a : Nat} (ha : a < 0x580000) (h4 : a % 4 = 0) :
    exec (.stampTripleRead i a) s = .next (s.after { s.chip.capture i a with rdata := s.chip.busShow i a }) := by
  have hlt : a < 16777216 := ha.trans (by decide)
  have hwf : (Instr.stampTripleRead i a).wf = true := by simp [Instr.wf, regInit, regWf, addrWf, hi, h4, hlt]
  rw [← Chip.busRead_of_plain h i ha]
  exact State.act_of_atWork (i := .stampTripleRead i a) h hwf (fun c => c.busRead i a)

theorem Chip.capture_two {c : Chip} {i : Init} {a : Nat} (h : captureCount a = 2) : (c.capture i a).acc.captured =
    SMap.put (SMap.put c.acc.captured (latchKey i (a + 4)) (c.view i (a + 4))) (latchKey i (a + 8)) (c.view i (a + 8)) := by
  rw [Chip.capture, h]
  rfl

theorem completes_oldestRead {s : State} (h : s.chip.atWork = true) {i : Init} (hi : i ≠ .sched) {p : Nat} (hp : p < 16)
    (hnew : ∀ e ∈ s.chip.acc.captured, e.1 ≠ latchKey i (R.PRT_OLDEST_L p)) :
    Completes (.stampTripleRead i (R.PRT_OLDEST_L p)) s (fun c => c.rdata = s.chip.view i (R.PRT_OLDEST_L p) ∧ c.regs = s.chip.regs ∧
      (∀ d, SMap.get d c.acc.captured (latchKey i (R.PRT_OLDEST_L p + 4)) = s.chip.view i (R.PRT_OLDEST_L p + 4)) ∧
      (∀ d, SMap.get d c.acc.captured (latchKey i (R.PRT_OLDEST_L p + 8)) = s.chip.view i (R.PRT_OLDEST_L p + 8))) := by
  have haddr : R.PRT_OLDEST_L p < 0x580000 ∧ R.PRT_OLDEST_L p % 4 = 0 := by rw [R.PRT_OLDEST_L]; omega
  have hkey : latchKey i (R.PRT_OLDEST_L p + 4) ≠ latchKey i (R.PRT_OLDEST_L p + 8) := latchKey_ne (by omega)
  have hcaptured := Chip.capture_two (c := s.chip) (i := i) (captureCount_oldest hp)
  refine .of_exec (exec_stampTripleRead h hi haddr.1 haddr.2) (Chip.fatal_of_atWork (c := s.chip) h) (Chip.resetReq_of_atWork (c := s.chip) h)
    ⟨SMap.get_of_forall_ne _ hnew, rfl, fun d => ?_, fun d => ?_⟩
  · refine (congrArg (SMap.get d · _) hcaptured).trans ?_
    rw [SMap.get_put_ne _ _ _ hkey, SMap.get_put_same]
  · exact (congrArg (SMap.get d · _) hcaptured).trans (SMap.get_put_same _ _ _ _)

theorem completes_oldestRead_upper {s : State} (h : s.chip.atWork = true) {i : Init} (hi : i ≠ .sched) {p k : Nat} {m : Word} (hp : p < 16)
    (hk : k = 1 ∨ k = 2) (hm : ∀ d, SMap.get d s.chip.acc.captured (latchKey i (R.PRT_OLDEST_L p + 4 * k)) = m) :
    Completes (.stampTripleRead i (R.PRT_OLDEST_L p + 4 * k)) s (fun c => c.rdata = m ∧ c.regs = s.chip.regs) := by
  have haddr : R.PRT_OLDEST_L p + 4 * k < 0x580000 ∧ (R.PRT_OLDEST_L p + 4 * k) % 4 = 0 := by rw [R.PRT_OLDEST_L]; omega
  exact .of_exec (exec_stampTripleRead h hi haddr.1 haddr.2) (Chip.fatal_of_atWork (c := s.chip) h) (Chip.resetReq_of_atWork (c := s.chip) h)
    ⟨hm _, rfl⟩

/-! ### Registers of a span that software writes -/

/-- A write at work to an unguarded register below the mirror, with no command in its row, acts on its fields alone. -/
theorem Chip.busWrite_of_row {c : Chip} (hc : c.atWork = true) (i : Init) {a : Nat} {r : RegRow} (hrow : regRow a = some r) (ha : a < 0x800000)
    (hgd : r.gd = 0) (hcmd : r.cmd = 0) (v : Word) : c.busWrite i a v = c.writing.applyFields i a v := by
  have hguard : isGuarded a = false := by simp only [isGuarded, hrow, hgd]; rfl
  rw [Chip.busWrite_of_atWork hc i v ha hguard]
  simp only [Chip.applyCmds, hrow, hcmd, Nat.and_zero, Chip.issue, if_true]

/-- What the last register of a triple that software writes does. -/
theorem Chip.applyFields_tripleHigh {c : Chip} {i : Init} {a b : Nat} {r : RegRow} (hrow : regRow a = some r) (hsqc : r.sqc = 0)
    (hspan : spanOf writeTriples 3 a = some (b, 2)) (v : Word) : c.applyFields i a v = c.tripleWrite i b r v.toNat := by
  simp only [Chip.applyFields, hrow, hspan, if_neg (not_not.2 hsqc), if_true]

/-- Registers of a value pair, `k` counting from `_L`. -/
theorem Chip.applyFields_value {c : Chip} {i : Init} {a b k : Nat} {r : RegRow} (hrow : regRow a = some r) (hsqc : r.sqc = 0)
    (htriple : spanOf writeTriples 3 a = none) (hspan : spanOf valuePairs 2 a = some (b, k)) (v : Word) :
    c.applyFields i a v = if k = 1 then c.valueWrite i b v.toNat else c.keepWritten i a v := by
  simp only [Chip.applyFields, hrow, hspan, htriple, if_neg (not_not.2 hsqc)]

theorem Chip.lastWritten_of_forall {c : Chip} {i : Init} {a : Nat} {w : Word} (h : ∀ d, SMap.get d c.acc.written (latchKey i a) = w) (k : Nat) :
    c.lastWritten i a k = w.toNat := by rw [Chip.lastWritten, h]

def rowHoldStartH : RegRow :=
  { name := "PRTp_HOLD_START_H", off := 0x818, stride := 0x1000, count := 16, stride2 := 0, count2 := 1, reset := 0x0, rw := 0xffff }

theorem rows_holdStart {p : Nat} (hp : p < 16) : ∃ r, regRow (R.PRT_HOLD_START_L p + 8) = some r ∧ r.sqc = 0 ∧ r.gd = 0 ∧ r.cmd = 0 ∧
    spanOf writeTriples 3 (R.PRT_HOLD_START_L p + 8) = some (R.PRT_HOLD_START_L p, 2) := by
  have hall : ∀ p < 16, rowsPrt.find? (fun r => r.hit (0x818 + 0x1000 * p)) = some rowHoldStartH ∧
      spanOf writeTriples 3 (R.PRT_HOLD_START_L p + 8) = some (R.PRT_HOLD_START_L p, 2) := by decide
  obtain ⟨hfind, hspan⟩ := hall p hp
  refine ⟨rowHoldStartH, ?_, rfl, rfl, rfl, hspan⟩
  rw [regRow_of_block (n := 0x30) (o := 0x818 + 0x1000 * p) (by rw [R.PRT_HOLD_START_L]; omega) (by omega) rfl, hfind]

theorem Chip.triple_setTriple (c : Chip) (a x y z : Nat) (hx : x < 2 ^ 32) (hy : y < 2 ^ 32) :
    (c.setTriple a (x + 2 ^ 32 * y + 2 ^ 64 * (z % 65536))).triple a = x + 2 ^ 32 * y + 2 ^ 64 * (z % 65536) := by
  have hlow : (c.setTriple a (x + 2 ^ 32 * y + 2 ^ 64 * (z % 65536))).rn a = x := by
    rw [Chip.setTriple, Chip.rn_setN_ne _ _ (by omega), Chip.rn_setN_ne _ _ (by omega), Chip.rn_setN]; omega
  have hmid : (c.setTriple a (x + 2 ^ 32 * y + 2 ^ 64 * (z % 65536))).rn (a + 4) = y := by
    rw [Chip.setTriple, Chip.rn_setN_ne _ _ (by omega), Chip.rn_setN]; omega
  have hhigh : (c.setTriple a (x + 2 ^ 32 * y + 2 ^ 64 * (z % 65536))).rn (a + 8) = z % 65536 := by
    rw [Chip.setTriple, Chip.rn_setN]; omega
  rw [Chip.triple, hlow, hmid, hhigh]
  omega

theorem Chip.tripleWrite_of_unlocked {c : Chip} (h : c.locked = false) (i : Init) (b : Nat) (r : RegRow) (v : Nat) {lo mi : Word}
    (hlo : ∀ d, SMap.get d c.acc.written (latchKey i b) = lo) (hmi : ∀ d, SMap.get d c.acc.written (latchKey i (b + 4)) = mi) :
    c.tripleWrite i b r v = c.used.used.setTriple b (lo.toNat + 2 ^ 32 * mi.toNat + 2 ^ 64 * (v % 65536)) := by
  rw [Chip.tripleWrite, Chip.lastWritten_of_forall hlo, Chip.lastWritten_of_forall hmi, h]
  exact if_neg fun hc => Bool.false_ne_true hc.1

theorem completes_holdStartWrite {s : State} (h : s.chip.atWork = true) {i : Init} (hi : i ≠ .sched) {p : Nat} {lo mi : Word} (hi16 : Word)
    (hp : p < 16) (hopen : s.chip.locked = false) (hlo : ∀ d, SMap.get d s.chip.acc.written (latchKey i (R.PRT_HOLD_START_L p)) = lo)
    (hmi : ∀ d, SMap.get d s.chip.acc.written (latchKey i (R.PRT_HOLD_START_L p + 4)) = mi) :
    Completes (.stampTripleWrite i (R.PRT_HOLD_START_L p + 8) hi16) s (fun c =>
      c.triple (R.PRT_HOLD_START_L p) = lo.toNat + 2 ^ 32 * mi.toNat + 2 ^ 64 * (hi16.toNat % 65536) ∧
      s.chip.keepsRegs c [R.PRT_HOLD_START_L p, R.PRT_HOLD_START_L p + 4, R.PRT_HOLD_START_L p + 8]) := by
  obtain ⟨r, hrow, hsqc, hgd, hcmd, hspan⟩ := rows_holdStart hp
  have haddr : R.PRT_HOLD_START_L p + 8 < 0x800000 ∧ (R.PRT_HOLD_START_L p + 8) % 4 = 0 := by rw [R.PRT_HOLD_START_L]; omega
  have hlt : R.PRT_HOLD_START_L p + 8 < 16777216 := haddr.1.trans (by decide)
  have hwf : (Instr.stampTripleWrite i (R.PRT_HOLD_START_L p + 8) hi16).wf = true := by
    simp [Instr.wf, regInit, regWf, addrWf, hi, haddr.2, hlt]
  have hexec := State.act_of_atWork (i := .stampTripleWrite i (R.PRT_HOLD_START_L p + 8) hi16) h hwf
    (fun c => c.busWrite i (R.PRT_HOLD_START_L p + 8) hi16)
  rw [Chip.busWrite_of_row h i hrow haddr.1 hgd hcmd, Chip.applyFields_tripleHigh hrow hsqc hspan,
    Chip.tripleWrite_of_unlocked (c := s.chip.writing) hopen i _ r _ hlo hmi] at hexec
  refine .of_exec hexec (Chip.fatal_of_atWork (c := s.chip) h) (Chip.resetReq_of_atWork (c := s.chip) h)
    ⟨Chip.triple_setTriple s.chip.writing.used.used _ _ _ _ lo.isLt mi.isLt, fun a ha => ?_⟩
  simp only [List.mem_cons, List.not_mem_nil, or_false, not_or] at ha
  obtain ⟨hl, hm, hh⟩ := ha
  rw [Chip.setTriple, Chip.reg_setN_ne _ _ hh, Chip.reg_setN_ne _ _ hm, Chip.reg_setN_ne _ _ hl]
  rfl

/-- Settles O19: `_L` captures its triple for the initiator, and `_H` puts what the initiator has written before. -/
theorem stampTriples : Obligations.StampTriples :=
  ⟨fun _ _ _ h hi hp hnew => completes_oldestRead h hi hp hnew, fun _ _ _ _ _ h hi hp hk hm => completes_oldestRead_upper h hi hp hk hm,
   fun _ _ _ _ _ hi16 h hi hp hopen hlo hmi => completes_holdStartWrite h hi hi16 hp hopen hlo hmi⟩

/-! ### Values of counters -/

def rowCtValL : RegRow :=
  { name := "TRS_CTn_VAL_L", off := 0x2014, stride := 0x20, count := 32, stride2 := 0, count2 := 1, reset := 0x0, cnt := 0xffffffff }

def rowCtValH : RegRow :=
  { name := "TRS_CTn_VAL_H", off := 0x2018, stride := 0x20, count := 32, stride2 := 0, count2 := 1, reset := 0x0, cnt := 0xffff }

theorem rows_ctVal {n : Nat} (hn : n < 32) :
    (∃ r, regRow (R.TRS_CT_VAL_L n) = some r ∧ r.sqc = 0 ∧ r.gd = 0 ∧ r.cmd = 0) ∧
      (∃ r, regRow (R.TRS_CT_VAL_L n + 4) = some r ∧ r.sqc = 0 ∧ r.gd = 0 ∧ r.cmd = 0) := by
  have hlow : ∀ n < 32, rowsTrs.find? (fun r => r.hit (0x2014 + 0x20 * n)) = some rowCtValL := by decide
  have hhigh : ∀ n < 32, rowsTrs.find? (fun r => r.hit (0x2018 + 0x20 * n)) = some rowCtValH := by decide
  refine ⟨⟨rowCtValL, ?_, rfl, rfl, rfl⟩, ⟨rowCtValH, ?_, rfl, rfl, rfl⟩⟩
  · rw [regRow_of_block (n := 0x20) (o := 0x2014 + 0x20 * n) (by rw [R.TRS_CT_VAL_L]; omega) (by omega) rfl, hlow n hn]
  · rw [regRow_of_block (n := 0x20) (o := 0x2018 + 0x20 * n) (by rw [R.TRS_CT_VAL_L]; omega) (by omega) rfl, hhigh n hn]

theorem spans_ctVal {n : Nat} (hn : n < 32) : spanOf valuePairs 2 (R.TRS_CT_VAL_L n) = some (R.TRS_CT_VAL_L n, 0) ∧
    spanOf valuePairs 2 (R.TRS_CT_VAL_L n + 4) = some (R.TRS_CT_VAL_L n, 1) := by
  have hall : ∀ n < 32, spanOf valuePairs 2 (R.TRS_CT_VAL_L n) = some (R.TRS_CT_VAL_L n, 0) ∧
    spanOf valuePairs 2 (R.TRS_CT_VAL_L n + 4) = some (R.TRS_CT_VAL_L n, 1) := by decide
  exact hall n hn

theorem no_triple_ctVal {a : Nat} (hlo : 0x202000 ≤ a) (hhi : a < 0x202400) : spanOf writeTriples 3 a = none :=
  spanOf_eq_none_of_gap (by decide) hlo hhi

theorem exec_counterValueWrite {s : State} (h : s.chip.atWork = true) {i : Init} (hi : i ≠ .sched) {a b k : Nat} {r : RegRow} (v : Word)
    (hrow : regRow a = some r) (hsqc : r.sqc = 0) (hgd : r.gd = 0) (hcmd : r.cmd = 0) (hlo : 0x202000 ≤ a) (hhi : a < 0x202400) (h4 : a % 4 = 0)
    (hspan : spanOf valuePairs 2 a = some (b, k)) :
    exec (.counterValueWrite i a v) s = .next (s.after
      (if k = 1 then s.chip.writing.valueWrite i b v.toNat else s.chip.writing.keepWritten i a v)) := by
  have hlt : a < 16777216 := hhi.trans (by decide)
  have hwf : (Instr.counterValueWrite i a v).wf = true := by simp [Instr.wf, regInit, regWf, addrWf, hi, h4, hlt]
  have hexec := State.act_of_atWork (i := .counterValueWrite i a v) h hwf (fun c => c.busWrite i a v)
  rw [Chip.busWrite_of_row h i hrow (hhi.trans (by decide)) hgd hcmd,
    Chip.applyFields_value hrow hsqc (no_triple_ctVal hlo hhi) hspan] at hexec
  exact hexec

theorem Chip.pair_setPair (c : Chip) (a x y : Nat) (hx : x < 2 ^ 32) :
    (c.setPair 16 a (x + 2 ^ 32 * (y % 65536))).pair 16 a = x + 2 ^ 32 * (y % 65536) := by
  have hlow : (c.setPair 16 a (x + 2 ^ 32 * (y % 65536))).rn a = x := by
    rw [Chip.setPair, Chip.rn_setN_ne _ _ (by omega), Chip.rn_setN]; omega
  have hhigh : (c.setPair 16 a (x + 2 ^ 32 * (y % 65536))).rn (a + 4) = y % 65536 := by rw [Chip.setPair, Chip.rn_setN]; omega
  rw [Chip.pair, hlow, hhigh]
  omega

/-- A value set at once changes the pair's registers, and of a counter its mark of saturation. -/
theorem Chip.setValue_shape (c : Chip) (a v : Nat) : ∃ t, c.setValue a v = { c.setPair 16 a v with trs := t } := by
  unfold Chip.setValue
  dsimp only
  split
  · exact ⟨_, rfl⟩
  · exact ⟨_, rfl⟩

theorem completes_ctValLow {s : State} (h : s.chip.atWork = true) {i : Init} (hi : i ≠ .sched) {n : Nat} (v : Word) (hn : n < 32) :
    Completes (.counterValueWrite i (R.TRS_CT_VAL_L n) v) s (fun c => c.regs = s.chip.regs ∧
      SMap.get (fun _ => 0) c.acc.written (latchKey i (R.TRS_CT_VAL_L n)) = v) := by
  obtain ⟨⟨r, hrow, hsqc, hgd, hcmd⟩, -⟩ := rows_ctVal hn
  have haddr : 0x202000 ≤ R.TRS_CT_VAL_L n ∧ R.TRS_CT_VAL_L n < 0x202400 ∧ R.TRS_CT_VAL_L n % 4 = 0 := by rw [R.TRS_CT_VAL_L]; omega
  exact .of_exec (exec_counterValueWrite h hi v hrow hsqc hgd hcmd haddr.1 haddr.2.1 haddr.2.2 (spans_ctVal hn).1)
    (Chip.fatal_of_atWork (c := s.chip) h) (Chip.resetReq_of_atWork (c := s.chip) h) ⟨rfl, SMap.get_put_same _ _ _ _⟩

theorem completes_ctValHigh {s : State} (h : s.chip.atWork = true) {i : Init} (hi : i ≠ .sched) {n : Nat} {lo : Word} (v : Word) (hn : n < 32)
    (hlo : ∀ d, SMap.get d s.chip.acc.written (latchKey i (R.TRS_CT_VAL_L n)) = lo) :
    Completes (.counterValueWrite i (R.TRS_CT_VAL_L n + 4) v) s (fun c =>
      (s.chip.valueOwned (R.TRS_CT_VAL_L n) = false → c.ctVal n = lo.toNat + 2 ^ 32 * (v.toNat % 65536)) ∧
      (s.chip.valueOwned (R.TRS_CT_VAL_L n) = true → c.ctVal n = s.chip.ctVal n ∧
        SMap.get (fun _ => 0) c.trs.presets (R.TRS_CT_VAL_L n) = lo.toNat + 2 ^ 32 * (v.toNat % 65536))) := by
  obtain ⟨-, ⟨r, hrow, hsqc, hgd, hcmd⟩⟩ := rows_ctVal hn
  have haddr : 0x202000 ≤ R.TRS_CT_VAL_L n + 4 ∧ R.TRS_CT_VAL_L n + 4 < 0x202400 ∧ (R.TRS_CT_VAL_L n + 4) % 4 = 0 := by
    rw [R.TRS_CT_VAL_L]; omega
  have hexec := exec_counterValueWrite h hi v hrow hsqc hgd hcmd haddr.1 haddr.2.1 haddr.2.2 (spans_ctVal hn).2
  rw [if_pos rfl, Chip.valueWrite, Chip.lastWritten_of_forall (c := s.chip.writing) hlo, Chip.presetValue] at hexec
  have hfatal := Chip.fatal_of_atWork (c := s.chip) h
  have hreset := Chip.resetReq_of_atWork (c := s.chip) h
  have hsame : s.chip.writing.used.valueOwned (R.TRS_CT_VAL_L n) = s.chip.valueOwned (R.TRS_CT_VAL_L n) := rfl
  rw [hsame] at hexec
  cases howned : s.chip.valueOwned (R.TRS_CT_VAL_L n) with
  | true =>
    rw [howned, if_pos rfl] at hexec
    exact .of_exec hexec hfatal hreset ⟨fun hc => absurd hc.symm Bool.false_ne_true, fun _ => ⟨rfl, SMap.get_put_same _ _ _ _⟩⟩
  | false =>
    rw [howned, if_neg Bool.false_ne_true] at hexec
    obtain ⟨t, hvalue⟩ := s.chip.writing.used.setValue_shape (R.TRS_CT_VAL_L n) (lo.toNat + 2 ^ 32 * (v.toNat % 65536))
    rw [hvalue] at hexec
    exact .of_exec hexec hfatal hreset ⟨fun _ => Chip.pair_setPair s.chip.writing.used _ _ _ lo.isLt, fun hc => absurd hc Bool.false_ne_true⟩

/-- Settles O22: `_L` waits for `_H`, and `_H` for the owner's next evaluation cycle where there is an owner. -/
theorem counterValueWrite : Obligations.CounterValueWrite :=
  ⟨fun _ _ _ v h hi hn => completes_ctValLow h hi v hn, fun _ _ _ _ v h hi hn hlo => completes_ctValHigh h hi v hn hlo⟩

/-! ### Guarded pairs -/

theorem Chip.guardOf_setGuard {c : Chip} {i : Init} (hi : i ≠ .sched) (p : Option GuardPend) : (c.setGuard i p).guardOf i = p := by
  cases i with
  | host => rfl
  | steward => rfl
  | sched => exact absurd rfl hi

theorem completes_guardFirstWrite {s : State} (h : s.chip.atWork = true) {i : Init} (hi : i ≠ .sched) (v : Word) :
    Completes (.guardFirstWrite i R.CLK_SRC v) s (fun c => c.regs = s.chip.regs ∧ c.guardOf i = some ⟨R.CLK_SRC, v, s.chip.cycle⟩) := by
  have hwf : (Instr.guardFirstWrite i R.CLK_SRC v).wf = true := by
    simp only [Instr.wf, regInit, regWf, addrWf, Bool.and_eq_true, decide_eq_true_eq]
    exact ⟨hi, by decide, by decide⟩
  have hguard : isGuarded R.CLK_SRC = true := by decide
  have hbus : s.chip.busWrite i R.CLK_SRC v = s.chip.writing.setGuard i (some ⟨R.CLK_SRC, v, s.chip.writing.cycle⟩) := by
    rw [Chip.busWrite, if_neg (by decide), if_pos hguard, Chip.busCycle_of_atWork h]
  have hexec := State.act_of_atWork (i := .guardFirstWrite i R.CLK_SRC v) h hwf (fun c => c.busWrite i R.CLK_SRC v)
  rw [hbus] at hexec
  exact .of_exec hexec ((Chip.setGuard_fatal _ _ _).trans (Chip.fatal_of_atWork (c := s.chip) h))
    ((Chip.setGuard_resetReq _ _ _).trans (Chip.resetReq_of_atWork (c := s.chip) h)) ⟨Chip.setGuard_regs _ _ _, Chip.guardOf_setGuard hi _⟩

/-- The engine with the audit's shadow. -/
def Chip.putShadow (c : Chip) (l : Option (List (Nat × Word))) : Chip := { c with acc := { c.acc with shadow := l } }

theorem Chip.auditStart_eq (c : Chip) : c.auditStart =
    if c.locked && c.flag R.GLB_PROFILE_EFF F.GLB_PROFILE_EFF_AUDIT then
      ((c.putShadow (some c.lkImage)).setFlag R.GLB_AUDIT_STAT F.GLB_AUDIT_STAT_ACTIVE true).setFlag
        R.GLB_AUDIT_STAT F.GLB_AUDIT_STAT_LIVE_SHADOW (!c.flag R.GLB_CFG_LOCK F.GLB_CFG_LOCK_BY_IMAGE)
    else c := rfl

/-- What a set lock leaves alone: every register but the lock and the audit's status, what is demanded, and the pending pairs. -/
structure Chip.LockKept (c d : Chip) : Prop where
  regs : c.RegsIn (fun a => a = R.GLB_CFG_LOCK ∨ a = R.GLB_AUDIT_STAT) d
  fatal : d.fatal = c.fatal
  resetReq : d.resetReq = c.resetReq
  host : d.acc.guardHost = c.acc.guardHost

theorem Chip.LockKept.trans {c d e : Chip} (h : c.LockKept d) (k : d.LockKept e) : c.LockKept e :=
  ⟨h.regs.trans k.regs, k.fatal.trans h.fatal, k.resetReq.trans h.resetReq, k.host.trans h.host⟩

theorem Chip.LockKept.setFlag (c : Chip) {a : Nat} (f : Fld) (b : Bool) (h : a = R.GLB_CFG_LOCK ∨ a = R.GLB_AUDIT_STAT) :
    c.LockKept (c.setFlag a f b) := ⟨.setFlag c f b h, rfl, rfl, rfl⟩

theorem Chip.LockKept.auditStart (c : Chip) : c.LockKept c.auditStart := by
  rw [Chip.auditStart_eq]
  split
  · have hshadow : c.LockKept (c.putShadow (some c.lkImage)) := ⟨.of_regs rfl, rfl, rfl, rfl⟩
    exact (hshadow.trans (.setFlag _ _ _ (.inr rfl))).trans (.setFlag _ _ _ (.inr rfl))
  · exact ⟨.refl _ c, rfl, rfl, rfl⟩

theorem Chip.locked_auditStart (c : Chip) : c.auditStart.locked = c.locked := by
  rw [Chip.auditStart_eq]
  split
  · rw [Chip.locked, Chip.flag_setFlag_ne _ _ _ _ (by decide), Chip.flag_setFlag_ne _ _ _ _ (by decide)]
    rfl
  · rfl

/-- LOCK, once set, reads set, whatever starts with it. -/
theorem Chip.locked_setLock (c : Chip) (b : Bool) : (c.setLock b).locked = true := by
  have hlock : ((c.setFlag R.GLB_CFG_LOCK F.GLB_CFG_LOCK_LOCK true).setFlag R.GLB_CFG_LOCK F.GLB_CFG_LOCK_BY_IMAGE b).locked = true := by
    rw [Chip.locked, Chip.flag_setFlag_of_apart _ _ _ _ _ _ (by decide) (.inl (by decide))]
    exact Chip.flag_setFlag _ _ _ _ (by decide) rfl
  unfold Chip.setLock
  dsimp only
  split
  · exact (Chip.locked_auditStart _).trans hlock
  · exact hlock

theorem Chip.LockKept.setLock (c : Chip) (b : Bool) : c.LockKept (c.setLock b) := by
  have hset := (Chip.LockKept.setFlag c F.GLB_CFG_LOCK_LOCK true (.inl rfl)).trans (.setFlag _ F.GLB_CFG_LOCK_BY_IMAGE b (.inl rfl))
  unfold Chip.setLock
  dsimp only
  split
  · exact hset.trans (.auditStart _)
  · exact hset

theorem Chip.pairDone_lock {c : Chip} {i : Init} {v : Nat} (hv : bit v 0 = true) (hopen : c.locked = false) :
    c.pairDone i R.GLB_CFG_LOCK v false = c.setLock false := by
  rw [Chip.pairDone, if_neg (by decide), if_pos rfl, if_pos hv, hopen]
  rfl

section
variable {s : State} {p : GuardPend}

/-- In RUN with a pair of the host pending to the lock, nothing else in the way. -/
structure State.LockPending (s : State) (p : GuardPend) : Prop where
  stage : s.chip.stage = 9
  started : s.chip.boot.startFailed = false
  porn : s.chip.pins.porn = false
  ladder : s.chip.ladder = 0
  fatal : s.chip.fatal = none
  resetReq : s.chip.resetReq = false
  steward : s.chip.acc.guardStw = none
  awake : s.chip.pcie.d3hot = false
  host : s.chip.acc.guardHost = some p
  addr : p.addr = R.GLB_CFG_LOCK
  cycle : s.chip.cycle ≤ p.cycle + 4096
  opened : s.chip.locked = false
  value : bit p.val.toNat 0 = true

theorem State.LockPending.exec (h : s.LockPending p) (v : Word) : exec (.guardMirrorWrite .host (R.GLB_CFG_LOCK + 0x800000) v) s =
    .next (s.after (s.chip.writing.mirrorWrite .host (R.GLB_CFG_LOCK + 0x800000) v)) :=
  exec_guardMirrorWrite_host h.porn h.ladder h.awake h.stage h.started h.steward h.host h.cycle (by decide) (by decide) v

theorem State.LockPending.completes_complement (h : s.LockPending p) :
    Completes (.guardMirrorWrite .host (R.GLB_CFG_LOCK + 0x800000) (~~~p.val)) s (fun c => c.locked = true ∧ c.acc.guardHost = none) := by
  have hmirror := Chip.mirrorWrite_complement (c := s.chip.writing) (i := .host) h.host
  rw [h.addr, Chip.pairDone_lock h.value (show (s.chip.writing.setGuard .host none).locked = false from h.opened)] at hmirror
  have hexec := h.exec (~~~p.val)
  rw [hmirror] at hexec
  have hkept := Chip.LockKept.setLock (s.chip.writing.setGuard .host none) false
  exact .of_exec hexec (hkept.fatal.trans h.fatal) (hkept.resetReq.trans h.resetReq) ⟨Chip.locked_setLock _ _, hkept.host⟩

/-- The lock does not see a failed pair. -/
theorem Chip.locked_guardFail (c : Chip) (i : Init) (a v k o : Nat) : (c.guardFail i a v k o).locked = c.locked :=
  Chip.flag_congr (Chip.reg_guardFail_ne c i a v k o (by rw [eventRegs_offence]; decide) (by decide) (by decide)) _

theorem State.LockPending.completes_other (h : s.LockPending p) {v : Word} (hv : v ≠ ~~~p.val) :
    Completes (.guardMirrorWrite .host (R.GLB_CFG_LOCK + 0x800000) v) s (fun c => c.locked = false ∧ c.acc.guardHost = none ∧
      c.reg R.GLB_GUARD_CNT = s.chip.reg R.GLB_GUARD_CNT + 1 ∧ c.dropped = true) := by
  have hfail := Chip.mirrorWrite_other (c := s.chip.writing) (i := .host) h.host hv
  rw [h.addr] at hfail
  have hexec := h.exec v
  rw [hfail] at hexec
  exact .of_exec hexec ((Chip.guardFail_fatal _ _ _ _ _ _).trans h.fatal) ((Chip.guardFail_resetReq _ _ _ _ _ _).trans h.resetReq)
    ⟨(Chip.locked_guardFail _ _ _ _ _ _).trans h.opened, congrArg Acc.guardHost (Chip.guardFail_acc _ _ _ _ _ _),
      Chip.guardFail_guardCnt _ _ _ _ _ _, rfl⟩

/-- The engine that has waited for a fabric cycle, in what a pending pair depends on. -/
theorem Chip.waitCycle_shape (c : Chip) (n : Nat) : ∃ k e, c.waitCycle n = { c with cycle := k, epc := e } := by
  unfold Chip.waitCycle
  split
  · exact c.pass_eq _
  · exact ⟨c.cycle, c.epc, rfl⟩

theorem State.LockPending.completes_timeout (h : s.LockPending p) :
    Completes (.guardTimeout .host) s (fun c => c.locked = false ∧ c.acc.guardHost = none ∧ p.cycle + 4096 ≤ c.cycle ∧
      c.reg R.GLB_GUARD_CNT = s.chip.reg R.GLB_GUARD_CNT + 1) := by
  have hpend : (s.chip.guardExpire .host).guardExpire .steward = s.chip := by
    rw [Chip.guardExpire_of_le (i := .host) h.host h.cycle, Chip.guardExpire_of_none (i := .steward) h.steward]
  have hdo : doGuardTimeout .host s.chip = (s.chip.waitCycle (p.cycle + 4096)).guardFail .host p.addr p.val.toNat 3 0 := by
    rw [doGuardTimeout, show s.chip.guardOf .host = some p from h.host]
  have hexec : Machine.exec (.guardTimeout .host) s = .next (s.after (doGuardTimeout .host s.chip)) := by
    change s.act (.guardTimeout .host) (doGuardTimeout .host) = _
    rw [State.act, if_pos (show (Instr.guardTimeout .host).wf = true from rfl),
      Chip.perform_fabric_of_gale rfl h.porn h.ladder h.awake, hpend]
  rw [hdo] at hexec
  have hcycle : p.cycle + 4096 ≤ (s.chip.waitCycle (p.cycle + 4096)).cycle := by
    rw [Chip.waitCycle_cycle]; exact Nat.le_max_right _ _
  obtain ⟨k, e, hwait⟩ := s.chip.waitCycle_shape (p.cycle + 4096)
  rw [hwait] at hexec hcycle
  obtain ⟨d, hd, hfail⟩ := Chip.guardFail_eq { s.chip with cycle := k, epc := e } .host p.addr p.val.toNat 3 0
  refine .of_exec hexec ((Chip.guardFail_fatal _ _ _ _ _ _).trans h.fatal) ((Chip.guardFail_resetReq _ _ _ _ _ _).trans h.resetReq)
    ⟨(Chip.locked_guardFail _ _ _ _ _ _).trans h.opened, congrArg Acc.guardHost (Chip.guardFail_acc _ _ _ _ _ _), ?_,
      Chip.guardFail_guardCnt _ _ _ _ _ _⟩
  rw [hfail]
  exact hcycle.trans (le_of_eq hd.cycle.symm)
end

theorem completes_guardMirrorWrite_alone {s : State} (h : s.chip.atWork = true) (v : Word) :
    Completes (.guardMirrorWrite .host (R.GLB_CFG_LOCK + 0x800000) v) s (fun c => c.reg R.GLB_CFG_LOCK = s.chip.reg R.GLB_CFG_LOCK ∧
      c.reg R.GLB_GUARD_CNT = s.chip.reg R.GLB_GUARD_CNT + 1) := by
  have hnone : s.chip.writing.guardOf .host = none := ((Chip.quiet_iff _).1 (Chip.quiet_of_atWork h)).2.2.2.1
  have hmay : s.chip.mayWrite .host (R.GLB_CFG_LOCK + 0x800000) = true := by simp [Chip.mayWrite, Chip.hostShut_of_atWork h]
  have hexec := State.act_of_atWork (i := .guardMirrorWrite .host (R.GLB_CFG_LOCK + 0x800000) v) h rfl
    (fun c => c.busWrite .host (R.GLB_CFG_LOCK + 0x800000) v)
  rw [Chip.busWrite_mirror (by decide) hmay, Chip.mirrorWrite, hnone] at hexec
  exact .of_exec hexec ((Chip.guardFail_fatal _ _ _ _ _ _).trans (Chip.fatal_of_atWork (c := s.chip) h))
    ((Chip.guardFail_resetReq _ _ _ _ _ _).trans (Chip.resetReq_of_atWork (c := s.chip) h))
    ⟨Chip.reg_guardFail_ne s.chip.writing .host _ _ _ _ (by decide) (by decide) (by decide), Chip.guardFail_guardCnt _ _ _ _ _ _⟩

/-- Settles O21: the first write waits, its complement completes the pair, and everything else fails it or finds none. -/
theorem guardedPair : Obligations.GuardedPair := by
  refine ⟨fun s i v h hi => completes_guardFirstWrite h hi v, ?_, fun s v h => completes_guardMirrorWrite_alone h v⟩
  intro s p v _ hstage hstarted hporn hladder hfatal hreset hstw hawake hhost haddr hcycle hopen hvalue
  have h : s.LockPending p := ⟨hstage, hstarted, hporn, hladder, hfatal, hreset, hstw, hawake, hhost, haddr, hcycle, hopen, hvalue⟩
  exact ⟨fun hv => hv ▸ h.completes_complement, h.completes_other, h.completes_timeout⟩

end Sys2Proof.Machine
end

section
/-! MSI-X vectors and the configuration space, fences, and the register audit (R245, R250, R363, R367, R372). -/

namespace Sys2Proof.Machine

/-! ### Unmasking a vector -/

def rowMsixCtrl : RegRow :=
  { name := "HIF_MSIX_CTRL", off := 0x800c, stride := 0x10, count := 64, stride2 := 0, count2 := 1, reset := 0x1, rw := 0x1 }

theorem FieldsOnly.of_msixCtrl {v : Nat} (hv : v < 64) : FieldsOnly (R.HIF_MSIX_CTRL v) rowMsixCtrl := by
  have hfind : ∀ v < 64, rowsHif.find? (fun r => r.hit (0x800c + 0x10 * v)) = some rowMsixCtrl := by decide
  have hlo : 0x608000 ≤ R.HIF_MSIX_CTRL v := by rw [R.HIF_MSIX_CTRL]; omega
  have hhi : R.HIF_MSIX_CTRL v < 0x609000 := by rw [R.HIF_MSIX_CTRL]; omega
  refine ⟨?_, hhi.trans (by decide), rfl, rfl, rfl, spanOf_eq_none_of_gap (by decide) hlo hhi, spanOf_eq_none_of_gap (by decide) hlo hhi,
    ?_, by omega, by omega, by omega⟩
  · rw [regRow_of_block (n := 0x60) (o := 0x800c + 0x10 * v) (by rw [R.HIF_MSIX_CTRL]; omega) (by omega) rfl, hfind v hv]
  · simp only [List.mem_cons, List.not_mem_nil, or_false, R.EVT_RAISE, R.EPC_CTRL, R.SCH_CTRL, R.STW_MB_CTRL, R.CST_TEST, R.CST_BANK_FAIL_H]
    omega

/-- The engine whose vector v is unmasked. -/
def Chip.unmasked (c : Chip) (v : Nat) : Chip := c.writing.setN (R.HIF_MSIX_CTRL v) (masked (c.rn (R.HIF_MSIX_CTRL v)) (0 : Word).toNat 1)

theorem exec_msixVectorUnmask {s : State} (h : s.chip.atWork = true) {v : Nat} (hv : v < 64) :
    exec (.msixVectorUnmask v) s = .next (s.after (s.chip.unmasked v)) := by
  have hexec := State.act_of_atWork (i := .msixVectorUnmask v) h (decide_eq_true hv) (fun c => c.busWrite .host (R.HIF_MSIX_CTRL v) 0)
  have hlk : s.chip.writing.lkOf (R.HIF_MSIX_CTRL v) rowMsixCtrl = 0 :=
    Chip.lkOf_of_apart (.inr (by rw [R.HIF_MSIX_CTRL]; omega)) s.chip.writing rowMsixCtrl
  have hbars : s.chip.writing.lkBars (R.HIF_MSIX_CTRL v) rowMsixCtrl (0 : Word).toNat = false := by
    rw [Chip.lkBars, hlk, Nat.and_zero]; simp
  rw [(FieldsOnly.of_msixCtrl hv).busWrite h, Chip.fieldWrite_of_open .host rfl hbars, hlk] at hexec
  exact hexec

theorem Chip.flag_unmasked (c : Chip) (v : Nat) : (c.unmasked v).flag (R.HIF_MSIX_CTRL v) F.HIF_MSIX_CTRL_MASK = false := by
  have hbit : bits (masked (c.rn (R.HIF_MSIX_CTRL v)) (0 : Word).toNat 1) 0 1 = 0 :=
    (bits_masked fun i _ hi => by obtain rfl : i = 0 := by omega
                                  rfl).trans rfl
  rw [Chip.flag, Chip.fld, Chip.unmasked, show c.rn (R.HIF_MSIX_CTRL v) = c.writing.rn (R.HIF_MSIX_CTRL v) from rfl, Chip.rn_setN_masked]
  exact decide_eq_false (not_not.2 hbit)

theorem Chip.reg_unmasked_ne (c : Chip) {v a : Nat} (h : a ≠ R.HIF_MSIX_CTRL v) : (c.unmasked v).reg a = c.reg a :=
  Chip.reg_setN_ne c.writing _ h

/-- A vector whose pending bit is set and whose line is active sends its message once it can. -/
theorem Chip.mem_out_foldl_msixRelease {v : Nat} (hv : v < 64) {act : Nat} (hact : bit act v = true) : ∀ (l : List Nat) (c : Chip),
    (v ∈ l ∨ Out.msix v ∈ c.out) → c.vectorOpen v = true → Out.msix v ∈ (l.foldl (Chip.msixRelease act) c).out := by
  have hkeep : ∀ (c : Chip) (w : Nat), Out.msix v ∈ c.out → Out.msix v ∈ (Chip.msixRelease act c w).out := fun c w hmem => by
    unfold Chip.msixRelease
    dsimp only
    split
    · split
      · exact List.mem_cons_of_mem _ hmem
      · exact hmem
    · exact hmem
  intro l
  induction l with
  | nil => exact fun c hmem _ => hmem.resolve_left List.not_mem_nil
  | cons w l ih =>
    intro c hmem hopen
    refine ih _ ?_ ((c.vectorOpen_msixRelease hv act w).trans hopen)
    rcases hmem with hmem | hmem
    · rcases List.mem_cons.1 hmem with rfl | hl
      · exact .inr (by rw [Chip.msixRelease, if_pos hopen]; dsimp only; rw [if_pos hact]; exact List.mem_cons_self)
      · exact .inl hl
    · exact .inr (hkeep c w hmem)

theorem Chip.mem_out_foldl_msixDue {o : Out} (l : List Nat) : ∀ c : Chip, o ∈ c.out → o ∈ (l.foldl Chip.msixDue c).out := by
  induction l with
  | nil => exact fun _ h => h
  | cons w l ih =>
    refine fun c h => ih _ ?_
    unfold Chip.msixDue
    split
    · exact List.mem_cons_of_mem _ h
    · exact h

theorem Chip.mem_out_notice {c : Chip} {v : Nat} (hv : v < 64) (hopen : c.vectorOpen v = true) (hpend : bit c.pba v = true)
    (hact : bit c.activeLines v = true) : Out.msix v ∈ c.notice.out :=
  Chip.mem_out_foldl_msixDue _ _ (Chip.mem_out_foldl_msixRelease hv hact _ _
    (.inl (List.mem_filter.2 ⟨List.mem_range.2 hv, hpend⟩)) hopen)

theorem Chip.stallTally_out (was : List Nat) (k : Nat) (c : Chip) : (Chip.stallTally was k c).out = c.out := by
  unfold Chip.stallTally
  rw [Chip.foldl_keeps Chip.out (fun d n _ => ?_), Chip.foldl_keeps Chip.out (fun d n _ => d.addSat_out _ k)]
  split <;> rfl

/-- What is sent with a command's effect and its notices has been sent when it ends. -/
theorem State.out_after (s : State) (c : Chip) : (s.after c).chip.out = c.settle.notice.out :=
  (Chip.stallTally_out _ _ _).trans (Chip.pass_out _ _)

theorem State.vectorOpen_after (s : State) (c : Chip) {v : Nat} (hv : v < 64) : (s.after c).chip.vectorOpen v = c.settle.vectorOpen v := by
  have hstay : ∀ a, 0x600000 ≤ a → a ≠ R.HIF_MSIX_PBA_L → a ≠ R.HIF_MSIX_PBA_H → (s.after c).chip.reg a = c.settle.reg a :=
    fun a ha hlow hhigh => s.reg_after hlow hhigh (fun n hn => by rw [R.FUL_STALL, R.FUL_STAT]; omega) c
  obtain ⟨r, o, e, k, p, h⟩ := s.after_eq c
  exact Chip.vectorOpen_congr (by rw [h]) (hstay _ (by rw [R.HIF_MSIX_CTRL]; omega) (R.HIF_MSIX_CTRL_ne_low hv) (R.HIF_MSIX_CTRL_ne_high hv))
    (hstay _ (by decide) (by decide) (by decide))

theorem sent_of_unmask {s t : State} {v : Nat} (h : s.chip.atWork = true) (hv : v < 64) (hopen : s.chip.msixOpen = true)
    (hpend : bit s.chip.pba v = true) (hact : bit s.chip.activeLines v = true) (ht : exec (.msixVectorUnmask v) s = .next t) :
    Out.msix v ∈ t.chip.out ∧ bit t.chip.pba v = false := by
  rw [exec_msixVectorUnmask h hv] at ht
  cases ht
  have hsettle : (s.chip.unmasked v).settle = s.chip.unmasked v :=
    Chip.settle_of_none (Chip.fatal_of_atWork (c := s.chip) h) (Chip.resetReq_of_atWork (c := s.chip) h)
  have hmsix : (s.chip.unmasked v).msixOpen = true := by
    rw [← hopen, Chip.msixOpen, Chip.msixOpen, Chip.pcieAwake, Chip.pcieAwake,
      Chip.flag_congr (s.chip.reg_unmasked_ne (v := v) (by simp only [R.HIF_LINK, R.HIF_MSIX_CTRL]; omega))]
    rfl
  have hvector : (s.chip.unmasked v).vectorOpen v = true := by rw [Chip.vectorOpen, hmsix, Chip.flag_unmasked]; rfl
  have hpba : (s.chip.unmasked v).pba = s.chip.pba := by
    rw [Chip.pba, Chip.rn_congr (s.chip.reg_unmasked_ne (R.HIF_MSIX_CTRL_ne_low hv).symm),
      Chip.rn_congr (s.chip.reg_unmasked_ne (R.HIF_MSIX_CTRL_ne_high hv).symm), Chip.pba]
  have hlines : (s.chip.unmasked v).activeLines = s.chip.activeLines :=
    (Chip.activeLines_setN (.inr (by rw [R.HIF_MSIX_CTRL]; omega)) _ _).trans (Chip.activeLines_congr rfl)
  refine ⟨?_, Bool.eq_false_of_not_eq_true fun hbit => ?_⟩
  · rw [s.out_after, hsettle]
    exact Chip.mem_out_notice hv hvector (by rw [hpba, hpend]) (by rw [hlines, hact])
  · have hshut := (s.settled_after (s.chip.unmasked v)).pending v hv hbit
    rw [s.vectorOpen_after _ hv, hsettle, hvector] at hshut
    exact Bool.false_ne_true hshut.symm

/-! ### The configuration space -/

/-- The engine with the configuration space's settings. -/
def Chip.putPcie (c : Chip) (p : Pcie) : Chip := { c with pcie := p }

theorem Chip.dmaHalt_false_shape (c : Chip) : ∃ r x, c.dmaHalt false = { c with regs := r, dma := x } := by
  unfold Chip.dmaHalt
  split
  · exact ⟨_, _, rfl⟩
  · exact ⟨c.regs, c.dma, rfl⟩

theorem completes_pcieConfigWrite {s : State} (h : s.chip.atWork = true) (b m f d : Bool) :
    Completes (.pcieConfigWrite b m f d) s (fun c => c.pcie = ⟨b, m, f, d⟩ ∧ (s.chip.pcie.bme = true → b = false → c.dmaRuns = false)) := by
  have hexec : exec (.pcieConfigWrite b m f d) s = .next (s.after (if s.chip.pcie.bme && !b then (s.chip.putPcie ⟨b, m, f, d⟩).dmaHalt false
      else s.chip.putPcie ⟨b, m, f, d⟩)) := State.act_of_atWork (i := .pcieConfigWrite b m f d) h rfl (doPcieConfigWrite b m f d)
  have hfatal : (s.chip.putPcie ⟨b, m, f, d⟩).fatal = none := Chip.fatal_of_atWork (c := s.chip) h
  have hreset : (s.chip.putPcie ⟨b, m, f, d⟩).resetReq = false := Chip.resetReq_of_atWork (c := s.chip) h
  have hpcie : (s.chip.putPcie ⟨b, m, f, d⟩).pcie = ⟨b, m, f, d⟩ := rfl
  generalize s.chip.putPcie ⟨b, m, f, d⟩ = e at *
  split at hexec
  next =>
    have hstop := e.dmaRuns_dmaHalt_false
    obtain ⟨r, x, hshape⟩ := e.dmaHalt_false_shape
    rw [hshape] at hexec hstop
    exact .of_exec hexec hfatal hreset ⟨hpcie, fun _ _ => hstop⟩
  next hno => exact .of_exec hexec hfatal hreset ⟨hpcie, fun hb hm => absurd (by rw [hb, hm]; rfl) hno⟩

theorem completes_pcieConventionalReset {s : State} (h : s.chip.atWork = true) :
    Completes .pcieConventionalReset s (fun c => c.pcie = {} ∧ c.dmaRuns = false) := by
  have hexec := State.act_of_atWork (i := .pcieConventionalReset) h rfl doPcieConventionalReset
  have hstop := s.chip.dmaRuns_dmaHalt_false
  obtain ⟨r, x, hshape⟩ := s.chip.dmaHalt_false_shape
  rw [doPcieConventionalReset, Chip.pcieReset, hshape] at hexec
  rw [hshape] at hstop
  exact .of_exec hexec (Chip.fatal_of_atWork (c := s.chip) h) (Chip.resetReq_of_atWork (c := s.chip) h) ⟨rfl, hstop⟩

/-! ### Fences -/

def rowGlbFence : RegRow :=
  { name := "GLB_FENCE", off := 0x4c, stride := 0x0, count := 1, stride2 := 0, count2 := 1, reset := 0x0, cmd := 0x1, ro := 0xffff0000 }

theorem regRow_glbFence : regRow R.GLB_FENCE = some rowGlbFence := by decide

theorem Chip.applyFields_glbFence (c : Chip) (i : Init) (v : Word) :
    c.applyFields i R.GLB_FENCE v = c.setN R.GLB_FENCE (masked (c.rn R.GLB_FENCE) v.toNat 0) := by
  have htriple : spanOf writeTriples 3 R.GLB_FENCE = none := by decide
  have hvalue : spanOf valuePairs 2 R.GLB_FENCE = none := by decide
  have hlk : c.lkOf R.GLB_FENCE rowGlbFence = 0 := Chip.lkOf_of_apart (.inl (by decide)) c rowGlbFence
  have hbars : c.lkBars R.GLB_FENCE rowGlbFence v.toNat = false := by rw [Chip.lkBars, hlk, Nat.and_zero]; simp
  have hfields : c.applyFields i R.GLB_FENCE v = c.fieldWrite i R.GLB_FENCE rowGlbFence v.toNat := by
    simp only [Chip.applyFields, regRow_glbFence, htriple, hvalue]
    rfl
  rw [hfields, Chip.fieldWrite_of_open i rfl hbars, hlk]
  rfl

theorem exec_fence {s : State} (h : s.chip.atWork = true) {i : Init} (hi : i ≠ .sched) : exec (.fence i) s =
    .next (s.after ((s.chip.writing.setN R.GLB_FENCE (masked (s.chip.rn R.GLB_FENCE) (1 : Word).toNat 0)).fenceDone i)) := by
  have hwf : (Instr.fence i).wf = true := decide_eq_true hi
  have hexec := State.act_of_atWork (i := .fence i) h hwf (fun c => c.busWrite i R.GLB_FENCE 1)
  have hguard : isGuarded R.GLB_FENCE = false := by decide
  rw [Chip.busWrite_of_atWork h i 1 (by decide) hguard, Chip.applyFields_glbFence] at hexec
  have hcmds : ∀ c : Chip, c.applyCmds i R.GLB_FENCE 1 = c.fenceDone i := fun c => by
    simp only [Chip.applyCmds, regRow_glbFence]
    rfl
  rw [hcmds] at hexec
  exact hexec

theorem completes_fence {s : State} (h : s.chip.atWork = true) :
    Completes (.fence .host) s (fun c => c.fenceCount .host = s.chip.fenceCount .host + 1 ∧ c.fenceCount .steward = s.chip.fenceCount .steward ∧
      (∀ a, a ≠ R.GLB_FENCE → c.reg a = s.chip.reg a)) ∧
    Completes (.fence .steward) s (fun c => c.fenceCount .steward = s.chip.fenceCount .steward + 1 ∧ c.fenceCount .host = s.chip.fenceCount .host ∧
      (∀ a, a ≠ R.GLB_FENCE → c.reg a = s.chip.reg a)) := by
  have hfatal := Chip.fatal_of_atWork (c := s.chip) h
  have hreset := Chip.resetReq_of_atWork (c := s.chip) h
  have hreg : ∀ a, a ≠ R.GLB_FENCE → (s.chip.writing.setN R.GLB_FENCE (masked (s.chip.rn R.GLB_FENCE) (1 : Word).toNat 0)).reg a = s.chip.reg a :=
    fun a ha => Chip.reg_setN_ne s.chip.writing _ ha
  exact ⟨.of_exec (exec_fence h (by decide)) hfatal hreset ⟨rfl, rfl, hreg⟩, .of_exec (exec_fence h (by decide)) hfatal hreset ⟨rfl, rfl, hreg⟩⟩

theorem Chip.view_glbFence (c : Chip) (i : Init) : (c.view i R.GLB_FENCE).toNat = c.fenceCount i % 65536 * 65536 := by
  rw [Chip.view, if_neg (by decide), if_neg (by decide), if_pos rfl]
  exact Nat.mod_eq_of_lt (by omega)

theorem completes_fenceRead {s : State} (h : s.chip.atWork = true) {i : Init} (hi : i ≠ .sched)
    (hnew : ∀ e ∈ s.chip.acc.captured, e.1 ≠ latchKey i R.GLB_FENCE) :
    Completes (.fenceRead i) s (fun c => c.rdata.toNat = s.chip.fenceCount i % 65536 * 65536 ∧ c.regs = s.chip.regs) := by
  have hexec := State.act_of_atWork (i := .fenceRead i) h (decide_eq_true hi) (fun c => c.busRead i R.GLB_FENCE)
  rw [Chip.busRead_of_plain h i (by decide)] at hexec
  refine .of_exec hexec (Chip.fatal_of_atWork (c := s.chip) h) (Chip.resetReq_of_atWork (c := s.chip) h) ⟨?_, rfl⟩
  rw [← s.chip.view_glbFence i]
  exact congrArg BitVec.toNat (SMap.get_of_forall_ne _ hnew)

/-! ### The audit -/

/-- LK fields that agree with the shadow are no mismatch. -/
theorem Chip.auditReg_of_agree {c : Chip} {sh : List (Nat × Word)} {a : Nat} (h : ∀ m ∈ lkFields a, c.rn a &&& m = shadowOf sh a &&& m) :
    Chip.auditReg sh c a = c := by
  unfold Chip.auditReg
  dsimp only
  generalize c.rn a = v at h
  generalize shadowOf sh a = x at h
  generalize lkFields a = l at h
  induction l with
  | nil => rfl
  | cons m l ih =>
    rw [List.foldl_cons, if_pos (h m List.mem_cons_self)]
    exact ih fun n hn => h n (List.mem_cons_of_mem m hn)

theorem Chip.foldl_auditReg_of_agree {sh : List (Nat × Word)} : ∀ {l : List Nat} {c : Chip},
    (∀ a ∈ l, ∀ m ∈ lkFields a, c.rn a &&& m = shadowOf sh a &&& m) → l.foldl (Chip.auditReg sh) c = c
  | [], _, _ => rfl
  | a :: l, c, h => by
    rw [List.foldl_cons, Chip.auditReg_of_agree (h a List.mem_cons_self)]
    exact Chip.foldl_auditReg_of_agree fun b hb => h b (List.mem_cons_of_mem a hb)

theorem mem_of_mem_distinct {α : Type} [DecidableEq α] {x : α} : ∀ {l : List α}, x ∈ distinct l → x ∈ l
  | [], h => h
  | y :: l, h => by
    simp only [distinct, List.foldr_cons] at h
    split at h
    · exact List.mem_cons_of_mem _ (mem_of_mem_distinct h)
    · rcases List.mem_cons.1 h with rfl | h
      · exact List.mem_cons_self
      · exact List.mem_cons_of_mem _ (mem_of_mem_distinct h)

theorem exec_registerAudit {s : State} (h : s.chip.atWork = true) : exec (.registerAudit []) s = .next (s.after (doRegisterAudit [] s.chip)) :=
  State.act_of_atWork (i := .registerAudit []) h rfl (doRegisterAudit [])

theorem exec_registerAudit_of_none {s : State} (h : s.chip.atWork = true) (hnone : s.chip.acc.shadow = none) :
    exec (.registerAudit []) s = .next (s.after s.chip) := by
  have hdo : doRegisterAudit [] s.chip = s.chip := by
    rw [doRegisterAudit]
    dsimp only [List.foldl_nil]
    rw [hnone]
  rw [exec_registerAudit h, hdo]

theorem exec_registerAudit_of_agree {s : State} {sh : List (Nat × Word)} (h : s.chip.atWork = true) (hsh : s.chip.acc.shadow = some sh)
    (hactive : s.chip.flag R.GLB_AUDIT_STAT F.GLB_AUDIT_STAT_ACTIVE = true) (halive : s.chip.stw.dead = false)
    (hagree : ∀ e ∈ s.chip.regs ++ sh, ∀ m ∈ lkFields e.1, s.chip.rn e.1 &&& m = shadowOf sh e.1 &&& m) :
    exec (.registerAudit []) s = .next (s.after ((s.chip.pollWait 2 100000).addCnt R.GLB_AUDIT_CNT 1)) := by
  have hpass : ((distinct (s.chip.regs.map (fun e => e.1) ++ sh.map (fun e => e.1))).filter (fun a => decide (lkMask a ≠ 0))).foldl
      (Chip.auditReg sh) (s.chip.pollWait 2 100000) = s.chip.pollWait 2 100000 := Chip.foldl_auditReg_of_agree fun a ha m hm => by
    have hmem := mem_of_mem_distinct (List.mem_filter.1 ha).1
    rw [← List.map_append] at hmem
    obtain ⟨e, he, rfl⟩ := List.mem_map.1 hmem
    rw [Chip.rn_congr (s.chip.reg_pollWait 2 100000 e.1)]
    exact hagree e he m hm
  have hdo : doRegisterAudit [] s.chip = (s.chip.pollWait 2 100000).addCnt R.GLB_AUDIT_CNT 1 := by
    rw [doRegisterAudit]
    dsimp only [List.foldl_nil]
    rw [hsh]
    dsimp only
    exact (if_pos (by rw [hactive, halive]; rfl)).trans (congrArg (fun c => c.addCnt R.GLB_AUDIT_CNT 1) hpass)
  rw [exec_registerAudit h, hdo]

/-- Settles O23: what may be sent is released with the write, a fence counts at once, and agreeing fields are no mismatch. -/
theorem vectorsFencesAudit : Obligations.VectorsFencesAudit :=
  ⟨fun s v h hv => .of_exec (exec_msixVectorUnmask h hv) (Chip.fatal_of_atWork (c := s.chip) h) (Chip.resetReq_of_atWork (c := s.chip) h)
     ⟨s.chip.flag_unmasked v, fun _ ha => s.chip.reg_unmasked_ne ha⟩,
   fun _ _ _ h hv hopen hpend hact ht => sent_of_unmask h hv hopen hpend hact ht,
   fun _ b m f d h => completes_pcieConfigWrite h b m f d, fun _ h => completes_pcieConventionalReset h, fun _ h => completes_fence h,
   fun _ _ h hi hnew => completes_fenceRead h hi hnew,
   fun _ _ h hsh hactive halive hagree => exec_registerAudit_of_agree h hsh hactive halive hagree,
   fun _ h hnone => exec_registerAudit_of_none h hnone⟩

end Sys2Proof.Machine
end

section
/-! What a write of the Common Store can change (R325 to R336). -/

namespace Sys2Proof.Machine

/-- The registers of the Common Store, and those where events are noted. -/
def storeReg (a : Nat) : Prop := (0x500000 ≤ a ∧ a < 0x510000) ∨ noteReg a

/-- Beside the store itself only its registers and what notes events have changed. -/
structure Chip.StoreOnly (c d : Chip) : Prop where
  regs : c.RegsIn storeReg d
  rest : ∃ r v q x, d = { c with regs := r, evt := v, scv := q, cst := x }

section
variable {c d e : Chip}

theorem Chip.StoreOnly.refl (c : Chip) : c.StoreOnly c := ⟨.refl _ c, c.regs, c.evt, c.scv, c.cst, rfl⟩

theorem Chip.StoreOnly.trans (h : c.StoreOnly d) (k : d.StoreOnly e) : c.StoreOnly e := by
  obtain ⟨_, _, _, _, hd⟩ := h.rest
  obtain ⟨r, v, q, x, he⟩ := k.rest
  exact ⟨h.regs.trans k.regs, r, v, q, x, by rw [he, hd]⟩

theorem Chip.StoreOnly.of_events (h : c.EventsOnly d) (k : c.RegsIn storeReg d) : c.StoreOnly d := by
  obtain ⟨r, v, q, hd⟩ := h
  exact ⟨k, r, v, q, c.cst, hd⟩

theorem Chip.StoreOnly.ite {b : Prop} [Decidable b] (h : c.StoreOnly d) (k : c.StoreOnly e) : c.StoreOnly (if b then d else e) := by
  split
  · exact h
  · exact k

theorem Chip.StoreOnly.foldl {α : Type} {f : Chip → α → Chip} (h : ∀ c x, Chip.StoreOnly c (f c x)) (l : List α) (c : Chip) :
    c.StoreOnly (l.foldl f c) := by
  induction l generalizing c with
  | nil => exact .refl c
  | cons x l ih => exact (h c x).trans (ih _)

theorem Chip.StoreOnly.fatal (h : c.StoreOnly d) : d.fatal = c.fatal := by obtain ⟨_, _, _, _, hd⟩ := h.rest; rw [hd]
theorem Chip.StoreOnly.resetReq (h : c.StoreOnly d) : d.resetReq = c.resetReq := by obtain ⟨_, _, _, _, hd⟩ := h.rest; rw [hd]
theorem Chip.StoreOnly.sch (h : c.StoreOnly d) : d.sch = c.sch := by obtain ⟨_, _, _, _, hd⟩ := h.rest; rw [hd]
theorem Chip.StoreOnly.epc (h : c.StoreOnly d) : d.epc = c.epc := by obtain ⟨_, _, _, _, hd⟩ := h.rest; rw [hd]

end

theorem Chip.StoreOnly.setCstCell (c : Chip) (k : Nat) (v : DWord) (b : Nat) (r : Bool) : c.StoreOnly (c.setCstCell k v b r) :=
  ⟨.of_regs rfl, c.regs, c.evt, c.scv, _, rfl⟩

theorem Chip.RegsIn.storeRecord (c : Chip) (t k m : Nat) (l : List Nat) : c.RegsIn storeReg (c.record t k m l) :=
  (Chip.RegsIn.record c t k m l).mono fun _ => .inr

theorem Chip.RegsIn.storeTyped (c : Chip) {e : Nat × Nat} (h : e.1 < 64) : c.RegsIn storeReg (c.raiseTyped e) :=
  (Chip.RegsIn.raiseTyped c h).mono fun _ => .inr

theorem storeReg_of_cst {a : Nat} (h : 0x500000 ≤ a ∧ a < 0x510000) : storeReg a := .inl h

theorem Chip.StoreOnly.cstCe (c : Chip) (s m a : Nat) : c.StoreOnly (c.cstCe s m a) :=
  .of_events (.cstCe c s m a) (((((Chip.RegsIn.addCnt c 1 (storeReg_of_cst (by decide))).trans
    (.setFld _ F.CST_CE_LAST_ADDR a (storeReg_of_cst (by decide)))).trans
    (.setFld _ F.CST_CE_LAST_MASTER m (storeReg_of_cst (by decide)))).trans (.storeTyped _ (by decide))).trans (.storeRecord _ _ _ _ _))

theorem Chip.StoreOnly.cstUe (c : Chip) (s m a : Nat) : c.StoreOnly (c.cstUe s m a) :=
  .of_events (.cstUe c s m a) (((((Chip.RegsIn.addCnt c 1 (storeReg_of_cst (by decide))).trans
    (.setFld _ F.CST_UE_LAST_ADDR a (storeReg_of_cst (by decide)))).trans
    (.setFld _ F.CST_UE_LAST_MASTER m (storeReg_of_cst (by decide)))).trans (.storeTyped _ (by decide))).trans (.storeRecord _ _ _ _ _))

theorem Chip.StoreOnly.cstDropped (c : Chip) (m a : Nat) (p : Bool) : c.StoreOnly (c.cstDropped m a p) := by
  have hlast : storeReg R.CST_DROP_LAST := storeReg_of_cst (by decide)
  exact .of_events (.cstDropped c m a p) (((((Chip.RegsIn.addCnt c 1 (storeReg_of_cst (by decide))).trans
    (.setFld _ F.CST_DROP_LAST_ADDR a hlast)).trans (.setFld _ F.CST_DROP_LAST_MASTER m hlast)).trans
    (.setFlag _ F.CST_DROP_LAST_PARTIAL p hlast)).trans ((Chip.RegsIn.raise _ (by decide)).mono fun _ => .inr))

theorem Chip.StoreOnly.cstRawCheck (c : Chip) (k : Nat) : c.StoreOnly (c.cstRawCheck k) := by
  have hmark : storeReg (if k % 64 < 32 then R.CST_CHK_FAIL_L else R.CST_CHK_FAIL_H) := by
    split
    · exact storeReg_of_cst (by decide)
    · exact storeReg_of_cst (by decide)
  have hset : ∀ v, c.StoreOnly (c.setN (if k % 64 < 32 then R.CST_CHK_FAIL_L else R.CST_CHK_FAIL_H) v) := fun v =>
    .of_events (.setN c _ v) (.setN c v hmark)
  exact iteInduction (motive := fun d => c.StoreOnly d) (fun _ => hset _) (fun _ => .refl c)

theorem Chip.StoreOnly.cstRmwReport (c : Chip) (k a : Nat) (l : List CstAccess) : c.StoreOnly (c.cstRmwReport k a l) := by
  have hone : ∀ (d : Chip) (x : CstAccess), d.StoreOnly (if k = 1 then d.cstCe 2 x.master a else d.cstUe 2 x.master a) := fun d x => by
    split
    · exact .cstCe d 2 x.master a
    · exact .cstUe d 2 x.master a
  unfold Chip.cstRmwReport
  split
  · exact .refl c
  · exact .foldl hone l c

theorem Chip.StoreOnly.cstWriteMerged (c : Chip) (a : Nat) (l : List CstAccess) : c.StoreOnly (c.cstWriteMerged a l) := by
  have hdrop : ∀ (d : Chip) (x : CstAccess), d.StoreOnly (d.cstDropped x.master a false) := fun d x => .cstDropped d x.master a false
  unfold Chip.cstWriteMerged
  dsimp only
  split
  · exact .refl c
  · split
    · exact .foldl hdrop _ c
    · split
      · refine Chip.StoreOnly.trans ?_ (.setCstCell _ _ _ _ _)
        split
        · exact .refl c
        · exact .cstRawCheck c _
      · exact (Chip.StoreOnly.cstRmwReport c _ a _).trans (.setCstCell _ _ _ _ _)

end Sys2Proof.Machine
end

section
/-! The schedule: loading, enabling, firing and waking (R60 to R66, R442). -/

namespace Sys2Proof.Machine

/-! ### The cycle that contains a time (R60) -/

/-- A bisection of a span whose last number has the property finds the least of it. -/
theorem leastFrom_spec {p : Nat → Bool} (hmono : ∀ m n, m ≤ n → p m = true → p n = true) : ∀ (k lo : Nat), p (lo + 2 ^ k - 1) = true →
    p (leastFrom p lo k) = true ∧ ∀ m, lo ≤ m → m < leastFrom p lo k → p m = false
  | 0, lo, h => ⟨h, fun _ hlo hlt => absurd (hlo.trans_lt hlt) (Nat.lt_irrefl _)⟩
  | k + 1, lo, h => by
    have hpos : 0 < 2 ^ k := Nat.two_pow_pos k
    rw [leastFrom]
    split
    next hlow => exact leastFrom_spec hmono k lo hlow
    next hlow =>
      obtain ⟨hat, hbelow⟩ := leastFrom_spec hmono k (lo + 2 ^ k) (by rw [Nat.pow_succ] at h; rwa [show lo + 2 ^ k + 2 ^ k = lo + 2 ^ k * 2 by omega])
      refine ⟨hat, fun m hlo hlt => ?_⟩
      by_cases hm : lo + 2 ^ k ≤ m
      · exact hbelow m hm hlt
      · exact Bool.eq_false_of_not_eq_true fun hpm => hlow (hmono m _ (by omega) hpm)

theorem takeToward_zero (k : Nat) : takeToward 0 k = (0, 0) := by
  rw [takeToward, if_pos (le_refl 0), min_eq_left (Int.natCast_nonneg k)]
  rfl

/-- With no slew in force the keeper advances by nominal cycles. -/
theorem Chip.timeAfter_of_still {c : Chip} (hslew : c.epc.slew = 0) (hcorr : c.epc.corrSlew = none) (n : Nat) :
    c.timeAfter n = c.epc.time + n * fabricCycle := by
  have hs : ∀ k : Nat, (if c.disciplined then takeToward c.epc.slew k else (c.epc.slew, 0)).2 = 0 := fun k => by
    rw [hslew, takeToward_zero]; split <;> rfl
  rw [Chip.timeAfter, Chip.pass, hcorr]
  dsimp only
  rw [hs]
  omega

section
variable {c : Chip} {t : Nat} (hslew : c.epc.slew = 0) (hcorr : c.epc.corrSlew = none) (ht : c.epc.time < t)
include hslew hcorr ht

theorem Chip.cyclesTo_spec : t ≤ c.epc.time + c.cyclesTo t * fabricCycle ∧ ∀ m < c.cyclesTo t, c.epc.time + m * fabricCycle < t := by
  have hreach : ∀ n, decide (t ≤ c.timeAfter n) = decide (t ≤ c.epc.time + n * fabricCycle) := fun n => by
    rw [Chip.timeAfter_of_still hslew hcorr]
  have hlast : decide (t ≤ c.timeAfter (0 + 2 ^ ((2 * ((t - c.epc.time) / fabricCycle + 1)).log2 + 1) - 1)) = true := by
    have hpow : 2 * ((t - c.epc.time) / fabricCycle + 1) < 2 ^ ((2 * ((t - c.epc.time) / fabricCycle + 1)).log2 + 1) := Nat.lt_log2_self
    have hdiv : t - c.epc.time < fabricCycle * ((t - c.epc.time) / fabricCycle + 1) := Nat.lt_mul_div_succ _ fabricCycle_pos
    generalize 2 ^ ((2 * ((t - c.epc.time) / fabricCycle + 1)).log2 + 1) = q at *
    have hmul : fabricCycle * ((t - c.epc.time) / fabricCycle + 1) ≤ (0 + q - 1) * fabricCycle := by
      rw [Nat.mul_comm]
      exact Nat.mul_le_mul_right _ (by omega)
    rw [hreach, decide_eq_true_eq]
    omega
  have hspec := leastFrom_spec (p := fun n => decide (t ≤ c.timeAfter n)) (fun m n hmn hm => by
    simp only [hreach, decide_eq_true_eq] at hm ⊢
    exact hm.trans (Nat.add_le_add_left (Nat.mul_le_mul_right _ hmn) _)) _ 0 hlast
  obtain ⟨hat, hbelow⟩ := hspec
  refine ⟨?_, fun m hm => ?_⟩
  · have := hat
    rw [hreach, decide_eq_true_eq] at this
    exact this
  · have := hbelow m (Nat.zero_le _) hm
    rw [hreach, decide_eq_false_iff_not] at this
    exact Nat.lt_of_not_le this
end

theorem Chip.waitInto_time {c : Chip} {d : Nat} (hslew : c.epc.slew = 0) (hcorr : c.epc.corrSlew = none) (ht : c.epc.time < d * quantum) :
    (c.waitInto d).epc.time ≤ d * quantum ∧ d * quantum < (c.waitInto d).epc.time + fabricCycle := by
  have hpos := fabricCycle_pos
  have htime := Chip.timeAfter_of_still hslew hcorr
  rw [Chip.waitInto, if_pos ht]
  generalize d * quantum = t at *
  obtain ⟨hat, hbelow⟩ := Chip.cyclesTo_spec hslew hcorr ht
  dsimp only
  generalize c.cyclesTo t = n at *
  split
  next heq =>
    rw [show (c.pass n).epc.time = t from heq]
    omega
  next hne =>
    have hn : n ≠ 0 := by
      rintro rfl
      omega
    obtain ⟨m, rfl⟩ := Nat.exists_eq_succ_of_ne_zero hn
    rw [htime] at hne
    have hm := hbelow m (Nat.lt_succ_self m)
    rw [show (c.pass (m + 1 - 1)).epc.time = c.timeAfter m from rfl, htime]
    rw [Nat.succ_mul] at hat hne
    omega

/-! ### Loading and enabling -/

theorem exec_schLoad {s : State} (h : s.chip.atWork = true) (i : Init) {k : Nat} (hk : k < 256) (all : Bool) :
    exec (.schLoad i all k) s = .next (s.after (((s.chip.writing.setFlag R.SCH_CMD F.SCH_CMD_ALL all).setFld R.SCH_CMD F.SCH_CMD_IDX k).schLoad i
      (if all then List.range 256 else [k]))) := by
  have hsafe : ((s.chip.writing.setFlag R.SCH_CMD F.SCH_CMD_ALL all).setFld R.SCH_CMD F.SCH_CMD_IDX k).inSafe = false := by
    rw [Chip.inSafe_setFld_ne _ _ _ (by decide), Chip.setFlag, Chip.inSafe_setFld_ne _ _ _ (by decide)]
    exact Chip.inSafe_of_atWork h
  rw [exec_of_asWrite (i := .schLoad i all k) h (decide_eq_true hk) rfl, doSchLoad, Nat.mod_eq_of_lt hk]
  exact congrArg (fun c => Host.Outcome.next (s.after c)) (if_neg (by rw [hsafe]; decide))

def rowSchCtrl : RegRow :=
  { name := "SCH_CTRL", off := 0x0, stride := 0x0, count := 1, stride2 := 0, count2 := 1, reset := 0x0, lk := 0x803fffff, lks := 0x80000001 }

theorem regRow_schCtrl : regRow R.SCH_CTRL = some rowSchCtrl := by decide

theorem Chip.busWrite_schCtrl {c : Chip} (h : c.atWork = true) (i : Init) (v : Word) (hopen : c.locked = false) :
    c.busWrite i R.SCH_CTRL v = c.writing.schEnable i v.toNat := by
  have htriple : spanOf writeTriples 3 R.SCH_CTRL = none := by decide
  have hvalue : spanOf valuePairs 2 R.SCH_CTRL = none := by decide
  have hbars : c.writing.lkBars R.SCH_CTRL rowSchCtrl v.toNat = false := by
    rw [Chip.lkBars, show c.writing.locked = false from hopen]; rfl
  rw [Chip.busWrite_of_row h i regRow_schCtrl (by decide) rfl rfl]
  simp only [Chip.applyFields, regRow_schCtrl, htriple, hvalue, hbars]
  rfl

theorem Chip.epcHolds_congr {c d : Chip} (h : d.reg R.EPC_STAT = c.reg R.EPC_STAT) : d.epcHolds = c.epcHolds := by
  unfold Chip.epcHolds
  rw [Chip.fld_congr h]

theorem exec_scheduleEnable {s : State} (h : s.chip.atWork = true) {i : Init} (hi : i ≠ .sched) {v : Word} (hopen : s.chip.locked = false)
    (hoff : s.chip.flag R.SCH_CTRL F.SCH_CTRL_EN = false) (hv : bit v.toNat 31 = true) (hholds : s.chip.epcHolds = true) :
    exec (.scheduleEnable i v) s = .next (s.after
      (((s.chip.writing.setFld R.SCH_CTRL F.SCH_CTRL_BASE v.toNat).setFlag R.SCH_CTRL F.SCH_CTRL_EN true).schSweep i)) := by
  have hexec := State.act_of_atWork (i := .scheduleEnable i v) h (decide_eq_true hi) (fun c => c.busWrite i R.SCH_CTRL v)
  have hkeeper : ((s.chip.writing.setFld R.SCH_CTRL F.SCH_CTRL_BASE v.toNat).setFlag R.SCH_CTRL F.SCH_CTRL_EN true).epcHolds = true := by
    rw [Chip.epcHolds_congr (Chip.reg_setFlag_ne _ _ _ (by decide)), Chip.epcHolds_congr (Chip.reg_setFld_ne _ _ _ (by decide))]
    exact hholds
  rw [Chip.busWrite_schCtrl h i v hopen, Chip.schEnable, hv] at hexec
  have hrise : (!s.chip.writing.flag R.SCH_CTRL F.SCH_CTRL_EN && true &&
      ((s.chip.writing.setFld R.SCH_CTRL F.SCH_CTRL_BASE v.toNat).setFlag R.SCH_CTRL F.SCH_CTRL_EN true).epcHolds) = true := by
    rw [hkeeper, show s.chip.writing.flag R.SCH_CTRL F.SCH_CTRL_EN = false from hoff]; rfl
  exact hexec.trans (congrArg (fun c => Host.Outcome.next (s.after c)) (if_pos hrise))

/-! ### Firing -/

theorem exec_scheduleFire {s : State} (h : s.chip.atWork = true) {k : Nat} (hk : k < 256) (hon : s.chip.schOn = true)
    (hen : (s.chip.schEntry k).enable = true) : exec (.scheduleFire k) s = .next (s.after
      ((s.chip.waitInto (s.chip.schEntry k).due).schFireAll ((s.chip.waitInto (s.chip.schEntry k).due).dueNow k) false)) := by
  have hexec := State.act_of_atWork (i := .scheduleFire k) h (decide_eq_true hk) (doScheduleFire k)
  have hports : s.chip.portsOn = true := by rw [Chip.portsOn, Chip.ladder_of_atWork h]; rfl
  have hrun : (s.chip.schOn && (s.chip.schEntry k).enable && s.chip.portsOn) = true := by rw [hon, hen, hports]; rfl
  exact hexec.trans (congrArg (fun c => Host.Outcome.next (s.after c)) (if_pos hrun))

theorem Chip.waitInto_shape (c : Chip) (d : Nat) : ∃ k e, c.waitInto d = { c with cycle := k, epc := e } := by
  unfold Chip.waitInto
  dsimp only
  split
  · exact c.pass_eq _
  · exact ⟨c.cycle, c.epc, rfl⟩

theorem Chip.dueNow_of_one {c : Chip} {k : Nat} {e : SchEntry} (hsch : c.sch = [(k, e)]) (hen : e.enable = true) : c.dueNow k = [(k, e)] := by
  rw [Chip.dueNow, hsch, List.filter_cons_of_pos, List.filter_nil]
  rw [hen, decide_eq_true rfl]
  rfl

theorem Chip.schEntry_of_one {c : Chip} {k : Nat} {e : SchEntry} (hsch : c.sch = [(k, e)]) : c.schEntry k = e := by
  rw [Chip.schEntry, hsch, SMap.get, if_pos rfl]

theorem Chip.StoreOnly.schBack (c : Chip) (k : Nat) (e : SchEntry) : c.StoreOnly (c.schBack k e) := by
  unfold Chip.schBack
  dsimp only
  exact ((Chip.StoreOnly.cstWriteMerged c _ _).trans (.cstWriteMerged _ _ _)).trans (.cstWriteMerged _ _ _)

/-- A firing counted, and its entry as it is then. -/
def Chip.putFired (c : Chip) (k : Nat) (e : SchEntry) : Chip := (c.addCnt R.SCH_FIRED 1).setSch k e

theorem Chip.putFired_fatal (c : Chip) (k : Nat) (e : SchEntry) : (c.putFired k e).fatal = c.fatal := rfl
theorem Chip.putFired_resetReq (c : Chip) (k : Nat) (e : SchEntry) : (c.putFired k e).resetReq = c.resetReq := rfl
theorem Chip.putFired_epc (c : Chip) (k : Nat) (e : SchEntry) : (c.putFired k e).epc = c.epc := rfl
theorem Chip.putFired_sch (c : Chip) (k : Nat) (e : SchEntry) : (c.putFired k e).sch = SMap.set (fun _ => {}) c.sch k e := rfl
theorem Chip.reg_putFired (c : Chip) (k : Nat) (e : SchEntry) : (c.putFired k e).reg R.SCH_FIRED = c.reg R.SCH_FIRED + 1 :=
  c.reg_addCnt_one R.SCH_FIRED

theorem Chip.StoreOnly.record (c : Chip) (x k m : Nat) (l : List Nat) : c.StoreOnly (c.record x k m l) :=
  .of_events (.record c x k m l) (.storeRecord c x k m l)

/-- A one-shot snapshot entry alone: it counts, is disabled, and its snapshot is taken. -/
theorem Chip.schFireAll_of_snapshot {c : Chip} {k : Nat} {e : SchEntry} (hsafe : c.inSafe = false) (hact : e.action = 6) (hper : e.period = 0)
    (hentry : c.schEntry k = e) : Chip.StoreOnly (c.putFired k { e with enable := false })
      (c.schFireAll [(k, e)] false) := by
  have horder : fireOrder [(k, e)] = [(k, e)] := by
    rw [fireOrder, List.foldl_cons, List.foldl_nil, hact]; rfl
  have hact' : (c.addCnt R.SCH_FIRED 1).schAct k e = c.addCnt R.SCH_FIRED 1 := by
    have hcount := (Chip.RegsIn.addCnt (P := (· = R.SCH_FIRED)) c 1 rfl).inSafe (by decide)
    rw [Chip.schAct, hact, Chip.schSnap, hcount, hsafe]
    rfl
  have hfired : e.fired = { e with enable := false } := if_pos hper
  have hfire : c.schFire k false = (c.putFired k { e with enable := false }).schBack k { e with enable := false } := by
    rw [Chip.schFire, hentry, hact', hfired]
    exact if_neg Bool.false_ne_true
  have hback := Chip.StoreOnly.schBack (c.putFired k { e with enable := false }) k { e with enable := false }
  have hsnaps : ∀ d : Chip, d.StoreOnly (d.schSnaps [(k, e)]) := fun d => by
    unfold Chip.schSnaps
    split
    · exact .refl d
    · rw [List.filter_cons_of_pos (by rw [hact]; rfl), List.filter_nil, List.foldl_cons, List.foldl_nil]
      exact .record d _ _ _ _
  rw [Chip.schFireAll, horder, List.foldl_cons, List.foldl_nil, hfire]
  exact hback.trans (hsnaps _)

theorem completes_scheduleFire_snapshot {s : State} (h : s.chip.atWork = true) {k : Nat} {e : SchEntry} (hk : k < 256) (hon : s.chip.schOn = true)
    (hsch : s.chip.sch = [(k, e)]) (hen : e.enable = true) (hact : e.action = 6) (hper : e.period = 0) :
    Completes (.scheduleFire k) s (fun c => c.reg R.SCH_FIRED = s.chip.reg R.SCH_FIRED + 1 ∧ (c.schEntry k).enable = false ∧
      (c.schEntry k).due = e.due ∧
      (s.chip.epc.slew = 0 → s.chip.epc.corrSlew = none → s.chip.epc.time < e.due * quantum →
        c.epc.time ≤ e.due * quantum ∧ e.due * quantum < c.epc.time + fabricCycle)) := by
  have hentry := Chip.schEntry_of_one hsch
  have hexec := exec_scheduleFire h hk hon (by rw [hentry]; exact hen)
  rw [hentry] at hexec
  have htime := Chip.waitInto_time (c := s.chip) (d := e.due)
  obtain ⟨n, p, hwait⟩ := s.chip.waitInto_shape e.due
  have hregs : (s.chip.waitInto e.due).regs = s.chip.regs := by rw [hwait]
  have hfatal : (s.chip.waitInto e.due).fatal = none := by rw [hwait]; exact Chip.fatal_of_atWork (c := s.chip) h
  have hreset : (s.chip.waitInto e.due).resetReq = false := by rw [hwait]; exact Chip.resetReq_of_atWork (c := s.chip) h
  have hsch' : (s.chip.waitInto e.due).sch = [(k, e)] := by rw [hwait]; exact hsch
  clear hwait
  generalize s.chip.waitInto e.due = d at *
  rw [Chip.dueNow_of_one hsch' hen] at hexec
  have hsafe : d.inSafe = false := ((Chip.RegsIn.of_regs (P := fun _ => False) hregs).inSafe id).trans (Chip.inSafe_of_atWork h)
  have hkeep := Chip.schFireAll_of_snapshot hsafe hact hper (Chip.schEntry_of_one hsch')
  generalize d.schFireAll [(k, e)] false = f at *
  have hentry' : f.schEntry k = { e with enable := false } := by
    rw [Chip.schEntry, hkeep.sch, Chip.putFired_sch, SMap.get_set_same]
  have hfired : f.reg R.SCH_FIRED = s.chip.reg R.SCH_FIRED + 1 :=
    (hkeep.regs R.SCH_FIRED (by rw [storeReg, noteReg]; decide)).trans ((d.reg_putFired k _).trans (by rw [Chip.reg_congr hregs]))
  refine .of_exec hexec (hkeep.fatal.trans ((Chip.putFired_fatal _ _ _).trans hfatal))
    (hkeep.resetReq.trans ((Chip.putFired_resetReq _ _ _).trans hreset))
    ⟨hfired, by rw [hentry'], by rw [hentry'], fun hslew hcorr ht => ?_⟩
  rw [hkeep.epc, Chip.putFired_epc]
  exact htime hslew hcorr ht

/-! ### Waking -/

/-- The always-on domain acts outside power-on reset, whatever pends at the bus. -/
theorem Chip.perform_scheduleWake {c : Chip} (hporn : c.pins.porn = false) (k : Nat) (f : Chip → Chip) : c.perform (.scheduleWake k) f = f c := by
  have hadmits : c.admits .aon = true := by rw [Chip.admits.eq_def, hporn]; rfl
  have hhost : c.hostWake (.scheduleWake k) = c := rfl
  have hlink : c.linkLost (.scheduleWake k) = false := rfl
  rw [Chip.perform, hhost, show needOf (.scheduleWake k) = .aon from rfl, hadmits, hlink]
  rfl

/-- In Lull the always-on domain acts, whatever pends at the bus. -/
theorem exec_scheduleWake {s : State} {k : Nat} (hporn : s.chip.pins.porn = false) (hladder : s.chip.ladder = 2) (hup : s.chip.pwr.up = none)
    (hk : k < 256) (hon : s.chip.schOn = true) (hen : (s.chip.schEntry k).enable = true) (hwake : (s.chip.schEntry k).wake = true)
    (hdue : s.chip.pwr.lowAt + second ≤ (s.chip.schEntry k).due * quantum) :
    exec (.scheduleWake k) s = .next (s.after
      ((s.chip.waitTime (((s.chip.schEntry k).due * quantum : Nat) - (100 * micro : Nat))).wakeCause 0 3)) := by
  have hperform := Chip.perform_scheduleWake hporn k (doScheduleWake k)
  have hruns : (s.chip.schOn && (s.chip.schEntry k).enable && (s.chip.schEntry k).wake && wakesFrom 0 s.chip.ladder &&
      decide (s.chip.pwr.lowAt + second ≤ (s.chip.schEntry k).due * quantum) && s.chip.pwr.up.isNone) = true := by
    rw [hon, hen, hwake, hladder, hup, decide_eq_true hdue]; rfl
  have hdo : doScheduleWake k s.chip =
      (s.chip.waitTime (((s.chip.schEntry k).due * quantum : Nat) - (exitMicros s.chip.ladder * micro : Nat))).wakeCause 0 3 := if_pos hruns
  change s.act (.scheduleWake k) (doScheduleWake k) = _
  rw [State.act, if_pos (show (Instr.scheduleWake k).wf = true from decide_eq_true hk), hperform, hdo, hladder, show exitMicros 2 = 100 from rfl]

/-- Settles O26: what is loaded, swept and fired is named by the model's own steps; the cycle entered contains DUE by the least count of
cycles that reach it. -/
theorem scheduleEntries : Obligations.ScheduleEntries :=
  ⟨fun _ i _ h hk => exec_schLoad h i hk false, fun _ i _ h hk => exec_schLoad h i hk true,
   fun _ _ _ h hi hopen hoff hv hholds => exec_scheduleEnable h hi hopen hoff hv hholds,
   fun _ _ h hk hon hen => exec_scheduleFire h hk hon hen,
   fun _ _ _ h hk hon hsch hen hact hper => completes_scheduleFire_snapshot h hk hon hsch hen hact hper,
   fun _ _ hporn hladder _ _ hup hk hon hen hwake hdue => exec_scheduleWake hporn hladder hup hk hon hen hwake hdue⟩

end Sys2Proof.Machine
end

section
/-! The commands of a lane group and of the trigger resources, and the end of CAL (R71, R78, R97, R106). -/

namespace Sys2Proof.Machine

/-! ### Working copies -/

theorem Chip.copyRegs_shape (l : List Nat) (c : Chip) : ∃ w, c.copyRegs l = { c with wcopy := w } := by
  induction l generalizing c with
  | nil => exact ⟨c.wcopy, rfl⟩
  | cons a l ih =>
    obtain ⟨w, hw⟩ := ih (c.copyReg a)
    exact ⟨w, hw⟩

theorem Chip.wreg_copyReg_same (c : Chip) (a : Nat) : (c.copyReg a).wreg a = c.rn a := by
  rw [Chip.wreg, Chip.copyReg, SMap.get_set_same, Chip.rn]

theorem Chip.wreg_copyReg_ne (c : Chip) {a b : Nat} (h : b ≠ a) : (c.copyReg a).wreg b = c.wreg b := by
  rw [Chip.wreg, Chip.copyReg, SMap.get_set_ne _ _ _ h, Chip.wreg]

/-- The registers of the list are in their working copies as they stand. -/
theorem Chip.wreg_copyRegs {a : Nat} : ∀ {l : List Nat} {c : Chip}, a ∈ l → (c.copyRegs l).wreg a = c.rn a := by
  have hkeep : ∀ (l : List Nat) (c : Chip), c.wreg a = c.rn a → (c.copyRegs l).wreg a = c.rn a := by
    intro l
    induction l with
    | nil => exact fun _ h => h
    | cons b l ih =>
      intro c h
      refine (ih (c.copyReg b) ?_)
      by_cases hb : a = b
      · rw [hb, Chip.wreg_copyReg_same]; rfl
      · rw [Chip.wreg_copyReg_ne c hb, h]; rfl
  intro l
  induction l with
  | nil => exact fun h => absurd h List.not_mem_nil
  | cons b l ih =>
    intro c h
    rcases List.mem_cons.1 h with rfl | hl
    · exact hkeep l (c.copyReg a) (c.wreg_copyReg_same a)
    · exact ih (c := c.copyReg b) hl

/-! ### APPLY of a group -/

theorem R.STW_STATE_ne_LG {g : Nat} (hg : g < 8) : R.STW_STATE ≠ R.LG_CMDSTAT g ∧ R.STW_STATE ≠ R.LG_STAT g := by
  simp only [R.STW_STATE, R.LG_CMDSTAT, R.LG_STAT]; omega

theorem exec_lgApply {s : State} (h : s.chip.atWork = true) (i : Init) {g : Nat} (hg : g < 8) (howner : s.chip.owner g = none)
    (hdeskew : s.chip.deskewFault g = none) (hcal : s.chip.flag (R.LG_STAT g) F.LG_STAT_CAL_BUSY = false) :
    exec (.lgApply i g) s = .next (s.after (s.chip.writing.accept (lgPort g) (fun c => c.laneApply g))) := by
  have hreason : s.chip.writing.applyReason g false = 0 := by
    rw [Chip.applyReason, show s.chip.writing.owner g = none from howner, show s.chip.writing.deskewFault g = none from hdeskew,
      show s.chip.writing.flag (R.LG_STAT g) F.LG_STAT_CAL_BUSY = false from hcal]
    rfl
  have hdo : doLgApply i g s.chip.writing = s.chip.writing.command (lgPort g) i none false 0 (fun c => c.laneApply g) := by
    rw [doLgApply, hreason]
    rfl
  exact exec_of_command (i := .lgApply i g) h (decide_eq_true hg) rfl hdo rfl (Chip.inSafe_of_atWork h)

theorem Chip.laneEn_congr {c d : Chip} (h : d.wreg (R.LG_CFG g) = c.wreg (R.LG_CFG g)) : d.laneEn g = c.laneEn g := by
  rw [Chip.laneEn, Chip.wflag, Chip.wfld, h]
  rfl

/-- What APPLY makes of the engine in its registers and working copies: those of the group are copied, and RUNNING shows EN. -/
theorem Chip.laneApply_shape (c : Chip) (g : Nat) : ∃ l, c.laneApply g =
    ((c.copyRegs (laneRegs g)).setFlag (R.LG_STAT g) F.LG_STAT_RUNNING ((c.copyRegs (laneRegs g)).laneEn g)).setLane g l := ⟨_, rfl⟩

/-- The working copies replaced by `w`, RUNNING shown as `b`, the group's state replaced by `l`, and REASON 0. -/
def Chip.applied (c : Chip) (w : List (Nat × Word)) (g : Nat) (b : Bool) (l : Lane) : Chip :=
  { (({ c with wcopy := w }).setFlag (R.LG_STAT g) F.LG_STAT_RUNNING b).setLane g l with lastReason := 0 }

section
variable (c : Chip) (w : List (Nat × Word)) (g : Nat) (b : Bool) (l : Lane)
@[simp] theorem Chip.applied_fatal : (c.applied w g b l).fatal = c.fatal := rfl
@[simp] theorem Chip.applied_resetReq : (c.applied w g b l).resetReq = c.resetReq := rfl
theorem Chip.applied_wreg (a : Nat) : (c.applied w g b l).wreg a = ({ c with wcopy := w } : Chip).wreg a := rfl
theorem Chip.applied_running : (c.applied w g b l).flag (R.LG_STAT g) F.LG_STAT_RUNNING = b :=
  Chip.flag_setFlag { c with wcopy := w } _ _ _ (by decide) rfl
theorem Chip.reg_applied_ne {a : Nat} (h : a ≠ R.LG_STAT g) : (c.applied w g b l).reg a = c.reg a :=
  Chip.reg_setFlag_ne { c with wcopy := w } _ _ h
theorem Chip.keepsMem_applied {k : Chip} (h : k.keepsMem c) : k.keepsMem (c.applied w g b l) := h
end

theorem mem_laneRegs_cfg (g : Nat) : R.LG_CFG g ∈ laneRegs g := List.mem_append_left _ List.mem_cons_self

theorem ne_of_mem_laneRegs {a g : Nat} (h : a ∈ laneRegs g) : a ≠ R.LG_STAT g ∧ a ≠ R.LG_CMDSTAT g := by
  simp only [laneRegs, run, List.mem_append, List.mem_cons, List.not_mem_nil, or_false, List.mem_map, List.mem_range] at h
  simp only [R.LG_CFG, R.LG_STATE, R.LG_CH_CFG, R.LG_STAT, R.LG_CMDSTAT] at h ⊢
  rcases h with (rfl | rfl) | ⟨k, hk, rfl⟩ <;> omega

theorem completes_lgApply {s : State} (h : s.chip.atWork = true) (i : Init) {g : Nat} (hg : g < 8) (howner : s.chip.owner g = none)
    (hdeskew : s.chip.deskewFault g = none) (hcal : s.chip.flag (R.LG_STAT g) F.LG_STAT_CAL_BUSY = false) :
    Completes (.lgApply i g) s (fun c => (∀ a, a ∈ laneRegs g → c.wreg a = s.chip.rn a) ∧
      c.flag (R.LG_STAT g) F.LG_STAT_RUNNING = s.chip.flag (R.LG_CFG g) F.LG_CFG_EN ∧ c.fld (R.LG_CMDSTAT g) reasonFld = 0 ∧
      s.chip.keepsRegs c [R.LG_STAT g, R.LG_CMDSTAT g] ∧ s.chip.keepsMem c) := by
  have hexec := exec_lgApply h i hg howner hdeskew hcal
  have hstat : R.LG_CMDSTAT g ≠ R.LG_STAT g := by simp only [R.LG_CMDSTAT, R.LG_STAT]; omega
  have hreasonreg : ∀ b, b ≠ R.LG_CMDSTAT g → (s.chip.writing.setFld (R.LG_CMDSTAT g) reasonFld 0).reg b = s.chip.reg b := fun b hb =>
    Chip.reg_setFld_ne s.chip.writing _ _ hb
  have hreason : (s.chip.writing.setFld (R.LG_CMDSTAT g) reasonFld 0).fld (R.LG_CMDSTAT g) reasonFld = 0 := Chip.fld_setFld _ _ _ _ (by decide)
  have hmem : s.chip.keepsMem (s.chip.writing.setFld (R.LG_CMDSTAT g) reasonFld 0) := Chip.keepsMem_of_eq rfl rfl
  have hfatal : (s.chip.writing.setFld (R.LG_CMDSTAT g) reasonFld 0).fatal = none := Chip.fatal_of_atWork (c := s.chip) h
  have hreset : (s.chip.writing.setFld (R.LG_CMDSTAT g) reasonFld 0).resetReq = false := Chip.resetReq_of_atWork (c := s.chip) h
  rw [Chip.accept, show (lgPort g).stat = R.LG_CMDSTAT g from rfl] at hexec
  generalize s.chip.writing.setFld (R.LG_CMDSTAT g) reasonFld 0 = d at *
  have hcopied : ∀ a, a ∈ laneRegs g → (d.copyRegs (laneRegs g)).wreg a = s.chip.rn a := fun a ha =>
    (Chip.wreg_copyRegs ha).trans (Chip.rn_congr (hreasonreg a (ne_of_mem_laneRegs ha).2))
  have hen : (d.copyRegs (laneRegs g)).laneEn g = s.chip.flag (R.LG_CFG g) F.LG_CFG_EN := by
    rw [Chip.laneEn, Chip.wflag, Chip.wfld, hcopied _ (mem_laneRegs_cfg g), Chip.flag, Chip.fld]
  obtain ⟨l, hshape⟩ := d.laneApply_shape g
  obtain ⟨w, hw⟩ := d.copyRegs_shape (laneRegs g)
  rw [hshape, hen, hw] at hexec
  rw [hw] at hcopied
  change exec (.lgApply i g) s = .next (s.after (d.applied w g (s.chip.flag (R.LG_CFG g) F.LG_CFG_EN) l)) at hexec
  refine .of_exec hexec ((d.applied_fatal ..).trans hfatal) ((d.applied_resetReq ..).trans hreset)
    ⟨fun a ha => (d.applied_wreg ..).trans (hcopied a ha), d.applied_running .., ?_, fun a ha => ?_, d.keepsMem_applied w g _ l hmem⟩
  · exact (Chip.fld_congr (d.reg_applied_ne w g _ l hstat) _).trans hreason
  · simp only [List.mem_cons, List.not_mem_nil, or_false, not_or] at ha
    exact (d.reg_applied_ne w g _ l ha.1).trans (hreasonreg a ha.2)

/-! ### CAL, TRS APPLY and re-arming -/

theorem exec_lgCal {s : State} (h : s.chip.atWork = true) (i : Init) {g : Nat} (hg : g < 8) (howner : s.chip.owner g = none)
    (hclock : s.chip.sampleOn = true) (hcal : s.chip.flag (R.LG_STAT g) F.LG_STAT_CAL_BUSY = false) :
    exec (.lgCal i g) s = .next (s.after (s.chip.writing.accept (lgPort g) (fun c =>
      (c.setFlag (R.LG_STAT g) F.LG_STAT_CAL_BUSY true).setLane g { c.lane g with calAt := some c.epc.line }))) := by
  have hreason : firstReason [((s.chip.writing.owner g).isSome, 1), (!s.chip.writing.sampleOn, 3),
      (s.chip.writing.flag (R.LG_STAT g) F.LG_STAT_CAL_BUSY, 4)] = 0 := by
    rw [show s.chip.writing.owner g = none from howner, show s.chip.writing.sampleOn = true from hclock,
      show s.chip.writing.flag (R.LG_STAT g) F.LG_STAT_CAL_BUSY = false from hcal]
    rfl
  exact exec_of_command (i := .lgCal i g) h (decide_eq_true hg) rfl rfl hreason (Chip.inSafe_of_atWork h)

theorem exec_trsApply {s : State} (h : s.chip.atWork = true) (i : Init) :
    exec (.trsApply i) s = .next (s.after (s.chip.writing.accept trsPort Chip.trsApply)) :=
  exec_of_command (i := .trsApply i) h rfl rfl rfl rfl (Chip.inSafe_of_atWork h)

theorem exec_detcapRearm {s : State} (h : s.chip.atWork = true) {i : Init} (hi : i ≠ .sched) {g : Nat} (hg : g < 8) (v : Word) :
    exec (.detcapRearm i g v) s = .next (s.after
      (s.chip.writing.setFlag (R.TRS_DETCAP_CH g) F.TRS_DETCAP_CH_VALID (bit v.toNat 31))) := by
  have hwf : (Instr.detcapRearm i g v).wf = true := by simp [Instr.wf, regInit, hi, hg]
  rw [exec_of_asWrite (i := .detcapRearm i g v) h hwf rfl, doDetcapRearm]

/-! ### The end of CAL (R78) -/

/-- The delay that channel k gets, or none. -/
def calDelay (enabled : List Nat) (es : List (Option Nat)) (origin : Option Nat) (k : Nat) : Option Nat :=
  match (es[k]?).getD none, origin with
  | some t, some o => if enabled.contains k && decide (t - o ≤ 1023) then some (t - o) else none
  | _, _ => none

/-- One channel's result is shown. -/
def Chip.calShow (c : Chip) (g k : Nat) (d : Option Nat) : Chip :=
  match d with
  | some v => (c.setFld (R.LG_CH_CAL g k) F.LG_CH_CAL_ARR v).setFlag (R.LG_CH_CAL g k) F.LG_CH_CAL_VALID true
  | none => c.setFlag (R.LG_CH_CAL g k) F.LG_CH_CAL_VALID false

/-- The results of all channels, as `d` gives them. -/
def Chip.calShowAll (c : Chip) (g : Nat) (d : Nat → Option Nat) : Chip := (List.range 32).foldl (fun c k => c.calShow g k (d k)) c

/-- CAL is over. -/
def Chip.calOver (c : Chip) (g : Nat) : Chip :=
  ((c.setLane g { c.lane g with calAt := none }).setFlag (R.LG_STAT g) F.LG_STAT_CAL_BUSY false).raise (Ev.calDone g)

/-- The channels that CAL measures. -/
def Chip.calChannels (c : Chip) (g : Nat) : List Nat := (List.range 32).filter (fun k => c.wflag (R.LG_CH_CFG g k) F.LG_CH_CFG_EN)

theorem doCalEnd_of_running {g t0 : Nat} {es : List (Option Nat)} {c : Chip} (h : (c.lane g).calAt = some t0) :
    ∃ d, (d = c ∧ (∀ k ∈ c.calChannels g, ((es[k]?).getD none).isSome = true) ∨ d = c.waitLine (t0 + 1000 * micro)) ∧
      doCalEnd g es c = (d.calShowAll g (calDelay (c.calChannels g) es
        (minNat ((c.calChannels g).filterMap (fun k => (es[k]?).getD none))))).calOver g := by
  unfold Chip.calChannels
  by_cases hall : ((List.range 32).filter (fun k => c.wflag (R.LG_CH_CFG g k) F.LG_CH_CFG_EN)).all (fun k => ((es[k]?).getD none).isSome) = true
  · refine ⟨c, .inl ⟨rfl, List.all_eq_true.1 hall⟩, ?_⟩
    rw [doCalEnd, h]
    dsimp only
    rw [if_pos hall]
    rfl
  · refine ⟨_, .inr rfl, ?_⟩
    rw [doCalEnd, h]
    dsimp only
    rw [if_neg hall]
    generalize c.waitLine (t0 + 1000 * micro) = d
    rfl

theorem R.LG_CH_CAL_ne {g j k : Nat} (h : j ≠ k) : R.LG_CH_CAL g j ≠ R.LG_CH_CAL g k := by
  simp only [R.LG_CH_CAL]; omega

theorem Chip.reg_calShow_ne (c : Chip) {g k a : Nat} (d : Option Nat) (h : a ≠ R.LG_CH_CAL g k) : (c.calShow g k d).reg a = c.reg a := by
  cases d with
  | none => exact Chip.reg_setFlag_ne _ _ _ h
  | some v => exact (Chip.reg_setFlag_ne _ _ _ h).trans (Chip.reg_setFld_ne _ _ _ h)

/-- A channel's result is what its own step of the run has shown. -/
theorem Chip.reg_calShowAll (c : Chip) (g : Nat) (d : Nat → Option Nat) {k : Nat} (hk : k < 32) :
    ∃ e, (c.calShowAll g d).reg (R.LG_CH_CAL g k) = (Chip.calShow e g k (d k)).reg (R.LG_CH_CAL g k) := by
  obtain ⟨l, m, hlist⟩ := List.append_of_mem (List.mem_range.2 hk)
  have hnodup := List.nodup_range (n := 32)
  rw [hlist] at hnodup
  have hapart : ∀ j ∈ m, R.LG_CH_CAL g k ≠ R.LG_CH_CAL g j := fun j hj =>
    R.LG_CH_CAL_ne fun hkj => (List.nodup_cons.1 (List.nodup_append.1 hnodup).2.1).1 (hkj ▸ hj)
  refine ⟨l.foldl (fun c k => c.calShow g k (d k)) c, ?_⟩
  rw [Chip.calShowAll, hlist, List.foldl_append, List.foldl_cons]
  exact Chip.reg_foldl (fun c j hj => c.reg_calShow_ne _ (hapart j hj)) _

theorem Chip.flag_calShow (c : Chip) (g k : Nat) (d : Option Nat) : (c.calShow g k d).flag (R.LG_CH_CAL g k) F.LG_CH_CAL_VALID = d.isSome := by
  cases d with
  | none => exact Chip.flag_setFlag _ _ _ _ (by decide) rfl
  | some v => exact Chip.flag_setFlag _ _ _ _ (by decide) rfl

theorem Chip.fld_calShow (c : Chip) (g k v : Nat) : (c.calShow g k (some v)).fld (R.LG_CH_CAL g k) F.LG_CH_CAL_ARR = v % 1024 :=
  (Chip.fld_setFlag_of_apart _ _ _ _ _ _ (by decide) (.inl (by decide))).trans (Chip.fld_setFld _ _ _ _ (by decide))

theorem Chip.reg_calOver_ne (c : Chip) {g a : Nat} (ha : a < 0x580000) (h : a ≠ R.LG_STAT g) : (c.calOver g).reg a = c.reg a := by
  rw [Chip.calOver, Chip.reg_raise_ne _ _ (not_mem_eventRegs_of_lt ha _), Chip.reg_setFlag_ne _ _ _ h]
  rfl

theorem Chip.flag_calOver (c : Chip) {g : Nat} (hg : g < 8) : (c.calOver g).flag (R.LG_STAT g) F.LG_STAT_CAL_BUSY = false := by
  have hlow : R.LG_STAT g < 0x580000 := by rw [R.LG_STAT]; omega
  rw [Chip.calOver, Chip.flag_congr (Chip.reg_raise_ne _ _ (not_mem_eventRegs_of_lt hlow _))]
  exact Chip.flag_setFlag _ _ _ _ (by decide) rfl

theorem Chip.calShowAll_shape (c : Chip) (g : Nat) (d : Nat → Option Nat) : ∃ r, c.calShowAll g d = { c with regs := r } := by
  have hone : ∀ (c : Chip) (k : Nat), ∃ r, c.calShow g k (d k) = { c with regs := r } := fun c k => by
    cases d k with
    | none => exact ⟨_, rfl⟩
    | some v => exact ⟨_, rfl⟩
  unfold Chip.calShowAll
  generalize List.range 32 = l
  induction l generalizing c with
  | nil => exact ⟨c.regs, rfl⟩
  | cons k l ih =>
    obtain ⟨r, hr⟩ := hone c k
    obtain ⟨r', hr'⟩ := ih (c.calShow g k (d k))
    exact ⟨r', by rw [List.foldl_cons, hr', hr]⟩

section
variable {s : State} {g t0 : Nat} {es : List (Option Nat)}

theorem calDelay_of_some {enabled : List Nat} {o k t : Nat} (ht : (es[k]?).getD none = some t) (hk : k ∈ enabled) :
    calDelay enabled es (some o) k = if t - o ≤ 1023 then some (t - o) else none := by
  simp only [calDelay, ht, List.contains_iff_mem.2 hk, Bool.true_and, decide_eq_true_eq]

theorem calDelay_of_none {enabled : List Nat} {o : Option Nat} {k : Nat} (h : (es[k]?).getD none = none ∨ k ∉ enabled) :
    calDelay enabled es o k = none := by
  unfold calDelay
  split
  next t o ht =>
    have hk : k ∉ enabled := h.resolve_left (by rw [ht]; exact Option.some_ne_none t)
    exact if_neg (by simp [hk])
  next => rfl

theorem completes_calEnd (h : s.chip.atWork = true) (hg : g < 8) (hes : es.length ≤ 32) (hcal : (s.chip.lane g).calAt = some t0) :
    Completes (.calEnd g es) s (fun c =>
      (∀ k t o, k < 32 → (es[k]?).getD none = some t → s.chip.wflag (R.LG_CH_CFG g k) F.LG_CH_CFG_EN = true →
        minNat ((s.chip.calChannels g).filterMap (fun j => (es[j]?).getD none)) = some o →
        (t - o ≤ 1023 → c.flag (R.LG_CH_CAL g k) F.LG_CH_CAL_VALID = true ∧ c.fld (R.LG_CH_CAL g k) F.LG_CH_CAL_ARR = t - o) ∧
        (1023 < t - o → c.flag (R.LG_CH_CAL g k) F.LG_CH_CAL_VALID = false)) ∧
      (∀ k, k < 32 → ((es[k]?).getD none = none ∨ s.chip.wflag (R.LG_CH_CFG g k) F.LG_CH_CFG_EN = false) →
        c.flag (R.LG_CH_CAL g k) F.LG_CH_CAL_VALID = false) ∧
      c.flag (R.LG_STAT g) F.LG_STAT_CAL_BUSY = false ∧ (c.lane g).calAt = none ∧
      ((∃ k, k < 32 ∧ s.chip.wflag (R.LG_CH_CFG g k) F.LG_CH_CFG_EN = true ∧ (es[k]?).getD none = none) →
        t0 + 1000 * micro ≤ c.epc.line)) := by
  have hexec := State.act_of_atWork (i := .calEnd g es) h (by simp [Instr.wf, hg, hes]) (doCalEnd g es)
  obtain ⟨d, hd, hdo⟩ := doCalEnd_of_running (g := g) (es := es) hcal
  rw [hdo] at hexec
  have hmem : ∀ k, k < 32 → (k ∈ s.chip.calChannels g ↔ s.chip.wflag (R.LG_CH_CFG g k) F.LG_CH_CFG_EN = true) := fun k hk => by
    rw [Chip.calChannels, List.mem_filter, List.mem_range, and_iff_right hk]
  generalize s.chip.calChannels g = enabled at *
  have hline : (∃ k, k < 32 ∧ s.chip.wflag (R.LG_CH_CFG g k) F.LG_CH_CFG_EN = true ∧ (es[k]?).getD none = none) →
      t0 + 1000 * micro ≤ d.epc.line := by
    rintro ⟨k, hk, hen, hnone⟩
    rcases hd with ⟨-, hall⟩ | rfl
    · have := hall k ((hmem k hk).2 hen)
      rw [hnone] at this
      exact absurd this (by decide)
    · exact s.chip.le_line_waitLine _
  have hfatal : d.fatal = none := by
    rcases hd with ⟨rfl, -⟩ | rfl
    · exact Chip.fatal_of_atWork (c := s.chip) h
    · exact (s.chip.waitLine_fatal _).trans (Chip.fatal_of_atWork (c := s.chip) h)
  have hreset : d.resetReq = false := by
    rcases hd with ⟨rfl, -⟩ | rfl
    · exact Chip.resetReq_of_atWork (c := s.chip) h
    · exact (s.chip.waitLine_resetReq _).trans (Chip.resetReq_of_atWork (c := s.chip) h)
  clear hd
  generalize t0 + 1000 * micro = limit at *
  generalize hdelay : calDelay enabled es (minNat (enabled.filterMap (fun k => (es[k]?).getD none))) = delay at hexec
  have hshown : ∀ k, k < 32 → ∃ e, ((d.calShowAll g delay).calOver g).reg (R.LG_CH_CAL g k) = (Chip.calShow e g k (delay k)).reg (R.LG_CH_CAL g k) :=
    fun k hk => by
      obtain ⟨e, he⟩ := d.reg_calShowAll g delay hk
      exact ⟨e, (Chip.reg_calOver_ne _ (by rw [R.LG_CH_CAL]; omega) (by rw [R.LG_CH_CAL, R.LG_STAT]; omega)).trans he⟩
  have hvalid : ∀ k, k < 32 → ((d.calShowAll g delay).calOver g).flag (R.LG_CH_CAL g k) F.LG_CH_CAL_VALID = (delay k).isSome := fun k hk => by
    obtain ⟨e, he⟩ := hshown k hk
    rw [Chip.flag_congr he, Chip.flag_calShow]
  have hbusy := Chip.flag_calOver (d.calShowAll g delay) hg
  obtain ⟨r, hr⟩ := d.calShowAll_shape g delay
  have hover : (d.calShowAll g delay).calOver g = Chip.calOver { d with regs := r } g := by rw [hr]
  refine .of_exec hexec (by rw [hover, Chip.calOver, Chip.raise_fatal]; exact hfatal) (by rw [hover, Chip.calOver, Chip.raise_resetReq]; exact hreset)
    ⟨fun k t o hk ht hen ho => ?_, fun k hk hno => ?_, hbusy, ?_, fun hk => ?_⟩
  · have hdk : delay k = if t - o ≤ 1023 then some (t - o) else none := by
      rw [← hdelay, ho]
      exact calDelay_of_some ht ((hmem k hk).2 hen)
    refine ⟨fun hle => ?_, fun hlt => ?_⟩
    · rw [if_pos hle] at hdk
      obtain ⟨e, he⟩ := hshown k hk
      refine ⟨by rw [hvalid k hk, hdk]; rfl, ?_⟩
      rw [Chip.fld_congr he, hdk, Chip.fld_calShow]
      exact Nat.mod_eq_of_lt (Nat.lt_succ_of_le hle)
    · rw [hvalid k hk, hdk, if_neg (Nat.not_le.2 hlt)]
      rfl
  · have hdk : delay k = none := by
      rw [← hdelay]
      refine calDelay_of_none (hno.imp_right fun hoff hin => ?_)
      rw [(hmem k hk).1 hin] at hoff
      exact Bool.false_ne_true hoff.symm
    rw [hvalid k hk, hdk]
    rfl
  · rw [hover, Chip.calOver, Chip.lane, Chip.raise_lanes, ← Chip.lane, Chip.setFlag, Chip.lane, Chip.setFld_lanes, ← Chip.lane, Chip.lane_setLane]
  · rw [hover, Chip.calOver, Chip.raise_epc]
    exact hline hk
end

/-- Settles O27: the commands are accepted on their conditions, and CAL shows one result for each channel. -/
theorem groupCommands : Obligations.GroupCommands :=
  ⟨fun _ i _ h hg howner hdeskew hcal => exec_lgApply h i hg howner hdeskew hcal,
   fun _ i _ h hg howner hdeskew hcal => completes_lgApply h i hg howner hdeskew hcal,
   fun _ i _ h hg howner hclock hcal => exec_lgCal h i hg howner hclock hcal, fun _ i h => exec_trsApply h i,
   fun _ _ _ v h hi hg => exec_detcapRearm h hi hg v, fun _ _ _ _ h hg hes hcal => completes_calEnd h hg hes hcal⟩

end Sys2Proof.Machine
end

section
/-! The Scrivener's commands, and the end of an EXPORT (R383, R387, R391, R393). -/

namespace Sys2Proof.Machine

/-! ### Raising an event of the engine itself -/

/-- An event of `EVT_STAT0` stays set where its record does not fit the queue. -/
theorem Chip.bit_rn_raise_own (c : Chip) {b : Nat} (hb : b < 24) : bit ((c.raise (0, b)).rn (R.EVT_STAT 0)) b = true := by
  have hset : bit ((c.setEvent 0 b).rn (R.EVT_STAT 0)) b = true := by rw [c.bit_rn_setEvent 0 hb hb, if_pos rfl]
  unfold Chip.raise
  dsimp only
  split
  · exact Chip.bit_rn_record _ _ _ _ _ hb hset
  · exact hset

/-- Producing a record leaves the EXPORT that runs and the Steward's THAW that is due as they are. -/
theorem Chip.record_export (c : Chip) (t k m : Nat) (l : List Nat) :
    (c.record t k m l).scv.exportTo = c.scv.exportTo ∧ (c.record t k m l).scv.thawDue = c.scv.thawDue := by
  unfold Chip.record
  split
  · simp
  · split
    · simp
    · exact ⟨rfl, rfl⟩

theorem Chip.raise_export (c : Chip) (e : Nat × Nat) :
    (c.raise e).scv.exportTo = c.scv.exportTo ∧ (c.raise e).scv.thawDue = c.scv.thawDue := by
  unfold Chip.raise
  dsimp only
  split
  · rw [(Chip.record_export _ _ _ _ _).1, (Chip.record_export _ _ _ _ _).2, Chip.setEvent_scv]
    exact ⟨rfl, rfl⟩
  · rw [Chip.setEvent_scv]
    exact ⟨rfl, rfl⟩

/-! ### The halves -/

/-- The registers of the two halves. -/
def halfReg (a : Nat) : Prop := a ∈ [R.SCV_STAT, halfEnd false, halfEnd true, halfExp false, halfExp true, halfFirst false, halfFirst true]

theorem halfReg_halfEnd (b : Bool) : halfReg (halfEnd b) := by cases b <;> simp [halfReg]
theorem halfReg_halfExp (b : Bool) : halfReg (halfExp b) := by cases b <;> simp [halfReg]
theorem halfReg_halfFirst (b : Bool) : halfReg (halfFirst b) := by cases b <;> simp [halfReg]
theorem halfReg_SCV_STAT : halfReg R.SCV_STAT := List.mem_cons_self

theorem Chip.RegsIn.halfClear (c : Chip) (b : Bool) : c.RegsIn halfReg (c.halfClear b) :=
  (((Chip.RegsIn.of_regs rfl : c.RegsIn halfReg (c.setHalf b {})).trans (.setFld (c.setHalf b {}) _ _ halfReg_SCV_STAT)).trans
    (.setN ((c.setHalf b {}).setFld R.SCV_STAT (halfState b) 0) _ (halfReg_halfEnd b))).trans
    ((Chip.RegsIn.setN (((c.setHalf b {}).setFld R.SCV_STAT (halfState b) 0).setN (halfEnd b) 0) 0 (halfReg_halfExp b)).trans (.of_regs rfl))

theorem Chip.RegsIn.halfRestart (c : Chip) (b : Bool) : c.RegsIn halfReg (c.halfRestart b) :=
  (((Chip.RegsIn.halfClear c b).trans (.setFld _ _ _ halfReg_SCV_STAT)).trans (.setFlag _ _ _ halfReg_SCV_STAT)).trans
    (.setN _ _ (halfReg_halfFirst b))

theorem Chip.half_halfClear (c : Chip) (b : Bool) : (c.halfClear b).half b = {} := by cases b <;> rfl

theorem Chip.half_halfClear_not (c : Chip) (b : Bool) : (c.halfClear b).half (!b) = c.half (!b) := by cases b <;> rfl

theorem Chip.half_halfRestart (c : Chip) (b d : Bool) : (c.halfRestart b).half d = (c.halfClear b).half d := by cases d <;> rfl

/-- A field of SCV_STAT apart from the states of the halves. -/
theorem Chip.flag_halfClear (c : Chip) (b : Bool) {f : Fld} (h : f.lo + f.w ≤ 2 ∨ 6 ≤ f.lo) :
    (c.halfClear b).flag R.SCV_STAT f = c.flag R.SCV_STAT f := by
  have happart : f.lo + f.w ≤ (halfState b).lo ∨ (halfState b).lo + (halfState b).w ≤ f.lo := by
    cases b <;> simp only [halfState, F.SCV_STAT_A_STATE, F.SCV_STAT_B_STATE, Bool.false_eq_true, if_true, if_false] <;> omega
  have hwithin : (halfState b).lo + (halfState b).w ≤ 32 := (halfState_within b).trans (by decide)
  calc (c.halfClear b).flag R.SCV_STAT f
      = ((((c.setHalf b {}).setFld R.SCV_STAT (halfState b) 0).setN (halfEnd b) 0).setN (halfExp b) 0).flag R.SCV_STAT f :=
        Chip.flag_congr rfl f
    _ = ((c.setHalf b {}).setFld R.SCV_STAT (halfState b) 0).flag R.SCV_STAT f :=
        Chip.flag_congr ((Chip.reg_setN_ne _ _ (halfExp_ne_stat b)).trans (Chip.reg_setN_ne _ _ (halfEnd_ne_stat b))) f
    _ = (c.setHalf b {}).flag R.SCV_STAT f := Chip.flag_setFld_of_apart _ _ _ _ _ _ hwithin happart
    _ = c.flag R.SCV_STAT f := Chip.flag_congr rfl f

theorem Chip.flag_halfRestart (c : Chip) (b : Bool) {f : Fld} (h : f.lo + f.w ≤ 2 ∨ 6 ≤ f.lo) (hactive : 1 ≤ f.lo) :
    (c.halfRestart b).flag R.SCV_STAT f = c.flag R.SCV_STAT f := by
  have happart : f.lo + f.w ≤ (halfState b).lo ∨ (halfState b).lo + (halfState b).w ≤ f.lo := by
    cases b <;> simp only [halfState, F.SCV_STAT_A_STATE, F.SCV_STAT_B_STATE, Bool.false_eq_true, if_true, if_false] <;> omega
  rw [Chip.halfRestart, Chip.flag_congr (Chip.reg_setN_ne _ _ (halfFirst_ne_stat b)),
    Chip.flag_setFlag_of_apart _ _ _ _ _ _ (by decide)
      (.inr (show F.SCV_STAT_ACTIVE.lo + F.SCV_STAT_ACTIVE.w ≤ f.lo from hactive)),
    Chip.flag_setFld_of_apart _ _ _ _ _ _ ((halfState_within b).trans (by decide)) happart, Chip.flag_halfClear _ _ h]

theorem Chip.recHalf_halfRestart (c : Chip) (b : Bool) : (c.halfRestart b).recHalf = b := by
  rw [Chip.recHalf, Chip.halfRestart, Chip.flag_congr (Chip.reg_setN_ne _ _ (halfFirst_ne_stat b))]
  exact Chip.flag_setFlag _ _ _ _ (by decide) rfl

/-! ### THAW (R391) -/

/-- The engine with both halves emptied and the freeze ended. -/
def Chip.thawed (c : Chip) : Chip := ((c.halfClear false).halfClear true).setFlag R.SCV_STAT F.SCV_STAT_FROZEN false

theorem Chip.halfFailed_thawed (c : Chip) (b : Bool) : c.thawed.halfFailed b = c.halfFailed b := by
  rw [Chip.thawed, Chip.setFlag, Chip.halfFailed_setFld_apart _ _ _ (by decide) (.inl (by decide)), Chip.halfFailed_halfClear,
    Chip.halfFailed_halfClear]

theorem Chip.half_thawed (c : Chip) (b : Bool) : c.thawed.half b = {} := by cases b <;> rfl

/-- No THAW is due. -/
def Chip.thawTaken (c : Chip) : Chip := { c with scv := { c.scv with thawDue := false } }

section
variable (c : Chip)
theorem Chip.thawTaken_regs : c.thawTaken.regs = c.regs := rfl
theorem Chip.thawTaken_fatal : c.thawTaken.fatal = c.fatal := rfl
theorem Chip.thawTaken_resetReq : c.thawTaken.resetReq = c.resetReq := rfl
theorem Chip.half_thawTaken (b : Bool) : c.thawTaken.half b = c.half b := rfl
end

theorem Chip.thaw_eq (c : Chip) : c.thaw = (c.thawed.halfRestart (c.halfFailed false)).thawTaken := by
  rw [← c.halfFailed_thawed false]
  rfl

theorem Chip.RegsIn.thaw (c : Chip) : c.RegsIn halfReg c.thaw := by
  have hthawed : c.RegsIn halfReg c.thawed := ((Chip.RegsIn.halfClear c false).trans (.halfClear _ true)).trans (.setFlag _ _ _ halfReg_SCV_STAT)
  rw [Chip.thaw_eq]
  exact (hthawed.trans (.halfRestart _ _)).trans (.of_regs (Chip.thawTaken_regs _))

theorem Chip.thaw_resumes (c : Chip) : c.thaw.frozen = false ∧ c.thaw.recHalf = c.halfFailed false := by
  rw [Chip.thaw_eq]
  refine ⟨?_, (Chip.flag_congr (Chip.reg_congr (Chip.thawTaken_regs _) _) _).trans (Chip.recHalf_halfRestart c.thawed _)⟩
  rw [Chip.frozen, Chip.flag_congr (Chip.reg_congr (Chip.thawTaken_regs _) _), Chip.flag_halfRestart _ _ (by decide) (by decide)]
  exact Chip.flag_setFlag _ _ _ _ (by decide) rfl

theorem Chip.half_thaw (c : Chip) (b : Bool) : c.thaw.half b = {} := by
  rw [Chip.thaw_eq, Chip.half_thawTaken, Chip.half_halfRestart]
  generalize c.halfFailed false = d
  by_cases hbd : b = d
  · rw [hbd, Chip.half_halfClear]
  · rw [Bool.eq_not_of_ne hbd, Chip.half_halfClear_not, Chip.half_thawed]

theorem Chip.thaw_empty (c : Chip) : c.thaw.scv.halfA.recs = [] ∧ c.thaw.scv.halfB.recs = [] :=
  ⟨congrArg Half.recs (c.half_thaw false), congrArg Half.recs (c.half_thaw true)⟩

theorem Chip.halfClear_keeps (c : Chip) (b : Bool) : (c.halfClear b).fatal = c.fatal ∧ (c.halfClear b).resetReq = c.resetReq := ⟨rfl, rfl⟩

theorem Chip.halfRestart_keeps (c : Chip) (b : Bool) : (c.halfRestart b).fatal = c.fatal ∧ (c.halfRestart b).resetReq = c.resetReq := by
  obtain ⟨hfatal, hreset⟩ := c.halfClear_keeps b
  rw [Chip.halfRestart, Chip.setN_fatal, Chip.setFlag_fatal, Chip.setFld_fatal, Chip.setN_resetReq, Chip.setFlag_resetReq,
    Chip.setFld_resetReq]
  exact ⟨hfatal, hreset⟩

theorem Chip.thaw_keeps (c : Chip) : c.thaw.fatal = c.fatal ∧ c.thaw.resetReq = c.resetReq := by
  rw [Chip.thaw_eq, Chip.thawTaken_fatal, Chip.thawTaken_resetReq, (Chip.halfRestart_keeps _ _).1, (Chip.halfRestart_keeps _ _).2,
    Chip.thawed, Chip.setFlag_fatal, Chip.setFlag_resetReq, (Chip.halfClear_keeps _ _).1, (Chip.halfClear_keeps _ _).2,
    (Chip.halfClear_keeps _ _).1, (Chip.halfClear_keeps _ _).2]
  exact ⟨rfl, rfl⟩

theorem completes_scvThaw {s : State} (h : s.chip.atWork = true) (i : Init) (hr : s.chip.thawReason = 0) :
    Completes (.scvThaw i) s (fun c => c.frozen = false ∧ c.scv.halfA.recs = [] ∧ c.scv.halfB.recs = [] ∧
      c.reg R.SCV_REC_NO = s.chip.reg R.SCV_REC_NO ∧ c.recHalf = s.chip.halfFailed false ∧ c.fld R.SCV_CMDSTAT reasonFld = 0) := by
  have hexec := exec_of_command (i := .scvThaw i) h rfl rfl rfl (show s.chip.writing.thawReason = 0 from hr) (Chip.inSafe_of_atWork h)
  have hreg : ∀ a, a ≠ R.SCV_CMDSTAT → (s.chip.writing.setFld R.SCV_CMDSTAT reasonFld 0).reg a = s.chip.reg a := fun a ha =>
    Chip.reg_setFld_ne s.chip.writing _ _ ha
  have hreason : (s.chip.writing.setFld R.SCV_CMDSTAT reasonFld 0).fld R.SCV_CMDSTAT reasonFld = 0 := Chip.fld_setFld _ _ _ _ (by decide)
  have hfatal : (s.chip.writing.setFld R.SCV_CMDSTAT reasonFld 0).fatal = none := Chip.fatal_of_atWork (c := s.chip) h
  have hreset : (s.chip.writing.setFld R.SCV_CMDSTAT reasonFld 0).resetReq = false := Chip.resetReq_of_atWork (c := s.chip) h
  rw [Chip.accept, show scvPort.stat = R.SCV_CMDSTAT from rfl] at hexec
  generalize s.chip.writing.setFld R.SCV_CMDSTAT reasonFld 0 = d at *
  have hregs := Chip.RegsIn.thaw d
  obtain ⟨hA, hB⟩ := d.thaw_empty
  obtain ⟨hfrozen, hrec⟩ := d.thaw_resumes
  obtain ⟨kfatal, kreset⟩ := d.thaw_keeps
  have hno : d.thaw.reg R.SCV_REC_NO = s.chip.reg R.SCV_REC_NO :=
    (hregs _ (by unfold halfReg; decide)).trans (hreg _ (by decide))
  have hfail : d.thaw.recHalf = s.chip.halfFailed false := hrec.trans (Chip.halfFailed_congr (hreg _ (by decide)) false)
  have hzero : d.thaw.fld R.SCV_CMDSTAT reasonFld = 0 := (hregs.fld (by unfold halfReg; decide) _).trans hreason
  generalize d.thaw = e at *
  exact .of_exec hexec (kfatal.trans hfatal) (kreset.trans hreset) ⟨hfrozen, hA, hB, hno, hfail, hzero⟩

/-! ### The end of an EXPORT (R387) -/

theorem Chip.RegsIn.markExported (c : Chip) (b : Bool) (hi : Nat) : c.RegsIn halfReg (c.markExported b hi) := by
  unfold Chip.markExported
  dsimp only
  split
  · exact (Chip.RegsIn.setN c _ (halfReg_halfExp b)).trans (.setFld _ _ _ halfReg_SCV_STAT)
  · exact .setN c _ (halfReg_halfExp b)

/-- An EXPORT ends with the halves marked as copied. -/
theorem Chip.markExported_shape (c : Chip) (b : Bool) (hi : Nat) : ∃ r, c.markExported b hi = { c with regs := r } := by
  unfold Chip.markExported
  dsimp only
  split
  · exact ⟨_, rfl⟩
  · exact ⟨_, rfl⟩

/-- The EXPORT that runs is over: its records are in the log, and the halves are marked. -/
def Chip.exportEnd (c : Chip) (t : Nat × Nat) : Chip :=
  let ra := c.exportable false t.1
  let rb := c.exportable true t.2
  let ordered := if c.rn R.SCV_HALFA_FIRST ≤ c.rn R.SCV_HALFB_FIRST then ra ++ rb else rb ++ ra
  let d := ((c.exportRecs ordered).markExported false t.1).markExported true t.2
  { d with scv := { d.scv with exportTo := none } }.setFlag R.SCV_STAT F.SCV_STAT_EXPORTING false

theorem doScvExported_none {c : Chip} {t : Nat × Nat} (h : c.scv.exportTo = some t) :
    doScvExported none c = (c.exportEnd t).raise Ev.scvExported := by
  have hsome : c.scv.exportTo.isNone = false := by rw [h]; rfl
  unfold doScvExported
  rw [hsome, if_neg Bool.false_ne_true]
  simp only [h, Option.getD_some]
  rfl

theorem Chip.exportEnd_keeps (c : Chip) (t : Nat × Nat) : (c.exportEnd t).scv.exportTo = none ∧ (c.exportEnd t).scv.thawDue = c.scv.thawDue ∧
    (c.exportEnd t).fatal = c.fatal ∧ (c.exportEnd t).resetReq = c.resetReq ∧
    (c.exportEnd t).flag R.SCV_STAT F.SCV_STAT_EXPORTING = false ∧ c.RegsIn halfReg (c.exportEnd t) := by
  unfold Chip.exportEnd
  dsimp only
  generalize (if c.rn R.SCV_HALFA_FIRST ≤ c.rn R.SCV_HALFB_FIRST then _ else _) = l
  have hregs : c.RegsIn halfReg (((c.exportRecs l).markExported false t.1).markExported true t.2) :=
    ((Chip.RegsIn.of_regs rfl : c.RegsIn halfReg (c.exportRecs l)).trans (.markExported _ _ _)).trans (.markExported _ _ _)
  obtain ⟨r, hr⟩ := (c.exportRecs l).markExported_shape false t.1
  obtain ⟨r', hr'⟩ := ((c.exportRecs l).markExported false t.1).markExported_shape true t.2
  have hscv : (((c.exportRecs l).markExported false t.1).markExported true t.2).scv.thawDue = c.scv.thawDue := by rw [hr', hr]; rfl
  have hfatal : (((c.exportRecs l).markExported false t.1).markExported true t.2).fatal = c.fatal := by rw [hr', hr]; rfl
  have hreset : (((c.exportRecs l).markExported false t.1).markExported true t.2).resetReq = c.resetReq := by rw [hr', hr]; rfl
  generalize ((c.exportRecs l).markExported false t.1).markExported true t.2 = d at *
  exact ⟨rfl, hscv, hfatal, hreset, Chip.flag_setFlag _ _ _ _ (by decide) rfl,
    hregs.trans ((Chip.RegsIn.of_regs rfl).trans (.setFlag _ _ _ halfReg_SCV_STAT))⟩

theorem completes_scvExported {s : State} {t : Nat × Nat} (h : s.chip.atWork = true) (hdead : s.chip.stw.dead = false)
    (hto : s.chip.scv.exportTo = some t) (hdue : s.chip.scv.thawDue = false) :
    Completes (.scvExported none) s (fun c => c.scv.exportTo = none ∧ c.flag R.SCV_STAT F.SCV_STAT_EXPORTING = false ∧
      bit (c.rn (R.EVT_STAT 0)) 9 = true ∧ c.reg R.SCV_REC_NO = s.chip.reg R.SCV_REC_NO) := by
  have hexec := State.act_of_atWork (i := .scvExported none) h rfl (doScvExportedThaw none)
  obtain ⟨hnone, hthaw, hfatal, hreset, hflag, hregs⟩ := s.chip.exportEnd_keeps t
  obtain ⟨kto, kthaw⟩ := (s.chip.exportEnd t).raise_export Ev.scvExported
  have hdo : doScvExportedThaw none s.chip = (s.chip.exportEnd t).raise Ev.scvExported := by
    unfold doScvExportedThaw
    rw [if_pos (Chip.stwUp_of_atWork h hdead), doScvExported_none hto]
    simp only [kthaw, hthaw, hdue, Bool.false_and, Bool.false_eq_true, if_false]
  rw [hdo] at hexec
  generalize s.chip.exportEnd t = d at *
  exact .of_exec hexec ((d.raise_fatal _).trans (hfatal.trans (Chip.fatal_of_atWork h)))
    ((d.raise_resetReq _).trans (hreset.trans (Chip.resetReq_of_atWork h)))
    ⟨kto.trans hnone, (Chip.flag_congr (d.reg_raise_ne _ (by decide)) _).trans hflag, d.bit_rn_raise_own (by decide),
      (d.reg_raise_ne _ (by decide)).trans (hregs _ (by unfold halfReg; decide))⟩

/-! ### EXPORT, LOAD and LW_CLEAR -/

theorem exec_scvExport {s : State} (h : s.chip.atWork = true) (i : Init) (hidle : s.chip.flag R.SCV_STAT F.SCV_STAT_EXPORTING = false) :
    exec (.scvExport i) s = .next (s.after (s.chip.writing.accept scvPort (fun c => c.exportStart true true))) := by
  have hreason : firstReason [(s.chip.writing.flag R.SCV_STAT F.SCV_STAT_EXPORTING, 0xc0)] = 0 := by
    rw [show s.chip.writing.flag R.SCV_STAT F.SCV_STAT_EXPORTING = false from hidle]
    rfl
  exact exec_of_command (i := .scvExport i) h rfl rfl rfl hreason (Chip.inSafe_of_atWork h)

/-- The engine with LIST and ALL as LOAD's write carries them. -/
def Chip.loadWrite (c : Chip) (b : Bool) (n : Nat) : Chip := (c.setFlag R.SCV_CMD F.SCV_CMD_ALL b).setFld R.SCV_CMD F.SCV_CMD_LIST n

theorem Chip.inSafe_loadWrite (c : Chip) (b : Bool) (n : Nat) : (c.loadWrite b n).inSafe = c.inSafe :=
  (Chip.inSafe_setFld_ne _ _ _ (by decide)).trans (Chip.inSafe_setFld_ne _ _ _ (by decide))

/-- A read changes registers of the Common Store and of events. -/
theorem Chip.RegsIn.cstRead (c : Chip) (m a : Nat) : c.RegsIn storeReg (c.cstRead m a).1 := by
  unfold Chip.cstRead
  split
  · exact (Chip.StoreOnly.cstDropped c m a false).regs
  · dsimp only
    split
    · exact (Chip.StoreOnly.cstRawCheck c _).regs
    · split
      · exact .refl _ c
      · split
        · exact (Chip.StoreOnly.cstCe c _ m a).regs
        · have hue := (Chip.StoreOnly.cstUe c (if m = 20 then 1 else 0) m a).regs
          exact hue.trans (.ite (.of_regs (Chip.declareFatal_regs _ _ _ _ _)) (.refl _ _))

theorem Chip.RegsIn.cstReadList (m : Nat) : ∀ (n a : Nat) (c : Chip), c.RegsIn storeReg (c.cstReadList m a n).1
  | 0, _, c => .refl _ c
  | n + 1, a, c => (Chip.RegsIn.cstRead c m a).trans (Chip.RegsIn.cstReadList m n (a + 1) (c.cstRead m a).1)

theorem Chip.RegsIn.readSnapList (c : Chip) (k : Nat) : c.RegsIn storeReg (c.readSnapList k).1 := by
  have hread := Chip.RegsIn.cstReadList 18 16 (c.rn R.SCV_SNAP_BASE + 16 * k) c
  unfold Chip.readSnapList
  generalize c.cstReadList 18 (c.rn R.SCV_SNAP_BASE + 16 * k) 16 = r at *
  exact hread

theorem Chip.RegsIn.readSnapLists (c : Chip) (l : List Nat) : c.RegsIn storeReg (c.readSnapLists l).1 := by
  unfold Chip.readSnapLists
  refine List.foldlRecOn (motive := fun b : Chip × List (Nat × List Nat) × Nat => c.RegsIn storeReg b.1) l _ (.refl _ c) fun b hb k _ => ?_
  dsimp only
  exact hb.trans (.readSnapList b.1 k)

theorem Chip.RegsIn.loadLists (c : Chip) (b : Bool) (n : Nat) : c.RegsIn storeReg (c.loadLists b n).1 := by
  unfold Chip.loadLists
  dsimp only
  generalize (if b = true then List.range 64 else [n % 64]) = l
  have hread := Chip.RegsIn.readSnapLists c l
  generalize c.readSnapLists l = r at *
  split
  · exact .refl _ c
  · split
    · exact hread
    · split
      · exact hread
      · exact hread.trans (.of_regs rfl)

theorem not_storeReg_STW_STATE : ¬ storeReg R.STW_STATE := fun h => h.elim (by decide) (fun hn => absurd hn.2 (by decide))

theorem Chip.inSafe_loadLists (c : Chip) (b : Bool) (n : Nat) : (c.loadLists b n).1.inSafe = c.inSafe :=
  (Chip.RegsIn.loadLists c b n).inSafe not_storeReg_STW_STATE

theorem exec_scvLoad {s : State} (h : s.chip.atWork = true) (i : Init) (b : Bool) {n : Nat} (hn : n < 64)
    (hr : ((s.chip.writing.loadWrite b n).loadLists b n).2 = 0) :
    exec (.scvLoad i b n) s = .next (s.after (((s.chip.writing.loadWrite b n).loadLists b n).1.accept scvPort id)) := by
  have hsafe : (s.chip.writing.loadWrite b n).inSafe = false := (Chip.inSafe_loadWrite _ _ _).trans (Chip.inSafe_of_atWork h)
  have hdo : doScvLoad i b n s.chip.writing = ((s.chip.writing.loadWrite b n).loadLists b n).1.command scvPort i none false 0 id := by
    unfold doScvLoad
    dsimp only
    rw [show (s.chip.writing.setFlag R.SCV_CMD F.SCV_CMD_ALL b).setFld R.SCV_CMD F.SCV_CMD_LIST n = s.chip.writing.loadWrite b n from rfl,
      hsafe, if_neg Bool.false_ne_true, hr, if_neg (by decide)]
  exact exec_of_command (i := .scvLoad i b n) h (decide_eq_true hn) rfl hdo rfl ((Chip.inSafe_loadLists _ _ _).trans hsafe)

/-- The engine without last words. -/
def Chip.lwCleared (c : Chip) : Chip := { (c.setPair 32 R.SCV_LW_L 0).setFlag R.SCV_AON F.SCV_AON_LW_VALID false with lastReason := 0 }

theorem Chip.lwCleared_fatal (c : Chip) : c.lwCleared.fatal = c.fatal := rfl
theorem Chip.lwCleared_resetReq (c : Chip) : c.lwCleared.resetReq = c.resetReq := rfl
theorem Chip.reg_lwCleared (c : Chip) (a : Nat) :
    c.lwCleared.reg a = ((c.setPair 32 R.SCV_LW_L 0).setFlag R.SCV_AON F.SCV_AON_LW_VALID false).reg a := rfl

theorem Chip.reg_lwCleared_ne (c : Chip) {a : Nat} (hA : a ≠ R.SCV_AON) (hL : a ≠ R.SCV_LW_L) (hH : a ≠ R.SCV_LW_L + 4) :
    c.lwCleared.reg a = c.reg a := by
  rw [Chip.reg_lwCleared, Chip.reg_setFlag_ne _ _ _ hA, Chip.setPair, Chip.reg_setN_ne _ _ hH, Chip.reg_setN_ne _ _ hL]

theorem Chip.lwCleared_words (c : Chip) : c.lwCleared.reg R.SCV_LW_L = 0 ∧ c.lwCleared.reg R.SCV_LW_H = 0 := by
  rw [Chip.reg_lwCleared, Chip.reg_lwCleared, Chip.reg_setFlag_ne _ _ _ (by decide), Chip.reg_setFlag_ne _ _ _ (by decide), Chip.setPair,
    Chip.reg_setN_ne _ _ (by decide)]
  exact ⟨Chip.reg_setReg c _ _, Chip.reg_setReg _ _ _⟩

theorem Chip.flag_lwCleared (c : Chip) : c.lwCleared.flag R.SCV_AON F.SCV_AON_LW_VALID = false :=
  (Chip.flag_congr (c.reg_lwCleared _) _).trans (Chip.flag_setFlag _ _ _ _ (by decide) rfl)

theorem completes_lwClear {s : State} (h : s.chip.atWork = true) (i : Init) :
    Completes (.lwClear i) s (fun c => c.reg R.SCV_LW_L = 0 ∧ c.reg R.SCV_LW_H = 0 ∧ c.flag R.SCV_AON F.SCV_AON_LW_VALID = false ∧
      c.fld R.SCV_CMDSTAT reasonFld = 0) := by
  have hexec := exec_of_command (i := .lwClear i) h rfl rfl rfl rfl (Chip.inSafe_of_atWork h)
  have hreason : (s.chip.writing.setFld R.SCV_CMDSTAT reasonFld 0).fld R.SCV_CMDSTAT reasonFld = 0 := Chip.fld_setFld _ _ _ _ (by decide)
  have hfatal : (s.chip.writing.setFld R.SCV_CMDSTAT reasonFld 0).fatal = none := Chip.fatal_of_atWork (c := s.chip) h
  have hreset : (s.chip.writing.setFld R.SCV_CMDSTAT reasonFld 0).resetReq = false := Chip.resetReq_of_atWork (c := s.chip) h
  change exec (.lwClear i) s = .next (s.after (s.chip.writing.setFld R.SCV_CMDSTAT reasonFld 0).lwCleared) at hexec
  generalize s.chip.writing.setFld R.SCV_CMDSTAT reasonFld 0 = d at *
  exact .of_exec hexec (d.lwCleared_fatal.trans hfatal) (d.lwCleared_resetReq.trans hreset)
    ⟨d.lwCleared_words.1, d.lwCleared_words.2, d.flag_lwCleared,
      (Chip.fld_congr (d.reg_lwCleared_ne (by decide) (by decide) (by decide)) _).trans hreason⟩

/-- Settles O51: each command is accepted; an EXPORT that ends, and a THAW, change registers of the halves and of events. -/
theorem scrivenerCommands : Obligations.ScrivenerCommands :=
  ⟨fun _ i h hidle => exec_scvExport h i hidle, fun _ _ h hdead hto hdue => completes_scvExported h hdead hto hdue,
    fun _ i h hr => completes_scvThaw h i hr, fun _ i b _ h hn hr => exec_scvLoad h i b hn hr, fun _ i h => completes_lwClear h i⟩

end Sys2Proof.Machine
end

section
/-! The mailbox: GO, and the service of a request (R420, R421, Table 18-2). -/

namespace Sys2Proof.Machine

/-! ### GO -/

/-- The register's row. -/
def rowMbCtrl : RegRow :=
  { name := "STW_MB_CTRL", off := 0x0, stride := 0x0, count := 1, stride2 := 0, count2 := 1, reset := 0x0, rwh := 0x1, ro := 0x6 }

theorem regRow_STW_MB_CTRL : ∃ r, regRow R.STW_MB_CTRL = some r ∧ r.gd = 0 ∧ r.cmd = 0 ∧ r.sqc = 0 := by
  exact ⟨rowMbCtrl, by decide, rfl, rfl, rfl⟩

/-- A request is submitted. -/
def Chip.mbSubmit (c : Chip) : Chip :=
  (c.setFlag R.STW_MB_CTRL F.STW_MB_CTRL_GO true).setFlag R.STW_MB_CTRL F.STW_MB_CTRL_DONE false

theorem Chip.mbSubmit_fatal (c : Chip) : c.mbSubmit.fatal = c.fatal := rfl
theorem Chip.mbSubmit_resetReq (c : Chip) : c.mbSubmit.resetReq = c.resetReq := rfl

theorem Chip.reg_mbSubmit_ne (c : Chip) {a : Nat} (h : a ≠ R.STW_MB_CTRL) : c.mbSubmit.reg a = c.reg a :=
  (Chip.reg_setFlag_ne _ _ _ h).trans (Chip.reg_setFlag_ne _ _ _ h)

theorem Chip.flag_mbSubmit (c : Chip) : c.mbSubmit.flag R.STW_MB_CTRL F.STW_MB_CTRL_GO = true ∧
    c.mbSubmit.flag R.STW_MB_CTRL F.STW_MB_CTRL_DONE = false :=
  ⟨(Chip.flag_setFlag_of_apart _ _ _ _ _ _ (by decide) (.inl (by decide))).trans (Chip.flag_setFlag _ _ _ _ (by decide) rfl),
    Chip.flag_setFlag _ _ _ _ (by decide) rfl⟩

theorem Chip.mbGo_of_idle {c : Chip} {v : Nat} (hv : bit v 0 = true) (hgo : c.flag R.STW_MB_CTRL F.STW_MB_CTRL_GO = false) :
    c.mbGo v = c.mbSubmit := by
  rw [Chip.mbGo, hv, hgo]
  rfl

theorem Chip.applyFields_mbCtrl (c : Chip) (i : Init) (v : Word) : c.applyFields i R.STW_MB_CTRL v = c.mbGo v.toNat := by
  obtain ⟨r, hrow, -, -, hsqc⟩ := regRow_STW_MB_CTRL
  have htriple : spanOf writeTriples 3 R.STW_MB_CTRL = none := by decide
  have hpair : spanOf valuePairs 2 R.STW_MB_CTRL = none := by decide
  unfold Chip.applyFields
  rw [hrow]
  dsimp only
  rw [if_neg (not_not.2 hsqc), htriple, hpair]
  rfl

theorem completes_mailboxGo {s : State} (h : s.chip.atWork = true) {i : Init} (hi : i ≠ .sched) {v : Word} (hv : bit v.toNat 0 = true)
    (hgo : s.chip.flag R.STW_MB_CTRL F.STW_MB_CTRL_GO = false) :
    Completes (.mailboxGo i v) s (fun c => c.flag R.STW_MB_CTRL F.STW_MB_CTRL_GO = true ∧ c.flag R.STW_MB_CTRL F.STW_MB_CTRL_DONE = false ∧
      (∀ a, a ≠ R.STW_MB_CTRL → c.reg a = s.chip.reg a)) := by
  have hwf : (Instr.mailboxGo i v).wf = true := by simp [Instr.wf, regInit, hi]
  obtain ⟨r, hrow, hgd, hcmd, -⟩ := regRow_STW_MB_CTRL
  have hexec := State.act_of_atWork (i := .mailboxGo i v) h hwf (fun c => c.busWrite i R.STW_MB_CTRL v)
  rw [Chip.busWrite_of_row h i hrow (by decide) hgd hcmd, Chip.applyFields_mbCtrl, Chip.mbGo_of_idle (c := s.chip.writing) hv hgo] at hexec
  exact .of_exec hexec ((Chip.mbSubmit_fatal _).trans (Chip.fatal_of_atWork (c := s.chip) h))
    ((Chip.mbSubmit_resetReq _).trans (Chip.resetReq_of_atWork (c := s.chip) h))
    ⟨(Chip.flag_mbSubmit _).1, (Chip.flag_mbSubmit _).2, fun a ha => Chip.reg_mbSubmit_ne _ ha⟩

/-! ### The host's request and its response -/

/-- The bytes of the request after the first word, where the service and DLEN stand. -/
def Chip.mbHostRest (c : Chip) : List Nat := wordBytes (((run (R.STW_MB_REQ 0) 64).map c.rn).tail)

theorem wordBytes_cons (x : Nat) (l : List Nat) : wordBytes (x :: l) = leBytes 4 x ++ wordBytes l := rfl

theorem length_wordBytes (l : List Nat) : (wordBytes l).length = 4 * l.length := by
  induction l with
  | nil => rfl
  | cons x l ih => rw [wordBytes_cons, List.length_append, leBytes_length, ih, List.length_cons]; omega

theorem Chip.mbHostReq_eq (c : Chip) : c.mbHostReq = leBytes 4 (c.rn (R.STW_MB_REQ 0)) ++ c.mbHostRest := rfl

theorem Chip.length_mbHostRest (c : Chip) : c.mbHostRest.length = 252 := by
  rw [Chip.mbHostRest, length_wordBytes]
  rfl

/-- A request for service k with no data parses. -/
theorem Chip.mbParse_host {c : Chip} {k : Nat} (hk : k < 256) (hreq : c.rn (R.STW_MB_REQ 0) = k) (limit : Nat) :
    ∃ arg, mbParse c.mbHostReq limit = ({ service := k, arg := arg, data := [], limit := limit }, true) := by
  have hbytes : leBytes 4 k = [k, 0, 0, 0] := by
    simp only [leBytes, List.cons.injEq, and_true]; omega
  refine ⟨slice c.mbHostReq 8 8, ?_⟩
  have hservice : leAt c.mbHostReq 0 2 = k := by
    rw [Chip.mbHostReq_eq, hreq, hbytes]
    simp [leAt, slice, zeros, leNat]
    omega
  have hlen : leAt c.mbHostReq 2 2 = 0 := by
    rw [Chip.mbHostReq_eq, hreq, hbytes]
    simp [leAt, slice, zeros, leNat]
  have hroom : 16 + 0 ≤ c.mbHostReq.length := by
    rw [Chip.mbHostReq_eq, List.length_append, c.length_mbHostRest]; omega
  simp only [mbParse, hservice, hlen, List.take_zero, Nat.zero_le, decide_true, hroom, Bool.and_self]

/-- STATUS and SENSORS are answered with data and change nothing. -/
theorem Chip.mbServe_report {c : Chip} {k : Nat} (hk : k = 1 ∨ k = 2) (hreq : c.rn (R.STW_MB_REQ 0) = k) (limit : Nat) (reply : List Nat) :
    ∃ arg data, c.mbServe c.mbHostReq limit reply = (c, mbResponse k { arg := arg, data := data }, false) := by
  obtain ⟨arg, hparse⟩ := c.mbParse_host (by omega) hreq limit
  unfold Chip.mbServe
  rw [hparse]
  rcases hk with rfl | rfl
  · exact ⟨arg, c.statusRecord, by simp [Chip.mbService, mbNotInSafe, MbReq.ok]⟩
  · exact ⟨arg, c.sensorRecord, by simp [Chip.mbService, mbNotInSafe, MbReq.ok]⟩

/-- The first two words of a response without failure: the service and the length of the data, and nothing. -/
theorem leWords_mbResponse {k : Nat} (hk : k < 256) (arg data : List Nat) : ∃ n l,
    leWords (mbResponse k { arg := arg, data := data }) = (k + 65536 * n) :: 0 :: l := by
  refine ⟨data.length % 65536, leWords (arg ++ data), ?_⟩
  simp [mbResponse, mbFailed, leBytes, leWords, leNat]
  omega

/-! ### The response is posted -/

/-- The words of a response are put in its registers. -/
def Chip.mbPut (c : Chip) (l : List (Nat × Nat)) : Chip := l.foldl (fun c x => c.setN (R.STW_MB_RSP x.2) x.1) c

theorem Chip.mbPut_keeps (l : List (Nat × Nat)) (c : Chip) : (c.mbPut l).fatal = c.fatal ∧ (c.mbPut l).resetReq = c.resetReq := by
  induction l generalizing c with
  | nil => exact ⟨rfl, rfl⟩
  | cons x l ih => exact ih (c.setN (R.STW_MB_RSP x.2) x.1)

theorem Chip.rn_mbPut_ne {a : Nat} (l : List (Nat × Nat)) (c : Chip) (h : ∀ x ∈ l, a ≠ R.STW_MB_RSP x.2) : (c.mbPut l).rn a = c.rn a := by
  induction l generalizing c with
  | nil => rfl
  | cons x l ih =>
    exact (ih _ fun y hy => h y (List.mem_cons_of_mem _ hy)).trans (c.rn_setN_ne _ (h x List.mem_cons_self))

/-- The first two words of a response. -/
theorem Chip.rn_mbPut_first (c : Chip) (x y : Nat) (l : List Nat) :
    (c.mbPut ((x :: y :: l).zipIdx)).rn (R.STW_MB_RSP 0) = x % 2 ^ 32 ∧ (c.mbPut ((x :: y :: l).zipIdx)).rn (R.STW_MB_RSP 1) = y % 2 ^ 32 := by
  have hlater : ∀ k, k < 2 → ∀ z ∈ l.zipIdx 2, R.STW_MB_RSP k ≠ R.STW_MB_RSP z.2 := fun k hk z hz => by
    have := (List.mem_zipIdx hz).1
    simp only [R.STW_MB_RSP]
    omega
  have hcut : c.mbPut ((x :: y :: l).zipIdx) = ((c.setN (R.STW_MB_RSP 0) x).setN (R.STW_MB_RSP 1) y).mbPut (l.zipIdx 2) := rfl
  rw [hcut, Chip.rn_mbPut_ne _ _ (hlater 0 (by decide)), Chip.rn_mbPut_ne _ _ (hlater 1 (by decide)), Chip.rn_setN_ne _ _ (by decide),
    Chip.rn_setN, Chip.rn_setN]
  exact ⟨rfl, rfl⟩

/-- GO clears and DONE sets. -/
def Chip.mbAnswered (c : Chip) : Chip :=
  (c.setFlag R.STW_MB_CTRL F.STW_MB_CTRL_GO false).setFlag R.STW_MB_CTRL F.STW_MB_CTRL_DONE true

theorem Chip.mbAnswered_fatal (c : Chip) : c.mbAnswered.fatal = c.fatal := rfl
theorem Chip.mbAnswered_resetReq (c : Chip) : c.mbAnswered.resetReq = c.resetReq := rfl
theorem Chip.reg_mbAnswered_ne (c : Chip) {a : Nat} (h : a ≠ R.STW_MB_CTRL) : c.mbAnswered.reg a = c.reg a :=
  (Chip.reg_setFlag_ne _ _ _ h).trans (Chip.reg_setFlag_ne _ _ _ h)

theorem Chip.flag_mbAnswered (c : Chip) : c.mbAnswered.flag R.STW_MB_CTRL F.STW_MB_CTRL_GO = false ∧
    c.mbAnswered.flag R.STW_MB_CTRL F.STW_MB_CTRL_DONE = true :=
  ⟨(Chip.flag_setFlag_of_apart _ _ _ _ _ _ (by decide) (.inl (by decide))).trans (Chip.flag_setFlag _ _ _ _ (by decide) rfl),
    Chip.flag_setFlag _ _ _ _ (by decide) rfl⟩

theorem Chip.mbHostPost_eq (c : Chip) (l : List Nat) : c.mbHostPost l = (c.mbPut ((leWords l).zipIdx)).mbAnswered.raise Ev.mbDone := rfl

theorem completes_mailboxServe {s : State} (h : s.chip.atWork = true) (hdead : s.chip.stw.dead = false) (hort : s.chip.stw.ortReq = none)
    (hgo : s.chip.flag R.STW_MB_CTRL F.STW_MB_CTRL_GO = true) {k : Nat} (hk : k = 1 ∨ k = 2) (hreq : s.chip.rn (R.STW_MB_REQ 0) = k) :
    Completes (.mailboxServe []) s (fun c => c.flag R.STW_MB_CTRL F.STW_MB_CTRL_GO = false ∧ c.flag R.STW_MB_CTRL F.STW_MB_CTRL_DONE = true ∧
      bit (c.rn (R.EVT_STAT 4)) 0 = true ∧ c.rn (R.STW_MB_RSP 0) % 65536 = k ∧ c.rn (R.STW_MB_RSP 1) = 0) := by
  obtain ⟨arg, data, hserve⟩ := s.chip.mbServe_report hk hreq 240 []
  obtain ⟨n, l, hwords⟩ := leWords_mbResponse (show k < 256 by omega) arg data
  have hdo : doMailboxServe [] s.chip = (s.chip.mbPut (((k + 65536 * n) :: 0 :: l).zipIdx)).mbAnswered.raise Ev.mbDone := by
    have hhost : s.chip.mbHostServe [] = s.chip.mbHostPost (mbResponse k { arg := arg, data := data }) := by
      unfold Chip.mbHostServe
      rw [hserve]
      rfl
    unfold doMailboxServe
    rw [if_pos (Chip.stwUp_of_atWork h hdead), hort]
    dsimp only
    rw [if_pos hgo, hhost, Chip.mbHostPost_eq, hwords]
  have hexec := State.act_of_atWork (i := .mailboxServe []) h rfl (doMailboxServe [])
  rw [hdo] at hexec
  obtain ⟨hfatal, hreset⟩ := s.chip.mbPut_keeps (((k + 65536 * n) :: 0 :: l).zipIdx)
  obtain ⟨hfirst, hsecond⟩ := s.chip.rn_mbPut_first (k + 65536 * n) 0 l
  rw [Chip.fatal_of_atWork h] at hfatal
  rw [Chip.resetReq_of_atWork h] at hreset
  generalize s.chip.mbPut (((k + 65536 * n) :: 0 :: l).zipIdx) = d at *
  have hkeep : ∀ a, a ≠ R.STW_MB_CTRL → a ∉ eventRegs Ev.mbDone → (d.mbAnswered.raise Ev.mbDone).rn a = d.rn a := fun a hctrl hev =>
    Chip.rn_congr ((Chip.reg_raise_ne _ _ hev).trans (d.reg_mbAnswered_ne hctrl))
  obtain ⟨hgo', hdone⟩ := d.flag_mbAnswered
  refine .of_exec hexec ((Chip.raise_fatal _ _).trans (d.mbAnswered_fatal.trans hfatal))
    ((Chip.raise_resetReq _ _).trans (d.mbAnswered_resetReq.trans hreset))
    ⟨(Chip.flag_congr (Chip.reg_raise_ne _ _ (by decide)) _).trans hgo', (Chip.flag_congr (Chip.reg_raise_ne _ _ (by decide)) _).trans hdone,
      Chip.bit_rn_raise _ (by decide) (by decide) (by decide), ?_, ?_⟩
  · rw [hkeep _ (by decide) (by decide), hfirst]; omega
  · rw [hkeep _ (by decide) (by decide), hsecond, Nat.zero_mod]

/-- Settles O54: GO is a plain bit of the write; an Ortos request comes first, and STATUS and SENSORS answer with a response of status 0. -/
theorem mailboxPath : Obligations.MailboxPath := by
  refine ⟨fun s i v h hi hv hgo => completes_mailboxGo h hi hv hgo, fun s d b l h hl hdead hort => ?_,
    fun s h hdead hort hgo hreq => ?_⟩
  · have hexec := State.act_of_atWork (i := .mailboxServe l) h hl (doMailboxServe l)
    have hdo : doMailboxServe l s.chip = s.chip.mbOrtosServe d b l := by
      unfold doMailboxServe
      rw [if_pos (Chip.stwUp_of_atWork h hdead), hort]
    rwa [hdo] at hexec
  · obtain ⟨c, hexec, hfatal, hreset, hgo', hdone, hbit, hrsp, hstatus⟩ :=
      completes_mailboxServe h hdead hort hgo (k := s.chip.rn (R.STW_MB_REQ 0)) hreq rfl
    exact ⟨c, hexec, hfatal, hreset, hgo', hdone, hbit, hrsp, hstatus⟩

end Sys2Proof.Machine
end

section
/-! The flash slot: its stream, its verification, and boot control (R397, R403, R411, R412). -/

namespace Sys2Proof.Machine

/-! ### What an accepted command leaves -/

/-- The last command gave no reason. -/
def Chip.noReason (c : Chip) : Chip := { c with lastReason := 0 }

section
variable (c : Chip)
@[simp] theorem Chip.noReason_fatal : c.noReason.fatal = c.fatal := rfl
@[simp] theorem Chip.noReason_resetReq : c.noReason.resetReq = c.resetReq := rfl
@[simp] theorem Chip.noReason_regs : c.noReason.regs = c.regs := rfl
@[simp] theorem Chip.noReason_nv : c.noReason.nv = c.nv := rfl
@[simp] theorem Chip.noReason_clk : c.noReason.clk = c.clk := rfl
@[simp] theorem Chip.noReason_epc : c.noReason.epc = c.epc := rfl
@[simp] theorem Chip.noReason_mc : c.noReason.mc = c.mc := rfl
@[simp] theorem Chip.reg_noReason (a : Nat) : c.noReason.reg a = c.reg a := rfl
@[simp] theorem Chip.rn_noReason (a : Nat) : c.noReason.rn a = c.rn a := rfl
@[simp] theorem Chip.fld_noReason (a : Nat) (f : Fld) : c.noReason.fld a f = c.fld a f := rfl
@[simp] theorem Chip.flag_noReason (a : Nat) (f : Fld) : c.noReason.flag a f = c.flag a f := rfl
end

/-- An accepted command has its effect on the engine as it was, but for REASON 0. -/
theorem Completes.of_accept {s : State} {i : Instr} {p : CmdPort} {f : Chip → Chip} {P : Chip → Prop} (h : s.chip.atWork = true)
    (he : exec i s = .next (s.after (s.chip.writing.accept p f)))
    (hf : ∀ d, s.chip.RegsOnly d [p.stat] → d.fld p.stat reasonFld = 0 →
      (f d).fatal = d.fatal ∧ (f d).resetReq = d.resetReq ∧ P (f d).noReason) : Completes i s P := by
  have hd := (Chip.RegsOnly.writing s.chip [p.stat]).trans (.setFld _ reasonFld 0 List.mem_cons_self)
  obtain ⟨hfatal, hreset, hP⟩ := hf _ hd (Chip.fld_setFld _ _ _ _ (by decide))
  exact .of_exec he (hfatal.trans (hd.fatal.trans (Chip.fatal_of_atWork h))) (hreset.trans (hd.resetReq.trans (Chip.resetReq_of_atWork h))) hP

/-! ### A boot control copy read back (R397) -/

/-- One bit of the reflected CRC-32C register. -/
def crcHalve (r : Nat) : Nat := if r % 2 = 1 then (r / 2) ^^^ 0x82f63b78 else r / 2

theorem crcHalve_lt {r : Nat} (h : r < 2 ^ 32) : crcHalve r < 2 ^ 32 := by
  unfold crcHalve
  split
  · exact Nat.xor_lt_two_pow (by omega) (by decide)
  · omega

theorem crc32cByte_lt {r : Nat} (h : r < 2 ^ 32) (b : Nat) : crc32cByte r b < 2 ^ 32 := by
  have hstart : r ^^^ (b % 256) < 2 ^ 32 := Nat.xor_lt_two_pow h (by omega)
  exact crcHalve_lt (crcHalve_lt (crcHalve_lt (crcHalve_lt (crcHalve_lt (crcHalve_lt (crcHalve_lt (crcHalve_lt hstart)))))))

theorem crc32c_lt (l : List Nat) : crc32c l < 2 ^ 32 :=
  Nat.xor_lt_two_pow (List.foldlRecOn (motive := fun r : Nat => r < 2 ^ 32) l _ (by decide) fun _ hr b _ => crc32cByte_lt hr b) (by decide)

/-- The fields of a copy that are bytes. -/
def BootCtl.tail (b : BootCtl) : List Nat := [b.active, b.pending, b.tries, b.flags, 0, 0, 0, 0]

/-- The bytes of a copy before its CRC. -/
def BootCtl.head (b : BootCtl) : List Nat := leBytes 4 0x4c544342 ++ leBytes 4 b.seq ++ b.tail

theorem BootCtl.length_head (b : BootCtl) : b.head.length = 16 := rfl

theorem BootCtl.bytes_eq (b : BootCtl) : b.bytes = b.head ++ leBytes 4 (crc32c b.head) := rfl

theorem BootCtl.leAt_bytes_of_lt (b : BootCtl) {ofs n : Nat} (h : ofs + n ≤ 16) : leAt b.bytes ofs n = leAt b.head ofs n :=
  leAt_append_left (h.trans b.length_head.ge) _

/-- The bytes behind magic and SEQ. -/
theorem BootCtl.leAt_bytes_tail (b : BootCtl) {ofs n : Nat} (h : ofs + n ≤ 8) : leAt b.bytes (8 + ofs) n = leAt b.tail ofs n := by
  rw [b.leAt_bytes_of_lt (by omega)]
  exact leAt_append_right (leBytes 4 0x4c544342 ++ leBytes 4 b.seq) b.tail ofs n

theorem BootCtl.leAt_bytes_magic (b : BootCtl) : leAt b.bytes 0 4 = 0x4c544342 := by
  rw [b.leAt_bytes_of_lt (by decide), BootCtl.head, List.append_assoc, leAt_append_left (by decide), leAt_leBytes (by decide)]
  rfl

theorem BootCtl.leAt_bytes_seq {b : BootCtl} (h : b.seq < 2 ^ 32) : leAt b.bytes 4 4 = b.seq := by
  have hskip := leAt_append_right (leBytes 4 0x4c544342) (leBytes 4 b.seq ++ b.tail) 0 4
  have hlen : (leBytes 4 0x4c544342).length + 0 = 4 := rfl
  rw [hlen] at hskip
  rw [b.leAt_bytes_of_lt (by decide), BootCtl.head, List.append_assoc, hskip, leAt_append_left (leBytes_length 4 b.seq).ge,
    leAt_leBytes (by decide), Nat.pow_zero, Nat.div_one]
  exact Nat.mod_eq_of_lt h

theorem BootCtl.leAt_bytes_crc (b : BootCtl) : leAt b.bytes 16 4 = crc32c b.head := by
  have hskip := leAt_append_right b.head (leBytes 4 (crc32c b.head)) 0 4
  rw [Nat.add_zero, b.length_head] at hskip
  rw [BootCtl.bytes_eq, hskip, leAt_leBytes (by decide), Nat.pow_zero, Nat.div_one]
  exact Nat.mod_eq_of_lt (crc32c_lt _)

theorem BootCtl.slice_bytes (b : BootCtl) : slice b.bytes 0 16 = b.head := by
  have htake : ((b.head ++ leBytes 4 (crc32c b.head)).drop 0).take 16 = b.head := List.take_left' b.length_head
  rw [slice, BootCtl.bytes_eq, htake, b.length_head]
  exact List.append_nil _

theorem bootCtl_ofBytes_bytes {b : BootCtl} (hseq : b.seq < 2 ^ 32) (hactive : b.active < 256) (hpending : b.pending < 256)
    (htries : b.tries < 256) (hflags : b.flags < 256) : BootCtl.ofBytes b.bytes = some b := by
  have hbyte : ∀ x : Nat, x < 256 → leNat [x] = x := fun x hx => by simp [leNat, Nat.mod_eq_of_lt hx]
  have h8 : leAt b.bytes 8 1 = b.active := (b.leAt_bytes_tail (ofs := 0) (by decide)).trans (hbyte _ hactive)
  have h9 : leAt b.bytes 9 1 = b.pending := (b.leAt_bytes_tail (ofs := 1) (by decide)).trans (hbyte _ hpending)
  have h10 : leAt b.bytes 10 1 = b.tries := (b.leAt_bytes_tail (ofs := 2) (by decide)).trans (hbyte _ htries)
  have h11 : leAt b.bytes 11 1 = b.flags := (b.leAt_bytes_tail (ofs := 3) (by decide)).trans (hbyte _ hflags)
  rw [BootCtl.ofBytes, if_pos ⟨b.leAt_bytes_magic, by rw [b.leAt_bytes_crc, b.slice_bytes]⟩, h8, h9, h10, h11, BootCtl.leAt_bytes_seq hseq]

/-! ### The buffer of the slot stream -/

theorem foldl_add_length (l : List (Nat × List Nat)) (n : Nat) :
    l.foldl (fun n b => n + b.2.length) n = n + l.foldl (fun n b => n + b.2.length) 0 := by
  induction l generalizing n with
  | nil => rfl
  | cons b l ih => rw [List.foldl_cons, List.foldl_cons, ih, ih (0 + b.2.length)]; omega

/-- A drain of all the bytes, none of the writes being empty, leaves nothing. -/
theorem drainBuf_of_le : ∀ {l : List (Nat × List Nat)} {n : Nat}, (∀ b ∈ l, b.2 ≠ []) → l.foldl (fun n b => n + b.2.length) 0 ≤ n →
    (drainBuf n l).2 = []
  | [], n, _, _ => by rw [drainBuf]
  | (ofs, d) :: rest, n, hne, hn => by
    have hpos : 0 < d.length := List.length_pos_iff.2 (hne _ List.mem_cons_self)
    rw [List.foldl_cons, foldl_add_length] at hn
    dsimp only at hn
    rw [drainBuf, if_neg (by omega), if_pos (by omega)]
    exact drainBuf_of_le (fun b hb => hne b (List.mem_cons_of_mem _ hb)) (by omega)

/-- `d` is `c` but for what the flash holds and is sent, and the free values used for it. -/
def Chip.SlotOnly (c d : Chip) : Prop := ∃ o k a b, d = { c with out := o, freeCtr := k, boot := { c.boot with slotA := a, slotB := b } }

section
variable {c d e : Chip}

theorem Chip.SlotOnly.refl (c : Chip) : c.SlotOnly c := ⟨_, _, _, _, rfl⟩

theorem Chip.SlotOnly.trans (h : c.SlotOnly d) (k : d.SlotOnly e) : c.SlotOnly e := by
  obtain ⟨o, n, a, b, rfl⟩ := h
  obtain ⟨o', n', a', b', rfl⟩ := k
  exact ⟨o', n', a', b', rfl⟩

theorem Chip.SlotOnly.regs (h : c.SlotOnly d) : d.regs = c.regs := by obtain ⟨o, n, a, b, rfl⟩ := h; rfl
theorem Chip.SlotOnly.nv (h : c.SlotOnly d) : d.nv = c.nv := by obtain ⟨o, n, a, b, rfl⟩ := h; rfl
theorem Chip.SlotOnly.fatal (h : c.SlotOnly d) : d.fatal = c.fatal := by obtain ⟨o, n, a, b, rfl⟩ := h; rfl
theorem Chip.SlotOnly.resetReq (h : c.SlotOnly d) : d.resetReq = c.resetReq := by obtain ⟨o, n, a, b, rfl⟩ := h; rfl
theorem Chip.SlotOnly.runSlot (h : c.SlotOnly d) : d.boot.runSlot = c.boot.runSlot := by obtain ⟨o, n, a, b, rfl⟩ := h; rfl
end

theorem Chip.SlotOnly.emit (c : Chip) (o : Out) : c.SlotOnly (c.emit o) := ⟨_, _, _, _, rfl⟩

theorem Chip.SlotOnly.setSlot (c : Chip) (s : Nat) (f : FlashSlot) : c.SlotOnly (c.setSlot s f) := by
  unfold Chip.setSlot
  split
  · exact ⟨_, _, _, _, rfl⟩
  · exact ⟨_, _, _, _, rfl⟩

theorem Chip.SlotOnly.used (c : Chip) : c.SlotOnly c.used := ⟨_, _, _, _, rfl⟩

theorem Chip.SlotOnly.slotChange (c : Chip) (f : FlashSlot → FlashSlot) : c.SlotOnly (c.slotChange f) :=
  ((Chip.SlotOnly.setSlot c _ _).trans (.used _)).trans (.used _)

theorem Chip.SlotOnly.nvProgramRun (c : Chip) (ofs : Nat) (data : List Nat) : c.SlotOnly (c.nvProgramRun ofs data) := by
  have herase : c.SlotOnly ((sectorsIn ofs data.length).foldl (fun c a => c.nvEraseSector a) c) :=
    List.foldlRecOn (motive := fun d => c.SlotOnly d) _ _ (.refl c) fun d hd a _ => hd.trans ((Chip.SlotOnly.emit d _).trans (.slotChange _ _))
  unfold Chip.nvProgramRun
  dsimp only
  generalize (sectorsIn ofs data.length).foldl (fun c a => c.nvEraseSector a) c = d at *
  exact herase.trans ((Chip.SlotOnly.emit d _).trans (.slotChange _ _))

/-- What a drain has programmed, before the write path is shown. -/
def Chip.nvDrained (c : Chip) (n : Nat) : Chip := (drainBuf n c.nv.buffer).1.foldl (fun c w => c.nvProgramRun w.1 w.2) c

theorem Chip.SlotOnly.nvDrained (c : Chip) (n : Nat) : c.SlotOnly (c.nvDrained n) :=
  List.foldlRecOn (motive := fun d => c.SlotOnly d) _ _ (.refl c) fun d hd w _ => hd.trans (.nvProgramRun d w.1 w.2)

/-- The buffer of the slot stream, or another part of the flash's state, is replaced. -/
def Chip.putNv (c : Chip) (n : Nv) : Chip := { c with nv := n }

section
variable (c : Chip) (n : Nv)
@[simp] theorem Chip.putNv_nv : (c.putNv n).nv = n := rfl
@[simp] theorem Chip.putNv_regs : (c.putNv n).regs = c.regs := rfl
@[simp] theorem Chip.putNv_boot : (c.putNv n).boot = c.boot := rfl
@[simp] theorem Chip.putNv_fatal : (c.putNv n).fatal = c.fatal := rfl
@[simp] theorem Chip.putNv_resetReq : (c.putNv n).resetReq = c.resetReq := rfl
@[simp] theorem Chip.putNv_mc : (c.putNv n).mc = c.mc := rfl
end

section
variable (c : Chip)
@[simp] theorem Chip.nvShow_nv : c.nvShow.nv = c.nv := rfl
@[simp] theorem Chip.nvShow_boot : c.nvShow.boot = c.boot := rfl
@[simp] theorem Chip.nvShow_fatal : c.nvShow.fatal = c.fatal := rfl
@[simp] theorem Chip.nvShow_resetReq : c.nvShow.resetReq = c.resetReq := rfl
@[simp] theorem Chip.nvShow_mc : c.nvShow.mc = c.mc := rfl

theorem Chip.reg_nvShow_ne {a : Nat} (h : a ≠ R.STW_NV_STAT) : c.nvShow.reg a = c.reg a :=
  (Chip.reg_setFlag_ne _ _ _ h).trans (Chip.reg_setFld_ne _ _ _ h)

theorem Chip.flag_nvShow : c.nvShow.flag R.STW_NV_STAT F.STW_NV_STAT_BUSY = (c.nv.verifying || decide (c.nv.erasing ≠ 0)) :=
  Chip.flag_setFlag _ _ _ _ (by decide) rfl

theorem Chip.fld_nvShow : c.nvShow.fld R.STW_NV_STAT F.STW_NV_STAT_BUF_FREE = (262144 - c.nvUsed) / 16 := by
  have hshow : c.nvShow.fld R.STW_NV_STAT F.STW_NV_STAT_BUF_FREE = (262144 - c.nvUsed) / 16 % 2 ^ 16 :=
    (Chip.fld_setFlag_of_apart _ _ _ _ _ _ (by decide) (by decide)).trans (Chip.fld_setFld _ _ _ _ (by decide))
  rw [hshow]
  omega
end

theorem doNvBufferDrain_eq (n : Nat) (c : Chip) :
    doNvBufferDrain n c = ((c.nvDrained n).putNv { (c.nvDrained n).nv with buffer := (drainBuf n c.nv.buffer).2 }).nvShow := rfl

/-- What a drain leaves as it is. -/
theorem doNvBufferDrain_keeps (n : Nat) (c : Chip) : (doNvBufferDrain n c).fatal = c.fatal ∧ (doNvBufferDrain n c).resetReq = c.resetReq ∧
    (doNvBufferDrain n c).boot.runSlot = c.boot.runSlot ∧ (∀ a, a ≠ R.STW_NV_STAT → (doNvBufferDrain n c).reg a = c.reg a) := by
  have hslot := Chip.SlotOnly.nvDrained c n
  rw [doNvBufferDrain_eq]
  generalize c.nvDrained n = d at *
  refine ⟨(Chip.nvShow_fatal _).trans ((d.putNv_fatal _).trans hslot.fatal),
    (Chip.nvShow_resetReq _).trans ((d.putNv_resetReq _).trans hslot.resetReq), ?_, fun a ha => ?_⟩
  · rw [Chip.nvShow_boot, Chip.putNv_boot, hslot.runSlot]
  · exact (Chip.reg_nvShow_ne _ ha).trans ((Chip.reg_congr (d.putNv_regs _) a).trans (Chip.reg_congr hslot.regs a))

theorem completes_nvBufferDrain {s : State} (h : s.chip.atWork = true) {n : Nat} (hn : n ≤ 4294967296)
    (hne : ∀ b, b ∈ s.chip.nv.buffer → b.2 ≠ []) (hused : s.chip.nvUsed ≤ n) :
    Completes (.nvBufferDrain n) s (fun c => c.nv.buffer = [] ∧ c.fld R.STW_NV_STAT F.STW_NV_STAT_BUF_FREE = 16384 ∧
      (∀ a, a ≠ R.STW_NV_STAT → c.reg a = s.chip.reg a)) := by
  have hexec := State.act_of_atWork (i := .nvBufferDrain n) h (decide_eq_true hn) (doNvBufferDrain n)
  obtain ⟨hfatal, hreset, -, hregs⟩ := doNvBufferDrain_keeps n s.chip
  have hbuf : (doNvBufferDrain n s.chip).nv.buffer = [] := by
    rw [doNvBufferDrain_eq, Chip.nvShow_nv, Chip.putNv_nv]
    exact drainBuf_of_le hne hused
  have hfree : (doNvBufferDrain n s.chip).fld R.STW_NV_STAT F.STW_NV_STAT_BUF_FREE = 16384 := by
    have hzero : ((s.chip.nvDrained n).putNv { (s.chip.nvDrained n).nv with buffer := (drainBuf n s.chip.nv.buffer).2 }).nvUsed = 0 :=
      congrArg (List.foldl (fun (n : Nat) (b : Nat × List Nat) => n + b.2.length) 0) (drainBuf_of_le hne hused)
    rw [doNvBufferDrain_eq, Chip.fld_nvShow, hzero]
  exact .of_exec hexec (hfatal.trans (Chip.fatal_of_atWork h)) (hreset.trans (Chip.resetReq_of_atWork h)) ⟨hbuf, hfree, hregs⟩

/-! ### The code of a verification (R403) -/

theorem firstFailing_le {n : Nat} : ∀ {l : List (Option Nat × Nat)}, (∀ k ∈ l.map Prod.snd, k ≤ n) → (firstFailing l).1 ≤ n
  | [], _ => Nat.zero_le n
  | (some _, k) :: _, h => h k List.mem_cons_self
  | (none, _) :: l, h => firstFailing_le (l := l) fun k hk => h k (List.mem_cons_of_mem _ hk)

theorem FlashSlot.codes_checks (f : FlashSlot) (key ok : Bool) :
    (f.checks key ok).map Prod.snd = [1, 2, 3, 4, 5, 6, 7, 8, 9, 10, 11, 12] := rfl

theorem Chip.imgVerify_le (c : Chip) (f : FlashSlot) (ok : Bool) : c.imgVerify f ok ≤ 12 :=
  firstFailing_le (by rw [FlashSlot.codes_checks]; decide)

/-! ### Boot control is updated -/

/-- `d` is `c` but for the copies of boot control and what is sent, and the two registers that show it. -/
def Chip.BctlOnly (c d : Chip) : Prop := (∃ o a b r, d = { c with out := o, regs := r, boot := { c.boot with bctl0 := a, bctl1 := b } }) ∧
  ∀ a, a ≠ R.STW_NV_STAT → a ≠ R.STW_BOOT_STAT → d.reg a = c.reg a

theorem Chip.BctlOnly.refl (c : Chip) : c.BctlOnly c := ⟨⟨_, _, _, _, rfl⟩, fun _ _ _ => rfl⟩

theorem Chip.bctlShow_shape (c : Chip) : ∃ r, c.bctlShow = { c with regs := r } := ⟨_, rfl⟩

/-- A boot control copy as the registers show it. -/
def Chip.bctlShown (c : Chip) (b : BootCtl) : Chip :=
  (((c.setFld R.STW_NV_STAT F.STW_NV_STAT_BCTL_FLAGS b.flags).setFld R.STW_NV_STAT F.STW_NV_STAT_PENDING b.pending).setFld
    R.STW_NV_STAT F.STW_NV_STAT_ACTIVE b.active).setFld R.STW_BOOT_STAT F.STW_BOOT_STAT_TRIES b.tries

theorem Chip.bctlShow_eq (c : Chip) : c.bctlShow = c.bctlShown c.bctl := rfl

theorem Chip.reg_bctlShow (c : Chip) {a : Nat} (hn : a ≠ R.STW_NV_STAT) (hb : a ≠ R.STW_BOOT_STAT) : c.bctlShow.reg a = c.reg a := by
  rw [Chip.bctlShow_eq]
  generalize c.bctl = b
  rw [Chip.bctlShown, Chip.reg_setFld_ne _ _ _ hb, Chip.reg_setFld_ne _ _ _ hn, Chip.reg_setFld_ne _ _ _ hn, Chip.reg_setFld_ne _ _ _ hn]

/-- Another copy of boot control is in the flash. -/
def Chip.putCopies (c : Chip) (o : List Out) (a b : Option BootCtl) : Chip := { c with out := o, boot := { c.boot with bctl0 := a, bctl1 := b } }

theorem Chip.reg_putCopies (c : Chip) (o : List Out) (x y : Option BootCtl) (a : Nat) : (c.putCopies o x y).reg a = c.reg a := rfl

/-- The flash after one copy, the first where `z`, has been erased and written. -/
theorem Chip.emit_emit_copy (c : Chip) (o p : Out) (z : Bool) (b : BootCtl) :
    ({ (c.emit o).emit p with boot := if z = true then { c.boot with bctl0 := some b } else { c.boot with bctl1 := some b } } : Chip) =
      c.putCopies (p :: o :: c.out) (if z then some b else c.boot.bctl0) (if z then c.boot.bctl1 else some b) := by
  cases z with
  | true => rfl
  | false => rfl

theorem Chip.putBctl_eq (c : Chip) (b : BootCtl) : ∃ o x y, c.putBctl b = (c.putCopies o x y).bctlShow :=
  ⟨_, _, _, congrArg Chip.bctlShow (c.emit_emit_copy _ _ _ _)⟩

theorem Chip.putCopies_regs (c : Chip) (o : List Out) (x y : Option BootCtl) (r : List (Nat × Word)) :
    ({ c.putCopies o x y with regs := r } : Chip) = { c with out := o, regs := r, boot := { c.boot with bctl0 := x, bctl1 := y } } := rfl

theorem Chip.BctlOnly.putBctl (c : Chip) (b : BootCtl) : c.BctlOnly (c.putBctl b) := by
  obtain ⟨o, x, y, h⟩ := c.putBctl_eq b
  have hreg : ∀ a, a ≠ R.STW_NV_STAT → a ≠ R.STW_BOOT_STAT → (c.putBctl b).reg a = c.reg a := fun a hn hb => by
    rw [h, Chip.reg_bctlShow _ hn hb, Chip.reg_putCopies]
  obtain ⟨r, hr⟩ := (c.putCopies o x y).bctlShow_shape
  rw [Chip.putCopies_regs] at hr
  exact ⟨⟨o, x, y, r, h.trans hr⟩, hreg⟩

section
variable {c d : Chip} (h : c.BctlOnly d)
include h
theorem Chip.BctlOnly.nv : d.nv = c.nv := by obtain ⟨⟨_, _, _, _, rfl⟩, -⟩ := h; rfl
theorem Chip.BctlOnly.fatal : d.fatal = c.fatal := by obtain ⟨⟨_, _, _, _, rfl⟩, -⟩ := h; rfl
theorem Chip.BctlOnly.resetReq : d.resetReq = c.resetReq := by obtain ⟨⟨_, _, _, _, rfl⟩, -⟩ := h; rfl
theorem Chip.BctlOnly.slot (s : Nat) : d.slot s = c.slot s := by obtain ⟨⟨_, _, _, _, rfl⟩, -⟩ := h; rfl
end

/-! ### The end of a verification -/

theorem Chip.slot_setSlot (c : Chip) (s : Nat) (f : FlashSlot) : (c.setSlot s f).slot s = f := by
  by_cases h : s = 0
  · rw [Chip.slot, if_pos h, Chip.setSlot, if_pos h]
  · rw [Chip.slot, if_neg h, Chip.setSlot, if_neg h]

/-- The engine in which the bytes of the slot are to be judged. -/
def Chip.nvJudged (c : Chip) (v : Bool) (w : Nat) : Chip :=
  (doNvBufferDrain c.nvUsed c).setSlot c.inactive { (doNvBufferDrain c.nvUsed c).slot c.inactive with vendorOk := v, fwVersion := w }

/-- The verification ends with the code k. -/
def Chip.nvEnded (c : Chip) (k s : Nat) : Chip :=
  let d := c.setFld R.STW_NV_VSTAT F.STW_NV_VSTAT_CODE k
  let e := if k = 0 then d.putBctl (d.bctl.setVerified s) else d
  (e.putNv { e.nv with verifying := false, verifyFor := none }).nvShow

theorem Chip.nvVerified_eq (c : Chip) (o v : Bool) (w : Nat) : (c.nvVerified o v w).1 =
    ((c.nvJudged v w).nvEnded ((c.nvJudged v w).imgVerify ((c.nvJudged v w).slot c.inactive) o) c.inactive).raise Ev.nvVerifyDone := rfl

theorem Chip.nvEnded_spec (c : Chip) {k : Nat} (hk : k < 256) (s : Nat) : (c.nvEnded k s).fatal = c.fatal ∧
    (c.nvEnded k s).resetReq = c.resetReq ∧ (c.nvEnded k s).nv.verifying = false ∧ (c.nvEnded k s).nv.buffer = c.nv.buffer ∧
    (c.nvEnded k s).fld R.STW_NV_VSTAT F.STW_NV_VSTAT_CODE = k ∧ ∀ t, (c.nvEnded k s).slot t = c.slot t := by
  have hcode : (c.setFld R.STW_NV_VSTAT F.STW_NV_VSTAT_CODE k).fld R.STW_NV_VSTAT F.STW_NV_VSTAT_CODE = k :=
    (Chip.fld_setFld _ _ _ _ (by decide)).trans (Nat.mod_eq_of_lt hk)
  unfold Chip.nvEnded
  dsimp only
  have hslot : ∀ t, (c.setFld R.STW_NV_VSTAT F.STW_NV_VSTAT_CODE k).slot t = c.slot t := fun _ => rfl
  have hfatal := Chip.setFld_fatal c R.STW_NV_VSTAT F.STW_NV_VSTAT_CODE k
  have hreset := Chip.setFld_resetReq c R.STW_NV_VSTAT F.STW_NV_VSTAT_CODE k
  have hnv := Chip.setFld_nv c R.STW_NV_VSTAT F.STW_NV_VSTAT_CODE k
  generalize c.setFld R.STW_NV_VSTAT F.STW_NV_VSTAT_CODE k = d at *
  have hb : d.BctlOnly (if k = 0 then d.putBctl (d.bctl.setVerified s) else d) := by
    split
    · exact .putBctl d _
    · exact .refl d
  generalize (if k = 0 then d.putBctl (d.bctl.setVerified s) else d) = e at *
  refine ⟨?_, ?_, rfl, ?_, ?_, fun t => ?_⟩
  · rw [Chip.nvShow_fatal, Chip.putNv_fatal, hb.fatal, hfatal]
  · rw [Chip.nvShow_resetReq, Chip.putNv_resetReq, hb.resetReq, hreset]
  · rw [Chip.nvShow_nv, Chip.putNv_nv]
    exact (congrArg Nv.buffer hb.nv).trans (congrArg Nv.buffer hnv)
  · exact (Chip.fld_congr ((Chip.reg_nvShow_ne _ (by decide)).trans ((Chip.reg_congr (e.putNv_regs _) _).trans
      (hb.2 _ (by decide) (by decide)))) _).trans hcode
  · exact (hb.slot t).trans (hslot t)

theorem Chip.imgVerify_congr {c d : Chip} (h : d.regs = c.regs) (f : FlashSlot) (o : Bool) : d.imgVerify f o = c.imgVerify f o := by
  have hrn : d.rn = c.rn := funext fun a => Chip.rn_congr (Chip.reg_congr h a)
  have hkey : ∀ j, d.keyHash j = c.keyHash j := fun j => by rw [Chip.keyHash, hrn, Chip.keyHash]
  rw [Chip.imgVerify, Chip.imgFault, Chip.keyOk, hkey, hkey]
  rfl

theorem Chip.raise_slot (c : Chip) (e : Nat × Nat) (t : Nat) : (c.raise e).slot t = c.slot t := by
  rw [Chip.slot, Chip.raise_boot, Chip.slot]

theorem completes_nvVerifyDone {s : State} (h : s.chip.atWork = true) (o v : Bool) {w : Nat} (hw : w < 4294967296)
    (hdead : s.chip.stw.dead = false) (hverify : s.chip.nv.verifying = true) (hfor : s.chip.nv.verifyFor = none) :
    let d := doNvBufferDrain s.chip.nvUsed s.chip
    let f := { d.slot s.chip.inactive with vendorOk := v, fwVersion := w }
    Completes (.nvVerifyDone o v w) s (fun c => c.nv.verifying = false ∧ c.nv.buffer = d.nv.buffer ∧ bit (c.rn (R.EVT_STAT 4)) 7 = true ∧
      c.fld R.STW_NV_VSTAT F.STW_NV_VSTAT_CODE = d.imgVerify f o ∧ c.slot s.chip.inactive = f) := by
  intro d f
  have hdo : doNvVerifyDone o v w s.chip = (s.chip.nvVerified o v w).1 := by
    unfold doNvVerifyDone
    rw [hverify, Chip.stwUp_of_atWork h hdead, Bool.and_self, if_pos rfl, hfor]
  have hexec := State.act_of_atWork (i := .nvVerifyDone o v w) h (decide_eq_true hw) (doNvVerifyDone o v w)
  obtain ⟨hfatal, hreset, -, -⟩ := doNvBufferDrain_keeps s.chip.nvUsed s.chip
  have hjudged := Chip.SlotOnly.setSlot d s.chip.inactive f
  have hslot : (s.chip.nvJudged v w).slot s.chip.inactive = f := d.slot_setSlot _ f
  have hsame : s.chip.nvJudged v w = d.setSlot s.chip.inactive f := rfl
  rw [hdo, Chip.nvVerified_eq, hslot, hsame, Chip.imgVerify_congr hjudged.regs] at hexec
  rw [hsame] at hslot
  obtain ⟨kfatal, kreset, hdone, hbuf, hcode, hkeep⟩ :=
    (d.setSlot s.chip.inactive f).nvEnded_spec (k := d.imgVerify f o) ((d.imgVerify_le f o).trans_lt (by decide)) s.chip.inactive
  generalize (d.setSlot s.chip.inactive f).nvEnded (d.imgVerify f o) s.chip.inactive = e at *
  refine .of_exec hexec ?_ ?_ ⟨?_, ?_, Chip.bit_rn_raise _ (by decide) (by decide) (by decide), ?_, ?_⟩
  · rw [Chip.raise_fatal, kfatal, hjudged.fatal]; exact hfatal.trans (Chip.fatal_of_atWork h)
  · rw [Chip.raise_resetReq, kreset, hjudged.resetReq]; exact hreset.trans (Chip.resetReq_of_atWork h)
  · rw [Chip.raise_nv, hdone]
  · rw [Chip.raise_nv, hbuf, hjudged.nv]
  · rw [Chip.fld_congr (Chip.reg_raise_ne _ _ (by decide)), hcode]
  · rw [Chip.raise_slot, hkeep, hslot]

/-! ### The commands of the slot -/

/-- The flash with a verification of the host's running. -/
def Nv.judging (n : Nv) : Nv := { n with verifying := true, verifyFor := none }

theorem completes_nvVerify {s : State} (h : s.chip.atWork = true) (i : Init) (hbusy : s.chip.nvBusy = false) :
    Completes (.nvVerify i) s (fun c => c.nv.verifying = true ∧ c.nv.verifyFor = none ∧ c.flag R.STW_NV_STAT F.STW_NV_STAT_BUSY = true ∧
      c.fld R.STW_NV_CMDSTAT reasonFld = 0) := by
  have hfree : (if s.chip.writing.nvBusy then 0xd0 else 0) = 0 := if_neg (by rw [show s.chip.writing.nvBusy = false from hbusy]; decide)
  refine .of_accept h (exec_of_command (i := .nvVerify i) h rfl rfl rfl hfree (Chip.inSafe_of_atWork h)) fun d hd hreason => ?_
  have hstart : d.nvVerifyStart none = (d.putNv d.nv.judging).nvShow := rfl
  rw [hstart, Chip.nvShow_fatal, Chip.nvShow_resetReq, Chip.noReason_nv, Chip.nvShow_nv]
  refine ⟨rfl, rfl, rfl, rfl, ?_, ?_⟩
  · rw [Chip.flag_noReason, Chip.flag_nvShow]
    rfl
  · rw [Chip.fld_noReason, Chip.fld_congr (Chip.reg_nvShow_ne _ (by decide)), Chip.fld_congr (Chip.reg_congr (d.putNv_regs _) _)]
    exact hreason

/-- A read of sound words outside RAW returns them and changes nothing. -/
theorem Chip.cstReadList_of_sound_of_not_raw {c : Chip} (m : Nat) (hraw : c.cstRawOn = false) : ∀ {n a : Nat}, (∀ k, k < n → c.cstSound (a + k)) →
    c.cstReadList m a n = (c, (List.range n).map (fun k => c.cstCell (c.cstPhys (a + k))), 0)
  | 0, _, _ => rfl
  | n + 1, a, hs => by
    have hfirst := Chip.cstRead_of_sound_of_not_raw (hs 0 (Nat.succ_pos n)) hraw m
    have hrest := Chip.cstReadList_of_sound_of_not_raw m hraw (n := n) (a := a + 1) fun k hk => by
      rw [Nat.add_assoc, Nat.add_comm 1 k]; exact hs (k + 1) (Nat.succ_lt_succ hk)
    rw [Nat.add_zero] at hfirst
    simp [Chip.cstReadList, hfirst, hrest, List.range_succ_eq_map, Nat.add_comm, Nat.add_left_comm]

/-- Registers other than the profile in force leave the layout of the store. -/
theorem Chip.RegsOnly.cstPhys_of_notMem {c d : Chip} {l : List Nat} (h : c.RegsOnly d l) (hl : R.GLB_PROFILE_EFF ∉ l) (a : Nat) :
    d.cstPhys a = c.cstPhys a := by
  rw [Chip.cstPhys, Chip.cstDegraded, h.flag hl, h.fld hl, Chip.cstPhys, Chip.cstDegraded]

theorem Chip.RegsOnly.cstSound_of_notMem {c d : Chip} {l : List Nat} (h : c.RegsOnly d l) (hl : R.GLB_PROFILE_EFF ∉ l) {a : Nat}
    (hs : c.cstSound a) : d.cstSound a := by
  have hwords : d.cstWords = c.cstWords := by rw [Chip.cstWords, Chip.cstDegraded, h.flag hl, Chip.cstWords, Chip.cstDegraded]
  rw [Chip.cstSound, h.cstPhys_of_notMem hl, hwords, Chip.cstBad, Chip.cstRaw, h.cst]
  exact hs

/-- What an accepted PROGRAM does. -/
def nvProgramTake (a n ofs len : Nat) (c : Chip) : Chip :=
  if (c.cstReadList 18 a n).2.2 = 2 then (c.cstReadList 18 a n).1.stwReadFailed (c.firstUe a n)
  else (c.cstReadList 18 a n).1.nvTake ofs ((dwordBytes (c.cstReadList 18 a n).2.1).take len)

/-- Words beyond the store are refused. -/
theorem Chip.nvWriteReason_ne_zero (c : Chip) (ofs len : Nat) : c.nvWriteReason ofs len true ≠ 0 := by
  simp only [Chip.nvWriteReason, firstReason, Bool.or_true, if_true]
  split
  · decide
  · split
    · decide
    · decide

section
variable {s : State} (h : s.chip.atWork = true)
include h

theorem exec_nvProgram (i : Init) {n a ofs len : Nat} (hn : n = (len + 7) / 8) (ha : s.chip.fld R.STW_NV_SRC F.STW_NV_SRC_SRC = a)
    (hofs : s.chip.rn R.STW_NV_OFS = ofs) (hlen : s.chip.fld R.STW_NV_LEN F.STW_NV_LEN_LEN = len)
    (hr : s.chip.nvWriteReason ofs len (decide (s.chip.cstWords < a + n)) = 0) (hraw : s.chip.cstRawOn = false)
    (hsound : ∀ k, k < n → s.chip.cstBad (s.chip.cstPhys (a + k)) = 0 ∧ s.chip.cstRaw (s.chip.cstPhys (a + k)) = false) :
    exec (.nvProgram i) s = .next (s.after (s.chip.writing.accept nvPort (fun c => c.nvTake ofs
      ((dwordBytes ((List.range n).map (fun k => s.chip.cstCell (s.chip.cstPhys (a + k))))).take len)))) := by
  have hwords : a + n ≤ s.chip.cstWords := Nat.not_lt.1 fun hlt => by
    rw [decide_eq_true hlt] at hr
    exact Chip.nvWriteReason_ne_zero s.chip ofs len hr
  have hexec := exec_of_asWrite (i := .nvProgram i) h rfl rfl
  have hdo : doNvProgram i s.chip.writing = s.chip.writing.command nvPort i none (!s.chip.stw.dead) 0 (nvProgramTake a n ofs len) := by
    unfold doNvProgram
    rw [show s.chip.writing.rn R.STW_NV_OFS = ofs from hofs, show s.chip.writing.fld R.STW_NV_LEN F.STW_NV_LEN_LEN = len from hlen,
      show s.chip.writing.fld R.STW_NV_SRC F.STW_NV_SRC_SRC = a from ha]
    dsimp only
    rw [← hn, show s.chip.writing.nvWriteReason ofs len (decide (s.chip.writing.cstWords < a + n)) = 0 from hr]
    rfl
  rw [hdo, Chip.command_accept _ _ _ _ _ (show s.chip.writing.inSafe = false from Chip.inSafe_of_atWork h)] at hexec
  have hd := (Chip.RegsOnly.writing s.chip [R.STW_NV_CMDSTAT]).trans (.setFld _ reasonFld 0 List.mem_cons_self)
  rw [hexec, Chip.accept, Chip.accept, show nvPort.stat = R.STW_NV_CMDSTAT from rfl]
  generalize s.chip.writing.setFld R.STW_NV_CMDSTAT reasonFld 0 = d at *
  have hcell : ∀ k, d.cstCell (d.cstPhys k) = s.chip.cstCell (s.chip.cstPhys k) := fun k => by
    rw [hd.cstPhys_of_notMem (by decide), Chip.cstCell, hd.cst, Chip.cstCell]
  have hread := Chip.cstReadList_of_sound_of_not_raw (c := d) 18 ((hd.flag (by decide) _).trans hraw) (n := n) (a := a) fun k hk =>
    hd.cstSound_of_notMem (by decide) ⟨(hsound k hk).1, (hsound k hk).2, by omega⟩
  have htake : nvProgramTake a n ofs len d = d.nvTake ofs
      ((dwordBytes ((List.range n).map (fun k => s.chip.cstCell (s.chip.cstPhys (a + k))))).take len) := by
    unfold nvProgramTake
    rw [hread]
    simp only [hcell]
    rfl
  rw [htake]

theorem exec_nvPending (i : Init) (hv : s.chip.bctl.verified s.chip.inactive = true) :
    exec (.nvPending i) s = .next (s.after (s.chip.writing.accept nvPort Chip.nvPendingNow)) := by
  have hreason : (if s.chip.writing.bctl.verified s.chip.writing.inactive then 0 else 0xd3) = 0 := if_pos hv
  exact exec_of_command (i := .nvPending i) h rfl rfl rfl hreason (Chip.inSafe_of_atWork h)

theorem exec_nvConfirm (i : Init) (ht : s.chip.inTrial = true) :
    exec (.nvConfirm i) s = .next (s.after (s.chip.writing.accept nvPort Chip.confirmSlot)) := by
  have hreason : (if s.chip.writing.inTrial then 0 else 0xd4) = 0 := if_pos ht
  exact exec_of_command (i := .nvConfirm i) h rfl rfl rfl hreason (Chip.inSafe_of_atWork h)

end

/-- The training cache is erased. -/
def Chip.cacheErased (c : Chip) : Chip := { c with mc := { c.mc with cache := none } }

section
variable (c : Chip)
theorem Chip.cacheErased_mc : c.cacheErased.mc.cache = none := rfl
theorem Chip.cacheErased_boot : c.cacheErased.boot = c.boot := rfl
theorem Chip.cacheErased_nv : c.cacheErased.nv = c.nv := rfl
theorem Chip.cacheErased_fatal : c.cacheErased.fatal = c.fatal := rfl
theorem Chip.cacheErased_resetReq : c.cacheErased.resetReq = c.resetReq := rfl
end

theorem completes_nvEraseDone {s : State} (h : s.chip.atWork = true) (he : s.chip.nv.erasing = 1) :
    Completes .nvEraseDone s (fun c => c.mc.cache = none ∧ c.nv.erasing = 0 ∧ c.boot = s.chip.boot ∧
      c.flag R.STW_NV_STAT F.STW_NV_STAT_BUSY = s.chip.nv.verifying) := by
  have hdo : doNvEraseDone s.chip = (s.chip.cacheErased.putNv { s.chip.cacheErased.nv with erasing := 0 }).nvShow := by
    unfold doNvEraseDone
    rw [he]
    rfl
  have hexec := State.act_of_atWork (i := .nvEraseDone) h rfl doNvEraseDone
  rw [hdo] at hexec
  have hfatal := s.chip.cacheErased_fatal.trans (Chip.fatal_of_atWork h)
  have hreset := s.chip.cacheErased_resetReq.trans (Chip.resetReq_of_atWork h)
  have hboot := s.chip.cacheErased_boot
  have hcache := s.chip.cacheErased_mc
  have hnv := s.chip.cacheErased_nv
  generalize s.chip.cacheErased = d at *
  refine .of_exec hexec ((Chip.nvShow_fatal _).trans ((d.putNv_fatal _).trans hfatal))
    ((Chip.nvShow_resetReq _).trans ((d.putNv_resetReq _).trans hreset)) ⟨?_, rfl, ?_, ?_⟩
  · rw [Chip.nvShow_mc, Chip.putNv_mc, hcache]
  · rw [Chip.nvShow_boot, Chip.putNv_boot, hboot]
  · rw [Chip.flag_nvShow, Chip.putNv_nv, hnv]
    exact Bool.or_false _

/-- Settles O53: the stream, its verification and the updates of boot control, each by its own command. -/
theorem flashCommands : Obligations.FlashCommands :=
  ⟨fun _ i h hr hraw hsound => exec_nvProgram h i rfl rfl rfl rfl hr hraw hsound, fun _ i h hbusy => completes_nvVerify h i hbusy,
    fun _ o v _ hw h hdead hverify hfor => completes_nvVerifyDone h o v hw hdead hverify hfor, fun _ i h hv => exec_nvPending h i hv,
    fun _ i h ht => exec_nvConfirm h i ht, fun _ h he => completes_nvEraseDone h he,
    fun _ _ h hn hne hused => completes_nvBufferDrain h hn hne hused,
    fun _ hseq ha hp ht hf => bootCtl_ofBytes_bytes hseq ha hp ht hf⟩

end Sys2Proof.Machine
end

section
/-! The synthesiser's commands and the clock outputs (R272, R277, R291, R292). -/

namespace Sys2Proof.Machine

/-- The synthesiser's state and that of the clock outputs, replaced. -/
def Chip.putClk (c : Chip) (k : Clk) : Chip := { c with clk := k }

section
variable (c : Chip) (k : Clk)
@[simp] theorem Chip.putClk_clk : (c.putClk k).clk = k := rfl
@[simp] theorem Chip.putClk_epc : (c.putClk k).epc = c.epc := rfl
@[simp] theorem Chip.putClk_regs : (c.putClk k).regs = c.regs := rfl
@[simp] theorem Chip.putClk_fatal : (c.putClk k).fatal = c.fatal := rfl
@[simp] theorem Chip.putClk_resetReq : (c.putClk k).resetReq = c.resetReq := rfl
end

theorem Chip.RegsOnly.epc {c d : Chip} {l : List Nat} (h : c.RegsOnly d l) : d.epc = c.epc := by obtain ⟨⟨_, _, _, rfl⟩, -⟩ := h; rfl
theorem Chip.RegsOnly.clk {c d : Chip} {l : List Nat} (h : c.RegsOnly d l) : d.clk = c.clk := by obtain ⟨⟨_, _, _, rfl⟩, -⟩ := h; rfl

/-! ### The word of the loop (R270, R277) -/

theorem Chip.regrid_eq (c : Chip) : ∃ g, c.regrid = c.putClk { c.clk with gridAt := g } := ⟨_, rfl⟩

/-- Setting the word, or sending it on its way, changes the synthesiser's state alone, and not which reference the loop follows. -/
theorem Chip.wordSet_eq (c : Chip) (w : Nat) : ∃ k : Clk, k.byp = c.clk.byp ∧
    c.wordSet w = c.putClk { k with wordN := w / 2 ^ 32, wordFrac := w % 2 ^ 32, rampTo := none } := by
  obtain ⟨g, hg⟩ := c.regrid_eq
  unfold Chip.wordSet
  rw [hg]
  exact ⟨{ c.clk with gridAt := g }, rfl, rfl⟩

theorem Chip.wordMove_eq (c : Chip) (w : Nat) : ∃ k : Clk, k.byp = c.clk.byp ∧
    c.wordMove w = c.putClk { k with rampTo := some (w / 2 ^ 32, w % 2 ^ 32), rampAt := c.epc.line } := by
  unfold Chip.wordMove
  generalize c.wordNow = x
  obtain ⟨k, hb, hk⟩ := c.wordSet_eq x
  rw [hk]
  exact ⟨{ k with wordN := x / 2 ^ 32, wordFrac := x % 2 ^ 32, rampTo := none }, hb, rfl⟩

/-- STEP's ramp has begun. -/
theorem completes_clkStep {s : State} (h : s.chip.atWork = true) (i : Init) (hrange : s.chip.stepInRange = true)
    (hstate : s.chip.synState = 2 ∨ s.chip.synState = 4) (hramp : s.chip.ramping = false) :
    Completes (.clkStep i) s (fun c => c.clk.rampTo = some (s.chip.stepWord / 2 ^ 32, s.chip.stepWord % 2 ^ 32) ∧ c.clk.rampAt = s.chip.epc.line ∧
      c.flag R.CLK_STAT F.CLK_STAT_RAMP = true ∧ c.fld R.CLK_CMDSTAT reasonFld = 0) := by
  have hreason : s.chip.writing.stepReason = 0 := by
    have hbusy : s.chip.synBusy = false := by
      rw [Chip.synBusy, hramp]
      rcases hstate with hs | hs <;> rw [hs] <;> rfl
    have hserves : (decide (s.chip.synState ≠ 2) && decide (s.chip.synState ≠ 4)) = false := by
      rcases hstate with hs | hs <;> rw [hs] <;> rfl
    have hlist : s.chip.stepReason = 0 := by rw [Chip.stepReason, hrange, hserves, hbusy]; rfl
    exact hlist
  have hword : s.chip.writing.stepWord = s.chip.stepWord := rfl
  refine .of_accept h (exec_of_command (i := .clkStep i) h rfl rfl rfl hreason (Chip.inSafe_of_atWork h)) fun d hd hzero => ?_
  have hstep : d.stepWord = s.chip.stepWord := by
    rw [Chip.stepWord, hd.fld (by decide), hd.rn (by decide), Chip.stepWord]
  obtain ⟨k, -, hk⟩ := d.wordMove_eq s.chip.stepWord
  rw [hstep, hk, Chip.setFlag_fatal, Chip.setFlag_resetReq, Chip.noReason_clk, Chip.setFlag_clk, Chip.putClk_clk, hd.epc,
    Chip.flag_noReason, Chip.flag_setFlag _ _ _ _ (by decide) rfl, Chip.fld_noReason, Chip.fld_congr (Chip.reg_setFlag_ne _ _ _ (by decide)),
    Chip.fld_congr (Chip.reg_congr (Chip.putClk_regs _ _) _)]
  exact ⟨rfl, rfl, rfl, rfl, rfl, hzero⟩

/-- The ramp has ended on the word w. -/
def Chip.rampEnd (c : Chip) (w : Nat) : Chip := (c.wordSet w).rampDrop.raise Ev.stepDone

theorem Chip.rampEnd_spec (c : Chip) (w : Nat) : (c.rampEnd w).fatal = c.fatal ∧ (c.rampEnd w).resetReq = c.resetReq ∧
    (c.rampEnd w).clk.rampTo = none ∧ (c.rampEnd w).clk.wordN * 2 ^ 32 + (c.rampEnd w).clk.wordFrac = w ∧ (c.rampEnd w).epc = c.epc ∧
    (c.rampEnd w).flag R.CLK_STAT F.CLK_STAT_RAMP = false ∧ bit ((c.rampEnd w).rn (R.EVT_STAT 2)) 8 = true := by
  obtain ⟨k, -, hk⟩ := c.wordSet_eq w
  have hbit : bit ((c.rampEnd w).rn (R.EVT_STAT 2)) 8 = true := Chip.bit_rn_raise _ (by decide) (by decide) (by decide)
  refine ⟨?_, ?_, ?_, ?_, ?_, ?_, hbit⟩
  all_goals rw [Chip.rampEnd, Chip.rampDrop, hk]
  · simp
  · simp
  · simp
  · simp only [Chip.raise_clk, Chip.setFlag_clk, Chip.putClk_clk]
    rw [Nat.mul_comm]
    exact Nat.div_add_mod _ _
  · simp
  · rw [Chip.flag_congr (Chip.reg_raise_ne _ _ (by decide)), Chip.flag_setFlag _ _ _ _ (by decide) rfl]

theorem completes_stepDone {s : State} {t : Nat × Nat} (h : s.chip.atWork = true) (hto : s.chip.clk.rampTo = some t)
    (hramp : s.chip.ramping = true) :
    Completes .stepDone s (fun c => c.clk.rampTo = none ∧ c.clk.wordN * 2 ^ 32 + c.clk.wordFrac = t.1 * 2 ^ 32 + t.2 ∧
      c.flag R.CLK_STAT F.CLK_STAT_RAMP = false ∧ s.chip.clk.rampAt ≤ c.epc.line ∧ bit (c.rn (R.EVT_STAT 2)) 8 = true) := by
  have hdo : doStepDone s.chip = (s.chip.waitLine (s.chip.clk.rampAt + s.chip.rampTime)).rampEnd (t.1 * 2 ^ 32 + t.2) := by
    unfold doStepDone
    rw [hto]
    exact if_pos hramp
  have hexec := State.act_of_atWork (i := .stepDone) h rfl doStepDone
  rw [hdo] at hexec
  have hline := Chip.le_line_waitLine s.chip (s.chip.clk.rampAt + s.chip.rampTime)
  have hfatal := (Chip.waitLine_fatal s.chip (s.chip.clk.rampAt + s.chip.rampTime)).trans (Chip.fatal_of_atWork h)
  have hreset := (Chip.waitLine_resetReq s.chip (s.chip.clk.rampAt + s.chip.rampTime)).trans (Chip.resetReq_of_atWork h)
  generalize s.chip.waitLine (s.chip.clk.rampAt + s.chip.rampTime) = d at *
  obtain ⟨kfatal, kreset, hnone, hword, hepc, hflag, hbit⟩ := d.rampEnd_spec (t.1 * 2 ^ 32 + t.2)
  exact .of_exec hexec (kfatal.trans hfatal) (kreset.trans hreset)
    ⟨hnone, hword, hflag, by rw [hepc]; exact (Nat.le_add_right _ _).trans hline, hbit⟩

/-! ### PHASE (R291) -/

theorem phaseWay_zero (d cur dst : Nat) (tie : Bool) : phaseWay d cur dst 0 tie = cur % d := by
  unfold phaseWay
  dsimp only
  split
  · rw [Nat.zero_min, Nat.add_zero]
  · rw [Nat.zero_min, Nat.sub_zero, Nat.add_mod_right]

theorem phaseWay_mod (d cur dst n : Nat) (tie : Bool) : phaseWay d cur dst n tie % d = phaseWay d cur dst n tie := by
  unfold phaseWay
  dsimp only
  split
  · exact Nat.mod_mod _ _
  · exact Nat.mod_mod _ _

/-- No tap to move leaves the phase where it is. -/
theorem ite_self_of_zero_move (p : Prop) [Decidable p] (cur d : Nat) : (if p then (cur + 0) % d else (cur + d - 0) % d) = cur % d := by
  rw [Nat.add_zero, Nat.sub_zero, Nat.add_mod_right, ite_self]

/-- After as many taps as the period holds the aligner stands at its target. -/
theorem phaseWay_of_le {d cur dst n : Nat} (tie : Bool) (hcur : cur < d) (hdst : dst < d) (hn : d ≤ n) : phaseWay d cur dst n tie = dst := by
  have hpos : 0 < d := Nat.zero_lt_of_lt hcur
  have hup : (dst + d - cur) % d < d := Nat.mod_lt _ hpos
  have hdown : (cur + d - dst) % d < d := Nat.mod_lt _ hpos
  unfold phaseWay
  dsimp only
  rw [Nat.min_eq_right (hup.le.trans hn), Nat.min_eq_right (hdown.le.trans hn)]
  rcases Nat.lt_trichotomy cur dst with hlt | rfl | hgt
  · have hu : (dst + d - cur) % d = dst - cur := by
      rw [show dst + d - cur = dst - cur + d by omega, Nat.add_mod_right, Nat.mod_eq_of_lt (by omega)]
    have hd : (cur + d - dst) % d = cur + d - dst := Nat.mod_eq_of_lt (by omega)
    rw [hu, hd]
    split
    · rw [show cur + (dst - cur) = dst by omega, Nat.mod_eq_of_lt hdst]
    · rw [show cur + d - (cur + d - dst) = dst by omega, Nat.mod_eq_of_lt hdst]
  · rw [Nat.add_sub_cancel_left, Nat.mod_self, ite_self_of_zero_move, Nat.mod_eq_of_lt hcur]
  · have hu : (dst + d - cur) % d = dst + d - cur := Nat.mod_eq_of_lt (by omega)
    have hd : (cur + d - dst) % d = cur - dst := by
      rw [show cur + d - dst = cur - dst + d by omega, Nat.add_mod_right, Nat.mod_eq_of_lt (by omega)]
    rw [hu, hd]
    split
    · rw [show cur + (dst + d - cur) = dst + d by omega, Nat.add_mod_right, Nat.mod_eq_of_lt hdst]
    · rw [show cur + d - (cur - dst) = dst + d by omega, Nat.add_mod_right, Nat.mod_eq_of_lt hdst]

/-- Where an output's aligner starts from, and when. -/
def Chip.ckoStart (c : Chip) (m : Nat) : Nat × Nat := SMap.get (fun _ => (0, 0)) c.clk.ckoFrom m

theorem Chip.ckoCur_eq (c : Chip) (m : Nat) : c.ckoCur m =
    if c.wfld (R.CLK_CKO_CFG m) F.CLK_CKO_CFG_SRC = 0 then
      phaseWay (c.ckoTaps m) ((c.ckoStart m).1 % c.ckoTaps m) (c.ckoPhase m)
        ((c.epc.line - (c.ckoStart m).2) * 64 * c.fscRatio.2 / (c.fscRatio.1 * (c.ckoTaps m + 1))) (decide (Config.ckoTie m = 1))
    else (c.ckoStart m).1 % c.ckoTaps m := rfl

theorem Chip.ckoCur_mod (c : Chip) (m : Nat) : c.ckoCur m % c.ckoTaps m = c.ckoCur m := by
  rw [Chip.ckoCur_eq]
  split
  · exact phaseWay_mod _ _ _ _ _
  · exact Nat.mod_mod _ _

/-- An aligner that starts now stands where it starts. -/
theorem Chip.ckoCur_of_start {c : Chip} {m x : Nat} (h : c.ckoStart m = (x, c.epc.line)) : c.ckoCur m = x % c.ckoTaps m := by
  have htaps : (c.epc.line - c.epc.line) * 64 * c.fscRatio.2 / (c.fscRatio.1 * (c.ckoTaps m + 1)) = 0 := by
    rw [Nat.sub_self]; simp only [Nat.zero_mul, Nat.zero_div]
  rw [Chip.ckoCur_eq, h, htaps, phaseWay_zero, Nat.mod_mod, ite_self]

theorem Chip.ckoFromNow_eq (c : Chip) (m x : Nat) : c.ckoFromNow m x = c.putClk { c.clk with ckoFrom := SMap.put c.clk.ckoFrom m (x, c.epc.line) } := rfl

/-- The plain facts of a register's row that a write rests on. -/
def plainRow (a : Nat) : Bool :=
  match regRow a with
  | some r => decide (r.gd = 0) && decide (r.cmd = 0) && decide (r.sqc = 0) && (spanOf writeTriples 3 a).isNone && (spanOf valuePairs 2 a).isNone
  | none => false

theorem plainRow_CLK_CKO_PHASE : ∀ m < 8, plainRow (R.CLK_CKO_PHASE m) = true := by decide

theorem exists_of_plainRow {a : Nat} (h : plainRow a = true) : ∃ r, regRow a = some r ∧ r.gd = 0 ∧ r.cmd = 0 ∧ r.sqc = 0 ∧
    spanOf writeTriples 3 a = none ∧ spanOf valuePairs 2 a = none := by
  unfold plainRow at h
  split at h
  next r hrow =>
    simp only [Bool.and_eq_true, decide_eq_true_eq, Option.isNone_iff_eq_none] at h
    obtain ⟨⟨⟨⟨hgd, hcmd⟩, hsqc⟩, htriple⟩, hpair⟩ := h
    exact ⟨r, hrow, hgd, hcmd, hsqc, htriple, hpair⟩
  next => exact absurd h Bool.false_ne_true

theorem Chip.applyFields_ckoPhase (c : Chip) (i : Init) {m : Nat} (hm : m < 8) (v : Word) :
    c.applyFields i (R.CLK_CKO_PHASE m) v = doCkoPhaseWrite m v c := by
  obtain ⟨r, hrow, -, -, hsqc, htriple, hpair⟩ := exists_of_plainRow (plainRow_CLK_CKO_PHASE m hm)
  unfold Chip.applyFields
  rw [hrow]
  dsimp only
  rw [if_neg (not_not.2 hsqc), htriple, hpair]
  interval_cases m <;> rfl

theorem completes_ckoPhaseWrite {s : State} (h : s.chip.atWork = true) {i : Init} (hi : i ≠ .sched) {m : Nat} (hm : m < 8) (v : Word) :
    Completes (.ckoPhaseWrite i m v) s (fun c => c.fld (R.CLK_CKO_PHASE m) F.CLK_CKO_PHASE_PHASE = v.toNat % 65536 ∧
      c.ckoCur m = s.chip.ckoCur m ∧ SMap.get (fun _ => (0, 0)) c.clk.ckoFrom m = (s.chip.ckoCur m, s.chip.epc.line) ∧
      (∀ a, a ≠ R.CLK_CKO_PHASE m → c.reg a = s.chip.reg a)) := by
  have hwf : (Instr.ckoPhaseWrite i m v).wf = true := by simp [Instr.wf, regInit, hi, hm]
  obtain ⟨r, hrow, hgd, hcmd, -, -, -⟩ := exists_of_plainRow (plainRow_CLK_CKO_PHASE m hm)
  have hexec := State.act_of_atWork (i := .ckoPhaseWrite i m v) h hwf (fun c => c.busWrite i (R.CLK_CKO_PHASE m) v)
  rw [Chip.busWrite_of_row h i hrow (by rw [R.CLK_CKO_PHASE]; omega) hgd hcmd, Chip.applyFields_ckoPhase _ _ hm, doCkoPhaseWrite,
    show s.chip.writing.ckoCur m = s.chip.ckoCur m from rfl] at hexec
  have hmod := s.chip.ckoCur_mod m
  have htaps : s.chip.writing.ckoTaps m = s.chip.ckoTaps m := rfl
  have hline : s.chip.writing.epc.line = s.chip.epc.line := rfl
  have hregs : ∀ a, s.chip.writing.reg a = s.chip.reg a := fun _ => rfl
  have hfatal : s.chip.writing.fatal = none := Chip.fatal_of_atWork (c := s.chip) h
  have hreset : s.chip.writing.resetReq = false := Chip.resetReq_of_atWork (c := s.chip) h
  generalize s.chip.ckoCur m = x at *
  generalize s.chip.writing = d at *
  have hstart : ((d.ckoFromNow m x).setFld (R.CLK_CKO_PHASE m) F.CLK_CKO_PHASE_PHASE v.toNat).ckoStart m = (x, d.epc.line) := by
    rw [Chip.ckoStart, Chip.setFld_clk, Chip.ckoFromNow_eq, Chip.putClk_clk]
    exact SMap.get_put_same _ _ _ _
  refine .of_exec hexec ?_ ?_ ⟨Chip.fld_setFld _ _ _ _ (by decide), ?_, by rw [← hline]; exact hstart, fun a ha => ?_⟩
  · rw [Chip.setFld_fatal, Chip.ckoFromNow_eq, Chip.putClk_fatal, hfatal]
  · rw [Chip.setFld_resetReq, Chip.ckoFromNow_eq, Chip.putClk_resetReq, hreset]
  · refine (Chip.ckoCur_of_start hstart).trans ?_
    rw [show ((d.ckoFromNow m x).setFld (R.CLK_CKO_PHASE m) F.CLK_CKO_PHASE_PHASE v.toNat).ckoTaps m = d.ckoTaps m from rfl, htaps, hmod]
  · rw [Chip.reg_setFld_ne _ _ _ ha, Chip.ckoFromNow_eq, Chip.reg_congr (Chip.putClk_regs _ _), hregs]

/-! ### Pulses per second (R292) -/

theorem Chip.waitStamp_shape (c : Chip) (t : Nat) : ∃ k e, c.waitStamp t = { c with cycle := k, epc := e } := by
  unfold Chip.waitStamp
  split
  · exact c.pass_eq _
  · exact ⟨c.cycle, c.epc, rfl⟩

/-- What a wait for a stamp leaves as it is. -/
theorem Chip.waitStamp_keeps (c : Chip) (t : Nat) : (c.waitStamp t).regs = c.regs ∧ (c.waitStamp t).fatal = c.fatal ∧
    (c.waitStamp t).resetReq = c.resetReq := by
  obtain ⟨k, e, h⟩ := c.waitStamp_shape t
  rw [h]
  exact ⟨rfl, rfl, rfl⟩

/-- The pulse of output m for second n has risen. -/
def Chip.ppsRisen (c : Chip) (m n : Nat) : Chip :=
  c.putClk { c.clk with
    ckoHigh := maskSet c.clk.ckoHigh m
    ckoEdge := SMap.put c.clk.ckoEdge m (c.fscEdgeFrom (c.epc.line - (c.epc.time - n * second)))
    ckoSec := put0 c.clk.ckoSec m (n + 1) }

theorem Chip.ckoHigh_ppsRisen (c : Chip) (m n : Nat) : (c.ppsRisen m n).clk.ckoHigh = maskSet c.clk.ckoHigh m := by
  rw [Chip.ppsRisen, Chip.putClk_clk]

theorem Chip.ppsRisen_keeps (c : Chip) (m n : Nat) : (c.ppsRisen m n).regs = c.regs ∧ (c.ppsRisen m n).fatal = c.fatal ∧
    (c.ppsRisen m n).resetReq = c.resetReq := by
  rw [Chip.ppsRisen, Chip.putClk_regs, Chip.putClk_fatal, Chip.putClk_resetReq]
  exact ⟨rfl, rfl, rfl⟩

/-- The next whole second of the keeper for output m. -/
def Chip.ckoSecond (c : Chip) (m : Nat) : Nat := max (divCeil c.epc.time second) (cnt0 c.clk.ckoSec m)

theorem doCkoPpsPulseStart_of {c : Chip} {m : Nat} (h : (c.ckoPps m && c.epcHolds && c.sampleOn && !c.inSafe && decide (c.ladder ≤ 1)) = true) :
    doCkoPpsPulseStart m c = (c.waitStamp (c.ckoSecond m * 2 ^ 36)).ppsRisen m (c.ckoSecond m) := by
  unfold doCkoPpsPulseStart
  rw [if_pos h]
  rfl

theorem completes_ckoPpsPulseStart {s : State} (h : s.chip.atWork = true) {m : Nat} (hm : m < 8) (hpps : s.chip.ckoPps m = true)
    (hholds : s.chip.epcHolds = true) (hon : s.chip.sampleOn = true) :
    Completes (.ckoPpsPulseStart m) s (fun c => bit c.clk.ckoHigh m = true ∧ c.regs = s.chip.regs) := by
  have hexec := State.act_of_atWork (i := .ckoPpsPulseStart m) h (decide_eq_true hm) (doCkoPpsPulseStart m)
  rw [doCkoPpsPulseStart_of (by rw [hpps, hholds, hon, Chip.inSafe_of_atWork h, Chip.ladder_of_atWork h]; rfl)] at hexec
  obtain ⟨hregs, hfatal, hreset⟩ := s.chip.waitStamp_keeps (s.chip.ckoSecond m * 2 ^ 36)
  rw [Chip.fatal_of_atWork h] at hfatal
  rw [Chip.resetReq_of_atWork h] at hreset
  generalize s.chip.ckoSecond m = n at *
  generalize s.chip.waitStamp (n * 2 ^ 36) = d at *
  obtain ⟨kregs, kfatal, kreset⟩ := d.ppsRisen_keeps m n
  refine .of_exec hexec (kfatal.trans hfatal) (kreset.trans hreset) ⟨?_, kregs.trans hregs⟩
  rw [Chip.ckoHigh_ppsRisen, bit_maskSet, if_pos rfl]

/-- The pulse of output m has fallen. -/
def Chip.ppsFallen (c : Chip) (m : Nat) : Chip := c.putClk { c.clk with ckoHigh := maskClear c.clk.ckoHigh m }

theorem completes_ckoPpsPulseEnd {s : State} (h : s.chip.atWork = true) {m : Nat} (hm : m < 8) (hhigh : bit s.chip.clk.ckoHigh m = true) :
    Completes (.ckoPpsPulseEnd m) s (fun c => bit c.clk.ckoHigh m = false ∧ c.regs = s.chip.regs ∧
      cnt0 s.chip.clk.ckoEdge m + s.chip.ckoPw m * micro ≤ c.epc.line) := by
  have hexec := State.act_of_atWork (i := .ckoPpsPulseEnd m) h (decide_eq_true hm) (doCkoPpsPulseEnd m)
  have hdo : doCkoPpsPulseEnd m s.chip = (s.chip.waitLine (cnt0 s.chip.clk.ckoEdge m + s.chip.ckoPw m * micro)).ppsFallen m := if_pos hhigh
  rw [hdo] at hexec
  generalize cnt0 s.chip.clk.ckoEdge m + s.chip.ckoPw m * micro = t at *
  have hline := Chip.le_line_waitLine s.chip t
  have hregs := Chip.waitLine_regs s.chip t
  have hfatal := (Chip.waitLine_fatal s.chip t).trans (Chip.fatal_of_atWork h)
  have hreset := (Chip.waitLine_resetReq s.chip t).trans (Chip.resetReq_of_atWork h)
  generalize s.chip.waitLine t = d at *
  refine .of_exec hexec ((d.putClk_fatal _).trans hfatal) ((d.putClk_resetReq _).trans hreset)
    ⟨?_, (d.putClk_regs _).trans hregs, by rw [Chip.ppsFallen, Chip.putClk_epc]; exact hline⟩
  rw [Chip.ppsFallen, Chip.putClk_clk]
  exact (bit_maskClear _ _ _).trans (if_pos rfl)

/-! ### APPLY and CKO_APPLY -/

theorem exec_clkApply {s : State} (h : s.chip.atWork = true) (i : Init) (harmed : s.chip.anyArmed = false) (hlegal : s.chip.synCfg.legal = true)
    (hdither : s.chip.synCfg.ditherBad = false) (hon : s.chip.synState ≠ 0) (hbusy : s.chip.synBusy = false) :
    exec (.clkApply i) s = .next (s.after (s.chip.writing.accept clkPort (fun c => c.synApply 1))) := by
  have hreason : firstReason [(s.chip.anyArmed, 0x80), (!s.chip.synCfg.legal, 0x81), (s.chip.synCfg.ditherBad, 0x82),
      (decide (s.chip.synState = 0), 0x84), (s.chip.synBusy, 0x85)] = 0 := by
    rw [harmed, hlegal, hdither, hbusy, decide_eq_false hon]
    rfl
  exact exec_of_command (i := .clkApply i) h rfl rfl rfl hreason (Chip.inSafe_of_atWork h)

/-- Settles O41: a word on its way, an aligner that starts from where it is, and pulses that rise and fall. -/
theorem clockCommands : Obligations.ClockCommands :=
  ⟨fun _ i h harmed hlegal hdither hon hbusy => exec_clkApply h i harmed hlegal hdither hon hbusy,
    fun _ i h hrange hstate hramp => completes_clkStep h i hrange hstate hramp,
    fun _ _ h hto hramp => completes_stepDone h hto hramp,
    fun _ i h => exec_of_command (i := .ckoApply i) h rfl rfl rfl rfl (Chip.inSafe_of_atWork h),
    fun _ _ _ v h hi hm => completes_ckoPhaseWrite h hi hm v,
    fun _ _ h hm hpps hholds hon => completes_ckoPpsPulseStart h hm hpps hholds hon,
    fun _ _ h hm hhigh => completes_ckoPpsPulseEnd h hm hhigh,
    fun _ _ _ _ tie _ hcur hdst hn => phaseWay_of_le tie hcur hdst hn⟩

end Sys2Proof.Machine
end

section
/-! Storing what a lane group has taken: what it may change (R80 to R92, R129, R172, R288). -/

namespace Sys2Proof.Machine

/-- The registers that storing may change: the group's own, the keeper's status, and those where events are noted. -/
def storingReg (a : Nat) : Prop := (0x40000 ≤ a ∧ a < 0xc0000) ∨ a = R.EPC_STAT ∨ noteReg a

/-- `d` is `c` but for lane groups, partitions, events, free values, the groups that wait for a correction, and these registers. -/
structure Chip.StoresOnly (c d : Chip) : Prop where
  regs : c.RegsIn storingReg d
  rest : ∃ r l p v q k w, d = { c with regs := r, lanes := l, parts := p, evt := v, scv := q, freeCtr := k, epc := { c.epc with ofsWait := w } }

section
variable {c d e : Chip} {g p : Nat}

theorem Chip.StoresOnly.refl (c : Chip) : c.StoresOnly c := ⟨.refl _ c, _, _, _, _, _, _, _, rfl⟩

theorem Chip.StoresOnly.trans (h : c.StoresOnly d) (k : d.StoresOnly e) : c.StoresOnly e := by
  refine ⟨h.regs.trans k.regs, ?_⟩
  obtain ⟨r, l, p, v, q, n, w, rfl⟩ := h.rest
  obtain ⟨r', l', p', v', q', n', w', rfl⟩ := k.rest
  exact ⟨r', l', p', v', q', n', w', rfl⟩

theorem Chip.StoresOnly.ite {b : Prop} [Decidable b] (h : c.StoresOnly d) (k : c.StoresOnly e) : c.StoresOnly (if b then d else e) := by
  split
  · exact h
  · exact k

theorem Chip.StoresOnly.foldl {α : Type} {f : Chip → α → Chip} {l : List α} (h : ∀ c, ∀ x ∈ l, Chip.StoresOnly c (f c x)) (c : Chip) :
    c.StoresOnly (l.foldl f c) :=
  List.foldlRecOn (motive := fun d => c.StoresOnly d) l f (.refl c) fun d hd x hx => hd.trans (h d x hx)

theorem Chip.StoresOnly.of_events (h : c.EventsOnly d) (k : c.RegsIn storingReg d) : c.StoresOnly d := by
  obtain ⟨r, v, q, rfl⟩ := h
  exact ⟨k, _, _, _, _, _, _, _, rfl⟩

section
variable (h : c.StoresOnly d)
include h
theorem Chip.StoresOnly.fatal : d.fatal = c.fatal := by obtain ⟨_, _, _, _, _, _, _, hd⟩ := h.rest; rw [hd]
theorem Chip.StoresOnly.resetReq : d.resetReq = c.resetReq := by obtain ⟨_, _, _, _, _, _, _, hd⟩ := h.rest; rw [hd]
theorem Chip.StoresOnly.clk : d.clk = c.clk := by obtain ⟨_, _, _, _, _, _, _, hd⟩ := h.rest; rw [hd]
theorem Chip.StoresOnly.line : d.epc.line = c.epc.line := by obtain ⟨_, _, _, _, _, _, _, hd⟩ := h.rest; rw [hd]
/-- The registers of the synthesiser and the clock outputs. -/
theorem Chip.StoresOnly.reg_clk {a : Nat} (hlo : 0x20000 ≤ a) (hhi : a < 0x30000) : d.reg a = c.reg a :=
  h.regs a fun hs => by
    rcases hs with ⟨hlane, -⟩ | rfl | ⟨hnote, -⟩
    · omega
    · exact absurd hhi (by decide)
    · omega
end

theorem Chip.StoresOnly.setLane (c : Chip) (g : Nat) (l : Lane) : c.StoresOnly (c.setLane g l) := ⟨.of_regs rfl, _, _, _, _, _, _, _, rfl⟩

theorem Chip.StoresOnly.setPart (c : Chip) (p : Nat) (q : Part) : c.StoresOnly (c.setPart p q) := ⟨.of_regs rfl, _, _, _, _, _, _, _, rfl⟩

theorem Chip.StoresOnly.used (c : Chip) : c.StoresOnly c.used := ⟨.of_regs rfl, _, _, _, _, _, _, _, rfl⟩

theorem Chip.StoresOnly.setN (c : Chip) {a : Nat} (n : Nat) (h : storingReg a) : c.StoresOnly (c.setN a n) := .of_events (.setN c a n) (.setN c n h)

theorem Chip.StoresOnly.setFld (c : Chip) {a : Nat} (f : Fld) (v : Nat) (h : storingReg a) : c.StoresOnly (c.setFld a f v) := .setN c _ h

theorem Chip.StoresOnly.setFlag (c : Chip) {a : Nat} (f : Fld) (b : Bool) (h : storingReg a) : c.StoresOnly (c.setFlag a f b) := .setN c _ h

theorem Chip.StoresOnly.setTriple (c : Chip) {a : Nat} (v : Nat) (h : storingReg a) (h4 : storingReg (a + 4)) (h8 : storingReg (a + 8)) :
    c.StoresOnly (c.setTriple a v) := ((Chip.StoresOnly.setN c _ h).trans (.setN _ _ h4)).trans (.setN _ _ h8)

theorem Chip.StoresOnly.raise (c : Chip) {e : Nat × Nat} (h : e.1 < 64) : c.StoresOnly (c.raise e) :=
  .of_events (.raise c e) ((Chip.RegsIn.raise c h).mono fun _ hn => .inr (.inr hn))

theorem storingReg_LG (hg : g < 8) {a : Nat} (hlo : 0x40000 + 0x10000 * g ≤ a) (hhi : a < 0x50000 + 0x10000 * g) : storingReg a :=
  .inl ⟨by omega, by omega⟩

section
variable (hg : g < 8)
include hg
theorem storingReg_LG_STAGE : storingReg (R.LG_STAGE g) := storingReg_LG hg (by rw [R.LG_STAGE]; omega) (by rw [R.LG_STAGE]; omega)
theorem storingReg_LG_STAT : storingReg (R.LG_STAT g) := storingReg_LG hg (by rw [R.LG_STAT]; omega) (by rw [R.LG_STAT]; omega)

/-! ### Blocks and gaps -/

theorem Chip.StoresOnly.putLane (c : Chip) (l : Lane) : c.StoresOnly (c.putLane g l) :=
  ((Chip.StoresOnly.setLane c g l).trans (.setFld _ F.LG_STAGE_USED ((c.setLane g l).slotsUsed g) (storingReg_LG_STAGE hg))).trans
    (.setFld _ _ _ (storingReg_LG_STAGE hg))

theorem Chip.StoresOnly.closeBlock (c : Chip) (p : Nat) : c.StoresOnly (c.closeBlock g p) := by
  unfold Chip.closeBlock
  dsimp only
  split
  · exact .refl c
  · exact .putLane hg c _

theorem Chip.StoresOnly.startGap (c : Chip) (t k n : Nat) (b : Bool) : c.StoresOnly (c.startGap g t k n b) := by
  have hlast : ∀ o, o ≤ 8 → storingReg (R.LG_OVR_LAST_L g + o) := fun o ho =>
    storingReg_LG hg (by rw [R.LG_OVR_LAST_L]; omega) (by rw [R.LG_OVR_LAST_L]; omega)
  unfold Chip.startGap
  dsimp only
  split
  · exact ((Chip.StoresOnly.setLane c g _).trans (.setTriple _ _ (hlast 0 (by omega)) (hlast 4 (by omega)) (hlast 8 (by omega)))).trans
      (.setFlag _ _ _ (storingReg_LG_STAT hg))
  · exact .setLane c g _

theorem Chip.StoresOnly.closeGap (c : Chip) : c.StoresOnly (c.closeGap g) := by
  have hcnt : storingReg (R.LG_OVR_CNT g) := storingReg_LG hg (by rw [R.LG_OVR_CNT]; omega) (by rw [R.LG_OVR_CNT]; omega)
  have hlost : storingReg (R.LG_OVR_LOST g) := storingReg_LG hg (by rw [R.LG_OVR_LOST]; omega) (by rw [R.LG_OVR_LOST]; omega)
  unfold Chip.closeGap
  dsimp only
  split
  · exact .refl c
  · split
    · exact ((((Chip.StoresOnly.setLane c g _).trans (.setFlag _ _ _ (storingReg_LG_STAT hg))).trans (.setN _ _ hcnt)).trans
        (.setN _ _ hlost)).trans (.raise _ (show 12 + g < 64 by omega))
    · exact .setLane c g _

omit hg in
theorem Chip.StoresOnly.logGaps (c : Chip) (g p t : Nat) : c.StoresOnly (c.logGaps g p t) :=
  (Chip.StoresOnly.setLane c g _).trans (.foldl (fun c _ _ => .setPart c p _) _)

theorem Chip.StoresOnly.gapResume (c : Chip) (p t : Nat) : c.StoresOnly (c.gapResume g p t) := by
  unfold Chip.gapResume
  dsimp only
  split
  · split
    · exact ((Chip.StoresOnly.setLane c g _).trans (.closeGap hg _)).trans (.used _)
    · exact .refl c
  · exact .refl c

omit hg in
theorem Chip.StoresOnly.takeCorrection (c : Chip) (g n : Nat) : c.StoresOnly (c.takeCorrection g n) := by
  have hwait : ∀ w, c.StoresOnly { c with epc := { c.epc with ofsWait := w } } := fun w => ⟨.of_regs rfl, _, _, _, _, _, _, _, rfl⟩
  unfold Chip.takeCorrection
  dsimp only
  split
  · split
    · exact ((hwait _).trans (.setLane _ _ _)).trans (.setFlag _ _ _ (.inr (.inl rfl)))
    · exact (hwait _).trans (.setLane _ _ _)
  · exact .refl c

omit hg in
theorem Chip.StoresOnly.boundary (c : Chip) (g : Nat) (s : Smp) : c.StoresOnly (c.boundary g s).1 := by
  unfold Chip.boundary
  split
  · exact .takeCorrection c g _
  · exact .refl c

theorem Chip.StoresOnly.openBlock (c : Chip) (t : Nat) : c.StoresOnly (c.openBlock g t).1 := by
  unfold Chip.openBlock
  dsimp only
  split
  · exact .refl c
  · exact .putLane hg c _

omit hg in
theorem Chip.StoresOnly.gapLose (c : Chip) (g : Nat) : c.StoresOnly (c.gapLose g) := .setLane c g _

theorem Chip.StoresOnly.ensureBlock (c : Chip) (t : Nat) : c.StoresOnly (c.ensureBlock g t).1 := by
  unfold Chip.ensureBlock
  dsimp only
  split
  · split
    · exact (Chip.StoresOnly.closeGap hg c).trans (.openBlock hg _ _)
    · exact .gapLose c g
  · split
    · exact .refl c
    · split
      · exact .openBlock hg c t
      · exact .startGap hg c t 1 1 false

/-! ### Samples -/

theorem Chip.StoresOnly.storeWord (c : Chip) (p : Nat) (s : Smp) : c.StoresOnly (c.storeWord g p s).1 := by
  have hopen := Chip.StoresOnly.ensureBlock hg c s.stamp
  unfold Chip.storeWord
  dsimp only
  split
  · split
    · exact hopen.trans (.logGaps _ g p _)
    · exact ((hopen.trans (.logGaps _ g p _)).trans (.setLane _ g _)).trans (.ite (.closeBlock hg _ p) (.refl _))
  · exact hopen

theorem Chip.StoresOnly.storeRec (c : Chip) (p : Nat) (s : Smp) (r : TrRec) : c.StoresOnly (c.storeRec g p s r) := by
  have hopen := Chip.StoresOnly.ensureBlock hg c s.stamp
  unfold Chip.storeRec
  dsimp only
  split
  · split
    · exact hopen.trans (.logGaps _ g p _)
    · exact ((hopen.trans (.logGaps _ g p _)).trans (.setLane _ g _)).trans (.ite (.closeBlock hg _ p) (.refl _))
  · exact hopen

theorem Chip.StoresOnly.transInterval (c : Chip) (p : Nat) (s : Smp) : c.StoresOnly (c.transInterval g p s) := by
  unfold Chip.transInterval
  dsimp only
  have hgap : c.StoresOnly (if (c.lane g).overrun = true then c.closeGap g else c) := .ite (.closeGap hg c) (.refl c)
  generalize (if (c.lane g).overrun = true then c.closeGap g else c) = d at *
  split
  · exact (Chip.StoresOnly.gapLose c g).trans (.setLane _ g _)
  · split
    · exact hgap.trans (.storeRec hg d p s _)
    · split
      · exact hgap.trans (.storeRec hg d p s _)
      · split
        · exact hgap.trans (.storeRec hg d p s _)
        · exact hgap.trans (.setLane d g _)

theorem Chip.StoresOnly.storeQualified (c : Chip) (p : Nat) (s : Smp) : c.StoresOnly (c.storeQualified g p s) := by
  have hword := Chip.StoresOnly.storeWord hg c p s
  unfold Chip.storeQualified
  dsimp only
  generalize c.storeWord g p s = r at *
  split
  · exact (hword.trans (.ite (.setPart _ p _) (.refl _))).trans (.setLane _ g _)
  · exact hword

theorem Chip.StoresOnly.storeSample (c : Chip) (p : Nat) (s : Smp) : c.StoresOnly (c.storeSample g p s) := by
  unfold Chip.storeSample
  dsimp only
  have hgap : c.StoresOnly (if (c.lane g).gapCq = true then c.closeGap g else c) := .ite (.closeGap hg c) (.refl c)
  generalize (if (c.lane g).gapCq = true then c.closeGap g else c) = d at *
  have htaken := hgap.trans (.boundary d g s)
  generalize d.boundary g s = b at *
  split
  · exact .setLane c g _
  · split
    · exact .ite (.gapLose c g) ((Chip.StoresOnly.closeBlock hg c p).trans (.startGap hg _ _ 1 1 true))
    · split
      · exact htaken.trans (.transInterval hg _ p _)
      · split
        · exact htaken.trans (.storeQualified hg _ p _)
        · exact htaken.trans (.storeWord hg _ p _)

theorem Chip.StoresOnly.laneEndAt (c : Chip) (p t : Nat) : c.StoresOnly (c.laneEndAt g p t) :=
  (((((Chip.StoresOnly.gapResume hg c p c.now).trans (.closeGap hg _)).trans (.logGaps _ g p t)).trans (.closeBlock hg _ p)).trans
    (.setLane _ g _)).trans (.takeCorrection _ g _)

theorem Chip.StoresOnly.takeFlow (c : Chip) (f : Flow) : c.StoresOnly (c.takeFlow g f) := by
  unfold Chip.takeFlow
  split
  · exact .refl c
  · split
    · exact .refl c
    · split
      · exact (((Chip.StoresOnly.closeGap hg c).trans (.closeBlock hg _ _)).trans (.setLane _ g _)).trans (.startGap hg _ _ 2 0 false)
      · exact .gapResume hg c _ _
      · split
        · exact .refl c
        · split
          · exact .laneEndAt hg c _ _
          · exact .storeSample hg c _ _

theorem Chip.StoresOnly.settleGo : ∀ (n : Nat) (c : Chip), c.StoresOnly (c.settleGo g n)
  | 0, c => .refl c
  | n + 1, c => by
    unfold Chip.settleGo
    split
    · exact .refl c
    · split
      · exact ((Chip.StoresOnly.setLane c g _).trans (.takeFlow hg _ _)).trans (.settleGo n _)
      · exact .refl c

theorem Chip.StoresOnly.laneSettle (c : Chip) : c.StoresOnly (c.laneSettle g) := .settleGo hg _ c

/-! ### The sample clock stops and starts (R288) -/

theorem Chip.StoresOnly.laneStop (c : Chip) : c.StoresOnly (c.laneStop g) := by
  unfold Chip.laneStop
  dsimp only
  split
  · exact .refl c
  · exact (Chip.StoresOnly.setLane c g _).trans (.laneSettle hg _)

theorem Chip.StoresOnly.laneResume (c : Chip) : c.StoresOnly (c.laneResume g) := by
  unfold Chip.laneResume
  dsimp only
  split
  · exact .refl c
  · exact (Chip.StoresOnly.setLane c g _).trans (.laneSettle hg _)

end
end

theorem lt_of_mem_recGroups {c : Chip} {g : Nat} (h : g ∈ c.recGroups) : g < 8 := List.mem_range.1 (List.mem_filter.1 h).1

end Sys2Proof.Machine
end

section
/-! The states of the synthesiser (R278, R281 to R285, R288, R290). -/

namespace Sys2Proof.Machine

/-! ### What a move of the synthesiser keeps -/

/-- Registers of the synthesiser and the ladder that a change of its state leaves as they are. -/
def synKept : List Nat := [R.CLK_SRC, R.CLK_LOSS_CNT, R.CLK_UNLOCK_CNT, R.PWR_STAT]

/-- `d` follows `c` with the fields of CLK_STAT for which `F` holds and these registers as they were. -/
structure Chip.SynKeeps (F : Fld → Prop) (c d : Chip) : Prop where
  stat : ∀ f, F f → d.fld R.CLK_STAT f = c.fld R.CLK_STAT f
  reg : ∀ a ∈ synKept, d.reg a = c.reg a
  line : c.epc.line ≤ d.epc.line
  fatal : d.fatal = c.fatal
  resetReq : d.resetReq = c.resetReq

/-- A field of CLK_STAT that a change of state does not write: not STATE, RAMP or CAUSE. -/
def synApart (f : Fld) : Prop := (3 ≤ f.lo ∧ f.lo + f.w ≤ 6) ∨ (7 ≤ f.lo ∧ f.lo + f.w ≤ 8) ∨ 12 ≤ f.lo

section
variable {F G : Fld → Prop} {c d e : Chip}

theorem Chip.SynKeeps.refl (c : Chip) : Chip.SynKeeps F c c := ⟨fun _ _ => rfl, fun _ _ => rfl, le_rfl, rfl, rfl⟩

theorem Chip.SynKeeps.trans (h : Chip.SynKeeps F c d) (k : Chip.SynKeeps F d e) : Chip.SynKeeps F c e :=
  ⟨fun f hf => (k.stat f hf).trans (h.stat f hf), fun a ha => (k.reg a ha).trans (h.reg a ha), h.line.trans k.line,
    k.fatal.trans h.fatal, k.resetReq.trans h.resetReq⟩

theorem Chip.SynKeeps.mono (h : Chip.SynKeeps F c d) (hG : ∀ f, G f → F f) : Chip.SynKeeps G c d :=
  ⟨fun f hf => h.stat f (hG f hf), h.reg, h.line, h.fatal, h.resetReq⟩

theorem Chip.SynKeeps.ite {b : Prop} [Decidable b] (h : Chip.SynKeeps F c d) (k : Chip.SynKeeps F c e) :
    Chip.SynKeeps F c (if b then d else e) := by
  split
  · exact h
  · exact k

theorem Chip.SynKeeps.flag (h : Chip.SynKeeps F c d) {f : Fld} (hf : F f) : d.flag R.CLK_STAT f = c.flag R.CLK_STAT f := by
  rw [Chip.flag, h.stat f hf, Chip.flag]

theorem Chip.SynKeeps.refSel (h : Chip.SynKeeps F c d) : d.refSel = c.refSel :=
  Chip.flag_congr (h.reg _ List.mem_cons_self) _

theorem Chip.SynKeeps.ladder (h : Chip.SynKeeps F c d) : d.ladder = c.ladder :=
  Chip.fld_congr (h.reg R.PWR_STAT (by decide)) _

theorem Chip.SynKeeps.of_regs (h : d.regs = c.regs) (hline : c.epc.line ≤ d.epc.line) (hf : d.fatal = c.fatal) (hr : d.resetReq = c.resetReq) :
    Chip.SynKeeps F c d := ⟨fun _ _ => Chip.fld_congr (Chip.reg_congr h _) _, fun a _ => Chip.reg_congr h a, hline, hf, hr⟩

theorem Chip.SynKeeps.putClk (c : Chip) (k : Clk) : Chip.SynKeeps F c (c.putClk k) :=
  .of_regs (c.putClk_regs k) (by rw [Chip.putClk_epc]) (c.putClk_fatal k) (c.putClk_resetReq k)

theorem Chip.SynKeeps.of_events (h : c.EventsOnly d) (k : c.RegsIn noteReg d) : Chip.SynKeeps F c d := by
  have hkept : ∀ a ∈ R.CLK_STAT :: synKept, ¬noteReg a := by unfold noteReg; decide
  exact ⟨fun f _ => Chip.fld_congr (k _ (hkept _ List.mem_cons_self)) f, fun a ha => k a (hkept a (List.mem_cons_of_mem _ ha)),
    by rw [h.epc], h.fatal, h.resetReq⟩

theorem Chip.SynKeeps.raise (c : Chip) {e : Nat × Nat} (h : e.1 < 64) : Chip.SynKeeps F c (c.raise e) := .of_events (.raise c e) (.raise c h)

theorem Chip.SynKeeps.setFld_stat (c : Chip) (f : Fld) (v : Nat) (hw : f.lo + f.w ≤ 32) (hF : ∀ g, F g → g.lo + g.w ≤ f.lo ∨ f.lo + f.w ≤ g.lo) :
    Chip.SynKeeps F c (c.setFld R.CLK_STAT f v) :=
  ⟨fun g hg => c.fld_setFld_apart _ _ _ _ hw (hF g hg),
    fun a ha => c.reg_setFld_ne _ _ fun h => absurd (by rw [← h]; exact ha : R.CLK_STAT ∈ synKept) (by decide), by rw [Chip.setFld_epc],
    c.setFld_fatal _ _ _, c.setFld_resetReq _ _ _⟩

theorem Chip.SynKeeps.setN_ne (c : Chip) {a : Nat} (n : Nat) (ha : a ∉ R.CLK_STAT :: synKept) : Chip.SynKeeps F c (c.setN a n) :=
  ⟨fun _ _ => Chip.fld_congr (c.reg_setN_ne n fun h => ha (by rw [← h]; exact List.mem_cons_self)) _,
    fun _ hb => c.reg_setN_ne n fun h => ha (by rw [← h]; exact List.mem_cons_of_mem _ hb), by rw [Chip.setN_epc], c.setN_fatal _ _, c.setN_resetReq _ _⟩

theorem Chip.SynKeeps.waitLine (c : Chip) (t : Nat) : Chip.SynKeeps F c (c.waitLine t) :=
  .of_regs (c.waitLine_regs t) (c.line_le_waitLine t) (c.waitLine_fatal t) (c.waitLine_resetReq t)

theorem Chip.SynKeeps.of_stores (h : c.StoresOnly d) : Chip.SynKeeps F c d := by
  have hkept : ∀ a ∈ R.CLK_STAT :: synKept, ¬storingReg a := by unfold storingReg noteReg; decide
  exact ⟨fun f _ => Chip.fld_congr (h.regs _ (hkept _ List.mem_cons_self)) f, fun a ha => h.regs a (hkept a (List.mem_cons_of_mem _ ha)),
    h.line.ge, h.fatal, h.resetReq⟩
end

/-! ### A change of state (R283) -/

theorem Chip.wordSet_byp (c : Chip) (w : Nat) : (c.wordSet w).clk.byp = c.clk.byp := by
  obtain ⟨k, hb, hk⟩ := c.wordSet_eq w
  rw [hk, Chip.putClk_clk, hb]

theorem Chip.wordMove_byp (c : Chip) (w : Nat) : (c.wordMove w).clk.byp = c.clk.byp := by
  obtain ⟨k, hb, hk⟩ := c.wordMove_eq w
  rw [hk, Chip.putClk_clk, hb]

theorem Chip.SynKeeps.wordSet (c : Chip) (w : Nat) {F : Fld → Prop} : Chip.SynKeeps F c (c.wordSet w) := by
  obtain ⟨k, -, hk⟩ := c.wordSet_eq w
  rw [hk]
  exact .putClk c _

theorem Chip.SynKeeps.wordMove (c : Chip) (w : Nat) {F : Fld → Prop} : Chip.SynKeeps F c (c.wordMove w) := by
  obtain ⟨k, -, hk⟩ := c.wordMove_eq w
  rw [hk]
  exact .putClk c _

/-- The loop follows `XBYP`, or `REFIN`. -/
def Chip.putByp (c : Chip) (b : Bool) : Chip := c.putClk { c.clk with byp := b }

theorem Chip.putByp_byp (c : Chip) (b : Bool) : (c.putByp b).clk.byp = b := by rw [Chip.putByp, Chip.putClk_clk]

theorem Chip.refSwitch_eq (c : Chip) (b : Bool) : ∃ x y, c.refSwitch b = ((c.putByp b).wordSet x).wordMove y := ⟨_, _, rfl⟩

theorem Chip.refTake_eq (c : Chip) (b : Bool) : ∃ x, c.refTake b = (c.putByp b).wordSet x := ⟨_, rfl⟩

theorem Chip.refSwitch_byp (c : Chip) (b : Bool) : (c.refSwitch b).clk.byp = b := by
  obtain ⟨x, y, h⟩ := c.refSwitch_eq b
  rw [h, Chip.wordMove_byp, Chip.wordSet_byp, Chip.putByp_byp]

theorem Chip.SynKeeps.refSwitch (c : Chip) (b : Bool) {F : Fld → Prop} : Chip.SynKeeps F c (c.refSwitch b) := by
  obtain ⟨x, y, h⟩ := c.refSwitch_eq b
  rw [h]
  exact ((Chip.SynKeeps.putClk c _).trans (.wordSet _ x)).trans (.wordMove _ y)

theorem Chip.SynKeeps.refTake (c : Chip) (b : Bool) {F : Fld → Prop} : Chip.SynKeeps F c (c.refTake b) := by
  obtain ⟨x, h⟩ := c.refTake_eq b
  rw [h]
  exact (Chip.SynKeeps.putClk c _).trans (.wordSet _ x)

/-- The registers show the new state with its cause and stamp. -/
def Chip.synShow (c : Chip) (n k : Nat) : Chip :=
  ((c.rampDrop.setFld R.CLK_STAT F.CLK_STAT_STATE n).setFld R.CLK_STAT F.CLK_STAT_CAUSE k).setTriple R.CLK_CHG_L
    ((c.rampDrop.setFld R.CLK_STAT F.CLK_STAT_STATE n).setFld R.CLK_STAT F.CLK_STAT_CAUSE k).now

/-- The event and the record of a change from `old`. -/
def Chip.synNote (c : Chip) (old n k : Nat) : Chip :=
  let d := match synEvent n with
    | some e => c.raiseTyped e
    | none => c
  d.record 6 2 d.now ([old, n, k, 0] ++ leBytes 4 (d.rn R.CLK_LOSS_CNT))

/-- After Coast or Bypass the keeper awaits confirmation. -/
def Chip.synAwait (c : Chip) (n : Nat) : Chip :=
  if n = 3 ∨ n = 4 ∨ n = 5 then { c with epc := { c.epc with postCoast := true, awaiting := true } } else c

theorem Chip.synGo_eq (c : Chip) (n k : Nat) : c.synGo n k = ((c.synShow n k).synNote c.synState n k).synAwait n := rfl

theorem synEvent_lt {n : Nat} {e : Nat × Nat} (h : synEvent n = some e) : e.1 < 64 := by
  unfold synEvent at h
  split at h
  case h_5 => exact absurd h (Option.some_ne_none e).symm
  all_goals
    rw [← Option.some.inj h]
    decide

theorem Chip.synNote_events (c : Chip) (old n k : Nat) : c.EventsOnly (c.synNote old n k) ∧ c.RegsIn noteReg (c.synNote old n k) := by
  unfold Chip.synNote
  dsimp only
  split
  next e he => exact ⟨(Chip.EventsOnly.raiseTyped c e).trans (.record _ _ _ _ _), (Chip.RegsIn.raiseTyped c (synEvent_lt he)).trans (.record _ _ _ _ _)⟩
  next => exact ⟨.record c _ _ _ _, .record c _ _ _ _⟩

theorem Chip.SynKeeps.synShow (c : Chip) (n k : Nat) : Chip.SynKeeps synApart c (c.synShow n k) := by
  have hramp : Chip.SynKeeps synApart c c.rampDrop := .setFld_stat c F.CLK_STAT_RAMP _ (by decide) fun g hg => by
    simp only [F.CLK_STAT_RAMP]; unfold synApart at hg; omega
  have hstate : ∀ d : Chip, Chip.SynKeeps synApart d (d.setFld R.CLK_STAT F.CLK_STAT_STATE n) := fun d => .setFld_stat d _ n (by decide)
    fun g hg => by simp only [F.CLK_STAT_STATE]; unfold synApart at hg; omega
  have hcause : ∀ d : Chip, Chip.SynKeeps synApart d (d.setFld R.CLK_STAT F.CLK_STAT_CAUSE k) := fun d => .setFld_stat d _ k (by decide)
    fun g hg => by simp only [F.CLK_STAT_CAUSE]; unfold synApart at hg; omega
  exact ((hramp.trans (hstate _)).trans (hcause _)).trans
    (((Chip.SynKeeps.setN_ne _ _ (by decide)).trans (.setN_ne _ _ (by decide))).trans (.setN_ne _ _ (by decide)))

theorem Chip.stat_synShow (c : Chip) {n k : Nat} (hn : n < 8) (hk : k < 16) :
    (c.synShow n k).synState = n ∧ (c.synShow n k).fld R.CLK_STAT F.CLK_STAT_CAUSE = k := by
  have htriple : ∀ (d : Chip) (t : Nat), (d.setTriple R.CLK_CHG_L t).reg R.CLK_STAT = d.reg R.CLK_STAT := fun d t =>
    (Chip.reg_setN_ne _ _ (by decide)).trans ((Chip.reg_setN_ne _ _ (by decide)).trans (d.reg_setN_ne _ (by decide)))
  have hmodn : n % 2 ^ 3 = n := Nat.mod_eq_of_lt hn
  have hmodk : k % 2 ^ 4 = k := Nat.mod_eq_of_lt hk
  refine ⟨?_, ?_⟩
  · rw [Chip.synState, Chip.synShow, Chip.fld_congr (htriple _ _), Chip.fld_setFld_apart _ _ _ _ _ (by decide) (.inl (by decide)),
      Chip.fld_setFld _ _ _ _ (by decide)]
    exact hmodn
  · rw [Chip.synShow, Chip.fld_congr (htriple _ _), Chip.fld_setFld _ _ _ _ (by decide)]
    exact hmodk

theorem Chip.synShow_clk (c : Chip) (n k : Nat) : (c.synShow n k).clk = c.clk ∧ (c.synShow n k).epc = c.epc := by
  rw [Chip.synShow, Chip.rampDrop]
  simp

theorem Chip.SynKeeps.synAwait (c : Chip) (n : Nat) {F : Fld → Prop} : Chip.SynKeeps F c (c.synAwait n) :=
  .ite (.of_regs rfl le_rfl rfl rfl) (.refl c)

theorem Chip.synAwait_keeps (c : Chip) (n : Nat) : (c.synAwait n).clk = c.clk ∧ (c.synAwait n).epc.line = c.epc.line ∧
    (c.synAwait n).regs = c.regs := by
  unfold Chip.synAwait
  split
  · exact ⟨rfl, rfl, rfl⟩
  · exact ⟨rfl, rfl, rfl⟩

/-- A change of the synthesiser's state. -/
theorem Chip.synGo_spec (c : Chip) {n k : Nat} (hn : n < 8) (hk : k < 16) : (c.synGo n k).synState = n ∧
    (c.synGo n k).fld R.CLK_STAT F.CLK_STAT_CAUSE = k ∧ (c.synGo n k).clk = c.clk ∧ (c.synGo n k).epc.line = c.epc.line ∧
    Chip.SynKeeps synApart c (c.synGo n k) := by
  obtain ⟨hstate, hcause⟩ := c.stat_synShow hn hk
  obtain ⟨hclk, hepc⟩ := c.synShow_clk n k
  have hshow := Chip.SynKeeps.synShow c n k
  rw [Chip.synGo_eq]
  generalize c.synShow n k = d at *
  obtain ⟨hev, hregs⟩ := d.synNote_events c.synState n k
  have hnote : Chip.SynKeeps synApart d (d.synNote c.synState n k) := .of_events hev hregs
  have hstat : (d.synNote c.synState n k).reg R.CLK_STAT = d.reg R.CLK_STAT := hregs _ (by unfold noteReg; decide)
  have hsame := hev.clk
  have hsameEpc := hev.epc
  generalize d.synNote c.synState n k = e at *
  obtain ⟨kclk, kline, kregs⟩ := e.synAwait_keeps n
  have hfld : ∀ f, (e.synAwait n).fld R.CLK_STAT f = d.fld R.CLK_STAT f := fun f =>
    (Chip.fld_congr (Chip.reg_congr kregs _) f).trans (Chip.fld_congr hstat f)
  exact ⟨(hfld _).trans hstate, (hfld _).trans hcause, kclk.trans (hsame.trans hclk),
    kline.trans (by rw [hsameEpc, hepc]), (hshow.trans hnote).trans (.synAwait e n)⟩

/-! ### The sample clock stops and starts (R288) -/

/-- A field of CLK_STAT other than SAMPLE_ON. -/
def sampleApart (f : Fld) : Prop := f.lo + f.w ≤ 7 ∨ 8 ≤ f.lo

theorem Chip.SynKeeps.setSampleOn (c : Chip) (b : Bool) : Chip.SynKeeps sampleApart c (c.setFlag R.CLK_STAT F.CLK_STAT_SAMPLE_ON b) :=
  .setFld_stat c F.CLK_STAT_SAMPLE_ON _ (by decide) fun _ hg => hg

theorem Chip.SynKeeps.sampleRelease (c : Chip) (b : Bool) : Chip.SynKeeps sampleApart c (c.sampleRelease b) :=
  (Chip.SynKeeps.putClk c { c.clk with gridAt := if b then c.epc.line else c.clk.gridAt }).trans (.setSampleOn (c.putClk _) b)

theorem Chip.sampleOn_sampleRelease (c : Chip) (b : Bool) : (c.sampleRelease b).sampleOn = b := Chip.flag_setFlag _ _ _ _ (by decide) rfl

/-- The groups of recording partitions, one by one, as `f` has it. -/
theorem Chip.StoresOnly.recGroups {f : Chip → Nat → Chip} (hf : ∀ c g, g < 8 → Chip.StoresOnly c (f c g)) (c d : Chip) :
    d.StoresOnly (c.recGroups.foldl f d) := .foldl (fun e g hg => hf e g (lt_of_mem_recGroups hg)) d

/-- The groups' recording goes on. -/
def Chip.resumeAll (c : Chip) : Chip := c.recGroups.foldl (fun c g => c.laneResume g) c

/-- The groups' recording is interrupted. -/
def Chip.stopAll (c : Chip) : Chip := c.recGroups.foldl (fun c g => c.laneStop g) c

theorem Chip.StoresOnly.resumeAll (c : Chip) : c.StoresOnly c.resumeAll := .recGroups (fun c _ hg => .laneResume hg c) c c

theorem Chip.StoresOnly.stopAll (c : Chip) : c.StoresOnly c.stopAll := .recGroups (fun c _ hg => .laneStop hg c) c c

theorem Chip.sampleStart_eq (c : Chip) : c.sampleStart = (c.sampleRelease true).resumeAll.raise Ev.sampleStart := rfl

theorem Chip.sampleStop_eq (c : Chip) : c.sampleStop =
    ((c.stopAll.putClk { c.stopAll.clk with stopAt := c.stopAll.cycle }).setFlag R.CLK_STAT F.CLK_STAT_SAMPLE_ON false).raise Ev.sampleStop := rfl

theorem Chip.SynKeeps.sampleStart (c : Chip) : Chip.SynKeeps sampleApart c c.sampleStart := by
  rw [Chip.sampleStart_eq]
  exact ((Chip.SynKeeps.sampleRelease c true).trans (.of_stores (.resumeAll _))).trans (.raise _ (by decide))

theorem Chip.SynKeeps.sampleStop (c : Chip) : Chip.SynKeeps sampleApart c c.sampleStop := by
  rw [Chip.sampleStop_eq]
  exact (((Chip.SynKeeps.of_stores (.stopAll c)).trans (.putClk _ _)).trans (.setSampleOn _ false)).trans (.raise _ (by decide))

theorem Chip.sampleOn_sampleStop (c : Chip) : c.sampleStop.sampleOn = false := by
  rw [Chip.sampleStop_eq, Chip.sampleOn, Chip.flag_congr (Chip.reg_raise_ne _ _ (by decide))]
  exact Chip.flag_setFlag _ _ _ _ (by decide) rfl

/-- The start moves the grid of the sample clock and nothing else of the synthesiser's state. -/
theorem Chip.sampleStart_clk (c : Chip) : c.sampleStart.clk.byp = c.clk.byp ∧ c.sampleStart.clk.returnHeld = c.clk.returnHeld := by
  have hrelease : (c.sampleRelease true).clk.byp = c.clk.byp ∧ (c.sampleRelease true).clk.returnHeld = c.clk.returnHeld := ⟨rfl, rfl⟩
  rw [Chip.sampleStart_eq, Chip.raise_clk]
  generalize c.sampleRelease true = d at *
  rw [(Chip.StoresOnly.resumeAll d).clk]
  exact hrelease

end Sys2Proof.Machine
end

section
/-! Lock, loss, coast, unlock and return of the synthesiser (Table 12-2, R278, R282 to R285, R290). -/

namespace Sys2Proof.Machine

/-! ### Entries to the states -/

/-- What no entry to a state writes, the sample clock's stop and start included. -/
def moveApart (f : Fld) : Prop := synApart f ∧ sampleApart f

theorem Chip.SynKeeps.pass (c : Chip) (n : Nat) {F : Fld → Prop} : Chip.SynKeeps F c (c.pass n) := by
  have hline : c.epc.line ≤ (c.pass n).epc.line := by rw [Chip.pass_line]; omega
  obtain ⟨k, e, h⟩ := c.pass_eq n
  rw [h] at hline ⊢
  exact .of_regs rfl hline rfl rfl

/-- The switch to `XBYP` where the loop does not follow it yet. -/
def Chip.toXbyp (c : Chip) : Chip := if c.clk.byp then c else c.refSwitch true

theorem Chip.toXbyp_byp (c : Chip) : c.toXbyp.clk.byp = true := by
  unfold Chip.toXbyp
  split
  next h => exact h
  next => exact c.refSwitch_byp true

theorem Chip.SynKeeps.toXbyp (c : Chip) {F : Fld → Prop} : Chip.SynKeeps F c c.toXbyp := .ite (.refl c) (.refSwitch c true)

/-- The dither generator is loaded, and no RETURN is held off. -/
def Chip.bypassReady (c : Chip) : Chip := { c.ditherLoad with clk := { c.ditherLoad.clk with returnHeld := false } }

theorem Chip.bypassReady_eq (c : Chip) : ∃ k : Clk, k.byp = c.clk.byp ∧ c.bypassReady = c.putClk k := by
  refine ⟨_, ?_, rfl⟩
  rfl

theorem Chip.synBypass_eq (c : Chip) (k : Nat) : c.synBypass k =
    if (c.clk.returnHeld && decide (c.ladder ≤ 1)) = true then (c.toXbyp.synGo 4 k).bypassReady.sampleStart
    else (c.toXbyp.synGo 4 k).bypassReady := rfl

theorem Chip.synBypass_spec (c : Chip) {k : Nat} (hk : k < 16) : (c.synBypass k).synState = 4 ∧ (c.synBypass k).clk.byp = true ∧
    Chip.SynKeeps moveApart c (c.synBypass k) := by
  have hx := Chip.SynKeeps.toXbyp c (F := moveApart)
  have hbyp := c.toXbyp_byp
  rw [Chip.synBypass_eq]
  generalize c.toXbyp = d at *
  obtain ⟨hstate, -, hclk, -, hgo⟩ := d.synGo_spec (n := 4) (by decide) hk
  generalize d.synGo 4 k = e at *
  obtain ⟨m, hm, hready⟩ := e.bypassReady_eq
  have hstart := Chip.SynKeeps.sampleStart e.bypassReady
  have hstartClk := e.bypassReady.sampleStart_clk
  rw [hready] at hstart hstartClk ⊢
  have hkeep : Chip.SynKeeps moveApart c (e.putClk m) := (hx.trans (hgo.mono fun _ hf => hf.1)).trans (.putClk e m)
  have hput : (e.putClk m).synState = 4 := (Chip.fld_congr (Chip.reg_congr (e.putClk_regs m) _) _).trans hstate
  have hputByp : (e.putClk m).clk.byp = true := by rw [Chip.putClk_clk, hm, hclk, hbyp]
  split
  · refine ⟨(hstart.stat _ (.inl (by decide))).trans hput, hstartClk.1.trans hputByp, hkeep.trans (hstart.mono fun _ hf => hf.2)⟩
  · exact ⟨hput, hputByp, hkeep⟩

theorem Chip.synGated_eq (c : Chip) (k : Nat) : c.synGated k =
    if c.sampleOn = true then (c.toXbyp.synGo 5 k).sampleStop else c.toXbyp.synGo 5 k := rfl

theorem Chip.synGated_spec (c : Chip) {k : Nat} (hk : k < 16) : (c.synGated k).synState = 5 ∧
    (c.sampleOn = true → (c.synGated k).sampleOn = false) ∧ Chip.SynKeeps moveApart c (c.synGated k) := by
  have hx := Chip.SynKeeps.toXbyp c (F := moveApart)
  rw [Chip.synGated_eq]
  generalize c.toXbyp = d at *
  obtain ⟨hstate, -, -, -, hgo⟩ := d.synGo_spec (n := 5) (by decide) hk
  generalize d.synGo 5 k = e at *
  have hkeep : Chip.SynKeeps moveApart c e := hx.trans (hgo.mono fun _ hf => hf.1)
  have hstop := Chip.SynKeeps.sampleStop e
  split
  · exact ⟨(hstop.stat _ (.inl (by decide))).trans hstate, fun _ => e.sampleOn_sampleStop, hkeep.trans (hstop.mono fun _ hf => hf.2)⟩
  next hoff => exact ⟨hstate, fun hon => absurd hon hoff, hkeep⟩

/-- COAST is counted from now on. -/
def Chip.coastFrom (c : Chip) : Chip := c.putClk { c.clk with coastAt := c.epc.line }

theorem Chip.wordFreeze_eq (c : Chip) : ∃ w, c.wordFreeze = c.wordSet w := ⟨_, rfl⟩

theorem Chip.synCoast_eq (c : Chip) (k : Nat) : c.synCoast k = (c.wordFreeze.synGo 3 k).coastFrom := by
  unfold Chip.synCoast
  generalize c.wordFreeze.synGo 3 k = d
  rfl

theorem Chip.coastFrom_keeps (c : Chip) {F : Fld → Prop} : Chip.SynKeeps F c c.coastFrom := .putClk c _

theorem Chip.coastFrom_coastAt (c : Chip) : c.coastFrom.clk.coastAt = c.epc.line := by rw [Chip.coastFrom, Chip.putClk_clk]

theorem Chip.wordFreeze_line (c : Chip) : c.wordFreeze.epc.line = c.epc.line := by
  obtain ⟨w, hw⟩ := c.wordFreeze_eq
  obtain ⟨m, -, hm⟩ := c.wordSet_eq w
  rw [hw, hm, Chip.putClk_epc]

theorem Chip.SynKeeps.wordFreeze (c : Chip) {F : Fld → Prop} : Chip.SynKeeps F c c.wordFreeze := by
  obtain ⟨w, hw⟩ := c.wordFreeze_eq
  rw [hw]
  exact .wordSet c w

theorem Chip.synCoast_spec (c : Chip) {k : Nat} (hk : k < 16) : (c.synCoast k).synState = 3 ∧
    (c.synCoast k).fld R.CLK_STAT F.CLK_STAT_CAUSE = k ∧ (c.synCoast k).clk.coastAt = c.epc.line ∧ Chip.SynKeeps synApart c (c.synCoast k) := by
  have hw := Chip.SynKeeps.wordFreeze c (F := synApart)
  have hline := c.wordFreeze_line
  rw [Chip.synCoast_eq]
  generalize c.wordFreeze = d at *
  obtain ⟨hstate, hcause, -, hkline, hgo⟩ := d.synGo_spec (n := 3) (by decide) hk
  generalize d.synGo 3 k = e at *
  have hfrom := Chip.coastFrom_keeps e (F := fun _ => True)
  exact ⟨(hfrom.stat _ trivial).trans hstate, (hfrom.stat _ trivial).trans hcause, e.coastFrom_coastAt.trans (hkline.trans hline),
    (hw.trans hgo).trans (hfrom.mono fun _ _ => trivial)⟩

/-- A field that an entry to RETURN leaves as it is. -/
def returnApart (f : Fld) : Prop := synApart f ∧ (f.lo + f.w ≤ 4 ∨ 5 ≤ f.lo)

theorem Chip.synReturn_eq (c : Chip) (k : Nat) : ∃ m n, c.synReturn k =
    ((((c.refSwitch false).synGo 6 k).putClk m).setFlag R.CLK_STAT F.CLK_STAT_LOCK false).putClk n := ⟨_, _, rfl⟩

theorem Chip.synReturn_spec (c : Chip) {k : Nat} (hk : k < 16) : (c.synReturn k).synState = 6 ∧
    (c.synReturn k).flag R.CLK_STAT F.CLK_STAT_LOCK = false ∧ Chip.SynKeeps returnApart c (c.synReturn k) := by
  obtain ⟨m, n, hret⟩ := c.synReturn_eq k
  have hsw := Chip.SynKeeps.refSwitch c false (F := returnApart)
  rw [hret]
  generalize c.refSwitch false = d at *
  obtain ⟨hstate, -, -, -, hgo⟩ := d.synGo_spec (n := 6) (by decide) hk
  generalize d.synGo 6 k = e at *
  have hlock : Chip.SynKeeps returnApart (e.putClk m) ((e.putClk m).setFlag R.CLK_STAT F.CLK_STAT_LOCK false) :=
    .setFld_stat _ F.CLK_STAT_LOCK _ (by decide) fun g hg => hg.2
  have hkeep : Chip.SynKeeps returnApart c ((e.putClk m).setFlag R.CLK_STAT F.CLK_STAT_LOCK false) :=
    ((hsw.trans (hgo.mono fun _ hf => hf.1)).trans (.putClk e m)).trans hlock
  have hsame : (((e.putClk m).setFlag R.CLK_STAT F.CLK_STAT_LOCK false).putClk n).reg R.CLK_STAT =
      ((e.putClk m).setFlag R.CLK_STAT F.CLK_STAT_LOCK false).reg R.CLK_STAT := Chip.reg_congr (Chip.putClk_regs _ n) _
  refine ⟨(Chip.fld_congr hsame _).trans ?_, (Chip.flag_congr hsame _).trans (Chip.flag_setFlag _ _ _ _ (by decide) rfl), hkeep.trans (.putClk _ n)⟩
  exact (Chip.fld_setFlag_of_apart _ _ _ _ _ _ (by decide) (.inl (by decide))).trans
    ((Chip.fld_congr (Chip.reg_congr (e.putClk_regs m) _) _).trans hstate)

/-! ### Lock (R272, R278) -/

theorem doSynLocked_of_not_met {l : List (Nat × Nat)} (h : lockMet l = false) (ga oa : Nat) (c : Chip) :
    doSynLocked l ga oa c = c.phaseNote l := if_pos (.inr (.inr h))

/-- What the detector and the aligners report, with LOCK set. -/
def Chip.lockShown (c : Chip) (l : List (Nat × Nat)) (ga oa : Nat) : Chip :=
  ((c.phaseNote l).alignNote ga oa).setFlag R.CLK_STAT F.CLK_STAT_LOCK true

theorem Chip.phaseNote_eq (c : Chip) (l : List (Nat × Nat)) : ∃ k : Clk, k.byp = c.clk.byp ∧ k.returnHeld = c.clk.returnHeld ∧ c.phaseNote l = c.putClk k := by
  refine ⟨_, ?_, ?_, rfl⟩
  · rfl
  · rfl

theorem Chip.lockShown_spec (c : Chip) (l : List (Nat × Nat)) {ga oa : Nat} (hga : ga < 256) (hoa : oa < 256) :
    (c.lockShown l ga oa).flag R.CLK_STAT F.CLK_STAT_LOCK = true ∧ (c.lockShown l ga oa).fld R.CLK_STAT F.CLK_STAT_GA_LOCK = ga ∧
      (c.lockShown l ga oa).fld R.CLK_STAT F.CLK_STAT_OA_LOCK = oa ∧ Chip.SynKeeps (fun f => f = F.CLK_STAT_REF_OK) c (c.lockShown l ga oa) := by
  obtain ⟨k, -, -, hk⟩ := c.phaseNote_eq l
  have hmod : ga % 2 ^ 8 = ga ∧ oa % 2 ^ 8 = oa := ⟨Nat.mod_eq_of_lt hga, Nat.mod_eq_of_lt hoa⟩
  have hnote : Chip.SynKeeps (fun f => f = F.CLK_STAT_REF_OK) c (c.putClk k) := .putClk c k
  rw [Chip.lockShown, hk, Chip.alignNote]
  generalize c.putClk k = d at *
  have hgaShow : Chip.SynKeeps (fun f => f = F.CLK_STAT_REF_OK) d (d.setFld R.CLK_STAT F.CLK_STAT_GA_LOCK ga) :=
    .setFld_stat d _ _ (by decide) fun g hg => by rw [hg]; decide
  have hgaFld : (d.setFld R.CLK_STAT F.CLK_STAT_GA_LOCK ga).fld R.CLK_STAT F.CLK_STAT_GA_LOCK = ga :=
    (d.fld_setFld _ _ _ (by decide)).trans hmod.1
  generalize d.setFld R.CLK_STAT F.CLK_STAT_GA_LOCK ga = e at *
  have hoaShow : Chip.SynKeeps (fun f => f = F.CLK_STAT_REF_OK) e (e.setFld R.CLK_STAT F.CLK_STAT_OA_LOCK oa) :=
    .setFld_stat e _ _ (by decide) fun g hg => by rw [hg]; decide
  have hoaFld : (e.setFld R.CLK_STAT F.CLK_STAT_OA_LOCK oa).fld R.CLK_STAT F.CLK_STAT_OA_LOCK = oa :=
    (e.fld_setFld _ _ _ (by decide)).trans hmod.2
  have hgaKept : (e.setFld R.CLK_STAT F.CLK_STAT_OA_LOCK oa).fld R.CLK_STAT F.CLK_STAT_GA_LOCK = ga :=
    (e.fld_setFld_apart _ _ _ _ (by decide) (.inl (by decide))).trans hgaFld
  generalize e.setFld R.CLK_STAT F.CLK_STAT_OA_LOCK oa = x at *
  have hlockShow : Chip.SynKeeps (fun f => f = F.CLK_STAT_REF_OK) x (x.setFlag R.CLK_STAT F.CLK_STAT_LOCK true) :=
    .setFld_stat x F.CLK_STAT_LOCK _ (by decide) fun g hg => by rw [hg]; decide
  exact ⟨Chip.flag_setFlag _ _ _ _ (by decide) rfl, (Chip.fld_setFlag_of_apart _ _ _ _ _ _ (by decide) (.inr (by decide))).trans hgaKept,
    (Chip.fld_setFlag_of_apart _ _ _ _ _ _ (by decide) (.inr (by decide))).trans hoaFld, ((hnote.trans hgaShow).trans hoaShow).trans hlockShow⟩

theorem doSynLocked_of_met {l : List (Nat × Nat)} {c : Chip} {ga oa : Nat} (h : lockMet l = true) (hstate : c.synState = 1 ∨ c.synState = 6) :
    doSynLocked l ga oa c =
      if c.synState = 1 then (if ga % 256 = 255 ∧ oa % 256 = 255 then (c.lockShown l ga oa).acquireEnd else c.lockShown l ga oa)
      else
        let d := ((c.lockShown l ga oa).synGo 2 2).putClk { ((c.lockShown l ga oa).synGo 2 2).clk with returnHeld := false }
        if (c.clk.returnHeld && decide (c.ladder ≤ 1)) = true then d.sampleStart else d := by
  have hgo : ¬(c.synState = 0 ∨ c.synState = 3 ∨ lockMet l = false) := by rw [h]; rcases hstate with hs | hs <;> rw [hs] <;> decide
  unfold doSynLocked
  dsimp only
  rw [if_neg hgo]
  rcases hstate with hs | hs
  · rw [if_pos hs, if_pos hs]
    rfl
  · have hone : ¬c.synState = 1 := by rw [hs]; decide
    rw [if_neg hone, if_pos hs, if_neg hone]
    rfl

theorem Chip.stage_of_atWork {c : Chip} (h : c.atWork = true) : c.stage = 9 := by
  simp only [Chip.atWork, Bool.and_eq_true, decide_eq_true_eq] at h
  exact h.1.2

/-- The start is over: SYN_LOCKED is only the synthesiser's. -/
theorem exec_synLocked {s : State} (h : s.chip.atWork = true) (l : List (Nat × Nat)) {ga oa : Nat} (hga : ga < 256) (hoa : oa < 256) :
    exec (.synLocked l ga oa) s = .next (s.after (doSynLocked l ga oa s.chip)) := by
  have hexec := State.act_of_atWork (i := .synLocked l ga oa) h (by simp [Instr.wf, hga, hoa]) (doSynLockedStart l ga oa)
  have hstart : s.chip.starting 4 = false := by rw [Chip.starting, Chip.stage_of_atWork h]; rfl
  have hdo : doSynLockedStart l ga oa s.chip = doSynLocked l ga oa s.chip := if_neg fun hc => absurd (hstart ▸ hc.1) Bool.false_ne_true
  rw [hdo] at hexec
  exact hexec

theorem completes_synLocked_acquire {s : State} {l : List (Nat × Nat)} (h : s.chip.atWork = true) (hmet : lockMet l = true)
    (hstate : s.chip.synState = 1) (hok : s.chip.refOk = true) (hsel : s.chip.refSel = false) :
    Completes (.synLocked l 255 255) s (fun c => c.synState = 2 ∧ c.flag R.CLK_STAT F.CLK_STAT_LOCK = true ∧ c.sampleOn = true ∧
        c.fld R.CLK_STAT F.CLK_STAT_GA_LOCK = 255 ∧ c.fld R.CLK_STAT F.CLK_STAT_OA_LOCK = 255) := by
  have hexec := exec_synLocked h l (ga := 255) (oa := 255) (by decide) (by decide)
  rw [doSynLocked_of_met hmet (.inl hstate), if_pos hstate, if_pos (by decide)] at hexec
  obtain ⟨hlock, hga, hoa, hshown⟩ := s.chip.lockShown_spec l (ga := 255) (oa := 255) (by decide) (by decide)
  generalize s.chip.lockShown l 255 255 = d at *
  have hreport : Chip.SynKeeps (fun _ => True) d d.fscReport := .setN_ne d _ (by decide)
  have hladder : d.fscReport.ladder = 0 := hreport.ladder.trans (hshown.ladder.trans (Chip.ladder_of_atWork h))
  have hgoes : (d.fscReport.refOk && !d.fscReport.refSel) = true := by
    have hok' : d.fscReport.refOk = true := (hreport.flag trivial).trans ((hshown.flag rfl).trans hok)
    rw [hok', hreport.refSel, hshown.refSel, hsel]
    rfl
  have hend : d.acquireEnd = ((d.fscReport.refTake false).synGo 2 2).sampleRelease true := by
    unfold Chip.acquireEnd
    dsimp only
    rw [if_pos hgoes, hladder]
    rfl
  have hfatal := hreport.fatal.trans (hshown.fatal.trans (Chip.fatal_of_atWork h))
  have hreset := hreport.resetReq.trans (hshown.resetReq.trans (Chip.resetReq_of_atWork h))
  rw [hend] at hexec
  rw [← hreport.flag trivial] at hlock
  rw [← hreport.stat _ trivial] at hga hoa
  generalize d.fscReport = e at *
  have htake := Chip.SynKeeps.refTake e false (F := moveApart)
  generalize e.refTake false = x at *
  obtain ⟨hgostate, -, -, -, hgo⟩ := x.synGo_spec (n := 2) (k := 2) (by decide) (by decide)
  generalize x.synGo 2 2 = y at *
  have hrelease := Chip.SynKeeps.sampleRelease y true
  have hall : Chip.SynKeeps moveApart e (y.sampleRelease true) :=
    (htake.trans (hgo.mono fun _ hf => hf.1)).trans (hrelease.mono fun _ hf => hf.2)
  refine .of_exec hexec (hall.fatal.trans hfatal) (hall.resetReq.trans hreset)
    ⟨(hrelease.stat _ (.inl (by decide))).trans hgostate, (hall.flag ⟨.inl (by decide), .inl (by decide)⟩).trans hlock,
      y.sampleOn_sampleRelease true, (hall.stat _ ⟨.inr (.inr (by decide)), .inr (by decide)⟩).trans hga,
      (hall.stat _ ⟨.inr (.inr (by decide)), .inr (by decide)⟩).trans hoa⟩

theorem completes_synLocked_return {s : State} {l : List (Nat × Nat)} (h : s.chip.atWork = true) (hmet : lockMet l = true) {ga oa : Nat}
    (hga : ga < 256) (hoa : oa < 256) (hstate : s.chip.synState = 6) :
    Completes (.synLocked l ga oa) s (fun c => c.synState = 2 ∧ c.flag R.CLK_STAT F.CLK_STAT_LOCK = true ∧ c.clk.returnHeld = false) := by
  have hexec := exec_synLocked h l hga hoa
  rw [doSynLocked_of_met hmet (.inr hstate), if_neg (by rw [hstate]; decide)] at hexec
  obtain ⟨hlock, -, -, hshown⟩ := s.chip.lockShown_spec l hga hoa
  have hfatal := hshown.fatal.trans (Chip.fatal_of_atWork h)
  have hreset := hshown.resetReq.trans (Chip.resetReq_of_atWork h)
  generalize s.chip.lockShown l ga oa = d at *
  obtain ⟨hgostate, -, -, -, hgo⟩ := d.synGo_spec (n := 2) (k := 2) (by decide) (by decide)
  generalize d.synGo 2 2 = e at *
  dsimp only at hexec
  have hput : Chip.SynKeeps (fun _ => True) e (e.putClk { e.clk with returnHeld := false }) := .putClk e _
  have hheld : (e.putClk { e.clk with returnHeld := false }).clk.returnHeld = false := by rw [Chip.putClk_clk]
  generalize e.putClk { e.clk with returnHeld := false } = x at *
  have hx : Chip.SynKeeps synApart d x := hgo.trans (hput.mono fun _ _ => trivial)
  have hxstate : x.synState = 2 := (hput.stat _ trivial).trans hgostate
  have hxlock : x.flag R.CLK_STAT F.CLK_STAT_LOCK = true := (hx.flag (.inl (by decide))).trans hlock
  split at hexec
  · have hstart := Chip.SynKeeps.sampleStart x
    exact .of_exec hexec (hstart.fatal.trans (hx.fatal.trans hfatal)) (hstart.resetReq.trans (hx.resetReq.trans hreset))
      ⟨(hstart.stat _ (.inl (by decide))).trans hxstate, (hstart.flag (.inl (by decide))).trans hxlock, x.sampleStart_clk.2.trans hheld⟩
  · exact .of_exec hexec (hx.fatal.trans hfatal) (hx.resetReq.trans hreset) ⟨hxstate, hxlock, hheld⟩

/-! ### Loss of reference (R282) -/

/-- Loss of reference is shown and counted. -/
def Chip.lossShown (c : Chip) : Chip :=
  (((c.putClk { c.clk with refFrom := c.epc.line }).setFlag R.CLK_STAT F.CLK_STAT_REF_OK false).addCnt R.CLK_LOSS_CNT 1).raise Ev.refLoss

theorem Chip.lossShown_spec (c : Chip) : c.lossShown.refOk = false ∧ c.lossShown.reg R.CLK_LOSS_CNT = c.reg R.CLK_LOSS_CNT + 1 ∧
    c.lossShown.sampleOn = c.sampleOn ∧ c.lossShown.gated = c.gated ∧ c.lossShown.epc = c.epc ∧ c.lossShown.fatal = c.fatal ∧
    c.lossShown.resetReq = c.resetReq := by
  have hput : ∀ a, (c.putClk { c.clk with refFrom := c.epc.line }).reg a = c.reg a := fun a => Chip.reg_congr (c.putClk_regs _) a
  have hreg : ∀ a, a ∉ eventRegs Ev.refLoss → a ≠ R.CLK_LOSS_CNT → c.lossShown.reg a =
      ((c.putClk { c.clk with refFrom := c.epc.line }).setFlag R.CLK_STAT F.CLK_STAT_REF_OK false).reg a := fun a he hcnt => by
    rw [Chip.lossShown, Chip.reg_raise_ne _ _ he, Chip.reg_addCnt_ne _ _ hcnt]
  refine ⟨?_, ?_, ?_, ?_, ?_, ?_, ?_⟩
  · rw [Chip.refOk, Chip.flag_congr (hreg _ (by decide) (by decide)), Chip.flag_setFlag _ _ _ _ (by decide) rfl]
  · rw [Chip.lossShown, Chip.reg_raise_ne _ _ (by decide), Chip.reg_addCnt_one, Chip.reg_setFlag_ne _ _ _ (by decide), hput]
  · rw [Chip.sampleOn, Chip.flag_congr (hreg _ (by decide) (by decide)),
      Chip.flag_setFlag_of_apart _ _ _ _ _ _ (by decide) (.inr (by decide)), Chip.flag_congr (hput _), Chip.sampleOn]
  · rw [Chip.gated, Chip.flag_congr (hreg _ (by decide) (by decide)), Chip.flag_congr (Chip.reg_setFlag_ne _ _ _ (by decide)),
      Chip.flag_congr (hput _), Chip.gated]
  · simp [Chip.lossShown]
  · simp [Chip.lossShown]
  · simp [Chip.lossShown]

theorem doRefLoss_of_locked {c : Chip} {k m : Nat} (hstate : c.synState = 2) (hok : c.refOk = true) (hlost : c.refLost k m = true) :
    doRefLoss k m c = if c.lossShown.gated = true then c.lossShown.synGated k else c.lossShown.synCoast k := by
  have hcond : (c.refOk && decide (c.synState ≠ 0) && c.refLost k m) = true := by rw [hok, hstate, hlost]; rfl
  unfold doRefLoss
  dsimp only
  rw [if_pos hcond, if_pos (.inl hstate)]
  rfl

theorem completes_refLoss_coast {s : State} {k m : Nat} (h : s.chip.atWork = true) (hstate : s.chip.synState = 2) (hok : s.chip.refOk = true)
    (hk : k < 8) (hlost : s.chip.refLost k m = true) (hgated : s.chip.gated = false) :
    Completes (.refLoss k m) s (fun c => c.synState = 3 ∧ c.refOk = false ∧ c.reg R.CLK_LOSS_CNT = s.chip.reg R.CLK_LOSS_CNT + 1 ∧
      c.fld R.CLK_STAT F.CLK_STAT_CAUSE = k ∧ c.sampleOn = s.chip.sampleOn ∧ c.clk.coastAt = s.chip.epc.line) := by
  have hexec := State.act_of_atWork (i := .refLoss k m) h (decide_eq_true hk) (doRefLoss k m)
  obtain ⟨hlossOk, hcnt, hon, hg, hepc, hfatal, hreset⟩ := s.chip.lossShown_spec
  rw [doRefLoss_of_locked hstate hok hlost, if_neg (by rw [hg, hgated]; decide)] at hexec
  generalize s.chip.lossShown = d at *
  obtain ⟨hcoast, hcause, hat, hkeep⟩ := d.synCoast_spec (k := k) (by omega)
  exact .of_exec hexec (hkeep.fatal.trans (hfatal.trans (Chip.fatal_of_atWork h))) (hkeep.resetReq.trans (hreset.trans (Chip.resetReq_of_atWork h)))
    ⟨hcoast, (hkeep.flag (.inl (by decide))).trans hlossOk, (hkeep.reg _ (by decide)).trans hcnt, hcause,
      (hkeep.flag (.inr (.inl (by decide)))).trans hon, by rw [hat, hepc]⟩

theorem completes_refLoss_gated {s : State} {k m : Nat} (h : s.chip.atWork = true) (hstate : s.chip.synState = 2) (hok : s.chip.refOk = true)
    (hk : k < 8) (hlost : s.chip.refLost k m = true) (hgated : s.chip.gated = true) :
    Completes (.refLoss k m) s (fun c => c.synState = 5 ∧ c.refOk = false ∧ (s.chip.sampleOn = true → c.sampleOn = false)) := by
  have hexec := State.act_of_atWork (i := .refLoss k m) h (decide_eq_true hk) (doRefLoss k m)
  obtain ⟨hlossOk, -, hon, hg, -, hfatal, hreset⟩ := s.chip.lossShown_spec
  rw [doRefLoss_of_locked hstate hok hlost, if_pos (hg.trans hgated)] at hexec
  generalize s.chip.lossShown = d at *
  obtain ⟨hstop, hoff, hkeep⟩ := d.synGated_spec (k := k) (by omega)
  exact .of_exec hexec (hkeep.fatal.trans (hfatal.trans (Chip.fatal_of_atWork h))) (hkeep.resetReq.trans (hreset.trans (Chip.resetReq_of_atWork h)))
    ⟨hstop, (hkeep.flag ⟨.inl (by decide), .inl (by decide)⟩).trans hlossOk, fun hs => hoff (hon.trans hs)⟩

/-! ### The end of COAST (R283) -/

theorem completes_coastMaxExpire {s : State} (h : s.chip.atWork = true) (hstate : s.chip.synState = 3) :
    Completes .coastMaxExpire s (fun c => c.synState = 4 ∧ s.chip.clk.coastAt + s.chip.coastMax * 1000 * micro ≤ c.epc.line ∧ c.clk.byp = true) := by
  have hexec := State.act_of_atWork (i := .coastMaxExpire) h rfl doCoastMaxExpire
  have hdo : doCoastMaxExpire s.chip = (s.chip.waitLine (s.chip.clk.coastAt + s.chip.coastMax * 1000 * micro)).synBypass 7 := if_pos hstate
  rw [hdo] at hexec
  generalize s.chip.clk.coastAt + s.chip.coastMax * 1000 * micro = t at *
  have hline := Chip.le_line_waitLine s.chip t
  have hfatal := (Chip.waitLine_fatal s.chip t).trans (Chip.fatal_of_atWork h)
  have hreset := (Chip.waitLine_resetReq s.chip t).trans (Chip.resetReq_of_atWork h)
  generalize s.chip.waitLine t = d at *
  obtain ⟨hbypass, hbyp, hkeep⟩ := d.synBypass_spec (k := 7) (by decide)
  exact .of_exec hexec (hkeep.fatal.trans hfatal) (hkeep.resetReq.trans hreset) ⟨hbypass, hline.trans hkeep.line, hbyp⟩

/-! ### Unlock (R278, R290) -/

/-- The lost lock of an aligner is shown, with the phase errors. -/
def Chip.unlockNoted (c : Chip) (al : Option Nat) (l : List (Nat × Nat)) : Chip :=
  (match al with
    | some n => c.alignLost n
    | none => c).phaseNote l

/-- An unlock clears LOCK and is counted. -/
def Chip.unlockShown (c : Chip) : Chip := ((c.setFlag R.CLK_STAT F.CLK_STAT_LOCK false).addCnt R.CLK_UNLOCK_CNT 1).raise Ev.synUnlock

theorem Chip.unlockNoted_spec (c : Chip) (al : Option Nat) (l : List (Nat × Nat)) :
    (∀ f : Fld, f.lo + f.w ≤ 16 → (c.unlockNoted al l).fld R.CLK_STAT f = c.fld R.CLK_STAT f) ∧
    (∀ a, a ≠ R.CLK_STAT → (c.unlockNoted al l).reg a = c.reg a) ∧ (c.unlockNoted al l).fatal = c.fatal ∧
    (c.unlockNoted al l).resetReq = c.resetReq ∧
    ∀ n, al = some n → n < 8 → bit ((c.unlockNoted al l).fld R.CLK_STAT F.CLK_STAT_GA_LOCK) n = false := by
  have hnote : ∀ d : Chip, (d.phaseNote l).regs = d.regs ∧ (d.phaseNote l).fatal = d.fatal ∧ (d.phaseNote l).resetReq = d.resetReq := fun d => by
    obtain ⟨k, -, -, hk⟩ := d.phaseNote_eq l
    rw [hk]
    exact ⟨d.putClk_regs k, d.putClk_fatal k, d.putClk_resetReq k⟩
  unfold Chip.unlockNoted
  cases al with
  | none =>
    obtain ⟨hregs, hf, hr⟩ := hnote c
    exact ⟨fun f _ => Chip.fld_congr (Chip.reg_congr hregs _) f, fun a _ => Chip.reg_congr hregs a, hf, hr, fun n hn => by simp at hn⟩
  | some n =>
    have hlost : ∃ g v, (g = F.CLK_STAT_GA_LOCK ∨ g = F.CLK_STAT_OA_LOCK) ∧ c.alignLost n = c.setFld R.CLK_STAT g v ∧
        (n < 8 → g = F.CLK_STAT_GA_LOCK ∧ v = maskClear (c.fld R.CLK_STAT F.CLK_STAT_GA_LOCK) n) := by
      unfold Chip.alignLost
      split
      next hn => exact ⟨_, _, .inl rfl, rfl, fun _ => ⟨rfl, rfl⟩⟩
      next hn => exact ⟨_, _, .inr rfl, rfl, fun h => absurd h hn⟩
    obtain ⟨g, v, hg, hset, hsmall⟩ := hlost
    dsimp only
    rw [hset]
    obtain ⟨hregs, hf, hr⟩ := hnote (c.setFld R.CLK_STAT g v)
    have hfit : g.lo + g.w ≤ 32 ∧ 16 ≤ g.lo := by rcases hg with rfl | rfl <;> decide
    refine ⟨fun f hf => (Chip.fld_congr (Chip.reg_congr hregs _) f).trans (c.fld_setFld_apart _ _ _ _ hfit.1 (.inl (hf.trans hfit.2))),
      fun a ha => (Chip.reg_congr hregs a).trans (c.reg_setFld_ne _ _ ha), hf.trans (c.setFld_fatal _ _ _), hr.trans (c.setFld_resetReq _ _ _),
      fun m hm hm8 => ?_⟩
    obtain rfl := Option.some.inj hm
    obtain ⟨rfl, rfl⟩ := hsmall hm8
    have hclear : bit (maskClear (c.fld R.CLK_STAT F.CLK_STAT_GA_LOCK) n % 2 ^ 8) n = false := by
      rw [bit_mod_two_pow hm8]
      exact (bit_maskClear _ _ _).trans (if_pos rfl)
    rw [Chip.fld_congr (Chip.reg_congr hregs _), c.fld_setFld _ _ _ (by decide)]
    exact hclear

theorem Chip.unlockShown_spec (c : Chip) : c.unlockShown.flag R.CLK_STAT F.CLK_STAT_LOCK = false ∧
    c.unlockShown.reg R.CLK_UNLOCK_CNT = c.reg R.CLK_UNLOCK_CNT + 1 ∧
    (∀ f : Fld, f.lo + f.w ≤ 4 ∨ 5 ≤ f.lo → c.unlockShown.fld R.CLK_STAT f = c.fld R.CLK_STAT f) ∧
    (∀ a, a ∉ eventRegs Ev.synUnlock → a ≠ R.CLK_UNLOCK_CNT → a ≠ R.CLK_STAT → c.unlockShown.reg a = c.reg a) ∧
    c.unlockShown.fatal = c.fatal ∧ c.unlockShown.resetReq = c.resetReq := by
  have hreg : ∀ a, a ∉ eventRegs Ev.synUnlock → a ≠ R.CLK_UNLOCK_CNT →
      c.unlockShown.reg a = (c.setFlag R.CLK_STAT F.CLK_STAT_LOCK false).reg a := fun a he hcnt => by
    rw [Chip.unlockShown, Chip.reg_raise_ne _ _ he, Chip.reg_addCnt_ne _ _ hcnt]
  refine ⟨?_, ?_, fun f hf => ?_, fun a he hcnt hstat => ?_, ?_, ?_⟩
  · rw [Chip.flag_congr (hreg _ (by decide) (by decide)), Chip.flag_setFlag _ _ _ _ (by decide) rfl]
  · rw [Chip.unlockShown, Chip.reg_raise_ne _ _ (by decide), Chip.reg_addCnt_one, Chip.reg_setFlag_ne _ _ _ (by decide)]
  · rw [Chip.fld_congr (hreg _ (by decide) (by decide)), Chip.fld_setFlag_of_apart _ _ _ _ _ _ (by decide) hf]
  · rw [hreg a he hcnt, Chip.reg_setFlag_ne _ _ _ hstat]
  · simp [Chip.unlockShown]
  · simp [Chip.unlockShown]

theorem doSynUnlock_of_unlocked {c : Chip} {al : Option Nat} {l : List (Nat × Nat)} (hstate : c.synState = 2)
    (h : (unlockMet l = true ∧ c.flag R.CLK_STAT F.CLK_STAT_LOCK = true) ∨ al.isSome = true) :
    doSynUnlock al l c = ((c.unlockNoted al l).unlockShown.unlockGo).synReturnDue := by
  have hcond : ((unlockMet l && (c.flag R.CLK_STAT F.CLK_STAT_LOCK || decide (c.synState = 6))) || (al.isSome && decide (c.synState ≠ 1))) = true := by
    rw [hstate]
    rcases h with ⟨hmet, hlock⟩ | hal
    · rw [hmet, hlock]; rfl
    · rw [hal]; exact Bool.or_true _
  unfold doSynUnlock
  dsimp only
  rw [if_neg (by rw [hstate]; decide), if_pos hcond]
  rfl

theorem Chip.unlockGo_of_locked {c : Chip} (hstate : c.synState = 2) (hgated : c.gated = false) (hok : c.refOk = true) :
    c.unlockGo = c.synBypass 6 := by
  unfold Chip.unlockGo
  dsimp only
  rw [if_pos (.inl hstate), hgated, hok, if_neg Bool.false_ne_true, if_pos rfl]

/-- With `REFIN` qualified BYPASS leads to RETURN where `REFIN` is selected. -/
theorem Chip.synReturnDue_of_bypass {c : Chip} (hstate : c.synState = 4) (hok : c.refOk = true) :
    c.synReturnDue = if c.refSel then c else (c.pass 1).synReturn 8 := by
  unfold Chip.synReturnDue
  dsimp only
  rw [hstate, hok]
  cases c.refSel with
  | true => rw [if_pos rfl, if_neg (by decide)]
  | false => rw [if_neg Bool.false_ne_true, if_pos (by decide)]

theorem completes_synUnlock {s : State} {al : Option Nat} {l : List (Nat × Nat)} (h : s.chip.atWork = true) (hstate : s.chip.synState = 2)
    (hgated : s.chip.gated = false) (hok : s.chip.refOk = true) (hal : al.getD 0 < 16)
    (hun : (unlockMet l = true ∧ s.chip.flag R.CLK_STAT F.CLK_STAT_LOCK = true) ∨ al.isSome = true) :
    Completes (.synUnlock al l) s (fun c => c.synState = (if s.chip.refSel then 4 else 6) ∧ c.flag R.CLK_STAT F.CLK_STAT_LOCK = false ∧
      c.reg R.CLK_UNLOCK_CNT = s.chip.reg R.CLK_UNLOCK_CNT + 1 ∧
      (∀ n, al = some n → n < 8 → bit (c.fld R.CLK_STAT F.CLK_STAT_GA_LOCK) n = false)) := by
  have hexec := State.act_of_atWork (i := .synUnlock al l) h (decide_eq_true hal) (doSynUnlock al l)
  rw [doSynUnlock_of_unlocked hstate hun] at hexec
  obtain ⟨nstat, nreg, nfatal, nreset, nbit⟩ := s.chip.unlockNoted_spec al l
  generalize s.chip.unlockNoted al l = d at *
  obtain ⟨hlock, hcnt, ustat, ureg, ufatal, ureset⟩ := d.unlockShown_spec
  have hgo : d.unlockShown.unlockGo = d.unlockShown.synBypass 6 := by
    refine Chip.unlockGo_of_locked ?_ ?_ ?_
    · rw [Chip.synState, ustat _ (.inl (by decide)), nstat _ (by decide)]; exact hstate
    · rw [Chip.gated, Chip.flag_congr (ureg _ (by decide) (by decide) (by decide)), Chip.flag_congr (nreg _ (by decide))]; exact hgated
    · rw [Chip.refOk, Chip.flag, ustat _ (.inr (by decide)), nstat _ (by decide)]; exact hok
  have hok' : d.unlockShown.refOk = true := by rw [Chip.refOk, Chip.flag, ustat _ (.inr (by decide)), nstat _ (by decide)]; exact hok
  have hsel : d.unlockShown.refSel = s.chip.refSel :=
    (Chip.flag_congr (ureg _ (by decide) (by decide) (by decide)) _).trans (Chip.flag_congr (nreg _ (by decide)) _)
  have hga : ∀ n, al = some n → n < 8 → bit (d.unlockShown.fld R.CLK_STAT F.CLK_STAT_GA_LOCK) n = false := fun n hn h8 => by
    rw [ustat _ (.inr (by decide))]; exact nbit n hn h8
  have hcount : d.unlockShown.reg R.CLK_UNLOCK_CNT = s.chip.reg R.CLK_UNLOCK_CNT + 1 := by rw [hcnt, nreg _ (by decide)]
  rw [hgo] at hexec
  have hfatal := ufatal.trans (nfatal.trans (Chip.fatal_of_atWork h))
  have hreset := ureset.trans (nreset.trans (Chip.resetReq_of_atWork h))
  generalize d.unlockShown = e at *
  obtain ⟨hbypass, -, hkeep⟩ := e.synBypass_spec (k := 6) (by decide)
  rw [Chip.synReturnDue_of_bypass hbypass ((hkeep.flag ⟨.inl (by decide), .inl (by decide)⟩).trans hok'), hkeep.refSel, hsel] at hexec
  have hlock' := (hkeep.flag (f := F.CLK_STAT_LOCK) ⟨.inl (by decide), .inl (by decide)⟩).trans hlock
  have hga' : ∀ n, al = some n → n < 8 → bit ((e.synBypass 6).fld R.CLK_STAT F.CLK_STAT_GA_LOCK) n = false := fun n hn h8 => by
    rw [hkeep.stat _ ⟨.inr (.inr (by decide)), .inr (by decide)⟩]; exact hga n hn h8
  have hcount' := (hkeep.reg R.CLK_UNLOCK_CNT (by decide)).trans hcount
  have hfatal' := hkeep.fatal.trans hfatal
  have hreset' := hkeep.resetReq.trans hreset
  generalize e.synBypass 6 = x at *
  cases hs : s.chip.refSel with
  | true =>
    rw [hs, if_pos rfl] at hexec
    exact .of_exec hexec hfatal' hreset' ⟨hbypass, hlock', hcount', hga'⟩
  | false =>
    rw [hs, if_neg Bool.false_ne_true] at hexec
    have hpass := Chip.SynKeeps.pass x 1 (F := returnApart)
    generalize x.pass 1 = y at *
    obtain ⟨hret, hoff, hback⟩ := y.synReturn_spec (k := 8) (by decide)
    have hall := hpass.trans hback
    exact .of_exec hexec (hall.fatal.trans hfatal') (hall.resetReq.trans hreset') ⟨hret, hoff, (hall.reg _ (by decide)).trans hcount',
      fun n hn h8 => by rw [hall.stat _ ⟨.inr (.inr (by decide)), .inr (by decide)⟩]; exact hga' n hn h8⟩

/-! ### Return of the reference (R282) -/

theorem completes_refReturn {s : State} {hz : Nat} (h : s.chip.atWork = true) (hstate : s.chip.synState = 3) (hok : s.chip.refOk = false)
    (htol : s.chip.refInTol hz = true) :
    Completes (.refReturn hz) s (fun c => c.synState = (if s.chip.refSel then 3 else 6) ∧ c.refOk = true ∧
      s.chip.clk.refFrom + s.chip.refQual * 1000 * micro ≤ c.epc.line) := by
  have hexec := State.act_of_atWork (i := .refReturn hz) h rfl (doRefReturn hz)
  generalize ht : s.chip.clk.refFrom + s.chip.refQual * 1000 * micro = t
  have hdo : doRefReturn hz s.chip = if (s.chip.synState = 3 ∨ s.chip.synState = 4 ∨ s.chip.synState = 5) ∧
      ((s.chip.waitLine t).setFlag R.CLK_STAT F.CLK_STAT_REF_OK true).refSel = false then
        ((s.chip.waitLine t).setFlag R.CLK_STAT F.CLK_STAT_REF_OK true).synReturn 8
      else ((s.chip.waitLine t).setFlag R.CLK_STAT F.CLK_STAT_REF_OK true).raise Ev.refReturn := by
    unfold doRefReturn
    dsimp only
    rw [if_neg (by rw [hstate]; decide), hok, if_neg Bool.false_ne_true, if_pos htol, ht]
  rw [hdo] at hexec
  have hline := Chip.le_line_waitLine s.chip t
  have hwait := Chip.SynKeeps.waitLine s.chip t (F := fun _ => True)
  generalize s.chip.waitLine t = d at *
  have hshow : Chip.SynKeeps (fun f => f.lo + f.w ≤ 5) d (d.setFlag R.CLK_STAT F.CLK_STAT_REF_OK true) :=
    .setFld_stat d F.CLK_STAT_REF_OK _ (by decide) fun _ hg => .inl hg
  have hqual : (d.setFlag R.CLK_STAT F.CLK_STAT_REF_OK true).refOk = true := Chip.flag_setFlag _ _ _ _ (by decide) rfl
  generalize d.setFlag R.CLK_STAT F.CLK_STAT_REF_OK true = e at *
  have hall : Chip.SynKeeps (fun f => f.lo + f.w ≤ 5) s.chip e := (hwait.mono fun _ _ => trivial).trans hshow
  have hline' := hline.trans hshow.line
  have hfatal := hall.fatal.trans (Chip.fatal_of_atWork h)
  have hreset := hall.resetReq.trans (Chip.resetReq_of_atWork h)
  rw [hall.refSel] at hexec
  cases hs : s.chip.refSel with
  | true =>
    rw [hs, if_neg (fun hc => absurd hc.2 (by decide))] at hexec
    have hraise := Chip.SynKeeps.raise e (e := Ev.refReturn) (F := fun _ => True) (by decide)
    exact .of_exec hexec (hraise.fatal.trans hfatal) (hraise.resetReq.trans hreset)
      ⟨((hraise.stat _ trivial).trans (hall.stat _ (by decide))).trans hstate, (hraise.flag trivial).trans hqual, hline'.trans hraise.line⟩
  | false =>
    rw [hs, if_pos ⟨.inl hstate, rfl⟩] at hexec
    obtain ⟨hret, -, hback⟩ := e.synReturn_spec (k := 8) (by decide)
    exact .of_exec hexec (hback.fatal.trans hfatal) (hback.resetReq.trans hreset)
      ⟨hret, (hback.flag ⟨.inl (by decide), .inr (by decide)⟩).trans hqual, hline'.trans hback.line⟩

/-- Settles O42: each move of Table 12-2 by its entry, which keeps what that entry does not write. -/
theorem synthesiserMoves : Obligations.SynthesiserMoves :=
  ⟨fun _ _ h hmet => ⟨fun hstate hok hsel => completes_synLocked_acquire h hmet hstate hok hsel,
      fun _ _ hga hoa hstate => completes_synLocked_return h hmet hga hoa hstate⟩,
    fun s l ga oa h hmet hga hoa => by
      have hexec := exec_synLocked h l hga hoa
      rwa [doSynLocked_of_not_met hmet] at hexec,
    fun _ _ _ h hstate hok hk hlost hgated => completes_refLoss_coast h hstate hok hk hlost hgated,
    fun _ _ _ h hstate hok hk hlost hgated => completes_refLoss_gated h hstate hok hk hlost hgated,
    fun _ h hstate => completes_coastMaxExpire h hstate,
    fun _ _ _ h hstate hgated hok hal hun => completes_synUnlock h hstate hgated hok hal hun,
    fun _ _ h hstate hok htol => completes_refReturn h hstate hok htol⟩

end Sys2Proof.Machine
end

section
/-! The power ladder (spec 19): a change of state, a step down, a wake and an exit. -/

namespace Sys2Proof.Machine

/-! ### What the ladder's work changes -/

/-- The ladder's registers, and where events and records are noted. -/
def pwrReg (a : Nat) : Prop := (0x10000 ≤ a ∧ a < 0x10100) ∨ noteReg a

/-- `d` is `c` but for registers, events, the Scrivener and the Carter queues' stall times. -/
def Chip.PwrOnly (c d : Chip) : Prop := ∃ r e q k, d = { c with regs := r, evt := e, scv := q, car := k }

section
variable {c d e : Chip}

theorem Chip.PwrOnly.trans (h : c.PwrOnly d) (k : d.PwrOnly e) : c.PwrOnly e := by
  obtain ⟨_, _, _, _, rfl⟩ := h
  obtain ⟨r, e, q, k, rfl⟩ := k
  exact ⟨r, e, q, k, rfl⟩

theorem Chip.PwrOnly.of_events (h : c.EventsOnly d) : c.PwrOnly d := by
  obtain ⟨r, e, q, rfl⟩ := h
  exact ⟨r, e, q, _, rfl⟩

theorem Chip.PwrOnly.fatal (h : c.PwrOnly d) : d.fatal = c.fatal := by obtain ⟨_, _, _, _, rfl⟩ := h; rfl
theorem Chip.PwrOnly.resetReq (h : c.PwrOnly d) : d.resetReq = c.resetReq := by obtain ⟨_, _, _, _, rfl⟩ := h; rfl
theorem Chip.PwrOnly.pwr (h : c.PwrOnly d) : d.pwr = c.pwr := by obtain ⟨_, _, _, _, rfl⟩ := h; rfl
theorem Chip.PwrOnly.cst (h : c.PwrOnly d) : d.cst = c.cst := by obtain ⟨_, _, _, _, rfl⟩ := h; rfl
theorem Chip.PwrOnly.pins (h : c.PwrOnly d) : d.pins = c.pins := by obtain ⟨_, _, _, _, rfl⟩ := h; rfl

end

theorem pwrReg_of_note {a : Nat} (h : noteReg a) : pwrReg a := .inr h

theorem Chip.RegsIn.pwrBusy (c : Chip) (t : Option Nat) : c.RegsIn pwrReg (c.pwrBusy t) :=
  (Chip.RegsIn.setFlag c _ _ (.inl ⟨by decide, by decide⟩)).trans (.setFld _ _ _ (.inl ⟨by decide, by decide⟩))

theorem Chip.PwrOnly.pwrBusy (c : Chip) (t : Option Nat) : c.PwrOnly (c.pwrBusy t) :=
  .of_events ((Chip.EventsOnly.setFld c _ _ _).trans (.setFld _ _ _ _))

theorem Chip.reg_pwrBusy_ne (c : Chip) (t : Option Nat) {a : Nat} (h : a ≠ R.PWR_STAT) : (c.pwrBusy t).reg a = c.reg a := by
  rw [Chip.pwrBusy, Chip.reg_setFld_ne _ _ _ h, Chip.reg_setFlag_ne _ _ _ h]

theorem Chip.ladder_pwrBusy (c : Chip) (t : Option Nat) : (c.pwrBusy t).ladder = c.ladder := by
  rw [Chip.ladder, Chip.pwrBusy, Chip.fld_setFld_apart _ _ _ _ _ (by decide) (by decide),
    Chip.fld_setFlag_of_apart _ _ _ _ _ _ (by decide) (by decide), Chip.ladder]

theorem Chip.lastWake_pwrBusy (c : Chip) (t : Option Nat) :
    (c.pwrBusy t).fld R.PWR_STAT F.PWR_STAT_LAST_WAKE = c.fld R.PWR_STAT F.PWR_STAT_LAST_WAKE := by
  rw [Chip.pwrBusy, Chip.fld_setFld_apart _ _ _ _ _ (by decide) (by decide), Chip.fld_setFlag_of_apart _ _ _ _ _ _ (by decide) (by decide)]

theorem Chip.flag_pwrBusy (c : Chip) (t : Option Nat) : (c.pwrBusy t).flag R.PWR_STAT F.PWR_STAT_BUSY = t.isSome := by
  rw [Chip.pwrBusy, Chip.flag_setFld_of_apart _ _ _ _ _ _ (by decide) (by decide)]
  exact Chip.flag_setFlag _ _ _ _ (by decide) rfl

/-! ### A change of state -/

/-- The stall timers stop or go on with the engine's leaving Gale or coming back. -/
def Chip.carFollow (c : Chip) (new : Nat) : Chip :=
  if c.ladder = 0 ∧ new ≠ 0 then c.carLeaveGale else if c.ladder ≠ 0 ∧ new = 0 then c.carEnterGale else c

/-- The new state shows, counted and stamped. -/
def Chip.pwrShow (c : Chip) (new : Nat) : Chip :=
  ((c.setFld R.PWR_STAT F.PWR_STAT_STATE new).addCnt R.PWR_CHG_CNT 1).setTriple R.PWR_CHG_L
    ((c.setFld R.PWR_STAT F.PWR_STAT_STATE new).addCnt R.PWR_CHG_CNT 1).now

theorem Chip.pwrChange_eq (c : Chip) (new : Nat) (r : PwrReq) : ∃ t l,
    c.pwrChange new r = (((c.carFollow new).pwrShow new).raiseTyped Ev.pwrChange).record 0x0f 3 t l := ⟨_, _, rfl⟩

theorem Chip.carFollow_car (c : Chip) (new : Nat) : ∃ k, c.carFollow new = { c with car := k } := by
  unfold Chip.carFollow
  split
  · exact ⟨_, rfl⟩
  · split
    · exact ⟨_, rfl⟩
    · exact ⟨c.car, rfl⟩

theorem Chip.pwrShow_events (c : Chip) (new : Nat) : c.EventsOnly (c.pwrShow new) :=
  ((((Chip.EventsOnly.setFld c _ _ _).trans (.addCnt _ _ _)).trans (.setN _ _ _)).trans (.setN _ _ _)).trans (.setN _ _ _)

theorem Chip.reg_setTriple_apart (c : Chip) {a b : Nat} (v : Nat) (h : b ≠ a) (h4 : b ≠ a + 4) (h8 : b ≠ a + 8) : (c.setTriple a v).reg b = c.reg b := by
  rw [Chip.setTriple, Chip.reg_setN_ne _ _ h8, Chip.reg_setN_ne _ _ h4, Chip.reg_setN_ne _ _ h]

theorem Chip.RegsIn.pwrShow (c : Chip) (new : Nat) : c.RegsIn pwrReg (c.pwrShow new) :=
  ((Chip.RegsIn.setFld c _ _ (.inl ⟨by decide, by decide⟩)).trans (.addCnt _ _ (.inl ⟨by decide, by decide⟩))).trans
    (.setTriple _ _ (.inl ⟨by decide, by decide⟩) (.inl ⟨by decide, by decide⟩) (.inl ⟨by decide, by decide⟩))

theorem Chip.ladder_pwrShow (c : Chip) {new : Nat} (h : new < 8) : (c.pwrShow new).ladder = new := by
  rw [Chip.ladder, Chip.pwrShow, Chip.fld_congr (Chip.reg_setTriple_apart _ _ (by decide) (by decide) (by decide)),
    Chip.fld_congr (Chip.reg_addCnt_ne _ _ (by decide)), Chip.fld_setFld _ _ _ _ (by decide)]
  exact Nat.mod_eq_of_lt h

theorem Chip.count_pwrShow (c : Chip) (new : Nat) : (c.pwrShow new).reg R.PWR_CHG_CNT = c.reg R.PWR_CHG_CNT + 1 := by
  rw [Chip.pwrShow, Chip.reg_setTriple_apart _ _ (by decide) (by decide) (by decide), Chip.reg_addCnt_one, Chip.reg_setFld_ne _ _ _ (by decide)]

/-- What a change of ladder state does: the state, its count, and nothing outside the ladder's registers and the records. -/
theorem Chip.pwrChange_spec (c : Chip) {new : Nat} (h : new < 8) (r : PwrReq) : (c.pwrChange new r).ladder = new ∧
    (c.pwrChange new r).reg R.PWR_CHG_CNT = c.reg R.PWR_CHG_CNT + 1 ∧ c.RegsIn pwrReg (c.pwrChange new r) ∧
    c.PwrOnly (c.pwrChange new r) := by
  obtain ⟨t, l, heq⟩ := c.pwrChange_eq new r
  obtain ⟨k, hcar⟩ := c.carFollow_car new
  have hregs0 : (c.carFollow new).regs = c.regs := by rw [hcar]
  have hrest0 : c.PwrOnly (c.carFollow new) := ⟨_, _, _, k, hcar⟩
  rw [heq]
  generalize c.carFollow new = d at *
  have hladder := d.ladder_pwrShow h
  have hcount := d.count_pwrShow new
  have hregs := Chip.RegsIn.pwrShow d new
  have hrest := d.pwrShow_events new
  generalize d.pwrShow new = e at *
  have hnote : e.RegsIn noteReg ((e.raiseTyped Ev.pwrChange).record 0x0f 3 t l) :=
    (Chip.RegsIn.raiseTyped e (by decide)).trans (.record _ _ _ _ _)
  have hev : e.EventsOnly ((e.raiseTyped Ev.pwrChange).record 0x0f 3 t l) := (Chip.EventsOnly.raiseTyped e _).trans (.record _ _ _ _ _)
  refine ⟨(hnote.fld (by unfold noteReg; decide) _).trans hladder, ?_, ?_, ?_⟩
  · exact ((hnote _ (by unfold noteReg; decide)).trans hcount).trans (congrArg (· + 1) (Chip.reg_congr hregs0 _))
  · exact ((Chip.RegsIn.of_regs hregs0).trans hregs).trans (hnote.mono fun _ => pwrReg_of_note)
  · exact (hrest0.trans (.of_events hrest)).trans (.of_events hev)

/-! ### GO -/

theorem Chip.pwrReason_go (c : Chip) (k n : Nat) : (c.writing.setFld R.PWR_CMD F.PWR_CMD_TARGET n).pwrReason k false = c.pwrReason k false := by
  have hreg : ∀ a, a ≠ R.PWR_CMD → (c.writing.setFld R.PWR_CMD F.PWR_CMD_TARGET n).reg a = c.reg a := fun a ha =>
    Chip.reg_setFld_ne c.writing _ _ ha
  have hbusy := Chip.flag_congr (hreg R.PWR_STAT (by decide)) F.PWR_STAT_BUSY
  have hmc : (c.writing.setFld R.PWR_CMD F.PWR_CMD_TARGET n).mcState = c.mcState := Chip.fld_congr (hreg R.MCX_STAT (by decide)) _
  have harmed : (c.writing.setFld R.PWR_CMD F.PWR_CMD_TARGET n).anyArmed = c.anyArmed := by
    unfold Chip.anyArmed
    refine congrArg (List.any (List.range 16)) (funext fun p => ?_)
    unfold Chip.armed Chip.prtState
    rw [Chip.fld_congr (hreg (R.PRT_STAT p) (by unfold R.PRT_STAT R.PWR_CMD; omega))]
  have hwin : (c.writing.setFld R.PWR_CMD F.PWR_CMD_TARGET n).windowOpen = c.windowOpen := rfl
  have hsoon : (c.writing.setFld R.PWR_CMD F.PWR_CMD_TARGET n).wakeSoon = c.wakeSoon := rfl
  have hstage : (c.writing.setFld R.PWR_CMD F.PWR_CMD_TARGET n).stage = c.stage := Chip.fld_congr (hreg R.STW_BOOT_STAT (by decide)) _
  unfold Chip.pwrReason
  rw [hbusy, hmc, harmed, hwin, hsoon, hstage]

theorem exec_pwrGo {s : State} (h : s.chip.atWork = true) (i : Init) {k : Nat} (hk : k ≤ 4) (hr : s.chip.pwrReason k false = 0) :
    exec (.pwrGo i k) s = .next (s.after
      ((s.chip.writing.setFld R.PWR_CMD F.PWR_CMD_TARGET k).accept pwrPort (fun c => c.pwrGoNow k 1 (initCode i) 0))) :=
  exec_of_command (i := .pwrGo i k) h (decide_eq_true (by omega)) rfl rfl ((s.chip.pwrReason_go k k).trans hr)
    ((Chip.inSafe_setFld_ne _ _ _ (by decide)).trans (Chip.inSafe_of_atWork h))

/-! ### A step, a wake, an exit -/

/-- A command of the always-on domain that no access brings acts while `PORN` is high. -/
theorem exec_of_aon {s : State} {i : Instr} {f : Chip → Chip} (hp : s.chip.pins.porn = false) (hn : needOf i = .aon) (hb : byHost i = false)
    (hw : i.wf = true) (he : exec i s = s.act i f) : exec i s = .next (s.after (f s.chip)) := by
  have hwake : s.chip.hostWake i = s.chip := by rw [Chip.hostWake, hb]; rfl
  have hadmits : s.chip.admits .aon = true := by rw [Chip.admits.eq_def, hp]; rfl
  have hlost : s.chip.linkLost i = false := by rw [Chip.linkLost, hb]; rfl
  rw [he, State.act, if_pos hw, Chip.perform, hwake, hn, hadmits, hlost]
  rfl

def Chip.putPwr (c : Chip) (p : Pwr) : Chip := { c with pwr := p }

theorem Chip.putPwr_regs (c : Chip) (p : Pwr) : (c.putPwr p).regs = c.regs := rfl
theorem Chip.putPwr_fatal (c : Chip) (p : Pwr) : (c.putPwr p).fatal = c.fatal := rfl
theorem Chip.putPwr_resetReq (c : Chip) (p : Pwr) : (c.putPwr p).resetReq = c.resetReq := rfl
theorem Chip.putPwr_cst (c : Chip) (p : Pwr) : (c.putPwr p).cst = c.cst := rfl
theorem Chip.putPwr_pwr (c : Chip) (p : Pwr) : (c.putPwr p).pwr = p := rfl
theorem Chip.mcState_putPwr (c : Chip) (p : Pwr) : (c.putPwr p).mcState = c.mcState := rfl
theorem Chip.reg_putPwr (c : Chip) (p : Pwr) (a : Nat) : (c.putPwr p).reg a = c.reg a := rfl
theorem Chip.fld_putPwr (c : Chip) (p : Pwr) (a : Nat) (f : Fld) : (c.putPwr p).fld a f = c.fld a f := rfl
theorem Chip.ladder_putPwr (c : Chip) (p : Pwr) : (c.putPwr p).ladder = c.ladder := rfl

theorem Chip.mcState_setMcState (c : Chip) {n : Nat} (h : n < 8) : (c.setMcState n).mcState = n :=
  (Chip.fld_setFld c _ _ _ (by decide)).trans (Nat.mod_eq_of_lt h)

theorem Chip.setMcState_pwr (c : Chip) (n : Nat) : (c.setMcState n).pwr = c.pwr := rfl
theorem Chip.setMcState_fatal (c : Chip) (n : Nat) : (c.setMcState n).fatal = c.fatal := rfl
theorem Chip.setMcState_resetReq (c : Chip) (n : Nat) : (c.setMcState n).resetReq = c.resetReq := rfl
theorem Chip.setMcState_cst (c : Chip) (n : Nat) : (c.setMcState n).cst = c.cst := rfl

theorem Chip.stepEnd_zero {c : Chip} (h : c.mcState = 2) : c.stepEnd 0 = (c.putPwr c.pwr).setMcState 3 := by
  unfold Chip.stepEnd
  dsimp only
  rw [if_neg (by decide : ¬1 ≤ 0), show ({ c with pwr := { c.pwr with lowAt := c.pwr.lowAt } } : Chip) = c.putPwr c.pwr from rfl,
    if_pos ((c.mcState_putPwr _).trans h)]
  rfl

theorem doPowerStepDone_last {c : Chip} {r : PwrReq} (hl : c.ladder = 0) (hd : c.pwr.down = some r) (hh : c.pwr.held = none)
    (ht : r.target = 1) (hdr : c.drained = true) (hm : c.mcState = 2) : doPowerStepDone c =
      ((((c.putPwr c.pwr).setMcState 3).pwrChange 1 r).putPwr { c.pwr with down := none }).pwrBusy none := by
  have hkeep : (((c.putPwr c.pwr).setMcState 3).pwrChange 1 r).pwr = c.pwr := by
    obtain ⟨-, -, -, hrest⟩ := Chip.pwrChange_spec ((c.putPwr c.pwr).setMcState 3) (new := 1) (by decide) r
    rw [hrest.pwr, Chip.setMcState_pwr, Chip.putPwr_pwr]
  unfold doPowerStepDone
  rw [hd]
  dsimp only
  rw [hl, if_neg (fun h => absurd h.1 (by decide)), show c.stepReady 0 = c.drained from rfl, hdr, if_pos rfl, if_neg (by decide),
    Chip.stepEnd_zero hm, Nat.zero_add, hkeep, hh, ht]
  exact if_pos (Nat.le_refl 1)

theorem completes_powerStepDone {s : State} {r : PwrReq} (hp : s.chip.pins.porn = false) (hf : s.chip.fatal = none) (hq : s.chip.resetReq = false)
    (hl : s.chip.ladder = 0) (hd : s.chip.pwr.down = some r) (hh : s.chip.pwr.held = none) (ht : r.target = 1) (hdr : s.chip.drained = true)
    (hm : s.chip.mcState = 2) :
    Completes .powerStepDone s (fun c => c.ladder = 1 ∧ c.pwr.down = none ∧ c.mcState = 3 ∧ c.flag R.PWR_STAT F.PWR_STAT_BUSY = false ∧
      c.reg R.PWR_CHG_CNT = s.chip.reg R.PWR_CHG_CNT + 1 ∧ c.cst = s.chip.cst) := by
  have hexec := exec_of_aon (i := .powerStepDone) hp rfl rfl rfl rfl
  rw [doPowerStepDone_last hl hd hh ht hdr hm] at hexec
  have hstate := Chip.mcState_setMcState (s.chip.putPwr s.chip.pwr) (n := 3) (by decide)
  have hcnt0 : ((s.chip.putPwr s.chip.pwr).setMcState 3).reg R.PWR_CHG_CNT = s.chip.reg R.PWR_CHG_CNT :=
    Chip.reg_setFld_ne (s.chip.putPwr s.chip.pwr) _ _ (by decide)
  have hfatal0 : ((s.chip.putPwr s.chip.pwr).setMcState 3).fatal = none := by
    rw [Chip.setMcState_fatal, Chip.putPwr_fatal, hf]
  have hreset0 : ((s.chip.putPwr s.chip.pwr).setMcState 3).resetReq = false := by
    rw [Chip.setMcState_resetReq, Chip.putPwr_resetReq, hq]
  have hcst0 : ((s.chip.putPwr s.chip.pwr).setMcState 3).cst = s.chip.cst := by rw [Chip.setMcState_cst, Chip.putPwr_cst]
  generalize (s.chip.putPwr s.chip.pwr).setMcState 3 = d at *
  obtain ⟨hladder, hcount, hregs, hrest⟩ := d.pwrChange_spec (new := 1) (by decide) r
  generalize d.pwrChange 1 r = e at *
  refine .of_exec hexec ?_ ?_ ⟨?_, ?_, ?_, ?_, ?_, ?_⟩
  · rw [(Chip.PwrOnly.pwrBusy _ _).fatal, Chip.putPwr_fatal, hrest.fatal, hfatal0]
  · rw [(Chip.PwrOnly.pwrBusy _ _).resetReq, Chip.putPwr_resetReq, hrest.resetReq, hreset0]
  · rw [Chip.ladder_pwrBusy, Chip.ladder_putPwr, hladder]
  · rw [(Chip.PwrOnly.pwrBusy _ _).pwr, Chip.putPwr_pwr]
  · rw [Chip.mcState, Chip.fld_congr (Chip.reg_pwrBusy_ne _ _ (by decide)), Chip.fld_putPwr, hregs.fld (by unfold pwrReg noteReg; decide)]
    exact hstate
  · exact Chip.flag_pwrBusy _ _
  · rw [Chip.reg_pwrBusy_ne _ _ (by decide), Chip.reg_putPwr, hcount, hcnt0]
  · rw [(Chip.PwrOnly.pwrBusy _ _).cst, Chip.putPwr_cst, hrest.cst, hcst0]

/-- The wake's source shows in the ladder's registers, and its event is noted. -/
def Chip.wakeShow (c : Chip) (src : Nat) : Chip :=
  ((c.setFld R.PWR_STAT F.PWR_STAT_LAST_WAKE src).setN R.PWR_WAKE_CAUSE (2 ^ src)).raiseTyped Ev.pwrWake

theorem Chip.wakeShow_spec (c : Chip) {k : Nat} (hk : k < 32) : (c.wakeShow k).ladder = c.ladder ∧
    (c.wakeShow k).fld R.PWR_STAT F.PWR_STAT_LAST_WAKE = k ∧ (c.wakeShow k).rn R.PWR_WAKE_CAUSE = 2 ^ k ∧ c.EventsOnly (c.wakeShow k) := by
  have hnote : ((c.setFld R.PWR_STAT F.PWR_STAT_LAST_WAKE k).setN R.PWR_WAKE_CAUSE (2 ^ k)).RegsIn noteReg (c.wakeShow k) :=
    Chip.RegsIn.raiseTyped _ (by decide)
  refine ⟨?_, ?_, ?_, ((Chip.EventsOnly.setFld c _ _ _).trans (.setN _ _ _)).trans (.raiseTyped _ _)⟩
  · rw [Chip.ladder, hnote.fld (by unfold noteReg; decide), Chip.fld_congr (Chip.reg_setN_ne _ _ (by decide)),
      Chip.fld_setFld_apart _ _ _ _ _ (by decide) (by decide), Chip.ladder]
  · rw [hnote.fld (by unfold noteReg; decide), Chip.fld_congr (Chip.reg_setN_ne _ _ (by decide)), Chip.fld_setFld _ _ _ _ (by decide)]
    exact Nat.mod_eq_of_lt (by show k < 256; omega)
  · rw [hnote.rn (by unfold noteReg; decide), Chip.rn_setN]
    exact Nat.mod_eq_of_lt (Nat.pow_lt_pow_right (by decide) hk)

/-- The Common Store returns where a copy of it was kept. -/
def Chip.cstBack (c : Chip) : Chip :=
  match c.pwr.cstCopy with
  | some m => { c with cst := m, pwr := { c.pwr with cstCopy := none } }
  | none => c

theorem Chip.cstBack_regs (c : Chip) : c.cstBack.regs = c.regs := by unfold Chip.cstBack; split <;> rfl
theorem Chip.cstBack_fatal (c : Chip) : c.cstBack.fatal = c.fatal := by unfold Chip.cstBack; split <;> rfl
theorem Chip.cstBack_resetReq (c : Chip) : c.cstBack.resetReq = c.resetReq := by unfold Chip.cstBack; split <;> rfl
theorem Chip.cstBack_up (c : Chip) : c.cstBack.pwr.up = c.pwr.up := by unfold Chip.cstBack; split <;> rfl
theorem Chip.cstBack_pen (c : Chip) : c.cstBack.pins.pen = c.pins.pen := by unfold Chip.cstBack; split <;> rfl

/-- The work of an exit from Breeze to Gale: the pins rise. -/
theorem Chip.exitBegin_breeze {c : Chip} (h : c.ladder = 1) : (c.exitBegin 0).regs = c.regs ∧ (c.exitBegin 0).fatal = c.fatal ∧
    (c.exitBegin 0).resetReq = c.resetReq ∧ (c.exitBegin 0).pwr.up = c.pwr.up ∧ (c.exitBegin 0).pins.pen = 63 := by
  have heq : c.exitBegin 0 = (c.setPens 63).cstBack := by
    unfold Chip.exitBegin
    rw [h]
    exact if_neg fun hk => absurd hk.1 (by decide)
  rw [heq]
  exact ⟨Chip.cstBack_regs _, Chip.cstBack_fatal _, Chip.cstBack_resetReq _, Chip.cstBack_up _, Chip.cstBack_pen _⟩

theorem Chip.pwrUp_breeze {c : Chip} {r : PwrReq} (h : c.ladder = 1) (hr : r.target = 0) : (c.pwrUp r).pwr.up = some r ∧ (c.pwrUp r).pins.pen = 63 ∧
    (c.pwrUp r).fatal = c.fatal ∧ (c.pwrUp r).resetReq = c.resetReq ∧
    (c.pwrUp r).fld R.PWR_STAT F.PWR_STAT_LAST_WAKE = c.fld R.PWR_STAT F.PWR_STAT_LAST_WAKE ∧
    (c.pwrUp r).rn R.PWR_WAKE_CAUSE = c.rn R.PWR_WAKE_CAUSE := by
  have heq : c.pwrUp r = ((c.putPwr { c.pwr with up := some r, down := none, held := none }).pwrBusy (some 0)).exitBegin 0 := by
    unfold Chip.pwrUp
    rw [hr]
    rfl
  have hladder := (Chip.ladder_pwrBusy (c.putPwr { c.pwr with up := some r, down := none, held := none }) (some 0)).trans h
  have hlast := Chip.lastWake_pwrBusy (c.putPwr { c.pwr with up := some r, down := none, held := none }) (some 0)
  have hcause := Chip.reg_pwrBusy_ne (c.putPwr { c.pwr with up := some r, down := none, held := none }) (some 0) (a := R.PWR_WAKE_CAUSE) (by decide)
  have hrest := Chip.PwrOnly.pwrBusy (c.putPwr { c.pwr with up := some r, down := none, held := none }) (some 0)
  rw [heq]
  generalize (c.putPwr { c.pwr with up := some r, down := none, held := none }).pwrBusy (some 0) = d at *
  obtain ⟨hregs, hfatal, hreset, hup, hpen⟩ := Chip.exitBegin_breeze hladder
  refine ⟨?_, hpen, hfatal.trans hrest.fatal, hreset.trans hrest.resetReq, (Chip.fld_congr (Chip.reg_congr hregs _) _).trans hlast, ?_⟩
  · rw [hup, hrest.pwr]; rfl
  · exact Chip.rn_congr ((Chip.reg_congr hregs _).trans hcause)

theorem Chip.wakeTo_eq (c : Chip) (src target init : Nat) : ∃ n t m l, c.wakeTo src target init =
    (((c.wakeShow src).pwrUp { target := target, cause := 5, init := n, entry := 0, reqAt := t, src := src }).record 0x0f 3 m l).used :=
  ⟨_, _, _, _, rfl⟩

theorem doPwrWake_breeze {c : Chip} {k : Nat} (hl : c.ladder = 1) (hs : c.inSafe = false) (hd : c.pwr.down = none) (hu : c.pwr.up = none)
    (hk : k = 3 ∨ k = 4) (hen : bit (c.rn R.PWR_WAKE_EN) k = true) : doPwrWake k c = c.wakeTo k 0 0 := by
  have hwake : c.wakeEnabled k = true := by
    unfold Chip.wakeEnabled
    rw [if_pos (by omega), hen]
  have hfrom : wakesFrom k 1 = true := by rcases hk with rfl | rfl <;> decide
  have htarget : c.wakeTarget = 0 := by rw [Chip.wakeTarget, hl]; rfl
  unfold doPwrWake Chip.wakeCause
  rw [if_pos (by omega), hs, hu, hwake, hd, hl, hfrom, htarget]
  rfl

theorem completes_pwrWake {s : State} {k : Nat} (hp : s.chip.pins.porn = false) (hf : s.chip.fatal = none) (hq : s.chip.resetReq = false)
    (hl : s.chip.ladder = 1) (hs : s.chip.inSafe = false) (hd : s.chip.pwr.down = none) (hu : s.chip.pwr.up = none) (hk : k = 3 ∨ k = 4)
    (hen : bit (s.chip.rn R.PWR_WAKE_EN) k = true) :
    Completes (.pwrWake k) s (fun c => (∃ r, c.pwr.up = some r ∧ r.target = 0 ∧ r.cause = 5 ∧ r.src = k) ∧
      c.fld R.PWR_STAT F.PWR_STAT_LAST_WAKE = k ∧ c.rn R.PWR_WAKE_CAUSE = 2 ^ k ∧ c.pins.pen = 63) := by
  have hexec := exec_of_aon (i := .pwrWake k) hp rfl rfl (decide_eq_true (by omega : k < 8)) rfl
  rw [doPwrWake_breeze hl hs hd hu hk hen] at hexec
  obtain ⟨n, t, m, l, heq⟩ := s.chip.wakeTo_eq k 0 0
  rw [heq] at hexec
  obtain ⟨hladder, hlast, hcause, hev⟩ := s.chip.wakeShow_spec (k := k) (by omega)
  generalize s.chip.wakeShow k = d at *
  obtain ⟨hup, hpen, hfatal, hreset, hlast', hcause'⟩ := Chip.pwrUp_breeze (hladder.trans hl)
    (r := { target := 0, cause := 5, init := n, entry := 0, reqAt := t, src := k }) rfl
  generalize d.pwrUp { target := 0, cause := 5, init := n, entry := 0, reqAt := t, src := k } = e at *
  have hrec := Chip.EventsOnly.record e 0x0f 3 m l
  have hregs := Chip.RegsIn.record e 0x0f 3 m l
  have hpins : (e.record 0x0f 3 m l).pins = e.pins := (Chip.PwrOnly.of_events hrec).pins
  generalize e.record 0x0f 3 m l = g at *
  refine .of_exec hexec ?_ ?_ ⟨⟨_, (congrArg Pwr.up (g.used_pwr.trans hrec.pwr)).trans hup, rfl, rfl, rfl⟩, ?_, ?_, ?_⟩
  · rw [g.used_fatal, hrec.fatal, hfatal, hev.fatal, hf]
  · rw [g.used_resetReq, hrec.resetReq, hreset, hev.resetReq, hq]
  · rw [Chip.fld_congr (Chip.reg_congr g.used_regs _), hregs.fld (by unfold noteReg; decide), hlast', hlast]
  · rw [Chip.rn_congr (Chip.reg_congr g.used_regs _), hregs.rn (by unfold noteReg; decide), hcause', hcause]
  · rw [g.used_pins, hpins, hpen]

theorem Chip.schLateFire_of_off {c : Chip} (h : c.schOn = false) : c.schLateFire = c := by
  rw [Chip.schLateFire, h]
  rfl

theorem Chip.schOn_congr {c d : Chip} (h : d.reg R.SCH_CTRL = c.reg R.SCH_CTRL) (he : d.reg R.EPC_STAT = c.reg R.EPC_STAT) (hs : d.reg R.STW_BOOT_STAT = c.reg R.STW_BOOT_STAT) :
    d.schOn = c.schOn := by
  rw [Chip.schOn, Chip.flag_congr h, Chip.epcHolds_congr he, Chip.stage, Chip.fld_congr hs, Chip.schOn, Chip.stage]

/-- The paused partitions resume. -/
def Chip.resumePaused (c : Chip) : Chip := ((List.range 16).filter (fun p => decide (c.prtState p = 3))).foldl (fun c p => c.resumePart p) c

/-- The exit has ended. -/
def Chip.exitOver (c : Chip) : Chip := ((c.putPwr { c.pwr with up := none }).pwrBusy none).schLateFire

theorem Chip.exitEnd_breeze {c : Chip} {r : PwrReq} (hl : c.ladder = 1) (ht : r.target = 0) (hm : c.mcState = 3) :
    c.exitEnd r = ((c.setMcState 2).pwrChange 0 r).resumePaused.exitOver := by
  unfold Chip.exitEnd
  rw [hl, ht]
  dsimp only
  rw [if_neg (by decide : ¬2 ≤ 1), if_pos (show c.mcState = 2 ∨ c.mcState = 3 from .inr hm)]
  rw [if_pos (rfl : 0 = 0), if_pos (rfl : 0 = 0)]
  rfl

theorem doPowerExitDone_breeze {c : Chip} {r : PwrReq} (hl : c.ladder = 1) (hu : c.pwr.up = some r) (ht : r.target = 0) (hm : c.mcState = 3)
    (hy : c.synState ≠ 1) (ho : c.schOn = false) (hpart : ∀ p, p < 16 → c.prtState p ≠ 3) : doPowerExitDone c =
      (((c.setMcState 2).pwrChange 0 r).putPwr { ((c.setMcState 2).pwrChange 0 r).pwr with up := none }).pwrBusy none := by
  have hshow : doPowerExitDone c = c.exitEnd r := by
    unfold doPowerExitDone
    rw [hu]
    exact if_pos ⟨.inr (.inl hm), hy⟩
  have hset : ∀ a, a ≠ R.MCX_STAT → (c.setMcState 2).reg a = c.reg a := fun a ha => Chip.reg_setFld_ne c _ _ ha
  rw [hshow, Chip.exitEnd_breeze hl ht hm]
  obtain ⟨-, -, hregs, hrest⟩ := Chip.pwrChange_spec (c.setMcState 2) (new := 0) (by decide) r
  generalize c.setMcState 2 = d at *
  generalize d.pwrChange 0 r = e at *
  have hnone : (List.range 16).filter (fun p => decide (e.prtState p = 3)) = [] := by
    refine List.filter_eq_nil_iff.2 fun p hp => ?_
    have hp := List.mem_range.1 hp
    have hstat : e.prtState p = c.prtState p := Chip.fld_congr ((hregs _ (by unfold pwrReg noteReg R.PRT_STAT; omega)).trans
      (hset _ (by unfold R.PRT_STAT R.MCX_STAT; omega))) _
    rw [hstat, decide_eq_true_iff]
    exact hpart p hp
  have hkeep : ∀ a, a ≠ R.PWR_STAT → a ≠ R.MCX_STAT → ¬pwrReg a → ((e.putPwr { e.pwr with up := none }).pwrBusy none).reg a = c.reg a := by
    intro a hp hm hw
    rw [Chip.reg_pwrBusy_ne _ _ hp, Chip.reg_putPwr, hregs a hw, hset a hm]
  rw [Chip.resumePaused, hnone, List.foldl_nil, Chip.exitOver]
  exact Chip.schLateFire_of_off ((Chip.schOn_congr (hkeep _ (by decide) (by decide) (by unfold pwrReg noteReg; decide))
    (hkeep _ (by decide) (by decide) (by unfold pwrReg noteReg; decide)) (hkeep _ (by decide) (by decide) (by unfold pwrReg noteReg; decide))).trans ho)

theorem completes_powerExitDone {s : State} {r : PwrReq} (hp : s.chip.pins.porn = false) (hf : s.chip.fatal = none) (hq : s.chip.resetReq = false)
    (hl : s.chip.ladder = 1) (hu : s.chip.pwr.up = some r) (ht : r.target = 0) (hm : s.chip.mcState = 3) (hy : s.chip.synState ≠ 1)
    (ho : s.chip.schOn = false) (hpart : ∀ p, p < 16 → s.chip.prtState p ≠ 3) :
    Completes .powerExitDone s (fun c => c.ladder = 0 ∧ c.pwr.up = none ∧ c.mcState = 2 ∧ c.flag R.PWR_STAT F.PWR_STAT_BUSY = false ∧
      c.reg R.PWR_CHG_CNT = s.chip.reg R.PWR_CHG_CNT + 1) := by
  have hexec := exec_of_aon (i := .powerExitDone) hp rfl rfl rfl rfl
  rw [doPowerExitDone_breeze hl hu ht hm hy ho hpart] at hexec
  have hstate := Chip.mcState_setMcState s.chip (n := 2) (by decide)
  have hcnt0 : (s.chip.setMcState 2).reg R.PWR_CHG_CNT = s.chip.reg R.PWR_CHG_CNT := Chip.reg_setFld_ne s.chip _ _ (by decide)
  have hfatal0 : (s.chip.setMcState 2).fatal = none := (Chip.setMcState_fatal _ _).trans hf
  have hreset0 : (s.chip.setMcState 2).resetReq = false := (Chip.setMcState_resetReq _ _).trans hq
  generalize s.chip.setMcState 2 = d at *
  obtain ⟨hladder, hcount, hregs, hrest⟩ := d.pwrChange_spec (new := 0) (by decide) r
  generalize d.pwrChange 0 r = e at *
  refine .of_exec hexec ?_ ?_ ⟨?_, ?_, ?_, ?_, ?_⟩
  · rw [(Chip.PwrOnly.pwrBusy _ _).fatal, Chip.putPwr_fatal, hrest.fatal, hfatal0]
  · rw [(Chip.PwrOnly.pwrBusy _ _).resetReq, Chip.putPwr_resetReq, hrest.resetReq, hreset0]
  · rw [Chip.ladder_pwrBusy, Chip.ladder_putPwr, hladder]
  · rw [(Chip.PwrOnly.pwrBusy _ _).pwr, Chip.putPwr_pwr]
  · rw [Chip.mcState, Chip.fld_congr (Chip.reg_pwrBusy_ne _ _ (by decide)), Chip.fld_putPwr, hregs.fld (by unfold pwrReg noteReg; decide)]
    exact hstate
  · exact Chip.flag_pwrBusy _ _
  · rw [Chip.reg_pwrBusy_ne _ _ (by decide), Chip.reg_putPwr, hcount, hcnt0]

/-- Settles O57, from `Chip.pwrChange_spec`: what a change of ladder state shows, and what it leaves. -/
theorem powerLadder : Obligations.PowerLadder :=
  ⟨fun _ i _ h hk hr => exec_pwrGo h i hk hr,
    fun _ _ hp hf hq hl hd hh ht hdr hm => completes_powerStepDone hp hf hq hl hd hh ht hdr hm,
    fun _ _ hp hf hq hl hs hd hu hk hen => completes_pwrWake hp hf hq hl hs hd hu hk hen,
    fun _ _ hp hf hq hl hu ht hm hy ho hpart => completes_powerExitDone hp hf hq hl hu ht hm hy ho hpart⟩

end Sys2Proof.Machine
end

section
/-! The DRAM controller's own work: what its queues and its commands change of the engine, and self-refresh (R316, R317). -/

namespace Sys2Proof.Machine

/-! ### Frames -/

/-- `d` is `c` but for registers and for the channels' and waiting queues of the DRAM controller. -/
def Chip.QueuesOnly (c d : Chip) : Prop := ∃ r k w, d = { c with regs := r, mc := { c.mc with chans := k, wait := w } }

section
variable {c d e : Chip}

theorem Chip.QueuesOnly.refl (c : Chip) : c.QueuesOnly c := ⟨_, _, _, rfl⟩

theorem Chip.QueuesOnly.trans (h : c.QueuesOnly d) (k : d.QueuesOnly e) : c.QueuesOnly e := by
  obtain ⟨_, _, _, rfl⟩ := h
  obtain ⟨r, k, w, rfl⟩ := k
  exact ⟨r, k, w, rfl⟩

theorem Chip.QueuesOnly.foldl {α : Type} {f : Chip → α → Chip} (h : ∀ (c : Chip) x, c.QueuesOnly (f c x)) (l : List α) (c : Chip) :
    c.QueuesOnly (l.foldl f c) := by
  induction l generalizing c with
  | nil => exact .refl c
  | cons x l ih => exact (h c x).trans (ih _)

theorem Chip.QueuesOnly.fatal (h : c.QueuesOnly d) : d.fatal = c.fatal := by obtain ⟨_, _, _, rfl⟩ := h; rfl
theorem Chip.QueuesOnly.resetReq (h : c.QueuesOnly d) : d.resetReq = c.resetReq := by obtain ⟨_, _, _, rfl⟩ := h; rfl
theorem Chip.QueuesOnly.epc (h : c.QueuesOnly d) : d.epc = c.epc := by obtain ⟨_, _, _, rfl⟩ := h; rfl
theorem Chip.QueuesOnly.srBy (h : c.QueuesOnly d) : d.mc.srBy = c.mc.srBy := by obtain ⟨_, _, _, rfl⟩ := h; rfl
theorem Chip.QueuesOnly.late (h : c.QueuesOnly d) : d.mc.late = c.mc.late := by obtain ⟨_, _, _, rfl⟩ := h; rfl

theorem Chip.QueuesOnly.setMcCh (c : Chip) (n : Nat) (m : McCh) : c.QueuesOnly (c.setMcCh n m) := ⟨_, _, _, rfl⟩

theorem Chip.QueuesOnly.setFld (c : Chip) (a : Nat) (f : Fld) (v : Nat) : c.QueuesOnly (c.setFld a f v) := ⟨_, _, _, rfl⟩

theorem Chip.QueuesOnly.refDebt (c : Chip) (n : Nat) : c.QueuesOnly (c.refDebt n) := .setFld c _ _ _

theorem Chip.QueuesOnly.pushReads (c : Chip) (l : List (Nat × DramReq)) : c.QueuesOnly (c.pushReads l) :=
  .foldl (fun c _ => .setMcCh c _ _) l c

theorem Chip.QueuesOnly.feedOne (a : Chip × List (Nat × DramReq)) (r : Nat × DramReq) : a.1.QueuesOnly (feedOne a r).1 := by
  unfold Sys2Proof.Machine.feedOne
  split
  · exact .refl _
  · exact .setMcCh _ _ _

theorem Chip.QueuesOnly.mcFeed (c : Chip) : c.QueuesOnly c.mcFeed := by
  have hfold : ∀ (l : List (Nat × DramReq)) (a : Chip × List (Nat × DramReq)), a.1.QueuesOnly (l.foldl Sys2Proof.Machine.feedOne a).1 := by
    intro l
    induction l with
    | nil => exact fun a => .refl _
    | cons r l ih => exact fun a => (Chip.QueuesOnly.feedOne a r).trans (ih _)
  unfold Chip.mcFeed
  split
  · exact (hfold c.mc.wait (c, [])).trans ⟨_, _, _, rfl⟩
  · exact .refl c

end

theorem Chip.pushReads_regs (c : Chip) (l : List (Nat × DramReq)) : (c.pushReads l).regs = c.regs :=
  Chip.foldl_keeps (f := fun c (r : Nat × DramReq) => c.pushRead r.1 r.2) Chip.regs (fun _ _ _ => rfl) c

theorem Chip.pushReads_mcState (c : Chip) (l : List (Nat × DramReq)) : (c.pushReads l).mcState = c.mcState :=
  Chip.fld_congr (Chip.reg_congr (c.pushReads_regs l) _) _

theorem Chip.mcCh_setMcCh_ne (c : Chip) {n k : Nat} (m : McCh) (h : k ≠ n) : (c.setMcCh n m).mcCh k = c.mcCh k := SMap.get_put_ne _ _ _ h

theorem Chip.mcCh_setFld (c : Chip) (a : Nat) (f : Fld) (v n : Nat) : (c.setFld a f v).mcCh n = c.mcCh n := rfl

/-- The engine with another record of the controller. -/
def Chip.putMc (c : Chip) (m : Mc) : Chip := { c with mc := m }

theorem Chip.putMc_regs (c : Chip) (m : Mc) : (c.putMc m).regs = c.regs := rfl
theorem Chip.putMc_fatal (c : Chip) (m : Mc) : (c.putMc m).fatal = c.fatal := rfl
theorem Chip.putMc_resetReq (c : Chip) (m : Mc) : (c.putMc m).resetReq = c.resetReq := rfl
theorem Chip.putMc_epc (c : Chip) (m : Mc) : (c.putMc m).epc = c.epc := rfl
theorem Chip.putMc_mc (c : Chip) (m : Mc) : (c.putMc m).mc = m := rfl
theorem Chip.mcState_putMc (c : Chip) (m : Mc) : (c.putMc m).mcState = c.mcState := rfl
theorem Chip.reg_putMc (c : Chip) (m : Mc) (a : Nat) : (c.putMc m).reg a = c.reg a := rfl
theorem Chip.fld_putMc (c : Chip) (m : Mc) (a : Nat) (f : Fld) : (c.putMc m).fld a f = c.fld a f := rfl
theorem Chip.mcCh_putMc (c : Chip) {m : Mc} (h : m.chans = c.mc.chans) (n : Nat) : (c.putMc m).mcCh n = c.mcCh n := by
  rw [Chip.mcCh, Chip.putMc_mc, h, Chip.mcCh]

theorem Chip.setMcState_mc (c : Chip) (n : Nat) : (c.setMcState n).mc = c.mc := rfl
theorem Chip.setMcState_epc (c : Chip) (n : Nat) : (c.setMcState n).epc = c.epc := rfl
theorem Chip.reg_setMcState (c : Chip) (n : Nat) {a : Nat} (h : a ≠ R.MCX_STAT) : (c.setMcState n).reg a = c.reg a := Chip.reg_setFld_ne c _ _ h

theorem Chip.waitLine_mcState (c : Chip) (t : Nat) : (c.waitLine t).mcState = c.mcState := Chip.fld_waitLine c t _ _

/-! ### Commands of the MCX block -/

/-- An accepted command of the MCX block has its effect on the engine as it was, but for the registers of its write and for REASON and CH 0. -/
theorem Completes.of_mcx {s : State} {i : Instr} {a : Nat} {n : Init} {f g : Chip → Chip} {p : CmdPort} {r k : Nat} {d0 : Chip} {P : Chip → Prop}
    {l : List Nat} (h : s.chip.atWork = true) (hw : i.wf = true) (he : exec i s = s.act i (fun c => c.asWrite n a f))
    (hf : f s.chip.writing = d0.mcxCommand p n r k g) (hd0 : s.chip.RegsOnly d0 l) (hl : R.STW_STATE ∉ R.MCX_CMDSTAT :: l)
    (hp : p.stat = R.MCX_CMDSTAT) (hr : r = 0)
    (hP : ∀ d, s.chip.RegsOnly d (R.MCX_CMDSTAT :: l) → d.fld R.MCX_CMDSTAT reasonFld = 0 → d.fld R.MCX_CMDSTAT F.MCX_CMDSTAT_CH = 0 →
      (g d).fatal = d.fatal ∧ (g d).resetReq = d.resetReq ∧ P (g d).noReason) : Completes i s P := by
  have hmono : s.chip.RegsOnly d0 (R.MCX_CMDSTAT :: l) := ⟨hd0.1, fun a ha => hd0.2 a (fun hm => ha (List.mem_cons_of_mem _ hm))⟩
  have hch := hmono.trans (.setFld d0 F.MCX_CMDSTAT_CH 0 List.mem_cons_self)
  have hsafe : (d0.setFld R.MCX_CMDSTAT F.MCX_CMDSTAT_CH 0).inSafe = false := by
    rw [Chip.inSafe, hch.fld hl]
    exact Chip.inSafe_of_atWork h
  have hexec := exec_of_command h hw he (hf.trans (by rw [Chip.mcxCommand, if_pos (.inr hr)])) hr hsafe
  have hd := hch.trans (.setFld _ reasonFld 0 List.mem_cons_self)
  rw [Chip.accept, hp] at hexec
  have hzero := Chip.fld_setFld (d0.setFld R.MCX_CMDSTAT F.MCX_CMDSTAT_CH 0) R.MCX_CMDSTAT reasonFld 0 (by decide)
  have hnone : ((d0.setFld R.MCX_CMDSTAT F.MCX_CMDSTAT_CH 0).setFld R.MCX_CMDSTAT reasonFld 0).fld R.MCX_CMDSTAT F.MCX_CMDSTAT_CH = 0 :=
    (Chip.fld_setFld_apart _ _ _ _ _ (by decide) (by decide)).trans (Chip.fld_setFld _ _ _ _ (by decide))
  obtain ⟨hfatal, hreset, hP⟩ := hP _ hd hzero hnone
  exact .of_exec hexec (hfatal.trans (hd.fatal.trans (Chip.fatal_of_atWork (c := s.chip) h))) (hreset.trans (hd.resetReq.trans (Chip.resetReq_of_atWork (c := s.chip) h))) hP

/-- A command of an engine at work that no access brings. -/
theorem exec_of_atWork {s : State} {i : Instr} {f : Chip → Chip} (h : s.chip.atWork = true) (hw : i.wf = true) (he : exec i s = s.act i f) :
    exec i s = .next (s.after (f s.chip)) := by rw [he, State.act_of_atWork h hw]

/-! ### Entry -/

theorem completes_mcSrEnter {s : State} (h : s.chip.atWork = true) (i : Init) (htrain : s.chip.anyTraining = false)
    (hstate : s.chip.mcState = 2 ∨ s.chip.mcState = 3) (hrec : ∀ p, p < 16 → s.chip.recording p = false) :
    Completes (.mcSrEnter i) s (fun c => c.mcState = 4 ∧ c.mc.srPrior = s.chip.mcState ∧ c.mc.srBy = 1 ∧ c.fld R.MCX_CMDSTAT reasonFld = 0 ∧
      c.fld R.MCX_CMDSTAT F.MCX_CMDSTAT_CH = 0) := by
  have hserves : (decide (s.chip.mcState ≠ 2) && decide (s.chip.mcState ≠ 3)) = false := by
    rcases hstate with h | h <;> rw [h] <;> rfl
  have hidle : (List.range 16).any s.chip.recording = false := List.any_eq_false.2 fun p hp => by
    rw [hrec p (List.mem_range.1 hp)]; exact Bool.false_ne_true
  have hreason : firstReason [(s.chip.anyTraining, 0x90), (decide (s.chip.mcState ≠ 2) && decide (s.chip.mcState ≠ 3), 0x91),
      ((List.range 16).any s.chip.recording, 0x92)] = 0 := by
    rw [htrain, hserves, hidle]
    rfl
  refine .of_mcx (i := .mcSrEnter i) (l := []) h rfl rfl rfl (.writing _ _) (by decide) rfl hreason fun d hd hzero hnone => ?_
  have hmc : d.mcState = s.chip.mcState := hd.fld (by decide) _
  have heq : d.srBegin 1 = (d.putMc { d.mc with srPrior := d.mcState, srBy := 1, exitDue := false }).setMcState 4 := rfl
  rw [heq]
  have hreg := Chip.reg_setMcState (d.putMc { d.mc with srPrior := d.mcState, srBy := 1, exitDue := false }) 4 (a := R.MCX_CMDSTAT) (by decide)
  refine ⟨?_, ?_, ?_, ?_, ?_, ?_, ?_⟩
  · rw [Chip.setMcState_fatal, Chip.putMc_fatal]
  · rw [Chip.setMcState_resetReq, Chip.putMc_resetReq]
  · rw [Chip.mcState, Chip.fld_noReason]
    exact Chip.mcState_setMcState _ (by decide)
  · rw [Chip.noReason_mc, Chip.setMcState_mc, Chip.putMc_mc, hmc]
  · rw [Chip.noReason_mc, Chip.setMcState_mc, Chip.putMc_mc]
  · rw [Chip.fld_noReason, Chip.fld_congr hreg, Chip.fld_putMc, hzero]
  · rw [Chip.fld_noReason, Chip.fld_congr hreg, Chip.fld_putMc, hnone]

/-! ### The commit point -/

/-- Every debt of one channel is paid and its rows are closed. -/
def Chip.settleCh (c : Chip) (n : Nat) : Chip :=
  if (c.mcCh n).debt.isEmpty ∧ (c.mcCh n).openRow.isEmpty then c else (c.setMcCh n { c.mcCh n with debt := [], openRow := [] }).refDebt n

theorem Chip.mcPrecharge_eq (c : Chip) : c.mcPrecharge = (List.range 8).foldl Chip.settleCh c := rfl

theorem Chip.QueuesOnly.settleCh (c : Chip) (n : Nat) : c.QueuesOnly (c.settleCh n) := by
  unfold Chip.settleCh
  split
  · exact .refl c
  · exact (Chip.QueuesOnly.setMcCh c _ _).trans (.refDebt _ _)

/-- The channel owes nothing and has no row open. -/
def McCh.clear (m : McCh) : Prop := m.debt = [] ∧ m.openRow = []

theorem Chip.mcCh_settleCh (c : Chip) (n : Nat) : ((c.settleCh n).mcCh n).clear := by
  unfold Chip.settleCh
  split
  next h => exact ⟨List.isEmpty_iff.1 h.1, List.isEmpty_iff.1 h.2⟩
  next =>
    rw [Chip.refDebt, Chip.mcCh_setFld, Chip.mcCh_setMcCh]
    exact ⟨rfl, rfl⟩

theorem Chip.clear_settleCh {c : Chip} {n : Nat} (h : (c.mcCh n).clear) (k : Nat) : ((c.settleCh k).mcCh n).clear := by
  by_cases hk : n = k
  · rw [hk]
    exact c.mcCh_settleCh k
  · unfold Chip.settleCh
    split
    · exact h
    · rw [Chip.refDebt, Chip.mcCh_setFld, Chip.mcCh_setMcCh_ne _ _ hk]
      exact h

theorem Chip.clear_foldl_settleCh {n : Nat} : ∀ (l : List Nat) {c : Chip}, ((c.mcCh n).clear ∨ n ∈ l) → ((l.foldl Chip.settleCh c).mcCh n).clear
  | [], _, h => h.resolve_right List.not_mem_nil
  | k :: l, c, h => by
    refine Chip.clear_foldl_settleCh l ?_
    rcases h with h | h
    · exact .inl (Chip.clear_settleCh h k)
    · rcases List.mem_cons.1 h with rfl | h
      · exact .inl (c.mcCh_settleCh n)
      · exact .inr h

theorem Chip.mcPrecharge_spec (c : Chip) : c.QueuesOnly c.mcPrecharge ∧ ∀ n, n < 8 → (c.mcPrecharge.mcCh n).clear := by
  rw [Chip.mcPrecharge_eq]
  exact ⟨.foldl Chip.QueuesOnly.settleCh _ c, fun n hn => Chip.clear_foldl_settleCh _ (.inr (List.mem_range.2 hn))⟩

theorem completes_srCommitPoint {s : State} (h : s.chip.atWork = true) (hstate : s.chip.mcState = 4) (hquiet : s.chip.mcQuiet = true) :
    Completes .srCommitPoint s (fun c => c.mcState = 5 ∧ c.mc.residency = true ∧ c.mc.commitAt = s.chip.epc.line ∧
      (∀ n, n < 8 → (c.mcCh n).debt = [] ∧ (c.mcCh n).openRow = [])) := by
  have hdo : doSrCommitPoint s.chip = (s.chip.mcPrecharge.setMcState 5).putMc
      { (s.chip.mcPrecharge.setMcState 5).mc with residency := true, commitAt := (s.chip.mcPrecharge.setMcState 5).epc.line } :=
    if_pos ⟨hstate, hquiet⟩
  have hexec := exec_of_atWork (i := .srCommitPoint) h rfl rfl
  rw [hdo] at hexec
  obtain ⟨hrest, hclear⟩ := s.chip.mcPrecharge_spec
  generalize s.chip.mcPrecharge = d at *
  have hset := Chip.mcState_setMcState d (n := 5) (by decide)
  have hmc := d.setMcState_mc 5
  have hepc : (d.setMcState 5).epc = s.chip.epc := (d.setMcState_epc 5).trans hrest.epc
  have hfatal : (d.setMcState 5).fatal = none := (d.setMcState_fatal 5).trans (hrest.fatal.trans (Chip.fatal_of_atWork (c := s.chip) h))
  have hreset : (d.setMcState 5).resetReq = false := (d.setMcState_resetReq 5).trans (hrest.resetReq.trans (Chip.resetReq_of_atWork (c := s.chip) h))
  have hch : ∀ n, n < 8 → ((d.setMcState 5).mcCh n).clear := by
    intro n hn
    rw [Chip.setMcState, Chip.mcCh_setFld]
    exact hclear n hn
  generalize d.setMcState 5 = e at *
  refine .of_exec hexec ((Chip.putMc_fatal _ _).trans hfatal) ((Chip.putMc_resetReq _ _).trans hreset) ⟨?_, ?_, ?_, fun n hn => ?_⟩
  · rw [Chip.mcState_putMc, hset]
  · rw [Chip.putMc_mc]
  · rw [Chip.putMc_mc, hepc]
  · exact hch n hn

/-! ### Residency and exit -/

theorem Chip.srExitNow_eq (c : Chip) : c.srExitNow = (c.putMc { c.mc with exitDue := false }).setMcState 6 := rfl

/-- A waiting exit proceeds. -/
def Chip.exitWaited (c : Chip) : Chip := if c.mc.exitDue then c.srExitNow else c

theorem Chip.exitWaited_spec (c : Chip) : c.exitWaited.fatal = c.fatal ∧ c.exitWaited.resetReq = c.resetReq ∧ c.exitWaited.epc = c.epc ∧
    c.exitWaited.mc.residency = c.mc.residency ∧ c.exitWaited.mcState = if c.mc.exitDue then 6 else c.mcState := by
  by_cases hdue : c.mc.exitDue = true
  · have heq : c.exitWaited = (c.putMc { c.mc with exitDue := false }).setMcState 6 := if_pos hdue
    rw [heq, if_pos hdue, Chip.setMcState_fatal, Chip.setMcState_resetReq, Chip.setMcState_epc, Chip.setMcState_mc]
    exact ⟨rfl, rfl, rfl, rfl, Chip.mcState_setMcState _ (by decide)⟩
  · have heq : c.exitWaited = c := if_neg hdue
    rw [heq, if_neg hdue]
    exact ⟨rfl, rfl, rfl, rfl, rfl⟩

/-- The residency ends in an engine as it stands. -/
def Chip.freed (c : Chip) : Chip := c.putMc { c.mc with residency := false }

theorem Chip.freed_fatal (c : Chip) : c.freed.fatal = c.fatal := rfl
theorem Chip.freed_resetReq (c : Chip) : c.freed.resetReq = c.resetReq := rfl
theorem Chip.freed_epc (c : Chip) : c.freed.epc = c.epc := rfl
theorem Chip.freed_residency (c : Chip) : c.freed.mc.residency = false := rfl
theorem Chip.freed_exitDue (c : Chip) : c.freed.mc.exitDue = c.mc.exitDue := rfl
theorem Chip.freed_mcState (c : Chip) : c.freed.mcState = c.mcState := rfl

theorem doSrResidencyEnd_resident {c : Chip} (hstate : c.mcState = 5) (hres : c.mc.residency = true) :
    doSrResidencyEnd c = (c.waitLine (c.mc.commitAt + micro)).freed.exitWaited := by
  unfold doSrResidencyEnd
  rw [if_pos ⟨hstate, hres⟩]
  generalize c.waitLine (c.mc.commitAt + micro) = d
  rfl

theorem completes_srResidencyEnd {s : State} (h : s.chip.atWork = true) (hstate : s.chip.mcState = 5) (hres : s.chip.mc.residency = true) :
    Completes .srResidencyEnd s (fun c => c.mc.residency = false ∧ s.chip.mc.commitAt + micro ≤ c.epc.line ∧
      c.mcState = (if s.chip.mc.exitDue then 6 else 5)) := by
  have hexec := exec_of_atWork (i := .srResidencyEnd) h rfl rfl
  rw [doSrResidencyEnd_resident hstate hres] at hexec
  obtain ⟨hfatal, hreset, hepc, hend, hgo⟩ := (s.chip.waitLine (s.chip.mc.commitAt + micro)).freed.exitWaited_spec
  rw [Chip.freed_fatal, Chip.waitLine_fatal, Chip.fatal_of_atWork (c := s.chip) h] at hfatal
  rw [Chip.freed_resetReq, Chip.waitLine_resetReq, Chip.resetReq_of_atWork (c := s.chip) h] at hreset
  rw [Chip.freed_epc] at hepc
  rw [Chip.freed_residency] at hend
  rw [Chip.freed_exitDue, Chip.freed_mcState, Chip.waitLine_mc, Chip.waitLine_mcState, hstate] at hgo
  have hline := s.chip.le_line_waitLine (s.chip.mc.commitAt + micro)
  rw [← hepc] at hline
  exact .of_exec hexec hfatal hreset ⟨hend, hline, hgo⟩

/-- What leaving self-refresh makes of the engine: the exit waits for the end of the residency, or is issued. -/
theorem Chip.srLeave_spec {c : Chip} (h : c.mcState = 5) : (c.mc.residency = true → c.srLeave.mcState = 5 ∧ c.srLeave.mc.exitDue = true) ∧
    (c.mc.residency = false → c.srLeave.mcState = 6) ∧ c.srLeave.fatal = c.fatal ∧ c.srLeave.resetReq = c.resetReq ∧
    c.srLeave.mc.late = c.mc.late ∧ (∀ a, a ≠ R.MCX_STAT → c.srLeave.reg a = c.reg a) := by
  by_cases hres : c.mc.residency = true
  · have heq : c.srLeave = c.putMc { c.mc with exitDue := true } := if_pos hres
    rw [heq]
    refine ⟨fun _ => ⟨?_, ?_⟩, fun hno => absurd (hres.symm.trans hno) (by decide), ?_, ?_, ?_, fun a _ => ?_⟩
    · rw [Chip.mcState_putMc, h]
    · rw [Chip.putMc_mc]
    · rw [Chip.putMc_fatal]
    · rw [Chip.putMc_resetReq]
    · rw [Chip.putMc_mc]
    · rw [Chip.reg_putMc]
  · have heq : c.srLeave = (c.putMc { c.mc with exitDue := false }).setMcState 6 := if_neg hres
    rw [heq]
    refine ⟨fun hyes => absurd hyes hres, fun _ => Chip.mcState_setMcState _ (by decide), ?_, ?_, ?_, fun a ha => ?_⟩
    · rw [Chip.setMcState_fatal, Chip.putMc_fatal]
    · rw [Chip.setMcState_resetReq, Chip.putMc_resetReq]
    · rw [Chip.setMcState_mc, Chip.putMc_mc]
    · rw [Chip.reg_setMcState _ _ ha, Chip.reg_putMc]

theorem completes_mcSrExit {s : State} (h : s.chip.atWork = true) (i : Init) (hstate : s.chip.mcState = 5) :
    Completes (.mcSrExit i) s (fun c => c.fld R.MCX_CMDSTAT reasonFld = 0 ∧
      (s.chip.mc.residency = true → c.mcState = 5 ∧ c.mc.exitDue = true) ∧ (s.chip.mc.residency = false → c.mcState = 6)) := by
  have hreason : firstReason [(decide (s.chip.mcState ≠ 5), 0x91)] = 0 := by
    rw [hstate]
    rfl
  refine .of_mcx (i := .mcSrExit i) (l := []) h rfl rfl rfl (.writing _ _) (by decide) rfl hreason fun d hd hzero _ => ?_
  have hmc : d.mcState = 5 := (hd.fld (by decide) _).trans hstate
  obtain ⟨hstay, hgo, hfatal, hreset, -, hregs⟩ := Chip.srLeave_spec hmc
  rw [hd.mc] at hstay hgo
  refine ⟨hfatal, hreset, ?_, hstay, hgo⟩
  rw [Chip.fld_noReason, Chip.fld_congr (hregs _ (by decide)), hzero]

theorem doSrExitDone_of_none {c : Chip} (hstate : c.mcState = 6) (hlate : c.mc.late = []) : doSrExitDone c =
    ((c.setMcState c.mc.srPrior).putMc { (c.setMcState c.mc.srPrior).mc with late := [], srBy := 0 }).mcFeed := by
  unfold doSrExitDone
  rw [if_pos hstate, hlate]
  dsimp only [List.foldl_nil]
  rw [if_pos (.inl rfl)]
  rfl

theorem completes_srExitDone {s : State} (h : s.chip.atWork = true) (hstate : s.chip.mcState = 6) (hprior : s.chip.mc.srPrior < 8)
    (hlate : s.chip.mc.late = []) : Completes .srExitDone s (fun c => c.mcState = s.chip.mc.srPrior ∧ c.mc.srBy = 0) := by
  have hexec := exec_of_atWork (i := .srExitDone) h rfl rfl
  rw [doSrExitDone_of_none hstate hlate] at hexec
  have hset := Chip.mcState_setMcState s.chip hprior
  have hfatal := (s.chip.setMcState_fatal s.chip.mc.srPrior).trans (Chip.fatal_of_atWork (c := s.chip) h)
  have hreset := (s.chip.setMcState_resetReq s.chip.mc.srPrior).trans (Chip.resetReq_of_atWork (c := s.chip) h)
  generalize s.chip.setMcState s.chip.mc.srPrior = d at *
  have hfeed := Chip.QueuesOnly.mcFeed (d.putMc { d.mc with late := [], srBy := 0 })
  have hregs := (d.putMc { d.mc with late := [], srBy := 0 }).mcFeed_regs
  refine .of_exec hexec ?_ ?_ ⟨?_, ?_⟩
  · rw [hfeed.fatal, Chip.putMc_fatal, hfatal]
  · rw [hfeed.resetReq, Chip.putMc_resetReq, hreset]
  · rw [Chip.mcState, Chip.fld_congr (Chip.reg_congr hregs _), Chip.fld_putMc]
    exact hset
  · rw [hfeed.srBy, Chip.putMc_mc]

/-! ### A readout request meets self-refresh -/

/-- What waiting for the regulator's tokens makes of the engine: time passes and the bucket fills. -/
theorem Chip.waitTokens_shape (c : Chip) (n : Nat) :
    ∃ k e t a, c.waitTokens n = { c with cycle := k, epc := e, mc := { c.mc with tokens := t, tokensAt := a } } := by
  unfold Chip.waitTokens
  dsimp only
  split
  · obtain ⟨k, e, h⟩ := c.fillTokens.waitLine_shape (c.fillTokens.epc.line + (n * second - c.fillTokens.mc.tokens) / c.fillTokens.readShare + 1)
    rw [h]
    exact ⟨k, e, _, _, rfl⟩
  · exact ⟨c.cycle, c.epc, _, _, rfl⟩

/-- The bucket holds `t`. -/
def Mc.holding (m : Mc) (t : Nat) : Mc := { m with tokens := t }

theorem Mc.holding_keeps (m : Mc) (t : Nat) : (m.holding t).late = m.late ∧ (m.holding t).residency = m.residency ∧
    (m.holding t).srPrior = m.srPrior ∧ (m.holding t).srBy = m.srBy := ⟨rfl, rfl, rfl, rfl⟩

/-- The engine once `n` bytes of a readout request have passed the regulator (R306). -/
def Chip.paidTokens (c : Chip) (n : Nat) : Chip := (c.waitTokens n).putMc ((c.waitTokens n).mc.holding ((c.waitTokens n).mc.tokens - n * second))

theorem Chip.waitTokens_spec (c : Chip) (n : Nat) : (c.waitTokens n).regs = c.regs ∧ (c.waitTokens n).fatal = c.fatal ∧
    (c.waitTokens n).resetReq = c.resetReq ∧ (c.waitTokens n).mc.late = c.mc.late ∧ (c.waitTokens n).mc.residency = c.mc.residency ∧
    (c.waitTokens n).mc.srPrior = c.mc.srPrior ∧ (c.waitTokens n).mc.srBy = c.mc.srBy := by
  obtain ⟨k, e, t, a, h⟩ := c.waitTokens_shape n
  rw [h]
  exact ⟨rfl, rfl, rfl, rfl, rfl, rfl, rfl⟩

theorem Chip.paidTokens_spec (c : Chip) (n : Nat) : (c.paidTokens n).regs = c.regs ∧ (c.paidTokens n).fatal = c.fatal ∧
    (c.paidTokens n).resetReq = c.resetReq ∧ (c.paidTokens n).mc.late = c.mc.late ∧ (c.paidTokens n).mc.residency = c.mc.residency ∧
    (c.paidTokens n).mc.srPrior = c.mc.srPrior ∧ (c.paidTokens n).mc.srBy = c.mc.srBy := by
  have hspec := c.waitTokens_spec n
  rw [Chip.paidTokens, Chip.putMc_regs, Chip.putMc_fatal, Chip.putMc_resetReq, Chip.putMc_mc]
  obtain ⟨klate, kres, kprior, kby⟩ := (c.waitTokens n).mc.holding_keeps ((c.waitTokens n).mc.tokens - n * second)
  rw [klate, kres, kprior, kby]
  exact hspec

theorem exec_readoutAdmit {s : State} {r n a : Nat} (h : s.chip.atWork = true) (hstate : 2 ≤ s.chip.mcState) (hr : 8 ≤ r) (hr' : r ≤ 12)
    (hn : 1 ≤ n) (hn' : n ≤ 4096) (ha : a < 2 ^ 48) (hin : a + n ≤ s.chip.capBytes) (hfit : s.chip.queueFits McCh.reads (s.chip.capRuns r a n) = true)
    (hidle : (s.chip.capRuns r a n).all (fun x => s.chip.reqIdle x.1 r) = true) :
    exec (.readoutAdmit r n a false) s = .next (s.after ((s.chip.paidTokens n).admitRuns r (s.chip.capRuns r a n))) := by
  have hwf : (Instr.readoutAdmit r n a false).wf = true := by
    show (decide (r < 16) && decide (a < 2 ^ 48)) = true
    rw [decide_eq_true (by omega : r < 16), decide_eq_true ha]
    rfl
  have hinside : s.chip.readInside r n a false = true := by
    unfold Chip.readInside
    rw [decide_eq_true hn, decide_eq_true hn', if_neg Bool.false_ne_true, decide_eq_true hin]
    rfl
  have hladder : decide (s.chip.ladder ≤ 1) = true := decide_eq_true (by rw [Chip.ladder_of_atWork h]; omega)
  rw [exec_of_atWork h hwf (f := doReadoutAdmit r n a false) rfl]
  unfold doReadoutAdmit
  rw [if_neg Bool.false_ne_true, hinside, hladder, decide_eq_true hstate]
  dsimp only
  rw [hfit, if_pos (by decide), if_neg (by omega), if_pos ⟨hr, hr', hidle⟩]
  rfl

theorem Chip.capRuns_ne_nil {n : Nat} (c : Chip) (r a : Nat) (hn : 1 ≤ n) : c.capRuns r a n ≠ [] := by
  unfold Chip.capRuns unitPieces
  rw [if_neg (by omega)]
  exact List.cons_ne_nil _ _

/-- Entry is abandoned by a request that meets it (R317). -/
def Chip.abandoned (c : Chip) : Chip :=
  ((c.setMcState c.mc.srPrior).addCnt R.MCX_SR_ABORT 1).putMc { ((c.setMcState c.mc.srPrior).addCnt R.MCX_SR_ABORT 1).mc with srBy := 0 }

theorem Chip.admitRuns_of_entry {c : Chip} (hstate : c.mcState = 4) (hby : c.mc.srBy = 1) (r : Nat) (l : List (Nat × DramReq)) :
    c.admitRuns r l = c.abandoned.pushReads l := by
  have harrive : c.dramArrive = (c.srAbandon, true) := by
    unfold Chip.dramArrive
    rw [hstate]
    rfl
  have habandon : c.srAbandon = c.abandoned := by
    unfold Chip.srAbandon
    rw [hby]
    rfl
  unfold Chip.admitRuns Chip.arriveWith
  rw [harrive, habandon]
  rfl

theorem Chip.abandoned_spec {c : Chip} (hprior : c.mc.srPrior < 8) : c.abandoned.mcState = c.mc.srPrior ∧ c.abandoned.mc.srBy = 0 ∧
    c.abandoned.reg R.MCX_SR_ABORT = c.reg R.MCX_SR_ABORT + 1 ∧ c.abandoned.mc.late = c.mc.late ∧ c.abandoned.fatal = c.fatal ∧
    c.abandoned.resetReq = c.resetReq := by
  unfold Chip.abandoned
  refine ⟨?_, ?_, ?_, ?_, ?_, ?_⟩
  · rw [Chip.mcState_putMc, Chip.mcState, Chip.fld_congr (Chip.reg_addCnt_ne _ _ (by decide))]
    exact Chip.mcState_setMcState c hprior
  · rw [Chip.putMc_mc]
  · rw [Chip.reg_putMc, Chip.reg_addCnt_one, Chip.reg_setMcState _ _ (by decide)]
  · rw [Chip.putMc_mc, Chip.addCnt_mc, Chip.setMcState_mc]
  · rw [Chip.putMc_fatal, Chip.addCnt_fatal, Chip.setMcState_fatal]
  · rw [Chip.putMc_resetReq, Chip.addCnt_resetReq, Chip.setMcState_resetReq]

theorem completes_readoutAdmit_entry {s : State} {r n a : Nat} (h : s.chip.atWork = true) (hstate : s.chip.mcState = 4) (hby : s.chip.mc.srBy = 1)
    (hprior : s.chip.mc.srPrior < 8) (hr : 8 ≤ r) (hr' : r ≤ 12) (hn : 1 ≤ n) (hn' : n ≤ 4096) (ha : a < 2 ^ 48) (hin : a + n ≤ s.chip.capBytes)
    (hfit : s.chip.queueFits McCh.reads (s.chip.capRuns r a n) = true) (hidle : (s.chip.capRuns r a n).all (fun x => s.chip.reqIdle x.1 r) = true) :
    Completes (.readoutAdmit r n a false) s (fun c => c.mcState = s.chip.mc.srPrior ∧ c.mc.srBy = 0 ∧
      c.reg R.MCX_SR_ABORT = s.chip.reg R.MCX_SR_ABORT + 1 ∧ c.mc.late = s.chip.mc.late) := by
  have hexec := exec_readoutAdmit h (by omega) hr hr' hn hn' ha hin hfit hidle
  obtain ⟨hregs, hfatal, hreset, hlate, -, hkeep, hwho⟩ := s.chip.paidTokens_spec n
  generalize s.chip.paidTokens n = d at *
  have hmc : d.mcState = 4 := (Chip.fld_congr (Chip.reg_congr hregs _) _).trans hstate
  rw [Chip.admitRuns_of_entry hmc (hwho.trans hby)] at hexec
  obtain ⟨ast, aby, acnt, alate, afatal, areset⟩ := Chip.abandoned_spec (c := d) (by rw [hkeep]; exact hprior)
  generalize d.abandoned = e at *
  have hpush := Chip.QueuesOnly.pushReads e (s.chip.capRuns r a n)
  have hpregs := e.pushReads_regs (s.chip.capRuns r a n)
  have hpst := e.pushReads_mcState (s.chip.capRuns r a n)
  refine .of_exec hexec ?_ ?_ ⟨?_, ?_, ?_, ?_⟩
  · rw [hpush.fatal, afatal, hfatal, Chip.fatal_of_atWork (c := s.chip) h]
  · rw [hpush.resetReq, areset, hreset, Chip.resetReq_of_atWork (c := s.chip) h]
  · rw [hpst, ast, hkeep]
  · rw [hpush.srBy, aby]
  · rw [Chip.reg_congr hpregs, acnt, Chip.reg_congr hregs]
  · rw [hpush.late, alate, hlate]

/-- A request waits for the exit. -/
def Mc.waiting (m : Mc) (x : Nat × List (Nat × DramReq)) : Mc := { m with late := m.late ++ [x] }

theorem Mc.waiting_late (m : Mc) (x : Nat × List (Nat × DramReq)) : (m.waiting x).late = m.late ++ [x] := rfl
theorem Mc.waiting_exitDue (m : Mc) (x : Nat × List (Nat × DramReq)) : (m.waiting x).exitDue = m.exitDue := rfl

/-- A late request waits with its runs, counted. -/
def Chip.waitLate (c : Chip) (r : Nat) (l : List (Nat × DramReq)) : Chip := (c.putMc (c.mc.waiting (r, l))).addCnt R.MCX_SR_LATE 1

theorem Chip.admitRuns_of_resident {c : Chip} (hstate : c.mcState = 5) {l : List (Nat × DramReq)} (hl : l ≠ []) (r : Nat) :
    c.admitRuns r l = c.srLeave.waitLate r l := by
  have harrive : c.dramArrive = (c.srLeave, false) := by
    unfold Chip.dramArrive
    rw [hstate]
    rfl
  have hempty : l.isEmpty = false := by
    cases l with
    | nil => exact absurd rfl hl
    | cons x l => rfl
  unfold Chip.admitRuns Chip.arriveWith
  rw [harrive, hstate]
  have hlate : (false || decide (5 < 5)) = false := by decide
  dsimp only
  rw [hlate, if_neg Bool.false_ne_true, if_neg Bool.false_ne_true]
  unfold Chip.lateOnce
  rw [hempty, Bool.and_false]
  rfl

theorem completes_readoutAdmit_resident {s : State} {r n a : Nat} (h : s.chip.atWork = true) (hstate : s.chip.mcState = 5) (hr : 8 ≤ r)
    (hr' : r ≤ 12) (hn : 1 ≤ n) (hn' : n ≤ 4096) (ha : a < 2 ^ 48) (hin : a + n ≤ s.chip.capBytes)
    (hfit : s.chip.queueFits McCh.reads (s.chip.capRuns r a n) = true) (hidle : (s.chip.capRuns r a n).all (fun x => s.chip.reqIdle x.1 r) = true) :
    Completes (.readoutAdmit r n a false) s (fun c => (s.chip.mc.residency = true → c.mcState = 5 ∧ c.mc.exitDue = true) ∧
      (s.chip.mc.residency = false → c.mcState = 6) ∧ c.reg R.MCX_SR_LATE = s.chip.reg R.MCX_SR_LATE + 1 ∧
      c.mc.late = s.chip.mc.late ++ [(r, s.chip.capRuns r a n)]) := by
  have hexec := exec_readoutAdmit h (by omega) hr hr' hn hn' ha hin hfit hidle
  obtain ⟨hregs, hfatal, hreset, hlate, hres, -, -⟩ := s.chip.paidTokens_spec n
  generalize s.chip.paidTokens n = d at *
  have hmc : d.mcState = 5 := (Chip.fld_congr (Chip.reg_congr hregs _) _).trans hstate
  rw [Chip.admitRuns_of_resident hmc (s.chip.capRuns_ne_nil r a hn)] at hexec
  obtain ⟨hstay, hgo, lfatal, lreset, llate, lregs⟩ := Chip.srLeave_spec hmc
  rw [hres] at hstay hgo
  generalize d.srLeave = e at *
  generalize s.chip.capRuns r a n = l at *
  have hst : (e.waitLate r l).mcState = e.mcState := by
    rw [Chip.waitLate, Chip.mcState, Chip.fld_congr (Chip.reg_addCnt_ne _ _ (by decide)), Chip.fld_putMc, Chip.mcState]
  have hwmc : (e.waitLate r l).mc = e.mc.waiting (r, l) := by rw [Chip.waitLate, Chip.addCnt_mc, Chip.putMc_mc]
  refine .of_exec hexec ?_ ?_ ⟨fun hyes => ⟨?_, ?_⟩, fun hno => ?_, ?_, ?_⟩
  · rw [Chip.waitLate, Chip.addCnt_fatal, Chip.putMc_fatal, lfatal, hfatal, Chip.fatal_of_atWork (c := s.chip) h]
  · rw [Chip.waitLate, Chip.addCnt_resetReq, Chip.putMc_resetReq, lreset, hreset, Chip.resetReq_of_atWork (c := s.chip) h]
  · rw [hst, (hstay hyes).1]
  · rw [hwmc, Mc.waiting_exitDue, (hstay hyes).2]
  · rw [hst, hgo hno]
  · rw [Chip.waitLate, Chip.reg_addCnt_one, Chip.reg_putMc, lregs _ (by decide), Chip.reg_congr hregs]
  · rw [hwmc, Mc.waiting_late, llate, hlate]

/-- Settles O43: what each command of self-refresh makes of the controller's state, and what a readout request that meets it does. -/
theorem selfRefresh : Obligations.SelfRefresh :=
  ⟨fun _ i h htrain hstate hrec => completes_mcSrEnter h i htrain hstate hrec,
    fun _ h hstate hquiet => completes_srCommitPoint h hstate hquiet,
    fun _ h hstate hres => completes_srResidencyEnd h hstate hres,
    fun _ i h hstate => completes_mcSrExit h i hstate,
    fun _ h hstate hprior hlate => completes_srExitDone h hstate hprior hlate,
    fun _ _ _ _ h hstate hby hprior hr hr' hn hn' ha hin hfit hidle =>
      completes_readoutAdmit_entry h hstate hby hprior hr hr' hn hn' ha hin hfit hidle,
    fun _ _ _ _ h hstate hr hr' hn hn' ha hin hfit hidle => completes_readoutAdmit_resident h hstate hr hr' hn hn' ha hin hfit hidle⟩

end Sys2Proof.Machine
end

section
/-! DRAM traffic (R298 to R300, R305, R306): requests admitted, a channel's next command, and codewords that return. -/

namespace Sys2Proof.Machine

/-! ### Requests admitted -/

theorem Chip.admitRuns_of_serving {c : Chip} (h : c.mcState = 2 ∨ c.mcState = 3) (r : Nat) (l : List (Nat × DramReq)) :
    c.admitRuns r l = c.pushReads l := by
  have harrive : c.dramArrive = (c, true) := by
    unfold Chip.dramArrive
    rcases h with h | h <;> rw [h]
    · rfl
    · rfl
  unfold Chip.admitRuns Chip.arriveWith
  rw [harrive]
  rfl

theorem exec_readoutAdmit_serving {s : State} {r n a : Nat} (h : s.chip.atWork = true) (hstate : s.chip.mcState = 2 ∨ s.chip.mcState = 3)
    (hr : 8 ≤ r) (hr' : r ≤ 12) (hn : 1 ≤ n) (hn' : n ≤ 4096) (ha : a < 2 ^ 48) (hin : a + n ≤ s.chip.capBytes)
    (hfit : s.chip.queueFits McCh.reads (s.chip.capRuns r a n) = true) (hidle : (s.chip.capRuns r a n).all (fun x => s.chip.reqIdle x.1 r) = true) :
    exec (.readoutAdmit r n a false) s = .next (s.after ((s.chip.paidTokens n).pushReads (s.chip.capRuns r a n))) := by
  obtain ⟨hregs, -⟩ := s.chip.paidTokens_spec n
  have hmc : (s.chip.paidTokens n).mcState = s.chip.mcState := Chip.fld_congr (Chip.reg_congr hregs _) _
  rw [exec_readoutAdmit h (by omega) hr hr' hn hn' ha hin hfit hidle, Chip.admitRuns_of_serving (by rw [hmc]; exact hstate)]

/-- The Steward may read again from `t` on. -/
def Chip.paceTo (c : Chip) (t : Nat) : Chip := { c with mc := { c.mc with stwAt := t } }

theorem Chip.paceTo_mcState (c : Chip) (t : Nat) : (c.paceTo t).mcState = c.mcState := rfl

/-- The engine at the time from which the Steward may read again, and the next such time after a read of `n` bytes (R306). -/
def Chip.stewardPaced (c : Chip) (n : Nat) : Chip := (c.waitLine c.mc.stwAt).paceTo ((c.waitLine c.mc.stwAt).epc.line + paceOf n 500000000)

theorem exec_readoutAdmit_steward {s : State} {n a : Nat} (engine : Bool) (h : s.chip.atWork = true)
    (hstate : s.chip.mcState = 2 ∨ s.chip.mcState = 3) (hn : 1 ≤ n) (hn' : n ≤ 4096) (ha : a < 2 ^ 48)
    (hin : a + n ≤ if engine then s.chip.engBytes else s.chip.capBytes)
    (hfit : s.chip.queueFits McCh.reads (if engine then s.chip.engRuns 13 a n else s.chip.capRuns 13 a n) = true) :
    exec (.readoutAdmit 13 n a engine) s = .next (s.after
      ((s.chip.stewardPaced n).pushReads (if engine then s.chip.engRuns 13 a n else s.chip.capRuns 13 a n))) := by
  have hwf : (Instr.readoutAdmit 13 n a engine).wf = true := by
    show (decide (13 < 16) && decide (a < 2 ^ 48)) = true
    rw [decide_eq_true ha]
    rfl
  have hinside : s.chip.readInside 13 n a engine = true := by
    unfold Chip.readInside
    rw [decide_eq_true hn, decide_eq_true hn']
    cases engine
    · rw [if_neg Bool.false_ne_true] at hin ⊢
      rw [decide_eq_true hin]
      rfl
    · rw [if_pos rfl] at hin ⊢
      rw [decide_eq_true hin]
      rfl
  have hladder : decide (s.chip.ladder ≤ 1) = true := decide_eq_true (by rw [Chip.ladder_of_atWork h]; omega)
  have hserves : decide (2 ≤ s.chip.mcState) = true := decide_eq_true (by omega)
  have hpaced : (s.chip.stewardPaced n).mcState = s.chip.mcState :=
    (Chip.paceTo_mcState _ _).trans (s.chip.waitLine_mcState _)
  have hdo : doReadoutAdmit 13 n a engine s.chip =
      (s.chip.stewardPaced n).admitRuns 13 (if engine then s.chip.engRuns 13 a n else s.chip.capRuns 13 a n) := by
    unfold doReadoutAdmit
    refine (if_pos ?_).trans (if_pos rfl)
    rw [hinside, hladder, hserves, hfit]
    rfl
  rw [exec_of_atWork h hwf (f := doReadoutAdmit 13 n a engine) rfl, hdo, Chip.admitRuns_of_serving (by rw [hpaced]; exact hstate)]

theorem Chip.paidTokens_eq (c : Chip) (n : Nat) :
    c.paidTokens n = { c.waitTokens n with mc := { (c.waitTokens n).mc with tokens := (c.waitTokens n).mc.tokens - n * second } } := by
  unfold Chip.paidTokens
  generalize c.waitTokens n = d
  generalize d.mc.tokens - n * second = t
  rfl

/-! ### A channel's next command -/

/-- The channel as its queue stands: no drain goes on. -/
def Chip.undrained (c : Chip) (n : Nat) : Chip := c.setMcCh n { c.mcCh n with draining := false }

theorem Chip.urgent_undrained (c : Chip) (n : Nat) : (c.undrained n).urgent n = c.urgent n := by
  have hmerge : (c.undrained n).rankMerging n = c.rankMerging n := by
    funext k
    unfold Chip.rankMerging
    rw [Chip.undrained, Chip.mcCh_setMcCh]
    rfl
  unfold Chip.urgent
  rw [hmerge]
  unfold Chip.undrained
  rw [Chip.mcCh_setMcCh]
  rfl

/-- A channel with nothing due before its traffic. -/
structure Chip.TrafficNext (c : Chip) (n : Nat) : Prop where
  serves : c.mcState = 2
  ready : c.flag (R.MC_STAT n) F.MC_STAT_READY = true
  fed : c.mc.wait = []
  calm : c.urgent n = none
  managed : (c.mcCh n).rfm = []
  undrained : (c.mcCh n).drainNow = false

/-- What a channel does with nothing due before its traffic: its next read, else its next write, else a refresh that it owes. -/
def Chip.traffic (c : Chip) (n : Nat) (debt : List (Nat × Nat)) : Chip :=
  match c.nextRead n with
  | some r => c.readCodeword n r
  | none =>
    match c.nextWrite n with
    | some w => c.writeCodeword n w
    | none =>
      match owing debt with
      | some rank => c.payRefresh n rank
      | none => c

/-- The channel with draining as its queue stands. -/
def Chip.drainSet (c : Chip) (n : Nat) : Chip := c.setMcCh n { c.mcCh n with draining := (c.mcCh n).drainNow }

theorem Chip.drainSet_of_undrained {c : Chip} {n : Nat} (h : (c.mcCh n).drainNow = false) : c.drainSet n = c.undrained n := by
  rw [Chip.drainSet, h, Chip.undrained]

/-- The command of a ready channel, `u` with draining as its queue in `c` stands. -/
def Chip.nextCommand (c u : Chip) (n : Nat) : Chip :=
  match u.urgent n, (c.mcCh n).rfm.find? (fun b => !c.bankMerging n b) with
  | some rank, _ => u.payRefresh n rank
  | none, some bank => u.serveRfm n bank
  | none, none =>
    match (if (c.mcCh n).drainNow then u.nextWrite n else none) with
    | some w => u.writeCodeword n w
    | none => u.traffic n ((c.mcCh n).debt.filter (fun d => !u.rankMerging n d.1))

theorem doDramCommand_ready {c : Chip} {n : Nat} (hfeed : c.mcFeed = c) (hactive : c.mcActive = true)
    (hready : c.flag (R.MC_STAT n) F.MC_STAT_READY = true) : doDramCommand n c = c.nextCommand (c.drainSet n) n := by
  unfold doDramCommand
  dsimp only
  rw [hfeed, hactive, hready, if_pos (by decide)]
  rfl

theorem doDramCommand_traffic {c : Chip} {n : Nat} (h : c.TrafficNext n) :
    doDramCommand n c = (c.undrained n).traffic n ((c.mcCh n).debt.filter (fun d => !(c.undrained n).rankMerging n d.1)) := by
  have hfeed : c.mcFeed = c := by
    unfold Chip.mcFeed
    rw [h.fed]
    exact if_neg (by simp)
  have hactive : c.mcActive = true := by
    unfold Chip.mcActive
    rw [h.serves]
    rfl
  rw [doDramCommand_ready hfeed hactive h.ready, Chip.drainSet_of_undrained h.undrained]
  unfold Chip.nextCommand
  rw [c.urgent_undrained n, h.calm, h.managed, h.undrained]
  rfl

theorem exec_dramCommand {s : State} {n : Nat} (h : s.chip.atWork = true) (hn : n < 8) (ht : s.chip.TrafficNext n) : exec (.dramCommand n) s =
    .next (s.after ((s.chip.undrained n).traffic n ((s.chip.mcCh n).debt.filter (fun d => !(s.chip.undrained n).rankMerging n d.1)))) := by
  rw [exec_of_atWork (i := .dramCommand n) h (decide_eq_true hn) (f := doDramCommand n) rfl, doDramCommand_traffic ht]

theorem Chip.rankMerging_of_none {c : Chip} {n : Nat} (h : (c.mcCh n).merge = []) (k : Nat) : c.rankMerging n k = false := by
  unfold Chip.rankMerging
  rw [h]
  rfl

theorem exec_dramCommand_refresh {s : State} {n k : Nat} (h : s.chip.atWork = true) (hn : n < 8) (ht : s.chip.TrafficNext n)
    (hr : (s.chip.undrained n).nextRead n = none) (hw : (s.chip.undrained n).nextWrite n = none) (hm : (s.chip.mcCh n).merge = [])
    (ho : owing (s.chip.mcCh n).debt = some k) : exec (.dramCommand n) s = .next (s.after ((s.chip.undrained n).payRefresh n k)) := by
  have hmerge : ((s.chip.undrained n).mcCh n).merge = [] := by
    rw [Chip.undrained, Chip.mcCh_setMcCh]
    exact hm
  have hall : (s.chip.mcCh n).debt.filter (fun d => !(s.chip.undrained n).rankMerging n d.1) = (s.chip.mcCh n).debt :=
    List.filter_eq_self.2 fun d _ => by rw [Chip.rankMerging_of_none hmerge]; rfl
  rw [exec_dramCommand h hn ht, hall, Chip.traffic, hr, hw, ho]

theorem exec_dramCommand_read {s : State} {n : Nat} {r : DramReq} (h : s.chip.atWork = true) (hn : n < 8) (ht : s.chip.TrafficNext n)
    (hr : (s.chip.undrained n).nextRead n = some r) : exec (.dramCommand n) s = .next (s.after ((s.chip.undrained n).readCodeword n r)) := by
  rw [exec_dramCommand h hn ht, Chip.traffic, hr]

theorem exec_dramCommand_write {s : State} {n : Nat} {w : DramReq} (h : s.chip.atWork = true) (hn : n < 8) (ht : s.chip.TrafficNext n)
    (hr : (s.chip.undrained n).nextRead n = none) (hw : (s.chip.undrained n).nextWrite n = some w) :
    exec (.dramCommand n) s = .next (s.after ((s.chip.undrained n).writeCodeword n w)) := by
  rw [exec_dramCommand h hn ht, Chip.traffic, hr, hw]

/-! ### Codewords that return -/

/-- The codeword's flight ends. -/
def Chip.landed (c : Chip) (n r cw : Nat) : Chip := c.setMcCh n { c.mcCh n with flight := (c.mcCh n).flight.erase (r, cw) }

theorem exec_dramReadReturn {s : State} {n a r e l : Nat} {es : List (Nat × Nat)} (h : s.chip.atWork = true) (hn : n < 8) (ha : a < 2 ^ 40)
    (hr : r < 16) (hout : lanesOutcome es = (e, l)) (hes : lanesWf es = true) (hflight : (s.chip.mcCh n).flight.contains (r, a / 128) = true) (hbad : cnt0 (s.chip.mcCh n).bad (a / 128) = 0) :
    exec (.dramReadReturn n a r 0 es) s = .next (s.after ((s.chip.landed n r (a / 128)).demandReturn n (a / 128) r e l)) := by
  have hwf : (Instr.dramReadReturn n a r 0 es).wf = true := by
    show (decide (n < 8) && decide (a < 2 ^ 40) && decide (r < 16) && decide (0 < 3) && lanesWf es) = true
    rw [decide_eq_true hn, decide_eq_true ha, decide_eq_true hr, hes]
    rfl
  rw [exec_of_atWork h hwf (f := doDramReadReturn n a r 0 es) rfl]
  unfold doDramReadReturn
  dsimp only
  rw [if_pos ⟨rfl, hflight⟩, hbad, hout]
  dsimp only
  rw [Nat.max_zero]
  rfl

theorem lanesOutcome_nil : lanesOutcome [] = (0, 255) := rfl

theorem lanesOutcome_one {l m : Nat} (hm : 0 < m) (hm' : m < 16) : lanesOutcome [(l, m)] = (1, l) := by
  have hreal : [(l, m)].filter (fun e : Nat × Nat => decide (e.2 % 16 ≠ 0)) = [(l, m)] := by
    refine List.filter_eq_self.2 fun e he => ?_
    rw [List.mem_singleton.1 he]
    exact decide_eq_true (by omega)
  unfold lanesOutcome
  rw [hreal]
  rfl

/-- Errors in two or in three lanes are detected (R298). -/
theorem lanesOutcome_of_length {es : List (Nat × Nat)} (hes : lanesWf es = true) (hpos : ∀ e, e ∈ es → 0 < e.2)
    (hlen : (distinct (es.map Prod.fst)).length = 2 ∨ (distinct (es.map Prod.fst)).length = 3) : lanesOutcome es = (2, 255) := by
  have hreal : es.filter (fun e => decide (e.2 % 16 ≠ 0)) = es := by
    refine List.filter_eq_self.2 fun e he => decide_eq_true ?_
    have hwf := List.all_eq_true.1 hes e he
    have hlt : e.2 < 16 := of_decide_eq_true (Bool.and_eq_true_iff.1 hwf).2
    have := hpos e he
    omega
  unfold lanesOutcome
  rw [hreal]
  dsimp only
  generalize distinct (es.map Prod.fst) = l at *
  match l, hlen with
  | [_, _], _ => rfl
  | [_, _, _], _ => rfl

/-- What a poisoned codeword makes of the engine, fatal in the Steward's working store. -/
def Chip.poisoned (c : Chip) (n cw r : Nat) : Chip :=
  if r = 13 ∧ cw < 2097152 then ((c.mcUe n cw 0 r).restreamOf r).declareFatal 9 [2, 0, 0, 0, 0, 0, 0, 0] ((c.mcUe n cw 0 r).restreamOf r).now false
  else (c.mcUe n cw 0 r).restreamOf r

/-- One of four engines, by what the decoder makes of a codeword. -/
def byOutcome (e : Nat) (good corrected poisoned wild : Chip) : Chip :=
  match e with
  | 0 => good
  | 1 => corrected
  | 2 => poisoned
  | _ => wild

theorem byOutcome_zero (a b d w : Chip) : byOutcome 0 a b d w = a := rfl
theorem byOutcome_one (a b d w : Chip) : byOutcome 1 a b d w = b := rfl
theorem byOutcome_two (a b d w : Chip) : byOutcome 2 a b d w = d := rfl

theorem Chip.demandReturn_eq (c : Chip) (n cw r e l : Nat) :
    c.demandReturn n cw r e l = byOutcome e c (c.mcCe n cw l 0 r) (c.poisoned n cw r) ((c.mcWild n cw 0 r).restreamOf r) := rfl

section
variable {s : State} {n a r : Nat}

theorem exec_dramReadReturn_good (h : s.chip.atWork = true) (hn : n < 8) (ha : a < 2 ^ 40) (hr : r < 16)
    (hflight : (s.chip.mcCh n).flight.contains (r, a / 128) = true) (hbad : cnt0 (s.chip.mcCh n).bad (a / 128) = 0) :
    exec (.dramReadReturn n a r 0 []) s = .next (s.after (s.chip.landed n r (a / 128))) := by
  rw [exec_dramReadReturn h hn ha hr lanesOutcome_nil rfl hflight hbad, Chip.demandReturn_eq, byOutcome_zero]

theorem exec_dramReadReturn_one {l m : Nat} (h : s.chip.atWork = true) (hn : n < 8) (ha : a < 2 ^ 40) (hr : r < 16) (hone : lanesWf [(l, m)] = true)
    (hm : 0 < m) (hm' : m < 16)
    (hflight : (s.chip.mcCh n).flight.contains (r, a / 128) = true) (hbad : cnt0 (s.chip.mcCh n).bad (a / 128) = 0) :
    exec (.dramReadReturn n a r 0 [(l, m)]) s = .next (s.after ((s.chip.landed n r (a / 128)).mcCe n (a / 128) l 0 r)) := by
  rw [exec_dramReadReturn h hn ha hr (lanesOutcome_one hm hm') hone hflight hbad, Chip.demandReturn_eq, byOutcome_one]

theorem exec_dramReadReturn_poisoned {es : List (Nat × Nat)} (h : s.chip.atWork = true) (hn : n < 8) (ha : a < 2 ^ 40) (hr : r < 16)
    (hes : lanesWf es = true) (hpos : ∀ e, e ∈ es → 0 < e.2)
    (hlen : (distinct (es.map Prod.fst)).length = 2 ∨ (distinct (es.map Prod.fst)).length = 3)
    (hflight : (s.chip.mcCh n).flight.contains (r, a / 128) = true) (hbad : cnt0 (s.chip.mcCh n).bad (a / 128) = 0) :
    exec (.dramReadReturn n a r 0 es) s = .next (s.after ((s.chip.landed n r (a / 128)).poisoned n (a / 128) r)) := by
  rw [exec_dramReadReturn h hn ha hr (lanesOutcome_of_length hes hpos hlen) hes hflight hbad, Chip.demandReturn_eq, byOutcome_two]

end

theorem admits_host {s : State} {r n a : Nat} (h : s.chip.atWork = true) (hstate : s.chip.mcState = 2 ∨ s.chip.mcState = 3)
    (hr : 8 ≤ r) (hr' : r ≤ 12) (hn : 1 ≤ n) (hn' : n ≤ 4096) (ha : a < 2 ^ 48) (hin : a + n ≤ s.chip.capBytes)
    (hfit : s.chip.queueFits McCh.reads (s.chip.capRuns r a n) = true) (hidle : (s.chip.capRuns r a n).all (fun x => s.chip.reqIdle x.1 r) = true) :
    exec (.readoutAdmit r n a false) s = .next (s.after
      (let c := s.chip.waitTokens n
       { c with mc := { c.mc with tokens := c.mc.tokens - n * second } }.pushReads (s.chip.capRuns r a n))) := by
  have hexec := exec_readoutAdmit_serving h hstate hr hr' hn hn' ha hin hfit hidle
  rw [Chip.paidTokens_eq] at hexec
  dsimp only
  generalize s.chip.waitTokens n = d at *
  generalize d.mc.tokens - n * second = t at *
  exact hexec

theorem admits_steward {s : State} {n a : Nat} (engine : Bool) (h : s.chip.atWork = true)
    (hstate : s.chip.mcState = 2 ∨ s.chip.mcState = 3) (hn : 1 ≤ n) (hn' : n ≤ 4096) (ha : a < 2 ^ 48)
    (hin : a + n ≤ if engine then s.chip.engBytes else s.chip.capBytes)
    (hfit : s.chip.queueFits McCh.reads (if engine then s.chip.engRuns 13 a n else s.chip.capRuns 13 a n) = true) :
    exec (.readoutAdmit 13 n a engine) s = .next (s.after
      (let c := s.chip.waitLine s.chip.mc.stwAt
       { c with mc := { c.mc with stwAt := c.epc.line + n * second / 500000000 } }.pushReads
         (if engine then s.chip.engRuns 13 a n else s.chip.capRuns 13 a n))) := by
  have hexec := exec_readoutAdmit_steward engine h hstate hn hn' ha hin hfit
  unfold Chip.stewardPaced Chip.paceTo paceOf at hexec
  dsimp only
  generalize s.chip.waitLine s.chip.mc.stwAt = d at *
  generalize d.epc.line + n * second / 500000000 = t at *
  exact hexec

/-- Settles O45: requests admitted by `Chip.admitRuns_of_serving`, the next command by `doDramCommand_traffic`, returns by `lanesOutcome`. -/
theorem dramTraffic : Obligations.DramTraffic := by
  refine ⟨fun s r n a h hstate hr hr' hn hn' ha hin hfit hidle => admits_host h hstate hr hr' hn hn' ha hin hfit hidle,
    fun s n a engine h hstate hn hn' ha hin hfit => admits_steward engine h hstate hn hn' ha hin hfit, ?_, ?_⟩
  · intro s n h hn hserves hready hfed hcalm hmanaged hundrained
    have ht : s.chip.TrafficNext n := ⟨hserves, hready, hfed, hcalm, hmanaged, hundrained⟩
    exact ⟨fun r hr => exec_dramCommand_read h hn ht hr, fun w hr hw => exec_dramCommand_write h hn ht hr hw,
      fun k hr hw hm ho => exec_dramCommand_refresh h hn ht hr hw hm ho⟩
  · intro s n a r l m es h hn ha hr hl hm hm' hflight hbad
    have hone : lanesWf [(l, m)] = true := by
      show (decide (l < 20) && decide (m < 16) && true) = true
      rw [decide_eq_true hl, decide_eq_true hm']
      rfl
    exact ⟨exec_dramReadReturn_good h hn ha hr hflight hbad, exec_dramReadReturn_one h hn ha hr hone hm hm' hflight hbad,
      fun hwf hpos hlen => exec_dramReadReturn_poisoned h hn ha hr (Bool.and_eq_true_iff.1 hwf).2 hpos hlen hflight hbad⟩

end Sys2Proof.Machine
end

section
/-! DRAM keeping (R302, R309 to R313, R321): refresh, temperature, patrol scrub and drift. -/

namespace Sys2Proof.Machine

/-! ### Refresh -/

theorem cnt0_put0_same (m : List (Nat × Nat)) (k v : Nat) : cnt0 (put0 m k v) k = v := SMap.get_set_same _ _ _ _

theorem cnt0_put0_ne (m : List (Nat × Nat)) {k j : Nat} (v : Nat) (h : j ≠ k) : cnt0 (put0 m k v) j = cnt0 m j := SMap.get_set_ne _ _ _ h

theorem Chip.reg_refDebt_ne (c : Chip) {n a : Nat} (h : a ≠ R.MC_REF_DEBT n) : (c.refDebt n).reg a = c.reg a := Chip.reg_setFld_ne c _ _ h

theorem Chip.mcCh_refDebt (c : Chip) (n k : Nat) : (c.refDebt n).mcCh k = c.mcCh k := Chip.mcCh_setFld c _ _ _ k

/-- A refresh falls due on the first rank of a ready channel, with no merge in the rank. -/
structure Chip.RefreshAsked (c : Chip) (n : Nat) : Prop where
  serves : c.mcState = 2
  ready : c.flag (R.MC_STAT n) F.MC_STAT_READY = true
  apart : c.rankMerging n 0 = false

/-- One more refresh is owed to the first rank. -/
def Chip.owed (c : Chip) (n : Nat) : Chip := (c.setMcCh n { c.mcCh n with debt := put0 (c.mcCh n).debt 0 (cnt0 (c.mcCh n).debt 0 + 1) }).refDebt n

theorem doRefreshDue_asked {c : Chip} {n : Nat} (h : c.RefreshAsked n) : doRefreshDue n 0 c =
    if (((c.nextRead n).isSome || (c.nextWrite n).isSome) && !c.flag (R.MC_STAT n) F.MC_STAT_HOT && decide (cnt0 (c.mcCh n).debt 0 < c.postpone)) = true
    then c.owed n else c.refreshRank n 0 := by
  have hactive : c.mcActive = true := by
    unfold Chip.mcActive
    rw [h.serves]
    rfl
  unfold doRefreshDue
  dsimp only
  rw [hactive, h.ready, if_pos (show (true && true && (decide (0 = 0) || c.flag (R.MC_STAT n) F.MC_STAT_RANKS2)) = true from rfl), h.apart,
    Bool.false_or]
  rfl

theorem exec_refreshDue_issued {s : State} {n : Nat} (h : s.chip.atWork = true) (hn : n < 8) (ha : s.chip.RefreshAsked n)
    (hr : s.chip.nextRead n = none) (hw : s.chip.nextWrite n = none) : exec (.refreshDue n 0) s = .next (s.after (s.chip.refreshRank n 0)) := by
  have hwf : (Instr.refreshDue n 0).wf = true := by
    show (decide (n < 8) && decide (0 < 2)) = true
    rw [decide_eq_true hn]
    rfl
  rw [exec_of_atWork h hwf (f := doRefreshDue n 0) rfl, doRefreshDue_asked ha, hr, hw]
  rfl

theorem completes_refreshDue_owed {s : State} {n : Nat} (h : s.chip.atWork = true) (hn : n < 8) (ha : s.chip.RefreshAsked n)
    (hbusy : s.chip.nextRead n ≠ none ∨ s.chip.nextWrite n ≠ none) (hcool : s.chip.flag (R.MC_STAT n) F.MC_STAT_HOT = false)
    (hroom : cnt0 (s.chip.mcCh n).debt 0 < s.chip.postpone) :
    Completes (.refreshDue n 0) s (fun c => cnt0 (c.mcCh n).debt 0 = cnt0 (s.chip.mcCh n).debt 0 + 1 ∧
      (c.mcCh n).reads = (s.chip.mcCh n).reads ∧ (∀ a, a ≠ R.MC_REF_DEBT n → c.reg a = s.chip.reg a)) := by
  have hwf : (Instr.refreshDue n 0).wf = true := by
    show (decide (n < 8) && decide (0 < 2)) = true
    rw [decide_eq_true hn]
    rfl
  have hsome : ((s.chip.nextRead n).isSome || (s.chip.nextWrite n).isSome) = true := by
    rcases hbusy with hb | hb
    · rw [Option.isSome_iff_ne_none.2 hb, Bool.true_or]
    · rw [Option.isSome_iff_ne_none.2 hb, Bool.or_true]
  have hexec := exec_of_atWork h hwf (f := doRefreshDue n 0) rfl
  rw [doRefreshDue_asked ha, hsome, hcool, decide_eq_true hroom, if_pos (by decide)] at hexec
  have hrest := (Chip.QueuesOnly.setMcCh s.chip n { s.chip.mcCh n with debt := put0 (s.chip.mcCh n).debt 0 (cnt0 (s.chip.mcCh n).debt 0 + 1) }).trans
    (.refDebt _ n)
  refine .of_exec hexec (hrest.fatal.trans (Chip.fatal_of_atWork (c := s.chip) h)) (hrest.resetReq.trans (Chip.resetReq_of_atWork (c := s.chip) h))
    ⟨?_, ?_, fun a ha => ?_⟩
  · rw [Chip.owed, Chip.mcCh_refDebt, Chip.mcCh_setMcCh]
    dsimp only
    rw [cnt0_put0_same]
  · rw [Chip.owed, Chip.mcCh_refDebt, Chip.mcCh_setMcCh]
  · exact Chip.reg_refDebt_ne _ ha

theorem completes_refreshWindowStart {s : State} {n : Nat} (h : s.chip.atWork = true) (hn : n < 8) :
    Completes (.refreshWindowStart n) s (fun c => (c.mcCh n).trackers = [] ∧ (c.mcCh n).throttle = [] ∧ (c.mcCh n).throttleAt = [] ∧
      (c.mcCh n).reads = (s.chip.mcCh n).reads ∧ (c.mcCh n).writes = (s.chip.mcCh n).writes ∧ c.regs = s.chip.regs) := by
  have hexec := exec_of_atWork (i := .refreshWindowStart n) h (decide_eq_true hn) (f := doRefreshWindowStart n) rfl
  refine .of_exec hexec (Chip.fatal_of_atWork (c := s.chip) h) (Chip.resetReq_of_atWork (c := s.chip) h) ?_
  rw [doRefreshWindowStart, Chip.mcCh_setMcCh]
  exact ⟨rfl, rfl, rfl, rfl, rfl, rfl⟩

/-! ### Temperature -/

/-- The register that shows a channel's temperature. -/
def tempReg (n : Nat) : Nat := if n < 4 then R.MCX_TEMP0 else R.MCX_TEMP1

theorem tempReg_eq (n : Nat) : tempReg n = 0x480060 ∨ tempReg n = 0x480064 := by
  unfold tempReg
  split
  · exact .inl rfl
  · exact .inr rfl

theorem Chip.setTemp_eq (c : Chip) (n : Nat) (t : Int) :
    c.setTemp n t = c.setN (tempReg n) (putBits (c.rn (tempReg n)) (8 * (n % 4)) 8 (unsignedOf 8 t)) := rfl

theorem unsignedOf_of_nonneg {t : Int} (h0 : 0 ≤ t) (h : t < 256) : unsignedOf 8 t = t.toNat := by
  show (t % 256).toNat = t.toNat
  rw [Int.emod_eq_of_lt h0 h]

theorem Chip.bits_setTemp (c : Chip) {n : Nat} {t : Int} (h0 : 0 ≤ t) (h : t < 256) :
    bits ((c.setTemp n t).rn (tempReg n)) (8 * (n % 4)) 8 = t.toNat := by
  have hlt : putBits (c.rn (tempReg n)) (8 * (n % 4)) 8 (unsignedOf 8 t) < 2 ^ 32 := putBits_lt (c.reg (tempReg n)).isLt (by omega)
  rw [Chip.setTemp_eq, Chip.rn_setN, Nat.mod_eq_of_lt hlt, bits_putBits, unsignedOf_of_nonneg h0 h]
  exact Nat.mod_eq_of_lt (by omega)

/-- A cool channel turns hot: its debts double, and the flag is set. -/
def Chip.heated (c : Chip) (n : Nat) : Chip :=
  ((c.setMcCh n { c.mcCh n with debt := (c.mcCh n).debt.map (fun d => (d.1, 2 * d.2)), coolRun := 0 }).refDebt n).setFlag (R.MC_STAT n)
    F.MC_STAT_HOT true

theorem Chip.QueuesOnly.heated (c : Chip) (n : Nat) : c.QueuesOnly (c.heated n) :=
  ((Chip.QueuesOnly.setMcCh c _ _).trans (.refDebt _ _)).trans (.setFld _ _ _ _)

theorem Chip.reg_heated_ne (c : Chip) {n a : Nat} (hd : a ≠ R.MC_REF_DEBT n) (hs : a ≠ R.MC_STAT n) : (c.heated n).reg a = c.reg a := by
  rw [Chip.heated, Chip.reg_setFlag_ne _ _ _ hs, Chip.reg_refDebt_ne _ hd]
  rfl

theorem doDramTempPoll_heated {c : Chip} {n : Nat} {t : Int} (hp : c.flag (R.MC_STAT n) F.MC_STAT_PRESENT = true)
    (hcool : c.flag (R.MC_STAT n) F.MC_STAT_HOT = false) (ht : 85 ≤ t) (ht' : t < 95) :
    doDramTempPoll n t [] c = ((c.setTemp n t).heated n).raise (Ev.mcHot n) := by
  unfold doDramTempPoll
  rw [hp, if_pos rfl]
  dsimp only
  rw [hcool, if_neg (by omega), decide_eq_true ht]
  rfl

theorem noteReg_ge {a : Nat} (h : noteReg a) : 0x580000 ≤ a := h.1

theorem completes_dramTempPoll {s : State} {n : Nat} {t : Int} (h : s.chip.atWork = true) (hn : n < 8) (ht : 85 ≤ t) (ht' : t < 95)
    (hp : s.chip.mcPresent n = true) (hcool : s.chip.flag (R.MC_STAT n) F.MC_STAT_HOT = false) :
    Completes (.dramTempPoll n t []) s (fun c => c.flag (R.MC_STAT n) F.MC_STAT_HOT = true ∧ bit (c.rn (R.EVT_STAT (40 + n))) 4 = true ∧
      bits (c.rn (if n < 4 then R.MCX_TEMP0 else R.MCX_TEMP1)) (8 * (n % 4)) 8 = t.toNat) := by
  have hwf : (Instr.dramTempPoll n t []).wf = true := by
    show (decide (n < 8) && bytesWf []) = true
    rw [decide_eq_true hn]
    rfl
  have hexec := exec_of_atWork h hwf (f := doDramTempPoll n t []) rfl
  rw [doDramTempPoll_heated hp hcool ht ht'] at hexec
  have hbits := s.chip.bits_setTemp (n := n) (t := t) (by omega) (by omega)
  have hfatal : (s.chip.setTemp n t).fatal = none := Chip.fatal_of_atWork (c := s.chip) h
  have hreset : (s.chip.setTemp n t).resetReq = false := Chip.resetReq_of_atWork (c := s.chip) h
  generalize s.chip.setTemp n t = d at *
  have hrest := Chip.QueuesOnly.heated d n
  have hhot : (d.heated n).flag (R.MC_STAT n) F.MC_STAT_HOT = true := Chip.flag_setFlag _ _ _ _ (by decide) rfl
  have htemp : (d.heated n).reg (tempReg n) = d.reg (tempReg n) := d.reg_heated_ne
    (by have := tempReg_eq n; unfold R.MC_REF_DEBT; omega) (by have := tempReg_eq n; unfold R.MC_STAT; omega)
  generalize d.heated n = e at *
  have hev := Chip.EventsOnly.raise e (Ev.mcHot n)
  have hregs := Chip.RegsIn.raise e (e := Ev.mcHot n) (show 40 + n < 64 by omega)
  refine .of_exec hexec (hev.fatal.trans (hrest.fatal.trans hfatal)) (hev.resetReq.trans (hrest.resetReq.trans hreset)) ⟨?_, ?_, ?_⟩
  · exact (hregs.flag (fun hx => by have := noteReg_ge hx; unfold R.MC_STAT at this; omega) _).trans hhot
  · exact Chip.bit_rn_raise e (n := 40 + n) (b := 4) (by omega) (by omega) (by decide)
  · rw [show (if n < 4 then R.MCX_TEMP0 else R.MCX_TEMP1) = tempReg n from rfl,
      hregs.rn (fun hx => by have := noteReg_ge hx; have := tempReg_eq n; omega), Chip.rn_congr htemp]
    exact hbits

/-! ### Rows activated -/

/-- Where a channel's row disturbance shows. -/
def hamReg (n a : Nat) : Prop := (a = R.MC_HAM_CNT n ∨ a = R.MC_HAM_LAST n ∨ a = R.MC_HAM_MASK n) ∨ noteReg a

/-- `m` is the channel's record `k` but for open rows and the trackers of row disturbance. -/
def McCh.TracksOnly (k m : McCh) : Prop := m.bytes = k.bytes ∧ m.bad = k.bad ∧ m.scrubDue = k.scrubDue

/-- A row disturbed too often shows, and its event is raised. -/
def Chip.hammered (c : Chip) (n bank row req set : Nat) : Chip :=
  let c1 := c.addCnt (R.MC_HAM_CNT n) 1
  let l := R.MC_HAM_LAST n
  let c2 := ((c1.setFld l F.MC_HAM_LAST_BANK (bank % 32)).setFld l F.MC_HAM_LAST_RANK (bank / 32)).setFld l F.MC_HAM_LAST_REQ req
  ((c2.setFld l F.MC_HAM_LAST_ROW row).setFld (R.MC_HAM_MASK n) F.MC_HAM_MASK_MASK set).raise (Ev.mcHammer n)

theorem Chip.EventsOnly.hammered (c : Chip) (n bank row req set : Nat) : c.EventsOnly (c.hammered n bank row req set) :=
  ((((((Chip.EventsOnly.addCnt c _ _).trans (.setFld _ _ _ _)).trans (.setFld _ _ _ _)).trans (.setFld _ _ _ _)).trans (.setFld _ _ _ _)).trans
    (.setFld _ _ _ _)).trans (.raise _ _)

theorem Chip.RegsIn.hammered (c : Chip) {n : Nat} (hn : n < 8) (bank row req set : Nat) : c.RegsIn (hamReg n) (c.hammered n bank row req set) :=
  ((((((Chip.RegsIn.addCnt c _ (.inl (.inl rfl))).trans (.setFld _ _ _ (.inl (.inr (.inl rfl))))).trans (.setFld _ _ _ (.inl (.inr (.inl rfl))))).trans
    (.setFld _ _ _ (.inl (.inr (.inl rfl))))).trans (.setFld _ _ _ (.inl (.inr (.inl rfl))))).trans (.setFld _ _ _ (.inl (.inr (.inr rfl))))).trans
    ((Chip.RegsIn.raise _ (show (Ev.mcHammer n).1 < 64 from (by omega : 40 + n < 64))).mono fun _ => .inr)

/-- `d` is `c` but for the channels' records, events, the Scrivener's queue and the registers of row disturbance of channel `n`. -/
structure Chip.ChannelOnly (n : Nat) (c d : Chip) : Prop where
  rest : ∃ r e q k, d = { c with regs := r, evt := e, scv := q, mc := { c.mc with chans := k } }
  regs : c.RegsIn (hamReg n) d

section
variable {n : Nat} {c d e : Chip}

theorem Chip.ChannelOnly.refl (n : Nat) (c : Chip) : c.ChannelOnly n c := ⟨⟨_, _, _, _, rfl⟩, .refl _ c⟩

theorem Chip.ChannelOnly.trans (h : c.ChannelOnly n d) (k : d.ChannelOnly n e) : c.ChannelOnly n e := by
  obtain ⟨⟨_, _, _, _, rfl⟩, hregs⟩ := h
  obtain ⟨⟨r, e, q, m, rfl⟩, kregs⟩ := k
  exact ⟨⟨r, e, q, m, rfl⟩, hregs.trans kregs⟩

theorem Chip.ChannelOnly.foldl {α : Type} {f : Chip → α → Chip} (h : ∀ c x, Chip.ChannelOnly n c (f c x)) (l : List α) (c : Chip) :
    c.ChannelOnly n (l.foldl f c) := by
  induction l generalizing c with
  | nil => exact .refl n c
  | cons x l ih => exact (h c x).trans (ih _)

theorem Chip.ChannelOnly.setMcCh (n : Nat) (c : Chip) (k : Nat) (m : McCh) : c.ChannelOnly n (c.setMcCh k m) := ⟨⟨_, _, _, _, rfl⟩, .of_regs rfl⟩

theorem Chip.ChannelOnly.hammered (c : Chip) (hn : n < 8) (bank row req set : Nat) : c.ChannelOnly n (c.hammered n bank row req set) := by
  obtain ⟨r, e, q, heq⟩ := Chip.EventsOnly.hammered c n bank row req set
  exact ⟨⟨r, e, q, c.mc.chans, heq⟩, .hammered c hn bank row req set⟩

theorem Chip.ChannelOnly.fatal (h : c.ChannelOnly n d) : d.fatal = c.fatal := by obtain ⟨_, _, _, _, hd⟩ := h.rest; rw [hd]
theorem Chip.ChannelOnly.resetReq (h : c.ChannelOnly n d) : d.resetReq = c.resetReq := by obtain ⟨_, _, _, _, hd⟩ := h.rest; rw [hd]
theorem Chip.ChannelOnly.epc (h : c.ChannelOnly n d) : d.epc = c.epc := by obtain ⟨_, _, _, _, hd⟩ := h.rest; rw [hd]

end

theorem Chip.mcCh_hammered (c : Chip) (n k bank row req set : Nat) : (c.hammered n bank row req set).mcCh k = c.mcCh k := by
  rw [Chip.mcCh, (Chip.EventsOnly.hammered c n bank row req set).mc, Chip.mcCh]

/-- An activation opens a row and is tracked; nothing else of the channel changes. -/
theorem Chip.activate_spec (c : Chip) {n : Nat} (hn : n < 8) (bank row req : Nat) : c.ChannelOnly n (c.activate n bank row req) ∧
    (c.mcCh n).TracksOnly ((c.activate n bank row req).mcCh n) := by
  unfold Chip.activate
  dsimp only
  split
  · refine ⟨.setMcCh n c n _, ?_⟩
    rw [Chip.mcCh_setMcCh]
    exact ⟨rfl, rfl, rfl⟩
  · split
    · refine ⟨.setMcCh n c n _, ?_⟩
      rw [Chip.mcCh_setMcCh]
      exact ⟨rfl, rfl, rfl⟩
    · refine ⟨(Chip.ChannelOnly.setMcCh n c n _).trans (.hammered _ hn _ _ _ _), ?_⟩
      refine (congrArg (McCh.TracksOnly (c.mcCh n)) ((Chip.mcCh_hammered _ n n bank row req _).trans (Chip.mcCh_setMcCh c n _))).mpr ?_
      exact ⟨rfl, rfl, rfl⟩

/-! ### Patrol scrub -/

/-- The scrub's read of the codeword at position `p`. -/
def scrubRun (p : Nat) : DramReq := { req := 14, addr := 128 * p, count := 1 }

theorem Chip.openFor_scrub_spec (c : Chip) {n : Nat} (hn : n < 8) (p : Nat) : c.ChannelOnly n (c.openFor n (scrubRun p)) ∧
    (c.mcCh n).TracksOnly ((c.openFor n (scrubRun p)).mcCh n) := by
  unfold Chip.openFor
  dsimp only
  rw [show (scrubRun p).beginsUnit = false from rfl, show (scrubRun p).data = false from rfl, if_neg Bool.false_ne_true]
  split
  · exact ⟨.refl n c, rfl, rfl, rfl⟩
  · exact c.activate_spec hn _ _ _

/-- The next scrub read of any channel comes at `t` at the earliest. -/
def Chip.scrubNext (c : Chip) (t : Nat) : Chip := { c with mc := { c.mc with scrubAt := t } }

theorem Chip.scrubNext_regs (c : Chip) (t : Nat) : (c.scrubNext t).regs = c.regs := rfl
theorem Chip.scrubNext_fatal (c : Chip) (t : Nat) : (c.scrubNext t).fatal = c.fatal := rfl
theorem Chip.scrubNext_resetReq (c : Chip) (t : Nat) : (c.scrubNext t).resetReq = c.resetReq := rfl
theorem Chip.scrubNext_at (c : Chip) (t : Nat) : (c.scrubNext t).mc.scrubAt = t := rfl
theorem Chip.mcCh_scrubNext (c : Chip) (t n : Nat) : (c.scrubNext t).mcCh n = c.mcCh n := rfl

/-- The channel's record after a scrub read whose row `c` has opened. -/
def Chip.scrubbedCh (c : Chip) (n : Nat) (t : Nat) : McCh := { c.mcCh n with lastReq := 14, scrubDue := t }

theorem Chip.scrubbedCh_openRow (c : Chip) (n t : Nat) : (c.scrubbedCh n t).openRow = (c.mcCh n).openRow := rfl
theorem Chip.scrubbedCh_lastReq (c : Chip) (n t : Nat) : (c.scrubbedCh n t).lastReq = 14 := rfl

/-- A sound codeword scrubbed: its row is open, the next times stand, and the position moves to `p`. -/
def Chip.scrubbed (c : Chip) (n t u p : Nat) : Chip :=
  ((c.setMcCh n (c.scrubbedCh n t)).scrubNext u).setFld (R.MC_SCRUB_POS n) F.MC_SCRUB_POS_POS p

/-- What is found of the codeword at position `p` of channel `n`, and the position after it. -/
def Chip.scrubFound (c : Chip) (n p e l : Nat) (m : McCh) : Chip :=
  (byOutcome e c (c.mcCe n p l 1 14) (c.mcUe n p 1 14) (c.mcWild n p 1 14)).setFld (R.MC_SCRUB_POS n) F.MC_SCRUB_POS_POS
    (if p + 1 < m.bytes / 128 then p + 1 else 0)

theorem doPatrolScrubRead_turn {c c0 : Chip} {n p : Nat} (hon : c.scrubOn n = true) (h0 : c.waitLine (max c.mc.scrubAt (c.mcCh n).scrubDue) = c0)
    (hp : c0.fld (R.MC_SCRUB_POS n) F.MC_SCRUB_POS_POS = p) (hturn : c0.scrubTurn n (scrubRun p) = true) (es : List (Nat × Nat)) :
    ∃ t, doPatrolScrubRead n es c =
      ((((c0.openFor n (scrubRun p)).setMcCh n ((c0.openFor n (scrubRun p)).scrubbedCh n t)).scrubNext
        ((c0.openFor n (scrubRun p)).epc.line + paceOf 128 100000000)).scrubFound n p
          (max (lanesOutcome es).1 (cnt0 ((c0.openFor n (scrubRun p)).mcCh n).bad p)) (lanesOutcome es).2 ((c0.openFor n (scrubRun p)).mcCh n)) := by
  unfold doPatrolScrubRead
  rw [hon, if_pos rfl, h0]
  dsimp only
  rw [hp]
  rw [show ({ req := 14, addr := 128 * p, count := 1 } : DramReq) = scrubRun p from rfl]
  refine ⟨max (c0.openFor n (scrubRun p)).epc.line (((c0.openFor n (scrubRun p)).mcCh n).scrubDue + c.scrubPace n), (if_pos hturn).trans ?_⟩
  generalize c0.openFor n (scrubRun p) = o
  generalize paceOf 128 100000000 = u
  rfl

theorem completes_patrolScrubRead {s : State} {n : Nat} (h : s.chip.atWork = true) (hn : n < 8) (hactive : s.chip.flag R.MCX_SCRUB F.MCX_SCRUB_ACTIVE = true)
    (hstate : s.chip.mcState = 2 ∨ s.chip.mcState = 3) (hready : s.chip.flag (R.MC_STAT n) F.MC_STAT_READY = true) (hbytes : 0 < (s.chip.mcCh n).bytes)
    (hturn : (s.chip.waitLine (max s.chip.mc.scrubAt (s.chip.mcCh n).scrubDue)).scrubTurn n
      (scrubRun (s.chip.fld (R.MC_SCRUB_POS n) F.MC_SCRUB_POS_POS)) = true)
    (hsound : cnt0 (s.chip.mcCh n).bad (s.chip.fld (R.MC_SCRUB_POS n) F.MC_SCRUB_POS_POS) = 0) (hsize : (s.chip.mcCh n).bytes ≤ 2 ^ 37) :
    Completes (.patrolScrubRead n []) s (fun d =>
      (d.mcCh n).openRow = (((s.chip.waitLine (max s.chip.mc.scrubAt (s.chip.mcCh n).scrubDue)).openFor n
        (scrubRun (s.chip.fld (R.MC_SCRUB_POS n) F.MC_SCRUB_POS_POS))).mcCh n).openRow ∧ (d.mcCh n).lastReq = 14 ∧
      d.mc.scrubAt = (s.chip.waitLine (max s.chip.mc.scrubAt (s.chip.mcCh n).scrubDue)).epc.line + paceOf 128 100000000 ∧
      s.chip.mc.scrubAt ≤ (s.chip.waitLine (max s.chip.mc.scrubAt (s.chip.mcCh n).scrubDue)).epc.line ∧
      (s.chip.mcCh n).scrubDue ≤ (s.chip.waitLine (max s.chip.mc.scrubAt (s.chip.mcCh n).scrubDue)).epc.line ∧
      d.fld (R.MC_SCRUB_POS n) F.MC_SCRUB_POS_POS = (if s.chip.fld (R.MC_SCRUB_POS n) F.MC_SCRUB_POS_POS + 1 < (s.chip.mcCh n).bytes / 128
        then s.chip.fld (R.MC_SCRUB_POS n) F.MC_SCRUB_POS_POS + 1 else 0) ∧
      d.reg (R.MC_CE_CNT n) = s.chip.reg (R.MC_CE_CNT n) ∧ d.reg (R.MC_UE_CNT n) = s.chip.reg (R.MC_UE_CNT n)) := by
  have hwf : (Instr.patrolScrubRead n []).wf = true := by
    show (decide (n < 8) && lanesWf []) = true
    rw [decide_eq_true hn]
    rfl
  have hon : s.chip.scrubOn n = true := by
    unfold Chip.scrubOn
    rw [hactive, hready, decide_eq_true hbytes, decide_eq_true (by rw [Chip.ladder_of_atWork h]; omega : s.chip.ladder ≤ 1),
      decide_eq_true (by omega : 2 ≤ s.chip.mcState), decide_eq_true (by omega : s.chip.mcState ≤ 3)]
    rfl
  have hline := s.chip.le_line_waitLine (max s.chip.mc.scrubAt (s.chip.mcCh n).scrubDue)
  have hmc := s.chip.waitLine_mc (max s.chip.mc.scrubAt (s.chip.mcCh n).scrubDue)
  have hregs := s.chip.waitLine_regs (max s.chip.mc.scrubAt (s.chip.mcCh n).scrubDue)
  have hfatal := (s.chip.waitLine_fatal (max s.chip.mc.scrubAt (s.chip.mcCh n).scrubDue)).trans (Chip.fatal_of_atWork (c := s.chip) h)
  have hreset := (s.chip.waitLine_resetReq (max s.chip.mc.scrubAt (s.chip.mcCh n).scrubDue)).trans (Chip.resetReq_of_atWork (c := s.chip) h)
  generalize hw : s.chip.waitLine (max s.chip.mc.scrubAt (s.chip.mcCh n).scrubDue) = c0 at *
  generalize hp : s.chip.fld (R.MC_SCRUB_POS n) F.MC_SCRUB_POS_POS = p at *
  have hp0 : c0.fld (R.MC_SCRUB_POS n) F.MC_SCRUB_POS_POS = p := (Chip.fld_congr (Chip.reg_congr hregs _) _).trans hp
  have hch : c0.mcCh n = s.chip.mcCh n := by rw [Chip.mcCh, hmc, Chip.mcCh]
  obtain ⟨t, hdo⟩ := doPatrolScrubRead_turn hon hw hp0 hturn []
  have hexec := exec_of_atWork h hwf (f := doPatrolScrubRead n []) rfl
  rw [hdo] at hexec
  obtain ⟨hopen, hbytes', hbad, -⟩ := c0.openFor_scrub_spec hn p
  generalize c0.openFor n (scrubRun p) = o at *
  rw [hch] at hbytes' hbad
  rw [lanesOutcome_nil, hbad, hsound] at hexec
  dsimp only at hexec
  rw [Nat.max_self, Chip.scrubFound, byOutcome_zero, hbytes', hopen.epc] at hexec
  have hmod : (if p + 1 < (s.chip.mcCh n).bytes / 128 then p + 1 else 0) < 2 ^ 30 := by
    split
    · omega
    · omega
  generalize (if p + 1 < (s.chip.mcCh n).bytes / 128 then p + 1 else 0) = p' at *
  generalize c0.epc.line + paceOf 128 100000000 = u at *
  have hreg : ∀ a, a ≠ R.MC_SCRUB_POS n → ¬hamReg n a →
      (((o.setMcCh n (o.scrubbedCh n t)).scrubNext u).setFld (R.MC_SCRUB_POS n) F.MC_SCRUB_POS_POS p').reg a = s.chip.reg a := by
    intro a ha hx
    rw [Chip.reg_setFld_ne _ _ _ ha, Chip.reg_congr (Chip.scrubNext_regs _ _), Chip.reg_congr (Chip.setMcCh_regs _ _ _), hopen.regs a hx,
      Chip.reg_congr hregs]
  have hmcCh : (((o.setMcCh n (o.scrubbedCh n t)).scrubNext u).setFld (R.MC_SCRUB_POS n) F.MC_SCRUB_POS_POS p').mcCh n = o.scrubbedCh n t := by
    rw [Chip.mcCh_setFld, Chip.mcCh_scrubNext, Chip.mcCh_setMcCh]
  refine .of_exec hexec ?_ ?_ ⟨?_, ?_, ?_, le_trans (le_max_left _ _) hline, le_trans (le_max_right _ _) hline, ?_, hreg _ ?_ ?_, hreg _ ?_ ?_⟩
  · rw [Chip.setFld_fatal, Chip.scrubNext_fatal, Chip.setMcCh_fatal, hopen.fatal, hfatal]
  · rw [Chip.setFld_resetReq, Chip.scrubNext_resetReq, Chip.setMcCh_resetReq, hopen.resetReq, hreset]
  · rw [hmcCh, Chip.scrubbedCh_openRow]
  · rw [hmcCh, Chip.scrubbedCh_lastReq]
  · rw [Chip.setFld_mc, Chip.scrubNext_at]
  · rw [Chip.fld_setFld _ _ _ _ (by decide)]
    exact Nat.mod_eq_of_lt hmod
  · unfold R.MC_CE_CNT R.MC_SCRUB_POS; omega
  · unfold hamReg noteReg R.MC_CE_CNT R.MC_HAM_CNT R.MC_HAM_LAST R.MC_HAM_MASK; omega
  · unfold R.MC_UE_CNT R.MC_SCRUB_POS; omega
  · unfold hamReg noteReg R.MC_UE_CNT R.MC_HAM_CNT R.MC_HAM_LAST R.MC_HAM_MASK; omega

/-! ### Drift -/

/-- The delays numbered in `l` moved by one step. -/
def stepDelays (d : Int) (l : List Nat) (m : List (Nat × Nat)) : List (Nat × Nat) := l.foldl (fun m n => put0 m n (delayStep (cnt0 m n) d)) m

theorem cnt0_stepDelays_notMem {d : Int} {n : Nat} : ∀ {l : List Nat} (m : List (Nat × Nat)), n ∉ l → cnt0 (stepDelays d l m) n = cnt0 m n
  | [], _, _ => rfl
  | k :: l, m, h => by
    have hk := List.ne_of_not_mem_cons h
    exact (cnt0_stepDelays_notMem (l := l) (put0 m k (delayStep (cnt0 m k) d)) (List.not_mem_of_not_mem_cons h)).trans (cnt0_put0_ne _ _ hk)

theorem cnt0_stepDelays_mem {d : Int} {n : Nat} : ∀ {l : List Nat} (m : List (Nat × Nat)), l.Nodup → n ∈ l →
    cnt0 (stepDelays d l m) n = delayStep (cnt0 m n) d
  | k :: l, m, hl, h => by
    obtain ⟨hk, hl⟩ := List.nodup_cons.1 hl
    have hcons : stepDelays d (k :: l) m = stepDelays d l (put0 m k (delayStep (cnt0 m k) d)) := rfl
    rw [hcons]
    rcases List.mem_cons.1 h with rfl | hmem
    · rw [cnt0_stepDelays_notMem _ hk, cnt0_put0_same]
    · have hne : n ≠ k := fun hnk => hk (hnk ▸ hmem)
      rw [cnt0_stepDelays_mem _ hl hmem, cnt0_put0_ne _ _ hne]

theorem nodup_writeDelays : writeDelays.Nodup := by
  refine List.Nodup.map_on (l := List.range 160) (f := fun i => 1280 + 128 * (i / 80) + i % 80) (fun i hi j hj hij => ?_) List.nodup_range
  have hi := List.mem_range.1 hi
  have hj := List.mem_range.1 hj
  omega

/-- The channel's record with delays `l` in use and its next correction at `t`. -/
def McCh.drifted (m : McCh) (l : List (Nat × Nat)) (t : Nat) : McCh := { m with inUse := l, driftDue := t }

theorem McCh.drifted_inUse (m : McCh) (l : List (Nat × Nat)) (t : Nat) : (m.drifted l t).inUse = l := rfl
theorem McCh.drifted_driftDue (m : McCh) (l : List (Nat × Nat)) (t : Nat) : (m.drifted l t).driftDue = t := rfl

theorem doDqsDriftCorrect_ready {c : Chip} {n : Nat} {d : Int} (hready : c.flag (R.MC_STAT n) F.MC_STAT_READY = true) (hladder : c.ladder ≤ 1)
    (hstate : c.mcState = 2 ∨ c.mcState = 3) : doDqsDriftCorrect n d c = (c.waitLine (c.mcCh n).driftDue).setMcCh n
      (((c.waitLine (c.mcCh n).driftDue).mcCh n).drifted (stepDelays d writeDelays ((c.waitLine (c.mcCh n).driftDue).mcCh n).inUse)
        ((c.waitLine (c.mcCh n).driftDue).epc.line + 100000 * micro)) := by
  unfold doDqsDriftCorrect
  rw [hready, decide_eq_true hladder, decide_eq_true (by omega : 2 ≤ c.mcState), decide_eq_true (by omega : c.mcState ≤ 3), if_pos (by decide)]
  generalize c.waitLine (c.mcCh n).driftDue = e
  generalize 100000 * micro = u
  unfold stepDelays
  generalize writeDelays = l
  rfl

theorem completes_dqsDriftCorrect {s : State} {n : Nat} (k : Nat) {d : Int} (h : s.chip.atWork = true) (hn : n < 8) (hd : -1 ≤ d) (hd' : d ≤ 1)
    (hready : s.chip.flag (R.MC_STAT n) F.MC_STAT_READY = true) (hstate : s.chip.mcState = 2 ∨ s.chip.mcState = 3) :
    Completes (.dqsDriftCorrect n d) s (fun c => c.regs = s.chip.regs ∧ (s.chip.mcCh n).driftDue ≤ c.epc.line ∧
      (c.mcCh n).driftDue = c.epc.line + 100000 * micro ∧
      (k ∈ writeDelays → cnt0 (c.mcCh n).inUse k = delayStep (cnt0 (s.chip.mcCh n).inUse k) d) ∧
      (k ∉ writeDelays → cnt0 (c.mcCh n).inUse k = cnt0 (s.chip.mcCh n).inUse k)) := by
  have hwf : (Instr.dqsDriftCorrect n d).wf = true := by
    show (decide (n < 8) && decide (-1 ≤ d) && decide (d ≤ 1)) = true
    rw [decide_eq_true hn, decide_eq_true hd, decide_eq_true hd']
    rfl
  have hexec := exec_of_atWork h hwf (f := doDqsDriftCorrect n d) rfl
  rw [doDqsDriftCorrect_ready hready (by rw [Chip.ladder_of_atWork h]; omega) hstate] at hexec
  have hline := s.chip.le_line_waitLine (s.chip.mcCh n).driftDue
  have hch : (s.chip.waitLine (s.chip.mcCh n).driftDue).mcCh n = s.chip.mcCh n := by rw [Chip.mcCh, Chip.waitLine_mc, Chip.mcCh]
  have hregs := s.chip.waitLine_regs (s.chip.mcCh n).driftDue
  have hfatal := (s.chip.waitLine_fatal (s.chip.mcCh n).driftDue).trans (Chip.fatal_of_atWork (c := s.chip) h)
  have hreset := (s.chip.waitLine_resetReq (s.chip.mcCh n).driftDue).trans (Chip.resetReq_of_atWork (c := s.chip) h)
  generalize s.chip.waitLine (s.chip.mcCh n).driftDue = e at *
  generalize 100000 * micro = u at *
  rw [hch] at hexec
  refine .of_exec hexec ?_ ?_ ⟨?_, ?_, ?_, fun hk => ?_, fun hk => ?_⟩
  · rw [Chip.setMcCh_fatal, hfatal]
  · rw [Chip.setMcCh_resetReq, hreset]
  · rw [Chip.setMcCh_regs, hregs]
  · rw [Chip.setMcCh_epc]
    exact hline
  · rw [Chip.mcCh_setMcCh, McCh.drifted_driftDue, Chip.setMcCh_epc]
  · rw [Chip.mcCh_setMcCh, McCh.drifted_inUse, cnt0_stepDelays_mem _ nodup_writeDelays hk]
  · rw [Chip.mcCh_setMcCh, McCh.drifted_inUse, cnt0_stepDelays_notMem _ hk]

/-- Settles O46: refresh and temperature by their commands' branches, scrub by `doPatrolScrubRead_turn`, drift by `cnt0_stepDelays_mem`. -/
theorem dramKeeping : Obligations.DramKeeping :=
  ⟨fun _ _ h hn hserves hready hapart =>
      ⟨fun hr hw => exec_refreshDue_issued h hn ⟨hserves, hready, hapart⟩ hr hw,
        fun hbusy hcool hroom => completes_refreshDue_owed h hn ⟨hserves, hready, hapart⟩ hbusy hcool hroom⟩,
    fun _ _ h hn => completes_refreshWindowStart h hn,
    fun _ _ _ h hn ht ht' hp hcool => completes_dramTempPoll h hn ht ht' hp hcool,
    fun _ _ h hn hactive hstate hready hbytes hturn hsound hsize =>
      completes_patrolScrubRead h hn hactive hstate hready hbytes hturn hsound hsize,
    fun _ _ k _ h hn hd hd' hready hstate => completes_dqsDriftCorrect k h hn hd hd' hready hstate⟩

end Sys2Proof.Machine
end

section
/-! The training helpers (R318, R322): TRAIN, SWEEP and the end of a sweep. -/

namespace Sys2Proof.Machine

/-! ### TRAIN -/

theorem foldl_of_fixed {α β : Type} {f : β → α → β} {b : β} : ∀ {l : List α}, (∀ x ∈ l, f b x = b) → l.foldl f b = b
  | [], _ => rfl
  | x :: l, h => by
    rw [List.foldl_cons, h x List.mem_cons_self]
    exact foldl_of_fixed fun y hy => h y (List.mem_cons_of_mem _ hy)

theorem chanMask_eq_zero {f : Nat → Bool} (h : ∀ n, n < 8 → f n = false) : chanMask f = 0 :=
  foldl_of_fixed fun n hn => if_neg (by rw [h n (List.mem_range.1 hn)]; exact Bool.false_ne_true)

/-- A channel enters training. -/
def Chip.trainCh (c : Chip) (n : Nat) : Chip := (c.setFlag (R.MC_STAT n) F.MC_STAT_TRAINING true).setFlag (R.MC_STAT n) F.MC_STAT_READY false

/-- The channel is in training and not ready. -/
def Chip.inTraining (c : Chip) (n : Nat) : Prop := c.flag (R.MC_STAT n) F.MC_STAT_TRAINING = true ∧ c.flag (R.MC_STAT n) F.MC_STAT_READY = false

theorem Chip.inTraining_trainCh (c : Chip) (n : Nat) : (c.trainCh n).inTraining n := by
  refine ⟨?_, Chip.flag_setFlag _ _ _ _ (by decide) rfl⟩
  rw [Chip.trainCh, Chip.flag_setFlag_of_apart _ _ _ _ _ _ (by decide) (by decide)]
  exact Chip.flag_setFlag _ _ _ _ (by decide) rfl

theorem Chip.reg_trainCh_ne (c : Chip) {n a : Nat} (h : a ≠ R.MC_STAT n) : (c.trainCh n).reg a = c.reg a := by
  rw [Chip.trainCh, Chip.reg_setFlag_ne _ _ _ h, Chip.reg_setFlag_ne _ _ _ h]

theorem Chip.EventsOnly.trainCh (c : Chip) (n : Nat) : c.EventsOnly (c.trainCh n) := (Chip.EventsOnly.setFld c _ _ _).trans (.setFld _ _ _ _)

theorem R.MC_STAT_injective {n m : Nat} (h : n ≠ m) : R.MC_STAT n ≠ R.MC_STAT m := by unfold R.MC_STAT; omega

theorem Chip.inTraining_foldl {n : Nat} : ∀ {l : List Nat} {c : Chip}, (c.inTraining n ∨ n ∈ l) → (l.foldl Chip.trainCh c).inTraining n
  | [], _, h => h.resolve_right List.not_mem_nil
  | k :: l, c, h => by
    refine Chip.inTraining_foldl (l := l) ?_
    by_cases hk : n = k
    · rw [hk]
      exact .inl (c.inTraining_trainCh k)
    · refine (h.imp (fun hc => ?_) fun hm => (List.mem_cons.1 hm).resolve_left hk)
      have hreg := c.reg_trainCh_ne (R.MC_STAT_injective hk)
      exact ⟨(Chip.flag_congr hreg _).trans hc.1, (Chip.flag_congr hreg _).trans hc.2⟩

theorem Chip.reg_foldl_trainCh {a : Nat} {l : List Nat} (h : ∀ n ∈ l, a ≠ R.MC_STAT n) (c : Chip) : (l.foldl Chip.trainCh c).reg a = c.reg a :=
  Chip.foldl_keeps (fun c => c.reg a) (fun c n hn => c.reg_trainCh_ne (h n hn)) c

/-- The channels of a mask enter training, and the controller with them. -/
def Chip.trainAll (m : Nat) (c : Chip) : Chip :=
  if m = 0 then (maskList 8 m).foldl Chip.trainCh c else ((maskList 8 m).foldl Chip.trainCh c).setMcState 1

theorem mem_maskList {k m n : Nat} : n ∈ maskList k m ↔ n < k ∧ bit m n = true := by
  rw [maskList, List.mem_filter, List.mem_range]

theorem Chip.mcTrain_reason {c d : Chip} {m : Nat} (hd : c.RegsOnly d [R.MCX_CMD]) (hstate : c.mcState = 2)
    (hpresent : ∀ n, n < 8 → bit m n = true → c.mcPresent n = true) (hidle : ∀ p, p < 16 → c.armed p = false) (hstill : c.consumerRuns = false) :
    firstReason [(decide (d.mcState ≠ 0) && decide (d.mcState ≠ 2), 0x91), (decide (chanMask (fun n => bit m n && !d.mcPresent n) ≠ 0), 0x95),
      ((List.range 16).any d.armed || d.consumerRuns, 0x96)] = 0 := by
  have hmc : d.mcState = 2 := (hd.fld (by decide) _).trans hstate
  have habsent : chanMask (fun n => bit m n && !d.mcPresent n) = 0 := chanMask_eq_zero fun n hn => by
    have hkeep : d.mcPresent n = c.mcPresent n := hd.flag (by rw [List.mem_singleton]; unfold R.MC_STAT R.MCX_CMD; omega) _
    cases hb : bit m n
    · rfl
    · rw [hkeep, hpresent n hn hb]
      rfl
  have harmed : (List.range 16).any d.armed = false := List.any_eq_false.2 fun p hp => by
    have hp := List.mem_range.1 hp
    have hkeep : d.armed p = c.armed p := by
      unfold Chip.armed Chip.prtState
      rw [hd.fld (by rw [List.mem_singleton]; unfold R.PRT_STAT R.MCX_CMD; omega)]
    rw [hkeep, hidle p hp]
    exact Bool.false_ne_true
  have hruns : d.consumerRuns = c.consumerRuns := by
    unfold Chip.consumerRuns
    rw [hd.flag (by decide)]
    exact congrArg (c.flag R.HIF_DMA_STAT F.HIF_DMA_STAT_RUNNING || ·) (congrArg (List.any (List.range 4)) (funext fun n =>
      hd.flag (by rw [List.mem_singleton]; unfold R.ETH_STR_STAT R.MCX_CMD; omega) _))
  rw [hmc, habsent, harmed, hruns, hstill]
  rfl

theorem completes_mcTrain {s : State} (h : s.chip.atWork = true) (i : Init) {m : Nat} (hm : 0 < m) (hm' : m < 256) (hstate : s.chip.mcState = 2)
    (hpresent : ∀ n, n < 8 → bit m n = true → s.chip.mcPresent n = true) (hidle : ∀ p, p < 16 → s.chip.armed p = false)
    (hstill : s.chip.consumerRuns = false) :
    Completes (.mcTrain i m) s (fun c => c.mcState = 1 ∧ c.fld R.MCX_CMDSTAT reasonFld = 0 ∧
      (∀ n, n < 8 → bit m n = true → c.flag (R.MC_STAT n) F.MC_STAT_TRAINING = true ∧ c.flag (R.MC_STAT n) F.MC_STAT_READY = false) ∧
      (∀ n, n < 8 → bit m n = false → c.reg (R.MC_STAT n) = s.chip.reg (R.MC_STAT n))) := by
  have hd0 : s.chip.RegsOnly (s.chip.writing.setFld R.MCX_CMD F.MCX_CMD_CH m) [R.MCX_CMD] :=
    (Chip.RegsOnly.writing s.chip _).trans (.setFld _ _ _ List.mem_cons_self)
  refine .of_mcx (i := .mcTrain i m) (g := Chip.trainAll m) h (decide_eq_true hm') rfl rfl hd0 (by decide) rfl
    (Chip.mcTrain_reason hd0 hstate hpresent hidle hstill) fun d hd hzero _ => ?_
  have hlist : ∀ n ∈ maskList 8 m, n < 8 := fun n hn => (mem_maskList.1 hn).1
  have hfatal := Chip.foldl_keeps Chip.fatal (l := maskList 8 m) (fun c n _ => (Chip.EventsOnly.trainCh c n).fatal) d
  have hreset := Chip.foldl_keeps Chip.resetReq (l := maskList 8 m) (fun c n _ => (Chip.EventsOnly.trainCh c n).resetReq) d
  have hcmd := Chip.reg_foldl_trainCh (a := R.MCX_CMDSTAT) (fun n hn => by have := hlist n hn; unfold R.MC_STAT R.MCX_CMDSTAT; omega) d
  have htrain : ∀ n, n < 8 → bit m n = true → ((maskList 8 m).foldl Chip.trainCh d).inTraining n := fun n hn hb =>
    Chip.inTraining_foldl (.inr (mem_maskList.2 ⟨hn, hb⟩))
  have hrest : ∀ n, n < 8 → bit m n = false → ((maskList 8 m).foldl Chip.trainCh d).reg (R.MC_STAT n) = s.chip.reg (R.MC_STAT n) := fun n hn hb =>
    (Chip.reg_foldl_trainCh (fun k hk => R.MC_STAT_injective fun hnk => by
      rw [← hnk] at hk
      exact absurd ((mem_maskList.1 hk).2.symm.trans hb) (by decide)) d).trans
      (hd.2 _ (by simp only [List.mem_cons, List.not_mem_nil, or_false]; unfold R.MC_STAT R.MCX_CMDSTAT R.MCX_CMD; omega))
  have heq : Chip.trainAll m d = ((maskList 8 m).foldl Chip.trainCh d).setMcState 1 := if_neg (by omega)
  rw [heq]
  generalize (maskList 8 m).foldl Chip.trainCh d = e at *
  have hstat : ∀ n, n < 8 → (e.setMcState 1).reg (R.MC_STAT n) = e.reg (R.MC_STAT n) := fun n hn =>
    e.reg_setMcState 1 (by unfold R.MC_STAT R.MCX_STAT; omega)
  refine ⟨(e.setMcState_fatal 1).trans hfatal, (e.setMcState_resetReq 1).trans hreset, ?_, ?_, fun n hn hb => ⟨?_, ?_⟩, fun n hn hb => ?_⟩
  · rw [Chip.mcState, Chip.fld_noReason]
    exact e.mcState_setMcState (by decide)
  · rw [Chip.fld_noReason, Chip.fld_congr (e.reg_setMcState 1 (by decide)), Chip.fld_congr hcmd, hzero]
  · rw [Chip.flag_noReason, Chip.flag_congr (hstat n hn), (htrain n hn hb).1]
  · rw [Chip.flag_noReason, Chip.flag_congr (hstat n hn), (htrain n hn hb).2]
  · rw [Chip.reg_noReason, hstat n hn, hrest n hn hb]

/-! ### SWEEP -/

/-- A sweep begins. -/
def Chip.sweepBegun (c : Chip) (n : Nat) : Chip :=
  (c.setFlag (R.MC_TRN_STAT n) F.MC_TRN_STAT_BUSY true).setFlag (R.MC_TRN_STAT n) F.MC_TRN_STAT_DONE false

theorem completes_mcSweep {s : State} (h : s.chip.atWork = true) (i : Init) {n : Nat} (hn : n < 8)
    (htrain : s.chip.flag (R.MC_STAT n) F.MC_STAT_TRAINING = true) (hidle : s.chip.flag (R.MC_TRN_STAT n) F.MC_TRN_STAT_BUSY = false)
    (hpresent : s.chip.mcPresent n = true) :
    Completes (.mcSweep i n) s (fun c => c.flag (R.MC_TRN_STAT n) F.MC_TRN_STAT_BUSY = true ∧
      c.flag (R.MC_TRN_STAT n) F.MC_TRN_STAT_DONE = false ∧ c.fld R.MCX_CMDSTAT reasonFld = 0) := by
  have hreason : firstReason [(!s.chip.mcPresent n, 0x95), (!s.chip.flag (R.MC_STAT n) F.MC_STAT_TRAINING, 0x93),
      (s.chip.flag (R.MC_TRN_STAT n) F.MC_TRN_STAT_BUSY, 0x94)] = 0 := by
    rw [hpresent, htrain, hidle]
    rfl
  refine .of_mcx (i := .mcSweep i n) (l := []) h (decide_eq_true hn) rfl rfl (.writing _ _) (by decide) rfl hreason fun d _ hzero _ => ?_
  have hbegun : (d.setFlag (R.MC_TRN_STAT n) F.MC_TRN_STAT_BUSY true).setFlag (R.MC_TRN_STAT n) F.MC_TRN_STAT_DONE false = d.sweepBegun n := rfl
  rw [hbegun]
  have hev : d.EventsOnly (d.sweepBegun n) := (Chip.EventsOnly.setFld d _ _ _).trans (.setFld _ _ _ _)
  refine ⟨hev.fatal, hev.resetReq, ?_, ?_, ?_⟩
  · rw [Chip.flag_noReason, Chip.sweepBegun, Chip.flag_setFlag_of_apart _ _ _ _ _ _ (by decide) (by decide)]
    exact Chip.flag_setFlag _ _ _ _ (by decide) rfl
  · rw [Chip.flag_noReason]
    exact Chip.flag_setFlag _ _ _ _ (by decide) rfl
  · have hne : R.MCX_CMDSTAT ≠ R.MC_TRN_STAT n := by unfold R.MCX_CMDSTAT R.MC_TRN_STAT; omega
    rw [Chip.fld_noReason, Chip.sweepBegun, Chip.fld_setFlag_ne _ _ _ _ hne, Chip.fld_setFlag_ne _ _ _ _ hne, hzero]

/-! ### The end of a sweep -/

theorem Chip.ChannelOnly.trnAccess (c : Chip) {n : Nat} (hn : n < 8) : c.ChannelOnly n (c.trnAccess n) := by
  unfold Chip.trnAccess
  refine .foldl (fun c k => ?_) _ c
  dsimp only
  have hopen : c.ChannelOnly n (if (c.mcCh n).openRow.any (fun o => decide (o = c.trnBank n k)) then c
      else c.activate n (c.trnBank n k).1 (c.trnBank n k).2 15) := by
    split
    · exact .refl n c
    · exact (c.activate_spec hn _ _ _).1
  split
  · exact hopen
  · exact hopen.trans (.setMcCh n _ _ _)

/-- The engine after the accesses of a sweep's settings. -/
def Chip.sweepAccess (c : Chip) (n : Nat) : Chip := (c.sweepSettings n).foldl (fun c _ => c.trnAccess n) c

theorem Chip.ChannelOnly.sweepAccess (c : Chip) {n : Nat} (hn : n < 8) : c.ChannelOnly n (c.sweepAccess n) :=
  .foldl (fun c _ => .trnAccess c hn) _ c

/-- The counter and the window of one bit of a sweep. -/
def bitReg (n b a : Nat) : Prop := a = R.MC_TRN_ERR n b ∨ a = R.MC_TRN_WIN n b

theorem Chip.EventsOnly.sweepBit (c : Chip) (n b : Nat) (l e : List Nat) : c.EventsOnly (c.sweepBit n b l e) := by
  unfold Chip.sweepBit
  exact ((Chip.EventsOnly.setN c _ _).trans (.setFld _ _ _ _)).trans (.setFld _ _ _ _)

theorem Chip.RegsIn.sweepBit (c : Chip) (n b : Nat) (l e : List Nat) : c.RegsIn (bitReg n b) (c.sweepBit n b l e) := by
  unfold Chip.sweepBit
  exact ((Chip.RegsIn.setN c _ (.inl rfl)).trans (.setFld _ _ _ (.inr rfl))).trans (.setFld _ _ _ (.inr rfl))

/-- A sweep's results: every bit's counter and window, from the mismatches `e` of each. -/
def Chip.sweepShow (c : Chip) (n : Nat) (l : List Nat) (e : Nat → List Nat) : Chip :=
  (List.range 80).foldl (fun d b => d.sweepBit n b l (e b)) c

/-- The sweep is over. -/
def Chip.sweepOver (c : Chip) (n : Nat) : Chip :=
  (c.setFlag (R.MC_TRN_STAT n) F.MC_TRN_STAT_BUSY false).setFlag (R.MC_TRN_STAT n) F.MC_TRN_STAT_DONE true

/-- The mismatches of each bit at each setting. -/
def Chip.sweepMisses (c : Chip) (n : Nat) (es : List TrnRead) (b : Nat) : List Nat :=
  (List.range (c.sweepSettings n).length).map (fun i => c.trnMisses n b i es)

theorem Chip.sweepMisses_length (c : Chip) (n : Nat) (es : List TrnRead) (b : Nat) : (c.sweepMisses n es b).length = (c.sweepSettings n).length := by
  rw [Chip.sweepMisses, List.length_map, List.length_range]

theorem Chip.sweepMisses_nil (c : Chip) (n b : Nat) : ∀ x ∈ c.sweepMisses n [] b, x = 0 := by
  intro x hx
  obtain ⟨i, -, rfl⟩ := List.mem_map.1 hx
  rfl

theorem doTrnDone_busy {c : Chip} {n : Nat} (h : c.flag (R.MC_TRN_STAT n) F.MC_TRN_STAT_BUSY = true) (es : List TrnRead) :
    doTrnDone n es c = (((c.sweepAccess n).sweepShow n (c.sweepSettings n) (c.sweepMisses n es)).sweepOver n).raise (Ev.trnDone n) :=
  if_pos h

theorem Chip.sweepShow_keeps (c : Chip) (n : Nat) (l : List Nat) (e : Nat → List Nat) :
    (c.sweepShow n l e).fatal = c.fatal ∧ (c.sweepShow n l e).resetReq = c.resetReq :=
  ⟨Chip.foldl_keeps Chip.fatal (fun c b _ => (Chip.EventsOnly.sweepBit c n b l (e b)).fatal) c,
    Chip.foldl_keeps Chip.resetReq (fun c b _ => (Chip.EventsOnly.sweepBit c n b l (e b)).resetReq) c⟩

/-- A fold of which each step touches its own registers shows, in those of `b`, what `b`'s step makes of the engine as it was. -/
theorem Chip.regs_foldl_at {f : Chip → Nat → Chip} {A : Nat → Prop} {b : Nat} (hother : ∀ c k, k ≠ b → ∀ a, A a → (f c k).reg a = c.reg a)
    {l : List Nat} (hl : l.Nodup) (hb : b ∈ l) (c : Chip) :
    ∃ d : Chip, (∀ a, A a → d.reg a = c.reg a) ∧ ∀ a, A a → (l.foldl f c).reg a = (f d b).reg a := by
  induction l generalizing c with
  | nil => exact absurd hb List.not_mem_nil
  | cons k l ih =>
    obtain ⟨hk, hl⟩ := List.nodup_cons.1 hl
    by_cases hkb : k = b
    · refine ⟨c, fun a _ => rfl, fun a ha => ?_⟩
      rw [hkb] at hk ⊢
      exact Chip.foldl_keeps (f := f) (fun e => e.reg a) (fun e j hj => hother e j (fun hjb => hk (hjb ▸ hj)) a ha) (f c b)
    · obtain ⟨d, hd, hfold⟩ := ih hl ((List.mem_cons.1 hb).resolve_left fun h => hkb h.symm) (f c k)
      exact ⟨d, fun a ha => (hd a ha).trans (hother c k hkb a ha), hfold⟩

theorem bitReg_apart {n b k a : Nat} (hb : b < 80) (hk : k < 80) (hne : k ≠ b) (ha : bitReg n b a) : ¬bitReg n k a := by
  unfold bitReg R.MC_TRN_ERR R.MC_TRN_WIN at *
  omega

/-- One step of a sweep's results, of bits below 80. -/
def Chip.sweepStep (n : Nat) (l : List Nat) (e : Nat → List Nat) (c : Chip) (b : Nat) : Chip := if b < 80 then c.sweepBit n b l (e b) else c

theorem Chip.sweepShow_eq (c : Chip) (n : Nat) (l : List Nat) (e : Nat → List Nat) :
    c.sweepShow n l e = (List.range 80).foldl (Chip.sweepStep n l e) c :=
  List.foldl_ext _ _ c fun _ _ hb => (if_pos (List.mem_range.1 hb)).symm

theorem Chip.sweepShow_at (c : Chip) {n b : Nat} (hb : b < 80) (l : List Nat) (e : Nat → List Nat) :
    ∃ d : Chip, (∀ a, bitReg n b a → d.reg a = c.reg a) ∧ ∀ a, bitReg n b a → (c.sweepShow n l e).reg a = (d.sweepBit n b l (e b)).reg a := by
  have hother : ∀ (c : Chip) k, k ≠ b → ∀ a, bitReg n b a → (Chip.sweepStep n l e c k).reg a = c.reg a := by
    intro c k hk a ha
    unfold Chip.sweepStep
    split
    next hk80 => exact Chip.RegsIn.sweepBit c n k l (e k) a (bitReg_apart hb hk80 hk ha)
    next => rfl
  obtain ⟨d, hd, hfold⟩ := Chip.regs_foldl_at hother List.nodup_range (List.mem_range.2 hb) c
  rw [Chip.sweepStep, if_pos hb] at hfold
  rw [Chip.sweepShow_eq]
  exact ⟨d, hd, hfold⟩

/-! ### A sweep that reads back the pattern -/

theorem zip_zeros : ∀ {l e : List Nat}, e.length = l.length → (∀ x ∈ e, x = 0) → l.zip e = l.map (fun x => (x, 0))
  | [], _, _, _ => rfl
  | x :: l, [], h, _ => absurd h (by simp)
  | x :: l, y :: e, h, hz => by
    rw [List.zip_cons_cons, List.map_cons, hz y List.mem_cons_self,
      zip_zeros (Nat.succ.inj h) fun z hmem => hz z (List.mem_cons_of_mem _ hmem)]

theorem bestRun_zeros : ∀ (l : List Nat) (a p k : Nat), bestRun (l.map (fun x => (x, 0))) (some (a, p, k)) (some (a, p, k)) =
    some (a, (l.getLast?).getD p, k + l.length)
  | [], _, _, _ => rfl
  | x :: l, a, p, k => by
    have hstep : bestRun ((x :: l).map (fun x => (x, 0))) (some (a, p, k)) (some (a, p, k)) =
        bestRun (l.map (fun x => (x, 0))) (some (a, x, k + 1)) (some (a, x, k + 1)) := by
      rw [List.map_cons, bestRun, if_neg (by simp)]
      dsimp only
      rw [if_pos (Nat.lt_succ_self k)]
    rw [hstep, bestRun_zeros l a x (k + 1), List.getLast?_cons, Option.getD_some, List.length_cons]
    congr 3
    omega

theorem bestRun_of_zeros {l : List Nat} {a p : Nat} (hfirst : l.head? = some a) (hlast : l.getLast? = some p) :
    ∃ k, bestRun (l.map (fun x => (x, 0))) none none = some (a, p, k) := by
  match l, hfirst with
  | x :: l, hfirst =>
    have hx : x = a := Option.some.inj hfirst
    have hp : (l.getLast?).getD x = p := Option.some.inj ((List.getLast?_cons).symm.trans hlast)
    refine ⟨1 + l.length, ?_⟩
    rw [List.map_cons, bestRun, if_neg (by simp)]
    dsimp only
    rw [bestRun_zeros, hx, ← hp, hx]

theorem satAdd_zero {v : Nat} (h : v < 2 ^ 32) : satAdd 32 v 0 = v := by
  unfold satAdd
  omega

theorem foldl_add_zeros (l : List Nat) : (l.map (fun x => (x, 0))).foldl (fun k (x : Nat × Nat) => k + x.2) 0 = 0 := by
  refine foldl_of_fixed fun x hx => ?_
  obtain ⟨y, -, rfl⟩ := List.mem_map.1 hx
  rfl

theorem Chip.sweepBit_pattern (c : Chip) {n b a p : Nat} {l e : List Nat} (he : e.length = l.length) (hz : ∀ x ∈ e, x = 0)
    (hfirst : l.head? = some a) (hlast : l.getLast? = some p) (ha : a < 1024) (hp : p < 1024) :
    (c.sweepBit n b l e).fld (R.MC_TRN_WIN n b) F.MC_TRN_WIN_LEFT = a ∧ (c.sweepBit n b l e).fld (R.MC_TRN_WIN n b) F.MC_TRN_WIN_RIGHT = p ∧
      (b < 80 → (c.sweepBit n b l e).reg (R.MC_TRN_ERR n b) = c.reg (R.MC_TRN_ERR n b)) := by
  obtain ⟨k, hbest⟩ := bestRun_of_zeros hfirst hlast
  unfold Chip.sweepBit
  rw [he, Nat.sub_self, show zeros 0 = [] from rfl, List.append_nil, zip_zeros he hz]
  dsimp only
  rw [hbest, foldl_add_zeros]
  refine ⟨?_, ?_, fun hb => ?_⟩
  · rw [Chip.fld_setFld_apart _ _ _ _ _ (by decide) (by decide), Chip.fld_setFld _ _ _ _ (by decide)]
    exact Nat.mod_eq_of_lt ha
  · rw [Chip.fld_setFld _ _ _ _ (by decide)]
    exact Nat.mod_eq_of_lt hp
  · have hne : R.MC_TRN_ERR n b ≠ R.MC_TRN_WIN n b := by unfold R.MC_TRN_ERR R.MC_TRN_WIN; omega
    rw [Chip.reg_setFld_ne _ _ _ hne, Chip.reg_setFld_ne _ _ _ hne, Chip.addSat, satAdd_zero (show c.rn (R.MC_TRN_ERR n b) < 2 ^ 32 from (c.reg (R.MC_TRN_ERR n b)).isLt)]
    exact (Chip.reg_setReg c _ _).trans ((BitVec.ofNat_toNat _ _).trans (BitVec.setWidth_eq _))

theorem Chip.mem_sweepSettings_lt {c : Chip} {n x : Nat} (h : x ∈ c.sweepSettings n) : x < 1024 := by
  unfold Chip.sweepSettings at h
  dsimp only at h
  have hend : c.fld (R.MC_TRN_SWEEP n) F.MC_TRN_SWEEP_END < 1024 := Nat.mod_lt _ (by decide)
  generalize c.fld (R.MC_TRN_SWEEP n) F.MC_TRN_SWEEP_END = e at *
  generalize c.fld (R.MC_TRN_SWEEP n) F.MC_TRN_SWEEP_START = b at *
  generalize max 1 (c.fld (R.MC_TRN_SWEEP n) F.MC_TRN_SWEEP_STEP) = t at *
  split at h
  · exact absurd h List.not_mem_nil
  · obtain ⟨i, hi, rfl⟩ := List.mem_map.1 h
    have hi : i ≤ (e - b) / t := Nat.lt_succ_iff.1 (List.mem_range.1 hi)
    have hmul : t * i ≤ e - b := (Nat.mul_le_mul_left t hi).trans (Nat.mul_div_le _ _)
    omega

theorem completes_trnDone {s : State} {n : Nat} {es : List TrnRead} (h : s.chip.atWork = true) (hn : n < 8) (hwf : (Instr.trnDone n es).wf = true)
    (hbusy : s.chip.flag (R.MC_TRN_STAT n) F.MC_TRN_STAT_BUSY = true) :
    Completes (.trnDone n es) s (fun c => c.flag (R.MC_TRN_STAT n) F.MC_TRN_STAT_BUSY = false ∧
      c.flag (R.MC_TRN_STAT n) F.MC_TRN_STAT_DONE = true ∧ bit (c.rn (R.EVT_STAT (40 + n))) 7 = true ∧
      (∀ b l r, b < 80 → es = [] → (s.chip.sweepSettings n).head? = some l → (s.chip.sweepSettings n).getLast? = some r →
        c.fld (R.MC_TRN_WIN n b) F.MC_TRN_WIN_LEFT = l ∧ c.fld (R.MC_TRN_WIN n b) F.MC_TRN_WIN_RIGHT = r ∧
        c.reg (R.MC_TRN_ERR n b) = s.chip.reg (R.MC_TRN_ERR n b))) := by
  have hexec := exec_of_atWork h hwf (f := doTrnDone n es) rfl
  rw [doTrnDone_busy hbusy] at hexec
  have hzeros : es = [] → ∀ b, ∀ x ∈ s.chip.sweepMisses n es b, x = 0 := fun hes b => by
    rw [hes]
    exact s.chip.sweepMisses_nil n b
  have hlength := s.chip.sweepMisses_length n es
  have hbound : ∀ x ∈ s.chip.sweepSettings n, x < 1024 := fun x hx => Chip.mem_sweepSettings_lt hx
  have haccess := Chip.ChannelOnly.sweepAccess s.chip hn
  generalize s.chip.sweepAccess n = d at *
  generalize s.chip.sweepSettings n = l at *
  generalize s.chip.sweepMisses n es = e at *
  obtain ⟨sfatal, sreset⟩ := d.sweepShow_keeps n l e
  have hshow : ∀ b, b < 80 → ∃ d' : Chip, (∀ a, bitReg n b a → d'.reg a = d.reg a) ∧
      ∀ a, bitReg n b a → (d.sweepShow n l e).reg a = (d'.sweepBit n b l (e b)).reg a := fun b hb => d.sweepShow_at hb l e
  generalize d.sweepShow n l e = f at *
  have hover : f.EventsOnly (f.sweepOver n) := (Chip.EventsOnly.setFld f _ _ _).trans (.setFld _ _ _ _)
  have hbusy' : (f.sweepOver n).flag (R.MC_TRN_STAT n) F.MC_TRN_STAT_BUSY = false := by
    rw [Chip.sweepOver, Chip.flag_setFlag_of_apart _ _ _ _ _ _ (by decide) (by decide)]
    exact Chip.flag_setFlag _ _ _ _ (by decide) rfl
  have hdone : (f.sweepOver n).flag (R.MC_TRN_STAT n) F.MC_TRN_STAT_DONE = true := Chip.flag_setFlag _ _ _ _ (by decide) rfl
  have hkeep : ∀ a, a ≠ R.MC_TRN_STAT n → (f.sweepOver n).reg a = f.reg a := fun a ha => by
    rw [Chip.sweepOver, Chip.reg_setFlag_ne _ _ _ ha, Chip.reg_setFlag_ne _ _ _ ha]
  generalize f.sweepOver n = g at *
  have hev := Chip.EventsOnly.raise g (Ev.trnDone n)
  have hregs := Chip.RegsIn.raise g (e := Ev.trnDone n) (show 40 + n < 64 by omega)
  have hapart : ¬noteReg (R.MC_TRN_STAT n) := fun hx => by have := noteReg_ge hx; unfold R.MC_TRN_STAT at this; omega
  refine .of_exec hexec ?_ ?_ ⟨(hregs.flag hapart _).trans hbusy', (hregs.flag hapart _).trans hdone,
    Chip.bit_rn_raise g (n := 40 + n) (b := 7) (by omega) (by omega) (by decide), fun b x y hb hes hfirst hlast => ?_⟩
  · rw [hev.fatal, hover.fatal, sfatal, haccess.fatal, Chip.fatal_of_atWork (c := s.chip) h]
  · rw [hev.resetReq, hover.resetReq, sreset, haccess.resetReq, Chip.resetReq_of_atWork (c := s.chip) h]
  · obtain ⟨d', hd', hbit⟩ := hshow b hb
    have hx := hbound x (List.mem_of_mem_head? hfirst)
    have hy := hbound y (List.mem_of_getLast? hlast)
    obtain ⟨hleft, hright, herr⟩ := d'.sweepBit_pattern (n := n) (b := b) (hlength b) (hzeros hes b) hfirst hlast hx hy
    have hall : ∀ a, bitReg n b a → (g.raise (Ev.trnDone n)).reg a = (d'.sweepBit n b l (e b)).reg a := by
      intro a ha
      have hlow : 0x400200 + 0x10000 * n ≤ a ∧ a < 0x400600 + 0x10000 * n := by
        unfold bitReg R.MC_TRN_ERR R.MC_TRN_WIN at ha
        omega
      rw [hregs a (fun hx => by have := noteReg_ge hx; omega), hkeep a (by unfold R.MC_TRN_STAT; omega), hbit a ha]
    refine ⟨(Chip.fld_congr (hall _ (.inr rfl)) _).trans hleft, (Chip.fld_congr (hall _ (.inr rfl)) _).trans hright, ?_⟩
    rw [hall _ (.inl rfl), herr hb, hd' _ (.inl rfl)]
    refine haccess.regs _ ?_
    unfold hamReg noteReg R.MC_TRN_ERR R.MC_HAM_CNT R.MC_HAM_LAST R.MC_HAM_MASK
    omega

/-- Settles O44: what TRAIN and SWEEP set, and by `bestRun_of_zeros` the window of a bit that reads back the pattern. -/
theorem trainingCommands : Obligations.TrainingCommands :=
  ⟨fun _ i _ h hm hm' hstate hpresent hidle hstill => completes_mcTrain h i hm hm' hstate hpresent hidle hstill,
    fun _ i _ h hn htrain hidle hpresent => completes_mcSweep h i hn htrain hidle hpresent,
    fun _ _ _ h hn hwf hbusy => completes_trnDone h hn hwf hbusy⟩

end Sys2Proof.Machine
end

section
/-! The host's accesses of the Common Store through BAR2 (R329, R330), and its scrub (R337). -/

namespace Sys2Proof.Machine

/-! ### The accesses of a request -/

theorem Chip.bar2Open_of_atWork {c : Chip} (h : c.atWork = true) : c.bar2Open = true := by
  simp only [Chip.atWork, Bool.and_eq_true] at h
  obtain ⟨⟨-, hstage⟩, hfail⟩ := h
  unfold Chip.bar2Open
  rw [hstage, hfail]
  rfl

/-- An offset names both DWs of word `w` for accesses of kind `k`. -/
structure Names (ofs w k : Nat) : Prop where
  low : ofs = 0x2000000 * k + 8 * w
  word : w < 4194304
  kind : k < 3

theorem Names.bar2Word {ofs w k : Nat} (h : Names ofs w k) : Machine.bar2Word ofs = w ∧ Machine.bar2Word (ofs + 4) = w := by
  obtain ⟨rfl, hw, hk⟩ := h
  unfold Machine.bar2Word
  omega

theorem Names.bar2Kind {ofs w k : Nat} (h : Names ofs w k) : Machine.bar2Kind ofs = k ∧ Machine.bar2Kind (ofs + 4) = k := by
  obtain ⟨rfl, hw, hk⟩ := h
  unfold Machine.bar2Kind
  omega

theorem Names.half {ofs w k : Nat} (h : Names ofs w k) : ofs / 4 % 2 = 0 ∧ (ofs / 4 + 1) % 2 = 1 := by
  obtain ⟨rfl, hw, hk⟩ := h
  omega

theorem Names.wf {ofs w k : Nat} (h : Names ofs w k) : ofs < 134217728 ∧ ofs % 4 = 0 := by
  obtain ⟨rfl, hw, hk⟩ := h
  omega

theorem bar2Spread_one {α : Type} (ofs : Nat) (x : α) : bar2Spread ofs [x] = [(ofs, x)] := rfl

theorem bar2Spread_two {α : Type} (ofs : Nat) (x y : α) : bar2Spread ofs [x, y] = [(ofs, x), (ofs + 4, y)] := rfl

/-- The host's access of kind `k` to word `w` with both DWs enabled. -/
def hostAccess (w k : Nat) (lo hi : Word) : CstAccess :=
  { master := 19, word := w, kind := k, data := BitVec.ofNat 64 (lo.toNat + 2 ^ 32 * hi.toNat), mask := 255 }

theorem dwAccess_both {ofs w k : Nat} (h : Names ofs w k) (lo hi : Word) :
    dwAccess w [(ofs, ⟨lo, 15⟩), (ofs + 4, ⟨hi, 15⟩)] = [hostAccess w k lo hi] := by
  have hmine : [(ofs, (⟨lo, 15⟩ : Dw)), (ofs + 4, ⟨hi, 15⟩)].filter (fun x => decide (bar2Word x.1 = w) && decide (x.2.enables = 15)) =
      [(ofs, ⟨lo, 15⟩), (ofs + 4, ⟨hi, 15⟩)] := by
    simp [h.bar2Word.1, h.bar2Word.2]
  unfold dwAccess
  rw [hmine]
  dsimp only
  simp [h.half.1, h.half.2, h.bar2Kind.1, hostAccess]

theorem dwAccess_part {ofs w e : Nat} (he : e < 15) (v : Word) : dwAccess w [(ofs, ⟨v, e⟩)] = [] := by
  have hmine : [(ofs, (⟨v, e⟩ : Dw))].filter (fun x => decide (bar2Word x.1 = w) && decide (x.2.enables = 15)) = [] := by
    simp [Nat.ne_of_lt he]
  unfold dwAccess
  rw [hmine]

theorem doBar2Write_both {c : Chip} {ofs w k : Nat} (hopen : c.bar2Open = true) (h : Names ofs w k) (lo hi : Word) :
    doBar2Write ofs [⟨lo, 15⟩, ⟨hi, 15⟩] c = c.cstWriteMerged w [hostAccess w k lo hi] := by
  have hlive : [(ofs, (⟨lo, 15⟩ : Dw)), (ofs + 4, ⟨hi, 15⟩)].filter (fun x => decide (bar2Kind x.1 < 3)) = [(ofs, ⟨lo, 15⟩), (ofs + 4, ⟨hi, 15⟩)] := by
    simp [h.bar2Kind.1, h.bar2Kind.2, h.kind]
  have hodd : [(ofs, (⟨lo, 15⟩ : Dw)), (ofs + 4, ⟨hi, 15⟩)].filter
      (fun x => decide (x.2.enables % 16 ≠ 0) && decide (x.2.enables % 16 ≠ 15)) = [] := rfl
  have hwords : distinct ([(ofs, (⟨lo, 15⟩ : Dw)), (ofs + 4, ⟨hi, 15⟩)].map (fun x => bar2Word x.1)) = [w] := by
    simp [distinct, h.bar2Word.1, h.bar2Word.2]
  unfold doBar2Write
  rw [if_pos hopen]
  dsimp only
  rw [bar2Spread_two, hlive, hodd, hwords, List.foldl_nil, List.foldl_cons, List.foldl_nil, dwAccess_both h]

/-! ### What the host's write makes of a word -/

theorem byteMask_full : byteMask 255 = BitVec.allOnes 64 := by decide

theorem and_byteMask_full (v : DWord) : v &&& byteMask 255 = v := by rw [byteMask_full, BitVec.and_allOnes]

theorem and_ones (v : DWord) : v &&& 18446744073709551615#64 = v := BitVec.and_allOnes

theorem not_byteMask_full : ~~~(byteMask 255) = 0 := by rw [byteMask_full, BitVec.not_allOnes]; rfl

section
variable (old v : DWord) (m w : Nat)

theorem cstMerge_plain : cstMerge old [{ master := 19, word := w, kind := 0, data := v, mask := 255 }] = v := by
  simp [cstMerge, aliasMask, mergePlain, and_byteMask_full, not_byteMask_full]

theorem cstMerge_set : cstMerge old [{ master := m, word := w, kind := 1, data := v, mask := 255 }] = old ||| v := by
  simp [cstMerge, aliasMask, mergePlain, and_byteMask_full, and_ones]

theorem cstMerge_clear : cstMerge old [{ master := m, word := w, kind := 2, data := v, mask := 255 }] = old &&& ~~~v := by
  simp [cstMerge, aliasMask, mergePlain, and_byteMask_full]

end

theorem completes_bar2Write {s : State} {ofs w k : Nat} {x : DWord} {lo hi : Word} (h : s.chip.atWork = true) (hs : s.chip.cstSound w)
    (hraw : s.chip.cstRawOn = false) (hn : Names ofs w k) (hx : cstMerge (s.chip.cstCell (s.chip.cstPhys w)) [hostAccess w k lo hi] = x) :
    Completes (.bar2Write ofs [⟨lo, 15⟩, ⟨hi, 15⟩]) s (fun c => c.cstCell (s.chip.cstPhys w) = x ∧
      (∀ j, j ≠ s.chip.cstPhys w → c.cstCell j = s.chip.cstCell j) ∧ (∀ j, c.cstBad j = s.chip.cstBad j) ∧
      (∀ j, c.cstRaw j = s.chip.cstRaw j) ∧ c.regs = s.chip.regs ∧ c.mc = s.chip.mc) := by
  have hwf : (Instr.bar2Write ofs [⟨lo, 15⟩, ⟨hi, 15⟩]).wf = true := by
    show (decide (ofs < 134217728) && decide (ofs % 4 = 0) && decide (2 ≤ 128)) = true
    rw [decide_eq_true hn.wf.1, decide_eq_true hn.wf.2]
    rfl
  have hwrites : cstWrites [hostAccess w k lo hi] = [hostAccess w k lo hi] := by
    simp [cstWrites, hostAccess, hn.kind]
  have hexec := exec_of_atWork h hwf (f := doBar2Write ofs [⟨lo, 15⟩, ⟨hi, 15⟩]) rfl
  rw [doBar2Write_both (Chip.bar2Open_of_atWork h) hn] at hexec
  obtain ⟨m, heq, hcell, hbad, hrawk⟩ := Chip.cstWriteMerged_of_sound hs hraw [hostAccess w k lo hi]
  rw [heq] at hexec
  refine .of_exec hexec (Chip.fatal_of_atWork (c := s.chip) h) (Chip.resetReq_of_atWork (c := s.chip) h) ⟨?_, fun j hj => ?_, hbad, hrawk, rfl, rfl⟩
  · rw [hcell, if_pos rfl, hwrites, hx]
  · rw [hcell, if_neg hj]

theorem Chip.cstWriteMerged_nil (c : Chip) (w : Nat) : c.cstWriteMerged w [] = c := rfl

theorem Chip.flag_cstDropped_partial (c : Chip) (m a : Nat) (p : Bool) :
    (c.cstDropped m a p).flag R.CST_DROP_LAST F.CST_DROP_LAST_PARTIAL = p := by
  rw [Chip.cstDropped, Chip.flag_congr (Chip.reg_raise_ne _ _ (by decide))]
  exact Chip.flag_setFlag _ _ _ _ (by decide) rfl

theorem doBar2Write_part {c : Chip} {w e : Nat} (hopen : c.bar2Open = true) (hn : Names (8 * w) w 0) (he : 0 < e) (he' : e < 15) (v : Word) :
    doBar2Write (8 * w) [⟨v, e⟩] c = c.cstDropped 19 w true := by
  have hlive : [(8 * w, (⟨v, e⟩ : Dw))].filter (fun x => decide (bar2Kind x.1 < 3)) = [(8 * w, ⟨v, e⟩)] := by
    simp [hn.bar2Kind.1]
  have hodd : [(8 * w, (⟨v, e⟩ : Dw))].filter (fun x => decide (x.2.enables % 16 ≠ 0) && decide (x.2.enables % 16 ≠ 15)) = [(8 * w, ⟨v, e⟩)] := by
    have h0 : e % 16 ≠ 0 := by omega
    have h15 : e % 16 ≠ 15 := by omega
    simp [h0, h15]
  have hwords : distinct ([(8 * w, (⟨v, e⟩ : Dw))].map (fun x => bar2Word x.1)) = [w] := by
    simp [distinct, hn.bar2Word.1]
  unfold doBar2Write
  rw [if_pos hopen]
  dsimp only
  rw [bar2Spread_one, hlive, hodd, hwords, List.foldl_cons, List.foldl_nil, List.foldl_cons, List.foldl_nil, dwAccess_part he', hn.bar2Word.1,
    Chip.cstWriteMerged_nil]

theorem names_plain {s : State} {w : Nat} (hw : w < s.chip.cstWords) : Names (8 * w) w 0 := by
  refine ⟨by omega, ?_, by decide⟩
  unfold Chip.cstWords at hw
  split at hw <;> omega

theorem completes_bar2Write_part {s : State} {w e : Nat} {v : Word} (h : s.chip.atWork = true) (hw : w < s.chip.cstWords) (he : 0 < e)
    (he' : e < 15) : Completes (.bar2Write (8 * w) [⟨v, e⟩]) s (fun c => c.cst = s.chip.cst ∧
      c.reg R.CST_DROP_CNT = s.chip.reg R.CST_DROP_CNT + 1 ∧ c.flag R.CST_DROP_LAST F.CST_DROP_LAST_PARTIAL = true ∧
      c.fld R.CST_DROP_LAST F.CST_DROP_LAST_ADDR = w) := by
  have hn := names_plain hw
  have hwf : (Instr.bar2Write (8 * w) [⟨v, e⟩]).wf = true := by
    show (decide (8 * w < 134217728) && decide (8 * w % 4 = 0) && decide (1 ≤ 128)) = true
    rw [decide_eq_true hn.wf.1, decide_eq_true hn.wf.2]
    rfl
  have hexec := exec_of_atWork h hwf (f := doBar2Write (8 * w) [⟨v, e⟩]) rfl
  rw [doBar2Write_part (Chip.bar2Open_of_atWork h) hn he he'] at hexec
  refine .of_exec hexec ?_ ?_ ⟨Chip.cstDropped_cst _ _ _ _, Chip.reg_cstDropped_dropCnt _ _ _ _, Chip.flag_cstDropped_partial _ _ _ _, ?_⟩
  · rw [Chip.cstDropped_fatal, Chip.fatal_of_atWork (c := s.chip) h]
  · rw [Chip.cstDropped_resetReq, Chip.resetReq_of_atWork (c := s.chip) h]
  · exact (Chip.fld_cstDropped_addr _ _ _ _).trans (Nat.mod_eq_of_lt hn.word)

/-! ### A read -/

theorem Chip.bar2Words_of_sound {c : Chip} {w : Nat} (hs : c.cstSound w) (hraw : c.cstRawOn = false) :
    c.bar2Words [w] = (c, [(w, (c.cstCell (c.cstPhys w)).toNat)]) := by
  have hread := Chip.cstRead_of_sound_of_not_raw hs hraw 19
  unfold Chip.bar2Words
  rw [List.foldl_cons, List.foldl_nil, Chip.bar2Fetch, hread]
  rfl

/-- Data of a read stand for the host. -/
def Chip.showRead (c : Chip) (l : List Word) : Chip := { c with rblock := l }.used

theorem doBar2Read_both {c : Chip} {w : Nat} (hopen : c.bar2Open = true) (hn : Names (8 * w) w 0) (hs : c.cstSound w) (hraw : c.cstRawOn = false) :
    doBar2Read (8 * w) [15, 15] c = c.showRead
      [BitVec.ofNat 32 (c.cstCell (c.cstPhys w)).toNat, BitVec.ofNat 32 ((c.cstCell (c.cstPhys w)).toNat / 2 ^ 32)] := by
  have hlive : [(8 * w, 15), (8 * w + 4, 15)].filter (fun x => decide (x.2 % 16 ≠ 0) && decide (bar2Kind x.1 < 3)) = [(8 * w, 15), (8 * w + 4, 15)] := by
    simp [hn.bar2Kind.1, hn.bar2Kind.2]
  have hwords : distinct ([(8 * w, 15), (8 * w + 4, 15)].map (fun x => bar2Word x.1)) = [w] := by
    simp [distinct, hn.bar2Word.1, hn.bar2Word.2]
  have hget : ∀ n : Nat, SMap.get (fun _ => 0) [(w, n)] w = n := fun n => by simp [SMap.get]
  have hhigh : (8 * w + 4) / 4 % 2 = 1 := by omega
  unfold doBar2Read
  dsimp only
  rw [if_pos hopen, bar2Spread_two, hlive, hwords, Chip.bar2Words_of_sound hs hraw]
  simp only [List.map_cons, List.map_nil]
  rw [hn.bar2Kind.1, hn.bar2Kind.2, hn.bar2Word.1, hn.bar2Word.2, hget, hn.half.1, hhigh, if_neg (by decide), if_neg (by decide), if_neg (by decide),
    if_neg (by decide), Nat.mul_zero, Nat.pow_zero, Nat.div_one]
  rfl

theorem completes_bar2Read {s : State} {w : Nat} (h : s.chip.atWork = true) (hs : s.chip.cstSound w) (hraw : s.chip.cstRawOn = false) :
    Completes (.bar2Read (8 * w) [15, 15]) s (fun c => c.rblock =
      [BitVec.ofNat 32 (s.chip.cstCell (s.chip.cstPhys w)).toNat, BitVec.ofNat 32 ((s.chip.cstCell (s.chip.cstPhys w)).toNat / 2 ^ 32)] ∧
      c.regs = s.chip.regs ∧ c.cst = s.chip.cst) := by
  have hn := names_plain hs.2.2
  have hwf : (Instr.bar2Read (8 * w) [15, 15]).wf = true := by
    show (decide (8 * w < 134217728) && decide (8 * w % 4 = 0) && decide (2 ≤ 1024)) = true
    rw [decide_eq_true hn.wf.1, decide_eq_true hn.wf.2]
    rfl
  have hexec := exec_of_atWork h hwf (f := doBar2Read (8 * w) [15, 15]) rfl
  rw [doBar2Read_both (Chip.bar2Open_of_atWork h) hn hs hraw] at hexec
  exact .of_exec hexec (Chip.fatal_of_atWork (c := s.chip) h) (Chip.resetReq_of_atWork (c := s.chip) h) ⟨rfl, rfl, rfl⟩

/-! ### Scrub -/

/-- The scrub row moves to `p`, and the next row's time is `t`. -/
def Chip.scrubMoved (c : Chip) (p t : Nat) : Chip :=
  { c.setFld R.CST_SCRUB_POS F.CST_SCRUB_POS_ROW p with cstBus := { c.cstBus with scrubAt := t } }

theorem Chip.scrubMoved_spec (c : Chip) {p : Nat} (hp : p < 65536) (t : Nat) : (c.scrubMoved p t).cst = c.cst ∧ (c.scrubMoved p t).epc = c.epc ∧
    (c.scrubMoved p t).fatal = c.fatal ∧ (c.scrubMoved p t).resetReq = c.resetReq ∧ (c.scrubMoved p t).cstBus.scrubAt = t ∧
    (∀ a, a ≠ R.CST_SCRUB_POS → (c.scrubMoved p t).reg a = c.reg a) ∧
    (c.scrubMoved p t).fld R.CST_SCRUB_POS F.CST_SCRUB_POS_ROW = p :=
  ⟨rfl, rfl, rfl, rfl, rfl, fun a ha => Chip.reg_setFld_ne c _ _ ha, (Chip.fld_setFld c _ _ _ (by decide)).trans (Nat.mod_eq_of_lt hp)⟩

theorem Chip.scrubGap_congr {c d : Chip} (h : d.reg R.CST_CTRL = c.reg R.CST_CTRL) : d.scrubGap = c.scrubGap := by
  unfold Chip.scrubGap
  rw [Chip.fld_congr h]

theorem Chip.waitLine_cstBus (c : Chip) (t : Nat) : (c.waitLine t).cstBus = c.cstBus := by
  obtain ⟨k, e, h⟩ := c.waitLine_shape t; rw [h]

/-- A sound word scrubbed in a store that is not degraded: nothing but the row and its time moves, with the last bank. -/
theorem doCstScrub_sound {c d : Chip} {b p : Nat} (hon : c.flag R.GLB_PROFILE_EFF F.GLB_PROFILE_EFF_CST_SCRUB = true) (hladder : c.ladder ≤ 1)
    (hwhole : c.cstDegraded = false) (hd : c.waitLine c.cstBus.scrubAt = d) (hdw : d.cstDegraded = false)
    (hp : d.fld R.CST_SCRUB_POS F.CST_SCRUB_POS_ROW = p) (hs : d.cstSound (p * 64 + b)) (hraw : d.cstRawOn = false) :
    doCstScrub b 0 c = if b = 63 then d.scrubMoved ((p + 1) % 65536) (max d.epc.line (d.cstBus.scrubAt + d.scrubGap)) else d := by
  have hphys : d.cstPhys (p * 64 + b) = p * 64 + b := by rw [Chip.cstPhys, hdw]; exact if_neg Bool.false_ne_true
  have hread := Chip.cstRead_of_sound_of_not_raw hs hraw 20
  have hsee := Chip.cstSee_of_sound hs.1 hs.2.1
  have hclean : ¬((0, d.cstCell (d.cstPhys (p * 64 + b))) : Nat × DWord).1 = 1 := Nat.zero_ne_one
  have hlast : d.lastBank = 63 := by
    unfold Chip.lastBank
    rw [hdw]
    rfl
  unfold doCstScrub
  rw [hon, decide_eq_true hladder, hwhole, if_pos (by rfl), hd]
  dsimp only
  rw [hp, hdw, if_neg Bool.false_ne_true, if_pos rfl, hread, hsee, if_neg hclean, hlast]
  rfl

theorem completes_cstScrub {s : State} {b p : Nat} (h : s.chip.atWork = true) (hb : b < 64) (hwhole : s.chip.cstDegraded = false)
    (hraw : s.chip.cstRawOn = false) (hon : s.chip.flag R.GLB_PROFILE_EFF F.GLB_PROFILE_EFF_CST_SCRUB = true)
    (hp : s.chip.fld R.CST_SCRUB_POS F.CST_SCRUB_POS_ROW = p) (hbad : s.chip.cstBad (p * 64 + b) = 0) (hrawk : s.chip.cstRaw (p * 64 + b) = false) :
    Completes (.cstScrub b 0) s (fun c => c.cst = s.chip.cst ∧ s.chip.cstBus.scrubAt ≤ c.epc.line ∧ c.keepsRegs s.chip [R.CST_SCRUB_POS] ∧
      c.fld R.CST_SCRUB_POS F.CST_SCRUB_POS_ROW = (if b = 63 then (p + 1) % 65536 else p) ∧
      c.cstBus.scrubAt = (if b = 63 then max c.epc.line (s.chip.cstBus.scrubAt + s.chip.scrubGap) else s.chip.cstBus.scrubAt)) := by
  have hwf : (Instr.cstScrub b 0).wf = true := by
    show (decide (b < 64) && decide (0 < 2 ^ 72)) = true
    rw [decide_eq_true hb]
    rfl
  have hp16 : p < 65536 := by
    rw [← hp]
    exact Nat.mod_lt _ (by decide)
  have hexec := exec_of_atWork h hwf (f := doCstScrub b 0) rfl
  have hregs := s.chip.waitLine_regs s.chip.cstBus.scrubAt
  have hcst := s.chip.waitLine_cst s.chip.cstBus.scrubAt
  have hbus := s.chip.waitLine_cstBus s.chip.cstBus.scrubAt
  have hline := s.chip.le_line_waitLine s.chip.cstBus.scrubAt
  have hfatal := (s.chip.waitLine_fatal s.chip.cstBus.scrubAt).trans (Chip.fatal_of_atWork (c := s.chip) h)
  have hreset := (s.chip.waitLine_resetReq s.chip.cstBus.scrubAt).trans (Chip.resetReq_of_atWork (c := s.chip) h)
  generalize hd : s.chip.waitLine s.chip.cstBus.scrubAt = d at *
  have hdw : d.cstDegraded = false := (Chip.flag_congr (Chip.reg_congr hregs _) _).trans hwhole
  have hsound : d.cstSound (p * 64 + b) := by
    have hphys : d.cstPhys (p * 64 + b) = p * 64 + b := by rw [Chip.cstPhys, hdw]; exact if_neg Bool.false_ne_true
    refine ⟨?_, ?_, ?_⟩
    · rw [hphys, Chip.cstBad, hcst]
      exact hbad
    · rw [hphys, Chip.cstRaw, hcst]
      exact hrawk
    · rw [Chip.cstWords, hdw, if_neg Bool.false_ne_true]
      omega
  rw [doCstScrub_sound hon (by rw [Chip.ladder_of_atWork h]; omega) hwhole hd hdw ((Chip.fld_congr (Chip.reg_congr hregs _) _).trans hp) hsound
    ((Chip.flag_congr (Chip.reg_congr hregs _) _).trans hraw), Chip.scrubGap_congr (Chip.reg_congr hregs _), hbus] at hexec
  by_cases hlast : b = 63
  · rw [if_pos hlast] at hexec
    obtain ⟨hcst', hepc', hfatal', hreset', hat, hkeep, hrow⟩ := d.scrubMoved_spec (p := (p + 1) % 65536) (by omega)
      (max d.epc.line (s.chip.cstBus.scrubAt + s.chip.scrubGap))
    refine .of_exec hexec (hfatal'.trans hfatal) (hreset'.trans hreset) ⟨hcst'.trans hcst, ?_, fun a ha => ?_, ?_, ?_⟩
    · rw [hepc']
      exact hline
    · rw [hkeep a (fun hx => ha (hx ▸ List.mem_cons_self)), Chip.reg_congr hregs]
    · rw [if_pos hlast, hrow]
    · rw [if_pos hlast, hat, hepc']
  · rw [if_neg hlast] at hexec
    refine .of_exec hexec hfatal hreset ⟨hcst, hline, fun a _ => (Chip.reg_congr hregs a).symm, ?_, ?_⟩
    · rw [if_neg hlast, Chip.fld_congr (Chip.reg_congr hregs _), hp]
    · rw [if_neg hlast, hbus]

/-- Settles O47: the host's accesses by `doBar2Write_both` and the three merges, scrub by `doCstScrub_sound`. -/
theorem bar2Access : Obligations.Bar2Access := by
  refine ⟨fun s w lo hi h hw hbad hrawk hraw => ?_, fun s w e v h hw he he' => completes_bar2Write_part h hw he he',
    fun s b h hb hwhole hraw hon hbad hrawk => completes_cstScrub h hb hwhole hraw hon rfl hbad hrawk⟩
  have hs : s.chip.cstSound w := ⟨hbad, hrawk, hw⟩
  have hw' := (names_plain hw).word
  exact ⟨completes_bar2Write h hs hraw (names_plain hw) (cstMerge_plain _ _ _),
    completes_bar2Write h hs hraw ⟨by omega, hw', by decide⟩ (cstMerge_set _ _ _ _),
    completes_bar2Write h hs hraw ⟨by omega, hw', by decide⟩ (cstMerge_clear _ _ _ _), completes_bar2Read h hs hraw⟩

end Sys2Proof.Machine
end

section
/-! The Scrivener's input queue: a record written anew or folded, and EVT_RAISE (R374, R378, R380 to R382). -/

namespace Sys2Proof.Machine

/-! ### A record of the queue, written or folded -/

/-- The engine with the records of the queue but for the first. -/
def Chip.queueLeft (c : Chip) (l : List Rec) : Chip := { c with scv := { c.scv with queue := l } }

theorem Chip.queueLeft_fatal (c : Chip) (l : List Rec) : (c.queueLeft l).fatal = c.fatal := rfl
theorem Chip.queueLeft_resetReq (c : Chip) (l : List Rec) : (c.queueLeft l).resetReq = c.resetReq := rfl
theorem Chip.queueLeft_queue (c : Chip) (l : List Rec) : (c.queueLeft l).scv.queue = l := rfl
theorem Chip.queueLeft_lossDue (c : Chip) (l : List Rec) : (c.queueLeft l).scv.lossDue = c.scv.lossDue := rfl
theorem Chip.reg_queueLeft (c : Chip) (l : List Rec) (a : Nat) : (c.queueLeft l).reg a = c.reg a := rfl
theorem Chip.half_queueLeft (c : Chip) (l : List Rec) (b : Bool) : (c.queueLeft l).half b = c.half b := rfl
theorem Chip.recHalf_queueLeft (c : Chip) (l : List Rec) : (c.queueLeft l).recHalf = c.recHalf := rfl
theorem Chip.lastRec_queueLeft (c : Chip) (l : List Rec) : (c.queueLeft l).lastRec = c.lastRec := rfl
theorem Chip.flood_queueLeft (c : Chip) (l : List Rec) : (c.queueLeft l).flood = c.flood := rfl

theorem doScrivenerWrite_queued {c : Chip} {r : Rec} {l : List Rec} (hq : c.scv.queue = r :: l) (hf : c.fatal = none) :
    doScrivenerWrite none c = ((c.queueLeft l).writeRec r).lossNote := by
  unfold doScrivenerWrite
  rw [hq]
  dsimp only
  rw [if_neg (by rw [hf]; decide)]
  rfl

theorem Chip.lossNote_of_not_due {c : Chip} (h : c.scv.lossDue = false) : c.lossNote = c := by
  rw [Chip.lossNote, if_neg (by rw [h]; decide)]

theorem Chip.setHalf_scv (c : Chip) (b : Bool) (h : Half) :
    (c.setHalf b h).scv.queue = c.scv.queue ∧ (c.setHalf b h).scv.lossDue = c.scv.lossDue := by
  cases b <;> exact ⟨rfl, rfl⟩

theorem Chip.half_setHalf (c : Chip) (b : Bool) (h : Half) : (c.setHalf b h).half b = h := by cases b <;> rfl
theorem Chip.reg_setHalf (c : Chip) (b : Bool) (h : Half) (a : Nat) : (c.setHalf b h).reg a = c.reg a := rfl
theorem Chip.half_of_scv {c d : Chip} (h : d.scv = c.scv) (b : Bool) : d.half b = c.half b := by rw [Chip.half, h, Chip.half]

/-- The record of number `no` that a record of the queue becomes. -/
def Rec.held (r : Rec) (no : Nat) : HeldRec := ⟨r.typ, r.src, r.stamp, r.payload, no, 0, 0⟩

/-- What the recording half is after a record has been put at its end. -/
def Chip.appended (c : Chip) (r : Rec) : Chip :=
  ((c.setHalf c.recHalf { c.half c.recHalf with recs := (c.half c.recHalf).recs ++ [r.held (c.rn R.SCV_REC_NO + 1)] }).setN R.SCV_REC_NO
    (c.rn R.SCV_REC_NO + 1)).setN (halfEnd c.recHalf) (c.rn (halfEnd c.recHalf) + (16 + r.payload.length))

theorem Chip.writeNew_of_fits {c : Chip} {r : Rec} (ht : r.typ ≠ 2) (hfit : c.rn (halfEnd c.recHalf) + (16 + r.payload.length) ≤ 262144) :
    c.writeNew r = c.appended r := by
  have hroom : ¬ c.rn (halfEnd c.recHalf) + HeldRec.size ⟨r.typ, r.src, r.stamp, r.payload, 0, 0, 0⟩ > halfSize := Nat.not_lt.2 hfit
  unfold Chip.writeNew
  rw [if_neg ht]
  dsimp only
  rw [if_neg hroom]
  rfl

theorem Chip.writeRec_of_new {c : Chip} {r : Rec} (h : ∀ x, c.lastRec = some x → foldable c.flood x r = false) :
    c.writeRec r = c.writeNew r := by
  unfold Chip.writeRec
  cases hlast : c.lastRec with
  | none => rfl
  | some x =>
    dsimp only
    rw [if_neg (by rw [h x hlast]; decide)]

theorem Chip.reg_appended_ne (c : Chip) (r : Rec) {a : Nat} (hno : a ≠ R.SCV_REC_NO) (hend : a ≠ halfEnd c.recHalf) :
    (c.appended r).reg a = c.reg a := by
  rw [Chip.appended, Chip.reg_setN_ne _ _ hend, Chip.reg_setN_ne _ _ hno, Chip.reg_setHalf]

theorem recNo_ne_halfEnd (b : Bool) : R.SCV_REC_NO ≠ halfEnd b := by cases b <;> decide
theorem fold_ne_halfEnd (b : Bool) : R.SCV_FOLD ≠ halfEnd b := by cases b <;> decide

theorem Chip.reg_appended_recNo (c : Chip) (r : Rec) : (c.appended r).reg R.SCV_REC_NO = c.reg R.SCV_REC_NO + 1 := by
  rw [Chip.appended, Chip.reg_setN_ne _ _ (recNo_ne_halfEnd _)]
  exact (Chip.reg_addCnt_one (c.setHalf c.recHalf _) R.SCV_REC_NO)

theorem Chip.rn_appended_halfEnd {c : Chip} {r : Rec} (hfit : c.rn (halfEnd c.recHalf) + (16 + r.payload.length) ≤ 262144) :
    (c.appended r).rn (halfEnd c.recHalf) = c.rn (halfEnd c.recHalf) + (16 + r.payload.length) := by
  rw [Chip.appended, Chip.rn_setN, Nat.mod_eq_of_lt (Nat.lt_of_le_of_lt hfit (by decide))]

theorem Chip.half_appended (c : Chip) (r : Rec) :
    ((c.appended r).half c.recHalf).recs = (c.half c.recHalf).recs ++ [r.held (c.rn R.SCV_REC_NO + 1)] := by
  rw [Chip.appended, Chip.half_of_scv ((Chip.setN_scv _ _ _).trans (Chip.setN_scv _ _ _)), Chip.half_setHalf]

theorem Chip.appended_keeps (c : Chip) (r : Rec) : (c.appended r).scv.queue = c.scv.queue ∧ (c.appended r).scv.lossDue = c.scv.lossDue ∧
    (c.appended r).fatal = c.fatal ∧ (c.appended r).resetReq = c.resetReq := by
  rw [Chip.appended, Chip.setN_scv, Chip.setN_scv, Chip.setN_fatal, Chip.setN_fatal, Chip.setN_resetReq, Chip.setN_resetReq]
  exact ⟨(c.setHalf_scv _ _).1, (c.setHalf_scv _ _).2, rfl, rfl⟩

theorem completes_scrivenerWrite_new {s : State} {r : Rec} {l : List Rec} (h : s.chip.atWork = true) (hq : s.chip.scv.queue = r :: l)
    (ht : r.typ ≠ 2) (hloss : s.chip.scv.lossDue = false) (hnew : ∀ x, s.chip.lastRec = some x → foldable s.chip.flood x r = false)
    (hfit : s.chip.rn (halfEnd s.chip.recHalf) + (16 + r.payload.length) ≤ 262144) :
    Completes (.scrivenerWrite none) s (fun c => c.scv.queue = l ∧ c.reg R.SCV_REC_NO = s.chip.reg R.SCV_REC_NO + 1 ∧
      (c.half s.chip.recHalf).recs = (s.chip.half s.chip.recHalf).recs ++
        [⟨r.typ, r.src, r.stamp, r.payload, (s.chip.rn R.SCV_REC_NO + 1), 0, 0⟩] ∧
      c.rn (halfEnd s.chip.recHalf) = s.chip.rn (halfEnd s.chip.recHalf) + (16 + r.payload.length) ∧
      (∀ a, a ≠ R.SCV_REC_NO → a ≠ halfEnd s.chip.recHalf → c.reg a = s.chip.reg a)) := by
  obtain ⟨hqueue, hdue, hfatal, hreset⟩ := (s.chip.queueLeft l).appended_keeps r
  have hexec := State.act_of_atWork (i := .scrivenerWrite none) h rfl (doScrivenerWrite none)
  rw [doScrivenerWrite_queued hq (Chip.fatal_of_atWork h), Chip.writeRec_of_new (c := s.chip.queueLeft l) hnew, Chip.writeNew_of_fits (c := s.chip.queueLeft l) ht hfit,
    Chip.lossNote_of_not_due (hdue.trans hloss)] at hexec
  exact .of_exec hexec (hfatal.trans (Chip.fatal_of_atWork (c := s.chip) h)) (hreset.trans (Chip.resetReq_of_atWork (c := s.chip) h))
    ⟨hqueue, Chip.reg_appended_recNo _ _, Chip.half_appended _ _, Chip.rn_appended_halfEnd hfit, fun _ hno hend => Chip.reg_appended_ne _ _ hno hend⟩

/-! ### Folding -/

/-- What the recording half is after an occurrence has been folded into its last record. -/
def Chip.folded (c : Chip) (x : HeldRec) (r : Rec) : Chip :=
  ((c.setHalf c.recHalf { c.half c.recHalf with recs := (c.half c.recHalf).recs.dropLast ++ [{ x with rpt := x.rpt + 1, last := r.stamp }] }).setN
    (halfEnd c.recHalf) (c.rn (halfEnd c.recHalf) + (if x.rpt = 0 then 16 else 0))).addCnt R.SCV_FOLD 1

theorem Chip.foldInto_of_fits {c : Chip} {x : HeldRec} (r : Rec) (hx : x.rpt < 0xffffff) (hfit : c.rn (halfEnd c.recHalf) + 16 ≤ 262144) :
    c.foldInto x r = some (c.folded x r) := by
  have hgrow : (if x.rpt = 0 then 16 else 0) ≤ 16 := by split <;> omega
  have hroom : ¬ c.rn (halfEnd c.recHalf) + (if x.rpt = 0 then 16 else 0) > halfSize :=
    Nat.not_lt.2 (le_trans (Nat.add_le_add_left hgrow _) hfit)
  unfold Chip.foldInto
  dsimp only
  rw [if_neg (not_or.2 ⟨Nat.ne_of_lt hx, hroom⟩)]
  rfl

theorem Chip.writeRec_of_foldable {c : Chip} {x : HeldRec} {r : Rec} (hlast : c.lastRec = some x) (hfold : foldable c.flood x r = true)
    (hx : x.rpt < 0xffffff) (hfit : c.rn (halfEnd c.recHalf) + 16 ≤ 262144) : c.writeRec r = c.folded x r := by
  unfold Chip.writeRec
  rw [hlast]
  dsimp only
  rw [if_pos hfold, Chip.foldInto_of_fits r hx hfit]
  rfl

theorem Chip.folded_keeps (c : Chip) (x : HeldRec) (r : Rec) : (c.folded x r).scv.queue = c.scv.queue ∧
    (c.folded x r).scv.lossDue = c.scv.lossDue ∧ (c.folded x r).fatal = c.fatal ∧ (c.folded x r).resetReq = c.resetReq := by
  rw [Chip.folded, Chip.addCnt_scv, Chip.setN_scv, Chip.addCnt_fatal, Chip.setN_fatal, Chip.addCnt_resetReq, Chip.setN_resetReq]
  exact ⟨(c.setHalf_scv _ _).1, (c.setHalf_scv _ _).2, rfl, rfl⟩

theorem Chip.half_folded (c : Chip) (x : HeldRec) (r : Rec) :
    ((c.folded x r).half c.recHalf).recs = (c.half c.recHalf).recs.dropLast ++ [{ x with rpt := x.rpt + 1, last := r.stamp }] := by
  rw [Chip.folded, Chip.half_of_scv ((Chip.addCnt_scv _ _ _).trans (Chip.setN_scv _ _ _)), Chip.half_setHalf]

theorem completes_scrivenerWrite_fold {s : State} {r : Rec} {l : List Rec} {x : HeldRec} {z : List HeldRec} (h : s.chip.atWork = true)
    (hq : s.chip.scv.queue = r :: l) (hloss : s.chip.scv.lossDue = false) (hrecs : (s.chip.half s.chip.recHalf).recs = z ++ [x])
    (hfold : foldable s.chip.flood x r = true) (hx : x.rpt < 0xffffff) (hfit : s.chip.rn (halfEnd s.chip.recHalf) + 16 ≤ 262144) :
    Completes (.scrivenerWrite none) s (fun c => c.scv.queue = l ∧ c.reg R.SCV_REC_NO = s.chip.reg R.SCV_REC_NO ∧
      (c.half s.chip.recHalf).recs = z ++ [{ x with rpt := x.rpt + 1, last := r.stamp }] ∧
      c.reg R.SCV_FOLD = s.chip.reg R.SCV_FOLD + 1) := by
  have hlast : (s.chip.queueLeft l).lastRec = some x := by
    rw [Chip.lastRec_queueLeft, Chip.lastRec, hrecs, List.getLast?_concat]
  obtain ⟨hqueue, hdue, hfatal, hreset⟩ := (s.chip.queueLeft l).folded_keeps x r
  have hexec := State.act_of_atWork (i := .scrivenerWrite none) h rfl (doScrivenerWrite none)
  rw [doScrivenerWrite_queued hq (Chip.fatal_of_atWork h), Chip.writeRec_of_foldable (c := s.chip.queueLeft l) hlast hfold hx hfit,
    Chip.lossNote_of_not_due (hdue.trans hloss)] at hexec
  refine .of_exec hexec (hfatal.trans (Chip.fatal_of_atWork (c := s.chip) h)) (hreset.trans (Chip.resetReq_of_atWork (c := s.chip) h))
    ⟨hqueue, ?_, ?_, ?_⟩
  · rw [Chip.folded, Chip.reg_addCnt_ne _ _ (by decide), Chip.reg_setN_ne _ _ (recNo_ne_halfEnd _), Chip.reg_setHalf, Chip.reg_queueLeft]
  · have hhalf := (s.chip.queueLeft l).half_folded x r
    rw [Chip.recHalf_queueLeft, Chip.half_queueLeft, hrecs, List.dropLast_concat] at hhalf
    exact hhalf
  · rw [Chip.folded, Chip.reg_addCnt_one, Chip.reg_setN_ne _ _ (fold_ne_halfEnd _), Chip.reg_setHalf, Chip.reg_queueLeft]

/-! ### EVT_RAISE -/

/-- Raising an event of the software's source sets its bit, and keeps the others. -/
theorem Chip.bit_rn_raise_soft (c : Chip) {b j : Nat} (hb : b < 24) (hj : j < 24) :
    bit ((c.raise (63, b)).rn (R.EVT_STAT 63)) j = if j = b then true else bit (c.rn (R.EVT_STAT 63)) j := by
  rw [← c.bit_rn_setEvent 63 hb hj]
  unfold Chip.raise
  dsimp only
  split
  · rw [Chip.rn_congr (Chip.reg_record_ne _ _ _ _ _ (by decide) (by decide) (by decide))]
  · rfl

theorem Chip.bit_rn_raises {l : List Nat} (hl : ∀ b ∈ l, b < 24) (c : Chip) {j : Nat} (hj : j < 24)
    (h : j ∈ l ∨ bit (c.rn (R.EVT_STAT 63)) j = true) :
    bit ((l.foldl (fun c b => c.raise (63, b)) c).rn (R.EVT_STAT 63)) j = true := by
  induction l generalizing c with
  | nil => exact h.resolve_left List.not_mem_nil
  | cons b l ih =>
    rw [List.foldl_cons]
    refine ih (fun x hx => hl x (List.mem_cons_of_mem b hx)) _ ?_
    rw [c.bit_rn_raise_soft (hl b List.mem_cons_self) hj]
    by_cases hjb : j = b
    · exact Or.inr (if_pos hjb)
    · rw [if_neg hjb]
      exact h.imp_left (fun hmem => (List.mem_cons.1 hmem).resolve_left hjb)

/-- What an accepted EVT_RAISE makes of the engine. -/
def Chip.raised (c : Chip) (m : Nat) : Chip :=
  { (maskList 24 m).foldl (fun c b => c.raise (63, b)) ((c.setN R.EVT_RAISE 0).setFld R.EVT_CMDSTAT reasonFld 0) with lastReason := 0 }

theorem Chip.reg_raised (c : Chip) (m a : Nat) : (c.raised m).reg a =
    ((maskList 24 m).foldl (fun c b => c.raise (63, b)) ((c.setN R.EVT_RAISE 0).setFld R.EVT_CMDSTAT reasonFld 0)).reg a := rfl

theorem doEvtRaise_of_pending {c : Chip} (hsafe : c.inSafe = false) (hm : c.rn R.EVT_RAISE ≠ 0) : doEvtRaise c = c.raised (c.rn R.EVT_RAISE) := by
  unfold doEvtRaise
  dsimp only
  rw [if_neg hm, if_neg (by rw [hsafe]; decide)]
  rfl

theorem Chip.raised_keeps (c : Chip) (m : Nat) : (c.raised m).fatal = c.fatal ∧ (c.raised m).resetReq = c.resetReq :=
  ⟨(Chip.foldl_keeps Chip.fatal (fun d b _ => Chip.raise_fatal d (63, b)) _).trans
      ((Chip.setFld_fatal _ _ _ _).trans (Chip.setN_fatal _ _ _)),
    (Chip.foldl_keeps Chip.resetReq (fun d b _ => Chip.raise_resetReq d (63, b)) _).trans
      ((Chip.setFld_resetReq _ _ _ _).trans (Chip.setN_resetReq _ _ _))⟩

theorem evtRaise_notMem {b : Nat} : R.EVT_RAISE ∉ eventRegs (63, b) := by
  change R.EVT_RAISE ∉ [R.EVT_STAT 63, R.EVT_STAT 0, R.SCV_REFUSED, R.SCV_LOST]
  decide

theorem Chip.reg_raised_evtRaise (c : Chip) (m : Nat) : (c.raised m).reg R.EVT_RAISE = 0 := by
  rw [Chip.reg_raised, Chip.foldl_keeps (fun d => d.reg R.EVT_RAISE) (fun d b _ => Chip.reg_raise_ne d (63, b) evtRaise_notMem),
    Chip.reg_setFld_ne _ _ _ (by decide)]
  exact Chip.reg_setReg c _ _

theorem completes_evtRaise {s : State} (h : s.chip.atWork = true) (hm : s.chip.rn R.EVT_RAISE ≠ 0) :
    Completes .evtRaise s (fun c => c.reg R.EVT_RAISE = 0 ∧
      (∀ b, b < 24 → bit (s.chip.rn R.EVT_RAISE) b = true → bit (c.rn (R.EVT_STAT 63)) b = true)) := by
  have hexec := State.act_of_atWork (i := .evtRaise) h rfl doEvtRaise
  rw [doEvtRaise_of_pending (Chip.inSafe_of_atWork h) hm] at hexec
  obtain ⟨hfatal, hreset⟩ := s.chip.raised_keeps (s.chip.rn R.EVT_RAISE)
  refine .of_exec hexec (hfatal.trans (Chip.fatal_of_atWork h)) (hreset.trans (Chip.resetReq_of_atWork h))
    ⟨Chip.reg_raised_evtRaise _ _, fun b hb hbit => ?_⟩
  rw [Chip.rn_congr (Chip.reg_raised _ _ _)]
  exact Chip.bit_rn_raises (fun x hx => (mem_maskList.1 hx).1) _ hb (.inl (mem_maskList.2 ⟨hb, hbit⟩))

/-- Settles O50: the record leaves the queue for the end of the recording half or into its last record; each pending bit is raised. -/
theorem scrivenerWrites : Obligations.ScrivenerWrites :=
  ⟨fun _ _ _ h hq ht hloss hnew hfit => completes_scrivenerWrite_new h hq ht hloss hnew hfit,
    fun _ _ _ _ _ h hq hloss hrecs hfold hx hfit => completes_scrivenerWrite_fold h hq hloss hrecs hfold hx hfit,
    fun _ h hm => completes_evtRaise h hm⟩

end Sys2Proof.Machine
end

section
/-! The records of the configuration image as the Steward applies them in stage 7 (R402, R407). -/

namespace Sys2Proof.Machine

section
variable {c : Chip}

theorem Chip.starting_of_inStart {k : Nat} (h : c.inStart k = true) : c.starting k = true := by
  simp only [Chip.inStart, Bool.and_eq_true] at h
  exact h.1.2

theorem Chip.marchFailed_of_inRecords (h : c.inRecords = true) : c.marchFailed = 0 := by
  simp only [Chip.inRecords, Bool.and_eq_true, decide_eq_true_eq] at h
  exact h.2

/-- Among the records the next one of the image applies. -/
theorem Chip.applies_of_inRecords {r : ImgRec} (h : c.inRecords = true) (hr : c.recIs r = true) : c.applies r = true := by
  have hstart := Chip.starting_of_inStart (Chip.inStart_of_inRecords h)
  simp only [Chip.inRecords, Bool.and_eq_true] at h
  obtain ⟨⟨-, hwait⟩, -⟩ := h
  simp only [Chip.applies, hstart, hwait, hr, Bool.and_self]

/-- A record that has been taken moves the place in the image only. -/
theorem Chip.recTaken_shape (c : Chip) : ∃ b, c.recTaken = { c with boot := b } := by
  unfold Chip.recTaken
  dsimp only
  split <;> exact ⟨_, rfl⟩

theorem Chip.quiet_recTaken (h : c.quiet = true) : c.recTaken.quiet = true := by
  obtain ⟨b, hb⟩ := c.recTaken_shape
  rw [hb]
  exact h

end

/-- The Steward's pair, with nothing pending, takes a cycle and its value applies. -/
theorem Chip.busPair_of_quiet {c : Chip} {a : Nat} (h : c.quiet = true) (hg : isGuarded a = true) (v : Word) (b : Bool) :
    c.busPair .steward a v b = (c.writing.pass 1).pairDone .steward a v.toNat b := by
  have hq : c.writing.quiet = true := h
  rw [Chip.busPair, if_pos hg]
  change (if c.writing.mayWrite .steward a then
    ((((c.writing.setGuard .steward none)).pairBroken .steward (c.writing.guardOf .steward) a).pass 1).pairDone .steward a v.toNat b
    else c.writing) = _
  rw [if_pos (show c.writing.mayWrite .steward a = true from rfl), Chip.setGuard_none_of_quiet hq, Chip.guardOf_of_quiet hq,
    Chip.pairBroken_none]

/-! ### One record after another -/

section
variable {s : State}

/-- A record among the others: the command that applies it has the effect it has where the record applies. -/
theorem exec_of_applies {i : Instr} {r : ImgRec} {f g : Chip → Chip} (h : s.chip.inRecords = true) (hr : s.chip.recIs r = true)
    (hw : i.wf = true) (he : exec i s = s.act i f) (hf : s.chip.applies r = true → f s.chip = g s.chip) :
    exec i s = .next (s.after (g s.chip)) := by
  rw [he, State.act_of_quiet (Chip.quiet_of_inRecords h) hw, hf (Chip.applies_of_inRecords h hr)]

theorem exec_imgWrite {a : Nat} {vs : List Word} (h : s.chip.inRecords = true) (hr : s.chip.recIs (.write a vs) = true)
    (hw : (Instr.imgWrite a vs).wf = true) (ha : (ImgRec.write a vs).badAddress = false) :
    exec (.imgWrite a vs) s = .next (s.after (s.chip.recTaken.busWrites .steward a vs)) :=
  exec_of_applies (g := fun c => c.recTaken.busWrites .steward a vs) h hr hw rfl (fun happ => by
    rw [doImgWrite, happ, ha, if_pos (by decide)])

theorem gwriteMay_and_wf {a : Nat} (ha : a ∈ [R.GLB_PROFILE, R.GLB_CFG_LOCK, R.EPC_SET_H, R.CLK_SRC, R.MCX_TRN_COMMIT, R.PWR_FORCE]) :
    gwriteMay a = true ∧ isGuarded a = true ∧ regWf a = true := by
  revert a
  decide

theorem exec_imgGwrite {a : Nat} (v : Word) (h : s.chip.inRecords = true) (hr : s.chip.recIs (.gwrite a v) = true)
    (ha : a ∈ [R.GLB_PROFILE, R.GLB_CFG_LOCK, R.EPC_SET_H, R.CLK_SRC, R.MCX_TRN_COMMIT, R.PWR_FORCE]) :
    exec (.imgGwrite a v) s = .next (s.after ((s.chip.recTaken.writing.pass 1).pairDone .steward a v.toNat true)) := by
  obtain ⟨hmay, hguarded, hwf⟩ := gwriteMay_and_wf ha
  exact exec_of_applies (g := fun c => (c.recTaken.writing.pass 1).pairDone .steward a v.toNat true) h hr hwf rfl (fun happ => by
    rw [doImgGwrite, happ, hmay, if_pos (by decide), Chip.busPair_of_quiet (Chip.quiet_recTaken (Chip.quiet_of_inRecords h)) hguarded])

theorem exec_imgFence (h : s.chip.inRecords = true) (hr : s.chip.recIs .fence = true) :
    exec .imgFence s = .next (s.after s.chip.recTaken) :=
  exec_of_applies (g := Chip.recTaken) h hr rfl rfl (fun happ => if_pos happ)

theorem exec_imgBlob_firmware {k t : Nat} {vs : List Word} (hk : k = 1 ∨ k = 2) (h : s.chip.inStart k = true) (ht : t < 256)
    (hlen : s.chip.fwLen < 4294967296) (hr : s.chip.recIs (.blob 1 t s.chip.fwLen vs) = true) :
    exec (.imgBlob 1 t s.chip.fwLen vs) s = .next (s.after
      { s.chip.recTaken with boot := { s.chip.recTaken.boot with fw := s.chip.boot.fw ++ vs } }) := by
  have hwf : (Instr.imgBlob 1 t s.chip.fwLen vs).wf = true := by simp [Instr.wf, ht, hlen]
  have hstage : (s.chip.starting 1 || s.chip.starting 2) = true := by
    have hstart := Chip.starting_of_inStart h
    rcases hk with rfl | rfl <;> simp [hstart]
  rw [show exec (.imgBlob 1 t s.chip.fwLen vs) s = s.act _ (doImgBlob 1 t s.chip.fwLen vs) from rfl,
    State.act_of_quiet (Chip.quiet_of_inStart h) hwf, doImgBlob, if_pos rfl, hstage, hr, if_pos (by simp)]

theorem exec_imgBlob_program {t o : Nat} {vs : List Word} (h : s.chip.inRecords = true) (hr : s.chip.recIs (.blob 2 t o vs) = true)
    (ht : t < 16) (ho : o % 4 = 0) (hlen : o + 4 * vs.length ≤ 0x1400) :
    exec (.imgBlob 2 t o vs) s = .next (s.after (s.chip.recTaken.busWrites .steward (R.SQ_CTRL t + o) vs)) := by
  have hwf : (Instr.imgBlob 2 t o vs).wf = true := by
    simp only [Instr.wf, Bool.and_eq_true, decide_eq_true_eq]
    omega
  have hok : (ImgRec.blob 2 t o vs).badAddress = false := by
    simp only [ImgRec.badAddress, Bool.and_eq_false_iff, Bool.or_eq_false_iff, decide_eq_false_iff_not]
    omega
  exact exec_of_applies (g := fun c => c.recTaken.busWrites .steward (R.SQ_CTRL t + o) vs) h hr hwf rfl (fun happ => by
    rw [doImgBlob, if_neg (by decide), happ, hok, if_pos (by decide)])

theorem exec_imgWait {a t : Nat} {m v : Word} (h : s.chip.inRecords = true) (hr : s.chip.recIs (.wait a m v t) = true) (ha : a < 0x800000)
    (ht : t ≤ 500000) :
    exec (.imgWait a m v t) s = .next (s.after { s.chip.recTaken with boot := { s.chip.recTaken.boot with
      wait := some ⟨a, m, v, s.chip.boot.recAt, s.chip.epc.line + t * micro⟩ } }) := by
  have hwf : (Instr.imgWait a m v t).wf = true := decide_eq_true (show a < 16777216 by omega)
  rw [show exec (.imgWait a m v t) s = s.act _ (doImgWait a m v t) from rfl, State.act_of_quiet (Chip.quiet_of_inRecords h) hwf, doImgWait,
    Chip.applies_of_inRecords h hr, decide_eq_true ht, decide_eq_true ha, if_pos (by decide)]

theorem exec_imgWaitMet {w : WaitRec} (h : s.chip.inStart 7 = true) (hw : s.chip.boot.wait = some w) (hmet : s.chip.waitMet w = true) :
    exec .imgWaitMet s = .next (s.after (s.chip.waitEnd w)) := by
  rw [show exec .imgWaitMet s = s.act _ doImgWaitMet from rfl, State.act_of_quiet (Chip.quiet_of_inStart h) rfl, doImgWaitMet, hw]
  dsimp only
  rw [Chip.starting_of_inStart h, hmet, if_pos (by decide)]

/-- With no failed bank a FILL is carried out as it is taken. -/
theorem exec_imgFill {a n : Nat} {b : Bool} {vs : List DWord} (h : s.chip.inRecords = true) (hr : s.chip.recIs (.fill a n b vs) = true)
    (ha : a < 4194304) (hn : a + n ≤ 4194304) :
    exec (.imgFill a n b vs) s = .next (s.after (s.chip.recTaken.cstWriteList 18 a (fillWords n b vs))) := by
  have hwf : (Instr.imgFill a n b vs).wf = true := by
    simp only [Instr.wf, Bool.and_eq_true, decide_eq_true_eq]
    omega
  exact exec_of_applies (g := fun c => c.recTaken.cstWriteList 18 a (fillWords n b vs)) h hr hwf rfl (fun happ => by
    rw [doImgFill, happ, decide_eq_true hn, if_pos (by decide), if_pos (Chip.marchFailed_of_inRecords h)])

theorem exec_imgSched {k : Nat} {vs : List DWord} (h : s.chip.inRecords = true) (hr : s.chip.recIs (.sched k vs) = true) (hk : k < 256)
    (hlen : vs.length = 6) : exec (.imgSched k vs) s = .next (s.after (s.chip.recTaken.cstWriteList 18 (s.chip.schWord k) vs)) := by
  have hwf : (Instr.imgSched k vs).wf = true := by
    simp only [Instr.wf, Bool.and_eq_true, decide_eq_true_eq]
    omega
  exact exec_of_applies (g := fun c => c.recTaken.cstWriteList 18 (c.schWord k) vs) h hr hwf rfl (fun happ => by
    rw [doImgSched, if_pos happ, if_pos (Chip.marchFailed_of_inRecords h)])

end

/-- Settles O14: a record that is next among the records is taken, and the command then does what its CODE says. -/
theorem imageRecords : Obligations.ImageRecords :=
  ⟨fun _ _ _ h hr hw ha => exec_imgWrite h hr hw ha, fun _ _ v h hr ha => exec_imgGwrite v h hr ha, fun _ h hr => exec_imgFence h hr,
    fun _ _ _ _ hk h ht hlen hr => exec_imgBlob_firmware hk h ht hlen hr, fun _ _ _ _ h hr ht ho hlen => exec_imgBlob_program h hr ht ho hlen,
    fun _ _ _ _ _ h hr ha ht => exec_imgWait h hr ha ht, fun _ _ h hw hmet => exec_imgWaitMet h hw hmet,
    fun _ _ _ _ h hr ha hn => exec_imgFill h hr ha hn, fun _ _ _ _ h hr ha hn => exec_imgFill h hr ha hn,
    fun _ _ _ h hr hk hlen => exec_imgSched h hr hk hlen⟩

end Sys2Proof.Machine
end

section
/-! The DMA engine: its commands, the pop of a descriptor, and the end of a stream (R247 to R250). -/

namespace Sys2Proof.Machine

/-! ### A release from the engine's own queue -/

/-- A segment whose descriptor is released is noted in its partition only. -/
theorem Chip.segReleased_shape (c : Chip) (p k n : Nat) : ∃ l, c.segReleased p k n = { c with parts := l } := by
  unfold Chip.segReleased
  dsimp only
  split
  · exact ⟨_, rfl⟩
  · split
    · exact ⟨_, rfl⟩
    · exact ⟨_, rfl⟩

/-- What a release from queue 0 changes: its count and stall flag, the pool, the segment's partition and the notes of the last write. -/
def Chip.ReleaseOnly (c d : Chip) : Prop :=
  (∃ r m l x k, d = { c with regs := r, car := m, parts := l, dropped := x, lastReason := k }) ∧
    c.keepsRegs d [R.CAR_Q_STAT 0, R.CAR_Q_RELEASED 0]

/-- Queue 0 is no streamer's. -/
theorem Chip.outstDrop_zero (c : Chip) (h : Nat) : c.outstDrop 0 h = c := by
  unfold Chip.outstDrop
  dsimp only
  rw [if_neg (fun hq => absurd hq.1 (by decide))]

theorem Chip.ReleaseOnly.of_release (c : Chip) (h : Nat) : c.ReleaseOnly (c.carRelease 0 h) := by
  unfold Chip.carRelease
  split
  · exact ⟨⟨_, _, _, _, _, rfl⟩, fun _ _ => rfl⟩
  · rename_i e _
    dsimp only
    rw [Chip.outstDrop_zero]
    generalize hm : ({ c.car with entries := c.car.entries.filter (fun x => decide (x.index ≠ e.index)) } : Car) = m
    obtain ⟨t, ⟨r, x, k, hshape⟩, hregs⟩ := (({ c with car := m } : Chip).addCnt (R.CAR_Q_RELEASED 0) 1).carTimer_regsOnly 0 false
    generalize ((({ c with car := m } : Chip).addCnt (R.CAR_Q_RELEASED 0) 1).carTimer 0 false) = d at hshape hregs ⊢
    have hkept : c.ReleaseOnly d := by
      refine ⟨⟨_, _, _, _, _, hshape⟩, fun a ha => (hregs a (fun hs => ha (List.mem_cons.2 (.inl (List.mem_singleton.1 hs))))).trans ?_⟩
      exact Chip.reg_addCnt_ne _ _ (fun hr => ha (hr ▸ List.mem_cons_of_mem _ List.mem_cons_self))
    split
    · obtain ⟨l, hl⟩ := d.segReleased_shape e.part e.slot e.segNo
      rw [hl]
      obtain ⟨⟨_, _, _, _, _, rfl⟩, hd⟩ := hkept
      exact ⟨⟨_, _, _, _, _, rfl⟩, hd⟩
    · exact hkept

section
variable {c d : Chip}

theorem Chip.ReleaseOnly.keeps (h : c.ReleaseOnly d) : d.dma = c.dma ∧ d.out = c.out ∧ d.mc = c.mc ∧ d.fatal = c.fatal ∧
    d.resetReq = c.resetReq := by
  obtain ⟨⟨_, _, _, _, _, rfl⟩, -⟩ := h
  exact ⟨rfl, rfl, rfl, rfl, rfl⟩

end

/-! ### The end of a stream (R249) -/

/-- The completion entry of a stream written, its last byte apart, and the engine without a stream. -/
def Chip.dmaClosed (c : Chip) (d : DmaStream) : Chip :=
  { (c.emit (.hostWrite (c.dma.cplBase + 32 * (c.rn R.HIF_DMA_CPL_PI % 2 ^ c.dma.csz)) false d.entry)).emit
      (.hostWrite (c.dma.cplBase + 32 * (c.rn R.HIF_DMA_CPL_PI % 2 ^ c.dma.csz) + 31) false [if c.dma.phase then 1 else 0]) with
    dma := { c.dma with stream := none, phase := c.dma.phase != decide ((c.rn R.HIF_DMA_CPL_PI + 1) % 2 ^ c.dma.csz = 0) } }

section
variable (c : Chip) (d : DmaStream)

theorem Chip.reg_dmaClosed (a : Nat) : (c.dmaClosed d).reg a = c.reg a := rfl
theorem Chip.dmaClosed_fatal : (c.dmaClosed d).fatal = c.fatal := rfl
theorem Chip.dmaClosed_resetReq : (c.dmaClosed d).resetReq = c.resetReq := rfl
theorem Chip.dmaClosed_mc : (c.dmaClosed d).mc = c.mc := rfl
theorem Chip.dmaClosed_stream : (c.dmaClosed d).dma.stream = none := rfl
theorem Chip.dmaClosed_phase :
    (c.dmaClosed d).dma.phase = (c.dma.phase != decide ((c.rn R.HIF_DMA_CPL_PI + 1) % 2 ^ c.dma.csz = 0)) := rfl
theorem Chip.dmaClosed_out : (c.dmaClosed d).out =
    .hostWrite (c.dma.cplBase + 32 * (c.rn R.HIF_DMA_CPL_PI % 2 ^ c.dma.csz) + 31) false [if c.dma.phase then 1 else 0] ::
      .hostWrite (c.dma.cplBase + 32 * (c.rn R.HIF_DMA_CPL_PI % 2 ^ c.dma.csz)) false d.entry :: c.out := rfl

/-- CPL_PI and the count of segments after a stream. -/
def Chip.dmaCounted : Chip :=
  ((c.dmaClosed d).setN R.HIF_DMA_CPL_PI ((c.rn R.HIF_DMA_CPL_PI + 1) % 65536)).addCnt R.HIF_DMA_SEGS 1

theorem Chip.dmaCounted_keeps : (c.dmaCounted d).dma = (c.dmaClosed d).dma ∧ (c.dmaCounted d).out = (c.dmaClosed d).out ∧
    (c.dmaCounted d).mc = c.mc ∧ (c.dmaCounted d).fatal = c.fatal ∧ (c.dmaCounted d).resetReq = c.resetReq := by
  simp only [Chip.dmaCounted, Chip.addCnt_dma, Chip.setN_dma, Chip.addCnt_out, Chip.setN_out, Chip.addCnt_mc, Chip.setN_mc, Chip.addCnt_fatal,
    Chip.setN_fatal, Chip.addCnt_resetReq, Chip.setN_resetReq, Chip.dmaClosed_mc, Chip.dmaClosed_fatal, Chip.dmaClosed_resetReq, and_self]

theorem Chip.rn_dmaCounted_pi : (c.dmaCounted d).rn R.HIF_DMA_CPL_PI = (c.rn R.HIF_DMA_CPL_PI + 1) % 65536 := by
  rw [Chip.dmaCounted, Chip.rn_congr (Chip.reg_addCnt_ne _ _ (by decide)), Chip.rn_setN,
    Nat.mod_eq_of_lt (lt_trans (Nat.mod_lt _ (by decide)) (by decide))]

theorem Chip.reg_dmaCounted_segs : (c.dmaCounted d).reg R.HIF_DMA_SEGS = c.reg R.HIF_DMA_SEGS + 1 := by
  rw [Chip.dmaCounted, Chip.reg_addCnt_one, Chip.reg_setN_ne _ _ (by decide), Chip.reg_dmaClosed]

end

theorem Chip.raise_out (c : Chip) (e : Nat × Nat) : (c.raise e).out = c.out := by
  obtain ⟨_, _, _, h⟩ := Chip.EventsOnly.raise c e
  rw [h]

theorem doDmaStreamComplete_of_written {c : Chip} {d : DmaStream} (hruns : c.dmaRuns = true) (hd3 : c.pcie.d3hot = false)
    (hstream : c.dma.stream = some d) (hrest : d.rest = []) :
    doDmaStreamComplete c = ((c.dmaCounted d).carRelease 0 d.handle).raise Ev.dmaCpl := by
  unfold doDmaStreamComplete
  rw [hstream]
  dsimp only
  rw [hruns, hd3, hrest, if_pos (by decide)]
  rfl

theorem Chip.d3hot_of_atWork {c : Chip} (h : c.atWork = true) : c.pcie.d3hot = false := by
  obtain ⟨-, -, -, -, -, -, -, -, hd⟩ := (Chip.quiet_iff c).1 (Chip.quiet_of_atWork h)
  exact hd

theorem completes_dmaStreamComplete {s : State} {d : DmaStream} (h : s.chip.atWork = true) (hruns : s.chip.dmaRuns = true)
    (hstream : s.chip.dma.stream = some d) (hrest : d.rest = []) :
    Completes .dmaStreamComplete s (fun c => c.dma.stream = none ∧
      c.out = .hostWrite (s.chip.dma.cplBase + 32 * (s.chip.rn R.HIF_DMA_CPL_PI % 2 ^ s.chip.dma.csz) + 31) false
          [if s.chip.dma.phase then 1 else 0] ::
        .hostWrite (s.chip.dma.cplBase + 32 * (s.chip.rn R.HIF_DMA_CPL_PI % 2 ^ s.chip.dma.csz)) false d.entry :: s.chip.out ∧
      c.rn R.HIF_DMA_CPL_PI = (s.chip.rn R.HIF_DMA_CPL_PI + 1) % 65536 ∧ c.reg R.HIF_DMA_SEGS = s.chip.reg R.HIF_DMA_SEGS + 1 ∧
      bit (c.rn (R.EVT_STAT 5)) 4 = true ∧
      c.dma.phase = (s.chip.dma.phase != decide ((s.chip.rn R.HIF_DMA_CPL_PI + 1) % 2 ^ s.chip.dma.csz = 0)) ∧ c.mc = s.chip.mc) := by
  have hexec := State.act_of_atWork (i := .dmaStreamComplete) h rfl doDmaStreamComplete
  rw [doDmaStreamComplete_of_written hruns (Chip.d3hot_of_atWork h) hstream hrest] at hexec
  have hrel := Chip.ReleaseOnly.of_release (s.chip.dmaCounted d) d.handle
  obtain ⟨rdma, rout, rmc, rfatal, rreset⟩ := hrel.keeps
  obtain ⟨cdma, cout, cmc, cfatal, creset⟩ := s.chip.dmaCounted_keeps d
  refine .of_exec hexec ?_ ?_ ⟨?_, ?_, ?_, ?_, Chip.bit_rn_raise _ (by decide) (by decide) (by decide), ?_, ?_⟩
  · rw [Chip.raise_fatal, rfatal, cfatal, Chip.fatal_of_atWork h]
  · rw [Chip.raise_resetReq, rreset, creset, Chip.resetReq_of_atWork h]
  · rw [Chip.raise_dma, rdma, cdma, Chip.dmaClosed_stream]
  · rw [Chip.raise_out, rout, cout, Chip.dmaClosed_out]
  · rw [Chip.rn_congr (Chip.reg_raise_ne _ _ (by decide)), Chip.rn_congr (hrel.2 _ (by decide)), Chip.rn_dmaCounted_pi]
  · rw [Chip.reg_raise_ne _ _ (by decide), hrel.2 _ (by decide), Chip.reg_dmaCounted_segs]
  · rw [Chip.raise_dma, rdma, cdma, Chip.dmaClosed_phase]
  · rw [Chip.raise_mc, rmc, cmc]

/-! ### A descriptor taken (R248) -/

theorem Chip.arrive_of_ready {c : Chip} (h : c.mcState = 2) (req : Nat) : c.arrive req = (c, true) := by
  rw [Chip.arrive, Chip.arriveWith, Chip.dramArrive, h]
  rfl

theorem Chip.popArrive_of_ready {c : Chip} (h : c.mcState = 2) (req kind : Nat) : c.popArrive req kind = (c, true) := by
  rw [Chip.popArrive, Chip.arrive_of_ready h, ite_self]

/-- A pop of a queue with a head gives the head's handle and the bytes of its descriptor as they are read. -/
theorem Chip.carPop_snd {c : Chip} {q : Nat} {e : CarEntry} (h : c.carHead q = some e) : ∃ d, (c.carPop q).2 = some (e.handle, d, e) := by
  rw [Chip.carPop, h]
  exact ⟨_, rfl⟩

/-- The stream that the descriptor `d` of the entry `e` begins. -/
def Chip.dmaOpened (c : Chip) (e : CarEntry) (d : List Nat) : DmaStream :=
  let b := if (c.streamFor d).1 = 0 then (c.streamFor d).2 else []
  { handle := e.handle, desc := d, rest := b, total := b.length, nbuf := 0, status := (c.streamFor d).1
    firstBuf := if (c.streamFor d).1 = 0 then c.rn R.HIF_DMA_BUF_CI % 2 ^ c.dma.bsz else c.freeNow.toNat }

/-- The engine with that stream in progress. -/
def Chip.dmaOpen (c : Chip) (e : CarEntry) (d : List Nat) : Chip := { c with dma := { c.dma with stream := some (c.dmaOpened e d) } }

theorem doDmaDescriptorPop_of_open {c : Chip} {l : List (Nat × Nat)} {e : CarEntry} {d : List Nat}
    (hgo : (c.dmaRuns && c.engineOwns 0 && !c.pcie.d3hot && decide (c.ladder ≤ 1) && c.dma.stream.isNone && decide (0 < c.dmaPosted) &&
      c.dmaSlot && (c.carHead 0).isSome) = true) (hmc : c.mcState = 2) (hd : (c.carPop 0).2 = some (e.handle, d, e)) :
    doDmaDescriptorPop l c = (((c.carPop 0).1.dmaOpen e d).used).dmaWrite l := by
  unfold doDmaDescriptorPop
  rw [if_pos hgo, Chip.popArrive_of_ready hmc]
  change (match (c.carPop 0).2 with | none => _ | some (_, _, _) => _) = _
  rw [hd]
  rfl

theorem exec_dmaDescriptorPop {s : State} {l : List (Nat × Nat)} {e : CarEntry} {d : List Nat} (h : s.chip.atWork = true)
    (hl : l.all (fun b => decide (b.1 < 2 ^ 64) && decide (b.2 < 2 ^ 32)) = true) (hruns : s.chip.dmaRuns = true)
    (howns : s.chip.engineOwns 0 = true) (hstream : s.chip.dma.stream = none) (hposted : 0 < s.chip.dmaPosted) (hslot : s.chip.dmaSlot = true)
    (hhead : s.chip.carHead 0 = some e) (hmc : s.chip.mcState = 2) (hd : (s.chip.carPop 0).2 = some (e.handle, d, e)) :
    exec (.dmaDescriptorPop l) s = .next (s.after ((((s.chip.carPop 0).1.dmaOpen e d).used).dmaWrite l)) := by
  have hladder : decide (s.chip.ladder ≤ 1) = true := by rw [Chip.ladder_of_atWork h]; rfl
  have hexec := State.act_of_atWork (i := .dmaDescriptorPop l) h hl (doDmaDescriptorPop l)
  rw [doDmaDescriptorPop_of_open (by rw [hruns, howns, Chip.d3hot_of_atWork h, hladder, hstream, decide_eq_true hposted, hslot, hhead]; rfl)
    hmc hd] at hexec
  exact hexec

/-! ### Commands and registers -/

theorem exec_dmaBufferPost {s : State} (h : s.chip.atWork = true) {i : Init} (hi : i ≠ .sched) (n : Word) (l : List (Nat × Nat)) :
    exec (.dmaBufferPost i n l) s = .next (s.after (doDmaBufferPost n.toNat l s.chip.writing)) :=
  exec_of_asWrite (i := .dmaBufferPost i n l) h (decide_eq_true hi) rfl

theorem doDmaBufferPost_of_none {c : Chip} (h : c.dma.stream = none) (n : Nat) (l : List (Nat × Nat)) :
    doDmaBufferPost n l c = c.setN R.HIF_DMA_BUF_PI (n % 65536) := by
  unfold doDmaBufferPost
  dsimp only
  rw [Chip.setN_dma, h]

theorem doDmaBufferPost_of_some {c : Chip} {d : DmaStream} {n : Nat} {l : List (Nat × Nat)} (h : c.dma.stream = some d)
    (hd3 : c.pcie.d3hot = false) (hruns : (c.setN R.HIF_DMA_BUF_PI (n % 65536)).dmaRuns = true) (hrest : d.rest ≠ [])
    (hposted : 0 < (c.setN R.HIF_DMA_BUF_PI (n % 65536)).dmaPosted) :
    doDmaBufferPost n l c = (c.setN R.HIF_DMA_BUF_PI (n % 65536)).dmaWrite l := by
  have hopen : (!d.rest.isEmpty) = true := by rw [Bool.not_eq_true', List.isEmpty_eq_false_iff]; exact hrest
  unfold doDmaBufferPost
  dsimp only
  rw [Chip.setN_dma, h]
  dsimp only
  rw [Chip.setN_pcie, hruns, hd3, hopen, decide_eq_true hposted, if_pos (by decide)]

theorem exec_dmaStart {s : State} (h : s.chip.atWork = true) (i : Init) (hr : s.chip.dmaReason = 0) :
    exec (.dmaStart i) s = .next (s.after (s.chip.writing.accept dmaPort Chip.dmaBegin)) :=
  exec_of_command (i := .dmaStart i) h rfl rfl rfl (show s.chip.writing.dmaReason = 0 from hr) (Chip.inSafe_of_atWork h)

theorem exec_dmaStop {s : State} (h : s.chip.atWork = true) (i : Init) :
    exec (.dmaStop i) s = .next (s.after (s.chip.writing.accept dmaPort (fun c => c.dmaHalt false))) :=
  exec_of_command (i := .dmaStop i) h rfl rfl rfl rfl (Chip.inSafe_of_atWork h)

theorem exec_dmaCompletionFree {s : State} (h : s.chip.atWork = true) {i : Init} (hi : i ≠ .sched) (n : Word) :
    exec (.dmaCompletionFree i n) s = .next (s.after (s.chip.writing.setN R.HIF_DMA_CPL_CI (n.toNat % 65536))) := by
  have hexec := exec_of_asWrite (i := .dmaCompletionFree i n) (f := doDmaCompletionFree n.toNat) h (decide_eq_true hi) rfl
  rw [doDmaCompletionFree] at hexec
  exact hexec

/-- Settles O38: START and STOP are accepted; a pop finds the controller serving; the end of a stream writes the entry and releases it. -/
theorem dmaEngine : Obligations.DmaEngine := by
  refine ⟨fun s i h hr => exec_dmaStart h i hr, fun s i h => exec_dmaStop h i,
    fun s i n l h hi => ⟨fun hnone => ?_, fun d hsome hruns hrest hposted => ?_⟩, fun s i n h hi => exec_dmaCompletionFree h hi n,
    fun s l e h hl hruns howns hstream hposted hslot hhead hmc => ?_,
    fun s d h hruns hstream hrest => completes_dmaStreamComplete h hruns hstream hrest⟩
  · rw [exec_dmaBufferPost h hi, doDmaBufferPost_of_none (c := s.chip.writing) hnone]
  · rw [exec_dmaBufferPost h hi, doDmaBufferPost_of_some (c := s.chip.writing) hsome (Chip.d3hot_of_atWork h) hruns hrest hposted]
  · obtain ⟨d, hd⟩ := Chip.carPop_snd hhead
    exact ⟨d, hd, exec_dmaDescriptorPop h hl hruns howns hstream hposted hslot hhead hmc hd⟩

end Sys2Proof.Machine
end

section
/-! The streamers, the EVENT frames and the PCI Express link (R245, R260, R261, R264, R375). -/

namespace Sys2Proof.Machine

section
variable {s : State}

/-! ### Streamers -/

theorem exec_strStart (h : s.chip.atWork = true) (i : Init) {n : Nat} (hn : n < 4) (hr : s.chip.strReason n = 0) :
    exec (.strStart i n) s = .next (s.after (s.chip.writing.accept (strPort n) (fun c => c.strBegin n))) :=
  exec_of_command (i := .strStart i n) h (decide_eq_true hn) rfl rfl (show s.chip.writing.strReason n = 0 from hr) (Chip.inSafe_of_atWork h)

theorem exec_strStop (h : s.chip.atWork = true) (i : Init) {n : Nat} (hn : n < 4) :
    exec (.strStop i n) s = .next (s.after (s.chip.writing.accept (strPort n) (fun c => c.strHalt n))) :=
  exec_of_command (i := .strStop i n) h (decide_eq_true hn) rfl rfl rfl (Chip.inSafe_of_atWork h)

theorem Chip.ladderServes_of_atWork {c : Chip} (h : c.atWork = true) : decide (c.ladder ≤ 1) = true := by
  rw [Chip.ladder_of_atWork h]
  rfl

/-- The stream that a streamer begins with the entry `x` and its descriptor `d`. -/
def Chip.strOpened (c : Chip) (x : CarEntry) (d : List Nat) : StrStream :=
  { handle := x.handle, desc := d, bytes := (c.streamFor d).2, ofs := 0, rdlv := x.rdlv, segNo := leAt d 8 4,
    part := d.getD 12 0, slot := d.getD 13 0, kind := d.getD 15 0 }

/-- The port whose streamer has taken the entry `x`. -/
def Chip.strTook (c : Chip) (e : EthPort) (x : CarEntry) (d : List Nat) : EthPort :=
  { e with stream := if (c.streamFor d).1 = 1 then none else some (c.strOpened x d), outst := e.outst ++ [x.handle] }

theorem doStreamerPop_of_open {c : Chip} {n : Nat} {x : CarEntry} {d : List Nat}
    (hgo : (c.strRuns n && c.engineOwns (n + 1) && c.ethUp n && decide (c.ladder ≤ 1) && (c.eth n).stream.isNone && c.strRoom n) = true)
    (hnew : (c.eth n).outst.contains x.handle = false) (hresume : (c.eth n).resume = none) (hmc : c.mcState = 2)
    (hd : (c.carPop (n + 1)).2 = some (x.handle, d, x)) :
    doStreamerPop n c = (c.carPop (n + 1)).1.putEth n ((c.carPop (n + 1)).1.strTook (c.eth n) x d) := by
  unfold doStreamerPop
  dsimp only
  rw [if_pos hgo, Chip.popArrive_of_ready hmc]
  dsimp only
  rw [if_pos rfl, hd, hresume]
  dsimp only
  rw [hnew, Chip.strTook, hresume]
  rfl

theorem Chip.strRoom_of_window {c : Chip} {n : Nat} {x : CarEntry} (hhead : c.carHead (n + 1) = some x)
    (hroom : (c.eth n).outst.length < c.window n) : c.strRoom n = true := by
  rw [Chip.strRoom, hhead]
  simp [hroom]

theorem exec_streamerPop {n : Nat} {x : CarEntry} {d : List Nat} (h : s.chip.atWork = true) (hn : n < 4) (hruns : s.chip.strRuns n = true)
    (howns : s.chip.engineOwns (n + 1) = true) (hup : s.chip.ethUp n = true) (hstream : (s.chip.eth n).stream = none)
    (hroom : (s.chip.eth n).outst.length < s.chip.window n) (hnew : (s.chip.eth n).outst.contains x.handle = false)
    (hresume : (s.chip.eth n).resume = none) (hhead : s.chip.carHead (n + 1) = some x) (hmc : s.chip.mcState = 2)
    (hd : (s.chip.carPop (n + 1)).2 = some (x.handle, d, x)) :
    exec (.streamerPop n) s = .next (s.after
      ((s.chip.carPop (n + 1)).1.putEth n ((s.chip.carPop (n + 1)).1.strTook (s.chip.eth n) x d))) := by
  have hexec := State.act_of_atWork (i := .streamerPop n) h (decide_eq_true hn) (doStreamerPop n)
  rw [doStreamerPop_of_open (by rw [hruns, howns, hup, Chip.ladderServes_of_atWork h, hstream, Chip.strRoom_of_window hhead hroom]; rfl)
    hnew hresume hmc hd] at hexec
  exact hexec

theorem doStreamerTimeout_of_due {c : Chip} {n : Nat}
    (hgo : (c.strRuns n && decide (c.ladder ≤ 1) && !(c.eth n).outst.isEmpty && (c.eth n).stream.isNone && c.strAllOut n) = true) :
    doStreamerTimeout n c =
      (let d := ((c.waitLine ((c.eth n).lastAt + c.rto n * micro)).strReplay n none).addCnt (R.ETH_STR_TIMEOUTS n) 1
       (d.setEth n { d.eth n with lastAt := d.epc.line }).raise (Ev.strTimeout n)) := if_pos hgo

theorem exec_streamerTimeout {n : Nat} (h : s.chip.atWork = true) (hn : n < 4) (hruns : s.chip.strRuns n = true)
    (hout : (s.chip.eth n).outst ≠ []) (hstream : (s.chip.eth n).stream = none) (hall : s.chip.strAllOut n = true) :
    exec (.streamerTimeout n) s = .next (s.after
      (let c := ((s.chip.waitLine ((s.chip.eth n).lastAt + s.chip.rto n * micro)).strReplay n none).addCnt (R.ETH_STR_TIMEOUTS n) 1
       (c.setEth n { c.eth n with lastAt := c.epc.line }).raise (Ev.strTimeout n))) := by
  have hexec := State.act_of_atWork (i := .streamerTimeout n) h (decide_eq_true hn) (doStreamerTimeout n)
  have hsent : (!(s.chip.eth n).outst.isEmpty) = true := by rw [Bool.not_eq_true', List.isEmpty_eq_false_iff]; exact hout
  rw [doStreamerTimeout_of_due (by rw [hruns, Chip.ladderServes_of_atWork h, hsent, hstream, hall]; rfl)] at hexec
  exact hexec

/-! ### EVENT frames -/

theorem exec_eventFrameSend (h : s.chip.atWork = true) (hon : s.chip.eventOn = true) (hdue : s.chip.evt.frameDue = true) :
    exec .eventFrameSend s = .next (s.after (s.chip.eventWait s.chip.eventHoldoff).eventSend) := by
  have hexec := State.act_of_atWork (i := .eventFrameSend) h rfl doEventFrameSend
  rw [doEventFrameSend, hon, hdue, if_pos (by decide)] at hexec
  exact hexec

theorem doEventFrameRepeat_of_due {c : Chip} (hon : c.eventOn = true) (hrepeat : c.fld R.EVT_ORT_CFG F.EVT_ORT_CFG_REPEAT ≠ 0)
    (hlines : c.activeLines &&& c.ortMap ≠ 0) : doEventFrameRepeat c =
      (c.eventWait (max (1000 * c.fld R.EVT_ORT_CFG F.EVT_ORT_CFG_REPEAT) c.eventHoldoff)).eventSend := by
  unfold doEventFrameRepeat
  dsimp only
  rw [hon, decide_eq_true hrepeat, decide_eq_true hlines, if_pos (by decide)]

end

/-! ### The PCI Express link -/

/-- The registers that show a link at a speed and width. -/
def Chip.linkShown (c : Chip) (v w : Nat) : Chip :=
  ((c.setFld R.HIF_LINK F.HIF_LINK_SPEED v).setFld R.HIF_LINK F.HIF_LINK_WIDTH w).setFlag R.HIF_LINK F.HIF_LINK_UP true

theorem Chip.linkShown_keeps (c : Chip) (v w : Nat) : (c.linkShown v w).fatal = c.fatal ∧ (c.linkShown v w).resetReq = c.resetReq := by
  rw [Chip.linkShown, Chip.setFlag_fatal, Chip.setFld_fatal, Chip.setFld_fatal, Chip.setFlag_resetReq, Chip.setFld_resetReq, Chip.setFld_resetReq]
  exact ⟨rfl, rfl⟩

theorem Chip.linkShown_shows (c : Chip) {v w : Nat} (hv : v ≤ 5) (hw : w ≤ 16) : (c.linkShown v w).pcieUp = true ∧
    (c.linkShown v w).fld R.HIF_LINK F.HIF_LINK_SPEED = v ∧ (c.linkShown v w).fld R.HIF_LINK F.HIF_LINK_WIDTH = w := by
  refine ⟨Chip.flag_setFlag _ _ _ _ (by decide) rfl, ?_, ?_⟩
  · rw [Chip.linkShown, Chip.fld_setFlag_of_apart _ _ _ _ _ _ (by decide) (.inl (by decide)),
      Chip.fld_setFld_apart _ _ _ _ _ (by decide) (.inl (by decide)), Chip.fld_setFld _ _ _ _ (by decide)]
    exact Nat.mod_eq_of_lt (show v < 8 by omega)
  · rw [Chip.linkShown, Chip.fld_setFlag_of_apart _ _ _ _ _ _ (by decide) (.inl (by decide)), Chip.fld_setFld _ _ _ _ (by decide)]
    exact Nat.mod_eq_of_lt (show w < 32 by omega)

/-- A link that trains shows its speed and width, with or without an event. -/
theorem doPcieLink_up {c : Chip} {v w : Nat} (hv1 : 1 ≤ v) (hv : v ≤ 5) (hw : w = 1 ∨ w = 4 ∨ w = 8 ∨ w = 16) (hpen : bit c.pins.pen 0 = true) :
    ∃ b : Bool, doPcieLink v w true c = if b then (c.linkShown v w).raise Ev.pcieLink else c.linkShown v w := by
  refine ⟨decide (c.pcieUp = false ∨ v < 5 ∨ w < 16), ?_⟩
  unfold doPcieLink
  rw [if_pos rfl, if_pos ⟨hv1, hv, hw, hpen⟩]
  simp only [decide_eq_true_eq]
  rfl

theorem completes_pcieLink_up {s : State} {v w : Nat} (h : s.chip.atWork = true) (hv1 : 1 ≤ v) (hv : v ≤ 5)
    (hw : w = 1 ∨ w = 4 ∨ w = 8 ∨ w = 16) (hpen : bit s.chip.pins.pen 0 = true) :
    Completes (.pcieLink v w true) s (fun c => c.pcieUp = true ∧ c.fld R.HIF_LINK F.HIF_LINK_SPEED = v ∧
      c.fld R.HIF_LINK F.HIF_LINK_WIDTH = w) := by
  have hw16 : w ≤ 16 := by omega
  have hwf : (Instr.pcieLink v w true).wf = true := by
    simp only [Instr.wf, Bool.and_eq_true, decide_eq_true_eq]
    omega
  have hexec := State.act_of_atWork (i := .pcieLink v w true) h hwf (doPcieLink v w true)
  obtain ⟨b, hb⟩ := doPcieLink_up hv1 hv hw hpen
  obtain ⟨hfatal, hreset⟩ := s.chip.linkShown_keeps v w
  have hshows := s.chip.linkShown_shows hv hw16
  rw [hb] at hexec
  rw [Chip.fatal_of_atWork h] at hfatal
  rw [Chip.resetReq_of_atWork h] at hreset
  generalize s.chip.linkShown v w = d at *
  cases b with
  | false => exact .of_exec hexec hfatal hreset hshows
  | true =>
    rw [if_pos rfl] at hexec
    have hreg : (d.raise Ev.pcieLink).reg R.HIF_LINK = d.reg R.HIF_LINK := Chip.reg_raise_ne _ _ (by decide)
    refine .of_exec hexec (by rw [Chip.raise_fatal, hfatal]) (by rw [Chip.raise_resetReq, hreset]) ?_
    rw [Chip.pcieUp, Chip.flag_congr hreg, Chip.fld_congr hreg, Chip.fld_congr hreg]
    exact hshows

theorem completes_pcieLink_down {s : State} {v w : Nat} (h : s.chip.atWork = true) (hv : v < 8) (hw : w ≤ 16) (hup : s.chip.pcieUp = true) :
    Completes (.pcieLink v w false) s (fun c => c.pcieUp = false ∧ c.reg R.HIF_LINK = 0 ∧ c.pcie = {} ∧ c.dmaRuns = false) := by
  have hwf : (Instr.pcieLink v w false).wf = true := by
    simp only [Instr.wf, Bool.and_eq_true, decide_eq_true_eq]
    omega
  have hexec := State.act_of_atWork (i := .pcieLink v w false) h hwf (doPcieLink v w false)
  have hdown : doPcieLink v w false s.chip = (s.chip.pcieReset.setN R.HIF_LINK 0).raise Ev.pcieLink := if_pos hup
  rw [hdown] at hexec
  have hstop : s.chip.pcieReset.dmaRuns = false := s.chip.dmaRuns_dmaHalt_false
  have hkept : s.chip.pcieReset.fatal = none ∧ s.chip.pcieReset.resetReq = false := by
    obtain ⟨r, x, hshape⟩ := s.chip.dmaHalt_false_shape
    rw [Chip.pcieReset, hshape]
    exact ⟨Chip.fatal_of_atWork (c := s.chip) h, Chip.resetReq_of_atWork (c := s.chip) h⟩
  have hpcie : s.chip.pcieReset.pcie = {} := rfl
  generalize s.chip.pcieReset = d at *
  have hlink : ((d.setN R.HIF_LINK 0).raise Ev.pcieLink).reg R.HIF_LINK = 0 := by
    rw [Chip.reg_raise_ne _ _ (by decide)]
    exact Chip.reg_setReg d _ _
  refine .of_exec hexec ?_ ?_ ⟨?_, hlink, ?_, ?_⟩
  · rw [Chip.raise_fatal, Chip.setN_fatal, hkept.1]
  · rw [Chip.raise_resetReq, Chip.setN_resetReq, hkept.2]
  · rw [Chip.pcieUp, Chip.flag, Chip.fld, Chip.rn, hlink]
    rfl
  · rw [Chip.raise_pcie, Chip.setN_pcie, hpcie]
  · rw [Chip.dmaRuns, Chip.flag_congr (Chip.reg_raise_ne _ _ (by decide)), Chip.flag_congr (Chip.reg_setN_ne _ _ (by decide))]
    exact hstop

theorem exec_eventFrameRepeat {s : State} (h : s.chip.atWork = true) (hon : s.chip.eventOn = true)
    (hrepeat : s.chip.fld R.EVT_ORT_CFG F.EVT_ORT_CFG_REPEAT ≠ 0) (hlines : s.chip.activeLines &&& s.chip.ortMap ≠ 0) :
    exec .eventFrameRepeat s = .next (s.after
      (s.chip.eventWait (max (1000 * s.chip.fld R.EVT_ORT_CFG F.EVT_ORT_CFG_REPEAT) s.chip.eventHoldoff)).eventSend) := by
  have hexec := State.act_of_atWork (i := .eventFrameRepeat) h rfl doEventFrameRepeat
  rw [doEventFrameRepeat_of_due hon hrepeat hlines] at hexec
  exact hexec

/-- Settles O40: each command meets its condition; a link that falls resets the configuration space, which stops the DMA engine. -/
theorem streamers : Obligations.Streamers := by
  refine ⟨fun s i n h hn => ⟨fun hr => exec_strStart h i hn hr, exec_strStop h i hn⟩,
    fun s n x h hn hruns howns hup hstream hroom hnew hresume hhead hmc => ?_,
    fun s n h hn hruns hout hstream hall => exec_streamerTimeout h hn hruns hout hstream hall,
    fun s h hon hdue => exec_eventFrameSend h hon hdue, fun s h hon hrepeat hlines => exec_eventFrameRepeat h hon hrepeat hlines,
    fun s v w h hv1 hv hw hpen => completes_pcieLink_up h hv1 hv hw hpen, fun s v w h hv hw hup => completes_pcieLink_down h hv hw hup⟩
  obtain ⟨d, hd⟩ := Chip.carPop_snd hhead
  exact ⟨d, hd, exec_streamerPop h hn hruns howns hup hstream hroom hnew hresume hhead hmc hd⟩

end Sys2Proof.Machine
end

section
/-! What an Ethernet port receives and sends, and its link (R252, R253, R255, R256, R264). -/

namespace Sys2Proof.Machine

/-! ### Frames received -/

section
variable {s : State} {n : Nat}

theorem Chip.portsOn_of_atWork {c : Chip} (h : c.atWork = true) : c.portsOn = true := by
  rw [Chip.portsOn, Chip.ladderServes_of_atWork h, Bool.true_or]

theorem exec_ethFrameReceived (h : s.chip.atWork = true) (hn : n < 4) {f : List Nat} (hf : bytesWf f = true) (b : Bool) :
    exec (.ethFrameReceived n f b) s = .next (s.after (doEthFrameReceived n f b s.chip)) :=
  State.act_of_atWork (i := .ethFrameReceived n f b) h (by simp only [Instr.wf, Bool.and_eq_true, decide_eq_true_eq]; exact ⟨hn, hf⟩) _

theorem doEthFrameReceived_pause {c : Chip} {f : List Nat} {b : Bool} (hp : c.rxPause n f b = true) : doEthFrameReceived n f b c = c := by
  rw [doEthFrameReceived, hp]
  exact if_neg (by simp)

/-- A frame dropped on port n, for its reason. -/
def Chip.rxDropped (c : Chip) (n reason : Nat) : Chip :=
  (c.addCnt (R.ETH_RX_DROP n) 1).setFld (R.ETH_RX_DROP_LAST n) F.ETH_RX_DROP_LAST_REASON reason

theorem doEthFrameReceived_drop {c : Chip} {f : List Nat} (hup : c.ethUp n = true) (hon : c.portsOn = true) (hp : c.rxPause n f true = false)
    (hr : c.rxReason n f true ≠ 0) : doEthFrameReceived n f true c = c.rxDropped n (c.rxReason n f true) := by
  unfold doEthFrameReceived
  rw [hup, hon, hp, if_pos (by decide), if_pos rfl]
  exact if_pos hr

theorem doEthFrameReceived_pass {c : Chip} {f : List Nat} (hup : c.ethUp n = true) (hon : c.portsOn = true) (hp : c.rxPause n f true = false)
    (hr : c.rxReason n f true = 0) : doEthFrameReceived n f true c =
      (c.addCnt (R.ETH_RX_OK n) 1).rxDispatch n (rxParse (c.flag (R.ETH_CTRL n) F.ETH_CTRL_VLAN_EN) (rxBody f)) := by
  unfold doEthFrameReceived
  rw [hup, hon, hp, if_pos (by decide), if_pos rfl]
  exact if_neg (not_not_intro hr)

/-- A frame that the FEC could not correct is broken, whatever it holds. -/
theorem Chip.rxPause_of_uncorrected (c : Chip) (f : List Nat) : c.rxPause n f false = false := rfl
theorem Chip.rxReason_of_uncorrected (c : Chip) (f : List Nat) : c.rxReason n f false = 1 := by
  simp [Chip.rxReason, Chip.rxBroken, firstReason]

theorem doEthFrameReceived_uncorrected {c : Chip} (hup : c.ethUp n = true) (hon : c.portsOn = true) (f : List Nat) :
    doEthFrameReceived n f false c = (c.addCnt (R.ETH_FEC_UNCORR n) 1).rxDropped n 1 := by
  unfold doEthFrameReceived
  rw [hup, hon, Chip.rxPause_of_uncorrected, if_pos (by decide), if_neg Bool.false_ne_true]
  dsimp only
  rw [Chip.rxReason_of_uncorrected]
  rfl

theorem completes_ethFrameReceived_uncorrected (h : s.chip.atWork = true) (hn : n < 4) {f : List Nat} (hf : bytesWf f = true)
    (hup : s.chip.ethUp n = true) :
    Completes (.ethFrameReceived n f false) s (fun c => c.reg (R.ETH_FEC_UNCORR n) = s.chip.reg (R.ETH_FEC_UNCORR n) + 1 ∧
      c.reg (R.ETH_RX_DROP n) = s.chip.reg (R.ETH_RX_DROP n) + 1 ∧ c.fld (R.ETH_RX_DROP_LAST n) F.ETH_RX_DROP_LAST_REASON = 1) := by
  have hexec := exec_ethFrameReceived h hn hf false
  rw [doEthFrameReceived_uncorrected hup (Chip.portsOn_of_atWork h)] at hexec
  have hne : R.ETH_FEC_UNCORR n ≠ R.ETH_RX_DROP n ∧ R.ETH_FEC_UNCORR n ≠ R.ETH_RX_DROP_LAST n ∧ R.ETH_RX_DROP n ≠ R.ETH_RX_DROP_LAST n ∧
      R.ETH_RX_DROP n ≠ R.ETH_FEC_UNCORR n := by
    simp only [R.ETH_FEC_UNCORR, R.ETH_RX_DROP, R.ETH_RX_DROP_LAST]
    omega
  refine .of_exec hexec ?_ ?_ ⟨?_, ?_, Chip.fld_setFld _ _ _ _ (by decide)⟩
  · rw [Chip.rxDropped, Chip.setFld_fatal, Chip.addCnt_fatal, Chip.addCnt_fatal, Chip.fatal_of_atWork h]
  · rw [Chip.rxDropped, Chip.setFld_resetReq, Chip.addCnt_resetReq, Chip.addCnt_resetReq, Chip.resetReq_of_atWork h]
  · rw [Chip.rxDropped, Chip.reg_setFld_ne _ _ _ hne.2.1, Chip.reg_addCnt_ne _ _ hne.1, Chip.reg_addCnt_one]
  · rw [Chip.rxDropped, Chip.reg_setFld_ne _ _ _ hne.2.2.1, Chip.reg_addCnt_one, Chip.reg_addCnt_ne _ _ hne.2.2.2]

/-! ### Frames sent (R256) -/

theorem exec_ethFrameTransmit (h : s.chip.atWork = true) (hn : n < 4) :
    exec (.ethFrameTransmit n) s = .next (s.after (doEthFrameTransmit n s.chip)) :=
  State.act_of_atWork (i := .ethFrameTransmit n) h (decide_eq_true hn) _

section
variable {c : Chip}

variable (hup : c.ethUp n = true) (hon : c.portsOn = true)
include hup hon

theorem doEthFrameTransmit_arp {f : List Nat} {l : List (List Nat)} (harp : (c.eth n).arp = f :: l) :
    doEthFrameTransmit n c = (c.setEth n { c.eth n with arp := l }).sendFrame n f := by
  rw [doEthFrameTransmit, hup, hon, if_pos (by decide)]
  dsimp only
  rw [harp]

theorem doEthFrameTransmit_notice {f : List Nat} {b : Bool} {l : List (List Nat × Bool)} (harp : (c.eth n).arp = [])
    (hnotices : (c.eth n).notices = (f, b) :: l) :
    doEthFrameTransmit n c = if b then (c.setEth n { c.eth n with notices := l }).sendFrame n f
      else ((c.setEth n { c.eth n with notices := l }).sendFrame n f).addCnt R.ORT_NTC_TX 1 := by
  rw [doEthFrameTransmit, hup, hon, if_pos (by decide)]
  dsimp only
  rw [harp, hnotices]

theorem doEthFrameTransmit_mgmt {f : List Nat} {l : List (List Nat × Bool)} (harp : (c.eth n).arp = []) (hnotices : (c.eth n).notices = [])
    (hmgmt : (c.eth n).mgmt = (f, false) :: l) :
    doEthFrameTransmit n c = (c.setEth n { c.eth n with mgmt := l }).sendFrame n f := by
  rw [doEthFrameTransmit, hup, hon, if_pos (by decide)]
  dsimp only
  rw [harp, hnotices, hmgmt]
  exact if_neg Bool.false_ne_true

theorem doEthFrameTransmit_reset {f : List Nat} {l : List (List Nat × Bool)} (harp : (c.eth n).arp = []) (hnotices : (c.eth n).notices = [])
    (hmgmt : (c.eth n).mgmt = (f, true) :: l) :
    doEthFrameTransmit n c = (let d := (c.setEth n { c.eth n with mgmt := l }).sendFrame n f
      { d with stw := { d.stw with resetAt := some d.epc.line } }) := by
  rw [doEthFrameTransmit, hup, hon, if_pos (by decide)]
  dsimp only
  rw [harp, hnotices, hmgmt]
  exact if_pos rfl

theorem doEthFrameTransmit_data {t : StrStream} (harp : (c.eth n).arp = []) (hnotices : (c.eth n).notices = []) (hmgmt : (c.eth n).mgmt = [])
    (hstream : (c.eth n).stream = some t) (hruns : c.strRuns n = true) : doEthFrameTransmit n c = c.sendData n t := by
  rw [doEthFrameTransmit, hup, hon, if_pos (by decide)]
  dsimp only
  rw [harp, hnotices, hmgmt, hstream]
  exact if_pos hruns

end

/-! ### Links (R255, R256, R264) -/

theorem exec_ethLink (h : s.chip.atWork = true) (hn : n < 4) (b : Bool) :
    exec (.ethLink n b) s = .next (s.after (if b then s.chip.ethRise n else s.chip.ethDown n)) :=
  State.act_of_atWork (i := .ethLink n b) h (decide_eq_true hn) (doEthLink n b)

/-- Notices dropped together: the count goes up by one for each, and nothing but it and the events changes. -/
theorem Chip.noticeDrops_spec {α : Type} (l : List α) (c : Chip) : c.EventsOnly (l.foldl (fun c _ => c.noticeDrop) c) ∧
    c.RegsIn (fun a => noteReg a ∨ a = R.ORT_NTC_DROP) (l.foldl (fun c _ => c.noticeDrop) c) ∧
    (l.foldl (fun c _ => c.noticeDrop) c).reg R.ORT_NTC_DROP = c.reg R.ORT_NTC_DROP + BitVec.ofNat 32 l.length := by
  induction l generalizing c with
  | nil => exact ⟨.refl c, .refl _ c, by simp⟩
  | cons x l ih =>
    obtain ⟨hevents, hregs, hcount⟩ := ih c.noticeDrop
    have hone : c.noticeDrop.reg R.ORT_NTC_DROP = c.reg R.ORT_NTC_DROP + 1 := by
      rw [Chip.noticeDrop, Chip.reg_raise_ne _ _ (by decide), Chip.reg_addCnt_one]
    refine ⟨((Chip.EventsOnly.addCnt c _ 1).trans (.raise _ Ev.noticeDrop)).trans hevents, ?_, ?_⟩
    · exact ((Chip.RegsIn.addCnt c 1 (Or.inr rfl)).trans ((Chip.RegsIn.raise _ (by decide)).mono (fun _ => Or.inl))).trans hregs
    · rw [List.foldl_cons, hcount, hone, List.length_cons, Nat.add_comm l.length 1, BitVec.ofNat_add, ← BitVec.add_assoc]
      rfl

/-- The port without its link and without what waits on it. -/
def Chip.linkCut (c : Chip) (n : Nat) : Chip := (c.setLink n false).setEth n { c.eth n with arp := [], notices := [], mgmt := [] }

theorem Chip.linkCut_keeps (c : Chip) (n : Nat) : (c.linkCut n).fatal = c.fatal ∧ (c.linkCut n).resetReq = c.resetReq := by
  simp only [Chip.linkCut, Chip.setLink, Chip.setEth_fatal, Chip.setFlag_fatal, Chip.setEth_resetReq, Chip.setFlag_resetReq, and_self]

theorem Chip.eth_linkCut (c : Chip) (n : Nat) : (c.linkCut n).eth n = { c.eth n with arp := [], notices := [], mgmt := [] } :=
  Chip.eth_setEth _ _ _

theorem Chip.reg_linkCut_ne (c : Chip) {n a : Nat} (h : a ≠ R.ETH_STAT n) : (c.linkCut n).reg a = c.reg a := by
  rw [Chip.linkCut, Chip.reg_congr (Chip.setEth_regs _ _ _), Chip.setLink, Chip.reg_setFlag_ne _ _ _ h, Chip.reg_setFlag_ne _ _ _ h,
    Chip.reg_setFlag_ne _ _ _ h]

/-- The link's bit follows the link; the other bits of the status register are apart from it. -/
theorem Chip.ethUp_setLink (c : Chip) (n : Nat) (b : Bool) : (c.setLink n b).ethUp n = b := by
  rw [Chip.ethUp, Chip.setLink, Chip.flag_setFlag_of_apart _ _ _ _ _ _ (by decide) (by decide),
    Chip.flag_setFlag_of_apart _ _ _ _ _ _ (by decide) (by decide), Chip.flag_setFlag _ _ _ _ (by decide) rfl]

theorem Chip.ethUp_linkCut (c : Chip) (n : Nat) : (c.linkCut n).ethUp n = false :=
  (Chip.flag_congr (Chip.reg_congr (Chip.setEth_regs _ _ _) _) _).trans (c.ethUp_setLink n false)

theorem ethStat_ne (n : Nat) : R.ETH_STAT n ≠ R.ETH_STR_STAT n := by
  simp only [R.ETH_STAT, R.ETH_STR_STAT]
  omega

theorem ntcDrop_ne (n : Nat) : R.ORT_NTC_DROP ≠ R.ETH_STAT n ∧ R.ORT_NTC_DROP ≠ R.ETH_STR_STAT n := by
  simp only [R.ORT_NTC_DROP, R.ETH_STAT, R.ETH_STR_STAT]
  omega

/-- A port's status registers stand apart from the counts and events of notices. -/
theorem not_noteReg_ethStat {n : Nat} : ¬ (noteReg (R.ETH_STAT n) ∨ R.ETH_STAT n = R.ORT_NTC_DROP) := by
  simp only [noteReg, R.ETH_STAT, R.ORT_NTC_DROP]
  omega

theorem ethStat_notMem {n : Nat} (hn : n < 4) (a : Nat) (ha : a = R.ETH_STAT n ∨ a = R.ETH_STR_STAT n ∨ a = R.ORT_NTC_DROP) :
    a ∉ eventRegs (Ev.ethLink n) := by
  simp only [eventRegs, Ev.ethLink, List.mem_cons, List.not_mem_nil, or_false, R.ETH_STAT, R.ETH_STR_STAT, R.ORT_NTC_DROP, R.EVT_STAT,
    R.SCV_REFUSED, R.SCV_LOST] at ha ⊢
  omega

theorem completes_ethLink_down (h : s.chip.atWork = true) (hn : n < 4) (hup : s.chip.ethUp n = true) :
    Completes (.ethLink n false) s (fun c => c.ethUp n = false ∧ (c.eth n).arp = [] ∧ (c.eth n).notices = [] ∧ (c.eth n).mgmt = [] ∧
      c.reg R.ORT_NTC_DROP = s.chip.reg R.ORT_NTC_DROP + BitVec.ofNat 32 (s.chip.eth n).notices.length) := by
  have hexec := exec_ethLink h hn false
  obtain ⟨hevents, hregs, hcount⟩ := Chip.noticeDrops_spec (s.chip.eth n).notices (s.chip.linkCut n)
  have hdown : s.chip.ethDown n =
      (((s.chip.eth n).notices.foldl (fun c _ => c.noticeDrop) (s.chip.linkCut n)).setFlag (R.ETH_STR_STAT n) F.ETH_STR_STAT_WAIT_LINK
        (((s.chip.eth n).notices.foldl (fun c _ => c.noticeDrop) (s.chip.linkCut n)).strRuns n)).raise (Ev.ethLink n) := if_pos hup
  rw [if_neg Bool.false_ne_true, hdown] at hexec
  generalize (s.chip.eth n).notices.foldl (fun c _ => c.noticeDrop) (s.chip.linkCut n) = d at hexec hevents hregs hcount
  obtain ⟨hfatal, hreset⟩ := s.chip.linkCut_keeps n
  have heth : ∀ b, ((d.setFlag (R.ETH_STR_STAT n) F.ETH_STR_STAT_WAIT_LINK b).raise (Ev.ethLink n)).eth n =
      { s.chip.eth n with arp := [], notices := [], mgmt := [] } := fun b =>
    (Chip.eth_congr ((Chip.raise_eths _ _).trans ((Chip.setFlag_eths _ _ _ _).trans hevents.eths)) n).trans (s.chip.eth_linkCut n)
  refine .of_exec hexec ?_ ?_ ⟨?_, ?_, ?_, ?_, ?_⟩
  · rw [Chip.raise_fatal, Chip.setFlag_fatal, hevents.fatal, hfatal, Chip.fatal_of_atWork h]
  · rw [Chip.raise_resetReq, Chip.setFlag_resetReq, hevents.resetReq, hreset, Chip.resetReq_of_atWork h]
  · rw [Chip.ethUp, Chip.flag_congr (Chip.reg_raise_ne _ _ (ethStat_notMem hn _ (.inl rfl))),
      Chip.flag_congr (Chip.reg_setFlag_ne _ _ _ (ethStat_ne n)), hregs.flag not_noteReg_ethStat]
    exact s.chip.ethUp_linkCut n
  · rw [heth]
  · rw [heth]
  · rw [heth]
  · rw [Chip.reg_raise_ne _ _ (ethStat_notMem hn _ (.inr (.inr rfl))), Chip.reg_setFlag_ne _ _ _ (ntcDrop_ne n).2, hcount,
      Chip.reg_linkCut_ne _ (ntcDrop_ne n).1]

/-- The port with its link up, and the event of it. -/
def Chip.linkMade (c : Chip) (n : Nat) : Chip :=
  ((c.setLink n true).setFlag (R.ETH_STR_STAT n) F.ETH_STR_STAT_WAIT_LINK false).raise (Ev.ethLink n)

theorem Chip.ethRise_of_enabled {c : Chip} (hdown : c.ethUp n = false) (hen : c.flag (R.ETH_CTRL n) F.ETH_CTRL_EN = true)
    (hon : c.portsOn = true) :
    c.ethRise n = if (c.linkMade n).strRuns n then (c.linkMade n).strReplay n none else c.linkMade n := if_pos ⟨hdown, hen, hon⟩

theorem Chip.linkMade_keeps (c : Chip) (n : Nat) : (c.linkMade n).eths = c.eths ∧ (c.linkMade n).fatal = c.fatal ∧
    (c.linkMade n).resetReq = c.resetReq := by
  simp only [Chip.linkMade, Chip.setLink, Chip.raise_eths, Chip.setFlag_eths, Chip.raise_fatal, Chip.setFlag_fatal, Chip.raise_resetReq,
    Chip.setFlag_resetReq, and_self]

theorem Chip.ethUp_linkMade (c : Chip) (hn : n < 4) : (c.linkMade n).ethUp n = true := by
  rw [Chip.ethUp, Chip.linkMade, Chip.flag_congr (Chip.reg_raise_ne _ _ (ethStat_notMem hn _ (.inl rfl))),
    Chip.flag_congr (Chip.reg_setFlag_ne _ _ _ (ethStat_ne n))]
  exact c.ethUp_setLink n true

theorem Chip.strRuns_linkMade (c : Chip) (hn : n < 4) : (c.linkMade n).strRuns n = c.strRuns n := by
  rw [Chip.strRuns, Chip.linkMade, Chip.flag_congr (Chip.reg_raise_ne _ _ (ethStat_notMem hn _ (.inr (.inl rfl)))),
    Chip.flag_setFlag_of_apart _ _ _ _ _ _ (by decide) (by decide), Chip.setLink]
  have hne := (ethStat_ne n).symm
  rw [Chip.flag_congr (Chip.reg_setFlag_ne _ _ _ hne), Chip.flag_congr (Chip.reg_setFlag_ne _ _ _ hne),
    Chip.flag_congr (Chip.reg_setFlag_ne _ _ _ hne), Chip.strRuns]

theorem exec_ethLink_up (h : s.chip.atWork = true) (hn : n < 4) (hdown : s.chip.ethUp n = false)
    (hen : s.chip.flag (R.ETH_CTRL n) F.ETH_CTRL_EN = true) : exec (.ethLink n true) s =
      .next (s.after (if s.chip.strRuns n then (s.chip.linkMade n).strReplay n none else s.chip.linkMade n)) := by
  rw [exec_ethLink h hn, if_pos rfl, Chip.ethRise_of_enabled hdown hen (Chip.portsOn_of_atWork h), Chip.strRuns_linkMade _ hn]

theorem completes_ethLink_up (h : s.chip.atWork = true) (hn : n < 4) (hdown : s.chip.ethUp n = false)
    (hen : s.chip.flag (R.ETH_CTRL n) F.ETH_CTRL_EN = true) (hruns : s.chip.strRuns n = false) :
    Completes (.ethLink n true) s (fun c => c.ethUp n = true ∧ c.eths = s.chip.eths) := by
  have hexec := exec_ethLink_up h hn hdown hen
  rw [hruns, if_neg Bool.false_ne_true] at hexec
  obtain ⟨heths, hfatal, hreset⟩ := s.chip.linkMade_keeps n
  exact .of_exec hexec (hfatal.trans (Chip.fatal_of_atWork h)) (hreset.trans (Chip.resetReq_of_atWork h)) ⟨s.chip.ethUp_linkMade hn, heths⟩

end

/-- Settles O39: a received frame passes the checks or is counted; a port sends by class; what waits on a link that falls is counted. -/
theorem ethernetPorts : Obligations.EthernetPorts := by
  refine ⟨fun s n f h hn hf hup => ⟨fun hp => ?_, fun hp hr => ?_, fun hp hr => ?_⟩,
    fun s n f h hn hf hup => completes_ethFrameReceived_uncorrected h hn hf hup, fun s n h hn hup => ?_, fun s n h hn =>
      ⟨fun hup => completes_ethLink_down h hn hup, fun hdown hen hruns => completes_ethLink_up h hn hdown hen hruns, fun hdown hen hruns => ?_⟩⟩
  · rw [exec_ethFrameReceived h hn hf, doEthFrameReceived_pause hp]
  · rw [exec_ethFrameReceived h hn hf, doEthFrameReceived_drop hup (Chip.portsOn_of_atWork h) hp hr]
    rfl
  · rw [exec_ethFrameReceived h hn hf, doEthFrameReceived_pass hup (Chip.portsOn_of_atWork h) hp hr]
  · have hon := Chip.portsOn_of_atWork h
    rw [exec_ethFrameTransmit h hn]
    refine ⟨fun f l harp => ?_, fun f b l harp hnotices => ?_, fun f l harp hnotices hmgmt => ?_, fun f l harp hnotices hmgmt => ?_,
      fun t harp hnotices hmgmt hstream hruns => ?_⟩
    · rw [doEthFrameTransmit_arp hup hon harp]
    · rw [doEthFrameTransmit_notice hup hon harp hnotices]
    · rw [doEthFrameTransmit_mgmt hup hon harp hnotices hmgmt]
    · rw [doEthFrameTransmit_reset hup hon harp hnotices hmgmt]
    · rw [doEthFrameTransmit_data hup hon harp hnotices hmgmt hstream hruns]
  · rw [exec_ethLink_up h hn hdown hen, if_pos hruns]
    rfl

end Sys2Proof.Machine
end

section
/-! The Fuller instances, the place of a block, and the commit of a segment with the push of its descriptor (R174, R193 to R195, R227). -/

namespace Sys2Proof.Machine

/-! ### What a lane's and a partition's registers leave as it is -/

theorem Chip.EventsOnly.setPair (c : Chip) (w a v : Nat) : c.EventsOnly (c.setPair w a v) := (Chip.EventsOnly.setN c _ _).trans (.setN _ _ _)

theorem Chip.EventsOnly.setTriple (c : Chip) (a v : Nat) : c.EventsOnly (c.setTriple a v) :=
  ((Chip.EventsOnly.setN c _ _).trans (.setN _ _ _)).trans (.setN _ _ _)

theorem Chip.EventsOnly.refreshStage (c : Chip) (g : Nat) : c.EventsOnly (c.refreshStage g) :=
  (Chip.EventsOnly.setFld c _ _ _).trans (.setFld _ _ _ _)

theorem Chip.EventsOnly.refreshPart (c : Chip) (p : Nat) : c.EventsOnly (c.refreshPart p) := by
  unfold Chip.refreshPart
  dsimp only
  exact (((((((Chip.EventsOnly.setFld c _ _ _).trans (.setN _ _ _)).trans (.setN _ _ _)).trans (.setN _ _ _)).trans (.setFld _ _ _ _)).trans
    (.setFld _ _ _ _)).trans (.setPair _ _ _ _)).trans (.setTriple _ _ _)

theorem Chip.lane_congr {c d : Chip} (h : d.lanes = c.lanes) (g : Nat) : d.lane g = c.lane g := by rw [Chip.lane, h, Chip.lane]
theorem Chip.part_congr {c d : Chip} (h : d.parts = c.parts) (p : Nat) : d.part p = c.part p := by rw [Chip.part, h, Chip.part]

/-- A lane put: its contents, and what stays. -/
theorem Chip.putLane_spec (c : Chip) (g : Nat) (l : Lane) : (c.putLane g l).lane g = l ∧ (c.putLane g l).cycle = c.cycle ∧
    (c.putLane g l).fatal = c.fatal ∧ (c.putLane g l).resetReq = c.resetReq := by
  have h := Chip.EventsOnly.refreshStage (c.setLane g l) g
  exact ⟨(Chip.lane_congr h.lanes g).trans (c.lane_setLane g l), h.cycle, h.fatal, h.resetReq⟩

/-- A partition put: its contents, and what stays. -/
theorem Chip.putPart_spec (c : Chip) (p : Nat) (q : Part) : (c.putPart p q).part p = q ∧ (c.putPart p q).fatal = c.fatal ∧
    (c.putPart p q).resetReq = c.resetReq := by
  have h := Chip.EventsOnly.refreshPart (c.setPart p q) p
  exact ⟨(Chip.part_congr h.parts p).trans (c.part_setPart p q), h.fatal, h.resetReq⟩

theorem Chip.waitCycle_keeps (c : Chip) (n : Nat) : (c.waitCycle n).lanes = c.lanes ∧ (c.waitCycle n).fatal = c.fatal ∧
    (c.waitCycle n).resetReq = c.resetReq ∧ n ≤ (c.waitCycle n).cycle := by
  have hcycle : n ≤ (c.waitCycle n).cycle := by
    rw [Chip.waitCycle_cycle]
    exact Nat.le_max_right _ _
  obtain ⟨k, e, h⟩ := c.waitCycle_shape n
  rw [h] at hcycle ⊢
  exact ⟨rfl, rfl, rfl, hcycle⟩

/-! ### Reading a staged block (R194, R195) -/

/-- The engine at the cycle in which a codec may read its next block. -/
def Chip.codecReady (c : Chip) (n : Nat) : Chip :=
  match (c.lane n).codec.busy.getLast? with
  | some x => c.waitCycle (x.2 + 512)
  | none => c

theorem Chip.codecReady_keeps (c : Chip) (n : Nat) : (c.codecReady n).fatal = c.fatal ∧ (c.codecReady n).resetReq = c.resetReq ∧
    (∀ x, (c.lane n).codec.busy.getLast? = some x → x.2 + 512 ≤ (c.codecReady n).cycle) := by
  unfold Chip.codecReady
  cases hlast : (c.lane n).codec.busy.getLast? with
  | none => exact ⟨rfl, rfl, fun _ hx => absurd hx (by simp)⟩
  | some y =>
    obtain ⟨-, hfatal, hreset, hcycle⟩ := c.waitCycle_keeps (y.2 + 512)
    refine ⟨hfatal, hreset, fun x hx => ?_⟩
    rw [← Option.some.inj hx]
    exact hcycle

/-- A lane whose codec has begun to read the block `b` in cycle `k`. -/
def Lane.reading (l : Lane) (b : InBlk) (rest : List InBlk) (k : Nat) : Lane :=
  { l with staged := rest, codec := { l.codec with busy := l.codec.busy ++ [(b, k)] } }

theorem Chip.laneSettle_of_empty {c : Chip} {n : Nat} (h : (c.lane n).pipe = []) : c.laneSettle n = c := by
  rw [Chip.laneSettle, h]
  rfl

theorem doCodecBlockStart_of_staged {c : Chip} {n : Nat} {b : InBlk} {l : List InBlk} (hstaged : (c.lane n).staged = b :: l)
    (hout : (c.lane n).codec.out.length < 2) (hpipe : (c.lane n).pipe = []) :
    doCodecBlockStart n c = (c.codecReady n).putLane n ((c.lane n).reading b l (c.codecReady n).cycle) := by
  unfold doCodecBlockStart
  rw [Chip.laneSettle_of_empty hpipe]
  dsimp only
  rw [hstaged]
  dsimp only
  rw [if_neg (by omega)]
  rfl

theorem completes_codecBlockStart {s : State} {n : Nat} {b : InBlk} {l : List InBlk} (h : s.chip.atWork = true) (hn : n < 8)
    (hstaged : (s.chip.lane n).staged = b :: l) (hout : (s.chip.lane n).codec.out.length < 2) (hpipe : (s.chip.lane n).pipe = []) :
    Completes (.codecBlockStart n) s (fun c => (c.lane n).staged = l ∧
      (c.lane n).codec.busy = (s.chip.lane n).codec.busy ++ [(b, c.cycle)] ∧
      (∀ x, (s.chip.lane n).codec.busy.getLast? = some x → x.2 + 512 ≤ c.cycle) ∧ (c.lane n).codec.out = (s.chip.lane n).codec.out) := by
  have hexec := State.act_of_atWork (i := .codecBlockStart n) h (decide_eq_true hn) (doCodecBlockStart n)
  rw [doCodecBlockStart_of_staged hstaged hout hpipe] at hexec
  obtain ⟨rfatal, rreset, rcycle⟩ := s.chip.codecReady_keeps n
  obtain ⟨hlane, hcycle, hfatal, hreset⟩ := (s.chip.codecReady n).putLane_spec n ((s.chip.lane n).reading b l (s.chip.codecReady n).cycle)
  refine .of_exec hexec (hfatal.trans (rfatal.trans (Chip.fatal_of_atWork h))) (hreset.trans (rreset.trans (Chip.resetReq_of_atWork h))) ?_
  rw [hlane, hcycle]
  exact ⟨rfl, rfl, rcycle, rfl⟩

/-! ### Coding a block (R179 to R194) -/

/-- What a codec makes of its oldest block: the lane with its codec, and registers and events apart from it. -/
theorem doCodecBlockDone_spec {c : Chip} {n a : Nat} {b : InBlk} {l : List (InBlk × Nat)} (hbusy : (c.lane n).codec.busy = (b, a) :: l)
    (hout : (c.lane n).codec.out.length < 2) : ∃ k : Codec, k.busy = l ∧ k.out.length = (c.lane n).codec.out.length + 1 ∧
      ((c.waitCycle (a + 512)).putLane n { c.lane n with codec := k }).EventsOnly (doCodecBlockDone n none c) := by
  unfold doCodecBlockDone
  extract_lets l0 k st
  split
  next hnil => rw [show k.busy = _ from hbusy] at hnil; cases hnil
  next b1 a1 l1 heq =>
    rw [show k.busy = _ from hbusy] at heq
    cases heq
    rw [if_neg (show ¬ k.out.length ≥ 2 from Nat.not_le.2 hout)]
    extract_lets c1 code pred td items payload raw checking inj chk vf body crc hdr o k1 c2 c3 c4 c5 c6
    have hfields : c2.EventsOnly c4 := (((Chip.EventsOnly.setFld c2 st _ _).trans (.setFld _ _ _ _)).trans (.setFld _ _ _ _)).trans (.setFld _ _ _ _)
    have hraw : c2.EventsOnly c5 := by
      refine hfields.trans ?_
      change c4.EventsOnly (if raw then c4.addCnt (R.FUL_RAW n) 1 else c4)
      split
      · exact .addCnt _ _ _
      · exact .refl _
    refine ⟨k1, rfl, List.length_append, ?_⟩
    change c2.EventsOnly _
    split
    · have hcount : c2.EventsOnly c6 := ((hraw.trans (.addCnt _ _ _)).trans (.setTriple _ _ _)).trans (.setN _ _ _)
      exact (hcount.trans (.raiseTyped _ _)).trans (.record _ _ _ _ _)
    · exact hraw

theorem completes_codecBlockDone {s : State} {n a : Nat} {b : InBlk} {l : List (InBlk × Nat)} (h : s.chip.atWork = true) (hn : n < 8)
    (hbusy : (s.chip.lane n).codec.busy = (b, a) :: l) (hout : (s.chip.lane n).codec.out.length < 2) :
    Completes (.codecBlockDone n none) s (fun c => (c.lane n).codec.busy = l ∧
      (c.lane n).codec.out.length = (s.chip.lane n).codec.out.length + 1 ∧ a + 512 ≤ c.cycle ∧ (c.lane n).staged = (s.chip.lane n).staged) := by
  have hexec := State.act_of_atWork (i := .codecBlockDone n none) h (decide_eq_true hn) (doCodecBlockDone n none)
  obtain ⟨k, hk, hlen, hdone⟩ := doCodecBlockDone_spec hbusy hout
  obtain ⟨-, wfatal, wreset, wcycle⟩ := s.chip.waitCycle_keeps (a + 512)
  obtain ⟨hlane, hcycle, hfatal, hreset⟩ := (s.chip.waitCycle (a + 512)).putLane_spec n { s.chip.lane n with codec := k }
  refine .of_exec hexec (hdone.fatal.trans (hfatal.trans (wfatal.trans (Chip.fatal_of_atWork h))))
    (hdone.resetReq.trans (hreset.trans (wreset.trans (Chip.resetReq_of_atWork h)))) ?_
  rw [Chip.lane_congr hdone.lanes, hlane, hdone.cycle, hcycle]
  exact ⟨hk, hlen, wcycle, rfl⟩

theorem exec_fulInject {s : State} {n p : Nat} (h : s.chip.atWork = true) (i : Init) (hn : n < 8) (howner : s.chip.recOwner n = some p)
    (hidle : (s.chip.lane n).codec.inject = false) (hverify : s.chip.fulVerify n = true) :
    exec (.fulInject i n) s = .next (s.after (s.chip.writing.accept (fulPort n) (fun c =>
      (c.setLane n { c.lane n with codec := { (c.lane n).codec with inject := true } }).setFlag (R.FUL_STAT n) F.FUL_STAT_INJ_PEND true))) := by
  have hreason : firstReason [((s.chip.writing.recOwner n).isNone, 0x40), ((s.chip.writing.lane n).codec.inject, 0x41),
      (!s.chip.writing.fulVerify n, 0x42)] = 0 := by
    rw [show s.chip.writing.recOwner n = some p from howner, show (s.chip.writing.lane n).codec.inject = false from hidle,
      show s.chip.writing.fulVerify n = true from hverify]
    rfl
  exact exec_of_command (i := .fulInject i n) h (decide_eq_true hn) rfl rfl hreason (Chip.inSafe_of_atWork h)

/-! ### The place of a block (R137) -/

theorem Chip.allocAt_of_ring {c : Chip} {p g ofs : Nat} {o : OutBlk} (h : c.writesFit (c.blkRuns p g false ofs (blkLen o)) = true)
    (l : List OutBlk) (t : Bool) : c.allocAt p g o l false ofs t =
      ((c.handOver g o l).pushWrites (c.blkRuns p g false ofs (blkLen o))).placeBlk p g o false ofs (blkLen o) t := by
  rw [Chip.allocAt, if_pos h]
  rfl

theorem exec_blockAllocate {s : State} {g ofs : Nat} {t : Bool} {o : OutBlk} {l : List OutBlk} (h : s.chip.atWork = true) (hg : g < 8)
    (hout : (s.chip.lane g).codec.out = o :: l) (hmc : s.chip.mcState = 2) (hwins : (s.chip.part o.part).openWins = [])
    (hplace : s.chip.placeOf o.part g o = .ring ofs t)
    (hfit : s.chip.writesFit (s.chip.blkRuns o.part g false ofs (blkLen o)) = true) :
    exec (.blockAllocate g) s = .next (s.after
      (((s.chip.handOver g o l).pushWrites (s.chip.blkRuns o.part g false ofs (blkLen o))).placeBlk o.part g o false ofs (blkLen o) t)) := by
  have hexec := State.act_of_atWork (i := .blockAllocate g) h (decide_eq_true hg) (doBlockAllocate g)
  have hjoin : s.chip.joinPresent o.part = s.chip := if_pos (by rw [hwins]; rfl)
  have hdo : doBlockAllocate g s.chip = s.chip.allocAt o.part g o l false ofs t := by
    unfold doBlockAllocate
    rw [hout, Chip.arrive_of_ready hmc]
    dsimp only
    rw [if_pos rfl, hjoin, hplace]
  rw [hdo, Chip.allocAt_of_ring hfit] at hexec
  exact hexec

/-! ### The slots of a partition -/

theorem SMap.find?_put {α : Type} (m : List (Nat × α)) (k : Nat) (v : α) :
    (SMap.put m k v).find? (fun s => decide (s.1 = k)) = some (k, v) := by
  induction m with
  | nil => simp [SMap.put]
  | cons e m ih =>
    obtain ⟨j, w⟩ := e
    rw [SMap.put]
    split
    · simp
    · split
      · simp
      · rename_i hne
        rw [List.find?_cons_of_neg (by simpa using fun hj => hne hj.symm), ih]

theorem Part.seg_setSeg (pt : Part) (n : Nat) (g : Seg) : (pt.setSeg n g).seg n = some g := by
  rw [Part.seg, Part.setSeg, SMap.find?_put]
  rfl

/-- Where no entry but the new one satisfies `f`, the entries that do are the new one, or none. -/
theorem SMap.filter_put {α : Type} {f : Nat × α → Bool} {m : List (Nat × α)} (k : Nat) (v : α) (h : m.filter f = []) :
    (SMap.put m k v).filter f = if f (k, v) then [(k, v)] else [] := by
  have hnone : ∀ {l : List (Nat × α)}, l.filter f = [] → ((k, v) :: l).filter f = if f (k, v) then [(k, v)] else [] := fun hl => by
    rw [List.filter_cons, hl]
  induction m with
  | nil => exact hnone rfl
  | cons e m ih =>
    obtain ⟨j, w⟩ := e
    have hm : m.filter f = [] := List.filter_eq_nil_iff.2 (fun a ha => List.filter_eq_nil_iff.1 h a (List.mem_cons_of_mem _ ha))
    have he : f (j, w) ≠ true := List.filter_eq_nil_iff.1 h _ List.mem_cons_self
    rw [SMap.put]
    split
    · exact hnone h
    · split
      · exact hnone hm
      · rw [List.filter_cons, if_neg he, ih hm]

theorem foldl_option_isSome {α : Type} (f : Option α → α → Option α) (hf : ∀ b a, (f b a).isSome = true) (l : List α) (b : Option α)
    (h : b.isSome = true ∨ l ≠ []) : (l.foldl f b).isSome = true := by
  induction l generalizing b with
  | nil => exact h.resolve_right (fun hn => hn rfl)
  | cons a l ih => exact ih _ (.inl (hf b a))

/-- No segment waits exactly where there is no first one that does. -/
theorem Part.waiting_of_firstWaiting_none {pt : Part} (h : pt.firstWaiting.isSome = false) : pt.segs.filter (fun s => s.2.waits) = [] := by
  by_contra hne
  refine Bool.false_ne_true (h.symm.trans (foldl_option_isSome _ (fun b a => ?_) _ none (.inr hne)))
  cases b with
  | none => rfl
  | some b => dsimp only; split <;> rfl

/-- With no other segment waiting, the first one that waits is the one put, or none. -/
theorem Part.firstWaiting_setSeg {pt : Part} (h : pt.firstWaiting.isSome = false) (n : Nat) (g : Seg) :
    (pt.setSeg n g).firstWaiting = if g.waits then some (n, g) else none := by
  rw [Part.firstWaiting, Part.setSeg, SMap.filter_put n g (Part.waiting_of_firstWaiting_none h)]
  split <;> rfl

/-! ### The push of a descriptor (R222, R227) -/

theorem Chip.StoreOnly.cstWriteList (m : Nat) : ∀ (l : List DWord) (c : Chip) (a : Nat), c.StoreOnly (c.cstWriteList m a l)
  | [], c, _ => .refl c
  | _ :: l, c, a => (Chip.StoreOnly.cstWriteMerged c a _).trans (Chip.StoreOnly.cstWriteList m l _ (a + 1))

theorem Chip.StoreOnly.parts {c d : Chip} (h : c.StoreOnly d) : d.parts = c.parts := by obtain ⟨_, _, _, _, hd⟩ := h.rest; rw [hd]

theorem Chip.RegsOnly.parts {c d : Chip} {l : List Nat} (h : c.RegsOnly d l) : d.parts = c.parts := by obtain ⟨⟨_, _, _, rfl⟩, -⟩ := h; rfl

/-- A push reaches the pool and the store, and neither partition nor Safe. -/
theorem Chip.carPushSeg_keeps (c : Chip) (q r p n k a : Nat) : (c.carPushSeg q r p n k a).1.parts = c.parts ∧
    (c.carPushSeg q r p n k a).1.fatal = c.fatal ∧ (c.carPushSeg q r p n k a).1.resetReq = c.resetReq := by
  unfold Chip.carPushSeg
  split
  · exact ⟨rfl, rfl, rfl⟩
  · unfold Chip.carEnter
    extract_lets idx gen arr e pool c1 c2
    have hstore : c1.StoreOnly c2 := .cstWriteList 17 _ c1 _
    obtain ⟨t, ht⟩ := (c2.addCnt (R.CAR_Q_PUSHED q) 1).carTimer_regsOnly q false
    exact ⟨ht.parts.trans hstore.parts, ht.fatal.trans hstore.fatal, ht.resetReq.trans hstore.resetReq⟩

/-- What becomes of a partition's segments where at most the one in slot `n`, put as `g`, notes what became of its push. -/
def Chip.PushNoted (c d : Chip) (p n : Nat) (g : Seg) : Prop :=
  (d.part p = c.part p ∨ ∃ k, d.part p = (c.part p).setSeg n { g with pushed := k }) ∧ d.fatal = c.fatal ∧ d.resetReq = c.resetReq

theorem Chip.PushNoted.refused (c : Chip) (p n : Nat) (g : Seg) (e : Nat × Nat) (a : Nat) :
    c.PushNoted (((c.setPart p ((c.part p).setSeg n { g with pushed := 1 })).raise e).addCnt a 1) p n g := by
  have h := (Chip.EventsOnly.raise (c.setPart p ((c.part p).setSeg n { g with pushed := 1 })) e).trans (.addCnt _ a 1)
  exact ⟨.inr ⟨1, (Chip.part_congr h.parts p).trans (c.part_setPart p _)⟩, h.fatal, h.resetReq⟩

theorem Chip.offerPush_noted (c : Chip) {p n : Nat} {g : Seg}
    (h : (c.part p).firstWaiting = none ∨ (c.part p).firstWaiting = some (n, g)) : c.PushNoted (c.offerPush p) p n g := by
  unfold Chip.offerPush
  rcases h with h | h
  · rw [h]
    exact ⟨.inl rfl, rfl, rfl⟩
  · rw [h]
    dsimp only
    obtain ⟨hparts, hfatal, hreset⟩ := c.carPushSeg_keeps (c.wfld (R.PRT_CFG p) F.PRT_CFG_QUEUE) (c.wfld (R.PRT_CFG p) F.PRT_CFG_PRIO) p n g.segNo
      (c.segBase p + 256 * n)
    split
    · refine ⟨.inr ⟨2, ?_⟩, hfatal, hreset⟩
      rw [Chip.part_setPart, Chip.part_congr hparts]
    · split
      · exact .refused _ _ _ _ _ _
      · exact ⟨.inl rfl, rfl, rfl⟩

theorem Chip.refuseBehind_noted (c : Chip) (p n : Nat) (g : Seg) : c.PushNoted (c.refuseBehind p n g) p n g := by
  unfold Chip.refuseBehind
  dsimp only
  split
  · exact .refused _ _ _ _ _ _
  · exact ⟨.inl rfl, rfl, rfl⟩

/-! ### The commit (R174) -/

/-- A committed segment. -/
def Seg.committed (g : Seg) : Seg := { g with state := 2, closing := false }

/-- The engine with the segment live and SEG_COMMIT raised. -/
def Chip.segLive (c : Chip) (p n : Nat) (g : Seg) : Chip :=
  let d := (c.putPart p ((c.part p).setSeg n g.committed)).raise (Ev.segCommit p)
  if g.sideLost then d.raise (Ev.sideLost p) else d

theorem Chip.commitDone_eq (c : Chip) (p n : Nat) (g : Seg) : c.commitDone p n g =
    if (c.part p).firstWaiting.isSome then (c.segLive p n g).refuseBehind p n g.committed else (c.segLive p n g).offerPush p := rfl

theorem Chip.segLive_spec (c : Chip) (p n : Nat) (g : Seg) : (c.segLive p n g).part p = (c.part p).setSeg n g.committed ∧
    (c.segLive p n g).fatal = c.fatal ∧ (c.segLive p n g).resetReq = c.resetReq := by
  have h : (c.putPart p ((c.part p).setSeg n g.committed)).EventsOnly (c.segLive p n g) := by
    unfold Chip.segLive
    dsimp only
    split
    · exact (Chip.EventsOnly.raise _ _).trans (.raise _ _)
    · exact .raise _ _
  obtain ⟨hpart, hfatal, hreset⟩ := c.putPart_spec p ((c.part p).setSeg n g.committed)
  exact ⟨(Chip.part_congr h.parts p).trans hpart, h.fatal.trans hfatal, h.resetReq.trans hreset⟩

theorem Chip.commitDone_noted (c : Chip) (p n : Nat) (g : Seg) : (c.segLive p n g).PushNoted (c.commitDone p n g) p n g.committed := by
  rw [Chip.commitDone_eq]
  split
  next => exact Chip.refuseBehind_noted _ _ _ _
  next hnone =>
    refine Chip.offerPush_noted _ ?_
    rw [(c.segLive_spec p n g).1, Part.firstWaiting_setSeg (Bool.eq_false_iff.2 hnone)]
    split
    · exact .inr rfl
    · exact .inl rfl

/-- The segment committed, whatever became of its push. -/
theorem Chip.commitDone_spec (c : Chip) (p n : Nat) (g : Seg) :
    (∃ k, ((c.commitDone p n g).part p).seg n = some { g.committed with pushed := k }) ∧ (c.commitDone p n g).fatal = c.fatal ∧
      (c.commitDone p n g).resetReq = c.resetReq := by
  obtain ⟨hpart, hfatal, hreset⟩ := c.segLive_spec p n g
  obtain ⟨hnoted, nfatal, nreset⟩ := c.commitDone_noted p n g
  refine ⟨?_, nfatal.trans hfatal, nreset.trans hreset⟩
  rcases hnoted with hsame | ⟨k, hput⟩
  · exact ⟨g.pushed, by rw [hsame, hpart, Part.seg_setSeg]; rfl⟩
  · exact ⟨k, by rw [hput, Part.seg_setSeg]⟩

section
variable {s : State} {p n : Nat} {g : Seg} (h : s.chip.atWork = true) (hp : p < 16) (hn : n < 256) (hseg : (s.chip.part p).seg n = some g)
  (hstate : g.state = 1) (hclosing : g.closing = true)
include h hp hn hseg hstate hclosing

/-- A segment that has left OPEN takes the step of its commit that is next. -/
theorem exec_segmentCommit : exec (.segmentCommit p n) s = .next (s.after
    (if g.stage = 0 then (if s.chip.segWritten p n g then (s.chip.commitLists p n g).commitGo p n 2 else s.chip)
     else if g.stage = 1 then (if s.chip.pagesPending p g then s.chip else (s.chip.commitEntry p n g).commitGo p n 2)
     else if s.chip.capPending (s.chip.segBase p + 256 * n) 256 then s.chip else s.chip.commitDone p n g)) := by
  have hwf : (Instr.segmentCommit p n).wf = true := by
    simp only [Instr.wf, Bool.and_eq_true, decide_eq_true_eq]
    exact ⟨hp, hn⟩
  have hexec := State.act_of_atWork (i := .segmentCommit p n) h hwf (doSegmentCommit p n)
  rw [doSegmentCommit, if_neg (by rw [Chip.inSafe_of_atWork h]; decide), Chip.commitGo, hseg] at hexec
  dsimp only at hexec
  rw [if_pos ⟨hstate, hclosing⟩] at hexec
  exact hexec

theorem completes_segmentCommit (hstage : g.stage = 2) (hdone : s.chip.capPending (s.chip.segBase p + 256 * n) 256 = false) :
    exec (.segmentCommit p n) s = .next (s.after (s.chip.commitDone p n g)) ∧
    Completes (.segmentCommit p n) s (fun c => ∃ g1, (c.part p).seg n = some g1 ∧ g1.state = 2 ∧ g1.closing = false ∧ g1.segNo = g.segNo) := by
  have hexec := exec_segmentCommit h hp hn hseg hstate hclosing
  rw [hstage, if_neg (by decide), if_neg (by decide), hdone, if_neg Bool.false_ne_true] at hexec
  obtain ⟨⟨k, hk⟩, hfatal, hreset⟩ := s.chip.commitDone_spec p n g
  exact ⟨hexec, .of_exec hexec (hfatal.trans (Chip.fatal_of_atWork h)) (hreset.trans (Chip.resetReq_of_atWork h)) ⟨_, hk, rfl, rfl, rfl⟩⟩

end

/-- Settles O35: a codec reads and codes in its time; a block goes to its place; a segment takes the next step of its commit, and the
descriptor of the one that commits is the first that waits. -/
theorem blocksAndSegments : Obligations.BlocksAndSegments := by
  refine ⟨fun s n b l h hn hstaged hout hpipe => completes_codecBlockStart h hn hstaged hout hpipe,
    fun s i n p h hn howner hidle hverify => exec_fulInject h i hn howner hidle hverify,
    fun s n a b l h hn hbusy hout => completes_codecBlockDone h hn hbusy hout,
    fun s g ofs t o l h hg hout hmc hwins hplace hfit => exec_blockAllocate h hg hout hmc hwins hplace hfit,
    fun s p n g h hp hn hseg hstate hclosing => ?_,
    fun s p h hp => State.act_of_atWork (i := .segmentPushRetry p) h (decide_eq_true hp) (doSegmentPushRetry p)⟩
  have hexec := exec_segmentCommit h hp hn hseg hstate hclosing
  refine ⟨fun hstage hwritten => ?_, fun hstage hwritten => ?_, fun hstage hpages => ?_,
    fun hstage hdone => completes_segmentCommit h hp hn hseg hstate hclosing hstage hdone⟩
  · rw [if_pos hstage, if_pos hwritten] at hexec
    exact hexec
  · rw [if_pos hstage, hwritten, if_neg Bool.false_ne_true] at hexec
    exact hexec
  · rw [hstage, if_neg (by decide), if_pos rfl, hpages, if_neg Bool.false_ne_true] at hexec
    exact hexec

end Sys2Proof.Machine
end

section
/-! An accepted ARM (R167, R168): what it changes, and the partition it leaves. -/

namespace Sys2Proof.Machine

/-! ### What lies outside the partition -/

/-- The registers of groups, sequencers, resources and Fuller instances. -/
def groupReg (a : Nat) : Prop := 0x40000 ≤ a ∧ a < 0x300000

/-- The part of an ARM that concerns groups, sequencer and resources: registers below the partitions', working copies, lanes, sequencers and
the marks of the resources. -/
structure Chip.Arming (c d : Chip) : Prop where
  regs : c.RegsIn groupReg d
  rest : ∃ r w l q t, d = { c with regs := r, wcopy := w, lanes := l, seqs := q, trs := t }

section
variable {c d e : Chip}

theorem Chip.Arming.refl (c : Chip) : c.Arming c := ⟨.refl _ c, _, _, _, _, _, rfl⟩

theorem Chip.Arming.trans (h : c.Arming d) (k : d.Arming e) : c.Arming e := by
  obtain ⟨_, _, _, _, _, hd⟩ := h.rest
  obtain ⟨r, w, l, q, t, he⟩ := k.rest
  exact ⟨h.regs.trans k.regs, r, w, l, q, t, by rw [he, hd]⟩

theorem Chip.Arming.ite {b : Prop} [Decidable b] (h : c.Arming d) (k : c.Arming e) : c.Arming (if b then d else e) := by
  split
  · exact h
  · exact k

theorem Chip.Arming.foldl {α : Type} {f : Chip → α → Chip} {l : List α} (h : ∀ c, ∀ x ∈ l, Chip.Arming c (f c x)) (c : Chip) :
    c.Arming (l.foldl f c) := by
  induction l generalizing c with
  | nil => exact .refl c
  | cons x l ih => exact (h c x List.mem_cons_self).trans (ih (fun d y hy => h d y (List.mem_cons_of_mem x hy)) _)

theorem Chip.Arming.parts (h : c.Arming d) : d.parts = c.parts := by obtain ⟨_, _, _, _, _, hd⟩ := h.rest; rw [hd]
theorem Chip.Arming.fatal (h : c.Arming d) : d.fatal = c.fatal := by obtain ⟨_, _, _, _, _, hd⟩ := h.rest; rw [hd]
theorem Chip.Arming.resetReq (h : c.Arming d) : d.resetReq = c.resetReq := by obtain ⟨_, _, _, _, _, hd⟩ := h.rest; rw [hd]
theorem Chip.Arming.cst (h : c.Arming d) : d.cst = c.cst := by obtain ⟨_, _, _, _, _, hd⟩ := h.rest; rw [hd]
theorem Chip.Arming.mc (h : c.Arming d) : d.mc = c.mc := by obtain ⟨_, _, _, _, _, hd⟩ := h.rest; rw [hd]

end

section
variable (c : Chip)

theorem Chip.Arming.setN {a : Nat} (h : groupReg a) (n : Nat) : c.Arming (c.setN a n) := ⟨.setN c n h, _, _, _, _, _, rfl⟩
theorem Chip.Arming.setFld {a : Nat} (h : groupReg a) (f : Fld) (v : Nat) : c.Arming (c.setFld a f v) := .setN c h _
theorem Chip.Arming.setFlag {a : Nat} (h : groupReg a) (f : Fld) (b : Bool) : c.Arming (c.setFlag a f b) := .setN c h _
theorem Chip.Arming.setPair {a : Nat} (h : groupReg a) (h4 : groupReg (a + 4)) (w v : Nat) : c.Arming (c.setPair w a v) :=
  (Chip.Arming.setN c h _).trans (.setN _ h4 _)
theorem Chip.Arming.setLane (g : Nat) (l : Lane) : c.Arming (c.setLane g l) := ⟨.of_regs rfl, _, _, _, _, _, rfl⟩
theorem Chip.Arming.copyReg (a : Nat) : c.Arming (c.copyReg a) := ⟨.of_regs rfl, _, _, _, _, _, rfl⟩
theorem Chip.Arming.copyRegs (l : List Nat) : c.Arming (c.copyRegs l) := .foldl (fun c a _ => .copyReg c a) c

theorem Chip.Arming.copyWr (n : Nat) : c.Arming (c.copyWr n) :=
  (Chip.Arming.copyRegs c (wrRegs n)).trans ⟨.of_regs rfl, _, _, _, _, _, rfl⟩

theorem Chip.Arming.copyCt (n : Nat) : c.Arming (c.copyCt n) :=
  (Chip.Arming.copyRegs c (ctRegs n)).trans ⟨.of_regs rfl, _, _, _, _, _, rfl⟩

theorem Chip.Arming.copyResources (f : Nat → Bool) : c.Arming (c.copyResources f) := by
  unfold Chip.copyResources
  extract_lets c1 c2 c3
  have hwr : c.Arming c1 := .foldl (fun c n _ => .ite (.copyWr c n) (.refl c)) c
  have hrc : c1.Arming c2 := .foldl (fun c n _ => .ite (.copyRegs c _) (.refl c)) c1
  have hct : c2.Arming c3 := .foldl (fun c n _ => .ite (.copyCt c n) (.refl c)) c2
  exact ((hwr.trans hrc).trans hct).trans (.foldl (fun c n _ => .ite (.copyRegs c _) (.refl c)) c3)

theorem Chip.Arming.armCopies (p : Nat) : c.Arming (c.armCopies p) := by
  have hregs : c.Arming ((c.copyRegs (prtRegs p)).copyRegs ((c.cfgGroups p).map R.FUL_CTRL ++ (c.cfgGroups p).flatMap laneRegs)) :=
    (Chip.Arming.copyRegs c _).trans (.copyRegs _ _)
  unfold Chip.armCopies
  split
  · exact hregs
  · exact (hregs.trans (.copyRegs _ _)).trans (.copyResources _ _)

section
variable {g : Nat} (hg : g < 8)
include hg

theorem groupReg_group : groupReg (R.LG_STAT g) ∧ groupReg (R.LG_STAGE g) ∧ groupReg (R.FUL_STAT g) := by
  simp only [groupReg, R.LG_STAT, R.LG_STAGE, R.FUL_STAT]
  omega

theorem Chip.Arming.laneApply : c.Arming (c.laneApply g) := by
  obtain ⟨l, hl⟩ := c.laneApply_shape g
  rw [hl]
  exact ((Chip.Arming.copyRegs c _).trans (.setFlag _ (groupReg_group hg).1 _ _)).trans (.setLane _ _ _)

theorem Chip.Arming.laneBegin : c.Arming (c.laneBegin g) := by
  have hstage := (groupReg_group hg).2.1
  exact ((Chip.Arming.setLane c g _).trans (.setFld _ hstage F.LG_STAGE_USED _)).trans (.setFld _ hstage F.LG_STAGE_PEAK _)

theorem Chip.Arming.fulBegin (p : Nat) : c.Arming (c.fulBegin p g) := by
  have hstat := (groupReg_group hg).2.2
  exact ((Chip.Arming.setFlag c hstat _ _).trans (.setFlag _ hstat _ _)).trans (.setFlag _ hstat _ _)

end

theorem Chip.lt_of_mem_cfgGroups {c : Chip} {p g : Nat} (h : g ∈ c.cfgGroups p) : g < 8 := (mem_maskList.1 h).1

/-! ### The sequencer -/

theorem Chip.Arming.setChk {n : Nat} (hn : n < 16) (r : Nat) (f : SqFault) : c.Arming (c.setChk n r f) := by
  have hchk : groupReg (R.SQ_CHK n) := by simp only [groupReg, R.SQ_CHK]; omega
  unfold Chip.setChk
  exact (((((Chip.Arming.setN c hchk _).trans (.setFld _ hchk _ _)).trans (.setFld _ hchk _ _)).trans (.setFld _ hchk _ _)).trans
    (.setFld _ hchk _ _)).trans (.setFlag _ hchk _ _)

theorem Chip.Arming.resBegin (n : Nat) : c.Arming (c.resBegin n) := by
  have hct : ∀ k, k < 32 → groupReg (R.TRS_CT_VAL_L k) ∧ groupReg (R.TRS_CT_VAL_L k + 4) := fun k hk => by
    simp only [groupReg, R.TRS_CT_VAL_L]; omega
  have htm : ∀ k, k < 16 → groupReg (R.TRS_TM_VAL_L k) ∧ groupReg (R.TRS_TM_VAL_L k + 4) ∧ groupReg (R.TRS_TM_CFG k) := fun k hk => by
    simp only [groupReg, R.TRS_TM_VAL_L, R.TRS_TM_CFG]; omega
  unfold Chip.resBegin
  dsimp only
  refine Chip.Arming.trans (.foldl (fun c k hk => ?_) c) (.foldl (fun c k hk => ?_) _)
  · obtain ⟨hl, hh⟩ := hct k (List.mem_range.1 hk)
    exact .ite (.setPair c hl hh _ _) (.refl c)
  · obtain ⟨hl, hh, hcfg⟩ := htm k (List.mem_range.1 hk)
    exact .ite ((Chip.Arming.setPair c hl hh _ _).trans (.setFlag _ hcfg _ _)) (.refl c)

/-- The members of a sequencer that may be bound are sequencers of the engine. -/
theorem Chip.lt_of_mem_members {c : Chip} {n i : Nat} (hn : n < 16) (heven : c.steady = true → n % 2 = 0) (hi : i ∈ c.members n) : i < 16 := by
  unfold Chip.members at hi
  split at hi
  next hs =>
    have := heven hs
    rcases List.mem_cons.1 hi with rfl | hi
    · exact hn
    · rw [List.mem_singleton.1 hi]
      omega
  next =>
    rw [List.mem_singleton.1 hi]
    exact hn

theorem Chip.Arming.seqBegin {n : Nat} (hn : n < 16) (heven : c.steady = true → n % 2 = 0) (p : Nat) : c.Arming (c.seqBegin n p) := by
  unfold Chip.seqBegin
  extract_lets c1
  have hstart : c.Arming c1 := by
    refine .foldl (fun c i hi => ?_) c
    have hstat : groupReg (R.SQ_STAT i) := by
      have := Chip.lt_of_mem_members hn heven hi
      simp only [groupReg, R.SQ_STAT]
      omega
    exact (((Chip.Arming.setFld c hstat _ _).trans (.setFlag _ hstat _ _)).trans (.setFlag _ hstat _ _)).trans (.setFlag _ hstat _ _)
  have hput : (c1.setChk n 0 ⟨0, 0, 0, false⟩).Arming ((c1.setChk n 0 ⟨0, 0, 0, false⟩).setSeq n {}) :=
    ⟨.of_regs rfl, _, _, _, _, _, rfl⟩
  exact ((hstart.trans (.setChk c1 hn _ _)).trans hput).trans (.resBegin _ n)

theorem Chip.mem_of_sqFor {c : Chip} {p n : Nat} (h : c.sqFor p = some n) : n ∈ c.sqNaming p :=
  (List.mem_filter.1 (List.mem_of_head? h)).1

theorem Chip.lt_of_mem_sqNaming {c : Chip} {p n : Nat} (h : n ∈ c.sqNaming p) : n < 16 ∧ (c.steady = true → n % 2 = 0) := by
  obtain ⟨henabled, hmay⟩ := List.mem_filter.1 h
  refine ⟨List.mem_range.1 (List.mem_filter.1 henabled).1, fun hs => ?_⟩
  simpa [hs] using hmay

end

/-! ### The partition -/

/-- The registers that an accepted ARM may change. -/
def armReg (p a : Nat) : Prop := 0x40000 ≤ a ∧ a ≠ R.PRT_CMDSTAT p

/-- Only the partition itself, and registers other than its CMDSTAT, have changed. -/
structure Chip.PartPut (p : Nat) (c d : Chip) : Prop where
  regs : c.RegsIn (armReg p) d
  parts : d.parts = c.parts
  fatal : d.fatal = c.fatal
  resetReq : d.resetReq = c.resetReq
  cst : d.cst = c.cst
  mc : d.mc = c.mc

section
variable {c d e : Chip} {p : Nat}

theorem Chip.PartPut.trans (h : c.PartPut p d) (k : d.PartPut p e) : c.PartPut p e :=
  ⟨h.regs.trans k.regs, k.parts.trans h.parts, k.fatal.trans h.fatal, k.resetReq.trans h.resetReq, k.cst.trans h.cst, k.mc.trans h.mc⟩

theorem Chip.PartPut.of_events (h : c.EventsOnly d) (k : c.RegsIn (armReg p) d) : c.PartPut p d :=
  ⟨k, h.parts, h.fatal, h.resetReq, h.cst, h.mc⟩

theorem Chip.PartPut.of_arming (h : c.Arming d) : c.PartPut p d := by
  refine ⟨h.regs.mono (fun a ha => ?_), h.parts, h.fatal, h.resetReq, h.cst, h.mc⟩
  simp only [groupReg] at ha
  simp only [armReg, R.PRT_CMDSTAT]
  omega

theorem Chip.PartPut.setN (c : Chip) {a : Nat} (h : armReg p a) (n : Nat) : c.PartPut p (c.setN a n) :=
  .of_events (.setN c a n) (.setN c n h)

theorem Chip.PartPut.setPair (c : Chip) {a : Nat} (h : armReg p a) (h4 : armReg p (a + 4)) (w v : Nat) :
    c.PartPut p (c.setPair w a v) := (Chip.PartPut.setN c h _).trans (.setN _ h4 _)

theorem Chip.PartPut.setPrtState (c : Chip) (v : Nat) : c.PartPut p (c.setPrtState p v) :=
  .setN c (by simp only [armReg, R.PRT_STAT, R.PRT_CMDSTAT]; omega) _

theorem Chip.PartPut.refreshPart (c : Chip) : c.PartPut p (c.refreshPart p) := by
  refine .of_events (.refreshPart c p) ?_
  have hone : armReg p (R.PRT_STAT p) ∧ armReg p (R.PRT_LIVE0 p) ∧ armReg p (R.PRT_LIVE1 p) ∧ armReg p (R.PRT_LIVE2 p) ∧
      armReg p (R.PRT_HOLD_STAT p) ∧ armReg p (R.PRT_HELD_L p) ∧ armReg p (R.PRT_HELD_L p + 4) ∧ armReg p (R.PRT_OLDEST_L p) ∧
      armReg p (R.PRT_OLDEST_L p + 4) ∧ armReg p (R.PRT_OLDEST_L p + 8) := by
    simp only [armReg, R.PRT_STAT, R.PRT_CMDSTAT, R.PRT_LIVE0, R.PRT_LIVE1, R.PRT_LIVE2, R.PRT_HOLD_STAT, R.PRT_HELD_L, R.PRT_OLDEST_L]
    omega
  obtain ⟨hstat, h0, h1, h2, hhold, hheld, hheld4, hold, hold4, hold8⟩ := hone
  unfold Chip.refreshPart
  extract_lets pt live wins c1 c2 c3 c4
  have hlive : c.RegsIn (armReg p) c2 := (((Chip.RegsIn.setFld c _ _ hstat).trans (.setN _ _ h0)).trans (.setN _ _ h1)).trans (.setN _ _ h2)
  have hwins : c2.RegsIn (armReg p) c3 := (Chip.RegsIn.setFld c2 _ _ hhold).trans (.setFld _ _ _ hhold)
  have hbytes : c3.RegsIn (armReg p) c4 := .setPair _ _ _ hheld hheld4
  exact ((hlive.trans hwins).trans hbytes).trans (.setTriple _ _ hold hold4 hold8)

end

/-- The groups' part of an accepted ARM. -/
def Chip.armGroups (c : Chip) (p : Nat) : Chip :=
  let d := (c.cfgGroups p).foldl (fun c g => c.laneApply g) (c.armCopies p)
  (d.cfgGroups p).foldl (fun c g => (c.laneBegin g).fulBegin p g) d

theorem Chip.Arming.armGroups (c : Chip) (p : Nat) : c.Arming (c.armGroups p) := by
  unfold Chip.armGroups
  extract_lets d
  have happly : (c.armCopies p).Arming d := .foldl (fun e g hg => .laneApply e (Chip.lt_of_mem_cfgGroups hg)) _
  have hbegin : d.Arming ((d.cfgGroups p).foldl (fun c g => (c.laneBegin g).fulBegin p g) d) := .foldl (fun e g hg =>
    (Chip.Arming.laneBegin e (Chip.lt_of_mem_cfgGroups hg)).trans (.fulBegin _ (Chip.lt_of_mem_cfgGroups hg) p)) d
  exact ((Chip.Arming.armCopies c p).trans happly).trans hbegin

/-- A partition as an ARM begins it: nothing in it. -/
def Part.begun (q b k : Nat) (f : Bool) : Part := { storeQ := f, q := q, seqBound := b, armCycle := k }

theorem not_groupReg_profile : ¬ groupReg R.GLB_PROFILE_EFF := fun h => absurd h.1 (by decide)
theorem not_armReg_profile {p : Nat} : ¬ armReg p R.GLB_PROFILE_EFF := fun h => absurd h.1 (by decide)

/-- An accepted ARM: the groups' part, the partition begun, and then registers of the partition and the sequencer's part. -/
theorem Chip.armNow_spec {c : Chip} {p : Nat} :
    ∃ q b k f, ((c.armGroups p).setPart p (Part.begun q b k f)).PartPut p (c.armNow p) ∧ (c.armNow p).prtState p = 1 ∧
      (c.sqFor p = none → q = 0 ∧ b = 0) := by
  unfold Chip.armNow
  extract_lets sq c1 size c2 c3 c4 c5 c6
  refine ⟨size.1, (sq.map (· + 1)).getD 0, c2.lineCycle, c2.storeInit p, ?_, ?_, fun hnone => ?_⟩
  · have hpair : armReg p (R.PRT_POSTMAX_L p) ∧ armReg p (R.PRT_POSTMAX_L p + 4) ∧ armReg p (R.PRT_BUDGET_L p) ∧
        armReg p (R.PRT_BUDGET_L p + 4) ∧ armReg p (R.PRT_RET_FULL p) ∧ armReg p (R.PRT_RET_MIN p) := by
      simp only [armReg, R.PRT_POSTMAX_L, R.PRT_CMDSTAT, R.PRT_BUDGET_L, R.PRT_RET_FULL, R.PRT_RET_MIN]
      omega
    obtain ⟨hpost, hpost4, hbudget, hbudget4, hfull, hmin⟩ := hpair
    have hsizes : c3.PartPut p c4 := (Chip.PartPut.setPair c3 hpost hpost4 _ _).trans (.setPair _ hbudget hbudget4 _ _)
    have hret : c4.PartPut p c5 := (Chip.PartPut.setN c4 hfull _).trans (.setN _ hmin _)
    have hsteady : c5.steady = c.steady := congrArg not
      (((hsizes.trans hret).regs.flag not_armReg_profile _).trans ((Chip.Arming.armGroups c p).regs.flag not_groupReg_profile _))
    have hseq : c5.PartPut p c6 := by
      refine .of_arming ?_
      change c5.Arming (match sq with | some n => c5.seqBegin n p | none => c5)
      cases hsq : sq with
      | none => exact .refl c5
      | some n =>
        obtain ⟨hn, heven⟩ := Chip.lt_of_mem_sqNaming (Chip.mem_of_sqFor (show c.sqFor p = some n from hsq))
        exact .seqBegin c5 hn (fun hs => heven (hsteady.symm.trans hs)) p
    exact (((hsizes.trans hret).trans hseq).trans (.setPrtState c6 1)).trans (.refreshPart _)
  · rw [Chip.prtState_refreshPart]
    exact Chip.fld_setFld c6 _ _ _ (by decide)
  · have hsq : sq = none := hnone
    change (c1.postSize p sq).1 = 0 ∧ (sq.map (· + 1)).getD 0 = 0
    rw [hsq]
    exact ⟨rfl, rfl⟩

/-- Neither a row of the tables nor a sequencer's fault: there is nothing to report. -/
theorem Chip.armReport_of_accepted {r : Nat × SqFault} (h : r.1 = 0) (c : Chip) (p : Nat) : c.armReport p r = c :=
  Chip.armReport_of_lt (by omega) c p

theorem Chip.armCmd_of_accepted {c : Chip} {p : Nat} (hs : c.inSafe = false) (hr : (c.armReason (c.armCopies p) p).1 = 0) (i : Init) :
    c.armCmd i p none = c.accept (prtPort p) (fun c => c.armNow p) := by
  rw [Chip.armCmd, if_neg (by rw [hs]; decide)]
  dsimp only
  rw [Chip.armReport_of_accepted hr, hr, Chip.command_accept _ _ _ _ _ hs]

/-! ### What the last write's notes do not reach -/

section
variable (c w : Chip)

theorem Chip.copyRegs_writing (l : List Nat) : c.writing.copyRegs l = (c.copyRegs l).writing :=
  List.foldl_hom Chip.writing (fun _ _ => rfl)

theorem Chip.copyResources_writing (f : Nat → Bool) : c.writing.copyResources f = (c.copyResources f).writing := by
  have hregs : ∀ (d : Chip) (b : Bool) (l : List Nat), (if b then d.writing.copyRegs l else d.writing) = (if b then d.copyRegs l else d).writing :=
    fun d b l => by
      cases b
      · rfl
      · exact d.copyRegs_writing l
  have hwr : ∀ (d : Chip) (b : Bool) (n : Nat), (if b then d.writing.copyWr n else d.writing) = (if b then d.copyWr n else d).writing :=
    fun d b n => by
      cases b
      · rfl
      · rw [if_pos rfl, if_pos rfl, Chip.copyWr, Chip.copyRegs_writing]
        rfl
  have hct : ∀ (d : Chip) (b : Bool) (n : Nat), (if b then d.writing.copyCt n else d.writing) = (if b then d.copyCt n else d).writing :=
    fun d b n => by
      cases b
      · rfl
      · rw [if_pos rfl, if_pos rfl, Chip.copyCt, Chip.copyRegs_writing]
        rfl
  unfold Chip.copyResources
  dsimp only
  rw [List.foldl_hom Chip.writing (fun d n => hwr d _ n), List.foldl_hom Chip.writing (fun d n => hregs d _ _),
    List.foldl_hom Chip.writing (fun d n => hct d _ n), List.foldl_hom Chip.writing (fun d n => hregs d _ _)]
  rfl

theorem Chip.sqFor_writing (p : Nat) : c.writing.sqFor p = c.sqFor p := rfl

theorem Chip.armCopies_writing (p : Nat) : c.writing.armCopies p = (c.armCopies p).writing := by
  unfold Chip.armCopies
  rw [Chip.sqFor_writing, show c.writing.cfgGroups p = c.cfgGroups p from rfl]
  dsimp only
  rw [Chip.copyRegs_writing, Chip.copyRegs_writing]
  split
  · rfl
  · rw [Chip.copyRegs_writing, Chip.copyResources_writing]
    rfl

theorem Chip.armTableReason_writing (p : Nat) : c.writing.armTableReason w.writing p = c.armTableReason w p := rfl
theorem Chip.programFault_writing (n : Nat) : w.writing.programFault n = w.programFault n := rfl

theorem Chip.armReason_writing (p : Nat) : c.writing.armReason (c.writing.armCopies p) p = c.armReason (c.armCopies p) p := by
  rw [Chip.armCopies_writing, Chip.armReason, Chip.armTableReason_writing, Chip.sqFor_writing]
  rfl

end

theorem not_groupReg_cmdstat {p : Nat} : ¬ groupReg (R.PRT_CMDSTAT p) := by
  simp only [groupReg, R.PRT_CMDSTAT]
  omega

/-- Two engines whose registers of sequencers and profile agree name the same sequencers. -/
theorem Chip.sqNaming_congr {c d : Chip} {p : Nat} (h : ∀ a, a < 0x300000 → d.reg a = c.reg a) : d.sqNaming p = c.sqNaming p := by
  have hsteady : d.steady = c.steady := congrArg not (Chip.flag_congr (h _ (by decide)) _)
  have henabled : d.sqEnabled p = c.sqEnabled p := List.filter_congr (fun n hn => by
    have hctrl : d.reg (R.SQ_CTRL n) = c.reg (R.SQ_CTRL n) := h _ (by
      have := List.mem_range.1 hn
      simp only [R.SQ_CTRL]
      omega)
    rw [Chip.flag_congr hctrl, Chip.fld_congr hctrl])
  rw [Chip.sqNaming, hsteady, henabled, Chip.sqNaming]

theorem Chip.sqFor_of_naming_nil {c : Chip} {p : Nat} (h : c.sqNaming p = []) : c.sqFor p = none := by
  rw [Chip.sqFor, h]
  rfl

/-- Settles O33: the ARM is accepted as it is judged, and begins an empty partition in state RECORDING. -/
theorem armAccepted : Obligations.ArmAccepted := by
  intro s i p h hp hr
  refine .of_accept (p := prtPort p) (f := fun c => c.armNow p) h ?_ (fun d hd hreason => ?_)
  · rw [exec_arm_of_atWork h hp, Chip.armCmd_of_accepted (c := s.chip.writing) (Chip.inSafe_of_atWork h) (by rw [Chip.armReason_writing, hr])]
  · obtain ⟨q, b, k, f, hput, hstate, hnone⟩ := d.armNow_spec (p := p)
    have hgroups := Chip.Arming.armGroups d p
    have hpart : ((d.armNow p).part p) = Part.begun q b k f := (Chip.part_congr hput.parts p).trans (Chip.part_setPart _ _ _)
    have hcmdstat : (d.armNow p).fld (R.PRT_CMDSTAT p) reasonFld = 0 :=
      (hput.regs.fld (fun ha => ha.2 rfl) _).trans ((hgroups.regs.fld not_groupReg_cmdstat _).trans hreason)
    have hfatal := hput.fatal.trans hgroups.fatal
    have hreset := hput.resetReq.trans hgroups.resetReq
    have hmem : s.chip.keepsMem (d.armNow p) :=
      Chip.keepsMem_of_eq (hput.cst.trans (hgroups.cst.trans hd.cst)) (hput.mc.trans (hgroups.mc.trans hd.mc))
    have hunbound : s.chip.sqNaming p = [] → q = 0 ∧ b = 0 := fun hnil => hnone (Chip.sqFor_of_naming_nil
      ((Chip.sqNaming_congr (fun a ha => hd.2 a (by
        simp only [prtPort, List.mem_singleton, R.PRT_CMDSTAT]
        omega))).trans hnil))
    generalize d.armNow p = e at hfatal hreset hstate hcmdstat hpart hmem ⊢
    have hpart' : e.noReason.part p = Part.begun q b k f := hpart
    have hrecording : e.noReason.recording p = true := by
      rw [Chip.recording, show e.noReason.prtState p = 1 from hstate]
      rfl
    rw [hpart']
    exact ⟨hfatal, hreset, hstate, hrecording, hcmdstat, rfl, rfl, rfl, rfl, hmem, hunbound⟩

end Sys2Proof.Machine
end

section
/-! `PORN`, and the stages of a start that an event completes (R339, R403 to R406, R410). -/

namespace Sys2Proof.Machine

/-! ### `PORN` -/

/-- What always acts has its effect in every state. -/
theorem Chip.perform_of_always {c : Chip} {i : Instr} (f : Chip → Chip) (hneed : needOf i = .always) (hhost : byHost i = false) :
    c.perform i f = f c := by
  have hwake : c.hostWake i = c := by
    rw [Chip.hostWake, hhost]
    exact if_neg (by simp)
  have hadmits : c.admits .always = true := by
    unfold Chip.admits
    split <;> rfl
  have hlost : c.linkLost i = false := by rw [Chip.linkLost, hhost, Bool.false_and]
  rw [Chip.perform, hwake, hneed, hadmits, hlost, if_pos (by decide), if_neg (by decide)]

theorem completes_pornAssert (s : State) : Completes .pornAssert s (fun c => c.pins.porn = true ∧ c.pins.pen = 0 ∧ c.pins.fault = true ∧
    c.cst.words = [] ∧ c.parts = [] ∧ c.boot.slotA = s.chip.boot.slotA ∧ c.boot.slotB = s.chip.boot.slotB) := by
  have hexec : exec .pornAssert s = .next (s.after (doPornAssert s.chip)) := by
    rw [show exec .pornAssert s = s.act .pornAssert doPornAssert from rfl, State.act, if_pos (show Instr.pornAssert.wf = true from rfl),
      Chip.perform_of_always _ rfl rfl]
  exact .of_exec hexec rfl rfl ⟨rfl, rfl, rfl, rfl, rfl, rfl, rfl⟩

/-- `STW_BOOT_STAT` as the start from slot `k` shows it, with whether the keys are fused. -/
def Chip.slotShown (c : Chip) (k : Nat) (a b : Bool) : Chip :=
  ((((c.setStage 1).setFld R.STW_BOOT_STAT F.STW_BOOT_STAT_SLOT k).setFld R.STW_BOOT_STAT F.STW_BOOT_STAT_OCTAL
    Config.flashOctal.toNat).setFlag R.STW_BOOT_STAT F.STW_BOOT_STAT_PROVISIONED a).setFlag R.STW_BOOT_STAT F.STW_BOOT_STAT_KEY2 b

theorem Chip.fld_slotShown (c : Chip) {k : Nat} (hk : k < 2) (a b : Bool) :
    (c.slotShown k a b).fld R.STW_BOOT_STAT F.STW_BOOT_STAT_STAGE = 1 ∧ (c.slotShown k a b).fld R.STW_BOOT_STAT F.STW_BOOT_STAT_SLOT = k := by
  unfold Chip.slotShown
  rw [Chip.fld_setFlag_of_apart _ _ _ _ _ _ (by decide) (.inl (by decide)), Chip.fld_setFlag_of_apart _ _ _ _ _ _ (by decide) (.inl (by decide)),
    Chip.fld_setFld_apart _ _ _ _ _ (by decide) (.inl (by decide)), Chip.fld_setFld_apart _ _ _ _ _ (by decide) (.inl (by decide)),
    Chip.fld_setFlag_of_apart _ _ _ _ _ _ (by decide) (.inl (by decide)), Chip.fld_setFlag_of_apart _ _ _ _ _ _ (by decide) (.inl (by decide)),
    Chip.fld_setFld_apart _ _ _ _ _ (by decide) (.inl (by decide)), Chip.fld_setFld _ _ _ _ (by decide), Chip.setStage,
    Chip.fld_setFld _ _ _ _ (by decide)]
  exact ⟨rfl, Nat.mod_eq_of_lt hk⟩

/-- The start from a slot. -/
structure Chip.StartedFrom (c d : Chip) (k : Nat) : Prop where
  shown : ∃ a b, d.reg R.STW_BOOT_STAT = (c.slotShown k a b).reg R.STW_BOOT_STAT
  pins : d.pins.porn = c.pins.porn ∧ d.pins.fault = c.pins.fault ∧ d.pins.pen = maskSet c.pins.pen 0
  slots : d.boot.slotA = c.boot.slotA ∧ d.boot.slotB = c.boot.slotB
  demands : d.fatal = c.fatal ∧ d.resetReq = c.resetReq

theorem Chip.startSlot_spec (c : Chip) (k : Nat) (b : Bool) : c.StartedFrom (c.startSlot k b) k := by
  unfold Chip.startSlot
  extract_lets f c1 c2 c3 c4
  have hversion : c3.EventsOnly c4 ∧ c4.reg R.STW_BOOT_STAT = c3.reg R.STW_BOOT_STAT := by
    change c3.EventsOnly (if f.vendorOk then c3.setN R.GLB_FW_VERSION f.fwVersion else c3) ∧
      (if f.vendorOk then c3.setN R.GLB_FW_VERSION f.fwVersion else c3).reg R.STW_BOOT_STAT = c3.reg R.STW_BOOT_STAT
    split
    · exact ⟨.setN _ _ _, Chip.reg_setN_ne _ _ (by decide)⟩
    · exact ⟨.refl _, rfl⟩
  have hshown : c.EventsOnly c3 := (((Chip.EventsOnly.setFld c R.STW_BOOT_STAT F.STW_BOOT_STAT_STAGE 1).trans
    (.setFld _ R.STW_BOOT_STAT F.STW_BOOT_STAT_SLOT k)).trans (.setFld _ R.STW_BOOT_STAT F.STW_BOOT_STAT_OCTAL Config.flashOctal.toNat)).trans
    ((Chip.EventsOnly.setFld c2 R.STW_BOOT_STAT F.STW_BOOT_STAT_PROVISIONED _).trans (.setFld _ R.STW_BOOT_STAT F.STW_BOOT_STAT_KEY2 _))
  obtain ⟨_, _, _, hc4⟩ := hshown.trans hversion.1
  have hpins : c4.pins = c.pins := by rw [hc4]
  have hboot : c4.boot = c.boot := by rw [hc4]
  have hfatal : c4.fatal = c.fatal := by rw [hc4]
  have hreset : c4.resetReq = c.resetReq := by rw [hc4]
  have hslots : c4.boot.slotA = c.boot.slotA ∧ c4.boot.slotB = c.boot.slotB := by rw [hboot]; exact ⟨rfl, rfl⟩
  have hpen : c4.pins.porn = c.pins.porn ∧ c4.pins.fault = c.pins.fault ∧ maskSet c4.pins.pen 0 = maskSet c.pins.pen 0 := by
    rw [hpins]
    exact ⟨rfl, rfl, rfl⟩
  have hstat : c4.reg R.STW_BOOT_STAT = (c.slotShown k (decide (c2.keyHash 0 ≠ 0)) (decide (c2.keyHash 1 ≠ 0))).reg R.STW_BOOT_STAT := hversion.2
  clear_value c4
  exact ⟨⟨_, _, hstat⟩, hpen, hslots, hfatal, hreset⟩

theorem Chip.EventsOnly.bctlShow (c : Chip) : c.EventsOnly c.bctlShow :=
  (((Chip.EventsOnly.setFld c _ _ _).trans (.setFld _ _ _ _)).trans (.setFld _ _ _ _)).trans (.setFld _ _ _ _)

theorem Chip.bctl_congr {c d : Chip} (h : d.boot = c.boot) : d.bctl = c.bctl := by rw [Chip.bctl, h, Chip.bctl]

/-- With no slot pending the ROM stage starts from the active one. -/
theorem Chip.romStage_of_settled {c : Chip} (h : c.bctl.pending = 0) : c.romStage = c.bctlShow.startSlot c.bctl.active false := by
  have hb : c.bctlShow.bctl = c.bctl := Chip.bctl_congr (Chip.EventsOnly.bctlShow c).boot
  unfold Chip.romStage
  dsimp only
  rw [hb, if_pos h]

/-- The engine with `PORN` and `FAULTN` high. -/
def Chip.released (c : Chip) : Chip := { c with pins := { c.pins with porn := false, fault := false } }

theorem doPornRelease_of_low {c : Chip} {f : Option FlashFit} (h : c.pins.porn = true) :
    doPornRelease f c = (c.flashFit f).released.romStage := by
  have hpins : (c.flashFit f).pins = c.pins := by cases f <;> rfl
  rw [doPornRelease, if_pos h, Chip.released, hpins]

theorem completes_pornRelease {s : State} {f : Option FlashFit} (hwf : (Instr.pornRelease f).wf = true) (hporn : s.chip.pins.porn = true)
    (hfatal : s.chip.fatal = none) (hreset : s.chip.resetReq = false) (hpending : (s.chip.flashFit f).bctl.pending = 0)
    (hactive : (s.chip.flashFit f).bctl.active < 2) :
    Completes (.pornRelease f) s (fun c => c.pins.porn = false ∧ c.pins.fault = false ∧ bit c.pins.pen 0 = true ∧ c.stage = 1 ∧
      c.fld R.STW_BOOT_STAT F.STW_BOOT_STAT_SLOT = (s.chip.flashFit f).bctl.active ∧ c.boot.slotA = (s.chip.flashFit f).boot.slotA ∧
      c.boot.slotB = (s.chip.flashFit f).boot.slotB) := by
  have hfit : (s.chip.flashFit f).fatal = none ∧ (s.chip.flashFit f).resetReq = false := by cases f <;> exact ⟨hfatal, hreset⟩
  have hbctl : (s.chip.flashFit f).released.bctl = (s.chip.flashFit f).bctl := Chip.bctl_congr rfl
  have heffect : doPornRelease f s.chip = (s.chip.flashFit f).released.bctlShow.startSlot (s.chip.flashFit f).bctl.active false := by
    rw [doPornRelease_of_low hporn, Chip.romStage_of_settled (hbctl.symm ▸ hpending), hbctl]
  have hexec : exec (.pornRelease f) s = .next (s.after ((s.chip.flashFit f).released.bctlShow.startSlot (s.chip.flashFit f).bctl.active false)) := by
    rw [show exec (.pornRelease f) s = s.act (.pornRelease f) (doPornRelease f) from rfl, State.act, if_pos hwf, Chip.perform_of_always _ rfl rfl,
      heffect]
  clear heffect
  generalize s.chip.flashFit f = c at *
  have hshow := Chip.EventsOnly.bctlShow c.released
  have hspec := c.released.bctlShow.startSlot_spec c.bctl.active false
  have hfld := c.released.bctlShow.fld_slotShown hactive
  generalize c.released.bctlShow.startSlot c.bctl.active false = d at *
  obtain ⟨⟨a, b, hstat⟩, ⟨hp, hfault, hpen⟩, ⟨hslotA, hslotB⟩, hf, hr⟩ := hspec
  obtain ⟨hstage, hslot⟩ := hfld a b
  obtain ⟨_, _, _, hkept⟩ := hshow
  have hpins : c.released.bctlShow.pins = c.released.pins := by rw [hkept]
  rw [hpins] at hp hfault hpen
  refine .of_exec hexec (hf.trans (by rw [hkept]; exact hfit.1)) (hr.trans (by rw [hkept]; exact hfit.2)) ⟨hp, hfault, ?_,
    (Chip.fld_congr hstat _).trans hstage, (Chip.fld_congr hstat _).trans hslot, hslotA.trans (by rw [hkept]; rfl), hslotB.trans (by rw [hkept]; rfl)⟩
  rw [hpen, bit_maskSet]
  simp

/-! ### The image verified, and the rails -/

section
variable {s : State}

theorem Chip.reg_penUp (c : Chip) (k a : Nat) : (c.penUp k).reg a = c.reg a := rfl

theorem Chip.stage_penUp (c : Chip) (k : Nat) : (c.penUp k).stage = c.stage := Chip.fld_congr (c.reg_penUp k _) _

theorem Chip.stage_setStage (c : Chip) {k : Nat} (h : k < 2 ^ F.STW_BOOT_STAT_STAGE.w) : (c.setStage k).stage = k := by
  rw [Chip.stage, Chip.setStage, Chip.fld_setFld _ _ _ _ (by decide), Nat.mod_eq_of_lt h]

theorem doImageVerifyDone_of_ok {c : Chip} {o : Bool} (h : c.starting 2 = true) (hok : c.imgVerify (c.slot c.boot.runSlot) o = 0) :
    doImageVerifyDone o c = (c.setStage 3).penUp 1 := by
  rw [Chip.imgVerify] at hok
  rw [doImageVerifyDone, if_pos h]
  dsimp only
  rw [if_pos hok]

theorem completes_imageVerifyDone {o : Bool} (h : s.chip.inStart 2 = true) (hok : s.chip.imgVerify (s.chip.slot s.chip.boot.runSlot) o = 0) :
    Completes (.imageVerifyDone o) s (fun c => c.stage = 3 ∧ c.pins.pen = maskSet s.chip.pins.pen 1 ∧ c.boot.penAt = s.chip.epc.line ∧
      (∀ a, a ≠ R.STW_BOOT_STAT → c.reg a = s.chip.reg a)) := by
  have hq := Chip.quiet_of_inStart h
  obtain ⟨-, hfatal, hreset, -⟩ := (Chip.quiet_iff _).1 hq
  have hexec : exec (.imageVerifyDone o) s = .next (s.after ((s.chip.setStage 3).penUp 1)) := by
    rw [show exec (.imageVerifyDone o) s = s.act _ (doImageVerifyDone o) from rfl, State.act_of_quiet hq rfl,
      doImageVerifyDone_of_ok (Chip.starting_of_inStart h) hok]
  exact .of_exec hexec hfatal hreset ⟨(Chip.stage_penUp _ 1).trans (Chip.stage_setStage s.chip (by decide)), rfl, rfl,
    fun a ha => (Chip.reg_penUp _ 1 a).trans (Chip.reg_setFld_ne s.chip _ _ ha)⟩

/-- The pins whose rails a start waits for, and the last, which RUN waits for. -/
theorem Chip.railAwaited_lt {c : Chip} {k : Nat} (h : c.railAwaited = some k) : k < 6 := by
  unfold Chip.railAwaited at h
  split at h
  · cases h
    decide
  · split at h
    · exact (List.mem_range.1 (List.mem_of_find?_eq_some h)).trans (by decide)
    · split at h
      · cases h
        decide
      · cases h

/-- The rail of a pin is within its limits. -/
def Chip.railSeen (c : Chip) (k : Nat) : Chip := { c with pins := { c.pins with railOk := maskSet c.pins.railOk k } }.railRecord k 0

theorem doRailUp_of_awaited {c : Chip} {k v : Nat} (h : c.railAwaited = some k) (hv : c.pmAddr k = 0 ∨ v = 0) :
    doRailUp k v c = if k = 0 then (c.railSeen k).setStage 2 else if k = 4 then ((c.railSeen k).setStage 4).synAcquire 10
      else if k = 5 then c.railSeen k else (c.railSeen k).penUp (k + 1) := by
  rw [doRailUp, if_pos h, if_neg (by tauto)]
  rfl

theorem exec_railUp {k v : Nat} (hv : v < 65536) (hq : s.chip.quiet = true) (h : s.chip.railAwaited = some k) (hok : s.chip.pmAddr k = 0 ∨ v = 0) :
    exec (.railUp k v) s = .next (s.after (if k = 0 then (s.chip.railSeen k).setStage 2
      else if k = 4 then ((s.chip.railSeen k).setStage 4).synAcquire 10 else if k = 5 then s.chip.railSeen k else (s.chip.railSeen k).penUp (k + 1))) := by
  have hwf : (Instr.railUp k v).wf = true := by
    simp only [Instr.wf, Bool.and_eq_true, decide_eq_true_eq]
    exact ⟨Chip.railAwaited_lt h, hv⟩
  rw [show exec (.railUp k v) s = s.act _ (doRailUp k v) from rfl, State.act_of_quiet hq hwf, doRailUp_of_awaited h hok]

theorem exec_railUp_cases {k v : Nat} (hv : v < 65536) (hq : s.chip.quiet = true) (h : s.chip.railAwaited = some k)
    (hok : s.chip.pmAddr k = 0 ∨ v = 0) :
    (k = 0 → exec (.railUp k v) s = .next (s.after ((s.chip.railSeen k).setStage 2))) ∧
    (1 ≤ k → k ≤ 3 → exec (.railUp k v) s = .next (s.after ((s.chip.railSeen k).penUp (k + 1)))) ∧
    (k = 4 → exec (.railUp k v) s = .next (s.after (((s.chip.railSeen k).setStage 4).synAcquire 10))) ∧
    (k = 5 → exec (.railUp k v) s = .next (s.after (s.chip.railSeen k))) := by
  rw [exec_railUp hv hq h hok]
  refine ⟨fun hk => ?_, fun hlo hhi => ?_, fun hk => ?_, fun hk => ?_⟩
  · rw [if_pos hk]
  · rw [if_neg (by omega), if_neg (by omega), if_neg (by omega)]
  · rw [if_neg (by omega), if_pos hk]
  · rw [if_neg (by omega), if_neg (by omega), if_pos hk]

end

/-! ### The march test -/

def rowBankFailH : RegRow :=
  { name := "CST_BANK_FAIL_H", off := 0x14, stride := 0x0, count := 1, stride2 := 0, count2 := 1, reset := 0x0, wo := 0xffffffff }

theorem regRow_bankFailH : regRow R.CST_BANK_FAIL_H = some rowBankFailH := by decide

section
variable {c : Chip}

/-- A write of the Steward's, with nothing pending, of a register that no guard holds. -/
theorem Chip.busWrite_steward_of_quiet (h : c.quiet = true) {a : Nat} (v : Word) (ha : a < 0x800000) (hg : isGuarded a = false) :
    c.busWrite .steward a v = (c.writing.applyFields .steward a v).applyCmds .steward a v := by
  have hq : c.writing.quiet = true := h
  have hcycle : c.busWrite .steward a v = (((c.writing.setGuard .steward none).applyFields .steward a v).pairBroken .steward
      (c.writing.guardOf .steward) a).applyCmds .steward a v := by
    rw [Chip.busWrite, if_neg (by omega), hg, if_neg (by decide), Chip.busCycle]
    exact if_pos (show c.writing.mayWrite .steward a = true from rfl)
  rw [hcycle, Chip.setGuard_none_of_quiet hq, Chip.guardOf_of_quiet hq, Chip.pairBroken_none]

theorem Chip.applyCmds_bankFailH (c : Chip) (i : Init) (v : Word) : c.applyCmds i R.CST_BANK_FAIL_H v = c := by
  rw [Chip.applyCmds, regRow_bankFailH]
  simp only [rowBankFailH, Nat.and_zero, Chip.issue, if_true]

theorem Chip.applyFields_bankFailH (c : Chip) (i : Init) (v : Word) :
    c.applyFields i R.CST_BANK_FAIL_H v = c.bankFailWrite i rowBankFailH v.toNat := by
  have htriple : spanOf writeTriples 3 R.CST_BANK_FAIL_H = none := by decide
  have hvalue : spanOf valuePairs 2 R.CST_BANK_FAIL_H = none := by decide
  simp only [Chip.applyFields, regRow_bankFailH, htriple, hvalue]
  rfl

/-- The engine with a write-once register written, and remembered as such. -/
def Chip.onceTaken (c : Chip) (a : Nat) (v : Word) : Chip := (c.setN a (masked (c.rn a) v.toNat 0xffffffff)).wroteOnce a

theorem Chip.reg_onceTaken (c : Chip) (a : Nat) (v : Word) : (c.onceTaken a v).reg a = v := c.reg_setN_masked_all a v

theorem Chip.reg_onceTaken_ne (c : Chip) {a b : Nat} (v : Word) (h : b ≠ a) : (c.onceTaken a v).reg b = c.reg b := Chip.reg_setN_ne c _ h

theorem Chip.woDone_onceTaken (c : Chip) (a : Nat) (v : Word) : (c.onceTaken a v).acc.woDone = a :: c.acc.woDone := rfl

theorem Chip.quiet_setN (c : Chip) {a : Nat} (v : Nat) (h : R.PWR_STAT ≠ a) : (c.setN a v).quiet = c.quiet := by
  have hladder : (c.setN a v).ladder = c.ladder := Chip.fld_congr (Chip.reg_setN_ne c v h) _
  rw [Chip.quiet, hladder, Chip.quiet]
  rfl

theorem Chip.quiet_onceTaken (c : Chip) {a : Nat} (v : Word) (h : R.PWR_STAT ≠ a) : (c.onceTaken a v).quiet = c.quiet := c.quiet_setN _ h

theorem Chip.bankFailWrite_first (i : Init) (v : Word) (h : c.acc.woDone.contains R.CST_BANK_FAIL_H = false) :
    c.bankFailWrite i rowBankFailH v.toNat = (c.onceTaken R.CST_BANK_FAIL_H v).setFlag R.CST_STAT F.CST_STAT_MARCH_DONE true := by
  have hlk : c.lkOf R.CST_BANK_FAIL_H rowBankFailH = 0 := Chip.lkOf_of_apart (.inr (by decide)) c rowBankFailH
  have hbars : c.lkBars R.CST_BANK_FAIL_H rowBankFailH v.toNat = false := by
    rw [Chip.lkBars, hlk]
    simp
  rw [Chip.bankFailWrite, Chip.fieldWrite, hbars, h, hlk]
  rfl

theorem Chip.busWrite_bankFailL (hq : c.quiet = true) (v : Word) (h : c.acc.woDone.contains R.CST_BANK_FAIL_L = false) :
    c.busWrite .steward R.CST_BANK_FAIL_L v = c.writing.onceTaken R.CST_BANK_FAIL_L v := by
  rw [Chip.busWrite_steward_of_quiet hq v (by decide) (by decide), FieldsOnly.of_bankFailL.applyCmds, FieldsOnly.of_bankFailL.applyFields,
    Chip.fieldWrite_bankFailL_first c.writing .steward v h, Chip.onceTaken]

theorem Chip.busWrite_bankFailH (hq : c.quiet = true) (v : Word) (h : c.acc.woDone.contains R.CST_BANK_FAIL_H = false) :
    c.busWrite .steward R.CST_BANK_FAIL_H v = (c.writing.onceTaken R.CST_BANK_FAIL_H v).setFlag R.CST_STAT F.CST_STAT_MARCH_DONE true := by
  rw [Chip.busWrite_steward_of_quiet hq v (by decide) (by decide), Chip.applyCmds_bankFailH, Chip.applyFields_bankFailH,
    Chip.bankFailWrite_first (c := c.writing) .steward v h]

/-- The engine whose banks that failed are written. -/
def Chip.banksWritten (c : Chip) (l h : Word) : Chip :=
  ((c.writing.onceTaken R.CST_BANK_FAIL_L l).writing.onceTaken R.CST_BANK_FAIL_H h).setFlag R.CST_STAT F.CST_STAT_MARCH_DONE true

theorem Chip.busWrite_banks (hq : c.quiet = true) (l h : Word) (hl : c.acc.woDone.contains R.CST_BANK_FAIL_L = false)
    (hh : c.acc.woDone.contains R.CST_BANK_FAIL_H = false) :
    (c.busWrite .steward R.CST_BANK_FAIL_L l).busWrite .steward R.CST_BANK_FAIL_H h = c.banksWritten l h := by
  have hq1 : (c.writing.onceTaken R.CST_BANK_FAIL_L l).quiet = true := (Chip.quiet_onceTaken _ _ (by decide)).trans hq
  have hfirst : (c.writing.onceTaken R.CST_BANK_FAIL_L l).acc.woDone.contains R.CST_BANK_FAIL_H = false := by
    rw [Chip.woDone_onceTaken, List.contains_cons, show c.writing.acc.woDone.contains R.CST_BANK_FAIL_H = false from hh, Bool.or_false]
    decide
  rw [Chip.busWrite_bankFailL hq l hl, Chip.busWrite_bankFailH hq1 h hfirst, Chip.banksWritten]

theorem Chip.reg_banksWritten (c : Chip) (l h : Word) :
    (c.banksWritten l h).reg R.CST_BANK_FAIL_L = l ∧ (c.banksWritten l h).reg R.CST_BANK_FAIL_H = h ∧
      (c.banksWritten l h).flag R.CST_STAT F.CST_STAT_MARCH_DONE = true := by
  unfold Chip.banksWritten
  refine ⟨?_, ?_, Chip.flag_setFlag _ R.CST_STAT F.CST_STAT_MARCH_DONE _ (by decide) (by decide)⟩
  · rw [Chip.reg_setFlag_ne _ _ _ (by decide), Chip.reg_onceTaken_ne _ _ (by decide), Chip.reg_writing, Chip.reg_onceTaken]
  · rw [Chip.reg_setFlag_ne _ _ _ (by decide), Chip.reg_onceTaken]

end

/-- The engine whose store the march test has cleared, with the marks of the banks whose check bits failed. -/
def Chip.marched (c : Chip) (m : Nat) : Chip := ({ c with cst := {} }.setN R.CST_CHK_FAIL_L m).setN R.CST_CHK_FAIL_H (m / 2 ^ 32)

theorem Chip.marched_keeps (c : Chip) (m : Nat) : (c.marched m).quiet = c.quiet ∧ (c.marched m).acc = c.acc ∧ (c.marched m).cst = {} :=
  ⟨(Chip.quiet_setN _ _ (by decide)).trans (Chip.quiet_setN _ _ (by decide)), rfl, rfl⟩

/-- The march test's marks: the test's own, and those of earlier reads under RAW. -/
def Chip.marchMarks (c : Chip) (g : BitVec 64) : Nat := g.toNat ||| (c.rn R.CST_CHK_FAIL_L + 2 ^ 32 * c.rn R.CST_CHK_FAIL_H)

/-- The engine with the banks written, RAW clear and stage 6 ended. -/
def Chip.marchEnds (c : Chip) (k : Nat) : Chip := ((c.setFlag R.CST_TEST F.CST_TEST_RAW false).setStage 7).groupEnter k

theorem doMarchTestDone_of_start {c : Chip} (f g : BitVec 64) (h : c.starting 6 = true) :
    ∃ k, doMarchTestDone f g c = (((c.marched (c.marchMarks g)).busWrite .steward R.CST_BANK_FAIL_L
      (BitVec.ofNat 32 (f.toNat ||| c.marchMarks g))).busWrite .steward R.CST_BANK_FAIL_H
      (BitVec.ofNat 32 ((f.toNat ||| c.marchMarks g) / 2 ^ 32))).marchEnds k := by
  unfold doMarchTestDone
  rw [if_pos h]
  exact ⟨_, rfl⟩

theorem Chip.reg_groupEnter (c : Chip) (k a : Nat) : (c.groupEnter k).reg a = c.reg a := rfl

theorem Chip.marchEnds_spec (c : Chip) (k : Nat) : (c.marchEnds k).stage = 7 ∧ (c.marchEnds k).cst = c.cst ∧
    (c.marchEnds k).flag R.CST_TEST F.CST_TEST_RAW = false ∧ ((c.marchEnds k).fatal = c.fatal ∧ (c.marchEnds k).resetReq = c.resetReq) ∧
    ∀ a, a ≠ R.CST_TEST → a ≠ R.STW_BOOT_STAT → (c.marchEnds k).reg a = c.reg a := by
  have hreg : ∀ a, a ≠ R.STW_BOOT_STAT → (c.marchEnds k).reg a = (c.setFlag R.CST_TEST F.CST_TEST_RAW false).reg a :=
    fun a ha => (Chip.reg_groupEnter _ k a).trans (Chip.reg_setFld_ne (c.setFlag R.CST_TEST F.CST_TEST_RAW false) _ _ ha)
  refine ⟨(Chip.fld_congr (Chip.reg_groupEnter _ k _) _).trans (Chip.stage_setStage (c.setFlag R.CST_TEST F.CST_TEST_RAW false) (by decide)), rfl,
    ?_, ⟨rfl, rfl⟩, fun a h1 h2 => (hreg a h2).trans (Chip.reg_setFlag_ne c _ _ h1)⟩
  rw [Chip.flag_congr (hreg _ (by decide)), Chip.flag_setFlag c _ _ _ (by decide) (by decide)]

theorem completes_marchTestDone {s : State} (f g : BitVec 64) (h : s.chip.inStart 6 = true)
    (hl : s.chip.acc.woDone.contains R.CST_BANK_FAIL_L = false) (hh : s.chip.acc.woDone.contains R.CST_BANK_FAIL_H = false) :
    Completes (.marchTestDone f g) s (fun c => c.stage = 7 ∧ c.cst = {} ∧
      c.reg R.CST_BANK_FAIL_L = BitVec.ofNat 32 (f.toNat ||| s.chip.marchMarks g) ∧
      c.reg R.CST_BANK_FAIL_H = BitVec.ofNat 32 ((f.toNat ||| s.chip.marchMarks g) / 2 ^ 32) ∧ c.flag R.CST_TEST F.CST_TEST_RAW = false ∧
      c.flag R.CST_STAT F.CST_STAT_MARCH_DONE = true) := by
  have hq := Chip.quiet_of_inStart h
  obtain ⟨-, hfatal, hreset, -⟩ := (Chip.quiet_iff _).1 hq
  obtain ⟨hkeptq, hkepta, hkeptc⟩ := s.chip.marched_keeps (s.chip.marchMarks g)
  obtain ⟨k, hk⟩ := doMarchTestDone_of_start f g (Chip.starting_of_inStart h)
  rw [Chip.busWrite_banks (hkeptq.trans hq) _ _ (hkepta ▸ hl) (hkepta ▸ hh)] at hk
  have hexec : exec (.marchTestDone f g) s = .next (s.after (doMarchTestDone f g s.chip)) := by
    rw [show exec (.marchTestDone f g) s = s.act _ (doMarchTestDone f g) from rfl, State.act_of_quiet hq rfl]
  rw [hk] at hexec
  generalize f.toNat ||| s.chip.marchMarks g = m at *
  obtain ⟨hlow, hhigh, hdone⟩ := (s.chip.marched (s.chip.marchMarks g)).reg_banksWritten (BitVec.ofNat 32 m) (BitVec.ofNat 32 (m / 2 ^ 32))
  have hdemands : ∀ (c : Chip) l h, (c.banksWritten l h).fatal = c.fatal ∧ (c.banksWritten l h).resetReq = c.resetReq ∧
      (c.banksWritten l h).cst = c.cst := fun _ _ _ => ⟨rfl, rfl, rfl⟩
  obtain ⟨hf, hr, hcst⟩ := hdemands (s.chip.marched (s.chip.marchMarks g)) (BitVec.ofNat 32 m) (BitVec.ofNat 32 (m / 2 ^ 32))
  generalize (s.chip.marched (s.chip.marchMarks g)).banksWritten (BitVec.ofNat 32 m) (BitVec.ofNat 32 (m / 2 ^ 32)) = d at *
  obtain ⟨hstage, hstore, hraw, ⟨hfe, hre⟩, hreg⟩ := d.marchEnds_spec k
  exact .of_exec hexec (hfe.trans (hf.trans hfatal)) (hre.trans (hr.trans hreset)) ⟨hstage, hstore.trans (hcst.trans hkeptc),
    (hreg _ (by decide) (by decide)).trans hlow, (hreg _ (by decide) (by decide)).trans hhigh, hraw,
    (Chip.flag_congr (hreg _ (by decide) (by decide)) _).trans hdone⟩

/-- Settles O11: `PORN` and each stage's event, one after another. -/
theorem pinsAndStages : Obligations.PinsAndStages :=
  ⟨completes_pornAssert, fun _ _ => completes_pornRelease, fun _ _ => completes_imageVerifyDone, fun _ _ _ => exec_railUp_cases,
    fun _ f g h hl hh => completes_marchTestDone f g h hl hh⟩

end Sys2Proof.Machine
end

section
/-! DRAM bring-up with DIMMs that fit (R295, R296, R320). -/

namespace Sys2Proof.Machine

/-! ### The channels' registers -/

/-- What bring-up leaves of an engine, beside the registers it writes and the channels. -/
structure Chip.BringUp (c d : Chip) : Prop where
  demands : d.fatal = c.fatal ∧ d.resetReq = c.resetReq
  cache : d.mc.cache = c.mc.cache

section
variable {c d e : Chip}

theorem Chip.BringUp.refl (c : Chip) : c.BringUp c := ⟨⟨rfl, rfl⟩, rfl⟩

theorem Chip.BringUp.trans (h : c.BringUp d) (k : d.BringUp e) : c.BringUp e :=
  ⟨⟨k.demands.1.trans h.demands.1, k.demands.2.trans h.demands.2⟩, k.cache.trans h.cache⟩

theorem Chip.BringUp.foldl {α : Type} {f : Chip → α → Chip} (h : ∀ c x, Chip.BringUp c (f c x)) (l : List α) (c : Chip) :
    c.BringUp (l.foldl f c) := by
  induction l generalizing c with
  | nil => exact .refl c
  | cons x l ih => exact (h c x).trans (ih (f c x))

end

/-- The registers of channel `k` that its DIMM shows in. -/
def dimmRegs (k : Nat) : List Nat := [R.MC_STAT k, R.MC_DIMM_SN k, R.MC_DIMM_MFR k]

/-- The channel's registers before the channel's own record. -/
def Chip.dimmShown (c : Chip) (d : DimmFacts) (k : Nat) : Chip :=
  (((((((c.setFlag (R.MC_STAT k) F.MC_STAT_PRESENT true).setFlag (R.MC_STAT k) F.MC_STAT_READY true).setFlag (R.MC_STAT k) F.MC_STAT_RANKS2
    (decide (d.ranks = 2))).setFlag (R.MC_STAT k) F.MC_STAT_X8 d.x8).setFld (R.MC_STAT k) F.MC_STAT_DENSITY d.density).setN (R.MC_DIMM_SN k)
    d.serial).setFld (R.MC_DIMM_MFR k) F.MC_DIMM_MFR_MFR d.mfr)

theorem Chip.dimmUp_eq (c : Chip) (l : List DimmFacts) (k : Nat) :
    c.dimmUp l k = (c.dimmShown (dimmOf l k) k).setMcCh k { (c.dimmShown (dimmOf l k) k).mcCh k with bytes := (dimmOf l k).sizeMb * 1048576 } := by
  unfold Chip.dimmUp Chip.dimmShown
  rfl

theorem dimmRegs_apart (k : Nat) : R.MC_STAT k ≠ R.MC_DIMM_SN k ∧ R.MC_STAT k ≠ R.MC_DIMM_MFR k ∧ R.MC_DIMM_SN k ≠ R.MC_DIMM_MFR k := by
  simp only [R.MC_STAT, R.MC_DIMM_SN, R.MC_DIMM_MFR]
  omega

theorem Chip.RegsOnly.dimmShown (c : Chip) (d : DimmFacts) (k : Nat) : c.RegsOnly (c.dimmShown d k) (dimmRegs k) := by
  have hstat : R.MC_STAT k ∈ dimmRegs k := by simp [dimmRegs]
  have hsn : R.MC_DIMM_SN k ∈ dimmRegs k := by simp [dimmRegs]
  have hmfr : R.MC_DIMM_MFR k ∈ dimmRegs k := by simp [dimmRegs]
  exact ((((((Chip.RegsOnly.setFlag c _ _ hstat).trans (.setFlag _ _ _ hstat)).trans (.setFlag _ _ _ hstat)).trans (.setFlag _ _ _ hstat)).trans
    (.setFld _ _ _ hstat)).trans (.setN _ _ hsn)).trans (.setFld _ _ _ hmfr)

theorem Chip.dimmShown_spec (c : Chip) (d : DimmFacts) (k : Nat) : (c.dimmShown d k).flag (R.MC_STAT k) F.MC_STAT_READY = true ∧
    (c.dimmShown d k).reg (R.MC_DIMM_SN k) = BitVec.ofNat 32 d.serial := by
  obtain ⟨hsn, hmfr, hboth⟩ := dimmRegs_apart k
  refine ⟨?_, ?_⟩
  · rw [Chip.dimmShown, Chip.flag_congr (Chip.reg_setFld_ne _ _ _ hmfr), Chip.flag_congr (Chip.reg_setN_ne _ _ hsn),
      Chip.flag_setFld_of_apart _ _ _ F.MC_STAT_DENSITY F.MC_STAT_READY _ (by decide) (by decide),
      Chip.flag_setFlag_of_apart _ _ _ F.MC_STAT_X8 F.MC_STAT_READY _ (by decide) (by decide),
      Chip.flag_setFlag_of_apart _ _ _ F.MC_STAT_RANKS2 F.MC_STAT_READY _ (by decide) (by decide),
      Chip.flag_setFlag _ _ F.MC_STAT_READY _ (by decide) (by decide)]
  · rw [Chip.dimmShown, Chip.reg_setFld_ne _ _ _ hboth, Chip.setN, Chip.reg_setReg]

theorem Chip.RegsOnly.bringUp {c d : Chip} {l : List Nat} (h : c.RegsOnly d l) : c.BringUp d := ⟨⟨h.fatal, h.resetReq⟩, congrArg Mc.cache h.mc⟩

theorem Chip.RegsOnly.mcCh {c d : Chip} {l : List Nat} (h : c.RegsOnly d l) (j : Nat) : d.mcCh j = c.mcCh j := by rw [Chip.mcCh, h.mc, Chip.mcCh]

theorem Chip.BringUp.setMcCh (c : Chip) (k : Nat) (m : McCh) : c.BringUp (c.setMcCh k m) := ⟨⟨rfl, rfl⟩, rfl⟩

theorem Chip.reg_setMcCh (c : Chip) (k : Nat) (m : McCh) (a : Nat) : (c.setMcCh k m).reg a = c.reg a := rfl

theorem Chip.BringUp.dimmUp (c : Chip) (l : List DimmFacts) (k : Nat) : c.BringUp (c.dimmUp l k) := by
  rw [Chip.dimmUp_eq]
  exact (Chip.RegsOnly.dimmShown c _ k).bringUp.trans (.setMcCh _ _ _)

theorem Chip.reg_dimmUp (c : Chip) (l : List DimmFacts) (k a : Nat) : (c.dimmUp l k).reg a = (c.dimmShown (dimmOf l k) k).reg a := by
  rw [Chip.dimmUp_eq, Chip.reg_setMcCh]

theorem Chip.inUse_dimmUp (c : Chip) (l : List DimmFacts) (k j : Nat) : ((c.dimmUp l k).mcCh j).inUse = (c.mcCh j).inUse := by
  have hshown := Chip.RegsOnly.mcCh (Chip.RegsOnly.dimmShown c (dimmOf l k) k)
  rw [Chip.dimmUp_eq, hshown]
  by_cases hj : j = k
  · rw [hj, Chip.mcCh_setMcCh]
  · rw [Chip.mcCh_setMcCh_ne _ _ hj, hshown]

/-- Channels 0 to `n` - 1 shown. -/
def Chip.dimmsUp (c : Chip) (l : List DimmFacts) (n : Nat) : Chip := (List.range n).foldl (fun c k => c.dimmUp l k) c

theorem Chip.dimmsUp_succ (c : Chip) (l : List DimmFacts) (n : Nat) : c.dimmsUp l (n + 1) = (c.dimmsUp l n).dimmUp l n := by
  rw [Chip.dimmsUp, List.range_succ, List.foldl_append, Chip.dimmsUp]
  rfl

theorem Chip.BringUp.dimmsUp (c : Chip) (l : List DimmFacts) (n : Nat) : c.BringUp (c.dimmsUp l n) :=
  .foldl (fun c k => .dimmUp c l k) (List.range n) c

theorem Chip.inUse_dimmsUp (c : Chip) (l : List DimmFacts) (n j : Nat) : ((c.dimmsUp l n).mcCh j).inUse = (c.mcCh j).inUse :=
  Chip.foldl_keeps (fun d => (d.mcCh j).inUse) (fun d k _ => d.inUse_dimmUp l k j) c

theorem dimmRegs_block {k a : Nat} (h : a ∈ dimmRegs k) : 0x400000 + 0x10000 * k ≤ a ∧ a < 0x410000 + 0x10000 * k := by
  simp only [dimmRegs, List.mem_cons, List.not_mem_nil, or_false, R.MC_STAT, R.MC_DIMM_SN, R.MC_DIMM_MFR] at h
  omega

theorem Chip.reg_dimmsUp_ne (c : Chip) (l : List DimmFacts) {n a : Nat} (h : a < 0x400000 ∨ 0x400000 + 0x10000 * n ≤ a) :
    (c.dimmsUp l n).reg a = c.reg a := by
  refine Chip.foldl_keeps (fun d => d.reg a) (fun d k hk => ?_) c
  have hk := List.mem_range.1 hk
  rw [Chip.reg_dimmUp, (Chip.RegsOnly.dimmShown _ _ _).2 _ fun hmem => ?_]
  have := dimmRegs_block hmem
  omega

theorem Chip.dimmsUp_spec (c : Chip) (l : List DimmFacts) {n k : Nat} (hk : k < n) :
    (c.dimmsUp l n).flag (R.MC_STAT k) F.MC_STAT_READY = true ∧ (c.dimmsUp l n).reg (R.MC_DIMM_SN k) = BitVec.ofNat 32 (dimmOf l k).serial := by
  induction n with
  | zero => exact absurd hk (Nat.not_lt_zero k)
  | succ n ih =>
    rw [Chip.dimmsUp_succ, Chip.flag_congr (Chip.reg_dimmUp _ l n _), Chip.reg_dimmUp]
    rcases Nat.lt_succ_iff_lt_or_eq.1 hk with hlt | heq
    · have hapart : ∀ a ∈ dimmRegs k, a ∉ dimmRegs n := fun a ha hmem => by
        have := dimmRegs_block ha
        have := dimmRegs_block hmem
        omega
      rw [Chip.flag_congr ((Chip.RegsOnly.dimmShown _ _ _).2 _ (hapart _ (by simp [dimmRegs]))), (Chip.RegsOnly.dimmShown _ _ _).2 _ (hapart _ (by simp [dimmRegs]))]
      exact ih hlt
    · rw [heq]
      exact Chip.dimmShown_spec _ _ _

/-! ### The controller -/

/-- The engine with the capacity of its DIMMs. -/
def Chip.sized (c : Chip) (b : Nat) : Chip := { c with mc := { c.mc with dimmBytes := b } }

theorem Chip.reg_sized (c : Chip) (b a : Nat) : (c.sized b).reg a = c.reg a := rfl

theorem Chip.mcCh_sized (c : Chip) (b j : Nat) : (c.sized b).mcCh j = c.mcCh j := rfl

theorem Chip.BringUp.sized (c : Chip) (b : Nat) : c.BringUp (c.sized b) := ⟨⟨rfl, rfl⟩, rfl⟩

/-- The controller in READY with `n` channels at grade `g`. -/
def Chip.dramShown (c : Chip) (n g : Nat) : Chip := ((c.setFld R.MCX_STAT F.MCX_STAT_NCH n).setFld R.MCX_STAT F.MCX_STAT_SPEED g).setMcState 2

theorem Chip.RegsOnly.dramShown (c : Chip) (n g : Nat) : c.RegsOnly (c.dramShown n g) [R.MCX_STAT] :=
  ((Chip.RegsOnly.setFld c F.MCX_STAT_NCH n List.mem_cons_self).trans (.setFld _ F.MCX_STAT_SPEED g List.mem_cons_self)).trans
    (.setFld _ F.MCX_STAT_STATE 2 List.mem_cons_self)

theorem Chip.dramShown_spec (c : Chip) {n g : Nat} (hn : n < 16) (hg : g < 4) : (c.dramShown n g).mcState = 2 ∧ (c.dramShown n g).nch = n ∧
    (c.dramShown n g).fld R.MCX_STAT F.MCX_STAT_SPEED = g := by
  rw [Chip.mcState, Chip.nch, Chip.dramShown, Chip.setMcState,
    Chip.fld_setFld _ _ F.MCX_STAT_STATE _ (by decide), Chip.fld_setFld_apart _ _ _ _ _ (by decide) (.inl (by decide)),
    Chip.fld_setFld_apart _ _ _ _ _ (by decide) (.inl (by decide)), Chip.fld_setFld _ _ F.MCX_STAT_NCH _ (by decide),
    Chip.fld_setFld_apart _ _ _ _ _ (by decide) (.inl (by decide)), Chip.fld_setFld _ _ F.MCX_STAT_SPEED _ (by decide)]
  exact ⟨rfl, Nat.mod_eq_of_lt hn, Nat.mod_eq_of_lt hg⟩

/-- CAP of every partition. -/
def Chip.capsShown (c : Chip) (v : Nat) : Chip := (List.range 16).foldl (fun c p => c.setFld (R.PRT_CAP p) F.PRT_CAP_CAP v) c

theorem Chip.reg_capsShown_ne (c : Chip) (v : Nat) {a : Nat} (h : a < 0x300000 ∨ 0x400000 ≤ a) : (c.capsShown v).reg a = c.reg a :=
  Chip.foldl_keeps (fun d => d.reg a) (fun d p hp => Chip.reg_setFld_ne d _ _ (by
    have := List.mem_range.1 hp
    rw [R.PRT_CAP]
    omega)) c

theorem Chip.BringUp.capsShown (c : Chip) (v : Nat) : c.BringUp (c.capsShown v) :=
  .foldl (fun c _ => (Chip.RegsOnly.setFld c _ _ (List.mem_singleton.2 rfl)).bringUp) _ c

theorem Chip.mcCh_capsShown (c : Chip) (v j : Nat) : (c.capsShown v).mcCh j = c.mcCh j :=
  Chip.foldl_keeps (fun d => d.mcCh j) (fun d _ _ => (Chip.RegsOnly.setFld d _ _ (List.mem_singleton.2 rfl)).mcCh j) c

/-- Stage 6, with the march test's coding. -/
def Chip.stageSix (c : Chip) : Chip := (c.setStage 6).setFlag R.CST_TEST F.CST_TEST_RAW true

theorem Chip.RegsOnly.stageSix (c : Chip) : c.RegsOnly c.stageSix [R.STW_BOOT_STAT, R.CST_TEST] :=
  (Chip.RegsOnly.setFld c F.STW_BOOT_STAT_STAGE 6 (by simp)).trans (.setFlag _ F.CST_TEST_RAW true (by simp))

theorem Chip.stageSix_spec (c : Chip) : c.stageSix.stage = 6 ∧ c.stageSix.flag R.CST_TEST F.CST_TEST_RAW = true := by
  refine ⟨?_, ?_⟩
  · rw [Chip.stageSix, Chip.stage, Chip.fld_congr (Chip.reg_setFlag_ne _ _ _ (by decide))]
    exact Chip.stage_setStage c (by decide)
  · rw [Chip.stageSix, Chip.flag_setFlag _ _ F.CST_TEST_RAW _ (by decide) (by decide)]

theorem Chip.dramUp_eq (c : Chip) (l : List DimmFacts) (n g : Nat) :
    ∃ b v, c.dramUp l n g = ((((c.dimmsUp l n).dramShown n g).sized b).capsShown v).stageSix := by
  unfold Chip.dramUp
  exact ⟨_, _, rfl⟩

/-- What the engine shows once DRAM is up. -/
def DramIsUp (l : List DimmFacts) (n g : Nat) (c : Chip) : Prop :=
  c.stage = 6 ∧ c.mcState = 2 ∧ c.nch = n ∧ c.fld R.MCX_STAT F.MCX_STAT_SPEED = g ∧ c.flag R.CST_TEST F.CST_TEST_RAW = true ∧
    ∀ k, k < n → c.flag (R.MC_STAT k) F.MC_STAT_READY = true ∧ c.reg (R.MC_DIMM_SN k) = BitVec.ofNat 32 (dimmOf l k).serial

theorem Chip.dramUp_spec (c : Chip) (l : List DimmFacts) {n g : Nat} (hn : n ≤ 8) (hg : g < 4) : DramIsUp l n g (c.dramUp l n g) ∧
    c.BringUp (c.dramUp l n g) ∧ (c.dramUp l n g).reg R.MCX_TRN_MISS = c.reg R.MCX_TRN_MISS ∧
    ∀ j, ((c.dramUp l n g).mcCh j).inUse = (c.mcCh j).inUse := by
  obtain ⟨b, v, heq⟩ := c.dramUp_eq l n g
  obtain ⟨hstate, hnch, hspeed⟩ := (c.dimmsUp l n).dramShown_spec (show n < 16 by omega) hg
  obtain ⟨hstage, hraw⟩ := ((((c.dimmsUp l n).dramShown n g).sized b).capsShown v).stageSix_spec
  have hshown := Chip.RegsOnly.dramShown (c.dimmsUp l n) n g
  have hsix := Chip.RegsOnly.stageSix ((((c.dimmsUp l n).dramShown n g).sized b).capsShown v)
  have hother : ∀ a, a ∉ [R.STW_BOOT_STAT, R.CST_TEST] → a < 0x300000 ∨ 0x400000 ≤ a →
      (c.dramUp l n g).reg a = ((c.dimmsUp l n).dramShown n g).reg a := fun a h1 h2 => by
    rw [heq, hsix.2 a h1, Chip.reg_capsShown_ne _ _ h2, Chip.reg_sized]
  have hmcx := hother R.MCX_STAT (by decide) (.inr (by decide))
  have hbelow : ∀ a, 0x400000 ≤ a → a < 0x480000 → (c.dramUp l n g).reg a = (c.dimmsUp l n).reg a := fun a hlo hhi => by
    have hne : a ∉ [R.STW_BOOT_STAT, R.CST_TEST] ∧ a ∉ [R.MCX_STAT] := by
      simp only [List.mem_cons, List.not_mem_nil, or_false, R.STW_BOOT_STAT, R.CST_TEST, R.MCX_STAT]
      omega
    exact (hother a hne.1 (.inr hlo)).trans (hshown.2 a hne.2)
  refine ⟨⟨heq ▸ hstage, (Chip.fld_congr hmcx _).trans hstate, (Chip.fld_congr hmcx _).trans hnch, (Chip.fld_congr hmcx _).trans hspeed,
    heq ▸ hraw, fun k hk => ?_⟩, ?_, ?_, fun j => ?_⟩
  · obtain ⟨hready, hserial⟩ := c.dimmsUp_spec l hk
    exact ⟨(Chip.flag_congr (hbelow _ (by rw [R.MC_STAT]; omega) (by rw [R.MC_STAT]; omega)) _).trans hready,
      (hbelow _ (by rw [R.MC_DIMM_SN]; omega) (by rw [R.MC_DIMM_SN]; omega)).trans hserial⟩
  · rw [heq]
    exact (((Chip.BringUp.dimmsUp c l n).trans hshown.bringUp).trans (.sized _ b)).trans ((Chip.BringUp.capsShown _ v).trans hsix.bringUp)
  · rw [hother _ (by decide) (.inr (by decide)), hshown.2 _ (by decide), Chip.reg_dimmsUp_ne _ _ (.inr (by rw [R.MCX_TRN_MISS]; omega))]
  · rw [heq, hsix.mcCh, Chip.mcCh_capsShown, Chip.mcCh_sized, hshown.mcCh]
    exact c.inUse_dimmsUp l n j

/-! ### The delays, from the cache or from training -/

/-- One channel's delays come into use. -/
def Chip.loadDelay (c : Chip) (d : Nat × List (Nat × Nat)) : Chip := c.setMcCh d.1 { c.mcCh d.1 with staged := d.2, inUse := d.2 }

theorem Chip.loadDelays_keeps (c : Chip) (ds : List (Nat × List (Nat × Nat))) :
    c.BringUp (c.loadDelays ds) ∧ (c.loadDelays ds).regs = c.regs :=
  ⟨.foldl (f := Chip.loadDelay) (fun c d => .setMcCh c d.1 _) ds c, Chip.foldl_keeps (f := Chip.loadDelay) Chip.regs (fun _ _ _ => rfl) c⟩

theorem Chip.inUse_loadDelays (c : Chip) (del : Nat → List (Nat × Nat)) {n k : Nat} (hk : k < n) :
    ((c.loadDelays ((List.range n).map (fun j => (j, del j)))).mcCh k).inUse = del k := by
  induction n with
  | zero => exact absurd hk (Nat.not_lt_zero k)
  | succ n ih =>
    rw [List.range_succ, List.map_append, Chip.loadDelays, List.foldl_append]
    change ((Chip.setMcCh _ n _).mcCh k).inUse = del k
    by_cases h : k = n
    · rw [h, Chip.mcCh_setMcCh]
    · rw [Chip.mcCh_setMcCh_ne _ _ h]
      exact ih (by omega)

section
variable {c : Chip} {l : List DimmFacts} {b : Bool} {n g : Nat}

theorem dimmCount_le (h : dimmCount l = some n) : n ≤ 8 := by
  have := List.mem_of_find?_eq_some h
  simp only [List.mem_cons, List.not_mem_nil, or_false] at this
  omega

theorem Chip.dimmGrade_lt (h : c.dimmGrade l n = some g) : g < 4 := by
  have := List.mem_of_mem_filter (List.mem_of_find?_eq_some h)
  simp only [List.mem_cons, List.not_mem_nil, or_false] at this
  omega

theorem no_dimmBad (h : ∀ k, k < n → dimmBad (dimmOf l k) = false) : (List.range n).filter (fun k => dimmBad (dimmOf l k)) = [] :=
  List.filter_eq_nil_iff.2 fun k hk => by rw [h k (List.mem_range.1 hk)]; exact Bool.false_ne_true

/-- With DIMMs that fit, and the cache's delays in `d`, bring-up loads them. -/
theorem doDramTrainingDone_of_cached {d : List (Nat × List (Nat × Nat))} (hstart : c.starting 5 = true) (hn : dimmCount l = some n)
    (hbad : ∀ k, k < n → dimmBad (dimmOf l k) = false) (hg : c.dimmGrade l n = some g) (hd : c.cachedDelays l n g b = some d) :
    doDramTrainingDone l b c = (c.loadDelays d).dramUp l n g := by
  unfold doDramTrainingDone
  simp only [if_pos hstart, hn, no_dimmBad hbad, hg, hd]
  rfl

/-- With DIMMs that fit, and no delays in the cache, bring-up trains. -/
theorem doDramTrainingDone_of_missed (hstart : c.starting 5 = true) (hn : dimmCount l = some n) (hbad : ∀ k, k < n → dimmBad (dimmOf l k) = false)
    (hg : c.dimmGrade l n = some g) (hd : c.cachedDelays l n g b = none) : doDramTrainingDone l b c = c.trainFull l n g := by
  unfold doDramTrainingDone
  simp only [if_pos hstart, hn, no_dimmBad hbad, hg, hd]
  rfl

/-- The engine with the cache written. -/
def Chip.cachePut (c : Chip) (t : TrnCache) : Chip := { c with mc := { c.mc with cache := some t } }

theorem Chip.trainFull_of_trained (h : ∀ k, k < n → (dimmOf l k).trained = true) :
    c.trainFull l n g = (((c.addCnt R.MCX_TRN_MISS 1).cachePut
      { key := trainKey l n g, delays := (List.range n).map (fun k => (k, (dimmOf l k).delays)) }).loadDelays
      ((List.range n).map (fun k => (k, (dimmOf l k).delays)))).dramUp l n g := by
  have hnone : (List.range n).filter (fun k => !(dimmOf l k).trained) = [] :=
    List.filter_eq_nil_iff.2 fun k hk => by rw [h k (List.mem_range.1 hk)]; exact Bool.false_ne_true
  unfold Chip.trainFull
  dsimp only
  rw [hnone]
  rfl
end

section
variable {s : State} {l : List DimmFacts} {b : Bool} {n g : Nat}

theorem completes_dramTrainingDone_cached {d : List (Nat × List (Nat × Nat))} (h : s.chip.inStart 5 = true)
    (hwf : (Instr.dramTrainingDone l b).wf = true) (hn : dimmCount l = some n) (hbad : ∀ k, k < n → dimmBad (dimmOf l k) = false)
    (hg : s.chip.dimmGrade l n = some g) (hd : s.chip.cachedDelays l n g b = some d) :
    Completes (.dramTrainingDone l b) s (fun c => DramIsUp l n g c ∧ c.mc.cache = s.chip.mc.cache ∧
      c.reg R.MCX_TRN_MISS = s.chip.reg R.MCX_TRN_MISS) := by
  have hq := Chip.quiet_of_inStart h
  obtain ⟨-, hfatal, hreset, -⟩ := (Chip.quiet_iff _).1 hq
  have hexec : exec (.dramTrainingDone l b) s = .next (s.after ((s.chip.loadDelays d).dramUp l n g)) := by
    rw [show exec (.dramTrainingDone l b) s = s.act _ (doDramTrainingDone l b) from rfl, State.act_of_quiet hq hwf,
      doDramTrainingDone_of_cached (Chip.starting_of_inStart h) hn hbad hg hd]
  obtain ⟨hload, hregs⟩ := s.chip.loadDelays_keeps d
  obtain ⟨hup, hkept, hmiss, -⟩ := (s.chip.loadDelays d).dramUp_spec l (dimmCount_le hn) (Chip.dimmGrade_lt hg)
  have hall := hload.trans hkept
  exact .of_exec hexec (hall.demands.1.trans hfatal) (hall.demands.2.trans hreset) ⟨hup, hall.cache, hmiss.trans (Chip.reg_congr hregs _)⟩

theorem completes_dramTrainingDone_trained (h : s.chip.inStart 5 = true) (hwf : (Instr.dramTrainingDone l b).wf = true)
    (hn : dimmCount l = some n) (hbad : ∀ k, k < n → dimmBad (dimmOf l k) = false) (hg : s.chip.dimmGrade l n = some g)
    (hd : s.chip.cachedDelays l n g b = none) (htrained : ∀ k, k < n → (dimmOf l k).trained = true) :
    Completes (.dramTrainingDone l b) s (fun c => DramIsUp l n g c ∧ c.reg R.MCX_TRN_MISS = s.chip.reg R.MCX_TRN_MISS + 1 ∧
      (∃ t, c.mc.cache = some t ∧ t.key = trainKey l n g) ∧ (∀ k, k < n → (c.mcCh k).inUse = (dimmOf l k).delays)) := by
  have hq := Chip.quiet_of_inStart h
  obtain ⟨-, hfatal, hreset, -⟩ := (Chip.quiet_iff _).1 hq
  obtain ⟨ds, hds⟩ : ∃ ds, ds = (List.range n).map (fun k => (k, (dimmOf l k).delays)) := ⟨_, rfl⟩
  obtain ⟨c1, hc1⟩ : ∃ c1, c1 = (s.chip.addCnt R.MCX_TRN_MISS 1).cachePut { key := trainKey l n g, delays := ds } := ⟨_, rfl⟩
  have hexec : exec (.dramTrainingDone l b) s = .next (s.after ((c1.loadDelays ds).dramUp l n g)) := by
    rw [show exec (.dramTrainingDone l b) s = s.act _ (doDramTrainingDone l b) from rfl, State.act_of_quiet hq hwf,
      doDramTrainingDone_of_missed (Chip.starting_of_inStart h) hn hbad hg hd, Chip.trainFull_of_trained htrained, hc1, hds]
  have hfirst : c1.fatal = s.chip.fatal ∧ c1.resetReq = s.chip.resetReq ∧ c1.mc.cache = some { key := trainKey l n g, delays := ds } ∧
      c1.reg R.MCX_TRN_MISS = s.chip.reg R.MCX_TRN_MISS + 1 := by
    rw [hc1]
    exact ⟨rfl, rfl, rfl, s.chip.reg_addCnt_one R.MCX_TRN_MISS⟩
  obtain ⟨hf, hr, hcache, hcount⟩ := hfirst
  obtain ⟨hload, hregs⟩ := c1.loadDelays_keeps ds
  obtain ⟨hup, hkept, hmiss, hinUse⟩ := (c1.loadDelays ds).dramUp_spec l (dimmCount_le hn) (Chip.dimmGrade_lt hg)
  have hall := hload.trans hkept
  refine .of_exec hexec (hall.demands.1.trans (hf.trans hfatal)) (hall.demands.2.trans (hr.trans hreset))
    ⟨hup, (hmiss.trans (Chip.reg_congr hregs _)).trans hcount, ⟨_, hall.cache.trans hcache, rfl⟩, fun k hk => (hinUse k).trans ?_⟩
  rw [hds]
  exact c1.inUse_loadDelays (fun j => (dimmOf l j).delays) hk

end

/-- Settles O12: the cached delays, or those of full training, come into use, and the controller is up either way. -/
theorem dramStartUp : Obligations.DramStartUp :=
  fun _ _ _ _ _ h hwf hn hbad hg => ⟨fun _ hd => completes_dramTrainingDone_cached h hwf hn hbad hg hd,
    fun hd htrained => completes_dramTrainingDone_trained h hwf hn hbad hg hd htrained⟩

end Sys2Proof.Machine
end

section
/-! The keeper's moves: edges of `PPS`, holdover, a change of SRC, the leap second, Steps and Slews (R37, R45 to R47, R56). -/

namespace Sys2Proof.Machine

/-- The keeper's own state, replaced. -/
def Chip.putEpc (c : Chip) (e : Epc) : Chip := { c with epc := e }

section
variable (c : Chip) (e : Epc)
@[simp] theorem Chip.putEpc_epc : (c.putEpc e).epc = e := rfl
@[simp] theorem Chip.putEpc_regs : (c.putEpc e).regs = c.regs := rfl
@[simp] theorem Chip.putEpc_sch : (c.putEpc e).sch = c.sch := rfl
@[simp] theorem Chip.putEpc_fatal : (c.putEpc e).fatal = c.fatal := rfl
@[simp] theorem Chip.putEpc_resetReq : (c.putEpc e).resetReq = c.resetReq := rfl
@[simp] theorem Chip.reg_putEpc (a : Nat) : (c.putEpc e).reg a = c.reg a := rfl
end

/-- What the keeper's moves leave: nothing is demanded, and the schedule is as it was. -/
structure Chip.KeeperMoved (c d : Chip) : Prop where
  demands : d.fatal = c.fatal ∧ d.resetReq = c.resetReq
  sch : d.sch = c.sch

section
variable {c d e : Chip}

theorem Chip.KeeperMoved.refl (c : Chip) : c.KeeperMoved c := ⟨⟨rfl, rfl⟩, rfl⟩

theorem Chip.KeeperMoved.trans (h : c.KeeperMoved d) (k : d.KeeperMoved e) : c.KeeperMoved e :=
  ⟨⟨k.demands.1.trans h.demands.1, k.demands.2.trans h.demands.2⟩, k.sch.trans h.sch⟩

theorem Chip.KeeperMoved.putEpc (c : Chip) (e : Epc) : c.KeeperMoved (c.putEpc e) := ⟨⟨rfl, rfl⟩, rfl⟩

theorem Chip.EventsOnly.keeperMoved (h : c.EventsOnly d) : c.KeeperMoved d := by
  obtain ⟨_, _, _, rfl⟩ := h
  exact ⟨⟨rfl, rfl⟩, rfl⟩

end

/-! ### The fields of `EPC_STAT` -/

section
variable (c : Chip)

theorem Chip.epcState_setEpcState {k : Nat} (h : k < 8) : (c.setEpcState k).epcState = k := by
  rw [Chip.epcState, Chip.setEpcState, Chip.fld_setFld _ _ F.EPC_STAT_STATE _ (by decide)]
  exact Nat.mod_eq_of_lt h

theorem Chip.epcState_goodRun (b : Bool) : (c.goodRun b).epcState = c.epcState :=
  c.fld_setFld_apart R.EPC_STAT F.EPC_STAT_GOOD_RUN F.EPC_STAT_STATE _ (by decide) (.inl (by decide))

theorem Chip.goodRun_bad : (c.goodRun false).fld R.EPC_STAT F.EPC_STAT_GOOD_RUN = 0 := by
  rw [Chip.goodRun, Chip.fld_setFld _ _ F.EPC_STAT_GOOD_RUN _ (by decide)]
  rfl

theorem Chip.goodRun_good : (c.goodRun true).fld R.EPC_STAT F.EPC_STAT_GOOD_RUN = min 15 (c.fld R.EPC_STAT F.EPC_STAT_GOOD_RUN + 1) := by
  rw [Chip.goodRun, Chip.fld_setFld _ _ F.EPC_STAT_GOOD_RUN _ (by decide), if_pos rfl]
  exact Nat.mod_eq_of_lt (by change min 15 _ < 16; omega)

theorem Chip.fld_goodRun_setEpcState (k : Nat) : (c.setEpcState k).fld R.EPC_STAT F.EPC_STAT_GOOD_RUN = c.fld R.EPC_STAT F.EPC_STAT_GOOD_RUN :=
  c.fld_setFld_apart R.EPC_STAT F.EPC_STAT_STATE F.EPC_STAT_GOOD_RUN _ (by decide) (.inr (by decide))

theorem Chip.EventsOnly.goodRun (b : Bool) : c.EventsOnly (c.goodRun b) := .setFld c _ _ _

theorem Chip.EventsOnly.setEpcState (k : Nat) : c.EventsOnly (c.setEpcState k) := .setFld c _ _ _

theorem Chip.reg_goodRun_ne (b : Bool) {a : Nat} (h : a ≠ R.EPC_STAT) : (c.goodRun b).reg a = c.reg a := Chip.reg_setFld_ne c _ _ h

theorem Chip.reg_setEpcState_ne (k : Nat) {a : Nat} (h : a ≠ R.EPC_STAT) : (c.setEpcState k).reg a = c.reg a := Chip.reg_setFld_ne c _ _ h

theorem epc_not_mem_eventRegs {a : Nat} (h : a < 0x40000) (e : Nat × Nat) : a ∉ eventRegs e := not_mem_eventRegs_of_lt (by omega) e

end

/-! ### The label of an edge -/

/-- What an accepted word leaves of the keeper's registers. -/
structure Chip.Labelled (c d : Chip) : Prop where
  events : c.EventsOnly d
  state : d.epcState = c.epcState
  run : d.fld R.EPC_STAT F.EPC_STAT_GOOD_RUN = c.fld R.EPC_STAT F.EPC_STAT_GOOD_RUN
  regs : ∀ a, a < 0x40000 → a ≠ R.EPC_STAT → a ≠ R.EPC_UTC_OFS → a ≠ R.EPC_WORD_ERR → d.reg a = c.reg a

section
variable {c d e : Chip}

theorem Chip.Labelled.refl (c : Chip) : c.Labelled c := ⟨.refl c, rfl, rfl, fun _ _ _ _ _ => rfl⟩

theorem Chip.Labelled.trans (h : c.Labelled d) (k : d.Labelled e) : c.Labelled e :=
  ⟨h.events.trans k.events, k.state.trans h.state, k.run.trans h.run, fun a h1 h2 h3 h4 => (k.regs a h1 h2 h3 h4).trans (h.regs a h1 h2 h3 h4)⟩

theorem Chip.Labelled.of_apart (h : c.EventsOnly d) (hregs : ∀ a, a < 0x40000 → a ≠ R.EPC_UTC_OFS → a ≠ R.EPC_WORD_ERR → d.reg a = c.reg a) :
    c.Labelled d :=
  ⟨h, Chip.fld_congr (hregs _ (by decide) (by decide) (by decide)) _, Chip.fld_congr (hregs _ (by decide) (by decide) (by decide)) _,
    fun a h1 _ h3 h4 => hregs a h1 h3 h4⟩

theorem Chip.Labelled.raise (c : Chip) (e : Nat × Nat) : c.Labelled (c.raise e) :=
  .of_apart (.raise c e) fun _ h _ _ => Chip.reg_raise_ne c e (epc_not_mem_eventRegs h e)

theorem Chip.Labelled.wordReject (c : Chip) : c.Labelled c.wordReject :=
  .of_apart (.trans (.addCnt c _ _) (.raise _ _)) fun _ h1 _ h3 =>
    (Chip.reg_raise_ne _ _ (epc_not_mem_eventRegs h1 _)).trans (Chip.reg_addCnt_ne c _ h3)

/-- A field of `EPC_STAT` beside STATE and GOOD_RUN. -/
theorem Chip.Labelled.setFld (c : Chip) {f : Fld} (v : Nat) (h : f.lo + f.w ≤ 32) (hf : 8 ≤ f.lo) : c.Labelled (c.setFld R.EPC_STAT f v) :=
  ⟨.setFld c _ _ _, c.fld_setFld_apart R.EPC_STAT f F.EPC_STAT_STATE v h (.inl (le_trans (by decide) hf)),
    c.fld_setFld_apart R.EPC_STAT f F.EPC_STAT_GOOD_RUN v h (.inl hf), fun _ _ h2 _ _ => Chip.reg_setFld_ne c _ _ h2⟩

theorem Chip.Labelled.setFlag (c : Chip) {f : Fld} (b : Bool) (h : f.lo + f.w ≤ 32) (hf : 8 ≤ f.lo) : c.Labelled (c.setFlag R.EPC_STAT f b) :=
  .setFld c _ h hf

theorem Chip.Labelled.setUtc (c : Chip) (v : Nat) : c.Labelled (c.setFld R.EPC_UTC_OFS F.EPC_UTC_OFS_UTC_TAI v) :=
  .of_apart (.setFld c _ _ _) fun _ _ h2 _ => Chip.reg_setFld_ne c _ _ h2

theorem Chip.Labelled.acceptWord (c : Chip) (p : Nat) : c.Labelled (c.acceptWord p) := by
  unfold Chip.acceptWord
  extract_lets hold changed c1 c2 c3 utc differs c4
  have h1 : c.Labelled c1 := (Chip.Labelled.setFld c _ (by decide) (by decide)).trans (.setFlag _ _ (by decide) (by decide))
  have h2 : c1.Labelled c2 := (Chip.Labelled.setFlag c1 _ (by decide) (by decide)).trans (.setFlag _ _ (by decide) (by decide))
  have h3 : c2.Labelled c3 := by
    change c2.Labelled (if changed then c2.raise Ev.srcHoldover else c2)
    split
    · exact .raise c2 _
    · exact .refl c2
  have h4 : c3.Labelled c4 := .setUtc c3 utc
  have hall := ((h1.trans h2).trans h3).trans h4
  split
  · exact hall.trans (.raise c4 _)
  · exact hall

end

theorem Chip.takeLabel_of_valid {c : Chip} {te : Nat} {w : EpochWord} (hsrc : c.epcSrc = 0) (hw : c.epc.word = some w)
    (hend : w.endAt + 100 * micro ≤ te) (hvalid : bit w.payload 8 = true) :
    c.takeLabel te = ((c.putEpc { c.epc with word := none }).acceptWord w.payload, some (bits w.payload 20 44)) := by
  unfold Chip.takeLabel
  rw [if_pos hsrc, hw]
  dsimp only
  rw [if_neg (Nat.not_lt.2 hend), if_pos hvalid]
  rfl

theorem Chip.takeLabel_of_none {c : Chip} (te : Nat) (hsrc : c.epcSrc = 0) (hw : c.epc.word = none) : c.takeLabel te = (c, none) := by
  unfold Chip.takeLabel
  rw [if_pos hsrc, hw]

theorem Chip.takeLabel_of_early {c : Chip} {te : Nat} {w : EpochWord} (hsrc : c.epcSrc = 0) (hw : c.epc.word = some w)
    (hend : te < w.endAt + 100 * micro) : c.takeLabel te = ((c.putEpc { c.epc with word := none }).wordReject, none) := by
  unfold Chip.takeLabel
  rw [if_pos hsrc, hw]
  dsimp only
  rw [if_pos hend]
  rfl

theorem Chip.takeLabel_of_invalid {c : Chip} {te : Nat} {w : EpochWord} (hsrc : c.epcSrc = 0) (hw : c.epc.word = some w)
    (hend : w.endAt + 100 * micro ≤ te) (hvalid : bit w.payload 8 = false) :
    c.takeLabel te = ((c.putEpc { c.epc with word := none }).raise Ev.srcInvalid, none) := by
  unfold Chip.takeLabel
  rw [if_pos hsrc, hw]
  dsimp only
  rw [if_neg (Nat.not_lt.2 hend), hvalid, if_neg Bool.false_ne_true]
  rfl

/-- The pending word or frame is taken. -/
theorem Chip.takeLabel_spec (c : Chip) (te : Nat) : ∃ e : Epc, e.time = c.epc.time ∧ (c.putEpc e).Labelled (c.takeLabel te).1 := by
  by_cases hsrc : c.epcSrc = 0
  · cases hw : c.epc.word with
    | none => exact ⟨c.epc, rfl, by rw [Chip.takeLabel_of_none te hsrc hw]; exact .refl c⟩
    | some w =>
      refine ⟨{ c.epc with word := none }, rfl, ?_⟩
      by_cases hend : te < w.endAt + 100 * micro
      · rw [Chip.takeLabel_of_early hsrc hw hend]
        exact .wordReject _
      · cases hvalid : bit w.payload 8
        · rw [Chip.takeLabel_of_invalid hsrc hw (Nat.not_lt.1 hend) hvalid]
          exact .raise _ _
        · rw [Chip.takeLabel_of_valid hsrc hw (Nat.not_lt.1 hend) hvalid]
          exact .acceptWord _ _
  · by_cases hirig : c.epcSrc = 1
    · refine ⟨{ c.epc with irig := none }, rfl, ?_⟩
      rw [Chip.takeLabel, if_neg hsrc, if_pos hirig]
      exact .refl _
    · refine ⟨c.epc, rfl, ?_⟩
      rw [Chip.takeLabel, if_neg hsrc, if_neg hirig]
      exact .refl c

/-! ### The end of an edge -/

/-- The keeper has seen an edge at `te` with the label `n`, if it had one. -/
def Chip.edgeSeen (c : Chip) (te : Nat) (n : Option Nat) : Chip :=
  c.putEpc { c.epc with lastEdge := some te, lastLabel := n.or c.epc.lastLabel }

/-- The engine whose run of agreeing offsets is broken. -/
def Chip.runBroken (c : Chip) : Chip := c.putEpc { c.epc with ofsRun := 0 }

/-- What an edge with a label does. -/
def Chip.judged (c : Chip) (good : Bool) (n age : Nat) (off kt : Int) : Chip := if good then c.onGood n age off kt else c.runBroken

/-- A keeper in IDLE with a source begins to SEEK. -/
def Chip.seekFrom (c c1 : Chip) : Chip := if c1.epcState = 0 ∧ c1.epcSrc < 2 then c.setEpcState 1 else c

/-- An edge without a label. -/
theorem Chip.ppsSecond_of_none {c c1 : Chip} (age : Nat) (ofs : Int) (h : c.takeLabel (c.epc.line - age) = (c1, none)) :
    c.ppsSecond age ofs = (((c1.goodRun false).runBroken).edgeSeen (c.epc.line - age) none).seekFrom c1 := by
  have hgood : ∀ kt, c1.goodSecond (c.epc.line - age) kt none = false := fun _ => rfl
  unfold Chip.ppsSecond
  simp only [h, hgood]
  rfl

/-- An edge with a label. -/
theorem Chip.ppsSecond_of_some {c c1 : Chip} {n : Nat} (age : Nat) (ofs : Int) (h : c.takeLabel (c.epc.line - age) = (c1, some n)) :
    ∃ kt kg off : Int, ∃ good, good = c1.goodSecond (c.epc.line - age) kg (some n) ∧ c.ppsSecond age ofs =
      (((c1.goodRun (good && decide (c1.epcState ≠ 0))).judged good n age off kt).edgeSeen (c.epc.line - age) (some n)).seekFrom c1 := by
  unfold Chip.ppsSecond
  simp only [h]
  exact ⟨_, _, _, _, rfl, rfl⟩

section
variable (c : Chip)

theorem Chip.edgeSeen_epc (te : Nat) (n : Option Nat) :
    (c.edgeSeen te n).epc = { c.epc with lastEdge := some te, lastLabel := n.or c.epc.lastLabel } := rfl

theorem Chip.reg_edgeSeen (te : Nat) (n : Option Nat) (a : Nat) : (c.edgeSeen te n).reg a = c.reg a := rfl

theorem Chip.KeeperMoved.edgeSeen (te : Nat) (n : Option Nat) : c.KeeperMoved (c.edgeSeen te n) := .putEpc c _

theorem Chip.KeeperMoved.runBroken : c.KeeperMoved c.runBroken := .putEpc c _

theorem Chip.reg_runBroken (a : Nat) : c.runBroken.reg a = c.reg a := rfl

end

/-! ### An edge in SEEK, and one without a word -/

theorem Chip.schSweep_of_empty {c : Chip} (h : c.sch = []) (i : Init) : c.schSweep i = c := by
  unfold Chip.schSweep
  rw [h]
  rfl

/-- Seconds counted from a time that lies `d` after a whole one. -/
theorem seconds_of_whole (n : Nat) (d : Int) {w : Nat} (h : 0 < w) : (((n : Int) * w + d - d + 0 + ((w / 2 : Nat) : Int)) / (w : Int)).toNat = n := by
  have hw : ((w / 2 : Nat) : Int) / (w : Int) = 0 := Int.ediv_eq_zero_of_lt (by positivity) (by omega)
  rw [show (n : Int) * w + d - d + 0 + ((w / 2 : Nat) : Int) = ((w / 2 : Nat) : Int) + n * w by ring,
    Int.add_mul_ediv_right _ _ (by omega), hw]
  simp

theorem Chip.outstanding_of_none {c : Chip} (hstep : c.epc.stepDue = none) (hslew : c.epc.corrSlew = none) : c.outstanding = 0 := by
  rw [Chip.outstanding, hstep, hslew, Option.getD_none, zero_mul, add_zero]

/-- The keeper at time `t`, with no offset measured yet. -/
def Chip.setTo (c : Chip) (t : Nat) : Chip := c.putEpc { c.epc with time := t, slew := 0, ofsRun := 0, awaiting := false }

/-- What a keeper that has entered VALID shows. -/
structure Chip.ValidFrom (c d : Chip) (t n : Nat) : Prop where
  state : d.epcState = 2
  time : d.epc.time = t
  good : d.epc.lastGood = n
  timeline : d.epc.timeline = true
  word : d.epc.word = c.epc.word
  moved : c.KeeperMoved d

theorem Chip.enterValid_epc (c : Chip) : c.enterValid.epc = { c.epc with timeline := true } := by
  rw [Chip.enterValid, Chip.raise_epc]
  rfl

theorem Chip.reg_enterValid_ne (c : Chip) {a : Nat} (h : a < 0x40000) (hne : a ≠ R.EPC_STAT) : c.enterValid.reg a = c.reg a := by
  rw [Chip.enterValid, Chip.reg_raise_ne _ _ (epc_not_mem_eventRegs h _)]
  exact c.reg_setEpcState_ne 2 hne

theorem Chip.epcState_enterValid (c : Chip) : c.enterValid.epcState = 2 := by
  rw [Chip.epcState, Chip.enterValid, Chip.fld_congr (Chip.reg_raise_ne _ _ (epc_not_mem_eventRegs (by decide) _))]
  exact c.epcState_setEpcState (by decide)

theorem Chip.KeeperMoved.enterValid (c : Chip) : c.KeeperMoved c.enterValid :=
  ((Chip.EventsOnly.setEpcState c 2).keeperMoved.trans (.putEpc _ { (c.setEpcState 2).epc with timeline := true })).trans
    (Chip.EventsOnly.raise _ Ev.epochValid).keeperMoved

theorem Chip.ppsDly_congr {c d : Chip} (h : d.reg R.EPC_PPS_DLY = c.reg R.EPC_PPS_DLY) : d.ppsDly = c.ppsDly := by
  rw [Chip.ppsDly, Chip.rn_congr h, Chip.ppsDly]

theorem Chip.markGood_epc (c : Chip) (kt : Int) :
    (c.markGood kt).epc = { c.epc with lastGood := ((kt - c.ppsDly + c.outstanding + ((second / 2 : Nat) : Int)) / (second : Int)).toNat } := rfl

theorem Chip.onGood_of_acquired {c : Chip} {n : Nat} (age : Nat) (off kt : Int) (hstate : c.epcState = 1)
    (hacq : c.acqN ≤ c.fld R.EPC_STAT F.EPC_STAT_GOOD_RUN) (hsch : c.sch = []) (hstep : c.epc.stepDue = none) (hslew : c.epc.corrSlew = none) :
    c.ValidFrom (c.onGood n age off kt) ((n : Int) * second + c.ppsDly + age).toNat n := by
  obtain ⟨t, ht⟩ : ∃ t, t = ((n : Int) * second + c.ppsDly + age).toNat := ⟨_, rfl⟩
  obtain ⟨d, hd⟩ : ∃ d, d = (c.setTo t).enterValid := ⟨_, rfl⟩
  have heq : c.onGood n age off kt = (d.markGood ((n : Int) * second + c.ppsDly)).schSweep .sched := by
    rw [Chip.onGood, hstate, decide_eq_true hacq, hd, ht]
    rfl
  have hmoved : c.KeeperMoved d := hd ▸ (Chip.KeeperMoved.putEpc c _).trans (.enterValid (c.setTo t))
  have hepc : d.epc = { (c.setTo t).epc with timeline := true } := hd ▸ Chip.enterValid_epc (c.setTo t)
  have hdly : d.ppsDly = c.ppsDly := Chip.ppsDly_congr (hd ▸ Chip.reg_enterValid_ne (c.setTo t) (by decide) (by decide))
  have hout : d.outstanding = 0 := Chip.outstanding_of_none (by rw [hepc]; exact hstep) (by rw [hepc]; exact hslew)
  have hstate2 : d.epcState = 2 := hd ▸ Chip.epcState_enterValid (c.setTo t)
  have hgood : (d.markGood ((n : Int) * second + c.ppsDly)).epc = { d.epc with lastGood := n } := by
    rw [Chip.markGood_epc, hdly, hout, seconds_of_whole n c.ppsDly (w := second) (by decide)]
  rw [heq, Chip.schSweep_of_empty (show (d.markGood _).sch = [] from hmoved.sch.trans hsch), ← ht]
  exact ⟨hstate2, by rw [hgood, hepc]; rfl, by rw [hgood], by rw [hgood, hepc], by rw [hgood, hepc]; rfl, hmoved.trans (.putEpc d _)⟩

theorem Chip.acqN_congr {c d : Chip} (h : d.reg R.EPC_CTRL = c.reg R.EPC_CTRL) : d.acqN = c.acqN := by
  rw [Chip.acqN, Chip.fld_congr h, Chip.acqN]

theorem Chip.goodSecond_of_seek {c : Chip} {te n t : Nat} (kt : Int) (hstate : c.epcState ≠ 2) (hlabel : c.epc.lastLabel = some (n - 1))
    (hn : 1 ≤ n) (hedge : c.epc.lastEdge = some t) (hdist : distNat (te - t) second ≤ micro) : c.goodSecond te kt (some n) = true := by
  unfold Chip.goodSecond
  rw [hlabel]
  dsimp only
  rw [if_neg hstate, hedge, decide_eq_true (show n = n - 1 + 1 by omega), Bool.true_and]
  exact decide_eq_true hdist

section
variable {s : State}

theorem ppsEdge_wf (rise : Bool) {age : Nat} (ofs : Int) (h : age < 2 ^ 64) : (Instr.ppsEdge rise age ofs).wf = true := decide_eq_true h

theorem exec_ppsEdge {rise : Bool} {age : Nat} (ofs : Int) (h : s.chip.atWork = true) (hrise : s.chip.ppsActive rise = true) (hage : age < 2 ^ 64) :
    exec (.ppsEdge rise age ofs) s = .next (s.after (s.chip.ppsSecond age ofs)) := by
  rw [show exec (.ppsEdge rise age ofs) s = s.act _ (doPpsEdge rise age ofs) from rfl, State.act_of_atWork h (ppsEdge_wf rise ofs hage), doPpsEdge,
    if_pos hrise]

theorem completes_ppsEdge_acquired {rise : Bool} {age n : Nat} {w : EpochWord} {t : Nat} (h : s.chip.atWork = true)
    (hrise : s.chip.ppsActive rise = true) (hsrc : s.chip.epcSrc = 0) (hstate : s.chip.epcState = 1) (hage : age < 2 ^ 64)
    (hw : s.chip.epc.word = some w) (hvalid : bit w.payload 8 = true) (hlabel : bits w.payload 20 44 = n)
    (hend : w.endAt + 100 * micro ≤ s.chip.epc.line - age) (hlast : s.chip.epc.lastLabel = some (n - 1)) (hn : 1 ≤ n)
    (hedge : s.chip.epc.lastEdge = some t) (hdist : distNat (s.chip.epc.line - age - t) second ≤ micro)
    (hacq : s.chip.acqN ≤ min 15 (s.chip.fld R.EPC_STAT F.EPC_STAT_GOOD_RUN + 1)) (hsch : s.chip.sch = []) (hstep : s.chip.epc.stepDue = none)
    (hslew : s.chip.epc.corrSlew = none) :
    Completes (.ppsEdge rise age 0) s (fun c => c.epcState = 2 ∧ c.epc.time = ((n : Int) * second + s.chip.ppsDly + age).toNat ∧
      c.epc.word = none ∧ c.epc.lastGood = n ∧ c.epc.timeline = true ∧ c.epc.lastLabel = some n ∧
      c.epc.lastEdge = some (s.chip.epc.line - age)) := by
  obtain ⟨c0, hc0⟩ : ∃ c0, c0 = s.chip.putEpc { s.chip.epc with word := none } := ⟨_, rfl⟩
  obtain ⟨c1, hc1⟩ : ∃ c1, c1 = c0.acceptWord w.payload := ⟨_, rfl⟩
  have hlab : c0.Labelled c1 := hc1 ▸ .acceptWord c0 w.payload
  have htake : s.chip.takeLabel (s.chip.epc.line - age) = (c1, some n) := by
    rw [Chip.takeLabel_of_valid hsrc hw hend hvalid, hlabel, hc1, hc0]
  have hregs0 : ∀ a, c0.reg a = s.chip.reg a := fun a => by rw [hc0, Chip.reg_putEpc]
  have hepc1 : c1.epc = { s.chip.epc with word := none } := by rw [hlab.events.epc, hc0, Chip.putEpc_epc]
  have hstate1 : c1.epcState = 1 := hlab.state.trans ((Chip.fld_congr (hregs0 _) _).trans hstate)
  have hmoved0 : s.chip.KeeperMoved c0 := hc0 ▸ .putEpc _ _
  obtain ⟨kt, kg, off, good, hgood, heq⟩ := Chip.ppsSecond_of_some age 0 htake
  have htrue : good = true := by
    rw [hgood]
    exact Chip.goodSecond_of_seek kg (by rw [hstate1]; decide) (by rw [hepc1]; exact hlast) hn (by rw [hepc1]; exact hedge) hdist
  obtain ⟨c2, hc2⟩ : ∃ c2, c2 = c1.goodRun true := ⟨_, rfl⟩
  have hev2 : c1.EventsOnly c2 := hc2 ▸ .goodRun c1 true
  have hmoved2 : s.chip.KeeperMoved c2 := (hmoved0.trans hlab.events.keeperMoved).trans hev2.keeperMoved
  have hreg2 : ∀ a, a < 0x40000 → a ≠ R.EPC_STAT → a ≠ R.EPC_UTC_OFS → a ≠ R.EPC_WORD_ERR → c2.reg a = s.chip.reg a := fun a h1 h2 h3 h4 => by
    rw [hc2, c1.reg_goodRun_ne true h2, hlab.regs a h1 h2 h3 h4, hregs0]
  have hacq2 : c2.acqN ≤ c2.fld R.EPC_STAT F.EPC_STAT_GOOD_RUN := by
    rw [Chip.acqN_congr (hreg2 _ (by decide) (by decide) (by decide) (by decide)), hc2, c1.goodRun_good, hlab.run, Chip.fld_congr (hregs0 _)]
    exact hacq
  have hvf := Chip.onGood_of_acquired (c := c2) (n := n) age off kt (by rw [hc2, c1.epcState_goodRun]; exact hstate1) hacq2
    (hmoved2.sch.trans hsch) (by rw [hev2.epc, hepc1]; exact hstep) (by rw [hev2.epc, hepc1]; exact hslew)
  rw [htrue, Bool.true_and, decide_eq_true (show c1.epcState ≠ 0 by rw [hstate1]; decide), ← hc2, Chip.judged, if_pos rfl, Chip.seekFrom,
    if_neg (by rw [hstate1]; exact fun hc => absurd hc.1 (by decide))] at heq
  generalize c2.onGood n age off kt = d at *
  have hexec := exec_ppsEdge 0 h hrise hage
  rw [heq] at hexec
  have hall := hmoved2.trans (hvf.moved.trans (.edgeSeen d (s.chip.epc.line - age) (some n)))
  refine .of_exec hexec (hall.demands.1.trans (Chip.fatal_of_atWork h)) (hall.demands.2.trans (Chip.resetReq_of_atWork h))
    ⟨hvf.state, hvf.time.trans ?_, hvf.word.trans ?_, hvf.good, hvf.timeline, rfl, rfl⟩
  · rw [Chip.ppsDly_congr (hreg2 _ (by decide) (by decide) (by decide) (by decide))]
  · rw [hev2.epc, hepc1]

theorem completes_ppsEdge_unlabelled {rise : Bool} {age : Nat} {ofs : Int} (h : s.chip.atWork = true) (hrise : s.chip.ppsActive rise = true)
    (hsrc : s.chip.epcSrc = 0) (hstate : s.chip.epcState ≠ 0) (hage : age < 2 ^ 64) (hw : s.chip.epc.word = none) :
    Completes (.ppsEdge rise age ofs) s (fun c => c.epcState = s.chip.epcState ∧ c.epc.time = s.chip.epc.time ∧
      c.fld R.EPC_STAT F.EPC_STAT_GOOD_RUN = 0 ∧ c.epc.lastLabel = s.chip.epc.lastLabel ∧ (∀ a, a ≠ R.EPC_STAT → c.reg a = s.chip.reg a)) := by
  have hexec := exec_ppsEdge ofs h hrise hage
  rw [Chip.ppsSecond_of_none age ofs (Chip.takeLabel_of_none _ hsrc hw), Chip.seekFrom, if_neg (fun hc => hstate hc.1)] at hexec
  have hev := Chip.EventsOnly.goodRun s.chip false
  have hstat := s.chip.epcState_goodRun false
  have hrun := s.chip.goodRun_bad
  have hregs := fun a => s.chip.reg_goodRun_ne false (a := a)
  generalize s.chip.goodRun false = d at *
  have htime : d.epc.time = s.chip.epc.time := by rw [hev.epc]
  have hlabel : d.epc.lastLabel = s.chip.epc.lastLabel := by rw [hev.epc]
  exact .of_exec hexec (hev.fatal.trans (Chip.fatal_of_atWork h)) (hev.resetReq.trans (Chip.resetReq_of_atWork h))
    ⟨hstat, htime, hrun, hlabel, hregs⟩

theorem Chip.onGood_of_idle {c : Chip} (n age : Nat) (off kt : Int) (h : c.epcState = 0) : c.onGood n age off kt = c := by
  unfold Chip.onGood
  simp only [h]

theorem Chip.judged_of_idle {c : Chip} (good : Bool) (n age : Nat) (off kt : Int) (h : c.epcState = 0) :
    c.judged good n age off kt = c ∨ c.judged good n age off kt = c.runBroken := by
  cases good
  · exact .inr rfl
  · exact .inl (Chip.onGood_of_idle n age off kt h)

/-- In IDLE an edge counts no good second, whatever its label. -/
theorem Chip.ppsSecond_of_idle {c : Chip} (age : Nat) (ofs : Int) (hsrc : c.epcSrc < 2) (hstate : c.epcState = 0) :
    ∃ e : Epc, ∃ d : Chip, e.time = c.epc.time ∧ e.lastEdge = some (c.epc.line - age) ∧ (c.putEpc e).EventsOnly d ∧
      c.ppsSecond age ofs = d.setEpcState 1 := by
  obtain ⟨e, htime, hlab⟩ := c.takeLabel_spec (c.epc.line - age)
  obtain ⟨c1, n, htake⟩ : ∃ c1 n, c.takeLabel (c.epc.line - age) = (c1, n) := ⟨_, _, rfl⟩
  rw [htake] at hlab
  have hstate1 : c1.epcState = 0 := hlab.state.trans hstate
  have hsrc1 : c1.epcSrc < 2 := by
    rw [Chip.epcSrc, Chip.fld_congr (hlab.regs R.EPC_CTRL (by decide) (by decide) (by decide) (by decide))]
    exact hsrc
  have hseek : ∀ d : Chip, d.seekFrom c1 = d.setEpcState 1 := fun d => if_pos ⟨hstate1, hsrc1⟩
  have hend : ∀ (d : Chip) (m : Option Nat) (e1 : Epc), e1.time = c.epc.time → (c.putEpc e1).EventsOnly d →
      ∃ e2 : Epc, e2.time = c.epc.time ∧ e2.lastEdge = some (c.epc.line - age) ∧ (c.putEpc e2).EventsOnly (d.edgeSeen (c.epc.line - age) m) := by
    intro d m e1 ht hd
    obtain ⟨_, _, _, rfl⟩ := hd
    exact ⟨{ e1 with lastEdge := some (c.epc.line - age), lastLabel := m.or e1.lastLabel }, ht, rfl, ⟨_, _, _, rfl⟩⟩
  have hbroken : ∀ (d : Chip) (e1 : Epc), e1.time = c.epc.time → (c.putEpc e1).EventsOnly d →
      ∃ e2 : Epc, e2.time = c.epc.time ∧ (c.putEpc e2).EventsOnly d.runBroken := by
    intro d e1 ht hd
    obtain ⟨_, _, _, rfl⟩ := hd
    exact ⟨{ e1 with ofsRun := 0 }, ht, ⟨_, _, _, rfl⟩⟩
  cases n with
  | none =>
    obtain ⟨e1, h1, hd1⟩ := hbroken _ e htime (hlab.events.trans (.goodRun c1 false))
    obtain ⟨e2, h2, h3, hd2⟩ := hend _ none e1 h1 hd1
    exact ⟨e2, _, h2, h3, hd2, (Chip.ppsSecond_of_none age ofs htake).trans (hseek _)⟩
  | some n =>
    obtain ⟨kt, kg, off, good, -, heq⟩ := Chip.ppsSecond_of_some age ofs htake
    have hrun := hlab.events.trans (.goodRun c1 (good && decide (c1.epcState ≠ 0)))
    have hstate2 := (c1.epcState_goodRun (good && decide (c1.epcState ≠ 0))).trans hstate1
    rcases Chip.judged_of_idle good n age off kt hstate2 with hj | hj
    · obtain ⟨e2, h2, h3, hd2⟩ := hend _ (some n) e htime hrun
      exact ⟨e2, _, h2, h3, hd2, by rw [heq, hj, hseek]⟩
    · obtain ⟨e1, h1, hd1⟩ := hbroken _ e htime hrun
      obtain ⟨e2, h2, h3, hd2⟩ := hend _ (some n) e1 h1 hd1
      exact ⟨e2, _, h2, h3, hd2, by rw [heq, hj, hseek]⟩

theorem completes_ppsEdge_idle {rise : Bool} {age : Nat} {ofs : Int} (h : s.chip.atWork = true) (hrise : s.chip.ppsActive rise = true)
    (hsrc : s.chip.epcSrc < 2) (hstate : s.chip.epcState = 0) (hage : age < 2 ^ 64) :
    Completes (.ppsEdge rise age ofs) s (fun c => c.epcState = 1 ∧ c.epc.time = s.chip.epc.time ∧
      c.epc.lastEdge = some (s.chip.epc.line - age)) := by
  have hexec := exec_ppsEdge ofs h hrise hage
  obtain ⟨e, d, htime, hedge, hev, heq⟩ := s.chip.ppsSecond_of_idle age ofs hsrc hstate
  rw [heq] at hexec
  have hend := hev.trans (.setEpcState d 1)
  exact .of_exec hexec (hend.fatal.trans (Chip.fatal_of_atWork h)) (hend.resetReq.trans (Chip.resetReq_of_atWork h))
    ⟨d.epcState_setEpcState (by decide), (congrArg Epc.time hend.epc).trans htime, (congrArg Epc.lastEdge hend.epc).trans hedge⟩

theorem exec_ppsEdge_inactive {rise : Bool} {age : Nat} (ofs : Int) (h : s.chip.atWork = true) (hrise : s.chip.ppsActive rise = false)
    (hage : age < 2 ^ 64) : exec (.ppsEdge rise age ofs) s = .next (s.after s.chip) := by
  rw [show exec (.ppsEdge rise age ofs) s = s.act _ (doPpsEdge rise age ofs) from rfl, State.act_of_atWork h (ppsEdge_wf rise ofs hage), doPpsEdge,
    hrise, if_neg Bool.false_ne_true]

end

/-! ### Holdover, SRC, the leap second -/

theorem Chip.waitTime_keeps (c : Chip) (t : Int) : (c.waitTime t).regs = c.regs ∧ (c.waitTime t).fatal = c.fatal ∧
    (c.waitTime t).resetReq = c.resetReq := by
  unfold Chip.waitTime
  split
  · obtain ⟨k, e, h⟩ := c.pass_eq (c.cyclesTo t.toNat)
    rw [h]
    exact ⟨rfl, rfl, rfl⟩
  · exact ⟨rfl, rfl, rfl⟩

/-- The keeper in HOLDOVER. -/
def Chip.heldOver (c : Chip) : Chip := (((c.setEpcState 3).goodRun false).runBroken).raise Ev.epochHoldover

theorem Chip.heldOver_spec (c : Chip) : c.heldOver.epcState = 3 ∧ c.heldOver.fld R.EPC_STAT F.EPC_STAT_GOOD_RUN = 0 ∧
    c.KeeperMoved c.heldOver ∧ ∀ a, a ∉ R.EPC_STAT :: eventRegs Ev.epochHoldover → c.heldOver.reg a = c.reg a := by
  have hstat : c.heldOver.reg R.EPC_STAT = ((c.setEpcState 3).goodRun false).reg R.EPC_STAT := by
    rw [Chip.heldOver, Chip.reg_raise_ne _ _ (epc_not_mem_eventRegs (by decide) _), Chip.reg_runBroken]
  refine ⟨?_, (Chip.fld_congr hstat _).trans (Chip.goodRun_bad _), ?_, fun a ha => ?_⟩
  · rw [Chip.epcState, Chip.fld_congr hstat]
    exact (Chip.epcState_goodRun _ false).trans (c.epcState_setEpcState (by decide))
  · exact (((Chip.EventsOnly.setEpcState c 3).trans (.goodRun _ false)).keeperMoved.trans (.runBroken _)).trans (Chip.EventsOnly.raise _ _).keeperMoved
  · rw [List.mem_cons, not_or] at ha
    obtain ⟨hne, hev⟩ := ha
    rw [Chip.heldOver, Chip.reg_raise_ne _ _ hev, Chip.reg_runBroken, Chip.reg_goodRun_ne _ _ hne, Chip.reg_setEpcState_ne _ _ hne]

theorem doEpochHoldover_of_valid {c : Chip} (h : c.epcState = 2) : ∃ t, doEpochHoldover c = (c.waitTime t).heldOver := by
  rw [doEpochHoldover, if_pos h]
  exact ⟨_, rfl⟩

theorem completes_epochHoldover {s : State} (h : s.chip.atWork = true) (hstate : s.chip.epcState = 2) :
    Completes .epochHoldover s (fun c => c.epcState = 3 ∧ c.fld R.EPC_STAT F.EPC_STAT_GOOD_RUN = 0 ∧
      (∀ a, a ∉ R.EPC_STAT :: eventRegs Ev.epochHoldover → c.reg a = s.chip.reg a)) := by
  obtain ⟨t, ht⟩ := doEpochHoldover_of_valid hstate
  have hexec : exec .epochHoldover s = .next (s.after (s.chip.waitTime t).heldOver) := by
    rw [show exec .epochHoldover s = s.act _ doEpochHoldover from rfl, State.act_of_atWork h rfl, ht]
  obtain ⟨hregs, hfatal, hreset⟩ := s.chip.waitTime_keeps t
  obtain ⟨hst, hrun, hmoved, hreg⟩ := (s.chip.waitTime t).heldOver_spec
  exact .of_exec hexec (hmoved.demands.1.trans (hfatal.trans (Chip.fatal_of_atWork h))) (hmoved.demands.2.trans (hreset.trans (Chip.resetReq_of_atWork h)))
    ⟨hst, hrun, fun a ha => (hreg a ha).trans (Chip.reg_congr hregs a)⟩

def rowEpcCtrl : RegRow :=
  { name := "EPC_CTRL", off := 0x0, stride := 0x0, count := 1, stride2 := 0, count2 := 1, reset := 0x642303, lk := 0x7fffff33, lks := 0x10011131 }

theorem regRow_epcCtrl : regRow R.EPC_CTRL = some rowEpcCtrl := by decide

theorem Chip.applyFields_epcCtrl (c : Chip) (i : Init) (v : Word) : c.applyFields i R.EPC_CTRL v = c.epcCtrlWrite i rowEpcCtrl v.toNat := by
  have htriple : spanOf writeTriples 3 R.EPC_CTRL = none := by decide
  have hvalue : spanOf valuePairs 2 R.EPC_CTRL = none := by decide
  simp only [Chip.applyFields, regRow_epcCtrl, htriple, hvalue]
  rfl

theorem Chip.applyCmds_epcCtrl (c : Chip) (i : Init) (v : Word) : c.applyCmds i R.EPC_CTRL v = c := by
  rw [Chip.applyCmds, regRow_epcCtrl]
  simp only [rowEpcCtrl, Nat.and_zero, Chip.issue, if_true]

/-- The written `EPC_CTRL`. -/
def Chip.epcCtrlPut (c : Chip) (v : Word) : Chip := c.setN R.EPC_CTRL (masked (c.rn R.EPC_CTRL) v.toNat 0x7fffff33)

theorem Chip.fieldWrite_epcCtrl {c : Chip} (i : Init) (v : Word) (h : c.locked = false) : c.fieldWrite i R.EPC_CTRL rowEpcCtrl v.toNat = c.epcCtrlPut v := by
  have hlk : c.lkOf R.EPC_CTRL rowEpcCtrl = 0x7fffff33 := Chip.lkOf_of_apart (.inl (by decide)) c rowEpcCtrl
  have hbars : c.lkBars R.EPC_CTRL rowEpcCtrl v.toNat = false := by rw [Chip.lkBars, h, Bool.false_and]
  rw [Chip.fieldWrite_of_open i rfl hbars, hlk]
  rfl

theorem Chip.epcSrc_epcCtrlPut (c : Chip) (v : Word) : (c.epcCtrlPut v).epcSrc = bits v.toNat F.EPC_CTRL_SRC.lo F.EPC_CTRL_SRC.w := by
  have hmask : ∀ i, F.EPC_CTRL_SRC.lo ≤ i → i < F.EPC_CTRL_SRC.lo + F.EPC_CTRL_SRC.w → (0x7fffff33 : Nat).testBit i = true := by
    intro i _ hi
    have hi : i < 2 := hi
    interval_cases i <;> rfl
  rw [Chip.epcSrc, Chip.fld, Chip.epcCtrlPut, Chip.rn_setN_masked]
  exact bits_masked hmask

/-- The keeper after a change of SRC, before its state. -/
def Chip.sourceDropped (c : Chip) : Chip :=
  (c.goodRun false).putEpc { (c.goodRun false).epc with
    word := none, irig := none, lastEdge := none, lastLabel := none, ofsRun := 0, irigDay := 0, irigYr := 0 }

theorem Chip.srcChanged_eq (c : Chip) : c.srcChanged = c.sourceDropped.setEpcState (if c.epc.timeline then 3 else 0) := rfl

theorem Chip.srcChanged_spec (c : Chip) : c.srcChanged.epcState = (if c.epc.timeline then 3 else 0) ∧ c.srcChanged.epcSrc = c.epcSrc ∧
    (c.srcChanged.epc.word = none ∧ c.srcChanged.epc.lastEdge = none ∧ c.srcChanged.epc.lastLabel = none) ∧ c.KeeperMoved c.srcChanged := by
  have hev := Chip.EventsOnly.setEpcState c.sourceDropped (if c.epc.timeline then 3 else 0)
  have hdropped : c.KeeperMoved c.sourceDropped := (Chip.EventsOnly.goodRun c false).keeperMoved.trans (.putEpc _ _)
  rw [Chip.srcChanged_eq]
  refine ⟨Chip.epcState_setEpcState _ (by split <;> decide), ?_, ?_, hdropped.trans hev.keeperMoved⟩
  · rw [Chip.epcSrc, Chip.fld_congr (Chip.reg_setEpcState_ne _ _ (by decide)), Chip.sourceDropped, Chip.fld_congr (Chip.reg_putEpc _ _ _),
      Chip.fld_congr (Chip.reg_goodRun_ne _ _ (by decide)), Chip.epcSrc]
  · rw [hev.epc]
    exact ⟨rfl, rfl, rfl⟩

theorem completes_srcChange {s : State} {i : Init} {v : Word} (h : s.chip.atWork = true) (hi : i ≠ .sched) (hlocked : s.chip.locked = false)
    (hsrc : bits v.toNat F.EPC_CTRL_SRC.lo F.EPC_CTRL_SRC.w ≠ s.chip.epcSrc) :
    Completes (.srcChange i v) s (fun c => c.epcState = (if s.chip.epc.timeline then 3 else 0) ∧
      c.epcSrc = bits v.toNat F.EPC_CTRL_SRC.lo F.EPC_CTRL_SRC.w ∧ c.epc.word = none ∧ c.epc.lastEdge = none ∧ c.epc.lastLabel = none) := by
  have hwrite : s.chip.busWrite i R.EPC_CTRL v = (s.chip.writing.epcCtrlPut v).srcChanged := by
    rw [Chip.busWrite_of_atWork h i v (by decide) (by decide), Chip.applyCmds_epcCtrl, Chip.applyFields_epcCtrl, Chip.epcCtrlWrite,
      Chip.fieldWrite_epcCtrl (c := s.chip.writing) i v hlocked]
    exact if_neg (by rw [Chip.epcSrc_epcCtrlPut]; exact hsrc)
  have hexec : exec (.srcChange i v) s = .next (s.after (s.chip.writing.epcCtrlPut v).srcChanged) := by
    rw [show exec (.srcChange i v) s = s.act _ (fun c => c.busWrite i R.EPC_CTRL v) from rfl, State.act_of_atWork h (show (Instr.srcChange i v).wf = true from decide_eq_true hi), hwrite]
  obtain ⟨hstate, hsrc1, ⟨hword, hedge, hlabel⟩, hmoved⟩ := (s.chip.writing.epcCtrlPut v).srcChanged_spec
  exact .of_exec hexec (hmoved.demands.1.trans (Chip.fatal_of_atWork (c := s.chip) h))
    (hmoved.demands.2.trans (Chip.resetReq_of_atWork (c := s.chip) h)) ⟨hstate, hsrc1.trans (Chip.epcSrc_epcCtrlPut _ v), hword, hedge, hlabel⟩

/-- The leap second's own effect. -/
def Chip.leaped (c : Chip) : Chip :=
  ((c.setFld R.EPC_UTC_OFS F.EPC_UTC_OFS_UTC_TAI (c.fld R.EPC_LEAP_H F.EPC_LEAP_H_LEAP_OFS)).setFlag R.EPC_LEAP_H F.EPC_LEAP_H_ARMED false).raise
    Ev.utcOfsChange

theorem Chip.leaped_spec (c : Chip) : c.leaped.leapArmed = false ∧
    c.leaped.fld R.EPC_UTC_OFS F.EPC_UTC_OFS_UTC_TAI = c.fld R.EPC_LEAP_H F.EPC_LEAP_H_LEAP_OFS ∧ c.KeeperMoved c.leaped := by
  have hreg : ∀ a, a < 0x40000 → c.leaped.reg a = ((c.setFld R.EPC_UTC_OFS F.EPC_UTC_OFS_UTC_TAI (c.fld R.EPC_LEAP_H F.EPC_LEAP_H_LEAP_OFS)).setFlag
      R.EPC_LEAP_H F.EPC_LEAP_H_ARMED false).reg a := fun a ha => Chip.reg_raise_ne _ _ (epc_not_mem_eventRegs ha _)
  refine ⟨?_, ?_, (((Chip.EventsOnly.setFld c _ _ _).trans (.setFld _ _ _ _)).trans (.raise _ _)).keeperMoved⟩
  · rw [Chip.leapArmed, Chip.flag_congr (hreg _ (by decide)), Chip.flag_setFlag _ _ F.EPC_LEAP_H_ARMED _ (by decide) (by decide)]
  · rw [Chip.fld_congr (hreg _ (by decide)), Chip.fld_setFlag_ne _ _ _ _ (by decide), Chip.fld_setFld _ _ F.EPC_UTC_OFS_UTC_TAI _ (by decide)]
    exact Nat.mod_eq_of_lt (bits_lt (c.rn R.EPC_LEAP_H) F.EPC_LEAP_H_LEAP_OFS.lo F.EPC_LEAP_H_LEAP_OFS.w)

theorem doLeapSecond_of_armed {c : Chip} (harmed : c.leapArmed = true) (hholds : c.epcHolds = true) (hsrc : c.epcSrc = 1) :
    ∃ t, doLeapSecond c = (c.waitStamp t).leaped := by
  rw [doLeapSecond, harmed, hholds, hsrc, if_pos (by decide)]
  exact ⟨_, rfl⟩

theorem completes_leapSecond {s : State} (h : s.chip.atWork = true) (harmed : s.chip.leapArmed = true) (hholds : s.chip.epcHolds = true)
    (hsrc : s.chip.epcSrc = 1) :
    Completes .leapSecond s (fun c => c.leapArmed = false ∧
      c.fld R.EPC_UTC_OFS F.EPC_UTC_OFS_UTC_TAI = s.chip.fld R.EPC_LEAP_H F.EPC_LEAP_H_LEAP_OFS) := by
  obtain ⟨t, ht⟩ := doLeapSecond_of_armed harmed hholds hsrc
  have hexec : exec .leapSecond s = .next (s.after (s.chip.waitStamp t).leaped) := by
    rw [show exec .leapSecond s = s.act _ doLeapSecond from rfl, State.act_of_atWork h rfl, ht]
  obtain ⟨hregs, hfatal, hreset⟩ := s.chip.waitStamp_keeps t
  generalize s.chip.waitStamp t = d at *
  obtain ⟨hoff, hofs, hmoved⟩ := d.leaped_spec
  exact .of_exec hexec (hmoved.demands.1.trans (hfatal.trans (Chip.fatal_of_atWork h))) (hmoved.demands.2.trans (hreset.trans (Chip.resetReq_of_atWork h)))
    ⟨hoff, hofs.trans (Chip.fld_congr (Chip.reg_congr hregs _) _)⟩

/-! ### Steps and Slews -/

theorem doStepApply_of_due {c : Chip} {q : Int} (h : c.epc.stepDue = some q) :
    doStepApply c = if c.segmentOpen then c else if 0 < q then (c.stepNow q).schLateFire else c.stepNow q := by
  unfold doStepApply
  rw [h]

theorem exec_stepApply {s : State} {q : Int} (h : s.chip.atWork = true) (hdue : s.chip.epc.stepDue = some q) (hopen : s.chip.segmentOpen = false) :
    exec .stepApply s = .next (s.after (if 0 < q then (s.chip.stepNow q).schLateFire else s.chip.stepNow q)) := by
  rw [show exec .stepApply s = s.act _ doStepApply from rfl, State.act_of_atWork h rfl, doStepApply_of_due hdue, hopen, if_neg Bool.false_ne_true]

theorem exec_stepApply_waits {s : State} {q : Int} (h : s.chip.atWork = true) (hdue : s.chip.epc.stepDue = some q)
    (hopen : s.chip.segmentOpen = true) : exec .stepApply s = .next (s.after s.chip) := by
  rw [show exec .stepApply s = s.act _ doStepApply from rfl, State.act_of_atWork h rfl, doStepApply_of_due hdue, hopen, if_pos rfl]

theorem Chip.pass_corrections (c : Chip) (n : Nat) : (c.pass n).epc.ofsWait = c.epc.ofsWait ∧ (c.pass n).epc.stepDue = c.epc.stepDue := ⟨rfl, rfl⟩

theorem Chip.waitLine_corrections (c : Chip) (t : Nat) : (c.waitLine t).epc.ofsWait = c.epc.ofsWait ∧ (c.waitLine t).epc.stepDue = c.epc.stepDue := by
  unfold Chip.waitLine
  split
  · exact c.pass_corrections _
  · exact ⟨rfl, rfl⟩

/-- The keeper with the slewed correction ended. -/
def Chip.slewEnded (c : Chip) : Chip :=
  (c.putEpc { c.epc with corrSlew := none, slew := c.epc.slew + c.epc.corrSlew.getD 0 }).setCorrOut
    (decide (c.epc.ofsWait ≠ 0) || c.epc.stepDue.isSome)

theorem Chip.slewEnded_spec (c : Chip) : c.slewEnded.epc.corrSlew = none ∧
    c.slewEnded.flag R.EPC_STAT F.EPC_STAT_CORR_OUT = (decide (c.epc.ofsWait ≠ 0) || c.epc.stepDue.isSome) ∧ c.KeeperMoved c.slewEnded :=
  ⟨rfl, Chip.flag_setFlag _ R.EPC_STAT F.EPC_STAT_CORR_OUT _ (by decide) (by decide), ⟨rfl, rfl⟩, rfl⟩

/-- As the command writes it. -/
theorem Chip.slewEnded_eq (c : Chip) : c.slewEnded =
    { c with epc := { c.epc with corrSlew := none, slew := c.epc.slew + c.epc.corrSlew.getD 0 } }.setCorrOut
      (decide ({ c with epc := { c.epc with corrSlew := none, slew := c.epc.slew + c.epc.corrSlew.getD 0 } }.epc.ofsWait ≠ 0) ||
        { c with epc := { c.epc with corrSlew := none, slew := c.epc.slew + c.epc.corrSlew.getD 0 } }.epc.stepDue.isSome) := rfl

theorem doSlewComplete_of_slew {c : Chip} {r : Int} (h : c.epc.corrSlew = some r) (hd : c.disciplined = true) :
    ∃ t, doSlewComplete c = (c.waitLine t).slewEnded := by
  unfold doSlewComplete
  split
  next hnone => cases hnone.symm.trans h
  next =>
    rw [if_pos hd]
    exact ⟨_, (Chip.slewEnded_eq _).symm⟩

theorem completes_slewComplete {s : State} {r : Int} (h : s.chip.atWork = true) (hslew : s.chip.epc.corrSlew = some r)
    (hd : s.chip.disciplined = true) :
    Completes .slewComplete s (fun c => c.epc.corrSlew = none ∧
      c.flag R.EPC_STAT F.EPC_STAT_CORR_OUT = (decide (s.chip.epc.ofsWait ≠ 0) || s.chip.epc.stepDue.isSome)) := by
  obtain ⟨t, ht⟩ := doSlewComplete_of_slew hslew hd
  have hexec : exec .slewComplete s = .next (s.after (s.chip.waitLine t).slewEnded) := by
    rw [show exec .slewComplete s = s.act _ doSlewComplete from rfl, State.act_of_atWork h rfl, ht]
  obtain ⟨hwait, hdue⟩ := s.chip.waitLine_corrections t
  have hfatal := s.chip.waitLine_fatal t
  have hreset := s.chip.waitLine_resetReq t
  generalize s.chip.waitLine t = d at *
  obtain ⟨hnone, hflag, hmoved⟩ := d.slewEnded_spec
  exact .of_exec hexec (hmoved.demands.1.trans (hfatal.trans (Chip.fatal_of_atWork h))) (hmoved.demands.2.trans (hreset.trans (Chip.resetReq_of_atWork h)))
    ⟨hnone, by rw [hflag, hwait, hdue]⟩

/-- Settles O25: each move of the keeper, one after another. -/
theorem keeperMoves : Obligations.KeeperMoves :=
  ⟨fun _ _ _ _ _ _ h hr hsrc hst hage hw hv hl hend hlast hn hedge hdist hacq hsch hstep hslew =>
      completes_ppsEdge_acquired h hr hsrc hst hage hw hv hl hend hlast hn hedge hdist hacq hsch hstep hslew,
    fun _ _ _ _ => completes_ppsEdge_unlabelled, fun _ _ _ _ => completes_ppsEdge_idle, fun _ _ _ ofs h hr hage => exec_ppsEdge_inactive ofs h hr hage,
    fun _ => completes_epochHoldover, fun _ _ _ => completes_srcChange, fun _ => completes_leapSecond, fun _ _ => exec_stepApply,
    fun _ _ => exec_stepApply_waits, fun _ _ => completes_slewComplete⟩

end Sys2Proof.Machine
end

section
/-! Epoch words and IRIG-B frames (R34 to R43). -/

namespace Sys2Proof.Machine

/-! ### A word's transitions -/

theorem crcStep_lt {w poly : Nat} (r : Nat) (x : Bool) (hpoly : poly < 2 ^ w) : crcStep w poly r x < 2 ^ w := by
  have hshift : r * 2 % 2 ^ w < 2 ^ w := Nat.mod_lt _ (Nat.two_pow_pos w)
  unfold crcStep
  dsimp only
  split
  · exact Nat.xor_lt_two_pow hshift hpoly
  · exact hshift

theorem crc16_lt (l : List Nat) : crc16 l < 2 ^ 16 := by
  have hbits : ∀ (bs : List Bool) (r : Nat), r < 2 ^ 16 → bs.foldl (fun r x => crcStep 16 0x1021 r x) r < 2 ^ 16 := by
    intro bs
    induction bs with
    | nil => exact fun r hr => hr
    | cons x bs ih => exact fun r _ => ih _ (crcStep_lt r x (by decide))
  have hbytes : ∀ (l : List Nat) (r : Nat), r < 2 ^ 16 →
      l.foldl (fun r b => (byteBits b).foldl (fun r x => crcStep 16 0x1021 r x) r) r < 2 ^ 16 := by
    intro l
    induction l with
    | nil => exact fun r hr => hr
    | cons y l ih => exact fun r hr => ih _ (hbits _ r hr)
  exact hbytes l 0xffff (by decide)

/-- The transitions of cell `k`, centred at `T` + 1000 `k`: at its centre, and at its end where the next cell holds the same bit. -/
def cellEdges (b : Nat → Bool) (T k : Nat) : List Nat :=
  (T + 1000 * k) :: (if k < 95 ∧ b k = b (k + 1) then [T + 1000 * k + 500] else [])

section
variable {b : Nat → Bool} {T k n t : Nat}

theorem mem_cellEdges {x : Nat} (h : x ∈ cellEdges b T k) : T + 1000 * k ≤ x ∧ x ≤ T + 1000 * k + 500 := by
  rw [cellEdges, List.mem_cons] at h
  rcases h with rfl | h
  · omega
  · split at h
    · rw [List.mem_singleton.1 h]
      omega
    · exact absurd h List.not_mem_nil

theorem length_cellEdges (b : Nat → Bool) (T : Nat) (hk : k < 95) : (cellEdges b T k).length = if b k = b (k + 1) then 2 else 1 := by
  rw [cellEdges, List.length_cons]
  by_cases h : b k = b (k + 1)
  · rw [if_pos ⟨hk, h⟩, if_pos h]
    rfl
  · rw [if_neg (fun hc => h hc.2), if_neg h]
    rfl

/-- The transitions of the cells from `k` on, `n` of them. -/
def wordEdges (b : Nat → Bool) (T k n : Nat) : List Nat := (List.range' k n).flatMap (cellEdges b T)

theorem wordEdges_succ (b : Nat → Bool) (T k n : Nat) : wordEdges b T k (n + 1) = cellEdges b T k ++ wordEdges b T (k + 1) n := by
  rw [wordEdges, List.range'_succ, List.flatMap_cons, wordEdges]

theorem wordEdges_append (b : Nat → Bool) (T k m n : Nat) : wordEdges b T k (m + n) = wordEdges b T k m ++ wordEdges b T (k + m) n := by
  rw [wordEdges, ← List.range'_append_1, List.flatMap_append, wordEdges, wordEdges]

theorem length_wordEdges_le (b : Nat → Bool) (T k n : Nat) : (wordEdges b T k n).length ≤ 2 * n := by
  induction n generalizing k with
  | zero => exact Nat.le_refl 0
  | succ n ih =>
    have hcell : (cellEdges b T k).length ≤ 2 := by
      rw [cellEdges, List.length_cons]
      split <;> simp
    have := ih (k + 1)
    rw [wordEdges_succ, List.length_append]
    omega

theorem risingWf_wordEdges {x : Nat} (hx : x ≤ T + 1000 * k) : risingWf x (wordEdges b T k n) = true := by
  induction n generalizing k x with
  | zero => rfl
  | succ n ih =>
    rw [wordEdges_succ, cellEdges]
    split
    · simp only [List.cons_append, List.nil_append, risingWf, Bool.and_eq_true, decide_eq_true_eq]
      exact ⟨hx, by omega, ih (by omega)⟩
    · simp only [List.cons_append, List.nil_append, risingWf, Bool.and_eq_true, decide_eq_true_eq]
      exact ⟨hx, ih (by omega)⟩

theorem mem_wordEdges {x : Nat} (h : x ∈ wordEdges b T k n) : T + 1000 * k ≤ x ∧ x + 500 ≤ T + 1000 * (k + n) := by
  obtain ⟨j, hj, hx⟩ := List.mem_flatMap.1 h
  obtain ⟨hlo, hhi⟩ := mem_cellEdges hx
  obtain ⟨h1, h2⟩ := List.mem_range'_1.1 hj
  omega

/-- Before the centre of cell `k` all transitions of the cells before it have come, and no other. -/
theorem filter_before (b : Nat → Bool) (hk : k ≤ 96) (hlo : T + 1000 * k ≤ t + 250) (hhi : t < T + 1000 * k) :
    (wordEdges b T 0 96).filter (fun x => decide (x ≤ t)) = wordEdges b T 0 k := by
  obtain ⟨m, hm⟩ := Nat.exists_eq_add_of_le hk
  rw [hm, wordEdges_append, List.filter_append, List.filter_eq_self.2, List.filter_eq_nil_iff.2, List.append_nil]
  · intro x hx
    have := (mem_wordEdges hx).1
    simp only [decide_eq_true_eq]
    omega
  · intro x hx
    have := (mem_wordEdges hx).2
    simp only [decide_eq_true_eq]
    omega

/-- Behind it the centre's own has come too. -/
theorem filter_behind (b : Nat → Bool) (hk : k < 96) (hlo : T + 1000 * k ≤ t) (hhi : t < T + 1000 * k + 500) :
    (wordEdges b T 0 96).filter (fun x => decide (x ≤ t)) = wordEdges b T 0 k ++ [T + 1000 * k] := by
  obtain ⟨m, hm⟩ : ∃ m, 96 = k + (1 + m) := ⟨95 - k, by omega⟩
  have hcell : (cellEdges b T k).filter (fun x => decide (x ≤ t)) = [T + 1000 * k] := by
    rw [cellEdges, List.filter_cons_of_pos (p := fun x => decide (x ≤ t)) (decide_eq_true hlo), List.filter_eq_nil_iff.2]
    intro x hx
    split at hx
    · rw [List.mem_singleton.1 hx, decide_eq_true_eq]
      omega
    · exact absurd hx List.not_mem_nil
  rw [hm, wordEdges_append, List.filter_append, List.filter_eq_self.2, Nat.zero_add, Nat.add_comm 1 m, wordEdges_succ, List.filter_append, hcell,
    List.filter_eq_nil_iff.2, List.append_nil]
  · intro x hx
    have := (mem_wordEdges hx).1
    simp only [decide_eq_true_eq]
    omega
  · intro x hx
    have := (mem_wordEdges hx).2
    simp only [decide_eq_true_eq]
    omega

/-- As many transitions as the bit has changed, but for an even number. -/
theorem parity_wordEdges (b : Nat → Bool) (T : Nat) (hk : k ≤ 95) : decide ((wordEdges b T 0 k).length % 2 = 1) = (b k != b 0) := by
  induction k with
  | zero => simp [wordEdges]
  | succ k ih =>
    have hlen : (wordEdges b T 0 (k + 1)).length = (wordEdges b T 0 k).length + if b k = b (k + 1) then 2 else 1 := by
      rw [wordEdges_append, List.length_append, Nat.zero_add, wordEdges_succ, List.length_append, length_cellEdges b T (by omega)]
      rfl
    have ih := ih (by omega)
    rw [hlen]
    by_cases h : b k = b (k + 1)
    · rw [if_pos h, Nat.add_mod_right, ih, h]
    · have hne : ∀ x y : Bool, x ≠ y → y = !x := by decide
      have hnot : ∀ x y : Bool, ((!x) != y) = !(x != y) := by decide
      rw [if_neg h, hne _ _ h, hnot, ← ih, ← decide_not, decide_eq_decide]
      omega

theorem epwCell_wordEdges (hT : 8000 ≤ T) (h0 : b 0 = true) (hk : k < 96) : epwCell false (wordEdges b T 0 96) (T + 1000 * k) = some (b k) := by
  have hparity := parity_wordEdges b T (show k ≤ 95 by omega)
  rw [h0] at hparity
  have hbefore : epwLevel false (wordEdges b T 0 96) (T + 1000 * k - 250) = !b k := by
    rw [epwLevel, filter_before b hk.le (by omega) (by omega), hparity]
    cases b k <;> rfl
  have hbehind : epwLevel false (wordEdges b T 0 96) (T + 1000 * k + 250) = b k := by
    have hlen : decide ((wordEdges b T 0 k ++ [T + 1000 * k]).length % 2 = 1) = !decide ((wordEdges b T 0 k).length % 2 = 1) := by
      rw [List.length_append, List.length_singleton, ← decide_not, decide_eq_decide]
      omega
    rw [epwLevel, filter_behind b hk (by omega) (by omega), hlen, hparity]
    cases b k <;> rfl
  rw [epwCell, hbefore, hbehind, if_neg (by cases b k <;> decide)]

theorem epwCells_wordEdges (hT : 8000 ≤ T) (h0 : b 0 = true) :
    epwCells false (wordEdges b T 0 96) T = (List.range' 0 96).map (fun k => some (b k)) := by
  rw [epwCells, List.range_eq_range']
  refine List.map_congr_left fun k hk => epwCell_wordEdges hT h0 ?_
  have := List.mem_range'_1.1 hk
  omega

end

/-! ### A word's fields -/

theorem bits_succ (x lo w : Nat) : bits x lo (w + 1) = 2 * bits x (lo + 1) w + (if bit x lo then 1 else 0) := by
  rw [bits, bits, Nat.pow_succ', Nat.mod_mul, Nat.pow_succ, ← Nat.div_div_eq_div_mul, bit]
  by_cases h : x / 2 ^ lo % 2 = 1
  · rw [decide_eq_true h, if_pos rfl, h]
    omega
  · rw [decide_eq_false h, if_neg Bool.false_ne_true]
    omega

/-- One more cell of a field. -/
def epwPush (v : Nat) (b : Option Bool) : Nat := 2 * v + (if b = some true then 1 else 0)

theorem foldl_cells (W : Nat) (k n : Nat) (h : k + n ≤ 96) :
    ((List.range' k n).map (fun j => some (bit W (95 - j)))).foldl epwPush 0 = bits W (96 - k - n) n := by
  induction n with
  | zero => simp [bits, Nat.mod_one]
  | succ n ih =>
    rw [← List.range'_append_1, List.map_append, List.foldl_append, ih (by omega), bits_succ, show 96 - k - (n + 1) + 1 = 96 - k - n by omega,
      show 96 - k - (n + 1) = 95 - (k + n) by omega]
    rw [show List.range' (k + n) 1 = [k + n] from rfl, List.map_singleton, List.foldl_cons, List.foldl_nil, epwPush]
    simp only [Option.some.injEq]

theorem epwField_cells (W : Nat) {k n : Nat} (h : k + n ≤ 96) :
    epwField ((List.range' 0 96).map (fun j => some (bit W (95 - j)))) k n = bits W (96 - k - n) n := by
  obtain ⟨m, hm⟩ : ∃ m, 96 = k + (n + m) := ⟨96 - k - n, by omega⟩
  have hlist : (((List.range' 0 96).map (fun j => some (bit W (95 - j)))).drop k).take n = (List.range' k n).map (fun j => some (bit W (95 - j))) := by
    rw [show List.range' 0 96 = List.range' 0 (k + (n + m)) from congrArg (List.range' 0) hm, ← List.range'_append_1, List.map_append, List.drop_append_of_le_length (by simp),
      List.drop_of_length_le (by simp), List.nil_append, ← List.range'_append_1, List.map_append, List.take_append_of_le_length (by simp),
      List.take_of_length_le (by simp), Nat.zero_add]
  rw [epwField, hlist]
  exact foldl_cells W k n h

/-- SYNC, a payload and a CRC as one word. -/
theorem word_fields {p q : Nat} (hp : p < 2 ^ 64) (hq : q < 2 ^ 16) : bits (0xa5c3 * 2 ^ 80 + p * 2 ^ 16 + q) 80 16 = 0xa5c3 ∧
    bits (0xa5c3 * 2 ^ 80 + p * 2 ^ 16 + q) 16 64 = p ∧ bits (0xa5c3 * 2 ^ 80 + p * 2 ^ 16 + q) 0 16 = q ∧
    bit (0xa5c3 * 2 ^ 80 + p * 2 ^ 16 + q) 95 = true := by
  simp only [bits, bit, decide_eq_true_eq]
  omega

/-! ### A word accepted or rejected -/

section
variable {c : Chip} {l : List (Option Bool)}

theorem Chip.wordOk_iff : c.wordOk l = true ↔ epwField l 0 16 = 0xa5c3 ∧ l.all Option.isSome = true ∧
    crc16 (beBytes 8 (epwField l 16 64)) = epwField l 80 16 ∧ ∀ t, c.epc.lastEdge = some t → t + 1000 * micro ≤ c.epc.line := by
  unfold Chip.wordOk
  simp only [Bool.and_eq_true, decide_eq_true_eq, and_assoc]
  refine and_congr_right fun _ => and_congr_right fun _ => and_congr_right fun _ => ?_
  cases c.epc.lastEdge with
  | none => simp
  | some t => simp

/-- The engine with a pending word, one that was pending before counted. -/
def Chip.wordTaken (c : Chip) (p : Nat) : Chip :=
  let c1 := if c.epc.word.isSome then c.wordReject else c
  c1.putEpc { c1.epc with word := some ⟨p, c1.epc.line⟩ }

theorem doEpochWord_of_first {start : Bool} {edges : List Nat} {t0 : Nat} (hsrc : c.epcSrc = 0) (hrest : 8000 ≤ edges.headD 0)
    (hfirst : epwFirst start edges = some t0) :
    doEpochWord start edges c = if c.wordOk (epwCells start edges t0) then c.wordTaken (epwField (epwCells start edges t0) 16 64)
      else c.wordReject := by
  rw [doEpochWord, hsrc, decide_eq_true hrest, if_pos (by decide), hfirst]
  rfl

theorem Chip.wordTaken_spec (c : Chip) (p : Nat) : c.KeeperMoved (c.wordTaken p) ∧ (c.wordTaken p).epc.word = some ⟨p, c.epc.line⟩ ∧
    (c.wordTaken p).reg R.EPC_WORD_ERR = (if c.epc.word.isSome then c.reg R.EPC_WORD_ERR + 1 else c.reg R.EPC_WORD_ERR) ∧
    ∀ a, a ∉ R.EPC_WORD_ERR :: eventRegs Ev.wordReject → (c.wordTaken p).reg a = c.reg a := by
  unfold Chip.wordTaken
  dsimp only
  split
  · have hlab := Chip.Labelled.wordReject c
    refine ⟨hlab.events.keeperMoved.trans (.putEpc _ _), by rw [Chip.putEpc_epc, hlab.events.epc], ?_, fun a ha => ?_⟩
    · rw [Chip.reg_putEpc, Chip.wordReject, Chip.reg_raise_ne _ _ (epc_not_mem_eventRegs (by decide) _), Chip.reg_addCnt_one]
    · rw [List.mem_cons, not_or] at ha
      rw [Chip.reg_putEpc, Chip.wordReject, Chip.reg_raise_ne _ _ ha.2, Chip.reg_addCnt_ne _ _ ha.1]
  · exact ⟨.putEpc _ _, rfl, rfl, fun _ _ => rfl⟩

end

section
variable {s : State}

theorem exec_epochWord {start : Bool} {edges : List Nat} {t0 : Nat} (h : s.chip.atWork = true) (hsrc : s.chip.epcSrc = 0)
    (hlen : edges.length ≤ 192) (hrise : risingWf 0 edges = true) (hrest : 8000 ≤ edges.headD 0) (hfirst : epwFirst start edges = some t0) :
    exec (.epochWord start edges) s = .next (s.after (if s.chip.wordOk (epwCells start edges t0)
      then s.chip.wordTaken (epwField (epwCells start edges t0) 16 64) else s.chip.wordReject)) := by
  have hwf : (Instr.epochWord start edges).wf = true := by
    change (decide (edges.length ≤ 192) && risingWf 0 edges) = true
    rw [decide_eq_true hlen, hrise, Bool.and_self]
  rw [show exec (.epochWord start edges) s = s.act _ (doEpochWord start edges) from rfl, State.act_of_atWork h hwf,
    doEpochWord_of_first hsrc hrest hfirst]

theorem completes_epochWord {start : Bool} {edges : List Nat} {t0 : Nat} (h : s.chip.atWork = true) (hsrc : s.chip.epcSrc = 0)
    (hlen : edges.length ≤ 192) (hrise : risingWf 0 edges = true) (hrest : 8000 ≤ edges.headD 0) (hfirst : epwFirst start edges = some t0)
    (hok : s.chip.wordOk (epwCells start edges t0) = true) {p : Nat} (hp : epwField (epwCells start edges t0) 16 64 = p) :
    Completes (.epochWord start edges) s (fun c => c.epc.word = some ⟨p, s.chip.epc.line⟩ ∧
      c.reg R.EPC_WORD_ERR = (if s.chip.epc.word.isSome then s.chip.reg R.EPC_WORD_ERR + 1 else s.chip.reg R.EPC_WORD_ERR) ∧
      (∀ a, a ∉ R.EPC_WORD_ERR :: eventRegs Ev.wordReject → c.reg a = s.chip.reg a)) := by
  have hexec := exec_epochWord h hsrc hlen hrise hrest hfirst
  rw [if_pos hok, hp] at hexec
  obtain ⟨hmoved, hword, herr, hregs⟩ := s.chip.wordTaken_spec p
  exact .of_exec hexec (hmoved.demands.1.trans (Chip.fatal_of_atWork h)) (hmoved.demands.2.trans (Chip.resetReq_of_atWork h)) ⟨hword, herr, hregs⟩

/-- The transitions of a word with any payload and its CRC. -/
theorem completes_epochWord_built {p T : Nat} {es : List Nat} {b : Nat → Bool} (h : s.chip.atWork = true) (hsrc : s.chip.epcSrc = 0)
    (hp : p < 2 ^ 64) (hT : 8000 ≤ T) (hedge : ∀ t, s.chip.epc.lastEdge = some t → t + 1000 * micro ≤ s.chip.epc.line)
    (hb : ∀ k, b k = bit (0xa5c3 * 2 ^ 80 + p * 2 ^ 16 + crc16 (beBytes 8 p)) (95 - k))
    (hes : es = (List.range 96).flatMap (fun k => (T + 1000 * k) :: (if k < 95 ∧ b k = b (k + 1) then [T + 1000 * k + 500] else []))) :
    Completes (.epochWord false es) s (fun c => c.epc.word = some ⟨p, s.chip.epc.line⟩ ∧
      c.reg R.EPC_WORD_ERR = (if s.chip.epc.word.isSome then s.chip.reg R.EPC_WORD_ERR + 1 else s.chip.reg R.EPC_WORD_ERR) ∧
      (∀ a, a ∉ R.EPC_WORD_ERR :: eventRegs Ev.wordReject → c.reg a = s.chip.reg a)) := by
  obtain ⟨hsync, hpay, hcrc, htop⟩ := word_fields hp (crc16_lt (beBytes 8 p))
  generalize hW : 0xa5c3 * 2 ^ 80 + p * 2 ^ 16 + crc16 (beBytes 8 p) = W at *
  have hes' : es = wordEdges b T 0 96 := by rw [hes, List.range_eq_range']; rfl
  have hcells : epwCells false es T = (List.range' 0 96).map (fun k => some (bit W (95 - k))) := by
    rw [hes', epwCells_wordEdges hT (by rw [hb]; exact htop)]
    exact List.map_congr_left fun k _ => by rw [hb]
  have hfield := fun k n (hkn : k + n ≤ 96) => (congrArg (fun l => epwField l k n) hcells).trans (epwField_cells W hkn)
  have hp64 : epwField (epwCells false es T) 16 64 = p := (hfield 16 64 (by decide)).trans hpay
  have hhead : ∃ l, es = T :: l := by rw [hes', wordEdges_succ, cellEdges]; exact ⟨_, rfl⟩
  obtain ⟨l, hl⟩ := hhead
  refine completes_epochWord h hsrc (by rw [hes']; exact length_wordEdges_le b T 0 96) (by rw [hes']; exact risingWf_wordEdges (Nat.zero_le _))
    (by rw [hl]; exact hT) (by rw [hl]; rfl) (Chip.wordOk_iff.2 ⟨(hfield 0 16 (by decide)).trans hsync, ?_, ?_, hedge⟩) hp64
  · rw [hcells, List.all_map]
    exact List.all_eq_true.2 fun _ _ => rfl
  · rw [hp64]
    exact ((hfield 80 16 (by decide)).trans hcrc).symm

theorem epochWord_cases {start : Bool} {edges : List Nat} {t0 : Nat} (h : s.chip.atWork = true) (hsrc : s.chip.epcSrc = 0)
    (hlen : edges.length ≤ 192) (hrise : risingWf 0 edges = true) (hrest : 8000 ≤ edges.headD 0) (hfirst : epwFirst start edges = some t0) :
    (epwField (epwCells start edges t0) 0 16 = 0xa5c3 ∧ (epwCells start edges t0).all Option.isSome = true ∧
      crc16 (beBytes 8 (epwField (epwCells start edges t0) 16 64)) = epwField (epwCells start edges t0) 80 16 ∧
      (∀ t, s.chip.epc.lastEdge = some t → t + 1000 * micro ≤ s.chip.epc.line) →
      Completes (.epochWord start edges) s (fun c => c.epc.word = some ⟨epwField (epwCells start edges t0) 16 64, s.chip.epc.line⟩)) ∧
    (epwField (epwCells start edges t0) 0 16 ≠ 0xa5c3 ∨ (epwCells start edges t0).all Option.isSome = false ∨
      crc16 (beBytes 8 (epwField (epwCells start edges t0) 16 64)) ≠ epwField (epwCells start edges t0) 80 16 ∨
      (∃ t, s.chip.epc.lastEdge = some t ∧ s.chip.epc.line < t + 1000 * micro) →
      exec (.epochWord start edges) s = .next (s.after ((s.chip.addCnt R.EPC_WORD_ERR 1).raise Ev.wordReject))) := by
  have hexec := exec_epochWord h hsrc hlen hrise hrest hfirst
  refine ⟨fun hok => ?_, fun hbad => ?_⟩
  · obtain ⟨c, he, hf, hr, hword, -⟩ := completes_epochWord h hsrc hlen hrise hrest hfirst (Chip.wordOk_iff.2 hok) rfl
    exact ⟨c, he, hf, hr, hword⟩
  · rw [hexec, if_neg, Chip.wordReject]
    intro hok
    obtain ⟨hsync, hall, hcrc, hedge⟩ := Chip.wordOk_iff.1 hok
    rcases hbad with hne | hnot | hne | ⟨t, ht, hlate⟩
    · exact hne hsync
    · exact Bool.false_ne_true (hnot.symm.trans hall)
    · exact hne hcrc
    · exact absurd (hedge t ht) (Nat.not_le.2 hlate)

/-! ### Frames -/

/-- The engine with a frame's label, and the year it counts. -/
def Chip.frameTaken (c : Chip) (t : Irig) (turn : Bool) : Chip :=
  let c1 := if turn then c.setFld R.EPC_IRIG_YEAR F.EPC_IRIG_YEAR_YEAR (c.fld R.EPC_IRIG_YEAR F.EPC_IRIG_YEAR_YEAR + 1) else c
  c1.putEpc { c1.epc with irig := some (c.irigTai t + 1).toNat, irigDay := t.day, irigYr := t.year }

theorem Chip.frameTaken_spec (c : Chip) (t : Irig) (turn : Bool) : c.KeeperMoved (c.frameTaken t turn) ∧
    (c.frameTaken t turn).epc.irig = some (c.irigTai t + 1).toNat ∧ (c.frameTaken t turn).epc.irigDay = t.day ∧
    (c.frameTaken t turn).fld R.EPC_IRIG_YEAR F.EPC_IRIG_YEAR_YEAR =
      (c.fld R.EPC_IRIG_YEAR F.EPC_IRIG_YEAR_YEAR + (if turn then 1 else 0)) % 2 ^ F.EPC_IRIG_YEAR_YEAR.w ∧
    ∀ a, a ≠ R.EPC_IRIG_YEAR → (c.frameTaken t turn).reg a = c.reg a := by
  cases turn
  · refine ⟨.putEpc c _, rfl, rfl, ?_, fun _ _ => rfl⟩
    rw [if_neg Bool.false_ne_true, Nat.add_zero, Nat.mod_eq_of_lt (show c.fld R.EPC_IRIG_YEAR F.EPC_IRIG_YEAR_YEAR < _ from bits_lt _ _ _)]
    rfl
  · obtain ⟨d, hd⟩ : ∃ d, d = c.setFld R.EPC_IRIG_YEAR F.EPC_IRIG_YEAR_YEAR (c.fld R.EPC_IRIG_YEAR F.EPC_IRIG_YEAR_YEAR + 1) := ⟨_, rfl⟩
    have heq : c.frameTaken t true = d.putEpc { d.epc with irig := some (c.irigTai t + 1).toNat, irigDay := t.day, irigYr := t.year } := by
      rw [hd]
      rfl
    have hev : c.EventsOnly d := hd ▸ .setFld c _ _ _
    rw [heq]
    refine ⟨hev.keeperMoved.trans (.putEpc d _), rfl, rfl, ?_, fun a ha => ?_⟩
    · rw [Chip.fld_congr (Chip.reg_putEpc _ _ _), hd, Chip.fld_setFld _ _ F.EPC_IRIG_YEAR_YEAR _ (by decide), if_pos rfl]
    · rw [Chip.reg_putEpc, hd, Chip.reg_setFld_ne _ _ _ ha]

/-- The day a frame's elements give. -/
def irigDayOf (l : List Nat) : Nat := irigBits l 30 4 + 10 * irigBits l 35 4 + 100 * irigBits l 40 2

theorem doIrigFrame_of_decoded {c : Chip} {on : Int} {high : List Nat} {t : Irig} (hsrc : c.epcSrc = 1)
    (ht : irigDecode (high.map irigClass) (c.irigYear (irigDayOf (high.map irigClass))).1 = some t) :
    doIrigFrame on high c = if decide (on.natAbs ≤ 10000) && irigShape (high.map irigClass) && c.irigOk t
      then c.frameTaken t (c.irigYear (irigDayOf (high.map irigClass))).2 else c.wordReject := by
  rw [irigDayOf] at ht
  unfold doIrigFrame
  rw [if_pos hsrc]
  dsimp only
  rw [ht]
  rfl

theorem doIrigFrame_of_undecoded {c : Chip} {on : Int} {high : List Nat} (hsrc : c.epcSrc = 1)
    (ht : ∀ y, irigDecode (high.map irigClass) y = none) : doIrigFrame on high c = c.wordReject := by
  unfold doIrigFrame
  rw [if_pos hsrc]
  dsimp only
  rw [ht]

theorem exec_irigFrame {on : Int} {high : List Nat} (h : s.chip.atWork = true) (hlen : high.length ≤ 100) :
    exec (.irigFrame on high) s = .next (s.after (doIrigFrame on high s.chip)) := by
  rw [show exec (.irigFrame on high) s = s.act _ (doIrigFrame on high) from rfl,
    State.act_of_atWork h (show (Instr.irigFrame on high).wf = true from decide_eq_true hlen)]

theorem irigFrame_cases {on : Int} {high : List Nat} {t : Irig} {day : Nat} (h : s.chip.atWork = true) (hsrc : s.chip.epcSrc = 1)
    (hlen : high.length ≤ 100) (hday : day = irigDayOf (high.map irigClass))
    (ht : irigDecode (high.map irigClass) (s.chip.irigYear day).1 = some t) :
    (on.natAbs ≤ 10000 ∧ irigShape (high.map irigClass) = true ∧ s.chip.irigOk t = true →
      Completes (.irigFrame on high) s (fun c => c.epc.irig = some (s.chip.irigTai t + 1).toNat ∧ c.epc.irigDay = t.day ∧
        c.fld R.EPC_IRIG_YEAR F.EPC_IRIG_YEAR_YEAR =
          (s.chip.fld R.EPC_IRIG_YEAR F.EPC_IRIG_YEAR_YEAR + (if (s.chip.irigYear day).2 then 1 else 0)) % 2 ^ F.EPC_IRIG_YEAR_YEAR.w ∧
        (∀ a, a ≠ R.EPC_IRIG_YEAR → c.reg a = s.chip.reg a))) ∧
    (10000 < on.natAbs ∨ irigShape (high.map irigClass) = false ∨ s.chip.irigOk t = false →
      exec (.irigFrame on high) s = .next (s.after ((s.chip.addCnt R.EPC_WORD_ERR 1).raise Ev.wordReject))) := by
  subst hday
  have hexec := exec_irigFrame (on := on) h hlen
  rw [doIrigFrame_of_decoded hsrc ht] at hexec
  refine ⟨fun ⟨hon, hshape, hok⟩ => ?_, fun hbad => ?_⟩
  · rw [decide_eq_true hon, hshape, hok, if_pos (by decide)] at hexec
    obtain ⟨hmoved, hspec⟩ := s.chip.frameTaken_spec t (s.chip.irigYear (irigDayOf (high.map irigClass))).2
    exact .of_exec hexec (hmoved.demands.1.trans (Chip.fatal_of_atWork h)) (hmoved.demands.2.trans (Chip.resetReq_of_atWork h)) hspec
  · rw [hexec, if_neg, Chip.wordReject]
    rw [Bool.and_eq_true, Bool.and_eq_true, decide_eq_true_eq]
    rintro ⟨⟨hon, hshape⟩, hok⟩
    rcases hbad with hlate | hno | hno
    · omega
    · exact Bool.false_ne_true (hno.symm.trans hshape)
    · exact Bool.false_ne_true (hno.symm.trans hok)

end

/-- Settles O24: the cells of a word's transitions are its bits, and each check decides between the pending word and the count. -/
theorem epochSources : Obligations.EpochSources :=
  ⟨fun _ _ _ _ _ h hsrc hp hT hedge hb hes => completes_epochWord_built h hsrc hp hT hedge hb hes,
    fun _ _ _ _ h hsrc hlen hrise hrest hfirst => epochWord_cases h hsrc hlen hrise hrest hfirst,
    fun _ _ _ _ _ h hsrc hlen hday ht => irigFrame_cases h hsrc hlen hday ht,
    fun _ on high h hsrc hlen hnone => by rw [exec_irigFrame h hlen, doIrigFrame_of_undecoded hsrc hnone, Chip.wordReject]⟩

end Sys2Proof.Machine
end

section
/-! END processing that passes (R408). -/

namespace Sys2Proof.Machine

/-- The registers that stay as END processing has set them: the profile in force, the test register, the lock. -/
def endRegs : List Nat := [R.GLB_PROFILE_EFF, R.CST_TEST, R.GLB_CFG_LOCK]

def endFree (a : Nat) : Prop := a ∉ endRegs

/-- What the loads, the audit and the records of END processing leave. -/
structure Chip.EndKeeps (c d : Chip) : Prop where
  regs : c.RegsIn endFree d
  epc : d.epc = c.epc
  boot : d.boot = c.boot

theorem endFree_of_note {a : Nat} (h : noteReg a) : endFree a := by
  intro hmem
  obtain ⟨hlo, -⟩ := h
  simp only [endRegs, List.mem_cons, List.not_mem_nil, or_false, R.GLB_PROFILE_EFF, R.CST_TEST, R.GLB_CFG_LOCK] at hmem
  omega

section
variable {c d e : Chip}

theorem Chip.EndKeeps.refl (c : Chip) : c.EndKeeps c := ⟨.refl _ c, rfl, rfl⟩

theorem Chip.EndKeeps.trans (h : c.EndKeeps d) (k : d.EndKeeps e) : c.EndKeeps e :=
  ⟨h.regs.trans k.regs, k.epc.trans h.epc, k.boot.trans h.boot⟩

theorem Chip.EndKeeps.of_events (h : c.EventsOnly d) (k : c.RegsIn endFree d) : c.EndKeeps d := ⟨k, h.epc, h.boot⟩

theorem Chip.EndKeeps.reg (h : c.EndKeeps d) {a : Nat} (ha : a ∈ endRegs) : d.reg a = c.reg a := h.regs a (fun hf => hf ha)

theorem Chip.EndKeeps.foldl {α : Type} {f : Chip → α → Chip} (h : ∀ c x, Chip.EndKeeps c (f c x)) (l : List α) (c : Chip) :
    c.EndKeeps (l.foldl f c) := by
  induction l generalizing c with
  | nil => exact .refl c
  | cons x l ih => exact (h c x).trans (ih (f c x))

theorem Chip.EndKeeps.setFld (c : Chip) {a : Nat} (f : Fld) (v : Nat) (h : endFree a) : c.EndKeeps (c.setFld a f v) :=
  .of_events (.setFld c a f v) (.setFld c f v h)

theorem Chip.EndKeeps.setFlag (c : Chip) {a : Nat} (f : Fld) (b : Bool) (h : endFree a) : c.EndKeeps (c.setFlag a f b) := .setFld c f _ h

theorem Chip.EndKeeps.setN (c : Chip) {a : Nat} (v : Nat) (h : endFree a) : c.EndKeeps (c.setN a v) := .of_events (.setN c a v) (.setN c v h)

theorem Chip.EndKeeps.addCnt (c : Chip) {a : Nat} (k : Nat) (h : endFree a) : c.EndKeeps (c.addCnt a k) := .of_events (.addCnt c a k) (.addCnt c k h)

theorem Chip.EndKeeps.record (c : Chip) (t k m : Nat) (l : List Nat) : c.EndKeeps (c.record t k m l) :=
  .of_events (.record c t k m l) ((Chip.RegsIn.record c t k m l).mono fun _ => endFree_of_note)

theorem Chip.EndKeeps.raise (c : Chip) {e : Nat × Nat} (h : e.1 < 64) : c.EndKeeps (c.raise e) :=
  .of_events (.raise c e) ((Chip.RegsIn.raise c h).mono fun _ => endFree_of_note)

theorem Chip.EndKeeps.raiseTyped (c : Chip) {e : Nat × Nat} (h : e.1 < 64) : c.EndKeeps (c.raiseTyped e) :=
  .of_events (.raiseTyped c e) ((Chip.RegsIn.raiseTyped c h).mono fun _ => endFree_of_note)

theorem Chip.EndKeeps.used (c : Chip) : c.EndKeeps c.used := ⟨.of_regs rfl, rfl, rfl⟩

theorem Chip.EndKeeps.lastReason (c : Chip) (k : Nat) : c.EndKeeps { c with lastReason := k } := ⟨.of_regs rfl, rfl, rfl⟩

theorem Chip.EndKeeps.setSch (c : Chip) (i : Nat) (e : SchEntry) : c.EndKeeps (c.setSch i e) := ⟨.of_regs rfl, rfl, rfl⟩

theorem Chip.EndKeeps.declareFatal (c : Chip) (k : Nat) (l : List Nat) (t : Nat) (b : Bool) : c.EndKeeps (c.declareFatal k l t b) := by
  unfold Chip.declareFatal
  split
  · exact .refl c
  · exact ⟨.of_regs rfl, rfl, rfl⟩

theorem Chip.EndKeeps.ite {b : Prop} [Decidable b] (h : c.EndKeeps d) (k : c.EndKeeps e) : c.EndKeeps (if b then d else e) := by
  split
  · exact h
  · exact k

end

/-! ### Reads of the Common Store -/

theorem Chip.EndKeeps.cstDropped (c : Chip) (m a : Nat) (p : Bool) : c.EndKeeps (c.cstDropped m a p) :=
  ((((Chip.EndKeeps.addCnt c 1 (by unfold endFree; decide)).trans (.setFld _ _ _ (by unfold endFree; decide))).trans
    (.setFld _ _ _ (by unfold endFree; decide))).trans (.setFlag _ _ _ (by unfold endFree; decide))).trans (.raise _ (by decide))

theorem Chip.EndKeeps.cstCe (c : Chip) (s m a : Nat) : c.EndKeeps (c.cstCe s m a) :=
  ((((Chip.EndKeeps.addCnt c 1 (by unfold endFree; decide)).trans (.setFld _ _ _ (by unfold endFree; decide))).trans
    (.setFld _ _ _ (by unfold endFree; decide))).trans (.raiseTyped _ (by decide))).trans (.record _ _ _ _ _)

theorem Chip.EndKeeps.cstUe (c : Chip) (s m a : Nat) : c.EndKeeps (c.cstUe s m a) :=
  ((((Chip.EndKeeps.addCnt c 1 (by unfold endFree; decide)).trans (.setFld _ _ _ (by unfold endFree; decide))).trans
    (.setFld _ _ _ (by unfold endFree; decide))).trans (.raiseTyped _ (by decide))).trans (.record _ _ _ _ _)

theorem Chip.EndKeeps.cstRawCheck (c : Chip) (k : Nat) : c.EndKeeps (c.cstRawCheck k) := by
  have hmark : endFree (if k % 64 < 32 then R.CST_CHK_FAIL_L else R.CST_CHK_FAIL_H) := by
    unfold endFree
    split <;> decide
  exact iteInduction (motive := fun d => c.EndKeeps d) (fun _ => .setN c _ hmark) (fun _ => .refl c)

theorem Chip.EndKeeps.cstRead (c : Chip) (m a : Nat) : c.EndKeeps (c.cstRead m a).1 := by
  unfold Chip.cstRead
  split
  · exact .cstDropped c m a false
  · dsimp only
    split
    · exact .cstRawCheck c _
    · split
      · exact .refl c
      · split
        · exact .cstCe c _ m a
        · exact (Chip.EndKeeps.cstUe c (if m = 20 then 1 else 0) m a).trans (.ite (.declareFatal _ _ _ _ _) (.refl _))

theorem Chip.EndKeeps.cstReadList (m : Nat) : ∀ (n a : Nat) (c : Chip), c.EndKeeps (c.cstReadList m a n).1
  | 0, _, c => .refl c
  | n + 1, a, c => (Chip.EndKeeps.cstRead c m a).trans (Chip.EndKeeps.cstReadList m n (a + 1) (c.cstRead m a).1)

theorem Chip.EndKeeps.stwReadFailed (c : Chip) (a : Nat) : c.EndKeeps (c.stwReadFailed a) := (Chip.EndKeeps.record c _ _ _ _).trans (.used _)

/-! ### The loads -/

theorem Chip.EndKeeps.schLoadOne (c : Chip) (i : Nat) : c.EndKeeps (c.schLoadOne i).1 := by
  have hread := Chip.EndKeeps.cstReadList 18 6 (c.schWord i) c
  unfold Chip.schLoadOne
  dsimp only
  generalize c.cstReadList 18 (c.schWord i) 6 = r at *
  split
  · exact .setSch c _ _
  · split
    · exact (hread.trans (.setSch _ _ _)).trans (.stwReadFailed _ _)
    · split
      · split
        · exact hread.trans (.setSch _ _ _)
        · exact hread.trans (.setSch _ _ _)
      · exact hread.trans (.setSch _ _ _)

theorem Chip.EndKeeps.schLoadAll (c : Chip) (l : List Nat) : c.EndKeeps (c.schLoadAll l).1 := by
  unfold Chip.schLoadAll
  refine List.foldlRecOn (motive := fun b : Chip × List (Nat × Nat) => c.EndKeeps b.1) l _ (.refl c) fun b hb k _ => ?_
  exact hb.trans (.schLoadOne b.1 k)

theorem Chip.EndKeeps.reject (c : Chip) (p : CmdPort) (i : Init) (e : Option Nat) (k : Nat) (h : endFree p.stat) (hev : p.ev.1 < 64) :
    c.EndKeeps (c.reject p i e k) :=
  (((Chip.EndKeeps.setFld c _ _ h).trans (.raiseTyped _ hev)).trans (.record _ _ _ _ _)).trans (.lastReason _ _)

theorem Chip.EndKeeps.schRejects (c : Chip) (i : Init) (l : List (Nat × Nat)) :
    c.EndKeeps (l.foldl (fun c x => c.reject schPort i none x.2) c) := by
  have hstat : endFree schPort.stat := by unfold endFree; decide
  induction l generalizing c with
  | nil => exact .refl c
  | cons x l ih => exact (Chip.EndKeeps.reject c schPort i none x.2 hstat (by decide)).trans (ih _)

theorem Chip.EndKeeps.schLoad (c : Chip) (i : Init) (l : List Nat) : c.EndKeeps (c.schLoad i l) := by
  have hall := Chip.EndKeeps.schLoadAll c l
  have hstat : endFree R.SCH_CMDSTAT := by unfold endFree; decide
  unfold Chip.schLoad
  dsimp only
  generalize c.schLoadAll l = r at *
  split
  · exact (hall.trans (.setFld _ _ _ hstat)).trans (.lastReason _ _)
  · have hrejects := Chip.EndKeeps.schRejects r.1 i r.2
    generalize r.2.foldl (fun c x => c.reject schPort i none x.2) r.1 = d at *
    exact (((hall.trans hrejects).trans (.setFld d _ _ hstat)).trans (.setFld _ _ _ hstat)).trans (.lastReason _ _)

theorem Chip.EndKeeps.doSchLoad (c : Chip) (i : Init) (b : Bool) (n : Nat) : c.EndKeeps (doSchLoad i b n c) := by
  have hcmd : endFree R.SCH_CMD := by unfold endFree; decide
  have hwrite := (Chip.EndKeeps.setFlag c F.SCH_CMD_ALL b hcmd).trans (.setFld _ F.SCH_CMD_IDX n hcmd)
  exact hwrite.trans (.ite (.reject _ schPort i none _ (by unfold endFree; decide) (by decide)) (.schLoad _ i _))

theorem Chip.EndKeeps.readSnapList (c : Chip) (k : Nat) : c.EndKeeps (c.readSnapList k).1 := by
  have hread := Chip.EndKeeps.cstReadList 18 16 (c.rn R.SCV_SNAP_BASE + 16 * k) c
  unfold Chip.readSnapList
  generalize c.cstReadList 18 (c.rn R.SCV_SNAP_BASE + 16 * k) 16 = r at *
  exact hread

theorem Chip.EndKeeps.readSnapLists (c : Chip) (l : List Nat) : c.EndKeeps (c.readSnapLists l).1 := by
  unfold Chip.readSnapLists
  refine List.foldlRecOn (motive := fun b : Chip × List (Nat × List Nat) × Nat => c.EndKeeps b.1) l _ (.refl c) fun b hb k _ => ?_
  dsimp only
  exact hb.trans (.readSnapList b.1 k)

theorem Chip.EndKeeps.loadLists (c : Chip) (b : Bool) (n : Nat) : c.EndKeeps (c.loadLists b n).1 := by
  unfold Chip.loadLists
  dsimp only
  generalize (if b = true then List.range 64 else [n % 64]) = l
  have hread := Chip.EndKeeps.readSnapLists c l
  generalize c.readSnapLists l = r at *
  split
  · exact .refl c
  · split
    · exact hread
    · split
      · exact hread
      · exact hread.trans ⟨.of_regs rfl, rfl, rfl⟩

theorem Chip.EndKeeps.scvCommand (c : Chip) (i : Init) (k : Nat) : c.EndKeeps (c.command scvPort i none false k id) := by
  have hstat : endFree scvPort.stat := by unfold endFree; decide
  have hrej : ∀ k, c.EndKeeps (c.reject scvPort i none k) := fun k => .reject c scvPort i none k hstat (by decide)
  exact .ite (hrej _) (.ite (hrej _) ((Chip.EndKeeps.setFld c _ _ hstat).trans (.lastReason _ _)))

theorem Chip.EndKeeps.doScvLoad (c : Chip) (i : Init) (b : Bool) (n : Nat) : c.EndKeeps (doScvLoad i b n c) := by
  have hcmd : endFree R.SCV_CMD := by unfold endFree; decide
  have hwrite := (Chip.EndKeeps.setFlag c F.SCV_CMD_ALL b hcmd).trans (.setFld _ F.SCV_CMD_LIST n hcmd)
  refine hwrite.trans (.ite (.scvCommand _ _ _) (Chip.EndKeeps.trans ?_ (.scvCommand _ _ _)))
  exact .ite ((Chip.EndKeeps.loadLists _ b n).trans (.stwReadFailed _ _)) (.loadLists _ b n)

theorem Chip.EndKeeps.loadsAtEnd (c : Chip) : c.EndKeeps c.loadsAtEnd :=
  ((Chip.EndKeeps.doSchLoad c .steward true 0).trans (.setFlag _ _ _ (by unfold endFree; decide))).trans (.doScvLoad _ .steward true 0)

theorem Chip.EndKeeps.auditStart (c : Chip) : c.EndKeeps c.auditStart := by
  have hstat : endFree R.GLB_AUDIT_STAT := by unfold endFree; decide
  have hshadow : ∀ x, c.EndKeeps { c with acc := { c.acc with shadow := x } } := fun _ => ⟨.of_regs rfl, rfl, rfl⟩
  exact .ite (((hshadow _).trans (.setFlag _ _ _ hstat)).trans (.setFlag _ _ _ hstat)) (.refl c)

/-! ### The profile and the lock -/

/-- What the profile latch leaves. -/
theorem Chip.reg_setStage_ne (c : Chip) (k : Nat) {a : Nat} (h : a ≠ R.STW_BOOT_STAT) : (c.setStage k).reg a = c.reg a := Chip.reg_setFld_ne c _ _ h

theorem Chip.profileLatch_spec (c : Chip) : c.EventsOnly c.profileLatch ∧
    c.profileLatch.reg R.GLB_PROFILE_EFF = BitVec.ofNat 32 (profileEff (c.rn R.GLB_PROFILE)) ∧
    c.profileLatch.flag R.CST_TEST F.CST_TEST_RAW = false ∧ c.profileLatch.marchFailed = c.marchFailed := by
  unfold Chip.profileLatch
  extract_lets c1
  have hev : c.EventsOnly c1 := (Chip.EventsOnly.setN c _ _).trans (.setFld _ _ _ _)
  have heff : c1.reg R.GLB_PROFILE_EFF = BitVec.ofNat 32 (profileEff (c.rn R.GLB_PROFILE)) := by
    change ((c.setN R.GLB_PROFILE_EFF (profileEff (c.rn R.GLB_PROFILE))).setFlag R.CST_TEST F.CST_TEST_RAW false).reg R.GLB_PROFILE_EFF = _
    rw [Chip.reg_setFlag_ne _ _ _ (by decide), Chip.setN, Chip.reg_setReg]
  have hraw : c1.flag R.CST_TEST F.CST_TEST_RAW = false := Chip.flag_setFlag _ R.CST_TEST F.CST_TEST_RAW _ (by decide) (by decide)
  have hother : ∀ a, a ≠ R.GLB_PROFILE_EFF → a ≠ R.CST_TEST → c1.reg a = c.reg a := fun a h1 h2 =>
    (Chip.reg_setFlag_ne (c.setN R.GLB_PROFILE_EFF _) _ _ h2).trans (Chip.reg_setN_ne c _ h1)
  generalize c1.flag R.GLB_PROFILE_EFF F.GLB_PROFILE_EFF_CST_SCRUB = b
  generalize c1.flag R.GLB_PROFILE_EFF F.GLB_PROFILE_EFF_DRAM_SCRUB = b'
  clear_value c1
  have hreg : ∀ a, a ≠ R.CST_STAT → a ≠ R.MCX_SCRUB →
      ((c1.setFlag R.CST_STAT F.CST_STAT_SCRUB_ACTIVE b).setFlag R.MCX_SCRUB F.MCX_SCRUB_ACTIVE b').reg a = c1.reg a := fun a h1 h2 =>
    (Chip.reg_setFlag_ne _ _ _ h2).trans (Chip.reg_setFlag_ne c1 _ _ h1)
  refine ⟨hev.trans ((Chip.EventsOnly.setFld c1 _ _ _).trans (.setFld _ _ _ _)), (hreg _ (by decide) (by decide)).trans heff,
    (Chip.flag_congr (hreg _ (by decide) (by decide)) _).trans hraw, ?_⟩
  have hdone : ((c1.setFlag R.CST_STAT F.CST_STAT_SCRUB_ACTIVE b).setFlag R.MCX_SCRUB F.MCX_SCRUB_ACTIVE b').flag R.CST_STAT F.CST_STAT_MARCH_DONE =
      c.flag R.CST_STAT F.CST_STAT_MARCH_DONE := by
    rw [Chip.flag_congr (Chip.reg_setFlag_ne _ _ _ (by decide)), Chip.flag_setFlag_of_apart _ _ _ F.CST_STAT_SCRUB_ACTIVE F.CST_STAT_MARCH_DONE _
      (by decide) (by decide), Chip.flag_congr (hother _ (by decide) (by decide))]
  rw [Chip.marchFailed, hdone, Chip.rn_congr ((hreg R.CST_BANK_FAIL_L (by decide) (by decide)).trans (hother _ (by decide) (by decide))),
    Chip.rn_congr ((hreg R.CST_BANK_FAIL_H (by decide) (by decide)).trans (hother _ (by decide) (by decide))), Chip.marchFailed]

theorem Chip.steady_of_profile {c : Chip} {v : Nat} (h : c.reg R.GLB_PROFILE_EFF = BitVec.ofNat 32 (profileEff v)) (hv : bit v 0 = false) :
    c.steady = true := by
  have heff : profileEff v = 2 ^ 31 + 128 + 64 + 32 + 16 + 8 := by
    unfold profileEff
    rw [hv, if_neg Bool.false_ne_true]
  rw [Chip.steady, Chip.flag, Chip.fld, Chip.rn, h, heff]
  rfl

/-- What the lock's step leaves, and that in Steady it ends with the lock set. -/
theorem Chip.lockAtEnd_spec (c : Chip) : (c.lockAtEnd.epc = c.epc ∧ c.lockAtEnd.boot = c.boot) ∧
    (∀ a, a ∈ endRegs → a ≠ R.GLB_CFG_LOCK → c.lockAtEnd.reg a = c.reg a) ∧ (c.steady = true → c.lockAtEnd.locked = true) := by
  unfold Chip.lockAtEnd
  split
  next =>
    have hset : ∀ d : Chip, d.EndKeeps (if d.stage = 9 then d.auditStart else d) := fun d => .ite (.auditStart d) (.refl d)
    have hflag : ((c.setFlag R.GLB_CFG_LOCK F.GLB_CFG_LOCK_LOCK true).setFlag R.GLB_CFG_LOCK F.GLB_CFG_LOCK_BY_IMAGE false).locked = true := by
      rw [Chip.locked, Chip.flag_setFlag_of_apart _ _ _ F.GLB_CFG_LOCK_BY_IMAGE F.GLB_CFG_LOCK_LOCK _ (by decide) (by decide),
        Chip.flag_setFlag _ _ F.GLB_CFG_LOCK_LOCK _ (by decide) (by decide)]
    have hev : c.EventsOnly ((c.setFlag R.GLB_CFG_LOCK F.GLB_CFG_LOCK_LOCK true).setFlag R.GLB_CFG_LOCK F.GLB_CFG_LOCK_BY_IMAGE false) :=
      (Chip.EventsOnly.setFld c _ _ _).trans (.setFld _ _ _ _)
    have hreg : ∀ a, a ≠ R.GLB_CFG_LOCK →
        ((c.setFlag R.GLB_CFG_LOCK F.GLB_CFG_LOCK_LOCK true).setFlag R.GLB_CFG_LOCK F.GLB_CFG_LOCK_BY_IMAGE false).reg a = c.reg a := fun a ha =>
      (Chip.reg_setFlag_ne _ _ _ ha).trans (Chip.reg_setFlag_ne _ _ _ ha)
    have hopen : ∀ d : Chip, d.EndKeeps (d.stwRecordOpen 3 0) := fun d => ((Chip.EndKeeps.record d _ _ _ _).trans (.used _)).trans (.used _)
    unfold Chip.setLock
    dsimp only
    generalize (c.setFlag R.GLB_CFG_LOCK F.GLB_CFG_LOCK_LOCK true).setFlag R.GLB_CFG_LOCK F.GLB_CFG_LOCK_BY_IMAGE false = d at *
    have hall := (hset d).trans (hopen _)
    exact ⟨⟨hall.epc.trans hev.epc, hall.boot.trans hev.boot⟩, fun a ha hne => (hall.reg ha).trans (hreg a hne),
      fun _ => (Chip.flag_congr (hall.reg (by decide)) _).trans hflag⟩
  next h =>
    refine ⟨⟨rfl, rfl⟩, fun _ _ _ => rfl, fun hsteady => ?_⟩
    rw [hsteady, Bool.true_and, Bool.not_eq_true', Bool.not_eq_false] at h
    exact h

/-! ### RUN -/

/-- The start is over. -/
def Chip.runBegun (c : Chip) : Chip := { c.penUp 5 with boot := { (c.penUp 5).boot with runAt := c.epc.line, deferred := [] } }

/-- RUN as the registers show it. -/
def Chip.runShown (c : Chip) (t v b : Nat) : Chip :=
  (((((c.setStage 9).setFld R.STW_STATE F.STW_STATE_STATE 1).setN R.STW_BOOT_TIME t).setN R.STW_IMG_VERSION v).setN R.STW_IMG_BUILD_L b).setN
    R.STW_IMG_BUILD_H (b / 2 ^ 32)

theorem Chip.runShown_spec (c : Chip) (t v b : Nat) : c.EventsOnly (c.runShown t v b) ∧ c.EndKeeps (c.runShown t v b) ∧
    (c.runShown t v b).stage = 9 ∧ (c.runShown t v b).running = true := by
  have hboot : endFree R.STW_BOOT_STAT ∧ endFree R.STW_STATE ∧ endFree R.STW_BOOT_TIME ∧ endFree R.STW_IMG_VERSION ∧ endFree R.STW_IMG_BUILD_L ∧
      endFree R.STW_IMG_BUILD_H := by unfold endFree; decide
  obtain ⟨h1, h2, h3, h4, h5, h6⟩ := hboot
  refine ⟨(((((Chip.EventsOnly.setFld c _ _ _).trans (.setFld _ _ _ _)).trans (.setN _ _ _)).trans (.setN _ _ _)).trans (.setN _ _ _)).trans
    (.setN _ _ _), (((((Chip.EndKeeps.setFld c _ _ h1).trans (.setFld _ _ _ h2)).trans (.setN _ _ h3)).trans (.setN _ _ h4)).trans
    (.setN _ _ h5)).trans (.setN _ _ h6), ?_, ?_⟩
  · rw [Chip.runShown, Chip.stage, Chip.fld_congr (Chip.reg_setN_ne _ _ (by decide)), Chip.fld_congr (Chip.reg_setN_ne _ _ (by decide)),
      Chip.fld_congr (Chip.reg_setN_ne _ _ (by decide)), Chip.fld_congr (Chip.reg_setN_ne _ _ (by decide)), Chip.fld_setFld_ne _ _ _ _ (by decide)]
    exact Chip.stage_setStage c (by decide)
  · rw [Chip.runShown, Chip.running, Chip.fld_congr (Chip.reg_setN_ne _ _ (by decide)), Chip.fld_congr (Chip.reg_setN_ne _ _ (by decide)),
      Chip.fld_congr (Chip.reg_setN_ne _ _ (by decide)), Chip.fld_congr (Chip.reg_setN_ne _ _ (by decide)),
      Chip.fld_setFld _ _ F.STW_STATE_STATE _ (by decide)]
    rfl

theorem Chip.startDone_eq {c : Chip} (h : c.boot.fromPending = false) : ∃ t v b, c.startDone = (c.runBegun.runShown t v b).raise Ev.startDone := by
  unfold Chip.startDone
  extract_lets f c0 b0 c1 c2 c3 c4 b4 c5
  have h1 : c1 = c.runBegun := rfl
  obtain ⟨t, ht⟩ : ∃ t, c3 = c2.setN R.STW_BOOT_TIME t := ⟨_, rfl⟩
  have h4 : c4 = c.runBegun.runShown t f.version f.build := by
    rw [show c4 = ((c3.setN R.STW_IMG_VERSION f.version).setN R.STW_IMG_BUILD_L f.build).setN R.STW_IMG_BUILD_H (f.build / 2 ^ 32) from rfl, ht,
      show c2 = (c1.setStage 9).setFld R.STW_STATE F.STW_STATE_STATE 1 from rfl, h1, Chip.runShown]
  have hpending : c4.boot.fromPending = false := by
    rw [h4, ((c.runBegun).runShown_spec t f.version f.build).1.boot]
    exact h
  refine ⟨t, f.version, f.build, ?_⟩
  have h5 : c5 = c4 := if_neg (by rw [hpending]; exact Bool.false_ne_true)
  rw [h5, h4]

/-- RUN, from an engine whose image is through. -/
theorem Chip.startDone_spec {c : Chip} (h : c.boot.fromPending = false) : c.startDone.stage = 9 ∧ c.startDone.running = true ∧
    bit c.startDone.pins.pen 5 = true ∧ c.startDone.boot.runAt = c.epc.line ∧ ∀ a ∈ endRegs, c.startDone.reg a = c.reg a := by
  obtain ⟨t, v, b, heq⟩ := Chip.startDone_eq h
  obtain ⟨hev, hkeep, hstage, hrun⟩ := c.runBegun.runShown_spec t v b
  have hraise := Chip.EventsOnly.raise (c.runBegun.runShown t v b) Ev.startDone
  have hreg : ∀ a, a < 0x580000 → c.startDone.reg a = (c.runBegun.runShown t v b).reg a := fun a ha => by
    rw [heq, Chip.reg_raise_ne _ _ (not_mem_eventRegs_of_lt ha _)]
  have hstw : R.STW_BOOT_STAT ∉ eventRegs Ev.startDone ∧ R.STW_STATE ∉ eventRegs Ev.startDone := by decide
  obtain ⟨_, _, _, hshape⟩ := hev.trans hraise
  have hpins : c.startDone.pins = c.runBegun.pins := by rw [heq, hshape]
  have hboot : c.startDone.boot = c.runBegun.boot := by rw [heq, hshape]
  refine ⟨?_, ?_, ?_, ?_, fun a ha => ?_⟩
  · rw [heq, Chip.stage, Chip.fld_congr (Chip.reg_raise_ne _ _ hstw.1)]
    exact hstage
  · rw [heq, Chip.running, Chip.fld_congr (Chip.reg_raise_ne _ _ hstw.2)]
    exact hrun
  · rw [hpins]
    change bit (maskSet c.pins.pen 5) 5 = true
    rw [bit_maskSet]
    simp
  · rw [hboot]
    rfl
  · rw [heq, ((Chip.EndKeeps.raise (c.runBegun.runShown t v b) (by decide)).reg ha), hkeep.reg ha]
    rfl

/-! ### END -/

section
variable {c : Chip}

theorem Chip.fusesAtEnd_of_none (h : (c.slot c.boot.runSlot).provision = false) : c.fusesAtEnd = c := by
  unfold Chip.fusesAtEnd
  dsimp only
  rw [h, if_neg Bool.false_ne_true]

theorem Chip.marchJudge_of_clean (h : c.marchFailed = 0) : c.marchJudge = (c, true) := by
  unfold Chip.marchJudge
  dsimp only
  rw [if_pos h]

theorem doImgEnd_of_clean (happ : c.applies .endRec = true) (hshort : (List.range 16).find? (c.setStage 8).segShort = none)
    (hmarch : (c.setStage 8).profileLatch.marchFailed = 0) (hdef : (c.setStage 8).profileLatch.boot.deferred = []) :
    doImgEnd c = (c.setStage 8).profileLatch.lockAtEnd.loadsAtEnd.auditStart.fusesAtEnd.startDone := by
  unfold doImgEnd
  simp only [if_pos happ, hshort, Chip.marchJudge_of_clean hmarch, hdef, Chip.deferredAll, if_true]

/-- The engine before RUN, where END processing has come to its last step. -/
theorem Chip.endSteps_spec (c : Chip) : ((c.profileLatch.lockAtEnd.loadsAtEnd.auditStart).epc = c.epc ∧
      (c.profileLatch.lockAtEnd.loadsAtEnd.auditStart).boot = c.boot) ∧
    (c.profileLatch.lockAtEnd.loadsAtEnd.auditStart).reg R.GLB_PROFILE_EFF = BitVec.ofNat 32 (profileEff (c.rn R.GLB_PROFILE)) ∧
    (c.profileLatch.lockAtEnd.loadsAtEnd.auditStart).flag R.CST_TEST F.CST_TEST_RAW = false ∧
    (bit (c.rn R.GLB_PROFILE) 0 = false → (c.profileLatch.lockAtEnd.loadsAtEnd.auditStart).locked = true) := by
  obtain ⟨hev, heff, hraw, -⟩ := c.profileLatch_spec
  obtain ⟨⟨hepc, hboot⟩, hregs, hlock⟩ := c.profileLatch.lockAtEnd_spec
  have hall := (Chip.EndKeeps.loadsAtEnd c.profileLatch.lockAtEnd).trans (.auditStart _)
  generalize c.profileLatch.lockAtEnd.loadsAtEnd.auditStart = d at *
  exact ⟨⟨hall.epc.trans (hepc.trans hev.epc), hall.boot.trans (hboot.trans hev.boot)⟩,
    (hall.reg (by decide)).trans ((hregs _ (by decide) (by decide)).trans heff),
    (Chip.flag_congr ((hall.reg (by decide)).trans (hregs _ (by decide) (by decide))) _).trans hraw,
    fun hsteady => (Chip.flag_congr (hall.reg (by decide)) _).trans (hlock (Chip.steady_of_profile heff hsteady))⟩

end

/-- Settles O15: the steps of END processing leave what the profile latch and the lock have set, and RUN follows. -/
theorem startCompletes : Obligations.StartCompletes := by
  intro s h hrec hdef hshort hprov hpend
  have hstart := Chip.inStart_of_inRecords h
  have hmarch : (s.chip.setStage 8).marchFailed = 0 := by
    rw [Chip.marchFailed, Chip.flag_congr (Chip.reg_setStage_ne s.chip 8 (by decide)), Chip.rn_congr (Chip.reg_setStage_ne s.chip 8 (by decide)),
      Chip.rn_congr (Chip.reg_setStage_ne s.chip 8 (by decide))]
    exact Chip.marchFailed_of_inRecords h
  obtain ⟨hev, -, -, hkept⟩ := (s.chip.setStage 8).profileLatch_spec
  have hfind : (List.range 16).find? (s.chip.setStage 8).segShort = none :=
    List.find?_eq_none.2 fun p hp => by rw [hshort p (List.mem_range.1 hp)]; exact Bool.false_ne_true
  have hend := doImgEnd_of_clean (Chip.applies_of_inRecords h hrec) hfind (hkept.trans hmarch) (by rw [hev.boot]; exact hdef)
  have hprofile : (s.chip.setStage 8).rn R.GLB_PROFILE = s.chip.rn R.GLB_PROFILE := Chip.rn_congr (Chip.reg_setStage_ne s.chip 8 (by decide))
  obtain ⟨⟨hepc, hboot⟩, heff, hraw, hlock⟩ := (s.chip.setStage 8).endSteps_spec
  rw [hprofile] at heff hlock
  have hexec : exec .imgEnd s = .next (s.after (doImgEnd s.chip)) := by
    rw [show exec .imgEnd s = s.act _ doImgEnd from rfl, State.act_of_quiet (Chip.quiet_of_inRecords h) rfl]
  rw [hend] at hexec
  generalize (s.chip.setStage 8).profileLatch.lockAtEnd.loadsAtEnd.auditStart = d at *
  have hboot' : d.boot = s.chip.boot := hboot
  have hslot : (d.slot d.boot.runSlot).provision = false := by
    rw [Chip.slot, hboot']
    exact hprov
  rw [Chip.fusesAtEnd_of_none hslot] at hexec
  obtain ⟨hstage, hrun, hpen, hrunAt, hregs⟩ := Chip.startDone_spec (c := d) (by rw [hboot']; exact hpend)
  exact ⟨_, hexec, hstage, hrun, hpen, (Chip.flag_congr (hregs _ (by decide)) _).trans hraw, (hregs _ (by decide)).trans heff,
    fun hsteady => (Chip.flag_congr (hregs _ (by decide)) _).trans (hlock hsteady), hrunAt.trans (by rw [hepc]; rfl)⟩

end Sys2Proof.Machine
end

section
/-! The warm reset (R11, R430, R460). -/

namespace Sys2Proof.Machine

/-! ### What every command ends with, where a reset is demanded -/

/-- What has been demanded is carried out once. -/
theorem State.after_settle (s : State) (c : Chip) : s.after c.settle = s.after c := by
  have hidem : c.settle.settle = c.settle := Chip.settle_of_none rfl rfl
  rw [State.after, State.after, Chip.finish, Chip.finish, hidem]

/-- The streams' state is none of what every command ends with. -/
theorem State.after_dma (s : State) {c : Chip} (hf : c.fatal = none) (hr : c.resetReq = false) : (s.after c).chip.dma = c.dma := by
  obtain ⟨_, _, _, _, _, h⟩ := s.after_eq c
  rw [h, Chip.settle_of_none hf hr]

/-! ### The register file after a warm reset -/

section
variable {α : Type} [DecidableEq α]

/-- Keys set one after another, each to its own value. -/
theorem SMap.get_foldl_set (d f : Nat → α) (l : List Nat) (m : List (Nat × α)) (j : Nat) :
    SMap.get d (l.foldl (fun m a => SMap.set d m a (f a)) m) j = if j ∈ l then f j else SMap.get d m j := by
  induction l generalizing m with
  | nil => rw [List.foldl_nil, if_neg List.not_mem_nil]
  | cons a l ih =>
    rw [List.foldl_cons, ih, SMap.get_set]
    by_cases hl : j ∈ l
    · rw [if_pos hl, if_pos (List.mem_cons_of_mem a hl)]
    · by_cases ha : j = a
      · rw [if_neg hl, if_pos ha, if_pos (ha ▸ List.mem_cons_self), ha]
      · rw [if_neg hl, if_neg ha, if_neg (fun h => (List.mem_cons.1 h).elim ha hl)]

theorem SMap.get_foldl_set_ne {β : Type} (d : Nat → α) (k : β → Nat) (f : β → α) {l : List β} {j : Nat} (h : ∀ x ∈ l, k x ≠ j)
    (m : List (Nat × α)) : SMap.get d (l.foldl (fun m x => SMap.set d m (k x) (f x)) m) j = SMap.get d m j := by
  induction l generalizing m with
  | nil => rfl
  | cons x l ih =>
    rw [List.foldl_cons, ih (fun y hy => h y (List.mem_cons_of_mem x hy)), SMap.get_set_ne _ _ _ (h x List.mem_cons_self).symm]

end

/-- A warm reset keeps a register whole, or resets it. -/
theorem Chip.get_warmRegs (c : Chip) {a : Nat} (h : ∀ x ∈ warmMasked, x.1 ≠ a) :
    SMap.get regReset c.warmRegs a = if a ∈ warmKept then c.reg a else regReset a := by
  unfold Chip.warmRegs
  dsimp only
  rw [SMap.get_foldl_set_ne regReset Prod.fst _ h, SMap.get_foldl_set regReset c.reg]
  rfl

theorem Chip.reg_resetCore (c : Chip) {a : Nat} (h : ∀ x ∈ warmMasked, x.1 ≠ a) :
    (c.resetCore true).reg a = if a ∈ warmKept then c.reg a else regReset a := c.get_warmRegs h

/-! ### The ROM stage -/

/-- The registers that the ROM stage may change. -/
def romReg (a : Nat) : Prop := a ∈ eventRegs Ev.slotRollback ++ [R.STW_NV_STAT, R.STW_BOOT_STAT, R.GLB_FW_VERSION]

/-- What the ROM stage leaves. -/
structure Chip.RomKeeps (c d : Chip) : Prop where
  regs : c.RegsIn romReg d
  fault : d.pins.fault = c.pins.fault
  car : d.car = c.car
  dma : d.dma = c.dma

section
variable {c d e : Chip}

theorem Chip.RomKeeps.refl (c : Chip) : c.RomKeeps c := ⟨.refl _ c, rfl, rfl, rfl⟩

theorem Chip.RomKeeps.trans (h : c.RomKeeps d) (k : d.RomKeeps e) : c.RomKeeps e :=
  ⟨h.regs.trans k.regs, k.fault.trans h.fault, k.car.trans h.car, k.dma.trans h.dma⟩

theorem Chip.RomKeeps.of_events (h : c.EventsOnly d) (k : c.RegsIn romReg d) : c.RomKeeps d := by
  obtain ⟨_, _, _, hd⟩ := h
  exact ⟨k, by rw [hd], by rw [hd], by rw [hd]⟩

theorem Chip.RomKeeps.setFld (c : Chip) {a : Nat} (f : Fld) (v : Nat) (h : romReg a) : c.RomKeeps (c.setFld a f v) :=
  .of_events (.setFld c a f v) (.setFld c f v h)

theorem Chip.RomKeeps.used (c : Chip) : c.RomKeeps c.used := ⟨.of_regs rfl, rfl, rfl, rfl⟩

theorem Chip.RomKeeps.emit (c : Chip) (o : Out) : c.RomKeeps (c.emit o) := ⟨.of_regs rfl, rfl, rfl, rfl⟩

theorem romReg_NV : romReg R.STW_NV_STAT := by unfold romReg; decide

theorem romReg_BOOT : romReg R.STW_BOOT_STAT := by unfold romReg; decide

theorem Chip.RomKeeps.bctlShow (c : Chip) : c.RomKeeps c.bctlShow :=
  (((Chip.RomKeeps.setFld c _ _ romReg_NV).trans (.setFld _ _ _ romReg_NV)).trans (.setFld _ _ _ romReg_NV)).trans (.setFld _ _ _ romReg_BOOT)

theorem Chip.RomKeeps.putBctl (c : Chip) (b : BootCtl) : c.RomKeeps (c.putBctl b) := by
  unfold Chip.putBctl
  extract_lets now new zero a c1
  have hflash : c.RomKeeps c1 := (Chip.RomKeeps.emit c (.flashErase a)).trans (.emit _ (.flashWrite a new.bytes))
  have hboot : ∀ x : Boot, c1.RomKeeps { c1 with boot := x } := fun _ => ⟨.of_regs rfl, rfl, rfl, rfl⟩
  clear_value c1
  exact (hflash.trans (hboot _)).trans (.bctlShow _)

theorem Chip.RomKeeps.slotRollback (c : Chip) : c.RomKeeps c.slotRollback := by
  have hraise : ∀ d : Chip, d.RomKeeps (d.raiseTyped Ev.slotRollback) := fun d => .of_events (.raiseTyped d _) fun a ha =>
    Chip.reg_setEvent_ne d _ _ (fun h => ha (h ▸ by unfold romReg; decide))
  have hrecord : ∀ (d : Chip) (t k m : Nat) (l : List Nat), d.RomKeeps (d.record t k m l) := fun d t k m l => .of_events (.record d t k m l) fun a ha =>
    Chip.reg_record_ne d t k m l (fun h => ha (h ▸ by unfold romReg; decide)) (fun h => ha (h ▸ by unfold romReg; decide))
      (fun h => ha (h ▸ by unfold romReg; decide))
  have hopen : ∀ (d : Chip) (k v : Nat), d.RomKeeps (d.stwRecordOpen k v) := fun d k v => ((hrecord d _ _ _ _).trans (.used _)).trans (.used _)
  exact ((Chip.RomKeeps.putBctl c _).trans (hraise _)).trans (hopen _ _ _)

/-- The start from a slot shows stage 1. -/
theorem Chip.stage_slotShown (c : Chip) (k : Nat) (a b : Bool) : (c.slotShown k a b).stage = 1 := by
  unfold Chip.slotShown Chip.stage
  rw [Chip.fld_setFlag_of_apart _ _ _ F.STW_BOOT_STAT_KEY2 F.STW_BOOT_STAT_STAGE _ (by decide) (.inl (by decide)),
    Chip.fld_setFlag_of_apart _ _ _ F.STW_BOOT_STAT_PROVISIONED F.STW_BOOT_STAT_STAGE _ (by decide) (.inl (by decide)),
    Chip.fld_setFld_apart _ _ F.STW_BOOT_STAT_OCTAL F.STW_BOOT_STAT_STAGE _ (by decide) (.inl (by decide)),
    Chip.fld_setFld_apart _ _ F.STW_BOOT_STAT_SLOT F.STW_BOOT_STAT_STAGE _ (by decide) (.inl (by decide))]
  exact c.stage_setStage (by decide)

theorem Chip.RomKeeps.startSlot (c : Chip) (k : Nat) (b : Bool) : c.RomKeeps (c.startSlot k b) := by
  unfold Chip.startSlot
  extract_lets f c1 c2 c3 c4
  have h3 : c.RomKeeps c3 := ((((Chip.RomKeeps.setFld c _ _ romReg_BOOT).trans (.setFld _ _ _ romReg_BOOT)).trans (.setFld _ _ _ romReg_BOOT)).trans
    (.setFld c2 _ _ romReg_BOOT)).trans (.setFld _ _ _ romReg_BOOT)
  have h4 : c3.RomKeeps c4 := by
    change c3.RomKeeps (if f.vendorOk then c3.setN R.GLB_FW_VERSION f.fwVersion else c3)
    split
    · exact .of_events (.setN c3 _ _) (.setN c3 _ (by unfold romReg; decide))
    · exact .refl c3
  have h := h3.trans h4
  have hlast : ∀ (x : Boot) (o : Nat), c4.RomKeeps ({ c4 with boot := x, pins := { c4.pins with railOk := o } }.penUp 0) :=
    fun _ _ => ⟨.of_regs rfl, rfl, rfl, rfl⟩
  clear_value c4
  exact h.trans (hlast _ _)

/-- The ROM stage ends with a start from a slot. -/
theorem Chip.romStage_spec (c : Chip) : c.RomKeeps c.romStage ∧ c.romStage.stage = 1 := by
  have hstart : ∀ (d : Chip) (k : Nat) (b : Bool), c.RomKeeps d → c.RomKeeps (d.startSlot k b) ∧ (d.startSlot k b).stage = 1 := fun d k b h => by
    obtain ⟨x, y, hshown⟩ := (d.startSlot_spec k b).shown
    exact ⟨h.trans (.startSlot d k b), (Chip.fld_congr hshown _).trans (d.stage_slotShown k x y)⟩
  have hshow := Chip.RomKeeps.bctlShow c
  unfold Chip.romStage
  dsimp only
  generalize c.bctlShow = c0 at *
  split
  · exact hstart _ _ _ hshow
  · split
    · exact hstart _ _ _ (hshow.trans (.slotRollback c0))
    · exact hstart _ _ _ (hshow.trans (.putBctl c0 _))

end

/-! ### From the reset to the ROM stage -/

/-- The partitions' registers as what they keep stands. -/
def Chip.partsShown (c : Chip) : Chip := (List.range 16).foldl (fun c p => if (c.part p).segs.isEmpty then c else c.refreshPart p) c

theorem Chip.partsShown_spec (c : Chip) : c.EventsOnly c.partsShown ∧ (∀ q, c.partsShown.prtState q = c.prtState q) ∧
    ∀ a, a < 0x300000 ∨ 0x310000 ≤ a → c.partsShown.reg a = c.reg a := by
  have hone : ∀ (d : Chip) (p : Nat), d.EventsOnly (if (d.part p).segs.isEmpty then d else d.refreshPart p) := fun d p => by
    split
    · exact .refl d
    · exact .refreshPart d p
  refine ⟨?_, fun q => Chip.foldl_keeps (fun d => d.prtState q) (fun d p _ => ?_) c, fun a ha => Chip.foldl_keeps (fun d => d.reg a) (fun d p hp => ?_) c⟩
  · unfold Chip.partsShown
    generalize List.range 16 = l
    induction l generalizing c with
    | nil => exact .refl c
    | cons p l ih => exact (hone c p).trans (ih _)
  · split
    · rfl
    · exact d.prtState_refreshPart p q
  · split
    · rfl
    · refine Chip.RegsIn.refreshPart d p a fun hpart => ?_
      have hp16 := List.mem_range.1 hp
      unfold partReg at hpart
      omega

/-- The keeper holds over a timeline that it kept. -/
def Chip.keeperKept (c : Chip) : Chip := if c.epc.timeline then c.setEpcState 3 else c

theorem Chip.keeperKept_spec {c : Chip} (h : c.epcState = 0) : c.EventsOnly c.keeperKept ∧
    c.keeperKept.epcState = (if c.epc.timeline then 3 else 0) ∧ ∀ a, a ≠ R.EPC_STAT → c.keeperKept.reg a = c.reg a := by
  unfold Chip.keeperKept
  split
  · exact ⟨.setEpcState c 3, c.epcState_setEpcState (by decide), fun a ha => c.reg_setEpcState_ne 3 ha⟩
  · exact ⟨.refl c, h, fun _ _ => rfl⟩

/-- The Scrivener's own state put. -/
def Chip.putScv (c : Chip) (q : Scv) : Chip := { c with scv := q }

theorem Chip.EventsOnly.putScv (c : Chip) (q : Scv) : c.EventsOnly (c.putScv q) := ⟨_, _, q, rfl⟩

theorem Chip.reg_putScv (c : Chip) (q : Scv) (a : Nat) : (c.putScv q).reg a = c.reg a := rfl

theorem Chip.exportStart_eq (c : Chip) (a b : Bool) : ∃ q, c.exportStart a b = (c.putScv q).setFlag R.SCV_STAT F.SCV_STAT_EXPORTING true :=
  ⟨_, rfl⟩

/-- A frozen Scrivener is exported, and thawed then. -/
def Chip.thawLater (c : Chip) : Chip :=
  if c.frozen then (c.exportStart true true).putScv { (c.exportStart true true).scv with thawDue := true } else c

theorem Chip.thawLater_spec (c : Chip) : c.EventsOnly c.thawLater ∧ ∀ a, a ≠ R.SCV_STAT → c.thawLater.reg a = c.reg a := by
  unfold Chip.thawLater
  split
  · obtain ⟨q, hq⟩ := c.exportStart_eq true true
    have hexport : c.EventsOnly (c.exportStart true true) := by
      rw [hq]
      exact (Chip.EventsOnly.putScv c q).trans (.setFld _ _ _ _)
    have hreg : ∀ a, a ≠ R.SCV_STAT → (c.exportStart true true).reg a = c.reg a := fun a ha => by
      rw [hq, Chip.reg_setFlag_ne _ _ _ ha, Chip.reg_putScv]
    generalize c.exportStart true true = d at *
    exact ⟨hexport.trans (.putScv d _), hreg⟩
  · exact ⟨.refl c, fun _ _ => rfl⟩

/-- With nothing queued, nothing is written before the reset. -/
theorem Chip.drain_of_empty {c : Chip} (h : c.scv.queue = []) : c.drain = c.putScv { c.scv with queue := [] } := by
  rw [Chip.drain, h]
  rfl

/-- The warm reset as its parts, one after another. -/
theorem Chip.warmReset_eq (c : Chip) :
    c.warmReset = (((if c.frozen then c else c.drain).resetCore true).partsShown.keeperKept.thawLater).romStage := by
  unfold Chip.warmReset
  extract_lets c1 c2 c3 exported scv c4
  have h2 : c2 = c1.partsShown := rfl
  clear_value c2
  have h3 : c3 = c2.keeperKept := rfl
  clear_value c3
  have h4 : c4 = c3.thawLater := rfl
  clear_value c4
  rw [h4, h3, h2]

theorem prtStat_reset {p : Nat} (hp : p < 16) : (∀ x ∈ warmMasked, x.1 ≠ R.PRT_STAT p) ∧ R.PRT_STAT p ∉ warmKept ∧
    bits (regReset (R.PRT_STAT p)).toNat F.PRT_STAT_STATE.lo F.PRT_STAT_STATE.w = 0 := by
  revert p
  decide +kernel

/-- The engine after the reset, before the ROM stage. -/
theorem Chip.beforeRom_spec (c : Chip) : ∃ d : Chip, d = (c.resetCore true).partsShown.keeperKept.thawLater ∧ d.pins.fault = c.pins.porn ∧
    d.car = {} ∧ d.dma = {} ∧ d.epcState = (if c.epc.timeline then 3 else 0) ∧ (∀ p, p < 16 → d.armed p = false) ∧
    ∀ a, (a < 0x300000 ∨ 0x310000 ≤ a) → a ≠ R.EPC_STAT → a ≠ R.SCV_STAT → d.reg a = (c.resetCore true).reg a := by
  obtain ⟨hev1, hstate, hreg1⟩ := (c.resetCore true).partsShown_spec
  have hidle : (c.resetCore true).partsShown.epcState = 0 := by
    rw [Chip.epcState, Chip.fld_congr (hreg1 _ (.inl (by decide))), Chip.fld, Chip.rn,
      Chip.reg_resetCore c (a := R.EPC_STAT) (by decide), if_neg (by decide)]
    decide
  obtain ⟨hev2, hepc, hreg2⟩ := Chip.keeperKept_spec hidle
  obtain ⟨hev3, hreg3⟩ := (c.resetCore true).partsShown.keeperKept.thawLater_spec
  have htimeline : (c.resetCore true).partsShown.epc.timeline = c.epc.timeline := by rw [hev1.epc]; rfl
  have hcore : (c.resetCore true).pins.fault = c.pins.porn ∧ (c.resetCore true).car = {} ∧ (c.resetCore true).dma = {} := ⟨rfl, rfl, rfl⟩
  have harm : ∀ p, p < 16 → (c.resetCore true).prtState p = 0 := fun p hp => by
    obtain ⟨hmasked, hkept, hzero⟩ := prtStat_reset hp
    rw [Chip.prtState, Chip.fld, Chip.rn, Chip.reg_resetCore c hmasked, if_neg hkept]
    exact hzero
  generalize (c.resetCore true) = c0 at *
  generalize c0.partsShown = c1 at *
  generalize c1.keeperKept = c2 at *
  refine ⟨_, rfl, ?_⟩
  generalize c2.thawLater = d at *
  obtain ⟨_, _, _, hshape⟩ := (hev1.trans hev2).trans hev3
  obtain ⟨hfault, hcar, hdma⟩ := hcore
  refine ⟨by rw [hshape]; exact hfault, by rw [hshape]; exact hcar, by rw [hshape]; exact hdma, ?_, fun p hp => ?_, fun a h1 h2 h3 => ?_⟩
  · rw [Chip.epcState, Chip.fld_congr (hreg3 _ (by decide)), ← htimeline]
    exact hepc
  · have hstat : d.prtState p = c1.prtState p := Chip.fld_congr ((hreg3 _ (by rw [R.PRT_STAT, R.SCV_STAT]; omega)).trans
      (hreg2 _ (by rw [R.PRT_STAT, R.EPC_STAT]; omega))) _
    rw [Chip.armed, hstat, hstate, harm p hp]
    rfl
  · rw [hreg3 a h3, hreg2 a h2, hreg1 a h1]

/-- What a warm reset ends with. -/
theorem Chip.warmReset_spec {c : Chip} (hfrozen : c.frozen = false) (hqueue : c.scv.queue = []) : c.warmReset.stage = 1 ∧
    c.warmReset.pins.fault = c.pins.porn ∧ c.warmReset.car = {} ∧ c.warmReset.dma = {} ∧
    c.warmReset.epcState = (if c.epc.timeline then 3 else 0) ∧ (∀ p, p < 16 → c.warmReset.armed p = false) ∧
    ∀ a, (a < 0x300000 ∨ 0x310000 ≤ a) → a ≠ R.EPC_STAT → a ≠ R.SCV_STAT → ¬romReg a → (∀ x ∈ warmMasked, x.1 ≠ a) →
      c.warmReset.reg a = if a ∈ warmKept then c.reg a else regReset a := by
  obtain ⟨d, hd⟩ : ∃ d, d = c.putScv { c.scv with queue := [] } := ⟨_, rfl⟩
  obtain ⟨hregs, hpins, hepc⟩ : d.regs = c.regs ∧ d.pins = c.pins ∧ d.epc = c.epc := by rw [hd]; exact ⟨rfl, rfl, rfl⟩
  have heq : c.warmReset = ((d.resetCore true).partsShown.keeperKept.thawLater).romStage := by
    rw [Chip.warmReset_eq, hfrozen, if_neg Bool.false_ne_true, Chip.drain_of_empty hqueue, hd]
  obtain ⟨e, he, hfault, hcar, hdma, hstate, harm, hreg⟩ := d.beforeRom_spec
  rw [← he] at heq
  obtain ⟨hrom, hstage⟩ := e.romStage_spec
  rw [heq]
  have hfree : ∀ a, a < 0x580000 → a ≠ R.GLB_FW_VERSION → ¬romReg a := fun a ha hne hmem => by
    rcases List.mem_append.1 hmem with h | h
    · exact not_mem_eventRegs_of_lt ha _ h
    · simp only [List.mem_cons, List.not_mem_nil, or_false, R.STW_NV_STAT, R.STW_BOOT_STAT] at h
      omega
  refine ⟨hstage, hrom.fault.trans (hfault.trans (by rw [hpins])), hrom.car.trans hcar, hrom.dma.trans hdma, ?_, fun p hp => ?_,
    fun a h1 h2 h3 h4 h5 => ?_⟩
  · rw [Chip.epcState, Chip.fld_congr (hrom.regs _ (hfree _ (by decide) (by decide))), ← hepc]
    exact hstate
  · have hstat : e.romStage.prtState p = e.prtState p := Chip.fld_congr (hrom.regs _ (hfree _ (by rw [R.PRT_STAT]; omega)
      (by rw [R.PRT_STAT, R.GLB_FW_VERSION]; omega))) _
    rw [Chip.armed, hstat]
    exact harm p hp
  · rw [hrom.regs a h4, hreg a h1 h2 h3, Chip.reg_resetCore d h5, Chip.reg_congr hregs]

/-- The engine with nothing demanded. -/
def Chip.undemanded (c : Chip) : Chip := { c with fatal := none, resetReq := false }

theorem Chip.undemanded_spec (c : Chip) : c.undemanded.fatal = none ∧ c.undemanded.resetReq = false ∧ c.undemanded.pins = c.pins ∧
    c.undemanded.car = c.car ∧ c.undemanded.dma = c.dma ∧ ∀ a, c.undemanded.reg a = c.reg a := ⟨rfl, rfl, rfl, rfl, rfl, fun _ => rfl⟩

/-- A reset that is demanded follows at the end of the command. -/
theorem Chip.settle_resetReq {c : Chip} (hf : c.fatal = none) : (doWarmReset c).settle = (Chip.warmReset { c with resetReq := false }).undemanded := by
  have hfatal : (doWarmReset c).settleFatal = doWarmReset c := by
    unfold Chip.settleFatal
    rw [show (doWarmReset c).fatal = none from hf]
  rw [Chip.settle, hfatal, Chip.settleReset, if_pos (show (doWarmReset c).resetReq = true from rfl)]
  rfl

theorem Chip.reset_dropped {c : Chip} (h : c.resetReq = false) : ({ c with resetReq := false } : Chip) = c := by
  rw [← h]

/-- A register that neither what a command ends with, nor the ROM stage, nor the partitions, the keeper and the Scrivener as they are
shown after a reset touch. -/
structure WarmPlain (a : Nat) : Prop where
  apart : a < 0x300000 ∨ 0x310000 ≤ a
  keeper : a ≠ R.EPC_STAT
  frozen : a ≠ R.SCV_STAT
  rom : ¬romReg a
  whole : ∀ x ∈ warmMasked, x.1 ≠ a
  low : a ≠ R.HIF_MSIX_PBA_L
  high : a ≠ R.HIF_MSIX_PBA_H
  stalls : ∀ n, n < 8 → a ≠ R.FUL_STALL n ∧ a ≠ R.FUL_STAT n

/-- The registers that the statement reads after a warm reset. -/
def warmRead : List Nat :=
  [R.STW_STATE, R.GLB_PROFILE_EFF, R.GLB_CFG_LOCK, R.SCV_REC_NO, R.SCV_LW_L, R.STW_AON] ++ run (R.STW_KEYHASH 0) 24

theorem WarmPlain.of_warmRead {a : Nat} (h : a ∈ warmRead) : WarmPlain a := by
  have hall : ∀ a ∈ warmRead, (a < 0x300000 ∨ 0x310000 ≤ a) ∧ a ≠ R.EPC_STAT ∧ a ≠ R.SCV_STAT ∧
      a ∉ eventRegs Ev.slotRollback ++ [R.STW_NV_STAT, R.STW_BOOT_STAT, R.GLB_FW_VERSION] ∧ (∀ x ∈ warmMasked, x.1 ≠ a) ∧
      a ≠ R.HIF_MSIX_PBA_L ∧ a ≠ R.HIF_MSIX_PBA_H ∧ ∀ n, n < 8 → a ≠ R.FUL_STALL n ∧ a ≠ R.FUL_STAT n := by decide +kernel
  obtain ⟨hapart, hkeeper, hfrozen, hrom, hwhole, hlow, hhigh, hstalls⟩ := hall a h
  exact ⟨hapart, hkeeper, hfrozen, hrom, hwhole, hlow, hhigh, hstalls⟩

theorem keyhash_kept {k : Nat} (h : k < 24) : R.STW_KEYHASH k ∈ warmRead ∧ R.STW_KEYHASH k ∈ warmKept := by
  revert k
  decide +kernel

/-- Settles O10: a warm reset keeps the registers of R11, resets the others, and the ROM stage begins a start. -/
theorem warmResetRestarts : Obligations.WarmResetRestarts := by
  intro s hq hfrozen hqueue
  obtain ⟨hporn, hfatal, hreset, -⟩ := (Chip.quiet_iff _).1 hq
  have hexec : exec .warmReset s = .next (s.after s.chip.warmReset.undemanded) := by
    rw [show exec .warmReset s = s.act _ doWarmReset from rfl, State.act_of_quiet hq rfl, ← State.after_settle,
      Chip.settle_resetReq hfatal, Chip.reset_dropped hreset]
  obtain ⟨hstage, hfault, hcar, hdma, hstate, harm, hreg⟩ := Chip.warmReset_spec hfrozen hqueue
  generalize s.chip.warmReset = d at *
  obtain ⟨hefatal, hereset, hepins, hecar, hedma, hereg⟩ := d.undemanded_spec
  generalize d.undemanded = e at *
  obtain ⟨hregs, -, -, -, -, -, -, hacar, -, -, hapins, -⟩ := afterFrame s e hefatal hereset
  have hadma := s.after_dma hefatal hereset
  refine ⟨_, hexec, ?_⟩
  generalize (s.after e).chip = t at *
  have hplain : ∀ {a}, WarmPlain a → t.reg a = if a ∈ warmKept then s.chip.reg a else regReset a := fun h => by
    rw [hregs _ h.low h.high h.stalls, hereg, hreg _ h.apart h.keeper h.frozen h.rom h.whole]
  have hreset : ∀ {a} (f : Fld), WarmPlain a → a ∉ warmKept → t.fld a f = bits (regReset a).toNat f.lo f.w := fun f h hnot => by
    rw [Chip.fld, Chip.rn, hplain h, if_neg hnot]
  have hkept : ∀ {a}, WarmPlain a → a ∈ warmKept → t.reg a = s.chip.reg a := fun h hmem => by rw [hplain h, if_pos hmem]
  have hshown : ∀ {a} (f : Fld), a ≠ R.HIF_MSIX_PBA_L → a ≠ R.HIF_MSIX_PBA_H → (∀ n, n < 8 → a ≠ R.FUL_STALL n ∧ a ≠ R.FUL_STAT n) →
      t.fld a f = d.fld a f := fun f hl hh hful => Chip.fld_congr ((hregs _ hl hh hful).trans (hereg _)) f
  refine ⟨(hshown _ (by decide) (by decide) (by decide)).trans hstage, ?_, ?_, ?_, ?_, ?_, ?_, ?_, fun k hk => ?_,
    (hshown _ (by decide) (by decide) (by decide)).trans hstate, ?_, ?_, fun p hp => ?_⟩
  · rw [Chip.inSafe, hreset _ (.of_warmRead (by decide)) (by decide)]
    decide
  · rw [hapins, hepins, hfault, hporn]
  · rw [Chip.latched, Chip.flag, hreset (a := R.GLB_PROFILE_EFF) _ (.of_warmRead (by decide)) (by decide)]
    decide
  · rw [Chip.locked, Chip.flag, hreset (a := R.GLB_CFG_LOCK) _ (.of_warmRead (by decide)) (by decide)]
    decide
  · exact hkept (.of_warmRead (by decide)) (by decide)
  · exact hkept (.of_warmRead (by decide)) (by decide)
  · exact hkept (.of_warmRead (by decide)) (by decide)
  · exact hkept (.of_warmRead (keyhash_kept hk).1) (keyhash_kept hk).2
  · rw [hacar, hecar, hcar]
  · rw [hadma, hedma, hdma]
  · rw [Chip.armed, Chip.prtState, hshown _ (by unfold R.PRT_STAT R.HIF_MSIX_PBA_L; omega) (by unfold R.PRT_STAT R.HIF_MSIX_PBA_H; omega)
      (fun n hn => by unfold R.PRT_STAT R.FUL_STALL R.FUL_STAT; omega)]
    exact harm p hp

end Sys2Proof.Machine
end

section
/-! One sample of a sequencer (R107, R123, R126 to R132). -/

namespace Sys2Proof.Machine

/-! ### What the actions of a sample leave of the sequencers -/

/-- No sequencer's level or decision count. -/
def sampleOther (a : Nat) : Prop := ∀ i, i < 16 → a ≠ R.SQ_STAT i ∧ a ≠ R.SQ_DEC_CNT i

theorem sampleOther_of_le {a : Nat} (h : 0x200000 ≤ a) : sampleOther a := fun i hi => by
  rw [R.SQ_STAT, R.SQ_DEC_CNT]
  omega

theorem not_sampleOther {i : Nat} (hi : i < 16) : ¬sampleOther (R.SQ_STAT i) ∧ ¬sampleOther (R.SQ_DEC_CNT i) :=
  ⟨fun h => (h i hi).1 rfl, fun h => (h i hi).2 rfl⟩

/-- The lanes, what is demanded, and how far each sequencer has evaluated are as they were. -/
structure Chip.SampleFrame (c d : Chip) : Prop where
  lanes : d.lanes = c.lanes
  wcopy : d.wcopy = c.wcopy
  fatal : d.fatal = c.fatal
  resetReq : d.resetReq = c.resetReq
  seqs : ∀ n, (d.seq n).next = (c.seq n).next ∧ (d.seq n).lastStamp = (c.seq n).lastStamp ∧ (d.seq n).lastCycle = (c.seq n).lastCycle

/-- The levels and the decision counts of the sequencers are as they were, too. -/
structure Chip.SampleKeeps (c d : Chip) : Prop extends Chip.SampleFrame c d where
  level : ∀ i, i < 16 → d.sqLevel i = c.sqLevel i
  count : ∀ i, i < 16 → d.reg (R.SQ_DEC_CNT i) = c.reg (R.SQ_DEC_CNT i)

section
variable {c d e : Chip}

theorem Chip.SampleFrame.refl (c : Chip) : c.SampleFrame c := ⟨rfl, rfl, rfl, rfl, fun _ => ⟨rfl, rfl, rfl⟩⟩

theorem Chip.SampleFrame.trans (h : c.SampleFrame d) (k : d.SampleFrame e) : c.SampleFrame e :=
  ⟨k.lanes.trans h.lanes, k.wcopy.trans h.wcopy, k.fatal.trans h.fatal, k.resetReq.trans h.resetReq, fun n =>
    ⟨(k.seqs n).1.trans (h.seqs n).1, (k.seqs n).2.1.trans (h.seqs n).2.1, (k.seqs n).2.2.trans (h.seqs n).2.2⟩⟩

theorem Chip.SampleFrame.foldl {α : Type} {f : Chip → α → Chip} (h : ∀ (c : Chip) x, Chip.SampleFrame c (f c x)) (l : List α) (c : Chip) :
    c.SampleFrame (l.foldl f c) := by
  induction l generalizing c with
  | nil => exact .refl c
  | cons x l ih => exact (h c x).trans (ih _)

theorem Chip.SampleFrame.of_seqs (hlanes : d.lanes = c.lanes) (hwcopy : d.wcopy = c.wcopy) (hfatal : d.fatal = c.fatal)
    (hreset : d.resetReq = c.resetReq) (hseqs : d.seqs = c.seqs) : c.SampleFrame d :=
  ⟨hlanes, hwcopy, hfatal, hreset, fun n => by rw [show d.seq n = c.seq n by rw [Chip.seq, hseqs, Chip.seq]]; exact ⟨rfl, rfl, rfl⟩⟩

theorem Chip.EventsOnly.sampleFrame (h : c.EventsOnly d) : c.SampleFrame d := .of_seqs h.lanes h.wcopy h.fatal h.resetReq h.seqs

theorem Chip.SampleKeeps.of_regsIn (h : c.SampleFrame d) (k : c.RegsIn sampleOther d) : c.SampleKeeps d :=
  ⟨h, fun _ hi => Chip.fld_congr (k _ (not_sampleOther hi).1) _, fun _ hi => k _ (not_sampleOther hi).2⟩

theorem Chip.SampleKeeps.of_regs (h : c.SampleFrame d) (k : d.regs = c.regs) : c.SampleKeeps d := .of_regsIn h (.of_regs k)

theorem Chip.SampleKeeps.refl (c : Chip) : c.SampleKeeps c := .of_regs (.refl c) rfl

theorem Chip.SampleKeeps.trans (h : c.SampleKeeps d) (k : d.SampleKeeps e) : c.SampleKeeps e :=
  ⟨h.toSampleFrame.trans k.toSampleFrame, fun i hi => (k.level i hi).trans (h.level i hi), fun i hi => (k.count i hi).trans (h.count i hi)⟩

theorem Chip.SampleKeeps.ite {b : Prop} [Decidable b] (h : c.SampleKeeps d) (k : c.SampleKeeps e) : c.SampleKeeps (if b then d else e) := by
  split
  · exact h
  · exact k

theorem Chip.SampleKeeps.foldl {α : Type} {f : Chip → α → Chip} {l : List α} (h : ∀ c, ∀ x ∈ l, Chip.SampleKeeps c (f c x)) (c : Chip) :
    c.SampleKeeps (l.foldl f c) := by
  induction l generalizing c with
  | nil => exact .refl c
  | cons x l ih => exact (h c x List.mem_cons_self).trans (ih (fun c y hy => h c y (List.mem_cons_of_mem x hy)) _)

theorem Chip.SampleKeeps.setN (c : Chip) {a : Nat} (n : Nat) (h : sampleOther a) : c.SampleKeeps (c.setN a n) :=
  .of_regsIn (Chip.EventsOnly.setN c a n).sampleFrame (.setN c n h)

theorem Chip.SampleKeeps.addCnt (c : Chip) {a : Nat} (n : Nat) (h : sampleOther a) : c.SampleKeeps (c.addCnt a n) := .setN c _ h

theorem Chip.SampleKeeps.setFld (c : Chip) {a : Nat} (f : Fld) (n : Nat) (h : sampleOther a) : c.SampleKeeps (c.setFld a f n) := .setN c _ h

theorem Chip.SampleKeeps.setFlag (c : Chip) {a : Nat} (f : Fld) (b : Bool) (h : sampleOther a) : c.SampleKeeps (c.setFlag a f b) := .setN c _ h

theorem Chip.SampleKeeps.setPair (c : Chip) {a : Nat} (w v : Nat) (h : 0x200000 ≤ a) : c.SampleKeeps (c.setPair w a v) :=
  (Chip.SampleKeeps.setN c _ (sampleOther_of_le h)).trans (.setN _ _ (sampleOther_of_le (h.trans (Nat.le_add_right a 4))))

theorem Chip.SampleKeeps.setTriple (c : Chip) {a : Nat} (v : Nat) (h : sampleOther a) (h4 : sampleOther (a + 4)) (h8 : sampleOther (a + 8)) :
    c.SampleKeeps (c.setTriple a v) := ((Chip.SampleKeeps.setN c _ h).trans (.setN _ _ h4)).trans (.setN _ _ h8)

theorem Chip.SampleKeeps.raise (c : Chip) (e : Nat × Nat) : c.SampleKeeps (c.raise e) :=
  .of_regsIn (Chip.EventsOnly.raise c e).sampleFrame fun a ha => c.reg_raise_ne e fun hmem => ha (sampleOther_of_le (by
    simp only [eventRegs, R.EVT_STAT, R.SCV_REFUSED, R.SCV_LOST, List.mem_cons, List.not_mem_nil, or_false] at hmem
    omega))

theorem Chip.SampleKeeps.record (c : Chip) (t k m : Nat) (l : List Nat) : c.SampleKeeps (c.record t k m l) :=
  .of_regsIn (Chip.EventsOnly.record c t k m l).sampleFrame ((Chip.RegsIn.record c t k m l).mono fun a ha =>
    sampleOther_of_le (by unfold noteReg at ha; omega))

theorem Chip.SampleKeeps.setPart (c : Chip) (p : Nat) (pt : Part) : c.SampleKeeps (c.setPart p pt) := .of_regs (.of_seqs rfl rfl rfl rfl rfl) rfl

theorem Chip.SampleKeeps.putTrs (c : Chip) (t : Trs) : c.SampleKeeps { c with trs := t } := .of_regs (.of_seqs rfl rfl rfl rfl rfl) rfl

theorem Chip.SampleKeeps.putOrt (c : Chip) (o : Ort) : c.SampleKeeps { c with ort := o } := .of_regs (.of_seqs rfl rfl rfl rfl rfl) rfl

theorem Chip.SampleKeeps.setEth (c : Chip) (n : Nat) (x : EthPort) : c.SampleKeeps (c.setEth n x) := .of_regs (.of_seqs rfl rfl rfl rfl rfl) rfl

theorem Chip.SampleKeeps.putHolds (c : Chip) (l : List HoldReq) : c.SampleKeeps { c with seqHolds := l } := .of_regs (.of_seqs rfl rfl rfl rfl rfl) rfl

/-- The span's count of a sequencer is none of what a sample keeps. -/
theorem Chip.SampleKeeps.postLeft (c : Chip) (n k : Nat) : c.SampleKeeps (c.setSeq n { c.seq n with postLeft := k }) := by
  refine .of_regs ⟨rfl, rfl, rfl, rfl, fun m => ?_⟩ rfl
  by_cases hm : m = n
  · rw [hm, Chip.seq_setSeq]
    exact ⟨rfl, rfl, rfl⟩
  · rw [Chip.seq_setSeq_ne c _ hm]
    exact ⟨rfl, rfl, rfl⟩

theorem Chip.SampleKeeps.metaWrite (c : Chip) (k a n : Nat) : c.SampleKeeps (c.metaWrite k a n) := by
  obtain ⟨_, _, _, h⟩ := Chip.QueuesOnly.mcFeed { c with mc := { c.mc with wait := c.mc.wait ++ c.capRuns k a n } }
  have hshape : c.metaWrite k a n = _ := h
  exact .of_regs (.of_seqs (by rw [hshape]) (by rw [hshape]) (by rw [hshape]) (by rw [hshape]) (by rw [hshape])) (c.metaWrite_regs k a n)

theorem Chip.SampleKeeps.metaSync (c : Chip) (p : Nat) (old : Part) : c.SampleKeeps (c.metaSync p old) := by
  unfold Chip.metaSync
  refine Chip.SampleKeeps.trans (.foldl (fun c b _ => ?_) c) (.foldl (fun c k _ => ?_) _)
  · exact .ite (.refl c) (.metaWrite c _ _ _)
  · exact .ite (.refl c) (.metaWrite c _ _ _)

theorem Chip.SampleKeeps.refreshPart (c : Chip) (p : Nat) : c.SampleKeeps (c.refreshPart p) :=
  .of_regsIn (Chip.EventsOnly.refreshPart c p).sampleFrame ((Chip.RegsIn.refreshPart c p).mono fun a ha =>
    sampleOther_of_le (by unfold partReg at ha; omega))

/-! ### The actions (R128 to R132) -/

theorem Chip.SampleKeeps.freezePart (c : Chip) (p t : Nat) : c.SampleKeeps (c.freezePart p t) :=
  have hno : sampleOther (R.PRT_SEG_NO p) := sampleOther_of_le (by rw [R.PRT_SEG_NO]; omega)
  have hstat : sampleOther (R.PRT_STAT p) := sampleOther_of_le (by rw [R.PRT_STAT]; omega)
  (((((Chip.SampleKeeps.addCnt c 1 hno).trans (.setPart _ p _)).trans (.setPart _ p _)).trans (.setFld _ _ 2 hstat)).trans (.refreshPart _ p)).trans
    (.metaSync _ p _)

theorem sampleOther_seq (k : Nat) : sampleOther (R.SQ_FRZ_IGN k) ∧ sampleOther (R.SQ_TRIG_L k) ∧ sampleOther (R.SQ_TRIG_L k + 4) ∧
    sampleOther (R.SQ_TRIG_L k + 8) := by
  simp only [sampleOther, R.SQ_FRZ_IGN, R.SQ_TRIG_L, R.SQ_STAT, R.SQ_DEC_CNT]
  exact ⟨fun i _ => by omega, fun i _ => by omega, fun i _ => by omega, fun i _ => by omega⟩

/-- A flag of SQn_STAT other than the level. -/
theorem Chip.SampleKeeps.statFlag (c : Chip) (n : Nat) (f : Fld) (b : Bool) (hw : f.lo + f.w ≤ 32) (hf : 4 ≤ f.lo) :
    c.SampleKeeps (c.setFlag (R.SQ_STAT n) f b) :=
  ⟨(Chip.EventsOnly.setFld c _ _ _).sampleFrame,
    fun _ _ => c.fld_setFlag_of_apart _ _ f F.SQ_STAT_LEVEL b hw (.inl hf),
    fun i hi => Chip.reg_setFlag_ne c f b (by rw [R.SQ_DEC_CNT, R.SQ_STAT]; omega)⟩

theorem Chip.SampleKeeps.sqFreeze (c : Chip) (n p t : Nat) : c.SampleKeeps (c.sqFreeze n p t).1 := by
  unfold Chip.sqFreeze
  split
  · exact .foldl (fun c k _ => .addCnt c 1 (sampleOther_seq k).1) c
  · have htrig : c.SampleKeeps ((c.members n).foldl (fun c k =>
        ((c.setTriple (R.SQ_TRIG_L k) t).setFlag (R.SQ_STAT k) F.SQ_STAT_POST true).raise (Ev.sqTrig k)) c) := .foldl (fun c k _ => by
      obtain ⟨-, hl, hm, hh⟩ := sampleOther_seq k
      exact ((Chip.SampleKeeps.setTriple c t hl hm hh).trans (.statFlag _ k _ true (by decide) (by decide))).trans (.raise _ _)) c
    exact (htrig.trans (.postLeft _ n _)).trans (.freezePart _ p t)

theorem Chip.SampleKeeps.noticeQueue (c : Chip) (n : Nat) (l : List Nat) (b : Bool) : c.SampleKeeps (c.noticeQueue n l b) :=
  .ite (.setEth c n _) ((Chip.SampleKeeps.addCnt c 1 (sampleOther_of_le (by decide))).trans (.raise _ _))

theorem Chip.SampleKeeps.noticeForm (c : Chip) (i : Nat) (a : NoticeAsk) : c.SampleKeeps (c.noticeForm i a) := by
  have hcount := Chip.SampleKeeps.addCnt c (a := R.ORT_PS_SEQ_TX i) 1 (sampleOther_of_le (by rw [R.ORT_PS_SEQ_TX]; omega))
  unfold Chip.noticeForm
  extract_lets c1 recent ort c2 port frame again c3
  have h3 : c.SampleKeeps c3 := (hcount.trans (.putOrt c1 _)).trans (.noticeQueue c2 _ _ _)
  clear_value c3
  exact .ite (hcount.trans ((Chip.SampleKeeps.addCnt c1 1 (sampleOther_of_le (by decide))).trans (.raise _ _)))
    (.ite h3 (h3.trans (.putOrt c3 _)))

theorem Chip.SampleKeeps.noticeSend (c : Chip) (a : NoticeAsk) : c.SampleKeeps (c.noticeSend a) := .foldl (fun c i _ => .noticeForm c i a) c

theorem Chip.SampleKeeps.sqRequests (c : Chip) (n p b t : Nat) : c.SampleKeeps (c.sqRequests n p b t) := by
  unfold Chip.sqRequests
  extract_lets c1 st part c2 w c3
  have h1 : c.SampleKeeps c1 := .ite (.setPart c p _) (.refl c)
  have h2 : c1.SampleKeeps c2 := .ite (.setPart c1 p _) (.refl c1)
  have h3 : c2.SampleKeeps c3 := .ite (.putHolds c2 _) (.refl c2)
  have h := (h1.trans h2).trans h3
  clear_value c3
  exact .ite (h.trans (.noticeSend c3 _)) h

theorem Chip.SampleKeeps.sqPulses (c : Chip) (n b : Nat) (e : Eval) : c.SampleKeeps (c.sqPulses n b e) := by
  unfold Chip.sqPulses
  extract_lets a c1
  have h1 : c.SampleKeeps c1 := .ite (.putTrs c _) (.refl c)
  have htrig : ∀ (k start w : Nat), c1.SampleKeeps (c1.trigPulse k start w) := fun k start w => .ite (.putTrs c1 _) (.refl c1)
  clear_value c1
  exact .ite (h1.trans (htrig _ _ _)) h1

theorem Chip.SampleKeeps.sqSnapshots (c : Chip) (n p b t : Nat) (froze : Bool) : c.SampleKeeps (c.sqSnapshots n p b t froze) := by
  unfold Chip.sqSnapshots
  extract_lets l c1 k
  have h1 : c.SampleKeeps c1 := .ite (.record c _ _ _ _) (.refl c)
  clear_value c1
  exact .ite ((h1.trans (.setPart c1 p _)).trans (.record _ _ _ _ _)) h1

theorem Chip.SampleKeeps.storeQNote (c : Chip) (n p : Nat) : c.SampleKeeps (c.storeQNote n p) :=
  .foldl (fun c i _ => .statFlag c i _ _ (by decide) (by decide)) c

theorem Chip.SampleKeeps.spanCount (c : Chip) (n p t : Nat) : c.SampleKeeps (c.spanCount n p t) := by
  have hleft := Chip.SampleKeeps.postLeft c n ((c.seq n).postLeft - 1)
  unfold Chip.spanCount
  extract_lets left seq c1
  exact .ite (.ite (hleft.trans (.setPart c1 p _)) hleft) (.refl c)

theorem Chip.SampleKeeps.advanceRes (c0 c : Chip) (sq : Nat) (ops : List OpSlot) (e : Eval) : c.SampleKeeps (Chip.advanceRes c0 c sq ops e) := by
  have hct : ∀ n, 0x200000 ≤ R.TRS_CT_VAL_L n := fun n => by rw [R.TRS_CT_VAL_L]; omega
  have htm : ∀ n, 0x200000 ≤ R.TRS_TM_VAL_L n ∧ 0x200000 ≤ R.TRS_TM_CFG n := fun n => by rw [R.TRS_TM_VAL_L, R.TRS_TM_CFG]; omega
  unfold Chip.advanceRes
  refine Chip.SampleKeeps.trans (.foldl (fun c n _ => .ite ?_ (.refl c)) c) (.foldl (fun c n _ => .ite ?_ (.refl c)) _)
  · extract_lets o ev v trs d1 d2
    have h2 : c.SampleKeeps d2 := (Chip.SampleKeeps.putTrs c _).trans (.setPair d1 16 v (hct n))
    clear_value d2
    exact .ite ((h2.trans (.putTrs d2 _)).trans (.raise _ _)) h2
  · exact (Chip.SampleKeeps.setFlag c _ _ (sampleOther_of_le (htm n).2)).trans (.setPair _ 16 _ (htm n).1)

end

/-! ### The members' counts and levels -/

theorem Chip.count_foldl {l : List Nat} (hl : l.Nodup) (c : Chip) {i : Nat} (hi : i ∈ l) :
    (l.foldl (fun c k => c.addCnt (R.SQ_DEC_CNT k) 1) c).reg (R.SQ_DEC_CNT i) = c.reg (R.SQ_DEC_CNT i) + 1 := by
  have hapart : ∀ {j k : Nat}, j ≠ k → R.SQ_DEC_CNT j ≠ R.SQ_DEC_CNT k := fun h => by rw [R.SQ_DEC_CNT, R.SQ_DEC_CNT]; omega
  induction l generalizing c with
  | nil => exact absurd hi List.not_mem_nil
  | cons k l ih =>
    obtain ⟨hk, hl⟩ := List.nodup_cons.1 hl
    rw [List.foldl_cons]
    rcases List.mem_cons.1 hi with rfl | hmem
    · have hrest : ∀ d : Chip, (l.foldl (fun c k => c.addCnt (R.SQ_DEC_CNT k) 1) d).reg (R.SQ_DEC_CNT i) = d.reg (R.SQ_DEC_CNT i) := fun d =>
        Chip.reg_foldl (fun d j hj => d.reg_addCnt_ne 1 (hapart (j := i) (k := j) fun h => hk (h.symm ▸ hj))) d
      rw [hrest, Chip.reg_addCnt_one]
    · rw [ih hl _ hmem, Chip.reg_addCnt_ne _ _ (hapart (j := i) (k := k) fun h => hk (h ▸ hmem))]

/-- Every member of the list at level `v`. -/
def Chip.levelsSet (c : Chip) (l : List Nat) (v : Nat) : Chip := l.foldl (fun c k => c.setFld (R.SQ_STAT k) F.SQ_STAT_LEVEL v) c

theorem Chip.sqLevel_levelsSet (c : Chip) {l : List Nat} {v : Nat} (hv : v < 16) {i : Nat} (hi : i ∈ l) : (c.levelsSet l v).sqLevel i = v := by
  have hset : ∀ (d : Chip) (k : Nat), R.SQ_STAT i = R.SQ_STAT k → (d.setFld (R.SQ_STAT k) F.SQ_STAT_LEVEL v).sqLevel i = v := fun d k hk => by
    rw [Chip.sqLevel, hk, Chip.fld_setFld _ _ F.SQ_STAT_LEVEL _ (by decide)]
    exact Nat.mod_eq_of_lt hv
  have hkeep : ∀ (l : List Nat) (d : Chip), d.sqLevel i = v → (d.levelsSet l v).sqLevel i = v := by
    intro l
    induction l with
    | nil => exact fun _ h => h
    | cons k l ih =>
      refine fun d h => ih _ ?_
      by_cases hk : R.SQ_STAT i = R.SQ_STAT k
      · exact hset d k hk
      · exact (Chip.fld_congr (d.reg_setFld_ne _ _ hk) _).trans h
  induction l generalizing c with
  | nil => exact absurd hi List.not_mem_nil
  | cons k l ih =>
    rcases List.mem_cons.1 hi with rfl | hmem
    · exact hkeep l _ (hset c i rfl)
    · exact ih _ hmem

theorem Chip.SampleFrame.levelsSet (c : Chip) (l : List Nat) (v : Nat) : c.SampleFrame (c.levelsSet l v) :=
  .foldl (fun c _ => (Chip.EventsOnly.setFld c _ _ _).sampleFrame) l c

theorem Chip.count_levelsSet (c : Chip) (l : List Nat) (v i : Nat) : (c.levelsSet l v).reg (R.SQ_DEC_CNT i) = c.reg (R.SQ_DEC_CNT i) :=
  Chip.reg_foldl (fun d j _ => d.reg_setFld_ne _ _ (by rw [R.SQ_DEC_CNT, R.SQ_STAT]; omega)) c

theorem Chip.wfld_congr {c d : Chip} (h : d.wcopy = c.wcopy) (a : Nat) (f : Fld) : d.wfld a f = c.wfld a f := by
  rw [Chip.wfld, Chip.wreg, h, Chip.wfld, Chip.wreg]

/-- The next level is the working copy's, whatever level the members before show. -/
theorem Chip.nextLevel_congr {c d : Chip} (h : d.wcopy = c.wcopy) (n m b : Nat) : d.nextLevel n m b = c.nextLevel n m b := by
  rw [Chip.nextLevel, Chip.nextLevel, Chip.actOn, Chip.actOn, Chip.act, Chip.act, Chip.act, Chip.act, Chip.wfld_congr h, Chip.wfld_congr h]

theorem Chip.foldl_nextLevel (c : Chip) (n m b : Nat) (l : List Nat) :
    l.foldl (fun c i => c.setFld (R.SQ_STAT i) F.SQ_STAT_LEVEL (c.nextLevel n m b)) c = c.levelsSet l (c.nextLevel n m b) := by
  have hfold : ∀ (l : List Nat) (d : Chip), d.wcopy = c.wcopy →
      l.foldl (fun c i => c.setFld (R.SQ_STAT i) F.SQ_STAT_LEVEL (c.nextLevel n m b)) d = d.levelsSet l (c.nextLevel n m b) := by
    intro l
    induction l with
    | nil => exact fun _ _ => rfl
    | cons k l ih =>
      intro d hd
      rw [List.foldl_cons, ih _ ((d.setFld_wcopy _ _ _).trans hd), Chip.nextLevel_congr hd]
      rfl
  exact hfold l c rfl

theorem Chip.nodup_members (c : Chip) (n : Nat) : (c.members n).Nodup := by
  unfold Chip.members
  split
  · exact List.nodup_cons.2 ⟨by rw [List.mem_singleton]; omega, List.nodup_singleton _⟩
  · exact List.nodup_singleton n

theorem Chip.nextLevel_lt {c : Chip} {n m b : Nat} (hm : m < 16) : c.nextLevel n m b < 16 := by
  unfold Chip.nextLevel
  split
  · exact bits_lt _ _ 4
  · exact hm

/-- The actions of a branch: each member counts the decision and goes to the next level. -/
theorem Chip.sqActions_spec (c : Chip) {n : Nat} (p : Nat) {m : Nat} (hm : m < 16) (k : Nat) (e : Eval) :
    c.SampleFrame (c.sqActions n p m k e).1 ∧ ∀ i ∈ c.members n, i < 16 → (c.sqActions n p m k e).1.sqLevel i = c.nextLevel n m (brIdx m k) ∧
      (c.sqActions n p m k e).1.reg (R.SQ_DEC_CNT i) = c.reg (R.SQ_DEC_CNT i) + 1 := by
  unfold Chip.sqActions
  extract_lets b t c1 f c2
  have h1 : c.SampleFrame c1 := .foldl (fun c k => (Chip.EventsOnly.addCnt c _ 1).sampleFrame) _ c
  have hcount : ∀ i ∈ c.members n, c1.reg (R.SQ_DEC_CNT i) = c.reg (R.SQ_DEC_CNT i) + 1 := fun i hi => Chip.count_foldl (c.nodup_members n) c hi
  clear_value c1
  have hf : c1.SampleKeeps f.1 := by
    change c1.SampleKeeps (if c.actOn n b F.SQ_B_ACT_FREEZE then c1.sqFreeze n p t else (c1, false)).1
    split
    · exact .sqFreeze c1 n p t
    · exact .refl c1
  clear_value f
  have h2 : c1.SampleKeeps c2 := (hf.trans (.sqRequests f.1 n p b t)).trans (.sqPulses _ n b e)
  clear_value c2
  have hframe := h1.trans h2.toSampleFrame
  rw [Chip.foldl_nextLevel, Chip.nextLevel_congr hframe.wcopy]
  exact ⟨hframe.trans (.levelsSet c2 _ _), fun i hi hi16 => ⟨c2.sqLevel_levelsSet (Chip.nextLevel_lt hm) hi,
    (c2.count_levelsSet _ _ i).trans ((h2.count i hi16).trans (hcount i hi))⟩⟩

/-- A sample with no true branch. -/
theorem Chip.sqSample_none {c : Chip} {n : Nat} (p : Nat) {e : Eval} (h : c.taken n (c.sqLevel n) e = none) : c.SampleKeeps (c.sqSample n p e) := by
  unfold Chip.sqSample
  dsimp only
  rw [h]
  exact ((Chip.SampleKeeps.advanceRes c c n [] e).trans (.spanCount _ n p _)).trans (.storeQNote _ n p)

/-- A sample whose first true branch is taken. -/
theorem Chip.sqSample_some {c : Chip} {n : Nat} (p : Nat) {e : Eval} {k : Nat} (h : c.taken n (c.sqLevel n) e = some k) :
    c.SampleFrame (c.sqSample n p e) ∧ ∀ i ∈ c.members n, i < 16 →
      (c.sqSample n p e).sqLevel i = c.nextLevel n (c.sqLevel n) (brIdx (c.sqLevel n) k) ∧
      (c.sqSample n p e).reg (R.SQ_DEC_CNT i) = c.reg (R.SQ_DEC_CNT i) + 1 := by
  obtain ⟨hframe, hmembers⟩ := c.sqActions_spec (n := n) p (bits_lt _ _ 4 : c.sqLevel n < 16) k e
  have hkeeps : (c.sqActions n p (c.sqLevel n) k e).1.SampleKeeps (c.sqSample n p e) := by
    unfold Chip.sqSample
    dsimp only
    rw [h]
    exact (((Chip.SampleKeeps.advanceRes c _ n _ e).trans (.storeQNote _ n p)).trans (.sqSnapshots _ n p _ _ _)).trans (.spanCount _ n p _)
  exact ⟨hframe.trans hkeeps.toSampleFrame, fun i hi hi16 => ⟨(hkeeps.level i hi16).trans (hmembers i hi hi16).1,
    (hkeeps.count i hi16).trans (hmembers i hi hi16).2⟩⟩

/-! ### The sample that is due -/

/-- The engine with the windows, the level pins and the sequencers' own states put. -/
def Chip.takingSample (c : Chip) (w : List (Nat × TrigWin)) (i : Nat) (q : List (Nat × Seq)) : Chip :=
  { c with trs := { c.trs with wins := w }, pins := { c.pins with trigIn := i }, seqs := q }

theorem Chip.term_takingSample (c : Chip) (w : List (Nat × TrigWin)) (i : Nat) (q : List (Nat × Seq)) (k : Nat) (e : Eval) :
    (c.takingSample w i q).term k e = c.term k e := rfl

theorem Chip.taken_takingSample (c : Chip) (w : List (Nat × TrigWin)) (i : Nat) (q : List (Nat × Seq)) (n m : Nat) (e : Eval) :
    (c.takingSample w i q).taken n m e = c.taken n m e := rfl

/-- With nothing of its groups to settle a partition stays as it is. -/
theorem Chip.settlePart_of_empty {c : Chip} (h : ∀ g, g < 8 → (c.lane g).pipe = []) (p : Nat) : c.settlePart p = c := by
  have hfold : ∀ l : List Nat, (∀ g ∈ l, g < 8) → l.foldl (fun c g => c.laneSettle g) c = c := by
    intro l
    induction l with
    | nil => exact fun _ => rfl
    | cons g l ih =>
      intro hl
      rw [List.foldl_cons, Chip.laneSettle_of_empty (h g (hl g List.mem_cons_self)), ih fun k hk => hl k (List.mem_cons_of_mem g hk)]
  exact hfold _ fun g hg => (mem_maskList.1 hg).1

/-- What the sample that is due finds: nothing waits, and no window is taken for its cycle. -/
structure Chip.SampleDue (c : Chip) (p sq : Nat) (x : Smp) : Prop where
  bound : (List.range 16).find? (fun y => decide (c.boundSeq y = some sq)) = some p
  runs : (c.recording p && c.seqRuns sq p) = true
  next : c.nextSample sq p = some x
  hist : (c.lane (c.sqDom sq)).hist.find? (fun y => decide (y.ix = x.ix)) = some x
  reached : x.cyc * fabricCycle ≤ c.epc.line
  ofs : bit c.epc.ofsWait (c.sqDom sq) = false
  pipes : ∀ g, g < 8 → (c.lane g).pipe = []
  presets : c.trs.presets = []
  wins : c.trs.wins.find? (fun y => decide (y.1 = x.cyc)) = none

theorem Chip.waitLine_of_le {c : Chip} {t : Nat} (h : t ≤ c.epc.line) : c.waitLine t = c := if_neg (Nat.not_lt.2 h)

theorem Chip.boundary_of_ofs {c : Chip} {g : Nat} (h : bit c.epc.ofsWait g = false) (x : Smp) : c.boundary g x = (c, x) :=
  if_neg (by rw [h, Bool.and_false, Bool.false_and]; exact Bool.false_ne_true)

theorem Chip.applyPresets_of_nil {c : Chip} (h : c.trs.presets = []) (sq : Nat) : c.applyPresets sq = c := by
  unfold Chip.applyPresets
  rw [h]
  rfl

/-- The engine with the window of an evaluation cycle taken. -/
def Chip.windowTaken (c : Chip) (k : Nat) (w : TrigWin) : Chip := c.takingSample (((k, w) :: c.trs.wins).take 64) w.last c.seqs

theorem Chip.evalWin_of_none {c : Chip} {k : Nat} (h : c.trs.wins.find? (fun y => decide (y.1 = k)) = none) (w : TrigWin) :
    c.evalWin k w = (c.windowTaken k w, w) := by
  unfold Chip.evalWin
  rw [h]
  rfl

/-- The sample has been taken as the sequencer's latest. -/
def Chip.sampleTaken (c : Chip) (sq : Nat) (x : Smp) : Chip :=
  c.setSeq sq { c.seq sq with next := x.ix + 1, lastCycle := some x.cyc, lastStamp := x.stamp, upTo := some x.inst }

/-- The engine as a sample's conditions are judged. -/
def Chip.judging (c : Chip) (sq : Nat) (x : Smp) (w : TrigWin) : Chip :=
  ((c.evaluatedTo sq (x.inst - 1)).windowTaken x.cyc w).sampleTaken sq x

theorem Chip.judging_eq (c : Chip) (sq : Nat) (x : Smp) (w : TrigWin) : ∃ v i q, c.judging sq x w = c.takingSample v i q := ⟨_, _, _, rfl⟩

theorem Chip.seq_judging (c : Chip) (sq : Nat) (x : Smp) (w : TrigWin) : ((c.judging sq x w).seq sq).next = x.ix + 1 ∧
    ((c.judging sq x w).seq sq).lastStamp = x.stamp ∧ ((c.judging sq x w).seq sq).lastCycle = some x.cyc := by
  rw [Chip.judging, Chip.sampleTaken, Chip.seq_setSeq]
  exact ⟨rfl, rfl, rfl⟩

/-- The due sample is judged, with no mismatch. -/
theorem doSampleEvaluated_due {c : Chip} {p sq : Nat} {x : Smp} (h : c.SampleDue p sq x) (l r f : Nat) {odd : Option OddSample}
    (hodd : c.steady = true → odd = none) : doSampleEvaluated sq l r f odd c =
      ((c.judging sq x ⟨l, r, f⟩).sqSample sq p ⟨x, c.sqDom sq, ⟨l, r, f⟩⟩).settlePart p := by
  have hsettle : (c.evaluatedTo sq (x.inst - 1)).settlePart p = c.evaluatedTo sq (x.inst - 1) := Chip.settlePart_of_empty (c := c.evaluatedTo sq (x.inst - 1)) h.pipes p
  have hboundary : (c.evaluatedTo sq (x.inst - 1)).boundary (c.sqDom sq) x = (c.evaluatedTo sq (x.inst - 1), x) :=
    Chip.boundary_of_ofs (c := c.evaluatedTo sq (x.inst - 1)) h.ofs x
  have hhist : ((c.evaluatedTo sq (x.inst - 1)).lane (c.sqDom sq)).hist.find? (fun y => decide (y.ix = x.ix)) = some x := h.hist
  have hwin := Chip.evalWin_of_none (c := c.evaluatedTo sq (x.inst - 1)) h.wins ⟨l, r, f⟩
  have hpresets : ((c.evaluatedTo sq (x.inst - 1)).windowTaken x.cyc ⟨l, r, f⟩).applyPresets sq =
      (c.evaluatedTo sq (x.inst - 1)).windowTaken x.cyc ⟨l, r, f⟩ :=
    Chip.applyPresets_of_nil (c := (c.evaluatedTo sq (x.inst - 1)).windowTaken x.cyc ⟨l, r, f⟩) h.presets sq
  have hnone : ∀ g : OddSample → Bool, (c.steady && odd.any g) = false := fun g => by
    cases hs : c.steady
    · rfl
    · rw [hodd hs]
      rfl
  have hjudge : ((c.evaluatedTo sq (x.inst - 1)).windowTaken x.cyc ⟨l, r, f⟩).sampleTaken sq x = c.judging sq x ⟨l, r, f⟩ := rfl
  have hsteady : (c.judging sq x ⟨l, r, f⟩).steady = c.steady := rfl
  unfold doSampleEvaluated
  rw [h.bound]
  dsimp only
  rw [if_pos h.runs, h.next]
  dsimp only
  rw [Chip.waitLine_of_le h.reached, hsettle, hhist, Option.getD_some, hboundary]
  dsimp only
  rw [hwin]
  dsimp only
  rw [hpresets, ite_self]
  rw [← Chip.sampleTaken, hjudge, hsteady, if_neg (by rw [hnone]; exact Bool.false_ne_true)]

/-- Settles O29: the due sample counts as evaluated, and the branch taken, if any, gives the members' level and count. -/
theorem sequencerTakesABranch : Obligations.SequencerTakesABranch := by
  intro s p sq l r f odd x hwork hp hsq hsteady hbound hrec hrun hend hnext hhist hreached hofs hpipes hpresets hwins hodd
  dsimp only
  have hdue : s.chip.SampleDue p sq x := ⟨hbound, by rw [hrec, Chip.seqRuns, hrun, hend]; rfl, hnext, hhist, hreached, hofs, hpipes, hpresets, hwins⟩
  have hexec := State.act_of_atWork (i := .sampleEvaluated sq l r f odd) hwork (decide_eq_true hsq) (doSampleEvaluated sq l r f odd)
  rw [doSampleEvaluated_due hdue l r f hodd] at hexec
  obtain ⟨hnextS, hstampS, hcycleS⟩ := s.chip.seq_judging sq x ⟨l, r, f⟩
  obtain ⟨w, i, q, hjudging⟩ := s.chip.judging_eq sq x ⟨l, r, f⟩
  rw [hjudging] at hexec hnextS hstampS hcycleS
  have hmember : ∀ j ∈ s.chip.members sq, j < 16 := fun j hj => by
    unfold Chip.members at hj
    split at hj
    next hs =>
      have := hsteady hs
      rcases List.mem_cons.1 hj with rfl | hj
      · exact hsq
      · rw [List.mem_singleton.1 hj]
        omega
    next => exact List.mem_singleton.1 hj ▸ hsq
  have hcongr : ∀ k, (s.chip.takingSample w i q).taken sq ((s.chip.takingSample w i q).sqLevel sq) ⟨x, s.chip.sqDom sq, ⟨l, r, f⟩⟩ = k ↔
      s.chip.taken sq (s.chip.sqLevel sq) ⟨x, s.chip.sqDom sq, ⟨l, r, f⟩⟩ = k := fun k => Iff.rfl
  have hpipes' : ∀ g, g < 8 → ((s.chip.takingSample w i q).lane g).pipe = [] := hpipes
  have hfatal : (s.chip.takingSample w i q).fatal = none := Chip.fatal_of_atWork hwork
  have hreset : (s.chip.takingSample w i q).resetReq = false := Chip.resetReq_of_atWork hwork
  have hlevel : (s.chip.takingSample w i q).sqLevel sq = s.chip.sqLevel sq := rfl
  have hcount : ∀ j, (s.chip.takingSample w i q).reg (R.SQ_DEC_CNT j) = s.chip.reg (R.SQ_DEC_CNT j) := fun _ => rfl
  have hmembers : (s.chip.takingSample w i q).members sq = s.chip.members sq := rfl
  have hnextLevel : ∀ b, (s.chip.takingSample w i q).nextLevel sq (s.chip.sqLevel sq) b = s.chip.nextLevel sq (s.chip.sqLevel sq) b := fun _ => rfl
  generalize s.chip.takingSample w i q = c at *
  have hsettled : ∀ {d : Chip}, c.SampleFrame d → d.settlePart p = d := fun {d} hd =>
    Chip.settlePart_of_empty (fun g hg => by rw [Chip.lane_congr hd.lanes]; exact hpipes' g hg) p
  refine ⟨fun hnone => ?_, fun k hsome => ?_⟩
  · have hkeeps := Chip.sqSample_none p ((hcongr none).2 hnone)
    rw [hsettled hkeeps.toSampleFrame] at hexec
    obtain ⟨hn, hst, hcy⟩ := hkeeps.seqs sq
    exact .of_exec hexec (hkeeps.fatal.trans hfatal) (hkeeps.resetReq.trans hreset) ⟨(hkeeps.level sq hsq).trans hlevel,
      (hkeeps.count sq hsq).trans (hcount sq), hn.trans hnextS, hst.trans hstampS, hcy.trans hcycleS⟩
  · obtain ⟨hframe, htaken⟩ := Chip.sqSample_some p ((hcongr (some k)).2 hsome)
    rw [hsettled hframe] at hexec
    refine .of_exec hexec (hframe.fatal.trans hfatal) (hframe.resetReq.trans hreset) ⟨(hframe.seqs sq).1.trans hnextS, fun j hj => ?_⟩
    obtain ⟨hlev, hcnt⟩ := htaken j (hmembers ▸ hj) (hmember j hj)
    rw [hlevel, hnextLevel] at hlev
    exact ⟨hlev, hcnt.trans (by rw [hcount])⟩

end Sys2Proof.Machine
end

section
/-! The work on one lane group: its samples taken, evaluated by the detectors and stored (R67 to R92, R102 to R106). -/

namespace Sys2Proof.Machine

/-! ### What the work on a lane group leaves -/

/-- `d` is `c` but for registers, events, the Scrivener, and lane group `g`. -/
structure Chip.LaneWork (g : Nat) (c d : Chip) : Prop where
  shape : ∃ r v q m, d = { c with regs := r, evt := v, scv := q, lanes := m }
  others : ∀ h, h ≠ g → d.lane h = c.lane h

section
variable {g : Nat} {c d e : Chip}

theorem Chip.LaneWork.refl (g : Nat) (c : Chip) : c.LaneWork g c := ⟨⟨_, _, _, _, rfl⟩, fun _ _ => rfl⟩

theorem Chip.LaneWork.trans (h : Chip.LaneWork g c d) (k : Chip.LaneWork g d e) : Chip.LaneWork g c e := by
  obtain ⟨⟨_, _, _, _, hd⟩, hothers⟩ := h
  obtain ⟨⟨_, _, _, _, he⟩, kothers⟩ := k
  exact ⟨⟨_, _, _, _, by rw [he, hd]⟩, fun n hn => (kothers n hn).trans (hothers n hn)⟩

theorem Chip.LaneWork.of_events (g : Nat) (h : c.EventsOnly d) : c.LaneWork g d := by
  have hlanes := h.lanes
  obtain ⟨_, _, _, hd⟩ := h
  exact ⟨⟨_, _, _, c.lanes, by rw [hd]⟩, fun n _ => Chip.lane_congr hlanes n⟩

theorem Chip.lane_setLane_ne (c : Chip) {g h : Nat} (l : Lane) (hne : h ≠ g) : (c.setLane g l).lane h = c.lane h := SMap.get_put_ne _ _ _ hne

theorem Chip.LaneWork.setLane (c : Chip) (g : Nat) (l : Lane) : c.LaneWork g (c.setLane g l) :=
  ⟨⟨_, _, _, _, rfl⟩, fun _ hn => c.lane_setLane_ne l hn⟩

theorem Chip.LaneWork.putLane (c : Chip) (g : Nat) (l : Lane) : c.LaneWork g (c.putLane g l) :=
  (Chip.LaneWork.setLane c g l).trans (.of_events g (.refreshStage _ g))

theorem Chip.LaneWork.demands (h : Chip.LaneWork g c d) : d.fatal = c.fatal ∧ d.resetReq = c.resetReq := by
  obtain ⟨_, _, _, _, rfl⟩ := h.shape
  exact ⟨rfl, rfl⟩

theorem Chip.LaneWork.keepsMem (h : Chip.LaneWork g c d) : c.keepsMem d := by
  obtain ⟨_, _, _, _, rfl⟩ := h.shape
  exact Chip.keepsMem_of_eq rfl rfl

theorem Chip.LaneWork.parts (h : Chip.LaneWork g c d) : d.parts = c.parts := by
  obtain ⟨_, _, _, _, rfl⟩ := h.shape
  rfl

theorem Chip.LaneWork.epc (h : Chip.LaneWork g c d) : d.epc = c.epc := by
  obtain ⟨_, _, _, _, rfl⟩ := h.shape
  rfl

theorem Chip.LaneWork.trs (h : Chip.LaneWork g c d) : d.trs = c.trs := by
  obtain ⟨_, _, _, _, rfl⟩ := h.shape
  rfl

theorem Chip.LaneWork.cycle (h : Chip.LaneWork g c d) : d.cycle = c.cycle := by
  obtain ⟨_, _, _, _, rfl⟩ := h.shape
  rfl

theorem Chip.LaneWork.lanePq (h : Chip.LaneWork g c d) (k : Nat) : d.lanePq k = c.lanePq k := by
  obtain ⟨_, _, _, _, rfl⟩ := h.shape
  rfl

theorem Chip.LaneWork.laneMode (h : Chip.LaneWork g c d) (k : Nat) : d.laneMode k = c.laneMode k := by
  obtain ⟨_, _, _, _, rfl⟩ := h.shape
  rfl

theorem Chip.LaneWork.prtOwns (h : Chip.LaneWork g c d) (p k : Nat) : d.prtOwns p k = c.prtOwns p k := by
  obtain ⟨_, _, _, _, rfl⟩ := h.shape
  rfl

theorem Chip.LaneWork.boundSeq (h : Chip.LaneWork g c d) (p : Nat) : d.boundSeq p = c.boundSeq p := by
  rw [Chip.boundSeq, Chip.part_congr h.parts, Chip.boundSeq]

/-- A group is recorded by the partition that recorded it, where the partitions' states read as they did. -/
theorem Chip.LaneWork.recOwner (h : Chip.LaneWork g c d) (hstat : ∀ p, p < 16 → d.reg (R.PRT_STAT p) = c.reg (R.PRT_STAT p)) (k : Nat) :
    d.recOwner k = c.recOwner k := by
  have hrec : ∀ p ∈ List.range 16, (d.recording p && d.prtOwns p k) = (c.recording p && c.prtOwns p k) := fun p hp => by
    have hstate : d.prtState p = c.prtState p := Chip.fld_congr (hstat p (List.mem_range.1 hp)) _
    rw [Chip.recording, hstate, h.prtOwns, Chip.recording]
  unfold Chip.recOwner
  exact List.find?_congr hrec

/-! ### The detectors take in an interval (R90, R102 to R106) -/

/-- The registers that a group's detectors may change. -/
def detRegs (g : Nat) : List Nat :=
  [R.TRS_DETCAP_CH g, R.TRS_DETCAP_L g, R.TRS_DETCAP_L g + 4, R.TRS_DETCAP_L g + 8] ++ eventRegs (Ev.detHit g)

theorem Chip.keepsRegs_trans {l : List Nat} (h : c.keepsRegs d l) (k : d.keepsRegs e l) : c.keepsRegs e l := fun a ha => (k a ha).trans (h a ha)

theorem Chip.detCapture_spec (c : Chip) (g : Nat) (evs : List (Nat × Nat)) : c.EventsOnly (c.detCapture g evs) ∧ c.keepsRegs (c.detCapture g evs) (detRegs g) := by
  have hsame : c.EventsOnly c ∧ c.keepsRegs c (detRegs g) := ⟨.refl c, fun _ _ => rfl⟩
  unfold Chip.detCapture
  split
  · exact hsame
  next k st _ =>
    split
    · exact hsame
    · refine ⟨(((Chip.EventsOnly.setFld c _ _ _).trans (.setTriple _ _ _)).trans (.setFld _ _ _ _)).trans (.raise _ _), fun a ha => ?_⟩
      simp only [detRegs, List.mem_append, List.mem_cons, List.not_mem_nil, or_false, not_or] at ha
      obtain ⟨⟨hch, hl, hm, hh⟩, hevent⟩ := ha
      rw [Chip.reg_raise_ne _ _ hevent, Chip.reg_setFlag_ne _ _ _ hch]
      exact ((Chip.reg_setN_ne _ _ hh).trans (Chip.reg_setN_ne _ _ hm)).trans ((Chip.reg_setN_ne _ _ hl).trans (c.reg_setFld_ne _ _ hch))

/-- A lane with another state of its detectors, one interval on. -/
def Lane.detected (l : Lane) (next : Nat) (win : List (Nat × Nat)) (cap : List (Nat × Nat)) (edges : List (Nat × Nat)) (last known : Nat) : Lane :=
  { l with detNext := next, detWin := win, capNext := cap, edges := edges, last := last, known := known, count := l.count + 1 }

theorem Chip.detect_spec (c : Chip) (g time win : Nat) (ws : List Nat) : c.LaneWork g (c.detect g time win ws).1 ∧
    c.keepsRegs (c.detect g time win ws).1 (detRegs g) ∧ ∃ a b k m w n, (c.detect g time win ws).1.lane g = (c.lane g).detected a b k m w n := by
  unfold Chip.detect
  extract_lets l w0 es base div evs now later caps mask det c1
  obtain ⟨hevents, hregs⟩ := c.detCapture_spec g (l.capNext ++ caps now)
  have hregs1 : c.keepsRegs c1 (detRegs g) := hregs
  have hwork : c.LaneWork g c1 := .of_events g hevents
  clear_value c1
  exact ⟨hwork.trans (.setLane c1 g _), hregs1, _, _, _, _, _, _, c1.lane_setLane g _⟩

/-! ### What is taken where no partition records (R468) -/

/-- A lane with another pipeline. -/
def Lane.piped (l : Lane) (q : List Flow) : Lane := { l with pipe := q }

/-- Where no partition records the group, what waits only leaves its pipeline. -/
theorem Chip.laneSettle_of_unrecorded (c : Chip) (h : c.recOwner g = none) : c.LaneWork g (c.laneSettle g) ∧ (c.laneSettle g).regs = c.regs ∧
    ∃ q, (c.laneSettle g).lane g = (c.lane g).piped q := by
  have hgo : ∀ (n : Nat) (c : Chip), c.recOwner g = none → c.LaneWork g (c.settleGo g n) ∧ (c.settleGo g n).regs = c.regs ∧
      ∃ q, (c.settleGo g n).lane g = (c.lane g).piped q := by
    intro n
    induction n with
    | zero => exact fun c _ => ⟨.refl g c, rfl, _, rfl⟩
    | succ n ih =>
      intro c h
      unfold Chip.settleGo
      split
      · exact ⟨.refl g c, rfl, _, rfl⟩
      next f rest _ =>
        split
        · have howner : (c.setLane g { c.lane g with pipe := rest }).recOwner g = none := h
          have htake : (c.setLane g { c.lane g with pipe := rest }).takeFlow g f = c.setLane g ((c.lane g).piped rest) := by
            unfold Chip.takeFlow
            rw [howner]
            rfl
          rw [htake]
          obtain ⟨hwork, hregs, q, hlane⟩ := ih (c.setLane g ((c.lane g).piped rest)) h
          rw [c.lane_setLane] at hlane
          exact ⟨(Chip.LaneWork.setLane c g _).trans hwork, hregs, q, hlane⟩
        · exact ⟨.refl g c, rfl, _, rfl⟩
  exact hgo _ c h

/-! ### An interval delivered (R74, R79) -/

/-- The engine whose receivers and detectors have taken in an interval with the voltages `v` and the lines `lines` after it. -/
structure Chip.IntervalTaken (c : Chip) (g : Nat) (v : List (Nat × Int)) (e : Chip) : Prop where
  work : c.LaneWork g e
  regs : c.keepsRegs e (detRegs g)
  lane : ∃ line a b k m w n, e.lane g =
    ({ c.lane g with volts := v, line := line, tap := (c.lane g).tap + 64 * (c.laneDiv g + 1) } : Lane).detected a b k m w n

theorem prtStat_not_mem_detRegs {g p : Nat} (hg : g < 8) (hp : p < 16) : R.PRT_STAT p ∉ detRegs g := by
  simp only [detRegs, eventRegs, Ev.detHit, List.mem_append, List.mem_cons, List.not_mem_nil, or_false, R.PRT_STAT, R.TRS_DETCAP_CH,
    R.TRS_DETCAP_L, R.EVT_STAT, R.SCV_REFUSED, R.SCV_LOST]
  omega

theorem Chip.IntervalTaken.owner {v : List (Nat × Int)} (h : c.IntervalTaken g v e) (hg : g < 8) : e.recOwner g = c.recOwner g :=
  h.work.recOwner (fun _ hp => h.regs _ (prtStat_not_mem_detRegs hg hp)) g

/-- The delay lines of a group once an interval's voltage changes have entered. -/
def Chip.linesFed (c : Chip) (g : Nat) (wave : List VoltStep) : List (Nat × Int) × List (Int × Nat) :=
  c.feedLine g (c.lane g).tap wave (c.lane g).volts ((((c.lane g).tap : Int), c.receive g (c.lane g).volts) :: (c.lane g).line)

/-- The sample that an interval of a group on the internal clock gives. -/
structure Chip.IntervalSample (c : Chip) (g : Nat) (wave : List VoltStep) (age : Nat) (x : Smp) : Prop where
  ix : x.ix = (c.lane g).total
  word : x.word = alignedWord (c.channels g (c.dskRef g)) (c.linesFed g wave).2 (c.lane g).tap
  inst : x.inst = c.epc.line - age + c.taps (c.dskRef g)
  cyc : x.cyc = windowOf x.inst + c.trs.evalE
  drained : x.drained = true
  lost : x.lost = false

theorem headD_map_range {α : Type} (f : Nat → α) (d : α) {n : Nat} (h : 0 < n) : ((List.range n).map f).headD d = f 0 := by
  cases n with
  | zero => exact absurd h (Nat.lt_irrefl 0)
  | succ n => rw [List.range_succ_eq_map]; rfl

/-- An interval delivered to a group: the detectors take it in, and on the internal clock it gives a sample. -/
theorem doSampleDelivered_spec (c : Chip) (g : Nat) (wave : List VoltStep) (age : Nat) (hen : c.laneEn g = true) (hon : c.sampleOn = true) :
    ∃ e, c.IntervalTaken g (c.linesFed g wave).1 e ∧
      (c.laneCq g = false → ∃ x, c.IntervalSample g wave age x ∧ doSampleDelivered g wave age c = (e.pushSample g x).laneSettle g) ∧
      (c.laneCq g = true → doSampleDelivered g wave age c = (e.setLane g ((e.lane g).piped (drainFlow (e.lane g).pipe))).laneSettle g) := by
  unfold doSampleDelivered
  rw [if_pos (by rw [hen, hon]; rfl)]
  extract_lets l n ref r chs ws inst c1 d lane c2
  obtain ⟨hwork, hregs, a, b, k, m, w, n', hlane⟩ := c1.detect_spec g ((c.epc.time : Int) - age - l.ofs).toNat (windowOf inst) ws
  have hd : d = c1.detect g ((c.epc.time : Int) - age - l.ofs).toNat (windowOf inst) ws := rfl
  rw [← hd] at hwork hregs hlane
  rw [c.lane_setLane] at hlane
  have htaken : c.IntervalTaken g (c.linesFed g wave).1 d.1 := ⟨(Chip.LaneWork.setLane c g _).trans hwork, hregs, _, a, b, k, m, w, n', hlane⟩
  have hword : ws.headD 0 = alignedWord (c.channels g (c.dskRef g)) (c.linesFed g wave).2 (c.lane g).tap :=
    headD_map_range _ 0 (by omega)
  have hepc : d.1.epc = c.epc := htaken.work.epc
  have htrs : d.1.trs = c.trs := htaken.work.trs
  refine ⟨d.1, htaken, fun hcq => ⟨d.1.formSample g (ws.headD 0) ws inst age d.2 false, ⟨?_, hword, rfl, ?_, rfl, rfl⟩, ?_⟩, fun hcq => ?_⟩
  · change (d.1.lane g).total = _
    rw [hlane]
    rfl
  · change windowOf inst + d.1.trs.evalE = _
    rw [htrs]
    rfl
  · rw [show c2 = d.1.pushSample g (d.1.formSample g (ws.headD 0) ws inst age d.2 false) from if_neg (by rw [hcq]; exact Bool.false_ne_true)]
  · rw [show c2 = d.1.setLane g { d.1.lane g with pipe := drainFlow (d.1.lane g).pipe } from if_pos hcq]
    rfl

/-! ### The sample of a group that no partition records -/

/-- A lane with one sample more, which waits in the pipeline `q`. -/
def Lane.pushed (l : Lane) (x : Smp) (q : List Flow) : Lane := { l with total := l.total + 1, hist := (x :: l.hist).take 64, pipe := q }

theorem Chip.pushSample_of_unrecorded (h : c.recOwner g = none) (x : Smp) :
    c.pushSample g x = c.setLane g ((c.lane g).pushed x (c.lane g).pipe) := by
  unfold Chip.pushSample
  rw [h]
  rfl

theorem Chip.pushSample_of_recorded {p : Nat} (h : c.recOwner g = some p) (x : Smp) :
    c.pushSample g x = c.setLane g ((c.lane g).pushed x ((c.lane g).pipe ++ [.sample x])) := by
  unfold Chip.pushSample
  rw [h]
  rfl

/-- A sample of a group that no partition records only enters the group's history. -/
theorem Chip.sampleUnrecorded (h : c.recOwner g = none) (x : Smp) : c.LaneWork g ((c.pushSample g x).laneSettle g) ∧
    ((c.pushSample g x).laneSettle g).regs = c.regs ∧ ∃ q, ((c.pushSample g x).laneSettle g).lane g = (c.lane g).pushed x q := by
  rw [Chip.pushSample_of_unrecorded h]
  obtain ⟨hwork, hregs, q, hlane⟩ := (c.setLane g ((c.lane g).pushed x (c.lane g).pipe)).laneSettle_of_unrecorded (g := g) h
  rw [c.lane_setLane] at hlane
  exact ⟨(Chip.LaneWork.setLane c g _).trans hwork, hregs, q, hlane⟩

end

/-- The end of an interval of a group on the internal clock that no partition records. -/
theorem doSampleDelivered_unrecorded {c : Chip} {g : Nat} (wave : List VoltStep) (age : Nat) (hg : g < 8) (hen : c.laneEn g = true)
    (hon : c.sampleOn = true) (hcq : c.laneCq g = false) (howner : c.recOwner g = none) :
    ∃ d x l, doSampleDelivered g wave age c = d ∧ c.LaneWork g d ∧ c.keepsRegs d (detRegs g) ∧ c.IntervalSample g wave age x ∧
      d.lane g = l ∧ l.hist.head? = some x ∧ l.total = (c.lane g).total + 1 ∧ l.count = (c.lane g).count + 1 ∧
      l.tap = (c.lane g).tap + 64 * (c.laneDiv g + 1) ∧ l.volts = (c.linesFed g wave).1 := by
  obtain ⟨e, htaken, hclock, -⟩ := doSampleDelivered_spec c g wave age hen hon
  obtain ⟨x, hx, heq⟩ := hclock hcq
  obtain ⟨hwork, hregs, q, hlane⟩ := Chip.sampleUnrecorded ((htaken.owner hg).trans howner) x
  obtain ⟨_, _, _, _, _, _, _, htake⟩ := htaken.lane
  rw [htake] at hlane
  exact ⟨_, x, _, heq, htaken.work.trans hwork, fun a ha => (Chip.reg_congr hregs a).trans (htaken.regs a ha), hx, hlane, rfl, rfl, rfl, rfl, rfl⟩

/-! ### The word of a steady group (R67 to R69) -/

theorem bit_eq_testBit (m k : Nat) : bit m k = m.testBit k := (Nat.testBit_eq_decide_div_mod_eq).symm

theorem mask32_spec (f : Nat → Bool) : mask32 f < 2 ^ 32 ∧ ∀ k, k < 32 → bit (mask32 f) k = f k := by
  have hrange : ∀ n, (List.range n).foldl (fun m i => if f i then m + 2 ^ i else m) 0 < 2 ^ n ∧
      ∀ k, k < n → bit ((List.range n).foldl (fun m i => if f i then m + 2 ^ i else m) 0) k = f k := by
    intro n
    induction n with
    | zero => exact ⟨Nat.one_pos, fun _ hk => absurd hk (Nat.not_lt_zero _)⟩
    | succ n ih =>
      rw [List.range_succ, List.foldl_append]
      generalize (List.range n).foldl (fun m i => if f i then m + 2 ^ i else m) 0 = m at *
      obtain ⟨hlt, hbits⟩ := ih
      have htop : m.testBit n = false := Nat.testBit_lt_two_pow hlt
      simp only [List.foldl_cons, List.foldl_nil, bit_eq_testBit] at *
      refine ⟨by split <;> omega, fun k hk => ?_⟩
      rcases Nat.lt_succ_iff_lt_or_eq.1 hk with hkn | rfl
      · rw [← hbits k hkn]
        split
        · rw [Nat.add_comm, Nat.testBit_two_pow_add_gt hkn]
        · rfl
      · split
        next hf => rw [Nat.add_comm, Nat.testBit_two_pow_add_eq, htop, hf]; rfl
        next hf => rw [htop, Bool.eq_false_iff.2 hf]
  exact hrange 32

/-- A group word as the mask of its channels. -/
theorem alignedWord_eq_mask (c : Chip) (g ref : Nat) (l : List (Int × Nat)) (x : Int) : alignedWord (c.channels g ref) l x =
    mask32 (fun k => c.wflag (R.LG_CH_CFG g k) F.LG_CH_CFG_EN &&
      (bit (lineAt (x - ((c.dsk g k : Int) - ref)) l) k != c.wflag (R.LG_CH_CFG g k) F.LG_CH_CFG_INV)) := by
  unfold alignedWord Chip.channels mask32
  rw [List.foldl_map, List.foldl_filter]
  congr 1
  funext m k
  dsimp only
  by_cases hen : c.wflag (R.LG_CH_CFG g k) F.LG_CH_CFG_EN = true
  · simp only [hen, if_true, Bool.true_and]
  · simp only [Bool.eq_false_iff.2 hen, Bool.false_and, Bool.false_eq_true, if_false]

/-- With no voltage change and no channel delayed, each channel's bit is its comparison now. -/
theorem Chip.bit_steadyWord {c : Chip} {g : Nat}
    (h : ∀ k, k < 32 → c.wflag (R.LG_CH_CFG g k) F.LG_CH_CFG_EN = true → c.dsk g k = c.dskRef g) {k : Nat} (hk : k < 32) :
    bit (alignedWord (c.channels g (c.dskRef g)) (c.linesFed g []).2 (c.lane g).tap) k = (c.wflag (R.LG_CH_CFG g k) F.LG_CH_CFG_EN &&
      (decide (c.trimUv g k < SMap.get (fun _ => 0) (c.lane g).volts k) != c.wflag (R.LG_CH_CFG g k) F.LG_CH_CFG_INV)) := by
  rw [alignedWord_eq_mask, (mask32_spec _).2 k hk]
  cases hen : c.wflag (R.LG_CH_CFG g k) F.LG_CH_CFG_EN with
  | false => rfl
  | true =>
    have hline : lineAt (((c.lane g).tap : Int) - ((c.dsk g k : Int) - c.dskRef g)) (c.linesFed g []).2 = c.receive g (c.lane g).volts :=
      if_pos (by rw [h k hk hen]; omega)
    rw [hline, Chip.receive, (mask32_spec _).2 k hk]

end Sys2Proof.Machine
end

section
/-! A group's samples stored, the samples on a `CQ` clock, and the end of an overrun (R80 to R92, R468). -/

namespace Sys2Proof.Machine

/-! ### A sample in timing mode is stored (R80, R81) -/

/-- A group that its partition records in timing mode, with no gap, no sequencer and no correction waiting. -/
structure Chip.Timing (c : Chip) (g p : Nat) : Prop where
  owner : c.recOwner g = some p
  bound : c.boundSeq p = none
  endless : (c.part p).endStamp = none
  goes : (c.lane g).ended = false
  mode : c.laneMode g = 0
  gap : (c.lane g).gap = none
  gapCq : (c.lane g).gapCq = false
  closed : (c.lane g).closed = []
  ofs : bit c.epc.ofsWait g = false

section
variable {g p : Nat} {c : Chip} {x : Smp}

theorem Chip.flowReady_of_unbound (howner : c.recOwner g = some p) (hbound : c.boundSeq p = none) (hdrained : x.drained = true) :
    c.flowReady g (.sample x) = decide (x.cyc < c.lineCycle) := by
  simp only [Chip.flowReady, Chip.decided, howner, hbound, hdrained, Bool.true_or, Bool.true_and]

theorem Chip.storeSample_timing (h : c.Timing g p) (hlost : x.lost = false) : c.storeSample g p x = (c.storeWord g p x).1 := by
  have hpassed : c.passedOver g p = false := by rw [Chip.passedOver, h.mode]; rfl
  unfold Chip.storeSample
  rw [hpassed, hlost, h.gapCq, if_neg Bool.false_ne_true, if_neg Bool.false_ne_true, if_neg Bool.false_ne_true]
  dsimp only
  rw [Chip.boundary_of_ofs h.ofs, h.mode]
  rfl

/-- The only sample that waits is stored once its evaluation cycle has passed. -/
theorem Chip.laneSettle_timing (h : c.Timing g p) (hpipe : (c.lane g).pipe = [.sample x]) (hdrained : x.drained = true) (hlost : x.lost = false)
    (harm : (c.part p).armCycle < x.cyc) (hcyc : x.cyc < c.lineCycle) :
    c.laneSettle g = ((c.setLane g ((c.lane g).piped [])).storeWord g p x).1 := by
  have htiming : (c.setLane g ((c.lane g).piped [])).Timing g p := by
    refine ⟨h.owner, h.bound, h.endless, ?_, h.mode, ?_, ?_, ?_, h.ofs⟩ <;> rw [c.lane_setLane]
    exacts [h.goes, h.gap, h.gapCq, h.closed]
  have htake : (c.setLane g ((c.lane g).piped [])).takeFlow g (.sample x) = ((c.setLane g ((c.lane g).piped [])).storeWord g p x).1 := by
    have hpast : (c.setLane g ((c.lane g).piped [])).pastEnd p x.stamp = false := by rw [Chip.pastEnd, htiming.endless]
    unfold Chip.takeFlow
    rw [htiming.owner]
    dsimp only
    rw [htiming.goes, if_neg Bool.false_ne_true, if_neg (Nat.not_le.2 (show ((c.setLane g ((c.lane g).piped [])).part p).armCycle < x.cyc from harm)), hpast, if_neg Bool.false_ne_true,
      Chip.storeSample_timing htiming hlost]
  have hready : c.flowReady g (.sample x) = true := by
    rw [Chip.flowReady_of_unbound h.owner h.bound hdrained]
    exact decide_eq_true hcyc
  rw [Chip.laneSettle, hpipe]
  unfold Chip.settleGo
  rw [hpipe]
  dsimp only [List.length]
  rw [if_pos hready, ← htake]
  rfl

/-- A lane whose block in formation has one word more. -/
def Lane.wordAdded (l : Lane) (f : Forming) (x : Smp) : Lane :=
  { l with closed := [], forming := some (Forming.note { f with words := x.word :: f.words, count := f.count + 1 } x), fresh := false }

/-- A word that does not fill the block that takes it. -/
theorem Chip.storeWord_of_ensured {d : Chip} {f : Forming} (hensure : c.ensureBlock g x.stamp = (d, true)) (hclosed : (d.lane g).closed = [])
    (hforming : (d.lane g).forming = some f) (hcount : f.count + 1 < 4096) :
    d.LaneWork g (c.storeWord g p x).1 ∧ (c.storeWord g p x).1.lane g = (d.lane g).wordAdded f x := by
  have hlog : d.logGaps g p x.stamp = d.setLane g { d.lane g with closed := [] } := by
    rw [Chip.logGaps, hclosed]
    rfl
  unfold Chip.storeWord
  rw [hensure]
  dsimp only
  rw [if_pos rfl, hlog, d.lane_setLane]
  dsimp only
  rw [hforming]
  dsimp only
  have hfits : ¬(Forming.note { f with words := x.word :: f.words, count := f.count + 1 } x).count ≥ 4096 := Nat.not_le.2 hcount
  rw [if_neg hfits]
  exact ⟨(Chip.LaneWork.setLane d g _).trans (.setLane _ g _), Chip.lane_setLane _ g _⟩

theorem Lane.overrun_of_none {l : Lane} (h : l.gap = none) : l.overrun = false := by rw [Lane.overrun, h]; rfl

theorem Chip.ensureBlock_of_forming {t : Nat} (hgap : (c.lane g).gap = none) (hforming : (c.lane g).forming.isSome = true) :
    c.ensureBlock g t = (c, true) := by
  unfold Chip.ensureBlock
  dsimp only
  rw [Lane.overrun_of_none hgap, if_neg Bool.false_ne_true, if_pos hforming]

/-- The block that opens with a sample. -/
def Chip.opened (c : Chip) (g t : Nat) : Forming :=
  { s0 := t, pq := c.lanePq g, runStart := (c.lane g).runStart, seam := (c.lane g).afterStep }

theorem Chip.ensureBlock_opens {t : Nat} (hgap : (c.lane g).gap = none) (hforming : (c.lane g).forming = none) (hslots : c.slotsUsed g < 128) :
    c.ensureBlock g t = (c.putLane g { c.lane g with forming := some (c.opened g t), runStart := false, afterStep := false }, true) := by
  have hopen : c.openBlock g t = (c.putLane g { c.lane g with forming := some (c.opened g t), runStart := false, afterStep := false }, true) :=
    if_neg (Nat.not_le.2 hslots)
  unfold Chip.ensureBlock
  dsimp only
  rw [Lane.overrun_of_none hgap, if_neg Bool.false_ne_true, hforming, if_neg (by decide), hopen]
  rfl

/-- A word joins the block in formation. -/
theorem Chip.storeWord_joins {f : Forming} (hgap : (c.lane g).gap = none) (hclosed : (c.lane g).closed = []) (hforming : (c.lane g).forming = some f)
    (hcount : f.count + 1 < 4096) : c.LaneWork g (c.storeWord g p x).1 ∧ (c.storeWord g p x).1.lane g = (c.lane g).wordAdded f x :=
  Chip.storeWord_of_ensured (Chip.ensureBlock_of_forming hgap (by rw [hforming]; rfl)) hclosed hforming hcount

/-- A word opens a block where a slot is free. -/
theorem Chip.storeWord_opens (hgap : (c.lane g).gap = none) (hclosed : (c.lane g).closed = []) (hforming : (c.lane g).forming = none)
    (hslots : c.slotsUsed g < 128) : c.LaneWork g (c.storeWord g p x).1 ∧
      (c.storeWord g p x).1.lane g = ({ c.lane g with runStart := false, afterStep := false } : Lane).wordAdded (c.opened g x.stamp) x := by
  have hput := (c.putLane_spec g { c.lane g with forming := some (c.opened g x.stamp), runStart := false, afterStep := false }).1
  have hwork := Chip.LaneWork.putLane c g { c.lane g with forming := some (c.opened g x.stamp), runStart := false, afterStep := false }
  have hensure := Chip.ensureBlock_opens (t := x.stamp) hgap hforming hslots
  generalize c.putLane g { c.lane g with forming := some (c.opened g x.stamp), runStart := false, afterStep := false } = d at *
  obtain ⟨hstore, hlane⟩ := Chip.storeWord_of_ensured (p := p) hensure (by rw [hput]; exact hclosed) (by rw [hput]) (by decide : 0 + 1 < 4096)
  rw [hput] at hlane
  exact ⟨hwork.trans hstore, hlane⟩

end

/-- What an interval leaves of the lane as it is stored. -/
structure Lane.Unstored (l m : Lane) : Prop where
  forming : m.forming = l.forming
  staged : m.staged = l.staged
  codec : m.codec = l.codec
  pipe : m.pipe = l.pipe
  ended : m.ended = l.ended
  gap : m.gap = l.gap
  gapCq : m.gapCq = l.gapCq
  closed : m.closed = l.closed

theorem Chip.IntervalTaken.unstored {c e : Chip} {g : Nat} {v : List (Nat × Int)} (h : c.IntervalTaken g v e) : (c.lane g).Unstored (e.lane g) := by
  obtain ⟨_, _, _, _, _, _, _, hlane⟩ := h.lane
  rw [hlane]
  exact ⟨rfl, rfl, rfl, rfl, rfl, rfl, rfl, rfl⟩

/-- A recorded group in timing mode takes its interval's sample and stores its word. -/
theorem doSampleDelivered_timing {c : Chip} {g p : Nat} (wave : List VoltStep) (age : Nat) (hg : g < 8) (hen : c.laneEn g = true)
    (hon : c.sampleOn = true) (hcq : c.laneCq g = false) (h : c.Timing g p) (hpipe : (c.lane g).pipe = [])
    (harm : (c.part p).armCycle < windowOf (c.epc.line - age + c.taps (c.dskRef g)) + c.trs.evalE)
    (hcyc : windowOf (c.epc.line - age + c.taps (c.dskRef g)) + c.trs.evalE < c.lineCycle) :
    ∃ e x, c.LaneWork g e ∧ c.IntervalSample g wave age x ∧ (c.lane g).Unstored (e.lane g) ∧
      doSampleDelivered g wave age c = (e.storeWord g p x).1 := by
  obtain ⟨e, htaken, hclock, -⟩ := doSampleDelivered_spec c g wave age hen hon
  obtain ⟨x, hx, heq⟩ := hclock hcq
  have hwork := htaken.work
  obtain ⟨uforming, ustaged, ucodec, upipe, uended, ugap, ugapCq, uclosed⟩ := htaken.unstored
  have howner : e.recOwner g = some p := (htaken.owner hg).trans h.owner
  have hxcyc : x.cyc = windowOf (c.epc.line - age + c.taps (c.dskRef g)) + c.trs.evalE := by rw [hx.cyc, hx.inst]
  rw [Chip.pushSample_of_recorded howner, upipe, hpipe, List.nil_append] at heq
  obtain ⟨d, hd⟩ : ∃ d, d = e.setLane g ((e.lane g).pushed x [.sample x]) := ⟨_, rfl⟩
  have hdlane : d.lane g = (e.lane g).pushed x [.sample x] := by rw [hd, e.lane_setLane]
  have hdwork : c.LaneWork g d := hd ▸ hwork.trans (.setLane e g _)
  have hdregs : ∀ q, q < 16 → d.reg (R.PRT_STAT q) = c.reg (R.PRT_STAT q) := fun q hq => by
    rw [hd]
    exact htaken.regs _ (prtStat_not_mem_detRegs hg hq)
  have hdt : d.Timing g p := ⟨(hdwork.recOwner hdregs g).trans h.owner, (hdwork.boundSeq p).trans h.bound,
    by rw [Chip.part_congr hdwork.parts]; exact h.endless, by rw [hdlane]; exact uended.trans h.goes, (hdwork.laneMode g).trans h.mode,
    by rw [hdlane]; exact ugap.trans h.gap, by rw [hdlane]; exact ugapCq.trans h.gapCq, by rw [hdlane]; exact uclosed.trans h.closed,
    by rw [hdwork.epc]; exact h.ofs⟩
  rw [← hd, Chip.laneSettle_timing hdt (by rw [hdlane]; rfl) hx.drained hx.lost (by rw [Chip.part_congr hdwork.parts, hxcyc]; exact harm)
    (by rw [Chip.lineCycle, hdwork.epc, hxcyc]; exact hcyc), hdlane] at heq
  refine ⟨_, x, hdwork.trans (.setLane d g _), hx, ?_, heq⟩
  rw [d.lane_setLane]
  exact ⟨uforming, ustaged, ucodec, hpipe.symm, uended, ugap, ugapCq, uclosed⟩

/-! ### Samples on a `CQ` clock (R82, R83, R84) -/

section
variable {g : Nat} {c : Chip}

/-- A head that may not be taken keeps everything waiting. -/
theorem Chip.laneSettle_of_waiting {f : Flow} {rest : List Flow} (hpipe : (c.lane g).pipe = f :: rest) (h : c.flowReady g f = false) :
    c.laneSettle g = c := by
  rw [Chip.laneSettle, hpipe]
  unfold Chip.settleGo
  rw [hpipe]
  dsimp only [List.length]
  rw [h, if_neg Bool.false_ne_true]

theorem Chip.flowReady_of_undrained {y : Smp} (hd : y.drained = false) (hl : y.lost = false) : c.flowReady g (.sample y) = false := by
  simp only [Chip.flowReady, hd, hl, Bool.or_self, Bool.false_and]

/-- The word that an accepted edge takes. -/
def Chip.cqWord (c : Chip) (g : Nat) (wave : List VoltStep) : Nat :=
  alignedWord (c.channels g 0) (c.feedLine g 0 wave (c.lane g).volts [(-1024, c.receive g (c.lane g).volts)]).2
    (c.wfld (R.LG_STATE g) F.LG_STATE_CQ_DLY)

/-- The sample of an accepted edge. -/
structure Chip.EdgeSample (c : Chip) (g : Nat) (wave : List VoltStep) (age : Nat) (full : Bool) (x : Smp) : Prop where
  ix : x.ix = (c.lane g).total
  word : x.word = c.cqWord g wave
  inst : x.inst = c.epc.line - age + c.taps (c.wfld (R.LG_STATE g) F.LG_STATE_CQ_DLY)
  cyc : x.cyc = windowOf x.inst + c.trs.evalE
  drained : x.drained = false
  lost : x.lost = full

/-- The elastic buffer of a recorded group has no room. -/
def Chip.elasticFull (c : Chip) (g : Nat) : Bool := (c.recOwner g).isSome && !(c.lane g).ended && decide ((c.lane g).elastic ≥ 64)

/-- A word lost for want of room is counted. -/
def Chip.overrateNoted (c : Chip) (g : Nat) (full : Bool) : Chip := if full then (c.addCnt (R.LG_CQ_OVR g) 1).raise (Ev.cqOverrate g) else c

theorem doCqEdgeAccepted_accepted {pin levels : Nat} {rise : Bool} (wave : List VoltStep) (age : Nat) (hen : c.laneEn g = true)
    (hcq : c.laneCq g = true) (hon : c.sampleOn = true) (hacc : c.cqAccepts g pin rise levels = true) :
    ∃ x, c.EdgeSample g wave age (c.elasticFull g) x ∧
      doCqEdgeAccepted g pin rise levels wave age c = ((c.overrateNoted g (c.elasticFull g)).pushSample g x).laneSettle g := by
  unfold doCqEdgeAccepted
  rw [if_pos (by rw [hen, hcq, hon, hacc]; rfl)]
  extract_lets l dly w x full c1
  have hnoted : c1 = c.overrateNoted g (c.elasticFull g) := rfl
  have hword : w = c.cqWord g wave := rfl
  have hfull : full = c.elasticFull g := rfl
  have hx : x.ix = (c.lane g).total ∧ x.word = w ∧ x.inst = c.epc.line - age + c.taps dly ∧ x.cyc = windowOf x.inst + c.trs.evalE ∧
      x.drained = false := ⟨rfl, rfl, rfl, rfl, rfl⟩
  clear_value c1 x w full
  obtain ⟨hix, hw, hinst, hcyc, hdrained⟩ := hx
  rw [← hnoted, ← hfull]
  exact ⟨{ x with lost := full }, ⟨hix, hw.trans hword, hinst, hcyc, hdrained, rfl⟩, rfl⟩

theorem doCqEdgeAccepted_refused {pin levels : Nat} {rise : Bool} (wave : List VoltStep) (age : Nat)
    (h : c.cqAccepts g pin rise levels = false) : doCqEdgeAccepted g pin rise levels wave age c = c :=
  if_neg (by rw [h, Bool.and_false]; exact Bool.false_ne_true)

/-- A recorded group's sample waits behind a word of the elastic buffer. -/
theorem Chip.pushSample_waits {p : Nat} {y : Smp} {rest : List Flow} (howner : c.recOwner g = some p) (hpipe : (c.lane g).pipe = .sample y :: rest)
    (hd : y.drained = false) (hl : y.lost = false) (x : Smp) :
    (c.pushSample g x).laneSettle g = c.setLane g ((c.lane g).pushed x ((c.lane g).pipe ++ [.sample x])) := by
  rw [Chip.pushSample_of_recorded howner]
  refine Chip.laneSettle_of_waiting (f := .sample y) (rest := rest ++ [.sample x]) ?_ (Chip.flowReady_of_undrained hd hl)
  rw [c.lane_setLane, hpipe]
  rfl

/-- A word lost in the elastic buffer's overrun is counted and raises its event. -/
theorem Chip.overrateNoted_spec (c : Chip) {g : Nat} (hg : g < 8) : c.EventsOnly (c.overrateNoted g true) ∧
    (∀ p, p < 16 → (c.overrateNoted g true).reg (R.PRT_STAT p) = c.reg (R.PRT_STAT p)) ∧
    (c.overrateNoted g true).reg (R.LG_CQ_OVR g) = c.reg (R.LG_CQ_OVR g) + 1 ∧
    bit ((c.overrateNoted g true).rn (R.EVT_STAT (Ev.cqOverrate g).1)) (Ev.cqOverrate g).2 = true := by
  have hlow : ∀ a, a < 0x580000 → a ∉ eventRegs (Ev.cqOverrate g) := fun a ha => not_mem_eventRegs_of_lt ha _
  rw [show c.overrateNoted g true = (c.addCnt (R.LG_CQ_OVR g) 1).raise (Ev.cqOverrate g) from if_pos rfl]
  refine ⟨(Chip.EventsOnly.addCnt c _ 1).trans (.raise _ _), fun p hp => ?_, ?_, Chip.bit_rn_raise _ (by omega) (by omega) (by decide)⟩
  · exact (Chip.reg_raise_ne _ _ (hlow _ (by rw [R.PRT_STAT]; omega))).trans (c.reg_addCnt_ne 1 (by rw [R.PRT_STAT, R.LG_CQ_OVR]; omega))
  · exact (Chip.reg_raise_ne _ _ (hlow _ (by rw [R.LG_CQ_OVR]; omega))).trans (c.reg_addCnt_one _)

end

/-! ### The end of an overrun (R91) -/

/-- A lane whose open gap has closed. -/
def Lane.gapClosed (l : Lane) (x : Gap) : Lane := { l with gap := none, closed := l.closed ++ [x], gapCq := false, fresh := true, prevStored := false }

theorem Chip.closeGap_overrun {c : Chip} {g : Nat} {x : Gap} (hg : g < 8) (hgap : (c.lane g).gap = some x) (hcause : x.cause = 1) :
    c.LaneWork g (c.closeGap g) ∧ (c.closeGap g).lane g = (c.lane g).gapClosed x ∧
      (c.closeGap g).flag (R.LG_STAT g) F.LG_STAT_OVERRUN = false ∧ (c.closeGap g).reg (R.LG_OVR_CNT g) = c.reg (R.LG_OVR_CNT g) + 1 ∧
      (c.closeGap g).rn (R.LG_OVR_LOST g) = satAdd 32 (c.rn (R.LG_OVR_LOST g)) x.lost ∧
      bit ((c.closeGap g).rn (R.EVT_STAT (12 + g))) 0 = true := by
  have heq : c.closeGap g = ((((c.setLane g ((c.lane g).gapClosed x)).setFlag (R.LG_STAT g) F.LG_STAT_OVERRUN false).addCnt
      (R.LG_OVR_CNT g) 1).addSat (R.LG_OVR_LOST g) x.lost).raise (Ev.overrun g) := by
    unfold Chip.closeGap
    dsimp only
    rw [hgap]
    exact if_pos hcause
  obtain ⟨d, hd⟩ : ∃ d, d = c.setLane g ((c.lane g).gapClosed x) := ⟨_, rfl⟩
  have hdwork : c.LaneWork g d := hd ▸ .setLane c g _
  have hdlane : d.lane g = (c.lane g).gapClosed x := by rw [hd, c.lane_setLane]
  have hdreg : ∀ a, d.reg a = c.reg a := fun a => by rw [hd]; rfl
  rw [← hd] at heq
  have hlow : ∀ a, a < 0x580000 → a ∉ eventRegs (Ev.overrun g) := fun a ha => not_mem_eventRegs_of_lt ha _
  have hstat : R.LG_STAT g < 0x580000 ∧ R.LG_STAT g ≠ R.LG_OVR_CNT g ∧ R.LG_STAT g ≠ R.LG_OVR_LOST g := by
    rw [R.LG_STAT, R.LG_OVR_CNT, R.LG_OVR_LOST]; omega
  have hcnt : R.LG_OVR_CNT g < 0x580000 ∧ R.LG_OVR_CNT g ≠ R.LG_OVR_LOST g := by rw [R.LG_OVR_CNT, R.LG_OVR_LOST]; omega
  have hlost : R.LG_OVR_LOST g < 0x580000 ∧ satAdd 32 (c.rn (R.LG_OVR_LOST g)) x.lost < 2 ^ 32 := by
    rw [R.LG_OVR_LOST, satAdd]; omega
  have hevents : d.EventsOnly (c.closeGap g) := by
    rw [heq]
    exact (((Chip.EventsOnly.setFld d _ _ _).trans (.addCnt _ _ _)).trans (.setN _ _ _)).trans (.raise _ _)
  refine ⟨hdwork.trans (.of_events g hevents), (Chip.lane_congr hevents.lanes g).trans hdlane, ?_, ?_, ?_, ?_⟩
  · rw [heq, Chip.flag_congr (Chip.reg_raise_ne _ _ (hlow _ hstat.1)), Chip.flag_congr (Chip.reg_addSat_ne _ _ hstat.2.2),
      Chip.flag_congr (Chip.reg_addCnt_ne _ _ hstat.2.1), Chip.flag_setFlag _ _ F.LG_STAT_OVERRUN _ (by decide) rfl]
  · rw [heq, Chip.reg_raise_ne _ _ (hlow _ hcnt.1), Chip.reg_addSat_ne _ _ hcnt.2, Chip.reg_addCnt_one,
      Chip.reg_setFlag_ne _ _ _ hstat.2.1.symm, hdreg]
  · have hsame : (((d.setFlag (R.LG_STAT g) F.LG_STAT_OVERRUN false).addCnt (R.LG_OVR_CNT g) 1).rn (R.LG_OVR_LOST g)) = c.rn (R.LG_OVR_LOST g) :=
      Chip.rn_congr (((Chip.reg_addCnt_ne _ _ hcnt.2.symm).trans (Chip.reg_setFlag_ne _ _ _ hstat.2.2.symm)).trans (hdreg _))
    rw [heq, Chip.rn_congr (Chip.reg_raise_ne _ _ (hlow _ hlost.1)), Chip.addSat, hsame, Chip.rn_setN]
    exact Nat.mod_eq_of_lt hlost.2
  · rw [heq]
    exact Chip.bit_rn_raise _ (by omega) (by omega) (by decide)

theorem doOverrunGapEnd_free {c : Chip} {g : Nat} {x : Gap} (hgap : (c.lane g).gap = some x) (hcause : x.cause = 1)
    (hpipe : (c.lane g).pipe = []) (hslots : (c.lane g).gapCq = false → c.slotsUsed g < 128) : doOverrunGapEnd g c = c.closeGap g := by
  have hover : (c.lane g).overrun = true := by
    rw [Lane.overrun, hgap]
    exact decide_eq_true hcause
  have hroom : (if (c.lane g).gapCq then decide ((c.lane g).elastic < 64) && !(c.lane g).lostWaits else decide (c.slotsUsed g < 128)) = true := by
    cases hcq : (c.lane g).gapCq
    · exact decide_eq_true (hslots hcq)
    · rw [if_pos rfl, Lane.elastic, Lane.lostWaits, hpipe]
      rfl
  unfold doOverrunGapEnd
  rw [Chip.laneSettle_of_empty hpipe]
  dsimp only
  rw [hover, hroom]
  rfl

/-! ### The statement's clauses -/

section
variable {s : State} {g : Nat}

theorem exec_sampleDelivered (hwork : s.chip.atWork = true) (hg : g < 8) {age : Nat} (hage : age < 2 ^ 64) {wave : List VoltStep}
    (hwave : waveWf 0 wave = true) : exec (.sampleDelivered g wave age) s = .next (s.after (doSampleDelivered g wave age s.chip)) :=
  State.act_of_atWork (i := .sampleDelivered g wave age) hwork
    (show (Instr.sampleDelivered g wave age).wf = true by simp only [Instr.wf, hg, hage, hwave, decide_true, Bool.and_self]) _

theorem exec_cqEdgeAccepted (hwork : s.chip.atWork = true) (hg : g < 8) {pin levels age : Nat} (hpin : pin < 16) (hlevels : levels < 65536)
    (hage : age < 2 ^ 64) (rise : Bool) {wave : List VoltStep} (hwave : waveWf (-1024) wave = true) :
    exec (.cqEdgeAccepted g pin rise levels wave age) s = .next (s.after (doCqEdgeAccepted g pin rise levels wave age s.chip)) :=
  State.act_of_atWork (i := .cqEdgeAccepted g pin rise levels wave age) hwork
    (show (Instr.cqEdgeAccepted g pin rise levels wave age).wf = true by
      simp only [Instr.wf, hg, hpin, hlevels, hage, hwave, decide_true, Bool.and_self]) _

/-- Work on a lane demands nothing. -/
theorem Chip.LaneWork.undemanded {d : Chip} (h : s.chip.LaneWork g d) (hwork : s.chip.atWork = true) : d.fatal = none ∧ d.resetReq = false :=
  ⟨h.demands.1.trans (Chip.fatal_of_atWork hwork), h.demands.2.trans (Chip.resetReq_of_atWork hwork)⟩

theorem completes_sampleDelivered_clocked (hwork : s.chip.atWork = true) (hg : g < 8) {age : Nat} (hage : age < 2 ^ 64) {wave : List VoltStep}
    (hwave : waveWf 0 wave = true) (hen : s.chip.laneEn g = true) (hon : s.chip.sampleOn = true) (hcq : s.chip.laneCq g = false)
    (howner : s.chip.recOwner g = none) :
    Completes (.sampleDelivered g wave age) s (fun c => s.chip.LaneWork g c ∧ s.chip.keepsRegs c (detRegs g) ∧
      (∃ x, (c.lane g).hist.head? = some x ∧ s.chip.IntervalSample g wave age x) ∧ (c.lane g).total = (s.chip.lane g).total + 1 ∧
      (c.lane g).count = (s.chip.lane g).count + 1 ∧ (c.lane g).tap = (s.chip.lane g).tap + 64 * (s.chip.laneDiv g + 1) ∧
      (c.lane g).volts = (s.chip.linesFed g wave).1) := by
  have hexec := exec_sampleDelivered hwork hg hage hwave
  obtain ⟨d, x, l, heq, hlane, hregs, hx, hl, hhist, htotal, hcount, htap, hvolts⟩ :=
    doSampleDelivered_unrecorded wave age hg hen hon hcq howner
  rw [heq] at hexec
  obtain ⟨hfatal, hreset⟩ := hlane.undemanded hwork
  rw [← hl] at hhist htotal hcount htap hvolts
  exact .of_exec hexec hfatal hreset ⟨hlane, hregs, ⟨x, hhist, hx⟩, htotal, hcount, htap, hvolts⟩

theorem completes_sampleDelivered_joins {p : Nat} (hwork : s.chip.atWork = true) (hg : g < 8) {age : Nat} (hage : age < 2 ^ 64)
    {wave : List VoltStep} (hwave : waveWf 0 wave = true) (hen : s.chip.laneEn g = true) (hon : s.chip.sampleOn = true)
    (hcq : s.chip.laneCq g = false) (h : s.chip.Timing g p) (hpipe : (s.chip.lane g).pipe = [])
    (harm : (s.chip.part p).armCycle < windowOf (s.chip.epc.line - age + s.chip.taps (s.chip.dskRef g)) + s.chip.trs.evalE)
    (hcyc : windowOf (s.chip.epc.line - age + s.chip.taps (s.chip.dskRef g)) + s.chip.trs.evalE < s.chip.lineCycle) :
    (∀ f, (s.chip.lane g).forming = some f → f.count + 1 < 4096 →
      Completes (.sampleDelivered g wave age) s (fun c => (c.lane g).pipe = [] ∧ ∃ x, s.chip.IntervalSample g wave age x ∧
        (c.lane g).forming = some (Forming.note { f with words := x.word :: f.words, count := f.count + 1 } x))) ∧
    ((s.chip.lane g).forming = none → s.chip.slotsUsed g < 128 →
      Completes (.sampleDelivered g wave age) s (fun c => (c.lane g).pipe = [] ∧ ∃ x, ∃ f : Forming, s.chip.IntervalSample g wave age x ∧
        f.words = [] ∧ f.count = 0 ∧ f.pq = s.chip.lanePq g ∧
        (c.lane g).forming = some (Forming.note { f with words := x.word :: f.words, count := f.count + 1 } x))) := by
  have hexec := exec_sampleDelivered hwork hg hage hwave
  obtain ⟨e, x, hlane, hx, ⟨uforming, ustaged, ucodec, upipe, -, ugap, -, uclosed⟩, heq⟩ :=
    doSampleDelivered_timing wave age hg hen hon hcq h hpipe harm hcyc
  rw [heq] at hexec
  refine ⟨fun f hf hcount => ?_, fun hnone hslots => ?_⟩
  · obtain ⟨hstore, hstored⟩ := Chip.storeWord_joins (p := p) (x := x) (ugap.trans h.gap) (uclosed.trans h.closed) (uforming.trans hf) hcount
    obtain ⟨hfatal, hreset⟩ := (hlane.trans hstore).undemanded hwork
    refine .of_exec hexec hfatal hreset ⟨?_, x, hx, ?_⟩
    · rw [hstored]
      exact upipe.trans hpipe
    · rw [hstored]
      rfl
  · have hused : e.slotsUsed g = s.chip.slotsUsed g := by
      rw [Chip.slotsUsed, Chip.slotsUsed, ustaged, ucodec, uforming, hlane.cycle]
    obtain ⟨hstore, hstored⟩ := Chip.storeWord_opens (p := p) (x := x) (ugap.trans h.gap) (uclosed.trans h.closed) (uforming.trans hnone)
      (hused ▸ hslots)
    obtain ⟨hfatal, hreset⟩ := (hlane.trans hstore).undemanded hwork
    refine .of_exec hexec hfatal hreset ⟨?_, x, e.opened g x.stamp, hx, rfl, rfl, hlane.lanePq g, ?_⟩
    · rw [hstored]
      exact upipe.trans hpipe
    · rw [hstored]
      rfl

/-- An accepted edge of a group that no partition records. -/
theorem completes_cqEdge_unrecorded (hwork : s.chip.atWork = true) (hg : g < 8) {pin levels age : Nat} (hpin : pin < 16)
    (hlevels : levels < 65536) (hage : age < 2 ^ 64) (rise : Bool) {wave : List VoltStep} (hwave : waveWf (-1024) wave = true)
    (hen : s.chip.laneEn g = true) (hon : s.chip.sampleOn = true) (hcq : s.chip.laneCq g = true)
    (hacc : s.chip.cqAccepts g pin rise levels = true) (howner : s.chip.recOwner g = none) :
    Completes (.cqEdgeAccepted g pin rise levels wave age) s (fun c =>
      (∃ x, (c.lane g).hist.head? = some x ∧ s.chip.EdgeSample g wave age false x) ∧ (c.lane g).total = (s.chip.lane g).total + 1 ∧
      c.regs = s.chip.regs ∧ s.chip.keepsMem c) := by
  have hexec := exec_cqEdgeAccepted hwork hg hpin hlevels hage rise hwave
  have hroom : s.chip.elasticFull g = false := by rw [Chip.elasticFull, howner]; rfl
  obtain ⟨x, hx, heq⟩ := doCqEdgeAccepted_accepted wave age hen hcq hon hacc
  rw [hroom] at hx heq
  rw [heq, show s.chip.overrateNoted g false = s.chip from rfl] at hexec
  obtain ⟨hlane, hregs, q, hpushed⟩ := Chip.sampleUnrecorded howner x
  obtain ⟨hfatal, hreset⟩ := hlane.undemanded hwork
  exact .of_exec hexec hfatal hreset ⟨⟨x, by rw [hpushed]; rfl, hx⟩, by rw [hpushed]; rfl, hregs, hlane.keepsMem⟩

/-- An accepted edge of a recorded group, behind a word in the elastic buffer. -/
theorem completes_cqEdge_recorded (hwork : s.chip.atWork = true) (hg : g < 8) {pin levels age : Nat} (hpin : pin < 16)
    (hlevels : levels < 65536) (hage : age < 2 ^ 64) (rise : Bool) {wave : List VoltStep} (hwave : waveWf (-1024) wave = true)
    (hen : s.chip.laneEn g = true) (hon : s.chip.sampleOn = true) (hcq : s.chip.laneCq g = true)
    (hacc : s.chip.cqAccepts g pin rise levels = true) {p : Nat} (howner : s.chip.recOwner g = some p) (hgoes : (s.chip.lane g).ended = false)
    {y : Smp} {rest : List Flow} (hpipe : (s.chip.lane g).pipe = .sample y :: rest) (hd : y.drained = false) (hl : y.lost = false) :
    ((s.chip.lane g).elastic < 64 → Completes (.cqEdgeAccepted g pin rise levels wave age) s (fun c => ∃ x,
      (c.lane g).pipe = (s.chip.lane g).pipe ++ [.sample x] ∧ s.chip.EdgeSample g wave age false x ∧ c.regs = s.chip.regs)) ∧
    (64 ≤ (s.chip.lane g).elastic → Completes (.cqEdgeAccepted g pin rise levels wave age) s (fun c =>
      (∃ x, (c.lane g).pipe = (s.chip.lane g).pipe ++ [.sample x] ∧ x.lost = true) ∧
      c.reg (R.LG_CQ_OVR g) = s.chip.reg (R.LG_CQ_OVR g) + 1 ∧ bit (c.rn (R.EVT_STAT (Ev.cqOverrate g).1)) (Ev.cqOverrate g).2 = true)) := by
  have hexec := exec_cqEdgeAccepted hwork hg hpin hlevels hage rise hwave
  obtain ⟨x, hx, heq⟩ := doCqEdgeAccepted_accepted wave age hen hcq hon hacc
  have hfull : s.chip.elasticFull g = decide ((s.chip.lane g).elastic ≥ 64) := by rw [Chip.elasticFull, howner, hgoes]; rfl
  refine ⟨fun hroom => ?_, fun hnone => ?_⟩
  · rw [hfull, decide_eq_false (Nat.not_le.2 hroom)] at hx heq
    rw [show s.chip.overrateNoted g false = s.chip from rfl, Chip.pushSample_waits howner hpipe hd hl] at heq
    rw [heq] at hexec
    have hlane := Chip.LaneWork.setLane s.chip g ((s.chip.lane g).pushed x ((s.chip.lane g).pipe ++ [.sample x]))
    obtain ⟨hfatal, hreset⟩ := hlane.undemanded hwork
    exact .of_exec hexec hfatal hreset ⟨x, by rw [Chip.lane_setLane]; rfl, hx, rfl⟩
  · rw [hfull, decide_eq_true hnone] at hx heq
    obtain ⟨hevents, hstat, hcount, hraised⟩ := s.chip.overrateNoted_spec hg
    have hnoted := Chip.LaneWork.of_events g hevents
    have hlanes := Chip.lane_congr hevents.lanes g
    generalize s.chip.overrateNoted g true = d at *
    rw [Chip.pushSample_waits ((hnoted.recOwner hstat g).trans howner) ((congrArg Lane.pipe hlanes).trans hpipe) hd hl] at heq
    rw [heq] at hexec
    obtain ⟨hfatal, hreset⟩ := (hnoted.trans (.setLane d g ((d.lane g).pushed x ((d.lane g).pipe ++ [.sample x])))).undemanded hwork
    exact .of_exec hexec hfatal hreset ⟨⟨x, by rw [Chip.lane_setLane, hlanes]; rfl, hx.lost⟩, hcount, hraised⟩

/-- A tick of a group on a `CQ` clock. -/
theorem completes_sampleDelivered_tick (hwork : s.chip.atWork = true) (hg : g < 8) {age : Nat} (hage : age < 2 ^ 64)
    (hen : s.chip.laneEn g = true) (hon : s.chip.sampleOn = true) (hcq : s.chip.laneCq g = true) :
    (s.chip.recOwner g = none → (s.chip.lane g).pipe = [] → Completes (.sampleDelivered g [] age) s (fun c =>
      (c.lane g).total = (s.chip.lane g).total ∧ (c.lane g).hist = (s.chip.lane g).hist ∧ (c.lane g).pipe = [] ∧
      (c.lane g).count = (s.chip.lane g).count + 1)) ∧
    (∀ p y rest, s.chip.recOwner g = some p → s.chip.boundSeq p = none → (s.chip.lane g).pipe = .sample y :: rest → y.drained = false →
      y.lost = false → s.chip.lineCycle ≤ y.cyc → Completes (.sampleDelivered g [] age) s (fun c =>
        (c.lane g).total = (s.chip.lane g).total ∧ (c.lane g).pipe = .sample { y with drained := true } :: rest ∧
        (c.lane g).count = (s.chip.lane g).count + 1)) := by
  have hexec := exec_sampleDelivered (wave := []) hwork hg hage rfl
  obtain ⟨e, htaken, -, htick⟩ := doSampleDelivered_spec s.chip g [] age hen hon
  rw [htick hcq] at hexec
  have hepipe := htaken.unstored.pipe
  have howner := htaken.owner hg
  obtain ⟨_, _, _, _, _, _, _, hlane⟩ := htaken.lane
  obtain ⟨d, hd⟩ : ∃ d, d = e.setLane g ((e.lane g).piped (drainFlow (e.lane g).pipe)) := ⟨_, rfl⟩
  have hwork' : s.chip.LaneWork g d := hd ▸ htaken.work.trans (.setLane e g _)
  have hdowner : d.recOwner g = s.chip.recOwner g := by rw [hd]; exact howner
  have hdlane : d.lane g = (e.lane g).piped (drainFlow (s.chip.lane g).pipe) := by rw [hd, e.lane_setLane, hepipe]
  rw [← hd] at hexec
  obtain ⟨hfatal, hreset⟩ := hwork'.undemanded hwork
  refine ⟨fun _ hpipe => ?_, fun p y rest hrec hbound hpipe hdrained hlost hcyc => ?_⟩
  · rw [hpipe] at hdlane
    rw [Chip.laneSettle_of_empty (by rw [hdlane]; rfl)] at hexec
    exact .of_exec hexec hfatal hreset (by rw [hdlane, hlane]; exact ⟨rfl, rfl, rfl, rfl⟩)
  · have hdrain : drainFlow (s.chip.lane g).pipe = .sample { y with drained := true } :: rest := by
      rw [hpipe]
      exact if_pos (by rw [hdrained, hlost]; rfl)
    rw [hdrain] at hdlane
    have hwaits : d.flowReady g (.sample { y with drained := true }) = false := by
      rw [Chip.flowReady_of_unbound (hdowner.trans hrec) ((hwork'.boundSeq p).trans hbound) rfl, Chip.lineCycle, hwork'.epc]
      exact decide_eq_false (Nat.not_lt.2 hcyc)
    rw [Chip.laneSettle_of_waiting (by rw [hdlane]; rfl) hwaits] at hexec
    exact .of_exec hexec hfatal hreset (by rw [hdlane, hlane]; exact ⟨rfl, rfl, rfl⟩)

end

/-- Settles O28: an interval's or an edge's sample is pushed and settled as far as it is decided, and the gap of an overrun closes. -/
theorem samplesDelivered : Obligations.SamplesDelivered := by
  refine ⟨?_, ?_, ?_, ?_, ?_⟩
  · intro s g wave age hwork hg hage hwave hen hon hcq howner l r
    obtain ⟨c, hexec, hfatal, hreset, hlane, hregs, ⟨x, hhead, hx⟩, htotal, hcount, htap, hvolts⟩ :=
      completes_sampleDelivered_clocked hwork hg hage hwave hen hon hcq howner
    exact ⟨c, hexec, hfatal, hreset, ⟨x, hhead, hx.ix, hx.inst, hx.cyc, hx.word⟩, htotal, hcount, htap, hvolts, hlane.others, hregs, hlane.keepsMem⟩
  · intro s g age hwork hg hage hen hon hcq howner hsteady
    obtain ⟨c, hexec, hfatal, hreset, -, -, ⟨x, hhead, hx⟩, -⟩ :=
      completes_sampleDelivered_clocked (wave := []) hwork hg hage rfl hen hon hcq howner
    refine ⟨c, hexec, hfatal, hreset, x, hhead, ?_, fun k hk => ?_⟩
    · rw [hx.word, alignedWord_eq_mask]
      exact (mask32_spec _).1
    · rw [hx.word, Chip.bit_steadyWord hsteady hk]
  · intro s g p age wave hwork hg hage hwave hen hon hcq hmode howner hbound hend hgoes hpipe hgap hgapCq hclosed hofs harm hcyc l w
    obtain ⟨hjoins, hopens⟩ := completes_sampleDelivered_joins hwork hg hage hwave hen hon hcq
      ⟨howner, hbound, hend, hgoes, hmode, hgap, hgapCq, hclosed, hofs⟩ hpipe harm hcyc
    refine ⟨fun f hf hcount => ?_, fun hnone hslots => ?_⟩
    · obtain ⟨c, hexec, hfatal, hreset, hempty, x, hx, hforming⟩ := hjoins f hf hcount
      exact ⟨c, hexec, hfatal, hreset, hempty, _, hforming, congrArg (· :: f.words) hx.word, rfl, rfl⟩
    · obtain ⟨c, hexec, hfatal, hreset, hempty, x, f, hx, hwords, hzero, hpq, hforming⟩ := hopens hnone hslots
      refine ⟨c, hexec, hfatal, hreset, hempty, _, hforming, ?_, congrArg (· + 1) hzero, hpq⟩
      change x.word :: f.words = _
      rw [hwords, hx.word]
      rfl
  · intro s g pin levels age rise wave hwork hg hpin hlevels hage hwave hen hon hcq l dly w
    obtain ⟨htick, hdrain⟩ := completes_sampleDelivered_tick hwork hg hage hen hon hcq
    refine ⟨fun hacc howner => ?_, fun p y rest hacc howner hgoes hpipe hd hl hroom => ?_, fun p y rest hacc howner hgoes hpipe hd hl hfull => ?_,
      fun hacc => ?_, htick, hdrain⟩
    · obtain ⟨c, hexec, hfatal, hreset, ⟨x, hhead, hx⟩, htotal, hregs, hmem⟩ :=
        completes_cqEdge_unrecorded hwork hg hpin hlevels hage rise hwave hen hon hcq hacc howner
      exact ⟨c, hexec, hfatal, hreset, x, hhead, hx.word, hx.ix, hx.inst, hx.cyc, htotal, hregs, hmem⟩
    · obtain ⟨c, hexec, hfatal, hreset, x, hwaits, hx, hregs⟩ :=
        (completes_cqEdge_recorded hwork hg hpin hlevels hage rise hwave hen hon hcq hacc howner hgoes hpipe hd hl).1 hroom
      exact ⟨c, hexec, hfatal, hreset, x, hwaits, hx.word, hx.drained, hx.lost, hregs⟩
    · exact (completes_cqEdge_recorded hwork hg hpin hlevels hage rise hwave hen hon hcq hacc howner hgoes hpipe hd hl).2 hfull
    · rw [exec_cqEdgeAccepted hwork hg hpin hlevels hage rise hwave, doCqEdgeAccepted_refused wave age hacc]
  · intro s g x hwork hg hgap hcause hpipe hslots
    have hexec := State.act_of_atWork (i := .overrunGapEnd g) hwork (decide_eq_true hg) (doOverrunGapEnd g)
    rw [doOverrunGapEnd_free hgap hcause hpipe hslots] at hexec
    obtain ⟨hlane, hclosed, hflag, hcnt, hlost, hraised⟩ := Chip.closeGap_overrun hg hgap hcause
    obtain ⟨hfatal, hreset⟩ := hlane.undemanded hwork
    exact .of_exec hexec hfatal hreset ⟨by rw [hclosed]; rfl, by rw [hclosed]; rfl, by rw [hclosed]; rfl, hflag, hcnt, hlost, hraised, hlane.keepsMem⟩

end Sys2Proof.Machine
end
